-- ==== Sys2Proof/Word.lean ====
section
/-! DEFINITION. The word types of the machine and their plainest arithmetic. -/

namespace Sys2Proof

/-- A byte, the smallest addressable unit (R2). -/
abbrev Byte := BitVec 8

/-- A general register's 64 bits (R27, R80). -/
abbrev Word := BitVec 64

/-- A 256-bit vector register, strip, link word or payload flit (R27, R170). -/
abbrev Strip := BitVec 256

/-- A core address: [28:15] package, [14:12] die, [11:6] y, [5:0] x (R170). -/
abbrev CoreAddr := BitVec 29

/-- Sparse bytes by address; an unlisted address reads as zero (R43). -/
abbrev Memory := List Host.Cell

end Sys2Proof
end

