-- ==== Sys2Proof/Machine/Bits.lean ====
section
/-! DEFINITION. Bit fields, sign extension, byte order and the lane-type tables: helpers every layer above uses. -/

namespace Sys2Proof.Machine

/-- The field of `n` bits that begins at bit `lo` (R1, R23 `bits`). -/
def fld {w : Nat} (x : BitVec w) (lo n : Nat) : BitVec n := x.extractLsb' lo n

/-- One bit of a value. -/
def bit {w : Nat} (x : BitVec w) (i : Nat) : Bool := x.getLsbD i

/-- `x` with the field of `n` bits at `lo` replaced by `v`. -/
def setFld {w n : Nat} (x : BitVec w) (lo : Nat) (v : BitVec n) : BitVec w :=
  (x &&& ~~~((BitVec.allOnes n).setWidth w <<< lo)) ||| (v.setWidth w <<< lo)

/-- R23 `sext(x)`: sign extension to 64 bits. -/
def sext {w : Nat} (x : BitVec w) : Word := x.signExtend 64

/-- R23 `zext(x)`: zero extension to 64 bits. -/
def zext {w : Nat} (x : BitVec w) : Word := x.setWidth 64

/-- A truth value as a 64-bit 0 or 1 (R81 `slt` and its like). -/
def boolWord (b : Bool) : Word := if b then 1 else 0

/-- The bits of a value that the first condition selects are all zero (a zero field of a layout, R56 and its like). -/
def zeroBits {w : Nat} (x : BitVec w) (lo n : Nat) : Bool := fld x lo n == 0

/-- Little-endian value of a list of bytes, the first at the lowest address (R2). -/
def leNat : List Byte → Nat
  | [] => 0
  | b :: bs => b.toNat + 256 * leNat bs

/-- The `n` low bytes of a value in address order (R2). -/
def leBytes : Nat → Nat → List Byte
  | 0, _ => []
  | n + 1, x => BitVec.ofNat 8 x :: leBytes n (x / 256)

/-- The type code of a lane (R15), as form V holds it. -/
abbrev TypeCode := BitVec 4

/-- Lane width in bits by type code (R15); codes 12 to 15 name no type and are refused at decode (R54). -/
def laneWidth (t : TypeCode) : Nat :=
  match t.toNat with
  | 0 => 32
  | 1 => 64
  | 2 => 16
  | 3 => 16
  | 4 => 32
  | 5 => 64
  | 6 => 16
  | 7 => 8
  | 8 => 32
  | 9 => 64
  | 10 => 16
  | _ => 8

/-- Lanes of a 256-bit register by type code (R15). -/
def laneCount (t : TypeCode) : Nat := 256 / laneWidth t

/-- Codes 0 to 3 are the floating types (R15). -/
def isFloat (t : TypeCode) : Bool := t.toNat < 4

/-- Codes 4 to 11 are the integer types (R15). -/
def isInt (t : TypeCode) : Bool := 4 ≤ t.toNat && t.toNat < 12

/-- Codes 4 to 7 are the signed integer types (R109). -/
def isSigned (t : TypeCode) : Bool := 4 ≤ t.toNat && t.toNat < 8

/-- Lanes of the `ft` field of `vdec` and `venc` (R118): 0 FP32, 1 FP64, 2 BF16, 3 FP16. -/
def ftLanes (ft : BitVec 2) : Nat := laneCount (ft.setWidth 4)

/-- Channels that only a class-S slot names in a send: 0 to 15 and 248 to 251 (R174). -/
def sysChannel (ch : BitVec 8) : Bool := ch.toNat < 16 || (248 ≤ ch.toNat && ch.toNat < 252)

/-- Channels of a tenant: 16 to 247. -/
def userChannel (ch : BitVec 8) : Bool := 16 ≤ ch.toNat && ch.toNat < 248

end Sys2Proof.Machine
end

