-- ==== Sys2Proof/Syntax.lean ====
section
/-! DEFINITION. The syntax of the machine: one constructor of `Instr` for each row of spec/opcode_table.json.
The first 253 rows are instructions with an encoding (spec/03_formats_opcode_map.md R44 to R60 and the owning
chapters); their fields are the fields of the encoding, under the opcode table's letters. The last 103 rows are the
part's EVENTS (spec/95_what_each_step_holds.md): steps that the dispatcher, a unit, an engine, the network or the
host takes. They have no bits and no fields: what one of them acts on beside the state (the source core of the message that arrives,
a port, the host's command) stands in the state's event operand, `State.ev`. -/

namespace Sys2Proof

/-- The instructions and events of the FN-TY9648: one constructor per row of the opcode table. -/
inductive Instr where
  /-- `ADD` (R81). Writes the 64-bit wrapping sum of two general registers. -/
  | add (d a b : BitVec 5)
  /-- `SUB` (R81). Writes the 64-bit wrapping difference of two general registers. -/
  | sub (d a b : BitVec 5)
  /-- `AND` (R81). Writes the bitwise AND of two general registers. -/
  | and (d a b : BitVec 5)
  /-- `OR` (R81). Writes the bitwise OR of two general registers. -/
  | or (d a b : BitVec 5)
  /-- `XOR` (R81). Writes the bitwise XOR of two general registers. -/
  | xor (d a b : BitVec 5)
  /-- `ANDN` (R81). Writes a AND NOT b. -/
  | andn (d a b : BitVec 5)
  /-- `SLL` (R81). Shifts a left by the low six bits of b. -/
  | sll (d a b : BitVec 5)
  /-- `SRL` (R81). Shifts a right logically by the low six bits of b. -/
  | srl (d a b : BitVec 5)
  /-- `SRA` (R81). Shifts a right arithmetically by the low six bits of b. -/
  | sra (d a b : BitVec 5)
  /-- `ROR` (R81). Rotates a right by the low six bits of b. -/
  | ror (d a b : BitVec 5)
  /-- `SLT` (R81). Writes 1 if a is below b as signed values, else 0. -/
  | slt (d a b : BitVec 5)
  /-- `SLTU` (R81). Writes 1 if a is below b as unsigned values, else 0. -/
  | sltu (d a b : BitVec 5)
  /-- `MIN` (R81). Writes the signed lesser of a and b. -/
  | min (d a b : BitVec 5)
  /-- `MAX` (R81). Writes the signed greater of a and b. -/
  | max (d a b : BitVec 5)
  /-- `MINU` (R81). Writes the unsigned lesser of a and b. -/
  | minu (d a b : BitVec 5)
  /-- `MAXU` (R81). Writes the unsigned greater of a and b. -/
  | maxu (d a b : BitVec 5)
  /-- `MUL` (R81). Writes the low 64 bits of a times b. -/
  | mul (d a b : BitVec 5)
  /-- `MHI` (R81). Writes the high 64 bits of the signed product. -/
  | mhi (d a b : BitVec 5)
  /-- `MHIU` (R81). Writes the high 64 bits of the unsigned product. -/
  | mhiu (d a b : BitVec 5)
  /-- `MHISU` (R81). Writes the high 64 bits of signed a times unsigned b. -/
  | mhisu (d a b : BitVec 5)
  /-- `DIV` (R82). Writes the signed truncated quotient, saturating and never trapping. -/
  | div (d a b : BitVec 5)
  /-- `DIVU` (R82). Writes the unsigned truncated quotient, saturating on division by zero. -/
  | divu (d a b : BitVec 5)
  /-- `REM` (R82). Writes the signed remainder with the sign of the dividend. -/
  | rem (d a b : BitVec 5)
  /-- `REMU` (R82). Writes the unsigned remainder. -/
  | remu (d a b : BitVec 5)
  /-- `CLZ` (R81). Writes the count of leading zero bits of a. -/
  | clz (d a : BitVec 5)
  /-- `CTZ` (R81). Writes the count of trailing zero bits of a. -/
  | ctz (d a : BitVec 5)
  /-- `POPC` (R81). Writes the count of one bits of a. -/
  | popc (d a : BitVec 5)
  /-- `BSWAP` (R81). Writes a with its eight bytes reversed. -/
  | bswap (d a : BitVec 5)
  /-- `SXW` (R81). Sign-extends the low word of a. -/
  | sxw (d a : BitVec 5)
  /-- `ZXW` (R81). Zero-extends the low word of a. -/
  | zxw (d a : BitVec 5)
  /-- `ADDI` (R83). Adds a sign-extended 15-bit immediate to a register. -/
  | addi (d a : BitVec 5) (i : BitVec 15)
  /-- `ANDI` (R83). ANDs a register with a sign-extended immediate. -/
  | andi (d a : BitVec 5) (i : BitVec 15)
  /-- `ORI` (R83). ORs a register with a sign-extended immediate. -/
  | ori (d a : BitVec 5) (i : BitVec 15)
  /-- `XORI` (R83). XORs a register with a sign-extended immediate. -/
  | xori (d a : BitVec 5) (i : BitVec 15)
  /-- `SLLI` (R84). Shifts a register left by an immediate count. -/
  | slli (d a : BitVec 5) (s : BitVec 6)
  /-- `SRLI` (R84). Shifts a register right logically by an immediate count. -/
  | srli (d a : BitVec 5) (s : BitVec 6)
  /-- `SRAI` (R84). Shifts a register right arithmetically by an immediate count. -/
  | srai (d a : BitVec 5) (s : BitVec 6)
  /-- `RORI` (R84). Rotates a register right by an immediate count. -/
  | rori (d a : BitVec 5) (s : BitVec 6)
  /-- `SLTI` (R85). Writes 1 if the register is below the signed immediate. -/
  | slti (d a : BitVec 5) (i : BitVec 14)
  /-- `SLTIU` (R85). Writes 1 if the register is below the sign-extended immediate as unsigned. -/
  | sltiu (d a : BitVec 5) (i : BitVec 14)
  /-- `LI` (R86). Writes a sign-extended 19-bit immediate. -/
  | li (d : BitVec 5) (i : BitVec 19)
  /-- `LIH` (R86). Replaces one 16-bit field of a register with an immediate. -/
  | lih (d : BitVec 5) (p : BitVec 2) (i : BitVec 16)
  /-- `LDB` (R87). Loads a sign-extended byte from local or instruction memory. -/
  | ldb (d b : BitVec 5) (o : BitVec 12)
  /-- `LDH` (R87). Loads a sign-extended halfword. -/
  | ldh (d b : BitVec 5) (o : BitVec 12)
  /-- `LDW` (R87). Loads a sign-extended word. -/
  | ldw (d b : BitVec 5) (o : BitVec 12)
  /-- `LDD` (R87). Loads a doubleword. -/
  | ldd (d b : BitVec 5) (o : BitVec 12)
  /-- `LDBU` (R87). Loads a zero-extended byte. -/
  | ldbu (d b : BitVec 5) (o : BitVec 12)
  /-- `LDHU` (R87). Loads a zero-extended halfword. -/
  | ldhu (d b : BitVec 5) (o : BitVec 12)
  /-- `LDWU` (R87). Loads a zero-extended word. -/
  | ldwu (d b : BitVec 5) (o : BitVec 12)
  /-- `STB` (R88). Stores a byte to local memory under the key slot. -/
  | stb (d b : BitVec 5) (o : BitVec 12)
  /-- `STH` (R88). Stores a halfword to local memory. -/
  | sth (d b : BitVec 5) (o : BitVec 12)
  /-- `STW` (R88). Stores a word to local memory. -/
  | stw (d b : BitVec 5) (o : BitVec 12)
  /-- `STD` (R88). Stores a doubleword to local memory. -/
  | std (d b : BitVec 5) (o : BitVec 12)
  /-- `VLD` (R103). Loads 32 B into a v register. -/
  | vld (d b : BitVec 5) (o : BitVec 12)
  /-- `VLDH` (R103). Loads 16 B into the low half of a v register and zeroes the rest. -/
  | vldh (d b : BitVec 5) (o : BitVec 12)
  /-- `VST` (R103). Stores 32 B from a v register. -/
  | vst (d b : BitVec 5) (o : BitVec 12)
  /-- `VSTH` (R103). Stores the low 16 B of a v register. -/
  | vsth (d b : BitVec 5) (o : BitVec 12)
  /-- `LDP` (R89). Loads one granule into two consecutive general registers. -/
  | ldp (d b : BitVec 5) (o : BitVec 12)
  /-- `STP` (R89). Stores two consecutive general registers to one granule. -/
  | stp (d b : BitVec 5) (o : BitVec 12)
  /-- `BEQ` (R90). Branches when two registers are equal. -/
  | beq (a b : BitVec 5) (o : BitVec 12)
  /-- `BNE` (R90). Branches when two registers differ. -/
  | bne (a b : BitVec 5) (o : BitVec 12)
  /-- `BLT` (R90). Branches on signed less-than. -/
  | blt (a b : BitVec 5) (o : BitVec 12)
  /-- `BGE` (R90). Branches on signed greater-or-equal. -/
  | bge (a b : BitVec 5) (o : BitVec 12)
  /-- `BLTU` (R90). Branches on unsigned less-than. -/
  | bltu (a b : BitVec 5) (o : BitVec 12)
  /-- `BGEU` (R90). Branches on unsigned greater-or-equal. -/
  | bgeu (a b : BitVec 5) (o : BitVec 12)
  /-- `J` (R91). Jumps to a PC-relative target. -/
  | j (o : BitVec 24)
  /-- `JAL` (R91). Writes the return address to g31 and jumps. -/
  | jal (o : BitVec 24)
  /-- `JR` (R92). Jumps to a register plus an offset. -/
  | jr (a : BitVec 5) (i : BitVec 15)
  /-- `JALR` (R92). Jumps to a register plus an offset and writes the return address to g31. -/
  | jalr (a : BitVec 5) (i : BitVec 15)
  /-- `LOOP` (R94). Starts a hardware loop counted by a register. -/
  | loop (a : BitVec 5) (l : BitVec 12)
  /-- `LOOPI` (R94). Starts a hardware loop counted by an immediate. -/
  | loopi (c l : BitVec 12)
  /-- `TRAP` (R96). Raises TRAPINST with the immediate as value. -/
  | trap (i : BitVec 10)
  /-- `CRD` (R97). Reads a control register into a general register, waiting where the register requires. -/
  | crd (d : BitVec 5) (c : BitVec 10)
  /-- `CWR` (R97). Writes a control register from a general register. -/
  | cwr (a : BitVec 5) (c : BitVec 10)
  /-- `CINS` (R97). Inserts the masked bits of a source into a control register. -/
  | cins (a b : BitVec 5) (c : BitVec 10)
  /-- `CXCH` (R97). Exchanges a control register with a general register. -/
  | cxch (a d : BitVec 5) (c : BitVec 10)
  /-- `CRDZ` (R97). Reads a control register and clears it in one step. -/
  | crdz (d : BitVec 5) (c : BitVec 10)
  /-- `GLD` (R204). Sends a remote load to the home of a global address, with an optional reply channel. -/
  | gld (l : BitVec 1) (s : BitVec 2) (a b : BitVec 5) (p : BitVec 1) (c : BitVec 8) (x : BitVec 1)
  /-- `GST` (R204). Sends a remote store to the home of a global address. -/
  | gst (l : BitVec 1) (s : BitVec 2) (a b : BitVec 5) (p : BitVec 1)
  /-- `PUT` (R206). Moves up to 256 B from near memory to a global range. -/
  | put (l p : BitVec 1) (a b c : BitVec 5)
  /-- `PUTR` (R206). Puts to a global range and has each home send a relay call. -/
  | putr (l p : BitVec 1) (a b c : BitVec 5)
  /-- `GET` (R206). Fetches up to 4 KiB from a global range into near memory. -/
  | get (l p : BitVec 1) (a b c : BitVec 5)
  /-- `AADD` (R207). Remote atomic add at the home. -/
  | aadd (r l p : BitVec 1) (a b : BitVec 5) (c : BitVec 8)
  /-- `AAND` (R207). Remote atomic AND. -/
  | aand (r l p : BitVec 1) (a b : BitVec 5) (c : BitVec 8)
  /-- `AOR` (R207). Remote atomic OR. -/
  | aor (r l p : BitVec 1) (a b : BitVec 5) (c : BitVec 8)
  /-- `AXOR` (R207). Remote atomic XOR. -/
  | axor (r l p : BitVec 1) (a b : BitVec 5) (c : BitVec 8)
  /-- `AMIN` (R207). Remote atomic signed minimum. -/
  | amin (r l p : BitVec 1) (a b : BitVec 5) (c : BitVec 8)
  /-- `AMAX` (R207). Remote atomic signed maximum. -/
  | amax (r l p : BitVec 1) (a b : BitVec 5) (c : BitVec 8)
  /-- `AMINU` (R207). Remote atomic unsigned minimum. -/
  | aminu (r l p : BitVec 1) (a b : BitVec 5) (c : BitVec 8)
  /-- `AMAXU` (R207). Remote atomic unsigned maximum. -/
  | amaxu (r l p : BitVec 1) (a b : BitVec 5) (c : BitVec 8)
  /-- `ASWAP` (R207). Remote atomic swap. -/
  | aswap (r l p : BitVec 1) (a b : BitVec 5) (c : BitVec 8)
  /-- `ACAS` (R207). Remote atomic compare-and-swap. -/
  | acas (r l p : BitVec 1) (a b : BitVec 5) (c : BitVec 8)
  /-- `AFADD` (R207). Remote atomic FP64 add rounded by RNE. -/
  | afadd (r l p : BitVec 1) (a b : BitVec 5) (c : BitVec 8)
  /-- `SEND` (R174). Sends a call, or a system message from a class-S slot. -/
  | send (l : BitVec 1) (a v : BitVec 5) (n : BitVec 4) (c : BitVec 8)
  /-- `SENDP` (R174). Sends a put-kind message whose payload is written at the destination. -/
  | sendp (l : BitVec 1) (a v : BitVec 5) (n : BitVec 4) (c : BitVec 8)
  /-- `SENDM` (R176). Sends one call to every core of a rectangle. -/
  | sendm (l : BitVec 1) (a v : BitVec 5) (n : BitVec 4) (c : BitVec 8)
  /-- `REPLY` (R174). Sends a reply-kind message. -/
  | reply (l : BitVec 1) (a v : BitVec 5) (n : BitVec 4) (c : BitVec 8)
  /-- `CHMASK` (R180). Sets a channel mask bit. -/
  | chmask (c : BitVec 8)
  /-- `CHUNMASK` (R180). Clears a channel mask bit. -/
  | chunmask (c : BitVec 8)
  /-- `CHTAS` (R181). Reads and sets a channel mask bit as one step. -/
  | chtas (d : BitVec 5) (c : BitVec 8)
  /-- `JDEC` (R182). Sends a decrement to a join record at its home. -/
  | jdec (l : BitVec 1) (a : BitVec 5) (n : BitVec 8)
  /-- `BARM` (R183). Binds a channel to a barrier record. -/
  | barm (b : BitVec 5) (c : BitVec 8)
  /-- `BDIS` (R180). Removes a channel's barrier binding. -/
  | bdis (c : BitVec 8)
  /-- `LWIN` (R187). Sets the send window of a link port. -/
  | lwin (p : BitVec 2) (n : BitVec 4)
  /-- `LSTAT` (R187). Reads a link port's status. -/
  | lstat (p : BitVec 2) (d : BitVec 5)
  /-- `SBIND` (R225). Binds a stream register to a copy of a tensor map. -/
  | sbind (s t : BitVec 3)
  /-- `SDROP` (R225). Unbinds a stream register. -/
  | sdrop (s : BitVec 3)
  /-- `SSTAT` (R228). Reads a stream register's status. -/
  | sstat (s : BitVec 3) (d : BitVec 5)
  /-- `TMLD` (R116). Reads and checks a tensor-map record into a tm register. -/
  | tmld (t : BitVec 3) (a : BitVec 5) (o : BitVec 12)
  /-- `TMBASE` (R116). Sets the base of a tm register. -/
  | tmbase (t : BitVec 3) (a : BitVec 5)
  /-- `TMCNT` (R116). Sets one dimension count of a tm register. -/
  | tmcnt (t : BitVec 3) (a : BitVec 5) (d : BitVec 2)
  /-- `CHK` (R309). Checks the next near access against a region and raises BOUNDS on failure. -/
  | chk (r : BitVec 10)
  /-- `CHKE` (R309). Elided check that acts as chk only in audit mode. -/
  | chke (r : BitVec 10)
  /-- `CHKG` (R309). Checks the ownership of the next global access's region. -/
  | chkg (a : BitVec 5)
  /-- `VADD` (R106). Floating lane-wise add, rounded once by frm. -/
  | vadd (d a : BitVec 3) (l : BitVec 1) (b : BitVec 3) (m : BitVec 1) (k : BitVec 2) (t : BitVec 4)
  /-- `VSUB` (R106). Floating lane-wise subtract. -/
  | vsub (d a : BitVec 3) (l : BitVec 1) (b : BitVec 3) (m : BitVec 1) (k : BitVec 2) (t : BitVec 4)
  /-- `VMUL` (R106). Floating lane-wise multiply. -/
  | vmul (d a : BitVec 3) (l : BitVec 1) (b : BitVec 3) (m : BitVec 1) (k : BitVec 2) (t : BitVec 4)
  /-- `VDIV` (R106). Floating lane-wise divide. -/
  | vdiv (d a : BitVec 3) (l : BitVec 1) (b : BitVec 3) (m : BitVec 1) (k : BitVec 2) (t : BitVec 4)
  /-- `VSQRT` (R106). Floating lane-wise square root. -/
  | vsqrt (d a : BitVec 3) (l : BitVec 1) (k : BitVec 2) (t : BitVec 4)
  /-- `VFMA` (R106). Fused multiply-add, one rounding. -/
  | vfma (d a : BitVec 3) (l : BitVec 1) (b : BitVec 3) (m : BitVec 1) (c : BitVec 3) (n : BitVec 1) (k : BitVec 2) (t : BitVec 4)
  /-- `VFMS` (R106). Fused multiply-subtract. -/
  | vfms (d a : BitVec 3) (l : BitVec 1) (b : BitVec 3) (m : BitVec 1) (c : BitVec 3) (n : BitVec 1) (k : BitVec 2) (t : BitVec 4)
  /-- `VFNMA` (R106). Negated fused multiply-add. -/
  | vfnma (d a : BitVec 3) (l : BitVec 1) (b : BitVec 3) (m : BitVec 1) (c : BitVec 3) (n : BitVec 1) (k : BitVec 2) (t : BitVec 4)
  /-- `VMIN` (R106). Floating lane-wise minimum. -/
  | vmin (d a : BitVec 3) (l : BitVec 1) (b : BitVec 3) (m : BitVec 1) (k : BitVec 2) (t : BitVec 4)
  /-- `VMAX` (R106). Floating lane-wise maximum. -/
  | vmax (d a : BitVec 3) (l : BitVec 1) (b : BitVec 3) (m : BitVec 1) (k : BitVec 2) (t : BitVec 4)
  /-- `VABS` (R106). Floating lane-wise absolute value. -/
  | vabs (d a : BitVec 3) (l : BitVec 1) (k : BitVec 2) (t : BitVec 4)
  /-- `VNEG` (R106). Floating lane-wise negation. -/
  | vneg (d a : BitVec 3) (l : BitVec 1) (k : BitVec 2) (t : BitVec 4)
  /-- `VFEQ` (R107). Floating equality compare into a mask register. -/
  | vfeq (e : BitVec 2) (a : BitVec 3) (l : BitVec 1) (b : BitVec 3) (m : BitVec 1) (k : BitVec 2) (t : BitVec 4)
  /-- `VFLT` (R107). Floating less-than compare into a mask register. -/
  | vflt (e : BitVec 2) (a : BitVec 3) (l : BitVec 1) (b : BitVec 3) (m : BitVec 1) (k : BitVec 2) (t : BitVec 4)
  /-- `VFLE` (R107). Floating less-or-equal compare into a mask register. -/
  | vfle (e : BitVec 2) (a : BitVec 3) (l : BitVec 1) (b : BitVec 3) (m : BitVec 1) (k : BitVec 2) (t : BitVec 4)
  /-- `VFCLASS` (R107). Writes a one-hot class code per lane. -/
  | vfclass (d a : BitVec 3) (l : BitVec 1) (k : BitVec 2) (t : BitVec 4)
  /-- `VCVT` (R108). Converts lanes between equal-width types. -/
  | vcvt (d a : BitVec 3) (l : BitVec 1) (s : BitVec 4) (k : BitVec 2) (t : BitVec 4)
  /-- `VCVTL` (R108). Widens the low lanes of the source. -/
  | vcvtl (d a : BitVec 3) (l : BitVec 1) (s : BitVec 4) (k : BitVec 2) (t : BitVec 4)
  /-- `VCVTH` (R108). Widens the high lanes of the source. -/
  | vcvth (d a : BitVec 3) (l : BitVec 1) (s : BitVec 4) (k : BitVec 2) (t : BitVec 4)
  /-- `VCVTN` (R108). Narrows two sources into one register. -/
  | vcvtn (d a : BitVec 3) (l : BitVec 1) (b : BitVec 3) (m : BitVec 1) (s : BitVec 4) (k : BitVec 2) (t : BitVec 4)
  /-- `VADD_INT` (R109). Integer lane-wise add. -/
  | vaddInt (d a : BitVec 3) (l : BitVec 1) (b : BitVec 3) (m : BitVec 1) (k : BitVec 2) (t : BitVec 4)
  /-- `VSUB_INT` (R109). Integer lane-wise subtract. -/
  | vsubInt (d a : BitVec 3) (l : BitVec 1) (b : BitVec 3) (m : BitVec 1) (k : BitVec 2) (t : BitVec 4)
  /-- `VMUL_INT` (R109). Integer lane-wise low product. -/
  | vmulInt (d a : BitVec 3) (l : BitVec 1) (b : BitVec 3) (m : BitVec 1) (k : BitVec 2) (t : BitVec 4)
  /-- `VMULH` (R109). Integer lane-wise high product. -/
  | vmulh (d a : BitVec 3) (l : BitVec 1) (b : BitVec 3) (m : BitVec 1) (k : BitVec 2) (t : BitVec 4)
  /-- `VAND` (R109). Lane-wise AND. -/
  | vand (d a : BitVec 3) (l : BitVec 1) (b : BitVec 3) (m : BitVec 1) (k : BitVec 2) (t : BitVec 4)
  /-- `VOR` (R109). Lane-wise OR. -/
  | vor (d a : BitVec 3) (l : BitVec 1) (b : BitVec 3) (m : BitVec 1) (k : BitVec 2) (t : BitVec 4)
  /-- `VXOR` (R109). Lane-wise XOR. -/
  | vxor (d a : BitVec 3) (l : BitVec 1) (b : BitVec 3) (m : BitVec 1) (k : BitVec 2) (t : BitVec 4)
  /-- `VSLL` (R109). Lane-wise shift left. -/
  | vsll (d a : BitVec 3) (l : BitVec 1) (b : BitVec 3) (m : BitVec 1) (k : BitVec 2) (t : BitVec 4)
  /-- `VSRL` (R109). Lane-wise logical shift right. -/
  | vsrl (d a : BitVec 3) (l : BitVec 1) (b : BitVec 3) (m : BitVec 1) (k : BitVec 2) (t : BitVec 4)
  /-- `VSRA` (R109). Lane-wise arithmetic shift right. -/
  | vsra (d a : BitVec 3) (l : BitVec 1) (b : BitVec 3) (m : BitVec 1) (k : BitVec 2) (t : BitVec 4)
  /-- `VMIN_INT` (R109). Integer lane-wise minimum. -/
  | vminInt (d a : BitVec 3) (l : BitVec 1) (b : BitVec 3) (m : BitVec 1) (k : BitVec 2) (t : BitVec 4)
  /-- `VMAX_INT` (R109). Integer lane-wise maximum. -/
  | vmaxInt (d a : BitVec 3) (l : BitVec 1) (b : BitVec 3) (m : BitVec 1) (k : BitVec 2) (t : BitVec 4)
  /-- `VADDS` (R109). Saturating lane-wise add. -/
  | vadds (d a : BitVec 3) (l : BitVec 1) (b : BitVec 3) (m : BitVec 1) (k : BitVec 2) (t : BitVec 4)
  /-- `VSUBS` (R109). Saturating lane-wise subtract. -/
  | vsubs (d a : BitVec 3) (l : BitVec 1) (b : BitVec 3) (m : BitVec 1) (k : BitVec 2) (t : BitVec 4)
  /-- `VABSD` (R109). Lane-wise absolute difference. -/
  | vabsd (d a : BitVec 3) (l : BitVec 1) (b : BitVec 3) (m : BitVec 1) (k : BitVec 2) (t : BitVec 4)
  /-- `VMADD` (R109). Lane-wise integer multiply-add. -/
  | vmadd (d a : BitVec 3) (l : BitVec 1) (b : BitVec 3) (m : BitVec 1) (c : BitVec 3) (n : BitVec 1) (k : BitVec 2) (t : BitVec 4)
  /-- `VCEQ` (R110). Integer equality compare into a mask. -/
  | vceq (e : BitVec 2) (a : BitVec 3) (l : BitVec 1) (b : BitVec 3) (m : BitVec 1) (k : BitVec 2) (t : BitVec 4)
  /-- `VCLT` (R110). Integer less-than compare into a mask. -/
  | vclt (e : BitVec 2) (a : BitVec 3) (l : BitVec 1) (b : BitVec 3) (m : BitVec 1) (k : BitVec 2) (t : BitVec 4)
  /-- `VCLE` (R110). Integer less-or-equal compare into a mask. -/
  | vcle (e : BitVec 2) (a : BitVec 3) (l : BitVec 1) (b : BitVec 3) (m : BitVec 1) (k : BitVec 2) (t : BitVec 4)
  /-- `VSEL` (R110). Selects lanes of two sources by a mask, moving bits. -/
  | vsel (d a : BitVec 3) (l : BitVec 1) (b : BitVec 3) (m : BitVec 1) (k : BitVec 2) (t : BitVec 4)
  /-- `KAND` (R110). ANDs two mask registers. -/
  | kand (e g h : BitVec 2)
  /-- `KOR` (R110). ORs two mask registers. -/
  | kor (e g h : BitVec 2)
  /-- `KXOR` (R110). XORs two mask registers. -/
  | kxor (e g h : BitVec 2)
  /-- `KNOT` (R110). Inverts a mask register. -/
  | knot (e g : BitVec 2)
  /-- `VPERM` (R111). Permutes lanes by an index register. -/
  | vperm (d a : BitVec 3) (l : BitVec 1) (b : BitVec 3) (m : BitVec 1) (k : BitVec 2) (t : BitVec 4)
  /-- `VBCAST` (R111). Broadcasts one indexed lane. -/
  | vbcast (d a : BitVec 3) (l : BitVec 1) (b : BitVec 3) (m : BitVec 1) (k : BitVec 2) (t : BitVec 4)
  /-- `VREV` (R111). Reverses lane order. -/
  | vrev (d a : BitVec 3) (l : BitVec 1) (k : BitVec 2) (t : BitVec 4)
  /-- `VZIPL` (R111). Interleaves the low lanes of two sources. -/
  | vzipl (d a : BitVec 3) (l : BitVec 1) (b : BitVec 3) (m : BitVec 1) (k : BitVec 2) (t : BitVec 4)
  /-- `VZIPH` (R111). Interleaves the high lanes of two sources. -/
  | vziph (d a : BitVec 3) (l : BitVec 1) (b : BitVec 3) (m : BitVec 1) (k : BitVec 2) (t : BitVec 4)
  /-- `VUZPE` (R111). Takes the even lanes of two sources. -/
  | vuzpe (d a : BitVec 3) (l : BitVec 1) (b : BitVec 3) (m : BitVec 1) (k : BitVec 2) (t : BitVec 4)
  /-- `VUZPO` (R111). Takes the odd lanes of two sources. -/
  | vuzpo (d a : BitVec 3) (l : BitVec 1) (b : BitVec 3) (m : BitVec 1) (k : BitVec 2) (t : BitVec 4)
  /-- `VRSUM` (R112). Tree sum of lanes into lane 0. -/
  | vrsum (d a : BitVec 3) (l : BitVec 1) (k : BitVec 2) (t : BitVec 4)
  /-- `VRMIN` (R112). Tree minimum of lanes. -/
  | vrmin (d a : BitVec 3) (l : BitVec 1) (k : BitVec 2) (t : BitVec 4)
  /-- `VRMAX` (R112). Tree maximum of lanes. -/
  | vrmax (d a : BitVec 3) (l : BitVec 1) (k : BitVec 2) (t : BitVec 4)
  /-- `VRAND` (R112). AND reduction of lanes. -/
  | vrand (d a : BitVec 3) (l : BitVec 1) (k : BitVec 2) (t : BitVec 4)
  /-- `VROR` (R112). OR reduction of lanes. -/
  | vror (d a : BitVec 3) (l : BitVec 1) (k : BitVec 2) (t : BitVec 4)
  /-- `VRXOR` (R112). XOR reduction of lanes. -/
  | vrxor (d a : BitVec 3) (l : BitVec 1) (k : BitVec 2) (t : BitVec 4)
  /-- `VMOV_OV` (R104). Moves a v register to an o register. -/
  | vmovOV (v : BitVec 5) (o : BitVec 3)
  /-- `VMOV_VO` (R104). Moves an o register to a v register. -/
  | vmovVO (v : BitVec 5) (o : BitVec 3) (l : BitVec 1)
  /-- `VMOV_OPORT` (R105). Pops a stream strip or link word into an o register, optionally forwarding it. -/
  | vmovOport (p : BitVec 5) (o : BitVec 3) (w : BitVec 1)
  /-- `VMOV_PORTO` (R105). Pushes an o register to a stream or link port. -/
  | vmovPorto (p : BitVec 5) (o : BitVec 3) (l : BitVec 1)
  /-- `VMOV_OO` (R104). Copies one o register to another. -/
  | vmovOO (m o : BitVec 3) (l : BitVec 1)
  /-- `VSPLAT` (R104). Fills every lane with the low bits of a general register. -/
  | vsplat (g : BitVec 5) (o : BitVec 3) (t : BitVec 4)
  /-- `VEXT` (R104). Extracts one lane to a general register. -/
  | vext (g : BitVec 5) (o : BitVec 3) (l : BitVec 1) (n : BitVec 5) (t : BitVec 4)
  /-- `VINS` (R104). Inserts a general register into one lane. -/
  | vins (g : BitVec 5) (o : BitVec 3) (n : BitVec 5) (t : BitVec 4)
  /-- `KMOV_KG` (R104). Moves a general register into a mask register. -/
  | kmovKG (g : BitVec 5) (k : BitVec 2)
  /-- `KMOV_GK` (R104). Moves a mask register into a general register. -/
  | kmovGK (g : BitVec 5) (k : BitVec 2)
  /-- `VEXP2` (R113). Computes 2 to the power of each lane. -/
  | vexp2 (d a : BitVec 3) (l : BitVec 1) (k : BitVec 2) (t : BitVec 4)
  /-- `VLOG2` (R113). Computes log2 of each lane. -/
  | vlog2 (d a : BitVec 3) (l : BitVec 1) (k : BitVec 2) (t : BitVec 4)
  /-- `VRCP` (R113). Reciprocal seed of each lane. -/
  | vrcp (d a : BitVec 3) (l : BitVec 1) (k : BitVec 2) (t : BitVec 4)
  /-- `VRSQ` (R113). Reciprocal square-root seed of each lane. -/
  | vrsq (d a : BitVec 3) (l : BitVec 1) (k : BitVec 2) (t : BitVec 4)
  /-- `VSINPI` (R113). Computes sin(pi·a) per lane. -/
  | vsinpi (d a : BitVec 3) (l : BitVec 1) (k : BitVec 2) (t : BitVec 4)
  /-- `VCOSPI` (R113). Computes cos(pi·a) per lane. -/
  | vcospi (d a : BitVec 3) (l : BitVec 1) (k : BitVec 2) (t : BitVec 4)
  /-- `DTLD` (R119). Loads and checks a decode table into one side. -/
  | dtld (b : BitVec 5) (s : BitVec 1) (o : BitVec 8)
  /-- `VDEC` (R120). Decodes 8-bit codes to floating lanes by a table. -/
  | vdec (d a : BitVec 3) (l s : BitVec 1) (q : BitVec 3) (f : BitVec 2)
  /-- `VENC` (R120). Encodes floating lanes to 8-bit codes by a table. -/
  | venc (d a : BitVec 3) (l s : BitVec 1) (q : BitVec 3) (f : BitVec 2)
  /-- `BLD` (R121). Loads one block record into four o registers as FP32. -/
  | bld (d : BitVec 3) (b : BitVec 5) (s : BitVec 1) (f : BitVec 2) (o : BitVec 8)
  /-- `BST` (R121). Encodes four o registers as one block record and stores it. -/
  | bst (a : BitVec 3) (l : BitVec 1) (b : BitVec 5) (s : BitVec 1) (f : BitVec 2) (o : BitVec 8)
  /-- `TWLD` (R117). Loads one strip of a tensor walk. -/
  | twld (o t : BitVec 3) (a : BitVec 5)
  /-- `TWST` (R117). Stores one strip of a tensor walk. -/
  | twst (o : BitVec 3) (l : BitVec 1) (t : BitVec 3) (a : BitVec 5)
  /-- `QCLAIM` (R130). Claims a free operand slot and zeroes it. -/
  | qclaim (q : BitVec 3)
  /-- `QTRY` (R130). Tries to claim an operand slot and writes 1 or 0. -/
  | qtry (q : BitVec 3) (d : BitVec 5)
  /-- `QREL` (R130). Releases an operand slot. -/
  | qrel (q : BitVec 3)
  /-- `QLD` (R131). Loads an operand slot from local memory, raw or as block records. -/
  | qld (q : BitVec 3) (a : BitVec 5) (f : BitVec 2) (s : BitVec 1)
  /-- `QPUT` (R131). Writes one word of an operand slot from an o register. -/
  | qput (q : BitVec 3) (a : BitVec 5) (o : BitVec 3) (l : BitVec 1)
  /-- `QGET` (R131). Reads one word of an operand slot into an o register. -/
  | qget (q : BitVec 3) (a : BitVec 5) (o : BitVec 3)
  /-- `QLNK` (R131). Fills an operand slot by popping a link port, optionally forwarding. -/
  | qlnk (q : BitVec 3) (p : BitVec 2) (w s : BitVec 1)
  /-- `MMA` (R133). Checks, locks slots and enqueues a matrix command. -/
  | mma (a b : BitVec 3) (k : BitVec 2) (h : BitVec 1) (c : BitVec 8)
  /-- `ACCLD` (R132). Reads accumulator elements at immediate coordinates into an o register. -/
  | accld (o : BitVec 3) (b v : BitVec 1) (r c : BitVec 7)
  /-- `ACCLD_REG` (R132). Reads accumulator elements at register coordinates into an o register. -/
  | accldReg (o : BitVec 3) (b v : BitVec 1) (r c : BitVec 5)
  /-- `ACCST` (R132). Writes an o register into accumulator elements at immediate coordinates. -/
  | accst (o : BitVec 3) (l b v : BitVec 1) (r c : BitVec 7)
  /-- `ACCST_REG` (R132). Writes an o register into accumulator elements at register coordinates. -/
  | accstReg (o : BitVec 3) (l b v : BitVec 1) (r c : BitVec 5)
  /-- `ACCZERO` (R136). Zeroes one or both accumulator banks. -/
  | acczero (k : BitVec 2)
  /-- `MXCMD` (R135). Issues a rope matrix command from the corner to every member. -/
  | mxcmd (a b : BitVec 3) (k : BitVec 2) (h : BitVec 1) (c : BitVec 8)
  /-- `DXLD` (R146). Reads and checks a topo record into a dx register. -/
  | dxld (x : BitVec 1) (a : BitVec 5) (o : BitVec 10)
  /-- `DXRUN` (R143). Issues an eight-lane transducer run, in trap or flag mode. -/
  | dxrun (x : BitVec 1) (d a : BitVec 5) (f : BitVec 1)
  /-- `ABEGIN` (R291). Requests a new ascent from the group's home keeper. -/
  | abegin (a b : BitVec 5) (c : BitVec 8)
  /-- `AJOIN` (R291). Makes the activation a pitch of an ascent. -/
  | ajoin (a : BitVec 5)
  /-- `APITCH` (R291). Stages an anchor in the outbox. -/
  | apitch (a v : BitVec 5) (c : BitVec 8)
  /-- `ASUMMIT` (R291). Requests that an ascent summit. -/
  | asummit (a : BitVec 5) (c : BitVec 8)
  /-- `ARETREAT` (R291). Requests that an ascent retreat. -/
  | aretreat (a : BitVec 5) (c : BitVec 8)
  /-- `ARESUME` (R291). Requests retry, skip or abandon of a stranded ascent. -/
  | aresume (a : BitVec 5) (x : BitVec 2) (c : BitVec 8)
  /-- `ASTAT` (R291). Requests an ascent's status. -/
  | astat (a : BitVec 5) (c : BitVec 8)
  /-- `IMGLD` (R312). Loads a staged sealed image into an image-table entry after MAC and generation checks. -/
  | imgld (a d : BitVec 5) (i : BitVec 10)
  /-- `IMGREV` (R314). Queues a revoke request to the image's IGT home. -/
  | imgrev (a : BitVec 5)
  /-- `HSET` (R316). Writes a handler-table entry. -/
  | hset (a : BitVec 5) (i : BitVec 10)
  /-- `PSET` (R316). Writes a persistent-region table entry. -/
  | pset (a b : BitVec 5) (i : BitVec 10)
  /-- `WINW` (R317). Writes a window register. -/
  | winw (a b : BitVec 5) (i : BitVec 10)
  /-- `KEYSET` (R318). Binds a key slot to a tenant with a derived key. -/
  | keyset (a : BitVec 5) (i : BitVec 10)
  /-- `LEASE` (R319). Waits for quiescence and performs the lease change of state. -/
  | lease (a b : BitVec 5)
  /-- `IMGEV` (R313). Evicts an image-table entry unless it is in use. -/
  | imgev (d : BitVec 5) (i : BitVec 10)
  /-- `DMARK` (R343). Emits a trace mark record when the entry traces. -/
  | dmark (a : BitVec 5) (i : BitVec 10)
  /-- `WPSET` (R343). Writes a watchpoint. -/
  | wpset (a b : BitVec 5) (i : BitVec 10)
  /-- `WPCLR` (R343). Invalidates a watchpoint. -/
  | wpclr (i : BitVec 10)
  /-- `BPSET` (R343). Writes a breakpoint. -/
  | bpset (a : BitVec 5) (i : BitVec 10)
  /-- `DGRP` (R343). Writes the core's debug group word. -/
  | dgrp (a : BitVec 5)
  /-- `DSTAT` (R343). Reads watch-unit status, skid, or ingress digest or count. -/
  | dstat (d : BitVec 5) (i : BitVec 10)
  /-- `C_MV` (R99). 16-bit register move. -/
  | cMv (d a : BitVec 5)
  /-- `C_ADDI` (R99). 16-bit add immediate. -/
  | cAddi (d : BitVec 5) (i : BitVec 6)
  /-- `C_LDD` (R99). 16-bit doubleword load from base g11 to g18. -/
  | cLdd (d : BitVec 5) (b o : BitVec 3)
  /-- `C_STD` (R99). 16-bit doubleword store from base g11 to g18. -/
  | cStd (d : BitVec 5) (b o : BitVec 3)
  /-- `C_BEQZ` (R99). 16-bit branch when a register is zero. -/
  | cBeqz (a : BitVec 5) (o : BitVec 6)
  /-- `C_BNEZ` (R99). 16-bit branch when a register is not zero. -/
  | cBnez (a : BitVec 5) (o : BitVec 6)
  /-- `C_J` (R99). 16-bit jump. -/
  | cJ (o : BitVec 11)
  /-- `C_ADD` (R99). 16-bit register add. -/
  | cAdd (d b : BitVec 5)
  /-- `C_SUB` (R99). 16-bit register subtract. -/
  | cSub (d b : BitVec 5)
  /-- `C_SLLI` (R99). 16-bit shift left by immediate. -/
  | cSlli (d : BitVec 5) (s : BitVec 6)
  /-- `C_VMOV_OV` (R99). 16-bit move of a v register to an o register. -/
  | cVmovOV (o : BitVec 3) (v : BitVec 5)
  /-- `C_VMOV_VO` (R99). 16-bit move of an o register to a v register. -/
  | cVmovVO (o : BitVec 3) (v : BitVec 5) (l : BitVec 1)
  /-- `C_LI` (R99). 16-bit load of a small immediate. -/
  | cLi (d : BitVec 5) (i : BitVec 6)
  /-- `CPY` (R229). Reads a copy parameter block and kicks a copy engine. -/
  | cpy (a b e : BitVec 5) (o : BitVec 10)
  /-- `END` (R96). Ends the activation, freeing the slot and releasing a D-mode outbox. -/
  | end_
  /-- `NOP` (R96). Does nothing. -/
  | nop
  /-- `BRK` (R96). Holds the slot under an attached debug group, otherwise traps with TRAPINST 0x400. -/
  | brk
  /-- `LEND` (R167). Casts the core's launch vote. -/
  | lend
  /-- `DSTOP` (R343). Triggers a debug stop of the group. -/
  | dstop
  /-- `C_NOP` (R99). 16-bit no-operation. -/
  | cNop
  /-- `C_END` (R99). 16-bit end of activation. -/
  | cEnd
  /-- `C_BRK` (R99). 16-bit breakpoint. -/
  | cBrk
  /-- `DXRUN_READ_PHASE` (R145). Reads every input string of the run as one access. -/
  | dxrunReadPhase
  /-- `DXRUN_WRITE_PHASE` (R145). Writes the outputs and status words, or raises OFFROUTE in trap mode. -/
  | dxrunWritePhase
  /-- `BUDGET` (R42). The activation's cycle count reaches its budget and BUDGET is raised. -/
  | budget
  /-- `DISPATCH` (R157). The dispatcher places the oldest message of the chosen runnable channel into a free slot. -/
  | dispatch
  /-- `AGE_PROMOTION` (R158). An eligible channel's age counter crosses a multiple of 65,536 cycles and its effective priority rises. -/
  | agePromotion
  /-- `MESSAGE_ARRIVAL` (R154). An arriving message is NACKed, spilled, queued or held by its channel entry. -/
  | messageArrival
  /-- `NACK` (R245). An arriving NACK is turned by the source interface into an asynchronous trap record. -/
  | nack
  /-- `SETTLE_ACK` (R177). A settlement acknowledgement reaches the source interface. -/
  | settleAck
  /-- `RELEASE_SEND_LEAVE` (R179). An L message leaves once every earlier message of its activation is settled. -/
  | releaseSendLeave
  /-- `SPILL` (R236). The spill engine writes a message whole into the tenant's spill ring. -/
  | spill
  /-- `SPILL_RETURN` (R155). A spilled message returns to its channel queue when an entry frees. -/
  | spillReturn
  /-- `LINK_WORD_DELIVERY` (R186). A written link word enters the neighbour's receive FIFO as space frees. -/
  | linkWordDelivery
  /-- `LINK_CREDIT_RETURN` (R186). A pop's credit returns and lowers the sender's outstanding count. -/
  | linkCreditReturn
  /-- `REMOTE_LOAD` (R204). The home performs a remote load and replies on the channel if asked. -/
  | remoteLoad
  /-- `REMOTE_STORE` (R204). The home performs a remote store. -/
  | remoteStore
  /-- `REMOTE_PUT` (R206). The home writes one part of a put under permission W. -/
  | remotePut
  /-- `REMOTE_PUTR` (R206). The home writes one part of a putr and sends the relay call. -/
  | remotePutr
  /-- `REMOTE_GET` (R206). The home reads one part of a get and returns it as a landing. -/
  | remoteGet
  /-- `GET_LANDING` (R206). The issuer's remote-op thread writes a landed part at its near address. -/
  | getLanding
  /-- `GET_COMPLETION` (R206). When every part has landed or been refused, the issuer sends itself the completion call. -/
  | getCompletion
  /-- `REMOTE_ATOMIC` (R207). The home performs an atomic read-compute-write and replies if asked. -/
  | remoteAtomic
  /-- `REMOTE_JDEC` (R182). The home performs a join decrement and may send the completion. -/
  | remoteJdec
  /-- `PLACEMENT_FAULT_RECORD` (R197). The supervisor answers a fault record by install or refusal. -/
  | placementFaultRecord
  /-- `RESUME_INSTALL` (R248). An install resume packet places an RPT entry and releases held requests. -/
  | resumeInstall
  /-- `RESUME_REFUSE` (R248). A refusal resume packet refuses the requests held under a tag. -/
  | resumeRefuse
  /-- `PLB_SHOOTDOWN` (R248). A shootdown packet removes every PLB entry of the named region. -/
  | plbShootdown
  /-- `SHOOTDOWN_ACK` (R198). Once requests under removed entries are settled, the core sends its KIND 5 acknowledgement. -/
  | shootdownAck
  /-- `PRG_RESPONSE` (R249). A host PRG response for an ATS page request settles a host-assisted placement fault. -/
  | prgResponse
  /-- `MMA_COMMAND_START` (R123). The matrix unit starts the command at the head of its queue. -/
  | mmaCommandStart
  /-- `MMA_COMMAND_COMPLETE` (R128). A matrix command writes its bank, ORs its flags, drops its locks and sends its completion. -/
  | mmaCommandComplete
  /-- `ROPE_COMMAND_ARRIVAL` (R135). A rope command copy on channel 13 is checked and enters the member's matrix queue or is refused. -/
  | ropeCommandArrival
  /-- `ROPE_COMMAND_TIMEOUT` (R135). A rope command still waiting for its slots after 1,048,576 cycles is refused with STAT 0x0D. -/
  | ropeCommandTimeout
  /-- `STREAM_STRIP_FETCH` (R226). The stream unit reads the next strip of a bound si register. -/
  | streamStripFetch
  /-- `COPY_KICK` (R224). A copy engine accepts a kick on channel 9. -/
  | copyKick
  /-- `COPY_COMMAND_START` (R231). The copy engine starts the next command once the previous one is settled. -/
  | copyCommandStart
  /-- `COPY_COMPLETION` (R232). After all parts settle, the engine writes the mailbox and sends the completion call. -/
  | copyCompletion
  /-- `LAUNCH_ACCEPT` (R163). A launch engine checks the LPB and floods the wake or refuses the launch. -/
  | launchAccept
  /-- `LAUNCH_WAKE` (R164). The channel-0 handler makes images resident, places regions, writes templates and queues the start call. -/
  | launchWake
  /-- `LAUNCH_VOTE` (R167). A vote reaches a launch engine and is combined in the tree. -/
  | launchVote
  /-- `COALESCE_WINDOW_CLOSE` (R168). A coalescing window closes and one interrupt covers its completions. -/
  | coalesceWindowClose
  /-- `TRAP_TRIAGE_HW` (R243). In hardware mode the trap-triage handler checks a record and calls the tenant's trap channel. -/
  | trapTriageHw
  /-- `TRAP_TRIAGE_HOST` (R243). In host-assisted mode the record is written to the VF trap ring and signalled. -/
  | trapTriageHost
  /-- `ENGINE_COMPLETION` (R244). The channel-250 handler counts a completion and reports a failure as a record. -/
  | engineCompletion
  /-- `DOUBLE_RECORD` (R246). A supervisor handles a DOUBLE record from a trapped trap-record activation. -/
  | doubleRecord
  /-- `PREEMPT` (R251). The channel-1 handler stops dispatch, waits for quiescence and changes the lease. -/
  | preempt
  /-- `TIME_SLICE_QUANTUM` (R355). A VF's quantum expires and the supervisor sends a PREEMPT. -/
  | timeSliceQuantum
  /-- `FINGERPRINT_CHECKPOINT` (R256). Paired cores exchange fingerprints and a mismatch drops both runs. -/
  | fingerprintCheckpoint
  /-- `QUARANTINE` (R258). The supervisor moves a failed column's logical cores east and resumes. -/
  | quarantine
  /-- `ENGINE_SPARE_REPLACE` (R260). The supervisor replaces a failed engine with a spare of the same die. -/
  | engineSpareReplace
  /-- `IGT_REVOKE_REQUEST` (R314). The IGT home raises the generation, sets SUCC and floods the channel-5 notice. -/
  | igtRevokeRequest
  /-- `IMGREV_NOTICE` (R314). A core's channel-5 handler marks older generations of the image STALE. -/
  | imgrevNotice
  /-- `SLIDE_REGION` (R320). The supervisor slides a region through the seven compaction steps. -/
  | slideRegion
  /-- `ANCHOR_PUSH` (R282). The local keeper stores an anchor and sends a stamp request. -/
  | anchorPush
  /-- `ANCHOR_STAMP` (R282). The home keeper assigns the next GSEQ or refuses the push. -/
  | anchorStamp
  /-- `STAMP_RETURN` (R282). The local keeper writes the returned GSEQ and the push settles. -/
  | stampReturn
  /-- `ASCENT_BEGIN_REQ` (R278). The home keeper allocates an ascent record and replies with the AID. -/
  | ascentBeginReq
  /-- `ASCENT_SUMMIT_REQ` (R280). The home keeper summits a climbing ascent and discards its anchors. -/
  | ascentSummitReq
  /-- `ASCENT_RETREAT_REQ` (R285). The home keeper puts a climbing ascent into RETREATING. -/
  | ascentRetreatReq
  /-- `ASCENT_RESUME_REQ` (R293). The home keeper retries, skips or abandons a stranded ascent's anchor. -/
  | ascentResumeReq
  /-- `ASCENT_STAT_REQ` (R293). The home keeper replies with an ascent's state, depth, GSEQ and lifetime. -/
  | ascentStatReq
  /-- `ASCENT_LIFETIME` (R285). A climbing ascent's lifetime is reached and it enters RETREATING. -/
  | ascentLifetime
  /-- `ANCHOR_SEND` (R286). With no compensation in flight, the home keeper sends the highest pending anchor of the group. -/
  | anchorSend
  /-- `END_NOTICE` (R287). A compensation's end notice arrives and the anchor completes. -/
  | endNotice
  /-- `FAILURE_NOTICE` (R289). A compensation fails and the ascent strands with a COMPFAIL record. -/
  | failureNotice
  /-- `RESCUE_RELAY` (R289). The channel-251 handler checks the tenant and calls the rescue channel. -/
  | rescueRelay
  /-- `COLLECTIVE_COMMAND` (R275). A collective engine runs a group operation and reports to the target. -/
  | collectiveCommand
  /-- `GENERATION_NOTICE` (R276). A package's generation notice voids every group that names it. -/
  | generationNotice
  /-- `FABRIC_FORWARD` (R268). A package forwards a message on a port of the needed direction. -/
  | fabricForward
  /-- `LINK_RETRY` (R266). A flit that FEC or its tag cannot verify is resent from the retry buffer. -/
  | linkRetry
  /-- `PORT_WITHDRAW` (R271). A port failing its width, retry or reserve conditions is withdrawn and its flits resent. -/
  | portWithdraw
  /-- `MODULE_WITHDRAW` (R264). A UCIe module that cannot be repaired is withdrawn from its boundary. -/
  | moduleWithdraw
  /-- `DEBUG_STOP` (R339). A channel-3 stop for the core's group halts dispatch. -/
  | debugStop
  /-- `CORE_STOPPED` (R339). When only a held activation remains the core is stopped and sends its skid record. -/
  | coreStopped
  /-- `DEBUG_STEP` (R342). A channel-4 step issues and drains n instructions of the held slot. -/
  | debugStep
  /-- `DEBUG_RESUME` (R342). A channel-4 resume releases the held slot and restarts dispatch. -/
  | debugResume
  /-- `HOST_LAUNCH` (R352). A launch command submitted by doorbell is journaled and sent to the launch engine. -/
  | hostLaunch
  /-- `HOST_CALL` (R352). A host call command sends a call to a core. -/
  | hostCall
  /-- `STAGE_IMAGE` (R352). A host command stages a sealed image into a space offset. -/
  | stageImage
  /-- `HOST_SLIDE_REGION` (R352). A host command asks the supervisor to slide a region. -/
  | hostSlideRegion
  /-- `HOST_COLLECTIVE` (R352). A host command kicks the collective engine. -/
  | hostCollective
  /-- `READ_COUNTERS` (R333). A host command returns a VF's counter block. -/
  | readCounters
  /-- `PF_COMMAND` (R352). A PF-only command writes VF records, the partition table, group forming or the power limit. -/
  | pfCommand
  /-- `JOURNAL_WINDOW_WRITE` (R352). A write selects the first journal entry of the window. -/
  | journalWindowWrite
  /-- `HOST_MEMORY_ACCESS` (R323). The host link agent performs a host read or write as a request of the VF's tenant. -/
  | hostMemoryAccess
  /-- `GET_CERTIFICATE` (R331). SPDM request for the device certificate chain. -/
  | getCertificate
  /-- `CHALLENGE` (R331). SPDM challenge answered with dual signatures. -/
  | challenge
  /-- `GET_MEASUREMENTS` (R331). SPDM request for the device measurements. -/
  | getMeasurements
  /-- `KEY_EXCHANGE` (R331). SPDM key exchange to open a secured session. -/
  | keyExchange
  /-- `FINISH` (R331). SPDM finish completing a secured session. -/
  | finish
  /-- `COLD_RESET` (R357). Power reset discards everything but the quarantine map and root-of-trust counters and boots. -/
  | coldReset
  /-- `DEVICE_RESET` (R357). PF command 0x4F resets as cold and raises the boot generation. -/
  | deviceReset
  /-- `VF_FLR` (R357). A VF function-level reset discards and scrubs that VF's state. -/
  | vfFlr
  /-- `HOT_RESET` (R334). A hot reset or link-down discards IDE keys and sessions and stops confidential partitions. -/
  | hotReset
  /-- `CONF_SCRUB_TIMEOUT` (R334). Ten seconds pass without re-attestation and the confidential partition is scrubbed. -/
  | confScrubTimeout
  /-- `UNDEF_ENCODING` (R57). A fetched bit pattern that is no instruction raises Trap(UNDEF, W) and ends the activation. -/
  | undefEncoding
  /-- `FETCH_FAILURE` (R46). A fetch from a halfword not marked executable, or outside the image extent, raises FETCHDATA before decode. -/
  | fetchFailure
  /-- `ADMISSION` (R301). The Plodan translator verifies, binds, checks, seals and registers an open image. -/
  | admission
  /-- `WAKE_FAILURE` (R164). A core whose wake fails sends a failure to the launch engine, which records the launch as failed in its journal entry. -/
  | wakeFailure
  /-- `PORT_RETRAIN` (R271). The supervisor retrains a withdrawn port at full width and returns it to routing. -/
  | portRetrain
  /-- `FABRIC_LINK_UP` (R274). At fabric link-up after a reset, the package floods a generation notice to every package. -/
  | fabricLinkUp
  /-- `IDE_KEY_MANAGEMENT` (R330). CXL IDE key-management messages over an SPDM session program the IDE keys of a pool or host port, which can resume a stopped confidential partition. -/
  | ideKeyManagement
  /-- `RECORD_REPLAY_MODE` (R348). The belay record or replay command clears the ingress digest and count and sets the record or replay mode of ingress. -/
  | recordReplayMode
  /-- `POWER_LIMIT_WINDOW` (R358). When power exceeds the PF limit, the core gates matrix and vector issue over a 1-µs window. -/
  | powerLimitWindow
  deriving DecidableEq, Repr

end Sys2Proof
end

