-- ==== Sys2Proof/Machine/State.lean ====
section
/-! DEFINITION. The state of the machine as plain data: every slot, core, interface, engine and package the spec
gives the FN-TY9648, `Fault`, `Refusal`, and the state after reset. One core, `here`, is the one that acts in a step;
every other core of the system stands in `away` (an unlisted core is as it comes out of reset). -/

namespace Sys2Proof.Machine

/-- The identity of a local-cipher key (R318): it is derived from the partition, the partition's epoch, the tenant and
the key-slot number, so two granules are under one key exactly when these agree. -/
structure KeyId where
  ptn : BitVec 4
  epoch : Word
  ten : BitVec 12
  slot : BitVec 4
  deriving DecidableEq, Repr

/-- The key of key slot 0, which belongs to system images (R33): every granule is under it after reset (R43). -/
def KeyId.system : KeyId := { ptn := 0, epoch := 0, ten := 0, slot := 0 }

/-- Local data memory (R32 to R35): plaintext bytes (an unlisted byte is zero), the key each 16-B granule was last
written under (an unlisted granule is under `KeyId.system`), the granules that hold an uncorrectable error (R254) and
those that carry the poisoned mark of a quarantine (R258). Granules are numbered by near address divided by 16. -/
structure LocalMem where
  bytes : Memory
  tags : List (Nat × KeyId)
  bad : List Nat
  poison : List Nat
  deriving DecidableEq, Repr

/-- One entry of the image table (R36, R312) with the binding list of its sealed image (R304). `order` is the rank of
its load, for R164's "oldest load first". -/
structure ImgEntry where
  base : BitVec 15
  xlen : BitVec 16
  id : BitVec 32
  gen : BitVec 16
  ten : BitVec 12
  kslot : BitVec 4
  cls : BitVec 2
  rto : BitVec 16
  nreg : BitVec 10
  stale : Bool
  order : Nat
  binds : List (BitVec 8 × BitVec 15)
  deriving DecidableEq, Repr

/-- One entry of the Region Placement Table (R195): its four doublewords as fields. -/
structure RptEntry where
  base : Word
  len : Word
  space : BitVec 8
  owner : BitVec 12
  kind : BitVec 2
  mov : Bool
  pgen : BitVec 16
  loc : Word
  deriving DecidableEq, Repr

/-- A message (R170): header, the ascent word that travels beside it (R281), the payload flits, and, in a request to a pool home (whose PADDR is zero,
R199), the pool address that the placement lookup found (R195; the spec names no field for it: DESIGN CHOICE, log entry 14). `sys`: a class-S slot, an engine, an interface or a vendor's
handler sent it, which the partition routers ask (R327; the spec names no field for it: DESIGN CHOICE, log entry 43). `comp`: it is the completion call of a copy, which `xid` asks (R232; DESIGN CHOICE, log entry 72). -/
structure Msg where
  hdr : BitVec 128
  aword : BitVec 32
  pay : List Strip
  pool : Nat
  sys : Bool
  comp : Bool := false
  deriving DecidableEq, Repr

/-- What the source interface keeps of the activation that sent a message (R245), and whether it was a trap-record
activation (R246): ORIG of a DOUBLE record, if so. -/
structure Origin where
  imgid : BitVec 32
  gen : BitVec 16
  ch : BitVec 8
  slot : BitVec 2
  aseq : Word
  dbl : Option (BitVec 8)
  deriving DecidableEq, Repr

/-- The origin of a message that no activation sent. -/
def Origin.none : Origin := { imgid := 0, gen := 0, ch := 0, slot := 0, aseq := 0, dbl := Option.none }

/-- A global request before its placement lookup (R196, R200): operation, size byte, reply channel, space, offset, length
in bytes, the two operand words, the near address of a get, and the bytes of a put. -/
structure GReq where
  op : BitVec 8
  sz : BitVec 8
  ch : BitVec 8
  space : BitVec 8
  off : Word
  len : Nat
  v1 : Word
  v2 : Word
  relay : CoreAddr
  near : Nat
  kslot : BitVec 4
  data : List Byte
  deriving DecidableEq, Repr

/-- What leaves a core as one send: a unicast message, a multicast (R176), one copy of it in the egress, or a global request (R196). -/
inductive Send where
  | uni (dst : CoreAddr) (kind : BitVec 2) (ch : BitVec 8) (paddr : BitVec 18) (pay : List Strip)
  | copy (dst : CoreAddr) (kind : BitVec 2) (ch : BitVec 8) (pay : List Strip)
  | multi (corner : CoreAddr) (w h : Nat) (ch : BitVec 8) (pay : List Strip)
  | glob (r : GReq)
  deriving DecidableEq, Repr

/-- Who waits for a message to settle beside the order rules: nothing, a part of a `get` (R206), a read or a write of a copy
command's part by the command's number (R231), a stamp request (R282), a launch's wake (R164, R273), the keeper's compensation (R289), a launch vote by the
number of the wake it belongs to (R167); or a record, whose refusal makes no record of its own (R246). -/
inductive Waiter where
  | plain
  | getPart (id : Nat) (near : Nat)
  | copyRead (id off : Nat)
  | copyWrite (id off : Nat)
  | stamp (key : Nat)
  | wake (lid : BitVec 32)
  | comp (gid : BitVec 16) (gseq : Nat)
  | vote (wake : Nat)
  | record
  deriving DecidableEq, Repr

/-- A send that waits in an outbox (R159) or in the egress (R179, R196). `ord` is its place among the sends of its
activation, `part` the part of R282 (1 messages, 2 anchors, 3 ascent requests), `tag` the fault tag that holds it
(R247), `e` the E flag of a NACK, `sys` and `comp` as in `Msg`. A resolved global request keeps its pool address and its GVA (`glob`, `space`, `off`). -/
structure OutItem where
  send : Send
  l : Bool
  cid : BitVec 16
  aword : BitVec 32
  a : Bool
  p : Bool
  e : Bool
  org : Origin
  ord : Nat
  part : Nat
  who : Waiter
  tag : Option (Fin 16)
  pool : Nat
  space : BitVec 8
  off : Word
  glob : Bool
  sys : Bool
  comp : Bool := false
  deriving DecidableEq, Repr

/-- A message that has left and is not yet settled (R177); `done` marks a refused one whose acknowledgement has come before its NACK, for which the interface keeps
what R245 needs. -/
structure SentRec where
  dst : CoreAddr
  pseq : BitVec 16
  org : Origin
  ord : Nat
  cid : BitVec 16
  space : BitVec 8
  off : Word
  glob : Bool
  who : Waiter
  done : Bool
  deriving DecidableEq, Repr

/-- An acknowledgement on its way to a source interface (R177): it is not a message. `nacked` says that the message was refused and its NACK sent. -/
structure Ack where
  src : CoreAddr
  dst : CoreAddr
  pseq : BitVec 16
  nacked : Bool
  deriving DecidableEq, Repr

/-- A tensor-map register (R115, R116): head and shape. -/
structure TMap where
  head : BitVec 128
  shape : BitVec 128
  deriving DecidableEq, Repr

/-- One fetched strip of an input stream: the strip, or the cause and address of its first failing check (R226). -/
inductive Strip1 where
  | good (v : Strip)
  | bad (cause : BitVec 8) (addr : Word)
  deriving DecidableEq, Repr

/-- A bound stream register (R225, R226): the copied map, the index of the next strip to pop or write, and (for an input)
the strips fetched and not popped, oldest first. -/
structure Stream where
  map : TMap
  next : Nat
  buf : List Strip1
  deriving DecidableEq, Repr

/-- The registers of a slot that instructions name (R27). -/
structure Regs where
  g : Vector Word 32
  o : Vector Strip 8
  v : Vector Strip 32
  k : Vector (BitVec 32) 4
  tm : Vector TMap 8
  deriving DecidableEq, Repr

/-- The slot-scope control registers that hold a value of their own (R30, R93, R232, R281). -/
structure Csrs where
  fflg : BitVec 6
  frm : BitVec 3
  fmt : BitVec 4
  scla : BitVec 13
  sclb : BitVec 13
  tscl : Word
  olive : BitVec 8
  lpcnt : Word
  lpbeg : Word
  lpend : Word
  xid : BitVec 32
  asid : Word
  deriving DecidableEq, Repr

/-- Where a running instruction stands that is performed in parts or that waits with something begun: `qlnk` with the words popped (R131), a `dxrun` in
the transducer unit (R145), a `chkg` held on a placement miss (R309) with the fault tag that holds it, its range, and whether it was refused, a
`lease` whose change of lease is under way (R319), an `imgld` that waits for the IGT home's reply with the image that it has read (R312), or an instruction that waits for the matrix commands that entered the queue before it issued, with the count of
those (R124, R132, R136). -/
inductive Part where
  | none
  | mx (before : Nat)
  | qlnk (q : Fin 8) (done : Nat)
  | dx
  | chk (tag : Fin 16) (space : BitVec 8) (off : Word) (len : Nat) (refused : Bool)
  | lease
  | igt (img : List Byte)
  deriving DecidableEq, Repr

/-- Trap causes by code (R238). -/
abbrev Cause := BitVec 8

/-- `Trap(cause, info)` (R23) with the faulting address of R240: `near` for a near address, `imem` for an offset in the
image's extent, `fspace` for a space. -/
structure Trap where
  cause : Cause
  value : Word
  faddr : Word
  near : Bool
  imem : Bool
  fspace : BitVec 8
  deriving DecidableEq, Repr

/-- The activation that a slot holds (R28, R151). `ext`/`xlen` locate the running image's extent in instruction memory, `entry` is
the handler entry as it stood at dispatch (R316), `trig` the triggering message, `t0` the core's cycle of dispatch and
`heldFor` the cycles its slot was held (R341), `instret` the instructions retired (R345), `sends` the sends so far, `stores` the near stores of a paired run's
instruction (R256). -/
structure Act where
  busy : Bool
  pc : Word
  regs : Regs
  csr : Csrs
  part : Part
  img : ImgEntry
  entry : Word
  ch : BitVec 8
  trig : Msg
  aseq : Word
  t0 : Word
  heldFor : Word
  heldAt : Word
  plen : BitVec 19
  instret : Word
  outbox : List OutItem
  sends : Nat
  si : Vector (Option Stream) 4
  so : Vector (Option Stream) 2
  paired : Bool
  fp : Word
  ckpt : Nat
  ptrap : Option Trap
  stores : List (Nat × List Byte)
  deriving DecidableEq, Repr

/-- One entry of a channel queue (R155): the message, whether an activation in mode D runs on it, how often it was redelivered (R161), and its arrival sequence at the core, which it takes
into a spill ring (R236). -/
structure QEntry where
  msg : Msg
  running : Bool
  drops : Nat
  seq : Word := 0
  deriving DecidableEq, Repr

/-- An entry of a spill ring (R236): the message, its arrival sequence, whether its write is performed (until then it is with the spill
engine and unsettled), whether it is an early arrival held for pair order (R270), and whether the twin's copy of it has been made (R255). -/
structure SpillEntry where
  msg : Msg
  seq : Word
  written : Bool
  early : Bool
  copied : Bool
  deriving DecidableEq, Repr

/-- Age of an eligible channel (R158): the cycles in which it was eligible, and the levels that the last promotion noted. -/
structure Age where
  count : Word
  boost : Nat
  deriving DecidableEq, Repr

/-- What a core holds for one lessee. What a lease change saves and loads (R252): handler table and persistent-region table (R153; an unlisted entry is
invalid or empty), channel mask (R181), barrier bindings (R183), PLB (R196), rotation pointers (R157) and age counters (R158); and where the core stands in
the lessee's launch (R164, R165, R167: one launch at a time for each lessee; DEDUCED, log entry 35): the launch registers, the LPB's offset for g12, and
whether the core's vote has left; `wakes` numbers the launches that woke the core for this lessee, and `placed` holds the launch and near base of each persistent region
placed for it, by index (R164: a region already placed for the same LID is kept). -/
structure Lessee where
  handlers : List (Nat × Word)
  pregs : List (Nat × (BitVec 18 × BitVec 19))
  chmask : BitVec 256
  barm : List (Nat × Nat)
  plb : List RptEntry
  rot : Vector (BitVec 8) 8
  ages : List (Nat × Age)
  cnum : Word
  lbase : Word
  lcnt : Word
  lid : BitVec 32
  lpb : Word
  voted : Bool
  wakes : Nat
  placed : List (Nat × Nat × (BitVec 18 × BitVec 19))
  deriving DecidableEq, Repr, Inhabited

/-- The state of a tenant new to a core: zero (R252). -/
def Lessee.zero : Lessee :=
  { handlers := [], pregs := [], chmask := 0, barm := [], plb := [], rot := Vector.replicate 8 0, ages := [], cnum := 0, lbase := 0, lcnt := 0, lid := 0,
    lpb := 0, voted := false, wakes := 0, placed := [] }

/-- A tenant's saved state (R252), the save area that holds it (R319; 0 for one that the supervisor placed, where a PREEMPT has saved it) and the serial number of the bytes that its saving
wrote there. -/
structure Saved where
  ten : BitVec 12
  area : BitVec 18
  serial : Nat
  lessee : Lessee
  deriving DecidableEq, Repr

/-- State of an operand slot (R127). -/
inductive QState where
  | free
  | claimed
  | loaded
  | filling
  deriving DecidableEq, Repr

/-- An operand slot (R126, R127): element array at bytes 0 to 8,191 and scale array at bytes 8,192 to 8,703. -/
structure QSlot where
  st : QState
  locks : Nat
  arr : Memory
  bad : Bool
  deriving DecidableEq, Repr

/-- A command in the matrix queue (R123, R125, R135), with its number in the order of entry, the activation of this core that issued it (0 for the copy of a rope command) and
whether a decode table that it sampled and reads holds an uncorrectable error (R254). -/
structure MxCmd where
  qa : BitVec 3
  qb : BitVec 3
  bank : BitVec 2
  hi : Bool
  ch : BitVec 8
  fmt : BitVec 4
  scla : BitVec 13
  sclb : BitVec 13
  tabA : Memory
  tabB : Memory
  cid : BitVec 16
  locked : Bool
  started : Bool
  arrived : Word
  no : Nat
  aseq : Word
  badTab : Bool
  deriving DecidableEq, Repr

/-- A `dxrun` in the transducer unit (R143): its slot, descriptors, topo snapshot and, after the read phase, the bytes of each enabled lane's input
strings as one memory. -/
structure DxRun where
  slot : Fin 4
  rd : BitVec 5
  flag : Bool
  tb : Nat
  desc : Memory
  topo : Memory
  input : Option Memory
  deriving DecidableEq, Repr

/-- Lessee-owned data state (R39): operand memory, accumulator banks, decode tables, topo registers, the matrix queue and the transducer
unit, with `mflg` and `rope` (R124), and the stores that hold an uncorrectable error (R254, R257). `entered` counts the commands that have entered the queue. -/
structure Matrix where
  q : Vector QSlot 8
  acc : Vector Memory 2
  accBad : Vector Bool 2
  tab : Vector Memory 2
  tabBad : Vector Bool 2
  dx : Vector Memory 2
  dxBad : Vector Bool 2
  queue : List MxCmd
  entered : Nat
  dxUnit : Option DxRun
  mflg : BitVec 8
  rope : BitVec 22
  deriving DecidableEq, Repr

/-- A word on a neighbour link with the lease number of its sender's core (R186). -/
structure LinkWord where
  val : Strip
  lease : Nat
  deriving DecidableEq, Repr

/-- A link port (R186): the receive FIFO, the words written and not yet in the neighbour's FIFO, the send window, the outstanding count, and
the pops whose credit has not yet gone back to the neighbour (by the lease number of the word). -/
structure Link where
  fifo : List LinkWord
  out : List LinkWord
  win : BitVec 4
  o : Nat
  owed : List Nat
  deriving DecidableEq, Repr

/-- A link port after reset: W = 4, O = 0 (R186). -/
def Link.reset : Link := { fifo := [], out := [], win := 4, o := 0, owed := [] }

/-- A fault tag in use (R247): tenant, space, page, and the record last sent for it. -/
structure FaultTag where
  ten : BitVec 12
  cid : BitVec 16
  space : BitVec 8
  off : Word
  len : Nat
  deriving DecidableEq, Repr

/-- A part of a `get` under way (R206): the offset and near address where it begins, its length, its home, and the bytes that have come back so far, by offset. -/
structure GetPart where
  off : Word
  near : Nat
  len : Nat
  home : CoreAddr
  got : List (Nat × List Byte)
  deriving DecidableEq, Repr

/-- A `get` under way at its issuer (R206): its parts not yet landed or refused, the failed parts (GVA offset, cause) and the completion. -/
structure GetOp where
  id : Nat
  near : Word
  len : Nat
  ch : BitVec 8
  cid : BitVec 16
  kslot : BitVec 4
  org : Origin
  left : List GetPart
  fails : List (Word × BitVec 8)
  deriving DecidableEq, Repr

/-- Ingress mode of the belay record and replay commands (R348). -/
inductive ReplayMode where
  | off
  | record
  | replay (next : Nat)
  deriving DecidableEq, Repr

/-- The core's network interface: queues (R155), spill rings (R236), early arrivals (R270), expected and next pair sequence numbers (R178), egress
(R179), unsettled sends (R177), fault tags (R247), gets under way (R206), the quota faults already reported (R156), and the messages refused or
discarded ahead of their sequence (R270). -/
structure Iface where
  queues : List (Nat × List QEntry)
  rings : List (Nat × List SpillEntry)
  arrSeq : Word
  early : List Msg
  expect : List (Nat × BitVec 16)
  pseqs : List (Nat × BitVec 16)
  egress : List OutItem
  sent : List SentRec
  tags : Vector (Option FaultTag) 16
  gets : List GetOp
  getId : Nat
  quotaHit : List Nat
  shoot : List (RptEntry × CoreAddr)
  lostPending : Bool
  skipped : List Msg
  deriving DecidableEq, Repr

/-- The activation that a debug step runs (R342, R345): its slot, its number, and what the step report says of it, also when it has ended. -/
structure StepMark where
  slot : Fin 4
  ch : BitVec 8
  cid : BitVec 16
  src : CoreAddr
  pc : Word
  aseq : Word
  deriving DecidableEq, Repr

/-- No activation stepped. -/
def StepMark.none : StepMark := { slot := 0, ch := 0, cid := 0, src := 0, pc := 0, aseq := 0 }

/-- The watch unit and debug state (R338 to R348): watchpoints, breakpoints and the group word, sticky bits and hits, the stop taken and what is counted from
it, the time at which an activation last ended or was held, the held slot, digest and count with record and replay (R347, R348), the state log (R346), the steps left and done with whether the last one still drains
(R342), the activation that is stepped, and the slots whose breakpoint is passed because they were released from it. -/
structure Debug where
  wp : Vector (Word × Word) 8
  bp : Vector Word 4
  group : Word
  wph : BitVec 8
  bph : BitVec 4
  hits : BitVec 16
  stopping : Bool
  stopped : Bool
  trig : Word
  cause : BitVec 3
  arrived : Word
  skid : BitVec 16
  ended : Word
  held : Option (Fin 4)
  digest : Word
  count : Word
  replay : ReplayMode
  logbook : List (Word × Word)
  states : List (BitVec 32)
  cycle : BitVec 2
  stateNow : BitVec 2
  stateAt : Word
  steps : Nat
  done : Nat
  draining : Bool
  step : StepMark
  passBp : BitVec 4
  deriving DecidableEq, Repr

/-- The per-core counters (R257, R261). -/
structure Counters where
  corrected : Nat
  uncorrected : Nat
  lost : Nat
  undeliverable : Nat
  double : Nat
  deriving DecidableEq, Repr

/-- The control registers and settings of core scope that are not the lessee's saved state (R124, R194, R252, R310, R318). -/
structure CoreRegs where
  lessee : BitVec 12
  mcap : BitVec 9
  gsa : BitVec 8
  gsb : BitVec 8
  audit : Bool
  spq : BitVec 32
  trapCore : Vector (Option CoreAddr) 16
  tch : BitVec 8
  keys : Vector (Option KeyId) 16
  deriving DecidableEq, Repr

/-- State of a piece of copy work (R231): the element bytes of a BZ8 record wait for its scale byte; then a part is read, and written; a failed one keeps cause,
side and failing offset. -/
inductive PartSt where
  | held
  | toRead
  | reading
  | toWrite
  | writing
  | done
  | failed (cause : BitVec 8) (unit : BitVec 4) (addr : Word)
  deriving DecidableEq, Repr

/-- One part of a copy command (R231): offset from the start of source and destination, length, where it stands, and its bytes once read. -/
structure CopyPart where
  off : Nat
  len : Nat
  st : PartSt
  data : List Byte
  deriving DecidableEq, Repr

/-- A copy command as its kick carries it (R229, R230), its number at the engine, its parts once it is started, and its failing side where the check of R231 step 1 fails. -/
structure CopyCmd where
  id : Nat
  blk : Strip
  xid : BitVec 32
  cid : BitVec 16
  kslot : BitVec 4
  gsa : BitVec 8
  gsb : BitVec 8
  issuer : CoreAddr
  started : Bool
  parts : List CopyPart
  halted : Bool
  fail : Option (BitVec 8 × BitVec 4 × Word)
  deriving DecidableEq, Repr

/-- State of an ascent (R280). -/
inductive AscState where
  | climbing
  | retreating
  | stranded
  | summited
  | retreated
  | abandoned
  deriving DecidableEq, Repr

/-- An ascent record of its home keeper (R280). -/
structure Ascent where
  aid : BitVec 32
  gid : BitVec 16
  st : AscState
  origin : CoreAddr
  cid : BitVec 16
  rch : BitVec 8
  life : BitVec 24
  born : Word
  stranded : Option Nat
  order : Nat
  deriving DecidableEq, Repr

/-- A stamped anchor in a group's order (R282): sequence number, ascent, storing keeper, the record's key there, and the home keeper's own marks. -/
structure Stacked where
  gseq : Nat
  aid : BitVec 32
  keeper : CoreAddr
  key : Nat
  late : Bool
  ran : Bool
  skip : Bool
  rtry : Nat
  inFlight : Bool
  deriving DecidableEq, Repr

/-- A group at its home keeper (R278, R279). -/
structure Group where
  gid : BitVec 16
  ten : BitVec 12
  nextGseq : Nat
  stack : List Stacked
  deriving DecidableEq, Repr

/-- An anchor record in a keeper's anchor store or spill region (R283, R284): its 64 bytes as eight doublewords, and the header of the push that brought it,
which is settled when its stamp returns (R282). A spilled record stands in place `place` of the keeper's spill region. `freed`: the anchor has run to completion, been discarded or been
refused, and its place may be taken again; `bad`: the record is lost (R260). -/
structure AnchorRec where
  key : Nat
  rec8 : Vector Word 8
  stamped : Bool
  spilled : Bool
  place : Nat
  freed : Bool
  bad : Bool
  push : BitVec 128
  deriving DecidableEq, Repr

/-- An anchor keeper (R222, R279). -/
structure Keeper where
  ascents : List Ascent
  groups : List Group
  anchors : List AnchorRec
  lastSeq : BitVec 16
  nextKey : Nat
  nextOrder : Nat
  deriving DecidableEq, Repr

/-- A launch at a launch engine (R163, R167, R273). `cores` is how many cores it collects for, `votes` how many votes are in, `waits` the cores and engines that it has passed the
wake to and that have neither voted nor failed, `up` where the combined vote goes (none at the root). -/
structure Launch where
  lid : BitVec 32
  ten : BitVec 12
  sub : BitVec 4
  lpb : List Byte
  lpbOff : Word
  copyOff : Word
  cores : Nat
  votes : Nat
  waits : List CoreAddr
  up : Option CoreAddr
  vf : Nat
  seq : Word
  failed : Bool
  deriving DecidableEq, Repr

/-- A collective group record (R274): each member by package number, boot generation and measurement digest. -/
structure CollGroup where
  gid : BitVec 16
  gen : BitVec 32
  void : Bool
  keyed : Bool
  members : List (BitVec 14 × BitVec 32 × BitVec 384)
  deriving DecidableEq, Repr

/-- A pending collective command (R275), with its stage (0 accepted, 1 the sources are read, 2 the results are written) and the parts of its members: rank, engine, and the number of the
work there. -/
structure CollCmd where
  blk : List Byte
  cid : BitVec 16
  issuer : CoreAddr
  stage : Nat
  parts : List (Nat × CoreAddr × Nat)
  deriving DecidableEq, Repr

/-- A trace collector's buffer (R345): records, the cores whose records it dropped, and what it has passed to belay. -/
structure Collector where
  buf : List Strip
  passed : List Strip
  lost : List Nat
  deriving DecidableEq, Repr

/-- The role state of an engine core (R222). A compute core keeps the empty one. `copyNo` numbers the copy commands that a copy engine accepts, and the parts that a member's engine
has in collective commands, `members`: each a range read or written by gets or puts as a copy's is (R275). -/
structure Engine where
  copies : List CopyCmd
  members : List CopyCmd
  copyNo : Nat
  keeper : Keeper
  launches : List Launch
  groups : List CollGroup
  colls : List CollCmd
  trace : Collector
  reports : List Msg
  deriving DecidableEq, Repr

/-- A store of a core that can hold an uncorrectable error (R257). -/
inductive Store where
  | localMem
  | tagArray
  | imem
  | operand
  | acc
  | table
  | topo
  | queues
  deriving DecidableEq, Repr

/-- A storage error to come at a core, an input from outside the machine: the core's cycle at which it strikes, the store and the place in it (granule, halfword, slot, bank
or table), and whether it is a single-bit one, which the core corrects (R257). -/
structure Upset where
  cycle : Word
  store : Store
  place : Nat
  single : Bool
  deriving DecidableEq, Repr

/-- A core, compute or engine: its four slots, memories, image table, executable map, lessee state, matrix and transducer units, links, windows,
interface, debug unit and (on an engine) role state. `preempting` is the dispatch stop of a PREEMPT from its step 1, `changing` a lease change from step 3 to
step 6 and `swapping` its steps 4 to 6 (R251), `frozen` the dispatch stop of a quarantine (R258). `cyc` counts the cycles in which it acted, `strip` is the stream register that the stream unit served
last (R226), and `upsets` the storage errors to come. -/
structure Core where
  acts : Vector Act 4
  lastSlot : Fin 4
  tried : Vector Bool 4
  mem : LocalMem
  imem : Memory
  xmap : BitVec 16384
  imemBad : List Nat
  images : Vector (Option ImgEntry) 8
  imgOrder : Nat
  seqNo : Word
  regs : CoreRegs
  live : Lessee
  saved : List Saved
  leaseNo : Nat
  preempting : Bool
  changing : Bool
  swapping : Bool
  frozen : Bool
  mx : Matrix
  links : Vector Link 4
  windows : Vector (BitVec 128) 8
  net : Iface
  dbg : Debug
  ctr : Counters
  eng : Engine
  present : Bool
  cyc : Word
  strip : Nat
  upsets : List Upset
  deriving DecidableEq, Repr

/-- The registers of a slot at dispatch, before R28's named values: zero. -/
def Regs.zero : Regs :=
  { g := Vector.replicate 32 0, o := Vector.replicate 8 0, v := Vector.replicate 32 0, k := Vector.replicate 4 0,
    tm := Vector.replicate 8 { head := 0, shape := 0 } }

/-- The slot-scope control registers at entry (R28, R30): zero, and every o register live. -/
def Csrs.entry : Csrs :=
  { fflg := 0, frm := 0, fmt := 0, scla := 0, sclb := 0, tscl := 0, olive := 0xFF, lpcnt := 0, lpbeg := 0, lpend := 0,
    xid := 0, asid := 0 }

/-- No image. -/
def ImgEntry.zero : ImgEntry :=
  { base := 0, xlen := 0, id := 0, gen := 0, ten := 0, kslot := 0, cls := 0, rto := 0, nreg := 0, stale := false, order := 0, binds := [] }

/-- A free slot (R41: its registers are discarded at the end of an activation). -/
def Act.free : Act :=
  { busy := false, pc := 0, regs := Regs.zero, csr := Csrs.entry, part := .none, img := ImgEntry.zero, entry := 0, ch := 0,
    trig := { hdr := 0, aword := 0, pay := [], pool := 0, sys := false }, aseq := 0, t0 := 0, heldFor := 0, heldAt := 0, plen := 0, instret := 0, outbox := [], sends := 0,
    si := Vector.replicate 4 none, so := Vector.replicate 2 none, paired := false, fp := 0, ckpt := 0, ptrap := none, stores := [] }

/-- A free operand slot, both arrays zero (R43). -/
def QSlot.free : QSlot := { st := .free, locks := 0, arr := [], bad := false }

/-- The lessee-owned data state after reset (R43) and after a lease change (R252). -/
def Matrix.zero : Matrix :=
  { q := Vector.replicate 8 QSlot.free, acc := Vector.replicate 2 [], accBad := Vector.replicate 2 false, tab := Vector.replicate 2 [],
    tabBad := Vector.replicate 2 false, dx := Vector.replicate 2 [], dxBad := Vector.replicate 2 false, queue := [], entered := 0, dxUnit := none, mflg := 0, rope := 0 }

/-- The network interface after reset: nothing queued, spilled, held or unsettled. -/
def Iface.reset : Iface :=
  { queues := [], rings := [], arrSeq := 0, early := [], expect := [], pseqs := [], egress := [], sent := [], tags := Vector.replicate 16 none,
    gets := [], getId := 0, quotaHit := [], shoot := [], lostPending := false, skipped := [] }

/-- The watch unit after reset: zero (R343), digest and count zero (R347). -/
def Debug.reset : Debug :=
  { wp := Vector.replicate 8 (0, 0), bp := Vector.replicate 4 0, group := 0, wph := 0, bph := 0, hits := 0, stopping := false, stopped := false,
    trig := 0, cause := 0, arrived := 0, skid := 0, ended := 0, held := none, digest := 0, count := 0, replay := .off, logbook := [],
    states := [], cycle := 0, stateNow := 0, stateAt := 0, steps := 0, done := 0, draining := false, step := StepMark.none,
    passBp := 0 }

/-- No counts. -/
def Counters.zero : Counters := { corrected := 0, uncorrected := 0, lost := 0, undeliverable := 0, double := 0 }

/-- Core-scope registers after reset. The lessee is tenant 0, `mcap` has the reset value of its table (R124), every key slot is bound to no
tenant (R318), no trap core is valid (R332). The launch registers and spaces have no reset value in the spec: zero
(DESIGN CHOICE, log entry 2). -/
def CoreRegs.reset : CoreRegs :=
  { lessee := 0, mcap := 0x17F, gsa := 0, gsb := 0, audit := false, spq := 0,
    trapCore := Vector.replicate 16 none, tch := 0, keys := Vector.replicate 16 none }

/-- An engine core that has accepted no work. -/
def Engine.reset : Engine :=
  { copies := [], members := [], copyNo := 0,
    keeper := { ascents := [], groups := [], anchors := [], lastSeq := 0, nextKey := 0, nextOrder := 0 },
    launches := [], groups := [], colls := [], trace := { buf := [], passed := [], lost := [] }, reports := [] }

/-- A core after a core reset (R43): every slot free, image table, executable map and handler table empty, every operand slot free, data state
zero, and local memory zero under key slot 0. -/
def Core.reset : Core :=
  { acts := Vector.replicate 4 Act.free, lastSlot := 3, tried := Vector.replicate 4 false,
    mem := { bytes := [], tags := [], bad := [], poison := [] }, imem := [], xmap := 0, imemBad := [], images := Vector.replicate 8 none, imgOrder := 0, seqNo := 0,
    regs := CoreRegs.reset, live := Lessee.zero, saved := [], leaseNo := 0, preempting := false, changing := false, swapping := false, frozen := false, mx := Matrix.zero,
    links := Vector.replicate 4 Link.reset, windows := Vector.replicate 8 0, net := Iface.reset, dbg := Debug.reset, ctr := Counters.zero,
    eng := Engine.reset, present := true, cyc := 0, strip := 15, upsets := [] }

/-- A host command as its window holds it (R352): function (0 the PF), queue, and eight doublewords. -/
structure HostCmd where
  vf : Nat
  queue : Nat
  dw : Vector Word 8
  deriving DecidableEq, Repr

/-- A handler binding of an open image (R17, R18), with the bytes of its persistent region (0 for none). -/
structure OpenBinding where
  label : Nat
  ch : Nat
  prio : Nat
  budget : Nat
  slotS : Bool
  modeI : Bool
  persist : Nat
  deriving DecidableEq, Repr

/-- A relocation (R11): the byte address of the instruction, or of the datum in a pool, that holds a region's near base plus an addend, and the bits of the datum (8 to 64 of an
integer directive, 18 of a `.tmap` base; R18, R115). -/
structure Reloc where
  at_ : Nat
  region : Nat
  addend : Int
  bits : Nat
  deriving DecidableEq, Repr

/-- An open image as the assembler hands it to Plodan (R11, R17, R300): image ID, tenant and generation, code halfwords, pool bytes, declared regions (bytes,
alignment), relocations, and bindings. -/
structure OpenImage where
  id : BitVec 32
  ten : BitVec 12
  gen : BitVec 16
  code : List (BitVec 16)
  pool : List Byte
  regions : List (Nat × Nat)
  relocs : List Reloc
  binds : List OpenBinding
  deriving DecidableEq, Repr

/-- A sealed image as the translator keeps it: the open image, the near base of each region, and its bytes (R301, R304). -/
structure Sealed where
  src : OpenImage
  bases : List Nat
  bytes : List Byte
  deriving DecidableEq, Repr

/-- One journal entry (R354). -/
structure Journal where
  seq : Word
  status : BitVec 8
  type : BitVec 8
  info : BitVec 40
  hash : BitVec 128
  deriving DecidableEq, Repr

/-- One virtual function, or the physical function (number 0): its 128-B record (R332), command windows (R352), journal (R354), trap ring and raised
interrupts as the host sees them (R243, R168), and its counter block (R333). -/
structure Func where
  rec16 : Vector Word 16
  valid : Bool
  win : List (Nat × Vector Word 8)
  pend : List Nat
  status : List (Nat × Word)
  jsel : List (Nat × BitVec 16)
  journal : List Journal
  nextSeq : Word
  trapRing : List (Vector Word 8)
  raised : List (BitVec 16)
  opened : List (BitVec 16 × Word)
  delivered : Nat
  lost : Nat
  nacks : List (Nat × Nat)
  eccu : Nat
  overruns : Nat
  unsupported : Nat
  completions : Nat
  answers : List (Word × Word)
  deriving DecidableEq, Repr

/-- A function whose record is not written: every field at its reset value (R332: MCAP 0x17F). -/
def Func.reset : Func :=
  { rec16 := (Vector.replicate 16 (0 : Word)).set 3 0x0000_017F_0000_0000, valid := false, win := [], pend := [], status := [], jsel := [], journal := [],
    nextSeq := 1, trapRing := [], raised := [], opened := [], delivered := 0, lost := 0, nacks := [], eccu := 0, overruns := 0,
    unsupported := 0, completions := 0, answers := [] }

/-- A partition (R327, R328): sector, fabric-port and pool-port masks, CONF and epoch, and the confidential partition's stop after a hot reset (R334). -/
structure Partition where
  sectors : BitVec 32
  fports : BitVec 48
  pports : BitVec 16
  conf : Bool
  epoch : Word
  stoppedAt : Option Word
  deriving DecidableEq, Repr

/-- A fabric port (R265, R266, R271), with its counter of encrypted messages for each partition (R329). -/
structure Port where
  withdrawn : Bool
  retries : List Word
  tagFails : List Word
  lseq : BitVec 16
  failures : Nat
  digestIn : Word
  digestOut : Word
  counts : List (Nat × Nat)
  deriving DecidableEq, Repr

/-- A port in routing, nothing retried. -/
def Port.up : Port :=
  { withdrawn := false, retries := [], tagFails := [], lseq := 0, failures := 0, digestIn := 0, digestOut := 0, counts := [] }

/-- A message that crosses the fabric (R268, R269): where it is, detours taken, sub-channel (upper), the port whose retry buffer
still holds it, the port of this package that it came in by with the sub-channel whose buffer it holds there (R268), and the direction of a port that was withdrawn under it (R271). -/
structure Transit where
  msg : Msg
  pkg : Nat
  det : Nat
  upper : Bool
  port : Option Nat
  inPort : Option (Nat × Bool)
  dir : Option Nat := none
  deriving DecidableEq, Repr

/-- Progress of a supervisor's slide of a region (R320): the region as it lay, its new home and near address there, the steps done, and the transfer ID of the copy of step 3. -/
structure Slide where
  region : RptEntry
  newNear : BitVec 18
  newCore : CoreAddr
  step : Nat
  xid : BitVec 32
  deriving DecidableEq, Repr

/-- An entry of the host link agent's 256-entry page-request table (R249): its index and the fault record it carries. -/
structure PrgEntry where
  index : Nat
  cid : BitVec 16
  space : BitVec 8
  off : Word
  len : Nat
  tag : BitVec 4
  req : CoreAddr
  deriving DecidableEq, Repr

/-- A Page Request Message as the host link agent sends it (R249): function, Last, Page Request Group Index, address and the PASID prefix's space byte. -/
structure PageReq where
  vf : Nat
  last : Bool
  index : Nat
  addr : Word
  space : BitVec 8
  deriving DecidableEq, Repr

/-- One package: placement and image-generation tables, functions, partitions, pool memories, spare use, fabric ports, and the root of trust's own state: SPDM sessions
that open and that are finished, ports with an IDE key, whether the device has attested since the last hot reset, and its signed responses (request code and the two
signatures, R331), its firmware and the digests of its last measurements (R331), and the key slots that its supervisors have given to tenants (R299). `shots` are the shootdowns
under way by space and base, with the cores whose acknowledgements are to come (R198); `slideNo` numbers the slides; `downUntil` is when the host port is up again after a hot reset (R334); `groupGens` is the highest GEN of each group that the package was a member of, a counter of its root of
trust (R274, R276). `resetCause` is the bring-up step that failed, readable in the PF's config space (R356), and `hdm` the HDM decoders, by port the bytes of each Type 3 device found there
(R356 step 4). -/
structure Package where
  rpt : List RptEntry
  igt : List (Nat × Word)
  funcs : List (Nat × Func)
  parts : List (Nat × Partition)
  pool : List (Nat × Memory)
  poolBad : List (Nat × Nat)
  devMem : Memory
  absent : List Nat
  rowsUsed : List (Nat × Nat)
  engMap : List (Nat × Nat)
  ports : Vector Port 48
  modules : List (Nat × Nat)
  prg : List PrgEntry
  prgDropped : Nat
  pageReqs : List PageReq
  slides : List Slide
  slideNo : Nat
  shots : List (BitVec 8 × Word × List CoreAddr)
  bootGen : BitVec 32
  opening : List Nat
  sessions : List Nat
  attested : Bool
  ideKeys : List Nat
  inReset : Bool
  powerLimit : BitVec 16
  resetCause : Nat
  gateUntil : Word
  double : Vector Nat 8
  moving : List CoreAddr
  plodan : List Sealed
  outOfService : Bool
  spdm : List (BitVec 8 × Word × Word)
  measures : List (BitVec 384)
  firmware : List Byte
  keySlots : List (BitVec 12 × BitVec 4)
  groupGens : List (Nat × Nat)
  downUntil : Word
  hdm : List (Nat × Nat)
  dieCounts : List (Nat × Nat)
  fabricKeys : List Nat
  deriving DecidableEq, Repr

/-- Partition 0 holds whatever no other partition holds (R327); no partition is confidential before the PF makes it so. -/
def Partition.zero : Partition :=
  { sectors := BitVec.allOnes 32, fports := BitVec.allOnes 48, pports := BitVec.allOnes 16, conf := false, epoch := 0, stoppedAt := none }

/-- A package after its bring-up (R356) and before the host has written anything, with no Type 3 device at its pool ports and no device region placed. The power limit before the PF's first
command is the top of its range, 4,600 W (R358 gives no reset value: DESIGN CHOICE, log entry 2). -/
def Package.reset : Package :=
  { rpt := [], igt := [], funcs := [], parts := [(0, Partition.zero)], pool := [], poolBad := [], devMem := [], absent := [], rowsUsed := [], engMap := [],
    ports := Vector.replicate 48 Port.up, modules := [], prg := [], prgDropped := 0, pageReqs := [], slides := [], slideNo := 0, shots := [], bootGen := 0, opening := [], sessions := [], attested := false, ideKeys := [],
    inReset := false, powerLimit := 4600, resetCause := 0, gateUntil := 0, double := Vector.replicate 8 0, moving := [], plodan := [],
    outOfService := false, spdm := [], measures := [], firmware := [], keySlots := [], groupGens := [], downUntil := 0, hdm := [], dieCounts := [], fabricKeys := [] }

/-- What an event acts on beside the state (spec/95: events have no encoding): the source core of the arriving message, a port or slot or index,
words, a host command, an open image, placements, and what a pool agent has found at its ports (port and bytes). Each event's meaning says which it reads. -/
structure EvArg where
  src : CoreAddr
  idx : Nat
  n : Nat
  w : Word
  w2 : Word
  flag : Bool
  bytes : List Byte
  cmd : HostCmd
  img : OpenImage
  regions : List RptEntry := []
  found : List (Nat × Nat) := []
  deriving DecidableEq, Repr

/-- The empty event operand. -/
def EvArg.none : EvArg :=
  { src := 0, idx := 0, n := 0, w := 0, w2 := 0, flag := false, bytes := [], cmd := { vf := 0, queue := 0, dw := Vector.replicate 8 0 },
    img := { id := 0, ten := 0, gen := 0, code := [], pool := [], regions := [], relocs := [], binds := [] } }

/-- Which agent moves next: an event of the opcode table at a core. -/
structure Turn where
  core : CoreAddr
  what : Instr
  arg : EvArg
  deriving DecidableEq, Repr

/-- The whole machine. `at_` is the address of `here`; `slot` is the slot that issues; `turns` says which event at which core comes next, and when it
is empty the core `here` goes on by its own issue and dispatch rules. `flight` are the messages on their way in leaving order, `acks` the acknowledgements,
`transit` the messages between packages. `time` is the device timestamp, and `moved` the cores that have acted in its current cycle. `free` is the model's own counter for free values. -/
structure State where
  here : Core
  at_ : CoreAddr
  slot : Fin 4
  away : List (Nat × Core)
  flight : List Msg
  acks : List Ack
  transit : List Transit
  pkgs : List (Nat × Package)
  hostMem : Memory
  sy : Nat
  sz : Nat
  time : Word
  moved : List CoreAddr
  turns : List Turn
  ev : EvArg
  free : Nat
  deriving DecidableEq, Repr

/-- Why a step stops. `inReset`: the package of the acting core was left in reset by a failed bring-up (R356: "a step that fails leaves the device in
reset"); raised by `step` and by the event meanings through it. Safe: the hardware does nothing either. -/
inductive Fault where
  | inReset
  deriving DecidableEq, Repr

/-- Why an instruction has no meaning. `notModelled`: an instruction of the opcode table that the model has not reached, by its mnemonic; raised by an
arm of `exec` alone. Safe: nothing can be proved of what it does. -/
inductive Refusal where
  | notModelled (mnemonic : String)
  deriving DecidableEq, Repr

/-- The machine right after reset (R43, R356, R357): core (0,0) of die 0 of package 0 acts, no message is under way, the one package of the system is up,
and the device timestamp is zero (DESIGN CHOICE, log entry 2). -/
def State.reset : State :=
  { here := Core.reset, at_ := 0, slot := 0, away := [], flight := [], acks := [], transit := [], pkgs := [(0, Package.reset)], hostMem := [], sy := 1, sz := 1,
    time := 0, moved := [], turns := [], ev := EvArg.none, free := 0 }

end Sys2Proof.Machine
end

