-- ==== Sys2Proof/Config.lean ====
section
/-! DEFINITION. What an implementation fixes and the spec leaves open: free values. Every constant here has no body, so no proof can see its value and
a theorem holds whatever it is. -/

namespace Sys2Proof.Config

open Sys2Proof.Machine (KeyId Regs Csrs Send Lessee)

/-- Whether a granule written under one key passes its 16-bit tag check under another (R34: except with probability 2^-16). Arguments: the core, the
granule, the key it was written under, the key of the access, and the granule's 16 plaintext bytes as a number. -/
opaque tagCollides : CoreAddr → Nat → KeyId → KeyId → Nat → Bool

/-- The byte that a granule whose tag collides yields under the wrong key (R34: it decrypts to something unrelated). -/
opaque garble : CoreAddr → Nat → KeyId → KeyId → Nat → Byte

/-- A free word by serial number (the counter `State.free`). -/
opaque word : Nat → Word

/-- A free choice by serial number. -/
opaque choice : Nat → Nat

/-- The value of a special function that is neither a special nor an exact case (R113, R114: a bound only), by function number, lane type and
operand bits. -/
opaque special : Nat → Nat → Nat → Nat

/-- One step of the 64-bit fingerprint over retired instructions (R256: the spec names what it covers and no function): of the fingerprint so far, the instruction's pc, and
behind it the registers, its near stores by address and datum, and the messages of the outbox. -/
opaque fingerprint : Word → Word → Regs → Csrs → List (Nat × List Byte) → List Send → Word

/-- The bytes by which a save area holds a lessee's state (R319: 6 KiB, and no layout of them), by the serial number of the saving and the place in the area. -/
opaque saveByte : Nat → Nat → Byte

/-- The state that a save area yields whose bytes no saving has written. -/
opaque areaState : List Byte → Lessee

/-- KMAC256 under the device sealing key with the customization string of R306: the first 128 bits over the given bytes. The key never leaves the root
of trust, so no value of it is known. -/
opaque sealMac : List Byte → BitVec 128

/-- Whether Plodan proves that the region of the global access at a code address is owned by the tenant (R301). -/
opaque owned : BitVec 32 → BitVec 16 → Nat → Bool

/-- Which of its partition's free key slot numbers the supervisor gives a tenant (R299). -/
opaque keySlot : BitVec 12 → Nat

/-- The choice of the supervisor's placement plan: near base of the i-th declared region of an image (R301: any aligned free place). -/
opaque regionBase : BitVec 32 → Nat → Nat

/-- The near base the supervisor chooses for a persistent region (R164: not promised), by serial number. -/
opaque persistBase : Nat → Nat

/-- Where a keeper's spill region begins in space 0xFF (R284: the supervisor places it). -/
opaque anchorExtent : CoreAddr → Word

/-- Flits of receive buffer of a fabric port for one class and sub-channel beyond the 6 of a longest message (R266, R267: a reserve and no size). -/
opaque portBuffer : Nat

/-- Whether a trace collector that holds the given number of records has no room for one more (R345: the spec gives no buffer size). -/
opaque traceFull : Nat → Bool

/-- The info of a trap that the spec raises without one (R119), by cause, faulting address and time. -/
opaque info : BitVec 8 → Word → Word → Word

/-- Whether a value between −∞ and +∞, neighbours in an order list (R71: they have no midpoint), goes to the even one, by time and lane. -/
opaque midInf : Nat → Nat → Bool

/-- The trap MSI-X vector of a function (R243: the spec names no number). -/
opaque trapVector : Nat → BitVec 16

/-- Signatures, nonces, digests and certificates of SPDM responses (R331), by request code and serial number. -/
opaque spdm : Nat → Nat → Word

/-- The digest that a measurement takes of what it measures, 48 B (R274, R331). -/
opaque digest : List Byte → BitVec 384

/-- The measurement of a vendor's image (R331): the engine images by role number, and the Plodan image, whose bytes the spec does not give. -/
opaque imageDigest : Nat → BitVec 384

/-- Whether the Ed25519 and the ML-DSA-65 signature of a firmware image verify (R331). -/
opaque firmwareOk : List Byte → Bool × Bool

/-- Whether a pool port (0 to 15) or the host port (16) of a package can hold containment-mode IDE (R330). -/
opaque ideCapable : Nat → Bool

end Sys2Proof.Config
end

