-- ==== Sys2Proof/Machine/Mem.lean ====
section
/-! DEFINITION. Sparse byte memories in one canonical form, and association lists in one canonical form. -/

namespace Sys2Proof.Machine

/-- The byte at an address; an unlisted address reads as zero (R43). -/
def memByte : Memory → Nat → Byte
  | [], _ => 0
  | (k, b) :: t, a => if k = a then b else memByte t a

/-- The memory with one byte replaced; a zero byte is not listed. -/
def memSet : Memory → Nat → Byte → Memory
  | [], a, b => if b = 0 then [] else [(a, b)]
  | (k, c) :: t, a, b =>
    if a < k then (if b = 0 then (k, c) :: t else (a, b) :: (k, c) :: t)
    else if a = k then (if b = 0 then t else (a, b) :: t)
    else (k, c) :: memSet t a b

/-- The canonical form: addresses strictly rising and no listed byte zero. -/
def memWf : Memory → Bool
  | [] => true
  | [(_, b)] => b != 0
  | (k, b) :: (k', b') :: t => decide (k < k') && b != 0 && memWf ((k', b') :: t)

/-- The `n` bytes from an address. -/
def memRead (m : Memory) (a : Nat) : Nat → List Byte
  | 0 => []
  | n + 1 => memByte m a :: memRead m (a + 1) n

/-- The bytes stored from an address upward. -/
def memWrite (m : Memory) (a : Nat) : List Byte → Memory
  | [] => m
  | b :: bs => memWrite (memSet m a b) (a + 1) bs

/-- Little-endian value of `n` bytes (R2). -/
def memNat (m : Memory) (a n : Nat) : Nat := leNat (memRead m a n)

/-- The memory with every byte of a range zero. -/
def memClear (m : Memory) (a n : Nat) : Memory := m.filter fun c => decide (c.1 < a) || decide (a + n ≤ c.1)

/-- The memory that holds a list of bytes from an address and nothing else. -/
def memOf (a : Nat) : List Byte → Memory
  | [] => []
  | b :: bs => if b = 0 then memOf (a + 1) bs else (a, b) :: memOf (a + 1) bs

/-- Little-endian value of `n` bytes as a word of `w` bits. -/
def memBits (m : Memory) (a n w : Nat) : BitVec w := BitVec.ofNat w (memNat m a n)

/-- The entry of a key in an association list. -/
def look {α : Type} : List (Nat × α) → Nat → Option α
  | [], _ => none
  | (k, v) :: t, a => if k = a then some v else look t a

/-- The list with one key's entry replaced, keys rising. -/
def put {α : Type} : List (Nat × α) → Nat → α → List (Nat × α)
  | [], a, v => [(a, v)]
  | (k, u) :: t, a, v => if a < k then (a, v) :: (k, u) :: t else if a = k then (a, v) :: t else (k, u) :: put t a v

/-- The list without a key's entry. -/
def drop1 {α : Type} : List (Nat × α) → Nat → List (Nat × α)
  | [], _ => []
  | (k, u) :: t, a => if k = a then drop1 t a else (k, u) :: drop1 t a

/-- The list with one key's entry replaced, where an entry equal to the default is not listed. -/
def putD {α : Type} [DecidableEq α] (l : List (Nat × α)) (a : Nat) (v dflt : α) : List (Nat × α) :=
  if v = dflt then drop1 l a else put l a v

/-- A sorted list of numbers with one more. -/
def insertNat : List Nat → Nat → List Nat
  | [], a => [a]
  | k :: t, a => if a < k then a :: k :: t else if a = k then k :: t else k :: insertNat t a

/-- The first element that a condition selects, and the list without it. -/
def takeFirst {α : Type} (p : α → Bool) : List α → Option (α × List α)
  | [] => none
  | x :: t => if p x then some (x, t) else (takeFirst p t).map fun r => (r.1, x :: r.2)

/-- The list with `f` applied to the first element that a condition selects. -/
def mapFirst {α : Type} (p : α → Bool) (f : α → α) : List α → List α
  | [] => []
  | x :: t => if p x then f x :: t else x :: mapFirst p f t

end Sys2Proof.Machine
end

