-- ==== Sys2Proof/Machine/Addr.lean ====
section
/-! DEFINITION. Core addresses, message headers and payloads (R170, R222, R262). -/

namespace Sys2Proof.Machine

/-- Package number of a core address (R170). -/
def pkgOf (a : CoreAddr) : Nat := (fld a 15 14).toNat
/-- Die of a core address. -/
def dieOf (a : CoreAddr) : Nat := (fld a 12 3).toNat
/-- Row of a core address. -/
def yOf (a : CoreAddr) : Nat := (fld a 6 6).toNat
/-- Column of a core address. -/
def xOf (a : CoreAddr) : Nat := (fld a 0 6).toNat

/-- The core address of a package, die, row and column (R262). -/
def mkAddr (pkg die y x : Nat) : CoreAddr := BitVec.ofNat 29 (pkg * 0x8000 + die * 0x1000 + y * 0x40 + x)

/-- A compute core's place: y 0 to 31, x 0 to 47 (R174). -/
def isCompute (a : CoreAddr) : Bool := decide (yOf a ≤ 31) && decide (xOf a ≤ 47)

/-- An engine core's place: y 62 or 63, x 0 to 47 (R174, R222). -/
def isEngine (a : CoreAddr) : Bool := decide (62 ≤ yOf a) && decide (xOf a ≤ 47)

/-- R174: a core exists for every package and die value at these places. -/
def namesCore (a : CoreAddr) : Bool := isCompute a || isEngine a

/-- Flat core number (R262). -/
def flatOf (a : CoreAddr) : Nat := pkgOf a * 12288 + dieOf a * 1536 + yOf a * 48 + xOf a

/-- The core address of a flat core number (R262). -/
def ofFlat (n : Nat) : CoreAddr := mkAddr (n / 12288) (n / 1536 % 8) (n / 48 % 32) (n % 48)

/-- Engine number (R221). -/
def engineNo (a : CoreAddr) : Nat := dieOf a * 96 + (yOf a - 62) * 48 + xOf a

/-- The supervisor core that serves a core (R242): floor(y/8) of its die, or floor(x/12) for an engine core. -/
def supervisorOf (a : CoreAddr) : CoreAddr :=
  let k := if isEngine a then xOf a / 12 else yOf a / 8
  mkAddr (pkgOf a) (dieOf a) (62 + k / 2) (39 + k % 2)

/-- Supervisor core 0 of a die. -/
def supervisor0 (pkg die : Nat) : CoreAddr := mkAddr pkg die 62 39

/-- The trace collector that serves a core (R345). -/
def collectorOf (a : CoreAddr) : CoreAddr :=
  let k := if isEngine a then xOf a / 12 else yOf a / 8
  mkAddr (pkgOf a) (dieOf a) (62 + k / 2) (41 + k % 2)

/-- Anchor keeper k of a die (R278). -/
def keeperAt (pkg die k : Nat) : CoreAddr := mkAddr pkg die (62 + k / 4) (24 + k % 4)

/-- The local keeper of a core: keeper floor(y/4) of its die (R282). -/
def localKeeper (a : CoreAddr) : CoreAddr := keeperAt (pkgOf a) (dieOf a) (yOf a / 4)

/-- The home keeper of a group (R278). -/
def homeKeeper (pkg gid : Nat) : CoreAddr := keeperAt pkg (gid / 8 % 8) (gid % 8)

/-- A place of an anchor keeper (R222). -/
def isKeeper (a : CoreAddr) : Bool := isEngine a && decide (24 ≤ xOf a) && decide (xOf a ≤ 27)

/-- Copy engine e of a die (R222). -/
def copyEngine (pkg die e : Nat) : CoreAddr := mkAddr pkg die (62 + e / 16) (e % 16)

/-- A place of a copy engine. -/
def isCopyEngine (a : CoreAddr) : Bool := isEngine a && decide (xOf a ≤ 15)

/-- Launch and collective engine 0 of a die (R222). -/
def launchEngine (pkg die : Nat) : CoreAddr := mkAddr pkg die 62 32

/-- The x places of an engine role that has several engines on a die (R222), by one of them. -/
def roleSpan (x : Nat) : Option (Nat × Nat) :=
  if x ≤ 15 then some (0, 15) else if x ≤ 23 then some (16, 23) else if x ≤ 27 then some (24, 27) else if x ≤ 31 then some (28, 31) else if x ≤ 35 then some (32, 35)
  else if x ≤ 38 then some (36, 38) else if x ≤ 40 then some (39, 40) else if x ≤ 42 then some (41, 42) else none

/-- The engines of a die that have one engine's role, in engine order (R222). -/
def roleMates (a : CoreAddr) : List CoreAddr :=
  match roleSpan (xOf a) with
  | some (lo, hi) => (List.range 2).flatMap fun r => (List.range (hi + 1 - lo)).map fun i => mkAddr (pkgOf a) (dieOf a) (62 + r) (lo + i)
  | none => []

/-- The host link agent of a package (R222). -/
def hostAgent (pkg : Nat) : CoreAddr := mkAddr pkg 0 62 43

/-- The pool agent of a port (R205). -/
def poolAgent (pkg port : Nat) : CoreAddr := mkAddr pkg (port / 2) 62 (46 + port % 2)

/-- A place of a pool agent (R222). -/
def isPoolAgent (a : CoreAddr) : Bool := decide (yOf a = 62) && decide (46 ≤ xOf a) && decide (xOf a ≤ 47)

/-- The pool port that a pool agent serves (R222). -/
def poolPort (a : CoreAddr) : Nat := dieOf a * 2 + (xOf a - 46)

/-- First near address past a core's local memory (R32, R221). -/
def nearEnd (a : CoreAddr) : Nat := if isEngine a then 0x10000 else 0x40000

/-- Neighbour of a compute core through a port, if the die has one (R185): 0 east, 1 west, 2 north, 3 south. -/
def neighbour (a : CoreAddr) (port : Nat) : Option CoreAddr :=
  let x := xOf a; let y := yOf a
  match port with
  | 0 => if x < 47 then some (mkAddr (pkgOf a) (dieOf a) y (x + 1)) else none
  | 1 => if 0 < x then some (mkAddr (pkgOf a) (dieOf a) y (x - 1)) else none
  | 2 => if 0 < y then some (mkAddr (pkgOf a) (dieOf a) (y - 1) x) else none
  | _ => if y < 31 then some (mkAddr (pkgOf a) (dieOf a) (y + 1) x) else none

/-- The port at the other end of a link. -/
def opposite (port : Nat) : Nat := match port with | 0 => 1 | 1 => 0 | 2 => 3 | _ => 2

/-- The cores of a rectangle in row-major order from its corner (R176, R195). -/
def rectangle (corner : CoreAddr) (w h : Nat) : List CoreAddr :=
  (List.range (w * h)).map fun t => mkAddr (pkgOf corner) (dieOf corner) (yOf corner + t / w) (xOf corner + t % w)

/-! Message kinds (R170). -/

/-- Kind call. -/
def kCall : BitVec 2 := 0
/-- Kind put. -/
def kPut : BitVec 2 := 1
/-- Kind reply. -/
def kReply : BitVec 2 := 2
/-- Kind system. -/
def kSystem : BitVec 2 := 3

/-- The header of R170 from its fields; the last six are the flags A, L, M, P, E, D. -/
def mkHdr (dst src : CoreAddr) (ch : BitVec 8) (cid pseq : BitVec 16) (flits : Nat) (kind : BitVec 2) (paddr : BitVec 18)
    (a l m p e d : Bool) : BitVec 128 :=
  dst ++ src ++ ch ++ cid ++ pseq ++ BitVec.ofNat 4 flits ++ kind ++ paddr ++ BitVec.ofBool a ++ BitVec.ofBool l ++
    BitVec.ofBool m ++ BitVec.ofBool p ++ BitVec.ofBool e ++ BitVec.ofBool d

/-- DST. -/
def Msg.dst (m : Msg) : CoreAddr := fld m.hdr 99 29
/-- SRC. -/
def Msg.src (m : Msg) : CoreAddr := fld m.hdr 70 29
/-- CH. -/
def Msg.ch (m : Msg) : BitVec 8 := fld m.hdr 62 8
/-- The containment ID: TEN and SUB. -/
def Msg.cid (m : Msg) : BitVec 16 := fld m.hdr 46 16
/-- TEN. -/
def Msg.ten (m : Msg) : BitVec 12 := fld m.hdr 50 12
/-- PSEQ. -/
def Msg.pseq (m : Msg) : BitVec 16 := fld m.hdr 30 16
/-- FLITS. -/
def Msg.flits (m : Msg) : Nat := (fld m.hdr 26 4).toNat
/-- KIND. -/
def Msg.kind (m : Msg) : BitVec 2 := fld m.hdr 24 2
/-- PADDR. -/
def Msg.paddr (m : Msg) : Nat := (fld m.hdr 6 18).toNat
/-- Flag A. -/
def Msg.aFlag (m : Msg) : Bool := bit m.hdr 5
/-- Flag P. -/
def Msg.pFlag (m : Msg) : Bool := bit m.hdr 2
/-- Flag E. -/
def Msg.eFlag (m : Msg) : Bool := bit m.hdr 1

/-- A reply with E set is a NACK (R171). -/
def Msg.isNack (m : Msg) : Bool := m.kind == kReply && m.eFlag

/-- Flit `i` of the payload; zero beyond it (R28). -/
def Msg.flit (m : Msg) (i : Nat) : Strip := m.pay.getD i 0

/-- Doubleword `i` of the payload, counted over all flits; zero beyond it. -/
def Msg.dw (m : Msg) (i : Nat) : Word := fld (m.flit (i / 4)) (64 * (i % 4)) 64

/-- Byte `i` of the payload. -/
def Msg.byte (m : Msg) (i : Nat) : Byte := fld (m.flit (i / 32)) (8 * (i % 32)) 8

/-- A flit of four little-endian doublewords. -/
def flit4 (d0 d1 d2 d3 : Word) : Strip := d3 ++ d2 ++ d1 ++ d0

/-- The flits of a list of bytes, the last padded with zero. -/
def flitsOf (bs : List Byte) : List Strip :=
  (List.range ((bs.length + 31) / 32)).map fun i => BitVec.ofNat 256 (leNat ((bs.drop (32 * i)).take 32))

/-- The bytes of a list of flits. -/
def flitBytes (fs : List Strip) : List Byte := fs.flatMap fun f => leBytes 32 f.toNat

/-- The eight doublewords of a record as two flits. -/
def recFlits (r : Vector Word 8) : List Strip := [flit4 r[0] r[1] r[2] r[3], flit4 r[4] r[5] r[6] r[7]]

/-- Whether a message's kind is system on a channel of the system range (R171, R174). -/
def sysKind (classS : Bool) (ch : BitVec 8) : BitVec 2 := if classS && sysChannel ch then kSystem else kCall

end Sys2Proof.Machine
end

