-- ==== Sys2Proof/Machine/Local.lean ====
section
/-! DEFINITION. Local memory under the local cipher (R32 to R35, R258): keys, tags, checked reads and writes, and the trap that a failing check raises. -/

namespace Sys2Proof.Machine

/-! Cause codes (R238). -/

/-- UNDEF. -/
def cUndef : Cause := 0x01
/-- FETCHDATA. -/
def cFetchData : Cause := 0x02
/-- BOUNDS. -/
def cBounds : Cause := 0x03
/-- KEYTAG. -/
def cKeyTag : Cause := 0x04
/-- NACKWIN. -/
def cNackWin : Cause := 0x05
/-- NACKQUOTA. -/
def cNackQuota : Cause := 0x06
/-- OUTBOX. -/
def cOutbox : Cause := 0x07
/-- BUDGET. -/
def cBudget : Cause := 0x08
/-- OFFROUTE. -/
def cOffRoute : Cause := 0x09
/-- RESCALE. -/
def cRescale : Cause := 0x0A
/-- POISON. -/
def cPoison : Cause := 0x0B
/-- PLACEMENT. -/
def cPlacement : Cause := 0x0C
/-- SLOTSTATE. -/
def cSlotState : Cause := 0x0D
/-- CAPABILITY. -/
def cCapability : Cause := 0x0E
/-- ALIGN. -/
def cAlign : Cause := 0x0F
/-- LINKSTATE. -/
def cLinkState : Cause := 0x10
/-- ASCENT. -/
def cAscent : Cause := 0x11
/-- COMPFAIL. -/
def cCompFail : Cause := 0x12
/-- ECCU. -/
def cEccu : Cause := 0x13
/-- PAIRMISM. -/
def cPairMism : Cause := 0x14
/-- BARRIER. -/
def cBarrier : Cause := 0x15
/-- REVOKED. -/
def cRevoked : Cause := 0x16
/-- TRAPINST. -/
def cTrapInst : Cause := 0x17
/-- DOUBLE. -/
def cDouble : Cause := 0x18
/-- STREAM. -/
def cStream : Cause := 0x1A
/-- DECODE. -/
def cDecode : Cause := 0x1B

/-- A trap of an instruction with no memory access (R240): FADDR 0. -/
def Trap.plain (c : Cause) (v : Word) : Trap := { cause := c, value := v, faddr := 0, near := false, imem := false, fspace := 0 }

/-- A trap of a near access at `a`. -/
def Trap.atNear (c : Cause) (v a : Word) : Trap := { cause := c, value := v, faddr := a, near := true, imem := false, fspace := 0 }

/-- A trap of a fetch or a PC-relative access at offset `a` of the extent. -/
def Trap.atImem (c : Cause) (v a : Word) : Trap := { cause := c, value := v, faddr := a, near := false, imem := true, fspace := 0 }

/-- A trap of a global access at offset `a` of a space. -/
def Trap.atSpace (c : Cause) (v : Word) (space : BitVec 8) (a : Word) : Trap :=
  { cause := c, value := v, faddr := a, near := false, imem := false, fspace := space }

/-- A trap over an access at `a` by base field (R240): a PC-relative one sets IMEM for PLACEMENT and ALIGN alone. -/
def Trap.atBase (base : BitVec 5) (c : Cause) (v a : Word) : Trap :=
  if base ≠ 0 then .atNear c v a else if c = cPlacement ∨ c = cAlign then .atImem c v a else .atSpace c v 0 a

/-- The key that a granule was last written under. -/
def LocalMem.tag (m : LocalMem) (g : Nat) : KeyId := (look m.tags g).getD KeyId.system

/-- The plaintext of a granule as a number. -/
def LocalMem.plain (m : LocalMem) (g : Nat) : Nat := memNat m.bytes (16 * g) 16

/-- TagOK(G, k) (R34): the tag verifies under the key it was written with, and under another key only by a collision. -/
def LocalMem.tagOk (m : LocalMem) (at_ : CoreAddr) (key : KeyId) (g : Nat) : Bool :=
  m.tag g == key || Config.tagCollides at_ g (m.tag g) key (m.plain g)

/-- A byte as an access under `key` reads it. -/
def LocalMem.byte (m : LocalMem) (at_ : CoreAddr) (key : KeyId) (a : Nat) : Byte :=
  if m.tag (a / 16) = key then memByte m.bytes a else Config.garble at_ a (m.tag (a / 16)) key (m.plain (a / 16))

/-- The granules that `n` bytes from `a` touch, lowest first. -/
def granules (a n : Nat) : List Nat :=
  if n = 0 then [] else (List.range ((a + n - 1) / 16 - a / 16 + 1)).map (a / 16 + ·)

/-- Whether `n` bytes from `a` cover a whole granule. -/
def covers (a n g : Nat) : Bool := decide (a ≤ 16 * g) && decide (16 * g + 16 ≤ a + n)

/-- The first failing granule check of an access (R32, R203), by cause and granule address: an uncorrectable error or a poisoned mark, then the tag. A store
that writes a poisoned granule whole passes it without either check (R258). -/
def LocalMem.firstBad (m : LocalMem) (at_ : CoreAddr) (key : KeyId) (store : Bool) (a n : Nat) : List Nat → Option (Cause × Nat)
  | [] => none
  | g :: gs =>
    if store && m.poison.contains g && covers a n g then m.firstBad at_ key store a n gs
    else if m.bad.contains g || m.poison.contains g then some (cEccu, 16 * g)
    else if m.tagOk at_ key g then m.firstBad at_ key store a n gs
    else some (cKeyTag, 16 * g)

/-- The granule checks of one access. -/
def LocalMem.check (m : LocalMem) (at_ : CoreAddr) (key : KeyId) (store : Bool) (a n : Nat) : Option (Cause × Nat) :=
  m.firstBad at_ key store a n (granules a n)

/-- The bytes that an access under `key` reads. -/
def LocalMem.read (m : LocalMem) (at_ : CoreAddr) (key : KeyId) (a : Nat) : Nat → List Byte
  | 0 => []
  | n + 1 => m.byte at_ key a :: m.read at_ key (a + 1) n

/-- A granule encrypted anew under `key` with the plaintext that `key` sees in it (R34: a store writes each granule whole). -/
def LocalMem.rekey (at_ : CoreAddr) (key : KeyId) (m : LocalMem) (g : Nat) : LocalMem :=
  if m.tag g = key then m
  else { m with
    bytes := memWrite m.bytes (16 * g) (m.read at_ key (16 * g) 16)
    tags := putD m.tags g key KeyId.system }

/-- Bytes stored from `a` under `key` (R34); a poisoned granule written whole loses its mark (R258). -/
def LocalMem.write (m : LocalMem) (at_ : CoreAddr) (key : KeyId) (a : Nat) (bs : List Byte) : LocalMem :=
  let r := (granules a bs.length).foldl (LocalMem.rekey at_ key) m
  { r with bytes := memWrite r.bytes a bs, poison := r.poison.filter fun g => !covers a bs.length g }

/-- The key of a key slot at a core (R33, R318): slot 0 is the system's; a slot from 1 to 15 has the key of its last `keyset`, and before one a key of
no tenant. -/
def Core.key (c : Core) (k : BitVec 4) : KeyId :=
  if k = 0 then KeyId.system else (c.regs.keys[k.toNat]).getD { ptn := 0, epoch := 0, ten := 0, slot := k }

end Sys2Proof.Machine
end

