-- ==== Sys2Proof/Machine/Dies.lean ====
section
/-! DEFINITION. The eight dies of a package and the boundaries between them (R263, R264). -/

namespace Sys2Proof.Machine

/-- The ten boundaries as pairs of dies: side by side, then one above the other (R263). -/
def boundaries : List (Nat × Nat) := [(0, 1), (1, 2), (2, 3), (4, 5), (5, 6), (6, 7), (0, 4), (1, 5), (2, 6), (3, 7)]

/-- Modules withdrawn at a boundary. -/
def Package.lostModules (k : Package) (b : Nat) : Nat := (look k.modules b).getD 0

/-- Two dies share a boundary that has a module left (R264). -/
def Package.touches (k : Package) (d e : Nat) : Bool :=
  boundaries.zipIdx.any fun b => decide (k.lostModules b.2 < 12) && ((b.1.1 == d && b.1.2 == e) || (b.1.1 == e && b.1.2 == d))

/-- The next die of the direct way (R263): to the destination's column, then to its row. -/
def dieStep (d e : Nat) : Nat := if d % 4 < e % 4 then d + 1 else if e % 4 < d % 4 then d - 1 else (d + 4) % 8

/-- The dies of the direct way, both ends among them. -/
def directDies : Nat → Nat → Nat → List Nat
  | 0, d, _ => [d]
  | fuel + 1, d, e => if d = e then [d] else d :: directDies fuel (dieStep d e) e

/-- Every boundary of a way has a module left. -/
def Package.open_ (k : Package) : List Nat → Bool
  | d :: e :: rest => k.touches d e && k.open_ (e :: rest)
  | _ => true

/-- Ways, each held backwards, one boundary longer and through no die twice. -/
def Package.longer (k : Package) (ps : List (List Nat)) : List (List Nat) :=
  ps.flatMap fun p => ((List.range 8).filter fun d => !p.contains d && p.head?.any fun e => k.touches e d).map (· :: p)

/-- A shortest way to a die among ways and their extensions. -/
def Package.search (k : Package) (e : Nat) : Nat → List (List Nat) → Option (List Nat)
  | 0, _ => none
  | fuel + 1, ps => match ps.find? fun p => p.head? == some e with
    | some p => some p.reverse
    | none => k.search e fuel (k.longer ps)

/-- The dies that a message passes from one die to another: the direct way (R263), or, where a boundary of it has lost every module, a shortest way round (R264: which one is not
said; DESIGN CHOICE, log entry 39); none if the dies have no way left between them. -/
def Package.dieWay (k : Package) (d e : Nat) : Option (List Nat) :=
  if k.open_ (directDies 4 d e) then some (directDies 4 d e) else k.search e 8 [[d]]

/-- Every pair of dies has a way (R264). -/
def Package.joined (k : Package) : Bool := (List.range 8).all fun d => (k.dieWay 0 d).isSome

end Sys2Proof.Machine
end

