-- ==== Sys2Proof/Machine/Sector.lean ====
section
/-! DEFINITION. Sectors and hard partitions (R326, R327). -/

namespace Sys2Proof.Machine

/-- Quarter of its die that a core belongs to (R326): floor(y/8) of a compute core; by role and number of an engine. Which four of the die's other engines a
quarter holds is the model's choice (DESIGN CHOICE, log entry 16). -/
def quarterOf (a : CoreAddr) : Nat :=
  let x := xOf a
  let r := yOf a - 62
  if !isEngine a then yOf a / 8
  else if x < 16 then (x + 16 * r) / 8
  else if x < 24 then (x - 16 + 8 * r) / 4
  else if x < 28 then (x - 24 + 4 * r) / 2
  else if x < 32 then (x - 28 + 4 * r) / 2
  else if x < 36 then (x - 32 + 4 * r) / 2
  else if x < 39 then (x - 36 + 8 * r) / 4
  else if x < 41 then x - 39 + 2 * r
  else if x < 43 then x - 41 + 2 * r
  else (x - 40 + 8 * r) / 4

/-- Sector of a core (R326). -/
def sectorOf (a : CoreAddr) : Nat := 4 * dieOf a + quarterOf a

/-- Fabric port engine's lowest port: port p is driven by engine p mod 6 of die floor(p/6) (R265). -/
def fabricPort (a : CoreAddr) : Nat := 6 * dieOf a + (xOf a - 36 + 3 * (yOf a - 62))

/-- A place of a fabric port engine (R222). -/
def isFabricEngine (a : CoreAddr) : Bool := isEngine a && decide (36 ≤ xOf a) && decide (xOf a ≤ 38)

/-- Partition number of a core: that of its sector, or of its port for a fabric port engine or pool agent; partition 0 holds whatever no other one
holds (R326, R327). -/
def Package.partOf (k : Package) (a : CoreAddr) : Nat :=
  match k.parts.find? fun p => p.1 != 0 &&
      (if isFabricEngine a then bit p.2.fports (fabricPort a)
       else if isPoolAgent a then bit p.2.pports (poolPort a)
       else bit p.2.sectors (sectorOf a)) with
  | some p => p.1
  | none => 0

/-- A partition's record. -/
def Package.part (k : Package) (n : Nat) : Partition := (look k.parts n).getD Partition.zero

end Sys2Proof.Machine
end

