-- ==== Sys2Proof/Machine/Net.lean ====
section
/-! DEFINITION. How messages leave a core (R159, R175 to R179), placement lookups (R194 to R197), fault tags (R247), NACKs (R171) and acknowledgements
(R177). -/

namespace Sys2Proof.Machine

/-! Cores and packages of the machine. -/

/-- A core of the system by its address. -/
def State.core (s : State) (a : CoreAddr) : Core := if a = s.at_ then s.here else (look s.away a.toNat).getD Core.reset

/-- The machine with one core replaced. -/
def State.setCore (s : State) (a : CoreAddr) (c : Core) : State :=
  if a = s.at_ then { s with here := c } else { s with away := put s.away a.toNat c }

/-- The machine with another core acting: the one that acted joins the others. -/
def State.focus (s : State) (a : CoreAddr) : State :=
  if a = s.at_ then s
  else { s with here := (look s.away a.toNat).getD Core.reset, at_ := a, away := put (drop1 s.away a.toNat) s.at_.toNat s.here }

/-- The machine with something done at another core. -/
def State.at (s : State) (a : CoreAddr) (f : State → State) : State := (f (s.focus a)).focus s.at_

/-- A package by its number. -/
def State.pkg (s : State) (p : Nat) : Package := (look s.pkgs p).getD Package.reset

/-- The machine with one package replaced. -/
def State.setPkg (s : State) (p : Nat) (k : Package) : State := { s with pkgs := put s.pkgs p k }

/-- The package of the acting core. -/
def State.home (s : State) : Package := s.pkg (pkgOf s.at_)

/-- The machine with the acting core's package changed. -/
def State.modHome (s : State) (f : Package → Package) : State := s.setPkg (pkgOf s.at_) (f s.home)

/-- The machine with the acting core's interface changed. -/
def State.modNet (s : State) (f : Iface → Iface) : State := { s with here := { s.here with net := f s.here.net } }

/-- The engine that does an engine's work: itself, or, once its role is absent for want of a spare, the first other engine of the role on its die that is there (R260; which one the
supervisor takes is not said: DESIGN CHOICE, log entry 68). -/
def State.standIn (s : State) (a : CoreAddr) : CoreAddr :=
  let gone := fun (b : CoreAddr) => (s.pkg (pkgOf b)).absent.contains b.toNat
  if isEngine a && gone a then ((roleMates a).find? fun b => !gone b).getD a else a

/-- The supervisor core that serves the acting core (R242, R260). -/
def State.supervisor (s : State) : CoreAddr := s.standIn (supervisorOf s.at_)

/-- A free word and the machine with the free-value counter advanced. -/
def State.freeWord (s : State) : Word × State := (Config.word s.free, { s with free := s.free + 1 })

/-- The function that a tenant has (R332): its number and record, if some valid VF record names the tenant. -/
def Package.vfOf (k : Package) (ten : BitVec 12) : Option (Nat × Func) :=
  (k.funcs.find? fun f => f.2.valid && (fld (f.2.rec16[0]) 0 12 == ten)).map id

/-- An interrupt of a function is raised; one due while the host port is down, until `up`, is dropped (R334). -/
def Func.interrupt (f : Func) (v : BitVec 16) (due up : Word) : Func := if due.toNat < up.toNat then f else { f with raised := f.raised ++ [v] }

/-- TRAPCORE entry `i` of a VF record, if its TV bit is 1 (R332). -/
def Func.trapCore (f : Func) (i : Nat) : Option CoreAddr :=
  let w : Word := (f.rec16.toList.getD (6 + i / 2) 0) >>> (32 * (i % 2))
  if bit w 31 then some (fld w 0 29) else none

/-! Sends. -/

/-- The unicast copies of a send, with the M flag (R176). A global request has none before its lookup. -/
def Send.copies : Send → List (CoreAddr × BitVec 2 × BitVec 8 × BitVec 18 × List Strip × Bool)
  | .uni d k ch pa pay => [(d, k, ch, pa, pay, false)]
  | .copy d k ch pay => [(d, k, ch, 0, pay, true)]
  | .multi c w h ch pay => (rectangle c w h).map fun d => (d, kCall, ch, 0, pay, true)
  | .glob _ => []

/-- Bytes that a send counts in the outbox: 16 and its payload; a global move counts 16 and LEN (R159, R206). -/
def Send.size : Send → Nat
  | .uni _ _ _ _ pay => 16 + 32 * pay.length
  | .copy _ _ _ pay => 16 + 32 * pay.length
  | .multi _ _ _ _ pay => 16 + 32 * pay.length
  | .glob r => if r.op = 3 ∨ r.op = 4 ∨ r.op = 5 then 16 + r.len else 48

/-- The next pair sequence number to a destination. -/
def Iface.nextPseq (n : Iface) (d : CoreAddr) : BitVec 16 := (look n.pseqs d.toNat).getD 0

/-- The record of the partition that a core belongs to. -/
def State.partition (s : State) (a : CoreAddr) : Partition := (s.pkg (pkgOf a)).part ((s.pkg (pkgOf a)).partOf a)

/-- A package that a hop may go to: in the system and in service (R269). -/
def State.inService (s : State) (p : Nat) : Bool :=
  match look s.pkgs p with
  | some k => !k.outOfService
  | none => false

/-- Partition of a message: its source's. -/
def State.msgPart (s : State) (m : Msg) : Nat := (s.pkg (pkgOf m.src)).partOf m.src

/-- A message is of a confidential partition, so that it crosses die boundaries and links encrypted (R329). -/
def State.sealedMsg (s : State) (m : Msg) : Bool := ((s.pkg (pkgOf m.src)).part (s.msgPart m)).conf

/-- The counter of a partition's encrypted messages over a die boundary in one direction goes on (R329). -/
def countDies (part : Nat) (l : List (Nat × Nat)) (b : Nat × Nat) : List (Nat × Nat) :=
  let k := 64 * part + 8 * b.1 + b.2
  put l k ((look l k).getD 0 + 1)

/-- A message passes from a die of a package to another: an encrypted one takes its partition's counter at each boundary of its way, as it is encrypted once for each hop (R263, R329). -/
def State.passDies (s : State) (pkg d e : Nat) (m : Msg) : State :=
  let k := s.pkg pkg
  match s.sealedMsg m, k.dieWay d e with
  | true, some w => s.setPkg pkg { k with dieCounts := (w.zip w.tail).foldl (countDies (s.msgPart m)) k.dieCounts }
  | _, _ => s

/-- A message on its way: within a package it is in flight to its destination, over the dies between (R263); to another package, or to a die to which no way is left, it is in
transit (R264, R268). -/
def State.fly (s : State) (m : Msg) : State :=
  if pkgOf m.dst = pkgOf s.at_ ∧ (dieOf m.dst = dieOf s.at_ ∨ (s.home.dieWay (dieOf s.at_) (dieOf m.dst)).isSome) then
    let s := s.passDies (pkgOf s.at_) (dieOf s.at_) (dieOf m.dst) m
    { s with flight := s.flight ++ [m] }
  else { s with transit := s.transit ++ [{ msg := m, pkg := pkgOf s.at_, det := 0, upper := false, port := none, inPort := none }] }

/-- One message leaves the acting core: it takes the pair's next PSEQ (R178) and stands unsettled at the interface until it is settled (R177, R245). -/
def State.emit1 (s : State) (d : CoreAddr) (kind : BitVec 2) (ch : BitVec 8) (paddr : BitVec 18) (pay : List Strip)
    (it : OutItem) (m e : Bool) : State :=
  let q := s.here.net.nextPseq d
  let hdr := mkHdr d s.at_ ch it.cid q pay.length kind paddr it.a it.l m it.p e false
  let s := s.modNet fun n => { n with
    pseqs := put n.pseqs d.toNat (q + 1)
    sent := n.sent ++ [{ dst := d, pseq := q, org := it.org, ord := it.ord, cid := it.cid, space := it.space, off := it.off, glob := it.glob, who := it.who, done := false }] }
  s.fly { hdr := hdr, aword := if it.a then it.aword else 0, pay := pay, pool := it.pool, sys := it.sys, comp := it.comp }

/-- What a core holds for a tenant: the lessee's live state, or another tenant's saved one (R252). -/
def Core.lesseeOf (c : Core) (ten : BitVec 12) : Lessee :=
  if ten = c.regs.lessee then c.live
  else match c.saved.find? fun v => v.ten == ten with
    | some v => v.lessee
    | none => Lessee.zero

/-- A core with what it holds for a tenant changed. -/
def Core.modLessee (c : Core) (ten : BitVec 12) (f : Lessee → Lessee) : Core :=
  if ten = c.regs.lessee then { c with live := f c.live }
  else { c with saved := c.saved.map fun v => if v.ten == ten then { v with lessee := f v.lessee } else v }

/-- Tenant of a containment ID (R170). -/
def cidTen (cid : BitVec 16) : BitVec 12 := fld cid 4 12

/-- A send leaves: every copy of it (R176). -/
def State.emitAll (s : State) (it : OutItem) : State :=
  it.send.copies.foldl (fun s c => s.emit1 c.1 c.2.1 c.2.2.1 c.2.2.2.1 c.2.2.2.2.1 it c.2.2.2.2.2 it.e) s

/-- A send leaves. A launch vote leaves only if it belongs to the core's current launch and the core has not voted in it (R167). -/
def State.emit (s : State) (it : OutItem) : State :=
  match it.who with
  | .vote n =>
    let x := s.here.lesseeOf (cidTen it.cid)
    if x.voted ∨ x.wakes ≠ n then s
    else { s with here := s.here.modLessee (cidTen it.cid) fun x => { x with voted := true } }.emitAll it
  | _ => s.emitAll it

/-- A send that no activation makes: an interface's, a vendor handler's or an engine's own message. -/
def OutItem.own (send : Send) (cid : BitVec 16) : OutItem :=
  { send := send, l := false, cid := cid, aword := 0, a := false, p := false, e := false, org := Origin.none, ord := 0, part := 1, who := .plain, tag := none, pool := 0, space := 0, off := 0, glob := false, sys := true }

/-- The destinations of a send that are known. -/
def Send.dsts (x : Send) : List CoreAddr := x.copies.map (·.1)

/-- Whether a send still waits for its placement. -/
def Send.isGlob : Send → Bool
  | .glob _ => true
  | _ => false

/-- Unsettled messages to a destination (R178). -/
def Iface.unsettled (n : Iface) (d : CoreAddr) : Nat := (n.sent.filter fun r => !r.done && r.dst == d).length

/-- A message that the interface or an engine's image makes leaves at once, or waits in the egress while its destination has 32,768 unsettled ones (R178). -/
def State.leaveOwn (s : State) (it : OutItem) : State :=
  if it.send.dsts.all fun d => decide (s.here.net.unsettled d < 32768) then s.emit it else s.modNet fun n => { n with egress := n.egress ++ [it] }

/-- A system or call message that the acting core's interface or engine image sends. -/
def State.sendOwn (s : State) (d : CoreAddr) (kind : BitVec 2) (ch : BitVec 8) (cid : BitVec 16) (pay : List Strip) : State :=
  s.leaveOwn (OutItem.own (.uni d kind ch 0 pay) cid)

/-- R177, R179: every earlier message of the activation is settled: none unsettled at the interface, none among those still waiting. -/
def earlierSettled (n : Iface) (blocked : List OutItem) (aseq : Word) (ord : Nat) : Bool :=
  !(n.sent.any fun r => !r.done && r.org.aseq == aseq && decide (r.ord < ord)) && !(blocked.any fun b => b.org.aseq == aseq && decide (b.ord < ord))

/-- Whether an earlier send of the same activation still waits in the egress for one of a send's destinations (R178, R179). Sends of other activations and of the interface are
not ordered by the egress (R175, R211). -/
def behind (blocked : List OutItem) (it : OutItem) : Bool :=
  it.org.aseq != 0 && blocked.any fun b => b.org.aseq == it.org.aseq && it.send.dsts.any fun d => b.send.dsts.contains d

/-- Whether a send can leave now, behind the sends that stay blocked before it (R178, R179). -/
def canLeave (n : Iface) (blocked : List OutItem) (it : OutItem) : Bool :=
  !it.send.isGlob &&
  (!it.l || it.org.aseq == 0 || earlierSettled n blocked it.org.aseq it.ord) &&
  it.send.dsts.all (fun d => decide (n.unsettled d < 32768)) && !behind blocked it

/-- A send as it stands in the egress: a multicast as its copies, each of which leaves by itself (R176). -/
def OutItem.spread (it : OutItem) : List OutItem :=
  match it.send with
  | .multi c w h ch pay => (rectangle c w h).map fun d => { it with send := .copy d kCall ch pay }
  | _ => [it]

/-- The egress gone through once in order: what can leave leaves, the rest stays (R178, R179). -/
def State.drainList (s : State) (blocked : List OutItem) : List OutItem → State
  | [] => s.modNet fun n => { n with egress := blocked }
  | it :: rest =>
    if canLeave s.here.net blocked it then (s.emit it).drainList blocked rest else s.drainList (blocked ++ [it]) rest

/-- The egress sends what it can, in an order that its rules allow: a multicast's copies in row-major order (R176). -/
def State.drain (s : State) : State := s.drainList [] (s.here.net.egress.flatMap OutItem.spread)

/-! Placement (R195 to R197). -/

/-- Whether an entry holds an offset. -/
def RptEntry.holds (e : RptEntry) (a : Nat) : Bool := decide (e.base.toNat ≤ a) && decide (a < e.base.toNat + e.len.toNat)

/-- The region of the package's placement table that holds an offset. -/
def Package.regionAt (k : Package) (space : BitVec 8) (off : Word) : Option RptEntry := k.rpt.find? fun e => e.space == space && e.holds off.toNat

/-- The PLB entry for the first byte of a request: of its space and its tenant (R196; space 0xFF belongs to tenant 0). -/
def plbFind (plb : List RptEntry) (ten : BitVec 12) (space : BitVec 8) (a : Nat) : Option RptEntry :=
  plb.find? fun e => e.space == space && e.holds a && (e.owner == ten || ten == 0 || space == 0xFF)

/-- Home core, home near address and pool address of an offset of a region (R195). -/
def RptEntry.homeOf (e : RptEntry) (pkg a : Nat) : CoreAddr × Nat × Nat :=
  let r := a - e.base.toNat
  match e.kind.toNat with
  | 0 => (fld e.loc 18 29, (fld e.loc 0 18).toNat + r, 0)
  | 1 =>
    let w := (fld e.loc 58 6).toNat + 1
    let h := (fld e.loc 53 5).toNat + 1
    let c : CoreAddr := fld e.loc 18 29
    let st := r / 4096
    let t := st % (w * h)
    (mkAddr (pkgOf c) (dieOf c) (yOf c + t / w) (xOf c + t % w), (fld e.loc 0 18).toNat + 4096 * (st / (w * h)) + r % 4096, 0)
  | _ => (poolAgent pkg (fld e.loc 60 4).toNat, 0, (fld e.loc 0 46).toNat + r)

/-- The parts of a request: one for each home it touches, split at every stripe boundary (R206), as offset within the request and length. -/
def RptEntry.split (e : RptEntry) (a : Nat) : Nat → Nat → Nat → List (Nat × Nat)
  | 0, _, _ => []
  | fuel + 1, o, n =>
    if n = 0 then []
    else
      let k := if e.kind = 1 then min n (4096 - (a + o - e.base.toNat) % 4096) else n
      (o, k) :: e.split a fuel (o + k) (n - k)

/-- The descriptor flit of a request or landing (R200). -/
def descFlit (op sz ch : BitVec 8) (len : Nat) (v1 v2 aux : Word) : Strip :=
  flit4 ((op.setWidth 64) ||| (sz.setWidth 64 <<< 8) ||| (ch.setWidth 64 <<< 16) ||| (BitVec.ofNat 64 (len % 65536) <<< 32)) v1 v2 aux

/-- One part of a resolved request (R199, R206): its home, near and pool address there, offset, length, near address at the issuer, and payload. -/
structure ReqPart where
  home : CoreAddr
  paddr : BitVec 18
  pool : Nat
  off : Word
  len : Nat
  near : Nat
  pay : List Strip
  deriving DecidableEq, Repr

/-- The parts of a resolved request as unicast sends to their homes (R199, R200). Every part of a split `putr` carries the move's own offset a, which its relay call names (R206), in V1
(DEDUCED, log entry 33). -/
def GReq.sends (r : GReq) (e : RptEntry) (pkg : Nat) : List ReqPart :=
  (e.split r.off.toNat (r.len + 1) 0 r.len).map fun p =>
    let a := r.off.toNat + p.1
    let h := e.homeOf pkg a
    let aw := BitVec.ofNat 64 a
    let d := match r.op.toNat with
      | 3 => descFlit r.op r.sz r.ch p.2 0 0 aw
      | 4 => descFlit r.op r.sz r.ch p.2 r.off 0 (r.relay.setWidth 64)
      | 5 => descFlit r.op r.sz r.ch p.2 0 (BitVec.ofNat 64 (r.near + p.1)) aw
      | _ => descFlit r.op r.sz r.ch 0 r.v1 r.v2 aw
    { home := h.1, paddr := BitVec.ofNat 18 h.2.1, pool := h.2.2, off := aw, len := p.2, near := r.near + p.1, pay := d :: flitsOf ((r.data.drop p.1).take p.2) }

/-! Asynchronous records are built by `State.asyncRecord` in Ops; the lookup collects the refused requests. -/

/-- The fault record of R247 as one flit. -/
def faultFlit (kind : Nat) (tag : Nat) (cid : BitVec 16) (space : BitVec 8) (off : Word) (req : CoreAddr) (len : Nat) : Strip :=
  flit4 (BitVec.ofNat 64 kind ||| (BitVec.ofNat 64 tag <<< 8) ||| (cid.setWidth 64 <<< 16) ||| (space.setWidth 64 <<< 32)) off (req.setWidth 64)
    (BitVec.ofNat 64 (len % 65536))

/-- A fault record on channel 10 to the core's supervisor (R247). -/
def State.faultRecord (s : State) (kind tag : Nat) (cid : BitVec 16) (space : BitVec 8) (off : Word) (len : Nat) : State :=
  s.sendOwn s.supervisor kSystem 10 cid [faultFlit kind tag cid space off s.at_ len]

/-- The page of an offset, bits [63:12] (R247). -/
def pageOf (a : Word) : BitVec 52 := fld a 12 52

/-- The tag that a request of this tenant, space and page shares, if one is in use (R247). -/
def tagFor (tags : Vector (Option FaultTag) 16) (ten : BitVec 12) (space : BitVec 8) (off : Word) : Option (Fin 16) :=
  (List.finRange 16).find? fun i => match tags[i] with
    | some t => t.ten == ten && t.space == space && pageOf t.off == pageOf off
    | none => false

/-- The lowest free tag. -/
def freeTag (tags : Vector (Option FaultTag) 16) : Option (Fin 16) := (List.finRange 16).find? fun i => tags[i].isNone

/-- A request held on a miss or on MOV takes a tag: one it shares, or a new one with a fault record, or it waits for one (R196, R247). -/
def State.hold (s : State) (it : OutItem) (r : GReq) (kind : Nat) : State × OutItem :=
  if it.tag.isSome then (s, it)
  else
    let ten : BitVec 12 := fld it.cid 4 12
    match tagFor s.here.net.tags ten r.space r.off with
    | some i => (s, { it with tag := some i })
    | none =>
      match freeTag s.here.net.tags with
      | none => (s, it)
      | some i =>
        let s := s.modNet fun n => { n with tags := n.tags.set i (some { ten := ten, cid := it.cid, space := r.space, off := r.off, len := r.len }) }
        (s.faultRecord kind i it.cid r.space r.off r.len, { it with tag := some i })

/-- The request is a part of a copy command (R231). -/
def Waiter.isCopy : Waiter → Bool
  | .copyRead _ _ => true
  | .copyWrite _ _ => true
  | _ => false

/-- The outcome of one request's placement lookup (R196, R197). -/
inductive Look where
  | parts (e : RptEntry)
  | hold (kind : Nat)
  | refuse
  deriving DecidableEq, Repr

/-- Whether a held request of the same slot lies, by its first byte, in an entry's region (R197). -/
def heldInside (blocked : List OutItem) (slot : BitVec 2) (e : RptEntry) : Bool :=
  blocked.any fun b => match b.send with
    | .glob r => b.org.slot == slot && r.space == e.space && e.holds r.off.toNat
    | _ => false

/-- The lookup of one request (R196): a hit must hold the whole access; a miss or MOV holds it, but for a copy that a class-S slot kicked, whose requests are tenant 0's
(R320); a hit behind a held request of its slot in the same region waits (R197). -/
def lookupReq (plb : List RptEntry) (blocked : List OutItem) (it : OutItem) (r : GReq) : Look :=
  let ten : BitVec 12 := fld it.cid 4 12
  match plbFind plb ten r.space r.off.toNat with
  | none => .hold 1
  | some e =>
    if e.mov && !(ten == 0 && it.who.isCopy) then .hold 2
    else if heldInside blocked it.org.slot e then .hold 0
    else if e.base.toNat + e.len.toNat < r.off.toNat + r.len then .refuse
    else .parts e

/-- The sends of a resolved request as egress items; a `get` is entered as an operation under way (R206). -/
def State.resolve (s : State) (it : OutItem) (r : GReq) (e : RptEntry) : State × List OutItem :=
  let ps := r.sends e (pkgOf s.at_)
  let id := s.here.net.getId
  let s := if r.op = 5 ∧ it.who = .plain then
      s.modNet fun n => { n with
        getId := n.getId + 1
        gets := n.gets ++ [{ id := id, near := BitVec.ofNat 64 r.near, len := r.len, ch := r.ch, cid := it.cid, kslot := r.kslot, org := it.org,
                             left := ps.map fun p => { off := p.off, near := p.near, len := p.len, home := p.home, got := [] }, fails := [] }] }
    else s
  (s, ps.map fun p =>
    { it with send := .uni p.home kSystem 8 p.paddr p.pay, tag := none,
              who := if r.op = 5 ∧ it.who = .plain then .getPart id p.near else it.who,
              pool := p.pool, space := r.space, off := p.off, glob := true })

/-- The PLB that a request of a tenant is looked up in (R196, R248, R252): the lessee's, which class-S work of tenant 0 shares, an engine core's one, or the
saved one of another tenant whose requests still wait in the egress. -/
def Core.plbOf (c : Core) (engine : Bool) (ten : BitVec 12) : List RptEntry :=
  if engine || ten == 0 || ten == c.regs.lessee then c.live.plb
  else match c.saved.find? fun v => v.ten == ten with
    | some v => v.lessee.plb
    | none => []

/-- The lookups of the requests in the egress, in order (R179: END makes them before any message leaves). Refused requests are collected. -/
def State.lookups (s : State) (done : List OutItem) (refused : List (OutItem × GReq)) : List OutItem → State × List OutItem × List (OutItem × GReq)
  | [] => (s, done, refused)
  | it :: rest =>
    match it.send with
    | .glob r =>
      match lookupReq (s.here.plbOf (isEngine s.at_) (fld it.cid 4 12)) done it r with
      | .parts e =>
        let (s, ps) := s.resolve it r e
        s.lookups (done ++ ps) refused rest
      | .hold k =>
        if k = 0 then s.lookups (done ++ [it]) refused rest
        else
          let (s, it) := s.hold it r k
          s.lookups (done ++ [it]) refused rest
      | .refuse => s.lookups done (refused ++ [(it, r)]) rest
    | _ => s.lookups (done ++ [it]) refused rest

end Sys2Proof.Machine
end

