-- ==== Sys2Proof/Machine/Ops.lean ====
section
/-! DEFINITION. The shared operations of an activation: registers, the effect of an instruction and how it retires (R95), near access (R32), sends (R159,
R174), taking a trap (R239 to R246) and ending (R41). -/

namespace Sys2Proof.Machine

/-! The acting slot. -/

/-- The activation of the acting slot. -/
def State.act (s : State) : Act := s.here.acts[s.slot]

/-- The machine with the acting slot's activation replaced. -/
def State.setAct (s : State) (a : Act) : State := { s with here := { s.here with acts := s.here.acts.set s.slot a } }

/-- The machine with the acting slot's activation changed. -/
def State.modAct (s : State) (f : Act → Act) : State := s.setAct (f s.act)

/-- The machine with the acting slot's registers changed. -/
def State.modRegs (s : State) (f : Regs → Regs) : State := s.modAct fun a => { a with regs := f a.regs }

/-- The machine with the acting slot's control registers changed. -/
def State.modCsr (s : State) (f : Csrs → Csrs) : State := s.modAct fun a => { a with csr := f a.csr }

/-- The machine with the acting core's matrix state changed. -/
def State.modMx (s : State) (f : Matrix → Matrix) : State := { s with here := { s.here with mx := f s.here.mx } }

/-- The machine with the acting core's debug unit changed. -/
def State.modDbg (s : State) (f : Debug → Debug) : State := { s with here := { s.here with dbg := f s.here.dbg } }

/-- The machine with the acting core's counters changed. -/
def State.modCtr (s : State) (f : Counters → Counters) : State := { s with here := { s.here with ctr := f s.here.ctr } }

/-- The machine with the acting core's role state changed. -/
def State.modEng (s : State) (f : Engine → Engine) : State := { s with here := { s.here with eng := f s.here.eng } }

/-- `slotid[2]`: the acting slot is of class S (R24; every slot of an engine core is, R221). -/
def State.classS (s : State) : Bool := decide (s.slot = 3) || isEngine s.at_

/-- The handler entry's M bit: 0 deferred, 1 immediate (R153, R159). -/
def Act.modeI (a : Act) : Bool := bit a.entry 58

/-- Read of a general register: g0 is zero (R27). -/
def State.g (s : State) (r : BitVec 5) : Word := if r = 0 then 0 else s.act.regs.g[r.toNat]

/-- Write of a general register: g0 ignores it (R23, R27). -/
def State.setG (s : State) (r : BitVec 5) (v : Word) : State :=
  if r = 0 then s else s.modRegs fun x => { x with g := x.g.set r.toNat v }

/-- The pc of the acting slot. -/
def State.pc (s : State) : Word := s.act.pc

/-- The key slot of the running image (R33). -/
def State.key (s : State) : KeyId := s.here.key s.act.img.kslot

/-! Effects. -/

/-- What an instruction does: its effect is whole and flow goes on in sequence; it goes to a target; it traps with no effect (R59); it stalls its
slot (R26), waiting on a message or on memory (R346); part of it is done and it goes on (`qlnk`, `dxrun`); it stalls and the machine keeps what it waits for (R124, R132); or it has ended its
activation. -/
inductive Effect where
  | ok (s : State)
  | jump (s : State) (t : Word)
  | trap (t : Trap)
  | stall (onMsg : Bool)
  | wait (s : State) (onMsg : Bool)
  | goOn (s : State)
  | fin (s : State)

/-- The next pc of sequential flow under an active loop (R95). -/
def loopSeq (c : Csrs) (p : Word) : Csrs × Word :=
  if c.lpcnt = 0 then (c, p)
  else if p = c.lpend then
    if c.lpcnt = 1 then ({ c with lpcnt := 0 }, p) else ({ c with lpcnt := c.lpcnt - 1 }, c.lpbeg)
  else if c.lpbeg.toNat ≤ p.toNat ∧ p.toNat < c.lpend.toNat then (c, p)
  else ({ c with lpcnt := 0 }, p)

/-- The next pc of a taken branch or jump under an active loop (R95). -/
def loopJump (c : Csrs) (p : Word) : Csrs × Word :=
  if c.lpcnt = 0 then (c, p)
  else if c.lpbeg.toNat ≤ p.toNat ∧ p.toNat < c.lpend.toNat then (c, p)
  else ({ c with lpcnt := 0 }, p)

/-- The slot has issued: it is the slot that issued last, and every stalled slot may be tried again (R25). -/
def State.issued (s : State) : State :=
  { s with here := { s.here with lastSlot := s.slot, tried := Vector.replicate 4 false, dbg := { s.here.dbg with cycle := 1 } } }

/-- A slot released from a breakpoint has passed it (R341). -/
def State.passed (s : State) : State := s.modDbg fun d => { d with passBp := d.passBp &&& ~~~(1#4 <<< s.slot.val) }

/-- The instruction has retired with its next pc and loop state formed (R95); a paired run takes its pc, its registers, its near stores and its outbox into the
fingerprint (R256). -/
def State.retireWith (s : State) (cp : Csrs × Word) : State :=
  (s.modAct fun a =>
    let b := { a with csr := cp.1, pc := cp.2, instret := a.instret + 1, part := .none }
    if a.paired then { b with fp := Config.fingerprint a.fp a.pc b.regs b.csr a.stores (b.outbox.map (·.send)), stores := [] } else b).passed

/-- An instruction of `len` bytes retires in sequence. -/
def State.retire (s : State) (len : Nat) : State := s.retireWith (loopSeq s.act.csr (s.pc + BitVec.ofNat 64 len))

/-- An instruction retires by a transfer to `t`. -/
def State.retireTo (s : State) (t : Word) : State := s.retireWith (loopJump s.act.csr t)

/-- The slot stalls: it is passed over until something issues or the cycle ends (R26). A cycle in which a slot waits on a message is logged so, whatever another slot waits for
(R346). -/
def State.stalled (s : State) (onMsg : Bool) : State :=
  { s with here := { s.here with
      tried := s.here.tried.set s.slot true
      dbg := { s.here.dbg with cycle := if s.here.dbg.cycle = 1 then 1 else if onMsg ∨ s.here.dbg.cycle = 2 then 2 else 3 } } }

/-! Debug triggers (R338, R344). -/

/-- The core belongs to a debug group with EN = 1. -/
def Debug.en (d : Debug) : Bool := bit d.group 56

/-- The stop payload of R338. -/
def stopFlit (trig : Word) (dgid : BitVec 16) (cause : BitVec 3) (core : CoreAddr) : Strip :=
  flit4 trig ((dgid.setWidth 64 <<< 40) ||| (cause.setWidth 64 <<< 29) ||| core.setWidth 64) 0 0

/-- A trigger on a member with EN = 1 and not already stopped sends one stop to every core of the group's rectangle, as `sendm` does: a copy with M = 1 for each (R176, R338). -/
def State.trigger (s : State) (cause : BitVec 3) : State :=
  let d := s.here.dbg
  if d.en ∧ ¬ d.stopping then
    (rectangle (fld d.group 0 29) ((fld d.group 29 6).toNat + 1) ((fld d.group 35 5).toNat + 1)).foldl
      (fun s c => s.leaveOwn (OutItem.own (.copy c kSystem 3 [stopFlit s.time (fld d.group 40 16) cause s.at_]) 0)) s
  else s

/-- Watchpoint `i` hits on an access (R344). -/
def wpHits (w : Word × Word) (rd wr : Bool) (ten : BitVec 12) (a n : Nat) : Bool :=
  bit w.2 0 && ((rd && bit w.2 1) || (wr && bit w.2 2)) && (fld w.2 8 12 == 0 || fld w.2 8 12 == ten) &&
    decide ((fld w.1 0 18).toNat < a + n) && decide (a < (fld w.1 20 18).toNat)

/-- An access performed at the core: the watchpoints that it hits mark themselves and trigger once, or count a hit while the core stops (R344). -/
def State.watch (s : State) (rd wr : Bool) (ten : BitVec 12) (ranges : List (Nat × Nat)) : State :=
  let hit : BitVec 8 := (List.finRange 8).foldl (fun (m : BitVec 8) i =>
    if ranges.any (fun r => wpHits s.here.dbg.wp[i] rd wr ten r.1 r.2) then m ||| (1#8 <<< i.val) else m) 0
  if hit = 0 then s
  else
    let s := s.modDbg fun d => { d with wph := d.wph ||| hit, hits := if d.stopping ∧ d.hits ≠ 0xFFFF then d.hits + 1 else d.hits }
    s.trigger 1

/-! Near access (R32). -/

/-- The checks of R32 on one access of the acting slot: range, alignment, overrun, then the granules, lowest first. -/
def State.nearCheck (s : State) (store : Bool) (ea : Word) (n align : Nat) : Option Trap :=
  let e := nearEnd s.at_
  if e ≤ ea.toNat then some (.atNear cPlacement ea ea)
  else if ea.toNat % align ≠ 0 then some (.atNear cAlign ea ea)
  else if e < ea.toNat + n then some (.atNear cPlacement (BitVec.ofNat 64 e) ea)
  else (s.here.mem.check s.at_ s.key store ea.toNat n).map fun r =>
    .atNear r.1 (BitVec.ofNat 64 r.2) (BitVec.ofNat 64 r.2)

/-- The bytes that a checked access of the acting slot reads. -/
def State.nearBytes (s : State) (a n : Nat) : List Byte := s.here.mem.read s.at_ s.key a n

/-- The tenant of the acting slot's accesses. -/
def State.ten (s : State) : BitVec 12 := s.act.trig.ten

/-- A near store of a paired run stands for its fingerprint until the instruction retires (R256). -/
def State.noteStore (s : State) (a : Nat) (bs : List Byte) : State :=
  if s.act.paired then s.modAct fun x => { x with stores := x.stores ++ [(a, bs)] } else s

/-- A checked store of the acting slot. -/
def State.nearStore (s : State) (a : Nat) (bs : List Byte) : State :=
  (({ s with here := { s.here with mem := s.here.mem.write s.at_ s.key a bs } }).noteStore a bs).watch false true s.ten [(a, bs.length)]

/-- Several checked stores of the acting slot performed in order as one access. -/
def State.nearStores (s : State) (ws : List (Nat × List Byte)) : State :=
  (ws.foldl (fun (t : State) (p : Nat × List Byte) => t.noteStore p.1 p.2)
    { s with here := { s.here with mem := ws.foldl (fun (m : LocalMem) (p : Nat × List Byte) => m.write s.at_ s.key p.1 p.2) s.here.mem } }).watch false true s.ten
    (ws.map fun (p : Nat × List Byte) => (p.1, p.2.length))

/-- A checked load of the acting slot has been performed. -/
def State.nearLoaded (s : State) (a n : Nat) : State := s.watch true false s.ten [(a, n)]

/-- The checks of R38 on a PC-relative access at offset `ea` of the running image's extent; then an uncorrectable error there is consumed (R254). -/
def State.imemCheck (s : State) (ea : Word) (n align : Nat) : Option Trap :=
  let x := s.act.img.xlen.toNat
  if x ≤ ea.toNat then some (.atImem cPlacement ea ea)
  else if ea.toNat % align ≠ 0 then some (.atImem cAlign ea ea)
  else if x < ea.toNat + n then some (.atImem cPlacement (BitVec.ofNat 64 x) ea)
  else if s.here.imemBad.any (fun h => decide ((s.act.img.base.toNat + ea.toNat) / 2 ≤ h) && decide (2 * h < s.act.img.base.toNat + ea.toNat + n)) then
    some (.atSpace cEccu ea 0 ea)
  else none

/-- Bytes of the running image's extent. -/
def State.imemBytes (s : State) (a n : Nat) : List Byte := memRead s.here.imem (s.act.img.base.toNat + a) n

/-- Where a near or PC-relative access lies: base field zero reads instruction memory at pc + offset (R38). -/
def State.ea (s : State) (base : BitVec 5) (off : Word) : Word := (if base = 0 then s.pc else s.g base) + off

/-- A load by base field: its check, then the bytes and the machine after it (R32, R38). -/
def State.load (s : State) (base : BitVec 5) (ea : Word) (n align : Nat) : Except Trap (List Byte × State) :=
  if base = 0 then
    match s.imemCheck ea n align with
    | some t => .error t
    | none => .ok (s.imemBytes ea.toNat n, s)
  else
    match s.nearCheck false ea n align with
    | some t => .error t
    | none => .ok (s.nearBytes ea.toNat n, s.nearLoaded ea.toNat n)

/-- A near store: its check, then the machine after it (R32, R34). -/
def State.store (s : State) (ea : Word) (align : Nat) (bs : List Byte) : Except Trap State :=
  match s.nearCheck true ea bs.length align with
  | some t => .error t
  | none => .ok (s.nearStore ea.toNat bs)

/-! Records (R239 to R246). -/

/-- The parts of a trap record (R239). -/
structure Record where
  cause : Cause
  orig : BitVec 8
  nest : BitVec 8
  ch : BitVec 8
  cid : BitVec 16
  pc : BitVec 15
  gen : BitVec 16
  imgid : BitVec 32
  core : CoreAddr
  slot : BitVec 2
  src : CoreAddr
  faddr : Word
  imem : Bool
  lost : Bool
  paired : Bool
  redel : Bool
  async : Bool
  near : Bool
  fspace : BitVec 8
  value : Word
  time : Word
  aseq : Word
  deriving DecidableEq, Repr

/-- The eight doublewords of a record (R239). -/
def Record.pack (r : Record) : Vector Word 8 :=
  #v[(r.cause ++ r.orig ++ r.nest ++ r.ch ++ r.cid ++ 0#1 ++ r.pc : BitVec 64),
     (0#16 ++ r.gen ++ r.imgid : BitVec 64),
     (0#3 ++ r.core ++ 0#1 ++ r.slot ++ r.src : BitVec 64),
     r.faddr,
     (0#50 ++ BitVec.ofBool r.imem ++ BitVec.ofBool r.lost ++ BitVec.ofBool r.paired ++ BitVec.ofBool r.redel ++ BitVec.ofBool r.async ++
       BitVec.ofBool r.near ++ r.fspace : BitVec 64),
     r.value, r.time, r.aseq]

/-- The record of a synchronous trap of the acting slot. -/
def State.syncRecord (s : State) (t : Trap) (redel : Bool) : Record :=
  let a := s.act
  { cause := t.cause, orig := 0, nest := 0, ch := a.ch, cid := a.trig.cid, pc := a.pc.setWidth 15, gen := a.img.gen, imgid := a.img.id,
    core := s.at_, slot := BitVec.ofNat 2 s.slot.val, src := a.trig.src, faddr := t.faddr, imem := t.imem, lost := false, paired := a.paired,
    redel := redel, async := false, near := t.near, fspace := t.fspace, value := t.value, time := s.time, aseq := a.aseq }

/-- The trap core of a containment ID (R242): the lessee's entries stand in the core (R252), another tenant's in its VF record. -/
def State.trapCore (s : State) (cid : BitVec 16) : Option CoreAddr :=
  let ten : BitVec 12 := fld cid 4 12
  let i := (fld cid 0 4).toNat
  if ten = s.here.regs.lessee then s.here.regs.trapCore.toList.getD i none
  else match s.home.vfOf ten with
    | some (_, f) => f.trapCore i
    | none => none

/-- A record leaves as an L message on channel 249 with two flits behind the sends of its activation (R242). A refusal of it makes no record (R246: no record ever produces a
record of its own kind). -/
def State.sendRecord (s : State) (d : CoreAddr) (cid : BitVec 16) (r : Record) (org : Origin) (ord : Nat) : State :=
  let it := { OutItem.own (.uni d kSystem 249 0 (recFlits r.pack)) cid with l := true, org := org, ord := ord, who := .record }
  (s.modNet fun n => { n with egress := n.egress ++ [it] }).drain

/-- A record is sent by R242: of class-S work and of tenant 0 to the supervisor, else to the trap core of its containment ID, or it is dropped and
counted as undeliverable. -/
def State.deliver (s : State) (classS : Bool) (cid : BitVec 16) (r : Record) (org : Origin) (ord : Nat) : State :=
  if classS ∨ fld cid 4 12 = (0 : BitVec 12) then s.sendRecord s.supervisor cid r org ord
  else match s.trapCore cid with
    | some d => s.sendRecord d cid r org ord
    | none => s.modCtr fun c => { c with undeliverable := c.undeliverable + 1 }

/-- R246: an activation on channel 249, or on its lessee's TCH at a core that the lessee's record names as a trap core. -/
def State.isTrapRec (s : State) (a : Act) : Bool :=
  a.ch == 249 || (a.ch == s.here.regs.tch && s.here.regs.tch != 0 && s.here.regs.trapCore.toList.contains (some s.at_))

/-- The interface's memory of the acting slot's activation (R245, R246). -/
def State.origin (s : State) : Origin :=
  let a := s.act
  { imgid := a.img.id, gen := a.img.gen, ch := a.ch, slot := BitVec.ofNat 2 s.slot.val, aseq := a.aseq,
    dbl := if s.isTrapRec a then some (a.trig.byte 7) else none }

/-- A place of a supervisor core (R222). -/
def isSupervisor (a : CoreAddr) : Bool := isEngine a && decide (39 ≤ xOf a) && decide (xOf a ≤ 40)

/-- A trap within a supervisor's handling of a DOUBLE record: it sends nothing, and counts in the die's double-fault counter (R246). -/
def State.doubleFault (s : State) : State :=
  (s.modCtr fun c => { c with double := c.double + 1 }).modHome fun k =>
    { k with double := k.double.setIfInBounds (dieOf s.at_) (k.double.toList.getD (dieOf s.at_) 0 + 1) }

/-- A DOUBLE record goes to the core's supervisor (R246); a supervisor that handles a DOUBLE record sends none. -/
def State.sendDouble (s : State) (r : Record) (orig nest : BitVec 8) (org : Origin) (ord : Nat) : State :=
  if isSupervisor s.at_ ∧ orig = cDouble then s.doubleFault
  else s.sendRecord s.supervisor r.cid { r with cause := cDouble, orig := orig, nest := nest } org ord

/-- The function of a tenant, changed (R333). -/
def State.modFunc (s : State) (ten : BitVec 12) (f : Func → Func) : State :=
  match s.home.vfOf ten with
  | some (i, v) => s.modHome fun k => { k with funcs := put k.funcs i (f v) }
  | none => s

/-- Work of class S (R24, R221): of slot 3, or of an engine core. A quota fault (R156) belongs to no work and goes to the tenant's trap core. -/
def State.classSWork (s : State) (cause : Cause) (org : Origin) : Bool := (org.aseq != 0 && org.slot == 3) || (isEngine s.at_ && cause != cNackQuota)

/-- An asynchronous record (R245): ASYNC 1 and PC 0; a record of class-S work goes to the supervisor (R242). A refusal of a trap-record activation's message makes a DOUBLE
record in its place (R246). -/
def State.asyncRecord (s : State) (cause : Cause) (cid : BitVec 16) (src : CoreAddr) (faddr : Word) (near : Bool) (fspace : BitVec 8) (value : Word)
    (org : Origin) : State :=
  let r : Record :=
    { cause := cause, orig := 0, nest := 0, ch := org.ch, cid := cid, pc := 0, gen := org.gen, imgid := org.imgid, core := s.at_, slot := org.slot, src := src,
      faddr := faddr, imem := false, lost := false, paired := false, redel := false, async := true, near := near, fspace := fspace, value := value,
      time := s.time, aseq := org.aseq }
  match org.dbl with
  | some o => s.sendDouble r o cause Origin.none 0
  | none => s.deliver (s.classSWork cause org) cid r Origin.none 0

/-- The copy command, or member's part of a collective, of a number, changed. -/
def State.modWork (s : State) (id : Nat) (f : CopyCmd → CopyCmd) : State :=
  s.modEng fun e => { e with copies := mapFirst (fun c => c.id == id) f e.copies, members := mapFirst (fun c => c.id == id) f e.members }

/-- A copy command's part at an offset, changed (R231). -/
def State.modPart (s : State) (id off : Nat) (f : CopyPart → CopyPart) : State := s.modWork id fun c => { c with parts := mapFirst (fun p => p.off == off) f c.parts }

/-- A part of a copy command fails (R231): its cause, side and failing offset, and no further part is issued. -/
def State.failPart (s : State) (id off : Nat) (cause : Cause) (unit : BitVec 4) (addr : Word) : State :=
  (s.modPart id off fun p => { p with st := .failed cause unit addr }).modWork id fun c => { c with halted := true }

/-- The requests that a lookup refused: each is dropped with an asynchronous PLACEMENT record holding its GVA (R196, R245), and a refused
`get` also reports in band (R206); a refused copy part tells its engine (R235). -/
def State.refuseAll (s : State) : List (OutItem × GReq) → State
  | [] => s
  | (it, r) :: rest =>
    let s : State := match it.who with
      | .copyRead id o => s.failPart id o cPlacement 1 r.off
      | .copyWrite id o => s.failPart id o cPlacement 2 r.off
      | _ =>
        let s := s.asyncRecord cPlacement it.cid s.at_ r.off false r.space r.off it.org
        if r.op = 5 then
          s.modNet fun n => { n with
            getId := n.getId + 1
            gets := n.gets ++ [{ id := n.getId, near := BitVec.ofNat 64 r.near, len := r.len, ch := r.ch, cid := it.cid, kslot := r.kslot, org := it.org,
                                 left := [], fails := [(r.off, cPlacement)] }] }
        else s
    s.refuseAll rest

/-- The egress looks up its requests in order, refuses what must be refused and sends what can leave (R179, R196). -/
def State.flush (s : State) : State :=
  let (s, eg, bad) := s.lookups [] [] s.here.net.egress
  (((s.modNet fun n => { n with egress := eg }).refuseAll bad)).drain

/-! Sends of an activation (R159, R174). -/

/-- Bytes in the acting slot's outbox. -/
def Act.outBytes (a : Act) : Nat := (a.outbox.map fun i => i.send.size).sum

/-- A send of the acting slot's activation (R170): the class of its slot, its containment ID, and A with the AID once it has joined (R281), P in a paired run. -/
def State.item (s : State) (send : Send) (l : Bool) (part : Nat) (who : Waiter) : OutItem :=
  let a := s.act
  let jn := bit a.csr.asid 32
  { send := send, l := l, cid := a.trig.cid, aword := if jn then fld a.csr.asid 0 32 else 0, a := jn, p := a.paired, e := false, org := s.origin, ord := a.sends,
    part := part, who := who, tag := none, pool := 0, space := 0, off := 0, glob := false, sys := s.classS }

/-- Whether an immediate send must wait: an L send for the activation's earlier messages, a request for a free fault tag, any send for the egress
(R159, R174, R247). -/
def State.mustWait (s : State) (it : OutItem) : Bool :=
  let n := s.here.net
  (it.l && !earlierSettled n n.egress it.org.aseq it.ord) ||
  (match it.send with
   | .glob r => match lookupReq s.here.live.plb n.egress it r with
     | .hold k => k != 0 && (tagFor n.tags (fld it.cid 4 12) r.space r.off).isNone && (freeTag n.tags).isNone
     | _ => false
   | _ => it.spread.any fun x => !canLeave n n.egress { x with l := false })

/-- A send of the acting slot, by its entry's send mode (R159): deferred it joins the outbox or traps with OUTBOX; immediate it leaves or stalls. -/
def State.send (s : State) (send : Send) (l : Bool) (part : Nat) (who : Waiter) : Effect :=
  let a := s.act
  let it := s.item send l part who
  if a.modeI then
    if s.mustWait it then .stall true
    else .ok (((s.modAct fun a => { a with sends := a.sends + 1 }).modNet fun n => { n with egress := n.egress ++ [it] }).flush)
  else if a.outbox.length ≥ 32 ∨ a.outBytes + send.size > 4096 then .trap (.plain cOutbox (BitVec.ofNat 64 a.outbox.length))
  else .ok (s.modAct fun a => { a with outbox := a.outbox ++ [it], sends := a.sends + 1 })

/-- Several sends of one instruction, in order: all of them or none. The n of an OUTBOX trap counts those that the instruction has put there already (DESIGN CHOICE, log entry 80). -/
def State.sendAll (s : State) (l : Bool) : List Send → Effect
  | [] => .ok s
  | x :: xs => match s.send x l 1 .plain with
    | .ok t => t.sendAll l xs
    | e => e

/-! Slots end (R41). -/

/-- A core of the system, changed. -/
def State.modCore (s : State) (a : CoreAddr) (f : Core → Core) : State := s.setCore a (f (s.core a))

/-- A record reaches a trace collector (R345): it is kept, or dropped when the buffer is full, and the next one kept from that core carries LOST. -/
def Collector.take (c : Collector) (core : CoreAddr) (r : Strip) (atOnce : Bool) : Collector :=
  let r := if c.lost.contains core.toNat then r ||| (1#256 <<< 60) else r
  if atOnce then { c with passed := c.passed ++ [r], lost := c.lost.filter (· != core.toNat) }
  else if Config.traceFull c.buf.length then { c with lost := insertNat c.lost core.toNat }
  else { c with buf := c.buf ++ [r], lost := c.lost.filter (· != core.toNat) }

/-- The oldest record that a collector holds goes on to belay (R345). -/
def Collector.pass (c : Collector) : Collector := match c.buf with
  | [] => c
  | r :: l => { c with buf := l, passed := c.passed ++ [r] }

/-- What a trace record says of an activation (R345). -/
def State.mark (s : State) : StepMark :=
  let a := s.act
  { slot := s.slot, ch := a.ch, cid := a.trig.cid, src := a.trig.src, pc := a.pc, aseq := a.aseq }

/-- A trace record of an activation goes to the core's collector (R345). -/
def State.traceOf (s : State) (a : StepMark) (kind : BitVec 4) (mimm : BitVec 10) (data : Word) : State :=
  let d0 : Word := 0#4 ++ kind ++ a.ch ++ a.cid ++ 0#3 ++ s.at_
  let d1 : Word := 0#3 ++ a.src ++ mimm ++ 0#5 ++ BitVec.ofNat 2 a.slot.val ++ (a.pc.setWidth 15 : BitVec 15)
  s.modCore (s.standIn (collectorOf s.at_)) fun c => { c with eng := { c.eng with
    trace := c.eng.trace.take s.at_ (flit4 d0 d1 s.time data) (kind == 5) } }

/-- A trace record of the acting slot's activation (R345). -/
def State.trace (s : State) (kind : BitVec 4) (mimm : BitVec 10) (data : Word) : State := s.traceOf s.mark kind mimm data

/-- The T bit of the running entry (R153). -/
def Act.traced (a : Act) : Bool := bit a.entry 60

/-- The trace record of an end or trap, when the entry's T is 1. -/
def State.traceIf (s : State) (kind : BitVec 4) (data : Word) : State := if s.act.traced then s.trace kind 0 data else s

/-- The queue of a channel. -/
def Iface.queue (n : Iface) (ch : BitVec 8) : List QEntry := (look n.queues ch.toNat).getD []

/-- The interface with a channel's queue replaced; an empty queue is not listed. -/
def Iface.setQueue (n : Iface) (ch : BitVec 8) (q : List QEntry) : Iface := { n with queues := putD n.queues ch.toNat q [] }

/-- The list without the first element that a condition selects. -/
def dropFirst {α : Type} (p : α → Bool) : List α → List α
  | [] => []
  | x :: t => if p x then t else x :: dropFirst p t

/-- The queue entry of a deferred activation is freed (R155). -/
def State.freeEntry (s : State) : State :=
  let a := s.act
  s.modNet fun n => n.setQueue a.ch (dropFirst (fun e => e.running && e.msg == a.trig) (n.queue a.ch))

/-- A running instruction of the acting slot is abandoned (R42): an unfinished `qlnk` leaves its operand slot LOADED (R131), and a `dxrun` before its write phase leaves the
transducer unit (R145). -/
def State.abandon (s : State) : State :=
  match s.act.part with
  | .qlnk q _ => s.modMx fun m => { m with q := m.q.set q { m.q[q] with st := .loaded } }
  | .dx => s.modMx fun m => { m with dxUnit := none }
  | .lease => { s with here := { s.here with changing := false } }
  | _ => s

/-- The acting slot becomes free (R41): its registers are discarded, what it runs is abandoned, a hold of the slot ends, and an activation that ends after a stop counts as
skid (R339). -/
def State.freeSlot (s : State) : State :=
  let s := s.abandon.modDbg fun d => { d with
    held := if d.held = some s.slot then none else d.held
    passBp := d.passBp &&& ~~~(1#4 <<< s.slot.val)
    step := if d.step.aseq = s.act.aseq then { d.step with pc := s.act.pc } else d.step
    skid := if d.stopping ∧ d.skid ≠ 0xFFFF then d.skid + 1 else d.skid
    ended := s.time }
  s.setAct Act.free

/-- An ascent message to a keeper that leaves behind the activation's other sends (R282, R285, R287). -/
def State.keeperMsg (s : State) (d : CoreAddr) (cid : BitVec 16) (aid : BitVec 32) (pay : List Strip) (org : Origin) (ord : Nat) : State :=
  let it := { OutItem.own (.uni d kSystem 12 0 pay) cid with l := true, org := org, ord := ord, aword := aid, a := aid != 0 }
  (s.modNet fun n => { n with egress := n.egress ++ [it] }).drain

/-- Payload of an ascent request on channel 12 (R291): operation (2 begin, 3 summit, 4 retreat, 5 resume, 6 stat), act, reply channel, AID or begin word,
cookie, and the issuing core. The spec names what it carries and not where (DESIGN CHOICE, log entry 20). -/
def ascentFlit (op act : Nat) (ch : BitVec 8) (w cookie : Word) (core : CoreAddr) : Strip :=
  flit4 (BitVec.ofNat 64 op ||| (BitVec.ofNat 64 act <<< 8) ||| (ch.setWidth 64 <<< 16)) w cookie (core.setWidth 64)

/-- The home keeper of an AID, in the acting core's package, or the keeper that does its work (R260, R278, R279). -/
def State.keeperOf (s : State) (aid : BitVec 32) : CoreAddr := s.standIn (keeperAt (pkgOf s.at_) (fld aid 19 3).toNat (fld aid 16 3).toNat)

/-- What follows a trap of an ascent's activation: a pitch whose entry has F makes its ascent retreat (R285), a compensation reports its failure to the
keeper that sent it (R287). Both leave after the trap record. -/
def State.ascentTrap (s : State) (a : Act) (r : Record) (org : Origin) : State :=
  if bit a.csr.asid 36 then s.keeperMsg a.trig.src a.trig.cid (fld a.csr.asid 0 32) (recFlits r.pack) org (a.sends + 1)
  else if bit a.csr.asid 32 && bit a.entry 61 then
    s.keeperMsg (s.keeperOf (fld a.csr.asid 0 32)) a.trig.cid 0
      [ascentFlit 4 0 0 ((fld a.csr.asid 0 32 : BitVec 32).setWidth 64) 0 s.at_] org (a.sends + 1)
  else s

/-- TAKING A TRAP (R241, R242, R246): the record is built from the activation as it stands, a deferred outbox is discarded with the slot, the
queue entry is freed, and the record leaves as if marked L behind what the activation has sent. A trap-record activation makes a
DOUBLE record for the supervisor in place of a record for a trap core. -/
def State.takeTrap (s : State) (t : Trap) (redel : Bool) : State :=
  let a := s.act
  let org := s.origin
  let r := s.syncRecord t redel
  let cls := s.classS
  let s := (s.traceIf 3 (t.cause.setWidth 64)).freeEntry.freeSlot
  let s := match org.dbl with
    | some o => s.sendDouble r o t.cause org a.sends
    | none => s.deliver cls a.trig.cid r org a.sends
  s.ascentTrap a r org

/-- An uncorrectable error consumed at the core (R257): counted, and reported to the supervisor by a fault record of KIND 4. -/
def State.eccSeen (s : State) (near : Word) : State :=
  ((s.modFunc s.act.trig.ten fun f => { f with eccu := f.eccu + 1 }).modCtr fun c => { c with uncorrected := c.uncorrected + 1 }).faultRecord
    4 0 s.act.trig.cid 0 near 0

/-- A redelivery drop (R161, R254): the slot is freed with its outbox, and the queue entry is kept for a dispatch with D set; the fourth failure retires
it with an ECCU record that has REDEL = 1. -/
def State.redeliver (s : State) (t : Trap) : State :=
  let a := s.act
  let e := (s.here.net.queue a.ch).find? fun e => e.running && e.msg == a.trig
  match e with
  | some e =>
    if e.drops < 3 then
      (s.modNet fun n => n.setQueue a.ch (mapFirst (fun e => e.running && e.msg == a.trig)
        (fun e => { e with running := false, drops := e.drops + 1, msg := { e.msg with hdr := e.msg.hdr ||| 1 } }) (n.queue a.ch))).freeSlot
    else s.takeTrap t true
  | none => s.takeTrap t true

/-- A trap of the acting slot: a consumed uncorrectable error is counted and reported (R254, R257), and in mode D it drops the activation; a paired run abandons what it
runs and waits for its twin (R256); any other trap is taken. -/
def State.trap (s : State) (t : Trap) : State :=
  let s := if t.cause = cEccu then s.eccSeen t.faddr else s
  if s.act.paired then s.abandon.modAct fun a => { a with part := .none, ptrap := some t }
  else if t.cause = cEccu ∧ ¬ s.act.modeI then s.redeliver t
  else s.takeTrap t false

/-- What the effect of an instruction of `len` bytes on `s` comes to, without its issue: the second phase of `dxrun` completes one that issued earlier (R145). -/
def complete (len : Nat) (s : State) : Effect → Host.Outcome State Fault Refusal
  | .ok t => .next (t.retire len)
  | .jump t p => .next (t.retireTo p)
  | .trap t => .next (s.trap t)
  | .stall m => .next (s.stalled m)
  | .wait t m => .next (t.stalled m)
  | .goOn t => .next t
  | .fin t => .next t

/-- The outcome of an instruction of `len` bytes from its effect on `s` (R59, R95): one that does not stall has issued (R25). -/
def finish (len : Nat) (s : State) : Effect → Host.Outcome State Fault Refusal
  | .ok t => .next (t.retire len).issued
  | .jump t p => .next (t.retireTo p).issued
  | .trap t => .next (s.trap t).issued
  | .stall m => .next (s.stalled m)
  | .wait t m => .next (t.stalled m)
  | .goOn t => .next t.issued
  | .fin t => .next t.issued

/-- An effect that may trap first. -/
def Effect.ofExcept (x : Except Trap State) : Effect :=
  match x with
  | .ok s => .ok s
  | .error t => .trap t

/-- Outbox items in the order in which they leave: messages, then anchors, then ascent requests (R282), numbered anew from `n`. -/
def leaveOrder (n : Nat) (o : List OutItem) : List OutItem :=
  let sorted := o.filter (·.part == 1) ++ o.filter (·.part == 2) ++ o.filter (·.part == 3)
  sorted.zipIdx.map fun p => { p.1 with ord := n + p.2 }

/-- An ascent request in a pitch's outbox, as it leaves (R282): in the third part and marked L, whether it was issued before the `ajoin` or after it. A class-N slot sends nothing else of
system kind on channel 12 but its anchors. -/
def OutItem.pitched (it : OutItem) : OutItem :=
  match it.send with
  | .uni _ k ch _ _ => if k = kSystem ∧ ch = 12 ∧ it.part = 1 then { it with part := 3, l := true } else it
  | _ => it

/-- The acting slot runs the twin of a paired activation: a copy, which keeps its primary's DST (R255). -/
def State.isTwin (s : State) : Bool := s.act.paired && s.act.trig.dst != s.at_

/-- ENDING (R41, R159, R282, R287): a deferred outbox is released in its order, the end notice of a compensation behind it, the queue entry and the slot are
freed. The twin of a paired run discards its outbox, and no message of it leaves its core (R255). -/
def State.endAct (s : State) : State :=
  let a := s.act
  let org := s.origin
  let twin := s.isTwin
  let out := if twin then [] else leaveOrder 0 (if bit a.csr.asid 32 then a.outbox.map OutItem.pitched else a.outbox)
  let s := (s.traceIf 2 a.instret).freeEntry.freeSlot
  let s := if out.isEmpty then s else (s.modNet fun n => { n with egress := n.egress ++ out }).flush
  if bit a.csr.asid 36 && !twin then s.keeperMsg a.trig.src a.trig.cid (fld a.csr.asid 0 32) [0, 0] org (a.sends + out.length) else s

/-! NACKs and acknowledgements at the acting core as destination (R171, R177). -/

/-- The acknowledgement of a performed message goes to its source's interface (R177). -/
def State.settle (s : State) (m : Msg) : State := { s with acks := s.acks ++ [{ src := m.src, dst := m.dst, pseq := m.pseq, nacked := false }] }

/-- The acknowledgement of a refused message, whose NACK has been sent (R177). -/
def State.settleNacked (s : State) (m : Msg) : State := { s with acks := s.acks ++ [{ src := m.src, dst := m.dst, pseq := m.pseq, nacked := true }] }

/-- A refusal: a reply-kind message with E set to the source, with the cause in byte 0, the value in bytes 8 to 15 and the refused header in bytes 16 to 31
(R171, R245). The NACK sent settles the message (R177): one that waits in the home's egress counts as sent (DEDUCED, log entry 19), and the tenant's counters take it (R333). The spec names no channel for a NACK: its header has the refused message's
(DESIGN CHOICE, log entry 54). -/
def State.nack (s : State) (m : Msg) (cause : Cause) (value : Word) : State :=
  let s := s.modFunc m.ten fun f => { f with
    nacks := put f.nacks cause.toNat ((look f.nacks cause.toNat).getD 0 + 1)
    overruns := if cause = cBarrier then f.overruns + 1 else f.overruns
    eccu := if cause = cEccu then f.eccu + 1 else f.eccu }
  let flit : Strip := m.hdr ++ value ++ (cause.setWidth 64 : BitVec 64)
  (s.leaveOwn { OutItem.own (.uni m.src kReply m.ch 0 [flit]) m.cid with e := true }).settleNacked m

end Sys2Proof.Machine
end

