-- ==== Sys2Proof/Machine/Ingress.lean ====
section
/-! DEFINITION. The ingress of a core: pair order (R178, R270), the digest and replay (R347, R348), partition routers (R327) and windows (R202, R203). -/

namespace Sys2Proof.Machine

/-! Digests (R347). The spec names CRC-64/ECMA-182 and CRC-32C; their polynomials, initial values and bit orders are PRESUMED (log entry 26). -/

/-- One bit of a CRC-64/ECMA-182, most significant bit first. -/
def crc64Bit (c : BitVec 64) : BitVec 64 := if bit c 63 then (c <<< 1) ^^^ 0x42F0E1EBA9EA3693 else c <<< 1

/-- One byte of a CRC-64/ECMA-182. -/
def crc64Byte (c : BitVec 64) (b : Byte) : BitVec 64 := (List.range 8).foldl (fun c _ => crc64Bit c) (c ^^^ (zext b <<< 56))

/-- CRC-64/ECMA-182 of a list of bytes. -/
def crc64 (bs : List Byte) : BitVec 64 := bs.foldl crc64Byte 0

/-- One bit of a CRC-32C, least significant bit first. -/
def crc32Bit (c : BitVec 32) : BitVec 32 := if bit c 0 then (c >>> 1) ^^^ 0x82F63B78 else c >>> 1

/-- One byte of a CRC-32C. -/
def crc32Byte (c : BitVec 32) (b : Byte) : BitVec 32 := (List.range 8).foldl (fun c _ => crc32Bit c) (c ^^^ b.setWidth 32)

/-- CRC-32C of a list of bytes. -/
def crc32c (bs : List Byte) : BitVec 32 := ~~~(bs.foldl crc32Byte 0xFFFFFFFF)

/-- The next digest after a message (R347). -/
def nextDigest (d : Word) (m : Msg) : Word :=
  crc64 (leBytes 8 d.toNat ++ leBytes 16 m.hdr.toNat ++ leBytes 4 (crc32c (flitBytes m.pay)).toNat)

/-- A log entry's first doubleword (R348): SRC and PSEQ. -/
def logWord (m : Msg) : Word := zext m.src ||| (zext m.pseq <<< 32)

/-- Whether replay hands a message on now (R348): it is the next of the log. -/
def Debug.admits (d : Debug) (m : Msg) : Bool :=
  match d.replay with
  | .replay k => (d.logbook[k]?).any fun e => e.1 == logWord m
  | _ => true

/-- A message taken into the digest and the count, with what record and replay modes do with it (R347, R348). -/
def State.digested (s : State) (m : Msg) : State :=
  let d := nextDigest s.here.dbg.digest m
  let t := s.modDbg fun x => { x with digest := d, count := x.count + 1 }
  match s.here.dbg.replay with
  | .off => t
  | .record => t.modDbg fun x => { x with logbook := x.logbook ++ [(logWord m, d)] }
  | .replay k =>
    let t := t.modDbg fun x => { x with replay := .replay (k + 1) }
    if (s.here.dbg.logbook[k]?).any fun e => e.2 != d then t.trigger 5 else t

/-! Pair order (R178, R270). -/

/-- The PSEQ that a source's next message must carry. -/
def Iface.expectOf (n : Iface) (src : CoreAddr) : BitVec 16 := (look n.expect src.toNat).getD 0

/-- The first sequence number from `q` on that was not refused ahead of its turn. -/
def skipFrom (l : List Msg) (src : CoreAddr) : Nat → BitVec 16 → BitVec 16
  | 0, q => q
  | n + 1, q => if l.any (fun m => m.src == src && m.pseq == q) then skipFrom l src n (q + 1) else q

/-- The PSEQ that a source's next message must carry once the ingress has gone past its next message, and past those refused ahead of their turn behind it. -/
def Iface.after (n : Iface) (src : CoreAddr) : BitVec 16 := skipFrom n.skipped src n.skipped.length (n.expectOf src + 1)

/-- A message refused ahead of its turn whose turn comes as the ingress goes past its source's next message. -/
def Iface.passesOver (n : Iface) (src : CoreAddr) (m : Msg) : Bool :=
  m.src == src && decide ((m.pseq - n.expectOf src).toNat < (n.after src - n.expectOf src).toNat)

/-- The ingress advances past a source's message, and past those refused ahead of it. -/
def Iface.advance (n : Iface) (src : CoreAddr) : Iface :=
  { n with expect := put n.expect src.toNat (n.after src), skipped := n.skipped.filter fun m => !n.passesOver src m }

/-- The messages refused ahead of their turn whose turn comes behind a source's next message, in the order of their pair. -/
def Iface.passed (n : Iface) (src : CoreAddr) : List Msg :=
  (List.range n.skipped.length).filterMap fun i => n.skipped.find? fun m => n.passesOver src m && m.pseq == n.expectOf src + 1 + BitVec.ofNat 16 i

/-- The ingress takes a source's next message: it advances, and the message, then those refused ahead of their turn whose turn has come, enter the digest in the order of R178, refusals
included (R347). -/
def State.ingress (s : State) (src : CoreAddr) (m : Msg) : State :=
  (s.here.net.passed src).foldl State.digested ((s.modNet fun n => n.advance src).digested m)

/-- The early arrival of a source whose turn has come, and the interface without it. -/
def Iface.takeEarly (n : Iface) (src : CoreAddr) : Option (Msg × Iface) :=
  let q := n.expectOf src
  match takeFirst (fun m => m.src == src && m.pseq == q) n.early with
  | some (m, rest) => some (m, { n with early := rest })
  | none =>
    n.rings.findSome? fun r =>
      (takeFirst (fun e => e.early && e.msg.src == src && e.msg.pseq == q) r.2).map fun e => (e.1.msg, { n with rings := putD n.rings r.1 e.2 [] })

/-- Bytes that a message counts in its tenant's spill ring (R156). -/
def Msg.ringBytes (m : Msg) : Nat := 32 + 32 * m.pay.length

/-- The bytes of a ring entry (R236): the header, 8 B of arrival sequence, 8 B of zero, and the payload, which is whole flits of 32 B. -/
def SpillEntry.bytes (e : SpillEntry) : List Byte := leBytes 16 e.msg.hdr.toNat ++ leBytes 8 e.seq.toNat ++ List.replicate 8 0 ++ flitBytes e.msg.pay

/-- The spill ring of a tenant, oldest entry first. -/
def Iface.ring (n : Iface) (ten : BitVec 12) : List SpillEntry := (look n.rings ten.toNat).getD []

/-- Bytes of a tenant's ring use that its quota counts (R156): records on channel 249 are outside it. -/
def Iface.ringUse (n : Iface) (ten : BitVec 12) : Nat := (((n.ring ten).filter fun e => e.msg.ch != 249).map fun e => e.msg.ringBytes).sum

/-- The spill quota of a tenant at the core (R156, R252): the lessee's is loaded, another tenant's stands in its VF record. -/
def State.quota (s : State) (ten : BitVec 12) : Nat :=
  if ten = s.here.regs.lessee then s.here.regs.spq.toNat
  else match s.home.vfOf ten with
    | some (_, f) => (fld (f.rec16[3]) 0 32 : BitVec 32).toNat
    | none => 0

/-- Whether a message fits its tenant's spill quota. -/
def State.fits (s : State) (m : Msg) : Bool := m.ch == 249 || decide (s.here.net.ringUse m.ten + m.ringBytes ≤ s.quota m.ten)

/-- A message joins its tenant's spill ring (R155, R236). -/
def Iface.toRing (n : Iface) (m : Msg) (written early copied : Bool) : Iface :=
  { n with
    rings := putD n.rings m.ten.toNat (n.ring m.ten ++ [{ msg := m, seq := n.arrSeq, written := written, early := early, copied := copied }]) []
    arrSeq := n.arrSeq + 1 }

/-- A message goes to its tenant's spill ring by way of the spill engine, which has yet to write it (R236). -/
def State.toRing (s : State) (m : Msg) (early copied : Bool) : State := s.modNet fun n => n.toRing m false early copied

/-- The quota fault of a tenant is armed again once its ring's use is below the quota (R156). -/
def State.rearm (s : State) (ten : BitVec 12) : State :=
  if s.here.net.ringUse ten < s.quota ten then s.modNet fun n => { n with quotaHit := n.quotaHit.filter (· != ten.toNat) } else s

/-- A quota refusal (R156): a NACK of cause NACKQUOTA, and for the first one until the ring's use has fallen below the quota an asynchronous record. The spec
gives the refusal no value: it is free. -/
def State.quotaRefuse (s : State) (m : Msg) : State :=
  let v := Config.info cNackQuota (zext m.src) s.time
  let t := s.nack m cNackQuota v
  if s.here.net.quotaHit.contains m.ten.toNat then t
  else (t.modNet fun n => { n with quotaHit := insertNat n.quotaHit m.ten.toNat }).asyncRecord cNackQuota m.cid m.src (if m.kind = kPut then zext (fld m.hdr 6 18) else 0)
    (m.kind == kPut) 0 v { Origin.none with ch := m.ch }

/-- The barrier record that a channel is bound to for a tenant (R183, R184): the lessee's binding, or the saved binding of another tenant. -/
def State.barrier (s : State) (m : Msg) : Option Nat :=
  if m.ten = s.here.regs.lessee then look s.here.live.barm m.ch.toNat
  else match s.here.saved.find? fun v => v.ten == m.ten with
    | some v => look v.lessee.barm m.ch.toNat
    | none => none

/-- A message that never enters a spill ring: a barrier arrival (R156), a channel-8 arrival (R199), and a NACK (R171). Ahead of its sequence it stays at the ingress, whose limit of
16 then does not hold (DESIGN CHOICE, log entry 57: R270 names the ring for every further early arrival). -/
def State.ringless (s : State) (m : Msg) : Bool := m.isNack || m.ch == 8 || (m.kind == kPut && (s.barrier m).isSome)

/-- A message ahead of its sequence waits at the ingress, which holds 16; a further one waits in its tenant's ring, if the quota holds it (R270). -/
def State.holdEarly (s : State) (m : Msg) : State :=
  if s.here.net.early.length < 16 ∨ s.ringless m then s.modNet fun n => { n with early := n.early ++ [m] }
  else if s.fits m then s.toRing m true false
  else (s.quotaRefuse m).modNet fun n => { n with skipped := n.skipped ++ [m] }

/-- A message to an absent core or engine is NACKed with PLACEMENT (R259, R260); the spec gives the refusal no value: it is free. A NACK settles. -/
def State.absentArrive (s : State) (src : CoreAddr) : State :=
  match takeFirst (fun m => m.dst == s.at_ && m.src == src) s.flight with
  | none => s
  | some (m, rest) =>
    let t := { s with flight := rest }.modNet fun n => n.advance src
    if m.isNack then t.settle m else t.nack m cPlacement (Config.info cPlacement (zext m.dst) s.time)

/-- A message of a source is with the spill engine and not yet performed (R177, R236): later messages of the source wait for it (R178). -/
def Iface.spilling (n : Iface) (src : CoreAddr) : Bool := n.rings.any fun r => r.2.any fun e => !e.written && !e.early && e.msg.src == src

/-- A source's first message in flight, which an event of one kind (`p`) takes: in its turn `f` performs it, unless a message of the source still spills; ahead of its turn, or in replay
ahead of the log's order, it is held as an early arrival (R178, R270, R348). A message whose elder is held is ahead of its turn. -/
def State.arriveNew (s : State) (src : CoreAddr) (p : Msg → Bool) (f : Msg → State → State) : State :=
  match takeFirst (fun m => m.dst == s.at_ && m.src == src) s.flight with
  | none => s
  | some (m, rest) =>
    if !p m then s
    else if m.pseq == s.here.net.expectOf src then
      if s.here.net.spilling src then s
      else if s.here.dbg.admits m then f m (State.ingress { s with flight := rest } src m)
      else { s with flight := rest }.holdEarly m
    else { s with flight := rest }.holdEarly m

/-- What the ingress does with the next message of `src` that an event of one kind (`p`) takes (R178, R270, R348): an early arrival whose turn has come, else its first in flight.
A message of another kind waits for its own event, and one behind a message that still spills waits for that. At an absent core every message is refused. -/
def State.arrive (s : State) (src : CoreAddr) (p : Msg → Bool) (f : Msg → State → State) : State :=
  if !s.here.present then s.absentArrive src
  else match s.here.net.takeEarly src with
  | some (m, n) =>
    if p m && !n.spilling src && s.here.dbg.admits m then f m (State.ingress ((s.modNet fun _ => n).rearm m.ten) src m) else s.arriveNew src p f
  | none => s.arriveNew src p f

/-! Partition routers (R327). -/

/-- Messages that cross a partition (R327): of system kind on a channel of the system range from a class-S slot or an engine. The interface's own messages and those of a vendor's
handler count as such (DEDUCED, log entry 43). -/
def crosses (m : Msg) : Bool := m.kind == kSystem && sysChannel m.ch && m.sys

/-- Whether a router on the message's way through the package lets it pass (R327). The host link agent serves every VF (R326), so its messages count as the
partition's own (DEDUCED, log entry 43). Pool requests go only to pool ports of their partition. -/
def State.routed (s : State) (m : Msg) : Bool :=
  pkgOf m.src != pkgOf s.at_ || m.src == hostAgent (pkgOf m.src) || s.home.partOf m.src == s.home.partOf s.at_ || (crosses m && !isPoolAgent s.at_)

/-- A message performed if no partition router drops it; a dropped one is NACKed with PLACEMENT and the value DST (R327). -/
def State.routeThen (m : Msg) (f : State → State) (s : State) : State := if s.routed m then f s else s.nack m cPlacement (zext m.dst)

/-! Windows at a home (R202, R203). -/

/-- Permissions of a window by bit (R202). -/
inductive Perm where
  | read
  | write
  | atomic
  deriving DecidableEq, Repr

/-- Bit of a permission in a window. -/
def Perm.bitNo : Perm → Nat
  | .read => 102
  | .write => 101
  | .atomic => 100

/-- Whether a window grants an access of a tenant to `n` bytes at `p` (R203). -/
def windowGrants (w : BitVec 128) (ten : BitVec 12) (perm : Perm) (p n : Nat) : Bool :=
  bit w 103 && (fld w 116 12 == ten) && bit w perm.bitNo && decide ((fld w 0 18).toNat ≤ p) && decide (p + n ≤ (fld w 18 19).toNat)

/-- The first window in order that grants an access (R317). -/
def Core.window (c : Core) (ten : BitVec 12) (perm : Perm) (p n : Nat) : Option (BitVec 128) :=
  c.windows.toList.find? fun w => windowGrants w ten perm p n

/-- The checks of R203 on an access at this home: the key slot's key to perform it under, or the cause and value of the NACK. -/
def State.homeCheck (s : State) (ten : BitVec 12) (perm : Perm) (store : Bool) (p n : Nat) : Except (Cause × Word) KeyId :=
  match s.here.window ten perm p n with
  | none => .error (cNackWin, BitVec.ofNat 64 p)
  | some w =>
    let key := s.here.key (fld w 64 4)
    match s.here.mem.check s.at_ key store p n with
    | some (c, g) => .error (c, BitVec.ofNat 64 g)
    | none => .ok key

/-- Bytes read at the home under a key. -/
def State.homeRead (s : State) (key : KeyId) (p n : Nat) : List Byte := s.here.mem.read s.at_ key p n

/-- Bytes written at the home under a key (R34). -/
def State.homeWrite (s : State) (key : KeyId) (p : Nat) (bs : List Byte) : State :=
  { s with here := { s.here with mem := s.here.mem.write s.at_ key p bs } }

/-- A refusal at a home (R203): a NACK; an uncorrectable error is counted and reported (R257). -/
def State.homeRefuse (s : State) (m : Msg) (cause : Cause) (v : Word) : State :=
  let t := s.nack m cause v
  if cause = cEccu then (t.modCtr fun c => { c with uncorrected := c.uncorrected + 1 }).faultRecord 4 0 m.cid 0 v 0 else t

end Sys2Proof.Machine
end

