-- ==== Sys2Proof/Machine/Classify.lean ====
section
/-! DEFINITION. Which event of the opcode table takes an arriving message: by its kind, its channel and the role of the core it reaches (R154, R171, R199, R222). -/

namespace Sys2Proof.Machine

/-! Roles of engine cores (R222). -/

/-- A place of a launch and collective engine. -/
def isLaunchEngine (a : CoreAddr) : Bool := isEngine a && decide (32 ≤ xOf a) && decide (xOf a ≤ 35)

/-- A place of a spill engine. -/
def isSpillEngine (a : CoreAddr) : Bool := isEngine a && decide (28 ≤ xOf a) && decide (xOf a ≤ 31)

/-- Spill engine k of a die. -/
def spillEngine (pkg die k : Nat) : CoreAddr := mkAddr pkg die (62 + k / 4) (28 + k % 4)

/-- System channels that the image of an engine's role serves (R223): the notices of R314 at every engine but a pool agent; kicks at copy and collective engines; ascent messages
at anchor keepers; launches and generation notices at launch engines; lease records, fault records, trap records and the completions of their own copies at supervisors. The other channels of an engine are
invalid until the system instructions write them. Which channels an image serves is read from the rules that send to its role (DEDUCED, log entry 56). -/
def roleChannel (a : CoreAddr) (ch : BitVec 8) : Bool :=
  !isPoolAgent a && isEngine a &&
    (ch == 5 || (ch == 9 && (isCopyEngine a || isLaunchEngine a)) || (ch == 12 && isKeeper a) || ((ch == 0 || ch == 2) && isLaunchEngine a) ||
      ((ch == 7 || ch == 10 || ch == 249 || ch == 250) && isSupervisor a))

/-! Launch messages on channel 0 (log entry 21). -/

/-- A submission of a launch to its root: two flits (LPB offset, sub-ID, function, journal SEQ). The spec gives it no layout (DESIGN CHOICE, log entry 21). -/
def isSubmission (m : Msg) : Bool := m.kind == kSystem && m.ch == 0 && m.pay.length == 2

/-- A wake (R164): one flit without a mark. -/
def isWake (m : Msg) : Bool := m.kind == kSystem && m.ch == 0 && m.pay.length == 1 && zeroBits (m.dw 3) 56 8

/-- A vote, or a failure, to a launch engine. -/
def isMark (n : Nat) (m : Msg) : Bool := m.kind == kSystem && m.ch == 0 && m.pay.length == 1 && fld (m.dw 3) 56 8 == BitVec.ofNat 8 n

/-! Messages on channel 12. The spec says what each carries and not where (DESIGN CHOICE, log entry 20): one flit is a request or a stamp return, by its first
byte; two flits are an anchor push, a stamp request (first byte 1), an end notice (zero), or a failure notice (a trap record, whose byte 7 is its cause). -/

/-- A message of the keepers. -/
def Msg.isKeeper (m : Msg) : Bool := m.kind == kSystem && m.ch == 12

/-- A request of operation `op`. -/
def isAscentReq (op : Nat) (m : Msg) : Bool := m.isKeeper && m.pay.length == 1 && m.byte 0 == BitVec.ofNat 8 op

/-- A stamp return. -/
def isStampReturn (m : Msg) : Bool := isAscentReq 7 m

/-- A stamp request. -/
def isStampReq (m : Msg) : Bool := m.isKeeper && m.pay.length == 2 && m.byte 7 == 0 && m.byte 0 == 1

/-- A failure notice. -/
def isFailure (m : Msg) : Bool := m.isKeeper && m.pay.length == 2 && m.byte 7 != 0

/-- An end notice. -/
def isEndNotice (m : Msg) : Bool := m.isKeeper && m.pay.length == 2 && m.dw 0 == 0

/-- An anchor push. -/
def isPush (m : Msg) : Bool := m.isKeeper && m.pay.length == 2 && m.byte 7 == 0 && m.dw 0 != 0 && m.byte 0 == 0

/-- The event of a message on channel 12 at an anchor keeper. -/
def keeperEvent (m : Msg) : Instr :=
  if isPush m then .anchorPush
  else if isStampReq m then .anchorStamp
  else if isStampReturn m then .stampReturn
  else if isEndNotice m then .endNotice
  else if isFailure m then .failureNotice
  else if isAscentReq 2 m then .ascentBeginReq
  else if isAscentReq 3 m then .ascentSummitReq
  else if isAscentReq 4 m then .ascentRetreatReq
  else if isAscentReq 5 m then .ascentResumeReq
  else if isAscentReq 6 m then .ascentStatReq
  else .messageArrival

/-! Classes. -/

/-- The event of a request on channel 8 (R199, R200). A pool agent performs no landing (R205), and what names no operation is no request. -/
def requestEvent (a : CoreAddr) (m : Msg) : Instr :=
  match (m.byte 0).toNat with
  | 1 => .remoteLoad
  | 2 => .remoteStore
  | 3 => .remotePut
  | 4 => .remotePutr
  | 5 => .remoteGet
  | 6 => if isPoolAgent a then .messageArrival else .getLanding
  | 0x20 => .remoteJdec
  | n => if 0x10 ≤ n ∧ n ≤ 0x1A then .remoteAtomic else .messageArrival

/-- The event of a system message that the image of an engine's role takes (R222, R223). -/
def roleEvent (a : CoreAddr) (m : Msg) : Instr :=
  if !roleChannel a m.ch then .messageArrival
  else match m.ch.toNat with
    | 0 => if isMark 1 m then .launchVote else if isMark 2 m then .wakeFailure else if isSubmission m || isWake m then .launchAccept else .messageArrival
    | 2 => .generationNotice
    | 5 => if m.dw 1 == 0 then .imgrevNotice else if m.dw 1 == 1 && isSupervisor a && dieOf a == 0 then .igtRevokeRequest else .messageArrival
    | 9 => if isCopyEngine a then .copyKick else .collectiveCommand
    | 10 => .placementFaultRecord
    | 12 => keeperEvent m
    | 249 => .doubleRecord
    | _ => .messageArrival

/-- The event of a resume packet by its OUT (R248); the reserved ones are none. -/
def resumeEvent (m : Msg) : Instr :=
  match (m.byte 0).toNat with
  | 0 => .resumeInstall
  | 1 => .resumeRefuse
  | 2 => .plbShootdown
  | _ => .messageArrival

/-- The event that takes a message at a core: NACKs, channel-8 requests, and what the interface, the debug unit, the matrix unit or the image of an engine's role takes, each by its
own event; any other message arrives by R154. -/
def eventOf (a : CoreAddr) (m : Msg) : Instr :=
  if m.isNack then .nack
  else if m.kind != kSystem then .messageArrival
  else match m.ch.toNat with
    | 3 => .debugStop
    | 4 => if m.byte 0 == 1 then .debugResume else if m.byte 0 == 0 then .debugStep else .messageArrival
    | 8 => requestEvent a m
    | 11 => resumeEvent m
    | 13 => if isCompute a then .ropeCommandArrival else .messageArrival
    | _ => roleEvent a m

/-- Channels whose handler is a vendor-sealed image that every core has: launch wake, PREEMPT, image notice, trap triage, engine completion and rescue on a
compute core (R164, R243, R244, R251, R289, R314), and the channels that the image of an engine's role serves (R223). -/
def vendorChannel (a : CoreAddr) (ch : BitVec 8) : Bool :=
  if isEngine a then roleChannel a ch else ch == 0 || ch == 1 || ch == 5 || ch == 249 || ch == 250 || ch == 251

/-- The vendor's handler holds a channel until the system instructions write an entry there: from then on the entry decides, V = 0 included (DESIGN CHOICE, log entry 29: the spec
does not say how the vendor's handlers stand in a lessee's table). -/
def Core.vendorHolds (c : Core) (a : CoreAddr) (ch : BitVec 8) : Bool := vendorChannel a ch && (look c.live.handlers ch.toNat).isNone

/-! The channels of an engine's role, masked or with messages that wait (R155, R181). -/

/-- The image of an engine's role takes messages of a channel now: no entry of the channel is written, and neither a mask (R181) nor a debug stop (R339) keeps the image from running. -/
def State.roleTakes (s : State) (ch : BitVec 8) : Bool :=
  isEngine s.at_ && s.here.vendorHolds s.at_ ch && !bit s.here.live.chmask ch.toNat && !s.here.dbg.stopping

/-- A message of a role's channel goes behind what waits there, or waits itself: in the queue, and spilled (R155). -/
def State.roleWaits (s : State) (ch : BitVec 8) : Bool :=
  isEngine s.at_ && roleChannel s.at_ ch &&
    (!s.roleTakes ch || !((look s.here.net.queues ch.toNat).getD []).isEmpty || s.here.net.rings.any fun r => r.2.any fun e => !e.early && e.msg.ch == ch)

/-- The event that takes a message now: one that its role's image cannot take at once arrives by R154, and the image takes it from the queue. -/
def State.eventFor (s : State) (m : Msg) : Instr := if m.kind == kSystem && s.roleWaits m.ch then .messageArrival else eventOf s.at_ m

/-- The oldest queued messages of the channels that a role's image takes now. -/
def State.roleHeads (s : State) : List Msg :=
  (s.here.net.queues.filter fun q => s.roleTakes (BitVec.ofNat 8 q.1)).filterMap fun q => (q.2.find? fun e => !e.running).map (·.msg)

/-- The queued message of the event's source core that the role's image takes next by an event. -/
def State.roleNext (s : State) (i : Instr) : Option Msg := s.roleHeads.find? fun m => m.src == s.ev.src && eventOf s.at_ m == i

/-- The role's image takes a queued message, whose arrival has settled it. -/
def State.runRole (s : State) (m : Msg) (f : Msg → State → State) : State :=
  let t := f m (s.modNet fun n => n.setQueue m.ch (dropFirst (fun e => !e.running) (n.queue m.ch)))
  { t with acks := t.acks.take s.acks.length ++ (t.acks.drop s.acks.length).filter fun a => !(a.src == m.src && a.dst == m.dst && a.pseq == m.pseq) }

/-- The next message of core `src` taken by an event of the opcode table, if the message is that event's and a further condition holds: one that waits for its role's image, or the next at
the ingress. -/
def State.takes (s : State) (i : Instr) (p : Msg → Bool) (f : Msg → State → State) : State :=
  match s.roleNext i with
  | some m => if p m then s.runRole m f else s
  | none => s.arrive s.ev.src (fun m => s.eventFor m == i && p m) f

end Sys2Proof.Machine
end

