-- ==== Sys2Proof/Machine/Arrive.lean ====
section
/-! DEFINITION. Arrivals (R154 to R156, R171), joins and barriers at their home (R182 to R184), spill rings (R236), and the settling of messages (R177,
R245). -/

namespace Sys2Proof.Machine

/-! Handler entries (R153). -/

/-- An entry that nothing has written: invalid, with PREG 63 (R153). -/
def noEntry : Word := 0x003F_0000_0000_0000

/-- The current lessee's entry of a channel. -/
def Core.entry (c : Core) (ch : BitVec 8) : Word := (look c.live.handlers ch.toNat).getD noEntry

/-- ISLOT of an entry. -/
def entryImg (e : Word) : Fin 8 := (fld e 29 3).toFin

/-- Whether an entry holds its channel's messages: X is 1, or its image-table entry is empty or STALE (R154, R313, R314). -/
def Core.held (c : Core) (e : Word) : Bool :=
  bit e 62 || (match c.images[entryImg e] with
    | some i => i.stale
    | none => true)

/-- Channels whose messages pass the lessee's row of R154. -/
def anyTenant (ch : BitVec 8) : Bool := ch == 249 || ch == 250 || ch == 251

/-- Messages that pass the lessee's row whatever the lessee: those, and a PREEMPT or an image notice of tenant 0, which concern the core and not its lessee: a core
leased to another tenant could not otherwise act on them (R251, R314; DEDUCED, log entry 29). -/
def passes (ten : BitVec 12) (ch : BitVec 8) : Bool := anyTenant ch || (ten == 0 && (ch == 1 || ch == 5))

/-- Whether a message belongs in its tenant's bivouac (R154, R251): its tenant is not the lessee, or a lease change is in its steps 4 to 6. An engine core belongs to no
tenant (R221). -/
def State.foreign (s : State) (m : Msg) : Bool :=
  !isEngine s.at_ && !passes m.ten m.ch && (m.ten != s.here.regs.lessee || s.here.swapping)

/-- Whether a tenant's ring returns a channel's messages to this core's queues now. -/
def State.ringServes (s : State) (ten : Nat) (ch : BitVec 8) : Bool := isEngine s.at_ || passes (BitVec.ofNat 12 ten) ch || ten == s.here.regs.lessee.toNat

/-- Whether a ring holds a message that goes to this channel's queue of the core. -/
def State.ringHas (s : State) (ch : BitVec 8) : Bool :=
  s.here.net.rings.any fun r => s.ringServes r.1 ch && r.2.any fun e => !e.early && e.msg.ch == ch

/-- R155: a message must spill when its channel's queue of 4 is full or the ring already holds a message of its channel. -/
def State.mustSpill (s : State) (m : Msg) : Bool := decide (4 ≤ (s.here.net.queue m.ch).length) || s.ringHas m.ch

/-- The refusal of an arrival by R154 and R156, judged before any of its effects: cause and value, or a quota refusal. -/
inductive Refused where
  | nack (cause : Cause) (value : Word)
  | quota
  deriving DecidableEq, Repr

/-- R154 and R156 on an arriving message that is no barrier arrival. A pool agent refuses every message that is no request of R205 and not taken by its interface. A channel-8 arrival
that names no operation is refused as a message to a channel that no handler serves: it never reaches a queue (R199; DESIGN CHOICE, log entry 58). -/
def State.refusal (s : State) (m : Msg) : Option Refused :=
  if isPoolAgent s.at_ then some (.nack cPlacement (zext m.dst))
  else if 252 ≤ m.ch.toNat ∨ m.ch = 8 then some (.nack cPlacement (zext m.ch))
  else if s.foreign m then (if s.fits m then none else some .quota)
  else if !bit (s.here.entry m.ch) 63 && !s.here.vendorHolds s.at_ m.ch then some (.nack cPlacement (zext m.ch))
  else if s.mustSpill m && !s.fits m then some .quota
  else none

/-- Records on channel 249 that a core holds in its queue and rings (R242). -/
def Iface.records (n : Iface) : Nat :=
  (n.queue 249).length + ((n.rings.map fun r => (r.2.filter fun e => e.msg.ch == 249).length).sum)

/-- A record that follows a dropped one carries LOST (R242): bit 12 of its fifth doubleword. -/
def Msg.withLost (m : Msg) : Msg := { m with pay := m.pay.zipIdx.map fun p => if p.2 = 1 then p.1 ||| (1#256 <<< 12) else p.1 }

/-- An interface with a message behind the others of its channel's queue, under the next arrival sequence. -/
def Iface.append (n : Iface) (m : Msg) : Iface :=
  { n.setQueue m.ch (n.queue m.ch ++ [{ msg := m, running := false, drops := 0, seq := n.arrSeq }]) with arrSeq := n.arrSeq + 1 }

/-- A message enters its channel's queue and is settled (R155, R177). -/
def State.enqueue (s : State) (m : Msg) : State := (s.modNet fun n => n.append m).settle m

/-- The twin of a paired channel (R255): the logical east neighbour, if it has the same lessee and its entry names the same image ID, generation, ENTRY and
BUDGET. -/
def State.twin (s : State) (ch : BitVec 8) : Option CoreAddr :=
  let e := s.here.entry ch
  match neighbour s.at_ 0 with
  | none => none
  | some a =>
    let c := s.core a
    let f := c.entry ch
    match s.here.images[entryImg e], c.images[entryImg f] with
    | some i, some j =>
      if isCompute s.at_ && bit e 59 && bit f 63 && c.regs.lessee == s.here.regs.lessee && i.id == j.id && i.gen == j.gen && fld e 14 15 == fld f 14 15 &&
          fld e 32 16 == fld f 32 16 then some a
      else none
    | _, _ => none

/-- A core's interface with a settled message behind its channel's others (R155): in the queue of 4, or in the ring while the queue is full or the ring holds one of the
channel. -/
def Iface.join (n : Iface) (m : Msg) (copied : Bool) : Iface :=
  if 4 ≤ (n.queue m.ch).length ∨ (n.ring m.ten).any (fun e => !e.early && e.msg.ch == m.ch) then n.toRing m true false copied
  else n.append m

/-- The copy of a message on a paired channel (R255), with P set, joins the twin's messages of the channel. It keeps its header's DST, by which the twin knows it for a copy
and its primary's core, and no quota is asked for it (DESIGN CHOICE, log entry 27). -/
def State.copyToTwin (s : State) (m : Msg) : State :=
  match s.twin m.ch with
  | some a => s.modCore a fun c => { c with net := c.net.join { m with hdr := m.hdr ||| 4 } true }
  | none => s

/-- A record that an engine's image keeps for what it does next: at a supervisor a fault held by MOV, an uncorrectable error to quarantine for, a trap record or a lease record
(R242, R247, R251, R257). -/
def State.keepReport (s : State) (m : Msg) : State := s.modEng fun e => { e with reports := e.reports ++ [m] }

/-- An accepted message goes to its queue, or by way of the spill engine to the ring (R154, R155, R242); what an engine role's image takes at once is settled and kept. -/
def State.accept (s : State) (m : Msg) : State :=
  if m.ch == 249 && decide (256 ≤ s.here.net.records) then
    ((s.modCtr fun c => { c with lost := c.lost + 1 }).modFunc m.ten fun f => { f with lost := f.lost + 1 }).modNet (fun n => { n with lostPending := true })
      |>.settle m
  else
    let m' := if m.ch == 249 && s.here.net.lostPending then m.withLost else m
    let t := if m.ch == 249 then s.modNet fun n => { n with lostPending := false } else s
    if s.foreign m then t.toRing m' false false
    else if s.roleTakes m.ch && !s.roleWaits m.ch then (t.settle m').keepReport m'
    else (if s.mustSpill m then t.toRing m' false (s.twin m.ch).isSome else t.enqueue m').copyToTwin m'

/-- What a refused arrival does: its NACK and nothing else (R156). -/
def State.refuse (s : State) (m : Msg) : Refused → State
  | .nack c v => s.nack m c v
  | .quota => s.quotaRefuse m

/-! Joins and barriers (R182 to R184). -/

/-- A join or barrier record as the home finds it: key, and its 128 bits. -/
def State.record (s : State) (m : Msg) (r : Nat) : Except (Cause × Word) (KeyId × BitVec 128) :=
  match s.homeCheck m.ten .atomic false r 16 with
  | .error (c, v) => .error (c, if c = cNackWin then BitVec.ofNat 64 r else v)
  | .ok key => .ok (key, BitVec.ofNat 128 (leNat (s.homeRead key r 16)))

/-- An arrival at a record (R182): amount, kind, and for a barrier the write of the put's payload, which must be granted before the record changes. It is one
step: nothing else falls inside it. A refused arrival hits no watchpoint (R344). -/
def State.arriveAt (s : State) (m : Msg) (r amount : Nat) (kind : BitVec 1) (put : Option (Nat × List Byte)) : State :=
  match s.record m r with
  | .error (c, v) => s.homeRefuse m c v
  | .ok (key, x) =>
    let count := (fld x 96 32).toNat
    if !zeroBits x 64 32 || !zeroBits x 2 25 || fld x 0 1 != kind then s.nack m cBarrier (BitVec.ofNat 64 r)
    else if count < amount then
      (s.homeWrite key r (leBytes 16 (x ||| 2).toNat)).nack m cBarrier (BitVec.ofNat 64 r)
    else
      match (match put with
        | none => .ok s
        | some (p, bs) => match s.homeCheck m.ten .write true p bs.length with
          | .error e => .error e
          | .ok k => .ok ((s.homeWrite k p bs).watch false true m.ten [(p, bs.length)]) : Except (Cause × Word) State) with
      | .error (c, v) => s.homeRefuse m c (if c = cNackWin then BitVec.ofNat 64 r else v)
      | .ok t =>
        let left := count - amount
        let t := ((t.homeWrite key r (leBytes 16 (setFld x 96 (BitVec.ofNat 32 left)).toNat)).watch true true m.ten [(r, 16)]).settle m
        if 0 < amount ∧ left = 0 then
          t.sendOwn (fld x 27 29) kCall (fld x 56 8) m.cid [flit4 (BitVec.ofNat 64 r) (boolWord (bit x 1)) 0 0]
        else t

/-- The payload bytes of a message. -/
def Msg.bytes (m : Msg) : List Byte := flitBytes m.pay

/-- A put-kind arrival (R171, R184): a barrier arrival is counted and never queued; otherwise the payload is written under the windows of R203 before the
message is queued or spilled. -/
def State.arrivePut (s : State) (m : Msg) : State :=
  match s.barrier m with
  | some r => s.arriveAt m r (32 * m.pay.length) 1 (some (m.paddr, m.bytes))
  | none => match s.refusal m with
    | some e => s.refuse m e
    | none => match s.homeCheck m.ten .write true m.paddr m.bytes.length with
      | .error (c, v) => s.homeRefuse m c v
      | .ok key => ((s.homeWrite key m.paddr m.bytes).watch false true m.ten [(m.paddr, m.bytes.length)]).accept m

/-- An arrival by R154: a put first writes; a refused message is NACKed; any other is queued or spilled. -/
def State.arriveMsg (s : State) (m : Msg) : State :=
  if m.kind = kPut ∧ m.ch.toNat < 252 ∧ m.ch ≠ 8 ∧ !isPoolAgent s.at_ then s.arrivePut m
  else match s.refusal m with
    | some e => s.refuse m e
    | none => s.accept m

/-- MESSAGE_ARRIVAL (R154): the next message of core `src` arrives. At an engine core the role's image takes with it a queued message that it keeps. -/
def execMessageArrival (s : State) : Host.Outcome State Fault Refusal :=
  .next (match s.roleNext .messageArrival with
  | some m => s.runRole m fun m t => t.keepReport m
  | none => s.arrive s.ev.src (fun m => s.eventFor m == .messageArrival) fun m t => t.routeThen m fun u => u.arriveMsg m)

/-! The spill engine (R236). -/

/-- A spill engine serves the core's rings: engine floor(y/4) of its die, or while that one is absent another of the die (R236, R260). A ring of an engine core is served by that of
its supervisor's rows (DESIGN CHOICE, log entry 59: the rule speaks of compute cores). -/
def State.spillServed (s : State) : Bool :=
  let k := if isEngine s.at_ then 2 * (xOf s.at_ / 12) else yOf s.at_ / 4
  (k :: List.range 8).any fun i => (s.core (spillEngine (pkgOf s.at_) (dieOf s.at_) i)).present

/-- The oldest message that is still with the spill engine, and its tenant. -/
def State.spilling (s : State) : Option (Nat × SpillEntry) :=
  if s.spillServed then s.here.net.rings.findSome? fun r => (r.2.find? fun e => !e.written).map fun e => (r.1, e) else none

/-- SPILL (R236): the oldest message still with the spill engine is written whole into its tenant's ring, and settled. -/
def execSpill (s : State) : Host.Outcome State Fault Refusal :=
  .next (match s.spilling with
  | none => s
  | some (k, e) =>
    let t := s.modNet fun n => { n with rings := putD n.rings k (mapFirst (fun x => !x.written) (fun x => { x with written := true }) ((look n.rings k).getD [])) [] }
    if e.early then t else t.settle e.msg)

/-- The earlier of two ring entries by arrival at the core. -/
def earlierEntry (a b : Nat × SpillEntry) : Nat × SpillEntry := if b.2.seq.toNat < a.2.seq.toNat then b else a

/-- A channel's oldest message in the rings that return to this core's queues (R155, R236), by arrival at the core whatever its ring; it returns once it is written. -/
def State.returnable (s : State) (ch : BitVec 8) : Option (Nat × SpillEntry) :=
  let firsts := s.here.net.rings.filterMap fun r =>
    if s.ringServes r.1 ch then (r.2.find? fun e => !e.early && e.msg.ch == ch).map fun e => (r.1, e) else none
  match firsts with
  | [] => none
  | x :: xs =>
    let e := xs.foldl earlierEntry x
    if e.2.written then some e else none

/-- A channel's oldest spilled message returns to its queue, if an entry is free (R155); on a paired channel the twin gets its copy now if it has none (R255); the tenant's quota
fault is armed again once its use is below the quota (R156). -/
def State.spillBack (s : State) (ch : BitVec 8) : State :=
  if 4 ≤ (s.here.net.queue ch).length then s
  else match s.returnable ch with
    | none => s
    | some (k, e) =>
      let t := s.modNet fun n =>
        { n.setQueue ch (n.queue ch ++ [{ msg := e.msg, running := false, drops := 0, seq := e.seq }]) with
          rings := putD n.rings k (dropFirst (fun x => x == e) ((look n.rings k).getD [])) [] }
      (if e.copied then t else t.copyToTwin e.msg).rearm e.msg.ten

/-- SPILL_RETURN (R155): a spilled message of channel `idx` returns to its queue. -/
def execSpillReturn (s : State) : Host.Outcome State Fault Refusal := .next (if s.here.swapping then s else s.spillBack (BitVec.ofNat 8 s.ev.idx))

/-! Settling (R177, R245). -/

/-- The record of an unsettled message. -/
def Iface.sentTo (n : Iface) (d : CoreAddr) (q : BitVec 16) : Option SentRec := n.sent.find? fun r => r.dst == d && r.pseq == q

/-- The interface without an unsettled message. -/
def Iface.unsend (n : Iface) (d : CoreAddr) (q : BitVec 16) : Iface := { n with sent := dropFirst (fun r => r.dst == d && r.pseq == q) n.sent }

/-- What settlement of a message does beside the order rules: a written part of a copy is done (R231). -/
def State.settledWaiter (s : State) : Waiter → State
  | .copyWrite id off => s.modPart id off fun p => { p with st := .done }
  | _ => s

/-- The acknowledgements on their way from core `src` to this interface. -/
def State.acksFrom (s : State) (src : CoreAddr) : List Ack := s.acks.filter fun a => a.src == s.at_ && a.dst == src

/-- SETTLE_ACK (R177): an acknowledgement from core `src`, the one numbered `idx` among those on their way (they keep no order), reaches this interface. The message is settled; of
a refused one the interface keeps what its NACK needs (R245). -/
def execSettleAck (s : State) : Host.Outcome State Fault Refusal :=
  .next (match (s.acksFrom s.ev.src)[s.ev.idx]? with
  | none => s
  | some a =>
    let t := { s with acks := dropFirst (fun b => b == a) s.acks }
    match s.here.net.sentTo a.dst a.pseq with
    | none => t
    | some r =>
      if a.nacked then t.modNet fun n => { n with sent := mapFirst (fun x => x.dst == a.dst && x.pseq == a.pseq) (fun x => { x with done := true }) n.sent }
      else (t.modNet fun n => n.unsend a.dst a.pseq).settledWaiter r.who)

/-- RELEASE_SEND_LEAVE (R179): the egress sends what its order rules now allow, an L message once every earlier message of its activation is settled. -/
def execReleaseSendLeave (s : State) : Host.Outcome State Fault Refusal := .next s.flush

/-- The parts of a get under way, changed. -/
def State.modGet (s : State) (id : Nat) (f : GetOp → GetOp) : State := s.modNet fun n => { n with gets := mapFirst (fun g => g.id == id) f n.gets }

/-- The asynchronous record that a NACK becomes (R154, R245), with the fault address of R240. A message that the interface or an engine sent has no sending activation: its record
names none. -/
def State.nackRecord (s : State) (m : Msg) (r : SentRec) (hdr : BitVec 128) : State :=
  let isPut := (fld hdr 24 2 : BitVec 2) == kPut
  let faddr : Word := if r.glob then r.off else if isPut then zext (fld hdr 6 18) else 0
  s.asyncRecord (m.byte 0) r.cid m.src faddr (isPut && !r.glob) (if r.glob then r.space else 0) (m.dw 1) r.org

end Sys2Proof.Machine
end

