-- ==== Sys2Proof/Machine/Float.lean ====
section
/-! DEFINITION. Number formats and exact arithmetic (R61 to R69, R77, R78): values as exact dyadics, RoundTo, and the floating operations. -/

namespace Sys2Proof.Machine

/-- An exact dyadic value, (−1)^neg · m · 2^e; a zero keeps its sign. -/
structure Dy where
  neg : Bool
  m : Nat
  e : Int
  deriving DecidableEq, Repr

/-- The exact value one. -/
def Dy.one : Dy := { neg := false, m := 1, e := 0 }

/-- A value of a floating format (R62): NaN (signalling or quiet), infinity, or finite. -/
inductive Num where
  | nan (sig : Bool)
  | inf (neg : Bool)
  | fin (d : Dy)
  deriving DecidableEq, Repr

/-- A floating format by its exponent and fraction widths (R61). -/
structure Fmt where
  ew : Nat
  p : Nat
  deriving DecidableEq, Repr

/-- FP32. -/
def fp32 : Fmt := { ew := 8, p := 23 }
/-- FP64. -/
def fp64 : Fmt := { ew := 11, p := 52 }
/-- BF16. -/
def bf16 : Fmt := { ew := 8, p := 7 }
/-- FP16. -/
def fp16 : Fmt := { ew := 5, p := 10 }
/-- IX (E8M10). -/
def ixFmt : Fmt := { ew := 8, p := 10 }

/-- The floating format of a lane type code 0 to 3 (R15). -/
def fmtOf (t : TypeCode) : Fmt :=
  match t.toNat with
  | 0 => fp32
  | 1 => fp64
  | 2 => bf16
  | _ => fp16

/-- Exponent bias (R61). -/
def Fmt.bias (f : Fmt) : Nat := 2 ^ (f.ew - 1) - 1

/-- Value of a bit pattern (R62). -/
def Fmt.decode (f : Fmt) (x : Nat) : Num :=
  let frac := x % 2 ^ f.p
  let ex := x / 2 ^ f.p % 2 ^ f.ew
  let neg := x / 2 ^ (f.p + f.ew) % 2 == 1
  if ex = 2 ^ f.ew - 1 then
    if frac = 0 then .inf neg else .nan (frac / 2 ^ (f.p - 1) % 2 == 0)
  else if ex = 0 then .fin { neg := neg, m := frac, e := 1 - (f.bias : Int) - f.p }
  else .fin { neg := neg, m := 2 ^ f.p + frac, e := (ex : Int) - f.bias - f.p }

/-- The canonical NaN (R61): sign 0, quiet, no payload. -/
def Fmt.cnan (f : Fmt) : Nat := (2 ^ f.ew - 1) * 2 ^ f.p + 2 ^ (f.p - 1)

/-- Sign bit of a pattern. -/
def Fmt.signBit (f : Fmt) (neg : Bool) : Nat := if neg then 2 ^ (f.p + f.ew) else 0

/-- Infinity of a sign. -/
def Fmt.infBits (f : Fmt) (neg : Bool) : Nat := f.signBit neg + (2 ^ f.ew - 1) * 2 ^ f.p

/-- Largest finite magnitude of a sign. -/
def Fmt.maxBits (f : Fmt) (neg : Bool) : Nat := f.signBit neg + (2 ^ f.ew - 2) * 2 ^ f.p + (2 ^ f.p - 1)

/-! Sticky flags (R68), as bits of `fflg`. -/

/-- NV. -/
def fNV : BitVec 6 := 0x20
/-- OF. -/
def fOF : BitVec 6 := 0x10
/-- UF. -/
def fUF : BitVec 6 := 0x08
/-- NX. -/
def fNX : BitVec 6 := 0x04
/-- DR. -/
def fDR : BitVec 6 := 0x02
/-- PZ. -/
def fPZ : BitVec 6 := 0x01

/-- A flag set under a condition. -/
def flagIf (b : Bool) (f : BitVec 6) : BitVec 6 := if b then f else 0

/-- Number of bits of a magnitude. -/
def bitLen (m : Nat) : Nat := if m = 0 then 0 else Nat.log2 m + 1

/-- A magnitude m · 2^e rounded to a multiple of 2^g in a mode (R63 step 1): the quotient, and whether it is exact. Mode 0 RNE, 1 RTZ, 2 RUP, 3 RDN, 4 RNA,
5 RTO. -/
def roundGrid (mode : Nat) (neg : Bool) (m : Nat) (e g : Int) : Nat × Bool :=
  if g ≤ e then (m * 2 ^ (e - g).toNat, true)
  else
    let s := (g - e).toNat
    let q := m / 2 ^ s
    let r := m % 2 ^ s
    if r = 0 then (q, true)
    else
      let h := 2 ^ (s - 1)
      let up := match mode with
        | 0 => decide (h < r) || (decide (r = h) && q % 2 == 1)
        | 2 => !neg
        | 3 => neg
        | 4 => decide (h ≤ r)
        | _ => false
      (if mode = 5 then q + (1 - q % 2) else if up then q + 1 else q, false)

/-- The pattern of a magnitude q · 2^g that the format holds. -/
def Fmt.pack (f : Fmt) (neg : Bool) (q : Nat) (g : Int) : Nat :=
  if q = 0 then f.signBit neg
  else
    let l := bitLen q
    let ex := (l : Int) - 1 + g + f.bias
    if ex ≤ 0 then f.signBit neg + q * 2 ^ (g - (1 - (f.bias : Int) - f.p)).toNat
    else
      let frac := if l ≤ f.p + 1 then q * 2 ^ (f.p + 1 - l) else q / 2 ^ (l - (f.p + 1))
      f.signBit neg + ex.toNat * 2 ^ f.p + (frac - 2 ^ f.p)

/-- RoundTo(fmt, x, mode) with the flags of R67 (R63). -/
def Fmt.round (f : Fmt) (x : Dy) (mode : Nat) : Nat × BitVec 6 :=
  if x.m = 0 then (f.signBit x.neg, 0)
  else
    let ex := (bitLen x.m : Int) - 1 + x.e
    let g := ex - f.p
    let r := roundGrid mode x.neg x.m x.e g
    let ey := (bitLen r.1 : Int) - 1 + g
    if (f.bias : Int) < ey then
      let toInf := match mode with
        | 0 => true
        | 2 => !x.neg
        | 3 => x.neg
        | 4 => true
        | _ => false
      (if toInf then f.infBits x.neg else f.maxBits x.neg, fOF ||| fNX)
    else if ey < 1 - (f.bias : Int) then
      let gs := 1 - (f.bias : Int) - f.p
      let r2 := roundGrid mode x.neg x.m x.e gs
      (f.pack x.neg r2.1 gs, flagIf (!r2.2) (fUF ||| fNX))
    else (f.pack x.neg r.1 g, flagIf (!r.2) fNX)

/-- The mode of an instruction outside the conversions: RTO rounds as RTZ (R64). -/
def plainMode (frm : BitVec 3) : Nat := if frm = 5 then 1 else frm.toNat

/-- Exact product. -/
def Dy.mul (x y : Dy) : Dy := { neg := x.neg != y.neg, m := x.m * y.m, e := x.e + y.e }

/-- Signed integer of a dyadic at a common exponent. -/
def Dy.at (x : Dy) (e : Int) : Int := (if x.neg then -1 else 1) * ((x.m * 2 ^ (x.e - e).toNat : Nat) : Int)

/-- Exact sum; a zero sum of zeros of one sign keeps it, any other zero sum is +0, or −0 in RDN (R66). -/
def Dy.add (mode : Nat) (x y : Dy) : Dy :=
  let e := min x.e y.e
  let s := x.at e + y.at e
  if s = 0 then { neg := if x.m = 0 ∧ y.m = 0 ∧ x.neg = y.neg then x.neg else mode == 3, m := 0, e := e }
  else { neg := decide (s < 0), m := s.natAbs, e := e }

/-- The value with its sign inverted. -/
def Num.negate : Num → Num
  | .nan s => .nan s
  | .inf n => .inf (!n)
  | .fin d => .fin { d with neg := !d.neg }

/-- Signalling NaN. -/
def Num.isSig : Num → Bool
  | .nan s => s
  | _ => false

/-- NaN. -/
def Num.isNan : Num → Bool
  | .nan _ => true
  | _ => false

/-- Zero. -/
def Num.isZero : Num → Bool
  | .fin d => d.m == 0
  | _ => false

/-- Infinity. -/
def Num.isInf : Num → Bool
  | .inf _ => true
  | _ => false

/-- Sign of a value that is no NaN. -/
def Num.sign : Num → Bool
  | .nan _ => false
  | .inf n => n
  | .fin d => d.neg

/-- A result before rounding: NaN with NV or without, infinity, or an exact value. -/
inductive Exact where
  | nan (nv : Bool)
  | inf (neg : Bool)
  | val (d : Dy)
  deriving DecidableEq, Repr

/-- The pattern and flags of a result in a format. -/
def Exact.to (x : Exact) (f : Fmt) (mode : Nat) : Nat × BitVec 6 :=
  match x with
  | .nan nv => (f.cnan, flagIf nv fNV)
  | .inf n => (f.infBits n, 0)
  | .val d => f.round d mode

/-- a + b (R66). -/
def numAdd (mode : Nat) (a b : Num) : Exact :=
  match a, b with
  | .nan s, b => .nan (s || b.isSig)
  | .inf _, .nan s => .nan s
  | .fin _, .nan s => .nan s
  | .inf n, .inf n' => if n = n' then .inf n else .nan true
  | .inf n, .fin _ => .inf n
  | .fin _, .inf n => .inf n
  | .fin x, .fin y => .val (x.add mode y)

/-- a · b before any sum (R66): `none` when 0 · ∞ makes it invalid. -/
def numMul (a b : Num) : Exact :=
  match a, b with
  | .nan s, b => .nan (s || b.isSig)
  | .inf _, .nan s => .nan s
  | .fin _, .nan s => .nan s
  | .inf n, .inf n' => .inf (n != n')
  | .inf n, .fin d => if d.m = 0 then .nan true else .inf (n != d.neg)
  | .fin d, .inf n => if d.m = 0 then .nan true else .inf (n != d.neg)
  | .fin x, .fin y => .val (x.mul y)

/-- a · b + c with one rounding (R23, R66). -/
def numFma (mode : Nat) (a b c : Num) : Exact :=
  match numMul a b with
  | .nan nv => .nan (nv || c.isSig)
  | .inf n => match c with
    | .nan s => .nan s
    | .inf n' => if n = n' then .inf n else .nan true
    | .fin _ => .inf n
  | .val d => match c with
    | .nan s => .nan s
    | .inf n => .inf n
    | .fin y => .val (d.add mode y)

/-- a · b + c, its product's sign inverted if asked (`vfnma`). -/
def numFnma (mode : Nat) (a b c : Num) : Exact := numFma mode a.negate b c

/-- a / b (R66): the quotient to enough bits, with a last bit that stands for the rest, which no rounding can tell from the exact value. -/
def numDiv (f : Fmt) (a b : Num) : Exact :=
  match a, b with
  | .nan s, b => .nan (s || b.isSig)
  | .inf _, .nan s => .nan s
  | .fin _, .nan s => .nan s
  | .inf _, .inf _ => .nan true
  | .inf n, .fin d => .inf (n != d.neg)
  | .fin d, .inf n => .val { neg := d.neg != n, m := 0, e := 0 }
  | .fin x, .fin y =>
    if y.m = 0 then (if x.m = 0 then .nan true else .inf (x.neg != y.neg))
    else
      let k := f.p + 4 + bitLen y.m
      let n := x.m * 2 ^ k
      .val { neg := x.neg != y.neg, m := 2 * (n / y.m) + (if n % y.m = 0 then 0 else 1), e := x.e - y.e - k - 1 }

/-- Integer square root, bit by bit from bit `b` down. -/
def isqrtGo (n : Nat) : Nat → Nat → Nat
  | 0, r => r
  | b + 1, r => isqrtGo n b (if (r + 2 ^ b) * (r + 2 ^ b) ≤ n then r + 2 ^ b else r)

/-- Integer square root. -/
def isqrt (n : Nat) : Nat := isqrtGo n (bitLen n / 2 + 1) 0

/-- √a (R66), by the same device as the quotient. -/
def numSqrt (f : Fmt) (a : Num) : Exact :=
  match a with
  | .nan s => .nan s
  | .inf n => if n then .nan true else .inf false
  | .fin d =>
    if d.m = 0 then .val d
    else if d.neg then .nan true
    else
      let odd := d.e % 2
      let k := f.p + 3
      let n := d.m * 2 ^ (odd.toNat + 2 * k)
      let q := isqrt n
      .val { neg := false, m := 2 * q + (if q * q = n then 0 else 1), e := (d.e - odd) / 2 - k - 1 }

/-- a < b, neither a NaN; −0 and +0 are equal. -/
def numLt (a b : Num) : Bool :=
  match a, b with
  | .nan _, _ => false
  | .inf n, b => n && (match b with | .inf n' => !n' | .fin _ => true | .nan _ => false)
  | .fin _, .inf n => !n
  | .fin x, .fin y => let e := min x.e y.e; decide (x.at e < y.at e)
  | .fin _, .nan _ => false

/-- a = b in value, neither a NaN. -/
def numEq (a b : Num) : Bool := !a.isNan && !b.isNan && !numLt a b && !numLt b a

/-- a ≤ b in value, neither a NaN. -/
def numLe (a b : Num) : Bool := !a.isNan && !b.isNan && !numLt b a

/-- The bits of a floating operation that never rounds: a NaN gives the canonical NaN, with NV if signalling (R66, R106). -/
def quietOr (f : Fmt) (a : Num) (r : Nat) : Nat × BitVec 6 := if a.isNan then (f.cnan, flagIf a.isSig fNV) else (r, 0)

/-- The lesser of a and b as bits, −0 below +0 (R106). -/
def fminBits (f : Fmt) (x y : Nat) : Nat × BitVec 6 :=
  let a := f.decode x; let b := f.decode y
  if a.isNan || b.isNan then (f.cnan, flagIf (a.isSig || b.isSig) fNV)
  else (if numLt a b || (numEq a b && a.sign) then x else y, 0)

/-- The greater of a and b as bits, +0 above −0 (R106). -/
def fmaxBits (f : Fmt) (x y : Nat) : Nat × BitVec 6 :=
  let a := f.decode x; let b := f.decode y
  if a.isNan || b.isNan then (f.cnan, flagIf (a.isSig || b.isSig) fNV)
  else (if numLt b a || (numEq a b && !a.sign) then x else y, 0)

/-- Class bit of a pattern (R107). -/
def classBit (f : Fmt) (x : Nat) : Nat :=
  match f.decode x with
  | .nan s => if s then 8 else 9
  | .inf n => if n then 0 else 7
  | .fin d =>
    if d.m = 0 then (if d.neg then 3 else 4)
    else if d.m < 2 ^ f.p then (if d.neg then 2 else 5)
    else (if d.neg then 1 else 6)

/-- Conversion to an integer range [lo, hi] (R69): the integer and the flags. -/
def numToInt (mode : Nat) (a : Num) (lo hi : Int) : Int × BitVec 6 :=
  match a with
  | .nan _ => (0, fNV)
  | .inf n => (if n then lo else hi, fNV)
  | .fin d =>
    let r := roundGrid mode d.neg d.m d.e 0
    let v : Int := if d.neg then -(r.1 : Int) else r.1
    if v < lo then (lo, fNV) else if hi < v then (hi, fNV) else (v, flagIf (!r.2) fNX)

/-- An integer as an exact value; zero is +0. -/
def dyOfInt (n : Int) : Dy := { neg := decide (n < 0), m := n.natAbs, e := 0 }

/-- An exact value times 2^k. -/
def Dy.scale (x : Dy) (k : Int) : Dy := { x with e := x.e + k }

/-- Value of an E5M3 scale code other than 0xFF (R61, R62). -/
def e5m3 (c : Nat) : Dy :=
  let ex := c / 8; let fr := c % 8
  if ex = 0 then { neg := false, m := fr, e := -17 } else { neg := false, m := 8 + fr, e := (ex : Int) - 18 }

/-- Value of an E2M1 code (R62). -/
def e2m1 (c : Nat) : Dy :=
  let ex := c / 2 % 4; let fr := c % 2
  { neg := c / 8 % 2 == 1, m := if ex = 0 then fr else 2 + fr, e := if ex = 0 then -1 else (ex : Int) - 2 }

/-- A result that is a NaN. -/
def Exact.isNan : Exact → Bool
  | .nan _ => true
  | _ => false

/-- The exact value of a finite term. -/
def Exact.dy : Exact → Dy
  | .val d => d
  | _ => { neg := true, m := 0, e := 0 }

/-- The exact sum of a value and products, or the special value that they make (R66, R77): an infinity of each sign is invalid, beside a NaN too. -/
def exactSum (acc : Exact) (ts : List Exact) : Exact :=
  let all := acc :: ts
  let clash := all.contains (.inf false) && all.contains (.inf true)
  if clash || all.any Exact.isNan then .nan (clash || all.contains (.nan true))
  else if all.contains (.inf false) then .inf false
  else if all.contains (.inf true) then .inf true
  else .val (ts.foldl (fun d t => d.add 0 t.dy) acc.dy)

/-- A value as a term of a sum. -/
def Num.exact : Num → Exact
  | .nan s => .nan s
  | .inf n => .inf n
  | .fin d => .val d

end Sys2Proof.Machine
end

