-- ==== Sys2Proof/Machine/Home.lean ====
section
/-! DEFINITION. Remote operations at their home (R199 to R207), a core's remote-op thread or a pool agent, and the landings and completion of a `get`. -/

namespace Sys2Proof.Machine

/-! The descriptor (R200). -/

/-- OP. -/
def Msg.op (m : Msg) : Nat := (m.byte 0).toNat
/-- SZ. -/
def Msg.sz (m : Msg) : Byte := m.byte 1
/-- Reply, completion or relay channel. -/
def Msg.rch (m : Msg) : BitVec 8 := m.byte 2
/-- LEN. -/
def Msg.len (m : Msg) : Nat := (fld (m.dw 0) 32 16 : BitVec 16).toNat
/-- Access size of a load or store in bytes. -/
def Msg.width (m : Msg) : Nat := 2 ^ (fld m.sz 0 2 : BitVec 2).toNat
/-- The reply-wanted bit. -/
def Msg.wants (m : Msg) : Bool := bit m.sz 3
/-- The data flits' bytes of a put or landing. -/
def Msg.data (m : Msg) : List Byte := ((flitBytes (m.pay.drop 1)).take m.len)

/-- The GVA offset of a request: AUX, but V1 of a `putr`, whose AUX names the relay core (R200; log entry 33). -/
def Msg.gva (m : Msg) : Word := if m.op = 4 then m.dw 1 else m.dw 3

/-- Where a home performs an access: local memory under a key at a near address, or pool memory of a port. -/
inductive Place where
  | near (key : KeyId) (p : Nat)
  | pool (port a : Nat)
  deriving DecidableEq, Repr

/-- The first poisoned line of 64 B that a pool access of `n` bytes at `a` reads (R205). A store reads the lines that it does not cover: the agent turns a request into reads and
writes of whole lines. -/
def Package.poolPoison (k : Package) (port : Nat) (store : Bool) (a n : Nat) : Option Nat :=
  (List.range ((a + n + 63) / 64 - a / 64)).map (a / 64 + ·) |>.find? fun l =>
    k.poolBad.contains (port, l) && !(store && decide (a ≤ 64 * l) && decide (64 * l + 64 ≤ a + n))

/-- A pool port of a confidential partition whose IDE has no key: no MAC of it verifies (R330). -/
def Package.ideFails (k : Package) (pkg port : Nat) : Bool := (k.part (k.partOf (poolAgent pkg port))).conf && !k.ideKeys.contains port

/-- The checks of an access at its home: those of R203 at a core; at a pool agent the IDE of a confidential partition's port must verify (R330; with `flag` of the event it does not), and the
data must not be poisoned (R205). The spec gives those refusals no value: it is the GVA offset of the first byte of the request that fails or lies in the failing line, by which a copy
reports it (R232; DESIGN CHOICE, log entry 60). -/
def State.place (s : State) (m : Msg) (perm : Perm) (store : Bool) (n : Nat) : Except (Cause × Word) Place :=
  if isPoolAgent s.at_ then
    if s.home.ideFails (pkgOf s.at_) (poolPort s.at_) || (s.ev.flag && (s.partition s.at_).conf) then .error (cEccu, m.gva)
    else match s.home.poolPoison (poolPort s.at_) store m.pool n with
    | some l => .error (cEccu, m.gva + BitVec.ofNat 64 (64 * l - m.pool))
    | none => .ok (.pool (poolPort s.at_) m.pool)
  else match s.homeCheck m.ten perm store m.paddr n with
    | .error e => .error e
    | .ok key => .ok (.near key m.paddr)

/-- The memory of a pool port. -/
def Package.poolMem (k : Package) (port : Nat) : Memory := (look k.pool port).getD []

/-- Bytes read at a place. -/
def State.readPlace (s : State) (n : Nat) : Place → List Byte
  | .near key p => s.homeRead key p n
  | .pool port a => memRead (s.home.poolMem port) a n

/-- Bytes written to a pool port; a line written whole is poisoned no more (R205). -/
def Package.poolWrite (k : Package) (port a : Nat) (bs : List Byte) : Package :=
  { k with
    pool := putD k.pool port (memWrite (k.poolMem port) a bs) []
    poolBad := k.poolBad.filter fun b => !(b.1 == port && decide (a ≤ 64 * b.2) && decide (64 * b.2 + 64 ≤ a + bs.length)) }

/-- Bytes written at a place. -/
def State.writePlace (s : State) (bs : List Byte) : Place → State
  | .near key p => s.homeWrite key p bs
  | .pool port a => s.modHome fun k => k.poolWrite port a bs

/-- An access performed at a place is seen by the core's watchpoints (R344). -/
def State.watchPlace (s : State) (rd wr : Bool) (m : Msg) (n : Nat) : Place → State
  | .near _ p => s.watch rd wr m.ten [(p, n)]
  | .pool _ _ => s

/-- A request performed or refused at its home (R203): the access is one step. -/
def State.perform (s : State) (m : Msg) (perm : Perm) (store : Bool) (n : Nat) (f : Place → State → State) : State :=
  match s.place m perm store n with
  | .error (c, v) => s.homeRefuse m c v
  | .ok p => (f p s).settle m

/-- The arrival of a request of one event from core `src`. -/
def State.request (s : State) (i : Instr) (f : Msg → State → State) : Host.Outcome State Fault Refusal :=
  .next (s.takes i (fun _ => true) fun m t => t.routeThen m (f m))

/-- A reply of the home to the source of a request (R204, R207). -/
def State.answer (s : State) (m : Msg) (v w : Word) : State := if m.wants then s.sendOwn m.src kReply m.rch m.cid [flit4 v w 0 0] else s

/-- The loaded value extended by SZ (R204). -/
def loadValue (sz : Byte) (bs : List Byte) : Word :=
  let n := 8 * bs.length
  let x := leNat bs
  if bit sz 2 && decide (2 ^ (n - 1) ≤ x) then BitVec.ofInt 64 ((x : Int) - 2 ^ n) else BitVec.ofNat 64 x

/-- REMOTE_LOAD (R204). -/
def execRemoteLoad (s : State) : Host.Outcome State Fault Refusal :=
  s.request .remoteLoad fun m t => t.perform m .read false m.width fun p u =>
    (u.watchPlace true false m m.width p).answer m (loadValue m.sz (u.readPlace m.width p)) (m.dw 2)

/-- REMOTE_STORE (R204). -/
def execRemoteStore (s : State) : Host.Outcome State Fault Refusal :=
  s.request .remoteStore fun m t => t.perform m .write true m.width fun p u =>
    (u.writePlace (leBytes m.width (m.dw 1).toNat) p).watchPlace false true m m.width p

/-- The write of one part of a put (R206). -/
def State.putPart (s : State) (m : Msg) (p : Place) : State := (s.writePlace m.data p).watchPlace false true m m.len p

/-- REMOTE_PUT (R206). -/
def execRemotePut (s : State) : Host.Outcome State Fault Refusal :=
  s.request .remotePut fun m t => t.perform m .write true m.len fun p u => u.putPart m p

/-- REMOTE_PUTR (R206): the part, then a call on CH to the relay core with g3 = a and g4 = the part's length. -/
def execRemotePutr (s : State) : Host.Outcome State Fault Refusal :=
  s.request .remotePutr fun m t => t.perform m .write true m.len fun p u =>
    (u.putPart m p).sendOwn (fld (m.dw 3) 0 29) kCall m.rch m.cid [flit4 (m.dw 1) (BitVec.ofNat 64 m.len) 0 0]

/-- Bytes that one landing carries: a descriptor and seven data flits, since a message has at most eight (R170; DESIGN CHOICE, log entry 15). -/
def landingBytes : Nat := 224

/-- The landings of a part (R206): its bytes in messages of `landingBytes`, each with its own near address and offset. -/
def State.sendLandings (s : State) (m : Msg) (bs : List Byte) : State :=
  (List.range ((bs.length + landingBytes - 1) / landingBytes)).foldl (fun t i =>
    let c := (bs.drop (landingBytes * i)).take landingBytes
    let o := BitVec.ofNat 64 (landingBytes * i)
    t.sendOwn m.src kSystem 8 m.cid (descFlit 6 0 m.rch c.length 0 (m.dw 2 + o) (m.dw 3 + o) :: flitsOf c)) s

/-- REMOTE_GET (R206): the part is read as one access, and its bytes return to the issuer as landings. -/
def execRemoteGet (s : State) : Host.Outcome State Fault Refusal :=
  s.request .remoteGet fun m t => t.perform m .read false m.len fun p u => (u.watchPlace true false m m.len p).sendLandings m (u.readPlace m.len p)

/-- The new value of an atomic (R207). -/
def atomicValue (fn : Nat) (o v w : Word) : Word :=
  match fn with
  | 0 => o + v
  | 1 => o &&& v
  | 2 => o ||| v
  | 3 => o ^^^ v
  | 4 => if o.slt v then o else v
  | 5 => if v.slt o then o else v
  | 6 => if o.ult v then o else v
  | 7 => if v.ult o then o else v
  | 8 => v
  | 9 => if o = v then w else o
  | _ => BitVec.ofNat 64 ((numAdd 0 (fp64.decode o.toNat) (fp64.decode v.toNat)).to fp64 0).1

/-- REMOTE_ATOMIC (R207): read, compute and write are one access under permission A; the reply holds the old value and the offset. -/
def execRemoteAtomic (s : State) : Host.Outcome State Fault Refusal :=
  s.request .remoteAtomic fun m t => t.perform m .atomic true 8 fun p u =>
    let o : Word := BitVec.ofNat 64 (leNat (u.readPlace 8 p))
    ((u.writePlace (leBytes 8 (atomicValue (m.op - 0x10) o (m.dw 1) (m.dw 2)).toNat) p).watchPlace true true m 8 p).answer m o (m.dw 3)

/-- REMOTE_JDEC (R182): a decrement of a join record; a pool agent refuses it (R205). -/
def execRemoteJdec (s : State) : Host.Outcome State Fault Refusal :=
  s.request .remoteJdec fun m t =>
    if isPoolAgent t.at_ then t.nack m cPlacement (zext m.dst) else t.arriveAt m m.paddr (m.dw 1).toNat 0 none

/-! Landings (R206). -/

/-- The checks of R32 on a landing's range under the key slot of the issuing image, and the write. -/
def State.landBytes (s : State) (kslot : BitVec 4) (p : Nat) (bs : List Byte) : Except Cause State :=
  let e := nearEnd s.at_
  let key := s.here.key kslot
  if e ≤ p ∨ e < p + bs.length then .error cPlacement
  else match s.here.mem.check s.at_ key true p bs.length with
    | some (c, _) => .error c
    | none => .ok (s.homeWrite key p bs)

/-- A landing belongs to a part that still waits for it: from the part's home, at its place in the part by offset and near address, not yet there. -/
def GetPart.awaits (p : GetPart) (m : Msg) : Bool :=
  let o := (m.dw 3 - p.off).toNat
  m.src == p.home && decide (o < p.len) && decide ((m.dw 2).toNat = p.near + o) && !(p.got.any fun g => g.1 == o)

/-- The part with a landing's bytes. -/
def GetPart.land (p : GetPart) (m : Msg) : GetPart := { p with got := p.got ++ [((m.dw 3 - p.off).toNat, m.data)] }

/-- Every byte of the part has come back. -/
def GetPart.whole (p : GetPart) : Bool := p.len ≤ (p.got.map fun g => g.2.length).sum

/-- The part's bytes in order of their offsets. -/
def GetPart.bytes (p : GetPart) : List Byte := memRead (p.got.foldl (fun m g => memWrite m g.1 g.2) []) 0 p.len

/-- A part of a get whose bytes are all there is written as one access, or it has failed with a cause (R201, R206). -/
def State.landPart (s : State) (g : GetOp) (p : GetPart) : State :=
  match s.landBytes g.kslot p.near p.bytes with
  | .ok u => (u.watch false true (cidTen g.cid) [(p.near, p.len)]).modGet g.id fun x => { x with left := x.left.filter fun q => q.near != p.near }
  | .error c => s.modGet g.id fun x => { x with left := x.left.filter (fun q => q.near != p.near), fails := x.fails ++ [(p.off, c)] }

/-- The request of a part of a get has left the core (R213). -/
def Iface.left (n : Iface) (g : GetOp) (p : GetPart) : Bool := !(n.egress.any fun it => it.who == .getPart g.id p.near)

/-- A landing at the get that asked for it: one of the same containment ID and channel with a part that has been asked for and awaits it (R206). -/
def State.landGet (s : State) (m : Msg) : State :=
  let n := s.here.net
  match n.gets.find? fun g => g.cid == m.cid && g.ch == m.rch && g.left.any fun p => n.left g p && p.awaits m with
  | none => s
  | some g => match g.left.find? fun p => n.left g p && p.awaits m with
    | none => s
    | some p =>
      let q := p.land m
      if q.whole then s.landPart g q
      else s.modGet g.id fun x => { x with left := mapFirst (fun y => n.left g y && y.awaits m) (fun y => y.land m) x.left }

/-- The cause of the lowest-addressed failing part of a get; zero when all were performed (R206). -/
def GetOp.status (g : GetOp) : Word :=
  match g.fails.foldl (fun (b : Option (Word × BitVec 8)) f => match b with
    | none => some f
    | some c => if f.1.toNat < c.1.toNat then some f else some c) none with
  | none => 0
  | some f => zext f.2

/-- GET_COMPLETION (R206): the oldest get whose every part has landed or been refused sends its issuer's core the completion call. -/
def execGetCompletion (s : State) : Host.Outcome State Fault Refusal :=
  .next (match takeFirst (fun g => g.left.isEmpty) s.here.net.gets with
  | none => s
  | some (g, rest) =>
    (s.modNet fun n => { n with gets := rest }).sendOwn s.at_ kCall g.ch g.cid [flit4 g.near (BitVec.ofNat 64 g.len) g.status 0])

end Sys2Proof.Machine
end

