-- ==== Sys2Proof/Machine/Placement.lean ====
section
/-! DEFINITION. Placement faults (R196 to R198, R247 to R249): the supervisor's answers, resume packets, shootdowns and host page requests. -/

namespace Sys2Proof.Machine

/-! RPT entries as doublewords (R195). -/

/-- The four doublewords of an entry as a flit. -/
def RptEntry.flit (e : RptEntry) : Strip :=
  flit4 e.base e.len (e.space ++ e.owner ++ e.kind ++ BitVec.ofBool e.mov ++ 0#1 ++ e.pgen ++ 0#24 : BitVec 64) e.loc

/-- The entry that four doublewords hold. -/
def RptEntry.ofFlit (f : Strip) : RptEntry :=
  { base := fld f 0 64, len := fld f 64 64, space := fld f (128 + 56) 8, owner := fld f (128 + 44) 12, kind := fld f (128 + 42) 2, mov := bit f (128 + 41),
    pgen := fld f (128 + 24) 16, loc := fld f 192 64 }

/-- Two entries name one region. -/
def RptEntry.same (e f : RptEntry) : Bool := e.space == f.space && e.base == f.base

/-- Homes of a region, as cores (R195). -/
def RptEntry.homes (e : RptEntry) : List CoreAddr :=
  if e.kind = 0 then [fld e.loc 18 29]
  else if e.kind = 1 then rectangle (fld e.loc 18 29) ((fld e.loc 58 6 : BitVec 6).toNat + 1) ((fld e.loc 53 5 : BitVec 5).toNat + 1)
  else []

/-- Bytes of a region that lie at its `t`-th home. -/
def RptEntry.share (e : RptEntry) (t : Nat) : Nat :=
  if e.kind = 0 then e.len.toNat
  else
    let w := e.homes.length
    let n := (e.len.toNat + 4095) / 4096
    let c := (n + w - 1 - t) / w
    if c = 0 then 0 else if (n - 1) % w = t then 4096 * (c - 1) + (e.len.toNat - 4096 * (n - 1)) else 4096 * c

/-- The near range that a region takes at each of its homes. -/
def RptEntry.spans (e : RptEntry) : List (CoreAddr × Nat × Nat) :=
  let b := (fld e.loc 0 18 : BitVec 18).toNat
  (e.homes.zipIdx.map fun h => (h.1, b, b + e.share h.2)).filter fun x => decide (x.2.1 < x.2.2)

/-- The near ranges that a region takes on one core. -/
def RptEntry.spansOn (e : RptEntry) (a : CoreAddr) : List (Nat × Nat) := (e.spans.filter fun x => x.1 == a).map (·.2)

/-- Two near ranges keep clear of each other. -/
def apart (r q : Nat × Nat) : Bool := decide (r.2 ≤ q.1) || decide (q.2 ≤ r.1)

/-- First near address past a region's part of a home (R195): its first home has the largest part. -/
def RptEntry.nearTop (e : RptEntry) : Nat := (fld e.loc 0 18 : BitVec 18).toNat + e.share 0

/-- The location bits of an entry keep R195: near homes are compute cores of one die with every near address at or below 0x3_FFFF; a pool address is a multiple of 16. -/
def RptEntry.locOk (e : RptEntry) : Bool :=
  match e.kind.toNat with
  | 0 => zeroBits e.loc 47 17 && isCompute (fld e.loc 18 29) && decide (e.nearTop ≤ 0x40000)
  | 1 =>
    let c : CoreAddr := fld e.loc 18 29
    zeroBits e.loc 47 6 && isCompute c && decide (xOf c + (fld e.loc 58 6 : BitVec 6).toNat ≤ 47) && decide (yOf c + (fld e.loc 53 5 : BitVec 5).toNat ≤ 31) &&
      decide (e.nearTop ≤ 0x40000)
  | 2 => zeroBits e.loc 46 14 && zeroBits e.loc 0 4
  | _ => false

/-- An entry that the table may hold (R195): BASE and a non-zero LEN are multiples of 16, the region ends inside its space, and its location is right. -/
def RptEntry.ok (e : RptEntry) : Bool :=
  zeroBits e.base 0 4 && zeroBits e.len 0 4 && e.len != 0 && decide (e.base.toNat + e.len.toNat ≤ 2 ^ 64) && e.locOk

/-- Two regions of one space overlap. -/
def RptEntry.meets (e f : RptEntry) : Bool :=
  e.space == f.space && decide (e.base.toNat < f.base.toNat + f.len.toNat) && decide (f.base.toNat < e.base.toNat + e.len.toNat)

/-- The supervisor places a region (R195): it enforces the table's rules, and a region that breaks them is not placed. -/
def Package.placeRegion (k : Package) (e : RptEntry) : Package :=
  if e.ok && !(k.rpt.any e.meets) && decide (k.rpt.length < 2 ^ 20) then { k with rpt := k.rpt ++ [e] } else k

/-! Key slots (R299, R318), and a placed region made its owner's (R43). -/

/-- Partition of a tenant (R327, R332). -/
def Package.partOfTen (k : Package) (ten : BitVec 12) : Nat := match k.vfOf ten with
  | some (_, f) => (fld (f.rec16[0]) 32 5 : BitVec 5).toNat
  | none => 0

/-- The key of a tenant in a key slot of a core (R318). -/
def State.deriveKey (s : State) (ten : BitVec 12) (n : BitVec 4) : KeyId :=
  { ptn := BitVec.ofNat 4 (s.home.partOf s.at_), epoch := (s.partition s.at_).epoch, ten := ten, slot := n }

/-- The key slot of a tenant on a core (R318); tenant 0 has slot 0 (R33). -/
def Core.slotOf (c : Core) (ten : BitVec 12) : Option (BitVec 4) :=
  if ten = 0 then some 0
  else ((List.range 16).find? fun i => match c.regs.keys.toList.getD i none with
    | some k => k.ten == ten
    | none => false).map fun i => BitVec.ofNat 4 i

/-- The owner's key in its slot at a core, bound there if it is not. -/
def State.bindKey (s : State) (slot : BitVec 4) (ten : BitVec 12) : State :=
  if slot = 0 then s else { s with here := { s.here with regs := { s.here.regs with keys := s.here.regs.keys.set slot.toNat (some (s.deriveKey ten slot)) } } }

/-- The key slot of a tenant (R299): the one that its partition's supervisor gave it, or one that no other tenant of the partition has; none when 15 have one. -/
def Package.keySlotFor (k : Package) (ten : BitVec 12) : Option (BitVec 4) :=
  match k.keySlots.find? fun x => x.1 == ten with
  | some x => some x.2
  | none =>
    let used := (k.keySlots.filter fun x => k.partOfTen x.1 == k.partOfTen ten).map (·.2)
    let free := ((List.range 15).map fun n => BitVec.ofNat 4 (n + 1)).filter fun n => !used.contains n
    free[Config.keySlot ten % free.length]?

/-- A tenant has a key slot (R299). -/
def Package.giveSlot (k : Package) (ten : BitVec 12) (n : BitVec 4) : Package :=
  if k.keySlots.any fun x => x.1 == ten then k else { k with keySlots := k.keySlots ++ [(ten, n)] }

/-- Bytes [a, a + n) of a core's local memory zero under a key. -/
def State.zeroUnder (s : State) (key : KeyId) (r : Nat × Nat) : State := s.homeWrite key r.1 (List.replicate (r.2 - r.1) 0)

/-- A region that the supervisor places is initialised under its owner's key at each of its near homes (R43, R195): the owner's key is bound to its slot there. A tenant that has no key
slot, and is none of the device's own, has nothing there yet. -/
def State.initRegion (s : State) (e : RptEntry) : State :=
  match if e.owner = 0 then some 0 else s.home.keySlotFor e.owner with
  | none => s
  | some slot => e.spans.foldl (fun t x => t.at x.1 fun u => let v := u.bindKey slot e.owner; v.zeroUnder (v.here.key slot) x.2)
      (if e.owner = 0 then s else s.modHome fun k => k.giveSlot e.owner slot)

/-- The supervisor places and initialises a region, if the table may hold it (R43, R195). -/
def State.placeRegion (s : State) (e : RptEntry) : State :=
  let t := s.modHome fun k => k.placeRegion e
  if t.home.rpt.length = s.home.rpt.length then t else t.initRegion e

/-! Fault records (R247). -/

/-- A fault record as its flit holds it. -/
structure FaultRec where
  kind : Nat
  tag : BitVec 4
  cid : BitVec 16
  space : BitVec 8
  off : Word
  req : CoreAddr
  len : Nat
  deriving DecidableEq, Repr

/-- The fault record in a message's first flit. -/
def Msg.fault (m : Msg) : FaultRec :=
  { kind := (fld (m.dw 0) 0 8 : BitVec 8).toNat, tag := fld (m.dw 0) 8 4, cid := fld (m.dw 0) 16 16, space := fld (m.dw 0) 32 8, off := m.dw 1,
    req := fld (m.dw 2) 0 29, len := (fld (m.dw 3) 0 16 : BitVec 16).toNat }

/-- Tenant of a fault record. -/
def FaultRec.ten (r : FaultRec) : BitVec 12 := fld r.cid 4 12

/-- A resume packet (R248): OUT, TAG and CID in the first flit, the entry in the second. -/
def State.resumePacket (s : State) (d : CoreAddr) (out : Nat) (tag : BitVec 4) (cid : BitVec 16) (entry : Strip) : State :=
  s.sendOwn d kSystem 11 cid [flit4 (BitVec.ofNat 64 out ||| (zext tag <<< 8) ||| (zext cid <<< 16)) 0 0 0, entry]

/-- A core holds a request or a check of a tenant for a byte of a region under a fault tag. -/
def Core.waitsFor (c : Core) (ten : BitVec 12) (e : RptEntry) : Bool :=
  (c.net.egress.any fun x => x.tag.isSome && cidTen x.cid == ten && (match x.send with
    | .glob r => r.space == e.space && e.holds r.off.toNat
    | _ => false)) ||
  c.acts.toList.any fun a => a.trig.ten == ten && (match a.part with
    | .chk _ sp o _ refused => !refused && sp == e.space && e.holds o.toNat
    | _ => false)

/-- The cores that one install of a region answers: the one that asked, and every other of its die that holds requests of the tenant for the region (R197, R248). -/
def State.installTargets (s : State) (r : FaultRec) (e : RptEntry) : List CoreAddr :=
  let die := fun (a : CoreAddr) => a != r.req && pkgOf a == pkgOf r.req && dieOf a == dieOf r.req && (s.core a).waitsFor r.ten e
  r.req :: ((s.at_ :: s.away.map fun c => BitVec.ofNat 29 c.1).filter die)

/-- The supervisor's answer to a fault (R197, R248): an install when the tenant owns the region and MOV is clear, multicast to every core of the die that waits for the region;
nothing yet while MOV is set (`none`); a refusal otherwise. A record that a core sent before the install reached it is answered again (log entry 28). The tenant-0 copy of a slide, which
passes any owner and is not held by MOV (R320), is installed the region that it asks for (DEDUCED, log entry 42). -/
def State.answerFault (s : State) (r : FaultRec) : Option State :=
  match s.home.regionAt r.space r.off with
  | some e =>
    let copy := r.ten == 0 && isCopyEngine r.req
    if (e.owner ≠ r.ten ∧ !copy) ∨ !e.ok then some (s.resumePacket r.req 1 r.tag r.cid 0)
    else if e.mov ∧ !copy then none
    else some ((s.installTargets r e).foldl (fun t d => t.resumePacket d 0 0 r.cid e.flit) s)
  | none => some (s.resumePacket r.req 1 r.tag r.cid 0)

/-- HA bit of a tenant's VF record (R332). -/
def Package.assisted (k : Package) (ten : BitVec 12) (b : Nat) : Bool :=
  match k.vfOf ten with
  | some (_, f) => bit (f.rec16[0]) b
  | none => false

/-- The lowest free index of the host link agent's 256-entry table; 256 when all are in use (R249). -/
def Package.prgIndex (k : Package) : Nat :=
  ((List.range 256).find? fun i => !(k.prg.any fun p => p.index == i)).getD 256

/-- The Page Request Message of a table entry (R249): for the tenant's function, Last = 1, the entry's index, OFFSET with bits [11:0] cleared, and the space byte. -/
def Package.pageReq (k : Package) (p : PrgEntry) : PageReq :=
  { vf := ((k.vfOf (cidTen p.cid)).map (·.1)).getD 0, last := true, index := p.index, addr := p.off &&& ~~~(0xFFF#64), space := p.space }

/-- A table entry is taken: its request goes to the host, unless it still waits for an index (256). -/
def Package.askHost (k : Package) (p : PrgEntry) : Package :=
  { k with prg := k.prg ++ [p], pageReqs := if p.index < 256 then k.pageReqs ++ [k.pageReq p] else k.pageReqs }

/-- A fault handed to the host link agent (R249): it takes a free table entry and asks the host, or waits for one (index 256). -/
def State.pageRequest (s : State) (r : FaultRec) : State :=
  s.modHome fun k => k.askHost { index := k.prgIndex, cid := r.cid, space := r.space, off := r.off, len := r.len, tag := r.tag, req := r.req }

/-- A shootdown of a region at some cores is under way: their acknowledgements are to come (R198). -/
def Package.shoot (k : Package) (e : RptEntry) (l : List CoreAddr) : Package :=
  let mine := fun (x : BitVec 8 × Word × List CoreAddr) => x.1 == e.space && x.2.1 == e.base
  { k with shots := (k.shots.filter fun x => !mine x) ++ [(e.space, e.base, ((k.shots.find? mine).map (·.2.2)).getD [] ++ l)] }

/-- A shootdown acknowledgement (R198, R248): one of the region's is in. -/
def State.shotAck (s : State) (r : FaultRec) : State :=
  s.modHome fun k => { k with shots := (k.shots.map fun x =>
    if x.1 == r.space && x.2.1 == r.off then (x.1, x.2.1, dropFirst (· == r.req) x.2.2) else x).filter fun x => !x.2.2.isEmpty }

/-- What a supervisor does with a record on channel 10 (R197, R247, R249, R257). -/
def State.superviseFault (s : State) (m : Msg) : State :=
  let r := m.fault
  if r.kind = 1 ∨ r.kind = 2 then
    if s.home.assisted r.ten 38 then s.pageRequest r
    else (s.answerFault r).getD (s.keepReport m)
  else if r.kind = 5 then s.shotAck r
  else s.keepReport m

/-- The region that an event's operand bytes name: an entry of the placement table as R195 lays it out. -/
def EvArg.region (e : EvArg) : RptEntry := RptEntry.ofFlit ((flitsOf e.bytes).getD 0 0)

/-- PLACEMENT_FAULT_RECORD (R197): a fault record from core `src` reaches its supervisor. Which regions it places for a tenant beforehand is its own affair, which no rule starts:
with `flag` it first places the region that the operand bytes hold, as R195 lets it (DESIGN CHOICE, log entry 61). -/
def execPlacementFaultRecord (s : State) : Host.Outcome State Fault Refusal :=
  .next (s.takes .placementFaultRecord (fun _ => true) fun m t =>
    ((if t.ev.flag then t.placeRegion t.ev.region else t).settle m).superviseFault m)

/-- A table entry freed (R249): the oldest record that waits for one takes its index and is asked for. -/
def Package.freePrg (k : Package) (p : PrgEntry) : Package :=
  let rest := k.prg.filter (· != p)
  match takeFirst (fun x : PrgEntry => x.index == 256) rest with
  | none => { k with prg := rest }
  | some (w, others) => { k with prg := others }.askHost { w with index := p.index }

/-- A fault record as a message that the supervisor keeps. -/
def FaultRec.msg (r : FaultRec) : Msg :=
  { hdr := mkHdr 0 r.req 10 r.cid 0 1 kSystem 0 false false false false false false, aword := 0,
    pay := [faultFlit r.kind r.tag.toNat r.cid r.space r.off r.req r.len], pool := 0, sys := true }

/-- PRG_RESPONSE (R249): the host answers page request `idx` with success (`n` = 0) or a failure. The table entry is freed and the oldest waiting record takes it;
a response whose index is not in use is discarded and counted. The requester's supervisor rereads the placement table and answers, while MOV is set as soon as it is clear. -/
def execPrgResponse (s : State) : Host.Outcome State Fault Refusal :=
  .next (match s.home.prg.find? fun p => p.index == s.ev.idx && decide (p.index < 256) with
  | none => s.modHome fun k => { k with prgDropped := k.prgDropped + 1 }
  | some p =>
    let r : FaultRec := { kind := 1, tag := p.tag, cid := p.cid, space := p.space, off := p.off, req := p.req, len := p.len }
    let t := s.modHome fun k => k.freePrg p
    t.at (t.standIn (supervisorOf p.req)) fun u =>
      if s.ev.n = 0 then (u.answerFault r).getD (u.keepReport r.msg)
      else u.resumePacket p.req 1 p.tag p.cid 0)

/-! Resume packets at the core that asked (R248). -/

/-- A PLB with an entry installed: 64 entries (R196), and where it is full one of the spec's choosing gives way. -/
def plbInstall (plb : List RptEntry) (e : RptEntry) (victim : Nat) : List RptEntry :=
  let l := plb.filter fun x => !x.same e
  if l.length < 64 then l ++ [e] else l.eraseIdx (victim % l.length) ++ [e]

/-- The PLB of a tenant of this core, changed (R248): live, or saved. -/
def State.modPlb (s : State) (ten : BitVec 12) (f : List RptEntry → List RptEntry) : State :=
  if isEngine s.at_ || ten == 0 || ten == s.here.regs.lessee then { s with here := { s.here with live := { s.here.live with plb := f s.here.live.plb } } }
  else { s with here := { s.here with saved := s.here.saved.map fun v => if v.ten == ten then { v with lessee := { v.lessee with plb := f v.lessee.plb } } else v } }

/-- The number of requests and checks that a tag holds. -/
def Core.tagHolds (c : Core) (i : Fin 16) : Nat :=
  (c.net.egress.filter fun x => x.tag == some i).length +
    (c.acts.toList.filter fun a => match a.part with
      | .chk j _ _ _ r => j == i && !r
      | _ => false).length

/-- The oldest request or check that a tag holds: space, offset, length and containment ID. -/
def Core.tagOldest (c : Core) (i : Fin 16) : Option (BitVec 8 × Word × Nat × BitVec 16) :=
  match c.net.egress.find? fun x => x.tag == some i with
  | some x => match x.send with
    | .glob r => some (r.space, r.off, r.len, x.cid)
    | _ => none
  | none => c.acts.toList.findSome? fun a => match a.part with
    | .chk j sp o n refused => if j = i ∧ !refused then some (sp, o, n, a.trig.cid) else none
    | _ => none

/-- One tag after an install or a refusal (R248): freed when it holds nothing, else a new fault record for the oldest request it still holds, if it lost
any. -/
def State.tagAfter (before : Core) (s : State) (i : Fin 16) : State :=
  if s.here.net.tags[i].isNone then s
  else match s.here.tagOldest i with
    | none => s.modNet fun n => { n with tags := n.tags.set i none }
    | some (sp, o, n, cid) =>
      if s.here.tagHolds i < before.tagHolds i then
        let mov := (plbFind (s.here.plbOf (isEngine s.at_) (fld cid 4 12)) (fld cid 4 12) sp o.toNat).isSome
        (s.modNet fun x => { x with tags := x.tags.set i (some { ten := fld cid 4 12, cid := cid, space := sp, off := o, len := n }) }).faultRecord
          (if mov then 2 else 1) i.val cid sp o n
      else s

/-- Every tag after an install or a refusal. -/
def State.tagsAfter (s : State) (before : Core) : State := (List.finRange 16).foldl (State.tagAfter before) s

/-- The slots' held checks, changed. -/
def State.modChecks (s : State) (f : Part → Part) : State := { s with here := { s.here with acts := s.here.acts.map fun a => { a with part := f a.part } } }

/-- Whether [a, a + n) overlaps [b, b + m). -/
def overlaps (a n b m : Nat) : Bool := decide (a < b + m) && decide (b < a + n)

/-- An install (R248): the entry, which is never one of KIND 3 (R195), enters the tenant's PLB, and every held request of the tenant that now finds it leaves, in issue order (R197). -/
def State.install (s : State) (cid : BitVec 16) (e : RptEntry) : State :=
  if e.kind = 3 then s else
  let ten : BitVec 12 := fld cid 4 12
  let t := { (s.modPlb ten fun p => plbInstall p e (Config.choice s.free)) with free := s.free + 1 }
  let t := t.modChecks fun p => match p with
    | .chk _ sp o n _ => if sp == e.space && e.holds o.toNat && decide (o.toNat + n ≤ e.base.toNat + e.len.toNat) then .none else p
    | _ => p
  t.flush.tagsAfter s.here

/-- A refusal (R248): the requests held under a tag that overlap the range of its last fault record are refused with PLACEMENT. -/
def State.refuseTag (s : State) (i : Fin 16) : State :=
  match s.here.net.tags[i] with
  | none => s
  | some g =>
    let hit := fun (x : OutItem) => x.tag == some i && (match x.send with
      | .glob r => overlaps r.off.toNat r.len g.off.toNat g.len
      | _ => false)
    let bad := s.here.net.egress.filterMap fun x => if hit x then (match x.send with
      | .glob r => some (x, r)
      | _ => none) else none
    let t := (s.modNet fun n => { n with egress := n.egress.filter fun x => !hit x }).modChecks fun p => match p with
      | .chk j sp o n r => if j = i && overlaps o.toNat n g.off.toNat g.len then .chk j sp o n true else .chk j sp o n r
      | _ => p
    (t.refuseAll bad).flush.tagsAfter s.here

/-- The arrival of a resume packet (R248): the interface takes it. -/
def State.resume (s : State) (i : Instr) (f : Msg → State → State) : Host.Outcome State Fault Refusal :=
  .next (s.takes i (fun _ => true) fun m t => f m (t.settle m))

/-- RESUME_INSTALL (R248). -/
def execResumeInstall (s : State) : Host.Outcome State Fault Refusal :=
  s.resume .resumeInstall fun m t => t.install (fld (m.dw 0) 16 16) (RptEntry.ofFlit (m.flit 1))

/-- RESUME_REFUSE (R248). -/
def execResumeRefuse (s : State) : Host.Outcome State Fault Refusal :=
  s.resume .resumeRefuse fun m t => t.refuseTag (fld (m.dw 0) 8 4).toFin

/-! Shootdowns (R198, R248). -/

/-- Whether some PLB of the core holds a region. -/
def Core.holdsRegion (c : Core) (e : RptEntry) : Bool := c.live.plb.any (·.same e) || c.saved.any fun v => v.lessee.plb.any (·.same e)

/-- The core without a region in any PLB, live or saved. -/
def Core.forgets (c : Core) (e : RptEntry) : Core :=
  { c with
    live := { c.live with plb := c.live.plb.filter fun x => !x.same e }
    saved := c.saved.map fun v => { v with lessee := { v.lessee with plb := v.lessee.plb.filter fun x => !x.same e } } }

/-- The acknowledgement of a shootdown: a fault record of KIND 5 to the supervisor that sent it. -/
def State.ackShoot (s : State) (e : RptEntry) (d : CoreAddr) : State :=
  s.sendOwn d kSystem 10 0 [faultFlit 5 0 0 e.space e.base s.at_ 0]

/-- PLB_SHOOTDOWN (R248): every entry of the region goes; a region that no PLB of the core holds is acknowledged at once. -/
def execPlbShootdown (s : State) : Host.Outcome State Fault Refusal :=
  s.resume .plbShootdown fun m t =>
    let e := RptEntry.ofFlit (m.flit 1)
    if t.here.holdsRegion e then ({ t with here := t.here.forgets e }).modNet fun n => { n with shoot := n.shoot ++ [(e, m.src)] }
    else t.ackShoot e m.src

/-- Whether every request sent under a removed entry is settled (R198), and none that has been looked up still waits to leave. -/
def Iface.quiet (n : Iface) (e : RptEntry) : Bool :=
  !(n.sent.any fun r => !r.done && r.glob && r.space == e.space && e.holds r.off.toNat) && !(n.egress.any fun r => r.glob && r.space == e.space && e.holds r.off.toNat)

/-- SHOOTDOWN_ACK (R198): the oldest removed entry under which nothing sent is unsettled is acknowledged. -/
def execShootdownAck (s : State) : Host.Outcome State Fault Refusal :=
  .next (match takeFirst (fun e => s.here.net.quiet e.1) s.here.net.shoot with
  | none => s
  | some (e, rest) => (s.modNet fun n => { n with shoot := rest }).ackShoot e.1 e.2)

end Sys2Proof.Machine
end

