-- ==== Sys2Proof/Machine/Gva.lean ====
section
/-! DEFINITION. What an engine's image does with a range of global addresses as one step (R231, R322, R323): the owner check, then every part at its home under
the tenant's windows. -/

namespace Sys2Proof.Machine

/-- The access of an engine to a range by GVA: performed, refused with cause and value, or held by MOV (R321). -/
inductive Access (α : Type) where
  | ok (a : α)
  | refused (cause : Cause) (value : Word)
  | held

/-- The entry of a range that a tenant may reach as a whole: it owns the region, and the range ends inside it (R196, R322). -/
def Package.rangeOf (k : Package) (ten : BitVec 12) (space : BitVec 8) (off : Word) (n : Nat) : Access RptEntry :=
  match k.regionAt space off with
  | none => .refused cPlacement off
  | some e =>
    if e.owner ≠ ten ∨ e.base.toNat + e.len.toNat < off.toNat + n then .refused cPlacement off
    else if e.mov ∧ ten ≠ 0 then .held
    else .ok e

/-- One part of a range of global addresses: its home, its near or pool address there, its GVA offset, its place in the range and its length. -/
structure Piece where
  home : CoreAddr
  near : Nat
  pool : Nat
  gva : Word
  at_ : Nat
  len : Nat
  deriving DecidableEq, Repr

/-- The parts of a range. -/
def partsAt (e : RptEntry) (pkg : Nat) (off : Word) (n : Nat) : List Piece :=
  (e.split off.toNat (n + 1) 0 n).map fun p =>
    let h := e.homeOf pkg (off.toNat + p.1)
    { home := h.1, near := h.2.1, pool := h.2.2, gva := off + BitVec.ofNat 64 p.1, at_ := p.1, len := p.2 }

/-- The refusal of a part at a pool agent (R205, R330): a port without the IDE key that its partition asks for, or poisoned data in a line that the access reads, by its GVA offset (log
entry 60). -/
def State.pieceBad (s : State) (p : Piece) (store : Bool) : Option (Cause × Word) :=
  if (s.pkg (pkgOf p.home)).ideFails (pkgOf p.home) (poolPort p.home) then some (cEccu, p.gva)
  else ((s.pkg (pkgOf p.home)).poolPoison (poolPort p.home) store p.pool p.len).map fun l => (cEccu, p.gva + BitVec.ofNat 64 (64 * l - p.pool))

/-- One part read at its home: the checks of R203 and R205, then its bytes. -/
def State.partRead (s : State) (ten : BitVec 12) (p : Piece) : Except (Cause × Word) (List Byte) :=
  if isPoolAgent p.home then
    match s.pieceBad p false with
    | some e => .error e
    | none => .ok (memRead ((s.pkg (pkgOf p.home)).poolMem (poolPort p.home)) p.pool p.len)
  else
    let t := s.focus p.home
    match t.homeCheck ten .read false p.near p.len with
    | .error e => .error e
    | .ok key => .ok (t.homeRead key p.near p.len)

/-- One part written at its home. -/
def State.partWrite (s : State) (ten : BitVec 12) (bs : List Byte) (p : Piece) : Except (Cause × Word) State :=
  let data := (bs.drop p.at_).take p.len
  if isPoolAgent p.home then
    match s.pieceBad p true with
    | some e => .error e
    | none => .ok (s.setPkg (pkgOf p.home) ((s.pkg (pkgOf p.home)).poolWrite (poolPort p.home) p.pool data))
  else
    let t := s.focus p.home
    match t.homeCheck ten .write true p.near p.len with
    | .error e => .error e
    | .ok key => .ok (((t.homeWrite key p.near data).watch false true ten [(p.near, data.length)]).focus s.at_)

/-- A VF's first space (R332). -/
def Func.gsa (f : Func) : BitVec 8 := fld (f.rec16[0]) 16 8

/-- First space of a tenant. -/
def Package.gsaOf (k : Package) (ten : BitVec 12) : BitVec 8 :=
  match k.vfOf ten with
  | some (_, f) => f.gsa
  | none => 0

/-- The first parts in order until one is refused. -/
def State.readParts (s : State) (ten : BitVec 12) : List Piece → Access (List Byte)
  | [] => .ok []
  | p :: rest => match s.partRead ten p with
    | .error (c, v) => .refused c v
    | .ok bs => match s.readParts ten rest with
      | .ok cs => .ok (bs ++ cs)
      | e => e

/-- The parts written in order until one is refused: the machine after those that were written, how many bytes they hold, and the refusal. -/
def State.writeParts (s : State) (ten : BitVec 12) (bs : List Byte) : List Piece → State × Nat × Option (Cause × Word)
  | [] => (s, 0, none)
  | p :: rest => match s.partWrite ten bs p with
    | .error e => (s, 0, some e)
    | .ok t => let r := t.writeParts ten bs rest; (r.1, p.len + r.2.1, r.2.2)

/-- The watchpoints at the homes of parts that have been read, up to the first one refused (R344). -/
def State.seeParts (s : State) (ten : BitVec 12) : List Piece → State
  | [] => s
  | p :: rest => match s.partRead ten p with
    | .error _ => s
    | .ok _ => (if isPoolAgent p.home then s else ((s.focus p.home).watch true false ten [(p.near, p.len)]).focus s.at_).seeParts ten rest

/-- The watchpoints that the read of a tenant's range in a package hits (R344). -/
def State.seeRead (s : State) (pkg : Nat) (ten : BitVec 12) (space : BitVec 8) (off : Word) (n : Nat) : State :=
  match (s.pkg pkg).rangeOf ten space off n with
  | .ok e => s.seeParts ten (partsAt e pkg off n)
  | _ => s

/-- Bytes of a tenant's range in a package. -/
def State.gvaRead (s : State) (pkg : Nat) (ten : BitVec 12) (space : BitVec 8) (off : Word) (n : Nat) : Access (List Byte) :=
  match (s.pkg pkg).rangeOf ten space off n with
  | .ok e => s.readParts ten (partsAt e pkg off n)
  | .refused c v => .refused c v
  | .held => .held

/-- Bytes written to a tenant's range in a package: the machine after the parts that were performed, their bytes, and the refusal of the first that was not. -/
def State.gvaWrite (s : State) (pkg : Nat) (ten : BitVec 12) (space : BitVec 8) (off : Word) (bs : List Byte) : Access (State × Nat × Option (Cause × Word)) :=
  match (s.pkg pkg).rangeOf ten space off bs.length with
  | .ok e => .ok (s.writeParts ten bs (partsAt e pkg off bs.length))
  | .refused c v => .refused c v
  | .held => .held

end Sys2Proof.Machine
end

