-- ==== Sys2Proof/Machine/Flags.lean ====
section
/-! DEFINITION. Sticky flags of a slot (R67, R68): flags are only ever added, and only a write of `fflg` clears one. -/

namespace Sys2Proof.Machine

/-- The sticky flags of the acting slot with more of them set (R67). -/
def State.addFlags (s : State) (f : BitVec 6) : State := s.modCsr fun c => { c with fflg := c.fflg ||| f }

/-- The flags of several lanes set together (R67). -/
def orFlags (l : List (BitVec 6)) : BitVec 6 := l.foldl (· ||| ·) 0

/-- The flag of reading dead operand registers (R29). -/
def deadFlag (dead : Bool) : BitVec 6 := flagIf dead fDR

/-- The four flags that a matrix command raises, NV, OF, UF, NX from bit 3 down (R124, R128). -/
def matrixFlags (f : BitVec 6) : BitVec 4 := fld f 2 4

end Sys2Proof.Machine
end

