-- ==== Sys2Proof/Machine/Operands.lean ====
section
/-! DEFINITION. Operand forms: o registers with their last-use marks (R29), masks (R27, R100), lanes (R15), and the immediates of the formats. -/

namespace Sys2Proof.Machine

/-- Whether an o register is dead (R29). -/
def State.oDead (s : State) (n : BitVec 3) : Bool := !(bit s.act.csr.olive n.toNat)

/-- The value an o register reads as: a dead one reads as zero (R29). -/
def State.o (s : State) (n : BitVec 3) : Strip := if s.oDead n then 0 else s.act.regs.o[n.toNat]

/-- An o register written: it becomes live (R29). -/
def State.setO (s : State) (n : BitVec 3) (v : Strip) : State :=
  s.modAct fun a => { a with
    regs := { a.regs with o := a.regs.o.set n.toNat v }
    csr := { a.csr with olive := a.csr.olive ||| (1#8 <<< n.toNat) } }

/-- The o sources of an instruction read, with their last-use bits: DR if one was dead, and the marked ones die (R29). -/
def State.useO (s : State) (src : List (BitVec 3 × BitVec 1)) : State :=
  s.modCsr fun c => { c with
    fflg := c.fflg ||| deadFlag (src.any fun r => s.oDead r.1)
    olive := src.foldl (fun (v : BitVec 8) r => if r.2 = (1 : BitVec 1) then v &&& ~~~(1#8 <<< r.1.toNat) else v) c.olive }

/-- A v register. -/
def State.v (s : State) (n : BitVec 5) : Strip := s.act.regs.v[n.toNat]

/-- A v register written. -/
def State.setV (s : State) (n : BitVec 5) (x : Strip) : State := s.modRegs fun r => { r with v := r.v.set n.toNat x }

/-- A mask register: k0 reads as all ones (R27). -/
def State.k (s : State) (n : BitVec 2) : BitVec 32 := if n = 0 then BitVec.allOnes 32 else s.act.regs.k[n.toNat]

/-- A mask register written: k0 ignores it. -/
def State.setK (s : State) (n : BitVec 2) (x : BitVec 32) : State :=
  if n = 0 then s else s.modRegs fun r => { r with k := r.k.set n.toNat x }

/-- A tensor-map register. -/
def State.tm (s : State) (n : BitVec 3) : TMap := s.act.regs.tm[n.toNat]

/-- A tensor-map register written. -/
def State.setTm (s : State) (n : BitVec 3) (x : TMap) : State := s.modRegs fun r => { r with tm := r.tm.set n.toNat x }

/-- Lane `i` of a register at a lane width, as a number (R15). -/
def lane (w : Nat) (x : Strip) (i : Nat) : Nat := x.toNat / 2 ^ (w * i) % 2 ^ w

/-- Lane `i` as a signed number. -/
def slane (w : Nat) (x : Strip) (i : Nat) : Int :=
  let n := lane w x i
  if n < 2 ^ (w - 1) then n else (n : Int) - 2 ^ w

/-- The register whose lanes are a list, lane 0 first. -/
def ofLanes (w : Nat) : List Nat → Nat
  | [] => 0
  | x :: xs => x % 2 ^ w + 2 ^ w * ofLanes w xs

/-- A lane value by type: signed for codes 4 to 7 (R109). -/
def laneVal (t : TypeCode) (x : Strip) (i : Nat) : Int :=
  if isSigned t then slane (laneWidth t) x i else (lane (laneWidth t) x i : Int)

/-- An integer wrapped to a lane (R109). -/
def wrapLane (w : Nat) (n : Int) : Nat := (n % 2 ^ w).toNat

/-- Whether a mask governs lane `i` as active (R100). -/
def active (k : BitVec 32) (i : Nat) : Bool := bit k i

/-- The register that an element-wise instruction writes, with its flags: active lanes get their results, inactive ones keep the old lane (R100). -/
def vecResult (w n : Nat) (k : BitVec 32) (old : Strip) (f : Nat → Nat × BitVec 6) : Strip × BitVec 6 :=
  let rs := (List.range n).map fun i => if active k i then f i else (lane w old i, 0)
  (BitVec.ofNat 256 (ofLanes w (rs.map (·.1))), orFlags (rs.map (·.2)))

/-- An element-wise instruction (R100): sources read and marked ones dead, the result written, flags of active lanes added. -/
def State.vec (s : State) (d : BitVec 3) (w n : Nat) (k : BitVec 2) (src : List (BitVec 3 × BitVec 1)) (f : Nat → Nat × BitVec 6) : State :=
  let r := vecResult w n (s.k k) (s.o d) f
  ((s.useO src).addFlags r.2).setO d r.1

/-- The mask that a compare writes, with its flags: 0 for inactive lanes and above the lane count (R107). -/
def maskResult (n : Nat) (k : BitVec 32) (f : Nat → Bool × BitVec 6) : BitVec 32 × BitVec 6 :=
  let rs := (List.range n).map fun i => if active k i then f i else (false, 0)
  (BitVec.ofNat 32 (ofLanes 1 (rs.map fun r => if r.1 then 1 else 0)), orFlags (rs.map (·.2)))

/-- A compare (R107, R110): it writes mask `e`. -/
def State.cmp (s : State) (e : BitVec 2) (n : Nat) (k : BitVec 2) (src : List (BitVec 3 × BitVec 1)) (f : Nat → Bool × BitVec 6) : State :=
  let r := maskResult n (s.k k) f
  ((s.useO src).addFlags r.2).setK e r.1

/-- The dynamic or static lane number check of R104 is made at decode; a lane of an o register as zero-extended or sign-extended word (R104). -/
def extLane (t : TypeCode) (x : Strip) (i : Nat) : Word :=
  if isSigned t then BitVec.ofInt 64 (slane (laneWidth t) x i) else BitVec.ofNat 64 (lane (laneWidth t) x i)

end Sys2Proof.Machine
end

