-- ==== Sys2Proof/Machine/Links.lean ====
section
/-! DEFINITION. Neighbour links (R185 to R189), MO 0x18, and the passage of their words and credits. -/

namespace Sys2Proof.Machine

/-- The core at the other end of a port: none for an engine core, whose ports are never live (R221). -/
def State.linkPeer (s : State) (p : Fin 4) : Option CoreAddr := if isCompute s.at_ then neighbour s.at_ p.val else none

/-- R185: the port's link is live. -/
def State.linkLive (s : State) (p : Fin 4) : Bool :=
  match s.linkPeer p with
  | none => false
  | some n =>
    let c := s.core n
    c.present && (s.home.partOf s.at_ == s.home.partOf n) && (c.regs.lessee == s.here.regs.lessee) && !c.changing && !s.here.changing

/-- LINKSTATE on a port (R188): its code is 8 to 11. -/
def linkTrap (p : Fin 4) : Trap := .plain cLinkState (BitVec.ofNat 64 (8 + p.val))

/-- The port opposite to another. -/
def oppositePort (p : Fin 4) : Fin 4 := Fin.ofNat 4 (opposite p.val)

/-- A link port replaced. -/
def State.setLink (s : State) (p : Fin 4) (l : Link) : State := { s with here := { s.here with links := s.here.links.set p l } }

/-- The oldest word of a port taken, its credit owed to the neighbour (R186). -/
def State.linkTake (s : State) (p : Fin 4) (w : LinkWord) (rest : List LinkWord) : State :=
  let l := s.here.links[p]
  s.setLink p { l with fifo := rest, owed := l.owed ++ [w.lease] }

/-- A word written to a port (R186). -/
def State.linkPut (s : State) (p : Fin 4) (v : Strip) : State :=
  let l := s.here.links[p]
  s.setLink p { l with out := l.out ++ [{ val := v, lease := s.here.leaseNo }], o := l.o + 1 }

/-- A window that admits a write: O < W. -/
def Link.open_ (l : Link) : Bool := decide (l.o < l.win.toNat)

/-- A pop (R105, R188) with what is done with the word. -/
def linkPop (p : Fin 4) (f : State → Strip → State) (s : State) : Effect :=
  match s.here.links[p].fifo with
  | w :: rest => .ok (f (s.linkTake p w rest) w.val)
  | [] => if s.linkLive p then .stall true else .trap (linkTrap p)

/-- A forwarded read (R188). -/
def linkForward (p : Fin 4) (f : State → Strip → State) (s : State) : Effect :=
  let q := oppositePort p
  if !s.linkLive q then .trap (linkTrap q)
  else
    match s.here.links[p].fifo with
    | [] => if s.linkLive p then .stall true else .trap (linkTrap p)
    | w :: rest =>
      if s.here.links[q].open_ then .ok (f ((s.linkTake p w rest).linkPut q w.val) w.val) else .stall true

/-- A write of o register `o` to a port (R186, R188). -/
def linkWrite (p : Fin 4) (o : BitVec 3) (l : BitVec 1) (s : State) : Effect :=
  if !s.linkLive p then .trap (linkTrap p)
  else if s.here.links[p].open_ then .ok ((s.linkPut p (s.o o)).useO [(o, l)])
  else .stall true

/-- `lwin` (R187). -/
def execLwin (p : BitVec 2) (n : BitVec 4) (s : State) : Host.Outcome State Fault Refusal :=
  finish 4 s (.ok (s.setLink p.toFin { s.here.links[p.toFin] with win := n }))

/-- The port status of R187. -/
def State.linkStatus (s : State) (p : Fin 4) : Word :=
  let l := s.here.links[p]
  BitVec.ofNat 64 ((if s.linkLive p then 4096 else 0) + 256 * l.win.toNat + 16 * l.o + l.fifo.length)

/-- `lstat` (R187). -/
def execLstat (p : BitVec 2) (d : BitVec 5) (s : State) : Host.Outcome State Fault Refusal := finish 4 s (.ok (s.setG d (s.linkStatus p.toFin)))

/-- LINK_WORD_DELIVERY (R186): the oldest word written to port `idx` enters the neighbour's receive FIFO while that has space for it. -/
def execLinkWordDelivery (s : State) : Host.Outcome State Fault Refusal :=
  let p := Fin.ofNat 4 s.ev.idx
  let l := s.here.links[p]
  .next (match s.linkPeer p, l.out with
  | some n, w :: rest =>
    let c := s.core n
    let q := oppositePort p
    let m := c.links[q]
    if m.fifo.length < 4 then
      (s.setLink p { l with out := rest }).setCore n { c with links := c.links.set q { m with fifo := m.fifo ++ [w] } }
    else s
  | _, _ => s)

/-- LINK_CREDIT_RETURN (R186): the oldest pop of port `idx` lowers the neighbour's O, unless the neighbour's lease has changed since it wrote the word. -/
def execLinkCreditReturn (s : State) : Host.Outcome State Fault Refusal :=
  let p := Fin.ofNat 4 s.ev.idx
  let l := s.here.links[p]
  .next (match s.linkPeer p, l.owed with
  | some n, k :: rest =>
    let c := s.core n
    let q := oppositePort p
    let m := c.links[q]
    (s.setLink p { l with owed := rest }).setCore n
      (if c.leaseNo = k then { c with links := c.links.set q { m with o := m.o - 1 } } else c)
  | _, _ => s)

end Sys2Proof.Machine
end

