-- ==== Sys2Proof/Machine/Legal.lean ====
section
/-! DEFINITION. Which field values the owning chapters assign (R57): an encoding whose fields break its entry's limits is
no instruction. One arm per constructor; `true` where every field value is assigned. -/

namespace Sys2Proof.Machine

/-- R108: the pair of a conversion names two types, at least one of them floating, and they differ. -/
def cvtPair (t s : TypeCode) : Bool :=
  t.toNat < 12 && s.toNat < 12 && (isFloat t || isFloat s) && t != s

/-- The limits that each instruction's entry sets on its fields (R54, R57 and the owning chapter). -/
def legal (i : Instr) : Bool :=
  match i with
  | .add _ _ _ => true
  | .sub _ _ _ => true
  | .and _ _ _ => true
  | .or _ _ _ => true
  | .xor _ _ _ => true
  | .andn _ _ _ => true
  | .sll _ _ _ => true
  | .srl _ _ _ => true
  | .sra _ _ _ => true
  | .ror _ _ _ => true
  | .slt _ _ _ => true
  | .sltu _ _ _ => true
  | .min _ _ _ => true
  | .max _ _ _ => true
  | .minu _ _ _ => true
  | .maxu _ _ _ => true
  | .mul _ _ _ => true
  | .mhi _ _ _ => true
  | .mhiu _ _ _ => true
  | .mhisu _ _ _ => true
  | .div _ _ _ => true
  | .divu _ _ _ => true
  | .rem _ _ _ => true
  | .remu _ _ _ => true
  | .clz _ _ => true
  | .ctz _ _ => true
  | .popc _ _ => true
  | .bswap _ _ => true
  | .sxw _ _ => true
  | .zxw _ _ => true
  | .addi _ _ _ => true
  | .andi _ _ _ => true
  | .ori _ _ _ => true
  | .xori _ _ _ => true
  | .slli _ _ _ => true
  | .srli _ _ _ => true
  | .srai _ _ _ => true
  | .rori _ _ _ => true
  | .slti _ _ _ => true
  | .sltiu _ _ _ => true
  | .li _ _ => true
  | .lih _ _ _ => true
  | .ldb _ _ _ => true
  | .ldh _ _ _ => true
  | .ldw _ _ _ => true
  | .ldd _ _ _ => true
  | .ldbu _ _ _ => true
  | .ldhu _ _ _ => true
  | .ldwu _ _ _ => true
  | .stb _ b _ => b != 0
  | .sth _ b _ => b != 0
  | .stw _ b _ => b != 0
  | .std _ b _ => b != 0
  | .vld _ _ _ => true
  | .vldh _ _ _ => true
  | .vst _ b _ => b != 0
  | .vsth _ b _ => b != 0
  | .ldp d _ _ => d != 0 && !bit d 0
  | .stp d b _ => d != 0 && !bit d 0 && b != 0
  | .beq _ _ _ => true
  | .bne _ _ _ => true
  | .blt _ _ _ => true
  | .bge _ _ _ => true
  | .bltu _ _ _ => true
  | .bgeu _ _ _ => true
  | .j _ => true
  | .jal _ => true
  | .jr _ _ => true
  | .jalr _ _ => true
  | .loop _ l => l != 0
  | .loopi _ l => l != 0
  | .trap _ => true
  | .crd _ _ => true
  | .cwr _ _ => true
  | .cins _ _ _ => true
  | .cxch _ _ _ => true
  | .crdz _ _ => true
  | .gld _ s _ _ _ c x => !(x == 1 && s == 3) && c.toNat < 252
  | .gst _ _ _ _ _ => true
  | .put _ _ _ _ _ => true
  | .putr _ _ _ _ _ => true
  | .get _ _ _ _ _ => true
  | .aadd r _ _ _ _ c => c.toNat < 252 && (r == 1 || c == 0)
  | .aand r _ _ _ _ c => c.toNat < 252 && (r == 1 || c == 0)
  | .aor r _ _ _ _ c => c.toNat < 252 && (r == 1 || c == 0)
  | .axor r _ _ _ _ c => c.toNat < 252 && (r == 1 || c == 0)
  | .amin r _ _ _ _ c => c.toNat < 252 && (r == 1 || c == 0)
  | .amax r _ _ _ _ c => c.toNat < 252 && (r == 1 || c == 0)
  | .aminu r _ _ _ _ c => c.toNat < 252 && (r == 1 || c == 0)
  | .amaxu r _ _ _ _ c => c.toNat < 252 && (r == 1 || c == 0)
  | .aswap r _ _ _ _ c => c.toNat < 252 && (r == 1 || c == 0)
  | .acas r _ _ _ b c => c.toNat < 252 && (r == 1 || c == 0) && b != 0 && !bit b 0
  | .afadd r _ _ _ _ c => c.toNat < 252 && (r == 1 || c == 0)
  | .send _ _ v n _ => n.toNat ≤ 8 && v.toNat + n.toNat ≤ 32 && (n != 0 || v == 0)
  | .sendp _ _ v n _ => n.toNat ≤ 8 && v.toNat + n.toNat ≤ 32 && (n != 0 || v == 0)
  | .sendm _ _ v n _ => n.toNat ≤ 8 && v.toNat + n.toNat ≤ 32 && (n != 0 || v == 0)
  | .reply _ _ v n _ => n.toNat ≤ 8 && v.toNat + n.toNat ≤ 32 && (n != 0 || v == 0)
  | .chmask _ => true
  | .chunmask _ => true
  | .chtas _ _ => true
  | .jdec _ _ n => n != 0
  | .barm _ _ => true
  | .bdis _ => true
  | .lwin _ n => n != 0
  | .lstat _ _ => true
  | .sbind s _ => s.toNat < 6
  | .sdrop s => s.toNat < 6
  | .sstat s _ => s.toNat < 6
  | .tmld _ _ _ => true
  | .tmbase _ _ => true
  | .tmcnt _ _ _ => true
  | .chk _ => true
  | .chke _ => true
  | .chkg _ => true
  | .vadd _ _ _ _ _ _ t => t.toNat < 4
  | .vsub _ _ _ _ _ _ t => t.toNat < 4
  | .vmul _ _ _ _ _ _ t => t.toNat < 4
  | .vdiv _ _ _ _ _ _ t => t.toNat < 4
  | .vsqrt _ _ _ _ t => t.toNat < 4
  | .vfma _ _ _ _ _ _ _ _ t => t.toNat < 4
  | .vfms _ _ _ _ _ _ _ _ t => t.toNat < 4
  | .vfnma _ _ _ _ _ _ _ _ t => t.toNat < 4
  | .vmin _ _ _ _ _ _ t => t.toNat < 4
  | .vmax _ _ _ _ _ _ t => t.toNat < 4
  | .vabs _ _ _ _ t => t.toNat < 4
  | .vneg _ _ _ _ t => t.toNat < 4
  | .vfeq _ _ _ _ _ _ t => t.toNat < 4
  | .vflt _ _ _ _ _ _ t => t.toNat < 4
  | .vfle _ _ _ _ _ _ t => t.toNat < 4
  | .vfclass _ _ _ _ t => t.toNat < 4
  | .vcvt _ _ _ s _ t => cvtPair t s && laneWidth t == laneWidth s
  | .vcvtl _ _ _ s _ t => cvtPair t s && laneWidth t == 2 * laneWidth s
  | .vcvth _ _ _ s _ t => cvtPair t s && laneWidth t == 2 * laneWidth s
  | .vcvtn _ _ _ _ _ s _ t => cvtPair t s && 2 * laneWidth t == laneWidth s
  | .vaddInt _ _ _ _ _ _ t => isInt t
  | .vsubInt _ _ _ _ _ _ t => isInt t
  | .vmulInt _ _ _ _ _ _ t => isInt t
  | .vmulh _ _ _ _ _ _ t => isInt t
  | .vand _ _ _ _ _ _ t => isInt t
  | .vor _ _ _ _ _ _ t => isInt t
  | .vxor _ _ _ _ _ _ t => isInt t
  | .vsll _ _ _ _ _ _ t => isInt t
  | .vsrl _ _ _ _ _ _ t => isInt t
  | .vsra _ _ _ _ _ _ t => isInt t
  | .vminInt _ _ _ _ _ _ t => isInt t
  | .vmaxInt _ _ _ _ _ _ t => isInt t
  | .vadds _ _ _ _ _ _ t => isInt t
  | .vsubs _ _ _ _ _ _ t => isInt t
  | .vabsd _ _ _ _ _ _ t => isInt t
  | .vmadd _ _ _ _ _ _ _ _ t => isInt t
  | .vceq _ _ _ _ _ _ t => isInt t
  | .vclt _ _ _ _ _ _ t => isInt t
  | .vcle _ _ _ _ _ _ t => isInt t
  | .vsel _ _ _ _ _ _ t => t.toNat < 12
  | .kand _ _ _ => true
  | .kor _ _ _ => true
  | .kxor _ _ _ => true
  | .knot _ _ => true
  | .vperm _ _ _ _ _ _ t => t.toNat < 12
  | .vbcast _ _ _ _ _ _ t => t.toNat < 12
  | .vrev _ _ _ _ t => t.toNat < 12
  | .vzipl _ _ _ _ _ _ t => t.toNat < 12
  | .vziph _ _ _ _ _ _ t => t.toNat < 12
  | .vuzpe _ _ _ _ _ _ t => t.toNat < 12
  | .vuzpo _ _ _ _ _ _ t => t.toNat < 12
  | .vrsum _ _ _ _ t => t.toNat < 12
  | .vrmin _ _ _ _ t => t.toNat < 12
  | .vrmax _ _ _ _ t => t.toNat < 12
  | .vrand _ _ _ _ t => isInt t
  | .vror _ _ _ _ t => isInt t
  | .vrxor _ _ _ _ t => isInt t
  | .vmovOV _ _ => true
  | .vmovVO _ _ _ => true
  | .vmovOport p _ w => p.toNat < 4 && w == 0 || 8 ≤ p.toNat && p.toNat < 12
  | .vmovPorto p _ _ => 4 ≤ p.toNat && p.toNat < 6 || 8 ≤ p.toNat && p.toNat < 12
  | .vmovOO _ _ _ => true
  | .vsplat _ _ t => t.toNat < 12
  | .vext _ _ _ n t => t.toNat < 12 && n.toNat < laneCount t
  | .vins _ _ n t => t.toNat < 12 && n.toNat < laneCount t
  | .kmovKG _ _ => true
  | .kmovGK _ _ => true
  | .vexp2 _ _ _ _ t => t.toNat < 2
  | .vlog2 _ _ _ _ t => t.toNat < 2
  | .vrcp _ _ _ _ t => t.toNat < 2
  | .vrsq _ _ _ _ t => t.toNat < 2
  | .vsinpi _ _ _ _ t => t.toNat < 2
  | .vcospi _ _ _ _ t => t.toNat < 2
  | .dtld _ _ _ => true
  | .vdec _ _ _ _ q f => q.toNat * ftLanes f + ftLanes f ≤ 32
  | .venc _ _ _ _ q f => q.toNat * ftLanes f + ftLanes f ≤ 32
  | .bld d _ s f _ => f.toNat < 2 && (d == 0 || d == 4) && !(s == 1 && f == 1)
  | .bst a _ b s f _ => f.toNat < 2 && (a == 0 || a == 4) && !(s == 1 && f == 1) && b != 0
  | .twld _ _ _ => true
  | .twst _ _ _ _ => true
  | .qclaim _ => true
  | .qtry _ _ => true
  | .qrel _ => true
  | .qld _ _ f s => f.toNat < 3 && (f != 0 || s == 0)
  | .qput _ _ _ _ => true
  | .qget _ _ _ => true
  | .qlnk _ _ _ _ => true
  | .mma _ _ k _ c => k.toNat < 3 && (c == 0 || userChannel c || c == 250)
  | .accld _ _ _ _ _ => true
  | .accldReg _ _ _ _ _ => true
  | .accst _ _ _ _ _ _ => true
  | .accstReg _ _ _ _ _ _ => true
  | .acczero k => k.toNat < 3
  | .mxcmd _ _ k _ c => k.toNat < 3 && (c == 0 || userChannel c || c == 250)
  | .dxld _ _ _ => true
  | .dxrun _ _ a _ => a != 0
  | .abegin _ _ c => userChannel c
  | .ajoin _ => true
  | .apitch _ _ c => userChannel c
  | .asummit _ c => c == 0 || userChannel c
  | .aretreat _ c => c == 0 || userChannel c
  | .aresume _ x c => x.toNat < 3 && (c == 0 || userChannel c)
  | .astat _ c => userChannel c
  | .imgld _ _ i => i.toNat < 8
  | .imgrev _ => true
  | .hset _ i => i.toNat < 256
  | .pset _ _ i => i.toNat < 63
  | .winw _ _ i => i.toNat < 8
  | .keyset _ i => 1 ≤ i.toNat && i.toNat < 16
  | .lease _ _ => true
  | .imgev _ i => i.toNat < 8
  | .dmark _ _ => true
  | .wpset _ _ i => i.toNat < 8
  | .wpclr i => i.toNat < 8
  | .bpset _ i => i.toNat < 4
  | .dgrp _ => true
  | .dstat _ i => i.toNat < 4
  | .cMv d _ => d != 0
  | .cAddi _ _ => true
  | .cLdd _ _ _ => true
  | .cStd _ _ _ => true
  | .cBeqz _ _ => true
  | .cBnez _ _ => true
  | .cJ _ => true
  | .cAdd _ _ => true
  | .cSub _ _ => true
  | .cSlli _ _ => true
  | .cVmovOV _ _ => true
  | .cVmovVO _ _ _ => true
  | .cLi _ _ => true
  | .cpy _ _ _ _ => true
  | .end_ => true
  | .nop => true
  | .brk => true
  | .lend => true
  | .dstop => true
  | .cNop => true
  | .cEnd => true
  | .cBrk => true
  | .dxrunReadPhase => true
  | .dxrunWritePhase => true
  | .budget => true
  | .dispatch => true
  | .agePromotion => true
  | .messageArrival => true
  | .nack => true
  | .settleAck => true
  | .releaseSendLeave => true
  | .spill => true
  | .spillReturn => true
  | .linkWordDelivery => true
  | .linkCreditReturn => true
  | .remoteLoad => true
  | .remoteStore => true
  | .remotePut => true
  | .remotePutr => true
  | .remoteGet => true
  | .getLanding => true
  | .getCompletion => true
  | .remoteAtomic => true
  | .remoteJdec => true
  | .placementFaultRecord => true
  | .resumeInstall => true
  | .resumeRefuse => true
  | .plbShootdown => true
  | .shootdownAck => true
  | .prgResponse => true
  | .mmaCommandStart => true
  | .mmaCommandComplete => true
  | .ropeCommandArrival => true
  | .ropeCommandTimeout => true
  | .streamStripFetch => true
  | .copyKick => true
  | .copyCommandStart => true
  | .copyCompletion => true
  | .launchAccept => true
  | .launchWake => true
  | .launchVote => true
  | .coalesceWindowClose => true
  | .trapTriageHw => true
  | .trapTriageHost => true
  | .engineCompletion => true
  | .doubleRecord => true
  | .preempt => true
  | .timeSliceQuantum => true
  | .fingerprintCheckpoint => true
  | .quarantine => true
  | .engineSpareReplace => true
  | .igtRevokeRequest => true
  | .imgrevNotice => true
  | .slideRegion => true
  | .anchorPush => true
  | .anchorStamp => true
  | .stampReturn => true
  | .ascentBeginReq => true
  | .ascentSummitReq => true
  | .ascentRetreatReq => true
  | .ascentResumeReq => true
  | .ascentStatReq => true
  | .ascentLifetime => true
  | .anchorSend => true
  | .endNotice => true
  | .failureNotice => true
  | .rescueRelay => true
  | .collectiveCommand => true
  | .generationNotice => true
  | .fabricForward => true
  | .linkRetry => true
  | .portWithdraw => true
  | .moduleWithdraw => true
  | .debugStop => true
  | .coreStopped => true
  | .debugStep => true
  | .debugResume => true
  | .hostLaunch => true
  | .hostCall => true
  | .stageImage => true
  | .hostSlideRegion => true
  | .hostCollective => true
  | .readCounters => true
  | .pfCommand => true
  | .journalWindowWrite => true
  | .hostMemoryAccess => true
  | .getCertificate => true
  | .challenge => true
  | .getMeasurements => true
  | .keyExchange => true
  | .finish => true
  | .coldReset => true
  | .deviceReset => true
  | .vfFlr => true
  | .hotReset => true
  | .confScrubTimeout => true
  | .undefEncoding => true
  | .fetchFailure => true
  | .admission => true
  | .wakeFailure => true
  | .portRetrain => true
  | .fabricLinkUp => true
  | .ideKeyManagement => true
  | .recordReplayMode => true
  | .powerLimitWindow => true

end Sys2Proof.Machine
end

