-- ==== Sys2Proof/WellFormed.lean ====
section
/-! DEFINITION. Well-formed instructions: what the decoder may answer. -/

namespace Sys2Proof

/-- An instruction is well formed when its fields keep the limits of its entry (R57). -/
def Instr.wf (i : Instr) : Bool := Sys2Proof.Machine.legal i

end Sys2Proof
end

