-- ==== Sys2Proof/Decode.lean ====
section
/-! DEFINITION. Decoding and encoding (spec/03_formats_opcode_map.md R44 to R60). `encode` writes an instruction's bits
from the field layouts of the opcode table and of the owning chapters; `parse32` and `parse16` read the fields back, by
major opcode and function code; a pattern is an instruction only if its fields keep their limits (R57) and every
reserved bit is 0 (R56), that is, if encoding what was read gives the pattern again. -/

namespace Sys2Proof

open Sys2Proof.Machine (fld leNat)

/-- What `encode` answers: a 16-bit instruction, a 32-bit one (R44), or an event, which has no bits. -/
inductive Encoding where
  | half (h : BitVec 16)
  | word (w : BitVec 32)
  | event
  deriving DecidableEq, Repr

/-- Why a pattern is no instruction (R57). -/
inductive DecodeError where
  /-- Fewer bytes than the pattern's length needs. -/
  | short
  /-- An op4, major opcode or function code that no chapter assigns. -/
  | unassigned
  /-- A field value that the entry does not allow (R54, R57). -/
  | illegalField
  /-- A non-zero reserved bit (R56). -/
  | reservedBit
  deriving DecidableEq, Repr

/-- A word from its fields, most significant first. -/
def pack32 {n : Nat} (x : BitVec n) (h : n = 32 := by rfl) : BitVec 32 := x.cast h

/-- A halfword from its fields, most significant first. -/
def pack16 {n : Nat} (x : BitVec n) (h : n = 16 := by rfl) : BitVec 16 := x.cast h

/-- The words of major opcode 0x00 (R51, R81, R82). -/
def parseMO00 (w : BitVec 32) : Option Instr :=
  match fld w 0 10 with
  | 0x0#10 => some (.add (fld w 20 5) (fld w 15 5) (fld w 10 5))
  | 0x1#10 => some (.sub (fld w 20 5) (fld w 15 5) (fld w 10 5))
  | 0x2#10 => some (.and (fld w 20 5) (fld w 15 5) (fld w 10 5))
  | 0x3#10 => some (.or (fld w 20 5) (fld w 15 5) (fld w 10 5))
  | 0x4#10 => some (.xor (fld w 20 5) (fld w 15 5) (fld w 10 5))
  | 0x5#10 => some (.andn (fld w 20 5) (fld w 15 5) (fld w 10 5))
  | 0x6#10 => some (.sll (fld w 20 5) (fld w 15 5) (fld w 10 5))
  | 0x7#10 => some (.srl (fld w 20 5) (fld w 15 5) (fld w 10 5))
  | 0x8#10 => some (.sra (fld w 20 5) (fld w 15 5) (fld w 10 5))
  | 0x9#10 => some (.ror (fld w 20 5) (fld w 15 5) (fld w 10 5))
  | 0xa#10 => some (.slt (fld w 20 5) (fld w 15 5) (fld w 10 5))
  | 0xb#10 => some (.sltu (fld w 20 5) (fld w 15 5) (fld w 10 5))
  | 0xc#10 => some (.min (fld w 20 5) (fld w 15 5) (fld w 10 5))
  | 0xd#10 => some (.max (fld w 20 5) (fld w 15 5) (fld w 10 5))
  | 0xe#10 => some (.minu (fld w 20 5) (fld w 15 5) (fld w 10 5))
  | 0xf#10 => some (.maxu (fld w 20 5) (fld w 15 5) (fld w 10 5))
  | 0x10#10 => some (.mul (fld w 20 5) (fld w 15 5) (fld w 10 5))
  | 0x11#10 => some (.mhi (fld w 20 5) (fld w 15 5) (fld w 10 5))
  | 0x12#10 => some (.mhiu (fld w 20 5) (fld w 15 5) (fld w 10 5))
  | 0x13#10 => some (.mhisu (fld w 20 5) (fld w 15 5) (fld w 10 5))
  | 0x14#10 => some (.div (fld w 20 5) (fld w 15 5) (fld w 10 5))
  | 0x15#10 => some (.divu (fld w 20 5) (fld w 15 5) (fld w 10 5))
  | 0x16#10 => some (.rem (fld w 20 5) (fld w 15 5) (fld w 10 5))
  | 0x17#10 => some (.remu (fld w 20 5) (fld w 15 5) (fld w 10 5))
  | 0x18#10 => some (.clz (fld w 20 5) (fld w 15 5))
  | 0x19#10 => some (.ctz (fld w 20 5) (fld w 15 5))
  | 0x1a#10 => some (.popc (fld w 20 5) (fld w 15 5))
  | 0x1b#10 => some (.bswap (fld w 20 5) (fld w 15 5))
  | 0x1c#10 => some (.sxw (fld w 20 5) (fld w 15 5))
  | 0x1d#10 => some (.zxw (fld w 20 5) (fld w 15 5))
  | _ => none

/-- The words of major opcode 0x01 (R51, R83). -/
def parseMO01 (w : BitVec 32) : Option Instr :=
  some (.addi (fld w 20 5) (fld w 15 5) (fld w 0 15))

/-- The words of major opcode 0x02 (R51, R83). -/
def parseMO02 (w : BitVec 32) : Option Instr :=
  some (.andi (fld w 20 5) (fld w 15 5) (fld w 0 15))

/-- The words of major opcode 0x03 (R51, R83). -/
def parseMO03 (w : BitVec 32) : Option Instr :=
  some (.ori (fld w 20 5) (fld w 15 5) (fld w 0 15))

/-- The words of major opcode 0x04 (R51, R83). -/
def parseMO04 (w : BitVec 32) : Option Instr :=
  some (.xori (fld w 20 5) (fld w 15 5) (fld w 0 15))

/-- The words of major opcode 0x05 (R51, R84). -/
def parseMO05 (w : BitVec 32) : Option Instr :=
  match fld w 13 2 with
  | 0x0#2 => some (.slli (fld w 20 5) (fld w 15 5) (fld w 0 6))
  | 0x1#2 => some (.srli (fld w 20 5) (fld w 15 5) (fld w 0 6))
  | 0x2#2 => some (.srai (fld w 20 5) (fld w 15 5) (fld w 0 6))
  | 0x3#2 => some (.rori (fld w 20 5) (fld w 15 5) (fld w 0 6))

/-- The words of major opcode 0x06 (R51, R85). -/
def parseMO06 (w : BitVec 32) : Option Instr :=
  match fld w 14 1 with
  | 0x0#1 => some (.slti (fld w 20 5) (fld w 15 5) (fld w 0 14))
  | 0x1#1 => some (.sltiu (fld w 20 5) (fld w 15 5) (fld w 0 14))

/-- The words of major opcode 0x07 (R51, R86). -/
def parseMO07 (w : BitVec 32) : Option Instr :=
  match fld w 19 1 with
  | 0x0#1 => some (.li (fld w 20 5) (fld w 0 19))
  | 0x1#1 => some (.lih (fld w 20 5) (fld w 16 2) (fld w 0 16))

/-- The words of major opcode 0x08 (R51, R87). -/
def parseMO08 (w : BitVec 32) : Option Instr :=
  match fld w 12 3 with
  | 0x0#3 => some (.ldb (fld w 20 5) (fld w 15 5) (fld w 0 12))
  | 0x1#3 => some (.ldh (fld w 20 5) (fld w 15 5) (fld w 0 12))
  | 0x2#3 => some (.ldw (fld w 20 5) (fld w 15 5) (fld w 0 12))
  | 0x3#3 => some (.ldd (fld w 20 5) (fld w 15 5) (fld w 0 12))
  | 0x4#3 => some (.ldbu (fld w 20 5) (fld w 15 5) (fld w 0 12))
  | 0x5#3 => some (.ldhu (fld w 20 5) (fld w 15 5) (fld w 0 12))
  | 0x6#3 => some (.ldwu (fld w 20 5) (fld w 15 5) (fld w 0 12))
  | _ => none

/-- The words of major opcode 0x09 (R51, R88). -/
def parseMO09 (w : BitVec 32) : Option Instr :=
  match fld w 12 3 with
  | 0x0#3 => some (.stb (fld w 20 5) (fld w 15 5) (fld w 0 12))
  | 0x1#3 => some (.sth (fld w 20 5) (fld w 15 5) (fld w 0 12))
  | 0x2#3 => some (.stw (fld w 20 5) (fld w 15 5) (fld w 0 12))
  | 0x3#3 => some (.std (fld w 20 5) (fld w 15 5) (fld w 0 12))
  | _ => none

/-- The words of major opcode 0x0A (R51, R103). -/
def parseMO0A (w : BitVec 32) : Option Instr :=
  match fld w 12 3 with
  | 0x0#3 => some (.vld (fld w 20 5) (fld w 15 5) (fld w 0 12))
  | 0x1#3 => some (.vldh (fld w 20 5) (fld w 15 5) (fld w 0 12))
  | 0x2#3 => some (.vst (fld w 20 5) (fld w 15 5) (fld w 0 12))
  | 0x3#3 => some (.vsth (fld w 20 5) (fld w 15 5) (fld w 0 12))
  | _ => none

/-- The words of major opcode 0x0B (R51, R89). -/
def parseMO0B (w : BitVec 32) : Option Instr :=
  match fld w 12 3 with
  | 0x0#3 => some (.ldp (fld w 20 5) (fld w 15 5) (fld w 0 12))
  | 0x1#3 => some (.stp (fld w 20 5) (fld w 15 5) (fld w 0 12))
  | _ => none

/-- The words of major opcode 0x0C (R51, R90). -/
def parseMO0C (w : BitVec 32) : Option Instr :=
  match fld w 22 3 with
  | 0x0#3 => some (.beq (fld w 17 5) (fld w 12 5) (fld w 0 12))
  | 0x1#3 => some (.bne (fld w 17 5) (fld w 12 5) (fld w 0 12))
  | 0x2#3 => some (.blt (fld w 17 5) (fld w 12 5) (fld w 0 12))
  | 0x3#3 => some (.bge (fld w 17 5) (fld w 12 5) (fld w 0 12))
  | 0x4#3 => some (.bltu (fld w 17 5) (fld w 12 5) (fld w 0 12))
  | 0x5#3 => some (.bgeu (fld w 17 5) (fld w 12 5) (fld w 0 12))
  | _ => none

/-- The words of major opcode 0x0D (R51, R91). -/
def parseMO0D (w : BitVec 32) : Option Instr :=
  match fld w 24 1 with
  | 0x0#1 => some (.j (fld w 0 24))
  | 0x1#1 => some (.jal (fld w 0 24))

/-- The words of major opcode 0x0E (R51, R92). -/
def parseMO0E (w : BitVec 32) : Option Instr :=
  match fld w 20 5 with
  | 0x0#5 => some (.jr (fld w 15 5) (fld w 0 15))
  | 0x1f#5 => some (.jalr (fld w 15 5) (fld w 0 15))
  | _ => none

/-- The words of major opcode 0x0F (R51, R94). -/
def parseMO0F (w : BitVec 32) : Option Instr :=
  match fld w 24 1 with
  | 0x0#1 => some (.loop (fld w 19 5) (fld w 0 12))
  | 0x1#1 => some (.loopi (fld w 12 12) (fld w 0 12))

/-- The words of major opcode 0x10 (R51, R96). -/
def parseMO10 (w : BitVec 32) : Option Instr :=
  match fld w 20 5 with
  | 0x0#5 => some (.end_)
  | 0x1#5 => some (.nop)
  | 0x2#5 => some (.brk)
  | 0x3#5 => some (.trap (fld w 0 10))
  | _ => none

/-- The words of major opcode 0x11 (R51, R97). -/
def parseMO11 (w : BitVec 32) : Option Instr :=
  match fld w 20 5 with
  | 0x0#5 => some (.crd (fld w 10 5) (fld w 0 10))
  | 0x1#5 => some (.cwr (fld w 15 5) (fld w 0 10))
  | 0x2#5 => some (.cins (fld w 15 5) (fld w 10 5) (fld w 0 10))
  | 0x3#5 => some (.cxch (fld w 15 5) (fld w 10 5) (fld w 0 10))
  | 0x4#5 => some (.crdz (fld w 10 5) (fld w 0 10))
  | _ => none

/-- The words of major opcode 0x12 (R51, R204). -/
def parseMO12 (w : BitVec 32) : Option Instr :=
  some (.gld (fld w 24 1) (fld w 22 2) (fld w 15 5) (fld w 10 5) (fld w 9 1) (fld w 1 8) (fld w 0 1))

/-- The words of major opcode 0x13 (R51, R204). -/
def parseMO13 (w : BitVec 32) : Option Instr :=
  some (.gst (fld w 24 1) (fld w 22 2) (fld w 15 5) (fld w 10 5) (fld w 9 1))

/-- The words of major opcode 0x14 (R51, R206). -/
def parseMO14 (w : BitVec 32) : Option Instr :=
  match fld w 23 2 with
  | 0x0#2 => some (.put (fld w 22 1) (fld w 21 1) (fld w 16 5) (fld w 11 5) (fld w 6 5))
  | 0x1#2 => some (.putr (fld w 22 1) (fld w 21 1) (fld w 16 5) (fld w 11 5) (fld w 6 5))
  | 0x2#2 => some (.get (fld w 22 1) (fld w 21 1) (fld w 16 5) (fld w 11 5) (fld w 6 5))
  | _ => none

/-- The words of major opcode 0x15 (R51, R207). -/
def parseMO15 (w : BitVec 32) : Option Instr :=
  match fld w 21 4 with
  | 0x0#4 => some (.aadd (fld w 20 1) (fld w 19 1) (fld w 18 1) (fld w 13 5) (fld w 8 5) (fld w 0 8))
  | 0x1#4 => some (.aand (fld w 20 1) (fld w 19 1) (fld w 18 1) (fld w 13 5) (fld w 8 5) (fld w 0 8))
  | 0x2#4 => some (.aor (fld w 20 1) (fld w 19 1) (fld w 18 1) (fld w 13 5) (fld w 8 5) (fld w 0 8))
  | 0x3#4 => some (.axor (fld w 20 1) (fld w 19 1) (fld w 18 1) (fld w 13 5) (fld w 8 5) (fld w 0 8))
  | 0x4#4 => some (.amin (fld w 20 1) (fld w 19 1) (fld w 18 1) (fld w 13 5) (fld w 8 5) (fld w 0 8))
  | 0x5#4 => some (.amax (fld w 20 1) (fld w 19 1) (fld w 18 1) (fld w 13 5) (fld w 8 5) (fld w 0 8))
  | 0x6#4 => some (.aminu (fld w 20 1) (fld w 19 1) (fld w 18 1) (fld w 13 5) (fld w 8 5) (fld w 0 8))
  | 0x7#4 => some (.amaxu (fld w 20 1) (fld w 19 1) (fld w 18 1) (fld w 13 5) (fld w 8 5) (fld w 0 8))
  | 0x8#4 => some (.aswap (fld w 20 1) (fld w 19 1) (fld w 18 1) (fld w 13 5) (fld w 8 5) (fld w 0 8))
  | 0x9#4 => some (.acas (fld w 20 1) (fld w 19 1) (fld w 18 1) (fld w 13 5) (fld w 8 5) (fld w 0 8))
  | 0xa#4 => some (.afadd (fld w 20 1) (fld w 19 1) (fld w 18 1) (fld w 13 5) (fld w 8 5) (fld w 0 8))
  | _ => none

/-- The words of major opcode 0x16 (R51, R174, R176). -/
def parseMO16 (w : BitVec 32) : Option Instr :=
  match fld w 23 2 with
  | 0x0#2 => some (.send (fld w 22 1) (fld w 17 5) (fld w 12 5) (fld w 8 4) (fld w 0 8))
  | 0x1#2 => some (.sendp (fld w 22 1) (fld w 17 5) (fld w 12 5) (fld w 8 4) (fld w 0 8))
  | 0x2#2 => some (.sendm (fld w 22 1) (fld w 17 5) (fld w 12 5) (fld w 8 4) (fld w 0 8))
  | 0x3#2 => some (.reply (fld w 22 1) (fld w 17 5) (fld w 12 5) (fld w 8 4) (fld w 0 8))

/-- The words of major opcode 0x17 (R51, R167, R180, R181, R182, R183). -/
def parseMO17 (w : BitVec 32) : Option Instr :=
  match fld w 21 4 with
  | 0x0#4 => some (.chmask (fld w 0 8))
  | 0x1#4 => some (.chunmask (fld w 0 8))
  | 0x2#4 => some (.chtas (fld w 10 5) (fld w 0 8))
  | 0x3#4 => some (.jdec (fld w 20 1) (fld w 15 5) (fld w 0 8))
  | 0x4#4 => some (.barm (fld w 10 5) (fld w 0 8))
  | 0x5#4 => some (.bdis (fld w 0 8))
  | 0x6#4 => some (.lend)
  | _ => none

/-- The words of major opcode 0x18 (R51, R187). -/
def parseMO18 (w : BitVec 32) : Option Instr :=
  match fld w 22 3 with
  | 0x0#3 => some (.lwin (fld w 20 2) (fld w 0 4))
  | 0x1#3 => some (.lstat (fld w 20 2) (fld w 15 5))
  | _ => none

/-- The words of major opcode 0x19 (R51, R225, R228). -/
def parseMO19 (w : BitVec 32) : Option Instr :=
  match fld w 22 3 with
  | 0x0#3 => some (.sbind (fld w 19 3) (fld w 16 3))
  | 0x1#3 => some (.sdrop (fld w 19 3))
  | 0x2#3 => some (.sstat (fld w 19 3) (fld w 11 5))
  | _ => none

/-- The words of major opcode 0x1A (R51, R116). -/
def parseMO1A (w : BitVec 32) : Option Instr :=
  match fld w 12 3 with
  | 0x0#3 => some (.tmld (fld w 22 3) (fld w 17 5) (fld w 0 12))
  | 0x1#3 => some (.tmbase (fld w 22 3) (fld w 17 5))
  | 0x2#3 => some (.tmcnt (fld w 22 3) (fld w 17 5) (fld w 15 2))
  | _ => none

/-- The words of major opcode 0x1B (R51, R309). -/
def parseMO1B (w : BitVec 32) : Option Instr :=
  match fld w 22 3 with
  | 0x0#3 => some (.chk (fld w 12 10))
  | 0x1#3 => some (.chke (fld w 12 10))
  | 0x2#3 => some (.chkg (fld w 7 5))
  | _ => none

/-- The words of major opcode 0x1C (R51, R106). -/
def parseMO1C (w : BitVec 32) : Option Instr :=
  match fld w 0 4 with
  | 0x0#4 => some (.vadd (fld w 22 3) (fld w 19 3) (fld w 18 1) (fld w 15 3) (fld w 14 1) (fld w 8 2) (fld w 4 4))
  | 0x1#4 => some (.vsub (fld w 22 3) (fld w 19 3) (fld w 18 1) (fld w 15 3) (fld w 14 1) (fld w 8 2) (fld w 4 4))
  | 0x2#4 => some (.vmul (fld w 22 3) (fld w 19 3) (fld w 18 1) (fld w 15 3) (fld w 14 1) (fld w 8 2) (fld w 4 4))
  | 0x3#4 => some (.vdiv (fld w 22 3) (fld w 19 3) (fld w 18 1) (fld w 15 3) (fld w 14 1) (fld w 8 2) (fld w 4 4))
  | 0x4#4 => some (.vsqrt (fld w 22 3) (fld w 19 3) (fld w 18 1) (fld w 8 2) (fld w 4 4))
  | 0x5#4 => some (.vfma (fld w 22 3) (fld w 19 3) (fld w 18 1) (fld w 15 3) (fld w 14 1) (fld w 11 3) (fld w 10 1) (fld w 8 2) (fld w 4 4))
  | 0x6#4 => some (.vfms (fld w 22 3) (fld w 19 3) (fld w 18 1) (fld w 15 3) (fld w 14 1) (fld w 11 3) (fld w 10 1) (fld w 8 2) (fld w 4 4))
  | 0x7#4 => some (.vfnma (fld w 22 3) (fld w 19 3) (fld w 18 1) (fld w 15 3) (fld w 14 1) (fld w 11 3) (fld w 10 1) (fld w 8 2) (fld w 4 4))
  | 0x8#4 => some (.vmin (fld w 22 3) (fld w 19 3) (fld w 18 1) (fld w 15 3) (fld w 14 1) (fld w 8 2) (fld w 4 4))
  | 0x9#4 => some (.vmax (fld w 22 3) (fld w 19 3) (fld w 18 1) (fld w 15 3) (fld w 14 1) (fld w 8 2) (fld w 4 4))
  | 0xa#4 => some (.vabs (fld w 22 3) (fld w 19 3) (fld w 18 1) (fld w 8 2) (fld w 4 4))
  | 0xb#4 => some (.vneg (fld w 22 3) (fld w 19 3) (fld w 18 1) (fld w 8 2) (fld w 4 4))
  | _ => none

/-- The words of major opcode 0x1D (R51, R107). -/
def parseMO1D (w : BitVec 32) : Option Instr :=
  match fld w 0 4 with
  | 0x0#4 => some (.vfeq (fld w 22 2) (fld w 19 3) (fld w 18 1) (fld w 15 3) (fld w 14 1) (fld w 8 2) (fld w 4 4))
  | 0x1#4 => some (.vflt (fld w 22 2) (fld w 19 3) (fld w 18 1) (fld w 15 3) (fld w 14 1) (fld w 8 2) (fld w 4 4))
  | 0x2#4 => some (.vfle (fld w 22 2) (fld w 19 3) (fld w 18 1) (fld w 15 3) (fld w 14 1) (fld w 8 2) (fld w 4 4))
  | 0x3#4 => some (.vfclass (fld w 22 3) (fld w 19 3) (fld w 18 1) (fld w 8 2) (fld w 4 4))
  | _ => none

/-- The words of major opcode 0x1E (R51, R108). -/
def parseMO1E (w : BitVec 32) : Option Instr :=
  match fld w 0 4 with
  | 0x0#4 => some (.vcvt (fld w 22 3) (fld w 19 3) (fld w 18 1) (fld w 10 4) (fld w 8 2) (fld w 4 4))
  | 0x1#4 => some (.vcvtl (fld w 22 3) (fld w 19 3) (fld w 18 1) (fld w 10 4) (fld w 8 2) (fld w 4 4))
  | 0x2#4 => some (.vcvth (fld w 22 3) (fld w 19 3) (fld w 18 1) (fld w 10 4) (fld w 8 2) (fld w 4 4))
  | 0x3#4 => some (.vcvtn (fld w 22 3) (fld w 19 3) (fld w 18 1) (fld w 15 3) (fld w 14 1) (fld w 10 4) (fld w 8 2) (fld w 4 4))
  | _ => none

/-- The words of major opcode 0x1F (R51, R109). -/
def parseMO1F (w : BitVec 32) : Option Instr :=
  match fld w 0 4 with
  | 0x0#4 => some (.vaddInt (fld w 22 3) (fld w 19 3) (fld w 18 1) (fld w 15 3) (fld w 14 1) (fld w 8 2) (fld w 4 4))
  | 0x1#4 => some (.vsubInt (fld w 22 3) (fld w 19 3) (fld w 18 1) (fld w 15 3) (fld w 14 1) (fld w 8 2) (fld w 4 4))
  | 0x2#4 => some (.vmulInt (fld w 22 3) (fld w 19 3) (fld w 18 1) (fld w 15 3) (fld w 14 1) (fld w 8 2) (fld w 4 4))
  | 0x3#4 => some (.vmulh (fld w 22 3) (fld w 19 3) (fld w 18 1) (fld w 15 3) (fld w 14 1) (fld w 8 2) (fld w 4 4))
  | 0x4#4 => some (.vand (fld w 22 3) (fld w 19 3) (fld w 18 1) (fld w 15 3) (fld w 14 1) (fld w 8 2) (fld w 4 4))
  | 0x5#4 => some (.vor (fld w 22 3) (fld w 19 3) (fld w 18 1) (fld w 15 3) (fld w 14 1) (fld w 8 2) (fld w 4 4))
  | 0x6#4 => some (.vxor (fld w 22 3) (fld w 19 3) (fld w 18 1) (fld w 15 3) (fld w 14 1) (fld w 8 2) (fld w 4 4))
  | 0x7#4 => some (.vsll (fld w 22 3) (fld w 19 3) (fld w 18 1) (fld w 15 3) (fld w 14 1) (fld w 8 2) (fld w 4 4))
  | 0x8#4 => some (.vsrl (fld w 22 3) (fld w 19 3) (fld w 18 1) (fld w 15 3) (fld w 14 1) (fld w 8 2) (fld w 4 4))
  | 0x9#4 => some (.vsra (fld w 22 3) (fld w 19 3) (fld w 18 1) (fld w 15 3) (fld w 14 1) (fld w 8 2) (fld w 4 4))
  | 0xa#4 => some (.vminInt (fld w 22 3) (fld w 19 3) (fld w 18 1) (fld w 15 3) (fld w 14 1) (fld w 8 2) (fld w 4 4))
  | 0xb#4 => some (.vmaxInt (fld w 22 3) (fld w 19 3) (fld w 18 1) (fld w 15 3) (fld w 14 1) (fld w 8 2) (fld w 4 4))
  | 0xc#4 => some (.vadds (fld w 22 3) (fld w 19 3) (fld w 18 1) (fld w 15 3) (fld w 14 1) (fld w 8 2) (fld w 4 4))
  | 0xd#4 => some (.vsubs (fld w 22 3) (fld w 19 3) (fld w 18 1) (fld w 15 3) (fld w 14 1) (fld w 8 2) (fld w 4 4))
  | 0xe#4 => some (.vabsd (fld w 22 3) (fld w 19 3) (fld w 18 1) (fld w 15 3) (fld w 14 1) (fld w 8 2) (fld w 4 4))
  | 0xf#4 => some (.vmadd (fld w 22 3) (fld w 19 3) (fld w 18 1) (fld w 15 3) (fld w 14 1) (fld w 11 3) (fld w 10 1) (fld w 8 2) (fld w 4 4))
  | _ => none

/-- The words of major opcode 0x20 (R51, R110). -/
def parseMO20 (w : BitVec 32) : Option Instr :=
  match fld w 0 4 with
  | 0x0#4 => some (.vceq (fld w 22 2) (fld w 19 3) (fld w 18 1) (fld w 15 3) (fld w 14 1) (fld w 8 2) (fld w 4 4))
  | 0x1#4 => some (.vclt (fld w 22 2) (fld w 19 3) (fld w 18 1) (fld w 15 3) (fld w 14 1) (fld w 8 2) (fld w 4 4))
  | 0x2#4 => some (.vcle (fld w 22 2) (fld w 19 3) (fld w 18 1) (fld w 15 3) (fld w 14 1) (fld w 8 2) (fld w 4 4))
  | 0x3#4 => some (.vsel (fld w 22 3) (fld w 19 3) (fld w 18 1) (fld w 15 3) (fld w 14 1) (fld w 8 2) (fld w 4 4))
  | 0x4#4 => some (.kand (fld w 22 2) (fld w 19 2) (fld w 15 2))
  | 0x5#4 => some (.kor (fld w 22 2) (fld w 19 2) (fld w 15 2))
  | 0x6#4 => some (.kxor (fld w 22 2) (fld w 19 2) (fld w 15 2))
  | 0x7#4 => some (.knot (fld w 22 2) (fld w 19 2))
  | _ => none

/-- The words of major opcode 0x21 (R51, R111). -/
def parseMO21 (w : BitVec 32) : Option Instr :=
  match fld w 0 4 with
  | 0x0#4 => some (.vperm (fld w 22 3) (fld w 19 3) (fld w 18 1) (fld w 15 3) (fld w 14 1) (fld w 8 2) (fld w 4 4))
  | 0x1#4 => some (.vbcast (fld w 22 3) (fld w 19 3) (fld w 18 1) (fld w 15 3) (fld w 14 1) (fld w 8 2) (fld w 4 4))
  | 0x2#4 => some (.vrev (fld w 22 3) (fld w 19 3) (fld w 18 1) (fld w 8 2) (fld w 4 4))
  | 0x3#4 => some (.vzipl (fld w 22 3) (fld w 19 3) (fld w 18 1) (fld w 15 3) (fld w 14 1) (fld w 8 2) (fld w 4 4))
  | 0x4#4 => some (.vziph (fld w 22 3) (fld w 19 3) (fld w 18 1) (fld w 15 3) (fld w 14 1) (fld w 8 2) (fld w 4 4))
  | 0x5#4 => some (.vuzpe (fld w 22 3) (fld w 19 3) (fld w 18 1) (fld w 15 3) (fld w 14 1) (fld w 8 2) (fld w 4 4))
  | 0x6#4 => some (.vuzpo (fld w 22 3) (fld w 19 3) (fld w 18 1) (fld w 15 3) (fld w 14 1) (fld w 8 2) (fld w 4 4))
  | _ => none

/-- The words of major opcode 0x22 (R51, R112). -/
def parseMO22 (w : BitVec 32) : Option Instr :=
  match fld w 0 4 with
  | 0x0#4 => some (.vrsum (fld w 22 3) (fld w 19 3) (fld w 18 1) (fld w 8 2) (fld w 4 4))
  | 0x1#4 => some (.vrmin (fld w 22 3) (fld w 19 3) (fld w 18 1) (fld w 8 2) (fld w 4 4))
  | 0x2#4 => some (.vrmax (fld w 22 3) (fld w 19 3) (fld w 18 1) (fld w 8 2) (fld w 4 4))
  | 0x3#4 => some (.vrand (fld w 22 3) (fld w 19 3) (fld w 18 1) (fld w 8 2) (fld w 4 4))
  | 0x4#4 => some (.vror (fld w 22 3) (fld w 19 3) (fld w 18 1) (fld w 8 2) (fld w 4 4))
  | 0x5#4 => some (.vrxor (fld w 22 3) (fld w 19 3) (fld w 18 1) (fld w 8 2) (fld w 4 4))
  | _ => none

/-- The words of major opcode 0x23 (R51, R104, R105). -/
def parseMO23 (w : BitVec 32) : Option Instr :=
  match fld w 21 4 with
  | 0x0#4 => some (.vmovOV (fld w 16 5) (fld w 13 3))
  | 0x1#4 => some (.vmovVO (fld w 16 5) (fld w 13 3) (fld w 12 1))
  | 0x2#4 => some (.vmovOport (fld w 16 5) (fld w 13 3) (fld w 11 1))
  | 0x3#4 => some (.vmovPorto (fld w 16 5) (fld w 13 3) (fld w 12 1))
  | 0x4#4 => some (.vmovOO (fld w 16 3) (fld w 13 3) (fld w 12 1))
  | 0x5#4 => some (.vsplat (fld w 16 5) (fld w 13 3) (fld w 2 4))
  | 0x6#4 => some (.vext (fld w 16 5) (fld w 13 3) (fld w 12 1) (fld w 6 5) (fld w 2 4))
  | 0x7#4 => some (.vins (fld w 16 5) (fld w 13 3) (fld w 6 5) (fld w 2 4))
  | 0x8#4 => some (.kmovKG (fld w 16 5) (fld w 13 2))
  | 0x9#4 => some (.kmovGK (fld w 16 5) (fld w 13 2))
  | _ => none

/-- The words of major opcode 0x24 (R51, R113). -/
def parseMO24 (w : BitVec 32) : Option Instr :=
  match fld w 0 4 with
  | 0x0#4 => some (.vexp2 (fld w 22 3) (fld w 19 3) (fld w 18 1) (fld w 8 2) (fld w 4 4))
  | 0x1#4 => some (.vlog2 (fld w 22 3) (fld w 19 3) (fld w 18 1) (fld w 8 2) (fld w 4 4))
  | 0x2#4 => some (.vrcp (fld w 22 3) (fld w 19 3) (fld w 18 1) (fld w 8 2) (fld w 4 4))
  | 0x3#4 => some (.vrsq (fld w 22 3) (fld w 19 3) (fld w 18 1) (fld w 8 2) (fld w 4 4))
  | 0x4#4 => some (.vsinpi (fld w 22 3) (fld w 19 3) (fld w 18 1) (fld w 8 2) (fld w 4 4))
  | 0x5#4 => some (.vcospi (fld w 22 3) (fld w 19 3) (fld w 18 1) (fld w 8 2) (fld w 4 4))
  | _ => none

/-- The words of major opcode 0x25 (R51, R119, R120, R121). -/
def parseMO25 (w : BitVec 32) : Option Instr :=
  match fld w 22 3 with
  | 0x0#3 => some (.dtld (fld w 13 5) (fld w 12 1) (fld w 0 8))
  | 0x1#3 => some (.vdec (fld w 19 3) (fld w 15 3) (fld w 14 1) (fld w 12 1) (fld w 9 3) (fld w 7 2))
  | 0x2#3 => some (.venc (fld w 19 3) (fld w 15 3) (fld w 14 1) (fld w 12 1) (fld w 9 3) (fld w 7 2))
  | 0x3#3 => some (.bld (fld w 19 3) (fld w 13 5) (fld w 12 1) (fld w 10 2) (fld w 0 8))
  | 0x4#3 => some (.bst (fld w 19 3) (fld w 18 1) (fld w 13 5) (fld w 12 1) (fld w 10 2) (fld w 0 8))
  | _ => none

/-- The words of major opcode 0x26 (R51, R117). -/
def parseMO26 (w : BitVec 32) : Option Instr :=
  match fld w 22 3 with
  | 0x0#3 => some (.twld (fld w 19 3) (fld w 15 3) (fld w 10 5))
  | 0x1#3 => some (.twst (fld w 19 3) (fld w 18 1) (fld w 15 3) (fld w 10 5))
  | _ => none

/-- The words of major opcode 0x27 (R51, R130, R131, R132, R133, R135, R136). -/
def parseMO27 (w : BitVec 32) : Option Instr :=
  match fld w 21 4 with
  | 0x0#4 => some (.qclaim (fld w 18 3))
  | 0x1#4 => some (.qtry (fld w 18 3) (fld w 13 5))
  | 0x2#4 => some (.qrel (fld w 18 3))
  | 0x3#4 => some (.qld (fld w 18 3) (fld w 13 5) (fld w 11 2) (fld w 10 1))
  | 0x4#4 => some (.qput (fld w 18 3) (fld w 13 5) (fld w 10 3) (fld w 9 1))
  | 0x5#4 => some (.qget (fld w 18 3) (fld w 13 5) (fld w 10 3))
  | 0x6#4 => some (.qlnk (fld w 18 3) (fld w 16 2) (fld w 15 1) (fld w 14 1))
  | 0x7#4 => some (.mma (fld w 18 3) (fld w 15 3) (fld w 13 2) (fld w 12 1) (fld w 0 8))
  | 0x8#4 =>
      match fld w 14 1 with
      | 0x0#1 => some (.accld (fld w 18 3) (fld w 16 1) (fld w 15 1) (fld w 7 7) (fld w 0 7))
      | 0x1#1 => some (.accldReg (fld w 18 3) (fld w 16 1) (fld w 15 1) (fld w 9 5) (fld w 4 5))
  | 0x9#4 =>
      match fld w 14 1 with
      | 0x0#1 => some (.accst (fld w 18 3) (fld w 17 1) (fld w 16 1) (fld w 15 1) (fld w 7 7) (fld w 0 7))
      | 0x1#1 => some (.accstReg (fld w 18 3) (fld w 17 1) (fld w 16 1) (fld w 15 1) (fld w 9 5) (fld w 4 5))
  | 0xa#4 => some (.acczero (fld w 13 2))
  | 0xb#4 => some (.mxcmd (fld w 18 3) (fld w 15 3) (fld w 13 2) (fld w 12 1) (fld w 0 8))
  | _ => none

/-- The words of major opcode 0x28 (R51, R143, R146). -/
def parseMO28 (w : BitVec 32) : Option Instr :=
  match fld w 22 3 with
  | 0x0#3 => some (.dxld (fld w 21 1) (fld w 11 5) (fld w 0 10))
  | 0x1#3 => some (.dxrun (fld w 21 1) (fld w 16 5) (fld w 11 5) (fld w 10 1))
  | _ => none

/-- The words of major opcode 0x29 (R51, R291). -/
def parseMO29 (w : BitVec 32) : Option Instr :=
  match fld w 22 3 with
  | 0x0#3 => some (.abegin (fld w 17 5) (fld w 12 5) (fld w 0 8))
  | 0x1#3 => some (.ajoin (fld w 17 5))
  | 0x2#3 => some (.apitch (fld w 17 5) (fld w 12 5) (fld w 0 8))
  | 0x3#3 => some (.asummit (fld w 17 5) (fld w 0 8))
  | 0x4#3 => some (.aretreat (fld w 17 5) (fld w 0 8))
  | 0x5#3 => some (.aresume (fld w 17 5) (fld w 8 2) (fld w 0 8))
  | 0x6#3 => some (.astat (fld w 17 5) (fld w 0 8))
  | _ => none

/-- The words of major opcode 0x2A (R51, R312, R313, R314, R316, R317, R318, R319). -/
def parseMO2A (w : BitVec 32) : Option Instr :=
  match fld w 20 5 with
  | 0x0#5 => some (.imgld (fld w 15 5) (fld w 10 5) (fld w 0 10))
  | 0x1#5 => some (.imgrev (fld w 15 5))
  | 0x2#5 => some (.hset (fld w 15 5) (fld w 0 10))
  | 0x3#5 => some (.pset (fld w 15 5) (fld w 10 5) (fld w 0 10))
  | 0x4#5 => some (.winw (fld w 15 5) (fld w 10 5) (fld w 0 10))
  | 0x5#5 => some (.keyset (fld w 15 5) (fld w 0 10))
  | 0x6#5 => some (.lease (fld w 15 5) (fld w 10 5))
  | 0x7#5 => some (.imgev (fld w 10 5) (fld w 0 10))
  | _ => none

/-- The words of major opcode 0x2B (R51, R343). -/
def parseMO2B (w : BitVec 32) : Option Instr :=
  match fld w 20 5 with
  | 0x0#5 => some (.dmark (fld w 15 5) (fld w 0 10))
  | 0x1#5 => some (.wpset (fld w 15 5) (fld w 10 5) (fld w 0 10))
  | 0x2#5 => some (.wpclr (fld w 0 10))
  | 0x3#5 => some (.bpset (fld w 15 5) (fld w 0 10))
  | 0x4#5 => some (.dgrp (fld w 15 5))
  | 0x5#5 => some (.dstop)
  | 0x6#5 => some (.dstat (fld w 10 5) (fld w 0 10))
  | _ => none

/-- A 32-bit word by its major opcode W[30:25] (R44, R51), but for `cpy`'s. -/
def parse32 (w : BitVec 32) : Option Instr :=
  match fld w 25 6 with
  | 0x00#6 => parseMO00 w
  | 0x01#6 => parseMO01 w
  | 0x02#6 => parseMO02 w
  | 0x03#6 => parseMO03 w
  | 0x04#6 => parseMO04 w
  | 0x05#6 => parseMO05 w
  | 0x06#6 => parseMO06 w
  | 0x07#6 => parseMO07 w
  | 0x08#6 => parseMO08 w
  | 0x09#6 => parseMO09 w
  | 0x0a#6 => parseMO0A w
  | 0x0b#6 => parseMO0B w
  | 0x0c#6 => parseMO0C w
  | 0x0d#6 => parseMO0D w
  | 0x0e#6 => parseMO0E w
  | 0x0f#6 => parseMO0F w
  | 0x10#6 => parseMO10 w
  | 0x11#6 => parseMO11 w
  | 0x12#6 => parseMO12 w
  | 0x13#6 => parseMO13 w
  | 0x14#6 => parseMO14 w
  | 0x15#6 => parseMO15 w
  | 0x16#6 => parseMO16 w
  | 0x17#6 => parseMO17 w
  | 0x18#6 => parseMO18 w
  | 0x19#6 => parseMO19 w
  | 0x1a#6 => parseMO1A w
  | 0x1b#6 => parseMO1B w
  | 0x1c#6 => parseMO1C w
  | 0x1d#6 => parseMO1D w
  | 0x1e#6 => parseMO1E w
  | 0x1f#6 => parseMO1F w
  | 0x20#6 => parseMO20 w
  | 0x21#6 => parseMO21 w
  | 0x22#6 => parseMO22 w
  | 0x23#6 => parseMO23 w
  | 0x24#6 => parseMO24 w
  | 0x25#6 => parseMO25 w
  | 0x26#6 => parseMO26 w
  | 0x27#6 => parseMO27 w
  | 0x28#6 => parseMO28 w
  | 0x29#6 => parseMO29 w
  | 0x2a#6 => parseMO2A w
  | 0x2b#6 => parseMO2B w
  | _ => none

/-- A 16-bit halfword by its op4 H[14:11] (R53). -/
def parse16 (w : BitVec 16) : Option Instr :=
  match fld w 11 4 with
  | 0x0#4 => some (.cMv (fld w 6 5) (fld w 1 5))
  | 0x1#4 => some (.cAddi (fld w 6 5) (fld w 0 6))
  | 0x2#4 => some (.cLdd (fld w 6 5) (fld w 3 3) (fld w 0 3))
  | 0x3#4 => some (.cStd (fld w 6 5) (fld w 3 3) (fld w 0 3))
  | 0x4#4 => some (.cBeqz (fld w 6 5) (fld w 0 6))
  | 0x5#4 => some (.cBnez (fld w 6 5) (fld w 0 6))
  | 0x6#4 => some (.cJ (fld w 0 11))
  | 0x7#4 => some (.cAdd (fld w 6 5) (fld w 1 5))
  | 0x8#4 => some (.cSub (fld w 6 5) (fld w 1 5))
  | 0x9#4 => some (.cSlli (fld w 6 5) (fld w 0 6))
  | 0xa#4 =>
      match fld w 10 1 with
      | 0x0#1 => some (.cVmovOV (fld w 7 3) (fld w 2 5))
      | 0x1#1 => some (.cVmovVO (fld w 7 3) (fld w 2 5) (fld w 1 1))
  | 0xb#4 =>
      match fld w 8 3 with
      | 0x0#3 => some (.cNop)
      | 0x1#3 => some (.cEnd)
      | 0x2#3 => some (.cBrk)
      | _ => none
  | 0xc#4 => some (.cLi (fld w 6 5) (fld w 0 6))
  | _ => none

/-- The bits of an instruction, from the field layouts of R48, R53 and the owning chapters. -/
def encode (i : Instr) : Encoding :=
  match i with
  | .add d a b => .word (pack32 (0b1000000#7 ++ d ++ a ++ b ++ 0b0000000000#10))
  | .sub d a b => .word (pack32 (0b1000000#7 ++ d ++ a ++ b ++ 0b0000000001#10))
  | .and d a b => .word (pack32 (0b1000000#7 ++ d ++ a ++ b ++ 0b0000000010#10))
  | .or d a b => .word (pack32 (0b1000000#7 ++ d ++ a ++ b ++ 0b0000000011#10))
  | .xor d a b => .word (pack32 (0b1000000#7 ++ d ++ a ++ b ++ 0b0000000100#10))
  | .andn d a b => .word (pack32 (0b1000000#7 ++ d ++ a ++ b ++ 0b0000000101#10))
  | .sll d a b => .word (pack32 (0b1000000#7 ++ d ++ a ++ b ++ 0b0000000110#10))
  | .srl d a b => .word (pack32 (0b1000000#7 ++ d ++ a ++ b ++ 0b0000000111#10))
  | .sra d a b => .word (pack32 (0b1000000#7 ++ d ++ a ++ b ++ 0b0000001000#10))
  | .ror d a b => .word (pack32 (0b1000000#7 ++ d ++ a ++ b ++ 0b0000001001#10))
  | .slt d a b => .word (pack32 (0b1000000#7 ++ d ++ a ++ b ++ 0b0000001010#10))
  | .sltu d a b => .word (pack32 (0b1000000#7 ++ d ++ a ++ b ++ 0b0000001011#10))
  | .min d a b => .word (pack32 (0b1000000#7 ++ d ++ a ++ b ++ 0b0000001100#10))
  | .max d a b => .word (pack32 (0b1000000#7 ++ d ++ a ++ b ++ 0b0000001101#10))
  | .minu d a b => .word (pack32 (0b1000000#7 ++ d ++ a ++ b ++ 0b0000001110#10))
  | .maxu d a b => .word (pack32 (0b1000000#7 ++ d ++ a ++ b ++ 0b0000001111#10))
  | .mul d a b => .word (pack32 (0b1000000#7 ++ d ++ a ++ b ++ 0b0000010000#10))
  | .mhi d a b => .word (pack32 (0b1000000#7 ++ d ++ a ++ b ++ 0b0000010001#10))
  | .mhiu d a b => .word (pack32 (0b1000000#7 ++ d ++ a ++ b ++ 0b0000010010#10))
  | .mhisu d a b => .word (pack32 (0b1000000#7 ++ d ++ a ++ b ++ 0b0000010011#10))
  | .div d a b => .word (pack32 (0b1000000#7 ++ d ++ a ++ b ++ 0b0000010100#10))
  | .divu d a b => .word (pack32 (0b1000000#7 ++ d ++ a ++ b ++ 0b0000010101#10))
  | .rem d a b => .word (pack32 (0b1000000#7 ++ d ++ a ++ b ++ 0b0000010110#10))
  | .remu d a b => .word (pack32 (0b1000000#7 ++ d ++ a ++ b ++ 0b0000010111#10))
  | .clz d a => .word (pack32 (0b1000000#7 ++ d ++ a ++ 0b000000000011000#15))
  | .ctz d a => .word (pack32 (0b1000000#7 ++ d ++ a ++ 0b000000000011001#15))
  | .popc d a => .word (pack32 (0b1000000#7 ++ d ++ a ++ 0b000000000011010#15))
  | .bswap d a => .word (pack32 (0b1000000#7 ++ d ++ a ++ 0b000000000011011#15))
  | .sxw d a => .word (pack32 (0b1000000#7 ++ d ++ a ++ 0b000000000011100#15))
  | .zxw d a => .word (pack32 (0b1000000#7 ++ d ++ a ++ 0b000000000011101#15))
  | .addi d a i => .word (pack32 (0b1000001#7 ++ d ++ a ++ i))
  | .andi d a i => .word (pack32 (0b1000010#7 ++ d ++ a ++ i))
  | .ori d a i => .word (pack32 (0b1000011#7 ++ d ++ a ++ i))
  | .xori d a i => .word (pack32 (0b1000100#7 ++ d ++ a ++ i))
  | .slli d a s => .word (pack32 (0b1000101#7 ++ d ++ a ++ 0b000000000#9 ++ s))
  | .srli d a s => .word (pack32 (0b1000101#7 ++ d ++ a ++ 0b010000000#9 ++ s))
  | .srai d a s => .word (pack32 (0b1000101#7 ++ d ++ a ++ 0b100000000#9 ++ s))
  | .rori d a s => .word (pack32 (0b1000101#7 ++ d ++ a ++ 0b110000000#9 ++ s))
  | .slti d a i => .word (pack32 (0b1000110#7 ++ d ++ a ++ 0b0#1 ++ i))
  | .sltiu d a i => .word (pack32 (0b1000110#7 ++ d ++ a ++ 0b1#1 ++ i))
  | .li d i => .word (pack32 (0b1000111#7 ++ d ++ 0b0#1 ++ i))
  | .lih d p i => .word (pack32 (0b1000111#7 ++ d ++ 0b10#2 ++ p ++ i))
  | .ldb d b o => .word (pack32 (0b1001000#7 ++ d ++ b ++ 0b000#3 ++ o))
  | .ldh d b o => .word (pack32 (0b1001000#7 ++ d ++ b ++ 0b001#3 ++ o))
  | .ldw d b o => .word (pack32 (0b1001000#7 ++ d ++ b ++ 0b010#3 ++ o))
  | .ldd d b o => .word (pack32 (0b1001000#7 ++ d ++ b ++ 0b011#3 ++ o))
  | .ldbu d b o => .word (pack32 (0b1001000#7 ++ d ++ b ++ 0b100#3 ++ o))
  | .ldhu d b o => .word (pack32 (0b1001000#7 ++ d ++ b ++ 0b101#3 ++ o))
  | .ldwu d b o => .word (pack32 (0b1001000#7 ++ d ++ b ++ 0b110#3 ++ o))
  | .stb d b o => .word (pack32 (0b1001001#7 ++ d ++ b ++ 0b000#3 ++ o))
  | .sth d b o => .word (pack32 (0b1001001#7 ++ d ++ b ++ 0b001#3 ++ o))
  | .stw d b o => .word (pack32 (0b1001001#7 ++ d ++ b ++ 0b010#3 ++ o))
  | .std d b o => .word (pack32 (0b1001001#7 ++ d ++ b ++ 0b011#3 ++ o))
  | .vld d b o => .word (pack32 (0b1001010#7 ++ d ++ b ++ 0b000#3 ++ o))
  | .vldh d b o => .word (pack32 (0b1001010#7 ++ d ++ b ++ 0b001#3 ++ o))
  | .vst d b o => .word (pack32 (0b1001010#7 ++ d ++ b ++ 0b010#3 ++ o))
  | .vsth d b o => .word (pack32 (0b1001010#7 ++ d ++ b ++ 0b011#3 ++ o))
  | .ldp d b o => .word (pack32 (0b1001011#7 ++ d ++ b ++ 0b000#3 ++ o))
  | .stp d b o => .word (pack32 (0b1001011#7 ++ d ++ b ++ 0b001#3 ++ o))
  | .beq a b o => .word (pack32 (0b1001100000#10 ++ a ++ b ++ o))
  | .bne a b o => .word (pack32 (0b1001100001#10 ++ a ++ b ++ o))
  | .blt a b o => .word (pack32 (0b1001100010#10 ++ a ++ b ++ o))
  | .bge a b o => .word (pack32 (0b1001100011#10 ++ a ++ b ++ o))
  | .bltu a b o => .word (pack32 (0b1001100100#10 ++ a ++ b ++ o))
  | .bgeu a b o => .word (pack32 (0b1001100101#10 ++ a ++ b ++ o))
  | .j o => .word (pack32 (0b10011010#8 ++ o))
  | .jal o => .word (pack32 (0b10011011#8 ++ o))
  | .jr a i => .word (pack32 (0b100111000000#12 ++ a ++ i))
  | .jalr a i => .word (pack32 (0b100111011111#12 ++ a ++ i))
  | .loop a l => .word (pack32 (0b10011110#8 ++ a ++ 0b0000000#7 ++ l))
  | .loopi c l => .word (pack32 (0b10011111#8 ++ c ++ l))
  | .trap i => .word (pack32 (0b1010000000110000000000#22 ++ i))
  | .crd d c => .word (pack32 (0b10100010000000000#17 ++ d ++ c))
  | .cwr a c => .word (pack32 (0b101000100001#12 ++ a ++ 0b00000#5 ++ c))
  | .cins a b c => .word (pack32 (0b101000100010#12 ++ a ++ b ++ c))
  | .cxch a d c => .word (pack32 (0b101000100011#12 ++ a ++ d ++ c))
  | .crdz d c => .word (pack32 (0b10100010010000000#17 ++ d ++ c))
  | .gld l s a b p c x => .word (pack32 (0b1010010#7 ++ l ++ s ++ 0b00#2 ++ a ++ b ++ p ++ c ++ x))
  | .gst l s a b p => .word (pack32 (0b1010011#7 ++ l ++ s ++ 0b00#2 ++ a ++ b ++ p ++ 0b000000000#9))
  | .put l p a b c => .word (pack32 (0b101010000#9 ++ l ++ p ++ a ++ b ++ c ++ 0b000000#6))
  | .putr l p a b c => .word (pack32 (0b101010001#9 ++ l ++ p ++ a ++ b ++ c ++ 0b000000#6))
  | .get l p a b c => .word (pack32 (0b101010010#9 ++ l ++ p ++ a ++ b ++ c ++ 0b000000#6))
  | .aadd r l p a b c => .word (pack32 (0b10101010000#11 ++ r ++ l ++ p ++ a ++ b ++ c))
  | .aand r l p a b c => .word (pack32 (0b10101010001#11 ++ r ++ l ++ p ++ a ++ b ++ c))
  | .aor r l p a b c => .word (pack32 (0b10101010010#11 ++ r ++ l ++ p ++ a ++ b ++ c))
  | .axor r l p a b c => .word (pack32 (0b10101010011#11 ++ r ++ l ++ p ++ a ++ b ++ c))
  | .amin r l p a b c => .word (pack32 (0b10101010100#11 ++ r ++ l ++ p ++ a ++ b ++ c))
  | .amax r l p a b c => .word (pack32 (0b10101010101#11 ++ r ++ l ++ p ++ a ++ b ++ c))
  | .aminu r l p a b c => .word (pack32 (0b10101010110#11 ++ r ++ l ++ p ++ a ++ b ++ c))
  | .amaxu r l p a b c => .word (pack32 (0b10101010111#11 ++ r ++ l ++ p ++ a ++ b ++ c))
  | .aswap r l p a b c => .word (pack32 (0b10101011000#11 ++ r ++ l ++ p ++ a ++ b ++ c))
  | .acas r l p a b c => .word (pack32 (0b10101011001#11 ++ r ++ l ++ p ++ a ++ b ++ c))
  | .afadd r l p a b c => .word (pack32 (0b10101011010#11 ++ r ++ l ++ p ++ a ++ b ++ c))
  | .send l a v n c => .word (pack32 (0b101011000#9 ++ l ++ a ++ v ++ n ++ c))
  | .sendp l a v n c => .word (pack32 (0b101011001#9 ++ l ++ a ++ v ++ n ++ c))
  | .sendm l a v n c => .word (pack32 (0b101011010#9 ++ l ++ a ++ v ++ n ++ c))
  | .reply l a v n c => .word (pack32 (0b101011011#9 ++ l ++ a ++ v ++ n ++ c))
  | .chmask c => .word (pack32 (0b101011100000000000000000#24 ++ c))
  | .chunmask c => .word (pack32 (0b101011100010000000000000#24 ++ c))
  | .chtas d c => .word (pack32 (0b10101110010000000#17 ++ d ++ 0b00#2 ++ c))
  | .jdec l a n => .word (pack32 (0b10101110011#11 ++ l ++ a ++ 0b0000000#7 ++ n))
  | .barm b c => .word (pack32 (0b10101110100000000#17 ++ b ++ 0b00#2 ++ c))
  | .bdis c => .word (pack32 (0b101011101010000000000000#24 ++ c))
  | .lwin p n => .word (pack32 (0b1011000000#10 ++ p ++ 0b0000000000000000#16 ++ n))
  | .lstat p d => .word (pack32 (0b1011000001#10 ++ p ++ d ++ 0b000000000000000#15))
  | .sbind s t => .word (pack32 (0b1011001000#10 ++ s ++ t ++ 0b0000000000000000#16))
  | .sdrop s => .word (pack32 (0b1011001001#10 ++ s ++ 0b0000000000000000000#19))
  | .sstat s d => .word (pack32 (0b1011001010#10 ++ s ++ 0b000#3 ++ d ++ 0b00000000000#11))
  | .tmld t a o => .word (pack32 (0b1011010#7 ++ t ++ a ++ 0b00000#5 ++ o))
  | .tmbase t a => .word (pack32 (0b1011010#7 ++ t ++ a ++ 0b00001000000000000#17))
  | .tmcnt t a d => .word (pack32 (0b1011010#7 ++ t ++ a ++ d ++ 0b010000000000000#15))
  | .chk r => .word (pack32 (0b1011011000#10 ++ r ++ 0b000000000000#12))
  | .chke r => .word (pack32 (0b1011011001#10 ++ r ++ 0b000000000000#12))
  | .chkg a => .word (pack32 (0b10110110100000000000#20 ++ a ++ 0b0000000#7))
  | .vadd d a l b m k t => .word (pack32 (0b1011100#7 ++ d ++ a ++ l ++ b ++ m ++ 0b0000#4 ++ k ++ t ++ 0b0000#4))
  | .vsub d a l b m k t => .word (pack32 (0b1011100#7 ++ d ++ a ++ l ++ b ++ m ++ 0b0000#4 ++ k ++ t ++ 0b0001#4))
  | .vmul d a l b m k t => .word (pack32 (0b1011100#7 ++ d ++ a ++ l ++ b ++ m ++ 0b0000#4 ++ k ++ t ++ 0b0010#4))
  | .vdiv d a l b m k t => .word (pack32 (0b1011100#7 ++ d ++ a ++ l ++ b ++ m ++ 0b0000#4 ++ k ++ t ++ 0b0011#4))
  | .vsqrt d a l k t => .word (pack32 (0b1011100#7 ++ d ++ a ++ l ++ 0b00000000#8 ++ k ++ t ++ 0b0100#4))
  | .vfma d a l b m c n k t => .word (pack32 (0b1011100#7 ++ d ++ a ++ l ++ b ++ m ++ c ++ n ++ k ++ t ++ 0b0101#4))
  | .vfms d a l b m c n k t => .word (pack32 (0b1011100#7 ++ d ++ a ++ l ++ b ++ m ++ c ++ n ++ k ++ t ++ 0b0110#4))
  | .vfnma d a l b m c n k t => .word (pack32 (0b1011100#7 ++ d ++ a ++ l ++ b ++ m ++ c ++ n ++ k ++ t ++ 0b0111#4))
  | .vmin d a l b m k t => .word (pack32 (0b1011100#7 ++ d ++ a ++ l ++ b ++ m ++ 0b0000#4 ++ k ++ t ++ 0b1000#4))
  | .vmax d a l b m k t => .word (pack32 (0b1011100#7 ++ d ++ a ++ l ++ b ++ m ++ 0b0000#4 ++ k ++ t ++ 0b1001#4))
  | .vabs d a l k t => .word (pack32 (0b1011100#7 ++ d ++ a ++ l ++ 0b00000000#8 ++ k ++ t ++ 0b1010#4))
  | .vneg d a l k t => .word (pack32 (0b1011100#7 ++ d ++ a ++ l ++ 0b00000000#8 ++ k ++ t ++ 0b1011#4))
  | .vfeq e a l b m k t => .word (pack32 (0b10111010#8 ++ e ++ a ++ l ++ b ++ m ++ 0b0000#4 ++ k ++ t ++ 0b0000#4))
  | .vflt e a l b m k t => .word (pack32 (0b10111010#8 ++ e ++ a ++ l ++ b ++ m ++ 0b0000#4 ++ k ++ t ++ 0b0001#4))
  | .vfle e a l b m k t => .word (pack32 (0b10111010#8 ++ e ++ a ++ l ++ b ++ m ++ 0b0000#4 ++ k ++ t ++ 0b0010#4))
  | .vfclass d a l k t => .word (pack32 (0b1011101#7 ++ d ++ a ++ l ++ 0b00000000#8 ++ k ++ t ++ 0b0011#4))
  | .vcvt d a l s k t => .word (pack32 (0b1011110#7 ++ d ++ a ++ l ++ 0b0000#4 ++ s ++ k ++ t ++ 0b0000#4))
  | .vcvtl d a l s k t => .word (pack32 (0b1011110#7 ++ d ++ a ++ l ++ 0b0000#4 ++ s ++ k ++ t ++ 0b0001#4))
  | .vcvth d a l s k t => .word (pack32 (0b1011110#7 ++ d ++ a ++ l ++ 0b0000#4 ++ s ++ k ++ t ++ 0b0010#4))
  | .vcvtn d a l b m s k t => .word (pack32 (0b1011110#7 ++ d ++ a ++ l ++ b ++ m ++ s ++ k ++ t ++ 0b0011#4))
  | .vaddInt d a l b m k t => .word (pack32 (0b1011111#7 ++ d ++ a ++ l ++ b ++ m ++ 0b0000#4 ++ k ++ t ++ 0b0000#4))
  | .vsubInt d a l b m k t => .word (pack32 (0b1011111#7 ++ d ++ a ++ l ++ b ++ m ++ 0b0000#4 ++ k ++ t ++ 0b0001#4))
  | .vmulInt d a l b m k t => .word (pack32 (0b1011111#7 ++ d ++ a ++ l ++ b ++ m ++ 0b0000#4 ++ k ++ t ++ 0b0010#4))
  | .vmulh d a l b m k t => .word (pack32 (0b1011111#7 ++ d ++ a ++ l ++ b ++ m ++ 0b0000#4 ++ k ++ t ++ 0b0011#4))
  | .vand d a l b m k t => .word (pack32 (0b1011111#7 ++ d ++ a ++ l ++ b ++ m ++ 0b0000#4 ++ k ++ t ++ 0b0100#4))
  | .vor d a l b m k t => .word (pack32 (0b1011111#7 ++ d ++ a ++ l ++ b ++ m ++ 0b0000#4 ++ k ++ t ++ 0b0101#4))
  | .vxor d a l b m k t => .word (pack32 (0b1011111#7 ++ d ++ a ++ l ++ b ++ m ++ 0b0000#4 ++ k ++ t ++ 0b0110#4))
  | .vsll d a l b m k t => .word (pack32 (0b1011111#7 ++ d ++ a ++ l ++ b ++ m ++ 0b0000#4 ++ k ++ t ++ 0b0111#4))
  | .vsrl d a l b m k t => .word (pack32 (0b1011111#7 ++ d ++ a ++ l ++ b ++ m ++ 0b0000#4 ++ k ++ t ++ 0b1000#4))
  | .vsra d a l b m k t => .word (pack32 (0b1011111#7 ++ d ++ a ++ l ++ b ++ m ++ 0b0000#4 ++ k ++ t ++ 0b1001#4))
  | .vminInt d a l b m k t => .word (pack32 (0b1011111#7 ++ d ++ a ++ l ++ b ++ m ++ 0b0000#4 ++ k ++ t ++ 0b1010#4))
  | .vmaxInt d a l b m k t => .word (pack32 (0b1011111#7 ++ d ++ a ++ l ++ b ++ m ++ 0b0000#4 ++ k ++ t ++ 0b1011#4))
  | .vadds d a l b m k t => .word (pack32 (0b1011111#7 ++ d ++ a ++ l ++ b ++ m ++ 0b0000#4 ++ k ++ t ++ 0b1100#4))
  | .vsubs d a l b m k t => .word (pack32 (0b1011111#7 ++ d ++ a ++ l ++ b ++ m ++ 0b0000#4 ++ k ++ t ++ 0b1101#4))
  | .vabsd d a l b m k t => .word (pack32 (0b1011111#7 ++ d ++ a ++ l ++ b ++ m ++ 0b0000#4 ++ k ++ t ++ 0b1110#4))
  | .vmadd d a l b m c n k t => .word (pack32 (0b1011111#7 ++ d ++ a ++ l ++ b ++ m ++ c ++ n ++ k ++ t ++ 0b1111#4))
  | .vceq e a l b m k t => .word (pack32 (0b11000000#8 ++ e ++ a ++ l ++ b ++ m ++ 0b0000#4 ++ k ++ t ++ 0b0000#4))
  | .vclt e a l b m k t => .word (pack32 (0b11000000#8 ++ e ++ a ++ l ++ b ++ m ++ 0b0000#4 ++ k ++ t ++ 0b0001#4))
  | .vcle e a l b m k t => .word (pack32 (0b11000000#8 ++ e ++ a ++ l ++ b ++ m ++ 0b0000#4 ++ k ++ t ++ 0b0010#4))
  | .vsel d a l b m k t => .word (pack32 (0b1100000#7 ++ d ++ a ++ l ++ b ++ m ++ 0b0000#4 ++ k ++ t ++ 0b0011#4))
  | .kand e g h => .word (pack32 (0b11000000#8 ++ e ++ 0b0#1 ++ g ++ 0b00#2 ++ h ++ 0b000000000000100#15))
  | .kor e g h => .word (pack32 (0b11000000#8 ++ e ++ 0b0#1 ++ g ++ 0b00#2 ++ h ++ 0b000000000000101#15))
  | .kxor e g h => .word (pack32 (0b11000000#8 ++ e ++ 0b0#1 ++ g ++ 0b00#2 ++ h ++ 0b000000000000110#15))
  | .knot e g => .word (pack32 (0b11000000#8 ++ e ++ 0b0#1 ++ g ++ 0b0000000000000000111#19))
  | .vperm d a l b m k t => .word (pack32 (0b1100001#7 ++ d ++ a ++ l ++ b ++ m ++ 0b0000#4 ++ k ++ t ++ 0b0000#4))
  | .vbcast d a l b m k t => .word (pack32 (0b1100001#7 ++ d ++ a ++ l ++ b ++ m ++ 0b0000#4 ++ k ++ t ++ 0b0001#4))
  | .vrev d a l k t => .word (pack32 (0b1100001#7 ++ d ++ a ++ l ++ 0b00000000#8 ++ k ++ t ++ 0b0010#4))
  | .vzipl d a l b m k t => .word (pack32 (0b1100001#7 ++ d ++ a ++ l ++ b ++ m ++ 0b0000#4 ++ k ++ t ++ 0b0011#4))
  | .vziph d a l b m k t => .word (pack32 (0b1100001#7 ++ d ++ a ++ l ++ b ++ m ++ 0b0000#4 ++ k ++ t ++ 0b0100#4))
  | .vuzpe d a l b m k t => .word (pack32 (0b1100001#7 ++ d ++ a ++ l ++ b ++ m ++ 0b0000#4 ++ k ++ t ++ 0b0101#4))
  | .vuzpo d a l b m k t => .word (pack32 (0b1100001#7 ++ d ++ a ++ l ++ b ++ m ++ 0b0000#4 ++ k ++ t ++ 0b0110#4))
  | .vrsum d a l k t => .word (pack32 (0b1100010#7 ++ d ++ a ++ l ++ 0b00000000#8 ++ k ++ t ++ 0b0000#4))
  | .vrmin d a l k t => .word (pack32 (0b1100010#7 ++ d ++ a ++ l ++ 0b00000000#8 ++ k ++ t ++ 0b0001#4))
  | .vrmax d a l k t => .word (pack32 (0b1100010#7 ++ d ++ a ++ l ++ 0b00000000#8 ++ k ++ t ++ 0b0010#4))
  | .vrand d a l k t => .word (pack32 (0b1100010#7 ++ d ++ a ++ l ++ 0b00000000#8 ++ k ++ t ++ 0b0011#4))
  | .vror d a l k t => .word (pack32 (0b1100010#7 ++ d ++ a ++ l ++ 0b00000000#8 ++ k ++ t ++ 0b0100#4))
  | .vrxor d a l k t => .word (pack32 (0b1100010#7 ++ d ++ a ++ l ++ 0b00000000#8 ++ k ++ t ++ 0b0101#4))
  | .vmovOV v o => .word (pack32 (0b11000110000#11 ++ v ++ o ++ 0b0000000000000#13))
  | .vmovVO v o l => .word (pack32 (0b11000110001#11 ++ v ++ o ++ l ++ 0b000000000000#12))
  | .vmovOport p o w => .word (pack32 (0b11000110010#11 ++ p ++ o ++ 0b0#1 ++ w ++ 0b00000000000#11))
  | .vmovPorto p o l => .word (pack32 (0b11000110011#11 ++ p ++ o ++ l ++ 0b000000000000#12))
  | .vmovOO m o l => .word (pack32 (0b1100011010000#13 ++ m ++ o ++ l ++ 0b000000000000#12))
  | .vsplat g o t => .word (pack32 (0b11000110101#11 ++ g ++ o ++ 0b0000000#7 ++ t ++ 0b00#2))
  | .vext g o l n t => .word (pack32 (0b11000110110#11 ++ g ++ o ++ l ++ 0b0#1 ++ n ++ t ++ 0b00#2))
  | .vins g o n t => .word (pack32 (0b11000110111#11 ++ g ++ o ++ 0b00#2 ++ n ++ t ++ 0b00#2))
  | .kmovKG g k => .word (pack32 (0b11000111000#11 ++ g ++ 0b0#1 ++ k ++ 0b0000000000000#13))
  | .kmovGK g k => .word (pack32 (0b11000111001#11 ++ g ++ 0b0#1 ++ k ++ 0b0000000000000#13))
  | .vexp2 d a l k t => .word (pack32 (0b1100100#7 ++ d ++ a ++ l ++ 0b00000000#8 ++ k ++ t ++ 0b0000#4))
  | .vlog2 d a l k t => .word (pack32 (0b1100100#7 ++ d ++ a ++ l ++ 0b00000000#8 ++ k ++ t ++ 0b0001#4))
  | .vrcp d a l k t => .word (pack32 (0b1100100#7 ++ d ++ a ++ l ++ 0b00000000#8 ++ k ++ t ++ 0b0010#4))
  | .vrsq d a l k t => .word (pack32 (0b1100100#7 ++ d ++ a ++ l ++ 0b00000000#8 ++ k ++ t ++ 0b0011#4))
  | .vsinpi d a l k t => .word (pack32 (0b1100100#7 ++ d ++ a ++ l ++ 0b00000000#8 ++ k ++ t ++ 0b0100#4))
  | .vcospi d a l k t => .word (pack32 (0b1100100#7 ++ d ++ a ++ l ++ 0b00000000#8 ++ k ++ t ++ 0b0101#4))
  | .dtld b s o => .word (pack32 (0b11001010000000#14 ++ b ++ s ++ 0b0000#4 ++ o))
  | .vdec d a l s q f => .word (pack32 (0b1100101001#10 ++ d ++ 0b0#1 ++ a ++ l ++ 0b0#1 ++ s ++ q ++ f ++ 0b0000000#7))
  | .venc d a l s q f => .word (pack32 (0b1100101010#10 ++ d ++ 0b0#1 ++ a ++ l ++ 0b0#1 ++ s ++ q ++ f ++ 0b0000000#7))
  | .bld d b s f o => .word (pack32 (0b1100101011#10 ++ d ++ 0b0#1 ++ b ++ s ++ f ++ 0b00#2 ++ o))
  | .bst a l b s f o => .word (pack32 (0b1100101100#10 ++ a ++ l ++ b ++ s ++ f ++ 0b00#2 ++ o))
  | .twld o t a => .word (pack32 (0b1100110000#10 ++ o ++ 0b0#1 ++ t ++ a ++ 0b0000000000#10))
  | .twst o l t a => .word (pack32 (0b1100110001#10 ++ o ++ l ++ t ++ a ++ 0b0000000000#10))
  | .qclaim q => .word (pack32 (0b11001110000#11 ++ q ++ 0b000000000000000000#18))
  | .qtry q d => .word (pack32 (0b11001110001#11 ++ q ++ d ++ 0b0000000000000#13))
  | .qrel q => .word (pack32 (0b11001110010#11 ++ q ++ 0b000000000000000000#18))
  | .qld q a f s => .word (pack32 (0b11001110011#11 ++ q ++ a ++ f ++ s ++ 0b0000000000#10))
  | .qput q a o l => .word (pack32 (0b11001110100#11 ++ q ++ a ++ o ++ l ++ 0b000000000#9))
  | .qget q a o => .word (pack32 (0b11001110101#11 ++ q ++ a ++ o ++ 0b0000000000#10))
  | .qlnk q p w s => .word (pack32 (0b11001110110#11 ++ q ++ p ++ w ++ s ++ 0b00000000000000#14))
  | .mma a b k h c => .word (pack32 (0b11001110111#11 ++ a ++ b ++ k ++ h ++ 0b0000#4 ++ c))
  | .accld o b v r c => .word (pack32 (0b11001111000#11 ++ o ++ 0b0#1 ++ b ++ v ++ 0b0#1 ++ r ++ c))
  | .accldReg o b v r c => .word (pack32 (0b11001111000#11 ++ o ++ 0b0#1 ++ b ++ v ++ 0b1#1 ++ r ++ c ++ 0b0000#4))
  | .accst o l b v r c => .word (pack32 (0b11001111001#11 ++ o ++ l ++ b ++ v ++ 0b0#1 ++ r ++ c))
  | .accstReg o l b v r c => .word (pack32 (0b11001111001#11 ++ o ++ l ++ b ++ v ++ 0b1#1 ++ r ++ c ++ 0b0000#4))
  | .acczero k => .word (pack32 (0b11001111010000000#17 ++ k ++ 0b0000000000000#13))
  | .mxcmd a b k h c => .word (pack32 (0b11001111011#11 ++ a ++ b ++ k ++ h ++ 0b0000#4 ++ c))
  | .dxld x a o => .word (pack32 (0b1101000000#10 ++ x ++ 0b00000#5 ++ a ++ 0b0#1 ++ o))
  | .dxrun x d a f => .word (pack32 (0b1101000001#10 ++ x ++ d ++ a ++ f ++ 0b0000000000#10))
  | .abegin a b c => .word (pack32 (0b1101001000#10 ++ a ++ b ++ 0b0000#4 ++ c))
  | .ajoin a => .word (pack32 (0b1101001001#10 ++ a ++ 0b00000000000000000#17))
  | .apitch a v c => .word (pack32 (0b1101001010#10 ++ a ++ v ++ 0b0000#4 ++ c))
  | .asummit a c => .word (pack32 (0b1101001011#10 ++ a ++ 0b000000000#9 ++ c))
  | .aretreat a c => .word (pack32 (0b1101001100#10 ++ a ++ 0b000000000#9 ++ c))
  | .aresume a x c => .word (pack32 (0b1101001101#10 ++ a ++ 0b0000000#7 ++ x ++ c))
  | .astat a c => .word (pack32 (0b1101001110#10 ++ a ++ 0b000000000#9 ++ c))
  | .imgld a d i => .word (pack32 (0b110101000000#12 ++ a ++ d ++ i))
  | .imgrev a => .word (pack32 (0b110101000001#12 ++ a ++ 0b000000000000000#15))
  | .hset a i => .word (pack32 (0b110101000010#12 ++ a ++ 0b00000#5 ++ i))
  | .pset a b i => .word (pack32 (0b110101000011#12 ++ a ++ b ++ i))
  | .winw a b i => .word (pack32 (0b110101000100#12 ++ a ++ b ++ i))
  | .keyset a i => .word (pack32 (0b110101000101#12 ++ a ++ 0b00000#5 ++ i))
  | .lease a b => .word (pack32 (0b110101000110#12 ++ a ++ b ++ 0b0000000000#10))
  | .imgev d i => .word (pack32 (0b11010100011100000#17 ++ d ++ i))
  | .dmark a i => .word (pack32 (0b110101100000#12 ++ a ++ 0b00000#5 ++ i))
  | .wpset a b i => .word (pack32 (0b110101100001#12 ++ a ++ b ++ i))
  | .wpclr i => .word (pack32 (0b1101011000100000000000#22 ++ i))
  | .bpset a i => .word (pack32 (0b110101100011#12 ++ a ++ 0b00000#5 ++ i))
  | .dgrp a => .word (pack32 (0b110101100100#12 ++ a ++ 0b000000000000000#15))
  | .dstat d i => .word (pack32 (0b11010110011000000#17 ++ d ++ i))
  | .cMv d a => .half (pack16 (0b00000#5 ++ d ++ a ++ 0b0#1))
  | .cAddi d i => .half (pack16 (0b00001#5 ++ d ++ i))
  | .cLdd d b o => .half (pack16 (0b00010#5 ++ d ++ b ++ o))
  | .cStd d b o => .half (pack16 (0b00011#5 ++ d ++ b ++ o))
  | .cBeqz a o => .half (pack16 (0b00100#5 ++ a ++ o))
  | .cBnez a o => .half (pack16 (0b00101#5 ++ a ++ o))
  | .cJ o => .half (pack16 (0b00110#5 ++ o))
  | .cAdd d b => .half (pack16 (0b00111#5 ++ d ++ b ++ 0b0#1))
  | .cSub d b => .half (pack16 (0b01000#5 ++ d ++ b ++ 0b0#1))
  | .cSlli d s => .half (pack16 (0b01001#5 ++ d ++ s))
  | .cVmovOV o v => .half (pack16 (0b010100#6 ++ o ++ v ++ 0b00#2))
  | .cVmovVO o v l => .half (pack16 (0b010101#6 ++ o ++ v ++ l ++ 0b0#1))
  | .cLi d i => .half (pack16 (0b01100#5 ++ d ++ i))
  | .cpy a b e o => .word (pack32 (0b1101100#7 ++ a ++ b ++ e ++ o))
  | .end_ => .word (pack32 (0b10100000000000000000000000000000#32))
  | .nop => .word (pack32 (0b10100000000100000000000000000000#32))
  | .brk => .word (pack32 (0b10100000001000000000000000000000#32))
  | .lend => .word (pack32 (0b10101110110000000000000000000000#32))
  | .dstop => .word (pack32 (0b11010110010100000000000000000000#32))
  | .cNop => .half (pack16 (0b0101100000000000#16))
  | .cEnd => .half (pack16 (0b0101100100000000#16))
  | .cBrk => .half (pack16 (0b0101101000000000#16))
  | .dxrunReadPhase => .event
  | .dxrunWritePhase => .event
  | .budget => .event
  | .dispatch => .event
  | .agePromotion => .event
  | .messageArrival => .event
  | .nack => .event
  | .settleAck => .event
  | .releaseSendLeave => .event
  | .spill => .event
  | .spillReturn => .event
  | .linkWordDelivery => .event
  | .linkCreditReturn => .event
  | .remoteLoad => .event
  | .remoteStore => .event
  | .remotePut => .event
  | .remotePutr => .event
  | .remoteGet => .event
  | .getLanding => .event
  | .getCompletion => .event
  | .remoteAtomic => .event
  | .remoteJdec => .event
  | .placementFaultRecord => .event
  | .resumeInstall => .event
  | .resumeRefuse => .event
  | .plbShootdown => .event
  | .shootdownAck => .event
  | .prgResponse => .event
  | .mmaCommandStart => .event
  | .mmaCommandComplete => .event
  | .ropeCommandArrival => .event
  | .ropeCommandTimeout => .event
  | .streamStripFetch => .event
  | .copyKick => .event
  | .copyCommandStart => .event
  | .copyCompletion => .event
  | .launchAccept => .event
  | .launchWake => .event
  | .launchVote => .event
  | .coalesceWindowClose => .event
  | .trapTriageHw => .event
  | .trapTriageHost => .event
  | .engineCompletion => .event
  | .doubleRecord => .event
  | .preempt => .event
  | .timeSliceQuantum => .event
  | .fingerprintCheckpoint => .event
  | .quarantine => .event
  | .engineSpareReplace => .event
  | .igtRevokeRequest => .event
  | .imgrevNotice => .event
  | .slideRegion => .event
  | .anchorPush => .event
  | .anchorStamp => .event
  | .stampReturn => .event
  | .ascentBeginReq => .event
  | .ascentSummitReq => .event
  | .ascentRetreatReq => .event
  | .ascentResumeReq => .event
  | .ascentStatReq => .event
  | .ascentLifetime => .event
  | .anchorSend => .event
  | .endNotice => .event
  | .failureNotice => .event
  | .rescueRelay => .event
  | .collectiveCommand => .event
  | .generationNotice => .event
  | .fabricForward => .event
  | .linkRetry => .event
  | .portWithdraw => .event
  | .moduleWithdraw => .event
  | .debugStop => .event
  | .coreStopped => .event
  | .debugStep => .event
  | .debugResume => .event
  | .hostLaunch => .event
  | .hostCall => .event
  | .stageImage => .event
  | .hostSlideRegion => .event
  | .hostCollective => .event
  | .readCounters => .event
  | .pfCommand => .event
  | .journalWindowWrite => .event
  | .hostMemoryAccess => .event
  | .getCertificate => .event
  | .challenge => .event
  | .getMeasurements => .event
  | .keyExchange => .event
  | .finish => .event
  | .coldReset => .event
  | .deviceReset => .event
  | .vfFlr => .event
  | .hotReset => .event
  | .confScrubTimeout => .event
  | .undefEncoding => .event
  | .fetchFailure => .event
  | .admission => .event
  | .wakeFailure => .event
  | .portRetrain => .event
  | .fabricLinkUp => .event
  | .ideKeyManagement => .event
  | .recordReplayMode => .event
  | .powerLimitWindow => .event

/-- What a word is: `cpy` with its fields, or any other instruction. (Lean compiles no constructor with fields of a number as high as `cpy`'s has; this
type lets the machine run all the same.) -/
inductive Decoded where
  | copy (a b e : BitVec 5) (o : BitVec 10)
  | insn (i : Instr)
  deriving DecidableEq, Repr

/-- The instruction that a decoded word is. -/
noncomputable def Decoded.instr : Decoded → Instr
  | .copy a b e o => .cpy a b e o
  | .insn i => i

/-- Decoding one 32-bit word (R57): what it is, or why it is no instruction. Every word of major opcode 0x2C is a `cpy` (R229). -/
def decodeParts (w : BitVec 32) : Except DecodeError Decoded :=
  if fld w 25 7 = 0x6C#7 then .ok (.copy (fld w 20 5) (fld w 15 5) (fld w 10 5) (fld w 0 10))
  else match parse32 w with
    | none => .error .unassigned
    | some i => if encode i = .word w then (if i.wf then .ok (.insn i) else .error .illegalField) else .error .reservedBit

/-- Decoding one 32-bit word (R57): its instruction, or why it is none. -/
noncomputable def decodeWord (w : BitVec 32) : Except DecodeError Instr := (decodeParts w).map Decoded.instr

/-- Decoding one 16-bit halfword (R53, R57). -/
def decodeHalf (h : BitVec 16) : Except DecodeError Instr :=
  match parse16 h with
  | none => .error .unassigned
  | some i => if encode i = .half h then (if i.wf then .ok i else .error .illegalField) else .error .reservedBit

/-- Whether the halfword at an instruction's address begins a 32-bit instruction (R44). -/
def isLong (h0 : BitVec 16) : Bool := h0.getLsbD 15

/-- The word W whose upper half is H0 and whose lower half is H1 (R44). -/
def joinHalves (h0 h1 : BitVec 16) : BitVec 32 := h0 ++ h1

/-- The bytes of an instruction in address order (R45): each halfword little-endian, H0 first. -/
def halfBytes (h : BitVec 16) : List Byte := [h.setWidth 8, (h >>> 8).setWidth 8]

/-- The halfword stored as two bytes, the first at the lower address (R45). -/
def halfOfBytes (b0 b1 : Byte) : BitVec 16 := b1 ++ b0

/-- The bytes an encoding occupies in instruction memory (R45). -/
def Encoding.bytes (e : Encoding) : List Byte :=
  match e with
  | .half h => halfBytes h
  | .word w => halfBytes (fld w 16 16) ++ halfBytes (fld w 0 16)
  | .event => []

/-- Decoding a stream of bytes (R44, R45): the instruction at its front and the bytes after it. -/
noncomputable def decode (bs : List Byte) : Except DecodeError (Instr × List Byte) :=
  match bs with
  | b0 :: b1 :: rest =>
    let h0 := halfOfBytes b0 b1
    if isLong h0 then
      match rest with
      | b2 :: b3 :: rest' => (decodeWord (joinHalves h0 (halfOfBytes b2 b3))).map fun i => (i, rest')
      | _ => .error .short
    else (decodeHalf h0).map fun i => (i, rest)
  | _ => .error .short

/-- The bytes, in address order, of an instruction whose bits are `w` as the opcode table numbers them: a row of 16 bits
is a halfword H; a row of 32 bits is the word W of R22, whose bits [31:16] are the FIRST halfword (R44). -/
def tableBytes (nbits w : Nat) : List Byte :=
  if nbits ≤ 16 then halfBytes (BitVec.ofNat 16 w)
  else (Encoding.word (BitVec.ofNat 32 w)).bytes

/-- The instruction the decoder reads from the word `w` of `nbits` bits of an opcode-table row. -/
noncomputable def decodeTableWord (nbits w : Nat) : Option Instr :=
  match decode (tableBytes nbits w) with
  | .ok (i, _) => some i
  | .error _ => none

end Sys2Proof
end

