-- ==== Sys2Proof/Machine/Control.lean ====
section
/-! DEFINITION. Control and control-register instructions (R30, R31, R96 to R99, R310). -/

namespace Sys2Proof.Machine

/-- The bits of an instruction as a number: the info of an UNDEF trap that it raises (R57). -/
def insnBits (i : Instr) : Word :=
  match encode i with
  | .word w => zext w
  | .half h => zext h
  | .event => 0

/-- Cycles of the core since dispatch, stalls included and held cycles not (R30 `acnt`, R341). -/
def State.acnt (s : State) : Word := s.here.cyc - s.act.t0 - s.act.heldFor

/-- Cycles of a held activation since its slot became held; holding begins with the cycle after the one that holds it (R341). -/
def Act.heldCycles (a : Act) (cyc : Word) : Word := if cyc.toNat < a.heldAt.toNat then 0 else cyc - a.heldAt

/-- BUDGET of an activation's entry. -/
def Act.budget (a : Act) : BitVec 16 := fld a.entry 32 16

/-- Cycles that count for the acting slot's budget: of a held slot those before it was held (R341). -/
def State.ran (s : State) : Word := s.acnt - if s.here.dbg.held = some s.slot then s.act.heldCycles s.here.cyc else 0

/-- The budget of the acting slot has run out with the activation still in its slot (R42); a paired run that waits for its twin spends it too (R256). -/
def State.spent (s : State) : Bool := s.act.busy && decide (s.act.budget.toNat * 64 ≤ s.ran.toNat)

/-- The number of matrix commands that had entered the queue when the acting slot's instruction issued: an instruction that waits holds it. -/
def State.mxBefore (s : State) : Nat :=
  match s.act.part with
  | .mx n => n
  | _ => s.here.mx.entered

/-- An instruction waits for the matrix commands that entered the queue before it issued (R124, R132). -/
def State.mxWait (s : State) : Effect := .wait (s.modAct fun a => { a with part := .mx s.mxBefore }) false

/-- A queued command that entered before the acting slot's instruction issued and that a condition selects. -/
def State.mxBlocks (s : State) (p : MxCmd → Bool) : Bool := s.here.mx.queue.any fun c => decide (c.no < s.mxBefore) && p c

/-- A control register read (R30, R93, R124, R165, R194, R232, R281, R310); `none` for an unassigned number. An engine core has no matrix unit (R221). -/
def State.csr (s : State) (c : Nat) : Option Word :=
  let a := s.act
  let r := s.here.regs
  match c with
  | 0x000 => some (zext a.csr.fflg)
  | 0x001 => some (zext a.csr.frm)
  | 0x002 => some (zext a.csr.fmt)
  | 0x003 => some (zext a.csr.scla)
  | 0x004 => some (zext a.csr.sclb)
  | 0x005 => some a.csr.tscl
  | 0x006 => some (zext a.csr.olive)
  | 0x007 => some (BitVec.ofNat 64 (s.slot.val + if s.classS then 4 else 0))
  | 0x008 => some (zext a.img.kslot)
  | 0x009 => some (zext (a.img.gen ++ a.img.id))
  | 0x00A => some a.aseq
  | 0x00B => some s.time
  | 0x00C => some s.acnt
  | 0x00D => some a.csr.lpcnt
  | 0x00E => some a.csr.lpbeg
  | 0x00F => some a.csr.lpend
  | 0x010 => some s.here.live.cnum
  | 0x011 => some s.here.live.lbase
  | 0x012 => some s.here.live.lcnt
  | 0x013 => some (zext s.here.live.lid)
  | 0x014 => some (zext r.gsa)
  | 0x015 => some (zext r.gsb)
  | 0x016 => some (zext a.csr.xid)
  | 0x017 => some a.csr.asid
  | 0x0E0 => some (boolWord r.audit)
  | 0x0E1 => some (zext r.lessee)
  | 0x0E2 => some (BitVec.ofNat 64 ((s.home.partOf s.at_) + if (s.partition s.at_).conf then 16 else 0))
  | 0x100 => if isEngine s.at_ then none else some (zext s.here.mx.mflg)
  | 0x101 => if isEngine s.at_ then none else some (zext r.mcap)
  | 0x102 => if isEngine s.at_ then none else some (zext s.here.mx.rope)
  | _ => none

/-- A control register written (R31, R97, R124): `none` where the write raises UNDEF, which is for an unassigned or read-only number, for a non-zero bit
of a zero field, and for the refused values of `frm`, `fmt` and `rope`. -/
def State.setCsr (s : State) (c : Nat) (v : Word) : Option State :=
  match c with
  | 0x000 => if zeroBits v 6 58 then some (s.modCsr fun r => { r with fflg := fld v 0 6 }) else none
  | 0x001 => if zeroBits v 3 61 && decide (v.toNat < 6) then some (s.modCsr fun r => { r with frm := fld v 0 3 }) else none
  | 0x002 => if zeroBits v 4 60 && decide (v.toNat < 7) then some (s.modCsr fun r => { r with fmt := fld v 0 4 }) else none
  | 0x003 => if zeroBits v 13 51 then some (s.modCsr fun r => { r with scla := fld v 0 13 }) else none
  | 0x004 => if zeroBits v 13 51 then some (s.modCsr fun r => { r with sclb := fld v 0 13 }) else none
  | 0x005 => if zeroBits v 8 56 then some (s.modCsr fun r => { r with tscl := v }) else none
  | 0x0E0 => if zeroBits v 1 63 then some { s with here := { s.here with regs := { s.here.regs with audit := bit v 0 } } } else none
  | 0x100 => if zeroBits v 8 56 && !isEngine s.at_ then some (s.modMx fun m => { m with mflg := fld v 0 8 }) else none
  | 0x102 =>
    if zeroBits v 22 42 && zeroBits v 1 9 && decide ((fld v 13 3).toNat ≤ (fld v 19 3).toNat) && decide ((fld v 10 3).toNat ≤ (fld v 16 3).toNat) &&
        !isEngine s.at_ then
      some (s.modMx fun m => { m with rope := fld v 0 22 })
    else none
  | _ => none

/-- A control-register instruction (R97): from a class-N slot the system range raises CAPABILITY before anything else (R310); an unassigned number or a
refused write raises UNDEF, with the instruction's bits as its value as R57 has it at decode (DEDUCED, log entry 76); an access of `mflg` waits until every matrix command that entered the queue before it issued has completed (R124). `wr` gives the value to write from the
old one; the old value goes to `d` when the instruction reads. -/
def csrEff (i : Instr) (c : BitVec 10) (rd : Option (BitVec 5)) (wr : Option (Word → Word)) (s : State) : Effect :=
  if 0x0E0 ≤ c.toNat ∧ c.toNat ≤ 0x0EF ∧ !s.classS then .trap (.plain cCapability (zext c))
  else match s.csr c.toNat with
    | none => .trap (.plain cUndef (insnBits i))
    | some old =>
      match (match wr with
        | none => some s
        | some f => s.setCsr c.toNat (f old)) with
      | none => .trap (.plain cUndef (insnBits i))
      | some t =>
        if c = 0x100 ∧ s.mxBlocks fun _ => true then s.mxWait
        else .ok (match rd with
          | some d => t.setG d old
          | none => t)

/-- `crd` (R97). -/
def execCrd (d : BitVec 5) (c : BitVec 10) (s : State) : Host.Outcome State Fault Refusal :=
  finish 4 s (csrEff (.crd d c) c (some d) none s)

/-- `cwr` (R97). -/
def execCwr (a : BitVec 5) (c : BitVec 10) (s : State) : Host.Outcome State Fault Refusal :=
  finish 4 s (csrEff (.cwr a c) c none (some fun _ => s.g a) s)

/-- `cins` (R97): the bits that the mask g[b] selects take the source's bits. -/
def execCins (a b : BitVec 5) (c : BitVec 10) (s : State) : Host.Outcome State Fault Refusal :=
  finish 4 s (csrEff (.cins a b c) c none (some fun old => (old &&& ~~~(s.g b)) ||| (s.g a &&& s.g b)) s)

/-- `cxch` (R97). -/
def execCxch (a d : BitVec 5) (c : BitVec 10) (s : State) : Host.Outcome State Fault Refusal :=
  finish 4 s (csrEff (.cxch a d c) c (some d) (some fun _ => s.g a) s)

/-- `crdz` (R97). -/
def execCrdz (d : BitVec 5) (c : BitVec 10) (s : State) : Host.Outcome State Fault Refusal :=
  finish 4 s (csrEff (.crdz d c) c (some d) (some fun _ => 0) s)

/-- The end of an activation (R41, R96), itself one of the instructions retired (R149, R345). A paired run waits until its twin's fingerprint at END agrees (R256). -/
def endEff (s : State) : Effect :=
  if s.act.paired ∧ s.act.ckpt ≠ 0xFFFF then .stall true else .fin (s.modAct fun a => { a with instret := a.instret + 1 }).endAct

/-- `end` (R96). -/
def execEnd (s : State) : Host.Outcome State Fault Refusal := finish 4 s (endEff s)

/-- `nop` (R96). -/
def execNop (s : State) : Host.Outcome State Fault Refusal := finish 4 s (.ok s)

/-- `trap` (R96). -/
def execTrap (i : BitVec 10) (s : State) : Host.Outcome State Fault Refusal := finish 4 s (.trap (.plain cTrapInst (zext i)))

/-- The acting slot becomes held (R341), unless another slot is held, its entry is paired, or the core's group word has EN = 0, with which it holds no slot (R338). -/
def State.holdSlot (s : State) : State :=
  if s.here.dbg.held.isSome ∨ bit s.act.entry 59 ∨ !s.here.dbg.en then s
  else (s.modDbg fun d => { d with held := some s.slot, ended := s.time }).modAct fun a => { a with heldAt := s.here.cyc + 1 }

/-- `brk` of `len` bytes (R96, R341): in a debug group with EN = 1 it completes with no effect, its slot is held with pc at the next instruction, and it
triggers with CAUSE 3; otherwise it traps with TRAPINST 0x400. -/
def brkEff (len : Nat) (s : State) : Effect :=
  if s.here.dbg.en then .fin (((s.retire len).holdSlot).trigger 3) else .trap (.plain cTrapInst 0x400)

/-- `brk` (R96). -/
def execBrk (s : State) : Host.Outcome State Fault Refusal := finish 4 s (brkEff 4 s)

/-- `c.nop` (R99). -/
def execCNop (s : State) : Host.Outcome State Fault Refusal := finish 2 s (.ok s)

/-- `c.end` (R99). -/
def execCEnd (s : State) : Host.Outcome State Fault Refusal := finish 2 s (endEff s)

/-- `c.brk` (R99). -/
def execCBrk (s : State) : Host.Outcome State Fault Refusal := finish 2 s (brkEff 2 s)

end Sys2Proof.Machine
end

