-- ==== Sys2Proof/Machine/Select.lean ====
section
/-! DEFINITION. Selection and dispatch (R28, R157, R158), aging, and the budget (R42, R250). -/

namespace Sys2Proof.Machine

/-- The first message of a queue on which no activation runs. -/
def nextEntry (q : List QEntry) : Option QEntry := q.find? fun e => !e.running

/-- An eligible channel (R157): a message waits, the mask bit is clear, and the entry is valid and holds nothing back. -/
def State.eligible (s : State) (ch : BitVec 8) : Bool :=
  (nextEntry (s.here.net.queue ch)).isSome && !bit s.here.live.chmask ch.toNat && bit (s.here.entry ch) 63 && !s.here.held (s.here.entry ch)

/-- Slots that take an entry (R24, R221): class S slot 3, or any slot of an engine core; class N slots 0 to 2. -/
def slotsFor (a : CoreAddr) (classS : Bool) : List (Fin 4) :=
  if isEngine a then [0, 1, 2, 3] else if classS then [3] else [0, 1, 2]

/-- The lowest-numbered free slot for an entry. -/
def State.freeFor (s : State) (e : Word) : Option (Fin 4) := (slotsFor s.at_ (bit e 57)).find? fun i => !(s.here.acts[i]).busy

/-- Dispatch is stopped for a channel: by a debug stop (R339), by a quarantine (R258), by a lease change or the wait for one (R251), or in a confidential partition that a hot reset
stopped (R334). Under the last two, system channels of the range are the device's own. -/
def State.stopped (s : State) (ch : BitVec 8) : Bool :=
  s.here.dbg.stopping || s.here.frozen || s.here.changing || ((s.here.preempting || (s.partition s.at_).stoppedAt.isSome) && !sysChannel ch)

/-- A runnable channel (R157). -/
def State.runnable (s : State) (ch : BitVec 8) : Bool := s.eligible ch && !s.stopped ch && (s.freeFor (s.here.entry ch)).isSome

/-- Levels that an age gives (R158). -/
def Age.levels (a : Age) : Nat := a.count.toNat / 65536

/-- The levels an eligible channel has gained by age (R158). -/
def State.boost (s : State) (ch : BitVec 8) : Nat := ((look s.here.live.ages ch.toNat).map Age.levels).getD 0

/-- Effective priority (R158): below 6 the age adds levels up to 6. -/
def State.priority (s : State) (ch : BitVec 8) : Nat :=
  let p := (fld (s.here.entry ch) 54 3).toNat
  if p < 6 then max p (min 6 (p + s.boost ch)) else p

/-- Every channel in the rotation of a priority level (R157): from the one above the last served, upward and around. -/
def rotation (last : BitVec 8) : List (BitVec 8) := (List.range 256).map fun i => last + 1 + BitVec.ofNat 8 i

/-- The channel that the dispatcher chooses (R157): highest effective priority, class S first on a tie between classes, then rotation. -/
def State.choose (s : State) : Option (BitVec 8) :=
  let run := (s.here.net.queues.map fun q => BitVec.ofNat 8 q.1).filter s.runnable
  match (run.map s.priority).max? with
  | none => none
  | some p =>
    let top := run.filter fun c => s.priority c == p
    let sys := top.filter fun c => bit (s.here.entry c) 57
    let pool := if sys.isEmpty then top else sys
    (rotation (s.here.live.rot.toList.getD p 0)).find? fun c => pool.contains c

/-- The header summary in g2 (R28). -/
def Msg.summary (m : Msg) : Word :=
  zext m.ch ||| (zext (fld m.hdr 0 6) <<< 8) ||| (zext m.kind <<< 14) ||| (zext (fld m.hdr 26 4) <<< 16) ||| (zext m.ten <<< 20) ||| (zext (fld m.hdr 46 4) <<< 32)

/-- A message is a copy for a twin: it keeps its primary's DST (R255, log entry 27). -/
def Msg.isCopyAt (m : Msg) (a : CoreAddr) : Bool := m.dst != a

/-- The persistent region of an entry (R28, R153): base and length; zero for PREG 63. -/
def Core.region (c : Core) (e : Word) : BitVec 18 × BitVec 19 :=
  if fld e 48 6 = 63 then (0, 0) else (look c.live.pregs (fld e 48 6).toNat).getD (0, 0)

/-- The general registers at entry (R28, R221). -/
def State.entryG (s : State) (own : CoreAddr) (base : BitVec 18) (m : Msg) : Vector Word 32 :=
  let g : Vector Word 32 := Vector.replicate 32 0
  let g := (g.set 1 (zext m.src)).set 2 m.summary
  let g := if m.kind = kPut then (g.set 3 (BitVec.ofNat 64 m.paddr)).set 4 (BitVec.ofNat 64 (32 * m.flits))
    else ((((((((g.set 3 (m.dw 0)).set 4 (m.dw 1)).set 5 (m.dw 2)).set 6 (m.dw 3)).set 7 (m.dw 4)).set 8 (m.dw 5)).set 9 (m.dw 6)).set 10 (m.dw 7))
  (((g.set 11 (zext base)).set 12 s.here.live.lpb).set 13 (BitVec.ofNat 64 (if isEngine own then engineNo own else flatOf own))).set 14 (zext own)

/-- The vector registers at entry (R28). -/
def entryV (m : Msg) : Vector Strip 32 :=
  let v : Vector Strip 32 := Vector.replicate 32 0
  if m.kind = kPut then v
  else (((((((v.set 24 (m.flit 0)).set 25 (m.flit 1)).set 26 (m.flit 2)).set 27 (m.flit 3)).set 28 (m.flit 4)).set 29 (m.flit 5)).set 30 (m.flit 6)).set 31 (m.flit 7)

/-- The control registers at entry (R30, R232, R281, R287). -/
def entryCsr (m : Msg) : Csrs :=
  let asid : Word := if m.aFlag then zext m.aword ||| (if isKeeper m.src then 0x10_0000_0000 else 0) else 0
  { Csrs.entry with xid := if m.comp then fld (m.dw 3) 0 32 else 0, asid := asid }

/-- The activation sequence number after another (R30): it never reads 0. -/
def nextSeq (q : Word) : Word := if q = BitVec.allOnes 64 then 1 else q + 1

/-- The activation that a message starts on an entry (R28). The twin's copy runs paired whatever its own entry's P, with the entry registers of the core that its DST names (R255). -/
def State.newAct (s : State) (e : Word) (ch : BitVec 8) (m : Msg) : Act :=
  let paired := m.isCopyAt s.at_ || bit e 59
  let own := m.dst
  let r := (s.core own).region e
  { Act.free with
    busy := true
    pc := zext (fld e 14 15)
    regs := { Regs.zero with g := s.entryG own r.1 m, v := entryV m }
    csr := entryCsr m
    img := (s.here.images[entryImg e]).getD ImgEntry.zero
    entry := e, ch := ch, trig := m, aseq := nextSeq s.here.seqNo, t0 := s.here.cyc, plen := r.2, paired := paired }

/-- The dispatch of a channel's oldest message into a slot (R155, R157): in mode I the queue entry is freed, in mode D it stays. -/
def State.dispatchTo (s : State) (ch : BitVec 8) (i : Fin 4) (q : QEntry) : State :=
  let e := s.here.entry ch
  let a := s.newAct e ch q.msg
  let p := s.priority ch
  let queue := s.here.net.queue ch
  let queue := if bit e 58 then dropFirst (fun x => !x.running) queue else mapFirst (fun x => !x.running) (fun x => { x with running := true }) queue
  let c := s.here
  let s' := { s with slot := i, here := { c with
    acts := c.acts.set i a
    seqNo := a.aseq
    live := { c.live with rot := c.live.rot.setIfInBounds p ch, ages := drop1 c.live.ages ch.toNat }
    net := c.net.setQueue ch queue } }
  { s'.traceIf 1 a.aseq with slot := s.slot }

/-- DISPATCH (R157): the chosen channel's oldest message goes into the lowest free slot of its class. -/
def State.dispatch (s : State) : State :=
  match s.choose with
  | none => s
  | some ch => match nextEntry (s.here.net.queue ch), s.freeFor (s.here.entry ch) with
    | some q, some i => s.dispatchTo ch i q
    | _, _ => s

/-- DISPATCH (R157). -/
def execDispatch (s : State) : Host.Outcome State Fault Refusal := .next s.dispatch

/-! Ages (R158). -/

/-- The age counters after a cycle: each counts the cycles in which its channel is eligible, and a channel that is not eligible has none. -/
def State.refreshAges (s : State) : State :=
  let chs := (s.here.net.queues.map (·.1)).filter fun c => s.eligible (BitVec.ofNat 8 c)
  let ages := chs.map fun c => (c, match look s.here.live.ages c with
    | some a => { a with count := a.count + 1 }
    | none => { count := 0, boost := 0 })
  { s with here := { s.here with live := { s.here.live with ages := ages } } }

/-- An age whose last crossing of a multiple of 65,536 cycles has not been noted. -/
def Age.behind (a : Age) : Bool := decide (a.boost < min 6 a.levels)

/-- AGE_PROMOTION (R158): an eligible channel's age has crossed a multiple of 65,536 cycles, by which its effective priority has risen, and the levels gained are noted. -/
def State.promote (s : State) : State :=
  { s with here := { s.here with live := { s.here.live with
      ages := s.here.live.ages.map fun a => (a.1, { a.2 with boost := min 6 a.2.levels }) } } }

/-- AGE_PROMOTION (R158). -/
def execAgePromotion (s : State) : Host.Outcome State Fault Refusal := .next s.promote

end Sys2Proof.Machine
end

