-- ==== Sys2Proof/Machine/Lease.lean ====
section
/-! DEFINITION. The lease change (R251, R252) and the PREEMPT event. -/

namespace Sys2Proof.Machine

/-! VF records (R332). -/

/-- A field of a record by doubleword, low bit and width. -/
def recFld (r : Vector Word 16) (dw : Fin 16) (lo n : Nat) : BitVec n := fld r[dw] lo n

/-- The trap cores of a record. -/
def recTrapCores (r : Vector Word 16) : Vector (Option CoreAddr) 16 :=
  Vector.ofFn fun i =>
    let w : Word := (r.toList.getD (6 + i.val / 2) 0) >>> (32 * (i.val % 2))
    if bit w 31 then some (fld w 0 29) else none

/-- A record of no tenant: every field at its reset value. -/
def recNone : Vector Word 16 := (Vector.replicate 16 (0 : Word)).set 3 0x0000_017F_0000_0000

/-- A VF record's fields keep R332: every field that it does not list is zero, bit [7] of `mcap` among them (R124); no space is tenant 0's (R194); TCH is a user channel, or the 0 of
reset; and the spill quota is a multiple of 64. -/
def recOk (r : Vector Word 16) : Bool :=
  zeroBits r[0] 43 21 && zeroBits r[0] 12 4 && zeroBits r[1] 48 16 && zeroBits r[2] 48 16 && zeroBits r[3] 56 8 && zeroBits r[3] 41 7 && zeroBits r[3] 39 1 && zeroBits r[4] 32 32 &&
    r[5] == 0 && r[14] == 0 && r[15] == 0 &&
    ((List.range 8).all fun i => let w := r.toList.getD (6 + i) 0; zeroBits w 29 2 && zeroBits w 61 2) &&
    recFld r 0 16 8 != 0xFF && recFld r 0 24 8 != 0xFF && (recFld r 3 48 8 == 0 || userChannel (recFld r 3 48 8)) && zeroBits r[3] 0 6

/-! The change. -/

/-- R251 step 2: every class-N slot is free, the matrix queue is empty and the transducer unit is idle. -/
def State.quiescent (s : State) : Bool :=
  ((slotsFor s.at_ false).all fun i => !(s.here.acts[i]).busy) && s.here.mx.queue.isEmpty && s.here.mx.dxUnit.isNone

/-- The words written to a core and not yet popped, and its neighbour's outstanding count, are gone (R186). -/
def State.cutLink (s : State) (p : Fin 4) : State :=
  match s.linkPeer p with
  | none => s
  | some a => s.modCore a fun c => { c with links := c.links.set (oppositePort p) { c.links[oppositePort p] with out := [], o := 0 } }

/-- A queued message that the bivouac takes (R251 step 5). -/
def bivouacs (ten : BitVec 12) (e : QEntry) : Bool := e.msg.ten == ten && !e.running && !passes e.msg.ten e.msg.ch

/-- R251 step 5: the outgoing lessee's queued messages move to its ring, oldest first per channel, with their arrival sequence; they are settled already. -/
def Iface.bivouac (n : Iface) (ten : BitVec 12) : Iface :=
  let out := (n.queues.flatMap fun q => q.2.filter (bivouacs ten)).map fun e => { msg := e.msg, seq := e.seq, written := true, early := false, copied := true : SpillEntry }
  let queues := (n.queues.map fun q => (q.1, q.2.filter fun e => !bivouacs ten e)).filter fun q => !q.2.isEmpty
  { n with queues := queues, rings := putD n.rings ten.toNat (out ++ n.ring ten) [] }

/-- R251 step 6: the incoming lessee's ring returns its messages, as far as the queues take them. -/
def State.returnAll (s : State) : State :=
  let chs := (s.here.net.ring s.here.regs.lessee).map fun e => e.msg.ch
  chs.foldl State.spillBack s

/-- Bytes of a save area (R319). -/
def saveLength : Nat := 6144

/-- The bytes that a saving writes. -/
def saveBytes (serial : Nat) : List Byte := (List.range saveLength).map (Config.saveByte serial)

/-- A saved state with the launch registers of another. -/
def Lessee.underLaunch (l m : Lessee) : Lessee :=
  { l with cnum := m.cnum, lbase := m.lbase, lcnt := m.lcnt, lid := m.lid, lpb := m.lpb, voted := m.voted, wakes := m.wakes, placed := m.placed }

/-- R251 step 4, R252: the lessee's data state and links are zeroed, its saved state is put by in an area, the incoming lessee's is loaded, and `mcap`, the spaces, the spill
quota, TRAPCORE and TCH come from the incoming record. Window registers, local memory and resident images stay. A save area that a `lease` names takes the saved state's bytes under key
slot 0 (R319). -/
def State.changeLease (s : State) (r : Vector Word 16) (load : Lessee) (area : Option (BitVec 18)) : State :=
  let c := s.here
  let ten : BitVec 12 := recFld r 0 0 12
  let old := c.regs.lessee
  let c' : Core := { c with
    mx := Matrix.zero
    links := Vector.replicate 4 Link.reset
    leaseNo := c.leaseNo + 1
    saved := (c.saved.filter fun v => v.ten != ten && v.ten != old && (area.all fun x => x == 0 || v.area != x)) ++ [{ ten := old, area := area.getD 0, serial := s.free, lessee := c.live }]
    mem := match area with
      | some x => c.mem.write s.at_ KeyId.system x.toNat (saveBytes s.free)
      | none => c.mem
    live := load
    regs := { c.regs with
      lessee := ten
      mcap := recFld r 3 32 9 &&& 0x17F
      gsa := recFld r 0 16 8
      gsb := recFld r 0 24 8
      spq := recFld r 3 0 32
      tch := recFld r 3 48 8
      trapCore := recTrapCores r } }
  let t := (List.finRange 4).foldl State.cutLink { s with here := c', free := s.free + 1 }
  { t with here := { t.here with swapping := true } }

/-- The lessee whose lease has just ended: the one saved last. -/
def Core.lastLessee (c : Core) : BitVec 12 := match c.saved.getLast? with
  | some v => v.ten
  | none => c.regs.lessee

/-- Steps 5 and 6 of R251: the outgoing lessee's queued messages move to its ring, the incoming lessee's ring returns its own, and dispatch resumes. -/
def State.leaseEnd (s : State) : State :=
  let t := (s.modNet fun n => n.bivouac s.here.lastLessee).returnAll
  { t with here := { t.here with preempting := false, changing := false, swapping := false } }

/-- The record of a tenant, or of none (R251). -/
def State.recordOf (s : State) (ten : BitVec 12) : Vector Word 16 :=
  match s.home.vfOf ten with
  | some (_, f) => f.rec16
  | none => recNone

/-- The saved state of a tenant; zero for one new to the core (R252). -/
def Core.savedOf (c : Core) (ten : BitVec 12) : Lessee :=
  match c.saved.find? fun v => v.ten == ten with
  | some v => v.lessee
  | none => Lessee.zero

/-- One channel's oldest queued message that no activation runs is taken out: the channel's vendor handler has run on it. -/
def State.takeQueued (s : State) (ch : BitVec 8) : State := s.modNet fun n => n.setQueue ch (dropFirst (fun e => !e.running) (n.queue ch))

/-- The oldest message that waits for a vendor handler: none while slot 3, in which the handler runs, is taken (R164, R243), while the channel is masked (R181), while dispatch is stopped
by a debug stop (R339) or a quarantine (R258), and where an entry of the channel is written (log entry 29). -/
def State.vendorMsg (s : State) (ch : BitVec 8) : Option Msg :=
  if s.here.acts[3].busy || s.here.dbg.stopping || s.here.frozen || bit s.here.live.chmask ch.toNat || (look s.here.live.handlers ch.toNat).isSome then none
  else (nextEntry (s.here.net.queue ch)).map (·.msg)

/-- The PREEMPT that the channel-1 handler works on: once it has begun it goes on, whatever the mask, the handler table or a debug stop say then (R251, R339). -/
def State.preemptMsg (s : State) : Option Msg := if s.here.preempting then (nextEntry (s.here.net.queue 1)).map (·.msg) else s.vendorMsg 1

/-- The lease-change record (R251 step 7) on channel 7. The spec gives it no layout (DESIGN CHOICE, log entry 30). -/
def State.leaseRecord (s : State) (d : CoreAddr) (old new : BitVec 12) : State :=
  s.sendOwn d kSystem 7 0 [flit4 (zext new ||| (zext old <<< 16)) (zext s.at_) s.time 0]

/-- Step 4 of R251 as a PREEMPT asks for it. -/
def State.leaseTo (s : State) (m : Msg) : State :=
  let ten : BitVec 12 := if bit (m.dw 0) 16 then 0 else fld (m.dw 0) 0 12
  let r := if ten = 0 then recNone else s.recordOf ten
  s.changeLease (r.set 0 (setFld r[0] 0 ten)) (if ten = s.here.regs.lessee then s.here.live else s.here.savedOf ten) none

/-- Steps 5 to 7 of R251: after a PREEMPT's change the supervisor that asked is told. After the change of a `lease` (R319) its handler reports for itself. -/
def State.leaseFinish (s : State) : State :=
  match s.preemptMsg with
  | some m => if s.here.preempting then (s.takeQueued 1).leaseEnd.leaseRecord m.src s.here.lastLessee s.here.regs.lessee else s.leaseEnd
  | none => s.leaseEnd

/-- PREEMPT (R251): each event takes the lease change one step further: dispatch of the lessee's channels stops; the core waits until it is quiescent; the links stop being live; the state
changes; the queues are parked and returned, and the supervisor that asked is told. The change that a `lease` has made ends here too (R319). -/
def execPreempt (s : State) : Host.Outcome State Fault Refusal :=
  .next (if s.here.swapping then s.leaseFinish
  else match s.preemptMsg with
  | none => s
  | some m =>
    if !s.here.preempting then { s with here := { s.here with preempting := true } }
    else if !s.quiescent then s
    else if !s.here.changing then { s with here := { s.here with changing := true } }
    else s.leaseTo m)

end Sys2Proof.Machine
end

