-- ==== Sys2Proof/Machine/Global.lean ====
section
/-! DEFINITION. Global operations (R194, R204 to R207), MO 0x12 to 0x15: the request that each makes. -/

namespace Sys2Proof.Machine

/-- The space that an sp bit selects (R194). -/
def State.space (s : State) (sp : BitVec 1) : BitVec 8 :=
  if sp = 0 then s.here.regs.gsa else if s.classS then 0xFF else s.here.regs.gsb

/-- Channels that a class-N slot may not name in a send or as a reply channel: 0 to 15 and 248 to 251 (R174, R204). -/
def State.mayName (s : State) (c : BitVec 8) : Bool := s.classS || !sysChannel c

/-- A request with no bytes. -/
def GReq.base (op sz ch space : BitVec 8) (off : Word) (len : Nat) : GReq :=
  { op := op, sz := sz, ch := ch, space := space, off := off, len := len, v1 := 0, v2 := 0, relay := 0, near := 0, kslot := 0, data := [] }

/-- R279: a joined activation does not send to another package; `w` is the destination word or the offset. -/
def State.inPackage (s : State) (d : CoreAddr) (w : Word) (e : Effect) : Effect :=
  if bit s.act.csr.asid 32 && pkgOf d != pkgOf s.at_ then .trap (.plain cAscent w) else e

/-- The placement that an offset has at issue: the PLB's, or on a miss the package's (R195, R196). -/
def State.placedAt (s : State) (space : BitVec 8) (off : Word) : Option RptEntry :=
  (plbFind s.here.live.plb s.act.trig.ten space off.toNat).or (s.home.regionAt space off)

/-- A global request queued or sent (R196); a joined activation's home must lie in its package (R279), whether or not the PLB holds the placement yet. -/
def State.sendGlob (s : State) (r : GReq) (l : BitVec 1) : Effect :=
  let e := s.send (.glob r) (l == 1) 1 .plain
  match s.placedAt r.space r.off with
  | some p => s.inPackage (p.homeOf (pkgOf s.at_) r.off.toNat).1 r.off e
  | none => e

/-- `gld` (R204): a naturally aligned load whose value returns as a reply. -/
def gldEff (l : BitVec 1) (sz : BitVec 2) (a b : BitVec 5) (p : BitVec 1) (c : BitVec 8) (x : BitVec 1) (s : State) : Effect :=
  let off := s.g a
  let sp := s.space p
  if c ≠ 0 ∧ !s.mayName c then .trap (.plain cCapability (zext c))
  else if off.toNat % 2 ^ sz.toNat ≠ 0 then .trap (.atSpace cAlign off sp off)
  else
    let szb : BitVec 8 := sz.setWidth 8 ||| (x.setWidth 8 <<< 2) ||| (if c = 0 then 0 else 8)
    s.sendGlob { GReq.base 1 szb c sp off (2 ^ sz.toNat) with v2 := s.g b } l

/-- `gld` (R204). -/
def execGld (l : BitVec 1) (sz : BitVec 2) (a b : BitVec 5) (p : BitVec 1) (c : BitVec 8) (x : BitVec 1) (s : State) : Host.Outcome State Fault Refusal :=
  finish 4 s (gldEff l sz a b p c x s)

/-- `gst` (R204). -/
def gstEff (l : BitVec 1) (sz : BitVec 2) (a b : BitVec 5) (p : BitVec 1) (s : State) : Effect :=
  let off := s.g a
  let sp := s.space p
  let n := 2 ^ sz.toNat
  if off.toNat % n ≠ 0 then .trap (.atSpace cAlign off sp off)
  else s.sendGlob { GReq.base 2 (sz.setWidth 8) 0 sp off n with v1 := BitVec.ofNat 64 ((s.g b).toNat % 2 ^ (8 * n)) } l

/-- `gst` (R204). -/
def execGst (l : BitVec 1) (sz : BitVec 2) (a b : BitVec 5) (p : BitVec 1) (s : State) : Host.Outcome State Fault Refusal :=
  finish 4 s (gstEff l sz a b p s)

/-- A block move's function (R206). -/
inductive Move where
  | put
  | putr
  | get
  deriving DecidableEq, Repr

/-- The checks of a block move on its three operands, in order (R206). -/
def State.moveCheck (s : State) (m : Move) (sp : BitVec 8) (a b d : Word) : Option Trap :=
  let len := (fld d 0 16).toNat
  let ch : BitVec 8 := fld d 16 8
  let rca : BitVec 29 := fld d 24 29
  let bad := Trap.plain cPlacement d
  if !zeroBits d 53 11 ∨ len = 0 ∨ len % 16 ≠ 0 then some bad
  else if (m ≠ .get ∧ 256 < len) ∨ (m = .put ∧ ch ≠ 0) ∨ (m = .putr ∧ !namesCore rca) then some bad
  else if m = .get ∧ 4096 < len then some bad
  else if m ≠ .put ∧ !s.mayName ch then some (.plain cCapability (zext ch))
  else if 252 ≤ ch.toNat ∨ (m = .get ∧ ch = 0) then some bad
  else if a.toNat % 16 ≠ 0 then some (.atSpace cAlign a sp a)
  else if b.toNat % 16 ≠ 0 then some (.atNear cAlign b b)
  else if 2 ^ 18 ≤ (b + BitVec.ofNat 64 (len - 1)).toNat then some (.atNear cPlacement b b)
  else none

/-- A block move (R206): the bytes of a put are read at issue. -/
def moveEff (m : Move) (l p : BitVec 1) (ra rb rc : BitVec 5) (s : State) : Effect :=
  let a := s.g ra
  let b := s.g rb
  let d := s.g rc
  let sp := s.space p
  let len := (fld d 0 16).toNat
  match s.moveCheck m sp a b d with
  | some t => .trap t
  | none =>
    let op : BitVec 8 := match m with | .put => 3 | .putr => 4 | .get => 5
    let r := { GReq.base op 0 (fld d 16 8) sp a len with relay := fld d 24 29, near := b.toNat, kslot := s.act.img.kslot }
    if m = .get then s.sendGlob r l
    else
      match s.nearCheck false b len 16 with
      | some t => .trap t
      | none => (s.nearLoaded b.toNat len).sendGlob { r with data := s.nearBytes b.toNat len } l

/-- `put` (R206). -/
def execPut (l p : BitVec 1) (a b c : BitVec 5) (s : State) : Host.Outcome State Fault Refusal := finish 4 s (moveEff .put l p a b c s)

/-- `putr` (R206). -/
def execPutr (l p : BitVec 1) (a b c : BitVec 5) (s : State) : Host.Outcome State Fault Refusal := finish 4 s (moveEff .putr l p a b c s)

/-- `get` (R206). -/
def execGet (l p : BitVec 1) (a b c : BitVec 5) (s : State) : Host.Outcome State Fault Refusal := finish 4 s (moveEff .get l p a b c s)

/-- An atomic's request (R207) by its function number. -/
def atomicEff (fn : Nat) (r l p : BitVec 1) (a b : BitVec 5) (c : BitVec 8) (s : State) : Effect :=
  let off := s.g a
  let sp := s.space p
  if r = 1 ∧ !s.mayName c then .trap (.plain cCapability (zext c))
  else if off.toNat % 8 ≠ 0 then .trap (.atSpace cAlign off sp off)
  else s.sendGlob { GReq.base (BitVec.ofNat 8 (0x10 + fn)) (if r = 1 then 11 else 3) c sp off 8 with v1 := s.g b, v2 := if fn = 9 then s.g (b + 1) else 0 } l

/-- `aadd` (R207). -/
def execAadd (r l p : BitVec 1) (a b : BitVec 5) (c : BitVec 8) (s : State) : Host.Outcome State Fault Refusal := finish 4 s (atomicEff 0 r l p a b c s)

/-- `aand` (R207). -/
def execAand (r l p : BitVec 1) (a b : BitVec 5) (c : BitVec 8) (s : State) : Host.Outcome State Fault Refusal := finish 4 s (atomicEff 1 r l p a b c s)

/-- `aor` (R207). -/
def execAor (r l p : BitVec 1) (a b : BitVec 5) (c : BitVec 8) (s : State) : Host.Outcome State Fault Refusal := finish 4 s (atomicEff 2 r l p a b c s)

/-- `axor` (R207). -/
def execAxor (r l p : BitVec 1) (a b : BitVec 5) (c : BitVec 8) (s : State) : Host.Outcome State Fault Refusal := finish 4 s (atomicEff 3 r l p a b c s)

/-- `amin` (R207). -/
def execAmin (r l p : BitVec 1) (a b : BitVec 5) (c : BitVec 8) (s : State) : Host.Outcome State Fault Refusal := finish 4 s (atomicEff 4 r l p a b c s)

/-- `amax` (R207). -/
def execAmax (r l p : BitVec 1) (a b : BitVec 5) (c : BitVec 8) (s : State) : Host.Outcome State Fault Refusal := finish 4 s (atomicEff 5 r l p a b c s)

/-- `aminu` (R207). -/
def execAminu (r l p : BitVec 1) (a b : BitVec 5) (c : BitVec 8) (s : State) : Host.Outcome State Fault Refusal := finish 4 s (atomicEff 6 r l p a b c s)

/-- `amaxu` (R207). -/
def execAmaxu (r l p : BitVec 1) (a b : BitVec 5) (c : BitVec 8) (s : State) : Host.Outcome State Fault Refusal := finish 4 s (atomicEff 7 r l p a b c s)

/-- `aswap` (R207). -/
def execAswap (r l p : BitVec 1) (a b : BitVec 5) (c : BitVec 8) (s : State) : Host.Outcome State Fault Refusal := finish 4 s (atomicEff 8 r l p a b c s)

/-- `acas` (R207). -/
def execAcas (r l p : BitVec 1) (a b : BitVec 5) (c : BitVec 8) (s : State) : Host.Outcome State Fault Refusal := finish 4 s (atomicEff 9 r l p a b c s)

/-- `afadd` (R207). -/
def execAfadd (r l p : BitVec 1) (a b : BitVec 5) (c : BitVec 8) (s : State) : Host.Outcome State Fault Refusal := finish 4 s (atomicEff 10 r l p a b c s)

end Sys2Proof.Machine
end

