-- ==== Sys2Proof/Machine/Messages.lean ====
section
/-! DEFINITION. The send family (R172 to R176), MO 0x16, and channel masks, joins, barriers and the launch vote (R167, R180 to R183), MO 0x17. -/

namespace Sys2Proof.Machine

/-- The send family (R172). -/
inductive SendFn where
  | send
  | sendp
  | sendm
  | reply
  deriving DecidableEq, Repr

/-- The payload of a send: `n` flits from v register `v` up (R172). -/
def State.payload (s : State) (v : BitVec 5) (n : BitVec 4) : List Strip := (List.range n.toNat).map fun i => s.v (v + BitVec.ofNat 5 i)

/-- Whether the zero fields of a destination word are zero (R173). -/
def destZero (f : SendFn) (w : Word) : Bool :=
  zeroBits w 47 17 && (match f with
    | .sendp => true
    | .sendm => zeroBits w 40 7
    | _ => zeroBits w 29 18)

/-- The checks of a send, in order (R174). -/
def State.sendCheck (s : State) (f : SendFn) (w : Word) (n : BitVec 4) (ch : BitVec 8) : Option Trap :=
  let ca : CoreAddr := fld w 0 29
  let na := (fld w 29 18).toNat
  if !s.mayName ch then some (.plain cCapability (zext ch))
  else if !destZero f w || !namesCore ca then some (.plain cPlacement w)
  else match f with
    | .sendm =>
      if 31 < yOf ca ∨ 47 < xOf ca + (fld w 29 6).toNat ∨ 31 < yOf ca + (fld w 35 5).toNat then some (.plain cPlacement w) else none
    | .sendp =>
      if na % 16 ≠ 0 then some (.plain cAlign (BitVec.ofNat 64 na))
      else if 0x40000 < na + 32 * n.toNat then some (.plain cPlacement (BitVec.ofNat 64 na))
      else none
    | _ => none

/-- What a send emits (R171, R176). -/
def State.sendMsg (s : State) (f : SendFn) (w : Word) (ch : BitVec 8) (pay : List Strip) : Send :=
  let ca : CoreAddr := fld w 0 29
  match f with
  | .send => .uni ca (sysKind s.classS ch) ch 0 pay
  | .sendp => .uni ca kPut ch (fld w 29 18) pay
  | .sendm => .multi ca ((fld w 29 6).toNat + 1) ((fld w 35 5).toNat + 1) ch pay
  | .reply => .uni ca kReply ch 0 pay

/-- The effect of the send family (R174). -/
def sendEff (f : SendFn) (l : BitVec 1) (a v : BitVec 5) (n : BitVec 4) (c : BitVec 8) (s : State) : Effect :=
  match s.sendCheck f (s.g a) n c with
  | some t => .trap t
  | none => s.inPackage (fld (s.g a) 0 29) (s.g a) (s.send (s.sendMsg f (s.g a) c (s.payload v n)) (l == 1) 1 .plain)

/-- `send` (R172). -/
def execSend (l : BitVec 1) (a v : BitVec 5) (n : BitVec 4) (c : BitVec 8) (s : State) : Host.Outcome State Fault Refusal :=
  finish 4 s (sendEff .send l a v n c s)

/-- `sendp` (R172). -/
def execSendp (l : BitVec 1) (a v : BitVec 5) (n : BitVec 4) (c : BitVec 8) (s : State) : Host.Outcome State Fault Refusal :=
  finish 4 s (sendEff .sendp l a v n c s)

/-- `sendm` (R172, R176). -/
def execSendm (l : BitVec 1) (a v : BitVec 5) (n : BitVec 4) (c : BitVec 8) (s : State) : Host.Outcome State Fault Refusal :=
  finish 4 s (sendEff .sendm l a v n c s)

/-- `reply` (R172). -/
def execReply (l : BitVec 1) (a v : BitVec 5) (n : BitVec 4) (c : BitVec 8) (s : State) : Host.Outcome State Fault Refusal :=
  finish 4 s (sendEff .reply l a v n c s)

/-! MO 0x17. -/

/-- The lessee's saved-and-loaded state of the core, changed. -/
def State.modLive (s : State) (f : Lessee → Lessee) : State := { s with here := { s.here with live := f s.here.live } }

/-- The channel check of R180. -/
def State.onChannel (s : State) (c : BitVec 8) (e : Effect) : Effect := if s.mayName c then e else .trap (.plain cCapability (zext c))

/-- A mask bit set or cleared (R181). -/
def State.setMask (s : State) (c : BitVec 8) (b : Bool) : State :=
  s.modLive fun x => { x with chmask := setFld x.chmask c.toNat (BitVec.ofBool b) }

/-- `chmask` (R180). -/
def execChmask (c : BitVec 8) (s : State) : Host.Outcome State Fault Refusal := finish 4 s (s.onChannel c (.ok (s.setMask c true)))

/-- `chunmask` (R180). -/
def execChunmask (c : BitVec 8) (s : State) : Host.Outcome State Fault Refusal := finish 4 s (s.onChannel c (.ok (s.setMask c false)))

/-- `chtas` (R180): the old bit is read and the bit set as one step. -/
def execChtas (d : BitVec 5) (c : BitVec 8) (s : State) : Host.Outcome State Fault Refusal :=
  finish 4 s (s.onChannel c (.ok ((s.setMask c true).setG d (boolWord (bit s.here.live.chmask c.toNat)))))

/-- `jdec` (R182): a remote operation on the join record that the destination word names. -/
def jdecEff (l : BitVec 1) (a : BitVec 5) (n : BitVec 8) (s : State) : Effect :=
  let w := s.g a
  let ca : CoreAddr := fld w 0 29
  let na : BitVec 18 := fld w 29 18
  if !zeroBits w 47 17 || !isCompute ca then .trap (.plain cPlacement w)
  else if na.toNat % 16 ≠ 0 then .trap (.plain cAlign (zext na))
  else s.inPackage ca w (s.send (.uni ca kSystem 8 na [descFlit 0x20 0 0 0 (zext n) 0 0]) (l == 1) 1 .plain)

/-- `jdec` (R182). -/
def execJdec (l : BitVec 1) (a : BitVec 5) (n : BitVec 8) (s : State) : Host.Outcome State Fault Refusal := finish 4 s (jdecEff l a n s)

/-- `barm` (R183). -/
def barmEff (b : BitVec 5) (c : BitVec 8) (s : State) : Effect :=
  let w := s.g b
  if !zeroBits w 18 46 then .trap (.plain cPlacement w)
  else if w.toNat % 16 ≠ 0 then .trap (.plain cAlign w)
  else if 8 ≤ ((drop1 s.here.live.barm c.toNat).length) then .trap (.plain cCapability (zext c))
  else .ok (s.modLive fun x => { x with barm := put x.barm c.toNat w.toNat })

/-- `barm` (R183). -/
def execBarm (b : BitVec 5) (c : BitVec 8) (s : State) : Host.Outcome State Fault Refusal := finish 4 s (s.onChannel c (barmEff b c s))

/-- `bdis` (R180). -/
def execBdis (c : BitVec 8) (s : State) : Host.Outcome State Fault Refusal :=
  finish 4 s (s.onChannel c (.ok (s.modLive fun x => { x with barm := drop1 x.barm c.toNat })))

/-- The mark in the last doubleword of a vote (1) or a failure (2) to a launch engine, which a wake does not carry (DESIGN CHOICE, log entry 21). -/
def voteMark (n : Nat) : Word := BitVec.ofNat 64 n <<< 56

/-- The launch vote (R167): a release send to launch engine 0 of the core's die, with no effect once the core's vote has left, and none on a core that no launch
has woken, which has no launch to vote in (DEDUCED, log entry 35). The payload holds the LID,
the count 1 and the mark of a vote (DESIGN CHOICE, log entry 21). -/
def lendEff (s : State) : Effect :=
  if s.here.live.lcnt = 0 ∨ s.here.live.voted then .ok s
  else s.send (.uni (s.standIn (launchEngine (pkgOf s.at_) (dieOf s.at_))) kSystem 0 0 [flit4 (zext s.here.live.lid) 1 0 (voteMark 1)]) true 1 (.vote s.here.live.wakes)

/-- `lend` (R180). -/
def execLend (s : State) : Host.Outcome State Fault Refusal := finish 4 s (lendEff s)

end Sys2Proof.Machine
end

