-- ==== Sys2Proof/Machine/System.lean ====
section
/-! DEFINITION. System instructions (R304 to R307, R311 to R319), MO 0x2A. -/

namespace Sys2Proof.Machine

/-- R311: an instruction of MO 0x2A in a class-N slot raises CAPABILITY with its function number. -/
def State.system (s : State) (fn : Nat) (e : Effect) : Effect := if s.classS then e else .trap (.plain cCapability (BitVec.ofNat 64 fn))

/-- The checks of R32 on bytes staged under key slot 0, for which R312 and R319 name no alignment (DEDUCED, log entry 31). -/
def State.stagedCheck (s : State) (a : Word) (n : Nat) : Option Trap :=
  let e := nearEnd s.at_
  if e ≤ a.toNat then some (.atNear cPlacement a a)
  else if e < a.toNat + n then some (.atNear cPlacement (BitVec.ofNat 64 e) a)
  else (s.here.mem.check s.at_ KeyId.system false a.toNat n).map fun r => .atNear r.1 (BitVec.ofNat 64 r.2) (BitVec.ofNat 64 r.2)

/-- Bytes staged under key slot 0. -/
def State.staged0 (s : State) (a n : Nat) : List Byte := s.here.mem.read s.at_ KeyId.system a n

/-! Sealed images (R304, R305). -/

/-- A doubleword of a sealed image's header. -/
def headDw (h : List Byte) (i : Nat) : Word := BitVec.ofNat 64 (leNat ((h.drop (8 * i)).take 8))
/-- XLEN. -/
def headXlen (h : List Byte) : Nat := (fld (headDw h 1) 0 16 : BitVec 16).toNat
/-- NBL. -/
def headNbl (h : List Byte) : Nat := (fld (headDw h 2) 32 16 : BitVec 16).toNat
/-- CLASS. -/
def headClass (h : List Byte) : BitVec 2 := fld (headDw h 0) 48 2
/-- TEN. -/
def headTen (h : List Byte) : BitVec 12 := fld (headDw h 0) 50 12
/-- GEN. -/
def headGen (h : List Byte) : BitVec 16 := fld (headDw h 0) 32 16
/-- IMGID. -/
def headId (h : List Byte) : BitVec 32 := fld (headDw h 0) 0 32
/-- KSLOT. -/
def headKslot (h : List Byte) : BitVec 4 := fld (headDw h 1) 44 4
/-- MAC. -/
def headMac (h : List Byte) : BitVec 128 := BitVec.ofNat 128 (leNat ((h.drop 48).take 16))

/-- The header keeps R305's zero fields and the range of XLEN, and CLASS is not 3. -/
def headOk (h : List Byte) : Bool :=
  zeroBits (headDw h 0) 62 2 && zeroBits (headDw h 1) 48 16 && zeroBits (headDw h 1) 42 2 && zeroBits (headDw h 2) 48 16 && headDw h 3 == 0 && headDw h 4 == 0 &&
    headDw h 5 == 0 && decide (64 ≤ headXlen h) && decide (headXlen h ≤ 32768) && headXlen h % 64 == 0 && headClass h != 3

/-- Bytes of a sealed image whose header is `h` (R304). -/
def imageBytes (h : List Byte) : Nat := 64 + headXlen h + headXlen h / 16 + 8 * headNbl h

/-- The MAC of a sealed image verifies (R306): over header bytes 0x00 to 0x2F and every byte from offset 64. -/
def macOk (img : List Byte) : Bool := Config.sealMac (img.take 48 ++ img.drop 64) == headMac img

/-- Whether a core may hold an image of this class and tenant (R312): engine images on engine cores alone, user images on compute cores alone and with the tenant's key slot bound. -/
def State.mayLoad (s : State) (h : List Byte) : Bool :=
  let cls := headClass h
  if cls = 2 then isEngine s.at_
  else if cls = 0 then
    !isEngine s.at_ && decide (headKslot h ≠ 0) && (match s.here.regs.keys[(headKslot h).toNat] with
      | some k => k.ten == headTen h
      | none => false)
  else true

/-- Whether an IGT entry passes an image (R307). -/
def igtPasses (e : Word) (id : BitVec 32) (gen : BitVec 16) : Bool := bit e 63 && fld e 0 32 == id && fld e 32 16 == gen

/-- The IGT entry of an image ID (R307). -/
def Package.igtEntry (k : Package) (id : BitVec 32) : Word := (look k.igt (id.toNat % 65536)).getD 0

/-- An extent of `xlen` bytes at `b` keeps clear of an image's. -/
def ImgEntry.clearOf (i : ImgEntry) (b xlen : Nat) : Bool := decide (b + xlen ≤ i.base.toNat) || decide (i.base.toNat + i.xlen.toNat ≤ b)

/-- The 64-B aligned spans of instruction memory that are free for an extent (R36): no resident image and no activation that still runs lies there (R47). -/
def Core.spans (c : Core) (xlen : Nat) : List Nat :=
  ((List.range 512).map (64 * ·)).filter fun b => decide (b + xlen ≤ 32768) &&
    (c.images.toList.all fun o => match o with
      | some i => i.clearOf b xlen
      | none => true) && c.acts.toList.all fun a => !a.busy || a.img.clearOf b xlen

/-- The executable-map bits of an extent: `f` over its halfwords. -/
def setMap (x : BitVec 16384) (base xlen : Nat) (f : Nat → Bool) : BitVec 16384 :=
  let keep := ~~~((BitVec.allOnes 16384 >>> (16384 - xlen / 2)) <<< (base / 2))
  (x &&& keep) ||| (BitVec.ofNat 16384 ((List.range (xlen / 2)).foldr (fun i n => 2 * n + (if f i then 1 else 0)) 0) <<< (base / 2))

/-- A binding-list entry (R304). -/
def bindOf (w : Word) : BitVec 8 × BitVec 15 := (fld w 0 8, fld w 14 15)

/-- An image-table entry from a sealed image placed at a base (R36, R305, R312). -/
def entryOf (img : List Byte) (base order : Nat) : ImgEntry :=
  let x := headXlen img
  let bl := img.drop (64 + x + x / 16)
  { base := BitVec.ofNat 15 base, xlen := BitVec.ofNat 16 x, id := headId img, gen := headGen img, ten := headTen img, kslot := headKslot img, cls := headClass img,
    rto := fld (headDw img 1) 16 16, nreg := fld (headDw img 1) 32 10, stale := false, order := order,
    binds := (List.range (headNbl img)).map fun i => bindOf (headDw bl i) }

/-- A sealed image loaded into an entry at a base: the extent, its map bits, the entry (R312). -/
def Core.loadImage (c : Core) (n : Fin 8) (img : List Byte) (base : Nat) : Core :=
  let x := headXlen img
  let map := (img.drop (64 + x)).take (x / 16)
  { c with
    imem := memWrite (memClear c.imem base x) base ((img.drop 64).take x)
    xmap := setMap c.xmap base x fun h => bit (map.getD (h / 8) 0) (h % 8)
    imemBad := c.imemBad.filter fun h => !(decide (base / 2 ≤ h) && decide (h < (base + x) / 2))
    images := c.images.set n (some (entryOf img base c.imgOrder))
    imgOrder := c.imgOrder + 1 }

/-- The steps of a load from the IGT home's reply on (R312): the status, and the machine with the image resident if it is 0. Which free span it takes is not promised. -/
def State.loadFound (s : State) (n : Fin 8) (img : List Byte) : Nat × State :=
  if !igtPasses (s.home.igtEntry (headId img)) (headId img) (headGen img) then (2, s)
  else if (s.here.images[n]).isSome then (3, s)
  else
    let spans := s.here.spans (headXlen img)
    match spans[Config.choice s.free % spans.length]? with
    | none => (4, s)
    | some b => (0, { s with here := s.here.loadImage n img b, free := s.free + 1 })

/-- The steps of a load after the header (R312), of an image that the vendor's own handler or engine stages: its IGT query is part of that handler's step. -/
def State.loadStaged (s : State) (n : Fin 8) (img : List Byte) : Nat × State := if !macOk img then (1, s) else s.loadFound n img

/-- `imgld` up to its IGT query (R312): the slot stalls until the reply with the image as it has been read. -/
def imgldStart (a d : BitVec 5) (s : State) : Effect :=
  let x := s.g a
  match s.stagedCheck x 64 with
  | some t => .trap t
  | none =>
    let h := s.staged0 x.toNat 64
    if !headOk h then .ok (s.setG d 1)
    else if !s.mayLoad h then .ok (s.setG d 5)
    else
      match s.stagedCheck x (imageBytes h) with
      | some t => .trap t
      | none =>
        let img := s.staged0 x.toNat (imageBytes h)
        if !macOk img then .ok (s.setG d 1) else .wait (s.modAct fun v => { v with part := .igt img }) true

/-- `imgld` (R312). The IGT home's reply is there when the slot is next tried; the checks before it are not repeated (log entry 32). -/
def imgldEff (a d : BitVec 5) (i : BitVec 10) (s : State) : Effect :=
  match s.act.part with
  | .igt img =>
    let r := s.loadFound (fld i 0 3).toFin img
    .ok (r.2.setG d (BitVec.ofNat 64 r.1))
  | _ => imgldStart a d s

/-- `imgld` (R312). -/
def execImgld (a d : BitVec 5) (i : BitVec 10) (s : State) : Host.Outcome State Fault Refusal := finish 4 s (s.system 0 (imgldEff a d i s))

/-- A revoke request to the IGT home (R314), supervisor core 0 of die 0: image ID, S, and a mark that tells it from a notice (DESIGN CHOICE, log entry 23). -/
def revokeFlit (id : BitVec 32) (succ : Bool) : Strip := flit4 (zext id ||| (boolWord succ <<< 32)) 1 0 0

/-- `imgrev` (R314). -/
def execImgrev (a : BitVec 5) (s : State) : Host.Outcome State Fault Refusal :=
  finish 4 s (s.system 1 (s.send (.uni (s.standIn (supervisor0 (pkgOf s.at_) 0)) kSystem 5 0 [revokeFlit (fld (s.g a) 0 32) (bit (s.g a) 32)]) false 1 .plain))

/-- The refusals of a handler-entry write (R153, R255, R316); the table of an engine core holds only entries with C = 1 (R221). -/
def State.entryOk (s : State) (e : Word) (ch : BitVec 8) : Bool :=
  let img := s.here.images[entryImg e]
  zeroBits e 0 14 && !bit e 14 && fld e 32 16 != 0 && (fld e 54 3 != 7 || bit e 57) && (!bit e 59 || (!bit e 58 && decide (xOf s.at_ < 47))) &&
    (bit e 57 || !(sysChannel ch || isEngine s.at_)) &&
    (!bit e 63 || (match img with
      | none => false
      | some i => !(i.cls == 0 && bit e 57)))

/-- `hset` (R316). -/
def hsetEff (a : BitVec 5) (i : BitVec 10) (s : State) : Effect :=
  let e := s.g a
  if s.entryOk e (fld i 0 8) then .ok (s.modLive fun x => { x with handlers := putD x.handlers (fld i 0 8 : BitVec 8).toNat e noEntry })
  else .trap (.plain cCapability e)

/-- `hset` (R316). -/
def execHset (a : BitVec 5) (i : BitVec 10) (s : State) : Host.Outcome State Fault Refusal := finish 4 s (s.system 2 (hsetEff a i s))

/-- `pset` (R316). -/
def psetEff (a b : BitVec 5) (i : BitVec 10) (s : State) : Effect :=
  let base := s.g a
  let len := s.g b
  if base.toNat % 16 ≠ 0 ∨ len = 0 ∨ len.toNat % 16 ≠ 0 ∨ 0x40000 < base.toNat + len.toNat then .trap (.plain cCapability base)
  else .ok (s.modLive fun x => { x with pregs := put x.pregs i.toNat (fld base 0 18, fld len 0 19) })

/-- `pset` (R316). -/
def execPset (a b : BitVec 5) (i : BitVec 10) (s : State) : Host.Outcome State Fault Refusal := finish 4 s (s.system 3 (psetEff a b i s))

/-- The refusals of a window write (R317). -/
def windowOk (w : BitVec 128) : Bool :=
  let b := (fld w 0 18 : BitVec 18).toNat
  let e := (fld w 18 19 : BitVec 19).toNat
  zeroBits w 104 12 && zeroBits w 68 32 && zeroBits w 37 27 && !(bit w 103 && decide (e ≤ b)) && decide (e ≤ 0x40000)

/-- `winw` (R317). -/
def winwEff (a b : BitVec 5) (i : BitVec 10) (s : State) : Effect :=
  let w : BitVec 128 := s.g b ++ s.g a
  if windowOk w then .ok { s with here := { s.here with windows := s.here.windows.set (fld i 0 3 : BitVec 3).toNat w } }
  else .trap (.plain cCapability (zext i))

/-- `winw` (R317). -/
def execWinw (a b : BitVec 5) (i : BitVec 10) (s : State) : Host.Outcome State Fault Refusal := finish 4 s (s.system 4 (winwEff a b i s))

/-- `keyset` (R318). -/
def keysetEff (a : BitVec 5) (i : BitVec 10) (s : State) : Effect :=
  let ten : BitVec 12 := fld (s.g a) 0 12
  let n : BitVec 4 := fld i 0 4
  if ten = 0 ∨ n = 0 then .trap (.plain cCapability (zext i))
  else .ok { s with here := { s.here with regs := { s.here.regs with keys := s.here.regs.keys.set n.toNat (some (s.deriveKey ten n)) } } }

/-- `keyset` (R318). -/
def execKeyset (a : BitVec 5) (i : BitVec 10) (s : State) : Host.Outcome State Fault Refusal := finish 4 s (s.system 5 (keysetEff a i s))

/-- A save area is good (R319): 6 KiB, 64-B aligned, in a device-space region on the core. -/
def State.areaOk (s : State) (x : BitVec 18) : Bool :=
  x.toNat % 64 == 0 && s.home.rpt.any fun e =>
    e.space == 0xFF && e.kind == 0 && fld e.loc 18 29 == s.at_ && decide ((fld e.loc 0 18).toNat ≤ x.toNat) && decide (x.toNat + 6144 ≤ (fld e.loc 0 18).toNat + e.len.toNat)

/-- The lease word (R319): its zero bits and its save areas, where an incoming area of 0 means a new lessee. -/
def State.leaseWordOk (s : State) (w : Word) : Bool :=
  zeroBits w 18 14 && zeroBits w 50 14 && s.areaOk (fld w 0 18) && (fld w 32 18 == (0 : BitVec 18) || s.areaOk (fld w 32 18))

/-- A record of 16 doublewords from 128 bytes. -/
def recOfBytes (bs : List Byte) : Vector Word 16 := Vector.ofFn fun i => headDw bs i.val

/-- The state that a save area holds (R252, R319): zero for area 0, which means a new lessee; what the saving put there, as long as the area's bytes are its own; else what those bytes yield,
free but for the launch registers, which R252 does not have saved (log entry 30). -/
def State.savedAt (s : State) (area : BitVec 18) : Lessee :=
  if area = 0 then Lessee.zero
  else
    let bs := s.staged0 area.toNat saveLength
    match s.here.saved.find? fun v => v.area == area with
    | some v => if bs = saveBytes v.serial then v.lessee else (Config.areaState bs).underLaunch v.lessee
    | none => (Config.areaState bs).underLaunch Lessee.zero

/-- `lease` (R319): a bad record or lease word is refused before any state changes; the slot stalls until the core is quiescent; then step 3 of R251 begins the change, and step 4 is
made as one step with no dispatch inside it. Steps 5 and 6 follow (`State.leaseFinish`). -/
def leaseEff (a b : BitVec 5) (s : State) : Effect :=
  let w := s.g b
  let p := s.g a
  let bad := Trap.plain cCapability w
  if !s.leaseWordOk w ∨ nearEnd s.at_ < p.toNat + 128 then .trap bad
  else match s.stagedCheck p 128 with
    | some t => .trap t
    | none =>
      let r := recOfBytes (s.staged0 p.toNat 128)
      if !recOk r then .trap bad
      else if !s.quiescent then .stall false
      else match s.act.part with
        | .lease => .ok ((s.modAct fun x => { x with part := .none }).changeLease r (s.savedAt (fld w 32 18)) (some (fld w 0 18)))
        | _ => .fin ((({ s with here := { s.here with changing := true } }).modAct fun x => { x with part := .lease }).stalled false)

/-- `lease` (R319). -/
def execLease (a b : BitVec 5) (s : State) : Host.Outcome State Fault Refusal := finish 4 s (s.system 6 (leaseEff a b s))

/-- An activation dispatched from an image-table entry holds a slot, or a valid handler entry of the lessee names it (R313). -/
def Core.imageInUse (c : Core) (n : Fin 8) : Bool :=
  (c.acts.toList.any fun a => a.busy && entryImg a.entry == n) || c.live.handlers.any fun h => bit h.2 63 && entryImg h.2 == n

/-- An image-table entry and its map bits cleared (R313). -/
def Core.dropImage (c : Core) (n : Fin 8) : Core :=
  match c.images[n] with
  | none => c
  | some i => { c with images := c.images.set n none, xmap := setMap c.xmap i.base.toNat i.xlen.toNat fun _ => false }

/-- `imgev` (R313). -/
def imgevEff (d : BitVec 5) (i : BitVec 10) (s : State) : Effect :=
  let n : Fin 8 := (fld i 0 3 : BitVec 3).toFin
  if s.here.imageInUse n then .ok (s.setG d 1) else .ok ({ s with here := s.here.dropImage n }.setG d 0)

/-- `imgev` (R313). -/
def execImgev (d : BitVec 5) (i : BitVec 10) (s : State) : Host.Outcome State Fault Refusal := finish 4 s (s.system 7 (imgevEff d i s))

/-! The image generation table and revocation (R307, R314). -/

/-- Every core of a package in core order: the compute cores and the engines of its eight dies (R174, R222). -/
def packageCores (pkg : Nat) : List CoreAddr :=
  (List.range 8).flatMap fun d => rectangle (mkAddr pkg d 0 0) 48 32 ++ rectangle (mkAddr pkg d 62 0) 48 2

/-- The notice of a revocation (R314): image ID and new generation. -/
def noticeFlit (id : BitVec 32) (gen : BitVec 16) : Strip := flit4 (zext id ||| (zext gen <<< 32)) 0 0 0

/-- One revocation at the IGT home (R314): GEN rises by 1 and SUCC takes S; an absent ID or a GEN of 65,535 is NACKed with PLACEMENT, to which the spec gives no
value. -/
def State.revoke (s : State) (m : Msg) : State :=
  let id : BitVec 32 := fld (m.dw 0) 0 32
  let e := s.home.igtEntry id
  let gen : BitVec 16 := fld e 32 16
  if !(bit e 63 && fld e 0 32 == id) || gen == 0xFFFF then s.nack m cPlacement (Config.info cPlacement (zext id) s.time)
  else
    let e' := setFld (setFld e 32 (gen + 1)) 62 (BitVec.ofBool (bit (m.dw 0) 32))
    let t := (s.modHome fun k => { k with igt := put k.igt (id.toNat % 65536) e' }).settle m
    (packageCores (pkgOf s.at_)).foldl (fun u d => u.sendOwn d kSystem 5 0 [noticeFlit id (gen + 1)]) t

/-- IGT_REVOKE_REQUEST (R314): a request from core `src` reaches the IGT home. -/
def execIgtRevokeRequest (s : State) : Host.Outcome State Fault Refusal :=
  .next (s.takes .igtRevokeRequest (fun _ => true) fun m t => t.revoke m)

/-- Every image-table entry that holds an ID at a lower generation becomes STALE (R314). -/
def Core.staleImages (c : Core) (id : BitVec 32) (gen : BitVec 16) : Core :=
  { c with images := c.images.map fun o => o.map fun i => if i.id == id && decide (i.gen.toNat < gen.toNat) then { i with stale := true } else i }

/-- What the notice does at a core (R314). -/
def State.markStale (s : State) (m : Msg) : State := { s with here := s.here.staleImages (fld (m.dw 0) 0 32) (fld (m.dw 0) 32 16) }

end Sys2Proof.Machine
end

