-- ==== Sys2Proof/Machine/Launch.lean ====
section
/-! DEFINITION. Launches (R162 to R168, R273): acceptance, the wake at a core, votes, completion, and the journal's account of them (R354). -/

namespace Sys2Proof.Machine

/-! The launch parameter block (R162). -/

/-- Doubleword `i` of a block. -/
abbrev lpbDw (b : List Byte) (i : Nat) : Word := headDw b i
/-- LID. -/
def lpbLid (b : List Byte) : BitVec 32 := fld (lpbDw b 0) 32 32
/-- NH. -/
def lpbNh (b : List Byte) : Nat := (fld (lpbDw b 0) 26 6 : BitVec 6).toNat
/-- NI. -/
def lpbNi (b : List Byte) : Nat := (fld (lpbDw b 0) 22 4 : BitVec 4).toNat
/-- NP. -/
def lpbNp (b : List Byte) : Nat := (fld (lpbDw b 0) 18 4 : BitVec 4).toNat
/-- RK. -/
def lpbRk (b : List Byte) : Nat := (fld (lpbDw b 0) 16 2 : BitVec 2).toNat
/-- CK. -/
def lpbCk (b : List Byte) : Nat := (fld (lpbDw b 0) 14 2 : BitVec 2).toNat
/-- DBUD. -/
def lpbDbud (b : List Byte) : BitVec 16 := fld (lpbDw b 2) 32 16
/-- START. -/
def lpbStart (b : List Byte) : BitVec 8 := fld (lpbDw b 2) 0 8
/-- First doubleword of the persistent regions. -/
def lpbRegions (b : List Byte) : Nat := 4 + 2 * lpbNi b
/-- First doubleword of the templates. -/
def lpbTemplates (b : List Byte) : Nat := lpbRegions b + 2 * ((lpbNp b + 1) / 2)
/-- Length of a block in bytes, from its first 32. -/
def lpbBytes (b : List Byte) : Nat := 8 * (lpbTemplates b + 2 * lpbNh b)

/-- Number of cores in the range, `lcnt`. -/
def lpbCount (b : List Byte) : Nat :=
  let r := lpbDw b 1
  if lpbRk b = 0 then (fld r 32 28 : BitVec 28).toNat else (fld r 8 6 : BitVec 6).toNat * (fld r 0 6 : BitVec 6).toNat

/-- Corner of a rectangle. -/
def lpbCorner (b : List Byte) : CoreAddr :=
  let r := lpbDw b 1
  mkAddr (fld r 35 14 : BitVec 14).toNat (fld r 32 3 : BitVec 3).toNat (fld r 24 6 : BitVec 6).toNat (fld r 16 6 : BitVec 6).toNat

/-- FIRST. -/
def lpbFirst (b : List Byte) : Nat := (fld (lpbDw b 1) 0 28 : BitVec 28).toNat

/-- Core of a rank (R165). -/
def lpbCore (b : List Byte) (rank : Nat) : CoreAddr :=
  if lpbRk b = 0 then ofFlat (lpbFirst b + rank)
  else
    let w := (fld (lpbDw b 1) 0 6 : BitVec 6).toNat
    let c := lpbCorner b
    mkAddr (pkgOf c) (dieOf c) (yOf c + rank / w) (xOf c + rank % w)

/-- Rank of a core in the range (R165). -/
def lpbRank (b : List Byte) (a : CoreAddr) : Nat :=
  if lpbRk b = 0 then flatOf a - lpbFirst b
  else
    let c := lpbCorner b
    (yOf a - yOf c) * (fld (lpbDw b 1) 0 6 : BitVec 6).toNat + (xOf a - xOf c)

/-- Flat number of rank 0. -/
def lpbBase (b : List Byte) : Nat := if lpbRk b = 0 then lpbFirst b else flatOf (lpbCorner b)

/-- The cores of the range. -/
def lpbCores (b : List Byte) : List CoreAddr := (List.range (lpbCount b)).map (lpbCore b)

/-! The checks of R163, as offset of the first field that fails. -/

/-- A field check: its offset, and whether it holds. -/
abbrev FieldCheck := Nat × Bool

/-- The header's checks. -/
def headChecks (b : List Byte) : List FieldCheck :=
  let r := lpbDw b 1
  let t := lpbDw b 3
  [(0, zeroBits (lpbDw b 0) 0 14 && decide (1 ≤ lpbNh b) && decide (lpbNh b ≤ 32) && decide (1 ≤ lpbNi b) && decide (lpbNi b ≤ 8) && decide (lpbNp b ≤ 8) &&
      decide (lpbRk b ≤ 1) && decide (lpbCk b ≤ 2)),
   (8, if lpbRk b = 0 then zeroBits r 60 4 && zeroBits r 28 4 && decide (1 ≤ lpbCount b) && decide (lpbFirst b + lpbCount b ≤ 201326592)
       else zeroBits r 49 15 && zeroBits r 30 2 && zeroBits r 22 2 && zeroBits r 14 2 && zeroBits r 6 2 && decide (1 ≤ lpbCount b) &&
         decide ((fld r 24 6 : BitVec 6).toNat + (fld r 8 6 : BitVec 6).toNat ≤ 32) && decide ((fld r 16 6 : BitVec 6).toNat + (fld r 0 6 : BitVec 6).toNat ≤ 48)),
   (16, zeroBits (lpbDw b 2) 48 16 && zeroBits (lpbDw b 2) 8 24 && lpbDbud b != 0 && userChannel (lpbStart b)),
   (24, match lpbCk b with
     | 0 => t == 0
     | 1 => zeroBits t 37 27 && (userChannel (fld t 29 8) || fld t 29 8 == (248 : BitVec 8)) && namesCore (fld t 0 29)
     | _ => zeroBits t 31 33 && decide ((fld t 21 10 : BitVec 10).toNat ≤ 1000))]

/-- One image's checks: the shape of its words. -/
def imageCheck (b : List Byte) (i : Nat) : FieldCheck := (32 + 16 * i, zeroBits (lpbDw b (4 + 2 * i)) 48 16)

/-- Generation and ID of an image of a block. -/
def lpbImage (b : List Byte) (i : Nat) : BitVec 32 × BitVec 16 × Word := (fld (lpbDw b (4 + 2 * i)) 0 32, fld (lpbDw b (4 + 2 * i)) 32 16, lpbDw b (5 + 2 * i))

/-- One persistent region's check; the padding's. -/
def regionCheck (b : List Byte) (j : Nat) : FieldCheck :=
  let w := lpbDw b (lpbRegions b + j)
  let n := (fld w 0 19 : BitVec 19).toNat
  (8 * (lpbRegions b + j), if j < lpbNp b then zeroBits w 19 45 && decide (16 ≤ n) && decide (n ≤ 262144) && n % 16 == 0 else w == 0)

/-- Words of a template. -/
def lpbTemplate (b : List Byte) (t : Nat) : Word × Word := (lpbDw b (lpbTemplates b + 2 * t), lpbDw b (lpbTemplates b + 2 * t + 1))

/-- The system instructions' rules on a template (R153, R255): zero bits, PREG, image index, priority and class, and P only in mode D. That R255
has a template refused at acceptance for P in mode I is DEDUCED; P on a range with a core of column 47 is not (log entry 79). -/
def templateOk (b : List Byte) (w : Word) : Bool :=
  let preg := (fld w 48 6 : BitVec 6).toNat
  if bit w 63 then
    zeroBits w 0 15 && decide ((fld w 29 3 : BitVec 3).toNat < lpbNi b) && (decide (preg < lpbNp b) || preg == 63) && (fld w 54 3 != (7 : BitVec 3) || bit w 57) &&
      (!bit w 59 || !bit w 58)
  else w == 0

/-- One template's checks: its word, and its channel, which no earlier template names. -/
def templateChecks (b : List Byte) (t : Nat) : List FieldCheck :=
  let w := lpbTemplate b t
  let at_ := 8 * (lpbTemplates b + 2 * t)
  [(at_, templateOk b w.1),
   (at_ + 8, zeroBits w.2 8 56 && userChannel (fld w.2 0 8) && !((List.range t).any fun u => (lpbTemplate b u).2 == w.2))]

/-- The checks on the block alone, in address order. -/
def lpbShape (b : List Byte) : List FieldCheck :=
  headChecks b ++ (List.range (lpbNi b)).map (imageCheck b) ++ (List.range (2 * ((lpbNp b + 1) / 2))).map (regionCheck b) ++ (List.range (lpbNh b)).flatMap (templateChecks b)

/-- The lowest offset of a check that fails. -/
def firstFail (l : List FieldCheck) : Option Nat := ((l.filter fun c => !c.2).map (·.1)).min?

/-! Reading what the tenant named. -/

/-- The sealed image at an offset of a tenant's space, read whole (R304). -/
def State.imageAt (s : State) (pkg : Nat) (ten : BitVec 12) (off : Word) : Option (List Byte) :=
  let sp := (s.pkg pkg).gsaOf ten
  match s.gvaRead pkg ten sp off 64 with
  | .ok h => if headOk h then
      (match s.gvaRead pkg ten sp off (imageBytes h) with
      | .ok b => some b
      | _ => none)
    else none
  | _ => none

/-- The watchpoints that the read of an image hits (R344). -/
def State.seeImage (s : State) (pkg : Nat) (ten : BitVec 12) (off : Word) : State :=
  let sp := (s.pkg pkg).gsaOf ten
  match s.gvaRead pkg ten sp off 64 with
  | .ok h => s.seeRead pkg ten sp off (if headOk h then imageBytes h else 64)
  | _ => s

/-- The watchpoints that the reads of a block's images hit (R344). -/
def State.seeImages (s : State) (pkg : Nat) (ten : BitVec 12) (b : List Byte) : State :=
  (List.range (lpbNi b)).foldl (fun t i => t.seeImage pkg ten (lpbImage b i).2.2) s

/-- An image at an offset of a tenant's space cannot be read yet, because its region slides (R321). -/
def State.imageHeld (s : State) (pkg : Nat) (ten : BitVec 12) (off : Word) : Bool :=
  let sp := (s.pkg pkg).gsaOf ten
  match s.gvaRead pkg ten sp off 64 with
  | .held => true
  | .ok h => headOk h && (match s.gvaRead pkg ten sp off (imageBytes h) with
    | .held => true
    | _ => false)
  | _ => false

/-- An image that a block names cannot be read yet. -/
def State.imagesHeld (s : State) (pkg : Nat) (ten : BitVec 12) (b : List Byte) : Bool :=
  (List.range (lpbNi b)).any fun i => s.imageHeld pkg ten (lpbImage b i).2.2

/-- The load checks of an image that a launch names (R163, R307): present, its MAC, its ID and generation, and the IGT. -/
def State.imageLoads (s : State) (pkg : Nat) (ten : BitVec 12) (x : BitVec 32 × BitVec 16 × Word) : Bool :=
  match s.imageAt pkg ten x.2.2 with
  | none => false
  | some b => macOk b && headId b == x.1 && headGen b == x.2.1 && igtPasses ((s.pkg pkg).igtEntry x.1) x.1 x.2.1

/-- A class-S template names no user image (R153). -/
def State.classOk (s : State) (pkg : Nat) (ten : BitVec 12) (b : List Byte) (w : Word) : Bool :=
  !bit w 57 || (match s.imageAt pkg ten (lpbImage b (fld w 29 3 : BitVec 3).toNat).2.2 with
    | some i => headClass i != 0
    | none => false)

/-- A core that a launch of a tenant may name in this package: of the tenant's partition, and not absent (R163, R259). -/
def Package.mayLaunch (k : Package) (ten : BitVec 12) (a : CoreAddr) : Bool :=
  let part := match k.vfOf ten with
    | some (_, f) => (fld (f.rec16[0]) 32 5 : BitVec 5).toNat
    | none => 0
  isCompute a && k.partOf a == part && !k.absent.contains a.toNat

/-- The checks that each package makes for its own cores (R163): range and partition, images, and templates' classes. -/
def State.lpbLocal (s : State) (pkg : Nat) (ten : BitVec 12) (b : List Byte) : List FieldCheck :=
  (8, (lpbCores b).all fun a => pkgOf a != pkg || (s.pkg pkg).mayLaunch ten a) ::
    ((List.range (lpbNi b)).map fun i => (32 + 16 * i, s.imageLoads pkg ten (lpbImage b i))) ++
    ((List.range (lpbNh b)).map fun t => (8 * (lpbTemplates b + 2 * t), s.classOk pkg ten b (lpbTemplate b t).1))

/-! The journal (R354). -/

/-- A queue's status word, which shows the status of its last command (R352), after the journal entry `seq` has got another status. -/
def restate (seq : Word) (status : BitVec 8) (w : Word) : Word := if w >>> 16 == (seq <<< 16) >>> 16 then (seq <<< 16) ||| zext status else w

/-- A journal entry's status and INFO rewritten, and with it the status word of the queue that shows it. -/
def Func.rewrite (f : Func) (seq : Word) (status : BitVec 8) (info : BitVec 40) : Func :=
  { f with
    journal := mapFirst (fun j => j.seq == seq) (fun j => { j with status := status, info := info }) f.journal
    status := f.status.map fun x => (x.1, restate seq status x.2) }

/-- A function of a package, changed. -/
def Package.modFn (k : Package) (i : Nat) (f : Func → Func) : Package := { k with funcs := put k.funcs i (f ((look k.funcs i).getD Func.reset)) }

/-- A launch's journal entry rewritten in its root's package. -/
def State.journal (s : State) (vf : Nat) (seq : Word) (status : BitVec 8) (info : BitVec 40) : State := s.modHome fun k => k.modFn vf fun f => f.rewrite seq status info

/-! Acceptance (R163, R164, R273). -/

/-- The wake's flit (R164): the copy's offset, the LPB's offset, the LID and the sub-ID. -/
def wakeFlit (l : Launch) : Strip := flit4 l.copyOff l.lpbOff (zext l.lid) (zext l.sub)

/-- A launch's containment ID. -/
def Launch.cid (l : Launch) : BitVec 16 := l.ten ++ l.sub

/-- The engines and cores that a launch engine passes a wake to (R164, R273): the root to the other packages' engines, die 0's engine to those of the other dies
in the range, and each engine to its own die's cores, once each. -/
def wakeTargets (at_ : CoreAddr) (root : Bool) (cores : List CoreAddr) : List CoreAddr :=
  let pkg := pkgOf at_
  let here := cores.filter fun a => pkgOf a == pkg
  let pkgs := if root then ((cores.map pkgOf).eraseDups.filter (· != pkg)).map fun p => launchEngine p 0 else []
  let dies := if dieOf at_ = 0 then ((here.map dieOf).eraseDups.filter (· != 0)).map fun d => launchEngine pkg d else []
  pkgs ++ dies ++ here.filter fun a => dieOf a == dieOf at_

/-- The cores that an engine collects votes for: the whole range at the root, its package's at die 0, its die's elsewhere (R273). -/
def collects (at_ : CoreAddr) (root : Bool) (cores : List CoreAddr) : Nat :=
  if root then cores.length
  else (cores.filter fun a => pkgOf a == pkgOf at_ && (dieOf at_ == 0 || dieOf a == dieOf at_)).length

/-- A launch at an engine: its record, and the wakes it passes on. -/
def State.passWake (s : State) (l : Launch) (root : Bool) : State :=
  let cores := lpbCores l.lpb
  let targets := (wakeTargets s.at_ root cores).map s.standIn
  let l := { l with cores := collects s.at_ root cores, waits := targets }
  targets.foldl (fun t d => t.leaveOwn { OutItem.own (.uni d kSystem 0 0 [wakeFlit l]) l.cid with who := .wake l.lid })
    (s.modEng fun e => { e with launches := e.launches ++ [l] })

/-- The copies of blocks that the launch engines of a package hold in space 0xFF (R164), as ranges. -/
def State.copies (s : State) (pkg : Nat) : List (Nat × Nat) :=
  ((List.range 8).flatMap fun d => (roleMates (launchEngine pkg d)).flatMap fun a => (s.core a).eng.launches).map fun l => (l.copyOff.toNat, l.copyOff.toNat + l.lpb.length)

/-- Where an engine puts the copy of a block of `n` bytes (R164: not promised): where it likes, clear of the copies that stand, or behind them all. -/
def State.copyPlace (s : State) (n : Nat) : Nat :=
  let live := s.copies (pkgOf s.at_)
  let b := 64 * (Config.choice s.free % 2 ^ 57)
  if live.all fun r => decide (b + n ≤ r.1) || decide (r.2 ≤ b) then b else 64 * ((live.foldl (fun m r => max m r.2) 0 + 63) / 64)

/-- The copy of a block stands in the package's part of space 0xFF. -/
def State.putCopy (s : State) (copy : Nat) (b : List Byte) : State :=
  { s with free := s.free + 1 }.modHome fun k => { k with devMem := memWrite k.devMem copy b }

/-- A refused launch (R163): the journal says so, and the submitter learns the error class and the address of the first failing field. The spec gives the class
no code (DESIGN CHOICE, log entry 38): it is free. -/
def State.refuseLaunch (s : State) (vf : Nat) (seq : Word) (addr : Word) : State :=
  (s.journal vf seq 0x02 0).modHome fun k => k.modFn vf fun f => { f with answers := f.answers ++ [(Config.info 0 addr s.time, addr)] }

/-- The root's part of an acceptance (R163, R164): the block is read whole, checked, copied into device space and the wake is passed on. -/
def State.acceptRoot (s : State) (m : Msg) : State :=
  let off := m.dw 0
  let vf := (m.dw 2).toNat
  let seq := m.dw 3
  let pkg := pkgOf s.at_
  let sp := s.home.gsaOf m.ten
  match s.gvaRead pkg m.ten sp off 32 with
  | .ok h =>
    match s.gvaRead pkg m.ten sp off (lpbBytes h) with
    | .ok b =>
      let bad := firstFail (if off.toNat % 64 = 0 then lpbShape b ++ s.lpbLocal pkg m.ten b else [(0, false)])
      let s := (s.seeRead pkg m.ten sp off (lpbBytes h)).seeImages pkg m.ten b
      match bad with
      | some f => s.refuseLaunch vf seq (off + BitVec.ofNat 64 f)
      | none =>
        let copy := s.copyPlace b.length
        let t := (s.putCopy copy b).journal vf seq 0x00 (zext40 (lpbLid b))
        t.passWake { lid := lpbLid b, ten := m.ten, sub := fld m.cid 0 4, lpb := b, lpbOff := off, copyOff := BitVec.ofNat 64 copy, cores := 0, votes := 0, waits := [],
                     up := none, vf := vf, seq := seq, failed := false } true
    | _ => s.refuseLaunch vf seq off
  | _ => s.refuseLaunch vf seq off
where
  zext40 (x : BitVec 32) : BitVec 40 := x.setWidth 40

/-- The block that a wake brings: the copy in the package of the engine that sent it. -/
def State.wakeBlock (s : State) (m : Msg) : List Byte :=
  let dev := (s.pkg (pkgOf m.src)).devMem
  memRead dev (m.dw 0).toNat (lpbBytes (memRead dev (m.dw 0).toNat 32))

/-- A wake at a launch engine (R273): die 0's engine of another package makes that package's checks, or NACKs the wake; then it is passed on, with a copy of the block in that
package's own part of space 0xFF. -/
def State.acceptWake (s : State) (m : Msg) : State :=
  let b := s.wakeBlock m
  let other := pkgOf m.src != pkgOf s.at_
  let bad := (firstFail (s.lpbLocal (pkgOf s.at_) m.ten b)).isSome
  let s := if other then s.seeImages (pkgOf s.at_) m.ten b else s
  if other ∧ bad then s.nack m cPlacement (Config.info cPlacement (m.dw 1) s.time)
  else
    let copy := if other then s.copyPlace b.length else (m.dw 0).toNat
    let t := s.settle m
    (if other then t.putCopy copy b else t).passWake
      { lid := lpbLid b, ten := m.ten, sub := fld m.cid 0 4, lpb := b, lpbOff := m.dw 1, copyOff := BitVec.ofNat 64 copy, cores := 0, votes := 0, waits := [],
        up := some m.src, vf := 0, seq := 0, failed := false } false

/-- Whether what an acceptance reads lies in a region that slides, so that it must wait (R321): the block, and the images that it names. -/
def State.lpbHeld (s : State) (m : Msg) : Bool :=
  let pkg := pkgOf s.at_
  let sp := s.home.gsaOf m.ten
  match s.gvaRead pkg m.ten sp (m.dw 0) 32 with
  | .held => true
  | .ok h => (match s.gvaRead pkg m.ten sp (m.dw 0) (lpbBytes h) with
    | .held => true
    | .ok b => s.imagesHeld pkg m.ten b
    | _ => false)
  | _ => false

/-- Whether a wake must wait for a slide before its package's checks. -/
def State.wakeHeld (s : State) (m : Msg) : Bool := pkgOf m.src != pkgOf s.at_ && s.imagesHeld (pkgOf s.at_) m.ten (s.wakeBlock m)

/-- LAUNCH_ACCEPT (R163, R164, R273): a submission or a wake from core `src` reaches a launch engine. -/
def execLaunchAccept (s : State) : Host.Outcome State Fault Refusal :=
  .next (s.takes .launchAccept (fun m => !(if isSubmission m then s.lpbHeld m else s.wakeHeld m)) fun m t => t.routeThen m fun u =>
    if isSubmission m then (u.settle m).acceptRoot m else u.acceptWake m)

/-! The wake at a core (R164). -/

/-- The near ranges that a lessee's persistent regions take: those of its table, and those that its launches placed. -/
def Lessee.ranges (l : Lessee) : List (Nat × Nat) :=
  (l.pregs.map (·.2) ++ l.placed.map (·.2.2)).map fun p => (p.1.toNat, p.1.toNat + p.2.toNat)

/-- The near ranges of a resident image's declared regions, from its region table (R304). -/
def Core.declared (c : Core) (i : ImgEntry) : List (Nat × Nat) :=
  (List.range i.nreg.toNat).map fun j =>
    let e : Word := memBits c.imem (i.base.toNat + i.rto.toNat + 8 * j) 8 64
    ((fld e 0 18 : BitVec 18).toNat, (fld e 32 19 : BitVec 19).toNat)

/-- The near ranges placed on a core: persistent regions of every lessee, and the declared regions of resident images. -/
def Core.placed (c : Core) : List (Nat × Nat) :=
  c.live.ranges ++ (c.saved.flatMap fun v => v.lessee.ranges) ++
    c.images.toList.flatMap fun o => match o with
      | none => []
      | some i => c.declared i

/-- The supervisor initialises the declared regions of the image in an entry under the tenant's key (R43, R148): every granule of them that is not under that key yet is zero under it. What the
tenant has written there since stays (DESIGN CHOICE, log entry 73: the rules say neither when nor to what). -/
def State.initDeclared (s : State) (n : Fin 8) : State :=
  match s.here.images[n] with
  | none => s
  | some i =>
    let key := s.here.key i.kslot
    let granules := (s.here.declared i).flatMap fun r => (List.range ((r.2 + 15) / 16 - r.1 / 16)).map (r.1 / 16 + ·)
    (granules.filter fun g => s.here.mem.tag g != key).foldl (fun t g => t.zeroUnder key (16 * g, 16 * g + 16)) s

/-- Near bases at which a region of `n` bytes fits (R164). -/
def Core.fits (c : Core) (n : Nat) : List Nat :=
  ((List.range 16384).map (16 * ·)).filter fun b => decide (b + n ≤ 0x40000) && c.placed.all fun r => decide (b + n ≤ r.1) || decide (r.2 ≤ b)

/-- R164 step 1: an image that may give way: no valid handler entry of any lessee names it, no activation runs on it, and the launch itself has not asked for it
(`keep`); the oldest load first. -/
def Core.evictable (c : Core) (keep : List (Fin 8)) : Option (Fin 8) :=
  let named := fun (n : Fin 8) (l : Lessee) => l.handlers.any fun h => bit h.2 63 && entryImg h.2 == n
  (((List.finRange 8).filter fun n => !keep.contains n && c.images[n].isSome && !c.imageInUse n && !(c.saved.any fun v => named n v.lessee)).foldl (fun (b : Option (Nat × Fin 8)) n =>
    let o := ((c.images[n]).map (·.order)).getD 0
    match b with
    | none => some (o, n)
    | some x => if o < x.1 then some (o, n) else some x) none).map (·.2)

/-- An image-table entry that holds an image at a generation and is not stale. -/
def Core.resident (c : Core) (id : BitVec 32) (gen : BitVec 16) : Option (Fin 8) :=
  (List.finRange 8).find? fun n => match c.images[n] with
    | some i => i.id == id && i.gen == gen && !i.stale
    | none => false

/-- A sealed image made resident (R164 step 1): in a free entry and span, evicting as long as it does not fit. What is evicted stays evicted if it does not fit in
the end. -/
def State.fitImage (s : State) (keep : List (Fin 8)) (img : List Byte) : Nat → Option (Fin 8) × State
  | 0 => (none, s)
  | fuel + 1 =>
    let free := (List.finRange 8).find? fun n => (s.here.images[n]).isNone
    match free, (s.here.spans (headXlen img)).isEmpty with
    | some n, false => let r := s.loadStaged n img; if r.1 = 0 then (some n, r.2) else (none, s)
    | _, _ => match s.here.evictable keep with
      | none => (none, s)
      | some n => ({ s with here := s.here.dropImage n }).fitImage keep img fuel

/-- An image made resident, if it was, with its declared regions initialised. -/
def initialised (r : Option (Fin 8) × State) : Option (Fin 8) × State := (r.1, (r.1.map r.2.initDeclared).getD r.2)

/-- One image of a block made resident: the one that is, or the tenant's sealed image loaded. -/
def State.makeResident (s : State) (ten : BitVec 12) (keep : List (Fin 8)) (x : BitVec 32 × BitVec 16 × Word) : Option (Fin 8) × State := initialised <|
  match s.here.resident x.1 x.2.1 with
  | some n => (some n, s)
  | none => match s.imageAt (pkgOf s.at_) ten x.2.2 with
    | none => (none, s)
    | some img =>
      let t := s.seeImage (pkgOf s.at_) ten x.2.2
      if t.mayLoad img then t.fitImage keep img 9 else (none, t)

/-- The images of a block made resident in order: the entry of each, or the wake fails at the first that does not fit. -/
def State.residents (s : State) (ten : BitVec 12) (b : List Byte) (done : List (Fin 8)) : List Nat → Option (List (Fin 8)) × State
  | [] => (some done, s)
  | i :: rest =>
    let r := s.makeResident ten done (lpbImage b i)
    match r.1 with
    | none => (none, r.2)
    | some n => r.2.residents ten b (done ++ [n]) rest

/-- Near bases of the acting core at which a region of `n` bytes fits (R164): clear of what `c` holds placed there, and of the placement table's regions on the core. -/
def State.roomFor (s : State) (c : Core) (n : Nat) : List Nat := (c.fits n).filter fun b => s.home.rpt.all fun e => (e.spansOn s.at_).all (apart (b, b + n))

/-- A region of `n` bytes placed anew at index `j` for a launch, zero under the tenant's key (R164 step 2). Where nothing is free, the regions that the tenant's other launches left
behind give way; one that still fits nowhere fails the wake, as an image that does not fit does (DESIGN CHOICE, log entry 38: the rule states the failure for images). -/
def State.placeNew (s : State) (kslot : BitVec 4) (lid j n : Nat) : Option State :=
  let drop := fun (f : Nat × Nat × (BitVec 18 × BitVec 19) → Bool) =>
    { s.here with live := { s.here.live with pregs := drop1 s.here.live.pregs j, placed := s.here.live.placed.filter f } }
  let c := drop fun x => !(x.1 == j && x.2.1 == lid)
  let c := if (s.roomFor c n).isEmpty then drop fun x => x.1 != j && x.2.1 == lid else c
  match (s.roomFor c n)[Config.persistBase s.free % (s.roomFor c n).length]? with
  | none => none
  | some base =>
    let r : BitVec 18 × BitVec 19 := (BitVec.ofNat 18 base, BitVec.ofNat 19 n)
    let t := { s with here := { c with live := { c.live with pregs := put c.live.pregs j r, placed := c.live.placed ++ [(j, lid, r)] } }, free := s.free + 1 }
    some (t.homeWrite (t.here.key kslot) base (List.replicate n 0))

/-- The region of a launch that stands placed at index `j` with `n` bytes. -/
def Lessee.placedFor (l : Lessee) (lid j n : Nat) : Option (BitVec 18 × BitVec 19) :=
  (l.placed.find? fun x => x.1 == j && x.2.1 == lid && x.2.2.2.toNat == n).map (·.2.2)

/-- R164 step 2: the persistent regions placed in order; one that stands placed for the same LID is kept. -/
def State.placeRegions (s : State) (kslot : BitVec 4) (b : List Byte) : List Nat → Option State
  | [] => some s
  | j :: rest =>
    let n := (fld (lpbDw b (lpbRegions b + j)) 0 19 : BitVec 19).toNat
    match s.here.live.placedFor (lpbLid b).toNat j n with
    | some r => (s.modLive fun x => { x with pregs := put x.pregs j r }).placeRegions kslot b rest
    | none => match s.placeNew kslot (lpbLid b).toNat j n with
      | none => none
      | some t => t.placeRegions kslot b rest

/-- R164 step 3: a template's entry, with the image-table entry of its image and DBUD for a BUDGET of 0. -/
def entryFrom (b : List Byte) (imgs : List (Fin 8)) (w : Word) : Word :=
  if bit w 63 then
    let n := (imgs.getD (fld w 29 3 : BitVec 3).toNat 0).val
    let w := setFld w 29 (BitVec.ofNat 3 n)
    if zeroBits w 32 16 then setFld w 32 (lpbDbud b) else w
  else 0

/-- R164 steps 3 to 5. -/
def State.enterLaunch (s : State) (m : Msg) (b : List Byte) (imgs : List (Fin 8)) : State :=
  let hs := (List.range (lpbNh b)).foldl (fun h t =>
    let w := lpbTemplate b t
    putD h (fld w.2 0 8 : BitVec 8).toNat (entryFrom b imgs w.1) noEntry) s.here.live.handlers
  let t := s.modLive fun x => { x with
    handlers := hs
    cnum := BitVec.ofNat 64 (lpbRank b s.at_)
    lbase := BitVec.ofNat 64 (lpbBase b)
    lcnt := BitVec.ofNat 64 (lpbCount b)
    lid := lpbLid b
    lpb := m.dw 1
    voted := false
    wakes := x.wakes + 1 }
  t.sendOwn s.at_ kCall (lpbStart b) m.cid []

/-- A failed wake (R164): the core sends a failure to the launch engine. -/
def State.failWake (s : State) (m : Msg) : State := s.sendOwn m.src kSystem 0 m.cid [flit4 (m.dw 2) 0 0 (voteMark 2)]

/-- A wake may be taken: the core is in no launch of its lessee, or its vote in that launch is settled (R164). R220 has a second launch of its program trap with SLOTSTATE before
the first has ended; by this rule its wake waits (DESIGN CHOICE, log entry 35). -/
def State.mayWake (s : State) : Bool :=
  s.here.live.lcnt == 0 ||
    (s.here.live.voted && !(s.here.net.sent.any fun r => !r.done && r.who == .vote s.here.live.wakes && cidTen r.cid == s.here.regs.lessee))

/-- An image of a block that is not resident slides, so that the handler waits before it reads it (R321). -/
def State.residentHeld (s : State) (ten : BitVec 12) (b : List Byte) : Bool :=
  (List.range (lpbNi b)).any fun i =>
    let x := lpbImage b i
    (s.here.resident x.1 x.2.1).isNone && s.imageHeld (pkgOf s.at_) ten x.2.2

/-- LAUNCH_WAKE (R164): the channel-0 handler takes the oldest wake from the engine's copy of the block. Its steps are one step of the model (DESIGN CHOICE, log
entry 38). -/
def execLaunchWake (s : State) : Host.Outcome State Fault Refusal :=
  .next (match s.vendorMsg 0 with
  | none => s
  | some m =>
    let b := s.wakeBlock m
    if !s.mayWake || s.residentHeld m.ten b then s
    else
      let r := (s.takeQueued 0).residents m.ten b [] (List.range (lpbNi b))
      match r.1 with
      | none => r.2.failWake m
      | some imgs =>
        let kslot := ((r.2.here.images[imgs.headD 0]).map (·.kslot)).getD 0
        match r.2.placeRegions kslot b (List.range (lpbNp b)) with
        | none => r.2.failWake m
        | some v => v.enterLaunch m b imgs)

/-! Failures, votes and the end (R164, R167, R168, R273). -/

/-- A launch of a tenant that still waits for a vote or a failure of `src`. -/
def Launch.awaits (lid : BitVec 32) (ten : BitVec 12) (src : CoreAddr) (l : Launch) : Bool := l.lid == lid && l.ten == ten && l.waits.contains src

/-- A launch record of the engine, changed. -/
def Engine.modLaunch (e : Engine) (p : Launch → Bool) (f : Launch → Launch) : Engine := { e with launches := mapFirst p f e.launches }

/-- A target's vote or failure is in. -/
def Launch.heard (l : Launch) (src : CoreAddr) : Launch := { l with waits := l.waits.filter (· != src) }

/-- A launch at this engine has failed (R164, R273): recorded in its journal entry with cause PLACEMENT at the root, passed up elsewhere; the first failure counts. -/
def State.failLaunch (s : State) (l : Launch) : State :=
  if l.failed then s
  else match l.up with
    | some d => s.sendOwn d kSystem 0 l.cid [flit4 (zext l.lid) 0 0 (voteMark 2)]
    | none => s.journal l.vf l.seq 0x03 (zext40 cPlacement)
where
  zext40 (x : BitVec 8) : BitVec 40 := x.setWidth 40

/-- The wake that this engine passed to `src` has failed: its launch fails (R164, R273). -/
def State.launchFailed (s : State) (lid : BitVec 32) (ten : BitVec 12) (src : CoreAddr) : State :=
  match s.here.eng.launches.find? (Launch.awaits lid ten src) with
  | none => s
  | some l => (s.modEng fun e => e.modLaunch (Launch.awaits lid ten src) fun x => { x.heard src with failed := true }).failLaunch l

/-- WAKE_FAILURE (R164): the failure of a core's wake reaches the launch engine. -/
def execWakeFailure (s : State) : Host.Outcome State Fault Refusal :=
  .next (s.takes .wakeFailure (fun _ => true) fun m t => t.routeThen m fun u => (u.settle m).launchFailed (fld (m.dw 0) 0 32) m.ten m.src)

/-- A completion by host interrupt (R168): at once with a window of 0, also while a window of the vector is open, which stays so (DESIGN CHOICE, log entry 38: the rule is silent on that
mix); else it opens a window, or falls into the open one, which closes no later than the completion's own window would: no completion waits longer than its window. -/
def Func.coalesce (f : Func) (v : BitVec 16) (us : Nat) (now up : Word) : Func :=
  let close := now + BitVec.ofNat 64 (1000 * us)
  if us = 0 then f.interrupt v now up
  else if f.opened.any fun o => o.1 == v then
    { f with opened := f.opened.map fun o => if o.1 == v && decide (close.toNat < o.2.toNat) then (v, close) else o }
  else { f with opened := f.opened ++ [(v, close)] }

/-- A launch's end at its root (R167, R355): its completion, its journal entry, and with launch-end notification assisted an interrupt on vector 0. -/
def State.launchEnd (s : State) (l : Launch) : State :=
  let t := lpbDw l.lpb 3
  let s := s.journal l.vf l.seq 0x01 (zext40 l.lid)
  let s := if s.home.assisted l.ten 41 then s.modFunc l.ten fun f => f.interrupt 0 s.time s.home.downUntil else s
  match lpbCk l.lpb with
  | 1 => s.sendOwn (fld t 0 29) kCall (fld t 29 8) l.cid [flit4 (zext l.lid) (BitVec.ofNat 64 (lpbCount l.lpb)) 0 0]
  | 2 => s.modHome fun k => k.modFn (fld t 16 5 : BitVec 5).toNat fun f => f.coalesce (fld t 0 16) (fld t 21 10 : BitVec 10).toNat s.time s.home.downUntil
  | _ => s
where
  zext40 (x : BitVec 32) : BitVec 40 := x.setWidth 40

/-- The engine's copy of a launch's block, which it holds for its package, is done with (R164): the root's, and that of another package's first engine. -/
def State.dropCopy (s : State) (l : Launch) : State :=
  if l.up.any fun d => pkgOf d == pkgOf s.at_ then s else s.modHome fun k => { k with devMem := memClear k.devMem l.copyOff.toNat l.lpb.length }

/-- `n` votes from `src` counted at an engine (R167, R273): once they are in for all its cores they go up as one, or the launch ends here. A failed launch, which never completes,
stands until its function is reset. -/
def State.count (s : State) (lid : BitVec 32) (ten : BitVec 12) (src : CoreAddr) (n : Nat) : State :=
  match s.here.eng.launches.find? (Launch.awaits lid ten src) with
  | none => s
  | some l =>
    if l.votes + n < l.cores ∨ l.failed then
      s.modEng fun e => e.modLaunch (Launch.awaits lid ten src) fun x => { x.heard src with votes := x.votes + n }
    else
      let t := (s.modEng fun e => { e with launches := dropFirst (Launch.awaits lid ten src) e.launches }).dropCopy l
      match l.up with
      | some d => t.sendOwn d kSystem 0 l.cid [flit4 (zext lid) (BitVec.ofNat 64 l.cores) 0 (voteMark 1)]
      | none => t.launchEnd l

/-- LAUNCH_VOTE (R167, R273): a vote, or a combined one, from core `src` reaches a launch engine. -/
def execLaunchVote (s : State) : Host.Outcome State Fault Refusal :=
  .next (s.takes .launchVote (fun _ => true) fun m t => t.routeThen m fun u => (u.settle m).count (fld (m.dw 0) 0 32) m.ten m.src (m.dw 1).toNat)

/-- A window's time is up. -/
def windowDue (now : Word) (o : BitVec 16 × Word) : Bool := decide (o.2.toNat ≤ now.toNat)

/-- The windows of a function whose time is up close, and one interrupt is raised for each (R168), unless it was due while the host port was down (R334). -/
def Func.closeWindows (f : Func) (now up : Word) : Func :=
  (f.opened.filter (windowDue now)).foldl (fun g o => g.interrupt o.1 o.2 up) { f with opened := f.opened.filter fun o => !windowDue now o }

/-- COALESCE_WINDOW_CLOSE (R168): the windows of function `idx` whose time is up. -/
def execCoalesceWindowClose (s : State) : Host.Outcome State Fault Refusal :=
  .next (s.modHome fun k =>
    match look k.funcs s.ev.idx with
    | none => k
    | some f => { k with funcs := put k.funcs s.ev.idx (f.closeWindows s.time s.home.downUntil) })

end Sys2Proof.Machine
end

