-- ==== Sys2Proof/Machine/Tables.lean ====
section
/-! DEFINITION. Decode tables and block formats (R70 to R75): the check of a record, decoding and encoding of codes, and of blocks. -/

namespace Sys2Proof.Machine

/-- Entry `c` of a decode table, as the memory holds it (R70). -/
def tabWord (t : Memory) (c : Nat) : Nat := memNat t (0x10 + 4 * c) 4

/-- IX value of a code (R70, R71). -/
def tabVal (t : Memory) (c : Nat) : Num := ixFmt.decode (tabWord t c % 2 ^ 19)

/-- NORD (R70). -/
def tabNord (t : Memory) : Nat := (memByte t 0).toNat

/-- NCODE. -/
def tabNcode (t : Memory) : Nat := (memByte t 1).toNat

/-- NCV. -/
def tabNcv (t : Memory) : Bool := bit (memByte t 2) 0

/-- Code of the i-th smallest value (R70). -/
def tabOrder (t : Memory) (i : Nat) : Nat := (memByte t (0x410 + i)).toNat

/-- v(i) of R71. -/
def tabV (t : Memory) (i : Nat) : Num := tabVal t (tabOrder t i)

/-- The check of R70. -/
def tabOk (t : Memory) : Bool :=
  let n := tabNord t
  decide ((memByte t 2).toNat < 2) &&
  (List.range 13).all (fun i => memByte t (3 + i) == 0) &&
  (List.range 256).all (fun c => decide (tabWord t c < 2 ^ 19)) &&
  (List.range 256).all (fun i => decide (i ≤ n) || memByte t (0x410 + i) == 0) &&
  (List.range (n + 1)).all (fun i => !(tabV t i).isNan) &&
  (List.range n).all (fun i => numLt (tabV t i) (tabV t (i + 1)))

/-- A value times a positive scale. -/
def Num.times (s : Dy) : Num → Num
  | .nan q => .nan q
  | .inf n => .inf n
  | .fin d => .fin (d.mul s)

/-- The binary search of R71 on an order list: the index lo with v(lo) ≤ x < v(lo + 1). -/
def tabSearch (t : Memory) (s : Dy) (x : Num) : Nat → Nat → Nat → Nat
  | 0, lo, _ => lo
  | fuel + 1, lo, hi =>
    if hi - lo > 1 then
      let mid := (lo + hi) / 2
      if numLt x ((tabV t mid).times s) then tabSearch t s x fuel lo mid else tabSearch t s x fuel mid hi
    else lo

/-- The midpoint of two values (R71); `none` between opposite infinities. -/
def midpoint (a b : Num) : Option Num :=
  match a, b with
  | .fin x, .fin y => some (.fin ((x.add 0 y).scale (-1)))
  | .inf n, .inf n' => if n = n' then some (.inf n) else none
  | .inf n, _ => some (.inf n)
  | _, .inf n => some (.inf n)
  | _, _ => some a

/-- The index that R71 encodes x / s to. `pick` decides between opposite infinities. -/
def tabIndex (t : Memory) (s : Dy) (x : Num) (pick : Bool) : Nat :=
  let n := tabNord t
  if numLe x ((tabV t 0).times s) then 0
  else if numLe ((tabV t n).times s) x then n
  else
    let lo := tabSearch t s x 9 0 n
    let even := if lo % 2 = 0 then lo else lo + 1
    let odd := if lo % 2 = 0 then lo + 1 else lo
    match midpoint (tabV t lo) (tabV t (lo + 1)) with
    | none => if pick then even else odd
    | some m => if numLt x (m.times s) then lo else if numLt (m.times s) x then lo + 1 else even

/-- Encode(T, x / s) of R71 for an x that is no NaN: the code and its flags. -/
def tabEncode (t : Memory) (s : Dy) (x : Num) (pick : Bool) : Nat × BitVec 6 :=
  let i := tabIndex t s x pick
  let v := (tabV t i).times s
  (tabOrder t i,
   flagIf (!numEq v x) fNX ||| flagIf (numLt x ((tabV t 0).times s) || numLt ((tabV t (tabNord t)).times s) x) fOF ||| flagIf (!x.isZero && v.isZero) fPZ)

/-! Blocks. -/

/-- Block formats of core instructions (R118 bf). -/
inductive BlockFmt where
  | bs8
  | bs4
  deriving DecidableEq, Repr

/-- Size of a record (R72). -/
def BlockFmt.size : BlockFmt → Nat
  | .bs8 => 48
  | .bs4 => 32

/-- Offset of the scale byte (R72). -/
def BlockFmt.scaleAt : BlockFmt → Nat
  | .bs8 => 0x20
  | .bs4 => 0x10

/-- Whether a record's padding is zero (R72, R73). -/
def padOk (f : BlockFmt) (r : List Byte) : Bool := (r.drop (f.scaleAt + 1)).all (· == 0)

/-- Element code `i` of a record (R72). -/
def blockElem (f : BlockFmt) (r : List Byte) (i : Nat) : Nat :=
  match f with
  | .bs8 => (r.getD i 0).toNat
  | .bs4 => (r.getD (i / 2) 0).toNat / (if i % 2 = 0 then 1 else 16) % 16

/-- Scale code of a record. -/
def blockScale (f : BlockFmt) (r : List Byte) : Nat := (r.getD f.scaleAt 0).toNat

/-- Value of an element under a scale code (R72): exact, or NaN. -/
def scaledVal (scale : Nat) (x : Num) : Exact := if scale = 0xFF then .nan false else numMul (.fin (e5m3 scale)) x

/-- Value of element `i` of a record (R72). -/
def blockVal (f : BlockFmt) (t : Memory) (r : List Byte) (i : Nat) : Exact :=
  scaledVal (blockScale f r) (match f with
    | .bs8 => tabVal t (blockElem f r i)
    | .bs4 => .fin (e2m1 (blockElem f r i)))

/-- Magnitude of a value that is no NaN. -/
def Num.abs : Num → Num
  | .nan s => .nan s
  | .inf _ => .inf false
  | .fin d => .fin { d with neg := false }

/-- The greater of two magnitudes. -/
def numMax (a b : Num) : Num := if numLt a b then b else a

/-- floor(log2(a / b)) of two positive finite values. -/
def log2Ratio (a b : Dy) : Int :=
  let p := (bitLen a.m : Int) + a.e - bitLen b.m - b.e
  if numLe (.fin (b.scale p)) (.fin a) then p else p - 1

/-- The code of the nearest E2M1 magnitude to |y| / s, a tie to the even code (R75). -/
def e2m1Nearest (s : Dy) (y : Dy) : Nat :=
  let a : Num := .fin { y with neg := false }
  match (List.range 7).find? fun j =>
      let m : Num := .fin ((((e2m1 j).add 0 (e2m1 (j + 1))).scale (-1)).mul s)
      numLt a m || (numEq a m && j % 2 == 0) with
  | some j => j
  | none => 7

/-- A BS4 element of y / s with its flags (R75). -/
def bs4Encode (s y : Dy) : Nat × BitVec 6 :=
  let c := e2m1Nearest s y
  let v := (e2m1 c).mul s
  (if c = 0 then 0 else if y.neg then c + 8 else c,
   flagIf (!numEq (.fin v) (.fin { y with neg := false })) fNX ||| flagIf (c = 0 ∧ y.m ≠ 0) fPZ)

/-- Result of EncodeBlock (R75): the record's bytes and flags, or the cause and info of its trap. -/
inductive Encoded where
  | block (r : List Byte) (f : BitVec 6)
  | trap (c : Cause) (v : Word)
  deriving DecidableEq, Repr

/-- The record of a scale code and element codes (R72), padding zero. -/
def blockRec (f : BlockFmt) (scale : Nat) (es : List Nat) : List Byte :=
  match f with
  | .bs8 => es.map (BitVec.ofNat 8) ++ BitVec.ofNat 8 scale :: List.replicate 15 0
  | .bs4 => (List.range 16).map (fun i => BitVec.ofNat 8 (es.getD (2 * i) 0 + 16 * es.getD (2 * i + 1) 0)) ++ BitVec.ofNat 8 scale :: List.replicate 15 0

/-- A finite value's dyadic. -/
def Num.dy : Num → Dy
  | .fin d => d
  | _ => { neg := false, m := 0, e := 0 }

/-- EncodeBlock (R75) of 32 values under exponent offset `t`. -/
def encodeBlock (f : BlockFmt) (tab : Memory) (t : Int) (xs : List Num) (pick : Nat → Bool) : Encoded :=
  if xs.any fun x => x.isNan || x.isInf then .block (blockRec f 0xFF (List.replicate 32 0)) fNV
  else
    let ys := xs.map fun x => x.dy.scale (-t)
    let a := (ys.map fun y => (Num.fin { y with neg := false })).foldl numMax (.fin { neg := false, m := 0, e := 0 })
    if a.isZero then .block (blockRec f 0 (List.replicate 32 0)) 0
    else
      let emax : Num := match f with
        | .bs4 => .fin { neg := false, m := 6, e := 0 }
        | .bs8 => numMax (tabV tab 0).abs (tabV tab (tabNord tab)).abs
      if emax.isZero then .trap cDecode 0
      else
        match (List.range 254).find? fun c => numLe a (emax.times (e5m3 (c + 1))) with
        | none => .trap cRescale (BitVec.ofInt 64 (log2Ratio a.dy emax.dy))
        | some c =>
          let s := e5m3 (c + 1)
          let es := ys.zipIdx.map fun y => match f with
            | .bs8 => tabEncode tab s (.fin y.1) (pick y.2)
            | .bs4 => bs4Encode s y.1
          .block (blockRec f (c + 1) (es.map (·.1))) (orFlags (es.map (·.2)))

end Sys2Proof.Machine
end

