-- ==== Sys2Proof/Machine/Narrow.lean ====
section
/-! DEFINITION. Narrow formats, MO 0x25 (R118 to R121). -/

namespace Sys2Proof.Machine

/-- R221: an engine core has none of the units of MO 0x25, 0x27 and 0x28. -/
def onCompute (mo : Nat) (s : State) (e : Effect) : Effect :=
  if isEngine s.at_ then .trap (.plain cCapability (BitVec.ofNat 64 mo)) else e

/-- The decode table of a side (R39, R70). -/
def State.tab (s : State) (side : BitVec 1) : Memory := s.here.mx.tab[side.toNat]

/-- A read of the decode table of a side consumes an uncorrectable error that the table holds (R254). -/
def State.withTab (s : State) (side : BitVec 1) (e : Effect) : Effect :=
  if s.here.mx.tabBad[side.toNat] then .trap (.plain cEccu (Config.info cEccu 0 s.time)) else e

/-- The offset of `off8`: a signed count of 16 B (R118). -/
def off16 {w : Nat} (o : BitVec w) : Word := 16 * sext o

/-- `dtld` (R119). The spec gives the trap of a failing record no info. -/
def dtldEff (b : BitVec 5) (side : BitVec 1) (o : BitVec 8) (s : State) : Effect :=
  let ea := s.ea b (off16 o)
  match s.load b ea 1296 16 with
  | .error t => .trap t
  | .ok (bs, t) =>
    let r := memWrite [] 0 bs
    if tabOk r then .ok (t.modMx fun m => { m with tab := m.tab.set side.toNat r, tabBad := m.tabBad.set side.toNat false })
    else .trap (.atBase b cDecode (Config.info cDecode ea s.time) ea)

/-- `dtld` (R119). -/
def execDtld (b : BitVec 5) (side : BitVec 1) (o : BitVec 8) (s : State) : Host.Outcome State Fault Refusal :=
  finish 4 s (onCompute 0x25 s (dtldEff b side o s))

/-- Value of an IX entry in a lane format (R120): exact for FP32 and FP64, one rounding by `frm` for BF16 and FP16. -/
def ixTo (f : Fmt) (mode : Nat) (x : Num) : Nat × BitVec 6 := x.exact.to f mode

/-- `vdec` (R120). -/
def vdecEff (d a : BitVec 3) (l side : BitVec 1) (q : BitVec 3) (ft : BitVec 2) (s : State) : Effect :=
  let ty : TypeCode := ft.setWidth 4
  let n := laneCount ty
  s.withTab side <| .ok (s.vec d (laneWidth ty) n 0 [(a, l)] fun i =>
    ixTo (fmtOf ty) s.act.csr.frm.toNat (tabVal (s.tab side) (lane 8 (s.o a) (q.toNat * n + i))))

/-- `vdec` (R120). -/
def execVdec (d a : BitVec 3) (l side : BitVec 1) (q : BitVec 3) (ft : BitVec 2) (s : State) : Host.Outcome State Fault Refusal :=
  finish 4 s (onCompute 0x25 s (vdecEff d a l side q ft s))

/-- One lane of `venc`: NCODE with NV for a NaN (R71). -/
def vencLane (t : Memory) (x : Num) (pick : Bool) : Nat × BitVec 6 :=
  if x.isNan then (tabNcode t, fNV) else tabEncode t Dy.one x pick

/-- `venc` (R120): a NaN lane under NCV = 0 traps before anything is written. -/
def vencEff (d a : BitVec 3) (l side : BitVec 1) (q : BitVec 3) (ft : BitVec 2) (s : State) : Effect :=
  let ty : TypeCode := ft.setWidth 4
  let n := laneCount ty
  let w := laneWidth ty
  let t := s.tab side
  let x := fun i => (fmtOf ty).decode (lane w (s.o a) i)
  s.withTab side <| match (List.range n).find? fun i => (x i).isNan && !tabNcv t with
  | some i => .trap (.plain cDecode (BitVec.ofNat 64 (lane w (s.o a) i)))
  | none =>
    let r := (List.range n).map fun i => vencLane t (x i) (Config.midInf s.time.toNat i)
    let lo := q.toNat * n
    let v := ofLanes 8 ((List.range 32).map fun j => if lo ≤ j ∧ j < lo + n then (r.getD (j - lo) (0, 0)).1 else lane 8 (s.o d) j)
    .ok (((s.useO [(a, l)]).addFlags (orFlags (r.map (·.2)))).setO d (BitVec.ofNat 256 v))

/-- `venc` (R120). -/
def execVenc (d a : BitVec 3) (l side : BitVec 1) (q : BitVec 3) (ft : BitVec 2) (s : State) : Host.Outcome State Fault Refusal :=
  finish 4 s (onCompute 0x25 s (vencEff d a l side q ft s))

/-- The block format of field bf (R118). -/
def blockFmt (f : BitVec 2) : BlockFmt := if f = 0 then .bs8 else .bs4

/-- Four o registers from `d` written with 32 FP32 lanes. -/
def State.setO4 (s : State) (d : BitVec 3) (xs : List Nat) : State :=
  (List.range 4).foldl (fun t m => t.setO (d + BitVec.ofNat 3 m) (BitVec.ofNat 256 (ofLanes 32 ((xs.drop (8 * m)).take 8)))) s

/-- `bld` (R121). -/
def bldEff (d : BitVec 3) (b : BitVec 5) (side : BitVec 1) (f : BitVec 2) (o : BitVec 8) (s : State) : Effect :=
  let ea := s.ea b (off16 o)
  let fm := blockFmt f
  match s.load b ea fm.size 16 with
  | .error t => .trap t
  | .ok (r, t) =>
    if padOk fm r then
      (if fm = .bs8 then t.withTab side else id) <|
      let xs := (List.range 32).map fun i => (blockVal fm (s.tab side) r i).to fp32 0
      .ok ((t.addFlags (orFlags (xs.map (·.2)))).setO4 d (xs.map (·.1)))
    else .trap (.atBase b cPoison ea ea)

/-- `bld` (R121). -/
def execBld (d : BitVec 3) (b : BitVec 5) (side : BitVec 1) (f : BitVec 2) (o : BitVec 8) (s : State) : Host.Outcome State Fault Refusal :=
  finish 4 s (onCompute 0x25 s (bldEff d b side f o s))

/-- The four o registers from `a` as sources. -/
def fourO (a : BitVec 3) (l : BitVec 1) : List (BitVec 3 × BitVec 1) := [(a, l), (a + 1, l), (a + 2, l), (a + 3, l)]

/-- The 32 FP32 lanes of four o registers (R121). -/
def State.lanes32 (s : State) (a : BitVec 3) : List Num :=
  (List.range 32).map fun i => fp32.decode (lane 32 (s.o (a + BitVec.ofNat 3 (i / 8))) (i % 8))

/-- `bst` (R121): the block is encoded before its address is checked, and written whole. FADDR of a RESCALE is its `ea` (R240). -/
def bstEff (a : BitVec 3) (l : BitVec 1) (b : BitVec 5) (side : BitVec 1) (f : BitVec 2) (o : BitVec 8) (s : State) : Effect :=
  let ea := s.g b + off16 o
  (if blockFmt f = .bs8 then s.withTab side else id) <| match encodeBlock (blockFmt f) (s.tab side) (fld s.act.csr.tscl 0 8).toInt (s.lanes32 a) (Config.midInf s.time.toNat) with
  | .trap c v => .trap (.atNear c v ea)
  | .block r fl =>
    match s.store ea 16 r with
    | .error t => .trap t
    | .ok t => .ok ((t.useO (fourO a l)).addFlags fl)

/-- `bst` (R121). -/
def execBst (a : BitVec 3) (l : BitVec 1) (b : BitVec 5) (side : BitVec 1) (f : BitVec 2) (o : BitVec 8) (s : State) : Host.Outcome State Fault Refusal :=
  finish 4 s (onCompute 0x25 s (bstEff a l b side f o s))

end Sys2Proof.Machine
end

