-- ==== Sys2Proof/Machine/Copy.lean ====
section
/-! DEFINITION. Copy commands, MO 0x2C (R229, R230): the parameter block and the kick. -/

namespace Sys2Proof.Machine

/-- Field of a parameter block by doubleword, low bit and width (R230). -/
def blkFld (b : Strip) (dw lo n : Nat) : Nat := (fld b (64 * dw + lo) n).toNat
/-- SRC. -/
def blkSrc (b : Strip) : Word := fld b 0 64
/-- DST. -/
def blkDst (b : Strip) : Word := fld b 64 64
/-- LEN. -/
def blkLen (b : Strip) : Nat := blkFld b 2 0 32
/-- SSB. -/
def blkSsb (b : Strip) : Bool := bit b (128 + 32)
/-- DSB. -/
def blkDsb (b : Strip) : Bool := bit b (128 + 33)
/-- BF. -/
def blkBf (b : Strip) : Nat := blkFld b 2 34 2
/-- CH. -/
def blkCh (b : Strip) : BitVec 8 := fld b 192 8
/-- MBE. -/
def blkMbe (b : Strip) : Bool := bit b (192 + 8)
/-- MBOX. -/
def blkMbox (b : Strip) : BitVec 18 := fld b (192 + 9) 18

/-- Record size of a block format (R72); raw bytes count as 16-B units. -/
def bfSize (bf : Nat) : Nat := match bf with | 0 => 16 | 2 => 32 | _ => 48

/-- The rules of R230. -/
def blkOk (at_ : CoreAddr) (b : Strip) : Bool :=
  let ch := blkCh b
  zeroBits b (128 + 36) 28 && zeroBits b (192 + 27) 37 && blkLen b != 0 && blkLen b % 16 == 0 && (blkSrc b).toNat % 16 == 0 && (blkDst b).toNat % 16 == 0 &&
    (ch == 0 || userChannel ch || ch == 250) && blkLen b % bfSize (blkBf b) == 0 && (!blkMbe b || decide ((blkMbox b).toNat + 16 ≤ nearEnd at_))

/-- The second flit of a kick (R229): transfer ID, key slot and space bytes, then the containment ID. The spec says what the kick carries and not where
(DESIGN CHOICE, log entry 22). -/
def kickFlit (xid : BitVec 32) (kslot : BitVec 4) (gsa gsb : BitVec 8) (cid : BitVec 16) : Strip :=
  flit4 (zext xid ||| (zext kslot <<< 32) ||| (zext gsa <<< 40) ||| (zext gsb <<< 48)) (zext cid) 0 0

/-- `cpy` (R229). The kick of an engine whose role is absent goes to the one that does its work (R260). -/
def cpyEff (a b e : BitVec 5) (o : BitVec 10) (s : State) : Effect :=
  let pb := s.ea a (off16 o)
  match s.load a pb 32 16 with
  | .error t => .trap t
  | .ok (bs, t) =>
    let blk : Strip := BitVec.ofNat 256 (leNat bs)
    if !blkOk s.at_ blk then .trap (.atBase a cPlacement pb pb)
    else
      let kick := kickFlit (fld (s.g b) 0 32) s.act.img.kslot s.here.regs.gsa (s.space 1) s.act.trig.cid
      t.send (.uni (s.standIn (copyEngine (pkgOf s.at_) (dieOf s.at_) e.toNat)) kSystem 9 0 [blk, kick]) true 1 .plain

/-- `cpy` (R229). -/
def execCpy (a b e : BitVec 5) (o : BitVec 10) (s : State) : Host.Outcome State Fault Refusal := finish 4 s (cpyEff a b e o s)

end Sys2Proof.Machine
end

