-- ==== Sys2Proof/Machine/Fetch.lean ====
section
/-! DEFINITION. Fetching an instruction (R37, R44 to R47) and the two ways in which it is none (R46, R57). -/

namespace Sys2Proof.Machine

/-- Whether a fetch may take the halfword at offset `x` of the running image's extent: inside the extent and marked in the executable map (R37). -/
def State.fetchable (s : State) (x : Word) : Bool :=
  decide (x.toNat < s.act.img.xlen.toNat) && s.here.xmap.getLsbD ((s.act.img.base.toNat + x.toNat) / 2)

/-- The halfword at offset `x` (R45). -/
def State.halfAt (s : State) (x : Word) : BitVec 16 := memBits s.here.imem (s.act.img.base.toNat + x.toNat) 2 16

/-- Whether the halfword at offset `x` holds an uncorrectable error (R254). -/
def State.halfBad (s : State) (x : Word) : Bool := s.here.imemBad.contains ((s.act.img.base.toNat + x.toNat) / 2)

/-- The fetch of one halfword: FETCHDATA with the failing address (R46), then an uncorrectable error (R254). The lists of R46 and R59 name no place for the ECCU of a fetch: here it
follows the FETCHDATA check of its own halfword, so an error in H0 is taken before H1 is checked, and any fetch error before UNDEF (DESIGN CHOICE, log entry 53). -/
def State.fetchHalf (s : State) (x : Word) : Except Trap (BitVec 16) :=
  if !s.fetchable x then .error (.atImem cFetchData x x)
  else if s.halfBad x then .error (.atSpace cEccu x 0 x)
  else .ok (s.halfAt x)

/-- The fetch of the instruction at offset `x` (R46): one halfword, or the word of two (R44). -/
def State.fetch (s : State) (x : Word) : Except Trap (BitVec 16 ⊕ BitVec 32) :=
  match s.fetchHalf x with
  | .error t => .error t
  | .ok h0 =>
    if isLong h0 then
      match s.fetchHalf (x + 2) with
      | .error t => .error t
      | .ok h1 => .ok (.inr (joinHalves h0 h1))
    else .ok (.inl h0)

/-- Decoding what a fetch took (R57): UNDEF holds the halfword or word that was decoded. -/
def decodeFetched : BitVec 16 ⊕ BitVec 32 → Except Trap Decoded
  | .inl h => match decodeHalf h with
    | .ok i => .ok (.insn i)
    | .error _ => .error (.plain cUndef (zext h))
  | .inr w => match decodeParts w with
    | .ok d => .ok d
    | .error _ => .error (.plain cUndef (zext w))

/-- The instruction at offset `x`, or the trap of its fetch or decode, in the order of R59. -/
def State.insnAt (s : State) (x : Word) : Except Trap Decoded :=
  match s.fetch x with
  | .error t => .error t
  | .ok f => decodeFetched f

/-- FETCH_FAILURE (R46, R254): the fetch at the acting slot's pc fails and traps. An event with no such fetch has no effect. -/
def execFetchFailure (s : State) : Host.Outcome State Fault Refusal :=
  match s.fetch s.pc with
  | .error t => .next (s.trap t).issued
  | .ok _ => .next s

/-- UNDEF_ENCODING (R57): the bits fetched at the acting slot's pc are no instruction and trap. -/
def execUndefEncoding (s : State) : Host.Outcome State Fault Refusal :=
  match s.fetch s.pc with
  | .error _ => .next s
  | .ok f => match decodeFetched f with
    | .error t => .next (s.trap t).issued
    | .ok _ => .next s

end Sys2Proof.Machine
end

