-- ==== Sys2Proof/Machine/Matrix.lean ====
section
/-! DEFINITION. The matrix unit (R122 to R136), MO 0x27, and the execution of its commands. -/

namespace Sys2Proof.Machine

/-! Operand slots (R126, R127). -/

/-- An operand slot replaced. -/
def State.setQ (s : State) (q : BitVec 3) (x : QSlot) : State := s.modMx fun m => { m with q := m.q.set q.toNat x }

/-- An operand slot. -/
def State.q (s : State) (q : BitVec 3) : QSlot := s.here.mx.q[q.toNat]

/-- SLOTSTATE of the table of R127, which gives it no info. -/
def State.slotTrap (s : State) : Effect := .trap (.plain cSlotState (Config.info cSlotState 0 s.time))

/-- Accessible: CLAIMED or LOADED. -/
def QSlot.held (x : QSlot) : Bool := x.st == .claimed || x.st == .loaded

/-- Writable: accessible and not locked by a queued command. -/
def QSlot.writable (x : QSlot) : Bool := x.held && x.locks == 0

/-- `qclaim` (R127, R130). A slot claimed anew holds no error (DESIGN CHOICE, log entry 78). -/
def qclaimEff (q : BitVec 3) (s : State) : Effect :=
  if (s.q q).st = .free then .ok (s.setQ q { s.q q with st := .claimed, arr := [], bad := false }) else s.slotTrap

/-- `qclaim` (R130). -/
def execQclaim (q : BitVec 3) (s : State) : Host.Outcome State Fault Refusal := finish 4 s (onCompute 0x27 s (qclaimEff q s))

/-- `qtry` (R127, R130). -/
def qtryEff (q : BitVec 3) (d : BitVec 5) (s : State) : Effect :=
  if (s.q q).st = .free then .ok ((s.setQ q { s.q q with st := .claimed, arr := [], bad := false }).setG d 1) else .ok (s.setG d 0)

/-- `qtry` (R130). -/
def execQtry (q : BitVec 3) (d : BitVec 5) (s : State) : Host.Outcome State Fault Refusal := finish 4 s (onCompute 0x27 s (qtryEff q d s))

/-- `qrel` (R127, R130). -/
def qrelEff (q : BitVec 3) (s : State) : Effect :=
  if (s.q q).writable then .ok (s.setQ q { s.q q with st := .free }) else s.slotTrap

/-- `qrel` (R130). -/
def execQrel (q : BitVec 3) (s : State) : Host.Outcome State Fault Refusal := finish 4 s (onCompute 0x27 s (qrelEff q s))

/-- The records of a block form of `qld`: their number, size and elements' bytes (R131). -/
def qldShape (f : BitVec 2) : Nat × BlockFmt := if f = 1 then (256, .bs8) else (512, .bs4)

/-- Records of a size cut from a list of bytes. -/
def chunks (n k : Nat) (bs : List Byte) : List (List Byte) := (List.range k).map fun i => (bs.drop (n * i)).take n

/-- The raw form of `qld` (R131). A slot that holds an uncorrectable error keeps it (DESIGN CHOICE, log entry 78). -/
def qldRaw (q : BitVec 3) (a : BitVec 5) (s : State) : Effect :=
  let ea := s.g a
  match s.nearCheck false ea 8192 16 with
  | some t => .trap t
  | none =>
    .ok ((s.nearLoaded ea.toNat 8192).setQ q { s.q q with
      st := .loaded, arr := memWrite (memClear (s.q q).arr 0 8192) 0 (s.nearBytes ea.toNat 8192) })

/-- The block forms of `qld` (R131): every record checked, then the first poisoned one traps. -/
def qldBlocks (q : BitVec 3) (a : BitVec 5) (f : BitVec 2) (s : State) : Effect :=
  let ea := s.g a
  let n := (qldShape f).1
  let fm := (qldShape f).2
  match s.nearCheck false ea (n * fm.size) 16 with
  | some t => .trap t
  | none =>
    let rs := chunks fm.size n (s.nearBytes ea.toNat (n * fm.size))
    match rs.zipIdx.find? fun r => !padOk fm r.1 with
    | some r => let x := ea + BitVec.ofNat 64 (fm.size * r.2); .trap (.atNear cPoison x x)
    | none =>
      let es := rs.flatMap fun r => r.take fm.scaleAt
      let sc := rs.map fun r => r.getD fm.scaleAt 0
      .ok ((s.nearLoaded ea.toNat (n * fm.size)).setQ q { s.q q with st := .loaded, arr := memWrite (memWrite (s.q q).arr 0 es) 8192 sc })

/-- `qld` (R131). -/
def qldEff (q : BitVec 3) (a : BitVec 5) (f : BitVec 2) (s : State) : Effect :=
  if (s.q q).writable then (if f = 0 then qldRaw q a s else qldBlocks q a f s) else s.slotTrap

/-- `qld` (R131). -/
def execQld (q : BitVec 3) (a : BitVec 5) (f : BitVec 2) (_side : BitVec 1) (s : State) : Host.Outcome State Fault Refusal :=
  finish 4 s (onCompute 0x27 s (qldEff q a f s))

/-- `qput` (R131). -/
def qputEff (q : BitVec 3) (a : BitVec 5) (o : BitVec 3) (l : BitVec 1) (s : State) : Effect :=
  if 271 < (s.g a).toNat then .trap (.plain cSlotState (s.g a))
  else if (s.q q).writable then
    .ok ((s.useO [(o, l)]).setQ q { s.q q with st := .loaded, arr := memWrite (s.q q).arr (32 * (s.g a).toNat) (leBytes 32 (s.o o).toNat) })
  else s.slotTrap

/-- `qput` (R131). -/
def execQput (q : BitVec 3) (a : BitVec 5) (o : BitVec 3) (l : BitVec 1) (s : State) : Host.Outcome State Fault Refusal :=
  finish 4 s (onCompute 0x27 s (qputEff q a o l s))

/-- `qget` (R131). -/
def qgetEff (q : BitVec 3) (a : BitVec 5) (o : BitVec 3) (s : State) : Effect :=
  if 271 < (s.g a).toNat then .trap (.plain cSlotState (s.g a))
  else if (s.q q).held then .ok (s.setO o (memBits (s.q q).arr (32 * (s.g a).toNat) 32 256))
  else s.slotTrap

/-- `qget` (R131). -/
def execQget (q : BitVec 3) (a : BitVec 5) (o : BitVec 3) (s : State) : Host.Outcome State Fault Refusal :=
  finish 4 s (onCompute 0x27 s (qgetEff q a o s))

/-- A word popped into an operand slot by `qlnk`: word `done`, the last of which makes the slot LOADED (R131). -/
def State.qlnkWord (s : State) (q : BitVec 3) (done : Nat) (v : Strip) (last : Bool) : State :=
  (s.setQ q { s.q q with st := if last then .loaded else .filling, arr := memWrite (s.q q).arr (32 * done) (leBytes 32 v.toNat) }).modAct
    fun a => { a with part := if last then .none else .qlnk q.toFin (done + 1) }

/-- `qlnk` (R131): it claims the slot for filling, then takes one word in each issue; the words already taken stay. -/
def qlnkEff (q : BitVec 3) (p : BitVec 2) (w sc : BitVec 1) (s : State) : Effect :=
  match s.act.part with
  | .qlnk _ done =>
    let last := done + 1 == (if sc = 1 then 272 else 256)
    let f := fun (t : State) v => t.qlnkWord q done v last
    match (if w = 1 then linkForward p.toFin f s else linkPop p.toFin f s) with
    | .ok t => if last then .ok t else .goOn t
    | e => e
  | _ =>
    if (s.q q).writable then .goOn ((s.setQ q { s.q q with st := .filling }).modAct fun a => { a with part := .qlnk q.toFin 0 })
    else s.slotTrap

/-- `qlnk` (R131). -/
def execQlnk (q : BitVec 3) (p : BitVec 2) (w sc : BitVec 1) (s : State) : Host.Outcome State Fault Refusal :=
  finish 4 s (onCompute 0x27 s (qlnkEff q p w sc s))

/-! Accumulators (R40, R132). -/

/-- Whether a command writes a bank. -/
def MxCmd.writes (c : MxCmd) (b : Nat) : Bool := c.bank == 2 || c.bank.toNat == b

/-- Whether a queued command that entered before the acting slot's instruction issued writes a bank (R132: an instruction that names the bank waits for it). -/
def State.bankBusy (s : State) (b : Nat) : Bool := s.mxBlocks fun c => c.writes b

/-- The byte offset of the eight FP32 lanes, or four FP64 lanes, at a row and column; a trap outside the view (R132). -/
def accAt (v : BitVec 1) (row col : Word) : Except Trap Nat :=
  if 127 < row.toNat then .error (.plain cSlotState row)
  else if v = 0 then (if 127 < col.toNat + 7 then .error (.plain cSlotState col) else .ok (4 * (row.toNat * 128 + col.toNat)))
  else (if 63 < col.toNat + 3 then .error (.plain cSlotState col) else .ok (8 * (row.toNat * 64 + col.toNat)))

/-- `accld` (R132). -/
def accldEff (o : BitVec 3) (b v : BitVec 1) (row col : Word) (s : State) : Effect :=
  match accAt v row col with
  | .error t => .trap t
  | .ok a => if s.bankBusy b.toNat then s.mxWait else .ok (s.setO o (memBits (s.here.mx.acc[b.toNat]) a 32 256))

/-- `accst` (R132). A bank that holds an uncorrectable error keeps it (DESIGN CHOICE, log entry 78). -/
def accstEff (o : BitVec 3) (l b v : BitVec 1) (row col : Word) (s : State) : Effect :=
  match accAt v row col with
  | .error t => .trap t
  | .ok a =>
    if s.bankBusy b.toNat then s.mxWait
    else .ok ((s.useO [(o, l)]).modMx fun m => { m with acc := m.acc.set b.toNat (memWrite (m.acc[b.toNat]) a (leBytes 32 (s.o o).toNat)) })

/-- `accld`, immediate row and column (R132). -/
def execAccld (o : BitVec 3) (b v : BitVec 1) (r c : BitVec 7) (s : State) : Host.Outcome State Fault Refusal :=
  finish 4 s (onCompute 0x27 s (accldEff o b v (zext r) (zext c) s))

/-- `accld`, row and column in registers (R132). -/
def execAccldReg (o : BitVec 3) (b v : BitVec 1) (r c : BitVec 5) (s : State) : Host.Outcome State Fault Refusal :=
  finish 4 s (onCompute 0x27 s (accldEff o b v (s.g r) (s.g c) s))

/-- `accst`, immediate row and column (R132). -/
def execAccst (o : BitVec 3) (l b v : BitVec 1) (r c : BitVec 7) (s : State) : Host.Outcome State Fault Refusal :=
  finish 4 s (onCompute 0x27 s (accstEff o l b v (zext r) (zext c) s))

/-- `accst`, row and column in registers (R132). -/
def execAccstReg (o : BitVec 3) (l b v : BitVec 1) (r c : BitVec 5) (s : State) : Host.Outcome State Fault Refusal :=
  finish 4 s (onCompute 0x27 s (accstEff o l b v (s.g r) (s.g c) s))

/-- `acczero` (R136): it waits as R132 gives. A bank set to zero holds no error (DESIGN CHOICE, log entry 78). -/
def acczeroEff (k : BitVec 2) (s : State) : Effect :=
  let z := fun b => decide (k.toNat = 2 ∨ k.toNat = b)
  if (z 0 && s.bankBusy 0) || (z 1 && s.bankBusy 1) then s.mxWait
  else .ok (s.modMx fun m => { m with
    acc := #v[if z 0 then [] else m.acc[0], if z 1 then [] else m.acc[1]]
    accBad := #v[!z 0 && m.accBad[0], !z 1 && m.accBad[1]] })

/-- `acczero` (R136). -/
def execAcczero (k : BitVec 2) (s : State) : Host.Outcome State Fault Refusal := finish 4 s (onCompute 0x27 s (acczeroEff k s))

/-! Commands (R122 to R125, R133, R135). -/

/-- K of a format (R122). -/
def opK (f : Nat) : Nat := match f with | 0 => 16 | 1 => 8 | 2 => 32 | 3 => 32 | 4 => 64 | 5 => 64 | _ => 128

/-- Block records of an operand (R126). -/
def opRecords (f : Nat) : Nat := 128 * (opK f / 32)

/-- The scale slot of a side: its own slot, or SLOT under EXT (R124). -/
def scaleSlot (ptr : BitVec 13) (own : BitVec 3) : BitVec 3 := if bit ptr 12 then fld ptr 9 3 else own

/-- The slots that a command reads (R133), in the order in which SLOTSTATE names the first that is not there: the two sides' slots, then their scale slots (DESIGN CHOICE, log entry
77). -/
def MxCmd.slots (c : MxCmd) : List (BitVec 3) :=
  [c.qa, c.qb] ++ if 5 ≤ c.fmt.toNat then [scaleSlot c.scla c.qa, scaleSlot c.sclb c.qb] else []

/-- Slots locked once more for each mention (R127). -/
def Matrix.lock (m : Matrix) (qs : List (BitVec 3)) : Matrix :=
  qs.foldl (fun m q => { m with q := m.q.set q.toNat { m.q[q.toNat] with locks := m.q[q.toNat].locks + 1 } }) m

/-- Locks taken off. -/
def Matrix.unlock (m : Matrix) (qs : List (BitVec 3)) : Matrix :=
  qs.foldl (fun m q => { m with q := m.q.set q.toNat { m.q[q.toNat] with locks := m.q[q.toNat].locks - 1 } }) m

/-- A decode table that a command of a format samples and reads holds an uncorrectable error (R125, R254). -/
def State.tabsBad (s : State) (f : BitVec 4) : Bool := (f == 4 || f == 5) && (s.here.mx.tabBad[0] || s.here.mx.tabBad[1])

/-- The command that an `mma` or `mxcmd` of the acting slot samples (R125). -/
def State.mxSample (s : State) (qa qb : BitVec 3) (k : BitVec 2) (h : BitVec 1) (c : BitVec 8) : MxCmd :=
  let r := s.act.csr
  { qa := qa, qb := qb, bank := k, hi := h == 1, ch := c, fmt := r.fmt, scla := r.scla, sclb := r.sclb, tabA := s.tab 0, tabB := s.tab 1, cid := s.act.trig.cid,
    locked := true, started := false, arrived := s.time, no := s.here.mx.entered, aseq := s.act.aseq, badTab := s.tabsBad r.fmt }

/-- The checks of R133 before the wait. Where the scale records of both sides pass their slot's end the A side's OFF is the trap's value (DESIGN CHOICE, log entry 77). -/
def State.mxCheck (s : State) (c : MxCmd) : Option Trap :=
  let f := c.fmt.toNat
  let bad := Trap.plain cCapability (zext c.fmt)
  if !bit s.here.regs.mcap f then some bad
  else if (c.bank = 2 ∨ c.hi) ∧ f ≠ 1 then some bad
  else if c.hi ∧ c.bank = 2 then some bad
  else match c.slots.find? fun q => !(s.q q).held with
    | some q => some (.plain cSlotState (zext q))
    | none =>
      if 5 ≤ f ∧ 512 < (fld c.scla 0 9).toNat + opRecords f then some (.plain cCapability (zext (fld c.scla 0 9)))
      else if 5 ≤ f ∧ 512 < (fld c.sclb 0 9).toNat + opRecords f then some (.plain cCapability (zext (fld c.sclb 0 9)))
      else none

/-- A command enters the queue with its locks (R123, R127). -/
def State.mxEnqueue (s : State) (c : MxCmd) : State :=
  s.modMx fun m => { (if c.locked then m.lock c.slots else m) with queue := m.queue ++ [c], entered := m.entered + 1 }

/-- `mma` (R133). One that stalls on a full queue makes its checks again at each try, so they hold when it enters the queue (DESIGN CHOICE, log entry 55: the rule lists them once,
before the wait). -/
def mmaEff (a b : BitVec 3) (k : BitVec 2) (h : BitVec 1) (c : BitVec 8) (s : State) : Effect :=
  let cmd := s.mxSample a b k h c
  match s.mxCheck cmd with
  | some t => .trap t
  | none => if 4 ≤ s.here.mx.queue.length then .stall false else .ok (s.mxEnqueue cmd)

/-- `mma` (R133). -/
def execMma (a b : BitVec 3) (k : BitVec 2) (h : BitVec 1) (c : BitVec 8) (s : State) : Host.Outcome State Fault Refusal :=
  finish 4 s (onCompute 0x27 s (mmaEff a b k h c s))

/-- Rope width and height in cores, minus 1 (R124). -/
def ropeW (r : BitVec 22) : Nat := (fld r 19 3).toNat
/-- Rope height in cores, minus 1. -/
def ropeH (r : BitVec 22) : Nat := (fld r 16 3).toNat

/-- The command copy that goes to a member (R191). -/
def ropeFlit (w : Word) (rope : BitVec 22) (c : MxCmd) : Strip :=
  flit4 (w ||| (BitVec.ofNat 64 (ropeW rope + 8 * ropeH rope) <<< 32)) (zext c.fmt) (zext c.scla) (zext c.sclb)

/-- `mxcmd` (R135, R191): the checks of `mma`, four of the rope, then the copies to the other members in row-major order, and the corner's own.
One that stalls makes its checks again, as `mmaEff` does (DESIGN CHOICE, log entry 55). -/
def mxcmdEff (a b : BitVec 3) (k : BitVec 2) (h : BitVec 1) (c : BitVec 8) (s : State) : Effect :=
  let cmd := s.mxSample a b k h c
  let r := s.here.mx.rope
  match s.mxCheck cmd with
  | some t => .trap t
  | none =>
    if !bit r 0 || fld r 10 6 != 0 || !bit s.here.regs.mcap 8 || 47 < xOf s.at_ + ropeW r || 31 < yOf s.at_ + ropeH r then .trap (.plain cCapability 0x100)
    else
      let f := ropeFlit (insnBits (.mxcmd a b k h c)) r cmd
      match s.sendAll false (((rectangle s.at_ (ropeW r + 1) (ropeH r + 1)).drop 1).map fun d => .uni d kSystem 13 0 [f]) with
      | .ok t => if 4 ≤ s.here.mx.queue.length then .stall false else .ok (t.mxEnqueue cmd)
      | e => e

/-- `mxcmd` (R135). -/
def execMxcmd (a b : BitVec 3) (k : BitVec 2) (h : BitVec 1) (c : BitVec 8) (s : State) : Host.Outcome State Fault Refusal :=
  finish 4 s (onCompute 0x27 s (mxcmdEff a b k h c s))

/-! Execution (R77, R133, R134). -/

/-- Element k of vector v of an operand in formats 0 to 4 (R126, R133). -/
def opElem (f : Nat) (arr tab : Memory) (v k : Nat) : Num :=
  let kk := opK f
  match f with
  | 0 => fp32.decode (memNat arr (4 * (v * kk + k)) 4)
  | 1 => fp64.decode (memNat arr (8 * (v * kk + k)) 8)
  | 2 => bf16.decode (memNat arr (2 * (v * kk + k)) 2)
  | 3 => fp16.decode (memNat arr (2 * (v * kk + k)) 2)
  | _ => tabVal tab (memByte arr (v * kk + k)).toNat

/-- Unscaled element `i` of block record `r` in formats 5 and 6 (R126). -/
def opBlockElem (f : Nat) (arr tab : Memory) (r i : Nat) : Num :=
  if f = 5 then tabVal tab (memByte arr (32 * r + i)).toNat
  else .fin (e2m1 ((memByte arr (16 * r + i / 2)).toNat / (if i % 2 = 0 then 1 else 16) % 16))

/-- Value of an element of a block under its scale (R72): the canonical NaN under 0xFF, and S · e otherwise, where 0 · ∞ is invalid (R66). -/
def scaledElem (scale : Nat) (x : Num) : Num :=
  if scale = 0xFF then .nan false
  else match numMul (.fin (e5m3 scale)) x with
    | .nan nv => .nan nv
    | .inf n => .inf n
    | .val d => .fin d

/-- A finite value. -/
def Num.isFin : Num → Bool
  | .fin _ => true
  | _ => false

/-- The step of a block pair (R77): its 32 exact products; none where the unit skips it (R134): a scale is 0x00, neither is 0xFF, and every element is finite. -/
def blockStep (sa sb : Nat) (ea eb : List Num) : Option (List Exact) :=
  if (sa = 0 ∨ sb = 0) ∧ sa ≠ 0xFF ∧ sb ≠ 0xFF ∧ (ea ++ eb).all Num.isFin then none
  else some ((ea.zip eb).map fun p => numMul (scaledElem sa p.1) (scaledElem sb p.2))

/-- The steps by which terms are added to c with one rounding each, in k order (R77), for A vector i and B vector j. -/
def mxTerms (c : MxCmd) (qa qb sa sb : Memory) (i j : Nat) : List (Option (List Exact)) :=
  let f := c.fmt.toNat
  let kk := opK f
  if 5 ≤ f then
    let nb := kk / 32
    (List.range nb).map fun b =>
      let ra := i * nb + b
      let rb := j * nb + b
      let es := fun (q t : Memory) r => (List.range 32).map fun e => opBlockElem f q t r e
      let ca := (memByte sa (8192 + (fld c.scla 0 9).toNat + ra)).toNat
      let cb := (memByte sb (8192 + (fld c.sclb 0 9).toNat + rb)).toNat
      blockStep ca cb (es qa c.tabA ra) (es qb c.tabB rb)
  else
    let g := match f with | 0 => 1 | 1 => 1 | 4 => 8 | _ => 4
    (List.range (kk / g)).map fun s => some <| (List.range g).map fun t => numMul (opElem f qa c.tabA i (s * g + t)) (opElem f qb c.tabB j (s * g + t))

/-- c after one step (R77): RNE of c plus the exact group sum. A skipped step leaves c itself, but for a c of −0, which becomes +0, and sets no flag (R134). -/
def mxStep (acc : Fmt) (c : Nat × BitVec 6) : Option (List Exact) → Nat × BitVec 6
  | some ts =>
    let r := (exactSum (acc.decode c.1).exact ts).to acc 0
    (r.1, c.2 ||| r.2)
  | none => (if c.1 = 2 ^ 31 then 0 else c.1, c.2)

/-- The accumulation format (R122). -/
def MxCmd.accFmt (c : MxCmd) : Fmt := if c.fmt = 1 then fp64 else fp32

/-- New bytes of a bank, row by row, with the flags raised: its column j takes B vector `j0 + j` (R133). -/
def mxBank (c : MxCmd) (qa qb sa sb bank : Memory) (j0 : Nat) : List Byte × BitVec 6 :=
  let w := if c.fmt = 1 then 8 else 4
  let n := if c.fmt = 1 then 64 else 128
  let rs := (List.range (128 * n)).map fun x =>
    (mxTerms c qa qb sa sb (x / n) (j0 + x % n)).foldl (mxStep c.accFmt) (memNat bank (w * x) w, 0)
  (rs.flatMap fun r => leBytes w r.1, orFlags (rs.map (·.2)))

/-- The completion word (R128). -/
def mxWord (stat : BitVec 8) (fl : BitVec 4) (bank : BitVec 2) : Word :=
  (stat.setWidth 64 <<< 16) ||| (fl.setWidth 64 <<< 8) ||| bank.setWidth 64

/-- A command leaves the queue with its completion message on its channel (R128, R135). -/
def State.mxDone (s : State) (c : MxCmd) (stat : BitVec 8) (fl : BitVec 4) : State :=
  let s := s.modMx fun m => { (if c.locked then m.unlock c.slots else m) with queue := m.queue.drop 1 }
  if c.ch = 0 then s else s.sendOwn s.at_ kReply c.ch c.cid [flit4 (mxWord stat fl c.bank) 0 0 0]

/-- The slots of a command are all LOADED (R135), or accessible for a command that locked them at issue (R133). -/
def State.mxReady (s : State) (c : MxCmd) : Bool := c.locked || c.slots.all fun q => (s.q q).st == .loaded

/-- MMA_COMMAND_START (R123, R133, R135): the head of the queue starts once its slots are ready; a waiting rope command locks them then and not before (DESIGN CHOICE, log entry 55:
R135 names a moment only for slots that are all LOADED at arrival). -/
def execMmaCommandStart (s : State) : Host.Outcome State Fault Refusal :=
  .next (match s.here.mx.queue with
  | c :: rest =>
    if !c.started && s.mxReady c then
      s.modMx fun m => { (if c.locked then m else m.lock c.slots) with queue := { c with locked := true, started := true } :: rest }
    else s
  | [] => s)

/-- The result of a command written to its bank or banks, with the matrix flags of each (R128, R133). -/
def State.mxResult (s : State) (c : MxCmd) : State × BitVec 4 :=
  let m := s.here.mx
  let qa := m.q[c.qa.toNat].arr
  let qb := m.q[c.qb.toNat].arr
  let sa := m.q[(scaleSlot c.scla c.qa).toNat].arr
  let sb := m.q[(scaleSlot c.sclb c.qb).toNat].arr
  if c.bank = 2 then
    let x := mxBank c qa qb sa sb m.acc[0] 0
    let y := mxBank c qa qb sa sb m.acc[1] 64
    let f0 := matrixFlags x.2
    let f1 := matrixFlags y.2
    (s.modMx fun m => { m with acc := #v[memOf 0 x.1, memOf 0 y.1], mflg := m.mflg ||| (f1 ++ f0) }, f0 ||| f1)
  else
    let b := c.bank.toNat % 2
    let x := mxBank c qa qb sa sb (m.acc.toList.getD b []) (if c.hi then 64 else 0)
    let f := matrixFlags x.2
    (s.modMx fun m => { m with acc := m.acc.setIfInBounds b (memOf 0 x.1), mflg := m.mflg ||| (f.setWidth 8 <<< (4 * b)) }, f)

/-- Whether a command meets an uncorrectable error in operand memory, its banks or the decode tables it reads (R128). -/
def State.mxBad (s : State) (c : MxCmd) : Bool :=
  c.badTab || c.slots.any (fun q => (s.q q).bad) || (c.writes 0 && s.here.mx.accBad[0]) || (c.writes 1 && s.here.mx.accBad[1])

/-- MMA_COMMAND_COMPLETE (R128): the head of the queue, once started, writes its result and leaves; one that consumes an uncorrectable error leaves its bank
and reports STAT 0x13, and the core's supervisor hears of the error (R257). -/
def execMmaCommandComplete (s : State) : Host.Outcome State Fault Refusal :=
  .next (match s.here.mx.queue with
  | c :: _ =>
    if !c.started then s
    else if s.mxBad c then
      ((s.modCtr fun k => { k with uncorrected := k.uncorrected + 1 }).faultRecord 4 0 c.cid 0 0 0).mxDone c 0x13 0
    else
      let r := s.mxResult c
      r.1.mxDone c 0 r.2
  | [] => s)

/-- ROPE_COMMAND_TIMEOUT (R123, R135): a rope command that has waited 1,048,576 cycles at the head is refused. -/
def execRopeCommandTimeout (s : State) : Host.Outcome State Fault Refusal :=
  .next (match s.here.mx.queue with
  | c :: _ => if !c.started && !s.mxReady c && 1048576 ≤ (s.time - c.arrived).toNat then s.mxDone c 0x0D 0 else s
  | [] => s)

end Sys2Proof.Machine
end

