-- ==== Sys2Proof/Machine/NearMem.lean ====
section
/-! DEFINITION. Near loads and stores of general and vector registers (R87 to R89, R103) and their 16-bit forms (R99). -/

namespace Sys2Proof.Machine

/-- A near or PC-relative load of `n` bytes, aligned to `n`, into what `f` does with the little-endian value (R32, R38, R87). -/
def loadEff (base : BitVec 5) (off : Word) (n : Nat) (f : State → Nat → State) (s : State) : Effect :=
  match s.load base (s.ea base off) n n with
  | .error t => .trap t
  | .ok (bs, t) => .ok (f t (leNat bs))

/-- A near store of a value's `n` low bytes, aligned to `n` (R32, R88). -/
def storeEff (base : BitVec 5) (off : Word) (n x : Nat) (s : State) : Effect :=
  .ofExcept (s.store (s.g base + off) n (leBytes n x))

/-- `ldb` (R87). -/
def execLdb (d b : BitVec 5) (o : BitVec 12) (s : State) : Host.Outcome State Fault Refusal :=
  finish 4 s (loadEff b (sext o) 1 (fun t x => t.setG d (sext (BitVec.ofNat 8 x))) s)

/-- `ldh` (R87). -/
def execLdh (d b : BitVec 5) (o : BitVec 12) (s : State) : Host.Outcome State Fault Refusal :=
  finish 4 s (loadEff b (sext o) 2 (fun t x => t.setG d (sext (BitVec.ofNat 16 x))) s)

/-- `ldw` (R87). -/
def execLdw (d b : BitVec 5) (o : BitVec 12) (s : State) : Host.Outcome State Fault Refusal :=
  finish 4 s (loadEff b (sext o) 4 (fun t x => t.setG d (sext (BitVec.ofNat 32 x))) s)

/-- `ldd` (R87). -/
def execLdd (d b : BitVec 5) (o : BitVec 12) (s : State) : Host.Outcome State Fault Refusal :=
  finish 4 s (loadEff b (sext o) 8 (fun t x => t.setG d (BitVec.ofNat 64 x)) s)

/-- `ldbu` (R87). -/
def execLdbu (d b : BitVec 5) (o : BitVec 12) (s : State) : Host.Outcome State Fault Refusal :=
  finish 4 s (loadEff b (sext o) 1 (fun t x => t.setG d (BitVec.ofNat 64 x)) s)

/-- `ldhu` (R87). -/
def execLdhu (d b : BitVec 5) (o : BitVec 12) (s : State) : Host.Outcome State Fault Refusal :=
  finish 4 s (loadEff b (sext o) 2 (fun t x => t.setG d (BitVec.ofNat 64 x)) s)

/-- `ldwu` (R87). -/
def execLdwu (d b : BitVec 5) (o : BitVec 12) (s : State) : Host.Outcome State Fault Refusal :=
  finish 4 s (loadEff b (sext o) 4 (fun t x => t.setG d (BitVec.ofNat 64 x)) s)

/-- `stb` (R88). -/
def execStb (d b : BitVec 5) (o : BitVec 12) (s : State) : Host.Outcome State Fault Refusal :=
  finish 4 s (storeEff b (sext o) 1 (s.g d).toNat s)

/-- `sth` (R88). -/
def execSth (d b : BitVec 5) (o : BitVec 12) (s : State) : Host.Outcome State Fault Refusal :=
  finish 4 s (storeEff b (sext o) 2 (s.g d).toNat s)

/-- `stw` (R88). -/
def execStw (d b : BitVec 5) (o : BitVec 12) (s : State) : Host.Outcome State Fault Refusal :=
  finish 4 s (storeEff b (sext o) 4 (s.g d).toNat s)

/-- `std` (R88). -/
def execStd (d b : BitVec 5) (o : BitVec 12) (s : State) : Host.Outcome State Fault Refusal :=
  finish 4 s (storeEff b (sext o) 8 (s.g d).toNat s)

/-- `ldp` (R89): two consecutive registers from one 16-B access. -/
def execLdp (d b : BitVec 5) (o : BitVec 12) (s : State) : Host.Outcome State Fault Refusal :=
  finish 4 s (loadEff b (sext o) 16 (fun t x => (t.setG d (BitVec.ofNat 64 x)).setG (d + 1) (BitVec.ofNat 64 (x / 2 ^ 64))) s)

/-- `stp` (R89). -/
def execStp (d b : BitVec 5) (o : BitVec 12) (s : State) : Host.Outcome State Fault Refusal :=
  finish 4 s (storeEff b (sext o) 16 ((s.g d).toNat + 2 ^ 64 * (s.g (d + 1)).toNat) s)

/-- `vld` (R103). -/
def execVld (d b : BitVec 5) (o : BitVec 12) (s : State) : Host.Outcome State Fault Refusal :=
  finish 4 s (loadEff b (sext o) 32 (fun t x => t.setV d (BitVec.ofNat 256 x)) s)

/-- `vldh` (R103): the upper half is zero. -/
def execVldh (d b : BitVec 5) (o : BitVec 12) (s : State) : Host.Outcome State Fault Refusal :=
  finish 4 s (loadEff b (sext o) 16 (fun t x => t.setV d (BitVec.ofNat 256 x)) s)

/-- `vst` (R103). -/
def execVst (d b : BitVec 5) (o : BitVec 12) (s : State) : Host.Outcome State Fault Refusal :=
  finish 4 s (storeEff b (sext o) 32 (s.v d).toNat s)

/-- `vsth` (R103): the lower half. -/
def execVsth (d b : BitVec 5) (o : BitVec 12) (s : State) : Host.Outcome State Fault Refusal :=
  finish 4 s (storeEff b (sext o) 16 (fld (s.v d) 0 128).toNat s)

/-- Base register of `c.ldd` and `c.std` (R53): g11 to g18. -/
def baseC (b : BitVec 3) : BitVec 5 := 11 + b.setWidth 5

/-- `c.ldd` (R99). -/
def execCLdd (d : BitVec 5) (b o : BitVec 3) (s : State) : Host.Outcome State Fault Refusal :=
  finish 2 s (loadEff (baseC b) (8 * zext o) 8 (fun t x => t.setG d (BitVec.ofNat 64 x)) s)

/-- `c.std` (R99). -/
def execCStd (d : BitVec 5) (b o : BitVec 3) (s : State) : Host.Outcome State Fault Refusal :=
  finish 2 s (storeEff (baseC b) (8 * zext o) 8 (s.g d).toNat s)

end Sys2Proof.Machine
end

