-- ==== Sys2Proof/Machine/Checks.lean ====
section
/-! DEFINITION. Check instructions (R302, R303, R308, R309), MO 0x1B. -/

namespace Sys2Proof.Machine

/-- The first near range that an instruction names, if it is a near access with a base register (R309): base register, signed offset and bytes. -/
def nearSpan : Decoded → Option (BitVec 5 × Int × Nat)
  | .copy a _ _ o => span a (16 * o.toInt) 32
  | .insn i => match i with
    | .ldb _ b o => span b o.toInt 1
    | .ldbu _ b o => span b o.toInt 1
    | .stb _ b o => span b o.toInt 1
    | .ldh _ b o => span b o.toInt 2
    | .ldhu _ b o => span b o.toInt 2
    | .sth _ b o => span b o.toInt 2
    | .ldw _ b o => span b o.toInt 4
    | .ldwu _ b o => span b o.toInt 4
    | .stw _ b o => span b o.toInt 4
    | .ldd _ b o => span b o.toInt 8
    | .std _ b o => span b o.toInt 8
    | .vld _ b o => span b o.toInt 32
    | .vst _ b o => span b o.toInt 32
    | .vldh _ b o => span b o.toInt 16
    | .vsth _ b o => span b o.toInt 16
    | .ldp _ b o => span b o.toInt 16
    | .stp _ b o => span b o.toInt 16
    | .cLdd _ b o => span (baseC b) (8 * o.toNat) 8
    | .cStd _ b o => span (baseC b) (8 * o.toNat) 8
    | .tmld _ a o => span a o.toInt 32
    | .dtld b _ o => span b (16 * o.toInt) 1296
    | .bld _ b _ f o => span b (16 * o.toInt) (blockFmt f).size
    | .bst _ _ b _ f o => span b (16 * o.toInt) (blockFmt f).size
    | .qld _ a f _ => span a 0 (if f = 0 then 8192 else (qldShape f).1 * (qldShape f).2.size)
    | .dxld _ a o => span a (16 * o.toInt) 2320
    | _ => none
where
  span (base : BitVec 5) (off : Int) (n : Nat) : Option (BitVec 5 × Int × Nat) := if base = 0 then none else some (base, off, n)

/-- That range formed exactly, without wrap (R309). -/
def State.nearRange (s : State) (d : Decoded) : Option (Int × Int) :=
  (nearSpan d).map fun p =>
    let lo := ((s.g p.1).toNat : Int) + p.2.1
    (lo, lo + p.2.2)

/-- Region-table entry `i` of the running image (R302), read from instruction memory: its bounds. -/
def State.region (s : State) (i : Nat) : Int × Int :=
  let e : Word := memBits s.here.imem (s.act.img.base.toNat + s.act.img.rto.toNat + 8 * i) 8 64
  ((fld e 0 18).toNat, (fld e 32 19).toNat)

/-- The activation's persistent region [g11, g11 + length) (R302). -/
def State.persistent (s : State) : Int × Int := ((s.g 11).toNat, (s.g 11).toNat + s.act.plen.toNat)

/-- Whether a range lies in a region. -/
def insideOf (r b : Int × Int) : Bool := decide (b.1 ≤ r.1) && decide (r.2 ≤ b.2)

/-- The judgement of a check on a near range by region index (R302, R309): the value of the BOUNDS trap, if it fails. -/
def State.boundsFail (s : State) (rix : Nat) (r : Int × Int) : Option Word :=
  let n := s.act.img.nreg.toNat
  let lo := BitVec.ofInt 64 r.1
  if rix = 1022 then (if insideOf r s.persistent then none else some lo)
  else if rix = 1023 then
    if (List.range n).any (fun i => insideOf r (s.region i)) || insideOf r s.persistent then none else some lo
  else if n ≤ rix then some (BitVec.ofNat 64 rix)
  else if insideOf r (s.region rix) then none else some lo

/-- `chk` (R309): it examines the instruction after it. -/
def chkEff (rix : BitVec 10) (s : State) : Effect :=
  match s.insnAt (s.pc + 4) with
  | .error t => .trap t
  | .ok d => match s.nearRange d with
    | none => .trap (.plain cBounds (s.pc + 4))
    | some r => match s.boundsFail rix.toNat r with
      | some v => .trap (.plain cBounds v)
      | none => .ok s

/-- `chk` (R309). -/
def execChk (r : BitVec 10) (s : State) : Host.Outcome State Fault Refusal := finish 4 s (chkEff r s)

/-- `chke` (R309): a check only in audit mode (R310). -/
def execChke (r : BitVec 10) (s : State) : Host.Outcome State Fault Refusal := finish 4 s (if s.here.regs.audit then chkEff r s else .ok s)

/-- The ranges of global memory that an instruction names (R309): space, offset and bytes; none for an instruction that `chkg` does not examine. A
put-kind `sendp` names a core and a near address and no placement: it has no range to look up (DESIGN CHOICE, log entry 25). A copy whose parameter
block cannot be read has none either: the `cpy` itself traps. -/
def State.globRanges (s : State) : Decoded → Option (List (BitVec 8 × Word × Nat))
  | .copy a _ _ o =>
    let t := s.modAct fun x => { x with pc := x.pc + 4 }
    match t.load a (t.ea a (off16 o)) 32 16 with
    | .error _ => some []
    | .ok (bs, _) =>
      let blk : Strip := BitVec.ofNat 256 (leNat bs)
      some [(s.space (BitVec.ofBool (blkSsb blk)), blkSrc blk, blkLen blk), (s.space (BitVec.ofBool (blkDsb blk)), blkDst blk, blkLen blk)]
  | .insn i =>
    let one := fun (p : BitVec 1) (a : BitVec 5) (n : Nat) => some [(s.space p, s.g a, n)]
    let mv := fun (p : BitVec 1) (a c : BitVec 5) => one p a (fld (s.g c) 0 16).toNat
    match i with
    | .gld _ z a _ p _ _ => one p a (2 ^ z.toNat)
    | .gst _ z a _ p => one p a (2 ^ z.toNat)
    | .put _ p a _ c => mv p a c
    | .putr _ p a _ c => mv p a c
    | .get _ p a _ c => mv p a c
    | .aadd _ _ p a _ _ => one p a 8
    | .aand _ _ p a _ _ => one p a 8
    | .aor _ _ p a _ _ => one p a 8
    | .axor _ _ p a _ _ => one p a 8
    | .amin _ _ p a _ _ => one p a 8
    | .amax _ _ p a _ _ => one p a 8
    | .aminu _ _ p a _ _ => one p a 8
    | .amaxu _ _ p a _ _ => one p a 8
    | .aswap _ _ p a _ _ => one p a 8
    | .acas _ _ p a _ _ => one p a 8
    | .afadd _ _ p a _ _ => one p a 8
    | .sendp _ _ _ _ _ => some []
    | _ => none

/-- A `chkg` held on a miss or on MOV (R196, R309): it takes a fault tag, as a held request does, and stalls its slot. -/
def State.holdCheck (s : State) (space : BitVec 8) (off : Word) (len kind : Nat) : Effect :=
  let cid := s.act.trig.cid
  let wait := fun (t : State) (i : Fin 16) => Effect.wait (t.modAct fun a => { a with part := .chk i space off len false }) false
  match s.act.part with
  | .chk _ _ _ _ _ => .stall false
  | _ =>
    match tagFor s.here.net.tags (fld cid 4 12) space off with
    | some i => wait s i
    | none => match freeTag s.here.net.tags with
      | none => .stall false
      | some i =>
        let s := s.modNet fun n => { n with tags := n.tags.set i (some { ten := fld cid 4 12, cid := cid, space := space, off := off, len := len }) }
        wait (s.faultRecord kind i.val cid space off len) i

/-- The ranges of a `chkg` judged one after the other (R309): refused, of another owner, or past the region's end is BOUNDS with the range's offset. -/
def State.chkgRanges (s : State) (ten : BitVec 12) : List (BitVec 8 × Word × Nat) → Effect
  | [] => .ok s
  | (sp, a, n) :: rest =>
    let refused := match s.act.part with
      | .chk _ p o _ r => r && p == sp && o == a
      | _ => false
    if refused then .trap (.plain cBounds a)
    else match plbFind s.here.live.plb s.act.trig.ten sp a.toNat with
      | none => s.holdCheck sp a n 1
      | some e =>
        if e.mov then s.holdCheck sp a n 2
        else if e.owner ≠ ten ∨ e.base.toNat + e.len.toNat < a.toNat + n then .trap (.plain cBounds a)
        else s.chkgRanges ten rest

/-- `chkg` (R309): from a class-N slot `ra` must be 0, and the tenant is the lessee. -/
def chkgEff (ra : BitVec 5) (s : State) : Effect :=
  if !s.classS && ra != 0 then .trap (.plain cCapability (zext ra))
  else match s.insnAt (s.pc + 4) with
    | .error t => .trap t
    | .ok d => match s.globRanges d with
      | none => .trap (.plain cBounds (s.pc + 4))
      | some rs => s.chkgRanges (if s.classS then fld (s.g ra) 0 12 else s.here.regs.lessee) rs

/-- `chkg` (R309). -/
def execChkg (a : BitVec 5) (s : State) : Host.Outcome State Fault Refusal := finish 4 s (chkgEff a s)

end Sys2Proof.Machine
end

