-- ==== Sys2Proof/Machine/OpenCode.lean ====
section
/-! DEFINITION. The code of an open image as Plodan reads it (R300, R303): its instructions, where control goes, and what is known of the values of its registers. -/

namespace Sys2Proof.Machine

/-! The open image as a list of instructions. -/

/-- One instruction of the code: its address, its bits, and what they decode to. -/
structure Item where
  addr : Nat
  bits : BitVec 16 ⊕ BitVec 32
  dec : Option Decoded

/-- Bytes of an item. -/
def Item.size (i : Item) : Nat := match i.bits with
  | .inl _ => 2
  | .inr _ => 4

/-- What bits decode to. -/
def decodeBits (b : BitVec 16 ⊕ BitVec 32) : Option Decoded := match decodeFetched b with
  | .ok d => some d
  | .error _ => none

/-- The code read from address `a` on. A last halfword that begins a 32-bit instruction stands alone and decodes to nothing. -/
def itemsFrom (a : Nat) : List (BitVec 16) → List Item
  | [] => []
  | [h] => [{ addr := a, bits := .inl h, dec := if isLong h then none else decodeBits (.inl h) }]
  | h :: k :: t =>
    if isLong h then { addr := a, bits := .inr (joinHalves h k), dec := decodeBits (.inr (joinHalves h k)) } :: itemsFrom (a + 4) t
    else { addr := a, bits := .inl h, dec := decodeBits (.inl h) } :: itemsFrom (a + 2) (k :: t)

/-- The items of an image's code. -/
def OpenImage.items (o : OpenImage) : List Item := itemsFrom 0 o.code

/-- First address after the code. -/
def OpenImage.codeEnd (o : OpenImage) : Nat := 2 * o.code.length

/-! Targets. -/

/-- Bytes from an instruction to the address that it names in the code, for a branch, a jump or a loop (R50, R94). -/
def flowOffset : Instr → Option Int
  | .beq _ _ o => some (2 * o.toInt)
  | .bne _ _ o => some (2 * o.toInt)
  | .blt _ _ o => some (2 * o.toInt)
  | .bge _ _ o => some (2 * o.toInt)
  | .bltu _ _ o => some (2 * o.toInt)
  | .bgeu _ _ o => some (2 * o.toInt)
  | .j o => some (2 * o.toInt)
  | .jal o => some (2 * o.toInt)
  | .loop _ l => some (4 + 2 * l.toNat)
  | .loopi _ l => some (4 + 2 * l.toNat)
  | .cBeqz _ o => some (2 * o.toInt)
  | .cBnez _ o => some (2 * o.toInt)
  | .cJ o => some (2 * o.toInt)
  | _ => none

/-- Bytes from an instruction to what it reads of its own image: a near load with base 0 (R38), by the field's unit. -/
def poolOffset : Decoded → Option Int
  | .copy a _ _ o => if a = 0 then some (16 * o.toInt) else none
  | .insn i => match i with
    | .ldb _ b o => if b = 0 then some o.toInt else none
    | .ldbu _ b o => if b = 0 then some o.toInt else none
    | .ldh _ b o => if b = 0 then some o.toInt else none
    | .ldhu _ b o => if b = 0 then some o.toInt else none
    | .ldw _ b o => if b = 0 then some o.toInt else none
    | .ldwu _ b o => if b = 0 then some o.toInt else none
    | .ldd _ b o => if b = 0 then some o.toInt else none
    | .vld _ b o => if b = 0 then some o.toInt else none
    | .vldh _ b o => if b = 0 then some o.toInt else none
    | .ldp _ b o => if b = 0 then some o.toInt else none
    | .tmld _ b o => if b = 0 then some o.toInt else none
    | .dtld b _ o => if b = 0 then some (16 * o.toInt) else none
    | .bld _ b _ _ o => if b = 0 then some (16 * o.toInt) else none
    | .dxld _ b o => if b = 0 then some (16 * o.toInt) else none
    | _ => none

/-- Control never goes on to the next instruction in address order. -/
def neverFalls : Instr → Bool
  | .j _ => true
  | .cJ _ => true
  | .jr _ _ => true
  | .end_ => true
  | .cEnd => true
  | .trap _ => true
  | _ => false

/-- The code address that an item names (R50, R94); one before the image is negative. -/
def Item.named (i : Item) : Option Int := match i.dec with
  | some (.insn x) => (flowOffset x).map fun d => (i.addr : Int) + d
  | _ => none

/-- The loop bodies of the code: loop address, first and last-plus-one address (R94). -/
def loops (items : List Item) : List (Nat × Nat × Nat) :=
  items.filterMap fun i => match i.dec with
    | some (.insn (.loop _ l)) => some (i.addr, i.addr + 4, i.addr + 4 + 2 * l.toNat)
    | some (.insn (.loopi _ l)) => some (i.addr, i.addr + 4, i.addr + 4 + 2 * l.toNat)
    | _ => none

/-! What is known of a register (R303). The spec says what Plodan ties a base to and not how it finds out; the model follows a region's address from the instruction that makes it (`li`
with a relocation, g11 at entry) through moves and sums, as far as every way to an instruction agrees (DESIGN CHOICE, log entry 41). -/

/-- What is known of a value: nothing, its number, that it is the address behind a call of this code (R91), or that it is derived from a region of some length, by index (1,022 for the
persistent region), at a known or an unknown offset. -/
inductive Known where
  | top
  | num (v : Int)
  | ret
  | near (rix len : Nat) (off : Option Int)
  deriving DecidableEq, Repr

/-- What is known where two ways meet. -/
def Known.join : Known → Known → Known
  | .num a, .num b => if a = b then .num a else .top
  | .ret, .ret => .ret
  | .near r n a, .near q m b => if r = q ∧ n = m then .near r n (if a = b then a else none) else .top
  | _, _ => .top

/-- A sum of which one side is a known number. -/
def Known.plus : Known → Known → Known
  | .num a, .num b => .num (a + b)
  | .near r n o, .num b => .near r n (o.map (· + b))
  | .num a, .near r n o => .near r n (o.map (· + a))
  | .near r n _, .top => .near r n none
  | .top, .near r n _ => .near r n none
  | _, _ => .top

/-- What is known at an instruction: of each general register, and where in the image the record of each tm register lies. -/
structure Facts where
  g : List Known
  tm : List (Option Nat)
  deriving DecidableEq, Repr

/-- Nothing is known. -/
def Facts.nothing : Facts := { g := List.replicate 32 .top, tm := List.replicate 8 none }

/-- What is known of a general register; g0 is zero. -/
def Facts.reg (f : Facts) (r : BitVec 5) : Known := if r = 0 then .num 0 else f.g.getD r.toNat .top

/-- A general register is written. -/
def Facts.setReg (f : Facts) (r : BitVec 5) (v : Known) : Facts := { f with g := f.g.set r.toNat v }

/-- What is known where two ways meet. -/
def Facts.join (f g : Facts) : Facts := { g := List.zipWith Known.join f.g g.g, tm := List.zipWith (fun a b => if a = b then a else none) f.tm g.tm }

/-- The general registers that an instruction writes with a value that is not followed. -/
def gWrites : Instr → List (BitVec 5)
  | .sub d _ _ | .and d _ _ | .or d _ _ | .xor d _ _ | .andn d _ _ | .sll d _ _ | .srl d _ _ | .sra d _ _ | .ror d _ _ | .slt d _ _ | .sltu d _ _ | .min d _ _
  | .max d _ _ | .minu d _ _ | .maxu d _ _ | .mul d _ _ | .mhi d _ _ | .mhiu d _ _ | .mhisu d _ _ | .div d _ _ | .divu d _ _ | .rem d _ _ | .remu d _ _ => [d]
  | .clz d _ | .ctz d _ | .popc d _ | .bswap d _ | .sxw d _ | .zxw d _ | .andi d _ _ | .ori d _ _ | .xori d _ _ | .slli d _ _ | .srli d _ _ | .srai d _ _ | .rori d _ _
  | .slti d _ _ | .sltiu d _ _ | .lih d _ _ | .ldb d _ _ | .ldh d _ _ | .ldw d _ _ | .ldd d _ _ | .ldbu d _ _ | .ldhu d _ _ | .ldwu d _ _ | .cLdd d _ _ | .cSub d _
  | .cSlli d _ => [d]
  | .ldp d _ _ => [d, d + 1]
  | .jal _ | .jalr _ _ => [31]
  | .crd d _ | .cxch _ d _ | .crdz d _ | .chtas d _ | .lstat _ d | .sstat _ d | .vext d _ _ _ _ | .kmovGK d _ | .qtry _ d | .dxrun _ d _ _ | .imgld _ d _ | .imgev d _
  | .dstat d _ => [d]
  | _ => []

/-- The relocation of an address. -/
def OpenImage.relocAt (o : OpenImage) (a : Nat) : Option Reloc := o.relocs.find? fun r => r.at_ == a

/-- What a relocation makes known: the region it names at its addend. -/
def OpenImage.relocFact (o : OpenImage) (r : Reloc) : Known := .near r.region ((o.regions.getD r.region (0, 0)).1) (some r.addend)

/-- The immediate of an instruction as a known value: its relocation's, or its number. -/
def OpenImage.immFact (o : OpenImage) (a : Nat) (v : Int) : Known := match o.relocAt a with
  | some r => o.relocFact r
  | none => .num v

/-- What is known behind an instruction. A call leaves what its callee is given: the address behind the call in g31. -/
def OpenImage.after (o : OpenImage) (i : Item) (f : Facts) : Facts :=
  match i.dec with
  | some (.insn x) => match x with
    | .jal _ | .jalr _ _ => f.setReg 31 .ret
    | .li d v => f.setReg d (o.immFact i.addr v.toInt)
    | .cLi d v => f.setReg d (o.immFact i.addr v.toInt)
    | .addi d a v => f.setReg d ((f.reg a).plus (o.immFact i.addr v.toInt))
    | .cAddi d v => f.setReg d ((f.reg d).plus (o.immFact i.addr v.toInt))
    | .add d a b => f.setReg d ((f.reg a).plus (f.reg b))
    | .cAdd d b => f.setReg d ((f.reg d).plus (f.reg b))
    | .cMv d a => f.setReg d (f.reg a)
    | .tmld t _ _ => { f with tm := f.tm.set t.toNat ((poolOffset (.insn x)).map fun d => ((i.addr : Int) + d).toNat) }
    | .tmbase t _ => { f with tm := f.tm.set t.toNat none }
    | .tmcnt t _ _ => { f with tm := f.tm.set t.toNat none }
    | x => (gWrites x).foldl (fun f d => f.setReg d .top) f
  | _ => f

/-- Where control may go from an instruction at which some facts are known, with what is known there: the next instruction, the address that it names, the first instruction of a loop
body that it ends (R95), a register jump's target where its number is known, and behind a call, where nothing is known. A return goes behind a call of this code. None: a register jump may
go anywhere. -/
def OpenImage.edges (o : OpenImage) (ls : List (Nat × Nat × Nat)) (i : Item) (f : Facts) : Option (List (Int × Facts)) :=
  let g := o.after i f
  let on : Int := (i.addr : Int) + i.size
  let seq := (on, g) :: (ls.filter fun l => l.2.2 == i.addr + i.size).map fun l => ((l.2.1 : Int), g)
  let named := i.named.toList.map fun a => (a, g)
  match i.dec with
  | none => some []
  | some (.copy _ _ _ _) => some seq
  | some (.insn x) => match x with
    | .jal _ => some ((on, Facts.nothing) :: named)
    | .jalr a v => (match f.reg a with
      | .num n => some [(on, Facts.nothing), (n + v.toInt, g)]
      | _ => none)
    | .jr a v => (match f.reg a with
      | .num n => some [(n + v.toInt, f)]
      | .ret => if v = 0 then some [] else none
      | _ => none)
    | x => some ((if neverFalls x then [] else seq) ++ named)

/-- What is known at a handler's entry (R28): g11 is the base of its persistent region, if it has one. -/
def entryFacts (b : OpenBinding) : Facts := if b.persist = 0 then Facts.nothing else Facts.nothing.setReg 11 (.near 1022 b.persist (some 0))

/-- What is known at an address takes in another way to it. -/
def meet (m : List (Nat × Facts)) (a : Nat) (f : Facts) : List (Nat × Facts) := match look m a with
  | none => put m a f
  | some g => put m a (g.join f)

/-- One round over the code: what is known behind each instruction reaches those that follow it. -/
def OpenImage.round (o : OpenImage) (items : List Item) (m : List (Nat × Facts)) : List (Nat × Facts) :=
  items.foldl (fun m i => match look m i.addr with
    | none => m
    | some f => ((o.edges (loops items) i f).getD []).foldl (fun m e => if e.1 < 0 then m else meet m e.1.toNat e.2) m) m

/-- Rounds until nothing changes. -/
def OpenImage.rounds (o : OpenImage) (items : List Item) : Nat → List (Nat × Facts) → List (Nat × Facts)
  | 0, m => m
  | n + 1, m => let k := o.round items m; if k = m then m else o.rounds items n k

/-- What is known covers every way: at each handler's entry, and behind each instruction at which something is known. -/
def OpenImage.closed (o : OpenImage) (items : List Item) (m : List (Nat × Facts)) : Bool :=
  (o.binds.all fun b => meet m b.label (entryFacts b) == m) && items.all fun i => match look m i.addr with
    | none => true
    | some f => match o.edges (loops items) i f with
      | none => false
      | some es => es.all fun e => decide (e.1 < 0) || meet m e.1.toNat e.2 == m

/-- What is known at each reachable address. Where a register jump may go anywhere every address is reachable, and nothing is known. -/
def OpenImage.facts (o : OpenImage) (items : List Item) : List (Nat × Facts) :=
  let m := o.rounds items (105 * items.length + 1) (o.binds.foldl (fun m b => meet m b.label (entryFacts b)) [])
  if o.closed items m then m else items.map fun i => (i.addr, Facts.nothing)

/-- What is known at an address. -/
def factsAt (m : List (Nat × Facts)) (a : Nat) : Facts := (look m a).getD Facts.nothing

/-- What Plodan ties a range [base + off, base + off + n) to (R303): the region its base is derived from, by index, and whether every value of the base keeps it inside. -/
def tieOf (v : Known) (off : Int) (n : Nat) : Option (Nat × Bool) :=
  match v with
  | .near r len k => some (r, match k with
    | some o => decide (0 ≤ o + off) && decide (o + off + n ≤ len)
    | none => false)
  | _ => none

/-- What Plodan ties the near range of an instruction to. -/
def OpenImage.tie (o : OpenImage) (i : Item) : Option (Nat × Bool) :=
  match i.dec.bind nearSpan with
  | some (b, off, n) => tieOf ((factsAt (o.facts o.items) i.addr).reg b) off n
  | none => none

/-- The base of a near access is a constant that no relocation made (R300). -/
def Item.constBase (i : Item) (f : Facts) : Bool :=
  match i.dec.bind nearSpan with
  | some (b, _, _) => (match f.reg b with
    | .num _ => true
    | _ => false)
  | none => false

/-- Bits of a pool. -/
def OpenImage.poolBits (o : OpenImage) (a n : Nat) : Nat := leNat ((o.pool.drop (a - 2 * o.code.length)).take n)

/-- The walk of the tensor-map record at an image address lies in one region (R115, R117): its lowest and its highest byte do. -/
def OpenImage.walkProven (o : OpenImage) (a : Nat) : Bool :=
  match o.relocAt a with
  | none => false
  | some r =>
    let w : BitVec 128 := BitVec.ofNat 128 (o.poolBits (a + 16) 16)
    let dims := (List.range 4).map fun k => ((fld w (32 * k) 16 : BitVec 16).toNat, (fld w (32 * k + 16) 16 : BitVec 16).toInt)
    let ends := dims.map fun d => d.2 * ((d.1 : Int) - 1)
    let lo := (ends.filter (· < 0)).sum
    let hi := (ends.filter (0 < ·)).sum + laneWidth (BitVec.ofNat 4 (o.poolBits a 4 / 2 ^ 18 % 16)) / 8
    (dims.any fun d => d.1 == 0) || (match tieOf (o.relocFact r) lo (hi - lo).toNat with
      | some (_, p) => p
      | none => false)

/-- An instruction whose addresses must be proven to lie in one region (R300): those of a walk, or the lane table of a `dxrun` (R143). -/
def OpenImage.unproven (o : OpenImage) (i : Item) (f : Facts) : Bool :=
  let walk := fun (t : BitVec 3) => match f.tm.getD t.toNat none with
    | some a => !o.walkProven a
    | none => true
  match i.dec with
  | some (.insn x) => match x with
    | .twld _ t _ => walk t
    | .twst _ _ t _ => walk t
    | .sbind _ t => walk t
    | .dxrun _ _ a _ => (match tieOf (f.reg a) 0 128 with
      | some (_, p) => !p
      | none => true)
    | _ => false
  | _ => false

end Sys2Proof.Machine
end

