-- ==== Sys2Proof/Machine/Triage.lean ====
section
/-! DEFINITION. The vendor's handlers for records and completions (R243, R244, R246, R289, R355): channels 249, 250 and 251 at a compute core, and records at a
supervisor. -/

namespace Sys2Proof.Machine

/-- Containment ID of a record (R239). -/
def Msg.recCid (m : Msg) : BitVec 16 := fld (m.dw 0) 16 16

/-- CAUSE of a record. -/
def Msg.recCause (m : Msg) : Cause := m.byte 7

/-- A record that reaches no tenant is counted (R242, R243, R261). -/
def State.undeliverable (s : State) : State := s.modCtr fun c => { c with undeliverable := c.undeliverable + 1 }

/-- The doublewords of a record. -/
def Msg.record8 (m : Msg) : Vector Word 8 := Vector.ofFn fun i => m.dw i.val

/-- A record enters the trap ring of a VF in host memory, and its trap MSI-X vector is raised (R243). The spec names no number for the vector: it is free. -/
def Func.ring (f : Func) (i : Nat) (r : Vector Word 8) (now up : Word) : Func := { f with trapRing := f.trapRing ++ [r] }.interrupt (Config.trapVector i) now up

/-- What both modes of trap triage do with the oldest record on channel 249 (R243): the mode's check, then `f`, or the record is dropped and counted. Which
mode runs is the VF record's HA bit 39 at the event (R332, R355); a record of a tenant without a VF record is hardware mode's to drop. -/
def State.triage (s : State) (host : Bool) (f : Msg → Nat → Func → State → State) : State :=
  match s.vendorMsg 249 with
  | none => s
  | some m =>
    match s.home.vfOf (cidTen m.recCid) with
    | none => if host then s else (s.takeQueued 249).undeliverable
    | some (i, v) =>
      if bit (v.rec16[0]) 39 != host then s
      else
        let t := s.takeQueued 249
        if v.trapCore (fld m.recCid 0 4).toNat = some s.at_ ∧ (host ∨ userChannel (fld (v.rec16[3]) 48 8)) then
          (t.modFunc (cidTen m.recCid) fun g => { g with delivered := g.delivered + 1 }) |> f m i v
        else t.undeliverable

/-- TRAP_TRIAGE_HW (R243): the record goes on unchanged as a call on TCH to the core itself. -/
def execTrapTriageHw (s : State) : Host.Outcome State Fault Refusal :=
  .next (s.triage false fun m _ v t => t.sendOwn s.at_ kCall (fld (v.rec16[3]) 48 8) m.recCid m.pay)

/-- TRAP_TRIAGE_HOST (R243): the host link agent writes the record into the VF's trap ring and raises its trap vector. The way to the agent takes no step of its
own (DESIGN CHOICE, log entry 36). -/
def execTrapTriageHost (s : State) : Host.Outcome State Fault Refusal :=
  .next (s.triage true fun m i _ t => t.modFunc (cidTen m.recCid) fun g => g.ring i m.record8 t.time t.home.downUntil)

/-- A completion on channel 250 reports success: class or status 0 (R128, R232, R244). -/
def Msg.doneStatus (m : Msg) (copy : Bool) : Cause := if copy then m.byte 7 else m.byte 2

/-- ENGINE_COMPLETION (R244): the oldest completion on channel 250 is counted, and a failure becomes an asynchronous record. -/
def execEngineCompletion (s : State) : Host.Outcome State Fault Refusal :=
  .next (match s.vendorMsg 250 with
  | none => s
  | some m =>
    let copy := isCopyEngine m.src
    let t := (s.takeQueued 250).modFunc m.ten fun f => { f with completions := f.completions + 1 }
    if m.doneStatus copy = 0 then t
    else t.asyncRecord (m.doneStatus copy) m.cid m.src (if copy then m.dw 2 else 0) false (if copy then fld (m.dw 0) 40 8 else 0) (m.dw 0)
      { Origin.none with ch := 250 })

/-- Error escalation in host-assisted mode (R355): the record also enters the VF's trap ring. -/
def State.escalate (s : State) (m : Msg) : State :=
  match s.home.vfOf (cidTen m.recCid) with
  | some (i, v) => if bit (v.rec16[0]) 42 then s.modFunc (cidTen m.recCid) fun g => g.ring i m.record8 s.time s.home.downUntil else s
  | none => s

/-- DOUBLE_RECORD (R246): a record of core `src` reaches a supervisor, which keeps it; a DOUBLE record it also escalates. `flag`: the handling of a DOUBLE
record itself traps, which sends nothing and is counted. A record of class-S work or tenant 0 arrives the same way (R242). -/
def execDoubleRecord (s : State) : Host.Outcome State Fault Refusal :=
  .next (s.takes .doubleRecord (fun _ => true) fun m t =>
    let t := t.settle m
    if m.recCause = cDouble then
      if s.ev.flag then t.doubleFault
      else (t.keepReport m).escalate m
    else t.keepReport m)

/-- RESCUE_RELAY (R289): the channel-251 handler of the origin core checks the tenant and calls the rescue channel with the record. -/
def execRescueRelay (s : State) : Host.Outcome State Fault Refusal :=
  .next (match s.vendorMsg 251 with
  | none => s
  | some m =>
    let t := s.takeQueued 251
    if m.cid = m.recCid ∧ (s.home.vfOf m.ten).isSome then t.sendOwn s.at_ kCall (fld (m.flit 2) 0 8) m.cid (m.pay.take 2) else t.undeliverable)

end Sys2Proof.Machine
end

