-- ==== Sys2Proof/Machine/Admission.lean ====
section
/-! DEFINITION. Admission of an open image by the Plodan translator (R300 to R307). -/

namespace Sys2Proof.Machine

/-- A signed offset in units of `k` bytes as a field of `w` bits, if it fits. -/
def fitSigned (w k : Nat) (d : Int) : Option (BitVec w) :=
  if d % k = 0 ∧ -(2 : Int) ^ (w - 1) ≤ d / k ∧ d / k < (2 : Int) ^ (w - 1) then some (BitVec.ofInt w (d / k)) else none

/-- A loop length in halfwords from a distance in bytes, if it fits (R94). -/
def fitLoop (d : Int) : Option (BitVec 12) :=
  if (d - 4) % 2 = 0 ∧ 1 ≤ (d - 4) / 2 ∧ (d - 4) / 2 ≤ 4095 then some (BitVec.ofInt 12 ((d - 4) / 2)) else none

/-- An instruction with a new distance to the code address it names. -/
def setFlow (d : Int) : Instr → Option Instr
  | .beq a b _ => (fitSigned 12 2 d).map (.beq a b)
  | .bne a b _ => (fitSigned 12 2 d).map (.bne a b)
  | .blt a b _ => (fitSigned 12 2 d).map (.blt a b)
  | .bge a b _ => (fitSigned 12 2 d).map (.bge a b)
  | .bltu a b _ => (fitSigned 12 2 d).map (.bltu a b)
  | .bgeu a b _ => (fitSigned 12 2 d).map (.bgeu a b)
  | .j _ => (fitSigned 24 2 d).map .j
  | .jal _ => (fitSigned 24 2 d).map .jal
  | .loop a _ => (fitLoop d).map (.loop a)
  | .loopi c _ => (fitLoop d).map (.loopi c)
  | .cBeqz a _ => (fitSigned 6 2 d).map (.cBeqz a)
  | .cBnez a _ => (fitSigned 6 2 d).map (.cBnez a)
  | .cJ _ => (fitSigned 11 2 d).map .cJ
  | i => some i

/-- An instruction with a new distance to what it reads of its own image. -/
def setPool (d : Int) : Instr → Option Instr
  | .ldb r b _ => (fitSigned 12 1 d).map (.ldb r b)
  | .ldbu r b _ => (fitSigned 12 1 d).map (.ldbu r b)
  | .ldh r b _ => (fitSigned 12 1 d).map (.ldh r b)
  | .ldhu r b _ => (fitSigned 12 1 d).map (.ldhu r b)
  | .ldw r b _ => (fitSigned 12 1 d).map (.ldw r b)
  | .ldwu r b _ => (fitSigned 12 1 d).map (.ldwu r b)
  | .ldd r b _ => (fitSigned 12 1 d).map (.ldd r b)
  | .vld r b _ => (fitSigned 12 1 d).map (.vld r b)
  | .vldh r b _ => (fitSigned 12 1 d).map (.vldh r b)
  | .ldp r b _ => (fitSigned 12 1 d).map (.ldp r b)
  | .tmld r b _ => (fitSigned 12 1 d).map (.tmld r b)
  | .dtld b x _ => (fitSigned 8 16 d).map (.dtld b x)
  | .bld r b x f _ => (fitSigned 8 16 d).map (.bld r b x f)
  | .dxld x b _ => (fitSigned 10 16 d).map (.dxld x b)
  | _ => none

/-! Verification (R300). -/

/-- The control register that an instruction names. -/
def csrOf : Instr → Option (BitVec 10)
  | .crd _ c => some c
  | .cwr _ c => some c
  | .cins _ _ c => some c
  | .cxch _ _ c => some c
  | .crdz _ c => some c
  | _ => none

/-- Major opcode of an instruction's word; none for a 16-bit one. -/
def majorOf (b : BitVec 16 ⊕ BitVec 32) : Option Nat := match b with
  | .inl _ => none
  | .inr w => some (fld w 25 6 : BitVec 6).toNat

/-- An instruction that no user image may hold at a reachable address (R300): MO 0x1B, 0x2A, MO 0x2B but for `dmark`, and a control register from 0x0E0 to
0x0FF. -/
def forbidden (b : BitVec 16 ⊕ BitVec 32) (d : Decoded) : Bool :=
  let mo := majorOf b
  mo == some 0x1B || mo == some 0x2A || (mo == some 0x2B && (match d with
    | .insn (.dmark _ _) => false
    | _ => true)) || (match d with
    | .insn i => (match csrOf i with
      | some c => decide (0x0E0 ≤ c.toNat) && decide (c.toNat ≤ 0x0FF)
      | none => false)
    | _ => false)

/-- A global access, and so one that may get a `chkg` (R301, R309): MO 0x12 to 0x15, `sendp`, and `cpy`. -/
def isGlobal (b : BitVec 16 ⊕ BitVec 32) (d : Decoded) : Bool :=
  match d with
  | .copy _ _ _ _ => true
  | .insn (.sendp _ _ _ _ _) => true
  | _ => match majorOf b with
    | some mo => decide (0x12 ≤ mo) && decide (mo ≤ 0x15)
    | none => false

/-- An address at which no instruction of the code begins. -/
def noStart (items : List Item) (a : Int) : Bool := !(items.map fun x => (x.addr : Int)).contains a

/-- R300 on one reachable instruction, at which some facts are known. -/
def OpenImage.badAt (o : OpenImage) (items : List Item) (i : Item) (f : Facts) : Bool :=
  match i.dec with
  | none => true
  | some d =>
    forbidden i.bits d || i.constBase f || o.unproven i f || ((o.edges (loops items) i f).getD []).any fun e => noStart items e.1

/-- R300 on one instruction wherever it stands, reachable or not: the address that it names begins an instruction, and the loop bodies that hold it keep R95. -/
def misplaced (items : List Item) (i : Item) : Bool :=
  i.named.any (noStart items) || (loops items).any fun l =>
    decide (l.2.1 ≤ i.addr) && decide (i.addr < l.2.2) && (decide (l.2.2 < i.addr + i.size) || (loops items).any fun k => k.1 == i.addr)

/-- A binding that R300 refuses: slot S, a system channel, or priority 7; or one that the image's directives exclude (R18). -/
def OpenBinding.bad (b : OpenBinding) : Bool := b.slotS || decide (b.ch < 16) || decide (247 < b.ch) || b.prio == 7

/-- R300: the lowest address that refuses the image, if any. -/
def OpenImage.refusal (o : OpenImage) : Option Nat :=
  let items := o.items
  let known := o.facts items
  ((o.binds.filter fun b => b.bad || noStart items b.label).map (·.label) ++
    (items.filter fun i => misplaced items i || (look known i.addr).any (o.badAt items i)).map (·.addr)).min?

/-! Placement (R301 step 2). -/

/-- The cores that a launch of a tenant may use: those of its partition in this package (R163). -/
def State.coresOf (s : State) (ten : BitVec 12) : List Core :=
  ((s.at_ :: s.away.map fun c => BitVec.ofNat 29 c.1).filter fun a =>
    isCompute a && pkgOf a == pkgOf s.at_ && s.home.partOf a == s.home.partOfTen ten).map s.core

/-- A placed region's near range at its homes; none of a pool region. -/
def RptEntry.nearRange (e : RptEntry) : Option (Nat × Nat) := if e.kind.toNat ≤ 1 then some ((fld e.loc 0 18 : BitVec 18).toNat, e.nearTop) else none

/-- Near ranges that are taken on the cores of a launch (R301): by other images that Plodan sealed, by persistent regions and resident images, and by regions of the placement table that
others own, tenant 0 among them. -/
def State.regionsTaken (s : State) (o : OpenImage) : List (Nat × Nat) :=
  ((s.home.plodan.filter fun p => p.src.id != o.id).flatMap fun p => (p.bases.zip p.src.regions).map fun r => (r.1, r.1 + r.2.1)) ++
    (s.coresOf o.ten).flatMap Core.placed ++ (s.home.rpt.filter fun e => e.owner != o.ten).filterMap RptEntry.nearRange

/-- Near ranges of the tenant's own placed regions, which a declared region may be (R320), and may not overlap otherwise. -/
def State.regionsOwned (s : State) (o : OpenImage) : List (Nat × Nat) := (s.home.rpt.filter fun e => e.owner == o.ten).filterMap RptEntry.nearRange

/-- A range keeps clear of another. -/
def clearOf (b len : Nat) (r : Nat × Nat) : Bool := decide (b + len ≤ r.1) || decide (r.2 ≤ b)

/-- Near bases for the regions, each a multiple of its alignment, in local memory and clear of every other region; which one is free. -/
def bindRegions (id : BitVec 32) (taken own : List (Nat × Nat)) (n : Nat) : List (Nat × Nat) → Option (List Nat)
  | [] => some []
  | (len, align) :: rest =>
    let places := ((List.range (0x40000 / align)).map (align * ·)).filter fun b =>
      decide (b + len ≤ 0x40000) && taken.all (clearOf b len) && own.all fun r => clearOf b len r || r == (b, b + len)
    match places[Config.regionBase id n % places.length]? with
    | none => none
    | some b => (bindRegions id ((b, b + len) :: taken) own (n + 1) rest).map fun l => b :: l

/-! Checks and new addresses (R301 steps 3 and 4, R303). -/

/-- The check in front of an access (R301, R303, R309). A `cpy` whose regions are not proven gets `chkg` alone: a check examines the one instruction behind it,
so an access has room for one (DESIGN CHOICE, log entry 41). -/
def OpenImage.check (o : OpenImage) (i : Item) : Option Instr :=
  match i.dec with
  | none => none
  | some d =>
    if isGlobal i.bits d && !Config.owned o.id o.gen i.addr then some (.chkg 0)
    else if (nearSpan d).isSome then
      some (match o.tie i with
        | some (r, true) => .chke (BitVec.ofNat 10 r)
        | some (r, false) => .chk (BitVec.ofNat 10 r)
        | none => .chk 1023)
    else none

/-- A `nop` behind an access with a check that would end a loop body (R303). -/
def OpenImage.pad (o : OpenImage) (items : List Item) (i : Item) : Bool := (o.check i).isSome && (loops items).any fun l => l.2.2 == i.addr + i.size

/-- Old and new address of every unit, and where the code ends. -/
def layout (o : OpenImage) (items : List Item) : List (Nat × Nat) × Nat :=
  items.foldl (fun acc i =>
    (acc.1 ++ [(i.addr, acc.2)], acc.2 + (if (o.check i).isSome then 4 else 0) + i.size + (if o.pad items i then 4 else 0))) ([], 0)

/-- The new place of an old address: of the unit that begins there, or in the pools, which move as a whole and keep their place modulo 64. -/
def moved (m : List (Nat × Nat)) (codeEnd poolAt : Nat) (a : Nat) : Nat := if codeEnd ≤ a then poolAt + (a - codeEnd) else (look m a).getD a

/-- The address at which the pools lie behind `n` bytes of code. -/
def poolPlace (codeEnd n : Nat) : Nat := n + (codeEnd + 64 - n % 64) % 64

/-- The value of a relocation at given region bases (R11): the bound near base plus the immediate. -/
def Reloc.value (r : Reloc) (bases : List Nat) : Int := (bases.getD r.region 0 : Int) + r.addend

/-- An unsigned value in units of `k` as a field of `w` bits, if it fits (R10). -/
def fitUnsigned (w k : Nat) (v : Int) : Option (BitVec w) := if v % k = 0 ∧ 0 ≤ v ∧ v / k < (2 : Int) ^ w then some (BitVec.ofInt w (v / k)) else none

/-- An instruction with a value as its immediate (R11), if its field holds it (R10); none for an instruction that has no immediate. -/
def setImm (v : Int) : Instr → Option Instr
  | .li d _ => (fitSigned 19 1 v).map (.li d)
  | .addi d a _ => (fitSigned 15 1 v).map (.addi d a)
  | .andi d a _ => (fitSigned 15 1 v).map (.andi d a)
  | .ori d a _ => (fitSigned 15 1 v).map (.ori d a)
  | .xori d a _ => (fitSigned 15 1 v).map (.xori d a)
  | .slti d a _ => (fitSigned 14 1 v).map (.slti d a)
  | .sltiu d a _ => (fitSigned 14 1 v).map (.sltiu d a)
  | .lih d p _ => (fitUnsigned 16 1 v).map (.lih d p)
  | .slli d a _ => (fitUnsigned 6 1 v).map (.slli d a)
  | .srli d a _ => (fitUnsigned 6 1 v).map (.srli d a)
  | .srai d a _ => (fitUnsigned 6 1 v).map (.srai d a)
  | .rori d a _ => (fitUnsigned 6 1 v).map (.rori d a)
  | .cSlli d _ => (fitUnsigned 6 1 v).map (.cSlli d)
  | .cLdd d b _ => (fitUnsigned 3 8 v).map (.cLdd d b)
  | .cStd d b _ => (fitUnsigned 3 8 v).map (.cStd d b)
  | .bst a l b s f _ => (fitSigned 8 16 v).map (.bst a l b s f)
  | .loopi _ l => (fitUnsigned 12 1 v).map fun c => .loopi c l
  | .trap _ => (fitUnsigned 10 1 v).map .trap
  | .chmask _ => (fitUnsigned 8 1 v).map .chmask
  | .chunmask _ => (fitUnsigned 8 1 v).map .chunmask
  | .chtas d _ => (fitUnsigned 8 1 v).map (.chtas d)
  | .barm b _ => (fitUnsigned 8 1 v).map (.barm b)
  | .bdis _ => (fitUnsigned 8 1 v).map .bdis
  | .jdec l a _ => (fitUnsigned 8 1 v).map (.jdec l a)
  | .cLi d _ => (fitSigned 6 1 v).map (.cLi d)
  | .cAddi d _ => (fitSigned 6 1 v).map (.cAddi d)
  | .stb d b _ => (fitSigned 12 1 v).map (.stb d b)
  | .sth d b _ => (fitSigned 12 1 v).map (.sth d b)
  | .stw d b _ => (fitSigned 12 1 v).map (.stw d b)
  | .std d b _ => (fitSigned 12 1 v).map (.std d b)
  | .vst d b _ => (fitSigned 12 1 v).map (.vst d b)
  | .vsth d b _ => (fitSigned 12 1 v).map (.vsth d b)
  | .stp d b _ => (fitSigned 12 1 v).map (.stp d b)
  | .jr a _ => (fitSigned 15 1 v).map (.jr a)
  | .jalr a _ => (fitSigned 15 1 v).map (.jalr a)
  | x => setPool v x

/-- A datum of a pool with a relocation's value in its low bits (R11), if it holds it: a `.tmap` base as an address, an integer directive as a signed or an unsigned number. -/
def patchPool (pool : List Byte) (at_ bits : Nat) (v : Int) : Option (List Byte) :=
  let n := (bits + 7) / 8
  let x := leNat ((pool.drop at_).take n)
  if v < (2 : Int) ^ bits ∧ (if bits = 18 then (0 : Int) else -(2 : Int) ^ (bits - 1)) ≤ v then
    some (pool.take at_ ++ leBytes n (x / 2 ^ bits * 2 ^ bits + (v % (2 : Int) ^ bits).toNat) ++ pool.drop (at_ + n))
  else none

/-- The pools with their relocations replaced (R11). -/
def OpenImage.poolBound (o : OpenImage) (bases : List Nat) : Option (List Byte) :=
  (o.relocs.filter fun r => decide (o.codeEnd ≤ r.at_)).foldl (fun p r => p.bind fun l => patchPool l (r.at_ - o.codeEnd) r.bits (r.value bases)) (some o.pool)

/-- One item with its relocation and its offsets rewritten (R11, R301 steps 2 and 4), as an instruction or a `cpy`; none where one does not fit or the instruction has no immediate. -/
def OpenImage.rewrite (o : OpenImage) (bases : List Nat) (dest : Nat → Nat) (at_ : Nat) (i : Item) : Option (BitVec 16 ⊕ BitVec 32) :=
  match i.dec with
  | none => some i.bits
  | some d =>
    let dist := fun (off : Int) => (dest ((i.addr : Int) + off).toNat : Int) - at_
    let bound := (o.relocAt i.addr).map fun r => r.value bases
    match d with
    | .copy _ _ _ _ =>
      match bound.orElse (fun _ => (poolOffset d).map dist), i.bits with
      | some v, .inr w => (fitSigned 10 16 v).map fun x => .inr (setFld w 0 x)
      | _, b => some b
    | .insn x =>
      let y := match bound with
        | some v => setImm v x
        | none => match poolOffset d with
          | some off => setPool (dist off) x
          | none => some x
      let z := match flowOffset x, y with
        | some off, some y => setFlow (dist off) y
        | _, y => y
      match z with
      | none => none
      | some z => match encode z with
        | .half h => some (.inl h)
        | .word w => some (.inr w)
        | _ => none

/-- Bytes of an instruction's bits in address order (R45). -/
def bitsBytes : BitVec 16 ⊕ BitVec 32 → List Byte
  | .inl h => leBytes 2 h.toNat
  | .inr w => leBytes 2 (w >>> 16).toNat ++ leBytes 2 (fld w 0 16 : BitVec 16).toNat

/-- Bytes of a 32-bit instruction. -/
def wordOf (i : Instr) : List Byte := match encode i with
  | .word w => bitsBytes (.inr w)
  | _ => []

/-- The translated code (R301 steps 3 and 4); none when an offset no longer fits. -/
def OpenImage.translate (o : OpenImage) (bases : List Nat) (items : List Item) (m : List (Nat × Nat)) (dest : Nat → Nat) : Option (List Byte) :=
  (items.mapM fun i =>
    let start := (look m i.addr).getD 0
    let pre := match o.check i with
      | some c => wordOf c
      | none => []
    (o.rewrite bases dest (start + pre.length) i).map fun b => pre ++ bitsBytes b ++ (if o.pad items i then wordOf .nop else [])).map List.flatten

/-! Sealing (R301 steps 5 to 7, R304 to R306). -/

/-- A region-table entry (R302). -/
def regionEntry (base len : Nat) : Word := BitVec.ofNat 64 (base + 2 ^ 32 * (base + len))

/-- Header of a sealed image (R305). -/
def sealHeader (o : OpenImage) (slot : BitVec 4) (xlen rto nreg nbl : Nat) (mac : BitVec 128) : List Byte :=
  let d0 : Word := 0#2 ++ o.ten ++ 0#2 ++ o.gen ++ o.id
  let d1 : Word := 0#16 ++ slot ++ 0#2 ++ BitVec.ofNat 10 nreg ++ BitVec.ofNat 16 rto ++ BitVec.ofNat 16 xlen
  let d2 : Word := 0#16 ++ BitVec.ofNat 16 nbl ++ BitVec.ofNat 32 (64 + xlen + xlen / 16)
  leBytes 8 d0.toNat ++ leBytes 8 d1.toNat ++ leBytes 8 d2.toNat ++ List.replicate 24 0 ++ leBytes 16 mac.toNat

/-- The executable map of an extent (R304): halfwords of code set, all others clear. -/
def mapBytes (xlen codeBytes : Nat) : List Byte :=
  (List.range (xlen / 16)).map fun b => BitVec.ofNat 8 (((List.range 8).filter fun k => decide (2 * (8 * b + k) < codeBytes)).map fun k => 2 ^ k).sum

/-- The sealed image of an open image at given region bases and with its tenant's key slot (R301, R304 to R306), or none when it does not fit: a user image has a tenant and a generation
of 1 to 65,535, at most 1,021 regions and 256 bindings, and an extent of at most 32,768 bytes (R305). -/
def OpenImage.build (o : OpenImage) (slot : BitVec 4) (bases : List Nat) : Option (List Byte) :=
  let items := o.items
  let m := layout o items
  let poolAt := if o.pool.isEmpty then m.2 else poolPlace o.codeEnd m.2
  let dest := moved m.1 o.codeEnd poolAt
  match o.translate bases items m.1 dest, o.poolBound bases with
  | some code, some pool =>
    let rto := (poolAt + o.pool.length + 7) / 8 * 8
    let n := o.regions.length
    let used := rto + 8 * n
    let xlen := max 64 ((used + 63) / 64 * 64)
    if 32768 < xlen ∨ 1021 < n ∨ 256 < o.binds.length ∨ o.gen = 0 ∨ o.ten = 0 then none
    else
      let body := code ++ List.replicate (poolAt - code.length) 0 ++ pool ++ List.replicate (rto - (poolAt + o.pool.length)) 0 ++
        ((bases.zip o.regions).flatMap fun r => leBytes 8 (regionEntry r.1 r.2.1).toNat) ++ List.replicate (xlen - used) 0
      let binds := o.binds.flatMap fun b => leBytes 8 (b.ch + 2 ^ 14 * dest b.label)
      let tail := body ++ mapBytes xlen m.2 ++ binds
      let mac := Config.sealMac ((sealHeader o slot xlen rto n o.binds.length 0).take 48 ++ tail)
      some (sealHeader o slot xlen rto n o.binds.length mac ++ tail)
  | _, _ => none

/-- The IGT entry of a newly sealed image (R301 step 7): valid, its generation, and SUCC. -/
def igtNew (o : OpenImage) : Word := 1#1 ++ 1#1 ++ 0#14 ++ o.gen ++ o.id

/-- The supervisor's answer to the translator (R301 step 7): a new image, or one at the generation that the IGT shows, has its entry set; a successor at the next
generation of a live image has it set by the revoke that follows. -/
def Package.enterIgt (k : Package) (o : OpenImage) : Package :=
  let e := k.igtEntry o.id
  if bit e 63 ∧ fld e 32 16 ≠ o.gen then k else { k with igt := put k.igt (o.id.toNat % 65536) (igtNew o) }

/-- The outcome of an admission (R300, R301): the tenant's key slot and the sealed image, or the first offending address. -/
def State.admitted (s : State) (o : OpenImage) : Except Nat (BitVec 4 × Sealed) :=
  match o.refusal with
  | some a => .error a
  | none =>
    let e := s.home.igtEntry o.id
    if bit e 63 ∧ fld e 0 32 ≠ o.id then .error 0
    else match s.home.keySlotFor o.ten, bindRegions o.id (s.regionsTaken o) (s.regionsOwned o) 0 o.regions with
      | some slot, some bases => match o.build slot bases with
        | none => .error 0
        | some b => .ok (slot, { src := o, bases := bases, bytes := b })
      | _, _ => .error 0

/-- A translator core's place (R222). -/
def isTranslator (a : CoreAddr) : Bool := isEngine a && decide (16 ≤ xOf a) && decide (xOf a ≤ 23)

/-- ADMISSION (R301): a translator core admits the open image of the event. A refusal leaves a diagnostic with the first offending address for the tenant's
function. -/
def execAdmission (s : State) : Host.Outcome State Fault Refusal :=
  .next (if !isTranslator s.at_ then s
  else
    let o := s.ev.img
    match s.admitted o with
    | .error a => s.modFunc o.ten fun f => { f with answers := f.answers ++ [(zext o.id, BitVec.ofNat 64 a)] }
    | .ok (slot, p) => s.modHome fun k => { (k.enterIgt o).giveSlot o.ten slot with plodan := k.plodan ++ [p] })

end Sys2Proof.Machine
end

