-- ==== Sys2Proof/Machine/Ascent.lean ====
section
/-! DEFINITION. Ascent instructions, MO 0x29 (R281, R282, R291, R292). -/

namespace Sys2Proof.Machine

/-- AIDOK (R291). -/
def aidOk (a : Word) : Bool := zeroBits a 22 42 && !zeroBits a 0 16

/-- `asid`.JN of the acting slot (R281). -/
def State.joined (s : State) : Bool := bit s.act.csr.asid 32

/-- `asid`.NST. -/
def State.staged (s : State) : Nat := (fld s.act.csr.asid 33 3).toNat

/-- An ascent request (R291): one system message on channel 12; in a joined activation it is an L message of the third part (R282). -/
def State.ascentReq (s : State) (d : CoreAddr) (op act : Nat) (ch : BitVec 8) (w cookie : Word) : Effect :=
  s.send (.uni d kSystem 12 0 [ascentFlit op act ch w cookie s.at_]) s.joined (if s.joined then 3 else 1) .plain

/-- `abegin` (R291). -/
def abeginEff (a b : BitVec 5) (c : BitVec 8) (s : State) : Effect :=
  let w := s.g a
  if !zeroBits w 56 8 || !zeroBits w 24 8 || !userChannel (fld w 16 8) then .trap (.plain cAscent w)
  else s.ascentReq (s.standIn (homeKeeper (pkgOf s.at_) (fld w 0 16).toNat)) 2 0 c w (s.g b)

/-- `abegin` (R291). -/
def execAbegin (a b : BitVec 5) (c : BitVec 8) (s : State) : Host.Outcome State Fault Refusal := finish 4 s (abeginEff a b c s)

/-- `ajoin` (R291). -/
def ajoinEff (a : BitVec 5) (s : State) : Effect :=
  let x := s.g a
  let old := s.act.csr.asid
  if !aidOk x || s.act.modeI || s.classS || bit old 36 || (bit old 32 && fld old 0 32 != fld x 0 32) then .trap (.plain cAscent x)
  else .ok (s.modCsr fun r => { r with asid := setFld (setFld r.asid 0 (fld x 0 32)) 32 1#1 })

/-- `ajoin` (R291). -/
def execAjoin (a : BitVec 5) (s : State) : Host.Outcome State Fault Refusal := finish 4 s (ajoinEff a s)

/-- The first flit of a pushed anchor: offsets 0x00 to 0x1F of its record (R283), not yet stamped. The spec gives the record as a keeper holds it and not
the push's payload (DESIGN CHOICE, log entry 20). -/
def State.anchorFlit (s : State) (tgt : CoreAddr) (ch : BitVec 8) : Strip :=
  let aid : BitVec 32 := fld s.act.csr.asid 0 32
  let keeper := yOf s.at_ / 4
  flit4 (zext aid <<< 32) (zext tgt)
    ((zext ch <<< 56) ||| (zext s.act.trig.cid <<< 32) ||| (BitVec.ofNat 64 keeper <<< 11) ||| (BitVec.ofNat 64 (dieOf s.at_) <<< 8))
    ((zext s.at_ <<< 32) ||| zext (fld s.act.aseq 0 32))

/-- `apitch` (R291): an anchor is staged in the outbox for the local keeper. -/
def apitchEff (a v : BitVec 5) (c : BitVec 8) (s : State) : Effect :=
  let t := s.g a
  if !s.joined then .trap (.plain cAscent 0)
  else if s.staged = 4 then .trap (.plain cAscent 4)
  else if !zeroBits t 29 35 || !isCompute (fld t 0 29) || pkgOf (fld t 0 29) != pkgOf s.at_ then .trap (.plain cPlacement t)
  else
    match s.send (.uni (s.standIn (localKeeper s.at_)) kSystem 12 0 [s.anchorFlit (fld t 0 29) c, s.v v]) true 2 .plain with
    | .ok u => .ok (u.modCsr fun r => { r with asid := setFld r.asid 33 (BitVec.ofNat 3 (s.staged + 1)) })
    | e => e

/-- `apitch` (R291). -/
def execApitch (a v : BitVec 5) (c : BitVec 8) (s : State) : Host.Outcome State Fault Refusal := finish 4 s (apitchEff a v c s)

/-- The requests on an AID (R291). -/
def aidEff (op act : Nat) (a : BitVec 5) (c : BitVec 8) (s : State) : Effect :=
  let x := s.g a
  if !aidOk x then .trap (.plain cAscent x) else s.ascentReq (s.keeperOf (fld x 0 32)) op act c x 0

/-- `asummit` (R291). -/
def execAsummit (a : BitVec 5) (c : BitVec 8) (s : State) : Host.Outcome State Fault Refusal := finish 4 s (aidEff 3 0 a c s)

/-- `aretreat` (R291). -/
def execAretreat (a : BitVec 5) (c : BitVec 8) (s : State) : Host.Outcome State Fault Refusal := finish 4 s (aidEff 4 0 a c s)

/-- `aresume` (R291). -/
def execAresume (a : BitVec 5) (x : BitVec 2) (c : BitVec 8) (s : State) : Host.Outcome State Fault Refusal := finish 4 s (aidEff 5 x.toNat a c s)

/-- `astat` (R291). -/
def execAstat (a : BitVec 5) (c : BitVec 8) (s : State) : Host.Outcome State Fault Refusal := finish 4 s (aidEff 6 0 a c s)

end Sys2Proof.Machine
end

