-- ==== Sys2Proof/Machine/Attest.lean ====
section
/-! DEFINITION. Attestation and link keys (R330, R331, R334): the SPDM requests that the root of trust answers, and IDE key management. -/

namespace Sys2Proof.Machine

/-- Request codes of the SPDM messages (PRESUMED, log entry 44: SPDM 1.2). -/
inductive SpdmReq where
  | certificate
  | challenge
  | measurements
  | keyExchange
  | finish
  deriving DecidableEq, Repr

/-- A request's code. -/
def SpdmReq.code : SpdmReq → BitVec 8
  | .certificate => 0x82
  | .challenge => 0x83
  | .measurements => 0xE0
  | .keyExchange => 0xE4
  | .finish => 0xE5

/-- A signed response: the Ed25519 signature and the ML-DSA-65 signature over one transcript hash (R331). Their values are free. -/
def State.respond (s : State) (r : SpdmReq) : State :=
  let sign := fun (i : Nat) => Config.spdm r.code.toNat (2 * s.free + i)
  { s.modHome fun k => { k with spdm := k.spdm ++ [(r.code, sign 0, sign 1)] } with free := s.free + 1 }

/-- Ten seconds in cycles (R5, R334). -/
def tenSeconds : Nat := 10000000000

/-- Number of the host port among the ports of a package that hold IDE keys; the pool ports are 0 to 15. -/
def hostPort : Nat := 16

/-- The host port and the pool ports of a partition have IDE keys (R330, R334). -/
def Package.keyed (k : Package) (p : Partition) : Bool := k.ideKeys.contains hostPort && (List.range 16).all fun i => !bit p.pports i || k.ideKeys.contains i

/-- R334: dispatch of a stopped confidential partition resumes once the host has re-keyed IDE and the device has attested again, within 10 s of the reset. -/
def Package.resume (k : Package) (now : Word) : Package :=
  { k with parts := k.parts.map fun p =>
      (p.1, if k.attested && k.keyed p.2 then { p.2 with stoppedAt := p.2.stoppedAt.filter fun t => decide (tenSeconds ≤ (now - t).toNat) } else p.2) }

/-- The device has attested: it answered a request for its measurements, or a challenge (R331, R334). -/
def State.attest (s : State) : State := s.modHome fun k => { k with attested := true }.resume s.time

/-- GET_CERTIFICATE (R331): each certificate of the chain carries both signatures. -/
def execGetCertificate (s : State) : Host.Outcome State Fault Refusal := .next (s.respond .certificate)

/-- CHALLENGE (R331). -/
def execChallenge (s : State) : Host.Outcome State Fault Refusal := .next (s.respond .challenge).attest

/-- The partition table as bytes: number, masks, CONF and epoch of each entry (R327, R328). -/
def Package.partBytes (k : Package) : List Byte :=
  k.parts.flatMap fun p => leBytes 8 p.1 ++ leBytes 4 p.2.sectors.toNat ++ leBytes 6 p.2.fports.toNat ++ leBytes 2 p.2.pports.toNat ++ leBytes 1 (if p.2.conf then 1 else 0) ++
    leBytes 8 p.2.epoch.toNat

/-- The VF records as bytes (R332). -/
def Package.recordBytes (k : Package) : List Byte := (k.funcs.filter fun f => f.2.valid).flatMap fun f => leBytes 8 f.1 ++ f.2.rec16.toList.flatMap fun w => leBytes 8 w.toNat

/-- The quarantine map as bytes: the spare columns in use, the absent cores and the engine map (R258 to R260). -/
def Package.mapBytes (k : Package) : List Byte :=
  (k.rowsUsed.flatMap fun r => leBytes 4 r.1 ++ leBytes 4 r.2) ++ (k.absent.flatMap fun a => leBytes 4 a) ++ k.engMap.flatMap fun e => leBytes 4 e.1 ++ leBytes 4 e.2

/-- The measurements of a package (R331): the firmware, each engine image by its role (copy, translator, keeper, spill, launch, fabric port, supervisor, trace, host link, pool agent), the
Plodan image, the partition table, the VF records, and the quarantine map. The bytes that the digests are taken over are the model's (DESIGN CHOICE, log entry 44). -/
def Package.measure (k : Package) : List (BitVec 384) :=
  Config.digest k.firmware :: ((List.range 11).map Config.imageDigest) ++ [Config.digest k.partBytes, Config.digest k.recordBytes, Config.digest k.mapBytes]

/-- The digest of a package's SPDM report (R274). -/
def Package.reportDigest (k : Package) : BitVec 384 := Config.digest (k.measure.flatMap fun d => leBytes 48 d.toNat)

/-- GET_MEASUREMENTS (R331): the report holds the measurements as they are now. -/
def execGetMeasurements (s : State) : Host.Outcome State Fault Refusal :=
  .next ((s.respond .measurements).modHome fun k => { k with measures := k.measure }).attest

/-- KEY_EXCHANGE (R331): session `n` begins to open. -/
def execKeyExchange (s : State) : Host.Outcome State Fault Refusal :=
  .next ((s.respond .keyExchange).modHome fun k => { k with opening := insertNat k.opening s.ev.n, sessions := k.sessions.filter (· != s.ev.n) })

/-- Both roots of two packages have the keys of their session (R329). -/
def State.meetPeer (s : State) (p : Nat) : State :=
  let t := s.modHome fun k => { k with fabricKeys := insertNat k.fabricKeys p }
  t.setPkg p { t.pkg p with fabricKeys := insertNat (t.pkg p).fabricKeys (pkgOf s.at_) }

/-- FINISH (R329, R331): session `n`, if it is opening, is secured. One over the fabric (`flag`) is with the root of package `idx`, and gives the two packages the keys of their links. -/
def execFinish (s : State) : Host.Outcome State Fault Refusal :=
  .next (if s.home.opening.contains s.ev.n then
      let t := (s.respond .finish).modHome fun k => { k with opening := k.opening.filter (· != s.ev.n), sessions := insertNat k.sessions s.ev.n }
      if s.ev.flag && (look s.pkgs s.ev.idx).isSome && decide (s.ev.idx ≠ pkgOf s.at_) then t.meetPeer s.ev.idx else t
    else s)

/-- IDE_KEY_MANAGEMENT (R330, R334): over secured session `n` the key of port `idx` is programmed. -/
def execIdeKeyManagement (s : State) : Host.Outcome State Fault Refusal :=
  .next (if s.home.sessions.contains s.ev.n && decide (s.ev.idx ≤ hostPort) then s.modHome fun k => { k with ideKeys := insertNat k.ideKeys s.ev.idx }.resume s.time
    else s)

end Sys2Proof.Machine
end

