-- ==== Sys2Proof/Machine/Branch.lean ====
section
/-! DEFINITION. Branches, jumps and hardware loops (R50, R90 to R95) and their 16-bit forms (R99). -/

namespace Sys2Proof.Machine

/-- The target of a branch or jump: pc + 2·sext(off), formed without the extent's bounds (R50: the fetch there is what fails). -/
def State.target {w : Nat} (s : State) (off : BitVec w) : Word := s.pc + 2 * sext off

/-- A conditional branch of `len` bytes: taken it transfers to its target, untaken it goes on in sequence (R90). -/
def branchEff {w : Nat} (c : Bool) (off : BitVec w) (s : State) : Effect := if c then .jump s (s.target off) else .ok s

/-- `beq` (R90). -/
def execBeq (a b : BitVec 5) (o : BitVec 12) (s : State) : Host.Outcome State Fault Refusal := finish 4 s (branchEff (s.g a == s.g b) o s)

/-- `bne` (R90). -/
def execBne (a b : BitVec 5) (o : BitVec 12) (s : State) : Host.Outcome State Fault Refusal := finish 4 s (branchEff (s.g a != s.g b) o s)

/-- `blt` (R90). -/
def execBlt (a b : BitVec 5) (o : BitVec 12) (s : State) : Host.Outcome State Fault Refusal := finish 4 s (branchEff ((s.g a).slt (s.g b)) o s)

/-- `bge` (R90). -/
def execBge (a b : BitVec 5) (o : BitVec 12) (s : State) : Host.Outcome State Fault Refusal := finish 4 s (branchEff (!(s.g a).slt (s.g b)) o s)

/-- `bltu` (R90). -/
def execBltu (a b : BitVec 5) (o : BitVec 12) (s : State) : Host.Outcome State Fault Refusal := finish 4 s (branchEff ((s.g a).ult (s.g b)) o s)

/-- `bgeu` (R90). -/
def execBgeu (a b : BitVec 5) (o : BitVec 12) (s : State) : Host.Outcome State Fault Refusal := finish 4 s (branchEff (!(s.g a).ult (s.g b)) o s)

/-- `j` (R91). -/
def execJ (o : BitVec 24) (s : State) : Host.Outcome State Fault Refusal := finish 4 s (.jump s (s.target o))

/-- `jal` (R91): g31 takes the address of the next instruction. -/
def execJal (o : BitVec 24) (s : State) : Host.Outcome State Fault Refusal := finish 4 s (.jump (s.setG 31 (s.pc + 4)) (s.target o))

/-- The register jump of R92: ALIGN for an odd target, then the link if asked. -/
def jumpReg (link : Bool) (a : BitVec 5) (i : BitVec 15) (s : State) : Effect :=
  let t := s.g a + sext i
  if bit t 0 then .trap (.plain cAlign t) else .jump (if link then s.setG 31 (s.pc + 4) else s) t

/-- `jr` (R92). -/
def execJr (a : BitVec 5) (i : BitVec 15) (s : State) : Host.Outcome State Fault Refusal := finish 4 s (jumpReg false a i s)

/-- `jalr` (R92). -/
def execJalr (a : BitVec 5) (i : BitVec 15) (s : State) : Host.Outcome State Fault Refusal := finish 4 s (jumpReg true a i s)

/-- A loop instruction with count `n` and body length `l` halfwords (R94): a zero count skips the body and leaves the loop
state. Within an active loop the skip is then a taken jump as R95 has it, and one to or past `lpend` leaves that loop (DESIGN CHOICE, log entry 75). -/
def loopEff (n : Word) (l : BitVec 12) (s : State) : Effect :=
  let b := s.pc + 4
  let e := b + 2 * zext l
  if n = 0 then .jump s e else .jump (s.modCsr fun c => { c with lpcnt := n, lpbeg := b, lpend := e }) b

/-- `loop` (R94). -/
def execLoop (a : BitVec 5) (l : BitVec 12) (s : State) : Host.Outcome State Fault Refusal := finish 4 s (loopEff (s.g a) l s)

/-- `loopi` (R94). -/
def execLoopi (c l : BitVec 12) (s : State) : Host.Outcome State Fault Refusal := finish 4 s (loopEff (zext c) l s)

/-- `c.beqz` (R99). -/
def execCBeqz (a : BitVec 5) (o : BitVec 6) (s : State) : Host.Outcome State Fault Refusal := finish 2 s (branchEff (s.g a == 0) o s)

/-- `c.bnez` (R99). -/
def execCBnez (a : BitVec 5) (o : BitVec 6) (s : State) : Host.Outcome State Fault Refusal := finish 2 s (branchEff (s.g a != 0) o s)

/-- `c.j` (R99). -/
def execCJ (o : BitVec 11) (s : State) : Host.Outcome State Fault Refusal := finish 2 s (.jump s (s.target o))

end Sys2Proof.Machine
end

