-- ==== Sys2Proof/Machine/CopyEngine.lean ====
section
/-! DEFINITION. Copy engines (R224, R231, R232, R235). -/

namespace Sys2Proof.Machine

/-- The command that a kick carries (R229, R230), under the engine's next number. -/
def copyOfKick (id : Nat) (m : Msg) : CopyCmd :=
  let k := m.flit 1
  { id := id, blk := m.flit 0, xid := fld k 0 32, cid := m.cid, kslot := fld k 32 4, gsa := fld k 40 8, gsb := fld k 48 8, issuer := m.src, started := false, parts := [],
    halted := false, fail := none }

/-- COPY_KICK (R224): a copy engine accepts the kick of core `src`, which settles it. -/
def execCopyKick (s : State) : Host.Outcome State Fault Refusal :=
  .next (s.takes .copyKick (fun _ => true) fun m t => t.routeThen m fun u =>
    (u.settle m).modEng fun e => { e with copies := e.copies ++ [copyOfKick e.copyNo m], copyNo := e.copyNo + 1 })

/-! The sides of a command. -/

/-- Space of the source. -/
def CopyCmd.srcSpace (c : CopyCmd) : BitVec 8 := if blkSsb c.blk then c.gsb else c.gsa
/-- Space of the destination. -/
def CopyCmd.dstSpace (c : CopyCmd) : BitVec 8 := if blkDsb c.blk then c.gsb else c.gsa
/-- Tenant of the kick. -/
def CopyCmd.ten (c : CopyCmd) : BitVec 12 := fld c.cid 4 12

/-- The first address of a range that lies in no region of a kind, gone through region by region. -/
def Package.outside (k : Package) (p : RptEntry → Bool) (space : BitVec 8) : Nat → Nat → Nat → Option Word
  | 0, a, stop => if stop ≤ a then none else some (BitVec.ofNat 64 a)
  | fuel + 1, a, stop =>
    if stop ≤ a then none
    else match k.regionAt space (BitVec.ofNat 64 a) with
      | some e => if p e then k.outside p space fuel (e.base.toNat + e.len.toNat) stop else some (BitVec.ofNat 64 a)
      | none => some (BitVec.ofNat 64 a)

/-- The first address of a range that lies in no region the tenant owns (R231 step 1); tenant 0 passes for any region (R320). -/
def Package.unowned (k : Package) (ten : BitVec 12) : BitVec 8 → Nat → Nat → Nat → Option Word := k.outside fun e => e.owner == ten || ten == 0

/-- R231 step 1: the failing side's cause, unit and first failing address. Where both sides fail, the source is reported (DESIGN CHOICE, log entry 66: the rule names no side first). -/
def Package.copyCheck (k : Package) (c : CopyCmd) : Option (BitVec 8 × BitVec 4 × Word) :=
  let n := k.rpt.length
  match k.unowned c.ten c.srcSpace n (blkSrc c.blk).toNat ((blkSrc c.blk).toNat + blkLen c.blk) with
  | some a => some (cPlacement, 1, a)
  | none => match k.unowned c.ten c.dstSpace n (blkDst c.blk).toNat ((blkDst c.blk).toNat + blkLen c.blk) with
    | some a => some (cPlacement, 2, a)
    | none => none

/-- Bytes from an offset to the end of its region or its stripe. -/
def Package.runLength (k : Package) (space : BitVec 8) (a : Nat) : Nat :=
  match k.regionAt space (BitVec.ofNat 64 a) with
  | none => 256
  | some e =>
    let r := a - e.base.toNat
    if e.kind = 1 then min (e.len.toNat - r) (4096 - r % 4096) else e.len.toNat - r

/-- R231 step 2: [off, stop) of a command cut at every 4 KiB boundary of the source, at every region and stripe boundary of either side, and into parts of at
most 256 B. -/
def Package.cut (k : Package) (c : CopyCmd) : Nat → Nat → Nat → List (Nat × Nat)
  | 0, _, _ => []
  | fuel + 1, off, stop =>
    if stop ≤ off then []
    else
      let src := (blkSrc c.blk).toNat + off
      let n := min (min (min (stop - off) 256) (4096 - src % 4096))
        (min (k.runLength c.srcSpace src) (k.runLength c.dstSpace ((blkDst c.blk).toNat + off)))
      if n = 0 then [] else (off, n) :: k.cut c fuel (off + n) stop

/-- Parts of a range in one state. -/
def Package.partsOf (k : Package) (c : CopyCmd) (off stop : Nat) (st : PartSt) : List CopyPart :=
  (k.cut c (stop - off) off stop).map fun p => { off := p.1, len := p.2, st := st, data := [] }

/-- The parts of a command. Of a BZ8 record the granule with the scale is read first, and the elements only when its scale asks for them (R231 step 3). -/
def Package.copyParts (k : Package) (c : CopyCmd) : List CopyPart :=
  if blkBf c.blk = 3 then
    (List.range (blkLen c.blk / 48)).flatMap fun r => k.partsOf c (48 * r) (48 * r + 32) .held ++ k.partsOf c (48 * r + 32) (48 * r + 48) .toRead
  else k.partsOf c 0 (blkLen c.blk) .toRead

/-! Reading and writing parts. -/

/-- What a get of an engine names as the place of its bytes, which its landing brings back (R206): the command's number and the part's offset. -/
def landingPlace (id off : Nat) : Nat := id * 2 ^ 32 + off

/-- A request of the engine for a part, under the kick's containment ID. -/
def CopyCmd.request (c : CopyCmd) (op : BitVec 8) (space : BitVec 8) (off : Word) (p : CopyPart) (data : List Byte) (who : Waiter) : OutItem :=
  let r : GReq :=
    { op := op, sz := 0, ch := 0, space := space, off := off, len := p.len, v1 := 0, v2 := 0, relay := 0, near := landingPlace c.id p.off, kslot := c.kslot, data := data }
  { OutItem.own (.glob r) c.cid with who := who }

/-- Bytes [a, a + n) of a command's source as its parts have read them; none while some are missing. -/
def gather (ps : List CopyPart) (a n : Nat) : Option (List Byte) :=
  (List.range n).mapM fun i => ps.findSome? fun p => if p.off ≤ a + i ∧ a + i < p.off + p.len then p.data[a + i - p.off]? else none

/-- Offset of the scale byte by block format (R72). -/
def bfScale (bf : Nat) : Nat := if bf = 2 then 0x10 else 0x20

/-- A record's padding is not zero (R73). -/
def recPoisoned (bf : Nat) (r : List Byte) : Bool := (r.drop (bfScale bf + 1)).any (· != 0)

/-- The poisoned record of R73, written whole (R231): its bytes between the scale byte and the last are zero, and so are its elements (DESIGN CHOICE, log entry 65: R73 has the engine set no
other byte, R231 write the whole record). -/
def poisonRec (bf : Nat) : List Byte :=
  let n := bfSize bf
  (List.range n).map fun i => if i = bfScale bf then (0xFF : Byte) else if i + 1 = n then 0x80 else 0

/-- A record as it is written (R231 step 3). -/
def recWritten (bf : Nat) (r : List Byte) : List Byte :=
  if recPoisoned bf r then poisonRec bf
  else if bf = 3 ∧ r.getD 0x20 0 = 0x80 then List.replicate 32 (0 : Byte) ++ r.drop 32
  else r

/-- The bytes that a part writes: its own with raw bytes; with records, once every record it touches is read whole. -/
def CopyCmd.written (c : CopyCmd) (p : CopyPart) : Option (List Byte) :=
  let bf := blkBf c.blk
  if bf = 0 then (if p.data.length = p.len then some p.data else none)
  else
    let n := bfSize bf
    let r0 := p.off / n
    let r1 := (p.off + p.len + n - 1) / n
    match gather c.parts (n * r0) (n * (r1 - r0)) with
    | none => none
    | some bs =>
      let out := (List.range (r1 - r0)).flatMap fun i => recWritten bf ((bs.drop (n * i)).take n)
      some ((out.drop (p.off - n * r0)).take p.len)

/-- The element parts of BZ8 records whose scale byte is known: zero without a read when it is 0x80, to be read otherwise (R231 step 3). -/
def CopyCmd.releaseHeld (c : CopyCmd) : CopyCmd :=
  { c with parts := c.parts.map fun p =>
      if p.st = .held then
        match gather c.parts (48 * (p.off / 48) + 32) 1 with
        | some [b] => if b = 0x80 then { p with st := .toWrite, data := List.replicate p.len 0 } else { p with st := .toRead }
        | _ => p
      else p }

/-- What the engine can issue for one part: a get for a part to read, a put for one whose bytes are complete. -/
def CopyCmd.issueOf (c : CopyCmd) (p : CopyPart) : Option (OutItem × PartSt) :=
  match p.st with
  | .toRead => some (c.request 5 c.srcSpace (blkSrc c.blk + BitVec.ofNat 64 p.off) p [] (.copyRead c.id p.off), .reading)
  | .toWrite => (c.written p).map fun bs => (c.request 3 c.dstSpace (blkDst c.blk + BitVec.ofNat 64 p.off) p bs (.copyWrite c.id p.off), .writing)
  | _ => none

/-- The running command issues what it can (R231), unless a part has failed: then a part that has been read is not written any more (DESIGN CHOICE, log entry 51). -/
def State.copyAdvance (s : State) : State :=
  match s.here.eng.copies with
  | c :: rest =>
    if c.started && !c.halted then
      let c := c.releaseHeld
      let out := c.parts.filterMap fun p => (c.issueOf p).map (·.1)
      let c' := { c with parts := c.parts.map fun p => match c.issueOf p with
        | some (_, st) => { p with st := st }
        | none => p }
      ((s.modEng fun e => { e with copies := c' :: rest }).modNet fun n => { n with egress := n.egress ++ out }).flush
    else s
  | [] => s

/-- COPY_COMMAND_START (R231): the oldest accepted command starts once the command before it has completed: its check, its parts, and its reads. -/
def execCopyCommandStart (s : State) : Host.Outcome State Fault Refusal :=
  .next (match s.here.eng.copies with
  | [] => s
  | c :: rest =>
    if c.started then s
    else match s.home.copyCheck c with
      | some f => s.modEng fun e => { e with copies := { c with started := true, halted := true, fail := some f } :: rest }
      | none => (s.modEng fun e => { e with copies := { c with started := true, parts := s.home.copyParts c } :: rest }).copyAdvance)

/-- The part of a command that awaits the bytes at an offset of the source takes them; with its last it can be written. The landings of one part come in pair order. -/
def CopyPart.landed (o : Nat) (bs : List Byte) (p : CopyPart) : CopyPart :=
  if p.st = .reading ∧ p.off + p.data.length = o then
    { p with data := p.data ++ bs, st := if p.len ≤ p.data.length + bs.length then .toWrite else .reading }
  else p

/-- Bytes that a landing brings to the command it names; one of a command that has ended changes nothing. -/
def State.landCopy (s : State) (place : Nat) (bs : List Byte) : State :=
  s.modWork (place / 2 ^ 32) fun c => { c with parts := c.parts.map (CopyPart.landed (place % 2 ^ 32) bs) }

/-- GET_LANDING (R206): at a copy engine the bytes are a part's read (R231), after which the engine issues what it can, and at a collective engine a member's (R275); elsewhere the
remote-op thread writes them. A pool agent refuses a landing (R205). -/
def execGetLanding (s : State) : Host.Outcome State Fault Refusal :=
  s.request .getLanding fun m t =>
    if isPoolAgent t.at_ then t.nack m cPlacement (zext m.dst)
    else if isCopyEngine t.at_ then
      ((t.landCopy (m.dw 2).toNat m.data).settle m).copyAdvance
    else if isLaunchEngine t.at_ then (t.landCopy (m.dw 2).toNat m.data).settle m
    else (t.landGet m).settle m

/-! Completion (R232). -/

/-- A part in flight. -/
def CopyPart.inFlight (p : CopyPart) : Bool := p.st == .reading || p.st == .writing

/-- Every request of the command is settled and none will follow. -/
def CopyCmd.finished (c : CopyCmd) : Bool :=
  c.started && c.parts.all fun p => !p.inFlight && (c.halted || p.st == .done)

/-- A failure by its source offset: cause, side and address. -/
abbrev CopyFail := Nat × (BitVec 8 × BitVec 4 × Word)

/-- The failed parts by source offset. -/
def CopyCmd.refusals (c : CopyCmd) : List CopyFail :=
  c.parts.filterMap fun p => match p.st with
    | .failed cause unit a => some (p.off, (cause, unit, a))
    | _ => none

/-- The poisoned records by source offset (R73). -/
def CopyCmd.poisons (c : CopyCmd) : List CopyFail :=
  let bf := blkBf c.blk
  let n := bfSize bf
  if bf = 0 then []
  else ((List.range (blkLen c.blk / n)).filter fun r => ((gather c.parts (n * r) n).map (recPoisoned bf)).getD false).map
    fun r => (n * r, (cPoison, (1 : BitVec 4), blkSrc c.blk + BitVec.ofNat 64 (n * r)))

/-- The failure of lowest source offset, the first of those that share it. -/
def lowestFail : List CopyFail → Option CopyFail
  | [] => none
  | f :: rest => match lowestFail rest with
    | none => some f
    | some g => if g.1 < f.1 then some g else some f

/-- Cause, side and address of the command's failure: of step 1, or of the refused part or poisoned record of lowest source offset (R231). -/
def CopyCmd.failure (c : CopyCmd) : Option (BitVec 8 × BitVec 4 × Word) :=
  match c.fail with
  | some f => some f
  | none => (lowestFail (c.refusals ++ c.poisons)).map (·.2)

/-- Bytes written to the destination. -/
def CopyCmd.bytesWritten (c : CopyCmd) : Nat := ((c.parts.filter fun p => p.st == .done).map (·.len)).sum

/-- The completion's payload (R232). -/
def CopyCmd.report (c : CopyCmd) : Strip :=
  let f := c.failure
  let status : Word := match f with
    | none => 0
    | some (cause, unit, _) =>
      (zext cause <<< 56) ||| (zext unit <<< 52) ||| ((if unit = 3 then (0 : Word) else zext (if unit = 2 then c.dstSpace else c.srcSpace)) <<< 40)
  flit4 status (BitVec.ofNat 64 c.bytesWritten) ((f.map (·.2.2)).getD 0) (zext c.xid)

/-- The mailbox write of a completion (R224, R232): a put marked L of the 16 bytes at MBOX of the issuing core, under the tenant's windows there. -/
def State.mailbox (s : State) (c : CopyCmd) : State :=
  if blkMbe c.blk then
    let r := c.report
    s.leaveOwn { OutItem.own (.uni c.issuer kSystem 8 (blkMbox c.blk) [descFlit 3 0 0 16 0 0 0, r &&& (BitVec.allOnes 128).setWidth 256]) c.cid with l := true }
  else s

/-- A command's end (R232): the mailbox, then the completion call on CH. -/
def State.copyDone (s : State) (c : CopyCmd) : State :=
  let t := s.mailbox c
  if blkCh c.blk = 0 then t else t.leaveOwn { OutItem.own (.uni c.issuer kCall (blkCh c.blk) 0 [c.report]) c.cid with comp := true }

/-- COPY_COMPLETION (R232): the running command has settled whole. -/
def execCopyCompletion (s : State) : Host.Outcome State Fault Refusal :=
  .next (match s.here.eng.copies with
  | c :: rest => if c.finished then (s.modEng fun e => { e with copies := rest }).copyDone c else s
  | [] => s)

end Sys2Proof.Machine
end

