-- ==== Sys2Proof/Machine/Fabric.lean ====
section
/-! DEFINITION. The fabric between packages (R262, R265 to R272, R324, R327, R329): routes, detours, ports and link retry, and the modules between dies (R264). -/

namespace Sys2Proof.Machine

/-! Coordinates and directions (R262, R265). -/

/-- W coordinate of a package. -/
def pkgW (p : Nat) : Nat := p % 4
/-- X coordinate of a package. -/
def pkgX (p : Nat) : Nat := p / 4 % 4
/-- Y coordinate of a package. -/
def pkgY (p : Nat) : Nat := p / 16 % 32
/-- Z coordinate of a package. -/
def pkgZ (p : Nat) : Nat := p / 512

/-- Direction of a mesh or torus step: 2·dimension, and 1 more for the negative way (W, X, Y, Z are dimensions 0 to 3). -/
def dirOf (dim : Nat) (neg : Bool) : Nat := 2 * dim + if neg then 1 else 0

/-- The shorter way around a torus, positive on a tie (R268). -/
def torusNeg (size a b : Nat) : Bool := decide (size < 2 * ((b + size - a) % size))

/-- The direction that a route needs next: Y, then Z, then W, then X (R268). -/
def nextDir (sy sz p d : Nat) : Option Nat :=
  if pkgY p ≠ pkgY d then some (dirOf 2 (torusNeg sy (pkgY p) (pkgY d)))
  else if pkgZ p ≠ pkgZ d then some (dirOf 3 (torusNeg sz (pkgZ p) (pkgZ d)))
  else if pkgW p ≠ pkgW d then some (dirOf 0 (decide (pkgW d < pkgW p)))
  else if pkgX p ≠ pkgX d then some (dirOf 1 (decide (pkgX d < pkgX p)))
  else none

/-- The package at the other end of a direction's links; none beyond the edge of a mesh (R265). -/
def stepDir (sy sz p k : Nat) : Option Nat :=
  match k with
  | 0 => if pkgW p < 3 then some (p + 1) else none
  | 1 => if 0 < pkgW p then some (p - 1) else none
  | 2 => if pkgX p < 3 then some (p + 4) else none
  | 3 => if 0 < pkgX p then some (p - 4) else none
  | 4 => some (p - 16 * pkgY p + 16 * ((pkgY p + 1) % sy))
  | 5 => some (p - 16 * pkgY p + 16 * ((pkgY p + sy - 1) % sy))
  | 6 => some (p % 512 + 512 * ((pkgZ p + 1) % sz))
  | _ => some (p % 512 + 512 * ((pkgZ p + sz - 1) % sz))

/-- A hop in a direction crosses the dateline of its torus dimension (R267). -/
def dateline (sy sz p k : Nat) : Bool :=
  match k with
  | 4 => pkgY p + 1 == sy
  | 5 => pkgY p == 0
  | 6 => pkgZ p + 1 == sz
  | 7 => pkgZ p == 0
  | _ => false

/-- The direction of a detour (R269): in W, or in X when W is needed; up, or down at the top. -/
def detourDir (p k : Nat) : Nat :=
  if k < 2 then dirOf 1 (decide (pkgX p = 3)) else dirOf 0 (decide (pkgW p = 3))

/-! Ports. -/

/-- Partition of a fabric port (R327). -/
def Package.portPart (k : Package) (port : Nat) : Nat :=
  match k.parts.find? fun p => p.1 != 0 && bit p.2.fports port with
  | some p => p.1
  | none => 0

/-- The engine that drives a port (R222, R265). -/
def portEngine (pkg port : Nat) : CoreAddr := mkAddr pkg (port / 6) (62 + port % 6 / 3) (36 + port % 3)

/-- The ports of a direction by which a message of `src` at die `die` may leave: live ones of a die that it can reach (R263, R268), and in its source's package those of its source's
partition (R327). -/
def Package.livePorts (k : Package) (pkg die dir : Nat) (src : CoreAddr) : List Nat :=
  if (k.dieWay die dir).isNone then []
  else ((List.range 6).map (6 * dir + ·)).filter fun p => (match k.ports.toList[p]? with
    | some x => !x.withdrawn
    | none => false) && (pkgOf src != pkg || k.portPart p == k.partOf src)

/-- One port of a package, changed. -/
def State.modPort (s : State) (pkg port : Nat) (f : Port → Port) : State :=
  let k := s.pkg pkg
  match k.ports.toList[port]? with
  | some x => s.setPkg pkg { k with ports := k.ports.setIfInBounds port (f x) }
  | none => s

/-- Link flits of a message (R266), with its 16-B tag where it is encrypted (R329). -/
def State.linkFlits (s : State) (m : Msg) : Nat := ((if s.sealedMsg m then 32 else 16) + 32 * m.pay.length + 55) / 56

/-- A port's counter of a partition's encrypted messages goes on (R329). -/
def Port.countUp (p : Port) (part : Nat) : Port := { p with counts := put p.counts part ((look p.counts part).getD 0 + 1) }

/-- A message takes a port (R266): its flits get sequence numbers and stay in the retry buffer, the port's outgoing digest takes it (R347), and an encrypted one its partition's
counter there (R329). -/
def State.takePort (s : State) (pkg port : Nat) (m : Msg) : State :=
  s.modPort pkg port fun p =>
    let q := { p with lseq := p.lseq + BitVec.ofNat 16 (s.linkFlits m), digestOut := nextDigest p.digestOut m }
    if s.sealedMsg m then q.countUp (s.msgPart m) else q

/-- Classes of messages (R267). -/
inductive MsgClass where
  | request
  | reply
  | system
  | debug
  deriving DecidableEq, Repr

/-- Class of a message (R267). -/
def Msg.cls (m : Msg) : MsgClass :=
  if m.kind = kReply then .reply
  else if m.kind ≠ kSystem ∨ m.ch = 9 then .request
  else if m.ch = 3 ∨ m.ch = 4 then .debug
  else if m.ch = 8 then (if m.byte 0 = 6 then .reply else .request)
  else .system

/-- The port at the other end of a port's link, in the next package. -/
def peerPort (port : Nat) : Nat := 6 * (if port / 6 % 2 = 0 then port / 6 + 1 else port / 6 - 1) + port % 6

/-- Flits of receive buffer that a port's messages of one class and sub-channel take at the other end: of those on the link, and of those that have not left that package. -/
def State.heldFlits (s : State) (pkg port q : Nat) (c : MsgClass) (upper : Bool) : Nat :=
  ((s.transit.filter fun x => x.msg.cls == c &&
    ((x.pkg == pkg && x.port == some port && x.upper == upper) || (x.pkg == q && x.inPort == some (peerPort port, upper)))).map fun x => s.linkFlits x.msg).sum

/-- Free credits of a port in a class and sub-channel (R268). -/
def State.credits (s : State) (pkg port q : Nat) (c : MsgClass) (upper : Bool) : Nat := 6 + Config.portBuffer - s.heldFlits pkg port q c upper

/-- The list with one element replaced by some. -/
def replaceAt {α : Type} (l : List α) (i : Nat) (xs : List α) : List α := l.take i ++ xs ++ l.drop (i + 1)

/-- A message that the fabric port engine `engine` drops with its NACK: cause PLACEMENT and value DST (R262, R269, R324). A NACK settles and makes none (R171). -/
def State.dropTransit (s : State) (i : Nat) (engine : CoreAddr) (m : Msg) : State :=
  let t := { s with transit := replaceAt s.transit i [] }
  if m.isNack then t.settle m else t.at engine fun u => u.nack m cPlacement (zext m.dst)

/-- The port of a message among some (R268): that with the most free credits in its class and sub-channel, the lowest on a tie; none if the message fits the credits of none. -/
def State.choosePort (s : State) (pkg q : Nat) (m : Msg) (upper : Bool) (ports : List Nat) : Option Nat :=
  let c := fun p => s.credits pkg p q m.cls upper
  (ports.filter fun p => decide (s.linkFlits m ≤ c p)).foldl (fun b p => match b with
    | none => some p
    | some x => if c x < c p then some p else some x) none

/-- The die of a package where a message in transit stands: its source's, or that of the port it came in by. -/
def Transit.die (x : Transit) : Nat := match x.inPort with
  | some p => p.1 / 6
  | none => dieOf x.msg.src

/-- A hop is open to a message: the next package is there and in service, and some port of the direction is live for it (R269). -/
def State.hopOpen (s : State) (pkg die : Nat) (src : CoreAddr) (dir : Nat) : Bool :=
  (stepDir s.sy s.sz pkg dir).any s.inService && !((s.pkg pkg).livePorts pkg die dir src).isEmpty

/-- The direction that a message leaves by, and its detours then (R268, R269): the needed one, or a detour's; a detour whose own hop is not open is detoured by the same rule
(DEDUCED, log entry 64). None once the detours would pass 2. -/
def State.wayOut (s : State) (pkg die : Nat) (src : CoreAddr) : Nat → Nat → Nat → Option (Nat × Nat)
  | 0, _, _ => none
  | fuel + 1, dir, det =>
    if s.hopOpen pkg die src dir then some (dir, det) else if 2 ≤ det then none else s.wayOut pkg die src fuel (detourDir pkg dir) (det + 1)

/-- A package number of the configured system's coordinates (R262, R265). -/
def State.named (s : State) (p : Nat) : Bool := decide (pkgY p < s.sy) && decide (pkgZ p < s.sz)

/-- A confidential message has no key for a hop: the SPDM session between the two packages' roots is not there yet (R329). -/
def State.keyless (s : State) (pkg q : Nat) (m : Msg) : Bool :=
  s.sealedMsg m && !((s.pkg pkg).fabricKeys.contains q && (s.pkg q).fabricKeys.contains pkg)

/-- A message at a package takes a port of its direction or of a detour (R268, R269), one whose port was withdrawn another of the same direction or a detour of that (R271). It waits
while none has credits for it, and a confidential one while the hop has no key (R329; DESIGN CHOICE, log entry 74). The engine at which a route ends without a hop is that of the needed
direction's first port (DEDUCED, log entry 64). -/
def State.route (s : State) (i : Nat) (x : Transit) : State :=
  let d := pkgOf x.msg.dst
  match nextDir s.sy s.sz x.pkg d with
  | none => s
  | some dir =>
    let ends := portEngine x.pkg (6 * dir)
    if !s.named d || (stepDir s.sy s.sz x.pkg dir == some d && (look s.pkgs d).isNone) then s.dropTransit i ends x.msg
    else match s.wayOut x.pkg x.die x.msg.src 3 (x.dir.getD dir) x.det with
      | none => s.dropTransit i ends x.msg
      | some (k, det) =>
        let upper := x.upper || decide (x.det < det)
        let q := (stepDir s.sy s.sz x.pkg k).getD 0
        if s.keyless x.pkg q x.msg then s
        else match s.choosePort x.pkg q x.msg upper ((s.pkg x.pkg).livePorts x.pkg x.die k x.msg.src) with
        | none => s
        | some p =>
          let t := (s.passDies x.pkg x.die (p / 6) x.msg).takePort x.pkg p x.msg
          { t with transit := replaceAt t.transit i [] ++ [{ x with det := det, upper := upper, port := some p }] }

/-- A message at its destination's package goes to its destination's ingress, once a way over the dies is left (R263, R264). -/
def State.landTransit (s : State) (i : Nat) (x : Transit) : State :=
  if ((s.pkg x.pkg).dieWay x.die (dieOf x.msg.dst)).isSome then
    let t := s.passDies x.pkg x.die (dieOf x.msg.dst) x.msg
    { t with transit := replaceAt t.transit i [], flight := t.flight ++ [x.msg] }
  else s

/-- A message reaches the package at the other end of its port. At its destination's package the ingress port's engine drops it if the port is of another
partition (R324), else it goes to its destination's ingress. -/
def State.cross (s : State) (i port : Nat) (x : Transit) : State :=
  let dir := port / 6
  match stepDir s.sy s.sz x.pkg dir with
  | none => s.dropTransit i (portEngine x.pkg port) x.msg
  | some q =>
    let t := s.modPort q (peerPort port) fun p => { p with digestIn := nextDigest p.digestIn x.msg }
    let y := { x with pkg := q, upper := x.upper || dateline s.sy s.sz x.pkg dir, port := none, inPort := some (peerPort port, x.upper), dir := none }
    let u := { t with transit := replaceAt t.transit i [y] }
    if q ≠ pkgOf x.msg.dst then u
    else if (t.pkg q).portPart (peerPort port) ≠ (t.pkg q).partOf x.msg.dst then u.dropTransit i (portEngine q (peerPort port)) x.msg
    else u.landTransit i y

/-- Message `i` in transit is the next that its port carries: messages keep their order on a port (R266). -/
def State.portNext (s : State) (i port : Nat) (x : Transit) : Bool := !((s.transit.take i).any fun y => y.pkg == x.pkg && y.port == some port)

/-- FABRIC_FORWARD (R263, R268, R269, R324): message `idx` in transit at this package takes a port, or goes to its destination's die; the oldest that holds a port reaches the next
package. -/
def execFabricForward (s : State) : Host.Outcome State Fault Refusal :=
  .next (match s.transit[s.ev.idx]? with
  | none => s
  | some x =>
    if x.pkg ≠ pkgOf s.at_ then s
    else match x.port with
      | none => if x.pkg = pkgOf x.msg.dst then s.landTransit s.ev.idx x else s.route s.ev.idx x
      | some p => if s.portNext s.ev.idx p x then s.cross s.ev.idx p x else s)

/-- A package that the walk of a route from `src` reaches from another (R268, R269). -/
def State.walks (s : State) (src : CoreAddr) (d : Nat) : Nat → Nat → Nat → Nat → Bool
  | 0, _, _, _ => false
  | fuel + 1, pkg, die, det => match nextDir s.sy s.sz pkg d with
    | none => true
    | some dir => match s.wayOut pkg die src 3 dir det with
      | none => false
      | some (k, n) => s.walks src d fuel ((stepDir s.sy s.sz pkg k).getD pkg) (peerPort (6 * k) / 6) n

/-- A route from a core reaches a package of the system: at most 3 + 3 hops in a chassis, 16 + 16 between, and 2 detours of a few hops each. -/
def State.reaches (s : State) (src : CoreAddr) (d : Nat) : Bool := s.named d && (look s.pkgs d).isSome && s.walks src d 64 (pkgOf src) (dieOf src) 0

/-- The times within a span of cycles before now. -/
def within (now : Word) (span : Nat) (l : List Word) : List Word := l.filter fun t => decide ((now - t).toNat < span)

/-- LINK_RETRY (R266, R329): a flit on port `idx` that FEC (or, with `flag`, its tag) cannot verify is dropped by the receiver and sent again from the retry
buffer. Nothing else changes: the message is performed once. -/
def execLinkRetry (s : State) : Host.Outcome State Fault Refusal :=
  .next (s.modPort (pkgOf s.at_) s.ev.idx fun p =>
    { p with
      retries := within s.time 1000000 p.retries ++ [s.time]
      tagFails := if s.ev.flag then within s.time 1000000 p.tagFails ++ [s.time] else p.tagFails })

/-- A port must leave routing (R271, R329): more than 16 retries, or 16 failed tags, within 1 ms. -/
def Port.failing (p : Port) (now : Word) : Bool :=
  decide (16 < (within now 1000000 p.retries).length) || decide (16 ≤ (within now 1000000 p.tagFails).length)

/-- PORT_WITHDRAW (R271): port `idx` fails by its retries or tags, or (with `flag`) it cannot train at 4 lanes or hold its reserves. It is withdrawn, what its
retry buffer holds is routed again, the failure is counted, and supervisor core 0 of its die gets a failure record. The spec gives the record no layout and no
channel (DESIGN CHOICE, log entry 39). -/
def execPortWithdraw (s : State) : Host.Outcome State Fault Refusal :=
  .next (
    let pkg := pkgOf s.at_
    match s.home.ports.toList[s.ev.idx]? with
    | none => s
    | some p =>
      if !p.withdrawn && (p.failing s.time || s.ev.flag) then
        let t := s.modPort pkg s.ev.idx fun p => { p with withdrawn := true, failures := p.failures + 1 }
        let back := fun (x : Transit) => if x.pkg = pkg ∧ x.port = some s.ev.idx then { x with port := none, dir := some (s.ev.idx / 6) } else x
        let t := { t with transit := t.transit.map back }
        t.at (portEngine pkg s.ev.idx) fun u =>
          u.sendOwn (u.standIn (supervisor0 pkg (s.ev.idx / 6))) kSystem 7 0 [flit4 (BitVec.ofNat 64 s.ev.idx) (BitVec.ofNat 64 (p.failures + 1)) s.time 0]
      else s)

/-- PORT_RETRAIN (R271): the supervisor of the port's die has retrained port `idx` at full width, and it returns to routing. -/
def execPortRetrain (s : State) : Host.Outcome State Fault Refusal :=
  .next (if isSupervisor s.at_ ∧ dieOf s.at_ = s.ev.idx / 6 then
      s.modPort (pkgOf s.at_) s.ev.idx fun p => if p.withdrawn then { p with withdrawn := false, retries := [], tagFails := [] } else p
    else s)

/-- MODULE_WITHDRAW (R264): a module of boundary `idx` whose lanes cannot be repaired leaves it; the boundary goes on with the others, and messages find another way
when none is left. -/
def execModuleWithdraw (s : State) : Host.Outcome State Fault Refusal :=
  .next (if s.ev.idx < 10 then s.modHome fun k => { k with modules := put k.modules s.ev.idx (min 12 (k.lostModules s.ev.idx + 1)) } else s)

end Sys2Proof.Machine
end

