-- ==== Sys2Proof/Machine/Elementary.lean ====
section
/-! DEFINITION. Enclosures of 2^a, log2 a, sin(π·a) and cos(π·a) (R113), by which the special functions keep their bound of 1 ulp: fixed-point series with 256 fraction bits, whose
error is far below `slack`. -/

namespace Sys2Proof.Machine

/-- One in fixed point: 256 fraction bits. -/
def fxOne : Nat := 2 ^ 256

/-- π in fixed point, rounded down. -/
def fxPi : Nat := 0x3243f6a8885a308d313198a2e03707344a4093822299f31d0082efa98ec4e6c89

/-- ln 2 in fixed point, rounded down. -/
def fxLn2 : Nat := 0xb17217f7d1cf79abc9e3b39803f2f6af40f343267298b62d8a0d175b8baafa2b

/-- What every series below stays within, in units of 2^-256. -/
def slack : Nat := 2 ^ 12

/-- Σ x^k / k! from term `k` on, by its next term. -/
def expSum (x : Nat) : Nat → Nat → Nat → Nat
  | 0, _, _ => 0
  | n + 1, k, term => term + expSum x n (k + 1) (term * x / fxOne / (k + 1))

/-- Σ z^(2k+1) / (2k+1) from the power of an odd exponent `k` on: artanh z. -/
def artanhSum (z2 : Nat) : Nat → Nat → Nat → Nat
  | 0, _, _ => 0
  | n + 1, k, pow => pow / k + artanhSum z2 n (k + 2) (pow * z2 / fxOne)

/-- sin u / u by u², as 1 − u²/(2·3) · (1 − u²/(4·5) · …). -/
def sincSum (u2 : Nat) : Nat → Nat → Nat
  | 0, _ => fxOne
  | n + 1, k => fxOne - u2 * sincSum u2 n (k + 1) / fxOne / (2 * k * (2 * k + 1))

/-- A fixed-point value as a dyadic. -/
def fxDy (n : Int) : Dy := { neg := decide (n < 0), m := n.natAbs, e := -256 }

/-- The smaller of two dyadics. -/
def Dy.min (x y : Dy) : Dy := if numLe (.fin x) (.fin y) then x else y

/-- The integer below a dyadic, and what is left of it in fixed point, rounded down. -/
def Dy.parts (d : Dy) : Int × Nat :=
  let n : Int := if 0 ≤ d.e then d.at 0 * 2 ^ 256 else d.at d.e * 2 ^ 256 / (2 ^ (-d.e).toNat : Nat)
  (n / 2 ^ 256, (n % 2 ^ 256).toNat)

/-- The enclosure of 2^d; below 2^-4096, where both sides of it round alike, the exponent stands still. -/
def exp2Range (d : Dy) : Dy × Dy :=
  let p := d.parts
  let s := expSum (p.2 * fxLn2 / fxOne) 64 0 fxOne
  let e := max p.1 (-4096) - 256
  ({ neg := false, m := s, e := e }, { neg := false, m := min (s + slack) (2 * fxOne), e := e })

/-- The enclosure of log2 d, for a positive d. -/
def log2Range (d : Dy) : Dy × Dy :=
  let l := bitLen d.m - 1
  let z := (d.m - 2 ^ l) * fxOne / (d.m + 2 ^ l)
  let q : Int := (2 * artanhSum (z * z / fxOne) 96 1 z * fxOne / fxLn2 : Nat)
  let n : Int := (d.e + l) * 2 ^ 256 + q
  (fxDy (n - slack), fxDy (n + slack))

/-- The enclosure of sin(π·y) for y from 0 to 1/2, its sign as `neg` says: the sine is at most 1. -/
def sinRange (neg : Bool) (y : Dy) : Dy × Dy :=
  let u := (y.parts.2 * fxPi / fxOne)
  let s := sincSum (u * u / fxOne) 40 1
  let lo : Dy := { neg := false, m := fxPi * (s - slack) * y.m, e := y.e - 512 }
  let hi := Dy.min { neg := false, m := (fxPi + 1) * (s + slack) * y.m, e := y.e - 512 } Dy.one
  if neg then ({ hi with neg := true }, { lo with neg := true }) else (lo, hi)

/-- sin(π·d) for any d, by the angle's remainder modulo 2: the enclosure. -/
def sinpiRange (d : Dy) : Dy × Dy :=
  -- the magnitude in units of 2^e, with e at most −1 so that a half is whole
  let e := min d.e (-1)
  let one := 2 ^ (-e).toNat
  let r := (d.m * 2 ^ (d.e - e).toNat) % (2 * one)
  let t := r % one
  let y := if 2 * t ≤ one then t else one - t
  sinRange (d.neg != decide (one ≤ r)) { neg := false, m := y, e := e }

/-- cos(π·d) = sin(π·(d + 1/2)): the enclosure. -/
def cospiRange (d : Dy) : Dy × Dy := sinpiRange (({ d with neg := false } : Dy).add 0 { neg := false, m := 1, e := -1 })

/-- A result within 1 ulp of a value that no pattern has (R113): the next one below it or the next one above it. -/
def withinUlp (f : Fmt) (up : Bool) (r : Dy × Dy) : Nat := if up then (f.round r.2 2).1 else (f.round r.1 3).1

end Sys2Proof.Machine
end

