-- ==== Sys2Proof/Machine/VectorFloat.lean ====
section
/-! DEFINITION. Floating vector instructions (R100 to R102, R106 to R108, R113, R114). -/

namespace Sys2Proof.Machine

/-- The rounding mode of the acting slot outside the conversions (R64). -/
def State.mode (s : State) : Nat := plainMode s.act.csr.frm

/-- Lane `i` of a register as a floating value. -/
def flane (t : TypeCode) (x : Strip) (i : Nat) : Num := (fmtOf t).decode (lane (laneWidth t) x i)

/-- A one-source floating instruction (R100, R106). -/
def fvec1 (d a : BitVec 3) (l : BitVec 1) (k : BitVec 2) (t : TypeCode) (f : Nat → Nat × BitVec 6) (s : State) : Host.Outcome State Fault Refusal :=
  finish 4 s (.ok (s.vec d (laneWidth t) (laneCount t) k [(a, l)] fun i => f (lane (laneWidth t) (s.o a) i)))

/-- A two-source floating instruction that rounds once (R106). -/
def fvec2 (d a : BitVec 3) (l : BitVec 1) (b : BitVec 3) (m : BitVec 1) (k : BitVec 2) (t : TypeCode) (f : Num → Num → Exact) (s : State) :
    Host.Outcome State Fault Refusal :=
  finish 4 s (.ok (s.vec d (laneWidth t) (laneCount t) k [(a, l), (b, m)] fun i =>
    (f (flane t (s.o a) i) (flane t (s.o b) i)).to (fmtOf t) s.mode))

/-- A three-source floating instruction that rounds once (R106). -/
def fvec3 (d a : BitVec 3) (l : BitVec 1) (b : BitVec 3) (m : BitVec 1) (c : BitVec 3) (n : BitVec 1) (k : BitVec 2) (t : TypeCode)
    (f : Num → Num → Num → Exact) (s : State) : Host.Outcome State Fault Refusal :=
  finish 4 s (.ok (s.vec d (laneWidth t) (laneCount t) k [(a, l), (b, m), (c, n)] fun i =>
    (f (flane t (s.o a) i) (flane t (s.o b) i) (flane t (s.o c) i)).to (fmtOf t) s.mode))

/-- A two-source floating instruction that picks one source's bits (R106). -/
def fpick2 (d a : BitVec 3) (l : BitVec 1) (b : BitVec 3) (m : BitVec 1) (k : BitVec 2) (t : TypeCode) (f : Nat → Nat → Nat × BitVec 6) (s : State) :
    Host.Outcome State Fault Refusal :=
  finish 4 s (.ok (s.vec d (laneWidth t) (laneCount t) k [(a, l), (b, m)] fun i =>
    f (lane (laneWidth t) (s.o a) i) (lane (laneWidth t) (s.o b) i)))

/-- A floating compare (R107): a NaN gives 0; NV for a signalling NaN, or for any NaN where `quiet` is false. -/
def fcmp (e : BitVec 2) (a : BitVec 3) (l : BitVec 1) (b : BitVec 3) (m : BitVec 1) (k : BitVec 2) (t : TypeCode) (quiet : Bool) (f : Num → Num → Bool)
    (s : State) : Host.Outcome State Fault Refusal :=
  finish 4 s (.ok (s.cmp e (laneCount t) k [(a, l), (b, m)] fun i =>
    let x := flane t (s.o a) i
    let y := flane t (s.o b) i
    (f x y, flagIf (x.isSig || y.isSig || (!quiet && (x.isNan || y.isNan))) fNV)))

/-- `vadd`, floating (R106). -/
def execVadd (d a : BitVec 3) (l : BitVec 1) (b : BitVec 3) (m : BitVec 1) (k : BitVec 2) (t : BitVec 4) (s : State) : Host.Outcome State Fault Refusal := fvec2 d a l b m k t (numAdd s.mode) s

/-- `vsub`, floating (R106). -/
def execVsub (d a : BitVec 3) (l : BitVec 1) (b : BitVec 3) (m : BitVec 1) (k : BitVec 2) (t : BitVec 4) (s : State) : Host.Outcome State Fault Refusal := fvec2 d a l b m k t (fun x y => numAdd s.mode x y.negate) s

/-- `vmul`, floating (R106). -/
def execVmul (d a : BitVec 3) (l : BitVec 1) (b : BitVec 3) (m : BitVec 1) (k : BitVec 2) (t : BitVec 4) (s : State) : Host.Outcome State Fault Refusal := fvec2 d a l b m k t numMul s

/-- `vdiv`, floating (R106). -/
def execVdiv (d a : BitVec 3) (l : BitVec 1) (b : BitVec 3) (m : BitVec 1) (k : BitVec 2) (t : BitVec 4) (s : State) : Host.Outcome State Fault Refusal := fvec2 d a l b m k t (numDiv (fmtOf t)) s

/-- `vsqrt` (R106). -/
def execVsqrt (d a : BitVec 3) (l : BitVec 1) (k : BitVec 2) (t : BitVec 4) (s : State) : Host.Outcome State Fault Refusal :=
  fvec1 d a l k t (fun x => (numSqrt (fmtOf t) ((fmtOf t).decode x)).to (fmtOf t) s.mode) s

/-- `vfma` (R106): one rounding. -/
def execVfma (d a : BitVec 3) (l : BitVec 1) (b : BitVec 3) (m : BitVec 1) (c : BitVec 3) (n : BitVec 1) (k : BitVec 2) (t : BitVec 4) (s : State) : Host.Outcome State Fault Refusal := fvec3 d a l b m c n k t (numFma s.mode) s

/-- `vfms` (R106): one rounding. -/
def execVfms (d a : BitVec 3) (l : BitVec 1) (b : BitVec 3) (m : BitVec 1) (c : BitVec 3) (n : BitVec 1) (k : BitVec 2) (t : BitVec 4) (s : State) : Host.Outcome State Fault Refusal := fvec3 d a l b m c n k t (fun x y z => numFma s.mode x y z.negate) s

/-- `vfnma` (R106): one rounding. -/
def execVfnma (d a : BitVec 3) (l : BitVec 1) (b : BitVec 3) (m : BitVec 1) (c : BitVec 3) (n : BitVec 1) (k : BitVec 2) (t : BitVec 4) (s : State) : Host.Outcome State Fault Refusal := fvec3 d a l b m c n k t (numFnma s.mode) s

/-- `vmin`, floating (R106). -/
def execVmin (d a : BitVec 3) (l : BitVec 1) (b : BitVec 3) (m : BitVec 1) (k : BitVec 2) (t : BitVec 4) (s : State) : Host.Outcome State Fault Refusal := fpick2 d a l b m k t (fminBits (fmtOf t)) s

/-- `vmax`, floating (R106). -/
def execVmax (d a : BitVec 3) (l : BitVec 1) (b : BitVec 3) (m : BitVec 1) (k : BitVec 2) (t : BitVec 4) (s : State) : Host.Outcome State Fault Refusal := fpick2 d a l b m k t (fmaxBits (fmtOf t)) s

/-- `vabs` (R106). -/
def execVabs (d a : BitVec 3) (l : BitVec 1) (k : BitVec 2) (t : BitVec 4) (s : State) : Host.Outcome State Fault Refusal :=
  fvec1 d a l k t (fun x => quietOr (fmtOf t) ((fmtOf t).decode x) (x % 2 ^ (laneWidth t - 1))) s

/-- `vneg` (R106). -/
def execVneg (d a : BitVec 3) (l : BitVec 1) (k : BitVec 2) (t : BitVec 4) (s : State) : Host.Outcome State Fault Refusal :=
  fvec1 d a l k t (fun x => quietOr (fmtOf t) ((fmtOf t).decode x) (x ^^^ 2 ^ (laneWidth t - 1))) s

/-- `vfeq` (R107). -/
def execVfeq (e : BitVec 2) (a : BitVec 3) (l : BitVec 1) (b : BitVec 3) (m : BitVec 1) (k : BitVec 2) (t : BitVec 4) (s : State) : Host.Outcome State Fault Refusal := fcmp e a l b m k t true numEq s

/-- `vflt` (R107). -/
def execVflt (e : BitVec 2) (a : BitVec 3) (l : BitVec 1) (b : BitVec 3) (m : BitVec 1) (k : BitVec 2) (t : BitVec 4) (s : State) : Host.Outcome State Fault Refusal := fcmp e a l b m k t false (fun x y => !y.isNan && numLt x y) s

/-- `vfle` (R107). -/
def execVfle (e : BitVec 2) (a : BitVec 3) (l : BitVec 1) (b : BitVec 3) (m : BitVec 1) (k : BitVec 2) (t : BitVec 4) (s : State) : Host.Outcome State Fault Refusal := fcmp e a l b m k t false numLe s

/-- `vfclass` (R107): one class bit, no flag. -/
def execVfclass (d a : BitVec 3) (l : BitVec 1) (k : BitVec 2) (t : BitVec 4) (s : State) : Host.Outcome State Fault Refusal :=
  fvec1 d a l k t (fun x => (2 ^ classBit (fmtOf t) x, 0)) s

/-- The least and greatest value of an integer lane type (R109). -/
def intRange (t : TypeCode) : Int × Int :=
  let w := laneWidth t
  if isSigned t then (-(2 ^ (w - 1) : Int), 2 ^ (w - 1) - 1) else (0, 2 ^ w - 1)

/-- Cvt of R108 from lane type `st` to lane type `dt`. -/
def cvt (dt st : TypeCode) (mode : Nat) (x : Nat) : Nat × BitVec 6 :=
  if isFloat st then
    if isFloat dt then ((fmtOf st).decode x).exact.to (fmtOf dt) mode
    else
      let r := numToInt (if mode = 5 then 1 else mode) ((fmtOf st).decode x) (intRange dt).1 (intRange dt).2
      (wrapLane (laneWidth dt) r.1, r.2)
  else
    let w := laneWidth st
    let n : Int := if isSigned st ∧ 2 ^ (w - 1) ≤ x then (x : Int) - 2 ^ w else x
    (fmtOf dt).round (dyOfInt n) mode

/-- A one-source conversion (R108): lane `i` comes from source lane `off + i`. RTO applies here (R64). -/
def cvtVec (d a : BitVec 3) (l : BitVec 1) (st : BitVec 4) (k : BitVec 2) (t : BitVec 4) (off : Nat) (s : State) : Host.Outcome State Fault Refusal :=
  finish 4 s (.ok (s.vec d (laneWidth t) (laneCount t) k [(a, l)] fun i =>
    cvt t st s.act.csr.frm.toNat (lane (laneWidth st) (s.o a) (off + i))))

/-- `vcvt` (R108). -/
def execVcvt (d a : BitVec 3) (l : BitVec 1) (st : BitVec 4) (k : BitVec 2) (t : BitVec 4) (s : State) : Host.Outcome State Fault Refusal := cvtVec d a l st k t 0 s

/-- `vcvtl` (R108). -/
def execVcvtl (d a : BitVec 3) (l : BitVec 1) (st : BitVec 4) (k : BitVec 2) (t : BitVec 4) (s : State) : Host.Outcome State Fault Refusal := cvtVec d a l st k t 0 s

/-- `vcvth` (R108). -/
def execVcvth (d a : BitVec 3) (l : BitVec 1) (st : BitVec 4) (k : BitVec 2) (t : BitVec 4) (s : State) : Host.Outcome State Fault Refusal := cvtVec d a l st k t (laneCount t) s

/-- `vcvtn` (R108): the low lanes from oa, the high ones from ob. -/
def execVcvtn (d a : BitVec 3) (l : BitVec 1) (b : BitVec 3) (m : BitVec 1) (st : BitVec 4) (k : BitVec 2) (t : BitVec 4) (s : State) :
    Host.Outcome State Fault Refusal :=
  finish 4 s (.ok (s.vec d (laneWidth t) (laneCount t) k [(a, l), (b, m)] fun i =>
    cvt t st s.act.csr.frm.toNat
      (if i < laneCount st then lane (laneWidth st) (s.o a) i else lane (laneWidth st) (s.o b) (i - laneCount st))))

/-- The integer that an exact value is, if it is one. -/
def Dy.toInteger (x : Dy) : Option Int :=
  let r := roundGrid 1 x.neg x.m x.e 0
  if r.2 then some (if x.neg then -(r.1 : Int) else r.1) else none

/-- The exponent n of a positive magnitude that is exactly 2^n. -/
def Dy.log2? (x : Dy) : Option Int := if x.m ≠ 0 ∧ x.m = 2 ^ Nat.log2 x.m then some (Nat.log2 x.m + x.e) else none

/-- A power of two in a format, if it is representable, subnormals included (R113). -/
def Fmt.pow2 (f : Fmt) (neg : Bool) (n : Int) : Option Nat :=
  if n < 1 - (f.bias : Int) - f.p ∨ (f.bias : Int) < n then none
  else
    let r := f.round { neg := neg, m := 1, e := n } 0
    if r.2 = 0 then some r.1 else none

/-- The free pattern of a special function on an operand that is neither a special nor an exact case (R113 gives a bound and no value): a seed where it keeps the bound. -/
def freeSpecial (fn : Nat) (t : TypeCode) (x : Nat) : Nat := Config.special fn t.toNat x % 2 ^ laneWidth t

/-- Which of the two patterns next to the exact value a special function answers is free (R113: within 1 ulp; log entry 47). -/
def freeSide (fn : Nat) (t : TypeCode) (x : Nat) : Bool := Config.special fn t.toNat x % 2 == 1

/-- Whether a pattern keeps a seed's bound (R113): `err` of its value lies from `lo` to `hi`. -/
def keepsBound (f : Fmt) (lo hi : Dy) (err : Dy → Dy) (p : Nat) : Bool :=
  match f.decode p with
  | .fin y => numLe (.fin lo) (.fin (err y)) && numLe (.fin (err y)) (.fin hi)
  | _ => false

/-- A free pattern that is computed: a NaN is the canonical one (R66). -/
def Fmt.canonical (f : Fmt) (p : Nat) : Nat :=
  match f.decode p with
  | .nan _ => f.cnan
  | _ => p

/-- A seed within its bound (R113: a relative error of at most 2^-12): the free pattern where it keeps the bound, else the rounded value, or the largest finite one where that
overflows. Where no pattern keeps the bound, because the exact value lies too far beyond the largest finite one, the spec states no result: it is free (log entry 47), but no NaN
other than the canonical one. -/
def seed (f : Fmt) (free rounded : Nat) (lo hi : Dy) (err : Dy → Dy) : Nat :=
  let near := if (f.decode rounded).isInf then rounded - 1 else rounded
  if keepsBound f lo hi err free then free else if keepsBound f lo hi err near then near else f.canonical free

/-- The seed of 1/x for a finite non-zero x: the bound on y · x is 1 ± 2^-12. -/
def rcpSeed (t : TypeCode) (x : Nat) (d : Dy) : Nat :=
  let f := fmtOf t
  seed f (freeSpecial 2 t x) ((numDiv f (.fin Dy.one) (.fin d)).to f 0).1 { neg := false, m := 4095, e := -12 } { neg := false, m := 4097, e := -12 }
    fun y => y.mul d

/-- The seed of 1/√x for a positive finite x: the bound on y² · x is (1 ± 2^-12)², for a y that is not negative. -/
def rsqSeed (t : TypeCode) (x : Nat) (d : Dy) : Nat :=
  let f := fmtOf t
  let root := fp64.decode ((numSqrt fp64 (.fin d)).to fp64 0).1
  seed f (freeSpecial 3 t x) ((numDiv f (.fin Dy.one) root).to f 0).1 { neg := false, m := 4095 * 4095, e := -24 } { neg := false, m := 4097 * 4097, e := -24 }
    fun y => { (y.mul y).mul d with neg := y.neg }

/-- `vexp2` of one lane (R113, R114): exact at integers whose power is representable; OF and UF as an RNE rounding of 2^a sets them, and +∞ with OF (DEDUCED, log entry 47). -/
def exp2Lane (t : TypeCode) (x : Nat) : Nat × BitVec 6 :=
  let f := fmtOf t
  match f.decode x with
  | .nan s => (f.cnan, flagIf s fNV)
  | .inf n => (if n then 0 else f.infBits false, 0)
  | .fin d =>
    let big := !d.neg && numLe (.fin { neg := false, m := f.bias + 1, e := 0 }) (.fin d)
    let tiny := d.neg && numLt (.fin d) (.fin (dyOfInt (1 - (f.bias : Int))))
    match d.toInteger.bind (f.pow2 false) with
    | some r => (r, 0)
    | none => (if big then f.infBits false else withinUlp f (freeSide 0 t x) (exp2Range d), fNX ||| flagIf big fOF ||| flagIf tiny fUF)

/-- `vlog2` of one lane (R113, R114). -/
def log2Lane (t : TypeCode) (x : Nat) : Nat × BitVec 6 :=
  let f := fmtOf t
  match f.decode x with
  | .nan s => (f.cnan, flagIf s fNV)
  | .inf n => if n then (f.cnan, fNV) else (f.infBits false, 0)
  | .fin d =>
    if d.m = 0 then (f.infBits true, 0)
    else if d.neg then (f.cnan, fNV)
    else match d.log2? with
      | some n => f.round (dyOfInt n) 0
      | none => (withinUlp f (freeSide 1 t x) (log2Range d), fNX)

/-- `vrcp` of one lane (R113, R114). -/
def rcpLane (t : TypeCode) (x : Nat) : Nat × BitVec 6 :=
  let f := fmtOf t
  match f.decode x with
  | .nan s => (f.cnan, flagIf s fNV)
  | .inf n => (f.signBit n, 0)
  | .fin d =>
    if d.m = 0 then (f.infBits d.neg, 0)
    else match d.log2?.bind (fun n => f.pow2 d.neg (-n)) with
      | some r => (r, 0)
      | none => (rcpSeed t x d, fNX)

/-- `vrsq` of one lane (R113, R114): exact at even powers of two. -/
def rsqLane (t : TypeCode) (x : Nat) : Nat × BitVec 6 :=
  let f := fmtOf t
  match f.decode x with
  | .nan s => (f.cnan, flagIf s fNV)
  | .inf n => if n then (f.cnan, fNV) else (0, 0)
  | .fin d =>
    if d.m = 0 then (f.infBits d.neg, 0)
    else if d.neg then (f.cnan, fNV)
    else match d.log2?.bind (fun n => if n % 2 = 0 then f.pow2 false (-(n / 2)) else none) with
      | some r => (r, 0)
      | none => (rsqSeed t x d, fNX)

/-- One of a format, by sign. -/
def Fmt.one (f : Fmt) (neg : Bool) : Nat := f.signBit neg + f.bias * 2 ^ f.p

/-- `vsinpi` of one lane (R113, R114): exact at every multiple of 0.5. -/
def sinpiLane (t : TypeCode) (x : Nat) : Nat × BitVec 6 :=
  let f := fmtOf t
  match f.decode x with
  | .nan s => (f.cnan, flagIf s fNV)
  | .inf _ => (f.cnan, fNV)
  | .fin d =>
    match (d.scale 1).toInteger with
    | none => (withinUlp f (freeSide 4 t x) (sinpiRange d), fNX)
    | some h => if h % 2 = 0 then (f.signBit d.neg, 0) else (f.one (h % 4 == 3), 0)

/-- `vcospi` of one lane (R113, R114): exact at every multiple of 0.5. -/
def cospiLane (t : TypeCode) (x : Nat) : Nat × BitVec 6 :=
  let f := fmtOf t
  match f.decode x with
  | .nan s => (f.cnan, flagIf s fNV)
  | .inf _ => (f.cnan, fNV)
  | .fin d =>
    match (d.scale 1).toInteger with
    | none => (withinUlp f (freeSide 5 t x) (cospiRange d), fNX)
    | some h => if h % 2 = 0 then (f.one (h % 4 == 2), 0) else (0, 0)

/-- `vexp2` (R113, R114). -/
def execVexp2 (d a : BitVec 3) (l : BitVec 1) (k : BitVec 2) (t : BitVec 4) (s : State) : Host.Outcome State Fault Refusal := fvec1 d a l k t (exp2Lane t) s

/-- `vlog2` (R113, R114). -/
def execVlog2 (d a : BitVec 3) (l : BitVec 1) (k : BitVec 2) (t : BitVec 4) (s : State) : Host.Outcome State Fault Refusal := fvec1 d a l k t (log2Lane t) s

/-- `vrcp` (R113, R114). -/
def execVrcp (d a : BitVec 3) (l : BitVec 1) (k : BitVec 2) (t : BitVec 4) (s : State) : Host.Outcome State Fault Refusal := fvec1 d a l k t (rcpLane t) s

/-- `vrsq` (R113, R114). -/
def execVrsq (d a : BitVec 3) (l : BitVec 1) (k : BitVec 2) (t : BitVec 4) (s : State) : Host.Outcome State Fault Refusal := fvec1 d a l k t (rsqLane t) s

/-- `vsinpi` (R113, R114). -/
def execVsinpi (d a : BitVec 3) (l : BitVec 1) (k : BitVec 2) (t : BitVec 4) (s : State) : Host.Outcome State Fault Refusal := fvec1 d a l k t (sinpiLane t) s

/-- `vcospi` (R113, R114). -/
def execVcospi (d a : BitVec 3) (l : BitVec 1) (k : BitVec 2) (t : BitVec 4) (s : State) : Host.Outcome State Fault Refusal := fvec1 d a l k t (cospiLane t) s

end Sys2Proof.Machine
end

