-- ==== Sys2Proof/Machine/VectorInt.lean ====
section
/-! DEFINITION. Integer vector instructions, compares, select, mask logic, permutes and reductions (R109 to R112, R78). -/

namespace Sys2Proof.Machine

/-- A two-source integer instruction (R109): the lane result wraps at the lane width; no flag. -/
def ivec2 (d a : BitVec 3) (l : BitVec 1) (b : BitVec 3) (m : BitVec 1) (k : BitVec 2) (t : TypeCode) (f : Int → Int → Int) (s : State) :
    Host.Outcome State Fault Refusal :=
  finish 4 s (.ok (s.vec d (laneWidth t) (laneCount t) k [(a, l), (b, m)] fun i =>
    (wrapLane (laneWidth t) (f (laneVal t (s.o a) i) (laneVal t (s.o b) i)), 0)))

/-- A two-source instruction on lanes as bits. -/
def bvec2 (d a : BitVec 3) (l : BitVec 1) (b : BitVec 3) (m : BitVec 1) (k : BitVec 2) (t : TypeCode) (f : Nat → Nat → Nat) (s : State) :
    Host.Outcome State Fault Refusal :=
  finish 4 s (.ok (s.vec d (laneWidth t) (laneCount t) k [(a, l), (b, m)] fun i =>
    (f (lane (laneWidth t) (s.o a) i) (lane (laneWidth t) (s.o b) i), 0)))

/-- A value clamped to a lane type's range (R109). -/
def clampLane (t : TypeCode) (n : Int) : Int := max (intRange t).1 (min (intRange t).2 n)

/-- Arithmetic right shift of a lane, copies of its top bit entering (R109), as bits. -/
def sraLane (w x k : Nat) : Nat := wrapLane w ((if 2 ^ (w - 1) ≤ x then (x : Int) - 2 ^ w else x) / 2 ^ k)

/-- An integer compare (R110). -/
def icmp (e : BitVec 2) (a : BitVec 3) (l : BitVec 1) (b : BitVec 3) (m : BitVec 1) (k : BitVec 2) (t : TypeCode) (f : Int → Int → Bool) (s : State) :
    Host.Outcome State Fault Refusal :=
  finish 4 s (.ok (s.cmp e (laneCount t) k [(a, l), (b, m)] fun i => (f (laneVal t (s.o a) i) (laneVal t (s.o b) i), 0)))

/-- `vadd`, integer (R109). -/
def execVaddInt (d a : BitVec 3) (l : BitVec 1) (b : BitVec 3) (m : BitVec 1) (k : BitVec 2) (t : BitVec 4) (s : State) : Host.Outcome State Fault Refusal := ivec2 d a l b m k t (· + ·) s

/-- `vsub`, integer (R109). -/
def execVsubInt (d a : BitVec 3) (l : BitVec 1) (b : BitVec 3) (m : BitVec 1) (k : BitVec 2) (t : BitVec 4) (s : State) : Host.Outcome State Fault Refusal := ivec2 d a l b m k t (· - ·) s

/-- `vmul`, integer (R109). -/
def execVmulInt (d a : BitVec 3) (l : BitVec 1) (b : BitVec 3) (m : BitVec 1) (k : BitVec 2) (t : BitVec 4) (s : State) : Host.Outcome State Fault Refusal := ivec2 d a l b m k t (· * ·) s

/-- `vmulh`, integer (R109). -/
def execVmulh (d a : BitVec 3) (l : BitVec 1) (b : BitVec 3) (m : BitVec 1) (k : BitVec 2) (t : BitVec 4) (s : State) : Host.Outcome State Fault Refusal := ivec2 d a l b m k t (fun x y => x * y / 2 ^ laneWidth t) s

/-- `vmin`, integer (R109). -/
def execVminInt (d a : BitVec 3) (l : BitVec 1) (b : BitVec 3) (m : BitVec 1) (k : BitVec 2) (t : BitVec 4) (s : State) : Host.Outcome State Fault Refusal := ivec2 d a l b m k t min s

/-- `vmax`, integer (R109). -/
def execVmaxInt (d a : BitVec 3) (l : BitVec 1) (b : BitVec 3) (m : BitVec 1) (k : BitVec 2) (t : BitVec 4) (s : State) : Host.Outcome State Fault Refusal := ivec2 d a l b m k t max s

/-- `vadds`, integer (R109). -/
def execVadds (d a : BitVec 3) (l : BitVec 1) (b : BitVec 3) (m : BitVec 1) (k : BitVec 2) (t : BitVec 4) (s : State) : Host.Outcome State Fault Refusal := ivec2 d a l b m k t (fun x y => clampLane t (x + y)) s

/-- `vsubs`, integer (R109). -/
def execVsubs (d a : BitVec 3) (l : BitVec 1) (b : BitVec 3) (m : BitVec 1) (k : BitVec 2) (t : BitVec 4) (s : State) : Host.Outcome State Fault Refusal := ivec2 d a l b m k t (fun x y => clampLane t (x - y)) s

/-- `vabsd`, integer (R109). -/
def execVabsd (d a : BitVec 3) (l : BitVec 1) (b : BitVec 3) (m : BitVec 1) (k : BitVec 2) (t : BitVec 4) (s : State) : Host.Outcome State Fault Refusal := ivec2 d a l b m k t (fun x y => ((x - y).natAbs : Int)) s

/-- `vand` (R109). -/
def execVand (d a : BitVec 3) (l : BitVec 1) (b : BitVec 3) (m : BitVec 1) (k : BitVec 2) (t : BitVec 4) (s : State) : Host.Outcome State Fault Refusal := bvec2 d a l b m k t (fun x y => x &&& y) s

/-- `vor` (R109). -/
def execVor (d a : BitVec 3) (l : BitVec 1) (b : BitVec 3) (m : BitVec 1) (k : BitVec 2) (t : BitVec 4) (s : State) : Host.Outcome State Fault Refusal := bvec2 d a l b m k t (fun x y => x ||| y) s

/-- `vxor` (R109). -/
def execVxor (d a : BitVec 3) (l : BitVec 1) (b : BitVec 3) (m : BitVec 1) (k : BitVec 2) (t : BitVec 4) (s : State) : Host.Outcome State Fault Refusal := bvec2 d a l b m k t (fun x y => x ^^^ y) s

/-- `vsll` (R109). -/
def execVsll (d a : BitVec 3) (l : BitVec 1) (b : BitVec 3) (m : BitVec 1) (k : BitVec 2) (t : BitVec 4) (s : State) : Host.Outcome State Fault Refusal := bvec2 d a l b m k t (fun x y => x * 2 ^ (y % laneWidth t)) s

/-- `vsrl` (R109). -/
def execVsrl (d a : BitVec 3) (l : BitVec 1) (b : BitVec 3) (m : BitVec 1) (k : BitVec 2) (t : BitVec 4) (s : State) : Host.Outcome State Fault Refusal := bvec2 d a l b m k t (fun x y => x / 2 ^ (y % laneWidth t)) s

/-- `vsra` (R109). -/
def execVsra (d a : BitVec 3) (l : BitVec 1) (b : BitVec 3) (m : BitVec 1) (k : BitVec 2) (t : BitVec 4) (s : State) : Host.Outcome State Fault Refusal := bvec2 d a l b m k t (fun x y => sraLane (laneWidth t) x (y % laneWidth t)) s

/-- `vmadd` (R109): low bits of a · b + c. -/
def execVmadd (d a : BitVec 3) (l : BitVec 1) (b : BitVec 3) (m : BitVec 1) (c : BitVec 3) (n : BitVec 1) (k : BitVec 2) (t : BitVec 4) (s : State) : Host.Outcome State Fault Refusal :=
  finish 4 s (.ok (s.vec d (laneWidth t) (laneCount t) k [(a, l), (b, m), (c, n)] fun i =>
    (wrapLane (laneWidth t) (laneVal t (s.o a) i * laneVal t (s.o b) i + laneVal t (s.o c) i), 0)))

/-- `vceq` (R110). -/
def execVceq (e : BitVec 2) (a : BitVec 3) (l : BitVec 1) (b : BitVec 3) (m : BitVec 1) (k : BitVec 2) (t : BitVec 4) (s : State) : Host.Outcome State Fault Refusal := icmp e a l b m k t (fun x y => decide (x = y)) s

/-- `vclt` (R110). -/
def execVclt (e : BitVec 2) (a : BitVec 3) (l : BitVec 1) (b : BitVec 3) (m : BitVec 1) (k : BitVec 2) (t : BitVec 4) (s : State) : Host.Outcome State Fault Refusal := icmp e a l b m k t (fun x y => decide (x < y)) s

/-- `vcle` (R110). -/
def execVcle (e : BitVec 2) (a : BitVec 3) (l : BitVec 1) (b : BitVec 3) (m : BitVec 1) (k : BitVec 2) (t : BitVec 4) (s : State) : Host.Outcome State Fault Refusal := icmp e a l b m k t (fun x y => decide (x ≤ y)) s

/-- `vsel` (R110): the mask selects between the sources, and every lane is written. -/
def execVsel (d a : BitVec 3) (l : BitVec 1) (b : BitVec 3) (m : BitVec 1) (k : BitVec 2) (t : BitVec 4) (s : State) : Host.Outcome State Fault Refusal :=
  finish 4 s (.ok (s.vec d (laneWidth t) (laneCount t) 0 [(a, l), (b, m)] fun i =>
    (if bit (s.k k) i then lane (laneWidth t) (s.o a) i else lane (laneWidth t) (s.o b) i, 0)))

/-- Mask logic (R110): all 32 bits. -/
def maskEff (e : BitVec 2) (x : BitVec 32) (s : State) : Host.Outcome State Fault Refusal := finish 4 s (.ok (s.setK e x))

/-- `kand` (R110). -/
def execKand (e g h : BitVec 2) (s : State) : Host.Outcome State Fault Refusal := maskEff e (s.k g &&& s.k h) s

/-- `kor` (R110). -/
def execKor (e g h : BitVec 2) (s : State) : Host.Outcome State Fault Refusal := maskEff e (s.k g ||| s.k h) s

/-- `kxor` (R110). -/
def execKxor (e g h : BitVec 2) (s : State) : Host.Outcome State Fault Refusal := maskEff e (s.k g ^^^ s.k h) s

/-- `knot` (R110). -/
def execKnot (e g : BitVec 2) (s : State) : Host.Outcome State Fault Refusal := maskEff e (~~~(s.k g)) s

/-- A permute (R111): lane `i` of od comes from lane `f i` of the value that has oa in its low lanes and ob above. -/
def permEff (d a : BitVec 3) (l : BitVec 1) (src : List (BitVec 3 × BitVec 1)) (k : BitVec 2) (t : TypeCode) (b : BitVec 3) (f : Nat → Nat) (s : State) :
    Host.Outcome State Fault Refusal :=
  let n := laneCount t
  finish 4 s (.ok (s.vec d (laneWidth t) n k ((a, l) :: src) fun i =>
    (if f i < n then lane (laneWidth t) (s.o a) (f i) else lane (laneWidth t) (s.o b) (f i - n), 0)))

/-- `vperm` (R111). -/
def execVperm (d a : BitVec 3) (l : BitVec 1) (b : BitVec 3) (m : BitVec 1) (k : BitVec 2) (t : BitVec 4) (s : State) : Host.Outcome State Fault Refusal :=
  permEff d a l [(b, m)] k t b (fun i => lane (laneWidth t) (s.o b) i % laneCount t) s

/-- `vbcast` (R111). -/
def execVbcast (d a : BitVec 3) (l : BitVec 1) (b : BitVec 3) (m : BitVec 1) (k : BitVec 2) (t : BitVec 4) (s : State) : Host.Outcome State Fault Refusal :=
  permEff d a l [(b, m)] k t b (fun _ => lane (laneWidth t) (s.o b) 0 % laneCount t) s

/-- `vzipl` (R111). -/
def execVzipl (d a : BitVec 3) (l : BitVec 1) (b : BitVec 3) (m : BitVec 1) (k : BitVec 2) (t : BitVec 4) (s : State) : Host.Outcome State Fault Refusal :=
  permEff d a l [(b, m)] k t b (fun i => if i % 2 = 0 then i / 2 else laneCount t + i / 2) s

/-- `vziph` (R111). -/
def execVziph (d a : BitVec 3) (l : BitVec 1) (b : BitVec 3) (m : BitVec 1) (k : BitVec 2) (t : BitVec 4) (s : State) : Host.Outcome State Fault Refusal :=
  permEff d a l [(b, m)] k t b (fun i => (if i % 2 = 0 then i / 2 else laneCount t + i / 2) + laneCount t / 2) s

/-- `vuzpe` (R111). -/
def execVuzpe (d a : BitVec 3) (l : BitVec 1) (b : BitVec 3) (m : BitVec 1) (k : BitVec 2) (t : BitVec 4) (s : State) : Host.Outcome State Fault Refusal :=
  permEff d a l [(b, m)] k t b (fun i => 2 * i) s

/-- `vuzpo` (R111). -/
def execVuzpo (d a : BitVec 3) (l : BitVec 1) (b : BitVec 3) (m : BitVec 1) (k : BitVec 2) (t : BitVec 4) (s : State) : Host.Outcome State Fault Refusal :=
  permEff d a l [(b, m)] k t b (fun i => 2 * i + 1) s

/-- `vrev` (R111). -/
def execVrev (d a : BitVec 3) (l : BitVec 1) (k : BitVec 2) (t : BitVec 4) (s : State) : Host.Outcome State Fault Refusal :=
  permEff d a l [] k t a (fun i => laneCount t - 1 - i) s

/-- One level of the reduction tree (R78): neighbours combined in pairs. -/
def treeLevel (f : Nat → Nat → Nat × BitVec 6) : List Nat → List Nat × BitVec 6
  | x :: y :: t => let r := f x y; let u := treeLevel f t; (r.1 :: u.1, r.2 ||| u.2)
  | l => (l, 0)

/-- The reduction tree of R78, level by level until one value is left. -/
def treeReduce (f : Nat → Nat → Nat × BitVec 6) : Nat → List Nat → Nat × BitVec 6
  | 0, l => (l.headD 0, 0)
  | n + 1, l =>
    match l with
    | [x] => (x, 0)
    | l => let r := treeLevel f l; let u := treeReduce f n r.1; (u.1, r.2 ||| u.2)

/-- A reduction (R112): inactive lanes enter as the identity; lane 0 of od takes the result and every other lane is zero. -/
def redEff (d a : BitVec 3) (l : BitVec 1) (k : BitVec 2) (t : TypeCode) (ident : Nat) (f : Nat → Nat → Nat × BitVec 6) (s : State) :
    Host.Outcome State Fault Refusal :=
  let xs := (List.range (laneCount t)).map fun i => if active (s.k k) i then lane (laneWidth t) (s.o a) i else ident
  let r := treeReduce f 6 xs
  finish 4 s (.ok (((s.useO [(a, l)]).addFlags r.2).setO d (BitVec.ofNat 256 (r.1 % 2 ^ laneWidth t))))

/-- Step of an integer reduction on lanes as bits. -/
def intStep (t : TypeCode) (f : Int → Int → Int) (x y : Nat) : Nat × BitVec 6 :=
  let w := laneWidth t
  let v (n : Nat) : Int := if isSigned t ∧ 2 ^ (w - 1) ≤ n then (n : Int) - 2 ^ w else n
  (wrapLane w (f (v x) (v y)), 0)

/-- `vrsum` (R112): the identity is −0 for a floating type, 0 for an integer one. -/
def execVrsum (d a : BitVec 3) (l : BitVec 1) (k : BitVec 2) (t : BitVec 4) (s : State) : Host.Outcome State Fault Refusal :=
  if isFloat t then
    redEff d a l k t ((fmtOf t).signBit true) (fun x y => (numAdd 0 ((fmtOf t).decode x) ((fmtOf t).decode y)).to (fmtOf t) 0) s
  else redEff d a l k t 0 (intStep t (· + ·)) s

/-- `vrmin` (R112). -/
def execVrmin (d a : BitVec 3) (l : BitVec 1) (k : BitVec 2) (t : BitVec 4) (s : State) : Host.Outcome State Fault Refusal :=
  if isFloat t then redEff d a l k t ((fmtOf t).infBits false) (fminBits (fmtOf t)) s
  else redEff d a l k t (wrapLane (laneWidth t) (intRange t).2) (intStep t min) s

/-- `vrmax` (R112). -/
def execVrmax (d a : BitVec 3) (l : BitVec 1) (k : BitVec 2) (t : BitVec 4) (s : State) : Host.Outcome State Fault Refusal :=
  if isFloat t then redEff d a l k t ((fmtOf t).infBits true) (fmaxBits (fmtOf t)) s
  else redEff d a l k t (wrapLane (laneWidth t) (intRange t).1) (intStep t max) s

/-- `vrand` (R112). -/
def execVrand (d a : BitVec 3) (l : BitVec 1) (k : BitVec 2) (t : BitVec 4) (s : State) : Host.Outcome State Fault Refusal := redEff d a l k t (2 ^ laneWidth t - 1) (fun x y => (x &&& y, 0)) s

/-- `vror` (R112). -/
def execVror (d a : BitVec 3) (l : BitVec 1) (k : BitVec 2) (t : BitVec 4) (s : State) : Host.Outcome State Fault Refusal := redEff d a l k t 0 (fun x y => (x ||| y, 0)) s

/-- `vrxor` (R112). -/
def execVrxor (d a : BitVec 3) (l : BitVec 1) (k : BitVec 2) (t : BitVec 4) (s : State) : Host.Outcome State Fault Refusal := redEff d a l k t 0 (fun x y => (x ^^^ y, 0)) s

end Sys2Proof.Machine
end

