-- ==== Sys2Proof/Machine/Collective.lean ====
section
/-! DEFINITION. Collective groups (R274 to R276). -/

namespace Sys2Proof.Machine

/-! The command block (R275). -/

/-- GID. -/
def CollCmd.gid (c : CollCmd) : BitVec 16 := fld (headDw c.blk 0) 48 16
/-- OP. -/
def CollCmd.op (c : CollCmd) : Nat := (fld (headDw c.blk 0) 40 8 : BitVec 8).toNat
/-- TYPE. -/
def CollCmd.type (c : CollCmd) : Nat := (fld (headDw c.blk 0) 36 4 : BitVec 4).toNat
/-- GEN. -/
def CollCmd.gen (c : CollCmd) : BitVec 32 := fld (headDw c.blk 0) 0 32
/-- SRC. -/
def CollCmd.src (c : CollCmd) : Word := headDw c.blk 1
/-- DST. -/
def CollCmd.dst (c : CollCmd) : Word := headDw c.blk 2
/-- LEN. -/
def CollCmd.len (c : CollCmd) : Nat := (fld (headDw c.blk 3) 0 32 : BitVec 32).toNat
/-- ROOT. -/
def CollCmd.root (c : CollCmd) : Nat := (fld (headDw c.blk 3) 32 14 : BitVec 14).toNat
/-- Tenant. -/
def CollCmd.ten (c : CollCmd) : BitVec 12 := cidTen c.cid

/-- A block error (R275) for a group of `n` members; the target's core is one of the issuing package. -/
def CollCmd.bad (c : CollCmd) (n pkg : Nat) : Bool :=
  let tgt := headDw c.blk 4
  c.op == 0 || decide (4 < c.op) || (if c.op = 3 then decide (2 < c.type) else c.type != 0) || !zeroBits (headDw c.blk 0) 32 4 || c.len == 0 || c.len % 16 != 0 ||
    (c.op == 4 && c.len % (16 * n) != 0) || !zeroBits (headDw c.blk 3) 46 18 || (if c.op = 1 then decide (n ≤ c.root) else c.root != 0) || !zeroBits tgt 37 27 ||
    !userChannel (fld tgt 29 8) || !namesCore (fld tgt 0 29) || pkgOf (fld tgt 0 29) != pkg || headDw c.blk 5 != 0 || headDw c.blk 6 != 0 || headDw c.blk 7 != 0

/-- A group's record at the acting engine. -/
def Engine.group (e : Engine) (gid : BitVec 16) : Option CollGroup := e.groups.find? fun g => g.gid == gid

/-- The completion (R275): a call on TGT with the status and the bytes written locally. -/
def State.collDone (s : State) (c : CollCmd) (stat : BitVec 8) (bytes : Nat) : State :=
  let tgt := headDw c.blk 4
  let gen : BitVec 32 := match s.here.eng.group c.gid with
    | some g => g.gen
    | none => 0
  s.sendOwn (fld tgt 0 29) kCall (fld tgt 29 8) c.cid [flit4 ((zext stat <<< 56) ||| (zext c.gid <<< 40) ||| zext gen) (BitVec.ofNat 64 bytes) 0 0]

/-! What the operations compute. -/

/-- Format and bytes of an element of TYPE. -/
def collFmt (t : Nat) : Fmt × Nat := if t = 0 then (fp32, 4) else if t = 1 then (fp64, 8) else (bf16, 2)

/-- One step of a reduction (R275): a sum rounded by RNE into the type. -/
def collStep (f : Fmt) (x y : Nat) : Nat × BitVec 6 := (numAdd 0 (f.decode x) (f.decode y)).to f 0

/-- A reduction over ranks in order, padded with −0 to a power of two (R78, R275). -/
def collSum (f : Fmt) (xs : List Nat) : Nat :=
  let n := 2 ^ bitLen (xs.length - 1)
  (treeReduce (collStep f) 15 (xs ++ List.replicate (n - xs.length) (f.signBit true))).1

/-- What rank `r` gets from the sources of all ranks (R275). The blocks of an all-gather stand in rank order. -/
def CollCmd.result (c : CollCmd) (srcs : List (List Byte)) (r : Nat) : List Byte :=
  match c.op with
  | 1 => srcs.getD c.root []
  | 2 => srcs.flatten
  | 3 =>
    let fe := collFmt c.type
    (List.range (c.len / fe.2)).flatMap fun i => leBytes fe.2 (collSum fe.1 (srcs.map fun b => leNat ((b.drop (fe.2 * i)).take fe.2)))
  | _ =>
    let n := c.len / srcs.length
    srcs.flatMap fun b => (b.drop (n * r)).take n

/-! The members' parts (R275). Each member's engine reads its source by gets and writes its result by puts at the homes of its own package, as a copy engine does (R231); what the engines
tell each other has no form in the spec and takes no message of the model (DESIGN CHOICE, log entry 40). -/

/-- The collective engine of a package: engine 0 of die 0 (R275), or the one that does its work (R260). -/
def State.collEngineOf (s : State) (pkg : Nat) : CoreAddr := s.standIn (launchEngine pkg 0)

/-- The collective engine of the acting core's package. -/
def State.collEngine (s : State) : CoreAddr := s.collEngineOf (pkgOf s.at_)

/-- A member's part under a number: the range at `addr` of the tenant's first space. It carries the group's ID. -/
def CollCmd.part (c : CollCmd) (id : Nat) (gsa : BitVec 8) (addr : Word) : CopyCmd :=
  { id := id, blk := flit4 addr addr 0 0, xid := c.gid.setWidth 32, cid := c.cid, kslot := 0, gsa := gsa, gsb := 0xFF, issuer := c.issuer, started := true, parts := [],
    halted := true, fail := none }

/-- A member's part begins at the acting engine: `n` bytes at `addr` are read, or `data` are written there. A range that the tenant does not own fails at once. -/
def State.beginPart (s : State) (c : CollCmd) (addr : Word) (n : Nat) (data : Option (List Byte)) : State :=
  let p := c.part s.here.eng.copyNo (s.home.gsaOf c.ten) addr
  let add := fun (q : CopyCmd) => s.modEng fun e => { e with members := e.members ++ [q], copyNo := e.copyNo + 1 }
  match s.home.unowned c.ten p.gsa s.home.rpt.length addr.toNat (addr.toNat + n) with
  | some a => add { p with fail := some (cPlacement, 1, a) }
  | none =>
    let ps := match data with
      | none => s.home.partsOf p 0 n .toRead
      | some bs => (s.home.partsOf p 0 n .toWrite).map fun x => { x with data := (bs.drop x.off).take x.len }
    let p := { p with parts := ps }
    let out := ps.filterMap fun x => (p.issueOf x).map (·.1)
    let p := { p with parts := ps.map fun x => match p.issueOf x with
      | some (_, st) => { x with st := st }
      | none => x }
    ((add p).modNet fun m => { m with egress := m.egress ++ out }).flush

/-- A part begins at the engine of a member's package: the machine, and where the part stands. -/
def State.beginAt (s : State) (c : CollCmd) (rank pkg : Nat) (addr : Word) (n : Nat) (data : Option (List Byte)) : State × (Nat × CoreAddr × Nat) :=
  let e := s.collEngineOf pkg
  (s.at e fun u => u.beginPart c addr n data, (rank, e, (s.core e).eng.copyNo))

/-- The reads of the members in rank order; a broadcast reads the root's source alone. -/
def State.beginReads (s : State) (c : CollCmd) : List Nat → Nat → State × List (Nat × CoreAddr × Nat)
  | [], _ => (s, [])
  | p :: rest, r =>
    if c.op = 1 ∧ r ≠ c.root then s.beginReads c rest (r + 1)
    else
      let t := s.beginAt c r p c.src c.len none
      let u := t.1.beginReads c rest (r + 1)
      (u.1, t.2 :: u.2)

/-- The writes of the members' results in rank order. -/
def State.beginWrites (s : State) (c : CollCmd) (srcs : List (List Byte)) : List Nat → Nat → State × List (Nat × CoreAddr × Nat)
  | [], _ => (s, [])
  | p :: rest, r =>
    let bs := c.result srcs r
    let t := s.beginAt c r p c.dst bs.length (some bs)
    let u := t.1.beginWrites c srcs rest (r + 1)
    (u.1, t.2 :: u.2)

/-- Where a member's part stands: its engine has voided it (STAT 0x01), lost it (0x02) or had it refused (0x03), it is under way, or it is settled. -/
inductive PartEnd where
  | failed (stat : BitVec 8)
  | running
  | settled (work : CopyCmd)
  deriving DecidableEq, Repr

/-- How a member's part stands (R276, R260, R275). -/
def State.partEnd (s : State) (x : Nat × CoreAddr × Nat) : PartEnd :=
  match (s.core x.2.1).eng.members.find? fun p => p.id == x.2.2 with
  | none => .failed (if (s.core x.2.1).present then 0x01 else 0x02)
  | some p =>
    if p.parts.any CopyPart.inFlight then .running
    else match p.failure with
      | some f => .failed (if f.2.1 = 3 then 0x02 else 0x03)
      | none => .settled p

/-- The status of the first member's part, in rank order, that has failed. -/
def State.partsStat (s : State) (c : CollCmd) : Option (BitVec 8) :=
  c.parts.findSome? fun x => match s.partEnd x with
    | .failed v => some v
    | _ => none

/-- No member's part is under way. -/
def State.partsSettled (s : State) (c : CollCmd) : Bool := c.parts.all fun x => s.partEnd x != .running

/-- The bytes that a rank's part has read. -/
def State.partBytes (s : State) (c : CollCmd) (rank : Nat) : List Byte :=
  match c.parts.find? fun x => x.1 == rank with
  | none => []
  | some x => match (s.core x.2.1).eng.members.find? fun p => p.id == x.2.2 with
    | some p => p.parts.flatMap (·.data)
    | none => []

/-- The members' parts of a command removed from their engines. -/
def State.endParts (s : State) (c : CollCmd) : State :=
  c.parts.foldl (fun t x => t.modCore x.2.1 fun k => { k with eng := { k.eng with members := k.eng.members.filter fun p => p.id != x.2.2 } }) s

/-- Rank of the member that sends the completion (R275): ROOT of a broadcast, else 0, which ROOT is then. -/
def CollCmd.rootRank (c : CollCmd) : Nat := c.root

/-- The completion of a command whose parts have begun: the root member's engine sends it, with the bytes written in its package (R275). -/
def State.collEnd (s : State) (c : CollCmd) (pkgs : List Nat) (stat : BitVec 8) : State :=
  let e := s.collEngineOf (pkgs.getD c.rootRank (pkgOf s.at_))
  let n := match c.parts.find? fun x => x.1 == c.rootRank with
    | some x => (match (s.core x.2.1).eng.members.find? fun p => p.id == x.2.2 with
      | some p => if c.stage = 2 then p.bytesWritten else 0
      | none => 0)
    | none => 0
  (s.endParts c).at e fun u => u.collDone c stat n

/-- The oldest pending command goes on (R275, R276): void, or refused, or short of a member that a route reaches, it completes; else its reads begin, then its writes once every read is
settled, and it completes once every write is. It fails as soon as no part is under way and one has failed. -/
def State.collRun (s : State) (c : CollCmd) (rest : List CollCmd) : State :=
  let t := s.modEng fun e => { e with colls := rest }
  let goes := fun (r : State × List (Nat × CoreAddr × Nat)) (n : Nat) => r.1.modEng fun e => { e with colls := { c with stage := n, parts := r.2 } :: e.colls }
  match s.here.eng.group c.gid with
  | none => t.collDone c 0x03 0
  | some g =>
    let pkgs := g.members.map fun m => m.1.toNat
    if c.stage = 0 then
      if g.void then t.collDone c 0x01 0
      else if c.bad g.members.length (pkgOf s.at_) then t.collDone c 0x03 0
      else if g.gen != c.gen || g.members.any fun m => s.inService m.1.toNat && (s.pkg m.1.toNat).bootGen != m.2.1 then t.collDone c 0x01 0
      else if !(pkgs.all fun p => s.inService p && s.reaches s.at_ p) then t.collDone c 0x02 0
      else goes (t.beginReads c pkgs 0) 1
    else if !s.partsSettled c then s
    else match s.partsStat c with
      | some v => t.collEnd c pkgs v
      | none =>
        if c.stage = 1 then goes ((t.endParts c).beginWrites c ((List.range pkgs.length).map (s.partBytes c)) pkgs 0) 2
        else t.collEnd c pkgs 0x00

/-- A kick at an engine of the role (R275): the collective engine accepts one that a class-S slot, an engine or the host link agent sent; any other is refused as a message to a channel
that no handler serves. -/
def State.acceptColl (s : State) (m : Msg) : State :=
  if s.at_ == s.collEngine && m.sys then
    (s.settle m).modEng fun e => { e with colls := e.colls ++ [{ blk := flitBytes (m.pay.take 2), cid := m.cid, issuer := m.src, stage := 0, parts := [] }] }
  else s.nack m cPlacement (zext m.ch)

/-- COLLECTIVE_COMMAND (R275): a kick from core `src` is accepted; with `flag` the engine takes its oldest accepted command further. -/
def execCollectiveCommand (s : State) : Host.Outcome State Fault Refusal :=
  .next (if s.ev.flag then
      match s.here.eng.colls with
      | [] => s
      | c :: rest => s.collRun c rest
    else s.takes .collectiveCommand (fun _ => true) fun m t => t.routeThen m fun u => u.acceptColl m)

/-! Generations (R274, R276). -/

/-- A generation notice: package and boot generation on channel 2. The spec says that it is of system class and gives no channel and no layout (DESIGN CHOICE, log
entry 40). -/
def genFlit (pkg : Nat) (gen : BitVec 32) : Strip := flit4 (BitVec.ofNat 64 pkg ||| (zext gen <<< 32)) 0 0 0

/-- FABRIC_LINK_UP (R274): after a reset the package floods its generation notice to every package. -/
def execFabricLinkUp (s : State) : Host.Outcome State Fault Refusal :=
  let pkg := pkgOf s.at_
  .next (((s.pkgs.map (·.1)).filter (· != pkg)).foldl (fun t q => t.sendOwn (t.standIn (launchEngine q 0)) kSystem 2 0 [genFlit pkg s.home.bootGen]) s)

/-- R276: the groups that name a package are void and lose their key, and their pending commands complete with STAT 0x01; the engine's own parts in their commands end. -/
def State.voidGroups (s : State) (pkg : BitVec 14) : State :=
  let names := fun (g : CollGroup) => g.members.any fun m => m.1 == pkg
  let hit := (s.here.eng.groups.filter names).map (·.gid)
  let out := s.here.eng.colls.filter fun c => hit.contains c.gid
  let t := s.modEng fun e => { e with
    groups := e.groups.map fun g => if names g then { g with void := true, keyed := false } else g
    colls := e.colls.filter fun c => !hit.contains c.gid
    members := e.members.filter fun p => !hit.contains (fld p.xid 0 16) }
  out.foldl (fun t c => (t.endParts c).collDone c 0x01 0) t

/-- GENERATION_NOTICE (R276): a package's notice from core `src` reaches the collective engine. -/
def execGenerationNotice (s : State) : Host.Outcome State Fault Refusal :=
  .next (s.takes .generationNotice (fun _ => true) fun m t => (t.settle m).voidGroups (fld (m.dw 0) 0 14))

end Sys2Proof.Machine
end

