-- ==== Sys2Proof/Machine/Sha3.lean ====
section
/-! DEFINITION. SHA3-256 of a message of less than 136 bytes, for the journal's HASH (R354). The spec names the function and gives no text of it: FIPS 202 does (PRESUMED, log entry 6). -/

namespace Sys2Proof.Machine

/-- The round constants of Keccak-f[1600]. -/
def keccakConsts : List Word :=
  [0x0000000000000001, 0x0000000000008082, 0x800000000000808A, 0x8000000080008000, 0x000000000000808B, 0x0000000080000001, 0x8000000080008081, 0x8000000000008009,
   0x000000000000008A, 0x0000000000000088, 0x0000000080008009, 0x000000008000000A, 0x000000008000808B, 0x800000000000008B, 0x8000000000008089, 0x8000000000008003,
   0x8000000000008002, 0x8000000000000080, 0x000000000000800A, 0x800000008000000A, 0x8000000080008081, 0x8000000000008080, 0x0000000080000001, 0x8000000080008008]

/-- The rotation of the lane at column `x`, row `y`, at place 5y + x. -/
def keccakRot : List Nat := [0, 1, 62, 28, 27, 36, 44, 6, 55, 20, 3, 10, 43, 25, 39, 41, 45, 15, 21, 8, 18, 2, 61, 56, 14]

/-- Lane at column `x`, row `y`. -/
def keccakLane (l : List Word) (x y : Nat) : Word := l.getD (5 * (y % 5) + x % 5) 0

/-- A state of 25 lanes from a function of column and row. -/
def keccakState (f : Nat → Nat → Word) : List Word := (List.range 25).map fun i => f (i % 5) (i / 5)

/-- One round: θ, ρ and π, χ, ι. -/
def keccakRound (l : List Word) (rc : Word) : List Word :=
  let col := (List.range 5).map fun x => (List.range 5).foldl (fun c y => c ^^^ keccakLane l x y) 0
  let a := keccakState fun x y => keccakLane l x y ^^^ col.getD ((x + 4) % 5) 0 ^^^ (col.getD ((x + 1) % 5) 0).rotateLeft 1
  let b := keccakState fun x y => (keccakLane a (x + 3 * y) x).rotateLeft (keccakRot.getD (5 * x + (x + 3 * y) % 5) 0)
  let c := keccakState fun x y => keccakLane b x y ^^^ (~~~(keccakLane b (x + 1) y) &&& keccakLane b (x + 2) y)
  (keccakLane c 0 0 ^^^ rc) :: c.drop 1

/-- The first 128 bits of SHA3-256 of a message that one block of 136 bytes holds with its padding. -/
def sha3First128 (bs : List Byte) : BitVec 128 :=
  let block := (List.range 136).map fun i => (bs.getD i (if i = bs.length then 6 else 0)) ||| (if i = 135 then (0x80 : Byte) else 0)
  let l := (List.range 25).map fun i => BitVec.ofNat 64 (leNat ((block.drop (8 * i)).take 8))
  let r := keccakConsts.foldl keccakRound l
  r.getD 1 0 ++ r.getD 0 0

end Sys2Proof.Machine
end

