-- ==== Sys2Proof/Machine/Keeper.lean ====
section
/-! DEFINITION. Anchor keepers (R278 to R293): ascents, groups, anchors, and a retreat's compensations. -/

namespace Sys2Proof.Machine

/-! The keeper's records. -/

/-- The machine with the acting keeper's records changed. -/
def State.modKeeper (s : State) (f : Keeper → Keeper) : State := s.modEng fun e => { e with keeper := f e.keeper }

/-- The acting keeper's records. -/
def State.keeper (s : State) : Keeper := s.here.eng.keeper

/-- A record of an ascent. -/
def Keeper.ascent (k : Keeper) (aid : BitVec 32) : Option Ascent := k.ascents.find? fun a => a.aid == aid

/-- A record of an ascent, for the tenant that began it (R279). -/
def Keeper.ascentOf (k : Keeper) (ten : BitVec 12) (aid : BitVec 32) : Option Ascent := k.ascents.find? fun a => a.aid == aid && cidTen a.cid == ten

/-- The records with one ascent changed. -/
def Keeper.modAscent (k : Keeper) (aid : BitVec 32) (f : Ascent → Ascent) : Keeper := { k with ascents := mapFirst (fun a => a.aid == aid) f k.ascents }

/-- The records with one group changed. -/
def Keeper.modGroup (k : Keeper) (gid : BitVec 16) (f : Group → Group) : Keeper := { k with groups := mapFirst (fun g => g.gid == gid) f k.groups }

/-- The records with every ascent changed. -/
def Keeper.mapAscents (k : Keeper) (f : Ascent → Ascent) : Keeper := { k with ascents := k.ascents.map f }

/-- The records with every anchor of one group's order changed. -/
def Keeper.modStack (k : Keeper) (gid : BitVec 16) (f : Stacked → Stacked) : Keeper := k.modGroup gid fun g => { g with stack := g.stack.map f }

/-- The records with every group's order changed. -/
def Keeper.mapStacks (k : Keeper) (f : List Stacked → List Stacked) : Keeper := { k with groups := k.groups.map fun g => { g with stack := f g.stack } }

/-- A group's order of stamped anchors. -/
def Keeper.stack (k : Keeper) (gid : BitVec 16) : List Stacked :=
  match k.groups.find? fun g => g.gid == gid with
  | some g => g.stack
  | none => []

/-- An ascent's stamped anchors. -/
def Keeper.anchorsOf (k : Keeper) (a : Ascent) : List Stacked := (k.stack a.gid).filter fun x => x.aid == a.aid

/-- Its depth (R280): anchors not yet run to completion, skipped or discarded. -/
def Keeper.depth (k : Keeper) (a : Ascent) : Nat := ((k.anchorsOf a).filter fun x => !x.skip).length

/-- State code (R280). -/
def AscState.code : AscState → Nat
  | .climbing => 0
  | .retreating => 1
  | .stranded => 2
  | .summited => 3
  | .retreated => 4
  | .abandoned => 5

/-- R280's last row: a RETREATING ascent with no pending anchor and none in flight becomes RETREATED. -/
def Keeper.quiet (k : Keeper) : Keeper := k.mapAscents fun a => if a.st == .retreating && k.depth a == 0 then { a with st := .retreated } else a

/-! Anchor stores (R279, R283, R284). -/

/-- A core with its anchor store changed. -/
def Core.modAnchors (c : Core) (f : List AnchorRec → List AnchorRec) : Core :=
  { c with eng := { c.eng with keeper := { c.eng.keeper with anchors := f c.eng.keeper.anchors } } }

/-- The record of a key at a keeper. -/
def Keeper.record (k : Keeper) (key : Nat) : Option AnchorRec := k.anchors.find? fun r => r.key == key

/-- One record of the acting keeper, changed. -/
def State.modRecord (s : State) (key : Nat) (f : AnchorRec → AnchorRec) : State :=
  { s with here := s.here.modAnchors (mapFirst (fun r => r.key == key) f) }

/-- The 64 bytes of a record (R283). -/
def recBytes (r : Vector Word 8) : List Byte := r.toList.flatMap fun w => leBytes 8 w.toNat

/-- The record that 64 bytes hold. -/
def recOf8 (bs : List Byte) : Vector Word 8 := Vector.ofFn fun i => BitVec.ofNat 64 (leNat ((bs.drop (8 * i.val)).take 8))

/-- Offset in space 0xFF of a place in the acting keeper's spill region (R284). -/
def State.spillPlace (s : State) (place : Nat) : Word := Config.anchorExtent s.at_ + BitVec.ofNat 64 (64 * place)

/-- A record written to its place in the spill region, a pool extent of space 0xFF; none where the region is missing or the access is refused (R284). -/
def State.spillWrite (s : State) (place : Nat) (r : Vector Word 8) : Option State :=
  let off := s.spillPlace place
  if (s.home.regionAt 0xFF off).any fun e => e.kind == 2 then
    match s.gvaWrite (pkgOf s.at_) 0 0xFF off (recBytes r) with
    | .ok (t, _, none) => some t
    | _ => none
  else none

/-- A record as the acting keeper reads it (R284): none if it is lost, or if its place in the spill region cannot be read. -/
def State.readRecord (s : State) (r : AnchorRec) : Option (Vector Word 8) :=
  if r.bad then none
  else if r.spilled then
    match s.gvaRead (pkgOf s.at_) 0 0xFF (s.spillPlace r.place) 64 with
    | .ok bs => some (recOf8 bs)
    | _ => none
  else some r.rec8

/-- A record of the acting keeper rewritten, in its spill region too. -/
def State.writeRecord (s : State) (key : Nat) (r : Vector Word 8) : State :=
  let t := s.modRecord key fun x => { x with rec8 := r }
  match s.keeper.record key with
  | some x => if x.spilled then (t.spillWrite x.place r).getD t else t
  | none => t

/-- A keeper's place in the store or the spill region for one record more (R284): the store holds 4,096, of which one whose anchor is done gives way; past them the lowest place of the
spill region that holds no live record. -/
def Keeper.placeFor (k : Keeper) : Option Nat :=
  if (k.anchors.filter fun r => !r.spilled && !r.freed).length < 4096 then none
  else (List.range (k.anchors.length + 1)).find? fun p => !(k.anchors.any fun r => r.spilled && !r.freed && r.place == p)

/-- The records without the one that a new record takes the place of. -/
def Keeper.vacate (k : Keeper) (place : Option Nat) : List AnchorRec :=
  match place with
  | some p => k.anchors.filter fun r => !(r.spilled && r.place == p)
  | none => if (k.anchors.filter fun r => !r.spilled).length < 4096 then k.anchors else dropFirst (fun r => !r.spilled && r.freed) k.anchors

/-- An anchor's record is done with at its storing keeper (R280, R287): its place may be taken again. -/
def State.freeAnchor (s : State) (x : Stacked) : State := s.at x.keeper fun u => u.modRecord x.key fun r => { r with freed := true }

/-- Every anchor of an ascent is discarded (R280). -/
def State.discardAll (s : State) (a : Ascent) : State :=
  ((s.keeper.anchorsOf a).foldl State.freeAnchor s).modKeeper fun k => k.modGroup a.gid fun g => { g with stack := g.stack.filter fun x => x.aid != a.aid }

/-! Requests (R280, R293). -/

/-- The reply to a request (R293) on its channel, if it names one. -/
def State.ascentReply (s : State) (m : Msg) (stat : Nat) (st : Nat) (aid : BitVec 32) (g4 g5 g6 : Word) : State :=
  let ch : BitVec 8 := m.byte 2
  if ch = 0 then s
  else s.sendOwn (fld (m.dw 3) 0 29) kReply ch m.cid [flit4 ((BitVec.ofNat 64 stat <<< 56) ||| (BitVec.ofNat 64 st <<< 48) ||| zext aid) g4 g5 g6]

/-- Microseconds left of a lifetime, whole ones (R293). -/
def Ascent.left (a : Ascent) (now : Word) : Nat := (a.life.toNat * 1000 - (now - a.born).toNat) / 1000

/-- The GSEQ that `astat` gives (R293). -/
def Keeper.statSeq (k : Keeper) (a : Ascent) : Nat :=
  match a.st, a.stranded with
  | .stranded, some g => g
  | _, _ =>
    match (k.anchorsOf a).find? fun x => x.inFlight with
    | some x => x.gseq
    | none => (((k.anchorsOf a).filter fun x => !x.skip).map (·.gseq)).foldl max 0

/-- The answer about an ascent after a request on it. -/
def State.answerOn (s : State) (m : Msg) (stat : Nat) (aid : BitVec 32) (full : Bool) : State :=
  match s.keeper.ascent aid with
  | none => s.ascentReply m stat 0 aid 0 0 0
  | some a => s.ascentReply m stat a.st.code aid (BitVec.ofNat 64 (s.keeper.depth a)) (if full then BitVec.ofNat 64 (s.keeper.statSeq a) else 0)
      (if full then BitVec.ofNat 64 (a.left s.time) else 0)

/-- A request on an ascent from core `src` (R293): of another tenant's, or none's, it is refused with STAT 0x01. `f` gives the status and the machine after
it. -/
def State.ascentEvent (s : State) (op : Instr) (full : Bool) (f : Ascent → Msg → State → Nat × State) : Host.Outcome State Fault Refusal :=
  .next (s.takes op (fun _ => true) fun m t =>
    let t := t.settle m
    let aid : BitVec 32 := fld (m.dw 1) 0 32
    match t.keeper.ascentOf m.ten aid with
    | none => t.ascentReply m 1 0 aid 0 0 0
    | some a =>
      let r := f a m t
      (r.2.modKeeper Keeper.quiet).answerOn m r.1 aid full)

/-- A free record for a new ascent (R280): the oldest terminal record, or else the oldest RETREATED one, gives way when all 512 are in use; a group whose last
record is freed is unbound. -/
def Keeper.room (k : Keeper) : Option Keeper :=
  if k.ascents.length < 512 then some k
  else
    let old := fun (p : Ascent → Bool) => (k.ascents.filter p).foldl (fun (b : Option Ascent) a => match b with
      | none => some a
      | some x => if a.order < x.order then some a else some x) none
    match (old fun a => a.st == .summited || a.st == .abandoned).or (old fun a => a.st == .retreated) with
    | none => none
    | some a =>
      let rest := k.ascents.filter fun x => x.aid != a.aid
      some { k with ascents := rest, groups := k.groups.filter fun g => rest.any fun x => x.gid == g.gid }

/-- The SEQ of a new ascent (R278): the lowest above the last one that names no record, wrapping from 65,535 to 1. -/
def Keeper.newSeq (k : Keeper) : Nat :=
  ((List.range 65535).map fun i => (k.lastSeq.toNat + i) % 65535 + 1).find? (fun q => !(k.ascents.any fun a => (fld a.aid 0 16 : BitVec 16).toNat == q)) |>.getD 1

/-- ASCENT_BEGIN_REQ (R278 to R280, R293): the home keeper allocates a record in the group of the begin word, bound to the tenant, and replies with the AID. -/
def execAscentBeginReq (s : State) : Host.Outcome State Fault Refusal :=
  .next (s.takes .ascentBeginReq (fun _ => true) fun m t =>
    let t := t.settle m
    let w := m.dw 1
    let gid : BitVec 16 := fld w 0 16
    let refuse := fun stat => t.ascentReply m stat 0 0 (m.dw 2) 0 0
    if t.keeper.groups.any fun g => g.gid == gid && g.ten != m.ten then refuse 4
    else match t.keeper.room with
      | none => refuse 3
      | some k =>
        let q := k.newSeq
        let aid : BitVec 32 := BitVec.ofNat 32 (dieOf s.at_ * 0x80000 + (fld gid 0 3 : BitVec 3).toNat * 0x10000 + q)
        let a : Ascent :=
          { aid := aid, gid := gid, st := .climbing, origin := fld (m.dw 3) 0 29, cid := m.cid, rch := fld w 16 8, life := fld w 32 24, born := s.time,
            stranded := none, order := k.nextOrder }
        let groups := if k.groups.any fun g => g.gid == gid then k.groups else k.groups ++ [{ gid := gid, ten := m.ten, nextGseq := 1, stack := [] }]
        (t.modKeeper fun _ => { k with ascents := k.ascents ++ [a], groups := groups, lastSeq := BitVec.ofNat 16 q, nextOrder := k.nextOrder + 1 }).ascentReply m 0 0 aid
          (m.dw 2) 0 0)

/-- ASCENT_SUMMIT_REQ (R280): a climbing ascent is summited and its anchors are discarded. -/
def execAscentSummitReq (s : State) : Host.Outcome State Fault Refusal :=
  s.ascentEvent .ascentSummitReq false fun a _ t =>
    if a.st = .climbing then (0, (t.discardAll a).modKeeper fun k => k.modAscent a.aid fun x => { x with st := .summited }) else (2, t)

/-- ASCENT_RETREAT_REQ (R280, R285): a climbing ascent retreats. -/
def execAscentRetreatReq (s : State) : Host.Outcome State Fault Refusal :=
  s.ascentEvent .ascentRetreatReq false fun a _ t =>
    if a.st = .climbing then (0, t.modKeeper fun k => k.modAscent a.aid fun x => { x with st := .retreating })
    else if a.st = .retreating then (0, t)
    else (2, t)

/-- The stranded anchor of an ascent, changed. -/
def Keeper.modStranded (k : Keeper) (a : Ascent) (f : Stacked → Stacked) : Keeper :=
  k.modStack a.gid fun x => if x.aid == a.aid && some x.gseq == a.stranded then f x else x

/-- A skip sets the SKIP flag of the stranded anchor's stored record (R283, R293), and is done with it. -/
def State.skipStored (s : State) (a : Ascent) : State :=
  match (s.keeper.anchorsOf a).find? fun x => some x.gseq == a.stranded with
  | none => s
  | some x => (s.at x.keeper fun u => match u.keeper.record x.key with
    | some r => u.writeRecord x.key (r.rec8.set 2 (r.rec8[2] ||| 4))
    | none => u).freeAnchor x

/-- ASCENT_RESUME_REQ (R280, R293): a stranded ascent's anchor is retried or skipped, or the ascent is abandoned. -/
def execAscentResumeReq (s : State) : Host.Outcome State Fault Refusal :=
  s.ascentEvent .ascentResumeReq false fun a m t =>
    let act := (m.byte 1).toNat
    let k := t.keeper
    let on := fun (k : Keeper) => k.modAscent a.aid fun x => { x with st := .retreating, stranded := none }
    if a.st ≠ .stranded then (2, t)
    else if act = 2 then (0, (t.discardAll a).modKeeper fun k => k.modAscent a.aid fun x => { x with st := .abandoned, stranded := none })
    else if act = 1 then (0, (t.skipStored a).modKeeper fun k => on (k.modStranded a fun x => { x with skip := true }))
    else if (k.anchorsOf a).any fun x => some x.gseq == a.stranded && decide (15 ≤ x.rtry) then (5, t)
    else (0, t.modKeeper fun k => on (k.modStranded a fun x => { x with rtry := x.rtry + 1 }))

/-- ASCENT_STAT_REQ (R293). -/
def execAscentStatReq (s : State) : Host.Outcome State Fault Refusal := s.ascentEvent .ascentStatReq true fun _ _ t => (0, t)

/-- ASCENT_LIFETIME (R280, R285): climbing ascents whose lifetime is reached retreat. -/
def execAscentLifetime (s : State) : Host.Outcome State Fault Refusal :=
  .next (s.modKeeper fun k => (k.mapAscents fun a =>
    if a.st == .climbing && a.life != 0 && decide (a.life.toNat * 1000 ≤ (s.time - a.born).toNat) then { a with st := .retreating } else a).quiet)

/-! Anchors (R282 to R284). -/

/-- The header of a message as it stands in a stamp request. -/
def hdrOf (f : Strip) : BitVec 128 := fld f 0 128

/-- The record of a pushed anchor (R283), not yet stamped. -/
def Msg.anchor (m : Msg) : Vector Word 8 := Vector.ofFn fun i => m.dw i.val

/-- ANCHOR_PUSH (R282, R284): the local keeper stores the anchor of core `src`, in its spill region where its store is full, and sends a stamp request to the home
keeper. It says in the request if it cannot keep the record. The push is settled when the stamp returns. -/
def execAnchorPush (s : State) : Host.Outcome State Fault Refusal :=
  .next (s.takes .anchorPush (fun _ => true) fun m t =>
    let place := t.keeper.placeFor
    let kept := match place with
      | some p => t.spillWrite p m.anchor
      | none => some t
    let key := t.keeper.nextKey
    let aid : BitVec 32 := fld (m.dw 0) 32 32
    let r : AnchorRec := { key := key, rec8 := m.anchor, stamped := false, spilled := place.isSome, place := place.getD 0, freed := false, bad := kept.isNone, push := m.hdr }
    let u := (kept.getD t).modKeeper fun k => { k with nextKey := key + 1, anchors := k.vacate place ++ [r] }
    u.leaveOwn { OutItem.own (.uni (u.keeperOf aid) kSystem 12 0
      [flit4 (BitVec.ofNat 64 1 ||| (boolWord kept.isNone <<< 8)) (zext aid) (BitVec.ofNat 64 key) (zext s.at_), zext256 m.hdr]) m.cid with who := .stamp key })
where
  zext256 (h : BitVec 128) : Strip := h.setWidth 256

/-- A stamp returns to the storing keeper: 0 refused, 1 stamped, 2 stamped LATE, 3 discarded; with key and GSEQ. -/
def State.stampBack (s : State) (m : Msg) (kind gseq : Nat) : State :=
  s.sendOwn (fld (m.dw 3) 0 29) kSystem 12 m.cid [flit4 (BitVec.ofNat 64 (7 + 256 * kind)) (BitVec.ofNat 64 gseq) (m.dw 2) 0]

/-- A refused push (R283): its NACK goes to the pitch's core, the storing keeper drops the record, and a climbing ascent retreats. -/
def State.refusePush (s : State) (m : Msg) (aid : BitVec 32) : State :=
  let push : Msg := { hdr := hdrOf (m.flit 1), aword := 0, pay := [], pool := 0, sys := true }
  ((s.nack push cPlacement (zext aid)).stampBack m 0 0).modKeeper fun k => (k.mapAscents fun a =>
    if a.aid == aid && cidTen a.cid == m.ten && a.st == .climbing then { a with st := .retreating } else a).quiet

/-- ANCHOR_STAMP (R280, R282, R283): the home keeper gives the next anchor of storing keeper `src` the group's next GSEQ, discards it, or refuses the push. -/
def execAnchorStamp (s : State) : Host.Outcome State Fault Refusal :=
  .next (s.takes .anchorStamp (fun _ => true) fun m t =>
    let t := t.settle m
    let aid : BitVec 32 := fld (m.dw 1) 0 32
    match t.keeper.ascentOf m.ten aid with
    | none => t.refusePush m aid
    | some a =>
      if a.st = .summited ∨ a.st = .abandoned then t.stampBack m 3 0
      else
        match t.keeper.groups.find? fun g => g.gid == a.gid with
        | none => t.refusePush m aid
        | some g =>
          if bit (m.dw 0) 8 ∨ 65535 ≤ t.keeper.depth a ∨ 2 ^ 32 - 1 < g.nextGseq then t.refusePush m aid
          else
            let late := a.st != .climbing
            let x : Stacked := { gseq := g.nextGseq, aid := aid, keeper := m.src, key := (m.dw 2).toNat, late := late, ran := false, skip := false, rtry := 0, inFlight := false }
            (t.modKeeper fun k => (k.modGroup a.gid fun g => { g with nextGseq := g.nextGseq + 1, stack := g.stack ++ [x] }).modAscent aid fun y =>
              if y.st = .retreated then { y with st := .retreating } else y).stampBack m (if late then 2 else 1) g.nextGseq)

/-- A stamped record (R283): GSEQ, and LATE. -/
def stamped (r : Vector Word 8) (gseq : Nat) (late : Bool) : Vector Word 8 :=
  (r.set 0 (setFld (r[0]) 0 (BitVec.ofNat 32 gseq))).set 2 (if late then r[2] ||| 2 else r[2])

/-- STAMP_RETURN (R282): the storing keeper writes the GSEQ that the home keeper returns into the record, and the push is settled; with the record of a refused or
discarded push it is done. -/
def execStampReturn (s : State) : Host.Outcome State Fault Refusal :=
  .next (s.takes .stampReturn (fun _ => true) fun m t =>
    let t := t.settle m
    let key := (m.dw 2).toNat
    let kind := (m.byte 1).toNat
    match t.keeper.record key with
    | none => t
    | some r =>
      let done := fun (u : State) => u.settle { hdr := r.push, aword := 0, pay := [], pool := 0, sys := true }
      let free := t.modRecord key fun x => { x with freed := true }
      if kind = 0 then free
      else if kind = 3 then done free
      else done ((t.writeRecord key (stamped r.rec8 (m.dw 1).toNat (kind == 2))).modRecord key fun x => { x with stamped := true }))

/-! Retreat (R286 to R289). -/

/-- The COMPFAIL record (R289): the anchor's CH and CID, the home keeper as CORE and TGT as SRC, and of the failing activation PC, FADDR with its place, IMGID,
GEN, SLOT and ASEQ, all zero when none ran. -/
def State.compfail (s : State) (a : Ascent) (anchor : Vector Word 8) (gseq : Nat) (r : Vector Word 8) : Vector Word 8 :=
  let cid : BitVec 16 := fld anchor[2] 32 16
  #v[(zext cCompFail <<< 56) ||| (zext (fld anchor[2] 56 8) <<< 32) ||| (zext cid <<< 16) ||| zext (fld r[0] 0 15),
     zext (fld r[1] 0 48),
     (zext s.at_ <<< 32) ||| (zext (fld r[2] 29 2) <<< 29) ||| zext (fld anchor[1] 0 29),
     r[3],
     (r[4] &&& 0x21FF) ||| 0x200,
     (zext a.aid <<< 32) ||| BitVec.ofNat 64 gseq,
     s.time,
     r[7]]

/-- A compensation has failed (R289): the ascent is STRANDED, the anchor stays pending, and the COMPFAIL record goes to the origin core on channel 251, with RCH
in a third flit, and to supervisor core 0 of the home keeper's die. -/
def State.strand (s : State) (aid : BitVec 32) (gseq : Nat) (anchor r : Vector Word 8) : State :=
  match s.keeper.ascent aid with
  | none => s
  | some a =>
    let t := s.modKeeper fun k => (k.modStack a.gid fun x => if x.aid == aid && x.gseq == gseq then { x with inFlight := false } else x).modAscent aid fun x =>
      { x with st := .stranded, stranded := some gseq }
    let rec8 := s.compfail a anchor gseq r
    let cid : BitVec 16 := fld anchor[2] 32 16
    (t.sendOwn a.origin kSystem 251 cid (recFlits rec8 ++ [zext256 a.rch])).sendOwn (t.standIn (supervisor0 (pkgOf s.at_) (dieOf s.at_))) kSystem 249 cid (recFlits rec8)
where
  zext256 (b : BitVec 8) : Strip := b.setWidth 256

/-- No record: the doublewords of a failing activation that never ran. -/
def noRecord : Vector Word 8 := Vector.replicate 8 0

/-- What stands for the record of an anchor that its keeper has lost: the containment ID of its ascent. -/
def Keeper.lost (k : Keeper) (aid : BitVec 32) : Vector Word 8 :=
  noRecord.set 2 (match k.ascent aid with
    | some a => zext a.cid <<< 32
    | none => 0)

/-- The anchor that a group runs next (R286): the pending one of highest GSEQ among the ascents that retreat. -/
def Keeper.nextAnchor (k : Keeper) (gid : BitVec 16) : Option Stacked :=
  if (k.stack gid).any fun x => x.inFlight then none
  else ((k.stack gid).filter fun x => !x.skip && k.ascents.any fun a => a.aid == x.aid && a.st == .retreating).foldl (fun (b : Option Stacked) x => match b with
    | none => some x
    | some y => if y.gseq < x.gseq then some x else some y) none

/-- The ascent that has overtaken an anchor (R288): the one that holds the lowest live GSEQ above it. -/
def Keeper.overtaker (k : Keeper) (gid : BitVec 16) (x : Stacked) : Option (BitVec 32) :=
  (((k.stack gid).filter fun y => y.aid != x.aid && !y.ran && decide (x.gseq < y.gseq)).foldl (fun (b : Option Stacked) y => match b with
    | none => some y
    | some z => if y.gseq < z.gseq then some y else some z) none).map (·.aid)

/-- The record as it is sent (R283, R287, R288): RTRY, RUN, and OVT with OVID. -/
def sentRecord (r : Vector Word 8) (rtry : Nat) (ov : Option (BitVec 32)) : Vector Word 8 :=
  let d2 := setFld (setFld (r[2] ||| 8) 4 (BitVec.ofNat 4 rtry)) 0 (BitVec.ofBool ov.isSome)
  (r.set 1 (setFld (r[1]) 32 (ov.getD 0))).set 2 d2

/-- The record of a stamped anchor at its storing keeper, if the keeper is there. -/
def State.storedAnchor (s : State) (x : Stacked) : Option AnchorRec :=
  let c := s.core x.keeper
  if c.present then c.eng.keeper.record x.key else none

/-- ANCHOR_SEND (R286 to R288): with no compensation in flight in group `idx`, the home keeper fetches the record of the anchor to run from its storing keeper
and sends it as a call; a record that cannot be read strands the ascent. The fetch follows the anchor's stamp return on their pair (R178), so it waits for that; it takes no step of its
own (DESIGN CHOICE, log entry 37). -/
def execAnchorSend (s : State) : Host.Outcome State Fault Refusal :=
  let gid := BitVec.ofNat 16 s.ev.idx
  .next (match s.keeper.nextAnchor gid with
  | none => s
  | some x => match s.storedAnchor x with
    | none => s.strand x.aid x.gseq (s.keeper.lost x.aid) noRecord
    | some r =>
      if !r.stamped then s
      else match (s.focus x.keeper).readRecord r with
      | none => s.strand x.aid x.gseq r.rec8 noRecord
      | some d =>
        let rec8 := sentRecord d x.rtry (s.keeper.overtaker gid x)
        let t := s.at x.keeper fun u => (if r.spilled then u.seeRead (pkgOf u.at_) 0 0xFF (u.spillPlace r.place) 64 else u).writeRecord x.key rec8
        let t := t.modKeeper fun k => k.modStack gid fun y => if y.gseq == x.gseq then { y with ran := true, inFlight := true } else y
        t.leaveOwn { OutItem.own (.uni (fld rec8[1] 0 29) kCall (fld rec8[2] 56 8) 0 [flit4 rec8[4] rec8[5] rec8[6] rec8[7], flit4 rec8[0] rec8[1] rec8[2] rec8[3]])
          (fld rec8[2] 32 16) with a := true, aword := x.aid, who := .comp gid x.gseq })

/-- The compensation in flight of an ascent. -/
def Keeper.running (k : Keeper) (aid : BitVec 32) : Option Stacked :=
  match k.ascent aid with
  | none => none
  | some a => (k.anchorsOf a).find? fun x => x.inFlight

/-- END_NOTICE (R287): the compensation of core `src` has ended; its anchor has run to completion. -/
def execEndNotice (s : State) : Host.Outcome State Fault Refusal :=
  .next (s.takes .endNotice (fun _ => true) fun m t =>
    let t := t.settle m
    match t.keeper.running m.aword with
    | none => t
    | some x =>
      (t.freeAnchor x).modKeeper fun k => (k.mapStacks fun l => l.filter fun y =>
        !(y.aid == x.aid && y.gseq == x.gseq)).quiet)

/-- The record of the anchor in flight. -/
def State.anchorRec (s : State) (x : Stacked) : Vector Word 8 :=
  match s.storedAnchor x with
  | some r => r.rec8
  | none => s.keeper.lost x.aid

/-- FAILURE_NOTICE (R287, R289): the compensation of core `src` has failed with the trap record that the notice holds. -/
def execFailureNotice (s : State) : Host.Outcome State Fault Refusal :=
  .next (s.takes .failureNotice (fun _ => true) fun m t =>
    let t := t.settle m
    match t.keeper.running m.aword with
    | none => t
    | some x => t.strand x.aid x.gseq (t.anchorRec x) (Msg.anchor m))

end Sys2Proof.Machine
end

