-- ==== Sys2Proof/Machine/Supervise.lean ====
section
/-! DEFINITION. What a supervisor core does (R222): following revocations (R315), time slices (R355), quarantine (R257 to R259) and spare engines (R260). -/

namespace Sys2Proof.Machine

/-- The compute cores of a supervisor's quarter of its die (R242): eight rows. -/
def quarterCores (a : CoreAddr) : List CoreAddr := rectangle (mkAddr (pkgOf a) (dieOf a) (8 * (2 * (yOf a - 62) + (xOf a - 39))) 0) 48 8

/-- The engine cores of a supervisor's quarter (R242): twelve columns. -/
def quarterEngines (a : CoreAddr) : List CoreAddr := rectangle (mkAddr (pkgOf a) (dieOf a) 62 (12 * (2 * (yOf a - 62) + (xOf a - 39)))) 12 2

/-- The supervisors whose work the acting supervisor does: its own, and that of the absent ones that it stands in for (R260). -/
def State.quarters (s : State) : List CoreAddr := (roleMates s.at_).filter fun b => s.standIn b == s.at_

/-- The compute cores that the acting supervisor serves. -/
def State.servedCores (s : State) : List CoreAddr := s.quarters.flatMap quarterCores

/-- Every core that the acting supervisor serves. -/
def State.served (s : State) : List CoreAddr := s.quarters.flatMap fun q => quarterCores q ++ quarterEngines q

/-- Whether the acting core is the supervisor that serves a core. -/
def State.serves (s : State) (a : CoreAddr) : Bool := isSupervisor s.at_ && s.standIn (supervisorOf a) == s.at_

/-! Revocation (R314, R315, R246). -/

/-- An image-table entry that holds an image at a lower generation. -/
def Core.outdated (c : Core) (id : BitVec 32) (gen : BitVec 16) : Option (Fin 8) :=
  (List.finRange 8).find? fun n => match c.images[n] with
    | some i => i.id == id && decide (i.gen.toNat < gen.toNat)
    | none => false

/-- A handler table with the entries that `hit` selects pointed at the image in entry `n`: ISLOT, ENTRY from its binding for the same channel, and X clear (R154, R315). -/
def rebind (hit : Nat × Word → Bool) (n : Fin 8) (binds : List (BitVec 8 × BitVec 15)) (hs : List (Nat × Word)) : List (Nat × Word) :=
  hs.map fun h =>
    if hit h && bit h.2 63 then
      match binds.find? fun b => b.1.toNat == h.1 with
      | some b => (h.1, setFld (setFld (setFld h.2 29 (BitVec.ofNat 3 n.val)) 14 b.2) 62 0#1)
      | none => h
    else h

/-- Every lessee's entries that `hit` selects pointed at the image in entry `n`. -/
def Core.rebindAll (c : Core) (hit : Nat × Word → Bool) (n : Fin 8) : Core :=
  let binds := ((c.images[n]).map (·.binds)).getD []
  let fix := fun (l : Lessee) => { l with handlers := rebind hit n binds l.handlers }
  { c with live := fix c.live, saved := c.saved.map fun v => { v with lessee := fix v.lessee } }

/-- An image resident at the acting core: as it stands, or loaded where a free entry and span are or can be made (R312, R313); which of the unused images gives way is R164's rule. -/
def State.bring (s : State) (img : List Byte) : Option (Fin 8) × State := initialised <|
  match s.here.resident (headId img) (headGen img) with
  | some n => (some n, s)
  | none => if s.mayLoad img then s.fitImage [] img 9 else (none, s)

/-- An image dropped if nothing runs on it and no valid entry names it (R313). -/
def Core.dropUnused (c : Core) (n : Fin 8) : Core := if c.imageInUse n then c else c.dropImage n

/-- R315 at one core: the successor is loaded, every lessee's entries of the stale image are rewritten, and the stale image is evicted as soon as nothing runs on it. -/
def State.succeed (s : State) (img : List Byte) (old : Fin 8) : State :=
  match s.bring img with
  | (none, t) => t
  | (some n, t) => { t with here := (t.here.rebindAll (fun h => entryImg h.2 == old) n).dropUnused old }

/-- The cores that the acting supervisor serves and that hold an image at a lower generation. -/
def State.affected (s : State) (id : BitVec 32) (gen : BitVec 16) : List (CoreAddr × Fin 8) :=
  s.served.filterMap fun a => ((s.core a).outdated id gen).map fun n => (a, n)

/-- The sealed image that the IGT shows for an ID, if its SUCC says that there is one (R307, R314). -/
def Package.successor (k : Package) (id : BitVec 32) : Option Sealed :=
  let e := k.igtEntry id
  if bit e 62 then k.plodan.find? fun p => p.src.id == id && p.src.gen == fld e 32 16 else none

/-- A record that waits for its handler's image (R246): one on channel 249, or on its tenant's TCH at a trap core. -/
def Core.recordChannel (c : Core) (a : CoreAddr) (ch : Nat) : Bool :=
  ch == 249 || (ch == c.regs.tch.toNat && c.regs.tch != 0 && c.regs.trapCore.toList.contains (some a))

/-- The records that a core holds for an image: those queued on a channel whose valid entry holds its messages (R154, R246). -/
def Core.heldRecords (c : Core) (a : CoreAddr) : List (Nat × Msg) :=
  (c.net.queues.filter fun q => c.recordChannel a q.1 && bit (c.entry (BitVec.ofNat 8 q.1)) 63 && c.held (c.entry (BitVec.ofNat 8 q.1))).flatMap fun q =>
    (q.2.filter fun e => !e.running).map fun e => (q.1, e.msg)

/-- The REVOKED record of an image that a core held (R246): a DOUBLE record with NEST REVOKED, whose ORIG is the cause of the record that the core holds for it. -/
def State.revokedRecord (s : State) (i : ImgEntry) (orig : Cause) : Record :=
  { cause := cDouble, orig := orig, nest := cRevoked, ch := 0, cid := i.ten ++ 0#4, pc := 0, gen := i.gen, imgid := i.id, core := s.at_, slot := 0, src := s.at_, faddr := 0,
    imem := false, lost := false, paired := false, redel := false, async := true, near := false, fspace := 0,
    value := Config.info cRevoked (zext i.id) s.time, time := s.time, aseq := 0 }

/-- The REVOKED record goes to the host physical function and, with error escalation assisted, to the tenant's VF trap ring (R246, R355). R246 names the ring without a mode, and R355 gives
it the record in host-assisted mode alone (DEDUCED, log entry 70). -/
def State.reportRevoked (s : State) (i : ImgEntry) (orig : Cause) : State :=
  let r := (s.revokedRecord i orig).pack
  let t := s.modHome fun k => k.modFn 0 fun f => f.ring 0 r s.time k.downUntil
  match t.home.vfOf i.ten with
  | some (n, _) => if s.home.assisted i.ten 42 then t.modHome fun k => k.modFn n fun f => f.ring n r s.time k.downUntil else t
  | none => t

/-- The IGT shows an ID revoked with no successor (R246, R315): SUCC is 0. -/
def Package.noSuccessor (k : Package) (id : BitVec 32) : Bool := !bit (k.igtEntry id) 62

/-- A record that a core holds on an image revoked with no successor is reported once, and stays held (R246). -/
def State.reportHeld (s : State) (c : Core) (h : Nat × Msg) : State :=
  match c.images[entryImg (c.entry (BitVec.ofNat 8 h.1))] with
  | none => s
  | some i => if i.stale && s.home.noSuccessor i.id && !s.here.eng.reports.contains h.2 then (s.reportRevoked i (h.2.byte 7)).keepReport h.2 else s

/-- The current image of a tenant that binds a channel, for a record whose handler's image is not resident (R246; the entry names no image then: DEDUCED, log entry 70). -/
def Package.bindsTo (k : Package) (ten : BitVec 12) (ch : Nat) : Option Sealed :=
  k.plodan.find? fun p => p.src.ten == ten && p.src.binds.any (fun b => b.ch == ch) && igtPasses (k.igtEntry p.src.id) p.src.id p.src.gen

/-- A record whose handler's image is not resident: the image is installed (R246). -/
def State.installFor (s : State) (h : Nat × Msg) : State :=
  match s.here.images[entryImg (s.here.entry (BitVec.ofNat 8 h.1))], s.home.bindsTo s.here.regs.lessee h.1 with
  | none, some p => (match s.bring p.bytes with
    | (some n, t) => { t with here := t.here.rebindAll (fun e => e.1 == h.1) n }
    | (none, t) => t)
  | _, _ => s

/-- The held records of one core: each is reported, or its image installed. -/
def State.tendRecords (s : State) (a : CoreAddr) : State :=
  let c := s.core a
  (c.heldRecords a).foldl (fun t h => (t.reportHeld c h).at a fun u => u.installFor h) s

/-- A kept notice gone through again (R315): at every core that still holds the image at a lower generation the successor is installed; when none is left, the notice is done with. -/
def State.tendNotice (s : State) (m : Msg) : State :=
  let id : BitVec 32 := fld (m.dw 0) 0 32
  let gen : BitVec 16 := fld (m.dw 0) 32 16
  let hits := s.affected id gen
  let t := match s.home.successor id with
    | none => s
    | some p => hits.foldl (fun (t : State) (h : CoreAddr × Fin 8) => t.at h.1 fun u => u.succeed p.bytes h.2) s
  if (t.affected id gen).isEmpty then t.modEng fun e => { e with reports := e.reports.filter (· != m) } else t

/-- The notices that a supervisor keeps. -/
def Engine.notices (e : Engine) : List Msg := e.reports.filter fun m => m.ch == 5

/-- A supervisor's own part of R315 and R246: its notices, and the records that its cores hold. -/
def State.tend (s : State) : State := s.served.foldl State.tendRecords (s.here.eng.notices.foldl State.tendNotice s)

/-- A supervisor follows a notice (R315). With SUCC = 0 it reports the revocation once: by a record for each record that its cores hold for the image, or, where none is held, by one
whose ORIG is zero (DEDUCED, log entry 70). A translation takes one event of the model, so none is under way. With SUCC = 1 the notice is kept until Plodan has the successor. -/
def State.followNotice (s : State) (m : Msg) : State :=
  let id : BitVec 32 := fld (m.dw 0) 0 32
  let t := s.keepReport m
  match s.affected id (fld (m.dw 0) 32 16), s.home.noSuccessor id with
  | (a, n) :: rest, true =>
    let held := ((a, n) :: rest).any fun (h : CoreAddr × Fin 8) => ((s.core h.1).heldRecords h.1).any fun (r : Nat × Msg) => entryImg ((s.core h.1).entry (BitVec.ofNat 8 r.1)) == h.2
    (match held, (s.core a).images[n] with
    | false, some i => t.reportRevoked i 0
    | _, _ => t).tend
  | _, _ => t.tend

/-- IMGREV_NOTICE (R314, R315): a compute core's channel-5 handler takes its oldest notice; at an engine core the notice of core `src` is taken as it arrives, and
a supervisor follows it. With `flag` a supervisor goes through the notices that it follows, and the records that its cores hold, again. -/
def execImgrevNotice (s : State) : Host.Outcome State Fault Refusal :=
  .next (if isEngine s.at_ then
      if s.ev.flag then (if isSupervisor s.at_ then s.tend else s)
      else s.takes .imgrevNotice (fun _ => true) fun m t =>
        let u := (t.settle m).markStale m
        if isSupervisor s.at_ then u.followNotice m else u
    else match s.vendorMsg 5 with
    | none => s
    | some m => (s.takeQueued 5).markStale m)

/-! Time slices (R355). -/

/-- The payload of a PREEMPT (R251): the incoming tenant, or bit 16 for none. -/
def preemptFlit (ten : BitVec 12) : Strip := flit4 (zext ten ||| (boolWord (ten == 0) <<< 16)) 0 0 0

/-- TIME_SLICE_QUANTUM (R355): the quantum of function `idx` expires, and the supervisor sends a PREEMPT for tenant `w` to each core it serves that is leased to
the function's tenant; with time-slicing assisted it sends none. -/
def execTimeSliceQuantum (s : State) : Host.Outcome State Fault Refusal :=
  .next (match look s.home.funcs s.ev.idx with
  | none => s
  | some f =>
    if !isSupervisor s.at_ || !f.valid || bit (f.rec16[0]) 40 then s
    else (s.servedCores.filter fun a => (s.core a).regs.lessee == fld (f.rec16[0]) 0 12).foldl
      (fun t a => t.sendOwn a kSystem 1 0 [preemptFlit (fld s.ev.w 0 12)]) s)

/-! Regions of the placement table, changed (R195, R198). -/

/-- A core of the package that is there, to be told of a shootdown. -/
def State.told (s : State) : List CoreAddr := (packageCores (pkgOf s.at_)).filter fun a => (s.core a).present

/-- A shootdown of an entry at every core and engine of the package (R198, R320), with the acknowledgements to come. -/
def State.shootdown (s : State) (e : RptEntry) : State :=
  (s.told.foldl (fun t d => t.resumePacket d 2 0 0 e.flit) s).modHome fun k => k.shoot e s.told

/-- Every acknowledgement of a region's shootdown is in (R198). -/
def Package.quietOn (k : Package) (e : RptEntry) : Bool := !(k.shots.any fun x => x.1 == e.space && x.2.1 == e.base)

/-- An entry with MOV set. -/
def RptEntry.stop (e : RptEntry) : RptEntry := { e with mov := true }

/-- An entry with its PGEN raised. -/
def RptEntry.raise (e : RptEntry) : RptEntry := { e with pgen := e.pgen + 1 }

/-- A region of the table replaced. -/
def Package.place (k : Package) (e : RptEntry) : Package := { k with rpt := k.rpt.map fun x => if x.same e then e else x }

/-- The faults that the acting supervisor holds by MOV are answered, as far as MOV is clear now (R197, R248). -/
def State.releaseOwn (s : State) : State :=
  let held := fun (m : Msg) => m.ch == 10 && (m.fault.kind == 1 || m.fault.kind == 2)
  (s.here.eng.reports.filter held).foldl (fun t m => match t.answerFault m.fault with
    | some u => u.modEng fun e => { e with reports := dropFirst (· == m) e.reports }
    | none => t) s

/-- The supervisors of a package that are there. -/
def State.supervisors (s : State) : List CoreAddr :=
  ((List.range 8).flatMap fun d => roleMates (supervisor0 (pkgOf s.at_) d)).filter fun a => (s.core a).present

/-- Every supervisor of the package answers the faults that it holds by MOV: each core's faults lie with its own supervisor (R197, R247). -/
def State.releaseFaults (s : State) : State := s.supervisors.foldl (fun t a => t.at a State.releaseOwn) s

/-! Quarantine (R258, R259). -/

/-- The logical cores from one to the last of its row. -/
def rowFrom (a : CoreAddr) : List CoreAddr := (List.range (48 - xOf a)).map fun i => mkAddr (pkgOf a) (dieOf a) (yOf a) (xOf a + i)

/-- Row of a die as one number. -/
def rowNo (a : CoreAddr) : Nat := dieOf a * 32 + yOf a

/-- The last logical core of a row. -/
def rowEnd (a : CoreAddr) : CoreAddr := mkAddr (pkgOf a) (dieOf a) (yOf a) 47

/-- The machine with something done to each of some cores. -/
def State.modCores (s : State) (l : List CoreAddr) (f : Core → Core) : State := l.foldl (fun t a => t.modCore a f) s

/-- A region with a home in a part of a row. -/
def RptEntry.inRow (e : RptEntry) (row : List CoreAddr) : Bool := e.homes.any row.contains

/-- The reports of uncorrectable errors in a core are answered by what the supervisor does (R257). -/
def State.dropReports (s : State) (a : CoreAddr) : State :=
  s.modEng fun e => { e with reports := e.reports.filter fun m => !(m.ch == 10 && m.fault.kind == 4 && m.fault.req == a) }

/-- Step 1 of R258: MOV on the regions with a home in the failed part of the row, and their shootdown. -/
def State.beginQuarantine (s : State) (a : CoreAddr) : State :=
  let hit := (s.home.rpt.filter fun e => e.inRow (rowFrom a)).map RptEntry.stop
  hit.foldl State.shootdown ((s.dropReports a).modHome fun k => { hit.foldl Package.place k with moving := k.moving ++ [a] })

/-- Step 2 of R258, once step 1 is complete: no more dispatch in that part of the row. The commands that the failed core has queued are lost (R193) in
this step, and those that enter its queue behind it drain (DESIGN CHOICE, log entry 68). -/
def State.freezeRow (s : State) (a : CoreAddr) : State :=
  (s.modCores (rowFrom a) fun c => { c with frozen := true }).modCore a fun c =>
    { c with mx := { c.mx with queue := [], q := c.mx.q.map fun q => { q with locks := 0 } } }

/-- A core at rest: no activation, and nothing in its matrix queue or transducer unit (R258 step 2). -/
def Core.atRest (c : Core) : Bool := (c.acts.toList.all fun a => !a.busy) && c.mx.queue.isEmpty && c.mx.dxUnit.isNone

/-- Local memory moved verbatim, with the granules whose data was lost marked poisoned (R258). -/
def LocalMem.salvage (m : LocalMem) : LocalMem := { m with poison := m.bad.foldl insertNat m.poison, bad := [] }

/-- A halfword of instruction memory lies in an image's extent. -/
def ImgEntry.holds (i : ImgEntry) (h : Nat) : Bool := decide (i.base.toNat ≤ 2 * h) && decide (2 * h < i.base.toNat + i.xlen.toNat)

/-- The resident images moved: one with an uncorrectable error in its extent is lost, and the supervisor installs it again, unless an activation runs on it (R47), which then consumes the
error (DESIGN CHOICE, log entry 68: the rule has resident images moved and says nothing of a lost one). -/
def Core.salvageImages (c : Core) : Core :=
  let runs := fun (n : Fin 8) => c.acts.toList.any fun a => a.busy && entryImg a.entry == n
  let hurt := fun (n : Fin 8) => (c.images[n]).any fun i => c.imemBad.any i.holds
  let kept := fun (h : Nat) => (List.finRange 8).any fun n => runs n && (c.images[n]).any fun i => i.holds h
  { ((List.finRange 8).filter fun n => hurt n && !runs n).foldl (fun c n => c.dropImage n) c with imemBad := c.imemBad.filter kept }

/-- The failed core in its new place (R193, R258): its lessee state, `rope` among it, starts at zero, and words that it wrote earlier return no credit to it (R186). -/
def Core.replaced (c : Core) : Core :=
  { c.salvageImages with mx := Matrix.zero, links := Vector.replicate 4 Link.reset, leaseNo := c.leaseNo + 1, mem := c.mem.salvage }

/-- The failed core replaced: its lessee state is not moved, so the links' counts and words towards it are gone at its neighbours too, as at a lease change (R186, R258). -/
def State.replace (s : State) (a : CoreAddr) : State := s.at a fun t => (List.finRange 4).foldl State.cutLink { t with here := t.here.replaced }

/-- Steps 3 to 5 of R258, or R259 when the row's spare column is in use: then logical column 47 is absent. A region that still has a home there stays held. Every other logical core keeps
its state. -/
def State.endQuarantine (s : State) (a : CoreAddr) : State :=
  let row := rowFrom a
  let used := (look s.home.rowsUsed (rowNo a)).isSome
  let last := rowEnd a
  let clear := fun (e : RptEntry) => e.mov && e.inRow row && !(used && e.homes.contains last) && !(s.home.slides.any fun x => x.region.same e)
  let others := s.home.moving.filter (· != a)
  let t := (s.replace a).modCores (row.filter fun c => !(others.any fun b => (rowFrom b).contains c)) fun c => { c with frozen := false }
  let t := if used then t.modCore last fun c => { c with present := false } else t
  let t := t.modHome fun k => { k with
    rpt := k.rpt.map fun e => if clear e then { e.raise with mov := false } else e
    rowsUsed := if used then k.rowsUsed else put k.rowsUsed (rowNo a) (xOf a)
    absent := if used then insertNat k.absent last.toNat else k.absent
    moving := others }
  (t.dropReports a).releaseFaults

/-! Spare engines (R260). -/

/-- The spare places of a die (R222). -/
def sparesOf (pkg die : Nat) : List CoreAddr :=
  (if die = 0 then [] else [mkAddr pkg die 62 43]) ++ [mkAddr pkg die 63 43, mkAddr pkg die 62 44, mkAddr pkg die 62 45, mkAddr pkg die 63 44, mkAddr pkg die 63 45,
    mkAddr pkg die 63 46, mkAddr pkg die 63 47]

/-- The spares that are free: neither mapped nor failed. A failed one is mapped to itself. -/
def Package.freeSpares (k : Package) (a : CoreAddr) : List CoreAddr :=
  (sparesOf (pkgOf a) (dieOf a)).filter fun p => p != a && !(k.engMap.any fun e => e.2 == p.toNat)

/-- The engine map with a role in a new place; the spare that it stood in before has failed. -/
def Package.mapEngine (k : Package) (a p : CoreAddr) : Package :=
  let m := match look k.engMap a.toNat with
    | some old => put k.engMap old old
    | none => k.engMap
  { k with engMap := put m a.toNat p.toNat }

/-- A copy command that the failed engine had accepted ends with CLASS 0x13 and UNIT 3 (R232, R260), once its requests are settled. -/
def CopyCmd.abort (c : CopyCmd) : CopyCmd := { c with started := true, halted := true, fail := some (cEccu, 3, 0) }

/-- The collectives and launches that a failed engine had accepted end (R260): STAT 0x02, and failed in the journal. -/
def State.endCommands (s : State) : State :=
  let t := s.here.eng.colls.foldl (fun t c => (t.endParts c).collDone c 0x02 0) (s.modEng fun e => { e with colls := [] })
  (t.here.eng.launches.foldl State.failLaunch t).modEng fun e => { e with launches := e.launches.map fun l => { l with failed := true } }

/-- The anchor records of some keys are lost (R260): they cannot be read any more. -/
def Keeper.lose (k : Keeper) (keys : List Nat) : Keeper := { k with anchors := k.anchors.map fun r => if keys.contains r.key then { r with bad := true } else r }

/-- The failed engine in its spare's place (R260): what it had accepted ends, and its memory, queues and, at a keeper, its anchor store have moved. The keys of the anchor records that
were lost come with the failure, in the event's bytes as doublewords. -/
def State.endWork (s : State) : State :=
  let t := s.endCommands.modEng fun e => { e with copies := e.copies.map CopyCmd.abort, members := e.members.map CopyCmd.abort, keeper := e.keeper.lose ((List.range (s.ev.bytes.length / 8)).map fun i => (headDw s.ev.bytes i).toNat) }
  { t with here := { t.here.salvageImages with mem := t.here.mem.salvage } }

/-- Keeper records joined to another keeper's. An absent keeper's anchor store cannot be read (R260). -/
def Keeper.adopt (k l : Keeper) : Keeper :=
  { k with ascents := k.ascents ++ l.ascents, groups := k.groups ++ l.groups, nextOrder := max k.nextOrder l.nextOrder }

/-- The work of an absent engine assigned to another of its role (R260): a keeper's ascents and groups, collective groups, kept reports, and trace records. -/
def Engine.adopt (e f : Engine) : Engine :=
  { e with keeper := e.keeper.adopt f.keeper, groups := e.groups ++ f.groups.filter (fun g => !(e.groups.any fun h => h.gid == g.gid)), reports := e.reports ++ f.reports,
           trace := { e.trace with buf := e.trace.buf ++ f.trace.buf, passed := e.trace.passed ++ f.trace.passed } }

/-- A role with no spare left (R260): the copy commands that the failed engine had accepted end first, each once its requests are settled (R224, R232). -/
def State.endCopies (s : State) (a : CoreAddr) : State := s.at a fun t => t.modEng fun e => { e with copies := e.copies.map CopyCmd.abort }

/-- Then the engine is absent, what else it had accepted ends, and another engine of its role takes its work (R260). -/
def State.loseEngine (s : State) (a : CoreAddr) : State :=
  let e := (s.core a).eng
  let t := (s.at a State.endCommands).modHome fun k => { k with absent := insertNat k.absent a.toNat }
  let t := t.modCore a fun c => { c with present := false, eng := Engine.reset }
  let b := t.standIn a
  if b = a then t else t.modCore b fun c => { c with eng := c.eng.adopt e }

/-- ENGINE_SPARE_REPLACE (R260): failed engine `src` of the supervisor's die is replaced by the first free spare, whose place the engine map keeps; with none, the
role is absent once its copy commands have ended. -/
def execEngineSpareReplace (s : State) : Host.Outcome State Fault Refusal :=
  let a := s.ev.src
  .next (if !(isSupervisor s.at_ && isEngine a && pkgOf a == pkgOf s.at_ && dieOf a == dieOf s.at_) || s.home.absent.contains a.toNat then s
  else
    let t := s.dropReports a
    match t.home.freeSpares a with
    | [] => if (t.core a).eng.copies.isEmpty then t.loseEngine a else s.endCopies a
    | p :: _ => (t.modHome fun k => k.mapEngine a p).at a State.endWork)

end Sys2Proof.Machine
end

