-- ==== Sys2Proof/Machine/Slide.lean ====
section
/-! DEFINITION. Slides of regions (R320, R321), and the quarantine that may need them (R258, R259). -/

namespace Sys2Proof.Machine

/-! Where a region may lie. -/

/-- A region at a new home and near address; a striped one keeps the form of its rectangle. -/
def RptEntry.movedTo (e : RptEntry) (c : CoreAddr) (near : BitVec 18) : RptEntry := { e with loc := setFld (setFld e.loc 0 near) 18 c }

/-! The images of a region (R301, R320). -/

/-- The sealed images that are bound to a region of a core: those of its owner whose region table names its near range. -/
def Package.boundTo (k : Package) (e : RptEntry) : List Sealed :=
  k.plodan.filter fun p => p.src.ten == e.owner && (p.bases.zip p.src.regions).any fun r => r.1 == (fld e.loc 0 18 : BitVec 18).toNat && r.2.1 == e.len.toNat &&
    (k.igtEntry p.src.id == igtNew p.src)

/-- A sealed image translated anew for a moved region, at the next generation (R320 step 5). There is none behind 65,535 (R314). -/
def Package.reseal (k : Package) (old new : Nat) (p : Sealed) : Option Sealed :=
  if p.src.gen = 0xFFFF then none
  else
    let o := { p.src with gen := p.src.gen + 1 }
    let bases := p.bases.map fun b => if b = old then new else b
    (k.keySlotFor o.ten).bind fun slot => (o.build slot bases).map fun b => { src := o, bases := bases, bytes := b }

/-- The images of a slide by ID. -/
def Package.slideIds (k : Package) (x : Slide) : List (BitVec 32) :=
  ((k.plodan.filter fun p => p.src.ten == x.region.owner && (p.bases.zip p.src.regions).any fun r =>
    (r.1 == (fld x.region.loc 0 18 : BitVec 18).toNat || r.1 == x.newNear.toNat) && r.2.1 == x.region.len.toNat).map (·.src.id)).eraseDups

/-- A core's channels whose entries name one of some images, for each lessee. -/
def Core.channelsOf (c : Core) (ids : List (BitVec 32)) (l : Lessee) : List Nat :=
  (l.handlers.filter fun h => bit h.2 63 && (match c.images[entryImg h.2] with
    | some i => ids.contains i.id
    | none => false)).map (·.1)

/-- A lessee's mask with the channels of some images set or cleared. -/
def Core.maskFor (c : Core) (ids : List (BitVec 32)) (on : Bool) (l : Lessee) : Lessee :=
  { l with chmask := (c.channelsOf ids l).foldl (fun m ch => setFld m ch (BitVec.ofBool on)) l.chmask }

/-- Every lessee's channels of some images masked or unmasked at a core (R320 steps 2 and 6). -/
def Core.maskImages (c : Core) (ids : List (BitVec 32)) (on : Bool) : Core :=
  { c with live := c.maskFor ids on c.live, saved := c.saved.map fun v => { v with lessee := c.maskFor ids on v.lessee } }

/-- The compute cores of a package. -/
def computeCores (pkg : Nat) : List CoreAddr := (List.range 8).flatMap fun d => rectangle (mkAddr pkg d 0 0) 48 32

/-- A handler entry's persistent region lies at a near range (R153, R320). -/
def Lessee.usesPreg (l : Lessee) (r : Nat × Nat) (e : Word) : Bool :=
  bit e 63 && (look l.pregs (fld e 48 6 : BitVec 6).toNat).any fun p => p.1.toNat == r.1 && p.1.toNat + p.2.toNat == r.2

/-- A lessee's mask with the channels set or cleared whose handlers use the persistent region at one of some near ranges. -/
def Lessee.maskPreg (l : Lessee) (rs : List (Nat × Nat)) (on : Bool) : Lessee :=
  { l with chmask := (l.handlers.filter fun h => rs.any fun r => l.usesPreg r h.2).foldl (fun m h => setFld m h.1 (BitVec.ofBool on)) l.chmask }

/-- An activation of a tenant runs that has its persistent region at a near range. -/
def Core.runsOn (c : Core) (ten : BitVec 12) (r : Nat × Nat) : Bool :=
  c.acts.toList.any fun a => a.busy && a.trig.ten == ten && (c.lesseeOf ten).usesPreg r a.entry

/-- An activation runs on one of some images. -/
def Core.runs (c : Core) (ids : List (BitVec 32)) : Bool := c.acts.toList.any fun a => a.busy && ids.contains a.img.id

/-! Windows of a slide (R202, R320). -/

/-- The window of a tenant over [b, e) with a key slot and permissions (bit 2 R, bit 1 W, bit 0 A). -/
def windowWord (b e : Nat) (slot : BitVec 4) (perms : BitVec 3) (ten : BitVec 12) : BitVec 128 :=
  setFld (setFld (setFld (setFld (setFld (setFld (0 : BitVec 128) 0 (BitVec.ofNat 18 b)) 18 (BitVec.ofNat 19 e)) 64 slot) 100 perms) 103 1#1) 116 ten

/-- A window of a tenant. -/
def windowOf (w : BitVec 128) (ten : BitVec 12) : Bool := bit w 103 && fld w 116 12 == ten

/-- Its range. -/
def windowRange (w : BitVec 128) : Nat × Nat := ((fld w 0 18 : BitVec 18).toNat, (fld w 18 19 : BitVec 19).toNat)

/-- Free window registers. -/
def Core.freeWindows (c : Core) : Nat := (c.windows.toList.filter fun w => !bit w 103).length

/-- A window written to a free register. -/
def Core.openWindow (c : Core) (w : BitVec 128) : Core :=
  match (List.finRange 8).find? fun i => !bit c.windows[i] 103 with
  | some i => { c with windows := c.windows.set i w }
  | none => c

/-- The windows that a condition selects cleared. -/
def Core.closeWindows (c : Core) (p : BitVec 128 → Bool) : Core := { c with windows := c.windows.map fun w => if p w then 0 else w }

/-- The permissions that a tenant's windows grant over a whole range, if one covers it (R320 step 4). -/
def Core.granted (c : Core) (ten : BitVec 12) (r : Nat × Nat) : Option (BitVec 3) :=
  let covers := c.windows.toList.filter fun w => windowOf w ten && decide ((windowRange w).1 ≤ r.1) && decide (r.2 ≤ (windowRange w).2)
  if covers.isEmpty then none else some (covers.foldl (fun p w => p ||| fld w 100 3) 0)

/-! What may slide, and where to (R320). -/

/-- A lessee of a core has a persistent region at a near range. -/
def Core.persists (c : Core) (ten : BitVec 12) (r : Nat × Nat) : Bool :=
  (c.lesseeOf ten).pregs.any fun p => p.2.1.toNat == r.1 && r.1 + p.2.2.toNat == r.2

/-- A region is a persistent region at one of its homes. -/
def State.isPersistent (s : State) (e : RptEntry) : Bool := e.spans.any fun x => (s.core x.1).persists e.owner x.2

/-- A core can take a region of `e`'s tenant at near range `r` (R195, R320): it is there, no part of it is being moved by a quarantine, the range is clear of every region, image region and
persistent region on it, the region's own old place included, and the tenant's key slot there is bound to it or free. -/
def State.hasRoom (s : State) (e : RptEntry) (slot : BitVec 4) (a : CoreAddr) (r : Nat × Nat) : Bool :=
  (s.core a).present && !(s.home.moving.any fun b => (rowFrom b).contains a) && (s.home.rpt.all fun x => (x.spansOn a).all (apart r)) &&
    ((s.core a).placed.all (apart r)) &&
    (slot == 0 || (match (s.core a).regs.keys.toList.getD slot.toNat none with
      | some k => k.ten == e.owner
      | none => true))

/-- Each core of a slide has the free window registers that it needs: one as an old home, one as a new one. -/
def State.hasWindows (s : State) (e f : RptEntry) : Bool :=
  let need := e.spans.map (·.1) ++ f.spans.map (·.1)
  need.all fun a => decide ((need.filter (· == a)).length ≤ (s.core a).freeWindows)

/-- A core that a quarantine will leave absent is a home of a region (R259). -/
def State.losesHome (s : State) (e : RptEntry) : Bool :=
  s.home.moving.any fun b => (look s.home.rowsUsed (rowNo b)).isSome && e.homes.contains (rowEnd b)

/-- Whether a region may lie as `f` says instead of as `e` (R195, R320): compute cores of the old home's partition with room and windows. An image runs where its declared and persistent
regions are, so such a region stays on its cores (DEDUCED, log entry 42), unless one of them will be absent (R259). -/
def State.mayLie (s : State) (e f : RptEntry) : Bool :=
  let first := e.homes.headD 0
  match (s.core first).slotOf e.owner with
  | none => false
  | some slot =>
    f.ok && (f.homes.all fun a => s.home.partOf a == s.home.partOf first) && (f.spans.all fun x => s.hasRoom e slot x.1 x.2) && s.hasWindows e f &&
      ((s.home.boundTo e).isEmpty && !s.isPersistent e || f.homes == e.homes || s.losesHome e)

/-- A region may slide at all: it has near homes, is not sliding, and each image bound to it can be sealed anew. -/
def Package.maySlide (k : Package) (e : RptEntry) (near : BitVec 18) : Bool :=
  decide (e.kind.toNat ≤ 1) && !(k.slides.any fun x => x.region.same e) &&
    (k.boundTo e).all fun p => (k.reseal (fld e.loc 0 18 : BitVec 18).toNat near.toNat p).isSome

/-- The cores that can be a region's new home, or the corner of its new rectangle, at a near address. -/
def State.slideTargets (s : State) (e : RptEntry) (near : BitVec 18) : List CoreAddr :=
  if s.home.maySlide e near then (computeCores (pkgOf s.at_)).filter fun c => s.mayLie e (e.movedTo c near) else []

/-- A slide is taken up, under the next transfer ID. -/
def Package.addSlide (k : Package) (e : RptEntry) (c : CoreAddr) (near : BitVec 18) : Package :=
  { k with slides := k.slides ++ [{ region := e, newNear := near, newCore := c, step := 0, xid := BitVec.ofNat 32 k.slideNo }], slideNo := k.slideNo + 1 }

/-- A slide of a region to a near address: the supervisor chooses the new home among those that can take it (R320: which one is not promised); none if there is none. -/
def State.chooseSlide (s : State) (e : RptEntry) (near : BitVec 18) : Option State :=
  let l := s.slideTargets e near
  (l[Config.choice s.free % l.length]?).map fun c => { s with free := s.free + 1 }.modHome fun k => k.addSlide e c near

/-! The steps (R320). -/

/-- The entry that a slide leads to. -/
def Slide.target (x : Slide) : RptEntry := x.region.movedTo x.newCore x.newNear

/-- The device-space region over the new place, for the copy only (R320 step 3), at an offset of space 0xFF behind every region there. -/
def Package.copyRegion (k : Package) (x : Slide) : RptEntry :=
  let top := (k.rpt.filter fun e => e.space == 0xFF).foldl (fun m e => max m (e.base.toNat + e.len.toNat)) 0
  { x.target with base := BitVec.ofNat 64 top, space := 0xFF, owner := 0, mov := false, pgen := 0 }

/-- The device-space region of a slide's copy as it stands in the table. -/
def Package.copyRegionOf (k : Package) (x : Slide) : Option RptEntry := k.rpt.find? fun e => e.space == 0xFF && e.owner == 0 && e.loc == x.target.loc && e.len == x.region.len

/-- The slides under way with one changed. -/
def State.modSlide (s : State) (i : Nat) (f : Slide → Slide) : State := s.modHome fun k => { k with slides := k.slides.modify i f }

/-- A slide goes on to its next step. -/
def State.nextStep (s : State) (i n : Nat) : State := s.modSlide i fun y => { y with step := n }

/-- The channels of a slide's region masked or unmasked (R320 steps 2 and 6): those of every image bound to it, and at its homes those whose handlers have it as their persistent
region, as it lies before or after the slide. -/
def State.slideMask (s : State) (x : Slide) (on : Bool) : State :=
  (x.region.spans.zip x.target.spans).foldl (fun t p => t.modCore p.1.1 fun c => c.modLessee x.region.owner fun l => l.maskPreg [p.1.2, p.2.2] on)
    (s.modCores (computeCores (pkgOf s.at_)) fun c => c.maskImages (s.home.slideIds x) on)

/-- No activation uses a slide's region any more by an image bound to it or as its persistent region (R320 step 2, R321). -/
def State.slideIdle (s : State) (x : Slide) : Bool :=
  ((computeCores (pkgOf s.at_)).all fun a => !(s.core a).runs (s.home.slideIds x)) && x.region.spans.all fun p => !(s.core p.1).runsOn x.region.owner p.2

/-- Step 1: MOV and PGEN, and the shootdown. -/
def State.slideStop (s : State) (i : Nat) (x : Slide) : State :=
  match s.home.rpt.find? fun e => e.same x.region with
  | none => s
  | some e => ((s.modHome fun k => k.place e.raise.stop).nextStep i 1).shootdown e.raise.stop

/-- The pairs of old and new place of a slide. -/
def Slide.pairs (x : Slide) : List ((CoreAddr × Nat × Nat) × (CoreAddr × Nat × Nat)) := x.region.spans.zip x.target.spans

/-- The owner's key slot at the old homes. -/
def State.slideSlot (s : State) (x : Slide) : BitVec 4 := ((s.core (x.region.homes.headD 0)).slotOf x.region.owner).getD 0

/-- The tenant-0 windows of a slide's copy: R at an old home, W at a new one. -/
def copyWindow (read : Bool) (slot : BitVec 4) (p : CoreAddr × Nat × Nat) : BitVec 128 := windowWord p.2.1 p.2.2 slot (if read then 4 else 2) 0

/-- The tenant-0 windows of the copy opened, each with the owner's key slot (R320 step 3). -/
def State.openCopy (s : State) (x : Slide) : State :=
  let slot := s.slideSlot x
  x.pairs.foldl (fun t p => ((t.modCore p.1.1 fun c => c.openWindow (copyWindow true slot p.1)).at p.2.1 fun u => u.bindKey slot x.region.owner).modCore p.2.1 fun c =>
    c.openWindow (copyWindow false slot p.2)) s

/-- The tenant-0 windows of the copy closed. -/
def State.closeCopy (s : State) (x : Slide) : State :=
  let slot := s.slideSlot x
  x.pairs.foldl (fun t p => (t.modCore p.1.1 fun c => c.closeWindows (· == copyWindow true slot p.1)).modCore p.2.1 fun c => c.closeWindows (· == copyWindow false slot p.2)) s

/-- The copy engine that a supervisor's slide uses: engine 0 of its die. -/
def State.slideEngine (s : State) : CoreAddr := s.standIn (copyEngine (pkgOf s.at_) (dieOf s.at_) 0)

/-- The block and kick of a slide's copy (R230, R320 step 3): from the region's GVA to the device-space region, with a completion on channel 250. -/
def slideKick (x : Slide) (slot : BitVec 4) (dev : RptEntry) : List Strip :=
  [flit4 x.region.base dev.base ((1#64 <<< 33) ||| BitVec.ofNat 64 x.region.len.toNat) 250, kickFlit x.xid slot x.region.space 0xFF 0]

/-- Step 3: the windows, the device-space region, and the copy command, whose kick is marked L (R224). -/
def State.slideCopy (s : State) (i : Nat) (x : Slide) : State :=
  let dev := s.home.copyRegion x
  (((s.openCopy x).modHome fun k => { k with rpt := k.rpt ++ [dev] }).nextStep i 3).leaveOwn
    { OutItem.own (.uni s.slideEngine kSystem 9 0 (slideKick x (s.slideSlot x) dev)) 0 with l := true }

/-- The completion of a slide's copy among the reports that the supervisor keeps. -/
def State.slideReport (s : State) (x : Slide) : Option Msg := s.here.eng.reports.find? fun m => m.ch == 250 && fld (m.dw 3) 0 32 == x.xid

/-- What step 3 set up is removed: the report, the windows, the device-space region, and the copy engine's entries of both regions. -/
def State.endCopy (s : State) (x : Slide) (m : Msg) : State :=
  let t := (s.modEng fun e => { e with reports := dropFirst (· == m) e.reports }).closeCopy x
  match s.home.copyRegionOf x with
  | none => t
  | some dev => (t.modCore s.slideEngine fun c => (c.forgets x.region).forgets dev).modHome fun k => { k with rpt := k.rpt.filter (· != dev) }

/-- The owner's windows at an old and a new home (R320 step 4): those that cover no more than the old range are cleared, and one over the new range is written with the permissions that
covered the old one. -/
def State.moveWindows (s : State) (ten : BitVec 12) (slot : BitVec 4) (p : (CoreAddr × Nat × Nat) × (CoreAddr × Nat × Nat)) : State :=
  let old := p.1.2
  let perms := (s.core p.1.1).granted ten old
  let t := s.modCore p.1.1 fun c => c.closeWindows fun w => windowOf w ten && decide (old.1 ≤ (windowRange w).1) && decide ((windowRange w).2 ≤ old.2)
  match perms with
  | some q => t.modCore p.2.1 fun c => c.openWindow (windowWord p.2.2.1 p.2.2.2 slot q ten)
  | none => t

/-- A persistent-region entry over the old range rewritten to the new one (R320 step 4). -/
def Lessee.movePreg (l : Lessee) (old new : Nat × Nat) : Lessee :=
  let fix := fun (r : BitVec 18 × BitVec 19) => if r.1.toNat = old.1 ∧ old.1 + r.2.toNat = old.2 then (BitVec.ofNat 18 new.1, r.2) else r
  { l with pregs := l.pregs.map (fun p => (p.1, fix p.2)), placed := l.placed.map fun p => (p.1, p.2.1, fix p.2.2) }

/-- Step 4: the new placement without MOV, the windows, and the persistent-region entries. -/
def State.slidePlace (s : State) (i : Nat) (x : Slide) (m : Msg) : State :=
  let t := (s.endCopy x m).modHome fun k => { k with rpt := k.rpt.map fun e => if e.same x.region then { e with loc := x.target.loc, mov := false } else e }
  (x.pairs.foldl (fun t p => (t.moveWindows x.region.owner (s.slideSlot x) p).modCore p.1.1 fun c =>
    c.modLessee x.region.owner fun l => if p.1.1 = p.2.1 then l.movePreg p.1.2 p.2.2 else l) t).nextStep i 4

/-- A slide whose copy fails leaves the region where it was, and the channels are unmasked (DESIGN CHOICE, log entry 42: the rule names no failure). -/
def State.slideFail (s : State) (i : Nat) (x : Slide) (m : Msg) : State :=
  (((s.endCopy x m).slideMask x false).modHome fun k =>
    { k with rpt := k.rpt.map (fun e => if e.same x.region then { e with mov := false } else e), slides := k.slides.eraseIdx i }).releaseFaults

/-- Step 5: every image bound to the region is sealed anew at the next generation, and the old one revoked with S = 1 by a request to the IGT home (R314). -/
def State.slideReseal (s : State) (i : Nat) (x : Slide) : State :=
  let old := (fld x.region.loc 0 18 : BitVec 18).toNat
  let new := (s.home.boundTo x.region).filterMap (s.home.reseal old x.newNear.toNat)
  (new.foldl (fun t p => (t.modHome fun k => { k with plodan := k.plodan ++ [p] }).sendOwn (t.standIn (supervisor0 (pkgOf t.at_) 0)) kSystem 5 0 [revokeFlit p.src.id true]) s).nextStep i 5

/-- Step 6 is complete for an image: the IGT shows its newest generation, and no core holds an older one. -/
def State.installed (s : State) (id : BitVec 32) : Bool :=
  match (s.home.plodan.filter fun p => p.src.id == id).getLast? with
  | none => true
  | some p => igtPasses (s.home.igtEntry id) id p.src.gen && (computeCores (pkgOf s.at_)).all fun a => ((s.core a).outdated id p.src.gen).isNone

/-- Steps 6 and 7: the channels are unmasked and the held faults answered. -/
def State.slideEnd (s : State) (i : Nat) (x : Slide) : State :=
  ((s.slideMask x false).modHome fun k => { k with slides := k.slides.eraseIdx i }).releaseFaults

/-- A slide's next step, once the one before it is complete. -/
def State.slideStep (s : State) (i : Nat) (x : Slide) : State :=
  let ids := s.home.slideIds x
  match x.step with
  | 0 => s.slideStop i x
  | 1 => if s.home.quietOn x.region then (s.slideMask x true).nextStep i 2 else s
  | 2 => if s.slideIdle x then s.slideCopy i x else s
  | 3 =>
    match s.slideReport x with
    | none => s
    | some m => if m.byte 7 = 0 then s.slidePlace i x m else s.slideFail i x m
  | 4 => if s.isPersistent x.target then s.nextStep i 5 else s.slideReseal i x
  | _ => if ids.all s.installed then s.slideEnd i x else s

/-- SLIDE_REGION (R320): the supervisor of the region's first home takes slide `idx` one step further. -/
def execSlideRegion (s : State) : Host.Outcome State Fault Refusal :=
  .next (match s.home.slides[s.ev.idx]? with
  | none => s
  | some x => if s.serves (x.region.homes.headD 0) then s.slideStep s.ev.idx x else s)

/-! Quarantine (R258, R259). -/

/-- Near addresses at which the supervisor looks for a place. -/
def nears : List (BitVec 18) := (List.range 16384).map fun n => BitVec.ofNat 18 (16 * n)

/-- A region of the core that will be absent is moved away by a slide, to any place that can take it (R259); one that fits nowhere stays held. -/
def State.rehome (s : State) (e : RptEntry) : State :=
  match nears.find? fun n => !(s.slideTargets e n).isEmpty with
  | none => s
  | some n => (s.chooseSlide e n).getD s

/-- The regions with a home on the core that a quarantine leaves absent. -/
def State.lastRegions (s : State) (a : CoreAddr) : List RptEntry :=
  if (look s.home.rowsUsed (rowNo a)).isSome then s.home.rpt.filter fun e => e.homes.contains (rowEnd a) else []

/-- A slide of a region on that core is still under way. -/
def State.rehoming (s : State) (a : CoreAddr) : Bool :=
  (look s.home.rowsUsed (rowNo a)).isSome && s.home.slides.any fun x => x.region.homes.contains (rowEnd a)

/-- The shootdowns of a quarantine are acknowledged. -/
def State.rowQuiet (s : State) (a : CoreAddr) : Bool := (s.home.rpt.filter fun e => e.inRow (rowFrom a)).all s.home.quietOn

/-- QUARANTINE (R258, R259): the supervisor quarantines the column of failed core `src`: it stops requests to that part of the row, then dispatch there, and once every core of it is at
rest, and what lay on a core to become absent has moved away, it moves the cores. -/
def execQuarantine (s : State) : Host.Outcome State Fault Refusal :=
  let a := s.ev.src
  .next (if !(isCompute a && pkgOf a == pkgOf s.at_ && s.serves a) then s
  else if !s.home.moving.contains a then (s.lastRegions a).foldl State.rehome (s.beginQuarantine a)
  else if !s.rowQuiet a then s
  else if !(s.core a).frozen then s.freezeRow a
  else if !s.rehoming a && (rowFrom a).all fun c => (s.core c).atRest then s.endQuarantine a
  else s)

end Sys2Proof.Machine
end

