-- ==== Sys2Proof/Machine/Host.lean ====
section
/-! DEFINITION. The host's command windows, the journal, the VF records and the host's own accesses (R274, R323, R327, R332, R333, R352 to R355). -/

namespace Sys2Proof.Machine

/-! Functions. -/

/-- A function of a package; one whose record is not written is as after reset. -/
def Package.fn (k : Package) (i : Nat) : Func := (look k.funcs i).getD Func.reset

/-- Tenant of a function; the PF acts as tenant 0. -/
def Func.ten (f : Func) : BitVec 12 := fld (f.rec16[0]) 0 12

/-- Second space of a function. -/
def Func.gsb (f : Func) : BitVec 8 := fld (f.rec16[0]) 24 8

/-- Command queues of a function (NQ). -/
def Func.nq (f : Func) : Nat := (fld (f.rec16[4]) 0 16 : BitVec 16).toNat

/-- A queue that the host can write (R332, R352, R356): any of the PF's, and a VF's first NQ once its record is written. -/
def Package.queueOpen (k : Package) (vf q : Nat) : Bool := vf == 0 || ((k.fn vf).valid && decide (vf ≤ 31) && decide (q < (k.fn vf).nq))

/-! The journal (R354). -/

/-- The 64 bytes of a command. -/
def cmdBytes (c : Vector Word 8) : List Byte := c.toList.flatMap fun x => leBytes 8 x.toNat

/-- TYPE of a command. -/
def cmdType (cm : Vector Word 8) : BitVec 8 := fld (cm[0]) 0 8

/-- A command's entry: it takes the function's next SEQ and the place of the entry 65,536 before it. -/
def Func.enter (f : Func) (status : BitVec 8) (cm : Vector Word 8) : Func :=
  let e : Journal := { seq := f.nextSeq, status := status, type := cmdType cm, info := 0, hash := sha3First128 (cmdBytes cm) }
  { f with journal := (f.journal.filter fun j => j.seq.toNat % 65536 != e.seq.toNat % 65536) ++ [e], nextSeq := f.nextSeq + 1 }

/-- Doubleword 1 of an entry. -/
def Journal.dw1 (j : Journal) (vf : BitVec 5) : Word := j.status ++ j.type ++ (0 : BitVec 3) ++ vf ++ j.info

/-- The 32 bytes of an entry. -/
def Journal.bytes (j : Journal) (vf : BitVec 5) : List Byte := leBytes 8 j.seq.toNat ++ leBytes 8 (j.dw1 vf).toNat ++ leBytes 16 j.hash.toNat

/-- Entry `i` of a queue's journal window (R352): 64 entries from the entry number that the host wrote. -/
def Func.windowEntry (f : Func) (q i : Nat) : Option Journal :=
  f.journal.find? fun j => j.seq.toNat % 65536 == (((look f.jsel q).getD 0).toNat + i) % 65536

/-- The status word of a queue (R352): SEQ and status of its last command. -/
def Func.show (f : Func) (q : Nat) (seq : Word) (status : BitVec 8) : Func := { f with status := put f.status q ((seq <<< 16) ||| zext status) }

/-! Submission and acceptance (R352, R353). -/

/-- The host writes a command to a window and rings its doorbell. An earlier command that is not accepted yet is lost and journaled as overwritten (R353). -/
def Func.ringBell (f : Func) (q : Nat) (c : Vector Word 8) : Func :=
  let g := match look f.win q with
    | some old => if f.pend.contains q then f.enter 0x04 old else f
    | none => f
  { g with win := put g.win q c, pend := insertNat g.pend q }

/-- TYPEs that R352 lists; the numbers within 0x40 to 0x4F other than 0x4F are the model's (DESIGN CHOICE, log entry 43). -/
def listedType (t : BitVec 8) : Bool := (decide (1 ≤ t.toNat) && decide (t.toNat ≤ 6)) || (decide (0x40 ≤ t.toNat) && decide (t.toNat ≤ 0x4F))

/-- What a command asks for, done with its journal entry already written: the machine after it, or its refusal. Arguments: function number, its state, command, SEQ. -/
abbrev HostAct := Nat → Func → Vector Word 8 → Word → State → Option State

/-- A pending command of a queue: the agent accepts it if `f` takes it, and refuses it otherwise with status 0x02 (R352); its entry is written first (R353). The queue's status word shows
the last command accepted. -/
def State.acceptCmd (s : State) (vf q : Nat) (cm : Vector Word 8) (f : HostAct) : State :=
  let g := s.home.fn vf
  let seq := g.nextSeq
  let entered := fun (status : BitVec 8) (x : Func) => { x with pend := x.pend.filter (· != q) }.enter status cm
  let r := if zeroBits (cm[0]) 8 56 then f vf g cm seq (s.modHome fun k => k.modFn vf fun x => (entered 0x00 x).show q seq 0x00) else none
  match r with
  | some t => t
  | none => s.modHome fun k => k.modFn vf (entered 0x02)

/-- One host command at the host link agent. With `flag` the host writes the event's command to its window and rings the doorbell; without it the agent takes the
pending command of the event's queue, if the event is the one of its TYPE (`mine`) and nothing it needs is held (`wait`). A TYPE that R352 does not list is refused by any. -/
def State.hostCmd (s : State) (mine : BitVec 8 → Bool) (wait : Func → Vector Word 8 → Bool) (f : HostAct) : Host.Outcome State Fault Refusal :=
  .next (
    let vf := s.ev.cmd.vf
    let q := s.ev.cmd.queue
    if s.at_ != hostAgent (pkgOf s.at_) || !s.home.queueOpen vf q then s
    else if s.ev.flag then s.modHome fun k => k.modFn vf fun x => x.ringBell q s.ev.cmd.dw
    else
      let g := s.home.fn vf
      match look g.win q with
      | none => s
      | some cm =>
        if !g.pend.contains q || !(mine (cmdType cm) || !listedType (cmdType cm)) || wait g cm then s
        else s.acceptCmd vf q cm fun i g cm seq t => if mine (cmdType cm) then f i g cm seq t else none)

/-- Nothing to wait for. -/
def noWait : Func → Vector Word 8 → Bool := fun _ _ => false

/-- Containment ID of a function's work under a sub-ID. -/
def Func.cid (f : Func) (sub : BitVec 4) : BitVec 16 := f.ten ++ sub

/-- Launch (R352): LPB offset and sub-ID go to the root launch engine. -/
def hostLaunchAct : HostAct := fun vf f cm seq s =>
  if !zeroBits (cm[2]) 4 60 then none
  else some (s.sendOwn (s.standIn (launchEngine (pkgOf s.at_) 0)) kSystem 0 (f.cid (fld (cm[2]) 0 4)) [flit4 (cm[1]) (zext (fld (cm[2]) 0 4 : BitVec 4)) (BitVec.ofNat 64 vf) seq, 0])

/-- HOST_LAUNCH (R352 to R354). -/
def execHostLaunch (s : State) : Host.Outcome State Fault Refusal := s.hostCmd (· == 0x01) noWait hostLaunchAct

/-- Whether a region lies in a function's quota (R323, R332): every home in a granted sector, or its pool port granted. The PF has no quota. -/
def Func.grants (f : Func) (vf : Nat) (e : RptEntry) : Bool :=
  vf == 0 || (if e.kind.toNat ≤ 1 then e.homes.all fun a => bit (f.rec16[1]) (sectorOf a) else bit (f.rec16[1]) (32 + (fld e.loc 60 4 : BitVec 4).toNat))

/-- Whether a destination lies in a function's quota (R332, R352): a granted sector of its package, or another package if it has a fabric port. The PF has no
quota. -/
def Func.mayCall (f : Func) (vf pkg : Nat) (d : CoreAddr) : Bool :=
  vf == 0 || (if pkgOf d = pkg then bit (f.rec16[1]) (sectorOf d) else !zeroBits (f.rec16[2]) 0 48)

/-- Call (R352): doubleword 1 the destination word, 2 the channel in [7:0] and the payload's bytes in [13:8], 3 to 6 the payload (DESIGN CHOICE, log entry 43: R352
gives no places). Channels of the system range belong to the PF (R355). -/
def hostCallAct : HostAct := fun vf f cm _ s =>
  let w := cm[1]
  let ca : CoreAddr := fld w 0 29
  let ch : BitVec 8 := fld (cm[2]) 0 8
  let n := (fld (cm[2]) 8 6 : BitVec 6).toNat
  if !zeroBits w 29 35 || !namesCore ca || !zeroBits (cm[2]) 14 50 || decide (32 < n) || (sysChannel ch && vf != 0) || !f.mayCall vf (pkgOf s.at_) ca then none
  else
    let pay := flitsOf ((leBytes 8 (cm[3]).toNat ++ leBytes 8 (cm[4]).toNat ++ leBytes 8 (cm[5]).toNat ++ leBytes 8 (cm[6]).toNat).take n)
    some (s.sendOwn ca (sysKind true ch) ch (f.cid 0) pay)

/-- HOST_CALL (R352, R353, R355). -/
def execHostCall (s : State) : Host.Outcome State Fault Refusal := s.hostCmd (· == 0x02) noWait hostCallAct

/-- An access that the agent makes for a function fails its integrity check (R330): the host port of a confidential partition runs IDE, and without its key, or with bit 8 of the event's
word, the access's MAC does not verify. -/
def State.ideFailed (s : State) (f : Func) : Bool :=
  (s.home.part (fld (f.rec16[0]) 32 5 : BitVec 5).toNat).conf && (bit s.ev.w 8 || !s.home.ideKeys.contains hostPort)

/-- Stage image (R352): bytes of host memory go to an offset of the tenant's first space, under its windows (R203, R323). A range that the tenant does not own, or that lies where
nothing is granted to it, is outside its quota; a home's refusal, or a read of the host's memory whose MAC does not verify (R330), fails the command with its cause. -/
def stageImageAct : HostAct := fun vf f cm seq s =>
  let n := (cm[2]).toNat
  match s.home.rangeOf f.ten f.gsa (cm[3]) n with
  | .ok e =>
    if !f.grants vf e then none
    else if vf ≠ 0 ∧ s.ideFailed f then some (s.journal vf seq 0x03 (cEccu.setWidth 40))
    else
    let r := s.writeParts f.ten (memRead s.hostMem (cm[1]).toNat n) (partsAt e (pkgOf s.at_) (cm[3]) n)
    match r.2.2 with
    | some (cause, _) => some (r.1.journal vf seq 0x03 (cause.setWidth 40))
    | none => some r.1
  | _ => none

/-- A staged image waits while its target slides (R321). -/
def State.stageHeld (s : State) (f : Func) (cm : Vector Word 8) : Bool :=
  match s.home.rangeOf f.ten f.gsa (cm[3]) (cm[2]).toNat with
  | .held => true
  | _ => false

/-- STAGE_IMAGE (R352, R353). -/
def execStageImage (s : State) : Host.Outcome State Fault Refusal := s.hostCmd (· == 0x03) s.stageHeld stageImageAct

/-- Slide region (R320, R352): the supervisor of the home takes it up, if some core can take the region at the new near address. A VF names a region of its tenant in one of its spaces. -/
def hostSlideAct : HostAct := fun vf f cm _ s =>
  let sp : BitVec 8 := fld (cm[1]) 0 8
  match s.home.rpt.find? fun e => e.space == sp && e.base == cm[2] with
  | none => none
  | some e =>
    if !zeroBits (cm[1]) 8 56 || !zeroBits (cm[3]) 18 46 || e.mov || (vf != 0 && (e.owner != f.ten || !(sp == f.gsa || sp == f.gsb) || !f.grants vf e)) then none
    else s.chooseSlide e (fld (cm[3]) 0 18)

/-- HOST_SLIDE_REGION (R320, R352). -/
def execHostSlideRegion (s : State) : Host.Outcome State Fault Refusal := s.hostCmd (· == 0x04) noWait hostSlideAct

/-- Bytes [a, a + n) of a function's first space lie in regions of its tenant that are granted to it (R332, R352). -/
def Package.inQuota (k : Package) (f : Func) (vf : Nat) (a : Word) (n : Nat) : Bool :=
  (k.outside (fun e => e.owner == f.ten && f.grants vf e) f.gsa k.rpt.length a.toNat (a.toNat + n)).isNone

/-- A collective command keeps to a VF's quota (R275, R352): its target, its source, which a broadcast reads at the root member alone, and its destination, which is LEN bytes from each
member long in an all-gather. -/
def State.collInQuota (s : State) (f : Func) (vf : Nat) (c : CollCmd) : Bool :=
  let ps : List Nat := match (s.core s.collEngine).eng.group c.gid with
    | some g => g.members.map fun (m : BitVec 14 × BitVec 32 × BitVec 384) => m.1.toNat
    | none => []
  f.mayCall vf (pkgOf s.at_) (fld (headDw c.blk 4) 0 29) && ((c.op == 1 && ps[c.root]? != some (pkgOf s.at_)) || s.home.inQuota f vf c.src c.len) &&
    s.home.inQuota f vf c.dst (if c.op = 2 then c.len * max 1 ps.length else c.len)

/-- Collective (R275, R352): the agent kicks collective engine 0 of die 0 with the block, its last 24 bytes zero, by a kick marked L (R224). -/
def hostCollectiveAct : HostAct := fun vf f cm _ s =>
  let pay := [flit4 (cm[1]) (cm[2]) (cm[3]) (cm[4]), flit4 (cm[5]) 0 0 0]
  let c : CollCmd := { blk := flitBytes pay, cid := f.cid 0, issuer := s.at_, stage := 0, parts := [] }
  if cm[6] != 0 || cm[7] != 0 || !(vf == 0 || s.collInQuota f vf c) then none
  else some (s.leaveOwn { OutItem.own (.uni s.collEngine kSystem 9 0 pay) (f.cid 0) with l := true })

/-- HOST_COLLECTIVE (R275, R352). -/
def execHostCollective (s : State) : Host.Outcome State Fault Refusal := s.hostCmd (· == 0x05) noWait hostCollectiveAct

/-! Counters (R333). -/

/-- A function's counter by selector: 0 records delivered, 1 records lost, 2 ECCU consumed, 3 BARRIER overruns, 4 completions, 5 Unsupported Requests, 256 + c NACKs
of cause c. The numbers are the model's (DESIGN CHOICE, log entry 43). -/
def Func.counter (f : Func) (sel : Nat) : Option Nat :=
  match sel with
  | 0 => some f.delivered
  | 1 => some f.lost
  | 2 => some f.eccu
  | 3 => some f.overruns
  | 4 => some f.completions
  | 5 => some f.unsupported
  | n => if 256 ≤ n ∧ n < 512 then some ((look f.nacks (n - 256)).getD 0) else none

/-- A counter of one core (R257, R261, R246): 0 corrected, 1 uncorrectable, 2 lost, 3 undeliverable, 4 double. -/
def Counters.counter (c : Counters) (sel : Nat) : Option Nat :=
  match sel with
  | 0 => some c.corrected
  | 1 => some c.uncorrected
  | 2 => some c.lost
  | 3 => some c.undeliverable
  | 4 => some c.double
  | _ => none

/-- The PF's per-core and per-link counters (R333): selector [63:61] = 1 with the core address in [44:16], or 2 with the fabric port's number (R271). -/
def State.pfCounter (s : State) (w : Word) : Option Nat :=
  match (fld w 61 3 : BitVec 3).toNat with
  | 1 => (s.core (fld w 16 29)).ctr.counter (fld w 0 16 : BitVec 16).toNat
  | 2 => (s.home.ports[(fld w 0 16 : BitVec 16).toNat]?).map (·.failures)
  | _ => none

/-- Read counters (R333, R352): the VF's own block, and for the PF alone the others. -/
def readCountersAct : HostAct := fun vf f cm _ s =>
  let v := match f.counter (cm[1]).toNat with
    | some n => some n
    | none => if vf = 0 then s.pfCounter (cm[1]) else none
  v.map fun n => s.modHome fun k => k.modFn vf fun x => { x with answers := x.answers ++ [(cm[1], BitVec.ofNat 64 n)] }

/-- READ_COUNTERS (R333, R352). -/
def execReadCounters (s : State) : Host.Outcome State Fault Refusal := s.hostCmd (· == 0x06) noWait readCountersAct

/-! PF commands (R274, R327, R332, R352, R358). -/

/-- What a partition holds: partition 0 whatever no other holds (R327). -/
def Package.holds (k : Package) (n : Nat) : BitVec 32 × BitVec 48 × BitVec 16 :=
  if n = 0 then
    (k.parts.filter (·.1 != 0)).foldl (fun m p => (m.1 &&& ~~~p.2.sectors, m.2.1 &&& ~~~p.2.fports, m.2.2 &&& ~~~p.2.pports)) (BitVec.allOnes 32, BitVec.allOnes 48, BitVec.allOnes 16)
  else let p := k.part n; if (look k.parts n).isSome then (p.sectors, p.fports, p.pports) else (0, 0, 0)

/-- The grants of a record lie inside its partition (R332). -/
def Package.grantsOk (k : Package) (r : Vector Word 16) : Bool :=
  let h := k.holds (fld (r[0]) 32 5 : BitVec 5).toNat
  ((fld (r[1]) 0 32 : BitVec 32) &&& ~~~h.1) == 0 && ((fld (r[2]) 0 48 : BitVec 48) &&& ~~~h.2.1) == 0 && ((fld (r[1]) 32 16 : BitVec 16) &&& ~~~h.2.2) == 0

/-- The tenant of a record is a tenant, and no other function's (R299, R332). -/
def Package.tenantOk (k : Package) (vf : Nat) (r : Vector Word 16) : Bool :=
  fld (r[0]) 0 12 != (0 : BitVec 12) && !(k.funcs.any fun f => f.1 != vf && f.2.valid && f.2.ten == fld (r[0]) 0 12)

/-- A tenant that has come into another partition has no key slot there yet (R299). -/
def Package.dropSlots (k old : Package) : Package := { k with keySlots := k.keySlots.filter fun x => k.partOfTen x.1 == old.partOfTen x.1 }

/-- VF record (R332): doubleword 1 the VF, 2 the record's offset in host memory. The VF opens. -/
def pfRecord (cm : Vector Word 8) (s : State) : Option State :=
  let r := recOfBytes (memRead s.hostMem (cm[2]).toNat 128)
  let vf := (cm[1]).toNat
  if vf = 0 || decide (31 < vf) || !recOk r || decide (15 < (fld (r[0]) 32 5 : BitVec 5).toNat) || !s.home.tenantOk vf r || !s.home.grantsOk r then none
  else some (s.modHome fun k => (k.modFn vf fun f => { f with rec16 := r, valid := true }).dropSlots k)

/-- Partition table (R327): doubleword 1 the number in [3:0] and CONF in [4], 2 the sector mask, 3 the fabric-port mask, 4 the pool-port mask. Each sector and port
belongs to one partition; partition 0 has no masks of its own. A confidential partition takes only pool ports that can hold containment-mode IDE, and only if the host port can (R330).
The grants of every valid VF stay inside its partition (R332). -/
def pfPartition (cm : Vector Word 8) (s : State) : Option State :=
  let n := (fld (cm[1]) 0 4 : BitVec 4).toNat
  let p : Partition := { sectors := fld (cm[2]) 0 32, fports := fld (cm[3]) 0 48, pports := fld (cm[4]) 0 16, conf := bit (cm[1]) 4, epoch := (s.home.part n).epoch,
                         stoppedAt := (s.home.part n).stoppedAt }
  let apart := s.home.parts.all fun x => x.1 == 0 || x.1 == n || ((x.2.sectors &&& p.sectors) == 0 && (x.2.fports &&& p.fports) == 0 && (x.2.pports &&& p.pports) == 0)
  let ide := !p.conf || ((List.range 16).all (fun i => !bit p.pports i || Config.ideCapable i) && Config.ideCapable hostPort)
  if n = 0 || !ide || !zeroBits (cm[1]) 5 59 || !zeroBits (cm[2]) 32 32 || !zeroBits (cm[3]) 48 16 || !zeroBits (cm[4]) 16 48 || !apart ||
      s.home.funcs.any (fun f => f.2.valid && !{ s.home with parts := put s.home.parts n p : Package }.grantsOk f.2.rec16) then none
  else some (s.modHome fun k => { k with parts := put k.parts n p })

/-- The generation of a group formed afresh (R274, R276): one above every GEN that the group has had in any package of the system, also one whose record a reset has discarded (DEDUCED,
log entry 40). -/
def State.nextGroupGen (s : State) (gid : BitVec 16) : Nat := s.pkgs.foldl (fun m p => max m ((look p.2.groupGens gid.toNat).getD 0)) 0 + 1

/-- A package notes the GEN of a group that it becomes a member of. -/
def State.noteGen (s : State) (gid : BitVec 16) (gen p : Nat) : State := s.setPkg p { s.pkg p with groupGens := put (s.pkg p).groupGens gid.toNat gen }

/-- Group forming (R274): doubleword 1 the GID, 2 the member count, 3 the offset in host memory of the members' package numbers, one doubleword each. Every member must be in service and
attested (R276); GEN rises by 1, and every member's collective engine 0 holds the record with the member's boot generation and digest and the group key. -/
def pfGroup (cm : Vector Word 8) (s : State) : Option State :=
  let n := (cm[2]).toNat
  let gid : BitVec 16 := fld (cm[1]) 0 16
  if !zeroBits (cm[1]) 16 48 || n = 0 || decide (16384 < n) then none
  else
    let ps := (List.range n).map fun i => memNat s.hostMem ((cm[3]).toNat + 8 * i) 8
    if !(ps.all fun p => s.inService p && (s.pkg p).attested) then none
    else
      let g : CollGroup := { gid := gid, gen := BitVec.ofNat 32 (s.nextGroupGen gid), void := false, keyed := true,
                             members := ps.map fun p => (BitVec.ofNat 14 p, (s.pkg p).bootGen, (s.pkg p).reportDigest) }
      some ((ps.foldl (fun t p => t.noteGen gid (s.nextGroupGen gid) p) s).modCores (ps.map fun p => s.standIn (launchEngine p 0)) fun x => { x with eng := { x.eng with groups := x.eng.groups.filter (fun y => y.gid != gid) ++ [g] } })

/-- Power limit (R358): doubleword 1 in watts, 1,500 to 4,600. -/
def pfPower (cm : Vector Word 8) (s : State) : Option State :=
  if (cm[1]).toNat < 1500 || 4600 < (cm[1]).toNat then none else some (s.modHome fun k => { k with powerLimit := fld (cm[1]) 0 16 })

/-- PF commands by TYPE: 0x40 VF record, 0x41 partition table, 0x42 group forming, 0x43 power limit (DESIGN CHOICE, log entry 43: R352 gives the range and only
R357 a number in it, 0x4F). A VF may give none. -/
def pfAct : HostAct := fun vf _ cm _ s =>
  if vf != 0 then none
  else match (cmdType cm).toNat with
    | 0x40 => pfRecord cm s
    | 0x41 => pfPartition cm s
    | 0x42 => pfGroup cm s
    | 0x43 => pfPower cm s
    | _ => none

/-- PF_COMMAND (R274, R327, R332, R352, R358); 0x4F is DEVICE_RESET's. -/
def execPfCommand (s : State) : Host.Outcome State Fault Refusal := s.hostCmd (fun t => decide (0x40 ≤ t.toNat) && decide (t.toNat < 0x4F)) noWait pfAct

/-- JOURNAL_WINDOW_WRITE (R352): function and queue of the event's command, entry number in the event's word. -/
def execJournalWindowWrite (s : State) : Host.Outcome State Fault Refusal :=
  .next (if s.at_ != hostAgent (pkgOf s.at_) || !s.home.queueOpen s.ev.cmd.vf s.ev.cmd.queue then s
  else s.modHome fun k => k.modFn s.ev.cmd.vf fun f => { f with jsel := put f.jsel s.ev.cmd.queue (fld s.ev.w 0 16) })

/-! Host accesses to device memory (R323). -/

/-- The doublewords that a host read returns, each with its offset. -/
def readAnswers (off : Word) (bs : List Byte) : List (Word × Word) :=
  (List.range ((bs.length + 7) / 8)).map fun i => (off + BitVec.ofNat 64 (8 * i), headDw bs i)

/-- A NACK of the home counted for the function (R333). -/
def Func.nacked (f : Func) (c : Cause) : Func :=
  { f with nacks := put f.nacks c.toNat ((look f.nacks c.toNat).getD 0 + 1), eccu := if c = cEccu then f.eccu + 1 else f.eccu }

/-- A host access completed with Unsupported Request, which is counted for the VF (R323). -/
def State.unsupported (s : State) (vf : Nat) : State := s.modHome fun k => k.modFn vf fun f => { f with unsupported := f.unsupported + 1 }

/-- HOST_MEMORY_ACCESS (R323): VF `idx` reads `n` bytes, or with `flag` writes the event's bytes, at offset `w2` of space `w`. The agent performs it for the VF's
tenant at the homes, under R203; it waits while the range slides (R321). One whose MAC does not verify completes with ECCU (R330). -/
def execHostMemoryAccess (s : State) : Host.Outcome State Fault Refusal :=
  .next (
    let vf := s.ev.idx
    let f := s.home.fn vf
    let sp : BitVec 8 := fld s.ev.w 0 8
    let n := if s.ev.flag then s.ev.bytes.length else s.ev.n
    if s.at_ != hostAgent (pkgOf s.at_) then s
    else if !f.valid || f.ten == 0 || !(sp == f.gsa || sp == f.gsb) then s.unsupported vf
    else if s.ideFailed f then
      s.modHome fun k => k.modFn vf fun x => x.nacked cEccu
    else match s.home.rangeOf f.ten sp s.ev.w2 n with
      | .held => s
      | .refused _ _ => s.unsupported vf
      | .ok e =>
        if !f.grants vf e then s.unsupported vf
        else if s.ev.flag then
          let r := s.writeParts f.ten s.ev.bytes (partsAt e (pkgOf s.at_) s.ev.w2 n)
          match r.2.2 with
          | some (c, _) => r.1.modHome fun k => k.modFn vf fun x => x.nacked c
          | none => r.1
        else
          let t := s.seeParts f.ten (partsAt e (pkgOf s.at_) s.ev.w2 n)
          match s.readParts f.ten (partsAt e (pkgOf s.at_) s.ev.w2 n) with
          | .ok bs => t.modHome fun k => k.modFn vf fun x => { x with answers := x.answers ++ readAnswers s.ev.w2 bs }
          | .refused c _ => t.modHome fun k => k.modFn vf fun x => x.nacked c
          | .held => s)

end Sys2Proof.Machine
end

