-- ==== Sys2Proof/Machine/Tensor.lean ====
section
/-! DEFINITION. Tensor maps and walks (R115 to R117), MO 0x1A and 0x26. -/

namespace Sys2Proof.Machine

/-- TYPE of a map (R115). -/
def TMap.type (m : TMap) : TypeCode := fld m.head 18 4
/-- BASE. -/
def TMap.base (m : TMap) : BitVec 18 := fld m.head 0 18
/-- Count of dimension `i`. -/
def TMap.count (m : TMap) (i : Nat) : Nat := (fld m.shape (32 * i) 16).toNat
/-- Byte stride of dimension `i`. -/
def TMap.stride (m : TMap) (i : Nat) : Int := (fld m.shape (32 * i + 16) 16).toInt
/-- Element size in bytes. -/
def TMap.size (m : TMap) : Nat := laneWidth m.type / 8
/-- Lanes of a strip. -/
def TMap.lanes (m : TMap) : Nat := laneCount m.type
/-- E, the elements of the walk (R117). -/
def TMap.total (m : TMap) : Nat := m.count 0 * m.count 1 * m.count 2 * m.count 3
/-- S, the strips of the walk (R225). -/
def TMap.strips (m : TMap) : Nat := (m.total + m.lanes - 1) / m.lanes

/-- Byte address of element `e` (R117), exact and signed; `none` outside the walk. -/
def TMap.addr (m : TMap) (e : Nat) : Option Int :=
  if m.total ≤ e then none
  else
    let n0 := m.count 0; let n1 := m.count 1; let n2 := m.count 2
    some ((m.base.toNat : Int) + (e % n0 : Nat) * m.stride 0 + (e / n0 % n1 : Nat) * m.stride 1 + (e / (n0 * n1) % n2 : Nat) * m.stride 2 +
      (e / (n0 * n1 * n2) : Nat) * m.stride 3)

/-- Addresses of the lanes of strip `j`. -/
def TMap.strip (m : TMap) (j : Nat) : List (Option Int) := (List.range m.lanes).map fun i => m.addr (j * m.lanes + i)

/-- The record check of `tmld` (R116): POISON, then ALIGN. -/
def TMap.check (m : TMap) : Option Cause :=
  if !zeroBits m.head 22 106 || 12 ≤ m.type.toNat then some cPoison
  else if m.base.toNat % m.size != 0 || (List.range 4).any (fun i => m.stride i % (m.size : Int) != 0) then some cAlign
  else none

/-- The checks of a strip's lanes in order (R117). -/
def State.stripCheck (s : State) (store : Bool) (w : Nat) : List (Option Int) → Option Trap
  | [] => none
  | none :: t => s.stripCheck store w t
  | some a :: t =>
    match s.nearCheck store (BitVec.ofInt 64 a) w w with
    | some e => some e
    | none => s.stripCheck store w t

/-- The byte ranges of a strip. -/
def stripRanges (w : Nat) (as : List (Option Int)) : List (Nat × Nat) := as.filterMap fun a => a.map fun x => (x.toNat, w)

/-- The lanes of a checked strip as a register (R117). -/
def State.stripRead (s : State) (w : Nat) (as : List (Option Int)) : Strip :=
  BitVec.ofNat 256 (ofLanes (8 * w) (as.map fun a => match a with
    | some x => leNat (s.nearBytes x.toNat w)
    | none => 0))

/-- A checked strip written, lanes in order (R117); the whole walk is one access. -/
def State.stripWrite (s : State) (w : Nat) (as : List (Option Int)) (v : Strip) : State :=
  s.nearStores (as.zipIdx.filterMap fun p => p.1.map fun x => (x.toNat, leBytes w (lane (8 * w) v p.2)))

/-- Strip `j` of a walk loaded. -/
def State.walkLoad (s : State) (m : TMap) (j : Nat) : Except Trap (Strip × State) :=
  let as := m.strip j
  match s.stripCheck false m.size as with
  | some t => .error t
  | none => .ok (s.stripRead m.size as, s.watch true false s.ten (stripRanges m.size as))

/-- Strip `j` of a walk stored. -/
def State.walkStore (s : State) (m : TMap) (j : Nat) (v : Strip) : Except Trap State :=
  let as := m.strip j
  match s.stripCheck true m.size as with
  | some t => .error t
  | none => .ok (s.stripWrite m.size as v)

/-- `tmld` (R116). -/
def tmldEff (t : BitVec 3) (a : BitVec 5) (o : BitVec 12) (s : State) : Effect :=
  let ea := s.ea a (sext o)
  match s.load a ea 32 16 with
  | .error e => .trap e
  | .ok (bs, s') =>
    let m : TMap := { head := BitVec.ofNat 128 (leNat (bs.take 16)), shape := BitVec.ofNat 128 (leNat (bs.drop 16)) }
    match m.check with
    | some c => .trap (.atBase a c ea ea)
    | none => .ok (s'.setTm t m)

/-- `tmld` (R116). -/
def execTmld (t : BitVec 3) (a : BitVec 5) (o : BitVec 12) (s : State) : Host.Outcome State Fault Refusal :=
  finish 4 s (tmldEff t a o s)

/-- `tmbase` (R116). -/
def tmbaseEff (t : BitVec 3) (a : BitVec 5) (s : State) : Effect :=
  let x := s.g a
  if !zeroBits x 18 46 then .trap (.plain cPlacement x)
  else if x.toNat % (s.tm t).size != 0 then .trap (.plain cAlign x)
  else .ok (s.setTm t { s.tm t with head := setFld (s.tm t).head 0 (fld x 0 18) })

/-- `tmbase` (R116). -/
def execTmbase (t : BitVec 3) (a : BitVec 5) (s : State) : Host.Outcome State Fault Refusal := finish 4 s (tmbaseEff t a s)

/-- `tmcnt` (R116). -/
def execTmcnt (t : BitVec 3) (a : BitVec 5) (d : BitVec 2) (s : State) : Host.Outcome State Fault Refusal :=
  finish 4 s (.ok (s.setTm t { s.tm t with shape := setFld (s.tm t).shape (32 * d.toNat) (fld (s.g a) 0 16) }))

/-- `twld` (R117). -/
def twldEff (o t : BitVec 3) (a : BitVec 5) (s : State) : Effect :=
  match s.walkLoad (s.tm t) (s.g a).toNat with
  | .error e => .trap e
  | .ok (v, s') => .ok (s'.setO o v)

/-- `twld` (R117). -/
def execTwld (o t : BitVec 3) (a : BitVec 5) (s : State) : Host.Outcome State Fault Refusal := finish 4 s (twldEff o t a s)

/-- `twst` (R117). -/
def twstEff (o : BitVec 3) (l : BitVec 1) (t : BitVec 3) (a : BitVec 5) (s : State) : Effect :=
  match s.walkStore (s.tm t) (s.g a).toNat (s.o o) with
  | .error e => .trap e
  | .ok s' => .ok (s'.useO [(o, l)])

/-- `twst` (R117). -/
def execTwst (o : BitVec 3) (l : BitVec 1) (t : BitVec 3) (a : BitVec 5) (s : State) : Host.Outcome State Fault Refusal := finish 4 s (twstEff o l t a s)

end Sys2Proof.Machine
end

