-- ==== Sys2Proof/Machine/Streams.lean ====
section
/-! DEFINITION. Stream registers (R225 to R228), MO 0x19, and the stream unit's reads. -/

namespace Sys2Proof.Machine

/-- A stream register of the acting slot: 0 to 3 si, 4 and 5 so. -/
def State.stream (s : State) (n : Nat) : Option Stream := if n < 4 then (s.act.si.toList.getD n none) else (s.act.so.toList.getD (n - 4) none)

/-- A stream register replaced. -/
def State.setStream (s : State) (n : Nat) (x : Option Stream) : State :=
  if n < 4 then s.modAct fun a => { a with si := a.si.setIfInBounds n x } else s.modAct fun a => { a with so := a.so.setIfInBounds (n - 4) x }

/-- `sbind` (R225). -/
def sbindEff (r t : BitVec 3) (s : State) : Effect :=
  let m := s.tm t
  if 2 ^ 48 ≤ m.strips then .trap (.plain cStream (BitVec.ofNat 64 m.strips))
  else .ok (s.setStream r.toNat (some { map := m, next := 0, buf := [] }))

/-- `sbind` (R225). -/
def execSbind (r t : BitVec 3) (s : State) : Host.Outcome State Fault Refusal := finish 4 s (sbindEff r t s)

/-- `sdrop` (R225). -/
def execSdrop (r : BitVec 3) (s : State) : Host.Outcome State Fault Refusal := finish 4 s (.ok (s.setStream r.toNat none))

/-- The status of R228. -/
def streamStatus (x : Option Stream) : Word :=
  match x with
  | none => 0
  | some x => BitVec.ofNat 64 (2 ^ 56 + 2 ^ 52 * x.buf.length + x.next)

/-- `sstat` (R225, R228). -/
def execSstat (r : BitVec 3) (d : BitVec 5) (s : State) : Host.Outcome State Fault Refusal :=
  finish 4 s (.ok (s.setG d (streamStatus (s.stream r.toNat))))

/-- A pop of si register `n` into o register `o` (R226). -/
def siPop (n : Nat) (o : BitVec 3) (s : State) : Effect :=
  match s.stream n with
  | none => .trap (.plain cStream 0)
  | some x =>
    if x.next = x.map.strips then .trap (.plain cStream (BitVec.ofNat 64 x.next))
    else
      match x.buf with
      | [] => .stall false
      | .bad c a :: _ => .trap (.atNear c a a)
      | .good v :: rest => .ok ((s.setStream n (some { x with next := x.next + 1, buf := rest })).setO o v)

/-- A write of o register `o` to so register `n` (R227). -/
def soPush (n : Nat) (o : BitVec 3) (l : BitVec 1) (s : State) : Effect :=
  match s.stream (4 + n) with
  | none => .trap (.plain cStream 0)
  | some x =>
    if x.next = x.map.strips then .trap (.plain cStream (BitVec.ofNat 64 x.next))
    else
      match s.walkStore x.map x.next (s.o o) with
      | .error t => .trap t
      | .ok t => .ok ((t.setStream (4 + n) (some { x with next := x.next + 1 })).useO [(o, l)])

/-- An input stream register wants its next strip: at most four strips stand fetched and not popped (R226). Register `p` is si register p mod 4 of slot p / 4. -/
def State.wantsStrip (s : State) (p : Nat) : Bool :=
  let t := { s with slot := Fin.ofNat 4 (p / 4) }
  match t.stream (p % 4) with
  | none => false
  | some x => t.act.busy && decide (x.buf.length < 4) && decide (x.next + x.buf.length < x.map.strips)

/-- The register that the stream unit serves next: the first that wants a strip behind the one served last (R226: round robin). -/
def State.nextStrip (s : State) : Option Nat := ((List.range 16).map fun k => (s.here.strip + 1 + k) % 16).find? s.wantsStrip

/-- The next strip of a register read: its check may fail (R226). -/
def State.fetchStrip (s : State) (p : Nat) : State :=
  let t := { s with slot := Fin.ofNat 4 (p / 4), here := { s.here with strip := p } }
  let u := match t.stream (p % 4) with
    | none => t
    | some x => match t.walkLoad x.map (x.next + x.buf.length) with
      | .error e => t.setStream (p % 4) (some { x with buf := x.buf ++ [Strip1.bad e.cause e.value] })
      | .ok (v, u) => u.setStream (p % 4) (some { x with buf := x.buf ++ [Strip1.good v] })
  { u with slot := s.slot }

/-- STREAM_STRIP_FETCH (R226): the stream unit reads the next strip for the register whose turn it is; with none that wants a strip it has nothing to do. -/
def execStreamStripFetch (s : State) : Host.Outcome State Fault Refusal :=
  .next (match s.nextStrip with
  | none => s
  | some p => s.fetchStrip p)

end Sys2Proof.Machine
end

