-- ==== Sys2Proof/Machine/Moves.lean ====
section
/-! DEFINITION. Moves between files, MO 0x23 (R104, R105), and `c.vmov` (R99). -/

namespace Sys2Proof.Machine

/-- `vmov oN, vM` (R104). -/
def execVmovOV (v : BitVec 5) (o : BitVec 3) (s : State) : Host.Outcome State Fault Refusal := finish 4 s (.ok (s.setO o (s.v v)))

/-- `vmov vM, oN` (R104). -/
def execVmovVO (v : BitVec 5) (o : BitVec 3) (l : BitVec 1) (s : State) : Host.Outcome State Fault Refusal :=
  finish 4 s (.ok ((s.useO [(o, l)]).setV v (s.o o)))

/-- `vmov oN, oM` (R104). -/
def execVmovOO (m o : BitVec 3) (l : BitVec 1) (s : State) : Host.Outcome State Fault Refusal :=
  finish 4 s (.ok ((s.useO [(m, l)]).setO o (s.o m)))

/-- `vmov oN, port` (R105): a stream pop, a link pop, or a forwarded read. -/
def execVmovOport (p : BitVec 5) (o : BitVec 3) (w : BitVec 1) (s : State) : Host.Outcome State Fault Refusal :=
  finish 4 s (if p.toNat < 8 then siPop (p.toNat % 4) o s
    else if w = 1 then linkForward (Fin.ofNat 4 p.toNat) (fun t v => t.setO o v) s
    else linkPop (Fin.ofNat 4 p.toNat) (fun t v => t.setO o v) s)

/-- `vmov port, oN` (R105): a stream write or a link write. -/
def execVmovPorto (p : BitVec 5) (o : BitVec 3) (l : BitVec 1) (s : State) : Host.Outcome State Fault Refusal :=
  finish 4 s (if p.toNat < 8 then soPush (p.toNat % 2) o l s else linkWrite (Fin.ofNat 4 p.toNat) o l s)

/-- `vsplat` (R104). -/
def execVsplat (g : BitVec 5) (o : BitVec 3) (t : BitVec 4) (s : State) : Host.Outcome State Fault Refusal :=
  finish 4 s (.ok (s.setO o (BitVec.ofNat 256 (ofLanes (laneWidth t) (List.replicate (laneCount t) (s.g g).toNat)))))

/-- `vext` (R104). -/
def execVext (g : BitVec 5) (o : BitVec 3) (l : BitVec 1) (n : BitVec 5) (t : BitVec 4) (s : State) : Host.Outcome State Fault Refusal :=
  finish 4 s (.ok ((s.useO [(o, l)]).setG g (extLane t (s.o o) n.toNat)))

/-- `vins` (R104): the other lanes are kept, zero if the register was dead. -/
def execVins (g : BitVec 5) (o : BitVec 3) (n : BitVec 5) (t : BitVec 4) (s : State) : Host.Outcome State Fault Refusal :=
  finish 4 s (.ok (s.setO o (BitVec.ofNat 256 (ofLanes (laneWidth t)
    ((List.range (laneCount t)).map fun i => if i = n.toNat then (s.g g).toNat else lane (laneWidth t) (s.o o) i)))))

/-- `kmov kN, gM` (R104). -/
def execKmovKG (g : BitVec 5) (k : BitVec 2) (s : State) : Host.Outcome State Fault Refusal := finish 4 s (.ok (s.setK k (fld (s.g g) 0 32)))

/-- `kmov gM, kN` (R104). -/
def execKmovGK (g : BitVec 5) (k : BitVec 2) (s : State) : Host.Outcome State Fault Refusal := finish 4 s (.ok (s.setG g (zext (s.k k))))

/-- `c.vmov oN, vM` (R99). -/
def execCVmovOV (o : BitVec 3) (v : BitVec 5) (s : State) : Host.Outcome State Fault Refusal := finish 2 s (.ok (s.setO o (s.v v)))

/-- `c.vmov vM, oN` (R99). -/
def execCVmovVO (o : BitVec 3) (v : BitVec 5) (l : BitVec 1) (s : State) : Host.Outcome State Fault Refusal :=
  finish 2 s (.ok ((s.useO [(o, l)]).setV v (s.o o)))

end Sys2Proof.Machine
end

