-- ==== Sys2Proof/Machine/Nack.lean ====
section
/-! DEFINITION. A NACK at the source of the message it refuses (R171, R245), and who is told beside the tenant. -/

namespace Sys2Proof.Machine

/-- The header that a NACK refuses. -/
def Msg.refused (m : Msg) : BitVec 128 := fld (m.flit 0) 128 128

/-- Offset in its space at which a copy's part failed: of the granule for KEYTAG and ECCU, whose value is a near address, or at a pool home the offset itself (log entry 60);
else of the part (R231, R232). -/
def failOffset (m : Msg) (r : SentRec) : Word :=
  if isPoolAgent r.dst ∧ m.byte 0 = cEccu then m.dw 1
  else if m.byte 0 = cKeyTag ∨ m.byte 0 = cEccu then r.off + (m.dw 1 - zext (fld m.refused 6 18))
  else r.off

/-- A copy engine's own request refused (R231, R232): the part fails, and an uncorrectable error at the home also goes to the engine's supervisor (R235, R247). It
makes no record for a trap core. -/
def State.copyNack (s : State) (m : Msg) (r : SentRec) (id part : Nat) (unit : BitVec 4) : State :=
  let t := s.failPart id part (m.byte 0) unit (failOffset m r)
  if m.byte 0 = cEccu then t.faultRecord 3 0 r.cid r.space (failOffset m r) 0 else t

/-- A refused push's stamp request (R282, R283): the storing keeper is done with the record and refuses the push itself. -/
def State.stampNack (s : State) (m : Msg) (key : Nat) : State :=
  match s.keeper.record key with
  | none => s
  | some r => (s.modRecord key fun x => { x with freed := true }).nack { hdr := r.push, aword := 0, pay := [], pool := 0, sys := true } (m.byte 0) (m.dw 1)

/-- What a NACK does at the refused message's source (R245): the message is settled, the activation that sent it becomes an asynchronous record, and whoever waits
for the message is told: a `get` (R206), a copy (R231), a launch (R164, R273), a keeper (R289). -/
def State.nackArrives (s : State) (m : Msg) : State :=
  let hdr := m.refused
  let dst : CoreAddr := fld hdr 99 29
  let pseq : BitVec 16 := fld hdr 30 16
  match s.here.net.sentTo dst pseq with
  | none => s.settle m
  | some r =>
    let t := (s.modNet fun n => n.unsend dst pseq).settle m
    match r.who with
    | .plain => t.nackRecord m r hdr
    | .getPart id near => (t.modGet id fun g => { g with left := g.left.filter (fun p => p.near != near), fails := g.fails ++ [(r.off, m.byte 0)] }).nackRecord m r hdr
    | .copyRead i o => t.copyNack m r i o 1
    | .copyWrite i o => t.copyNack m r i o 2
    | .record => t
    | .stamp key => t.stampNack m key
    | .wake lid => t.launchFailed lid (cidTen r.cid) r.dst
    | .comp gid gseq => match (t.keeper.stack gid).find? fun x => x.gseq == gseq with
      | none => t
      | some x => t.strand x.aid gseq (t.anchorRec x) noRecord
    | .vote _ => t.nackRecord m r hdr

/-- NACK (R171, R245): a NACK from core `src` arrives. -/
def execNack (s : State) : Host.Outcome State Fault Refusal := .next (s.takes .nack (fun _ => true) fun m t => t.nackArrives m)

end Sys2Proof.Machine
end

