-- ==== Sys2Proof/Machine/Paired.lean ====
section
/-! DEFINITION. Paired execution (R255, R256): the exchange of fingerprints between a primary and its twin, and the budget (R42, R250). -/

namespace Sys2Proof.Machine

/-- Where a paired run stands: it goes on; it waits at a checkpoint (R256: number 1 upward, 0xFFFF for END) with its fingerprint; or it has trapped. -/
inductive PairPoint where
  | running
  | point (n : Nat) (fp : Word)
  | trapped (t : Trap) (pc : Word)
  deriving DecidableEq, Repr

/-- The acting slot's next instruction ends its activation. -/
def State.atEnd (s : State) : Bool :=
  match s.insnAt s.pc with
  | .ok (.insn .end_) => true
  | .ok (.insn .cEnd) => true
  | _ => false

/-- A paired run has reached its next checkpoint of 1,024 retired instructions. -/
def Act.atCheckpoint (a : Act) : Bool := a.instret.toNat % 1024 == 0 && decide (a.ckpt < a.instret.toNat / 1024)

/-- Where the acting slot's paired run stands. -/
def State.pairPoint (s : State) : PairPoint :=
  let a := s.act
  match a.ptrap with
  | some t => .trapped t a.pc
  | none =>
    if a.atCheckpoint then .point (a.instret.toNat / 1024) a.fp
    else if a.ckpt ≠ 0xFFFF ∧ s.atEnd then .point 0xFFFF a.fp
    else .running

/-- The slot of a core that runs the twin of a primary's activation: the run of the same message, whose copy keeps its DST. -/
def Core.twinSlot (c : Core) (a : Act) : Option (Fin 4) :=
  (List.finRange 4).find? fun i => let b := c.acts[i]
    b.busy && b.paired && b.trig.dst == a.trig.dst && b.trig.src == a.trig.src && b.trig.pseq == a.trig.pseq && b.ch == a.ch

/-- The machine with something done at a slot of a core. -/
def State.atSlot (s : State) (c : CoreAddr) (i : Fin 4) (f : State → State) : State :=
  s.at c fun u => { f { u with slot := i } with slot := u.slot }

/-- A dropped paired run (R256): its slot is freed with its outbox, and its queue entry is kept for a dispatch with D set; the last drop frees the entry too. -/
def State.dropRun (s : State) (last : Bool) : State :=
  let a := s.act
  if last then s.freeEntry.freeSlot
  else (s.modNet fun n => n.setQueue a.ch (mapFirst (fun e => e.running && e.msg == a.trig)
      (fun e => { e with running := false, drops := e.drops + 1, msg := { e.msg with hdr := e.msg.hdr ||| 1 } }) (n.queue a.ch))).freeSlot

/-- How often the acting slot's message was dropped. -/
def State.dropsOf (s : State) : Nat :=
  match (s.here.net.queue s.act.ch).find? fun e => e.running && e.msg == s.act.trig with
  | some e => e.drops
  | none => 0

/-- The PAIRMISM record of the acting slot's activation (R239, R245, R256). -/
def State.pairRecord (s : State) (n : Nat) : Record :=
  { s.syncRecord (.plain cPairMism (BitVec.ofNat 64 n)) true with async := true, pc := 0 }

/-- A compensation that a fourth failure retires tells the keeper that sent it (R289), behind its record. -/
def State.compFailed (s : State) (a : Act) (r : Record) (org : Origin) : State := if bit a.csr.asid 36 then s.ascentTrap a r org else s

/-- A mismatch at checkpoint `n` (R256): both runs are dropped and redelivered; the fourth one is retired with a PAIRMISM record from the primary. -/
def State.mismatch (s : State) (tc : CoreAddr) (j : Fin 4) (n : Nat) : State :=
  let last := decide (3 ≤ s.dropsOf)
  let r := s.pairRecord n
  let org := s.origin
  let a := s.act
  let t := (s.dropRun last).atSlot tc j (fun u => u.dropRun last)
  if last then (t.deliver s.classS a.trig.cid r org a.sends).compFailed a r org else t

/-- Two paired runs compared (R256). Where both meet an uncorrectable error at one pc, in mode D, both are dropped and redelivered, and the fourth failure is the ECCU record with REDEL set
(R161, R254). -/
def State.compare (s : State) (tc : CoreAddr) (j : Fin 4) (p q : PairPoint) : State :=
  let next := s.act.instret.toNat / 1024 + 1
  match p, q with
  | .running, _ => s
  | _, .running => s
  | .point n f, .point m g =>
    if n = m ∧ f = g then (s.modAct fun a => { a with ckpt := n }).atSlot tc j (fun u => u.modAct fun a => { a with ckpt := n })
    else s.mismatch tc j n
  | .trapped t x, .trapped u y =>
    if t.cause = u.cause ∧ x = y then
      (if t.cause = cEccu ∧ s.dropsOf < 3 then (s.dropRun false).atSlot tc j (fun v => v.dropRun false)
      else (s.takeTrap t (t.cause == cEccu)).atSlot tc j (fun v => v.dropRun true))
    else s.mismatch tc j next
  | .point n _, .trapped _ _ => s.mismatch tc j n
  | .trapped _ _, .point n _ => s.mismatch tc j n

/-- The number of the checkpoint that a run goes to next. -/
def Act.nextPoint (a : Act) : Nat := a.instret.toNat / 1024 + 1

/-- A paired run that no partner runs beside is dropped alone, as a mismatch is, its primary with the record (DESIGN CHOICE, log entry 62). -/
def State.dropAlone (s : State) : State :=
  let last := decide (3 ≤ s.dropsOf)
  let a := s.act
  let r := s.pairRecord a.nextPoint
  let org := s.origin
  let t := s.dropRun last
  if last && !s.isTwin then (t.deliver s.classS a.trig.cid r org a.sends).compFailed a r org else t

/-- The acting slot's primary run meets its twin although one of them has not reached the point: the budget of one is spent (R42). Equal traps make one record, anything else is a
mismatch (R256). -/
def State.settlePair (s : State) : State :=
  match neighbour s.at_ 0 with
  | none => s.dropAlone
  | some tc => match (s.core tc).twinSlot s.act with
    | none => s.dropAlone
    | some j =>
      match s.pairPoint, ({ s.focus tc with slot := j }).pairPoint with
      | .trapped t x, .trapped u y => s.compare tc j (.trapped t x) (.trapped u y)
      | _, _ => s.mismatch tc j s.act.nextPoint

/-- A paired run whose budget is spent leaves its slot (R42, R169): it has trapped with BUDGET, unless it trapped before, and meets its partner as they stand. -/
def State.pairBudget (s : State) (t : Trap) : State :=
  let u := if s.act.ptrap.isSome then s else s.trap t
  if !u.isTwin then u.settlePair
  else match (u.core u.act.trig.dst).twinSlot u.act with
    | none => u.dropAlone
    | some i => u.atSlot u.act.trig.dst i State.settlePair

/-- BUDGET (R42, R250): the activation is ended with VALUE the entry's BUDGET and FADDR 0. An event at a slot whose budget is not spent has no effect. -/
def execBudget (s : State) : Host.Outcome State Fault Refusal :=
  .next (if s.spent then
      let t := Trap.plain cBudget (zext s.act.budget)
      if s.act.paired then s.pairBudget t else s.trap t
    else s)

/-- FINGERPRINT_CHECKPOINT (R256): the primary in slot `idx` and its twin exchange fingerprints, once both stand at a checkpoint or have trapped. -/
def execFingerprintCheckpoint (s : State) : Host.Outcome State Fault Refusal :=
  let i : Fin 4 := Fin.ofNat 4 s.ev.idx
  let u := { s with slot := i }
  .next (if !(u.act.busy && u.act.paired && u.act.trig.dst == s.at_) then s
  else match neighbour s.at_ 0 with
    | none => s
    | some tc => match (s.core tc).twinSlot u.act with
      | none => s
      | some j => { u.compare tc j u.pairPoint ({ u.focus tc with slot := j }).pairPoint with slot := s.slot })

end Sys2Proof.Machine
end

