-- ==== Sys2Proof/Machine/Reset.lean ====
section
/-! DEFINITION. Resets, scrubbing and power (R43, R334, R356 to R358). -/

namespace Sys2Proof.Machine

/-! Cold reset and device reset (R356, R357). -/

/-- A core after a reset of its package: that of R43, absent if the quarantine map says so (R259, R356 step 3). -/
def Package.coreAfter (k : Package) (a : CoreAddr) : Core := { Core.reset with present := !k.absent.contains a.toNat }

/-- A package after a cold or device reset: the quarantine and engine maps and the root of trust's counters (boot generation and partition epochs) are kept, and everything
else is discarded (R357). Each reset raises the boot generation (R274). A package whose dies are not all joined is taken out of service (R264); withdrawn modules stay
withdrawn. `failed` is the bring-up step that failed, 0 for none (R356); firmware is loaded unless its verification, step 1, failed (R331). -/
def Package.afterReset (k : Package) (failed : Nat) (firmware : List Byte) : Package :=
  { Package.reset with
    absent := k.absent
    rowsUsed := k.rowsUsed
    engMap := k.engMap
    modules := k.modules
    bootGen := k.bootGen + 1
    groupGens := k.groupGens
    firmware := if failed = 1 then [] else firmware
    parts := k.parts.map fun p => (p.1, { Partition.zero with sectors := if p.1 = 0 then BitVec.allOnes 32 else 0, fports := if p.1 = 0 then BitVec.allOnes 48 else 0,
                                                               pports := if p.1 = 0 then BitVec.allOnes 16 else 0, epoch := p.2.epoch })
    inReset := failed != 0
    resetCause := failed
    outOfService := !k.joined }

/-- Bring-up's step 4 (R356): the pool agents have programmed an HDM decoder for every Type 3 device found, and the supervisors place the device regions on the package's cores and pool. What is found and placed comes with
the event. -/
def State.bringUpPool (s : State) : State :=
  (s.ev.regions.filter fun e => e.space == 0xFF && e.owner == 0 && e.homes.all fun a => pkgOf a == pkgOf s.at_).foldl State.placeRegion (s.modHome fun k => { k with hdm := s.ev.found })

/-- Every core of the acting core's package reset, and what was on its way inside or out of the package lost. The pool is brought up unless a step before it failed, or it failed itself. Bring-up
is one step of the model (DESIGN CHOICE, log entry 45). -/
def State.resetPackage (s : State) (failed : Nat) (firmware : List Byte) : State :=
  let p := pkgOf s.at_
  let k := s.home.afterReset failed firmware
  let gone := fun (a : CoreAddr) => pkgOf a == p
  let t := { s with
    here := k.coreAfter s.at_
    slot := 0
    away := s.away.filter fun (c : Nat × Core) => !gone (BitVec.ofNat 29 c.1)
    flight := s.flight.filter fun m => !gone m.dst
    acks := s.acks.filter fun a => !gone a.dst
    transit := s.transit.filter fun m => m.pkg != p }
  let u := (k.absent.filter (· != s.at_.toNat)).foldl (fun u a => u.setCore (BitVec.ofNat 29 a) { Core.reset with present := false }) (t.setPkg p k)
  if failed = 0 ∨ 4 < failed then u.bringUpPool else u

/-- The bring-up step that fails (R331, R356): the first, unless both signatures of the firmware verify; with `flag` of the event step `n`. -/
def bootFailure (e : EvArg) : Nat :=
  let ok := Config.firmwareOk e.bytes
  if !(ok.1 && ok.2) then 1 else if e.flag then e.n else 0

/-- COLD_RESET (R356, R357): power reset and bring-up of the package with the firmware image in the event's bytes. A bring-up step that fails leaves the device in reset. -/
def execColdReset (s : State) : Host.Outcome State Fault Refusal := .next (s.resetPackage (bootFailure s.ev) s.ev.bytes)

/-- Device reset as a host command of the PF (R352, R357): bring-up with the firmware that it runs; step `n` of the event fails, none for 0. -/
def deviceResetAct : HostAct := fun vf _ _ _ s => if vf != 0 then none else some (s.resetPackage s.ev.n s.home.firmware)

/-- DEVICE_RESET (R357): PF command 0x4F. -/
def execDeviceReset (s : State) : Host.Outcome State Fault Refusal := s.hostCmd (· == 0x4F) noWait deviceResetAct

/-! Function-level reset (R357). -/

/-- A part of a region scrubbed at its home: zero under key slot 0, or zero in the pool. -/
def State.scrubPart (s : State) (p : Piece) : State :=
  if isPoolAgent p.home then
    let k := s.pkg (pkgOf p.home)
    s.setPkg (pkgOf p.home) { k with pool := putD k.pool (poolPort p.home) (memClear (k.poolMem (poolPort p.home)) p.pool p.len) [] }
  else s.at p.home fun t => t.homeWrite KeyId.system p.near (List.replicate p.len 0)

/-- A region scrubbed (R357). -/
def State.scrub (s : State) (e : RptEntry) : State := (partsAt e (pkgOf s.at_) e.base e.len.toNat).foldl State.scrubPart s

/-- Spill-ring entries discarded: the pair of one that came ahead of its turn goes on past it (R178). -/
def Iface.skipEarly (n : Iface) (l : List SpillEntry) : Iface := { n with skipped := n.skipped ++ (l.filter (·.early)).map (·.msg) }

/-- An interface without a tenant's queued and spilled messages; with its ring empty its quota fault is armed again (R156). -/
def Iface.without (n : Iface) (ten : BitVec 12) : Iface :=
  { n.skipEarly (n.ring ten) with
    queues := (n.queues.map fun q => (q.1, q.2.filter fun e => e.msg.ten != ten)).filter fun q => !q.2.isEmpty
    rings := putD n.rings ten.toNat [] []
    quotaHit := n.quotaHit.filter (· != ten.toNat) }

/-- A launch message of a tenant (R163, R164, R167): a submission, a wake, a failure or a vote. -/
def launchOf (ten : BitVec 12) (m : Msg) : Bool := m.ch == 0 && m.kind == kSystem && m.ten == ten

/-- A message on its way to the acting core, or held there ahead of its turn, is discarded: its pair goes on past it, and it is settled (R178; DESIGN CHOICE, log entry 45). -/
def State.discard (s : State) (m : Msg) : State :=
  (if m.pseq = s.here.net.expectOf m.src then s.ingress m.src m else s.modNet fun n => { n with skipped := n.skipped ++ [m] }).settle m

/-- A tenant's launch messages that have not reached a queue of a package's cores are discarded (R357): a launch that the FLR discards is not accepted or woken afterwards. -/
def State.dropLaunches (s : State) (ten : BitVec 12) : State :=
  let mine := fun (m : Msg) => launchOf ten m && pkgOf m.dst == pkgOf s.at_
  let t := (s.flight.filter mine).foldl (fun t m => t.at m.dst fun u => u.discard m) { s with flight := s.flight.filter fun m => !mine m }
  (packageCores (pkgOf s.at_)).foldl (fun t a => t.at a fun u =>
    (u.here.net.early.filter (launchOf ten)).foldl State.discard (u.modNet fun n => { n with early := n.early.filter fun m => !launchOf ten m })) t

/-- A lessee's state without a launch, whose votes count no more, without its persistent regions, and without placements of a tenant. -/
def Lessee.flr (l : Lessee) (ten : BitVec 12) (mine : Bool) : Lessee :=
  let l := { l with plb := l.plb.filter fun e => e.owner != ten }
  if mine then { l with cnum := 0, lbase := 0, lcnt := 0, lid := 0, lpb := 0, voted := false, wakes := l.wakes + 1, pregs := [], placed := [] } else l

/-- A core without a tenant's queues, rings, launches and placements. -/
def Core.flr (c : Core) (ten : BitVec 12) : Core :=
  { c with
    net := c.net.without ten
    live := c.live.flr ten (c.regs.lessee == ten)
    saved := c.saved.map fun v => { v with lessee := v.lessee.flr ten (v.ten == ten) }
    eng := { c.eng with launches := c.eng.launches.filter fun l => l.ten != ten } }

/-- Messages of a tenant that lie in a ring unperformed: discarded, they are settled (DESIGN CHOICE, log entry 45). -/
def Core.unwritten (c : Core) (ten : BitVec 12) : List Msg := ((c.net.ring ten).filter fun e => !e.written || e.early).map (·.msg)

/-- The persistent regions of a tenant on a core scrubbed under key slot 0 (R164, R357). -/
def State.scrubPregs (s : State) (ten : BitVec 12) (a : CoreAddr) : State :=
  ((s.core a).lesseeOf ten).ranges.foldl (fun t r => t.at a fun u => u.homeWrite KeyId.system r.1 (List.replicate (r.2 - r.1) 0)) s

/-- VF_FLR (R357): function `idx`'s command queues, and for a valid VF its tenant's queues, spill rings, launches with their messages, and regions go; the regions are scrubbed under key slot 0. The journal and
the VF record stay. -/
def execVfFlr (s : State) : Host.Outcome State Fault Refusal :=
  .next (
    let vf := s.ev.idx
    let f := s.home.fn vf
    if s.at_ != hostAgent (pkgOf s.at_) || vf = 0 || decide (31 < vf) then s
    else
      let ten := f.ten
      let all := packageCores (pkgOf s.at_)
      let shut := fun (u : State) => u.modHome fun k => k.modFn vf fun g => { g with win := [], pend := [], status := [], jsel := [] }
      if !f.valid || ten == 0 then shut s
      else
        let t := all.foldl (fun u a => u.scrubPregs ten a) ((s.home.rpt.filter fun e => e.owner == ten).foldl State.scrub s)
        let u := (all.foldl (fun v a => ((v.core a).unwritten ten).foldl State.settle v) t).modCores all fun c => c.flr ten
        shut ((u.dropLaunches ten).modHome fun k => { k with rpt := k.rpt.filter fun e => e.owner != ten }))

/-! Hot reset and what follows (R334). -/

/-- HOT_RESET (R334): a hot reset or link-down of `n` cycles. IDE keys and SPDM sessions go; interrupts due during it are dropped, those due before it have been raised; confidential
partitions stop dispatch. -/
def execHotReset (s : State) : Host.Outcome State Fault Refusal :=
  .next (s.modHome fun k => { k with
    ideKeys := []
    sessions := []
    opening := []
    attested := false
    funcs := k.funcs.map fun f => (f.1, f.2.closeWindows s.time k.downUntil)
    downUntil := s.time + BitVec.ofNat 64 s.ev.n
    parts := k.parts.map fun p => (p.1, if p.2.conf then { p.2 with stoppedAt := some s.time } else p.2) })

/-- A core without its images (R334). One on which an activation still runs stays until that ends (R47), and no message is dispatched on it any more. -/
def Core.evictAll (c : Core) : Core :=
  (List.finRange 8).foldl (fun c n =>
    if c.acts.toList.any fun a => a.busy && entryImg a.entry == n then { c with images := c.images.set n ((c.images[n]).map fun i => { i with stale := true }) }
    else c.dropImage n) c

/-- A core of a scrubbed partition (R334): keys under the raised epoch, local memory zero under key slot 0, no images, no queues and rings. -/
def Core.scrubbed (c : Core) (epoch : Word) : Core :=
  { c.evictAll with
    regs := { c.regs with keys := c.regs.keys.map fun o => o.map fun k => { k with epoch := epoch } }
    mem := { bytes := [], tags := [], bad := [], poison := [] }
    net := { c.net.skipEarly (c.net.rings.flatMap (·.2)) with queues := [], rings := [], quotaHit := [] } }

/-- CONF_SCRUB_TIMEOUT (R334): partition `idx` stood stopped for 10 s and is scrubbed. Then it is as new, and dispatch is no longer stopped (DESIGN CHOICE, log
entry 45). -/
def execConfScrubTimeout (s : State) : Host.Outcome State Fault Refusal :=
  .next (
    let n := s.ev.idx
    let p := s.home.part n
    match p.stoppedAt with
    | none => s
    | some t =>
      if (s.time - t).toNat < tenSeconds then s
      else
        let e := p.epoch + 1
        let mine := (packageCores (pkgOf s.at_)).filter fun a => s.home.partOf a == n
        ((mine.foldl (fun u a => ((u.core a).net.rings.flatMap fun r => (r.2.filter fun x => !x.written || x.early).map (·.msg)).foldl State.settle u) s).modCores mine fun c =>
          c.scrubbed e).modHome fun k => { k with parts := put k.parts n { p with epoch := e, stoppedAt := none } })

/-! Power (R358). -/

/-- POWER_LIMIT_WINDOW (R358): with a draw of `w` watts above the PF's limit, matrix and vector issue is gated for a window of 1 µs. No result changes. -/
def execPowerLimitWindow (s : State) : Host.Outcome State Fault Refusal :=
  .next (if s.home.powerLimit.toNat < s.ev.w.toNat then s.modHome fun k => { k with gateUntil := s.time + 1000 } else s)

end Sys2Proof.Machine
end

