-- ==== Sys2Proof/Machine/Rope.lean ====
section
/-! DEFINITION. Rope command copies at a member (R135, R191). -/

namespace Sys2Proof.Machine

/-- The command that a copy carries (R191): the instruction word's fields, the sampled registers, and the member's own decode tables (R125). It has no lock
yet. -/
def State.ropeCommand (s : State) (m : Msg) : MxCmd :=
  let base : MxCmd :=
    { aseq := 0, qa := 0, qb := 0, bank := 0, hi := false, ch := 0, fmt := fld (m.dw 1) 0 4, badTab := s.tabsBad (fld (m.dw 1) 0 4), scla := fld (m.dw 2) 0 13, sclb := fld (m.dw 3) 0 13, tabA := s.tab 0,
      tabB := s.tab 1, cid := m.cid, locked := false, started := false, arrived := s.time, no := s.here.mx.entered }
  match decodeParts (fld (m.dw 0) 0 32) with
  | .ok (.insn (.mxcmd a b k h c)) => { base with qa := a, qb := b, bank := k, hi := h == 1, ch := c }
  | _ => base

/-- R135 and R191: a member refuses a command that its own state does not match. -/
def State.ropeRefuses (s : State) (m : Msg) (c : MxCmd) : Bool :=
  let r := s.here.mx.rope
  !bit r 0 || (fld (m.dw 0) 32 6 : BitVec 6) != BitVec.ofNat 6 (ropeW r + 8 * ropeH r) || !bit s.here.regs.mcap c.fmt.toNat || !bit s.here.regs.mcap 8 ||
    m.ten != s.here.regs.lessee || xOf s.at_ != xOf m.src + (fld r 13 3).toNat || yOf s.at_ != yOf m.src + (fld r 10 3).toNat

/-- A rope command copy at a member (R135): refused with STAT 0x0E, or queued, with its locks if every slot is LOADED. -/
def State.ropeArrive (s : State) (m : Msg) : State :=
  let c := s.ropeCommand m
  if s.ropeRefuses m c then
    let t := s.settle m
    if c.ch = 0 then t else t.sendOwn s.at_ kReply c.ch c.cid [flit4 (mxWord 0x0E 0 c.bank) 0 0 0]
  else (s.mxEnqueue { c with locked := c.slots.all fun q => (s.q q).st == .loaded }).settle m

/-- ROPE_COMMAND_ARRIVAL (R135, R191): a copy from core `src` reaches the matrix unit; while its queue is full it waits at the ingress. -/
def execRopeCommandArrival (s : State) : Host.Outcome State Fault Refusal :=
  .next (s.takes .ropeCommandArrival (fun _ => decide (s.here.mx.queue.length < 4)) fun m t => t.routeThen m fun u => u.ropeArrive m)

end Sys2Proof.Machine
end

