-- ==== Sys2Proof/Machine/Scalar.lean ====
section
/-! DEFINITION. Scalar register and immediate instructions (R80 to R86) and their 16-bit forms (R99). -/

namespace Sys2Proof.Machine

/-- An instruction of `len` bytes that writes one general register and does nothing else (R80). -/
def writeG (len : Nat) (d : BitVec 5) (v : Word) (s : State) : Host.Outcome State Fault Refusal := finish len s (.ok (s.setG d v))

/-- Count of leading zero bits of the low `n` bits (R81 `clz`). -/
def clzGo (x : Word) : Nat → Nat
  | 0 => 0
  | n + 1 => if bit x n then 0 else clzGo x n + 1

/-- Count of trailing zero bits, from bit `i` up (R81 `ctz`). -/
def ctzGo (x : Word) (i : Nat) : Nat → Nat
  | 0 => 0
  | n + 1 => if bit x i then 0 else ctzGo x (i + 1) n + 1

/-- Count of one bits among the low `n` (R81 `popc`). -/
def popcGo (x : Word) : Nat → Nat
  | 0 => 0
  | n + 1 => popcGo x n + (if bit x n then 1 else 0)

/-- The eight bytes in reverse order (R81 `bswap`). -/
def byteSwap (x : Word) : Word :=
  fld x 0 8 ++ fld x 8 8 ++ fld x 16 8 ++ fld x 24 8 ++ fld x 32 8 ++ fld x 40 8 ++ fld x 48 8 ++ fld x 56 8

/-- Shift count of a register (R81): its low six bits. -/
def shiftCount (b : Word) : Nat := (fld b 0 6).toNat

/-- Signed division (R82): truncated, a quotient that does not exist or does not fit saturates toward its sign, and 0 / 0 is 0. -/
def divS (a b : Word) : Word :=
  if b = 0 then (if a = 0 then 0 else if a.slt 0 then BitVec.ofInt 64 (-(2 ^ 63)) else BitVec.ofInt 64 (2 ^ 63 - 1))
  else
    let q := a.toInt.tdiv b.toInt
    if 2 ^ 63 - 1 < q then BitVec.ofInt 64 (2 ^ 63 - 1) else BitVec.ofInt 64 q

/-- Unsigned division (R82). -/
def divU (a b : Word) : Word := if b = 0 then (if a = 0 then 0 else BitVec.allOnes 64) else BitVec.ofNat 64 (a.toNat / b.toNat)

/-- Signed remainder, with the sign of the dividend (R82). -/
def remS (a b : Word) : Word := if b = 0 then a else BitVec.ofInt 64 (a.toInt.tmod b.toInt)

/-- Unsigned remainder (R82). -/
def remU (a b : Word) : Word := if b = 0 then a else BitVec.ofNat 64 (a.toNat % b.toNat)

/-- Value of `add` (R81): 64-bit wrapping sum. -/
def addVal (a b : Word) : Word := a + b

/-- `add` (R81). -/
def execAdd (d a b : BitVec 5) (s : State) : Host.Outcome State Fault Refusal := writeG 4 d (addVal (s.g a) (s.g b)) s

/-- Value of `sub` (R81): 64-bit wrapping difference. -/
def subVal (a b : Word) : Word := a - b

/-- `sub` (R81). -/
def execSub (d a b : BitVec 5) (s : State) : Host.Outcome State Fault Refusal := writeG 4 d (subVal (s.g a) (s.g b)) s

/-- Value of `and` (R81): AND. -/
def andVal (a b : Word) : Word := a &&& b

/-- `and` (R81). -/
def execAnd (d a b : BitVec 5) (s : State) : Host.Outcome State Fault Refusal := writeG 4 d (andVal (s.g a) (s.g b)) s

/-- Value of `or` (R81): OR. -/
def orVal (a b : Word) : Word := a ||| b

/-- `or` (R81). -/
def execOr (d a b : BitVec 5) (s : State) : Host.Outcome State Fault Refusal := writeG 4 d (orVal (s.g a) (s.g b)) s

/-- Value of `xor` (R81): XOR. -/
def xorVal (a b : Word) : Word := a ^^^ b

/-- `xor` (R81). -/
def execXor (d a b : BitVec 5) (s : State) : Host.Outcome State Fault Refusal := writeG 4 d (xorVal (s.g a) (s.g b)) s

/-- Value of `andn` (R81): a AND NOT b. -/
def andnVal (a b : Word) : Word := a &&& ~~~b

/-- `andn` (R81). -/
def execAndn (d a b : BitVec 5) (s : State) : Host.Outcome State Fault Refusal := writeG 4 d (andnVal (s.g a) (s.g b)) s

/-- Value of `sll` (R81): left shift. -/
def sllVal (a b : Word) : Word := a <<< shiftCount b

/-- `sll` (R81). -/
def execSll (d a b : BitVec 5) (s : State) : Host.Outcome State Fault Refusal := writeG 4 d (sllVal (s.g a) (s.g b)) s

/-- Value of `srl` (R81): logical right shift. -/
def srlVal (a b : Word) : Word := a >>> shiftCount b

/-- `srl` (R81). -/
def execSrl (d a b : BitVec 5) (s : State) : Host.Outcome State Fault Refusal := writeG 4 d (srlVal (s.g a) (s.g b)) s

/-- Value of `sra` (R81): arithmetic right shift. -/
def sraVal (a b : Word) : Word := a.sshiftRight (shiftCount b)

/-- `sra` (R81). -/
def execSra (d a b : BitVec 5) (s : State) : Host.Outcome State Fault Refusal := writeG 4 d (sraVal (s.g a) (s.g b)) s

/-- Value of `ror` (R81): right rotation. -/
def rorVal (a b : Word) : Word := a.rotateRight (shiftCount b)

/-- `ror` (R81). -/
def execRor (d a b : BitVec 5) (s : State) : Host.Outcome State Fault Refusal := writeG 4 d (rorVal (s.g a) (s.g b)) s

/-- Value of `slt` (R81): signed comparison. -/
def sltVal (a b : Word) : Word := boolWord (a.slt b)

/-- `slt` (R81). -/
def execSlt (d a b : BitVec 5) (s : State) : Host.Outcome State Fault Refusal := writeG 4 d (sltVal (s.g a) (s.g b)) s

/-- Value of `sltu` (R81): unsigned comparison. -/
def sltuVal (a b : Word) : Word := boolWord (a.ult b)

/-- `sltu` (R81). -/
def execSltu (d a b : BitVec 5) (s : State) : Host.Outcome State Fault Refusal := writeG 4 d (sltuVal (s.g a) (s.g b)) s

/-- Value of `min` (R81): signed lesser. -/
def minVal (a b : Word) : Word := if a.slt b then a else b

/-- `min` (R81). -/
def execMin (d a b : BitVec 5) (s : State) : Host.Outcome State Fault Refusal := writeG 4 d (minVal (s.g a) (s.g b)) s

/-- Value of `max` (R81): signed greater. -/
def maxVal (a b : Word) : Word := if b.slt a then a else b

/-- `max` (R81). -/
def execMax (d a b : BitVec 5) (s : State) : Host.Outcome State Fault Refusal := writeG 4 d (maxVal (s.g a) (s.g b)) s

/-- Value of `minu` (R81): unsigned lesser. -/
def minuVal (a b : Word) : Word := if a.ult b then a else b

/-- `minu` (R81). -/
def execMinu (d a b : BitVec 5) (s : State) : Host.Outcome State Fault Refusal := writeG 4 d (minuVal (s.g a) (s.g b)) s

/-- Value of `maxu` (R81): unsigned greater. -/
def maxuVal (a b : Word) : Word := if b.ult a then a else b

/-- `maxu` (R81). -/
def execMaxu (d a b : BitVec 5) (s : State) : Host.Outcome State Fault Refusal := writeG 4 d (maxuVal (s.g a) (s.g b)) s

/-- Value of `mul` (R81): low 64 bits of the product. -/
def mulVal (a b : Word) : Word := a * b

/-- `mul` (R81). -/
def execMul (d a b : BitVec 5) (s : State) : Host.Outcome State Fault Refusal := writeG 4 d (mulVal (s.g a) (s.g b)) s

/-- Value of `mhi` (R81): high 64 bits of the signed product. -/
def mhiVal (a b : Word) : Word := BitVec.ofInt 64 (a.toInt * b.toInt / 2 ^ 64)

/-- `mhi` (R81). -/
def execMhi (d a b : BitVec 5) (s : State) : Host.Outcome State Fault Refusal := writeG 4 d (mhiVal (s.g a) (s.g b)) s

/-- Value of `mhiu` (R81): high 64 bits of the unsigned product. -/
def mhiuVal (a b : Word) : Word := BitVec.ofNat 64 (a.toNat * b.toNat / 2 ^ 64)

/-- `mhiu` (R81). -/
def execMhiu (d a b : BitVec 5) (s : State) : Host.Outcome State Fault Refusal := writeG 4 d (mhiuVal (s.g a) (s.g b)) s

/-- Value of `mhisu` (R81): high 64 bits of signed a times unsigned b. -/
def mhisuVal (a b : Word) : Word := BitVec.ofInt 64 (a.toInt * (b.toNat : Int) / 2 ^ 64)

/-- `mhisu` (R81). -/
def execMhisu (d a b : BitVec 5) (s : State) : Host.Outcome State Fault Refusal := writeG 4 d (mhisuVal (s.g a) (s.g b)) s

/-- Value of `div` (R82): signed quotient. -/
def divVal (a b : Word) : Word := divS a b

/-- `div` (R82). -/
def execDiv (d a b : BitVec 5) (s : State) : Host.Outcome State Fault Refusal := writeG 4 d (divVal (s.g a) (s.g b)) s

/-- Value of `divu` (R82): unsigned quotient. -/
def divuVal (a b : Word) : Word := divU a b

/-- `divu` (R82). -/
def execDivu (d a b : BitVec 5) (s : State) : Host.Outcome State Fault Refusal := writeG 4 d (divuVal (s.g a) (s.g b)) s

/-- Value of `rem` (R82): signed remainder. -/
def remVal (a b : Word) : Word := remS a b

/-- `rem` (R82). -/
def execRem (d a b : BitVec 5) (s : State) : Host.Outcome State Fault Refusal := writeG 4 d (remVal (s.g a) (s.g b)) s

/-- Value of `remu` (R82): unsigned remainder. -/
def remuVal (a b : Word) : Word := remU a b

/-- `remu` (R82). -/
def execRemu (d a b : BitVec 5) (s : State) : Host.Outcome State Fault Refusal := writeG 4 d (remuVal (s.g a) (s.g b)) s

/-- Value of `clz` (R81). -/
def clzVal (a : Word) : Word := BitVec.ofNat 64 (clzGo a 64)

/-- `clz` (R81). -/
def execClz (d a : BitVec 5) (s : State) : Host.Outcome State Fault Refusal := writeG 4 d (clzVal (s.g a)) s

/-- Value of `ctz` (R81). -/
def ctzVal (a : Word) : Word := BitVec.ofNat 64 (ctzGo a 0 64)

/-- `ctz` (R81). -/
def execCtz (d a : BitVec 5) (s : State) : Host.Outcome State Fault Refusal := writeG 4 d (ctzVal (s.g a)) s

/-- Value of `popc` (R81). -/
def popcVal (a : Word) : Word := BitVec.ofNat 64 (popcGo a 64)

/-- `popc` (R81). -/
def execPopc (d a : BitVec 5) (s : State) : Host.Outcome State Fault Refusal := writeG 4 d (popcVal (s.g a)) s

/-- Value of `bswap` (R81). -/
def bswapVal (a : Word) : Word := byteSwap a

/-- `bswap` (R81). -/
def execBswap (d a : BitVec 5) (s : State) : Host.Outcome State Fault Refusal := writeG 4 d (bswapVal (s.g a)) s

/-- Value of `sxw` (R81). -/
def sxwVal (a : Word) : Word := sext (fld a 0 32)

/-- `sxw` (R81). -/
def execSxw (d a : BitVec 5) (s : State) : Host.Outcome State Fault Refusal := writeG 4 d (sxwVal (s.g a)) s

/-- Value of `zxw` (R81). -/
def zxwVal (a : Word) : Word := zext (fld a 0 32)

/-- `zxw` (R81). -/
def execZxw (d a : BitVec 5) (s : State) : Host.Outcome State Fault Refusal := writeG 4 d (zxwVal (s.g a)) s

/-- `addi` (R83). -/
def execAddi (d a : BitVec 5) (i : BitVec 15) (s : State) : Host.Outcome State Fault Refusal := writeG 4 d (s.g a + sext i) s

/-- `andi` (R83). -/
def execAndi (d a : BitVec 5) (i : BitVec 15) (s : State) : Host.Outcome State Fault Refusal := writeG 4 d (s.g a &&& sext i) s

/-- `ori` (R83). -/
def execOri (d a : BitVec 5) (i : BitVec 15) (s : State) : Host.Outcome State Fault Refusal := writeG 4 d (s.g a ||| sext i) s

/-- `xori` (R83). -/
def execXori (d a : BitVec 5) (i : BitVec 15) (s : State) : Host.Outcome State Fault Refusal := writeG 4 d (s.g a ^^^ sext i) s

/-- `slli` (R84). -/
def execSlli (d a : BitVec 5) (n : BitVec 6) (s : State) : Host.Outcome State Fault Refusal := writeG 4 d (s.g a <<< n.toNat) s

/-- `srli` (R84). -/
def execSrli (d a : BitVec 5) (n : BitVec 6) (s : State) : Host.Outcome State Fault Refusal := writeG 4 d (s.g a >>> n.toNat) s

/-- `srai` (R84). -/
def execSrai (d a : BitVec 5) (n : BitVec 6) (s : State) : Host.Outcome State Fault Refusal := writeG 4 d ((s.g a).sshiftRight n.toNat) s

/-- `rori` (R84). -/
def execRori (d a : BitVec 5) (n : BitVec 6) (s : State) : Host.Outcome State Fault Refusal := writeG 4 d ((s.g a).rotateRight n.toNat) s

/-- `slti` (R85). -/
def execSlti (d a : BitVec 5) (i : BitVec 14) (s : State) : Host.Outcome State Fault Refusal := writeG 4 d (boolWord ((s.g a).slt (sext i))) s

/-- `sltiu` (R85). -/
def execSltiu (d a : BitVec 5) (i : BitVec 14) (s : State) : Host.Outcome State Fault Refusal := writeG 4 d (boolWord ((s.g a).ult (sext i))) s

/-- `li` (R86). -/
def execLi (d : BitVec 5) (i : BitVec 19) (s : State) : Host.Outcome State Fault Refusal := writeG 4 d (sext i) s

/-- `lih` (R86): one 16-bit field replaced. -/
def execLih (d : BitVec 5) (p : BitVec 2) (i : BitVec 16) (s : State) : Host.Outcome State Fault Refusal :=
  writeG 4 d (setFld (s.g d) (16 * p.toNat) i) s

/-- `c.mv` (R99). -/
def execCMv (d a : BitVec 5) (s : State) : Host.Outcome State Fault Refusal := writeG 2 d (s.g a) s

/-- `c.addi` (R99). -/
def execCAddi (d : BitVec 5) (i : BitVec 6) (s : State) : Host.Outcome State Fault Refusal := writeG 2 d (s.g d + sext i) s

/-- `c.add` (R99). -/
def execCAdd (d b : BitVec 5) (s : State) : Host.Outcome State Fault Refusal := writeG 2 d (addVal (s.g d) (s.g b)) s

/-- `c.sub` (R99). -/
def execCSub (d b : BitVec 5) (s : State) : Host.Outcome State Fault Refusal := writeG 2 d (subVal (s.g d) (s.g b)) s

/-- `c.slli` (R99). -/
def execCSlli (d : BitVec 5) (n : BitVec 6) (s : State) : Host.Outcome State Fault Refusal := writeG 2 d (s.g d <<< n.toNat) s

/-- `c.li` (R99). -/
def execCLi (d : BitVec 5) (i : BitVec 6) (s : State) : Host.Outcome State Fault Refusal := writeG 2 d (sext i) s

end Sys2Proof.Machine
end

