-- ==== Sys2Proof/Machine/Transducer.lean ====
section
/-! DEFINITION. Digit transducers (R137 to R146), MO 0x28, and the two phases of a run. -/

namespace Sys2Proof.Machine

/-! Topos (R138 to R140). -/

/-- Digit width coded in two bits. -/
def digitWidth (c : Nat) : Nat := 2 ^ (c % 4)

/-- The header of a topo as a number. -/
def topoHead (t : Memory) : Nat := memNat t 0 16
/-- NST1. -/
def topoNst1 (t : Memory) : Nat := topoHead t % 64
/-- START. -/
def topoStart (t : Memory) : Nat := topoHead t / 2 ^ 6 % 64
/-- Input digit width iw. -/
def topoIw (t : Memory) : Nat := digitWidth (topoHead t / 2 ^ 12)
/-- Output digit width ow. -/
def topoOw (t : Memory) : Nat := digitWidth (topoHead t / 2 ^ 14)
/-- TR2. -/
def topoTr2 (t : Memory) : Bool := topoHead t / 2 ^ 16 % 2 == 1
/-- DIR: most significant digit first. -/
def topoMsd (t : Memory) : Bool := topoHead t / 2 ^ 17 % 2 == 1
/-- Symbol width sb. -/
def topoSb (t : Memory) : Nat := (if topoTr2 t then 2 else 1) * topoIw t
/-- Number of transition entries NT. -/
def topoNt (t : Memory) : Nat := (topoNst1 t + 1) * 2 ^ topoSb t
/-- Length of the record. -/
def topoLen (t : Memory) : Nat := (0x110 + 2 * topoNt t + 15) / 16 * 16
/-- Transition entry `i`. -/
def topoTrans (t : Memory) (i : Nat) : Nat := memNat t (0x110 + 2 * i) 2
/-- End entry of a state. -/
def topoEnd (t : Memory) (st : Nat) : Nat := memNat t (0x10 + 4 * st) 4

/-- The header's checks (R140). -/
def topoHeadOk (t : Memory) : Bool :=
  decide (topoHead t < 2 ^ 18) && decide (topoSb t ≤ 8) && decide (topoNt t ≤ 1024) && decide (topoStart t ≤ topoNst1 t)

/-- A transition entry keeps R139. -/
def transOk (t : Memory) (e : Nat) : Bool :=
  if e / 2 ^ 15 = 0 then e == 0
  else decide (e % 256 < 2 ^ topoOw t) && (e / 2 ^ 14 % 2 == 1 || e % 256 == 0) && decide (e / 2 ^ 8 % 64 ≤ topoNst1 t)

/-- An end entry of a state keeps R139. -/
def endOk (t : Memory) (st e : Nat) : Bool :=
  if e / 2 ^ 31 = 0 then e == 0
  else
    let n := e / 2 ^ 29 % 4
    let d0 := e % 256
    let d1 := e / 256 % 256
    decide (st ≤ topoNst1 t) && decide (n < 3) && (e / 2 ^ 24 % 32 == 0) && decide (d0 < 2 ^ topoOw t) && decide (d1 < 2 ^ topoOw t) &&
      (n != 0 || d0 == 0) && (n == 2 || d1 == 0)

/-- The entries' checks (R140). -/
def topoBodyOk (t : Memory) : Bool :=
  (List.range 64).all (fun i => endOk t i (topoEnd t i)) && (List.range (topoNt t)).all (fun i => transOk t (topoTrans t i))

/-- `dxld` (R140, R146): the header is checked before the rest of the record is. -/
def dxldEff (x : BitVec 1) (a : BitVec 5) (o : BitVec 10) (s : State) : Effect :=
  let ea := s.ea a (off16 o)
  match s.load a ea 16 16 with
  | .error t => .trap t
  | .ok (hd, _) =>
    let h := memWrite [] 0 hd
    if !topoHeadOk h then .trap (.atBase a cDecode ea ea)
    else
      match s.load a ea (topoLen h) 16 with
      | .error t => .trap t
      | .ok (bs, t) =>
        let r := memWrite [] 0 bs
        if topoBodyOk r then .ok (t.modMx fun m => { m with dx := m.dx.set x.toNat r, dxBad := m.dxBad.set x.toNat false }) else .trap (.atBase a cDecode ea ea)

/-- `dxld` (R146). -/
def execDxld (x : BitVec 1) (a : BitVec 5) (o : BitVec 10) (s : State) : Host.Outcome State Fault Refusal :=
  finish 4 s (onCompute 0x28 s (dxldEff x a o s))

/-! Lane descriptors (R142). -/

/-- Word `i` of lane `l`'s descriptor. -/
def descWord (d : Memory) (l i : Nat) : Word := memBits d (16 * l + 8 * i) 8 64
/-- EN. -/
def descEn (d : Memory) (l : Nat) : Bool := bit (descWord d l 1) 16
/-- NDIG. -/
def descNdig (d : Memory) (l : Nat) : Nat := (fld (descWord d l 1) 0 11).toNat
/-- Near address of a string by the low bit of its offset field (0 IN0, 18 IN1, 36 OUT), from the table's base, modulo 2^18. -/
def descAddr (tb : Nat) (d : Memory) (l lo : Nat) : Nat := (tb + (fld (descWord d l 0) lo 18).toNat) % 2 ^ 18

/-- Zero fields of a descriptor and the limit on NDIG (R143). -/
def descOk (d : Memory) (l : Nat) : Bool :=
  zeroBits (descWord d l 0) 54 10 && zeroBits (descWord d l 1) 52 12 && zeroBits (descWord d l 1) 17 15 && zeroBits (descWord d l 1) 11 5 &&
    decide (descNdig d l ≤ 1024)

/-- The ranges that a lane's issue check covers, as address and bytes: its inputs, then its output (R143). -/
def descInputs (tb : Nat) (d t : Memory) (l : Nat) : List (Nat × Nat) :=
  let n := (descNdig d l * topoIw t + 7) / 8
  (descAddr tb d l 0, n) :: if topoTr2 t then [(descAddr tb d l 18, n)] else []

/-- The output range that is checked: room for NDIG + 2 digits. -/
def descOutput (tb : Nat) (d t : Memory) (l : Nat) : Nat × Nat := (descAddr tb d l 36, ((descNdig d l + 2) * topoOw t + 7) / 8)

/-- A range that would pass the end of local memory (R143). -/
def State.rangeEnd (s : State) (r : Nat × Nat) : Option Trap :=
  if nearEnd s.at_ < r.1 + r.2 then some (.atNear cPlacement (BitVec.ofNat 64 (nearEnd s.at_)) (BitVec.ofNat 64 r.1)) else none

/-- The granules of a range, lowest first (R143, R32). -/
def State.rangeGranules (s : State) (r : Nat × Nat) : Option Trap :=
  (s.here.mem.check s.at_ s.key false r.1 r.2).map fun e => .atNear e.1 (BitVec.ofNat 64 e.2) (BitVec.ofNat 64 e.2)

/-- The issue checks of the enabled lanes, in order (R143): a lane's zero fields, then the ends of its ranges, then their granules. FADDR of the DECODE trap of a lane's descriptor
is the descriptor's own address tb + 16L, as VALUE is: R240 gives the address of the access, which reads the table from tb (DESIGN CHOICE, log entry 48). -/
def State.laneChecks (s : State) (tb : Nat) (d t : Memory) : List Nat → Option Trap
  | [] => none
  | l :: ls =>
    if !descEn d l then s.laneChecks tb d t ls
    else if !descOk d l then some (.atNear cDecode (BitVec.ofNat 64 (tb + 16 * l)) (BitVec.ofNat 64 (tb + 16 * l)))
    else
      let rs := descInputs tb d t l ++ [descOutput tb d t l]
      match (rs.findSome? s.rangeEnd).or (rs.findSome? s.rangeGranules) with
      | some e => some e
      | none => s.laneChecks tb d t ls

/-- The issue step of `dxrun` (R143): a slot whose run is in the unit waits for its phases, and so does one that finds the unit taken (R137). -/
def dxrunEff (x : BitVec 1) (d a : BitVec 5) (f : BitVec 1) (s : State) : Effect :=
  match s.here.mx.dxUnit with
  | some _ => .stall false
  | none =>
    let tb := s.g a
    match s.nearCheck false tb 128 16 with
    | some t => .trap t
    | none =>
      if s.here.mx.dxBad[x.toNat] then .trap (.plain cEccu (Config.info cEccu 0 s.time)) else
      let dm := memWrite [] 0 (s.nearBytes tb.toNat 128)
      let t := s.here.mx.dx[x.toNat]
      match s.laneChecks tb.toNat dm t (List.range 8) with
      | some e => .trap e
      | none => .goOn (((s.nearLoaded tb.toNat 128).modMx fun m => { m with
          dxUnit := some { slot := s.slot, rd := d, flag := f == 1, tb := tb.toNat, desc := dm, topo := t, input := none } }).modAct
            fun act => { act with part := .dx })

/-- `dxrun` (R143 to R146). -/
def execDxrun (x : BitVec 1) (d a : BitVec 5) (f : BitVec 1) (s : State) : Host.Outcome State Fault Refusal :=
  finish 4 s (onCompute 0x28 s (dxrunEff x d a f s))

/-- DXRUN_READ_PHASE (R143, R145): one access that reads every input string of the enabled lanes. A run whose budget is spent gets no further phase (R42, R145). -/
def execDxrunReadPhase (s : State) : Host.Outcome State Fault Refusal :=
  .next (match s.here.mx.dxUnit with
  | some r =>
    let t := { s with slot := r.slot }
    if r.input.isSome || t.spent then s
    else
      let rs := ((List.range 8).filter (descEn r.desc)).flatMap fun l => descInputs r.tb r.desc r.topo l
      let m := rs.foldl (fun m p => memWrite m p.1 (t.nearBytes p.1 p.2)) []
      (t.watch true false t.ten rs).modMx fun x => { x with dxUnit := some { r with input := some m } }
  | none => s)

/-- A digit of width `w` at position `p` of the string at an address (R141). -/
def digitAt (m : Memory) (a w p : Nat) : Nat := (memByte m (a + w * p / 8)).toNat / 2 ^ (w * p % 8) % 2 ^ w

/-- What a lane comes to: off-route at a place, or digits in the order emitted with the result byte (R143). -/
inductive LaneEnd where
  | off (place : Nat)
  | done (out : List Nat) (res : Nat)
  deriving DecidableEq, Repr

/-- A lane's run from its j-th digit on (R143), `sym` giving the symbol read j-th. -/
def laneRun (t : Memory) (sym : Nat → Nat) (st j : Nat) (out : List Nat) : Nat → LaneEnd
  | 0 =>
    let z := topoEnd t st
    if z / 2 ^ 31 = 0 then .off 0xFFFF
    else
      let n := z / 2 ^ 29 % 4
      .done (out ++ (if 1 ≤ n then [z % 256] else []) ++ (if n = 2 then [z / 256 % 256] else [])) (z / 2 ^ 16 % 256)
  | left + 1 =>
    let e := topoTrans t (st * 2 ^ topoSb t + sym j)
    if e / 2 ^ 15 = 0 then .off j
    else laneRun t sym (e / 2 ^ 8 % 64) (j + 1) (if e / 2 ^ 14 % 2 = 1 then out ++ [e % 256] else out) left

/-- A lane of a run (R141, R143). -/
def DxRun.lane (r : DxRun) (m : Memory) (l : Nat) : LaneEnd :=
  let n := descNdig r.desc l
  let w := topoIw r.topo
  let sym := fun j =>
    let p := if topoMsd r.topo then n - 1 - j else j
    digitAt m (descAddr r.tb r.desc l 0) w p + (if topoTr2 r.topo then digitAt m (descAddr r.tb r.desc l 18) w p * 2 ^ w else 0)
  laneRun r.topo sym (topoStart r.topo) 0 [] n

/-- The bytes of a lane's output digits (R141). -/
def outBytes (t : Memory) (ds : List Nat) : List Byte :=
  let w := topoOw t
  leBytes ((ds.length * w + 7) / 8) (ofLanes w (if topoMsd t then ds.reverse else ds))

/-- Word 1 as the write phase leaves it (R142, R144). -/
def statusWord (w : Word) (e : LaneEnd) : Word :=
  match e with
  | .off _ => setFld w 32 (0x8_0000#20)
  | .done ds res => setFld w 32 (BitVec.ofNat 20 (ds.length * 256 + res))

/-- What the write phase stores: outputs of lanes 0 to 7, then word 1 of lanes 0 to 7 (R143). -/
def DxRun.stores (r : DxRun) (ends : List (Nat × LaneEnd)) : List (Nat × List Byte) :=
  (ends.filterMap fun p => match p.2 with
    | .off _ => none
    | .done ds _ => some (descAddr r.tb r.desc p.1 36, outBytes r.topo ds)) ++
  ends.map fun p => (r.tb + 16 * p.1 + 8, leBytes 8 (statusWord (descWord r.desc p.1 1) p.2).toNat)

/-- Lane of an off-route end. -/
def LaneEnd.place : LaneEnd → Option Nat
  | .off p => some p
  | .done _ _ => none

/-- The end of a run whose inputs have been read (R144). -/
def dxFinish (r : DxRun) (m : Memory) (s : State) : Effect :=
  let ends := ((List.range 8).filter (descEn r.desc)).map fun l => (l, r.lane m l)
  let offs := ends.filterMap fun p => p.2.place.map fun w => (p.1, w)
  match r.flag, offs with
  | false, o :: _ => .trap (.atNear cOffRoute (BitVec.ofNat 64 (o.1 * 0x10000 + o.2)) (BitVec.ofNat 64 r.tb))
  | _, _ =>
    .ok ((((s.nearStores (r.stores ends)).modMx fun x => { x with dxUnit := none }).modAct fun act => { act with part := .none }).setG r.rd
      (BitVec.ofNat 64 ((offs.map fun o => 2 ^ o.1).sum)))

/-- DXRUN_WRITE_PHASE (R143 to R145): one access, after which the instruction completes; a budget that runs out before it ends the run (R42). -/
def execDxrunWritePhase (s : State) : Host.Outcome State Fault Refusal :=
  match s.here.mx.dxUnit with
  | some r =>
    match r.input with
    | some m => let t := { s with slot := r.slot }; if t.spent then .next s else complete 4 t (dxFinish r m t)
    | none => .next s
  | none => .next s

end Sys2Proof.Machine
end

