-- ==== Sys2Proof/Machine/Watch.lean ====
section
/-! DEFINITION. The watch unit (R338 to R348), MO 0x2B, and the debug events. -/

namespace Sys2Proof.Machine

/-- R343: func5 1 to 6 in a class-N slot raise CAPABILITY with the function number. -/
def State.watchOp (s : State) (fn : Nat) (e : Effect) : Effect := if s.classS then e else .trap (.plain cCapability (BitVec.ofNat 64 fn))

/-- `dmark` (R343): a trace record when the entry's T is 1. -/
def execDmark (a : BitVec 5) (i : BitVec 10) (s : State) : Host.Outcome State Fault Refusal :=
  finish 4 s (.ok (if s.act.traced then s.trace 4 i (s.g a) else s))

/-- The layouts of a watchpoint's range and control words (R343). -/
def wpOk (r c : Word) : Bool :=
  let b := (fld r 0 18 : BitVec 18).toNat
  let e := (fld r 20 18 : BitVec 18).toNat
  zeroBits r 38 26 && zeroBits r 18 2 && zeroBits c 20 44 && zeroBits c 3 5 && b % 8 == 0 && e % 8 == 0 && decide (b < e)

/-- `wpset` (R343). -/
def wpsetEff (a b : BitVec 5) (i : BitVec 10) (s : State) : Effect :=
  if wpOk (s.g a) (s.g b) then .ok (s.modDbg fun d => { d with
      wp := d.wp.set (fld i 0 3 : BitVec 3).toNat (s.g a, s.g b), wph := d.wph &&& ~~~(1#8 <<< (fld i 0 3 : BitVec 3).toNat) })
  else .trap (.plain cCapability (s.g a))

/-- `wpset` (R343). -/
def execWpset (a b : BitVec 5) (i : BitVec 10) (s : State) : Host.Outcome State Fault Refusal := finish 4 s (s.watchOp 1 (wpsetEff a b i s))

/-- `wpclr` (R343): the watchpoint is invalid and its sticky bit clear. -/
def execWpclr (i : BitVec 10) (s : State) : Host.Outcome State Fault Refusal :=
  finish 4 s (s.watchOp 2 (.ok (s.modDbg fun d => { d with
    wp := d.wp.set (fld i 0 3 : BitVec 3).toNat (0, 0), wph := d.wph &&& ~~~(1#8 <<< (fld i 0 3 : BitVec 3).toNat) })))

/-- The PC of a breakpoint word lies in the image of its ISLOT (R343); an invalid breakpoint names no image (DESIGN CHOICE, log entry 71). -/
def Core.bpInImage (c : Core) (w : Word) : Bool :=
  !bit w 18 || (match c.images[(fld w 15 3 : BitVec 3).toNat] with
    | some i => decide ((fld w 0 15 : BitVec 15).toNat < i.xlen.toNat)
    | none => false)

/-- `bpset` (R343). -/
def bpsetEff (a : BitVec 5) (i : BitVec 10) (s : State) : Effect :=
  let w := s.g a
  if zeroBits w 19 45 && !bit w 0 && s.here.bpInImage w then .ok (s.modDbg fun d => { d with
      bp := d.bp.set (fld i 0 2 : BitVec 2).toNat w, bph := d.bph &&& ~~~(1#4 <<< (fld i 0 2 : BitVec 2).toNat) })
  else .trap (.plain cCapability w)

/-- `bpset` (R343). -/
def execBpset (a : BitVec 5) (i : BitVec 10) (s : State) : Host.Outcome State Fault Refusal := finish 4 s (s.watchOp 3 (bpsetEff a i s))

/-- A group word's rectangle lies on the issuing core's die and contains it (R343). -/
def groupOk (at_ : CoreAddr) (w : Word) : Bool :=
  let c : CoreAddr := fld w 0 29
  let x1 := xOf c + (fld w 29 6).toNat
  let y1 := yOf c + (fld w 35 5).toNat
  zeroBits w 57 7 && isCompute at_ && pkgOf c == pkgOf at_ && dieOf c == dieOf at_ && decide (x1 ≤ 47) && decide (y1 ≤ 31) && decide (xOf c ≤ xOf at_) &&
    decide (xOf at_ ≤ x1) && decide (yOf c ≤ yOf at_) && decide (yOf at_ ≤ y1)

/-- The held slot is free to go on: cycles held are not counted (R341). -/
def State.unhold (s : State) : State :=
  match s.here.dbg.held with
  | none => s
  | some i =>
    let a := s.here.acts[i]
    { s with here := { s.here with
        acts := s.here.acts.set i { a with heldFor := a.heldFor + a.heldCycles s.here.cyc }
        dbg := { s.here.dbg with held := none, passBp := s.here.dbg.passBp ||| (1#4 <<< i.val) } } }

/-- The group word written; with EN = 0 the core holds no slot (R338). -/
def State.setGroup (s : State) (w : Word) : State :=
  let t := s.modDbg fun d => { d with group := w }
  if t.here.dbg.en then t else t.unhold

/-- `dgrp` (R343): the group word has no sticky bits of its own. -/
def dgrpEff (a : BitVec 5) (s : State) : Effect :=
  if groupOk s.at_ (s.g a) then .ok (s.setGroup (s.g a)) else .trap (.plain cCapability (s.g a))

/-- `dgrp` (R343). -/
def execDgrp (a : BitVec 5) (s : State) : Host.Outcome State Fault Refusal := finish 4 s (s.watchOp 4 (dgrpEff a s))

/-- `dstop` (R343): a trigger with CAUSE 4. -/
def execDstop (s : State) : Host.Outcome State Fault Refusal := finish 4 s (s.watchOp 5 (.ok (s.trigger 4)))

/-- The status word of sel 0 (R343). -/
def Debug.status (d : Debug) : Word :=
  (zext d.hits <<< 48) ||| (zext d.bph <<< 12) ||| (zext d.wph <<< 4) ||| (boolWord d.en <<< 3) |||
    (BitVec.ofNat 64 ((d.held.map (·.val)).getD 0) <<< 1) ||| boolWord d.stopping

/-- Doubleword 1 of the skid record (R340), from what the core counts now. -/
def State.skidWord (s : State) : Word :=
  (zext s.here.dbg.skid <<< 48) ||| (zext (fld s.here.dbg.group 40 16) <<< 32) ||| (zext s.here.dbg.cause <<< 29) ||| zext s.at_

/-- `dstat` (R343). -/
def execDstat (d : BitVec 5) (i : BitVec 10) (s : State) : Host.Outcome State Fault Refusal :=
  finish 4 s (s.watchOp 6 (.ok (s.setG d (match (fld i 0 2 : BitVec 2).toNat with
    | 0 => s.here.dbg.status
    | 1 => s.skidWord
    | 2 => s.here.dbg.digest
    | _ => s.here.dbg.count))))

/-! Breakpoints (R341). -/

/-- The breakpoints that match the acting slot's next instruction. -/
def State.bpHits (s : State) : BitVec 4 :=
  (List.finRange 4).foldl (fun (m : BitVec 4) i =>
    let w := s.here.dbg.bp[i]
    if bit w 18 && fld w 15 3 == fld s.act.entry 29 3 && zext (fld w 0 15) == s.pc then m ||| (1#4 <<< i.val) else m) 0

/-- What a matching breakpoint does before the instruction issues (R341): its slot is held; in a paired entry or while another slot is held it is passed over.
It triggers with CAUSE 2 and marks itself either way. -/
def State.breakpoint (s : State) : State :=
  let h := s.bpHits
  (s.modDbg fun d => { d with bph := d.bph ||| h }).holdSlot.trigger 2

/-! Stops (R338, R339). -/

/-- The stop that a core takes (R339): dispatch halts, the skid count begins at this arrival. -/
def State.takeStop (s : State) (m : Msg) : State :=
  s.modDbg fun d => { d with
    stopping := true, stopped := false, trig := m.dw 0, cause := fld (m.dw 1) 29 3, arrived := s.time, skid := 0 }

/-- DEBUG_STOP (R338, R339): a stop from core `src` is taken by the interface if it is for the core's DGID, EN is 1 and the core is not stopped already; any
other is ignored. -/
def execDebugStop (s : State) : Host.Outcome State Fault Refusal :=
  .next (s.takes .debugStop (fun _ => true) fun m t =>
    let t := t.settle m
    let d := t.here.dbg
    if d.en && !d.stopping && fld (m.dw 1) 40 16 == fld d.group 40 16 then t.takeStop m else t)

/-- LAND (R340): cycles from the stop's arrival until no activation remained but a held one, saturating: zero where none did then. -/
def State.land (s : State) : Word := BitVec.ofNat 64 (min (s.here.dbg.ended.toNat - s.here.dbg.arrived.toNat) (2 ^ 24 - 1))

/-- The skid record (R340). -/
def State.skidRecord (s : State) : Strip := flit4 ((s.land <<< 40) ||| zext (fld s.here.dbg.trig 0 40)) s.skidWord 0 0

/-- What the core's collector passes to belay at once (R340, R346). -/
def State.toBelay (s : State) (l : List Strip) : State :=
  s.modCore (s.standIn (collectorOf s.at_)) fun c => { c with eng := { c.eng with trace := { c.eng.trace with passed := c.eng.trace.passed ++ l } } }

/-- The state log's finished blocks of 64 records, or what is left of it, go to the collector (R346). -/
def State.sendLog (s : State) (all : Bool) : State :=
  let n := if all then s.here.dbg.states.length else s.here.dbg.states.length / 64 * 64
  let out := s.here.dbg.states.take n
  let bytes := out.flatMap fun r => leBytes 4 r.toNat
  (s.toBelay (flitsOf bytes)).modDbg fun d => { d with states := d.states.drop n }

/-- No activation remains except a held one (R339). -/
def State.onlyHeld (s : State) : Bool := (List.finRange 4).all fun i => !(s.here.acts[i]).busy || s.here.dbg.held == some i

/-- CORE_STOPPED (R339, R340): the core is stopped; its skid record goes to its collector, which passes it on at once, with the rest of its state log. -/
def execCoreStopped (s : State) : Host.Outcome State Fault Refusal :=
  .next (if s.here.dbg.stopping && !s.here.dbg.stopped && s.onlyHeld then
      ((s.toBelay [s.skidRecord]).modDbg fun d => { d with stopped := true }).sendLog true
    else s)

/-! Step and resume (R342). -/

/-- DEBUG_RESUME (R342): the held slot is released, dispatch restarts and the skid count returns to 0. -/
def execDebugResume (s : State) : Host.Outcome State Fault Refusal :=
  .next (s.takes .debugResume (fun _ => true) fun m t =>
    (t.settle m).unhold.modDbg fun d => { d with stopping := false, stopped := false, skid := 0, steps := 0, done := 0, draining := false })

/-- DEBUG_STEP (R342): a step of `n` instructions begins on a stopped core; anywhere else, or with a count of 0, it is refused by a NACK whose cause and value
the spec does not give. The steps themselves are taken one at a time (`State.stepNow`). -/
def execDebugStep (s : State) : Host.Outcome State Fault Refusal :=
  .next (s.takes .debugStep (fun _ => true) fun m t =>
    let n := (fld (m.dw 1) 0 16 : BitVec 16).toNat
    if t.here.dbg.stopped && t.here.dbg.steps == 0 && n != 0 then (t.settle m).modDbg fun d => { d with steps := n, done := 0, draining := false, step := StepMark.none }
    else t.nack m (fld (Config.info 0 (zext m.src) t.time) 0 8) (Config.info 0 (m.dw 1) t.time))

/-- The step report (R342, R345): steps done, and the held pc or that of the activation that has ended. -/
def State.stepReport (s : State) : State :=
  let n := BitVec.ofNat 64 s.here.dbg.done
  let a := match s.here.dbg.held with
    | some i => { s with slot := i }.mark
    | none => s.here.dbg.step
  (s.traceOf a 5 0 n).modDbg fun d => { d with steps := 0, done := 0, draining := false }

/-- No engine still holds a copy command that work of a containment ID at the acting core has kicked. -/
def State.copiesDone (s : State) (cid : BitVec 16) : Bool :=
  (packageCores (pkgOf s.at_)).all fun e => !isCopyEngine e || (s.core e).eng.copies.all fun c => c.issuer != s.at_ || c.cid != cid

/-- No completion of the matrix unit or of a copy engine is on its way to the acting core for work of a containment ID. -/
def State.completionsQueued (s : State) (cid : BitVec 16) : Bool :=
  s.flight.all fun m => m.dst != s.at_ || m.cid != cid || !((m.src == s.at_ && m.kind == kReply) || isCopyEngine m.src)

/-- The drain of R342 is over: every message of the stepped activation is settled, every command that it handed to the matrix unit or to a copy engine and its run in the transducer
unit have completed, with their completions queued. Messages and copy commands of the same activation and containment ID that were under way before the step are waited for too (DESIGN CHOICE,
log entry 34); rope commands that other cores sent are not. -/
def State.drained (s : State) : Bool :=
  let n := s.here.net
  let x := s.here.dbg.step
  s.onlyHeld && n.sent.all (fun r => r.done || r.org.aseq != x.aseq) && n.egress.all (fun r => r.org.aseq != x.aseq) && s.here.mx.queue.all (fun c => c.aseq != x.aseq) &&
    s.here.mx.dxUnit.isNone && s.copiesDone x.cid && s.completionsQueued x.cid

/-- The stepping core after a drain (R342): the steps end when none is left or the activation has ended. -/
def State.stepDrain (s : State) : State :=
  if !s.drained then s
  else
    let t := s.modDbg fun d => { d with draining := false }
    if t.here.dbg.steps = 0 ∨ t.here.dbg.held.isNone then t.stepReport else t

/-- A step is done, and its drain begins. -/
def Debug.stepped (d : Debug) : Debug := { d with draining := true, done := d.done + 1, steps := d.steps - 1 }

/-- A stepping core with no slot held (R342): a dispatch by R157 into a slot that is then held, or the end of the steps when no channel is eligible. An entry
with P = 1 is not held and runs to its end as one step (R341). -/
def State.stepDispatch (s : State) : State :=
  let go := s.modDbg fun d => { d with stopping := false }
  match go.choose with
  | none => s.stepReport
  | some ch => match go.freeFor (go.here.entry ch) with
    | none => s.stepReport
    | some i =>
      let t := { go.dispatch with slot := i }
      let t := { t.holdSlot.modDbg fun d => { d with step := t.mark, stopping := true } with slot := s.slot }
      if t.here.dbg.held.isSome then t else t.modDbg Debug.stepped

/-- The held slot as it issues in a step: released, with the breakpoints that match it marked (R341, R343). -/
def State.stepRelease (i : Fin 4) (s : State) : State :=
  let t := { s with slot := i }
  let h := t.bpHits
  t.unhold.modDbg fun d => { d with step := t.mark, bph := d.bph ||| h }

/-- The slot of a step is held again, if its activation has not ended (R341). -/
def State.rehold (i : Fin 4) (s : State) : State := if (s.here.acts[i]).busy then { { s with slot := i }.holdSlot with slot := s.slot } else s

/-- The slot after the instruction that it issued in a step: held again, and the drain begins (R341, R342). -/
def State.stepHold (i : Fin 4) (s : State) : State := (s.rehold i).modDbg Debug.stepped

/-- A stepped slot whose budget is spent: the activation has ended with nothing issued (R42, R342). -/
def State.stepSpent (s : State) : State := s.modDbg fun d => { d with draining := true }

/-- RECORD_REPLAY_MODE (R347, R348): belay's `record` (`n` = 1) or `replay` (`n` = 2) command clears digest and count and sets the mode of ingress. A mode ends with any other `n`
(DESIGN CHOICE, log entry 69). -/
def execRecordReplayMode (s : State) : Host.Outcome State Fault Refusal :=
  .next (s.modDbg fun d => match s.ev.n with
    | 1 => { d with digest := 0, count := 0, logbook := [], replay := .record }
    | 2 => { d with digest := 0, count := 0, replay := .replay 0 }
    | _ => { d with replay := .off })

end Sys2Proof.Machine
end

