-- ==== Sys2Proof/Machine/Dispatch.lean ====
section
/-! DEFINITION. What each instruction does: one arm per constructor of `Instr`. -/

namespace Sys2Proof.Machine

def exec (i : Instr) (s : State) : Host.Outcome State Fault Refusal :=
  match i with
  | .add d a b => Sys2Proof.Machine.execAdd d a b s
  | .sub d a b => Sys2Proof.Machine.execSub d a b s
  | .and d a b => Sys2Proof.Machine.execAnd d a b s
  | .or d a b => Sys2Proof.Machine.execOr d a b s
  | .xor d a b => Sys2Proof.Machine.execXor d a b s
  | .andn d a b => Sys2Proof.Machine.execAndn d a b s
  | .sll d a b => Sys2Proof.Machine.execSll d a b s
  | .srl d a b => Sys2Proof.Machine.execSrl d a b s
  | .sra d a b => Sys2Proof.Machine.execSra d a b s
  | .ror d a b => Sys2Proof.Machine.execRor d a b s
  | .slt d a b => Sys2Proof.Machine.execSlt d a b s
  | .sltu d a b => Sys2Proof.Machine.execSltu d a b s
  | .min d a b => Sys2Proof.Machine.execMin d a b s
  | .max d a b => Sys2Proof.Machine.execMax d a b s
  | .minu d a b => Sys2Proof.Machine.execMinu d a b s
  | .maxu d a b => Sys2Proof.Machine.execMaxu d a b s
  | .mul d a b => Sys2Proof.Machine.execMul d a b s
  | .mhi d a b => Sys2Proof.Machine.execMhi d a b s
  | .mhiu d a b => Sys2Proof.Machine.execMhiu d a b s
  | .mhisu d a b => Sys2Proof.Machine.execMhisu d a b s
  | .div d a b => Sys2Proof.Machine.execDiv d a b s
  | .divu d a b => Sys2Proof.Machine.execDivu d a b s
  | .rem d a b => Sys2Proof.Machine.execRem d a b s
  | .remu d a b => Sys2Proof.Machine.execRemu d a b s
  | .clz d a => Sys2Proof.Machine.execClz d a s
  | .ctz d a => Sys2Proof.Machine.execCtz d a s
  | .popc d a => Sys2Proof.Machine.execPopc d a s
  | .bswap d a => Sys2Proof.Machine.execBswap d a s
  | .sxw d a => Sys2Proof.Machine.execSxw d a s
  | .zxw d a => Sys2Proof.Machine.execZxw d a s
  | .addi d a im => Sys2Proof.Machine.execAddi d a im s
  | .andi d a im => Sys2Proof.Machine.execAndi d a im s
  | .ori d a im => Sys2Proof.Machine.execOri d a im s
  | .xori d a im => Sys2Proof.Machine.execXori d a im s
  | .slli d a sf => Sys2Proof.Machine.execSlli d a sf s
  | .srli d a sf => Sys2Proof.Machine.execSrli d a sf s
  | .srai d a sf => Sys2Proof.Machine.execSrai d a sf s
  | .rori d a sf => Sys2Proof.Machine.execRori d a sf s
  | .slti d a im => Sys2Proof.Machine.execSlti d a im s
  | .sltiu d a im => Sys2Proof.Machine.execSltiu d a im s
  | .li d im => Sys2Proof.Machine.execLi d im s
  | .lih d p im => Sys2Proof.Machine.execLih d p im s
  | .ldb d b o => Sys2Proof.Machine.execLdb d b o s
  | .ldh d b o => Sys2Proof.Machine.execLdh d b o s
  | .ldw d b o => Sys2Proof.Machine.execLdw d b o s
  | .ldd d b o => Sys2Proof.Machine.execLdd d b o s
  | .ldbu d b o => Sys2Proof.Machine.execLdbu d b o s
  | .ldhu d b o => Sys2Proof.Machine.execLdhu d b o s
  | .ldwu d b o => Sys2Proof.Machine.execLdwu d b o s
  | .stb d b o => Sys2Proof.Machine.execStb d b o s
  | .sth d b o => Sys2Proof.Machine.execSth d b o s
  | .stw d b o => Sys2Proof.Machine.execStw d b o s
  | .std d b o => Sys2Proof.Machine.execStd d b o s
  | .vld d b o => Sys2Proof.Machine.execVld d b o s
  | .vldh d b o => Sys2Proof.Machine.execVldh d b o s
  | .vst d b o => Sys2Proof.Machine.execVst d b o s
  | .vsth d b o => Sys2Proof.Machine.execVsth d b o s
  | .ldp d b o => Sys2Proof.Machine.execLdp d b o s
  | .stp d b o => Sys2Proof.Machine.execStp d b o s
  | .beq a b o => Sys2Proof.Machine.execBeq a b o s
  | .bne a b o => Sys2Proof.Machine.execBne a b o s
  | .blt a b o => Sys2Proof.Machine.execBlt a b o s
  | .bge a b o => Sys2Proof.Machine.execBge a b o s
  | .bltu a b o => Sys2Proof.Machine.execBltu a b o s
  | .bgeu a b o => Sys2Proof.Machine.execBgeu a b o s
  | .j o => Sys2Proof.Machine.execJ o s
  | .jal o => Sys2Proof.Machine.execJal o s
  | .jr a im => Sys2Proof.Machine.execJr a im s
  | .jalr a im => Sys2Proof.Machine.execJalr a im s
  | .loop a l => Sys2Proof.Machine.execLoop a l s
  | .loopi c l => Sys2Proof.Machine.execLoopi c l s
  | .trap im => Sys2Proof.Machine.execTrap im s
  | .crd d c => Sys2Proof.Machine.execCrd d c s
  | .cwr a c => Sys2Proof.Machine.execCwr a c s
  | .cins a b c => Sys2Proof.Machine.execCins a b c s
  | .cxch a d c => Sys2Proof.Machine.execCxch a d c s
  | .crdz d c => Sys2Proof.Machine.execCrdz d c s
  | .gld l sf a b p c x => Sys2Proof.Machine.execGld l sf a b p c x s
  | .gst l sf a b p => Sys2Proof.Machine.execGst l sf a b p s
  | .put l p a b c => Sys2Proof.Machine.execPut l p a b c s
  | .putr l p a b c => Sys2Proof.Machine.execPutr l p a b c s
  | .get l p a b c => Sys2Proof.Machine.execGet l p a b c s
  | .aadd r l p a b c => Sys2Proof.Machine.execAadd r l p a b c s
  | .aand r l p a b c => Sys2Proof.Machine.execAand r l p a b c s
  | .aor r l p a b c => Sys2Proof.Machine.execAor r l p a b c s
  | .axor r l p a b c => Sys2Proof.Machine.execAxor r l p a b c s
  | .amin r l p a b c => Sys2Proof.Machine.execAmin r l p a b c s
  | .amax r l p a b c => Sys2Proof.Machine.execAmax r l p a b c s
  | .aminu r l p a b c => Sys2Proof.Machine.execAminu r l p a b c s
  | .amaxu r l p a b c => Sys2Proof.Machine.execAmaxu r l p a b c s
  | .aswap r l p a b c => Sys2Proof.Machine.execAswap r l p a b c s
  | .acas r l p a b c => Sys2Proof.Machine.execAcas r l p a b c s
  | .afadd r l p a b c => Sys2Proof.Machine.execAfadd r l p a b c s
  | .send l a v n c => Sys2Proof.Machine.execSend l a v n c s
  | .sendp l a v n c => Sys2Proof.Machine.execSendp l a v n c s
  | .sendm l a v n c => Sys2Proof.Machine.execSendm l a v n c s
  | .reply l a v n c => Sys2Proof.Machine.execReply l a v n c s
  | .chmask c => Sys2Proof.Machine.execChmask c s
  | .chunmask c => Sys2Proof.Machine.execChunmask c s
  | .chtas d c => Sys2Proof.Machine.execChtas d c s
  | .jdec l a n => Sys2Proof.Machine.execJdec l a n s
  | .barm b c => Sys2Proof.Machine.execBarm b c s
  | .bdis c => Sys2Proof.Machine.execBdis c s
  | .lwin p n => Sys2Proof.Machine.execLwin p n s
  | .lstat p d => Sys2Proof.Machine.execLstat p d s
  | .sbind sf t => Sys2Proof.Machine.execSbind sf t s
  | .sdrop sf => Sys2Proof.Machine.execSdrop sf s
  | .sstat sf d => Sys2Proof.Machine.execSstat sf d s
  | .tmld t a o => Sys2Proof.Machine.execTmld t a o s
  | .tmbase t a => Sys2Proof.Machine.execTmbase t a s
  | .tmcnt t a d => Sys2Proof.Machine.execTmcnt t a d s
  | .chk r => Sys2Proof.Machine.execChk r s
  | .chke r => Sys2Proof.Machine.execChke r s
  | .chkg a => Sys2Proof.Machine.execChkg a s
  | .vadd d a l b m k t => Sys2Proof.Machine.execVadd d a l b m k t s
  | .vsub d a l b m k t => Sys2Proof.Machine.execVsub d a l b m k t s
  | .vmul d a l b m k t => Sys2Proof.Machine.execVmul d a l b m k t s
  | .vdiv d a l b m k t => Sys2Proof.Machine.execVdiv d a l b m k t s
  | .vsqrt d a l k t => Sys2Proof.Machine.execVsqrt d a l k t s
  | .vfma d a l b m c n k t => Sys2Proof.Machine.execVfma d a l b m c n k t s
  | .vfms d a l b m c n k t => Sys2Proof.Machine.execVfms d a l b m c n k t s
  | .vfnma d a l b m c n k t => Sys2Proof.Machine.execVfnma d a l b m c n k t s
  | .vmin d a l b m k t => Sys2Proof.Machine.execVmin d a l b m k t s
  | .vmax d a l b m k t => Sys2Proof.Machine.execVmax d a l b m k t s
  | .vabs d a l k t => Sys2Proof.Machine.execVabs d a l k t s
  | .vneg d a l k t => Sys2Proof.Machine.execVneg d a l k t s
  | .vfeq e a l b m k t => Sys2Proof.Machine.execVfeq e a l b m k t s
  | .vflt e a l b m k t => Sys2Proof.Machine.execVflt e a l b m k t s
  | .vfle e a l b m k t => Sys2Proof.Machine.execVfle e a l b m k t s
  | .vfclass d a l k t => Sys2Proof.Machine.execVfclass d a l k t s
  | .vcvt d a l sf k t => Sys2Proof.Machine.execVcvt d a l sf k t s
  | .vcvtl d a l sf k t => Sys2Proof.Machine.execVcvtl d a l sf k t s
  | .vcvth d a l sf k t => Sys2Proof.Machine.execVcvth d a l sf k t s
  | .vcvtn d a l b m sf k t => Sys2Proof.Machine.execVcvtn d a l b m sf k t s
  | .vaddInt d a l b m k t => Sys2Proof.Machine.execVaddInt d a l b m k t s
  | .vsubInt d a l b m k t => Sys2Proof.Machine.execVsubInt d a l b m k t s
  | .vmulInt d a l b m k t => Sys2Proof.Machine.execVmulInt d a l b m k t s
  | .vmulh d a l b m k t => Sys2Proof.Machine.execVmulh d a l b m k t s
  | .vand d a l b m k t => Sys2Proof.Machine.execVand d a l b m k t s
  | .vor d a l b m k t => Sys2Proof.Machine.execVor d a l b m k t s
  | .vxor d a l b m k t => Sys2Proof.Machine.execVxor d a l b m k t s
  | .vsll d a l b m k t => Sys2Proof.Machine.execVsll d a l b m k t s
  | .vsrl d a l b m k t => Sys2Proof.Machine.execVsrl d a l b m k t s
  | .vsra d a l b m k t => Sys2Proof.Machine.execVsra d a l b m k t s
  | .vminInt d a l b m k t => Sys2Proof.Machine.execVminInt d a l b m k t s
  | .vmaxInt d a l b m k t => Sys2Proof.Machine.execVmaxInt d a l b m k t s
  | .vadds d a l b m k t => Sys2Proof.Machine.execVadds d a l b m k t s
  | .vsubs d a l b m k t => Sys2Proof.Machine.execVsubs d a l b m k t s
  | .vabsd d a l b m k t => Sys2Proof.Machine.execVabsd d a l b m k t s
  | .vmadd d a l b m c n k t => Sys2Proof.Machine.execVmadd d a l b m c n k t s
  | .vceq e a l b m k t => Sys2Proof.Machine.execVceq e a l b m k t s
  | .vclt e a l b m k t => Sys2Proof.Machine.execVclt e a l b m k t s
  | .vcle e a l b m k t => Sys2Proof.Machine.execVcle e a l b m k t s
  | .vsel d a l b m k t => Sys2Proof.Machine.execVsel d a l b m k t s
  | .kand e g h => Sys2Proof.Machine.execKand e g h s
  | .kor e g h => Sys2Proof.Machine.execKor e g h s
  | .kxor e g h => Sys2Proof.Machine.execKxor e g h s
  | .knot e g => Sys2Proof.Machine.execKnot e g s
  | .vperm d a l b m k t => Sys2Proof.Machine.execVperm d a l b m k t s
  | .vbcast d a l b m k t => Sys2Proof.Machine.execVbcast d a l b m k t s
  | .vrev d a l k t => Sys2Proof.Machine.execVrev d a l k t s
  | .vzipl d a l b m k t => Sys2Proof.Machine.execVzipl d a l b m k t s
  | .vziph d a l b m k t => Sys2Proof.Machine.execVziph d a l b m k t s
  | .vuzpe d a l b m k t => Sys2Proof.Machine.execVuzpe d a l b m k t s
  | .vuzpo d a l b m k t => Sys2Proof.Machine.execVuzpo d a l b m k t s
  | .vrsum d a l k t => Sys2Proof.Machine.execVrsum d a l k t s
  | .vrmin d a l k t => Sys2Proof.Machine.execVrmin d a l k t s
  | .vrmax d a l k t => Sys2Proof.Machine.execVrmax d a l k t s
  | .vrand d a l k t => Sys2Proof.Machine.execVrand d a l k t s
  | .vror d a l k t => Sys2Proof.Machine.execVror d a l k t s
  | .vrxor d a l k t => Sys2Proof.Machine.execVrxor d a l k t s
  | .vmovOV v o => Sys2Proof.Machine.execVmovOV v o s
  | .vmovVO v o l => Sys2Proof.Machine.execVmovVO v o l s
  | .vmovOport p o w => Sys2Proof.Machine.execVmovOport p o w s
  | .vmovPorto p o l => Sys2Proof.Machine.execVmovPorto p o l s
  | .vmovOO m o l => Sys2Proof.Machine.execVmovOO m o l s
  | .vsplat g o t => Sys2Proof.Machine.execVsplat g o t s
  | .vext g o l n t => Sys2Proof.Machine.execVext g o l n t s
  | .vins g o n t => Sys2Proof.Machine.execVins g o n t s
  | .kmovKG g k => Sys2Proof.Machine.execKmovKG g k s
  | .kmovGK g k => Sys2Proof.Machine.execKmovGK g k s
  | .vexp2 d a l k t => Sys2Proof.Machine.execVexp2 d a l k t s
  | .vlog2 d a l k t => Sys2Proof.Machine.execVlog2 d a l k t s
  | .vrcp d a l k t => Sys2Proof.Machine.execVrcp d a l k t s
  | .vrsq d a l k t => Sys2Proof.Machine.execVrsq d a l k t s
  | .vsinpi d a l k t => Sys2Proof.Machine.execVsinpi d a l k t s
  | .vcospi d a l k t => Sys2Proof.Machine.execVcospi d a l k t s
  | .dtld b sf o => Sys2Proof.Machine.execDtld b sf o s
  | .vdec d a l sf q f => Sys2Proof.Machine.execVdec d a l sf q f s
  | .venc d a l sf q f => Sys2Proof.Machine.execVenc d a l sf q f s
  | .bld d b sf f o => Sys2Proof.Machine.execBld d b sf f o s
  | .bst a l b sf f o => Sys2Proof.Machine.execBst a l b sf f o s
  | .twld o t a => Sys2Proof.Machine.execTwld o t a s
  | .twst o l t a => Sys2Proof.Machine.execTwst o l t a s
  | .qclaim q => Sys2Proof.Machine.execQclaim q s
  | .qtry q d => Sys2Proof.Machine.execQtry q d s
  | .qrel q => Sys2Proof.Machine.execQrel q s
  | .qld q a f sf => Sys2Proof.Machine.execQld q a f sf s
  | .qput q a o l => Sys2Proof.Machine.execQput q a o l s
  | .qget q a o => Sys2Proof.Machine.execQget q a o s
  | .qlnk q p w sf => Sys2Proof.Machine.execQlnk q p w sf s
  | .mma a b k h c => Sys2Proof.Machine.execMma a b k h c s
  | .accld o b v r c => Sys2Proof.Machine.execAccld o b v r c s
  | .accldReg o b v r c => Sys2Proof.Machine.execAccldReg o b v r c s
  | .accst o l b v r c => Sys2Proof.Machine.execAccst o l b v r c s
  | .accstReg o l b v r c => Sys2Proof.Machine.execAccstReg o l b v r c s
  | .acczero k => Sys2Proof.Machine.execAcczero k s
  | .mxcmd a b k h c => Sys2Proof.Machine.execMxcmd a b k h c s
  | .dxld x a o => Sys2Proof.Machine.execDxld x a o s
  | .dxrun x d a f => Sys2Proof.Machine.execDxrun x d a f s
  | .abegin a b c => Sys2Proof.Machine.execAbegin a b c s
  | .ajoin a => Sys2Proof.Machine.execAjoin a s
  | .apitch a v c => Sys2Proof.Machine.execApitch a v c s
  | .asummit a c => Sys2Proof.Machine.execAsummit a c s
  | .aretreat a c => Sys2Proof.Machine.execAretreat a c s
  | .aresume a x c => Sys2Proof.Machine.execAresume a x c s
  | .astat a c => Sys2Proof.Machine.execAstat a c s
  | .imgld a d im => Sys2Proof.Machine.execImgld a d im s
  | .imgrev a => Sys2Proof.Machine.execImgrev a s
  | .hset a im => Sys2Proof.Machine.execHset a im s
  | .pset a b im => Sys2Proof.Machine.execPset a b im s
  | .winw a b im => Sys2Proof.Machine.execWinw a b im s
  | .keyset a im => Sys2Proof.Machine.execKeyset a im s
  | .lease a b => Sys2Proof.Machine.execLease a b s
  | .imgev d im => Sys2Proof.Machine.execImgev d im s
  | .dmark a im => Sys2Proof.Machine.execDmark a im s
  | .wpset a b im => Sys2Proof.Machine.execWpset a b im s
  | .wpclr im => Sys2Proof.Machine.execWpclr im s
  | .bpset a im => Sys2Proof.Machine.execBpset a im s
  | .dgrp a => Sys2Proof.Machine.execDgrp a s
  | .dstat d im => Sys2Proof.Machine.execDstat d im s
  | .cMv d a => Sys2Proof.Machine.execCMv d a s
  | .cAddi d im => Sys2Proof.Machine.execCAddi d im s
  | .cLdd d b o => Sys2Proof.Machine.execCLdd d b o s
  | .cStd d b o => Sys2Proof.Machine.execCStd d b o s
  | .cBeqz a o => Sys2Proof.Machine.execCBeqz a o s
  | .cBnez a o => Sys2Proof.Machine.execCBnez a o s
  | .cJ o => Sys2Proof.Machine.execCJ o s
  | .cAdd d b => Sys2Proof.Machine.execCAdd d b s
  | .cSub d b => Sys2Proof.Machine.execCSub d b s
  | .cSlli d sf => Sys2Proof.Machine.execCSlli d sf s
  | .cVmovOV o v => Sys2Proof.Machine.execCVmovOV o v s
  | .cVmovVO o v l => Sys2Proof.Machine.execCVmovVO o v l s
  | .cLi d im => Sys2Proof.Machine.execCLi d im s
  | .cpy a b e o => Sys2Proof.Machine.execCpy a b e o s
  | .end_ => Sys2Proof.Machine.execEnd s
  | .nop => Sys2Proof.Machine.execNop s
  | .brk => Sys2Proof.Machine.execBrk s
  | .lend => Sys2Proof.Machine.execLend s
  | .dstop => Sys2Proof.Machine.execDstop s
  | .cNop => Sys2Proof.Machine.execCNop s
  | .cEnd => Sys2Proof.Machine.execCEnd s
  | .cBrk => Sys2Proof.Machine.execCBrk s
  | .dxrunReadPhase => Sys2Proof.Machine.execDxrunReadPhase s
  | .dxrunWritePhase => Sys2Proof.Machine.execDxrunWritePhase s
  | .budget => Sys2Proof.Machine.execBudget s
  | .dispatch => Sys2Proof.Machine.execDispatch s
  | .agePromotion => Sys2Proof.Machine.execAgePromotion s
  | .messageArrival => Sys2Proof.Machine.execMessageArrival s
  | .nack => Sys2Proof.Machine.execNack s
  | .settleAck => Sys2Proof.Machine.execSettleAck s
  | .releaseSendLeave => Sys2Proof.Machine.execReleaseSendLeave s
  | .spill => Sys2Proof.Machine.execSpill s
  | .spillReturn => Sys2Proof.Machine.execSpillReturn s
  | .linkWordDelivery => Sys2Proof.Machine.execLinkWordDelivery s
  | .linkCreditReturn => Sys2Proof.Machine.execLinkCreditReturn s
  | .remoteLoad => Sys2Proof.Machine.execRemoteLoad s
  | .remoteStore => Sys2Proof.Machine.execRemoteStore s
  | .remotePut => Sys2Proof.Machine.execRemotePut s
  | .remotePutr => Sys2Proof.Machine.execRemotePutr s
  | .remoteGet => Sys2Proof.Machine.execRemoteGet s
  | .getLanding => Sys2Proof.Machine.execGetLanding s
  | .getCompletion => Sys2Proof.Machine.execGetCompletion s
  | .remoteAtomic => Sys2Proof.Machine.execRemoteAtomic s
  | .remoteJdec => Sys2Proof.Machine.execRemoteJdec s
  | .placementFaultRecord => Sys2Proof.Machine.execPlacementFaultRecord s
  | .resumeInstall => Sys2Proof.Machine.execResumeInstall s
  | .resumeRefuse => Sys2Proof.Machine.execResumeRefuse s
  | .plbShootdown => Sys2Proof.Machine.execPlbShootdown s
  | .shootdownAck => Sys2Proof.Machine.execShootdownAck s
  | .prgResponse => Sys2Proof.Machine.execPrgResponse s
  | .mmaCommandStart => Sys2Proof.Machine.execMmaCommandStart s
  | .mmaCommandComplete => Sys2Proof.Machine.execMmaCommandComplete s
  | .ropeCommandArrival => Sys2Proof.Machine.execRopeCommandArrival s
  | .ropeCommandTimeout => Sys2Proof.Machine.execRopeCommandTimeout s
  | .streamStripFetch => Sys2Proof.Machine.execStreamStripFetch s
  | .copyKick => Sys2Proof.Machine.execCopyKick s
  | .copyCommandStart => Sys2Proof.Machine.execCopyCommandStart s
  | .copyCompletion => Sys2Proof.Machine.execCopyCompletion s
  | .launchAccept => Sys2Proof.Machine.execLaunchAccept s
  | .launchWake => Sys2Proof.Machine.execLaunchWake s
  | .launchVote => Sys2Proof.Machine.execLaunchVote s
  | .coalesceWindowClose => Sys2Proof.Machine.execCoalesceWindowClose s
  | .trapTriageHw => Sys2Proof.Machine.execTrapTriageHw s
  | .trapTriageHost => Sys2Proof.Machine.execTrapTriageHost s
  | .engineCompletion => Sys2Proof.Machine.execEngineCompletion s
  | .doubleRecord => Sys2Proof.Machine.execDoubleRecord s
  | .preempt => Sys2Proof.Machine.execPreempt s
  | .timeSliceQuantum => Sys2Proof.Machine.execTimeSliceQuantum s
  | .fingerprintCheckpoint => Sys2Proof.Machine.execFingerprintCheckpoint s
  | .quarantine => Sys2Proof.Machine.execQuarantine s
  | .engineSpareReplace => Sys2Proof.Machine.execEngineSpareReplace s
  | .igtRevokeRequest => Sys2Proof.Machine.execIgtRevokeRequest s
  | .imgrevNotice => Sys2Proof.Machine.execImgrevNotice s
  | .slideRegion => Sys2Proof.Machine.execSlideRegion s
  | .anchorPush => Sys2Proof.Machine.execAnchorPush s
  | .anchorStamp => Sys2Proof.Machine.execAnchorStamp s
  | .stampReturn => Sys2Proof.Machine.execStampReturn s
  | .ascentBeginReq => Sys2Proof.Machine.execAscentBeginReq s
  | .ascentSummitReq => Sys2Proof.Machine.execAscentSummitReq s
  | .ascentRetreatReq => Sys2Proof.Machine.execAscentRetreatReq s
  | .ascentResumeReq => Sys2Proof.Machine.execAscentResumeReq s
  | .ascentStatReq => Sys2Proof.Machine.execAscentStatReq s
  | .ascentLifetime => Sys2Proof.Machine.execAscentLifetime s
  | .anchorSend => Sys2Proof.Machine.execAnchorSend s
  | .endNotice => Sys2Proof.Machine.execEndNotice s
  | .failureNotice => Sys2Proof.Machine.execFailureNotice s
  | .rescueRelay => Sys2Proof.Machine.execRescueRelay s
  | .collectiveCommand => Sys2Proof.Machine.execCollectiveCommand s
  | .generationNotice => Sys2Proof.Machine.execGenerationNotice s
  | .fabricForward => Sys2Proof.Machine.execFabricForward s
  | .linkRetry => Sys2Proof.Machine.execLinkRetry s
  | .portWithdraw => Sys2Proof.Machine.execPortWithdraw s
  | .moduleWithdraw => Sys2Proof.Machine.execModuleWithdraw s
  | .debugStop => Sys2Proof.Machine.execDebugStop s
  | .coreStopped => Sys2Proof.Machine.execCoreStopped s
  | .debugStep => Sys2Proof.Machine.execDebugStep s
  | .debugResume => Sys2Proof.Machine.execDebugResume s
  | .hostLaunch => Sys2Proof.Machine.execHostLaunch s
  | .hostCall => Sys2Proof.Machine.execHostCall s
  | .stageImage => Sys2Proof.Machine.execStageImage s
  | .hostSlideRegion => Sys2Proof.Machine.execHostSlideRegion s
  | .hostCollective => Sys2Proof.Machine.execHostCollective s
  | .readCounters => Sys2Proof.Machine.execReadCounters s
  | .pfCommand => Sys2Proof.Machine.execPfCommand s
  | .journalWindowWrite => Sys2Proof.Machine.execJournalWindowWrite s
  | .hostMemoryAccess => Sys2Proof.Machine.execHostMemoryAccess s
  | .getCertificate => Sys2Proof.Machine.execGetCertificate s
  | .challenge => Sys2Proof.Machine.execChallenge s
  | .getMeasurements => Sys2Proof.Machine.execGetMeasurements s
  | .keyExchange => Sys2Proof.Machine.execKeyExchange s
  | .finish => Sys2Proof.Machine.execFinish s
  | .coldReset => Sys2Proof.Machine.execColdReset s
  | .deviceReset => Sys2Proof.Machine.execDeviceReset s
  | .vfFlr => Sys2Proof.Machine.execVfFlr s
  | .hotReset => Sys2Proof.Machine.execHotReset s
  | .confScrubTimeout => Sys2Proof.Machine.execConfScrubTimeout s
  | .undefEncoding => Sys2Proof.Machine.execUndefEncoding s
  | .fetchFailure => Sys2Proof.Machine.execFetchFailure s
  | .admission => Sys2Proof.Machine.execAdmission s
  | .wakeFailure => Sys2Proof.Machine.execWakeFailure s
  | .portRetrain => Sys2Proof.Machine.execPortRetrain s
  | .fabricLinkUp => Sys2Proof.Machine.execFabricLinkUp s
  | .ideKeyManagement => Sys2Proof.Machine.execIdeKeyManagement s
  | .recordReplayMode => Sys2Proof.Machine.execRecordReplayMode s
  | .powerLimitWindow => Sys2Proof.Machine.execPowerLimitWindow s

end Sys2Proof.Machine
end

