-- ==== Sys2Proof/Machine/Sched.lean ====
section
/-! DEFINITION. What the acting core does next when no other agent's turn is named: the issue rule (R25, R26), dispatch (R157), the vendor's handlers (R152), the
units that work beside the slots, and messages that arrive. One step is one cycle of the acting core (DESIGN CHOICE, log entry 1). -/

namespace Sys2Proof.Machine

/-- What a core does next: an event at a slot with its operand; an instruction issues; a breakpoint matches before one does (R341); a debug step goes on (R342); the cycle ends
with nothing issued; `stepEvent` is an event at the slot of a debug step; `timer` is an event that the clock alone brings about, and takes no cycle of the core. -/
inductive Choice where
  | event (i : Instr) (slot : Fin 4) (arg : EvArg)
  | timer (i : Instr) (arg : EvArg)
  | issue (slot : Fin 4) (d : Decoded)
  | stepEvent (i : Instr) (slot : Fin 4) (arg : EvArg)
  | breakpoint (slot : Fin 4)
  | stepDispatch
  | stepDrain
  | endCycle
  deriving DecidableEq, Repr

/-! Issue (R25). -/

/-- A slot that may issue: it holds an activation, is not held (R339), has not stalled in this cycle (R26), and does not wait for its twin (R256). -/
def State.ready (s : State) (i : Fin 4) : Bool :=
  let a := s.here.acts[i]
  a.busy && !s.here.tried[i] && s.here.dbg.held != some i && a.ptrap.isNone && !(a.paired && a.atCheckpoint)

/-- The slots in search order, from the one after the slot that issued last (R25). -/
def State.searchOrder (s : State) : List (Fin 4) := (List.range 4).map fun k => Fin.ofNat 4 (s.here.lastSlot.val + 1 + k)

/-- What the fetch and decode at a slot's pc make it do next (R46, R57, R59). -/
def State.nextOf (s : State) (i : Fin 4) : Choice :=
  let u := { s with slot := i }
  match u.fetch u.pc with
  | .error _ => .event .fetchFailure i EvArg.none
  | .ok f => match decodeFetched f with
    | .error _ => .event .undefEncoding i EvArg.none
    | .ok d => .issue i d

/-- An instruction of the matrix or vector units (R51, R358): MO 0x0A and 0x1C to 0x27, and the 16-bit form of `vmov` (R99). -/
def isUnit : Decoded → Bool
  | .copy _ _ _ _ => false
  | .insn (.cVmovOV ..) => true
  | .insn (.cVmovVO ..) => true
  | .insn i => match encode i with
    | .word w => let mo := (fld w 25 6 : BitVec 6).toNat; mo == 0x0A || (decide (0x1C ≤ mo) && decide (mo ≤ 0x27))
    | _ => false

/-- Matrix and vector issue is gated (R358). -/
def State.gated (s : State) : Bool := decide (s.time.toNat < s.home.gateUntil.toNat)

/-- The next move of a ready slot: a breakpoint before its instruction (R341), or what its fetch gives. A gated instruction is not ready (R358). -/
def State.slotMove (s : State) (i : Fin 4) : Option Choice :=
  if (State.bpHits { s with slot := i }) != 0#4 && !s.here.dbg.passBp.getLsbD i.val then some (.breakpoint i)
  else match s.nextOf i with
    | .issue j d => if s.gated && isUnit d then none else some (.issue j d)
    | m => some m

/-- The first ready slot after the one that issued last issues (R25). -/
def State.issueMove (s : State) : Option Choice := (s.searchOrder.filter s.ready).findSome? s.slotMove

/-- A slot whose budget is spent (R42). -/
def State.spentSlot (s : State) : Option (Fin 4) := (List.finRange 4).find? fun i => ({ s with slot := i }).spent

/-! The vendor's handlers (R152) and dispatch (R157). -/

/-- An event operand that names a source core. -/
def argSrc (a : CoreAddr) : EvArg := { EvArg.none with src := a }

/-- An event operand with an index. -/
def argIdx (i : Nat) : EvArg := { EvArg.none with idx := i }

/-- An event operand that asks an engine to go on with what it holds. -/
def argGo : EvArg := { EvArg.none with flag := true }

/-- An event of the acting core would do something now. -/
def State.helps (s : State) (i : Instr) (arg : EvArg) : Bool :=
  match exec i { s with ev := arg } with
  | .next t => decide ({ t with ev := s.ev } ≠ s)
  | _ => false

/-- The events by which a compute core's vendor handler of a channel takes its oldest message. -/
def vendorEvents (ch : BitVec 8) : List Instr :=
  match ch.toNat with
  | 0 => [.launchWake]
  | 1 => [.preempt]
  | 5 => [.imgrevNotice]
  | 249 => [.trapTriageHw, .trapTriageHost]
  | 250 => [.engineCompletion]
  | 251 => [.rescueRelay]
  | _ => []

/-- The event by which a compute core's vendor handler of a channel goes on, if it can now: it has a message, or the change of lease that it has begun (R251). -/
def State.vendorMove (s : State) (ch : BitVec 8) : Option Instr :=
  if isEngine s.at_ || !((s.vendorMsg ch).isSome || (ch == 1 && (s.here.preempting || s.here.swapping))) then none
  else (vendorEvents ch).find? fun i => s.helps i EvArg.none

/-- The first vendor handler that has something to do. -/
def State.vendor (s : State) : Option Instr := [0x01#8, 0x00#8, 0x05#8, 0xF9#8, 0xFA#8, 0xFB#8].findSome? s.vendorMove

/-! Work beside the slots. -/

/-- The sources that have a message for the acting core, in the order in which their first ones stand. -/
def State.sources (s : State) : List CoreAddr :=
  let n := s.here.net
  (n.early.map (·.src) ++ (n.rings.flatMap fun r => (r.2.filter (·.early)).map (·.msg.src)) ++ (s.flight.filter fun m => m.dst == s.at_).map (·.src)).eraseDups

/-- The messages of a source that may be next at the ingress: the early arrival whose turn has come, and its first in flight. -/
def State.nextFrom (s : State) (src : CoreAddr) : List Msg :=
  ((s.here.net.takeEarly src).map (·.1)).toList ++ (s.flight.find? fun m => m.dst == s.at_ && m.src == src).toList

/-- The arrivals that may happen next, each by its own event, and what a role's image takes from its queues. -/
def State.arrivals (s : State) : List (Instr × EvArg) :=
  (s.roleHeads.map fun m => (eventOf s.at_ m, argSrc m.src)) ++ s.sources.flatMap fun a => (s.nextFrom a).map fun m => (s.eventFor m, argSrc a)

/-- Work of a compute core's units, and of any core's slots and interface. -/
def State.coreWork (s : State) : List (Instr × EvArg) :=
  let one := fun (i : Instr) => (i, EvArg.none)
  let n := s.here.net
  (match s.here.mx.dxUnit with
   | some r => [one (if r.input.isNone then .dxrunReadPhase else .dxrunWritePhase)]
   | none => []) ++
  (if s.here.mx.queue.isEmpty then [] else [one .mmaCommandComplete, one .mmaCommandStart, one .ropeCommandTimeout]) ++
  (if s.nextStrip.isSome then [one .streamStripFetch] else []) ++
  ((List.range 4).flatMap fun p => [(.linkWordDelivery, argIdx p), (.linkCreditReturn, argIdx p)]) ++
  ((s.acks.filter fun a => a.src == s.at_).map fun a => (.settleAck, argSrc a.dst)) ++
  (if n.egress.isEmpty then [] else [one .releaseSendLeave]) ++
  (if n.rings.isEmpty then [] else one .spill :: ((n.rings.flatMap fun r => r.2.map fun e => e.msg.ch).eraseDups.map fun c => (.spillReturn, argIdx c.toNat))) ++
  (if n.gets.isEmpty then [] else [one .getCompletion]) ++ (if n.shoot.isEmpty then [] else [one .shootdownAck]) ++
  (if s.here.dbg.stopping then [one .coreStopped] else []) ++ ((List.range 4).map fun i => (.fingerprintCheckpoint, argIdx i))

/-- Work of a supervisor: quarantines and spare engines that its reports ask for or that are under way (R257 to R260), slides (R320), and what it follows of revocations (R246, R315). -/
def State.supervisorWork (s : State) : List (Instr × EvArg) :=
  let failed := (s.here.eng.reports.filter fun m => m.ch == 10 && m.fault.kind == 4).map fun m => m.fault.req
  failed.map (fun a => (if isEngine a then Instr.engineSpareReplace else .quarantine, argSrc a)) ++ (s.home.moving.map fun a => (Instr.quarantine, argSrc a)) ++
    ((List.range s.home.slides.length).map fun i => (Instr.slideRegion, argIdx i)) ++ [(Instr.imgrevNotice, argGo)]

/-- Work of an engine by its role (R222). -/
def State.roleWork (s : State) : List (Instr × EvArg) :=
  let a := s.at_
  (if isCopyEngine a then [(.copyCommandStart, EvArg.none), (.copyCompletion, EvArg.none)] else []) ++
  (if isKeeper a then (.ascentLifetime, EvArg.none) :: (s.here.eng.keeper.groups.map fun g => (.anchorSend, argIdx g.gid.toNat)) else []) ++
  (if isLaunchEngine a then [(.collectiveCommand, argGo)] else []) ++ (if isSupervisor a then s.supervisorWork else []) ++
  (if isFabricEngine a then ((List.range s.transit.length).map fun i => (.fabricForward, argIdx i)) ++ ((List.range 48).map fun i => (.portWithdraw, argIdx i)) else []) ++
  (if a == hostAgent (pkgOf a) then s.home.parts.map fun p => (.confScrubTimeout, argIdx p.1) else [])

/-- The first work beside the slots that does something now, as event and operand: of the units and the interface, of the engine's role, or an arrival. -/
def State.unitWork (s : State) : Option (Instr × EvArg) :=
  (s.coreWork ++ (if isEngine s.at_ then s.roleWork else []) ++ s.arrivals).find? fun w => s.helps w.1 w.2

/-- A function of the package with an interrupt window whose time is up (R168). -/
def State.dueWindow (s : State) : Option Nat := (s.home.funcs.find? fun f => f.2.opened.any (windowDue s.time)).map (·.1)

/-! The choice. -/

/-- What a core without a debug step does next. -/
def State.plainMove (s : State) : Choice :=
  if s.here.live.ages.any fun a => a.2.behind then .timer .agePromotion EvArg.none
  else match s.spentSlot with
    | some i => .event .budget i EvArg.none
    | none => match s.vendor with
      | some i => .event i s.slot EvArg.none
      | none =>
        if s.choose.isSome then .event .dispatch s.slot EvArg.none
        else match s.issueMove with
          | some m => m
          | none => match s.unitWork with
            | some w => .event w.1 s.slot w.2
            | none => .endCycle

/-- What the slot of a debug step does next: nothing while its instruction is gated (R358). -/
def State.stepMove (s : State) (i : Fin 4) : Option Choice :=
  if s.here.tried[i] then none
  else match s.nextOf i with
    | .event x j a => some (.stepEvent x j a)
    | .issue j d => if s.gated && isUnit d then none else some (.issue j d)
    | m => some m

/-- What a stopped core does within a debug step (R342): a spent budget ends its activation (R42); it drains, while an activation that is not held, of an entry with P = 1, runs on to
its END (R341); it dispatches into a free slot, or issues from the held slot. Its units go on beside it. -/
def State.steppingMove (s : State) : Choice :=
  let wait := match s.unitWork with
    | some w => Choice.event w.1 s.slot w.2
    | none => .endCycle
  match s.spentSlot with
  | some i => if s.here.dbg.held == some i then .stepEvent .budget i EvArg.none else .event .budget i EvArg.none
  | none =>
    match s.here.dbg.draining, s.here.dbg.held with
    | true, _ => if s.drained then .stepDrain else s.issueMove.getD wait
    | false, none => if s.onlyHeld then .stepDispatch else s.issueMove.getD wait
    | false, some i => (s.stepMove i).getD wait

/-- What the acting core does next. An interrupt window whose time is up closes first (R168). -/
def State.move (s : State) : Choice :=
  match s.dueWindow with
  | some i => .timer .coalesceWindowClose (argIdx i)
  | none => if s.here.dbg.stopped && s.here.dbg.steps != 0 then s.steppingMove else s.plainMove

/-! Doing it. -/

/-- An outcome with something done to its next state. -/
def andThen (f : State → State) : Host.Outcome State Fault Refusal → Host.Outcome State Fault Refusal
  | .next t => .next (f t)
  | .fault r => .fault r
  | .refused r => .refused r

/-- The meaning of what was decoded. -/
def execDecoded : Decoded → State → Host.Outcome State Fault Refusal
  | .copy a b e o, s => execCpy a b e o s
  | .insn i, s => exec i s

/-- The state of a cycle (R346). -/
def State.cycleState (s : State) : BitVec 2 :=
  if s.here.dbg.cycle = 1 then 1
  else if (List.finRange 4).all fun i => !(s.here.acts[i]).busy then 0
  else if s.here.dbg.cycle = 2 then 2 else 3

/-- The records of a change to `new` after `d` cycles in `old` (R346). -/
def stateRecords (old new : BitVec 2) (d : Nat) : List (BitVec 32) :=
  let k := if d < 2 ^ 30 then 0 else (d - 2 ^ 30) / (2 ^ 30 - 1) + 1
  List.replicate k (old ++ BitVec.allOnes 30) ++ [new ++ BitVec.ofNat 30 (d - k * (2 ^ 30 - 1))]

/-- A cycle enters the state log; finished blocks of 64 records go out (R346). -/
def State.logCycle (s : State) : State :=
  let x := s.cycleState
  let d := s.here.dbg
  if x = d.stateNow then s
  else
    let t := s.modDbg fun y => { y with states := y.states ++ stateRecords d.stateNow x (s.time - d.stateAt).toNat, stateNow := x, stateAt := s.time }
    if 64 ≤ t.here.dbg.states.length then t.sendLog false else t

/-- A storage error strikes a core's store (R257): a single-bit one is corrected and counted; an uncorrectable one stays until it is consumed or written over. -/
def Core.struck (c : Core) (u : Upset) : Core :=
  if u.single then { c with ctr := { c.ctr with corrected := c.ctr.corrected + 1 } }
  else match u.store with
    | .localMem | .tagArray => { c with mem := { c.mem with bad := insertNat c.mem.bad u.place } }
    | .imem => { c with imemBad := insertNat c.imemBad u.place }
    | .operand => { c with mx := { c.mx with q := if h : u.place < 8 then c.mx.q.set u.place { c.mx.q[u.place] with bad := true } else c.mx.q } }
    | .acc => { c with mx := { c.mx with accBad := c.mx.accBad.setIfInBounds u.place true } }
    | .table => { c with mx := { c.mx with tabBad := c.mx.tabBad.setIfInBounds u.place true } }
    | .topo => { c with mx := { c.mx with dxBad := c.mx.dxBad.setIfInBounds u.place true } }
    | .queues => c

/-- An error in the queues is met at once: it is counted, and the core sends its fault record (R257). -/
def State.strike (s : State) (u : Upset) : State :=
  let t := { s with here := s.here.struck u }
  if u.store = .queues ∧ ¬ u.single then (t.modCtr fun c => { c with uncorrected := c.uncorrected + 1 }).faultRecord 4 0 0 0 0 0 else t

/-- The storage errors of the core's cycle that ends. -/
def State.strikes (s : State) : State :=
  let due := fun (u : Upset) => decide (u.cycle.toNat ≤ s.here.cyc.toNat)
  (s.here.upsets.filter due).foldl State.strike { s with here := { s.here with upsets := s.here.upsets.filter fun u => !due u } }

/-- The core that acts next. -/
def State.nextActor (s : State) : CoreAddr :=
  match s.turns with
  | x :: _ => x.core
  | [] => s.at_

/-- The device timestamp (R30): it counts when a core is about to act a second time in its cycle (DESIGN CHOICE, log entry 1). -/
def State.clock (s : State) : State :=
  let m := s.moved ++ [s.at_]
  if m.contains s.nextActor then { s with time := s.time + 1, moved := [] } else { s with moved := m }

/-- A cycle of the core ends: it is logged, the core's cycles and the device timestamp count (R30), stalled slots may be tried again (R26), storage errors strike (R257), ages
are kept (R158), and a trace collector passes a record on (R345; one in each of its cycles: DESIGN CHOICE, log entry 7). -/
def State.tick (s : State) : State :=
  let t := s.logCycle
  ({ t with here := { t.here with cyc := t.here.cyc + 1, tried := Vector.replicate 4 false, dbg := { t.here.dbg with cycle := 0 },
                                  eng := { t.here.eng with trace := t.here.eng.trace.pass } } }).strikes.clock.refreshAges

/-- After an issue: a slot that stalled leaves the cycle to the next one (R26), anything else ends it. -/
def State.afterIssue (i : Fin 4) (t : State) : State := if t.here.tried[i] then t else t.tick

/-- The issue of an instruction from a slot. -/
def State.issue (s : State) (i : Fin 4) (d : Decoded) : Host.Outcome State Fault Refusal := andThen (State.afterIssue i) (execDecoded d { s with slot := i })

/-- An event at the acting core ends its cycle. -/
def State.perform1 (s : State) (i : Instr) (slot : Fin 4) (arg : EvArg) : Host.Outcome State Fault Refusal :=
  andThen State.tick (exec i { s with slot := slot, ev := arg })

/-- A slot that a breakpoint does not hold goes on past it (R341). -/
def State.passOver (i : Fin 4) (t : State) : State := if t.here.dbg.held == some i then t else t.modDbg fun d => { d with passBp := d.passBp ||| (1#4 <<< i.val) }

/-- A breakpoint's effect (R341). -/
def State.atBreakpoint (s : State) (i : Fin 4) : State := State.passOver i { ({ s with slot := i }).breakpoint with slot := s.slot }

/-- The held slot issues one instruction of a debug step, and is held again behind it (R342). One that stalls has not issued. The cycles in which the step has released the slot count
for its budget, stalls among them (R30, R341; DEDUCED, log entry 34). -/
def State.stepIssue (s : State) (i : Fin 4) (d : Decoded) : Host.Outcome State Fault Refusal :=
  andThen (fun t => if t.here.tried[i] then t.rehold i else (t.stepHold i).tick) (execDecoded d (s.stepRelease i))

/-- The held slot of a debug step meets what ends its activation: a fetch or a decode that fails, which is the step's issue, or a spent budget (R42, R342). -/
def State.stepEvent (s : State) (i : Instr) (slot : Fin 4) (arg : EvArg) : Host.Outcome State Fault Refusal :=
  andThen (fun t => (if i = .budget then t.stepSpent else t.stepHold slot).tick) (exec i { s.stepRelease slot with ev := arg })

/-- A move made. -/
def State.make (s : State) : Choice → Host.Outcome State Fault Refusal
  | .event i slot arg => s.perform1 i slot arg
  | .timer i arg => exec i { s with ev := arg }
  | .issue i d => if s.here.dbg.held == some i then s.stepIssue i d else s.issue i d
  | .stepEvent i slot arg => s.stepEvent i slot arg
  | .breakpoint i => .next (s.atBreakpoint i).tick
  | .stepDispatch => .next s.stepDispatch.tick
  | .stepDrain => .next s.stepDrain.tick
  | .endCycle => .next s.tick

/-- The acting core goes on by its own rules. A core of a package that its bring-up left in reset does nothing (R356). -/
def State.goOn (s : State) : Host.Outcome State Fault Refusal := if s.home.inReset then .fault .inReset else s.make s.move

/-- An event of the opcode table has no bits. -/
def isEvent (i : Instr) : Bool := match encode i with
  | .event => true
  | _ => false

/-- Another agent's turn: the named core acts. An event happens there with its operand; anything else lets the core go on by its own rules. In a package left in reset only a
cold reset happens (R356). -/
def State.takeTurn (s : State) (x : Turn) : Host.Outcome State Fault Refusal :=
  let t := s.focus x.core
  if t.home.inReset && x.what != .coldReset then .next t.tick
  else if isEvent x.what then t.perform1 x.what t.slot x.arg
  else t.goOn

/-! A program placed from outside. -/

/-- The handler entry that runs a placed instruction: valid, class S, mode D, BUDGET 65,535, image 0, entry 0 (R153). -/
def placedEntry : Word := 0x823F_FFFF_0000_0000

/-- The image of a placed instruction: extent of 64 bytes from 0, class 1, tenant 0, key slot 0. -/
def placedImage : ImgEntry := { ImgEntry.zero with xlen := 64, cls := 1 }

/-- The bytes of an instruction stored as the running image's first, and slot 3 about to issue it. -/
def State.place1 (s : State) (bytes : List Byte) : State :=
  let c := s.here
  let a : Act := { Act.free with busy := true, img := placedImage, entry := placedEntry, t0 := s.here.cyc }
  { s with
    turns := []
    here := { c with
      imem := memWrite c.imem 0 bytes
      xmap := c.xmap ||| 3
      images := c.images.set 0 (some placedImage)
      acts := c.acts.set 3 a
      lastSlot := 2
      tried := Vector.replicate 4 false } }

end Sys2Proof.Machine
end

