-- ==== Sys2Proof/Machine/Step.lean ====
section
/-! DEFINITION. One step of the machine: the turn that comes next, or the acting core's own next move. -/

namespace Sys2Proof.Machine

/-- One step. -/
def step (s : State) : Host.Outcome State Fault Refusal :=
  match s.turns with
  | x :: rest => { s with turns := rest }.takeTurn x
  | [] => s.goOn

/-- `s` with an instruction of the opcode table stored where the next step fetches it: as the only instruction of an image in slot 3 (log entry 3). -/
def State.withFetchWord (s : State) (nbits w : Nat) : State := s.place1 (tableBytes nbits w)

end Sys2Proof.Machine
end

