-- ==== Sys2Proof/Safety.lean ====
section
/-! DEFINITION. The terms that claims use: what counts as a safe run, the invariant of the memories, and what a completed instruction leaves as it was. -/

namespace Sys2Proof.Safety

open Sys2Proof.Machine

/-- A step that neither faults nor is refused. -/
def Steps (s : State) : Prop := ∃ t, step s = .next t

/-- The canonical form of every memory of a core that stores bytes by address (R32, R36). -/
def coreWf (c : Core) : Prop := memWf c.mem.bytes = true ∧ memWf c.imem = true

/-- The canonical form of a package's device memory and of the memory behind its pool ports (R205). -/
def pkgWf (k : Package) : Prop := memWf k.devMem = true ∧ ∀ p ∈ k.pool, memWf p.2 = true

/-- The canonical form of every memory: those of the acting core, of all other cores and of every package, and the host's. -/
def Wf (s : State) : Prop := coreWf s.here ∧ (∀ p ∈ s.away, coreWf p.2) ∧ (∀ p ∈ s.pkgs, pkgWf p.2) ∧ memWf s.hostMem = true

/-! What an instruction leaves as it was. -/

/-- The machine outside the acting slot is as it was, but for the marks that every issue makes: the slot that issued last and the stalls that may be tried again
(R25, R26), the state of the cycle (R346) and a passed breakpoint (R341). -/
def OutsideKept (s t : State) : Prop :=
  t = { s with here := { s.here with
    acts := t.here.acts
    lastSlot := s.slot
    tried := Vector.replicate 4 false
    dbg := { s.here.dbg with cycle := 1, passBp := t.here.dbg.passBp } } } ∧
  ∀ i : Fin 4, i ≠ s.slot → t.here.acts[i] = s.here.acts[i]

/-- The activation is as it was, but for its registers, its control registers and pc, the count of retired instructions, a finished part (R131, R145, R309) and
the fingerprint of a paired run with the near stores that stood for it (R256). -/
def ActKept (a b : Act) : Prop :=
  b = { a with regs := b.regs, csr := b.csr, pc := b.pc, instret := a.instret + 1, part := .none, fp := b.fp, stores := b.stores } ∧ (a.paired = false → b.fp = a.fp ∧ b.stores = a.stores)

/-- The next pc and loop count of sequential flow to `p` (R95), from the control registers before. -/
def SeqNext (c : Csrs) (p : Word) (b : Act) : Prop :=
  (c.lpcnt = 0 → b.pc = p ∧ b.csr.lpcnt = 0) ∧
  (c.lpcnt ≠ 0 → p = c.lpend → c.lpcnt - 1 = 0 → b.pc = c.lpend ∧ b.csr.lpcnt = 0) ∧
  (c.lpcnt ≠ 0 → p = c.lpend → c.lpcnt - 1 ≠ 0 → b.pc = c.lpbeg ∧ b.csr.lpcnt = c.lpcnt - 1) ∧
  (c.lpcnt ≠ 0 → p ≠ c.lpend → c.lpbeg.toNat ≤ p.toNat → p.toNat < c.lpend.toNat → b.pc = p ∧ b.csr.lpcnt = c.lpcnt) ∧
  (c.lpcnt ≠ 0 → p ≠ c.lpend → ¬ (c.lpbeg.toNat ≤ p.toNat ∧ p.toNat < c.lpend.toNat) → b.pc = p ∧ b.csr.lpcnt = 0)

/-- The next pc and loop count of a taken branch or jump to `p` (R95). -/
def JumpNext (c : Csrs) (p : Word) (b : Act) : Prop :=
  b.pc = p ∧
  (c.lpcnt ≠ 0 → c.lpbeg.toNat ≤ p.toNat → p.toNat < c.lpend.toNat → b.csr.lpcnt = c.lpcnt) ∧
  (c.lpcnt = 0 ∨ ¬ (c.lpbeg.toNat ≤ p.toNat ∧ p.toNat < c.lpend.toNat) → b.csr.lpcnt = 0)

/-- The acting slot's instruction has completed with these registers and, but for the loop count, these control registers, and nothing else has changed. -/
structure Retires (s t : State) (regs : Regs) (csr : Csrs) : Prop where
  outside : OutsideKept s t
  slot : ActKept s.act t.act
  regs : t.act.regs = regs
  csr : t.act.csr = { csr with lpcnt := t.act.csr.lpcnt }

/-- An instruction of `len` bytes has completed in sequence. -/
def RetiresSeq (len : Nat) (s t : State) (regs : Regs) (csr : Csrs) : Prop := Retires s t regs csr ∧ SeqNext csr (s.pc + BitVec.ofNat 64 len) t.act

/-- An instruction has completed by a transfer to `p`. -/
def RetiresTo (p : Word) (s t : State) (regs : Regs) (csr : Csrs) : Prop := Retires s t regs csr ∧ JumpNext csr p t.act

/-- The register files with one general register written; g0 discards the write (R27). -/
def withG (r : Regs) (d : BitVec 5) (v : Word) : Regs := { r with g := if d = 0 then r.g else r.g.set d.toNat v }

/-- The register files with one v register written. -/
def withV (r : Regs) (d : BitVec 5) (v : Strip) : Regs := { r with v := r.v.set d.toNat v }

/-- The register files with one o register written. -/
def withO (r : Regs) (d : BitVec 3) (v : Strip) : Regs := { r with o := r.o.set d.toNat v }

/-- The register files with one mask register written; k0 discards the write (R27). -/
def withK (r : Regs) (d : BitVec 2) (v : BitVec 32) : Regs := { r with k := if d = 0 then r.k else r.k.set d.toNat v }

/-- The register files with one tensor-map register written. -/
def withTm (r : Regs) (d : BitVec 3) (v : TMap) : Regs := { r with tm := r.tm.set d.toNat v }

/-- The control registers once the o sources are read (R29): DR if one was dead, and the sources marked as a last use are dead. -/
def usedO (s : State) (src : List (BitVec 3 × BitVec 1)) : Csrs :=
  { s.act.csr with
    fflg := s.act.csr.fflg ||| (if src.any (fun r => s.oDead r.1) then fDR else 0)
    olive := src.foldl (fun (v : BitVec 8) r => if r.2 = (1 : BitVec 1) then v &&& ~~~(1#8 <<< r.1.toNat) else v) s.act.csr.olive }

/-- Control registers with sticky flags added (R67). -/
def withFlags (c : Csrs) (f : BitVec 6) : Csrs := { c with fflg := c.fflg ||| f }

/-- Control registers with an o register live (R29). -/
def withLive (c : Csrs) (d : BitVec 3) : Csrs := { c with olive := c.olive ||| (1#8 <<< d.toNat) }

/-- An instruction of `len` bytes writes the general register `d` and does nothing else (R80). -/
def WritesG (i : Instr) (len : Nat) (d : BitVec 5) (v : Word) (s : State) : Prop :=
  ∃ t, exec i s = .next t ∧ RetiresSeq len s t (withG s.act.regs d v) s.act.csr

/-- An instruction goes on at `p` by a transfer, with these general registers, and does nothing else. -/
def JumpsTo (i : Instr) (p : Word) (regs : Regs) (csr : Csrs) (s : State) : Prop := ∃ t, exec i s = .next t ∧ RetiresTo p s t regs csr

/-- An instruction of `len` bytes completes in sequence and changes no register. -/
def PassesBy (i : Instr) (len : Nat) (s : State) : Prop := ∃ t, exec i s = .next t ∧ RetiresSeq len s t s.act.regs s.act.csr

/-- An instruction traps with no effect of its own (R59): it has issued (R25), and the machine takes the trap. -/
def Traps (i : Instr) (t : Trap) (s : State) : Prop := exec i s = .next (s.trap t).issued

/-- An instruction stalls its slot with no effect (R26). -/
def Stalls (i : Instr) (s : State) : Prop := ∃ m, exec i s = .next (s.stalled m)

/-- An instruction of `len` bytes has this effect on the machine and completes in sequence. -/
def Does (i : Instr) (len : Nat) (s u : State) : Prop := exec i s = .next (u.retire len).issued

/-- An instruction of `len` bytes writes the o register `d`, which becomes live, on top of these control registers, and does nothing else (R29). -/
def WritesO (i : Instr) (len : Nat) (d : BitVec 3) (v : Strip) (csr : Csrs) (s : State) : Prop :=
  ∃ t, exec i s = .next t ∧ RetiresSeq len s t (withO s.act.regs d v) (withLive csr d)

/-- An instruction of `len` bytes leaves these registers and control registers and does nothing else. -/
def Leaves (i : Instr) (len : Nat) (regs : Regs) (csr : Csrs) (s : State) : Prop := ∃ t, exec i s = .next t ∧ RetiresSeq len s t regs csr

/-- A conditional transfer: taken it goes on at `p`, otherwise the instruction of `len` bytes completes in sequence; no register changes (R90). -/
def Branches (i : Instr) (len : Nat) (taken : Prop) (p : Word) (s : State) : Prop :=
  (taken → JumpsTo i p s.act.regs s.act.csr s) ∧ (¬ taken → PassesBy i len s)

/-! Near accesses. -/

/-- A granule passes the checks of an access of `n` bytes from `a` by the acting slot (R32, R254): no uncorrectable error and no poisoned mark, and its tag verifies; a
store that writes a poisoned granule whole passes it (R258). -/
def GranuleOk (s : State) (store : Bool) (a n g : Nat) : Prop :=
  (store = true ∧ g ∈ s.here.mem.poison ∧ a ≤ 16 * g ∧ 16 * g + 16 ≤ a + n) ∨
  (g ∉ s.here.mem.bad ∧ g ∉ s.here.mem.poison ∧ s.here.mem.tagOk s.at_ s.key g = true)

/-- An access of `n` bytes from near address `a` passes every check of R32. -/
def NearOk (s : State) (store : Bool) (a n align : Nat) : Prop :=
  a + n ≤ nearEnd s.at_ ∧ a % align = 0 ∧ ∀ g, a / 16 ≤ g → g ≤ (a + n - 1) / 16 → GranuleOk s store a n g

/-- The first failing check of R32 on an access of `n` bytes from `ea`, and the trap that it raises. -/
def NearFails (s : State) (store : Bool) (ea : Word) (n align : Nat) (t : Trap) : Prop :=
  (nearEnd s.at_ ≤ ea.toNat ∧ t = .atNear 0x0C ea ea) ∨
  (ea.toNat < nearEnd s.at_ ∧ ea.toNat % align ≠ 0 ∧ t = .atNear 0x0F ea ea) ∨
  (ea.toNat < nearEnd s.at_ ∧ ea.toNat % align = 0 ∧ nearEnd s.at_ < ea.toNat + n ∧ t = .atNear 0x0C (BitVec.ofNat 64 (nearEnd s.at_)) ea) ∨
  (ea.toNat + n ≤ nearEnd s.at_ ∧ ea.toNat % align = 0 ∧ ∃ g, ea.toNat / 16 ≤ g ∧ g ≤ (ea.toNat + n - 1) / 16 ∧
    (∀ h, ea.toNat / 16 ≤ h → h < g → GranuleOk s store ea.toNat n h) ∧ ¬ GranuleOk s store ea.toNat n g ∧
    t = .atNear (if g ∈ s.here.mem.bad ∨ g ∈ s.here.mem.poison then 0x13 else 0x04) (BitVec.ofNat 64 (16 * g)) (BitVec.ofNat 64 (16 * g)))

/-- An access of `n` bytes from offset `a` of the running image's extent passes every check of R38. -/
def ImemOk (s : State) (a n align : Nat) : Prop :=
  a + n ≤ s.act.img.xlen.toNat ∧ a % align = 0 ∧
  ∀ h ∈ s.here.imemBad, ¬ ((s.act.img.base.toNat + a) / 2 ≤ h ∧ 2 * h < s.act.img.base.toNat + a + n)

/-- The first failing check of R38 on an access of `n` bytes from offset `ea` of the running image's extent, and the trap that it raises. -/
def ImemFails (s : State) (ea : Word) (n align : Nat) (t : Trap) : Prop :=
  let x := s.act.img.xlen.toNat
  (x ≤ ea.toNat ∧ t = .atImem 0x0C ea ea) ∨
  (ea.toNat < x ∧ ea.toNat % align ≠ 0 ∧ t = .atImem 0x0F ea ea) ∨
  (ea.toNat < x ∧ ea.toNat % align = 0 ∧ x < ea.toNat + n ∧ t = .atImem 0x0C (BitVec.ofNat 64 x) ea) ∨
  (ea.toNat + n ≤ x ∧ ea.toNat % align = 0 ∧
    (∃ h ∈ s.here.imemBad, (s.act.img.base.toNat + ea.toNat) / 2 ≤ h ∧ 2 * h < s.act.img.base.toNat + ea.toNat + n) ∧ t = .atSpace 0x13 ea 0 ea)

/-- A load by base field passes its checks: near, or PC-relative for a base field of zero (R32, R38). -/
def LoadOk (s : State) (base : BitVec 5) (a n align : Nat) : Prop := if base = 0 then ImemOk s a n align else NearOk s false a n align

/-- The byte that a load by base field reads at address `a`. -/
def loadByte (s : State) (base : BitVec 5) (a : Nat) : Byte :=
  if base = 0 then memByte s.here.imem (s.act.img.base.toNat + a) else s.here.mem.byte s.at_ s.key a

/-- The machine once a load has been performed: a near one passes the watchpoints (R344). -/
def loaded (s : State) (base : BitVec 5) (a n : Nat) : State := if base = 0 then s else s.watch true false s.ten [(a, n)]

/-- Byte `i` of a value. -/
def byteOf {w : Nat} (x : BitVec w) (i : Nat) : Byte := x.extractLsb' (8 * i) 8

/-- A load of an instruction of `len` bytes into the register files: `n` bytes are read in one access, the new registers are a function of their little-endian value,
nothing of local memory changes, and nothing else changes but by a watchpoint. -/
def Loads (i : Instr) (len : Nat) (base : BitVec 5) (off : Word) (n : Nat) (regs : BitVec (8 * n) → Regs) (s : State) : Prop :=
  let a := ((if base = 0 then s.pc else s.g base) + off).toNat
  LoadOk s base a n n → ∃ (x : BitVec (8 * n)) (t : State), exec i s = .next t ∧ (∀ j, j < n → byteOf x j = loadByte s base (a + j)) ∧
    RetiresSeq len (loaded s base a n) t (regs x) s.act.csr ∧ t.here.mem = s.here.mem

/-- A store by an instruction of `len` bytes: the `n` low bytes of a value go to `n` consecutive addresses, every other byte reads as before, every other granule keeps
its key, the touched ones are under the acting slot's key, and nothing else changes but by a watchpoint. -/
def Stores {w : Nat} (i : Instr) (len : Nat) (base : BitVec 5) (off : Word) (n : Nat) (x : BitVec w) (s : State) : Prop :=
  let a := (s.g base + off).toNat
  NearOk s true a n n → ∃ (m : LocalMem) (t : State), exec i s = .next t ∧
    RetiresSeq len (({ s with here := { s.here with mem := m } }).watch false true s.ten [(a, n)]) t s.act.regs s.act.csr ∧
    t.here.mem = m ∧ m.bad = s.here.mem.bad ∧ (∀ g ∈ m.poison, g ∈ s.here.mem.poison) ∧
    (memWf s.here.mem.bytes = true →
      (∀ j, j < n → m.byte s.at_ s.key (a + j) = byteOf x j) ∧
      (∀ y, y < a ∨ a + n ≤ y → m.byte s.at_ s.key y = s.here.mem.byte s.at_ s.key y) ∧
      (∀ g, m.tag g = if a / 16 ≤ g ∧ g ≤ (a + n - 1) / 16 then s.key else s.here.mem.tag g) ∧
      (∀ k y, y / 16 < a / 16 ∨ (a + n - 1) / 16 < y / 16 → m.byte s.at_ k y = s.here.mem.byte s.at_ k y))

/-! Sends. -/

/-- What an instruction of `len` bytes does that makes one send of a part of R282 from `u`, the machine after what it reads (R159, R174, R196): deferred, the send joins the
outbox, or OUTBOX is raised with the number of entries when the outbox has 32 of them or no room for its bytes; immediate, the send leaves by the egress, or the slot stalls
while it must wait. -/
def SendsPart (i : Instr) (len : Nat) (m : Send) (l : Bool) (part : Nat) (who : Waiter) (s u : State) : Prop :=
  let a := u.act
  let it := u.item m l part who
  (a.modeI = false → a.outbox.length < 32 → a.outBytes + m.size ≤ 4096 →
    exec i s = .next ((u.setAct { a with outbox := a.outbox ++ [it], sends := a.sends + 1 }).retire len).issued) ∧
  (a.modeI = false → 32 ≤ a.outbox.length ∨ 4096 < a.outBytes + m.size → Traps i (.plain 0x07 (BitVec.ofNat 64 a.outbox.length)) s) ∧
  (a.modeI = true → u.mustWait it = true → Stalls i s) ∧
  (a.modeI = true → u.mustWait it = false →
    exec i s = .next ((((u.setAct { a with sends := a.sends + 1 }).modNet fun n => { n with egress := n.egress ++ [it] }).flush).retire len).issued)

/-- What an instruction of `len` bytes does that makes one message from `u`, the machine after what it reads. -/
def SendsAfter (i : Instr) (len : Nat) (m : Send) (l : Bool) (who : Waiter) (s u : State) : Prop := SendsPart i len m l 1 who s u

/-- What an instruction of `len` bytes does that makes one send and reads no memory. -/
def SendsOne (i : Instr) (len : Nat) (m : Send) (l : Bool) (who : Waiter) (s : State) : Prop := SendsAfter i len m l who s s

/-- The activation may name a channel in a send or as a reply channel: a class-N one none of 0 to 15 and 248 to 251 (R174, R204). -/
def MayName (s : State) (c : BitVec 8) : Prop := s.classS = true ∨ (15 < c.toNat ∧ c.toNat < 248) ∨ 251 < c.toNat

/-- The activation has joined no ascent, so nothing confines its sends to its package (R279, R281). -/
def NotJoined (s : State) : Prop := s.act.csr.asid.getLsbD 32 = false

/-- The rectangle of a striped region lies on one die (R195). -/
def RectInDie (p : RptEntry) : Prop :=
  let c : CoreAddr := p.loc.extractLsb' 18 29
  xOf c + (p.loc.extractLsb' 58 6).toNat ≤ 47 ∧ yOf c + (p.loc.extractLsb' 53 5).toNat ≤ 31

/-- The placement that an offset has at issue has its home in the core's package, or there is none (R195, R279): a plain or striped region lies in the package of its
location word, a pool region behind the core's own package. -/
def HomeHere (s : State) (sp : BitVec 8) (off : Word) : Prop :=
  ∀ p, s.placedAt sp off = some p →
    (p.kind = 0 ∧ pkgOf (p.loc.extractLsb' 18 29) = pkgOf s.at_) ∨
    (p.kind = 1 ∧ RectInDie p ∧ pkgOf (p.loc.extractLsb' 18 29) = pkgOf s.at_) ∨ p.kind = 2

/-- The placement that an offset has at issue has its home in another package (R195, R279). -/
def HomeAway (s : State) (sp : BitVec 8) (off : Word) : Prop :=
  ∃ p, s.placedAt sp off = some p ∧ (p.kind = 0 ∨ (p.kind = 1 ∧ RectInDie p)) ∧ pkgOf (p.loc.extractLsb' 18 29) ≠ pkgOf s.at_

/-! Element-wise instructions. -/

/-- The flags of the active ones of `n` lanes together (R67). -/
def laneFlags (n : Nat) (k : BitVec 32) (f : Nat → BitVec 6) (fl : BitVec 6) : Prop :=
  ∀ b, b < 6 → (fl.getLsbD b = true ↔ ∃ i, i < n ∧ k.getLsbD i = true ∧ (f i).getLsbD b = true)

/-- An element-wise instruction (R100) on the lanes of type `ty`: every active lane of o register `d` takes its result, every other lane keeps what it held (0 in a dead
register), the flags of the active lanes are added, a dead source sets DR, sources marked as a last use die, `d` is live, and nothing else changes. -/
def VecDoes (i : Instr) (ty : TypeCode) (d : BitVec 3) (k : BitVec 2) (src : List (BitVec 3 × BitVec 1)) (f : Nat → Nat × BitVec 6) (s : State) : Prop :=
  ∃ (v : Strip) (fl : BitVec 6), laneFlags (laneCount ty) (s.k k) (fun j => (f j).2) fl ∧
    (∀ j, j < laneCount ty → lane (laneWidth ty) v j = if (s.k k).getLsbD j then (f j).1 % 2 ^ laneWidth ty else lane (laneWidth ty) (s.o d) j) ∧
    WritesO i 4 d v (withFlags (usedO s src) fl) s

/-- A compare (R107, R110): the mask register takes the results of the active lanes and 0 elsewhere, with the flags of the active lanes. -/
def CmpDoes (i : Instr) (ty : TypeCode) (e k : BitVec 2) (src : List (BitVec 3 × BitVec 1)) (f : Nat → Bool × BitVec 6) (s : State) : Prop :=
  ∃ (m : BitVec 32) (fl : BitVec 6), laneFlags (laneCount ty) (s.k k) (fun j => (f j).2) fl ∧
    (∀ j, j < 32 → m.getLsbD j = (decide (j < laneCount ty) && (s.k k).getLsbD j && (f j).1)) ∧
    Leaves i 4 (withK s.act.regs e m) (withFlags (usedO s src) fl) s

/-- A lane as the exact integer that its type says (R109). -/
def intLane (ty : TypeCode) (x : Strip) (i : Nat) : Int := if isSigned ty then (BitVec.ofNat (laneWidth ty) (lane (laneWidth ty) x i)).toInt else lane (laneWidth ty) x i

/-- The exact value of a dyadic. -/
def ratOf (x : Dy) : ℚ := (if x.neg then -1 else 1) * (x.m : ℚ) * (2 : ℚ) ^ x.e

/-- Every lane of a strip that lies inside its walk passes the checks of R32, under the acting slot's key (R117). -/
def StripOk (s : State) (store : Bool) (m : TMap) (j : Nat) : Prop :=
  ∀ i, i < m.lanes → ∀ x, m.addr (j * m.lanes + i) = some x → 0 ≤ x ∧ NearOk s store x.toNat m.size m.size

/-- The strip that a walk reads: lane `i` holds the element's bytes, or 0 outside the walk (R117). -/
def StripReads (s : State) (m : TMap) (j : Nat) (v : Strip) : Prop :=
  ∀ i, i < m.lanes → ∀ b, b < m.size → byteOf v (i * m.size + b) =
    match m.addr (j * m.lanes + i) with
    | some x => s.here.mem.byte s.at_ s.key (x.toNat + b)
    | none => 0

/-- What a walk's store leaves of local memory: a byte of the highest lane that addresses it, and every other byte as it was (R117). -/
def StripStored (s : State) (m : TMap) (j : Nat) (v : Strip) (mem : LocalMem) : Prop :=
  (∀ y : Nat, (∀ i, i < m.lanes → ∀ x, m.addr (j * m.lanes + i) = some x → ¬ (x ≤ (y : Int) ∧ (y : Int) < x + m.size)) →
    mem.byte s.at_ s.key y = s.here.mem.byte s.at_ s.key y) ∧
  (∀ (y i : Nat) (x : Int), i < m.lanes → m.addr (j * m.lanes + i) = some x → x ≤ (y : Int) → (y : Int) < x + m.size →
    (∀ i', i < i' → i' < m.lanes → ∀ x', m.addr (j * m.lanes + i') = some x' → ¬ (x' ≤ (y : Int) ∧ (y : Int) < x' + m.size)) →
    mem.byte s.at_ s.key y = byteOf v (i * m.size + (y - x.toNat)))

/-! Events. -/

/-- Message `m` of the event's core is the next of its pair, behind none that still spills, and is admitted (R178, R236, R348), none of its event waits in a queue of the acting engine's role
(R181), and `t` is the machine once the ingress has taken it and its digest (R347), before it is performed. -/
def Takes (s : State) (m : Msg) (t : State) : Prop :=
  ∃ rest, s.roleNext (s.eventFor m) = none ∧ s.here.present = true ∧ s.here.net.takeEarly s.ev.src = none ∧
    takeFirst (fun x => x.dst == s.at_ && x.src == s.ev.src) s.flight = some (m, rest) ∧ m.pseq = s.here.net.expectOf s.ev.src ∧ s.here.net.spilling s.ev.src = false ∧
    s.here.dbg.admits m = true ∧ t = State.ingress { s with flight := rest } s.ev.src m

/-- The same for a message that every partition router on its way lets pass (R327). -/
def TakesRouted (s : State) (m : Msg) (t : State) : Prop := Takes s m t ∧ t.routed m = true

/-- An event has this next state. -/
def Comes (i : Instr) (s t : State) : Prop := exec i s = .next t

end Sys2Proof.Safety
end

