-- ==== Sys2Proof/Certificates/Slice0/Obligations.lean ====
section
/-! DEFINITION. The statements for the provers. -/

open Sys2Proof Sys2Proof.Machine Sys2Proof.Safety

/-- The decoder and the encoder agree (R44, R45, R55 to R57): every well-formed instruction with an encoding is read back with every operand, and the bytes that are read as
an instruction are the bytes of that instruction. -/
def Obligations.RoundTrip : Prop :=
  (∀ i : Instr, i.wf = true → encode i ≠ .event → decode (encode i).bytes = .ok (i, [])) ∧
  (∀ (bs rest : List Byte) (i : Instr), decode bs = .ok (i, rest) → i.wf = true ∧ encode i ≠ .event ∧ bs = (encode i).bytes ++ rest)

/-- Words written out from the encodings decode to the instructions they stand for, family by family (R44, R45, R53). -/
def Obligations.DecodeWords : Prop :=
  decodeTableWord 32 0x8231FFFF = some (.addi 3 3 0x7FFF) ∧
  decodeTableWord 32 0x80831C00 = some (.add 8 6 7) ∧
  decodeTableWord 32 0xD94A8C00 = some (.cpy 20 21 3 0) ∧
  decodeTableWord 32 0xCEE08000 = some (.mma 0 1 0 0 0) ∧
  decodeTableWord 32 0xA2001410 = some (.crd 5 0x010) ∧
  decodeTableWord 32 0xD20A6028 = some (.abegin 5 6 5) ∧
  decodeTableWord 32 0xB2000000 = some (.sbind 0 0) ∧
  decodeTableWord 16 0x5900 = some .cEnd

/-- A step runs what the bytes at the program counter decode to (R25, R26, R44, R46): it is exec of that instruction at the slot whose turn it is, and the cycle ends behind it
unless the slot stalled. A turn runs its event at its core. -/
def Obligations.StepRunsDecoded : Prop :=
  (∀ (s : State) (i : Fin 4) (r : List (Fin 4)) (x : Instr) (n : Nat),
    s.turns = [] → s.home.inReset = false → s.dueWindow = none → s.here.dbg.stopped = false → (∀ a ∈ s.here.live.ages, a.2.behind = false) → s.spentSlot = none → s.vendor = none →
    s.choose = none → s.searchOrder.filter s.ready = i :: r → State.bpHits { s with slot := i } = 0 → s.gated = false →
    let a := s.here.acts[i]
    let b := a.img.base.toNat + a.pc.toNat
    n = (if isLong (halfOfBytes (memByte s.here.imem b) (memByte s.here.imem (b + 1))) then 4 else 2) → a.pc.toNat + n ≤ a.img.xlen.toNat →
    (∀ j, j < n → s.here.xmap.getLsbD ((b + j) / 2) = true ∧ (b + j) / 2 ∉ s.here.imemBad) →
    decode (memRead s.here.imem b n) = .ok (x, []) →
    step s = andThen (State.afterIssue i) (exec x { s with slot := i })) ∧
  (∀ (s : State) (x : Turn) (rest : List Turn), s.turns = x :: rest → encode x.what = .event →
    let t := ({ s with turns := rest } : State).focus x.core
    t.home.inReset = false → step s = andThen State.tick (exec x.what { t with ev := x.arg }))

/-- The state after a core reset (R43): the list of that rule.

The reset state meets the invariant of `MemoriesStayCanonical` (R32, R36, R43). -/
def Obligations.ResetState : Prop :=
  (
  let c := State.reset.here
  (∀ i : Fin 4, c.acts[i].busy = false) ∧ (∀ i : Fin 8, c.images[i] = none) ∧ c.xmap = 0 ∧
  (∀ ch : BitVec 8, bit (c.entry ch) 63 = false) ∧
  (∀ (q : Fin 8) (a : Nat), memByte c.mx.q[q].arr a = 0) ∧ (∀ (b : Fin 2) (a : Nat), memByte c.mx.acc[b] a = 0 ∧ memByte c.mx.tab[b] a = 0 ∧ memByte c.mx.dx[b] a = 0) ∧
  (∀ q : Fin 8, c.mx.q[q].st = .free) ∧
  (∀ g : Nat, c.mem.tag g = c.key 0 ∧ c.mem.tagOk State.reset.at_ (c.key 0) g = true) ∧ (∀ a : Nat, c.mem.byte State.reset.at_ (c.key 0) a = 0)) ∧
  (
 Wf State.reset)

/-- The invariant that every step keeps: the memories of every core and package and of the host stay in canonical form, so that equal memories are equal data (R32, R34, R36, R205, R312). -/
def Obligations.MemoriesStayCanonical : Prop :=
 ∀ s t : State, Wf s → step s = .next t → Wf t

/-- The two-source register arithmetic but for division (R80, R81): each instruction completes in sequence with its value in g[rd] and changes nothing else.

The one-source register instructions (R81), each by what its result is.

The immediate instructions (R83 to R86) and their 16-bit forms (R99). -/
def Obligations.IntegerArithmetic : Prop :=
  (
  ∀ (s : State) (d a b : BitVec 5),
    WritesG (.add d a b) 4 d (s.g a + s.g b) s ∧
    WritesG (.sub d a b) 4 d (s.g a - s.g b) s ∧
    WritesG (.and d a b) 4 d (s.g a &&& s.g b) s ∧
    WritesG (.or d a b) 4 d (s.g a ||| s.g b) s ∧
    WritesG (.xor d a b) 4 d (s.g a ^^^ s.g b) s ∧
    WritesG (.andn d a b) 4 d (s.g a &&& ~~~(s.g b)) s ∧
    WritesG (.sll d a b) 4 d (s.g a <<< ((s.g b).toNat % 64)) s ∧
    WritesG (.srl d a b) 4 d (s.g a >>> ((s.g b).toNat % 64)) s ∧
    WritesG (.sra d a b) 4 d ((s.g a).sshiftRight ((s.g b).toNat % 64)) s ∧
    WritesG (.ror d a b) 4 d ((s.g a).rotateRight ((s.g b).toNat % 64)) s ∧
    WritesG (.slt d a b) 4 d (if (s.g a).toInt < (s.g b).toInt then 1 else 0) s ∧
    WritesG (.sltu d a b) 4 d (if (s.g a).toNat < (s.g b).toNat then 1 else 0) s ∧
    WritesG (.min d a b) 4 d (BitVec.ofInt 64 (min (s.g a).toInt (s.g b).toInt)) s ∧
    WritesG (.max d a b) 4 d (BitVec.ofInt 64 (max (s.g a).toInt (s.g b).toInt)) s ∧
    WritesG (.minu d a b) 4 d (BitVec.ofNat 64 (min (s.g a).toNat (s.g b).toNat)) s ∧
    WritesG (.maxu d a b) 4 d (BitVec.ofNat 64 (max (s.g a).toNat (s.g b).toNat)) s ∧
    WritesG (.mul d a b) 4 d (BitVec.ofInt 64 ((s.g a).toInt * (s.g b).toInt)) s ∧
    WritesG (.mhi d a b) 4 d (BitVec.ofInt 64 ((s.g a).toInt * (s.g b).toInt / 2 ^ 64)) s ∧
    WritesG (.mhiu d a b) 4 d (BitVec.ofNat 64 ((s.g a).toNat * (s.g b).toNat / 2 ^ 64)) s ∧
    WritesG (.mhisu d a b) 4 d (BitVec.ofInt 64 ((s.g a).toInt * (s.g b).toNat / 2 ^ 64)) s) ∧
  (
  ∀ (s : State) (d a : BitVec 5),
    (∃ v : Word, WritesG (.clz d a) 4 d v s ∧ v.toNat ≤ 64 ∧ (∀ i, i < v.toNat → (s.g a).getLsbD (63 - i) = false) ∧
      (v.toNat < 64 → (s.g a).getLsbD (63 - v.toNat) = true)) ∧
    (∃ v : Word, WritesG (.ctz d a) 4 d v s ∧ v.toNat ≤ 64 ∧ (∀ i, i < v.toNat → (s.g a).getLsbD i = false) ∧
      (v.toNat < 64 → (s.g a).getLsbD v.toNat = true)) ∧
    WritesG (.popc d a) 4 d (BitVec.ofNat 64 ((List.range 64).countP fun i => (s.g a).getLsbD i)) s ∧
    (∃ v : Word, WritesG (.bswap d a) 4 d v s ∧ ∀ i, i < 8 → v.extractLsb' (8 * i) 8 = (s.g a).extractLsb' (56 - 8 * i) 8) ∧
    WritesG (.sxw d a) 4 d (((s.g a).setWidth 32).signExtend 64) s ∧
    WritesG (.zxw d a) 4 d (((s.g a).setWidth 32).setWidth 64) s) ∧
  (
  ∀ (s : State) (d a : BitVec 5) (i : BitVec 15) (n : BitVec 6) (m : BitVec 14) (k : BitVec 19) (p : BitVec 2) (h : BitVec 16),
    WritesG (.addi d a i) 4 d (s.g a + i.signExtend 64) s ∧
    WritesG (.andi d a i) 4 d (s.g a &&& i.signExtend 64) s ∧
    WritesG (.ori d a i) 4 d (s.g a ||| i.signExtend 64) s ∧
    WritesG (.xori d a i) 4 d (s.g a ^^^ i.signExtend 64) s ∧
    WritesG (.slli d a n) 4 d (s.g a <<< n.toNat) s ∧
    WritesG (.srli d a n) 4 d (s.g a >>> n.toNat) s ∧
    WritesG (.srai d a n) 4 d ((s.g a).sshiftRight n.toNat) s ∧
    WritesG (.rori d a n) 4 d ((s.g a).rotateRight n.toNat) s ∧
    WritesG (.slti d a m) 4 d (if (s.g a).toInt < m.toInt then 1 else 0) s ∧
    WritesG (.sltiu d a m) 4 d (if (s.g a).toNat < (m.signExtend 64).toNat then 1 else 0) s ∧
    WritesG (.li d k) 4 d (k.signExtend 64) s ∧
    (∃ v : Word, WritesG (.lih d p h) 4 d v s ∧
      ∀ j, j < 64 → v.getLsbD j = if j / 16 = p.toNat then h.getLsbD (j % 16) else (s.g d).getLsbD j) ∧
    WritesG (.cMv d a) 2 d (s.g a) s ∧
    WritesG (.cAddi d n) 2 d (s.g d + n.signExtend 64) s ∧
    WritesG (.cAdd d a) 2 d (s.g d + s.g a) s ∧
    WritesG (.cSub d a) 2 d (s.g d - s.g a) s ∧
    WritesG (.cSlli d n) 2 d (s.g d <<< n.toNat) s ∧
    WritesG (.cLi d n) 2 d (n.signExtend 64) s)

/-- Division (R82): never a trap, the quotient truncated or saturated, the remainder exact. -/
def Obligations.IntegerDivision : Prop :=
  ∀ (s : State) (d a b : BitVec 5),
    (∃ q : Word, WritesG (.div d a b) 4 d q s ∧
      (s.g b = 0 → s.g a = 0 → q = 0) ∧
      (s.g b = 0 → 0 < (s.g a).toInt → q.toInt = 2 ^ 63 - 1) ∧
      (s.g b = 0 → (s.g a).toInt < 0 → q.toInt = -(2 ^ 63)) ∧
      ((s.g b).toInt = -1 → (s.g a).toInt = -(2 ^ 63) → q.toInt = 2 ^ 63 - 1) ∧
      (s.g b ≠ 0 → ¬ ((s.g b).toInt = -1 ∧ (s.g a).toInt = -(2 ^ 63)) → q.toInt = (s.g a).toInt.tdiv (s.g b).toInt)) ∧
    (∃ q : Word, WritesG (.divu d a b) 4 d q s ∧
      (s.g b = 0 → s.g a = 0 → q = 0) ∧
      (s.g b = 0 → s.g a ≠ 0 → q.toNat = 2 ^ 64 - 1) ∧
      (s.g b ≠ 0 → q.toNat = (s.g a).toNat / (s.g b).toNat)) ∧
    (∃ r : Word, WritesG (.rem d a b) 4 d r s ∧
      (s.g b = 0 → r = s.g a) ∧
      (s.g b ≠ 0 → r.toInt = (s.g a).toInt - (s.g b).toInt * (s.g a).toInt.tdiv (s.g b).toInt)) ∧
    (∃ r : Word, WritesG (.remu d a b) 4 d r s ∧
      (s.g b = 0 → r = s.g a) ∧
      (s.g b ≠ 0 → r.toNat = (s.g a).toNat - (s.g b).toNat * ((s.g a).toNat / (s.g b).toNat))) ∧
    ((s.g b).toNat % 64 = 0 → WritesG (.sll d a b) 4 d (s.g a) s ∧ WritesG (.srl d a b) 4 d (s.g a) s ∧ WritesG (.sra d a b) 4 d (s.g a) s ∧
      WritesG (.ror d a b) 4 d (s.g a) s) ∧
    (∀ c : BitVec 5, (s.g b).toNat % 64 = (s.g c).toNat % 64 → exec (.sll d a b) s = exec (.sll d a c) s ∧ exec (.srl d a b) s = exec (.srl d a c) s ∧
      exec (.sra d a b) s = exec (.sra d a c) s ∧ exec (.ror d a b) s = exec (.ror d a c) s)

/-- Branches and direct jumps (R50, R90, R91, R99). -/
def Obligations.BranchesAndJumps : Prop :=
  ∀ (s : State) (a b : BitVec 5) (o : BitVec 12) (o6 : BitVec 6) (o11 : BitVec 11) (o24 : BitVec 24),
    Branches (.beq a b o) 4 (s.g a = s.g b) (s.pc + 2 * o.signExtend 64) s ∧
    Branches (.bne a b o) 4 (s.g a ≠ s.g b) (s.pc + 2 * o.signExtend 64) s ∧
    Branches (.blt a b o) 4 ((s.g a).toInt < (s.g b).toInt) (s.pc + 2 * o.signExtend 64) s ∧
    Branches (.bge a b o) 4 ((s.g b).toInt ≤ (s.g a).toInt) (s.pc + 2 * o.signExtend 64) s ∧
    Branches (.bltu a b o) 4 ((s.g a).toNat < (s.g b).toNat) (s.pc + 2 * o.signExtend 64) s ∧
    Branches (.bgeu a b o) 4 ((s.g b).toNat ≤ (s.g a).toNat) (s.pc + 2 * o.signExtend 64) s ∧
    Branches (.cBeqz a o6) 2 (s.g a = 0) (s.pc + 2 * o6.signExtend 64) s ∧
    Branches (.cBnez a o6) 2 (s.g a ≠ 0) (s.pc + 2 * o6.signExtend 64) s ∧
    JumpsTo (.j o24) (s.pc + 2 * o24.signExtend 64) s.act.regs s.act.csr s ∧
    JumpsTo (.jal o24) (s.pc + 2 * o24.signExtend 64) (withG s.act.regs 31 (s.pc + 4)) s.act.csr s ∧
    JumpsTo (.cJ o11) (s.pc + 2 * o11.signExtend 64) s.act.regs s.act.csr s

/-- Register jumps (R92): the target before the link, and ALIGN for an odd target. -/
def Obligations.RegisterJumps : Prop :=
  ∀ (s : State) (a : BitVec 5) (i : BitVec 15),
    let t := s.g a + i.signExtend 64
    (t.getLsbD 0 = false → JumpsTo (.jr a i) t s.act.regs s.act.csr s ∧ JumpsTo (.jalr a i) t (withG s.act.regs 31 (s.pc + 4)) s.act.csr s) ∧
    (t.getLsbD 0 = true → Traps (.jr a i) (.plain 0x0F t) s ∧ Traps (.jalr a i) (.plain 0x0F t) s)

/-- `loop` and `loopi` (R94).

The cases of R95, on the sequential flow of `nop` and on the transfer of `j`. -/
def Obligations.Loops : Prop :=
  (
  ∀ (s : State) (a : BitVec 5) (c l : BitVec 12),
    let b := s.pc + 4
    let e := s.pc + 4 + 2 * l.setWidth 64
    let set (n : Word) : Csrs := { s.act.csr with lpcnt := n, lpbeg := b, lpend := e }
    (s.g a = 0 → JumpsTo (.loop a l) e s.act.regs s.act.csr s) ∧
    (s.g a ≠ 0 → JumpsTo (.loop a l) b s.act.regs (set (s.g a)) s) ∧
    (c = 0 → JumpsTo (.loopi c l) e s.act.regs s.act.csr s) ∧
    (c ≠ 0 → JumpsTo (.loopi c l) b s.act.regs (set (c.setWidth 64)) s)) ∧
  (
  ∀ (s : State) (o : BitVec 24), s.act.csr.lpcnt ≠ 0 →
    let c := s.act.csr
    let p := s.pc + 4
    let q := s.pc + 2 * o.signExtend 64
    (p = c.lpend → c.lpcnt ≠ 1 → ∃ t, exec .nop s = .next t ∧ t.pc = c.lpbeg ∧ t.act.csr = { c with lpcnt := c.lpcnt - 1 }) ∧
    (p = c.lpend → c.lpcnt = 1 → ∃ t, exec .nop s = .next t ∧ t.pc = c.lpend ∧ t.act.csr = { c with lpcnt := 0 }) ∧
    (p ≠ c.lpend → c.lpbeg.toNat ≤ p.toNat → p.toNat < c.lpend.toNat → ∃ t, exec .nop s = .next t ∧ t.pc = p ∧ t.act.csr = c) ∧
    (p ≠ c.lpend → ¬ (c.lpbeg.toNat ≤ p.toNat ∧ p.toNat < c.lpend.toNat) → ∃ t, exec .nop s = .next t ∧ t.pc = p ∧ t.act.csr = { c with lpcnt := 0 }) ∧
    (c.lpbeg.toNat ≤ q.toNat → q.toNat < c.lpend.toNat → ∃ t, exec (.j o) s = .next t ∧ t.pc = q ∧ t.act.csr = c) ∧
    (¬ (c.lpbeg.toNat ≤ q.toNat ∧ q.toNat < c.lpend.toNat) → ∃ t, exec (.j o) s = .next t ∧ t.pc = q ∧ t.act.csr = { c with lpcnt := 0 }))

/-- The near and PC-relative loads (R87, R89, R99, R103). The odd and zero rd of `ldp` are refused at decode (R57), so it is stated for the even ones. -/
def Obligations.NearLoads : Prop :=
  ∀ (s : State) (d b : BitVec 5) (o : BitVec 12) (b3 o3 : BitVec 3),
    let off : Word := o.signExtend 64
    let r := s.act.regs
    Loads (.ldb d b o) 4 b off 1 (fun x => withG r d (x.signExtend 64)) s ∧
    Loads (.ldh d b o) 4 b off 2 (fun x => withG r d (x.signExtend 64)) s ∧
    Loads (.ldw d b o) 4 b off 4 (fun x => withG r d (x.signExtend 64)) s ∧
    Loads (.ldd d b o) 4 b off 8 (fun x => withG r d x) s ∧
    Loads (.ldbu d b o) 4 b off 1 (fun x => withG r d (x.setWidth 64)) s ∧
    Loads (.ldhu d b o) 4 b off 2 (fun x => withG r d (x.setWidth 64)) s ∧
    Loads (.ldwu d b o) 4 b off 4 (fun x => withG r d (x.setWidth 64)) s ∧
    (d.toNat % 2 = 0 → d ≠ 0 → Loads (.ldp d b o) 4 b off 16 (fun x => withG (withG r d (x.extractLsb' 0 64)) (d + 1) (x.extractLsb' 64 64)) s) ∧
    Loads (.vld d b o) 4 b off 32 (fun x => withV r d x) s ∧
    Loads (.vldh d b o) 4 b off 16 (fun x => withV r d (x.setWidth 256)) s ∧
    Loads (.cLdd d b3 o3) 2 (11 + b3.setWidth 5) (8 * o3.setWidth 64) 8 (fun x => withG r d x) s

/-- The near stores (R88, R89, R99, R103). A base field of 0 is refused at decode. -/
def Obligations.NearStores : Prop :=
  ∀ (s : State) (d b : BitVec 5) (o : BitVec 12) (b3 o3 : BitVec 3),
    let off : Word := o.signExtend 64
    Stores (.stb d b o) 4 b off 1 (s.g d) s ∧
    Stores (.sth d b o) 4 b off 2 (s.g d) s ∧
    Stores (.stw d b o) 4 b off 4 (s.g d) s ∧
    Stores (.std d b o) 4 b off 8 (s.g d) s ∧
    (d.toNat % 2 = 0 → d ≠ 0 → Stores (.stp d b o) 4 b off 16 (s.g (d + 1) ++ s.g d : BitVec 128) s) ∧
    Stores (.vst d b o) 4 b off 32 (s.v d) s ∧
    Stores (.vsth d b o) 4 b off 16 (s.v d) s ∧
    Stores (.cStd d b3 o3) 2 (11 + b3.setWidth 5) (8 * o3.setWidth 64) 8 (s.g d) s

/-- Where a near access traps (R32): the order of the checks and each check's cause, value and address.

Where a PC-relative load traps (R38, R240, R254). -/
def Obligations.NearAccessChecks : Prop :=
  (
  ∀ (s : State) (d b : BitVec 5) (o : BitVec 12) (t : Trap), b ≠ 0 →
    let ea := s.g b + o.signExtend 64
    (NearFails s false ea 1 1 t → Traps (.ldb d b o) t s ∧ Traps (.ldbu d b o) t s) ∧
    (NearFails s false ea 2 2 t → Traps (.ldh d b o) t s ∧ Traps (.ldhu d b o) t s) ∧
    (NearFails s false ea 4 4 t → Traps (.ldw d b o) t s ∧ Traps (.ldwu d b o) t s) ∧
    (NearFails s false ea 8 8 t → Traps (.ldd d b o) t s) ∧
    (NearFails s false ea 16 16 t → Traps (.ldp d b o) t s ∧ Traps (.vldh d b o) t s) ∧
    (NearFails s false ea 32 32 t → Traps (.vld d b o) t s) ∧
    (NearFails s true ea 1 1 t → Traps (.stb d b o) t s) ∧
    (NearFails s true ea 2 2 t → Traps (.sth d b o) t s) ∧
    (NearFails s true ea 4 4 t → Traps (.stw d b o) t s) ∧
    (NearFails s true ea 8 8 t → Traps (.std d b o) t s) ∧
    (NearFails s true ea 16 16 t → Traps (.stp d b o) t s ∧ Traps (.vsth d b o) t s) ∧
    (NearFails s true ea 32 32 t → Traps (.vst d b o) t s)) ∧
  (
  ∀ (s : State) (d : BitVec 5) (o : BitVec 12) (t : Trap),
    let ea := s.pc + o.signExtend 64
    (ImemFails s ea 1 1 t → Traps (.ldb d 0 o) t s ∧ Traps (.ldbu d 0 o) t s) ∧
    (ImemFails s ea 2 2 t → Traps (.ldh d 0 o) t s ∧ Traps (.ldhu d 0 o) t s) ∧
    (ImemFails s ea 4 4 t → Traps (.ldw d 0 o) t s ∧ Traps (.ldwu d 0 o) t s) ∧
    (ImemFails s ea 8 8 t → Traps (.ldd d 0 o) t s) ∧
    (ImemFails s ea 16 16 t → Traps (.ldp d 0 o) t s ∧ Traps (.vldh d 0 o) t s) ∧
    (ImemFails s ea 32 32 t → Traps (.vld d 0 o) t s))

/-- The control group (R96, R99, R341).

The end of an activation (R41): the slot is free and near stores stay performed. -/
def Obligations.ControlInstructions : Prop :=
  (
  ∀ (s : State) (n : BitVec 10),
    PassesBy .nop 4 s ∧ PassesBy .cNop 2 s ∧
    (s.act.paired = false → let t := (s.setAct { s.act with instret := s.act.instret + 1 }).endAct.issued
      exec .end_ s = .next t ∧ exec .cEnd s = .next t) ∧
    Traps (.trap n) (.plain 0x17 (n.setWidth 64)) s ∧
    (s.here.dbg.group.getLsbD 56 = false → Traps .brk (.plain 0x17 0x400) s ∧ Traps .cBrk (.plain 0x17 0x400) s) ∧
    (s.here.dbg.group.getLsbD 56 = true →
      exec .brk s = .next (((s.retire 4).holdSlot).trigger 3).issued ∧ exec .cBrk s = .next (((s.retire 2).holdSlot).trigger 3).issued)) ∧
  (
  ∀ (s : State), s.act.paired = false → ∃ t, exec .end_ s = .next t ∧
    t.here.acts[s.slot] = Act.free ∧ (∀ i : Fin 4, i ≠ s.slot → t.here.acts[i] = s.here.acts[i]) ∧
    t.here.mem = s.here.mem ∧ t.here.imem = s.here.imem ∧
    (s.act.outbox = [] → s.act.traced = false → s.act.csr.asid.getLsbD 36 = false → t.flight = s.flight ∧ t.transit = s.transit ∧
      t.here.net = s.freeEntry.here.net ∧ t.pkgs = s.pkgs ∧ t.away = s.away ∧ t.here.images = s.here.images ∧ t.here.regs = s.here.regs ∧ t.here.live = s.here.live) ∧
    (s.act.traced = false →
      let u := s.setAct { s.act with instret := s.act.instret + 1 }
      let ready (it : OutItem) : OutItem := if s.act.csr.asid.getLsbD 32 = true then (match it.send with
        | .uni _ k ch _ _ => if k = 3 ∧ ch = 12 ∧ it.part = 1 then { it with part := 3, l := true } else it
        | _ => it) else it
      let part (n : Nat) : List OutItem := (s.act.outbox.map ready).filter (·.part == n)
      let out : List OutItem := (part 1 ++ part 2 ++ part 3).zipIdx.map fun p => { p.1 with ord := p.2 }
      out ≠ [] →
        let v := (u.freeEntry.freeSlot.modNet fun n => { n with egress := n.egress ++ out }).flush
        let notice : OutItem := { OutItem.own (.uni s.act.trig.src 3 12 0 [0, 0]) s.act.trig.cid with
          l := true, org := u.origin, ord := s.act.sends + out.length, aword := s.act.csr.asid.extractLsb' 0 32, a := s.act.csr.asid.extractLsb' 0 32 != (0 : BitVec 32) }
        (s.act.csr.asid.getLsbD 36 = false → t = v.issued) ∧
        (s.act.csr.asid.getLsbD 36 = true → t = (v.modNet fun n => { n with egress := n.egress ++ [notice] }).drain.issued)))

/-- Taking a synchronous trap (R241, R242, R246).

The fields of a synchronous trap record (R239).

Fetch failures and undefined encodings (R46, R57, R59). -/
def Obligations.TakingATrap : Prop :=
  (
  ∀ (s : State) (n : BitVec 10), s.act.paired = false → s.act.traced = false → s.act.csr.asid.getLsbD 36 = false → s.act.csr.asid.getLsbD 32 = false →
    let a := s.act
    let r := s.syncRecord (.plain 0x17 (n.setWidth 64)) false
    let f := s.freeEntry.freeSlot
    let sent (d : CoreAddr) (r : Record) : State :=
      (f.modNet fun k => { k with egress := k.egress ++
        [{ OutItem.own (.uni d 3 249 0 [flit4 r.pack[0] r.pack[1] r.pack[2] r.pack[3], flit4 r.pack[4] r.pack[5] r.pack[6] r.pack[7]]) a.trig.cid with
            l := true, org := s.origin, ord := a.sends, who := .record }] }).drain.issued
    ∃ t, exec (.trap n) s = .next t ∧
      t.here.acts[s.slot] = Act.free ∧ (∀ i : Fin 4, i ≠ s.slot → t.here.acts[i] = s.here.acts[i]) ∧ t.here.mem = s.here.mem ∧
      (s.isTrapRec a = false → s.classS = true ∨ a.trig.ten = 0 → t = sent s.supervisor r) ∧
      (s.isTrapRec a = false → s.classS = false → a.trig.ten ≠ 0 → ∀ d, s.trapCore a.trig.cid = some d → t = sent d r) ∧
      (s.isTrapRec a = false → s.classS = false → a.trig.ten ≠ 0 → s.trapCore a.trig.cid = none →
        t = (f.modCtr fun c => { c with undeliverable := c.undeliverable + 1 }).issued) ∧
      (s.isTrapRec a = true → t = sent s.supervisor { r with cause := 0x18, orig := a.trig.byte 7, nest := 0x17 })) ∧
  (
  ∀ (s : State) (t : Trap) (redel : Bool),
    let p := (s.syncRecord t redel).pack
    let a := s.act
    p[0].extractLsb' 56 8 = t.cause ∧ p[0].extractLsb' 40 16 = 0 ∧ p[0].extractLsb' 32 8 = a.ch ∧ p[0].extractLsb' 16 16 = a.trig.cid ∧ p[0].extractLsb' 15 1 = 0 ∧
    p[0].extractLsb' 0 15 = a.pc.extractLsb' 0 15 ∧
    p[1].extractLsb' 48 16 = 0 ∧ p[1].extractLsb' 32 16 = a.img.gen ∧ p[1].extractLsb' 0 32 = a.img.id ∧
    p[2].extractLsb' 61 3 = 0 ∧ p[2].extractLsb' 32 29 = s.at_ ∧ p[2].extractLsb' 31 1 = 0 ∧ p[2].extractLsb' 29 2 = BitVec.ofNat 2 s.slot.val ∧
    p[2].extractLsb' 0 29 = a.trig.src ∧
    p[3] = t.faddr ∧
    p[4].extractLsb' 14 50 = 0 ∧ p[4].getLsbD 13 = t.imem ∧ p[4].getLsbD 12 = false ∧ p[4].getLsbD 11 = a.paired ∧ p[4].getLsbD 10 = redel ∧
    p[4].getLsbD 9 = false ∧ p[4].getLsbD 8 = t.near ∧ p[4].extractLsb' 0 8 = t.fspace ∧
    p[5] = t.value ∧ p[6] = s.time ∧ p[7] = a.aseq) ∧
  (
  ∀ s : State,
    let ok (x : Word) : Prop := x.toNat < s.act.img.xlen.toNat ∧ s.here.xmap.getLsbD ((s.act.img.base.toNat + x.toNat) / 2) = true
    let bad (x : Word) : Prop := (s.act.img.base.toNat + x.toNat) / 2 ∈ s.here.imemBad
    let half (x : Word) : BitVec 16 := memBits s.here.imem (s.act.img.base.toNat + x.toNat) 2 16
    let long : Prop := (half s.pc).getLsbD 15 = true
    let word : BitVec 32 := half s.pc ++ half (s.pc + 2)
    (¬ ok s.pc → Traps .fetchFailure (.atImem 0x02 s.pc s.pc) s) ∧
    (ok s.pc → bad s.pc → Traps .fetchFailure (.atSpace 0x13 s.pc 0 s.pc) s) ∧
    (ok s.pc → ¬ bad s.pc → long → ¬ ok (s.pc + 2) → Traps .fetchFailure (.atImem 0x02 (s.pc + 2) (s.pc + 2)) s) ∧
    (ok s.pc → ¬ bad s.pc → long → ok (s.pc + 2) → bad (s.pc + 2) → Traps .fetchFailure (.atSpace 0x13 (s.pc + 2) 0 (s.pc + 2)) s) ∧
    (ok s.pc → ¬ bad s.pc → ¬ long → ∀ e, decodeHalf (half s.pc) = .error e → Traps .undefEncoding (.plain 0x01 ((half s.pc).setWidth 64)) s) ∧
    (ok s.pc → ¬ bad s.pc → long → ok (s.pc + 2) → ¬ bad (s.pc + 2) → ∀ e, decodeParts word = .error e → Traps .undefEncoding (.plain 0x01 (word.setWidth 64)) s))

/-- The control-register instructions on the six writable slot-scope registers (R30, R31, R97).

Control registers that cannot be written, or read, by everyone (R31, R310).

`mflg`, `mcap`, `rope` (R124) and `audit` (R310). That the value of UNDEF is the instruction's bits is the model's reading (log entry 76). -/
def Obligations.ControlRegisters : Prop :=
  (
  ∀ (s : State) (a b d : BitVec 5) (n : BitVec 10), n.toNat ≤ 5 →
    let c := s.act.csr
    let old : Word := if n = 0 then c.fflg.setWidth 64 else if n = 1 then c.frm.setWidth 64 else if n = 2 then c.fmt.setWidth 64
      else if n = 3 then c.scla.setWidth 64 else if n = 4 then c.sclb.setWidth 64 else c.tscl
    let allows (v : Word) : Prop := if n = 0 then v.toNat < 64 else if n = 1 then v.toNat < 6 else if n = 2 then v.toNat < 7
      else if n = 5 then v.extractLsb' 8 56 = 0 else v.toNat < 8192
    let new (v : Word) : Csrs := if n = 0 then { c with fflg := v.setWidth 6 } else if n = 1 then { c with frm := v.setWidth 3 } else if n = 2 then
      { c with fmt := v.setWidth 4 } else if n = 3 then { c with scla := v.setWidth 13 } else if n = 4 then { c with sclb := v.setWidth 13 } else { c with tscl := v }
    let merged := (old &&& ~~~(s.g b)) ||| (s.g a &&& s.g b)
    let undef (i : Instr) : Trap := .plain 0x01 (insnBits i)
    WritesG (.crd d n) 4 d old s ∧
    (allows (s.g a) → ∃ t, exec (.cwr a n) s = .next t ∧ RetiresSeq 4 s t s.act.regs (new (s.g a))) ∧
    (allows merged → ∃ t, exec (.cins a b n) s = .next t ∧ RetiresSeq 4 s t s.act.regs (new merged)) ∧
    (allows (s.g a) → ∃ t, exec (.cxch a d n) s = .next t ∧ RetiresSeq 4 s t (withG s.act.regs d old) (new (s.g a))) ∧
    (∃ t, exec (.crdz d n) s = .next t ∧ RetiresSeq 4 s t (withG s.act.regs d old) (new 0)) ∧
    (¬ allows (s.g a) → Traps (.cwr a n) (undef (.cwr a n)) s ∧ Traps (.cxch a d n) (undef (.cxch a d n)) s) ∧
    (¬ allows merged → Traps (.cins a b n) (undef (.cins a b n)) s)) ∧
  (
  ∀ (s : State) (a b d : BitVec 5) (n : BitVec 10),
    let undef (i : Instr) : Trap := .plain 0x01 (insnBits i)
    let sys := 0xE0 ≤ n.toNat ∧ n.toNat ≤ 0xEF
    let readOnly := (6 ≤ n.toNat ∧ n.toNat ≤ 0x17) ∨ n = 0xE1 ∨ n = 0xE2 ∨ n = 0x101
    let absent := ¬ (n.toNat ≤ 0x17 ∨ (0xE0 ≤ n.toNat ∧ n.toNat ≤ 0xE2) ∨ (0x100 ≤ n.toNat ∧ n.toNat ≤ 0x102))
    (sys → s.classS = false → Traps (.crd d n) (.plain 0x0E (n.setWidth 64)) s ∧ Traps (.cwr a n) (.plain 0x0E (n.setWidth 64)) s ∧
      Traps (.cins a b n) (.plain 0x0E (n.setWidth 64)) s ∧ Traps (.cxch a d n) (.plain 0x0E (n.setWidth 64)) s ∧ Traps (.crdz d n) (.plain 0x0E (n.setWidth 64)) s) ∧
    (absent → ¬ (sys ∧ s.classS = false) → Traps (.crd d n) (undef (.crd d n)) s) ∧
    (readOnly ∨ absent → ¬ (sys ∧ s.classS = false) → Traps (.cwr a n) (undef (.cwr a n)) s ∧ Traps (.cins a b n) (undef (.cins a b n)) s ∧
      Traps (.cxch a d n) (undef (.cxch a d n)) s ∧ Traps (.crdz d n) (undef (.crdz d n)) s) ∧
    WritesG (.crd d 6) 4 d (s.act.csr.olive.setWidth 64) s ∧
    WritesG (.crd d 7) 4 d (BitVec.ofNat 64 (s.slot.val + if s.slot = 3 ∨ isEngine s.at_ = true then 4 else 0)) s ∧
    WritesG (.crd d 8) 4 d (s.act.img.kslot.setWidth 64) s ∧
    WritesG (.crd d 9) 4 d ((s.act.img.gen ++ s.act.img.id).setWidth 64) s ∧
    WritesG (.crd d 0xA) 4 d s.act.aseq s ∧ WritesG (.crd d 0xB) 4 d s.time s ∧ WritesG (.crd d 0xC) 4 d (s.here.cyc - s.act.t0 - s.act.heldFor) s ∧
    WritesG (.crd d 0xD) 4 d s.act.csr.lpcnt s ∧ WritesG (.crd d 0xE) 4 d s.act.csr.lpbeg s ∧ WritesG (.crd d 0xF) 4 d s.act.csr.lpend s ∧
    WritesG (.crd d 0x10) 4 d s.here.live.cnum s ∧ WritesG (.crd d 0x11) 4 d s.here.live.lbase s ∧ WritesG (.crd d 0x12) 4 d s.here.live.lcnt s ∧
    WritesG (.crd d 0x13) 4 d (s.here.live.lid.setWidth 64) s ∧ WritesG (.crd d 0x14) 4 d (s.here.regs.gsa.setWidth 64) s ∧
    WritesG (.crd d 0x15) 4 d (s.here.regs.gsb.setWidth 64) s ∧ WritesG (.crd d 0x16) 4 d (s.act.csr.xid.setWidth 64) s ∧ WritesG (.crd d 0x17) 4 d s.act.csr.asid s ∧
    (s.classS = true → WritesG (.crd d 0xE0) 4 d (if s.here.regs.audit then 1 else 0) s ∧ WritesG (.crd d 0xE1) 4 d (s.here.regs.lessee.setWidth 64) s ∧
      (s.home.partOf s.at_ < 16 → ∃ w : Word, WritesG (.crd d 0xE2) 4 d w s ∧ w.extractLsb' 0 4 = BitVec.ofNat 4 (s.home.partOf s.at_) ∧ w.getLsbD 4 = (s.home.part (s.home.partOf s.at_)).conf ∧ w.extractLsb' 5 59 = 0))) ∧
  (
  ∀ (s : State) (a b d : BitVec 5),
    let v := s.g a
    let merged (old : Word) : Word := (old &&& ~~~(s.g b)) ||| (v &&& s.g b)
    let undef (i : Instr) : Prop := Traps i (.plain 0x01 (insnBits i)) s
    let ropeOk (w : Word) : Prop := w.extractLsb' 22 42 = 0 ∧ w.extractLsb' 1 9 = 0 ∧ (w.extractLsb' 13 3).toNat ≤ (w.extractLsb' 19 3).toNat ∧
      (w.extractLsb' 10 3).toNat ≤ (w.extractLsb' 16 3).toNat
    let before : Nat := match s.act.part with
      | .mx n => n
      | _ => s.here.mx.entered
    let busy : Prop := ∃ m ∈ s.here.mx.queue, m.no < before
    let waits (i : Instr) : Prop := exec i s = .next ((s.modAct fun a => { a with part := .mx before }).stalled false)
    let rw (n : BitVec 10) (old : Word) (ok : Word → Prop) (set : Word → State) : Prop :=
      WritesG (.crd d n) 4 d old s ∧ (ok v → Does (.cwr a n) 4 s (set v) ∧ Does (.cxch a d n) 4 s ((set v).setG d old)) ∧
      (ok (merged old) → Does (.cins a b n) 4 s (set (merged old))) ∧ Does (.crdz d n) 4 s ((set 0).setG d old)
    let refuses (n : BitVec 10) (old : Word) (ok : Word → Prop) : Prop :=
      (¬ ok v → undef (.cwr a n) ∧ undef (.cxch a d n)) ∧ (¬ ok (merged old) → undef (.cins a b n))
    let mflg : Word := s.here.mx.mflg.setWidth 64
    let rope : Word := s.here.mx.rope.setWidth 64
    let audit : Word := if s.here.regs.audit = true then 1 else 0
    (isEngine s.at_ = false →
      (¬ busy → rw 0x100 mflg (fun w => w.toNat < 256) fun w => s.modMx fun m => { m with mflg := w.setWidth 8 }) ∧
      (busy → waits (.crd d 0x100) ∧ waits (.crdz d 0x100) ∧ (v.toNat < 256 → waits (.cwr a 0x100) ∧ waits (.cxch a d 0x100)) ∧
        ((merged mflg).toNat < 256 → waits (.cins a b 0x100))) ∧
      refuses 0x100 mflg (fun w => w.toNat < 256) ∧
      WritesG (.crd d 0x101) 4 d (s.here.regs.mcap.setWidth 64) s ∧
      undef (.cwr a 0x101) ∧ undef (.cins a b 0x101) ∧ undef (.cxch a d 0x101) ∧ undef (.crdz d 0x101) ∧
      rw 0x102 rope ropeOk (fun w => s.modMx fun m => { m with rope := w.setWidth 22 }) ∧ refuses 0x102 rope ropeOk) ∧
    (s.classS = true → rw 0xE0 audit (fun w => w.toNat < 2) (fun w => { s with here := { s.here with regs := { s.here.regs with audit := w.getLsbD 0 } } }) ∧
      refuses 0xE0 audit fun w => w.toNat < 2) ∧
    (isEngine s.at_ = true → ∀ n : BitVec 10, 0x100 ≤ n.toNat → n.toNat ≤ 0x102 →
      undef (.crd d n) ∧ undef (.cwr a n) ∧ undef (.cins a b n) ∧ undef (.cxch a d n) ∧ undef (.crdz d n)))

/-- The sends of MO 0x16, `jdec` and `lend` (R167, R172 to R176, R182). The vote's mark and the empty case of `lend` are the model's (log entries 21 and 35).

Where a send traps (R173, R174, R176, R182, R279). -/
def Obligations.Sends : Prop :=
  (
  ∀ (s : State) (l : BitVec 1) (a v : BitVec 5) (n : BitVec 4) (c k : BitVec 8),
    let w := s.g a
    let ca : CoreAddr := w.extractLsb' 0 29
    NotJoined s ∨ pkgOf ca = pkgOf s.at_ →
    let na : BitVec 18 := w.extractLsb' 29 18
    let pay := (List.range n.toNat).map fun i => s.v (v + BitVec.ofNat 5 i)
    let sys := s.classS = true ∧ ¬ (15 < c.toNat ∧ c.toNat < 248) ∧ c.toNat < 252
    (MayName s c → namesCore ca = true → w.extractLsb' 29 35 = 0 →
      (sys → SendsOne (.send l a v n c) 4 (.uni ca 3 c 0 pay) (l == 1) .plain s) ∧
      (¬ sys → SendsOne (.send l a v n c) 4 (.uni ca 0 c 0 pay) (l == 1) .plain s) ∧
      SendsOne (.reply l a v n c) 4 (.uni ca 2 c 0 pay) (l == 1) .plain s) ∧
    (MayName s c → namesCore ca = true → w.extractLsb' 47 17 = 0 → na.toNat % 16 = 0 → na.toNat + 32 * n.toNat ≤ 0x40000 →
      SendsOne (.sendp l a v n c) 4 (.uni ca 1 c na pay) (l == 1) .plain s) ∧
    (MayName s c → namesCore ca = true → w.extractLsb' 40 24 = 0 → yOf ca + (w.extractLsb' 35 5).toNat ≤ 31 → xOf ca + (w.extractLsb' 29 6).toNat ≤ 47 →
      SendsOne (.sendm l a v n c) 4 (.multi ca ((w.extractLsb' 29 6).toNat + 1) ((w.extractLsb' 35 5).toNat + 1) c pay) (l == 1) .plain s) ∧
    (isCompute ca = true → w.extractLsb' 47 17 = 0 → na.toNat % 16 = 0 →
      SendsOne (.jdec l a k) 4 (.uni ca 3 8 na [descFlit 0x20 0 0 0 (k.setWidth 64) 0 0]) (l == 1) .plain s) ∧
    (s.here.live.lcnt = 0 ∨ s.here.live.voted = true → PassesBy .lend 4 s) ∧
    (s.here.live.lcnt ≠ 0 → s.here.live.voted = false →
      SendsOne .lend 4 (.uni (s.standIn (launchEngine (pkgOf s.at_) (dieOf s.at_))) 3 0 0 [flit4 (s.here.live.lid.setWidth 64) 1 0 (BitVec.ofNat 64 (2 ^ 56))]) true
        (.vote s.here.live.wakes) s)) ∧
  (
  ∀ (s : State) (l : BitVec 1) (a v : BitVec 5) (n : BitVec 4) (c k : BitVec 8),
    let w := s.g a
    let ca : CoreAddr := w.extractLsb' 0 29
    let na : BitVec 18 := w.extractLsb' 29 18
    let place := Trap.plain 0x0C w
    let away (i : Instr) : Prop := ¬ NotJoined s → pkgOf ca ≠ pkgOf s.at_ → Traps i (.plain 0x11 w) s
    (¬ MayName s c → ∀ i ∈ [Instr.send l a v n c, .sendp l a v n c, .sendm l a v n c, .reply l a v n c], Traps i (.plain 0x0E (c.setWidth 64)) s) ∧
    (MayName s c →
      (namesCore ca = false ∨ w.extractLsb' 29 35 ≠ 0 → Traps (.send l a v n c) place s ∧ Traps (.reply l a v n c) place s) ∧
      (namesCore ca = false ∨ w.extractLsb' 47 17 ≠ 0 → Traps (.sendp l a v n c) place s) ∧
      (namesCore ca = true → w.extractLsb' 47 17 = 0 → na.toNat % 16 ≠ 0 → Traps (.sendp l a v n c) (.plain 0x0F (na.setWidth 64)) s) ∧
      (namesCore ca = true → w.extractLsb' 47 17 = 0 → na.toNat % 16 = 0 → 0x40000 < na.toNat + 32 * n.toNat → Traps (.sendp l a v n c) (.plain 0x0C (na.setWidth 64)) s) ∧
      (namesCore ca = false ∨ w.extractLsb' 40 24 ≠ 0 ∨ 31 < yOf ca + (w.extractLsb' 35 5).toNat ∨ 47 < xOf ca + (w.extractLsb' 29 6).toNat →
        Traps (.sendm l a v n c) place s) ∧
      (namesCore ca = true → w.extractLsb' 29 35 = 0 → away (.send l a v n c) ∧ away (.reply l a v n c)) ∧
      (namesCore ca = true → w.extractLsb' 47 17 = 0 → na.toNat % 16 = 0 → na.toNat + 32 * n.toNat ≤ 0x40000 → away (.sendp l a v n c)) ∧
      (namesCore ca = true → w.extractLsb' 40 24 = 0 → yOf ca + (w.extractLsb' 35 5).toNat ≤ 31 → xOf ca + (w.extractLsb' 29 6).toNat ≤ 47 → away (.sendm l a v n c))) ∧
    (isCompute ca = true → w.extractLsb' 47 17 = 0 → na.toNat % 16 = 0 → away (.jdec l a k)) ∧
    (isCompute ca = false ∨ w.extractLsb' 47 17 ≠ 0 → Traps (.jdec l a k) place s) ∧
    (isCompute ca = true → w.extractLsb' 47 17 = 0 → na.toNat % 16 ≠ 0 → Traps (.jdec l a k) (.plain 0x0F (na.setWidth 64)) s))

/-- The global operations of one datum (R204, R207, R279). Which placement the check of R279 asks is the model's (log entry 81).

The block moves (R206, R279). -/
def Obligations.GlobalOperations : Prop :=
  (
  ∀ (s : State) (l p x r : BitVec 1) (z : BitVec 2) (a b : BitVec 5) (c : BitVec 8),
    let off := s.g a
    let sp : BitVec 8 := if p = 0 then s.here.regs.gsa else if s.slot = 3 ∨ isEngine s.at_ = true then 0xFF else s.here.regs.gsb
    let req (op sz ch : BitVec 8) (len : Nat) (v1 v2 : Word) : Send :=
      .glob { op := op, sz := sz, ch := ch, space := sp, off := off, len := len, v1 := v1, v2 := v2, relay := 0, near := 0, kslot := 0, data := [] }
    let n := 2 ^ z.toNat
    let atomic (fn : BitVec 8) (v2 : Word) : Send := req (0x10 + fn) (if r = 1 then 11 else 3) c 8 (s.g b) v2
    let atomics : List (Instr × Send) :=
      [(.aadd r l p a b c, atomic 0 0), (.aand r l p a b c, atomic 1 0), (.aor r l p a b c, atomic 2 0), (.axor r l p a b c, atomic 3 0), (.amin r l p a b c, atomic 4 0),
       (.amax r l p a b c, atomic 5 0), (.aminu r l p a b c, atomic 6 0), (.amaxu r l p a b c, atomic 7 0), (.aswap r l p a b c, atomic 8 0),
       (.acas r l p a b c, atomic 9 (s.g (b + 1))), (.afadd r l p a b c, atomic 10 0)]
    let away (i : Instr) : Prop := ¬ NotJoined s → HomeAway s sp off → Traps i (.plain 0x11 off) s
    let free := NotJoined s ∨ HomeHere s sp off
    (free → off.toNat % n = 0 → (c = 0 ∨ MayName s c) →
      SendsOne (.gld l z a b p c x) 4 (req 1 (z.setWidth 8 ||| (x.setWidth 8 <<< 2) ||| (if c = 0 then 0 else 8)) c n 0 (s.g b)) (l == 1) .plain s) ∧
    (free → off.toNat % n = 0 → SendsOne (.gst l z a b p) 4 (req 2 (z.setWidth 8) 0 n (BitVec.ofNat 64 ((s.g b).toNat % 2 ^ (8 * n))) 0) (l == 1) .plain s) ∧
    (free → off.toNat % 8 = 0 → (r = 0 ∨ MayName s c) → ∀ q ∈ atomics, SendsOne q.1 4 q.2 (l == 1) .plain s) ∧
    (off.toNat % n = 0 → (c = 0 ∨ MayName s c) → away (.gld l z a b p c x)) ∧
    (off.toNat % n = 0 → away (.gst l z a b p)) ∧
    (off.toNat % 8 = 0 → (r = 0 ∨ MayName s c) → ∀ q ∈ atomics, away q.1) ∧
    (c ≠ 0 → ¬ MayName s c → Traps (.gld l z a b p c x) (.plain 0x0E (c.setWidth 64)) s) ∧
    (r = 1 → ¬ MayName s c → ∀ q ∈ atomics, Traps q.1 (.plain 0x0E (c.setWidth 64)) s) ∧
    (off.toNat % n ≠ 0 → (c = 0 ∨ MayName s c) → Traps (.gld l z a b p c x) (.atSpace 0x0F off sp off) s) ∧
    (off.toNat % n ≠ 0 → Traps (.gst l z a b p) (.atSpace 0x0F off sp off) s) ∧
    (off.toNat % 8 ≠ 0 → (r = 0 ∨ MayName s c) → ∀ q ∈ atomics, Traps q.1 (.atSpace 0x0F off sp off) s)) ∧
  (
  ∀ (s : State) (l p : BitVec 1) (a b d : BitVec 5),
    let off := s.g a
    let near := s.g b
    let w := s.g d
    let len := (w.extractLsb' 0 16).toNat
    let ch : BitVec 8 := w.extractLsb' 16 8
    let rca : CoreAddr := w.extractLsb' 24 29
    let sp : BitVec 8 := if p = 0 then s.here.regs.gsa else if s.slot = 3 ∨ isEngine s.at_ = true then 0xFF else s.here.regs.gsb
    let req (op : BitVec 8) (data : List Byte) : Send :=
      .glob { op := op, sz := 0, ch := ch, space := sp, off := off, len := len, v1 := 0, v2 := 0, relay := rca, near := near.toNat, kslot := s.act.img.kslot, data := data }
    let sound := w.extractLsb' 53 11 = 0 ∧ len ≠ 0 ∧ len % 16 = 0
    let placed := off.toNat % 16 = 0 ∧ near.toNat % 16 = 0 ∧ near.toNat + len ≤ 2 ^ 18
    let bytes := (List.range len).map fun i => s.here.mem.byte s.at_ s.key (near.toNat + i)
    let read := s.watch true false s.ten [(near.toNat, len)]
    let free := NotJoined s ∨ HomeHere s sp off
    let away := ¬ NotJoined s ∧ HomeAway s sp off
    let put := Instr.put l p a b d
    let putr := Instr.putr l p a b d
    let get := Instr.get l p a b d
    -- the operands up to the addresses
    let named (i : Instr) : Prop := (i = put ∧ len ≤ 256 ∧ ch = 0) ∨ (i = putr ∧ len ≤ 256 ∧ namesCore rca = true ∧ MayName s ch ∧ ch.toNat < 252) ∨
      (i = get ∧ len ≤ 4096 ∧ MayName s ch ∧ ch ≠ 0 ∧ ch.toNat < 252)
    (free → sound → placed → len ≤ 4096 → MayName s ch → ch ≠ 0 → ch.toNat < 252 → SendsOne (.get l p a b d) 4 (req 5 []) (l == 1) .plain s) ∧
    (free → sound → placed → len ≤ 256 → ch = 0 → NearOk s false near.toNat len 16 → SendsAfter (.put l p a b d) 4 (req 3 bytes) (l == 1) .plain s read) ∧
    (free → sound → placed → len ≤ 256 → namesCore rca = true → MayName s ch → ch.toNat < 252 → NearOk s false near.toNat len 16 →
      SendsAfter (.putr l p a b d) 4 (req 4 bytes) (l == 1) .plain s read) ∧
    (¬ sound → ∀ i ∈ [Instr.put l p a b d, .putr l p a b d, .get l p a b d], Traps i (.plain 0x0C w) s) ∧
    (sound → 256 < len ∨ ch ≠ 0 → Traps (.put l p a b d) (.plain 0x0C w) s) ∧
    (sound → 256 < len ∨ namesCore rca = false → Traps (.putr l p a b d) (.plain 0x0C w) s) ∧
    (sound → 4096 < len → Traps (.get l p a b d) (.plain 0x0C w) s) ∧
    (sound → len ≤ 4096 → ¬ MayName s ch → Traps (.get l p a b d) (.plain 0x0E (ch.setWidth 64)) s) ∧
    (sound → len ≤ 4096 → MayName s ch → ch = 0 ∨ 252 ≤ ch.toNat → Traps (.get l p a b d) (.plain 0x0C w) s) ∧
    (sound → len ≤ 256 → namesCore rca = true → ¬ MayName s ch → Traps (.putr l p a b d) (.plain 0x0E (ch.setWidth 64)) s) ∧
    (sound → len ≤ 256 → namesCore rca = true → MayName s ch → 252 ≤ ch.toNat → Traps (.putr l p a b d) (.plain 0x0C w) s) ∧
    (∀ i, sound → named i →
      (off.toNat % 16 ≠ 0 → Traps i (.atSpace 0x0F off sp off) s) ∧
      (off.toNat % 16 = 0 → near.toNat % 16 ≠ 0 → Traps i (.atNear 0x0F near near) s) ∧
      (off.toNat % 16 = 0 → near.toNat % 16 = 0 → 2 ^ 18 ≤ (near + BitVec.ofNat 64 (len - 1)).toNat → Traps i (.atNear 0x0C near near) s) ∧
      (off.toNat % 16 = 0 → near.toNat % 16 = 0 → (near + BitVec.ofNat 64 (len - 1)).toNat < 2 ^ 18 → i ≠ get → ∀ t, NearFails s false near len 16 t → Traps i t s) ∧
      (placed → away → (i = get ∨ NearOk s false near.toNat len 16) → Traps i (.plain 0x11 off) s)))

/-- Channel masks and barriers (R180, R181, R183). -/
def Obligations.ChannelInstructions : Prop :=
  ∀ (s : State) (c : BitVec 8) (d b : BitVec 5),
    let w := s.g b
    let others := (s.here.live.barm.filter fun e => e.1 ≠ c.toNat).length
    let live (t : State) (f : Lessee) : State := { t with here := { t.here with live := f } }
    let masked (v : Bool) (m : BitVec 256) : Prop := ∀ i, i < 256 → m.getLsbD i = if i = c.toNat then v else s.here.live.chmask.getLsbD i
    let cap (i : Instr) : Prop := Traps i (.plain 0x0E (c.setWidth 64)) s
    (MayName s c →
      (∃ m, masked true m ∧ exec (.chmask c) s = .next ((live s { s.here.live with chmask := m }).retire 4).issued ∧
        exec (.chtas d c) s = .next (((live s { s.here.live with chmask := m }).setG d (if s.here.live.chmask.getLsbD c.toNat then 1 else 0)).retire 4).issued) ∧
      (∃ m, masked false m ∧ exec (.chunmask c) s = .next ((live s { s.here.live with chmask := m }).retire 4).issued) ∧
      (∃ l, (∀ i, look l i = if i = c.toNat then none else look s.here.live.barm i) ∧ exec (.bdis c) s = .next ((live s { s.here.live with barm := l }).retire 4).issued) ∧
      (w.extractLsb' 18 46 = 0 → w.toNat % 16 = 0 → others < 8 →
        ∃ l, (∀ i, look l i = if i = c.toNat then some w.toNat else look s.here.live.barm i) ∧ exec (.barm b c) s = .next ((live s { s.here.live with barm := l }).retire 4).issued) ∧
      (w.extractLsb' 18 46 ≠ 0 → Traps (.barm b c) (.plain 0x0C w) s) ∧
      (w.extractLsb' 18 46 = 0 → w.toNat % 16 ≠ 0 → Traps (.barm b c) (.plain 0x0F w) s) ∧
      (w.extractLsb' 18 46 = 0 → w.toNat % 16 = 0 → 8 ≤ others → cap (.barm b c))) ∧
    (¬ MayName s c → cap (.chmask c) ∧ cap (.chunmask c) ∧ cap (.chtas d c) ∧ cap (.barm b c) ∧ cap (.bdis c))

/-- Link moves (R105, R186, R188), `lwin` and `lstat` (R187).

The link rules that concern both ends (R185, R186). -/
def Obligations.Links : Prop :=
  (
  ∀ (s : State) (p : Fin 4) (o : BitVec 3) (m : BitVec 1) (n : BitVec 4) (d : BitVec 5),
    let code : BitVec 5 := BitVec.ofNat 5 (8 + p.val)
    let l := s.here.links[p]
    let q : Fin 4 := if p = 0 then 1 else if p = 1 then 0 else if p = 2 then 3 else 2
    let lq := s.here.links[q]
    let links (v : Vector Link 4) : State := { s with here := { s.here with links := v } }
    let state (x : Fin 4) : Trap := .plain 0x10 (BitVec.ofNat 64 (8 + x.val))
    let taken (w : LinkWord) (rest : List LinkWord) : Vector Link 4 := s.here.links.set p { l with fifo := rest, owed := l.owed ++ [w.lease] }
    let pop := Instr.vmovOport code o 0
    let fwd := Instr.vmovOport code o 1
    let push := Instr.vmovPorto code o m
    (∀ w rest, l.fifo = w :: rest → Does pop 4 s ((links (taken w rest)).setO o w.val)) ∧
    (l.fifo = [] → s.linkLive p = true → Stalls pop s) ∧
    (l.fifo = [] → s.linkLive p = false → Traps pop (state p) s) ∧
    (s.linkLive p = true → l.o < l.win.toNat →
      Does push 4 s ((links (s.here.links.set p { l with out := l.out ++ [{ val := s.o o, lease := s.here.leaseNo }], o := l.o + 1 })).useO [(o, m)])) ∧
    (s.linkLive p = true → l.win.toNat ≤ l.o → Stalls push s) ∧
    (s.linkLive p = false → Traps push (state p) s) ∧
    (s.linkLive q = false → Traps fwd (state q) s) ∧
    (s.linkLive q = true → l.fifo = [] → s.linkLive p = true → Stalls fwd s) ∧
    (s.linkLive q = true → l.fifo = [] → s.linkLive p = false → Traps fwd (state p) s) ∧
    (s.linkLive q = true → l.fifo ≠ [] → lq.win.toNat ≤ lq.o → Stalls fwd s) ∧
    (s.linkLive q = true → lq.o < lq.win.toNat → ∀ w rest, l.fifo = w :: rest →
      Does fwd 4 s ((links ((taken w rest).set q { lq with out := lq.out ++ [{ val := w.val, lease := s.here.leaseNo }], o := lq.o + 1 })).setO o w.val)) ∧
    Does (.lwin (BitVec.ofNat 2 p.val) n) 4 s (links (s.here.links.set p { l with win := n })) ∧
    WritesG (.lstat (BitVec.ofNat 2 p.val) d) 4 d (BitVec.ofNat 64 ((if s.linkLive p then 4096 else 0) + 256 * l.win.toNat + 16 * l.o + l.fifo.length)) s) ∧
  (
  ∀ (s : State) (p : Fin 4) (n : CoreAddr), isCompute s.at_ = true → n ≠ s.at_ → neighbour s.at_ p.val = some n →
    let q : Fin 4 := if p = 0 then 1 else if p = 1 then 0 else if p = 2 then 3 else 2
    let c := s.core n
    let l := s.here.links[p]
    let mine (x : Link) : State := { s with here := { s.here with links := s.here.links.set p x } }
    let theirs (u : State) (x : Link) : State := { u with away := put u.away n.toNat { c with links := c.links.set q x } }
    (s.linkLive p = true ↔ c.present = true ∧ (s.pkg (pkgOf s.at_)).partOf s.at_ = (s.pkg (pkgOf s.at_)).partOf n ∧ c.regs.lessee = s.here.regs.lessee ∧
      c.changing = false ∧ s.here.changing = false) ∧
    (s.ev.idx = p.val →
      (∀ w rest, l.out = w :: rest → c.links[q].fifo.length < 4 →
        exec .linkWordDelivery s = .next (theirs (mine { l with out := rest }) { c.links[q] with fifo := c.links[q].fifo ++ [w] })) ∧
      (l.out = [] ∨ 4 ≤ c.links[q].fifo.length → exec .linkWordDelivery s = .next s) ∧
      (∀ k rest, l.owed = k :: rest → c.leaseNo = k →
        exec .linkCreditReturn s = .next (theirs (mine { l with owed := rest }) { c.links[q] with o := c.links[q].o - 1 })) ∧
      (∀ k rest, l.owed = k :: rest → c.leaseNo ≠ k → ∃ t, exec .linkCreditReturn s = .next t ∧ t.here = (mine { l with owed := rest }).here ∧ t.core n = c) ∧
      (l.owed = [] → exec .linkCreditReturn s = .next s)))

/-- The stream instructions (R225 to R228).

STREAM_STRIP_FETCH (R226). Register 4k + i is si register i of slot k. -/
def Obligations.StreamInstructions : Prop :=
  (
  ∀ (s : State) (r tm o : BitVec 3) (d : BitVec 5) (i : Fin 4) (j : Fin 2) (m : BitVec 1),
    let stream (v : Word) : Trap := .plain 0x1A v
    let map := s.tm tm
    let pop := Instr.vmovOport (BitVec.ofNat 5 i.val) o 0
    let push := Instr.vmovPorto (BitVec.ofNat 5 (4 + j.val)) o m
    (r.toNat < 6 → map.strips < 2 ^ 48 → ∃ u, Does (.sbind r tm) 4 s u ∧ u.stream r.toNat = some { map := map, next := 0, buf := [] } ∧
      (∀ x, x < 6 → x ≠ r.toNat → u.stream x = s.stream x) ∧ u = s.setAct { s.act with si := u.act.si, so := u.act.so }) ∧
    (2 ^ 48 ≤ map.strips → Traps (.sbind r tm) (stream (BitVec.ofNat 64 map.strips)) s) ∧
    (r.toNat < 6 → ∃ u, Does (.sdrop r) 4 s u ∧ u.stream r.toNat = none ∧
      (∀ x, x < 6 → x ≠ r.toNat → u.stream x = s.stream x) ∧ u = s.setAct { s.act with si := u.act.si, so := u.act.so }) ∧
    (s.stream r.toNat = none → WritesG (.sstat r d) 4 d 0 s) ∧
    (∀ x, s.stream r.toNat = some x → x.buf.length ≤ 4 → x.next < 2 ^ 48 → ∃ v : Word, WritesG (.sstat r d) 4 d v s ∧ v.extractLsb' 57 7 = 0 ∧ v.getLsbD 56 = true ∧
      (v.extractLsb' 52 4).toNat = x.buf.length ∧ v.extractLsb' 48 4 = 0 ∧ (v.extractLsb' 0 48).toNat = x.next) ∧
    (s.act.si[i] = none → Traps pop (stream 0) s) ∧
    (∀ x, s.act.si[i] = some x →
      (x.next = x.map.strips → Traps pop (stream (BitVec.ofNat 64 x.next)) s) ∧
      (x.next ≠ x.map.strips → x.buf = [] → Stalls pop s) ∧
      (∀ c a rest, x.next ≠ x.map.strips → x.buf = .bad c a :: rest → Traps pop (.atNear c a a) s) ∧
      (∀ v rest, x.next ≠ x.map.strips → x.buf = .good v :: rest →
        Does pop 4 s ((s.setAct { s.act with si := s.act.si.set i (some { x with next := x.next + 1, buf := rest }) }).setO o v))) ∧
    (s.act.so[j] = none → Traps push (stream 0) s) ∧
    (∀ x, s.act.so[j] = some x → x.next = x.map.strips → Traps push (stream (BitVec.ofNat 64 x.next)) s) ∧
    (∀ x, s.act.so[j] = some x → x.next ≠ x.map.strips → StripOk s true x.map x.next → ∃ u : State, Does push 4 s (u.useO [(o, m)]) ∧
      u = (({ s with here := { s.here with mem := u.here.mem } }).watch false true s.ten (stripRanges x.map.size (x.map.strip x.next))).setAct
        { s.act with so := s.act.so.set j (some { x with next := x.next + 1 }), stores := u.act.stores } ∧
      (s.act.paired = false → u.act.stores = s.act.stores) ∧ (memWf s.here.mem.bytes = true → StripStored s x.map x.next (s.o o) u.here.mem))) ∧
  (
  ∀ (s : State),
    let wants (k i : Fin 4) : Prop := ∃ x, s.here.acts[k].si[i] = some x ∧ s.here.acts[k].busy = true ∧ x.buf.length < 4 ∧ x.next + x.buf.length < x.map.strips
    ((∀ k i, ¬ wants k i) → exec .streamStripFetch s = .next s) ∧
    (∀ (k i : Fin 4) (n : Nat) (x : Stream), n < 16 → 4 * k.val + i.val = (s.here.strip + 1 + n) % 16 →
      (∀ (k' i' : Fin 4) (m : Nat), m < n → 4 * k'.val + i'.val = (s.here.strip + 1 + m) % 16 → ¬ wants k' i') → wants k i → s.here.acts[k].si[i] = some x →
      StripOk { s with slot := k } false x.map (x.next + x.buf.length) →
      ∃ v t, exec .streamStripFetch s = .next t ∧ StripReads { s with slot := k } x.map (x.next + x.buf.length) v ∧ t.here.mem = s.here.mem ∧
        t.here.strip = 4 * k.val + i.val ∧
        t.here.acts = s.here.acts.set k { s.here.acts[k] with si := s.here.acts[k].si.set i (some { x with buf := x.buf ++ [.good v] }) }))

/-- The tensor-map instructions (R116).

Tensor walks (R117). -/
def Obligations.TensorMaps : Prop :=
  (
  ∀ (s : State) (t : BitVec 3) (a : BitVec 5) (o : BitVec 12) (d : BitVec 2),
    let ea := (if a = 0 then s.pc else s.g a) + o.signExtend 64
    let w (h : BitVec 128) : Nat := laneWidth (h.extractLsb' 18 4) / 8
    let bad (h : BitVec 128) : Prop := h.extractLsb' 22 106 ≠ 0 ∨ 12 ≤ (h.extractLsb' 18 4).toNat
    let off (h p : BitVec 128) : Prop := (h.extractLsb' 0 18).toNat % w h ≠ 0 ∨ ∃ i : Fin 4, (p.extractLsb' (32 * i.val + 16) 16).toInt % (w h : Int) ≠ 0
    (LoadOk s a ea.toNat 32 16 → ∃ h p : BitVec 128, (∀ j, j < 16 → byteOf h j = loadByte s a (ea.toNat + j) ∧ byteOf p j = loadByte s a (ea.toNat + 16 + j)) ∧
      (¬ bad h → ¬ off h p → ∃ t', exec (.tmld t a o) s = .next t' ∧
        RetiresSeq 4 (loaded s a ea.toNat 32) t' (withTm s.act.regs t { head := h, shape := p }) s.act.csr ∧ t'.here.mem = s.here.mem) ∧
      (bad h → Traps (.tmld t a o) (if a = 0 then .atSpace 0x0B ea 0 ea else .atNear 0x0B ea ea) s) ∧
      (¬ bad h → off h p → Traps (.tmld t a o) (if a = 0 then .atImem 0x0F ea ea else .atNear 0x0F ea ea) s)) ∧
    (let x := s.g a
      let m := s.tm t
      (x.extractLsb' 18 46 ≠ 0 → Traps (.tmbase t a) (.plain 0x0C x) s) ∧
      (x.extractLsb' 18 46 = 0 → (m.head.extractLsb' 18 4).toNat < 12 → x.toNat % w m.head ≠ 0 → Traps (.tmbase t a) (.plain 0x0F x) s) ∧
      (x.extractLsb' 18 46 = 0 → (m.head.extractLsb' 18 4).toNat < 12 → x.toNat % w m.head = 0 →
        Leaves (.tmbase t a) 4 (withTm s.act.regs t { m with head := m.head.extractLsb' 18 110 ++ x.extractLsb' 0 18 }) s.act.csr s) ∧
      (∃ p : BitVec 128, Leaves (.tmcnt t a d) 4 (withTm s.act.regs t { m with shape := p }) s.act.csr s ∧
        ∀ i, i < 128 → p.getLsbD i = if 32 * d.toNat ≤ i ∧ i < 32 * d.toNat + 16 then x.getLsbD (i - 32 * d.toNat) else m.shape.getLsbD i))) ∧
  (
  (∀ (m : TMap) (i0 i1 i2 i3 : Nat), i0 < m.count 0 → i1 < m.count 1 → i2 < m.count 2 → i3 < m.count 3 →
    m.addr (i0 + m.count 0 * (i1 + m.count 1 * (i2 + m.count 2 * i3))) =
      some ((m.base.toNat : Int) + i0 * m.stride 0 + i1 * m.stride 1 + i2 * m.stride 2 + i3 * m.stride 3)) ∧
  (∀ (m : TMap) (e : Nat), m.count 0 * m.count 1 * m.count 2 * m.count 3 ≤ e → m.addr e = none) ∧
  (∀ (s : State) (o t : BitVec 3) (l : BitVec 1) (a : BitVec 5), (s.tm t).type.toNat < 12 →
    let m := s.tm t
    let j := (s.g a).toNat
    (StripOk s false m j → ∃ v u, Does (.twld o t a) 4 s (u.setO o v) ∧ StripReads s m j v ∧ u.act = s.act ∧ u.here.mem = s.here.mem ∧
      u = s.watch true false s.ten (stripRanges m.size (m.strip j))) ∧
    (StripOk s true m j → ∃ u : State, Does (.twst o l t a) 4 s (u.useO [(o, l)]) ∧ (s.act.paired = false → u.act.stores = s.act.stores) ∧ (memWf s.here.mem.bytes = true → StripStored s m j (s.o o) u.here.mem) ∧
      u = (({ s with here := { s.here with mem := u.here.mem } }).watch false true s.ten (stripRanges m.size (m.strip j))).setAct { s.act with stores := u.act.stores })))

/-- RoundTo (R63) against exact rationals. -/
def Obligations.ExactRounding : Prop :=
  ∀ f ∈ [fp32, fp64, bf16, fp16, ixFmt], ∀ (x : Dy) (mode : Nat), mode < 6 →
    let r := f.round x mode
    (x.m = 0 → r = ((if x.neg then 2 ^ (f.p + f.ew) else 0), 0)) ∧
    (x.m ≠ 0 → r.1 / 2 ^ (f.p + f.ew) = if x.neg then 1 else 0) ∧
    (∀ q y, q < 2 ^ (f.p + f.ew + 1) → f.decode q = .fin y → x.m ≠ 0 → ratOf y = ratOf x → r.2 = 0 ∧ ∃ z, f.decode r.1 = .fin z ∧ ratOf z = ratOf x) ∧
    (x.m ≠ 0 → r.2 &&& fOF ≠ 0 → r.2 = fOF ||| fNX ∧ (f.decode r.1 = .inf x.neg ∨ r.1 = f.maxBits x.neg)) ∧
    (x.m ≠ 0 → r.2 &&& fOF = 0 → ∃ y, f.decode r.1 = .fin y ∧
      (let among (side : ℚ → Prop) : Prop := side (ratOf y) ∧ ∀ q z, q < 2 ^ (f.p + f.ew + 1) → f.decode q = .fin z → side (ratOf z) → |ratOf y - ratOf x| ≤ |ratOf z - ratOf x|
       let tie (b : Prop) : Prop := ∀ q z, q < 2 ^ (f.p + f.ew + 1) → f.decode q = .fin z → ratOf z ≠ ratOf y → |ratOf y - ratOf x| = |ratOf z - ratOf x| → b
       (mode = 0 → among (fun _ => True) ∧ tie (r.1 % 2 = 0)) ∧ (mode = 1 → among fun z => |z| ≤ |ratOf x|) ∧ (mode = 2 → among fun z => ratOf x ≤ z) ∧
       (mode = 3 → among fun z => z ≤ ratOf x) ∧ (mode = 4 → among (fun _ => True) ∧ tie (|ratOf x| < |ratOf y|)) ∧
       (mode = 5 → ratOf y ≠ ratOf x → r.1 % 2 = 1 ∧ ∃ q, (q = r.1 ∨ q + 1 = r.1) ∧ (f.round x 1).1 = q)) ∧
      (r.2 &&& fNX ≠ 0 ↔ ratOf y ≠ ratOf x) ∧ (r.2 &&& fUF ≠ 0 → ratOf y ≠ ratOf x) ∧ r.2 &&& (fNV ||| fDR ||| fPZ) = 0)

/-- The arithmetic of R66 and R106 before rounding. -/
def Obligations.ExactArithmetic : Prop :=
  ∀ (mode : Nat) (x y z : Dy) (a b c : Machine.Num),
    (∃ d, numAdd mode (.fin x) (.fin y) = .val d ∧ ratOf d = ratOf x + ratOf y ∧
      (ratOf x + ratOf y = 0 → ¬ (x.m = 0 ∧ y.m = 0 ∧ x.neg = y.neg) → d.neg = (mode == 3))) ∧
    (∃ d, numMul (.fin x) (.fin y) = .val d ∧ ratOf d = ratOf x * ratOf y ∧ d.neg = (x.neg != y.neg)) ∧
    (∃ d, numFma mode (.fin x) (.fin y) (.fin z) = .val d ∧ ratOf d = ratOf x * ratOf y + ratOf z) ∧
    (a.isNan || b.isNan → numAdd mode a b = .nan (a.isSig || b.isSig) ∧ numMul a b = .nan (a.isSig || b.isSig)) ∧
    numAdd mode (.inf false) (.inf true) = .nan true ∧ numAdd mode (.inf true) (.inf false) = .nan true ∧
    (∀ n, a.isZero = true → numMul a (.inf n) = .nan true ∧ numMul (.inf n) a = .nan true ∧ numFma mode a (.inf n) c = .nan true) ∧
    (a.isNan = false → b.isNan = false → (numMul a b).isNan = false → c.isNan = true → numFma mode a b c = .nan c.isSig) ∧
    ∀ f ∈ [fp32, fp64, bf16, fp16, ixFmt],
      let finite (v : ℚ) : Prop := ∃ q d, q < 2 ^ (f.p + f.ew + 1) ∧ f.decode q = .fin d ∧ ratOf d = v
      (y.m ≠ 0 → mode < 5 →
        let r := (numDiv f (.fin x) (.fin y)).to f mode
        let e := ratOf x / ratOf y
        (r.2 &&& fOF ≠ 0 → ∀ v, finite v → |v| < |e|) ∧
        (r.2 &&& fOF = 0 → ∃ d, f.decode r.1 = .fin d ∧ (r.2 &&& fNX ≠ 0 ↔ ratOf d ≠ e) ∧
          let best (side : ℚ → Prop) : Prop := side (ratOf d) ∧ ∀ v, finite v → side v → |ratOf d - e| ≤ |v - e|
          (mode = 0 ∨ mode = 4 → best fun _ => True) ∧ (mode = 1 → best fun v => |v| ≤ |e|) ∧ (mode = 2 → best fun v => e ≤ v) ∧ (mode = 3 → best fun v => v ≤ e))) ∧
      (numDiv f (.inf x.neg) (.fin y) = .inf (x.neg != y.neg) ∧ numDiv f (.inf true) (.inf true) = .nan true ∧ numDiv f (.inf false) (.inf true) = .nan true ∧
        (∃ d, numDiv f (.fin x) (.inf y.neg) = .val d ∧ d.m = 0 ∧ d.neg = (x.neg != y.neg)) ∧
        (y.m = 0 → numDiv f (.fin x) (.fin y) = if x.m = 0 then .nan true else .inf (x.neg != y.neg)) ∧
        (a.isNan || b.isNan → numDiv f a b = .nan (a.isSig || b.isSig))) ∧
      (x.neg = false → mode < 5 →
        let r := (numSqrt f (.fin x)).to f mode
        r.2 &&& fOF = 0 → ∃ d, f.decode r.1 = .fin d ∧ 0 ≤ ratOf d ∧ (r.2 &&& fNX ≠ 0 ↔ ratOf d ^ 2 ≠ ratOf x) ∧
          (mode = 0 ∨ mode = 4 → ∀ v, finite v → 0 ≤ v → (ratOf d < v → 4 * ratOf x ≤ (ratOf d + v) ^ 2) ∧ (v < ratOf d → (ratOf d + v) ^ 2 ≤ 4 * ratOf x)) ∧
          (mode = 1 ∨ mode = 3 → ratOf d ^ 2 ≤ ratOf x ∧ ∀ v, finite v → v ^ 2 ≤ ratOf x → v ≤ ratOf d) ∧
          (mode = 2 → ratOf x ≤ ratOf d ^ 2 ∧ ∀ v, finite v → 0 ≤ v → ratOf x ≤ v ^ 2 → ratOf d ≤ v)) ∧
      (numSqrt f (.inf false) = .inf false ∧ numSqrt f (.inf true) = .nan true ∧ (x.neg = true → numSqrt f (.fin x) = if x.m = 0 then .val x else .nan true)) ∧
      ∀ p q : Nat,
        let below : Prop := (∃ x y, f.decode p = .fin x ∧ f.decode q = .fin y ∧ (ratOf x < ratOf y ∨ (x.m = 0 ∧ x.neg = true ∧ y.m = 0 ∧ y.neg = false))) ∨
          (f.decode p = .inf true ∧ (f.decode q).isNan = false ∧ f.decode q ≠ .inf true) ∨ (f.decode q = .inf false ∧ (f.decode p).isNan = false ∧ f.decode p ≠ .inf false)
        (below → fminBits f p q = (p, 0) ∧ fminBits f q p = (p, 0) ∧ fmaxBits f p q = (q, 0) ∧ fmaxBits f q p = (q, 0)) ∧
        ((f.decode p).isNan || (f.decode q).isNan → let r := (f.cnan, if (f.decode p).isSig || (f.decode q).isSig then fNV else 0)
          fminBits f p q = r ∧ fmaxBits f p q = r)

/-- The floating arithmetic of MO 0x1C (R106).

The floating compares and `vfclass` (R107). -/
def Obligations.FloatingArithmetic : Prop :=
  (
  ∀ (s : State) (d a b c : BitVec 3) (l m n : BitVec 1) (k : BitVec 2) (t : BitVec 4), isFloat t = true →
    let f := fmtOf t
    let mode := if s.act.csr.frm = 5 then 1 else s.act.csr.frm.toNat
    let x (i : Nat) : Machine.Num := f.decode (lane (laneWidth t) (s.o a) i)
    let y (i : Nat) : Machine.Num := f.decode (lane (laneWidth t) (s.o b) i)
    let z (i : Nat) : Machine.Num := f.decode (lane (laneWidth t) (s.o c) i)
    let one := [(a, l)]
    let two := [(a, l), (b, m)]
    let three := [(a, l), (b, m), (c, n)]
    VecDoes (.vadd d a l b m k t) t d k two (fun i => (numAdd mode (x i) (y i)).to f mode) s ∧
    VecDoes (.vsub d a l b m k t) t d k two (fun i => (numAdd mode (x i) (y i).negate).to f mode) s ∧
    VecDoes (.vmul d a l b m k t) t d k two (fun i => (numMul (x i) (y i)).to f mode) s ∧
    VecDoes (.vdiv d a l b m k t) t d k two (fun i => (numDiv f (x i) (y i)).to f mode) s ∧
    VecDoes (.vsqrt d a l k t) t d k one (fun i => (numSqrt f (x i)).to f mode) s ∧
    VecDoes (.vfma d a l b m c n k t) t d k three (fun i => (numFma mode (x i) (y i) (z i)).to f mode) s ∧
    VecDoes (.vfms d a l b m c n k t) t d k three (fun i => (numFma mode (x i) (y i) (z i).negate).to f mode) s ∧
    VecDoes (.vfnma d a l b m c n k t) t d k three (fun i => (numFma mode (x i).negate (y i) (z i)).to f mode) s ∧
    VecDoes (.vmin d a l b m k t) t d k two (fun i => fminBits f (lane (laneWidth t) (s.o a) i) (lane (laneWidth t) (s.o b) i)) s ∧
    VecDoes (.vmax d a l b m k t) t d k two (fun i => fmaxBits f (lane (laneWidth t) (s.o a) i) (lane (laneWidth t) (s.o b) i)) s ∧
    VecDoes (.vabs d a l k t) t d k one (fun i => if (x i).isNan then (f.cnan, if (x i).isSig then fNV else 0) else
      (lane (laneWidth t) (s.o a) i % 2 ^ (laneWidth t - 1), 0)) s ∧
    VecDoes (.vneg d a l k t) t d k one (fun i => if (x i).isNan then (f.cnan, if (x i).isSig then fNV else 0) else
      (lane (laneWidth t) (s.o a) i ^^^ 2 ^ (laneWidth t - 1), 0)) s) ∧
  (
  ∀ (s : State) (d a b : BitVec 3) (e k : BitVec 2) (l m : BitVec 1) (t : BitVec 4), isFloat t = true →
    let f := fmtOf t
    let x (i : Nat) : Machine.Num := f.decode (lane (laneWidth t) (s.o a) i)
    let y (i : Nat) : Machine.Num := f.decode (lane (laneWidth t) (s.o b) i)
    let nan (i : Nat) : Bool := (x i).isNan || (y i).isNan
    let sig (i : Nat) : Bool := (x i).isSig || (y i).isSig
    let two := [(a, l), (b, m)]
    let cls (i : Nat) : Nat := match x i with
      | .inf neg => if neg then 0 else 7
      | .nan q => if q then 8 else 9
      | .fin v => if v.m = 0 then (if v.neg then 3 else 4) else if v.m < 2 ^ f.p then (if v.neg then 2 else 5) else (if v.neg then 1 else 6)
    CmpDoes (.vfeq e a l b m k t) t e k two (fun i => (!nan i && !numLt (x i) (y i) && !numLt (y i) (x i), if sig i then fNV else 0)) s ∧
    CmpDoes (.vflt e a l b m k t) t e k two (fun i => (!nan i && numLt (x i) (y i), if nan i then fNV else 0)) s ∧
    CmpDoes (.vfle e a l b m k t) t e k two (fun i => (!nan i && !numLt (y i) (x i), if nan i then fNV else 0)) s ∧
    VecDoes (.vfclass d a l k t) t d k [(a, l)] (fun i => (2 ^ cls i, 0)) s)

/-- The conversions of MO 0x1E (R108). -/
def Obligations.Conversions : Prop :=
  ∀ (s : State) (d a b : BitVec 3) (k : BitVec 2) (l m : BitVec 1) (st t : BitVec 4), st.toNat < 12 → t.toNat < 12 → isFloat st = true ∨ isFloat t = true →
    let w := laneWidth st
    let mode := s.act.csr.frm.toNat
    let lo : Int := if isSigned t then -(2 ^ (laneWidth t - 1) : Int) else 0
    let hi : Int := if isSigned t then 2 ^ (laneWidth t - 1) - 1 else 2 ^ laneWidth t - 1
    let conv (x : Strip) (i : Nat) : Nat × BitVec 6 :=
      if isFloat st = false then (fmtOf t).round { neg := decide (intLane st x i < 0), m := (intLane st x i).natAbs, e := 0 } mode
      else match (fmtOf st).decode (lane w x i) with
        | .nan q => if isFloat t then ((fmtOf t).cnan, if q then fNV else 0) else (0, fNV)
        | .inf neg => if isFloat t then ((fmtOf t).infBits neg, 0) else (((if neg then lo else hi) % 2 ^ laneWidth t).toNat, fNV)
        | .fin v =>
          if isFloat t then (fmtOf t).round v mode
          else
            let r := roundGrid (if mode = 5 then 1 else mode) v.neg v.m v.e 0
            let n : Int := if v.neg then -(r.1 : Int) else r.1
            if n < lo then ((lo % 2 ^ laneWidth t).toNat, fNV) else if hi < n then ((hi % 2 ^ laneWidth t).toNat, fNV)
            else ((n % 2 ^ laneWidth t).toNat, if r.2 then 0 else fNX)
    VecDoes (.vcvt d a l st k t) t d k [(a, l)] (fun i => conv (s.o a) i) s ∧
    VecDoes (.vcvtl d a l st k t) t d k [(a, l)] (fun i => conv (s.o a) i) s ∧
    VecDoes (.vcvth d a l st k t) t d k [(a, l)] (fun i => conv (s.o a) (laneCount t + i)) s ∧
    VecDoes (.vcvtn d a l b m st k t) t d k [(a, l), (b, m)]
      (fun i => if i < laneCount st then conv (s.o a) i else conv (s.o b) (i - laneCount st)) s

/-- The special functions (R113, R114). Results that are neither special nor exact are free within the bounds of R113, those of 1 ulp by the model's enclosures of the value
(log entry 47). -/
def Obligations.SpecialFunctions : Prop :=
  ∀ t : BitVec 4, t = 0 ∨ t = 1 →
    let f := fmtOf t
    let nv (q : Bool) : BitVec 6 := if q then fNV else 0
    let is (r : Nat × BitVec 6) (x : ℚ) : Prop := (∃ y, f.decode r.1 = .fin y ∧ ratOf y = x) ∧ r.2 = 0
    let next (r : Nat × BitVec 6) (e : Dy × Dy) (fl : BitVec 6) : Prop := (r.1 = (f.round e.1 3).1 ∨ r.1 = (f.round e.2 2).1) ∧ r.2 = fl
    ∃ exp2 log2 rcp rsq sinpi cospi : Nat → Nat × BitVec 6,
      (∀ (s : State) (d a : BitVec 3) (k : BitVec 2) (l : BitVec 1),
        let x (i : Nat) : Nat := lane (laneWidth t) (s.o a) i
        VecDoes (.vexp2 d a l k t) t d k [(a, l)] (fun i => exp2 (x i)) s ∧
        VecDoes (.vlog2 d a l k t) t d k [(a, l)] (fun i => log2 (x i)) s ∧
        VecDoes (.vrcp d a l k t) t d k [(a, l)] (fun i => rcp (x i)) s ∧
        VecDoes (.vrsq d a l k t) t d k [(a, l)] (fun i => rsq (x i)) s ∧
        VecDoes (.vsinpi d a l k t) t d k [(a, l)] (fun i => sinpi (x i)) s ∧
        VecDoes (.vcospi d a l k t) t d k [(a, l)] (fun i => cospi (x i)) s) ∧
      (∀ p q, f.decode p = .nan q → ∀ g ∈ [exp2, log2, rcp, rsq, sinpi, cospi], g p = (f.cnan, nv q)) ∧
      (∀ p, f.decode p = .inf false → exp2 p = (f.infBits false, 0) ∧ log2 p = (f.infBits false, 0) ∧ rcp p = (0, 0) ∧ rsq p = (0, 0) ∧
        sinpi p = (f.cnan, fNV) ∧ cospi p = (f.cnan, fNV)) ∧
      (∀ p, f.decode p = .inf true → exp2 p = (0, 0) ∧ log2 p = (f.cnan, fNV) ∧ rcp p = (2 ^ (f.p + f.ew), 0) ∧ rsq p = (f.cnan, fNV) ∧
        sinpi p = (f.cnan, fNV) ∧ cospi p = (f.cnan, fNV)) ∧
      ∀ p v, f.decode p = .fin v →
        let r := ratOf v
        let nought : Nat := if v.neg then 2 ^ (f.p + f.ew) else 0
        (v.m = 0 → exp2 p = (f.bias * 2 ^ f.p, 0) ∧ log2 p = (f.infBits true, 0) ∧ rcp p = (f.infBits v.neg, 0) ∧
          rsq p = (f.infBits v.neg, 0) ∧ sinpi p = (nought, 0) ∧ cospi p = (f.bias * 2 ^ f.p, 0)) ∧
        (v.m ≠ 0 → v.neg = true → log2 p = (f.cnan, fNV) ∧ rsq p = (f.cnan, fNV)) ∧
        (let least : Int := 1 - f.bias
         let exact : Prop := ∃ n : Int, r = n ∧ least - f.p ≤ n ∧ n ≤ f.bias
         (∀ n : Int, r = n → least - f.p ≤ n → n ≤ f.bias → is (exp2 p) (2 ^ n)) ∧
         ((f.bias : ℚ) + 1 ≤ r → exp2 p = (f.infBits false, fNX ||| fOF)) ∧
         (¬ exact → r < f.bias + 1 → next (exp2 p) (exp2Range v) (if r < least then fNX ||| fUF else fNX))) ∧
        (0 < r → (∀ n : Int, r = 2 ^ n → is (log2 p) n) ∧ ((∀ n : Int, r ≠ 2 ^ n) → next (log2 p) (log2Range v) fNX)) ∧
        (∀ n : Int, |r| = 2 ^ n → (∃ q y, f.decode q = .fin y ∧ ratOf y = 1 / r) → is (rcp p) (1 / r)) ∧
        (v.m ≠ 0 → (∃ q y, f.decode q = .fin y ∧ |ratOf y * r - 1| ≤ 1 / 4096) → (∃ y, f.decode (rcp p).1 = .fin y ∧ |ratOf y * r - 1| ≤ 1 / 4096)) ∧
        (v.m ≠ 0 → ((rcp p).2 = 0 ∨ (rcp p).2 = fNX)) ∧
        (∀ n : Int, r = 2 ^ (2 * n) → is (rsq p) (2 ^ (-n))) ∧
        (0 < r → ∃ y, f.decode (rsq p).1 = .fin y ∧ 0 < ratOf y ∧ (4095 / 4096) ^ 2 ≤ ratOf y ^ 2 * r ∧ ratOf y ^ 2 * r ≤ (4097 / 4096) ^ 2 ∧
          ((rsq p).2 = 0 ∨ (rsq p).2 = fNX)) ∧
        (∀ n : Int, r = n / 2 → (n % 2 = 0 → sinpi p = (nought, 0) ∧ is (cospi p) (if n % 4 = 0 then 1 else -1)) ∧
          (n % 2 ≠ 0 → is (sinpi p) (if n % 4 = 1 then 1 else -1) ∧ cospi p = (0, 0))) ∧
        ((∀ n : Int, r ≠ n / 2) → next (sinpi p) (sinpiRange v) fNX ∧ next (cospi p) (cospiRange v) fNX)

/-- The special functions complete on every operand, in every rounding mode (R113, R114); their values are the statement above. -/
def Obligations.SpecialFunctionsComplete : Prop :=
  ∀ (s : State) (d a : BitVec 3) (k : BitVec 2) (l : BitVec 1) (t : BitVec 4), t = 0 ∨ t = 1 →
    ∀ i ∈ [Instr.vexp2 d a l k t, .vlog2 d a l k t, .vrcp d a l k t, .vrsq d a l k t, .vsinpi d a l k t, .vcospi d a l k t],
      ∃ (v : Strip) (fl : BitVec 6) (u : State), exec i s = .next u ∧
        RetiresSeq 4 s u (withO s.act.regs d v) (withLive (withFlags (usedO s [(a, l)]) fl) d) ∧ fl &&& (fDR ||| fPZ) = 0 ∧
        ∀ j, j < laneCount t → (s.k k).getLsbD j = false → lane (laneWidth t) v j = lane (laneWidth t) (s.o d) j

/-- Vector integer arithmetic (R109).

Integer compares, select and mask logic (R110). -/
def Obligations.IntegerVectors : Prop :=
  (
  ∀ (s : State) (d a b c : BitVec 3) (l m n : BitVec 1) (k : BitVec 2) (t : BitVec 4), isInt t = true →
    let w := laneWidth t
    let lo : Int := if isSigned t then -(2 ^ (w - 1) : Int) else 0
    let hi : Int := if isSigned t then 2 ^ (w - 1) - 1 else 2 ^ w - 1
    let x (i : Nat) : Int := intLane t (s.o a) i
    let y (i : Nat) : Int := intLane t (s.o b) i
    let z (i : Nat) : Int := intLane t (s.o c) i
    let p (i : Nat) : BitVec w := BitVec.ofNat w (lane w (s.o a) i)
    let q (i : Nat) : BitVec w := BitVec.ofNat w (lane w (s.o b) i)
    let two := [(a, l), (b, m)]
    let int (i : Instr) (f : Nat → Int) : Prop := VecDoes i t d k two (fun j => ((f j % 2 ^ w).toNat, 0)) s
    let bits (i : Instr) (f : Nat → BitVec w) : Prop := VecDoes i t d k two (fun j => ((f j).toNat, 0)) s
    int (.vaddInt d a l b m k t) (fun i => x i + y i) ∧
    int (.vsubInt d a l b m k t) (fun i => x i - y i) ∧
    int (.vmulInt d a l b m k t) (fun i => x i * y i) ∧
    int (.vmulh d a l b m k t) (fun i => x i * y i / 2 ^ w) ∧
    bits (.vand d a l b m k t) (fun i => p i &&& q i) ∧
    bits (.vor d a l b m k t) (fun i => p i ||| q i) ∧
    bits (.vxor d a l b m k t) (fun i => p i ^^^ q i) ∧
    bits (.vsll d a l b m k t) (fun i => p i <<< ((q i).toNat % w)) ∧
    bits (.vsrl d a l b m k t) (fun i => p i >>> ((q i).toNat % w)) ∧
    bits (.vsra d a l b m k t) (fun i => (p i).sshiftRight ((q i).toNat % w)) ∧
    int (.vminInt d a l b m k t) (fun i => min (x i) (y i)) ∧
    int (.vmaxInt d a l b m k t) (fun i => max (x i) (y i)) ∧
    int (.vadds d a l b m k t) (fun i => max lo (min hi (x i + y i))) ∧
    int (.vsubs d a l b m k t) (fun i => max lo (min hi (x i - y i))) ∧
    int (.vabsd d a l b m k t) (fun i => |x i - y i|) ∧
    VecDoes (.vmadd d a l b m c n k t) t d k [(a, l), (b, m), (c, n)] (fun i => (((x i * y i + z i) % 2 ^ w).toNat, 0)) s) ∧
  (
  ∀ (s : State) (d a b : BitVec 3) (e g h k : BitVec 2) (l m : BitVec 1) (t : BitVec 4),
    let x (i : Nat) : Int := intLane t (s.o a) i
    let y (i : Nat) : Int := intLane t (s.o b) i
    let w := laneWidth t
    let two := [(a, l), (b, m)]
    let mask (r : BitVec 2) (j : Nat) : Bool := decide (r = 0) || s.act.regs.k[r.toNat].getLsbD j
    let writes (i : Instr) (f : Nat → Bool) : Prop := ∃ v : BitVec 32, (∀ j, j < 32 → v.getLsbD j = f j) ∧ Leaves i 4 (withK s.act.regs e v) s.act.csr s
    (isInt t = true →
      CmpDoes (.vceq e a l b m k t) t e k two (fun i => (decide (x i = y i), 0)) s ∧
      CmpDoes (.vclt e a l b m k t) t e k two (fun i => (decide (x i < y i), 0)) s ∧
      CmpDoes (.vcle e a l b m k t) t e k two (fun i => (decide (x i ≤ y i), 0)) s) ∧
    (t.toNat < 12 → VecDoes (.vsel d a l b m k t) t d 0 two (fun i => (if mask k i then lane w (s.o a) i else lane w (s.o b) i, 0)) s) ∧
    writes (.kand e g h) (fun j => mask g j && mask h j) ∧
    writes (.kor e g h) (fun j => mask g j || mask h j) ∧
    writes (.kxor e g h) (fun j => mask g j != mask h j) ∧
    writes (.knot e g) (fun j => !mask g j))

/-- The permutes (R111).

The reductions (R78, R112). The tree is spelled out: level by level over neighbours, from the lane count down to one.

The moves of MO 0x23 that name no port (R104), and `c.vmov` (R99). -/
def Obligations.LaneMoves : Prop :=
  (
  ∀ (s : State) (d a b : BitVec 3) (l m : BitVec 1) (k : BitVec 2) (t : BitVec 4), t.toNat < 12 →
    let w := laneWidth t
    let n := laneCount t
    let A (i : Nat) : Nat := lane w (s.o a) i
    let B (i : Nat) : Nat := lane w (s.o b) i
    let pair (i : Nat) : Nat := if i < n then A i else B (i - n)
    let moves (i : Instr) (f : Nat → Nat) : Prop := VecDoes i t d k [(a, l), (b, m)] (fun j => (f j, 0)) s
    moves (.vperm d a l b m k t) (fun i => A (B i % n)) ∧
    moves (.vbcast d a l b m k t) (fun _ => A (B 0 % n)) ∧
    VecDoes (.vrev d a l k t) t d k [(a, l)] (fun i => (A (n - 1 - i), 0)) s ∧
    moves (.vzipl d a l b m k t) (fun i => if i % 2 = 0 then A (i / 2) else B ((i - 1) / 2)) ∧
    moves (.vziph d a l b m k t) (fun i => if i % 2 = 0 then A (n / 2 + i / 2) else B (n / 2 + (i - 1) / 2)) ∧
    moves (.vuzpe d a l b m k t) (fun i => pair (2 * i)) ∧
    moves (.vuzpo d a l b m k t) (fun i => pair (2 * i + 1))) ∧
  (
  ∀ (s : State) (d a : BitVec 3) (l : BitVec 1) (k : BitVec 2) (t : BitVec 4), t.toNat < 12 →
    let w := laneWidth t
    let n := laneCount t
    let f := fmtOf t
    let on (i : Nat) : Bool := (s.k k).getLsbD i
    let enter (ident i : Nat) : Nat := if on i then lane w (s.o a) i else ident
    let reduces (i : Instr) (v : Nat) (fl : BitVec 6) : Prop := v < 2 ^ w ∧ WritesO i 4 d (BitVec.ofNat 256 v) (withFlags (usedO s [(a, l)]) fl) s
    let x (i : Nat) : Int := intLane t (s.o a) i
    let lo : Int := if isSigned t then -(2 ^ (w - 1) : Int) else 0
    let hi : Int := if isSigned t then 2 ^ (w - 1) - 1 else 2 ^ w - 1
    let tree (step : Nat → Nat → Nat × BitVec 6) (ident : Nat) (v : Nat) (fl : BitVec 6) : Prop :=
      ∃ (T : Nat → Nat → Nat) (F : Nat → Nat → BitVec 6), (∀ i, i < n → T 0 i = enter ident i) ∧
        (∀ r i, T (r + 1) i = (step (T r (2 * i)) (T r (2 * i + 1))).1 ∧ F (r + 1) i = (step (T r (2 * i)) (T r (2 * i + 1))).2) ∧
        ∃ depth, 2 ^ depth = n ∧ v = T depth 0 ∧
          ∀ b, b < 6 → (fl.getLsbD b = true ↔ ∃ r i, r < depth ∧ i < 2 ^ (depth - 1 - r) ∧ (F (r + 1) i).getLsbD b = true)
    (isFloat t = true →
      (∃ v fl, reduces (.vrsum d a l k t) v fl ∧ tree (fun p q => (numAdd 0 (f.decode p) (f.decode q)).to f 0) (2 ^ (f.p + f.ew)) v fl) ∧
      (∃ v fl, reduces (.vrmin d a l k t) v fl ∧ tree (fminBits f) (f.infBits false) v fl) ∧
      (∃ v fl, reduces (.vrmax d a l k t) v fl ∧ tree (fmaxBits f) (f.infBits true) v fl)) ∧
    (isInt t = true →
      reduces (.vrsum d a l k t) ((((List.range n).map fun i => if on i then x i else 0).sum % 2 ^ w).toNat) 0 ∧
      reduces (.vrmin d a l k t) ((((List.range n).map fun i => if on i then x i else hi).foldl min hi % 2 ^ w).toNat) 0 ∧
      reduces (.vrmax d a l k t) ((((List.range n).map fun i => if on i then x i else lo).foldl max lo % 2 ^ w).toNat) 0 ∧
      reduces (.vrand d a l k t) (((List.range n).map (enter (2 ^ w - 1))).foldl (· &&& ·) (2 ^ w - 1)) 0 ∧
      reduces (.vror d a l k t) (((List.range n).map (enter 0)).foldl (· ||| ·) 0) 0 ∧
      reduces (.vrxor d a l k t) (((List.range n).map (enter 0)).foldl (· ^^^ ·) 0) 0)) ∧
  (
  ∀ (s : State) (v g : BitVec 5) (o o' : BitVec 3) (l : BitVec 1) (n : BitVec 5) (k : BitVec 2) (t : BitVec 4), t.toNat < 12 → n.toNat < laneCount t →
    let r := s.act.regs
    let w := laneWidth t
    WritesO (.vmovOV v o) 4 o (s.v v) s.act.csr s ∧
    WritesO (.cVmovOV o v) 2 o (s.v v) s.act.csr s ∧
    Leaves (.vmovVO v o l) 4 (withV r v (s.o o)) (usedO s [(o, l)]) s ∧
    Leaves (.cVmovVO o v l) 2 (withV r v (s.o o)) (usedO s [(o, l)]) s ∧
    WritesO (.vmovOO o' o l) 4 o (s.o o') (usedO s [(o', l)]) s ∧
    (∃ x, WritesO (.vsplat g o t) 4 o x s.act.csr s ∧ ∀ i, i < laneCount t → lane w x i = (s.g g).toNat % 2 ^ w) ∧
    Leaves (.vext g o l n t) 4 (withG r g (BitVec.ofInt 64 (intLane t (s.o o) n.toNat))) (usedO s [(o, l)]) s ∧
    (∃ x, WritesO (.vins g o n t) 4 o x s.act.csr s ∧
      ∀ i, i < laneCount t → lane w x i = if i = n.toNat then (s.g g).toNat % 2 ^ w else lane w (s.o o) i) ∧
    Leaves (.kmovKG g k) 4 (withK r k ((s.g g).setWidth 32)) s.act.csr s ∧
    WritesG (.kmovGK g k) 4 g (if k = 0 then 0xFFFFFFFF else (r.k[k.toNat]).setWidth 64) s)

/-- `dtld`, `vdec` and `venc` (R119, R120). The value of a failing record's DECODE is free (log entry 46).

Encode of R71 against exact rationals.

EncodeBlock of R75 against exact rationals. -/
def Obligations.NarrowFormats : Prop :=
  (
  ∀ (s : State) (d a : BitVec 3) (b : BitVec 5) (l side : BitVec 1) (q : BitVec 3) (ft : BitVec 2) (o : BitVec 8),
    let ea := (if b = 0 then s.pc else s.g b) + 16 * o.signExtend 64
    let ty : TypeCode := ft.setWidth 4
    let f := fmtOf ty
    let n := laneCount ty
    let w := laneWidth ty
    let tab := s.here.mx.tab[side.toNat]
    let entry (c : Nat) : Machine.Num := ixFmt.decode (memNat tab (16 + 4 * c) 4 % 2 ^ 19)
    let x (i : Nat) : Machine.Num := f.decode (lane w (s.o a) i)
    let ncv := memByte tab 2 = 1
    let sound := s.here.mx.tabBad[side.toNat] = false
    (isEngine s.at_ = true → ∀ i ∈ [Instr.dtld b side o, .vdec d a l side q ft, .venc d a l side q ft], Traps i (.plain 0x0E 0x25) s) ∧
    (isEngine s.at_ = false → LoadOk s b ea.toNat 1296 16 → ∃ r : Memory, memWf r = true ∧ (∀ j, memByte r j = if j < 1296 then loadByte s b (ea.toNat + j) else 0) ∧
      (tabOk r = true → Does (.dtld b side o) 4 s ((loaded s b ea.toNat 1296).modMx fun m => { m with tab := m.tab.set side.toNat r, tabBad := m.tabBad.set side.toNat false })) ∧
      (tabOk r = false → ∃ v, Traps (.dtld b side o) (if b = 0 then .atSpace 0x1B v 0 ea else .atNear 0x1B v ea) s)) ∧
    (isEngine s.at_ = false → ¬ sound → ∀ i ∈ [Instr.vdec d a l side q ft, .venc d a l side q ft], ∃ v, Traps i (.plain 0x13 v) s) ∧
    (isEngine s.at_ = false → sound → VecDoes (.vdec d a l side q ft) ty d 0 [(a, l)]
      (fun i => (entry (lane 8 (s.o a) (q.toNat * n + i))).exact.to f s.act.csr.frm.toNat) s) ∧
    (isEngine s.at_ = false → sound → memByte tab 2 = 0 ∨ ncv → (∀ i, i < n → (x i).isNan = false) ∨ ncv → q.toNat * n + n ≤ 32 →
      ∃ (v : Strip) (fl : BitVec 6) (pick : Nat → Bool),
        let code (i : Nat) : Nat × BitVec 6 := if (x i).isNan then ((memByte tab 1).toNat, fNV) else tabEncode tab Dy.one (x i) (pick i)
        laneFlags n (BitVec.allOnes 32) (fun i => (code i).2) fl ∧
        (∀ j, j < 32 → lane 8 v j = if q.toNat * n ≤ j ∧ j < q.toNat * n + n then (code (j - q.toNat * n)).1 else lane 8 (s.o d) j) ∧
        WritesO (.venc d a l side q ft) 4 d v (withFlags (usedO s [(a, l)]) fl) s) ∧
    (isEngine s.at_ = false → sound → memByte tab 2 = 0 → ∀ i, i < n → (x i).isNan = true → (∀ j, j < i → (x j).isNan = false) →
      Traps (.venc d a l side q ft) (.plain 0x1B (BitVec.ofNat 64 (lane w (s.o a) i))) s)) ∧
  (
  ∀ (t : Memory) (s x : Dy) (pick : Bool), tabOk t = true → s.m ≠ 0 → s.neg = false →
    let r := tabEncode t s (.fin x) pick
    let q := ratOf x / ratOf s
    let n := (memByte t 0).toNat
    let v (i : Nat) : Machine.Num := ixFmt.decode (memNat t (16 + 4 * (memByte t (0x410 + i)).toNat) 4 % 2 ^ 19)
    ∃ i, i ≤ n ∧ r.1 = (memByte t (0x410 + i)).toNat ∧
      (∀ j y, j ≤ n → v j = .fin y → ∃ z, v i = .fin z ∧ |ratOf z - q| ≤ |ratOf y - q| ∧ (j ≠ i → |ratOf z - q| = |ratOf y - q| → i % 2 = 0)) ∧
      (r.2 &&& fNX = 0 ↔ ∃ z, v i = .fin z ∧ ratOf z = q) ∧
      (r.2 &&& fOF ≠ 0 ↔ v 0 = .inf false ∨ v n = .inf true ∨ (∃ z, v 0 = .fin z ∧ q < ratOf z) ∨ ∃ z, v n = .fin z ∧ ratOf z < q) ∧
      (r.2 &&& fPZ ≠ 0 ↔ x.m ≠ 0 ∧ ∃ z, v i = .fin z ∧ z.m = 0)) ∧
  (
  ∀ (bf : BlockFmt) (tab : Memory) (t : Int) (xs : List Machine.Num) (pick : Nat → Bool), xs.length = 32 →
    let size := if bf = .bs8 then 48 else 32
    let scaleAt := if bf = .bs8 then 32 else 16
    let code (b : List Byte) (i : Nat) : Nat := if bf = .bs8 then (b.getD i 0).toNat else (b.getD (i / 2) 0).toNat / (if i % 2 = 0 then 1 else 16) % 16
    let enc := encodeBlock bf tab t xs pick
    let block (b : List Byte) (fl : BitVec 6) (scale : Nat) : Prop :=
      enc = .block b fl ∧ b.length = size ∧ (b.getD scaleAt 0).toNat = scale ∧ ∀ i, scaleAt < i → b.getD i 0 = 0
    ((∃ x ∈ xs, x.isNan || x.isInf) → ∃ b, block b fNV 0xFF ∧ ∀ i, i < 32 → code b i = 0) ∧
    ((∀ x ∈ xs, x.isZero = true) → ∃ b, block b 0 0 ∧ ∀ i, i < 32 → code b i = 0) ∧
    ∀ d : Nat → Dy, (∀ i, i < 32 → xs[i]? = some (.fin (d i))) →
      let y (i : Nat) : ℚ := ratOf (d i) / 2 ^ t
      ∀ a top : ℚ, 0 < a → (∀ i, i < 32 → |y i| ≤ a) → (∃ i, i < 32 ∧ |y i| = a) → (bf = .bs4 → top = 6) →
        (bf = .bs8 → ∃ u w, tabV tab 0 = .fin u ∧ tabV tab (tabNord tab) = .fin w ∧ top = max |ratOf u| |ratOf w|) →
        (top = 0 → enc = .trap 0x1B 0) ∧
        (0 < top → 114688 < a / top → ∃ n : Int, enc = .trap 0x0A (BitVec.ofInt 64 n) ∧ 2 ^ n ≤ a / top ∧ a / top < 2 ^ (n + 1)) ∧
        (0 < top → a / top ≤ 114688 → ∃ c b fl, 1 ≤ c ∧ c ≤ 254 ∧ a / top ≤ ratOf (e5m3 c) ∧ (∀ k, 1 ≤ k → k ≤ 254 → a / top ≤ ratOf (e5m3 k) → ratOf (e5m3 c) ≤ ratOf (e5m3 k)) ∧
          block b fl c ∧
          (bf = .bs8 →
            let e (i : Nat) : Nat × BitVec 6 := tabEncode tab (e5m3 c) (.fin { d i with e := (d i).e - t }) (pick i)
            (∀ i, i < 32 → code b i = (e i).1) ∧ laneFlags 32 (BitVec.allOnes 32) (fun i => (e i).2) fl) ∧
          (bf = .bs4 →
            let m (j : Nat) : ℚ := ratOf (e2m1 (j % 8)) * ratOf (e5m3 c)
            (∀ i, i < 32 → let k := code b i
              (∀ j, j < 8 → abs (m k - abs (y i)) ≤ abs (m j - abs (y i)) ∧ (j ≠ k % 8 → abs (m k - abs (y i)) = abs (m j - abs (y i)) → k % 2 = 0)) ∧ (k % 8 = 0 → k = 0) ∧ (k % 8 ≠ 0 → (8 ≤ k ↔ y i < 0))) ∧
            (fl &&& fNX ≠ 0 ↔ ∃ i, i < 32 ∧ m (code b i) ≠ abs (y i)) ∧ (fl &&& fPZ ≠ 0 ↔ ∃ i, i < 32 ∧ code b i = 0 ∧ y i ≠ 0) ∧ fl &&& ~~~(fNX ||| fPZ) = 0)))

/-- `bld` and `bst` (R121). -/
def Obligations.BlockTransfers : Prop :=
  ∀ (s : State) (d : BitVec 3) (b : BitVec 5) (l side : BitVec 1) (ft : BitVec 2) (o : BitVec 8), ft = 0 ∨ ft = 1 → d = 0 ∨ d = 4 →
    let ea := (if b = 0 then s.pc else s.g b) + 16 * o.signExtend 64
    let size := if ft = 0 then 48 else 32
    let scaleAt := if ft = 0 then 32 else 16
    let tab := s.here.mx.tab[side.toNat]
    let elem (r : Nat → Byte) (i : Nat) : Machine.Num :=
      if ft = 0 then ixFmt.decode (memNat tab (16 + 4 * (r i).toNat) 4 % 2 ^ 19)
      else .fin (e2m1 (if i % 2 = 0 then (r (i / 2)).toNat % 16 else (r (i / 2)).toNat / 16))
    let value (r : Nat → Byte) (i : Nat) : Nat × BitVec 6 :=
      if r scaleAt = 0xFF then (fp32.cnan, 0) else (numMul (.fin (e5m3 (r scaleAt).toNat)) (elem r i)).to fp32 0
    let rec_ (i : Nat) : Byte := loadByte s b (ea.toNat + i)
    let pad := ∀ i, scaleAt < i → i < size → rec_ i = 0
    let src := [(d, l), (d + 1, l), (d + 2, l), (d + 3, l)]
    let sound := ft = 0 → s.here.mx.tabBad[side.toNat] = false
    let enc := encodeBlock (if ft = 0 then .bs8 else .bs4) tab (s.act.csr.tscl.setWidth 8 : BitVec 8).toInt
      ((List.range 32).map fun i => fp32.decode (lane 32 (s.o (d + BitVec.ofNat 3 (i / 8))) (i % 8))) (Config.midInf s.time.toNat)
    (isEngine s.at_ = true → Traps (.bld d b side ft o) (.plain 0x0E 0x25) s ∧ Traps (.bst d l b side ft o) (.plain 0x0E 0x25) s) ∧
    (isEngine s.at_ = false → ¬ sound → (LoadOk s b ea.toNat size 16 → pad → ∃ x, Traps (.bld d b side ft o) (.plain 0x13 x) s) ∧
      ∃ x, Traps (.bst d l b side ft o) (.plain 0x13 x) s) ∧
    (isEngine s.at_ = false → sound → LoadOk s b ea.toNat size 16 → pad → ∃ (v : Fin 4 → Strip) (fl : BitVec 6),
      laneFlags 32 (BitVec.allOnes 32) (fun i => (value rec_ i).2) fl ∧ (∀ (k : Fin 4) (j : Nat), j < 8 → lane 32 (v k) j = (value rec_ (8 * k.val + j)).1) ∧
      Does (.bld d b side ft o) 4 s
        ((((((loaded s b ea.toNat size).addFlags fl).setO d (v 0)).setO (d + 1) (v 1)).setO (d + 2) (v 2)).setO (d + 3) (v 3))) ∧
    (isEngine s.at_ = false → LoadOk s b ea.toNat size 16 → ¬ pad → Traps (.bld d b side ft o) (if b = 0 then .atSpace 0x0B ea 0 ea else .atNear 0x0B ea ea) s) ∧
    (isEngine s.at_ = false → sound → b ≠ 0 →
      (∀ c x, enc = .trap c x → Traps (.bst d l b side ft o) (.atNear c x ea) s) ∧
      (∀ r fl, enc = .block r fl → r.length = size ∧
        (NearOk s true ea.toNat size 16 → Does (.bst d l b side ft o) 4 s (((s.nearStore ea.toNat r).useO src).addFlags fl)) ∧
        (∀ t, NearFails s true ea size 16 t → Traps (.bst d l b side ft o) t s)))

/-- Operand slots claimed and released (R127, R130).

The data of operand slots (R126, R127, R131).

`qlnk` (R131): its begin, each word, and its end. -/
def Obligations.OperandSlots : Prop :=
  (
  ∀ (s : State) (q : BitVec 3) (d : BitVec 5), isEngine s.at_ = false →
    let x := s.q q
    let wrong (i : Instr) : Prop := ∃ v, Traps i (.plain 0x0D v) s
    (x.st = .free → Does (.qclaim q) 4 s (s.setQ q { x with st := .claimed, arr := [], bad := false })) ∧
    (x.st ≠ .free → wrong (.qclaim q)) ∧
    (x.st = .free → Does (.qtry q d) 4 s ((s.setQ q { x with st := .claimed, arr := [], bad := false }).setG d 1)) ∧
    (x.st ≠ .free → WritesG (.qtry q d) 4 d 0 s) ∧
    (x.st = .claimed ∨ x.st = .loaded → x.locks = 0 → Does (.qrel q) 4 s (s.setQ q { x with st := .free })) ∧
    (x.st = .free ∨ x.st = .filling ∨ x.locks ≠ 0 → wrong (.qrel q))) ∧
  (
  ∀ (s : State) (q o : BitVec 3) (a : BitVec 5) (l b : BitVec 1), isEngine s.at_ = false →
    let x := s.q q
    let ea := s.g a
    let open1 := (x.st = .claimed ∨ x.st = .loaded) ∧ x.locks = 0
    let wrong (i : Instr) : Prop := ∃ v, Traps i (.plain 0x0D v) s
    let mem (j : Nat) : Byte := s.here.mem.byte s.at_ s.key (ea.toNat + j)
    let read (n : Nat) : State := s.watch true false s.ten [(ea.toNat, n)]
    let raw := Instr.qld q a 0 0
    let blocks (bf : BitVec 2) (n size sc : Nat) : Prop :=
      let i := Instr.qld q a bf b
      let padded (r : Nat) : Prop := ∀ j, sc < j → j < size → mem (size * r + j) = 0
      ((∀ r, r < n → padded r) → ∃ m : Memory, Does i 4 s ((read (n * size)).setQ q { x with st := .loaded, arr := m }) ∧
        (memWf x.arr = true → (∀ r j, r < n → j < sc → memByte m (sc * r + j) = mem (size * r + j)) ∧ (∀ r, r < n → memByte m (8192 + r) = mem (size * r + sc)) ∧
          (∀ y, 8192 + n ≤ y → memByte m y = memByte x.arr y))) ∧
      (∀ r, r < n → (∀ r', r' < r → padded r') → ¬ padded r →
        Traps i (.atNear 0x0B (ea + BitVec.ofNat 64 (size * r)) (ea + BitVec.ofNat 64 (size * r))) s)
    (open1 → NearOk s false ea.toNat 8192 16 → ∃ m : Memory, Does raw 4 s ((read 8192).setQ q { x with st := .loaded, arr := m }) ∧
      (memWf x.arr = true → (∀ j, j < 8192 → memByte m j = mem j) ∧ (∀ y, 8192 ≤ y → memByte m y = memByte x.arr y))) ∧
    (open1 → ∀ t, NearFails s false ea 8192 16 t → Traps raw t s) ∧
    (open1 → NearOk s false ea.toNat 12288 16 → blocks 1 256 48 32) ∧
    (open1 → NearOk s false ea.toNat 16384 16 → blocks 2 512 32 16) ∧
    (open1 → ea.toNat ≤ 271 → ∃ m : Memory, Does (.qput q a o l) 4 s ((s.useO [(o, l)]).setQ q { x with st := .loaded, arr := m }) ∧
      (memWf x.arr = true → ∀ y, memByte m y = if 32 * ea.toNat ≤ y ∧ y < 32 * ea.toNat + 32 then byteOf (s.o o) (y - 32 * ea.toNat) else memByte x.arr y)) ∧
    (x.st = .claimed ∨ x.st = .loaded → ea.toNat ≤ 271 → ∃ v : Strip, WritesO (.qget q a o) 4 o v s.act.csr s ∧
      ∀ j, j < 32 → byteOf v j = memByte x.arr (32 * ea.toNat + j)) ∧
    (271 < ea.toNat → Traps (.qput q a o l) (.plain 0x0D ea) s ∧ Traps (.qget q a o) (.plain 0x0D ea) s) ∧
    (¬ open1 → wrong (.qld q a 0 0) ∧ wrong (.qld q a 1 b) ∧ wrong (.qld q a 2 b)) ∧
    (¬ open1 → ea.toNat ≤ 271 → wrong (.qput q a o l)) ∧
    (x.st = .free ∨ x.st = .filling → ea.toNat ≤ 271 → wrong (.qget q a o))) ∧
  (
  ∀ (s : State) (q : BitVec 3) (p : Fin 4) (w sc : BitVec 1), isEngine s.at_ = false →
    let x := s.q q
    let i := Instr.qlnk q (BitVec.ofNat 2 p.val) w sc
    let n := if sc = 1 then 271 else 255
    let l := s.here.links[p]
    let op : Fin 4 := if p = 0 then 1 else if p = 1 then 0 else if p = 2 then 3 else 2
    let lo := s.here.links[op]
    let state (x : Fin 4) : Trap := .plain 0x10 (BitVec.ofNat 64 (8 + x.val))
    let links (v : Vector Link 4) : State := { s with here := { s.here with links := v } }
    let takes (k : Nat) (v : Strip) (u : State) : Prop := ∃ m : Memory,
      (memWf x.arr = true → ∀ y, memByte m y = if 32 * k ≤ y ∧ y < 32 * k + 32 then byteOf v (y - 32 * k) else memByte x.arr y) ∧
      (k = n → Does i 4 s ((u.setQ q { x with st := .loaded, arr := m }).modAct fun a => { a with part := .none })) ∧
      (k ≠ n → exec i s = .next ((u.setQ q { x with st := .filling, arr := m }).modAct fun a => { a with part := .qlnk q.toFin (k + 1) }).issued)
    (s.act.part = .none → (x.st = .claimed ∨ x.st = .loaded) → x.locks = 0 →
      exec i s = .next ((s.setQ q { x with st := .filling }).modAct fun a => { a with part := .qlnk q.toFin 0 }).issued) ∧
    (s.act.part = .none → x.st = .free ∨ x.st = .filling ∨ x.locks ≠ 0 → ∃ v, Traps i (.plain 0x0D v) s) ∧
    (∀ k, s.act.part = .qlnk q.toFin k →
      (w = 0 → ∀ v rest, l.fifo = v :: rest → takes k v.val (links (s.here.links.set p { l with fifo := rest, owed := l.owed ++ [v.lease] }))) ∧
      (w = 0 → l.fifo = [] → s.linkLive p = true → Stalls i s) ∧
      (w = 0 → l.fifo = [] → s.linkLive p = false → Traps i (state p) s) ∧
      (w = 1 → s.linkLive op = false → Traps i (state op) s) ∧
      (w = 1 → s.linkLive op = true → l.fifo = [] → s.linkLive p = true → Stalls i s) ∧
      (w = 1 → s.linkLive op = true → l.fifo ≠ [] → lo.win.toNat ≤ lo.o → Stalls i s) ∧
      (w = 1 → s.linkLive op = true → lo.o < lo.win.toNat → ∀ v rest, l.fifo = v :: rest → takes k v.val
        (links ((s.here.links.set p { l with fifo := rest, owed := l.owed ++ [v.lease] }).set op
          { lo with out := lo.out ++ [{ val := v.val, lease := s.here.leaseNo }], o := lo.o + 1 })))))

/-- The accumulator instructions (R132, R136). -/
def Obligations.Accumulators : Prop :=
  ∀ (s : State) (o : BitVec 3) (l b v : BitVec 1) (r c : BitVec 7) (x y : BitVec 5) (k : BitVec 2), isEngine s.at_ = false →
    let before : Nat := match s.act.part with
      | .mx n => n
      | _ => s.here.mx.entered
    let busy (n : Nat) : Prop := ∃ m ∈ s.here.mx.queue, m.no < before ∧ (m.bank = 2 ∨ m.bank.toNat = n)
    let waits (i : Instr) : Prop := exec i s = .next ((s.modAct fun a => { a with part := .mx before }).stalled false)
    let bank := s.here.mx.acc[b.toNat]
    let last := if v = 0 then 120 else 60
    let place (row col : Word) : Nat := if v = 0 then 512 * row.toNat + 4 * col.toNat else 512 * row.toNat + 8 * col.toNat
    (∀ (row col : Word) (ld st : Instr),
      (ld = .accld o b v r c ∧ st = .accst o l b v r c ∧ row = r.setWidth 64 ∧ col = c.setWidth 64) ∨
      (ld = .accldReg o b v x y ∧ st = .accstReg o l b v x y ∧ row = s.g x ∧ col = s.g y) →
      (127 < row.toNat → Traps ld (.plain 0x0D row) s ∧ Traps st (.plain 0x0D row) s) ∧
      (row.toNat ≤ 127 → last < col.toNat → Traps ld (.plain 0x0D col) s ∧ Traps st (.plain 0x0D col) s) ∧
      (row.toNat ≤ 127 → col.toNat ≤ last → busy b.toNat → waits ld ∧ waits st) ∧
      (row.toNat ≤ 127 → col.toNat ≤ last → ¬ busy b.toNat →
        (∃ z : Strip, WritesO ld 4 o z s.act.csr s ∧ ∀ j, j < 32 → byteOf z j = memByte bank (place row col + j)) ∧
        (∃ m : Memory, Does st 4 s ((s.useO [(o, l)]).modMx fun z => { z with acc := z.acc.set b.toNat m }) ∧
          (memWf bank = true → ∀ a, memByte m a = if place row col ≤ a ∧ a < place row col + 32 then byteOf (s.o o) (a - place row col) else memByte bank a)))) ∧
    (k ≠ 3 → ((k = 2 ∨ k = 0) ∧ busy 0) ∨ ((k = 2 ∨ k = 1) ∧ busy 1) → waits (.acczero k)) ∧
    (k ≠ 3 → ¬ (((k = 2 ∨ k = 0) ∧ busy 0) ∨ ((k = 2 ∨ k = 1) ∧ busy 1)) → ∃ (z : Vector Memory 2) (e : Vector Bool 2),
      Does (.acczero k) 4 s (s.modMx fun m => { m with acc := z, accBad := e }) ∧
      z[0] = (if k = 1 then s.here.mx.acc[0] else []) ∧ z[1] = (if k = 0 then s.here.mx.acc[1] else []) ∧
      e[0] = (decide (k = 1) && s.here.mx.accBad[0]) ∧ e[1] = (decide (k = 0) && s.here.mx.accBad[1]))

/-- The checks of `mma` and `mxcmd` in their order (R133, R135).

`mma` and `mxcmd` past their checks (R123, R125, R133, R135, R191). -/
def Obligations.MatrixIssue : Prop :=
  (
  ∀ (s : State) (qa qb : BitVec 3) (k : BitVec 2) (h : BitVec 1) (ch : BitVec 8), isEngine s.at_ = false →
    let c := s.act.csr
    let f := c.fmt.toNat
    let own (p : BitVec 13) (q : BitVec 3) : BitVec 3 := if p.getLsbD 12 then p.extractLsb' 9 3 else q
    let slots := [qa, qb] ++ if 5 ≤ f then [own c.scla qa, own c.sclb qb] else []
    let shut (q : BitVec 3) : Prop := (s.q q).st = .free ∨ (s.q q).st = .filling
    let records := if f = 5 then 256 else 512
    let off (p : BitVec 13) : Nat := (p.extractLsb' 0 9).toNat
    let granted := s.here.regs.mcap.getLsbD f = true
    let shape := ¬ (((k = 2 ∨ h = 1) ∧ f ≠ 1) ∨ (h = 1 ∧ k = 2))
    let r := s.here.mx.rope
    let corner := r.getLsbD 0 = true ∧ r.extractLsb' 13 3 = 0 ∧ r.extractLsb' 10 3 = 0 ∧ s.here.regs.mcap.getLsbD 8 = true ∧
      xOf s.at_ + (r.extractLsb' 19 3).toNat ≤ 47 ∧ yOf s.at_ + (r.extractLsb' 16 3).toNat ≤ 31
    f ≤ 6 → k ≠ 3 →
    ∀ i, i = .mma qa qb k h ch ∨ i = .mxcmd qa qb k h ch →
      (¬ granted → Traps i (.plain 0x0E (c.fmt.setWidth 64)) s) ∧
      (granted → ¬ shape → Traps i (.plain 0x0E (c.fmt.setWidth 64)) s) ∧
      (granted → shape → ∀ q pre post, slots = pre ++ q :: post → (∀ x ∈ pre, ¬ shut x) → shut q → Traps i (.plain 0x0D (q.setWidth 64)) s) ∧
      (granted → shape → (∀ q ∈ slots, ¬ shut q) →
        (5 ≤ f → 512 < off c.scla + records → Traps i (.plain 0x0E (BitVec.ofNat 64 (off c.scla))) s) ∧
        (5 ≤ f → off c.scla + records ≤ 512 → 512 < off c.sclb + records → Traps i (.plain 0x0E (BitVec.ofNat 64 (off c.sclb))) s) ∧
        (f < 5 ∨ (off c.scla + records ≤ 512 ∧ off c.sclb + records ≤ 512) → i = .mxcmd qa qb k h ch → ¬ corner → Traps i (.plain 0x0E 0x100) s))) ∧
  (
  ∀ (s : State) (qa qb : BitVec 3) (k : BitVec 2) (h : BitVec 1) (ch : BitVec 8), isEngine s.at_ = false →
    let c := s.act.csr
    let cmd : MxCmd :=
      { qa := qa, qb := qb, bank := k, hi := decide (h = 1), ch := ch, fmt := c.fmt, scla := c.scla, sclb := c.sclb, tabA := s.here.mx.tab[0],
        tabB := s.here.mx.tab[1], cid := s.act.trig.cid, aseq := s.act.aseq, locked := true, started := false, arrived := s.time, no := s.here.mx.entered,
        badTab := decide (c.fmt = 4 ∨ c.fmt = 5) && (s.here.mx.tabBad[0] || s.here.mx.tabBad[1]) }
    let own (p : BitVec 13) (q : BitVec 3) : BitVec 3 := if p.getLsbD 12 then p.extractLsb' 9 3 else q
    let slots := [qa, qb] ++ if 5 ≤ c.fmt.toNat then [own c.scla qa, own c.sclb qb] else []
    let enters (i : Instr) (t : State) : Prop := ∃ q : Vector QSlot 8, Does i 4 s (t.modMx fun m => { m with q := q, queue := m.queue ++ [cmd], entered := m.entered + 1 }) ∧
      (∀ x : Fin 8, (BitVec.ofNat 3 x.val) ∉ slots → q[x] = t.here.mx.q[x]) ∧
      (∀ x : Fin 8, (BitVec.ofNat 3 x.val) ∈ slots → t.here.mx.q[x].locks < q[x].locks ∧ q[x] = { t.here.mx.q[x] with locks := q[x].locks })
    let full := 4 ≤ s.here.mx.queue.length
    let r := s.here.mx.rope
    let w := (r.extractLsb' 19 3).toNat + 1
    let n := w * ((r.extractLsb' 16 3).toNat + 1) - 1
    let mx := Instr.mxcmd qa qb k h ch
    let flit : Strip := flit4 (insnBits mx ||| (BitVec.ofNat 64 ((r.extractLsb' 19 3).toNat + 8 * (r.extractLsb' 16 3).toNat) <<< 32)) (c.fmt.setWidth 64) (c.scla.setWidth 64)
      (c.sclb.setWidth 64)
    let dests := ((rectangle s.at_ w ((r.extractLsb' 16 3).toNat + 1)).drop 1).map fun d => Send.uni d 3 13 0 [flit]
    let corner := r.getLsbD 0 = true ∧ r.extractLsb' 10 6 = 0 ∧ s.here.regs.mcap.getLsbD 8 = true ∧
      xOf s.at_ + (r.extractLsb' 19 3).toNat ≤ 47 ∧ yOf s.at_ + (r.extractLsb' 16 3).toNat ≤ 31
    s.mxCheck cmd = none →
      (full → Stalls (.mma qa qb k h ch) s) ∧ (¬ full → enters (.mma qa qb k h ch) s) ∧
      (corner →
        (∀ t, s.sendAll false dests = .ok t → (full → Stalls mx s) ∧ (¬ full → enters mx t)) ∧
        (∀ x, s.sendAll false dests = .trap x → Traps mx x s) ∧ (∀ x, s.sendAll false dests = .stall x → Stalls mx s) ∧
        (s.act.modeI = false → s.act.outbox.length + n ≤ 32 → s.act.outBytes + 48 * n ≤ 4096 → ∃ t, s.sendAll false dests = .ok t ∧
          ∃ out, t = s.setAct { s.act with outbox := s.act.outbox ++ out, sends := s.act.sends + n } ∧ out.length = n ∧
            ∀ j, j < n → ∃ d, dests[j]? = some d ∧ out[j]? = some { (s.item d false 1 .plain) with ord := s.act.sends + j })))

/-- The execution of matrix commands (R77, R123, R128, R133, R134, R135). When a waiting rope command takes its locks is the model's choice (log entry 55).

Rope command copies (R135, R191). -/
def Obligations.MatrixExecution : Prop :=
  (
  (∀ s : State, s.here.mx.queue = [] → exec .mmaCommandStart s = .next s ∧ exec .mmaCommandComplete s = .next s ∧ exec .ropeCommandTimeout s = .next s) ∧
  (∀ (s : State) (c : MxCmd) (rest : List MxCmd), s.here.mx.queue = c :: rest →
    let m := s.here.mx
    let gone (t : State) (stat : Nat) (fl : BitVec 4) : State :=
      let u := t.modMx fun m => { (if c.locked then m.unlock c.slots else m) with queue := rest }
      if c.ch = 0 then u
      else u.sendOwn s.at_ 2 c.ch c.cid [flit4 (BitVec.ofNat 64 (stat * 65536 + fl.toNat * 256 + c.bank.toNat)) 0 0 0]
    let w := if c.fmt = 1 then 8 else 4
    let cols := if c.fmt = 1 then 64 else 128
    let elem (b : Memory) (j0 i j : Nat) : Nat × BitVec 6 :=
      (mxTerms c m.q[c.qa.toNat].arr m.q[c.qb.toNat].arr m.q[(scaleSlot c.scla c.qa).toNat].arr m.q[(scaleSlot c.sclb c.qb).toNat].arr i (j0 + j)).foldl
        (fun x step => match step with
          | some ts => (((exactSum (c.accFmt.decode x.1).exact ts).to c.accFmt 0).1, x.2 ||| ((exactSum (c.accFmt.decode x.1).exact ts).to c.accFmt 0).2)
          | none => (if x.1 = 0x80000000 then 0 else x.1, x.2))
        (memNat b (w * (cols * i + j)) w, 0)
    let flags (b : Memory) (j0 : Nat) (f : BitVec 4) : Prop :=
      ∀ x, x < 4 → (f.getLsbD x = true ↔ ∃ i j, i < 128 ∧ j < cols ∧ (elem b j0 i j).2.getLsbD (x + 2) = true)
    let holds (b b' : Memory) (j0 : Nat) : Prop := ∀ i j, i < 128 → j < cols → memNat b' (w * (cols * i + j)) w = (elem b j0 i j).1 % 2 ^ (8 * w)
    (c.started = false → c.locked = true → exec .mmaCommandStart s = .next (s.modMx fun m => { m with queue := { c with started := true } :: rest })) ∧
    (c.started = false → c.locked = false → (∀ q ∈ c.slots, (s.q q).st = .loaded) →
      exec .mmaCommandStart s = .next (s.modMx fun m => { m.lock c.slots with queue := { c with locked := true, started := true } :: rest })) ∧
    (c.started = true ∨ (c.locked = false ∧ ∃ q ∈ c.slots, (s.q q).st ≠ .loaded) → exec .mmaCommandStart s = .next s) ∧
    (c.started = false → exec .mmaCommandComplete s = .next s) ∧
    (c.started = true → s.mxBad c = true → ∃ t, exec .mmaCommandComplete s = .next t ∧ t.here.mx.acc = m.acc ∧ t.here.mx.mflg = m.mflg ∧ t.here.mx.queue = rest) ∧
    (c.started = true → s.mxBad c = false → c.bank.toNat < 2 → ∃ b' f, exec .mmaCommandComplete s =
        .next (gone (s.modMx fun m => { m with acc := m.acc.setIfInBounds c.bank.toNat b', mflg := m.mflg ||| ((f.setWidth 8 : BitVec 8) <<< (4 * c.bank.toNat)) }) 0 f) ∧
      holds (m.acc.toList.getD c.bank.toNat []) b' (if c.hi then 64 else 0) ∧ flags (m.acc.toList.getD c.bank.toNat []) (if c.hi then 64 else 0) f) ∧
    (c.started = true → s.mxBad c = false → c.bank = 2 → ∃ b0 b1 f0 f1, exec .mmaCommandComplete s =
        .next (gone (s.modMx fun m => { m with acc := #v[b0, b1], mflg := m.mflg ||| (f1 ++ f0) }) 0 (f0 ||| f1)) ∧
      holds m.acc[0] b0 0 ∧ flags m.acc[0] 0 f0 ∧ holds m.acc[1] b1 64 ∧ flags m.acc[1] 64 f1) ∧
    (c.started = false → s.mxReady c = false → 1048576 ≤ (s.time - c.arrived).toNat → exec .ropeCommandTimeout s = .next (gone s 0x0D 0)) ∧
    (c.started = true ∨ s.mxReady c = true ∨ (s.time - c.arrived).toNat < 1048576 → exec .ropeCommandTimeout s = .next s))) ∧
  (
  ∀ (s : State) (m : Msg) (t : State), TakesRouted s m t → s.eventFor m = .ropeCommandArrival → s.here.mx.queue.length < 4 →
    let r := t.here.mx.rope
    let c := t.ropeCommand m
    let refused : Prop := r.getLsbD 0 = false ∨ (m.dw 0).extractLsb' 32 6 ≠ BitVec.ofNat 6 (ropeW r + 8 * ropeH r) ∨
      t.here.regs.mcap.getLsbD c.fmt.toNat = false ∨ t.here.regs.mcap.getLsbD 8 = false ∨ m.ten ≠ t.here.regs.lessee ∨
      xOf t.at_ ≠ xOf m.src + (r.extractLsb' 13 3).toNat ∨ yOf t.at_ ≠ yOf m.src + (r.extractLsb' 10 3).toNat
    (refused → c.ch = 0 → Comes .ropeCommandArrival s (t.settle m)) ∧
    (refused → c.ch ≠ 0 → Comes .ropeCommandArrival s ((t.settle m).sendOwn t.at_ kReply c.ch c.cid [flit4 (mxWord 0x0E 0 c.bank) 0 0 0])) ∧
    (¬ refused → ∃ l : Bool, (l = true ↔ ∀ q ∈ c.slots, (t.q q).st = .loaded) ∧ Comes .ropeCommandArrival s ((t.mxEnqueue { c with locked := l }).settle m)) ∧
    (∀ a b k h ch, decodeParts ((m.dw 0).extractLsb' 0 32) = .ok (.insn (.mxcmd a b k h ch)) →
      c.qa = a ∧ c.qb = b ∧ c.bank = k ∧ c.ch = ch ∧ c.cid = m.cid ∧ c.fmt = (m.dw 1).extractLsb' 0 4 ∧ c.scla = (m.dw 2).extractLsb' 0 13 ∧
      c.sclb = (m.dw 3).extractLsb' 0 13))

/-- The issue checks of `dxrun` (R137, R143).

`dxld` (R138 to R140, R146). -/
def Obligations.TransducerIssue : Prop :=
  (
  ∀ (s : State) (x f : BitVec 1) (d a : BitVec 5), isEngine s.at_ = false →
    let tb := s.g a
    let i := Instr.dxrun x d a f
    let byte (j : Nat) : Byte := s.here.mem.byte s.at_ s.key (tb.toNat + j)
    let topo := s.here.mx.dx[x.toNat]
    (s.here.mx.dxUnit ≠ none → Stalls i s) ∧
    let sound := s.here.mx.dxBad[x.toNat] = false
    (s.here.mx.dxUnit = none → ∀ t, NearFails s false tb 128 16 t → Traps i t s) ∧
    (s.here.mx.dxUnit = none → NearOk s false tb.toNat 128 16 → ¬ sound → ∃ v, Traps i (.plain 0x13 v) s) ∧
    (s.here.mx.dxUnit = none → sound → NearOk s false tb.toNat 128 16 → ∃ dm : Memory, (∀ j, memByte dm j = if j < 128 then byte j else 0) ∧
      let fields (l : Nat) : Prop := descOk dm l = true
      let ranges (l : Nat) : List (Nat × Nat) := descInputs tb.toNat dm topo l ++ [descOutput tb.toNat dm topo l]
      let inside (l : Nat) : Prop := ∀ r ∈ ranges l, r.1 + r.2 ≤ nearEnd s.at_
      let granules (l : Nat) : Prop := ∀ r ∈ ranges l, r.2 ≠ 0 → ∀ g, r.1 / 16 ≤ g → g ≤ (r.1 + r.2 - 1) / 16 → GranuleOk s false r.1 r.2 g
      let ok (l : Nat) : Prop := descEn dm l = true → fields l ∧ inside l ∧ granules l
      ((∀ l, l < 8 → ok l) → exec i s = .next ((((s.watch true false s.ten [(tb.toNat, 128)]).modMx fun m => { m with
          dxUnit := some { slot := s.slot, rd := d, flag := decide (f = 1), tb := tb.toNat, desc := dm, topo := topo, input := none } }).modAct
            fun act => { act with part := .dx }).issued)) ∧
      (∀ l, l < 8 → (∀ k, k < l → ok k) → descEn dm l = true →
        (¬ fields l → ∃ fa, Traps i (.atNear 0x1B (BitVec.ofNat 64 (tb.toNat + 16 * l)) fa) s) ∧
        (fields l → ¬ inside l → ∃ fa, Traps i (.atNear 0x0C (BitVec.ofNat 64 (nearEnd s.at_)) fa) s) ∧
        (fields l → inside l → ¬ granules l → ∃ c v fa, (c = 0x13 ∨ c = 0x04) ∧ Traps i (.atNear c v fa) s)))) ∧
  (
  ∀ (s : State) (x : BitVec 1) (a : BitVec 5) (o : BitVec 10) (hd : BitVec 128), isEngine s.at_ = false →
    let ea := (if a = 0 then s.pc else s.g a) + 16 * o.signExtend 64
    let b (j : Nat) : Nat := (loadByte s a (ea.toNat + j)).toNat
    let i := Instr.dxld x a o
    let states := (hd.extractLsb' 0 6).toNat + 1
    let iw := 2 ^ (hd.extractLsb' 12 2).toNat
    let ow := 2 ^ (hd.extractLsb' 14 2).toNat
    let sb := if hd.getLsbD 16 then 2 * iw else iw
    let nt := states * 2 ^ sb
    let len := (0x110 + 2 * nt + 15) / 16 * 16
    let headOk := hd.extractLsb' 18 110 = 0 ∧ sb ≤ 8 ∧ nt ≤ 1024 ∧ (hd.extractLsb' 6 6).toNat < states
    let transOk (k : Nat) : Prop :=
      let e := b (0x110 + 2 * k) + 256 * b (0x111 + 2 * k)
      if e < 0x8000 then e = 0 else e % 256 < 2 ^ ow ∧ (e / 0x4000 % 2 = 0 → e % 256 = 0) ∧ e / 256 % 64 < states
    let endOk (k : Nat) : Prop :=
      let d0 := b (0x10 + 4 * k)
      let d1 := b (0x11 + 4 * k)
      let top := b (0x13 + 4 * k)
      if top < 128 then d0 = 0 ∧ d1 = 0 ∧ b (0x12 + 4 * k) = 0 ∧ top = 0
      else k < states ∧ top / 32 % 4 ≠ 3 ∧ top % 32 = 0 ∧ d0 < 2 ^ ow ∧ d1 < 2 ^ ow ∧ (top / 32 % 4 = 0 → d0 = 0) ∧ (top / 32 % 4 ≠ 2 → d1 = 0)
    let bodyOk := (∀ k, k < nt → transOk k) ∧ ∀ k, k < 64 → endOk k
    let decode : Trap := if a = 0 then .atSpace 0x1B ea 0 ea else .atNear 0x1B ea ea
    LoadOk s a ea.toNat 16 16 → (∀ j, j < 16 → byteOf hd j = loadByte s a (ea.toNat + j)) →
      (¬ headOk → Traps i decode s) ∧
      (headOk → LoadOk s a ea.toNat len 16 → ¬ bodyOk → Traps i decode s) ∧
      (headOk → LoadOk s a ea.toNat len 16 → bodyOk → ∃ r : Memory, Does i 4 s ((loaded s a ea.toNat len).modMx fun m => { m with dx := m.dx.set x.toNat r, dxBad := m.dxBad.set x.toNat false }) ∧
        ∀ y, memByte r y = if y < len then loadByte s a (ea.toNat + y) else 0))

/-- The read phase and the write phase of a run (R143 to R145).

A lane's run and its output string (R141, R143). -/
def Obligations.TransducerPhases : Prop :=
  (
  (∀ s : State, s.here.mx.dxUnit = none → exec .dxrunReadPhase s = .next s ∧ exec .dxrunWritePhase s = .next s) ∧
  (∀ (s : State) (r : DxRun), s.here.mx.dxUnit = some r →
    let u : State := { s with slot := r.slot }
    let en (l : Nat) : Prop := l < 8 ∧ descEn r.desc l = true
    (r.input = none → exec .dxrunWritePhase s = .next s) ∧ (r.input ≠ none → exec .dxrunReadPhase s = .next s) ∧
    (u.spent = true → exec .dxrunReadPhase s = .next s ∧ exec .dxrunWritePhase s = .next s) ∧
    (u.spent = false → r.input = none → ∃ m t, exec .dxrunReadPhase s = .next t ∧ t.here.mx = { s.here.mx with dxUnit := some { r with input := some m } } ∧ t.here.mem = s.here.mem ∧
      t.here.acts = s.here.acts ∧ ∀ l, en l → ∀ p ∈ descInputs r.tb r.desc r.topo l, ∀ y, p.1 ≤ y → y < p.1 + p.2 → memByte m y = s.here.mem.byte s.at_ u.key y) ∧
    (∀ m, r.input = some m → u.spent = false →
      let off (l p : Nat) : Prop := en l ∧ r.lane m l = .off p
      (r.flag = false → ∀ l p, off l p → (∀ k q, k < l → ¬ off k q) →
        ∃ fa, exec .dxrunWritePhase s = .next (u.trap (.atNear 0x09 (BitVec.ofNat 64 (l * 0x10000 + p)) fa))) ∧
      (r.flag = true ∨ (∀ l p, ¬ off l p) → ∃ (mask : Word) (mem : LocalMem) (noted : List (Nat × List Byte)), (u.act.paired = false → noted = u.act.stores) ∧
        (∀ l, mask.getLsbD l = true ↔ ∃ p, off l p) ∧
        exec .dxrunWritePhase s = .next ((((((({ u with here := { u.here with mem := mem } }).modAct fun act => { act with stores := noted }).watch false true u.ten
          ((r.stores (((List.range 8).filter (descEn r.desc)).map fun l => (l, r.lane m l))).map fun (p : Nat × List Byte) => (p.1, p.2.length))).modMx
            fun x => { x with dxUnit := none }).modAct fun act => { act with part := .none }).setG r.rd mask).retire 4) ∧
        (memWf s.here.mem.bytes = true →
          let word1 (l : Nat) : Nat := r.tb + 16 * l + 8
          let status (l : Nat) : Word := match r.lane m l with
            | .off _ => (0x8_0000#20) ++ (descWord r.desc l 1).extractLsb' 0 32 |>.setWidth 64
            | .done ds res => ((BitVec.ofNat 20 (ds.length * 256 + res)) ++ (descWord r.desc l 1).extractLsb' 0 32 : BitVec 52).setWidth 64
          let out (l : Nat) : List Byte := match r.lane m l with
            | .off _ => []
            | .done ds _ => outBytes r.topo ds
          let isStatus (y : Nat) : Prop := ∃ l, en l ∧ word1 l ≤ y ∧ y < word1 l + 8
          let isOut (l y : Nat) : Prop := en l ∧ descAddr r.tb r.desc l 36 ≤ y ∧ y < descAddr r.tb r.desc l 36 + (out l).length
          (∀ l j, en l → j < 8 → zeroBits (descWord r.desc l 1) 52 12 = true → mem.byte s.at_ u.key (word1 l + j) = byteOf (status l) j) ∧
          (∀ l y, isOut l y → (∀ k, l < k → ¬ isOut k y) → ¬ isStatus y → mem.byte s.at_ u.key y = (out l).getD (y - descAddr r.tb r.desc l 36) 0) ∧
          (∀ y, ¬ isStatus y → (∀ l, ¬ isOut l y) → mem.byte s.at_ u.key y = s.here.mem.byte s.at_ u.key y)))))) ∧
  (
  (∀ (r : DxRun) (m : Memory) (l : Nat),
    let t := r.topo
    let n := descNdig r.desc l
    let w := topoIw t
    let digit (a p : Nat) : Nat := memNat m a (w * p / 8 + 1) / 2 ^ (w * p) % 2 ^ w
    let at1 (j : Nat) : Nat := if topoMsd t then n - 1 - j else j
    let sym (j : Nat) : Nat := digit (descAddr r.tb r.desc l 0) (at1 j) + if topoTr2 t then digit (descAddr r.tb r.desc l 18) (at1 j) * 2 ^ w else 0
    let e (st j : Nat) : Nat := topoTrans t (st * 2 ^ topoSb t + sym j)
    let path (k : Nat) (st : Nat → Nat) : Prop := st 0 = topoStart t ∧ ∀ j, j < k → 0x8000 ≤ e (st j) j ∧ st (j + 1) = e (st j) j / 256 % 64
    match r.lane m l with
    | .off p => (∃ st, p < n ∧ path p st ∧ e (st p) p < 0x8000) ∨ (p = 0xFFFF ∧ ∃ st, path n st ∧ topoEnd t (st n) < 2 ^ 31)
    | .done out res => ∃ st, path n st ∧ 2 ^ 31 ≤ topoEnd t (st n) ∧ res = topoEnd t (st n) / 2 ^ 16 % 256 ∧
        out = ((List.range n).filterMap fun j => if e (st j) j / 0x4000 % 2 = 1 then some (e (st j) j % 256) else none) ++
          (if topoEnd t (st n) / 2 ^ 29 % 4 = 0 then [] else if topoEnd t (st n) / 2 ^ 29 % 4 = 2 then [topoEnd t (st n) % 256, topoEnd t (st n) / 256 % 256]
            else [topoEnd t (st n) % 256])) ∧
  (∀ (t : Memory) (ds : List Nat),
    let w := topoOw t
    (outBytes t ds).length = (ds.length * w + 7) / 8 ∧ leNat (outBytes t ds) < 2 ^ (w * ds.length) ∧
    ∀ j, j < ds.length → leNat (outBytes t ds) / 2 ^ (w * (if topoMsd t then ds.length - 1 - j else j)) % 2 ^ w = ds.getD j 0 % 2 ^ w))

/-- `chk` and `chke` (R302, R309).

`chkg` (R309). -/
def Obligations.BoundsAndOwnerChecks : Prop :=
  (
  (∀ (s : State) (r : BitVec 10),
    let bounds (v : Word) : Trap := .plain 0x03 v
    let persistent (lo hi : Int) : Prop := ((s.g 11).toNat : Int) ≤ lo ∧ hi ≤ (s.g 11).toNat + s.act.plen.toNat
    let entry (k : Nat) : Word := memBits s.here.imem (s.act.img.base.toNat + s.act.img.rto.toNat + 8 * k) 8 64
    let inEntry (k : Nat) (lo hi : Int) : Prop := (((entry k).extractLsb' 0 18).toNat : Int) ≤ lo ∧ hi ≤ ((entry k).extractLsb' 32 19).toNat
    let n := s.act.img.nreg.toNat
    let named (lo hi : Int) : Prop := if r = 1022 then persistent lo hi else if r = 1023 then (∃ k, k < n ∧ inEntry k lo hi) ∨ persistent lo hi else inEntry r.toNat lo hi
    let checks (i : Instr) : Prop :=
      (∀ t, s.insnAt (s.pc + 4) = .error t → Traps i t s) ∧
      (∀ j, s.insnAt (s.pc + 4) = .ok j →
        (s.nearRange j = none → Traps i (bounds (s.pc + 4)) s) ∧
        (∀ lo hi, s.nearRange j = some (lo, hi) →
          (r.toNat < 1022 → n ≤ r.toNat → Traps i (bounds (r.setWidth 64)) s) ∧
          (1022 ≤ r.toNat ∨ r.toNat < n → named lo hi → PassesBy i 4 s) ∧
          (1022 ≤ r.toNat ∨ r.toNat < n → ¬ named lo hi → Traps i (bounds (BitVec.ofInt 64 lo)) s)))
    checks (.chk r) ∧ (s.here.regs.audit = true → checks (.chke r)) ∧ (s.here.regs.audit = false → PassesBy (.chke r) 4 s)) ∧
  (∀ (s : State) (d a b : BitVec 5) (o12 : BitVec 12) (v : BitVec 5) (c : BitVec 3) (l sd x : BitVec 1) (o8 : BitVec 8) (o10 : BitVec 10),
    let range (base : BitVec 5) (off : Int) (n : Nat) : Option (Int × Int) := if base = 0 then none else some ((s.g base).toNat + off, (s.g base).toNat + off + n)
    (∀ q ∈ [(Instr.ldb d b o12, 1), (.ldbu d b o12, 1), (.stb d b o12, 1), (.ldh d b o12, 2), (.ldhu d b o12, 2), (.sth d b o12, 2), (.ldw d b o12, 4), (.ldwu d b o12, 4),
        (.stw d b o12, 4), (.ldd d b o12, 8), (.std d b o12, 8), (.vld v b o12, 32), (.vst v b o12, 32), (.vldh v b o12, 16), (.vsth v b o12, 16), (.ldp d b o12, 16),
        (.stp d b o12, 16), (.tmld c b o12, 32)], s.nearRange (.insn q.1) = range b o12.toInt q.2) ∧
    s.nearRange (.copy b a d o10) = range b (16 * o10.toInt) 32 ∧
    s.nearRange (.insn (.dtld b sd o8)) = range b (16 * o8.toInt) 1296 ∧
    s.nearRange (.insn (.bld c b sd 0 o8)) = range b (16 * o8.toInt) 48 ∧ s.nearRange (.insn (.bld c b sd 1 o8)) = range b (16 * o8.toInt) 32 ∧
    s.nearRange (.insn (.bst c l b sd 0 o8)) = range b (16 * o8.toInt) 48 ∧ s.nearRange (.insn (.bst c l b sd 1 o8)) = range b (16 * o8.toInt) 32 ∧
    s.nearRange (.insn (.dxld x b o10)) = range b (16 * o10.toInt) 2320 ∧
    s.nearRange (.insn (.qld c b 0 0)) = range b 0 8192 ∧ s.nearRange (.insn (.qld c b 1 sd)) = range b 0 (256 * 48) ∧
    s.nearRange (.insn (.qld c b 2 sd)) = range b 0 (512 * 32) ∧
    s.nearRange (.insn (.add d a b)) = none ∧ s.nearRange (.insn .nop) = none)) ∧
  (
  ∀ (s : State) (a : BitVec 5), s.act.part = .none →
    let i := Instr.chkg a
    let ten : BitVec 12 := if s.classS then (s.g a).extractLsb' 0 12 else s.here.regs.lessee
    let mine := s.act.trig.ten
    let find (r : BitVec 8 × Word × Nat) : Option RptEntry := plbFind s.here.live.plb mine r.1 r.2.1.toNat
    let there (r : BitVec 8 × Word × Nat) : Prop := ∃ e, find r = some e ∧ e.mov = false
    let fits (r : BitVec 8 × Word × Nat) : Prop := ∃ e, find r = some e ∧ e.owner = ten ∧ r.2.1.toNat + r.2.2 ≤ e.base.toNat + e.len.toNat
    let tag (r : BitVec 8 × Word × Nat) : Option (Fin 16) := tagFor s.here.net.tags (s.act.trig.cid.extractLsb' 4 12) r.1 r.2.1
    (s.classS = false → a ≠ 0 → Traps i (.plain 0x0E (a.setWidth 64)) s) ∧
    (s.classS = true ∨ a = 0 →
      (∀ t, s.insnAt (s.pc + 4) = .error t → Traps i t s) ∧
      (∀ j, s.insnAt (s.pc + 4) = .ok j → s.globRanges j = none → Traps i (.plain 0x03 (s.pc + 4)) s) ∧
      (∀ j rs, s.insnAt (s.pc + 4) = .ok j → s.globRanges j = some rs →
        ((∀ r ∈ rs, there r ∧ fits r) → PassesBy i 4 s) ∧
        (∀ pre r post, rs = pre ++ r :: post → (∀ x ∈ pre, there x ∧ fits x) →
          (there r → ¬ fits r → Traps i (.plain 0x03 r.2.1) s) ∧
          (¬ there r → tag r = none → (∀ k : Fin 16, s.here.net.tags[k] ≠ none) → Stalls i s) ∧
          (¬ there r → (tag r ≠ none ∨ ∃ k : Fin 16, s.here.net.tags[k] = none) → ∃ (k : Fin 16) (t : State), exec i s = .next t ∧ t.here.tried[s.slot] = true ∧
            t.act = { s.act with part := .chk k r.1 r.2.1 r.2.2 false } ∧ t.here.mem = s.here.mem ∧
            ∃ e, t.here.net.tags[k] = some e ∧ e.ten = s.act.trig.cid.extractLsb' 4 12 ∧ e.space = r.1 ∧ pageOf e.off = pageOf r.2.1)))) ∧
    (∀ (p : BitVec 1) (z : BitVec 2) (b : BitVec 5) (l x r : BitVec 1) (ch : BitVec 8), let sp := s.space p
      s.globRanges (.insn (.gld l z a b p ch x)) = some [(sp, s.g a, 2 ^ z.toNat)] ∧ s.globRanges (.insn (.gst l z a b p)) = some [(sp, s.g a, 2 ^ z.toNat)] ∧
      s.globRanges (.insn (.aadd r l p a b ch)) = some [(sp, s.g a, 8)] ∧ s.globRanges (.insn (.acas r l p a b ch)) = some [(sp, s.g a, 8)] ∧
      s.globRanges (.insn .nop) = none))

/-- `cpy` (R229, R230). -/
def Obligations.CopyInstruction : Prop :=
  ∀ (s : State) (a b e : BitVec 5) (o : BitVec 10) (blk : Strip), NotJoined s →
    let pb := (if a = 0 then s.pc else s.g a) + 16 * o.signExtend 64
    let i := Instr.cpy a b e o
    let src := (blk.extractLsb' 0 64).toNat
    let dst := (blk.extractLsb' 64 64).toNat
    let len := (blk.extractLsb' 128 32).toNat
    let bf := blk.extractLsb' 162 2
    let ch := (blk.extractLsb' 192 8).toNat
    let ok := blk.extractLsb' 164 28 = 0 ∧ blk.extractLsb' 219 37 = 0 ∧ len ≠ 0 ∧ len % 16 = 0 ∧ src % 16 = 0 ∧ dst % 16 = 0 ∧
      (ch = 0 ∨ (16 ≤ ch ∧ ch ≤ 247) ∨ ch = 250) ∧ (bf = 1 ∨ bf = 3 → len % 48 = 0) ∧ (bf = 2 → len % 32 = 0) ∧
      (blk.getLsbD 200 = true → (blk.extractLsb' 201 18).toNat + 16 ≤ nearEnd s.at_)
    let gsb : BitVec 8 := if s.slot = 3 ∨ isEngine s.at_ = true then 0xFF else s.here.regs.gsb
    let kick : Strip := flit4 (((s.g b).extractLsb' 0 32).setWidth 64 ||| ((s.act.img.kslot.setWidth 64 : Word) <<< 32) ||| ((s.here.regs.gsa.setWidth 64 : Word) <<< 40) |||
      ((gsb.setWidth 64 : Word) <<< 48)) (s.act.trig.cid.setWidth 64) 0 0
    (∀ t, (if a = 0 then ImemFails s pb 32 16 t else NearFails s false pb 32 16 t) → Traps i t s) ∧
    (LoadOk s a pb.toNat 32 16 → (∀ j, j < 32 → byteOf blk j = loadByte s a (pb.toNat + j)) →
      (¬ ok → Traps i (if a = 0 then .atImem 0x0C pb pb else .atNear 0x0C pb pb) s) ∧
      (ok → SendsAfter i 4 (.uni (s.standIn (copyEngine (pkgOf s.at_) (dieOf s.at_) e.toNat)) 3 9 0 [blk, kick]) true .plain s (loaded s a pb.toNat 32)))

/-- The instructions of MO 0x2B (R343).

Watchpoints (R338, R344): what a near access of the acting core does besides its own effect. -/
def Obligations.WatchingInstructions : Prop :=
  (
  ∀ (s : State) (a b d : BitVec 5) (n : BitVec 10),
    let x := s.g a
    let y := s.g b
    let u := s.here.dbg
    let dbg (v : Debug) : State := { s with here := { s.here with dbg := v } }
    let bad : Trap := .plain 0x0E x
    let k : Fin 8 := (n.extractLsb' 0 3).toFin
    let q : Fin 4 := (n.extractLsb' 0 2).toFin
    let lo := (x.extractLsb' 0 18).toNat
    let hi := (x.extractLsb' 20 18).toNat
    let wp := x.extractLsb' 38 26 = 0 ∧ x.extractLsb' 18 2 = 0 ∧ lo % 8 = 0 ∧ hi % 8 = 0 ∧ lo < hi ∧ y.extractLsb' 20 44 = 0 ∧ y.extractLsb' 3 5 = 0
    let bp := x.extractLsb' 19 45 = 0 ∧ x.getLsbD 0 = false ∧ (x.getLsbD 18 = true → ∃ j, s.here.images[(x.extractLsb' 15 3).toNat]? = some (some j) ∧ (x.extractLsb' 0 15).toNat < j.xlen.toNat)
    let c : CoreAddr := x.extractLsb' 0 29
    let x1 := xOf c + (x.extractLsb' 29 6).toNat
    let y1 := yOf c + (x.extractLsb' 35 5).toNat
    let grp := x.extractLsb' 57 7 = 0 ∧ isCompute s.at_ = true ∧ pkgOf c = pkgOf s.at_ ∧ dieOf c = dieOf s.at_ ∧ x1 ≤ 47 ∧ y1 ≤ 31 ∧
      xOf c ≤ xOf s.at_ ∧ xOf s.at_ ≤ x1 ∧ yOf c ≤ yOf s.at_ ∧ yOf s.at_ ≤ y1
    (s.act.entry.getLsbD 60 = false → PassesBy (.dmark a n) 4 s) ∧
    (s.act.entry.getLsbD 60 = true → Does (.dmark a n) 4 s (s.trace 4 n x)) ∧
    (s.classS = false →
      ∀ i ∈ [(Instr.wpset a b n, (1 : Word)), (.wpclr n, 2), (.bpset a n, 3), (.dgrp a, 4), (.dstop, 5), (.dstat d n, 6)], Traps i.1 (.plain 0x0E i.2) s) ∧
    (s.classS = true →
      (wp → Does (.wpset a b n) 4 s (dbg { u with wp := u.wp.set k (x, y), wph := u.wph &&& ~~~(1#8 <<< k.val) })) ∧ (¬ wp → Traps (.wpset a b n) bad s) ∧
      Does (.wpclr n) 4 s (dbg { u with wp := u.wp.set k (0, 0), wph := u.wph &&& ~~~(1#8 <<< k.val) }) ∧
      (bp → Does (.bpset a n) 4 s (dbg { u with bp := u.bp.set q x, bph := u.bph &&& ~~~(1#4 <<< q.val) })) ∧ (¬ bp → Traps (.bpset a n) bad s) ∧
      (grp → x.getLsbD 56 = true ∨ u.held = none → Does (.dgrp a) 4 s (dbg { u with group := x })) ∧
      (grp → x.getLsbD 56 = false → ∃ t, Does (.dgrp a) 4 s t ∧ t.here.dbg.group = x ∧ t.here.dbg.held = none ∧ t.here.mem = s.here.mem) ∧ (¬ grp → Traps (.dgrp a) bad s) ∧
      Does .dstop 4 s (s.trigger 4) ∧
      (∃ v : Word, (q = 0 → WritesG (.dstat d n) 4 d v s) ∧ v.extractLsb' 48 16 = u.hits ∧ v.extractLsb' 16 32 = 0 ∧ v.extractLsb' 12 4 = u.bph ∧ v.extractLsb' 4 8 = u.wph ∧
        v.getLsbD 3 = u.group.getLsbD 56 ∧ (v.extractLsb' 1 2).toNat = (match u.held with | some h => h.val | none => 0) ∧ v.getLsbD 0 = u.stopping) ∧
      (∃ v : Word, (q = 1 → WritesG (.dstat d n) 4 d v s) ∧ v.extractLsb' 48 16 = u.skid ∧ v.extractLsb' 32 16 = u.group.extractLsb' 40 16 ∧ v.extractLsb' 29 3 = u.cause ∧
        v.extractLsb' 0 29 = s.at_) ∧
      (q = 2 → WritesG (.dstat d n) 4 d u.digest s) ∧ (q = 3 → WritesG (.dstat d n) 4 d u.count s))) ∧
  (
  ∀ (s : State) (rd wr : Bool) (ten : BitVec 12) (ranges : List (Nat × Nat)),
    let d := s.here.dbg
    let hit (i : Fin 8) : Prop := d.wp[i].2.getLsbD 0 = true ∧ ((rd = true ∧ d.wp[i].2.getLsbD 1 = true) ∨ (wr = true ∧ d.wp[i].2.getLsbD 2 = true)) ∧
      (d.wp[i].2.extractLsb' 8 12 = 0 ∨ d.wp[i].2.extractLsb' 8 12 = ten) ∧
      ∃ r ∈ ranges, (d.wp[i].1.extractLsb' 0 18).toNat < r.1 + r.2 ∧ r.1 < (d.wp[i].1.extractLsb' 20 18).toNat
    let t := s.watch rd wr ten ranges
    let marks : Debug := { d with wph := t.here.dbg.wph, hits := t.here.dbg.hits }
    ((∀ i, ¬ hit i) → t = s) ∧
    ((∃ i, hit i) → t.here.dbg = marks ∧ (∀ i : Fin 8, t.here.dbg.wph.getLsbD i.val = true ↔ hit i ∨ d.wph.getLsbD i.val = true) ∧
      (t.here.dbg.hits.toNat = if d.stopping then min (d.hits.toNat + 1) 0xFFFF else d.hits.toNat) ∧ t.here.mem = s.here.mem ∧ t.here.acts = s.here.acts ∧
      (d.group.getLsbD 56 = false ∨ d.stopping = true → t = { s with here := { s.here with dbg := marks } }) ∧
      (d.group.getLsbD 56 = true → d.stopping = false →
        t = (rectangle (d.group.extractLsb' 0 29) ((d.group.extractLsb' 29 6).toNat + 1) ((d.group.extractLsb' 35 5).toNat + 1)).foldl
          (fun s c => s.sendOwn c 3 3 0 [flit4 s.time (((d.group.extractLsb' 40 16).setWidth 64 <<< 40) ||| (1 <<< 29) ||| s.at_.setWidth 64) 0 0])
          { s with here := { s.here with dbg := marks } })))

/-- The requests of MO 0x29 (R291).

`ajoin` and `apitch` (R281, R291). -/
def Obligations.AscentInstructions : Prop :=
  (
  ∀ (s : State) (a b : BitVec 5) (act : BitVec 2) (c : BitVec 8),
    let w := s.g a
    let jn := s.act.csr.asid.getLsbD 32
    let flit (op act : Nat) (cookie : Word) : Strip := flit4 (BitVec.ofNat 64 op ||| (BitVec.ofNat 64 act <<< 8) ||| ((c.setWidth 64 : Word) <<< 16)) w cookie (s.at_.setWidth 64)
    let asks (i : Instr) (keeper : CoreAddr) (op act : Nat) (cookie : Word) : Prop :=
      SendsPart i 4 (.uni keeper 3 12 0 [flit op act cookie]) jn (if jn then 3 else 1) .plain s s
    let rch := (w.extractLsb' 16 8).toNat
    let beginOk := w.extractLsb' 56 8 = 0 ∧ w.extractLsb' 24 8 = 0 ∧ 16 ≤ rch ∧ rch ≤ 247
    let aid := w.extractLsb' 22 42 = 0 ∧ w.extractLsb' 0 16 ≠ 0
    let home := s.standIn (keeperAt (pkgOf s.at_) (w.extractLsb' 19 3).toNat (w.extractLsb' 16 3).toNat)
    (beginOk → asks (.abegin a b c) (s.standIn (homeKeeper (pkgOf s.at_) (w.extractLsb' 0 16).toNat)) 2 0 (s.g b)) ∧
    (¬ beginOk → Traps (.abegin a b c) (.plain 0x11 w) s) ∧
    (aid → asks (.asummit a c) home 3 0 0 ∧ asks (.aretreat a c) home 4 0 0 ∧ asks (.aresume a act c) home 5 act.toNat 0 ∧ asks (.astat a c) home 6 0 0) ∧
    (¬ aid → ∀ i ∈ [Instr.asummit a c, .aretreat a c, .aresume a act c, .astat a c], Traps i (.plain 0x11 w) s)) ∧
  (
  ∀ (s : State) (a v : BitVec 5) (c : BitVec 8),
    let w := s.g a
    let x := s.act.csr.asid
    let nst := (x.extractLsb' 33 3).toNat
    let aid := w.extractLsb' 22 42 = 0 ∧ w.extractLsb' 0 16 ≠ 0
    let may := aid ∧ s.act.modeI = false ∧ s.classS = false ∧ x.getLsbD 36 = false ∧ (x.getLsbD 32 = true → x.extractLsb' 0 32 = w.extractLsb' 0 32)
    let i := Instr.apitch a v c
    let spot := w.extractLsb' 29 35 = 0 ∧ isCompute (w.extractLsb' 0 29) = true ∧ pkgOf (w.extractLsb' 0 29) = pkgOf s.at_
    let it := s.item (.uni (s.standIn (localKeeper s.at_)) 3 12 0 [s.anchorFlit (w.extractLsb' 0 29) c, s.v v]) true 2 .plain
    (may → ∃ y : Word, Leaves (.ajoin a) 4 s.act.regs { s.act.csr with asid := y } s ∧ y.extractLsb' 0 32 = w.extractLsb' 0 32 ∧ y.getLsbD 32 = true ∧
      y.extractLsb' 33 31 = x.extractLsb' 33 31) ∧
    (¬ may → Traps (.ajoin a) (.plain 0x11 w) s) ∧
    (x.getLsbD 32 = false → Traps i (.plain 0x11 0) s) ∧
    (x.getLsbD 32 = true → nst = 4 → Traps i (.plain 0x11 4) s) ∧
    (x.getLsbD 32 = true → nst ≠ 4 → ¬ spot → Traps i (.plain 0x0C w) s) ∧
    (x.getLsbD 32 = true → nst ≠ 4 → spot → s.act.modeI = false →
      (32 ≤ s.act.outbox.length ∨ 4096 < s.act.outBytes + 80 → Traps i (.plain 0x07 (BitVec.ofNat 64 s.act.outbox.length)) s) ∧
      (s.act.outbox.length < 32 → s.act.outBytes + 80 ≤ 4096 → nst < 4 → ∃ y : Word,
        exec i s = .next ((s.setAct { s.act with outbox := s.act.outbox ++ [it], sends := s.act.sends + 1, csr := { s.act.csr with asid := y } }).retire 4).issued ∧
        (y.extractLsb' 33 3).toNat = nst + 1 ∧ ∀ k, k < 33 ∨ 36 ≤ k → y.getLsbD k = x.getLsbD k)))

/-- `hset`, `pset`, `winw`, `keyset`, `imgrev` and the class check of MO 0x2A (R311, R314, R316 to R318).

`imgld` and `imgev` (R312, R313).

`lease` (R251, R252, R319). The bytes by which a save area holds a state are free (log entry 30). -/
def Obligations.SystemInstructions : Prop :=
  (
  (∀ (s : State) (a b d : BitVec 5) (n : BitVec 10), s.classS = false →
    ∀ q ∈ [(Instr.imgld a d n, (0 : Word)), (.imgrev a, 1), (.hset a n, 2), (.pset a b n, 3), (.winw a b n, 4), (.keyset a n, 5), (.lease a b, 6), (.imgev d n, 7)],
      Traps q.1 (.plain 0x0E q.2) s) ∧
  (∀ (s : State) (a b : BitVec 5) (n : BitVec 10), s.classS = true →
    let e := s.g a
    let f := s.g b
    let bad (v : Word) : Trap := .plain 0x0E v
    let lives (l : Lessee) : State := { s with here := { s.here with live := l } }
    let ch : BitVec 8 := n.extractLsb' 0 8
    let sys := ch.toNat < 16 ∨ (248 ≤ ch.toNat ∧ ch.toNat < 252)
    let entryOk := e.extractLsb' 0 15 = 0 ∧ e.extractLsb' 32 16 ≠ 0 ∧ (e.extractLsb' 54 3 = 7 → e.getLsbD 57 = true) ∧
      (e.getLsbD 59 = true → e.getLsbD 58 = false ∧ xOf s.at_ < 47) ∧ (sys ∨ isEngine s.at_ = true → e.getLsbD 57 = true) ∧
      (e.getLsbD 63 = true → ∃ i, s.here.images[(e.extractLsb' 29 3).toNat]? = some (some i) ∧ ¬ (i.cls = 0 ∧ e.getLsbD 57 = true))
    let regionOk := e.toNat % 16 = 0 ∧ f ≠ 0 ∧ f.toNat % 16 = 0 ∧ e.toNat + f.toNat ≤ 0x40000
    let wend := ((f ++ e).extractLsb' 18 19).toNat
    let winOk := e.extractLsb' 37 27 = 0 ∧ f.extractLsb' 4 32 = 0 ∧ f.extractLsb' 40 12 = 0 ∧ wend ≤ 0x40000 ∧ (f.getLsbD 39 = true → (e.extractLsb' 0 18).toNat < wend)
    let ten : BitVec 12 := e.extractLsb' 0 12
    let k : BitVec 4 := n.extractLsb' 0 4
    let part := s.home.partOf s.at_
    (entryOk → ∃ l, Does (.hset a n) 4 s (lives l) ∧ l = { s.here.live with handlers := l.handlers } ∧
      ∀ c : Nat, (look l.handlers c).getD noEntry = if c = ch.toNat then e else (look s.here.live.handlers c).getD noEntry) ∧
    (¬ entryOk → Traps (.hset a n) (bad e) s) ∧
    (regionOk → ∃ l, Does (.pset a b n) 4 s (lives l) ∧ l = { s.here.live with pregs := l.pregs } ∧
      ∀ c : Nat, look l.pregs c = if c = n.toNat then some (e.setWidth 18, f.setWidth 19) else look s.here.live.pregs c) ∧
    (¬ regionOk → Traps (.pset a b n) (bad e) s) ∧
    (winOk → Does (.winw a b n) 4 s { s with here := { s.here with windows := s.here.windows.set (n.extractLsb' 0 3).toNat (f ++ e) (by omega) } }) ∧
    (¬ winOk → Traps (.winw a b n) (bad (n.setWidth 64)) s) ∧
    (ten ≠ 0 → k ≠ 0 → Does (.keyset a n) 4 s { s with here := { s.here with regs := { s.here.regs with
      keys := s.here.regs.keys.set k.toNat (some { ptn := BitVec.ofNat 4 part, epoch := (s.home.part part).epoch, ten := ten, slot := k }) } } }) ∧
    (ten = 0 ∨ k = 0 → Traps (.keyset a n) (bad (n.setWidth 64)) s) ∧
    SendsOne (.imgrev a) 4 (.uni (s.standIn (supervisor0 (pkgOf s.at_) 0)) 3 5 0 [flit4 ((e.extractLsb' 0 32).setWidth 64 ||| (if e.getLsbD 32 then 1 <<< 32 else 0)) 1 0 0])
      false .plain s)) ∧
  (
  ∀ (s : State) (a d : BitVec 5) (n : Fin 8), s.classS = true →
    let x := s.g a
    let i := Instr.imgld a d (BitVec.ofNat 10 n.val)
    let h := s.here.mem.read s.at_ KeyId.system x.toNat 64
    let staged := s.here.mem.read s.at_ KeyId.system x.toNat (imageBytes h)
    let status (v : Word) : Prop := WritesG i 4 d v s
    let used := (∃ k : Fin 4, s.here.acts[k].busy = true ∧ s.here.acts[k].entry.extractLsb' 29 3 = BitVec.ofNat 3 n.val) ∨
      ∃ p ∈ s.here.live.handlers, p.2.getLsbD 63 = true ∧ p.2.extractLsb' 29 3 = BitVec.ofNat 3 n.val
    let ev := Instr.imgev d (BitVec.ofNat 10 n.val)
    ((∀ img, s.act.part ≠ .igt img) → (∀ t, s.stagedCheck x 64 = some t → Traps i t s) ∧
    (s.stagedCheck x 64 = none →
      (headOk h = false → status 1) ∧ (headOk h = true → s.mayLoad h = false → status 5) ∧
      (headOk h = true → s.mayLoad h = true → (∀ t, s.stagedCheck x (imageBytes h) = some t → Traps i t s) ∧
        (s.stagedCheck x (imageBytes h) = none → (macOk staged = false → status 1) ∧
          (macOk staged = true → exec i s = .next ((s.modAct fun v => { v with part := .igt staged }).stalled true)))))) ∧
    (∀ img, s.act.part = .igt img → headOk img = true →
      let id := headId img
      let e := s.home.igtEntry id
      let known := e.getLsbD 63 = true ∧ e.extractLsb' 0 32 = id ∧ e.extractLsb' 32 16 = headGen img
      let len := headXlen img;
      (¬ known → status 2) ∧ (known → s.here.images[n] ≠ none → status 3) ∧
      (known → s.here.images[n] = none → s.here.spans len = [] → status 4) ∧
      (known → s.here.images[n] = none → s.here.spans len ≠ [] → ∃ (b : Nat) (c : Core), b ∈ s.here.spans len ∧
            Does i 4 s (({ s with here := c, free := s.free + 1 }).setG d 0) ∧
            c = { s.here with imem := c.imem, xmap := c.xmap, imemBad := c.imemBad, images := s.here.images.set n (some (entryOf img b s.here.imgOrder)), imgOrder := c.imgOrder } ∧
            (memWf s.here.imem = true → ∀ y, memByte c.imem y = if b ≤ y ∧ y < b + len then img.getD (64 + (y - b)) 0 else memByte s.here.imem y) ∧
            ∀ k, k < 16384 → c.xmap.getLsbD k = if b / 2 ≤ k ∧ k < (b + len) / 2 then (img.getD (64 + len + (k - b / 2) / 8) 0).getLsbD ((k - b / 2) % 8)
              else s.here.xmap.getLsbD k)) ∧
    (used → WritesG ev 4 d 1 s) ∧
    (¬ used → s.here.images[n] = none → WritesG ev 4 d 0 s) ∧
    (¬ used → ∀ j, s.here.images[n] = some j → ∃ m : BitVec 16384, Does ev 4 s (({ s with here := { s.here with images := s.here.images.set n none, xmap := m } }).setG d 0) ∧
      (j.base.toNat % 2 = 0 → j.xlen.toNat % 2 = 0 → j.base.toNat + j.xlen.toNat ≤ 32768 →
        ∀ k, k < 16384 → m.getLsbD k = (s.here.xmap.getLsbD k && !(decide (j.base.toNat / 2 ≤ k) && decide (k < (j.base.toNat + j.xlen.toNat) / 2)))))) ∧
  (
  ∀ (s : State) (a b : BitVec 5), s.classS = true →
    let w := s.g b
    let p := s.g a
    let i := Instr.lease a b
    let area (v : BitVec 18) : Prop := v.toNat % 64 = 0 ∧ ∃ e ∈ s.home.rpt, e.space = 0xFF ∧ e.kind = 0 ∧ e.loc.extractLsb' 18 29 = s.at_ ∧
      (e.loc.extractLsb' 0 18).toNat ≤ v.toNat ∧ v.toNat + 6144 ≤ (e.loc.extractLsb' 0 18).toNat + e.len.toNat
    let wordOk := w.extractLsb' 18 14 = 0 ∧ w.extractLsb' 50 14 = 0 ∧ area (w.extractLsb' 0 18) ∧ (w.extractLsb' 32 18 = 0 ∨ area (w.extractLsb' 32 18))
    let inside := p.toNat + 128 ≤ nearEnd s.at_
    let r := recOfBytes (s.here.mem.read s.at_ KeyId.system p.toNat 128)
    let bad : Trap := .plain 0x0E w
    let ten : BitVec 12 := r[0].extractLsb' 0 12
    let saved (serial : Nat) : List Byte := (List.range 6144).map (Config.saveByte serial)
    (¬ wordOk ∨ ¬ inside → Traps i bad s) ∧
    (wordOk → inside → s.stagedCheck p 128 = none →
      (recOk r = false → Traps i bad s) ∧
      (recOk r = true → s.quiescent = false → Stalls i s) ∧
      (recOk r = true → s.quiescent = true → s.act.part ≠ .lease → ∃ t, exec i s = .next t ∧ t.act.pc = s.pc ∧ t.act.part = .lease ∧ t.here.changing = true ∧
        t.here.mem = s.here.mem ∧ t.here.regs = s.here.regs ∧ t.here.mx = s.here.mx) ∧
      (recOk r = true → s.quiescent = true → s.act.part = .lease → ∃ u, Does i 4 s u ∧ u.here.regs.lessee = ten ∧ u.here.regs.mcap = r[3].extractLsb' 32 9 &&& 0x17F ∧
        u.here.regs.gsa = r[0].extractLsb' 16 8 ∧ u.here.regs.gsb = r[0].extractLsb' 24 8 ∧ u.here.regs.trapCore = recTrapCores r ∧ u.here.mx = Machine.Matrix.zero ∧
        (let from_ : BitVec 18 := w.extractLsb' 32 18
          let held := s.here.mem.read s.at_ KeyId.system from_.toNat 6144
          (from_ = 0 → u.here.live = Lessee.zero) ∧
          (from_ ≠ 0 → ∀ v, s.here.saved.find? (fun v => v.area == from_) = some v → held = saved v.serial → u.here.live = v.lessee)) ∧
        ({ ten := s.here.regs.lessee, area := w.extractLsb' 0 18, serial := s.free, lessee := s.here.live } : Saved) ∈ u.here.saved ∧ u.free = s.free + 1 ∧
        u.here.mem = s.here.mem.write s.at_ KeyId.system (w.extractLsb' 0 18).toNat (saved s.free) ∧ (∀ k : Fin 4, u.here.links[k] = Link.reset) ∧ u.here.imem = s.here.imem ∧ u.here.images = s.here.images ∧
        u.here.windows = s.here.windows ∧ u.here.changing = s.here.changing ∧ u.here.swapping = true)))

/-- The operations on one datum at their home (R203, R204, R207), in one step with their answer.

The parts of `put`, `putr` and `get` at their homes and the return of a `get` (R206). -/
def Obligations.RemoteOperations : Prop :=
  (
  ∀ (s : State) (m : Msg) (t : State), TakesRouted s m t → m.ch = 8 → m.kind = kSystem →
    let reply (v w : Word) (u : State) : State := if m.wants = true then u.sendOwn m.src kReply m.rch m.cid [flit4 v w 0 0] else u
    (m.op = 1 → ∀ p, t.place m .read false m.width = .ok p → ∃ v : Word,
      (m.sz.getLsbD 2 = false → v.toNat = leNat (t.readPlace m.width p)) ∧
      (m.sz.getLsbD 2 = true → v.toInt = (BitVec.ofNat (8 * m.width) (leNat (t.readPlace m.width p))).toInt) ∧
      Comes .remoteLoad s ((reply v (m.dw 2) (t.watchPlace true false m m.width p)).settle m)) ∧
    (m.op = 2 → ∀ p, t.place m .write true m.width = .ok p →
      Comes .remoteStore s (((t.writePlace (leBytes m.width (m.dw 1).toNat) p).watchPlace false true m m.width p).settle m)) ∧
    (0x10 ≤ m.op → m.op ≤ 0x1A → ∀ p, t.place m .atomic true 8 = .ok p → ∃ n : Word,
      let o : Word := BitVec.ofNat 64 (leNat (t.readPlace 8 p))
      let v := m.dw 1
      (m.op = 0x10 → n = o + v) ∧ (m.op = 0x11 → n = o &&& v) ∧ (m.op = 0x12 → n = o ||| v) ∧ (m.op = 0x13 → n = o ^^^ v) ∧
      (m.op = 0x14 → n.toInt = min o.toInt v.toInt) ∧ (m.op = 0x15 → n.toInt = max o.toInt v.toInt) ∧
      (m.op = 0x16 → n.toNat = min o.toNat v.toNat) ∧ (m.op = 0x17 → n.toNat = max o.toNat v.toNat) ∧
      (m.op = 0x18 → n = v) ∧ (m.op = 0x19 → n = if o = v then m.dw 2 else o) ∧
      (m.op = 0x1A → n = BitVec.ofNat 64 ((numAdd 0 (fp64.decode o.toNat) (fp64.decode v.toNat)).to fp64 0).1) ∧
      Comes .remoteAtomic s ((reply o (m.dw 3) ((t.writePlace (leBytes 8 n.toNat) p).watchPlace true true m 8 p)).settle m)) ∧
    (∀ c v,
      (m.op = 1 → t.place m .read false m.width = .error (c, v) → Comes .remoteLoad s (t.homeRefuse m c v)) ∧
      (m.op = 2 → t.place m .write true m.width = .error (c, v) → Comes .remoteStore s (t.homeRefuse m c v)) ∧
      (0x10 ≤ m.op → m.op ≤ 0x1A → t.place m .atomic true 8 = .error (c, v) → Comes .remoteAtomic s (t.homeRefuse m c v)))) ∧
  (
  (∀ (s : State) (m : Msg) (t : State), TakesRouted s m t → m.ch = 8 → m.kind = kSystem →
    let wrote (p : Place) : State := (t.writePlace m.data p).watchPlace false true m m.len p
    (m.op = 3 → ∀ p, t.place m .write true m.len = .ok p → Comes .remotePut s ((wrote p).settle m)) ∧
    (m.op = 4 → ∀ p, t.place m .write true m.len = .ok p →
      Comes .remotePutr s (((wrote p).sendOwn ((m.dw 3).extractLsb' 0 29) kCall m.rch m.cid [flit4 (m.dw 1) (BitVec.ofNat 64 m.len) 0 0]).settle m)) ∧
    (m.op = 5 → ∀ p, t.place m .read false m.len = .ok p →
      let bytes := t.readPlace m.len p
      Comes .remoteGet s (((List.range ((bytes.length + 223) / 224)).foldl (fun u i =>
        let c := (bytes.drop (224 * i)).take 224
        u.sendOwn m.src kSystem 8 m.cid (descFlit 6 0 m.rch c.length 0 (m.dw 2 + BitVec.ofNat 64 (224 * i)) (m.dw 3 + BitVec.ofNat 64 (224 * i)) :: flitsOf c))
        (t.watchPlace true false m m.len p)).settle m)) ∧
    (∀ c v,
      (m.op = 3 → t.place m .write true m.len = .error (c, v) → Comes .remotePut s (t.homeRefuse m c v)) ∧
      (m.op = 4 → t.place m .write true m.len = .error (c, v) → Comes .remotePutr s (t.homeRefuse m c v)) ∧
      (m.op = 5 → t.place m .read false m.len = .error (c, v) → Comes .remoteGet s (t.homeRefuse m c v))) ∧
    (m.op = 6 → isPoolAgent t.at_ = false → isCopyEngine t.at_ = false → ∀ g p,
      let asked (g : GetOp) (p : GetPart) : Bool := !(t.here.net.egress.any fun it => it.who == .getPart g.id p.near) && p.awaits m
      t.here.net.gets.find? (fun g => g.cid == m.cid && g.ch == m.rch && g.left.any (asked g)) = some g →
      g.left.find? (asked g) = some p →
      let q : GetPart := { p with got := p.got ++ [((m.dw 3 - p.off).toNat, m.data)] }
      let done (x : GetOp) : List GetPart := x.left.filter fun y => y.near != p.near
      let size := (q.got.map fun x => x.2.length).sum
      (size < p.len → Comes .getLanding s ((t.modGet g.id fun x => { x with left := mapFirst (asked g) (fun y => y.land m) x.left }).settle m)) ∧
      (p.len ≤ size → ∀ u, t.landBytes g.kslot p.near q.bytes = .ok u →
        Comes .getLanding s (((u.watch false true (cidTen g.cid) [(p.near, p.len)]).modGet g.id fun x => { x with left := done x }).settle m)) ∧
      (p.len ≤ size → ∀ c, t.landBytes g.kslot p.near q.bytes = .error c →
        Comes .getLanding s ((t.modGet g.id fun x => { x with left := done x, fails := x.fails ++ [(p.off, c)] }).settle m))) ∧
    (m.op = 6 → isPoolAgent t.at_ = true → Comes .messageArrival s (t.nack m cPlacement (m.dst.setWidth 64)))) ∧
  (∀ (s : State) (g : GetOp) (rest : List GetOp), takeFirst (fun x => x.left.isEmpty) s.here.net.gets = some (g, rest) → ∃ st : Word,
    (g.fails = [] → st = 0) ∧
    (g.fails ≠ [] → ∃ f ∈ g.fails, st = f.2.setWidth 64 ∧ ∀ x ∈ g.fails, f.1.toNat ≤ x.1.toNat) ∧
    Comes .getCompletion s ((s.modNet fun n => { n with gets := rest }).sendOwn s.at_ kCall g.ch g.cid [flit4 g.near (BitVec.ofNat 64 g.len) st 0])))

/-- Arrivals at a join or barrier record (R182 to R184). -/
def Obligations.JoinsAndBarriers : Prop :=
  ∀ (s : State) (m : Msg) (t : State), TakesRouted s m t →
    let arrival (i : Instr) (r amount : Nat) (kind : BitVec 1) (pay : List Byte) : Prop :=
      (∀ c v, t.record m r = .error (c, v) → Comes i s (t.homeRefuse m c v)) ∧
      (∀ key x, t.record m r = .ok (key, x) →
        let count := (x.extractLsb' 96 32).toNat
        let set (x : BitVec 128) (u : State) : State := u.homeWrite key r (leBytes 16 x.toNat)
        let bad : Prop := x.extractLsb' 64 32 ≠ 0 ∨ x.extractLsb' 2 25 ≠ 0 ∨ x.extractLsb' 0 1 ≠ kind
        (bad → Comes i s (t.nack m cBarrier (BitVec.ofNat 64 r))) ∧
        (¬ bad → count < amount → Comes i s ((set (x ||| 2) t).nack m cBarrier (BitVec.ofNat 64 r))) ∧
        (¬ bad → amount ≤ count → ∀ u : State,
          (kind = 0 → u = t) →
          (kind = 1 → ∃ k, t.homeCheck m.ten .write true m.paddr pay.length = .ok k ∧ u = (t.homeWrite k m.paddr pay).watch false true m.ten [(m.paddr, pay.length)]) →
          let left : BitVec 32 := BitVec.ofNat 32 (count - amount)
          let done := ((set (left ++ x.extractLsb' 0 96) u).watch true true m.ten [(r, 16)]).settle m
          (0 < amount → count = amount → Comes i s (done.sendOwn (x.extractLsb' 27 29) kCall (x.extractLsb' 56 8) m.cid
            [flit4 (BitVec.ofNat 64 r) (if x.getLsbD 1 = true then 1 else 0) 0 0])) ∧
          (amount = 0 ∨ count ≠ amount → Comes i s done)) ∧
        (¬ bad → amount ≤ count → kind = 1 → ∀ c v, t.homeCheck m.ten .write true m.paddr pay.length = .error (c, v) →
          Comes i s (t.homeRefuse m c (if c = cNackWin then BitVec.ofNat 64 r else v))))
    (m.ch = 8 → m.kind = kSystem → m.op = 0x20 → isPoolAgent t.at_ = false → arrival .remoteJdec m.paddr (m.dw 1).toNat 0 []) ∧
    (m.ch = 8 → m.kind = kSystem → m.op = 0x20 → isPoolAgent t.at_ = true → Comes .remoteJdec s (t.nack m cPlacement (m.dst.setWidth 64))) ∧
    (m.kind = kPut → m.ch ≠ 8 → m.isNack = false → m.ch.toNat < 252 → isPoolAgent t.at_ = false → ∀ r, t.barrier m = some r →
      arrival .messageArrival r (32 * m.pay.length) 1 m.bytes)

/-- Arrival (R154 to R156, R171). A quota refusal's value is free, channel-8 arrivals that name no operation are refused by the model's choice (log entry 58), and so is the place of the
vendor's handlers in a lessee's table (log entry 29).

Writes to the rings and returns from them (R155, R156, R236, R255).

Settlement (R177), NACKs at their source (R245), and what may leave the egress (R178, R179). -/
def Obligations.MessageOrder : Prop :=
  (
  ∀ (s : State) (m : Msg) (t : State), TakesRouted s m t → s.eventFor m = .messageArrival → m.ch ≠ 249 →
    let goes (u : State) : Prop := Comes .messageArrival s u
    let ring (copied : Bool) : State := t.modNet fun n => { n with
      rings := putD n.rings m.ten.toNat (n.ring m.ten ++ [{ msg := m, seq := n.arrSeq, written := false, early := false, copied := copied }]) [], arrSeq := n.arrSeq + 1 }
    let queued : State := (t.modNet fun n => { n.setQueue m.ch (n.queue m.ch ++ [{ msg := m, running := false, drops := 0, seq := n.arrSeq }]) with arrSeq := n.arrSeq + 1 }).settle m
    let copied (a : CoreAddr) (u : State) : State := u.modCore a fun c => { c with net := c.net.join { m with hdr := m.hdr ||| 4 } true }
    let fits : Prop := t.here.net.ringUse m.ten + (32 + 32 * m.pay.length) ≤ t.quota m.ten
    let entry : Word := (look t.here.live.handlers m.ch.toNat).getD 0x003F_0000_0000_0000
    let vendor : Prop := vendorChannel t.at_ m.ch = true ∧ look t.here.live.handlers m.ch.toNat = none
    let known : Prop := entry.getLsbD 63 = true ∨ vendor
    let role : Prop := isEngine t.at_ = true ∧ vendor ∧ t.here.live.chmask.getLsbD m.ch.toNat = false ∧ t.here.dbg.stopping = false ∧ t.here.net.queue m.ch = [] ∧
      ∀ r ∈ t.here.net.rings, ∀ e ∈ r.2, e.early = false → e.msg.ch ≠ m.ch
    let full : Prop := 4 ≤ (t.here.net.queue m.ch).length ∨ t.ringHas m.ch = true
    let lost : Prop := 252 ≤ m.ch.toNat ∨ m.ch = 8
    (isPoolAgent t.at_ = true → goes (t.nack m cPlacement (m.dst.setWidth 64))) ∧
    (isPoolAgent t.at_ = false → lost → goes (t.nack m cPlacement (m.ch.setWidth 64))) ∧
    (¬ lost → isPoolAgent t.at_ = false → m.kind ≠ kPut →
      (t.foreign m = true → fits → goes (ring false)) ∧
      (t.foreign m = true → ¬ fits → goes (t.quotaRefuse m)) ∧
      (t.foreign m = false → ¬ known → goes (t.nack m cPlacement (m.ch.setWidth 64))) ∧
      (t.foreign m = false → known → full → ¬ fits → goes (t.quotaRefuse m)) ∧
      (t.foreign m = false → role → goes ((t.settle m).modEng fun e => { e with reports := e.reports ++ [m] })) ∧
      (t.foreign m = false → known → ¬ role → t.twin m.ch = none → full → fits → goes (ring false)) ∧
      (t.foreign m = false → known → ¬ role → t.twin m.ch = none → ¬ full → goes queued) ∧
      (t.foreign m = false → known → ¬ role → ∀ a, t.twin m.ch = some a → (full → fits → goes (copied a (ring true))) ∧ (¬ full → goes (copied a queued)))) ∧
    (¬ lost → isPoolAgent t.at_ = false → m.kind = kPut → t.barrier m = none → t.refusal m = none →
      (∀ key, t.homeCheck m.ten .write true m.paddr m.bytes.length = .ok key →
        goes (((t.homeWrite key m.paddr m.bytes).watch false true m.ten [(m.paddr, m.bytes.length)]).accept m)) ∧
      (∀ c v, t.homeCheck m.ten .write true m.paddr m.bytes.length = .error (c, v) → goes (t.homeRefuse m c v)))) ∧
  (
  (∀ (s : State) (k : Nat) (e : SpillEntry), s.spillServed = true →
    s.here.net.rings.findSome? (fun r => (r.2.find? fun e => !e.written).map fun e => (r.1, e)) = some (k, e) →
    let t := s.modNet fun n => { n with
      rings := putD n.rings k (mapFirst (fun x => !x.written) (fun x => { x with written := true }) ((look n.rings k).getD [])) [] }
    (e.early = true → Comes .spill s t) ∧ (e.early = false → Comes .spill s (t.settle e.msg))) ∧
  (∀ s : State, s.spillServed = false → Comes .spill s s) ∧
  (∀ (s : State) (k : Nat) (e : SpillEntry), let ch : BitVec 8 := BitVec.ofNat 8 s.ev.idx
    (s.here.net.queue ch).length < 4 → s.here.swapping = false → s.returnable ch = some (k, e) →
    let t := s.modNet fun n => { n.setQueue ch (n.queue ch ++ [{ msg := e.msg, running := false, drops := 0, seq := e.seq }]) with
      rings := putD n.rings k (dropFirst (fun x => x == e) ((look n.rings k).getD [])) [] }
    let back (u : State) : Prop :=
      (u.quota e.msg.ten ≤ u.here.net.ringUse e.msg.ten → Comes .spillReturn s u) ∧
      (u.here.net.ringUse e.msg.ten < u.quota e.msg.ten →
        Comes .spillReturn s (u.modNet fun n => { n with quotaHit := n.quotaHit.filter (· != e.msg.ten.toNat) }))
    (e.copied = true ∨ t.twin e.msg.ch = none → back t) ∧
    (e.copied = false → ∀ a, t.twin e.msg.ch = some a → back (t.modCore a fun c => { c with net := c.net.join { e.msg with hdr := e.msg.hdr ||| 4 } true })))) ∧
  (
  (∀ (s : State) (a : Ack) (r : SentRec), (s.acks.filter fun a => a.src == s.at_ && a.dst == s.ev.src)[s.ev.idx]? = some a →
    s.here.net.sent.find? (fun r => r.dst == a.dst && r.pseq == a.pseq) = some r →
    let sent (l : List SentRec) : State := ({ s with acks := dropFirst (fun b => b == a) s.acks }).modNet fun n => { n with sent := l }
    let t := sent (dropFirst (fun r => r.dst == a.dst && r.pseq == a.pseq) s.here.net.sent)
    (a.nacked = false → (∀ id off, r.who ≠ .copyWrite id off) → Comes .settleAck s t) ∧
    (a.nacked = false → ∀ id off, r.who = .copyWrite id off → Comes .settleAck s (t.modPart id off fun p => { p with st := .done })) ∧
    (a.nacked = true → Comes .settleAck s (sent (mapFirst (fun r => r.dst == a.dst && r.pseq == a.pseq) (fun x => { x with done := true }) s.here.net.sent)))) ∧
  (∀ (s : State) (m : Msg) (t : State) (r : SentRec), Takes s m t → m.isNack = true →
    let hdr : BitVec 128 := (m.flit 0).extractLsb' 128 128
    let dst : CoreAddr := hdr.extractLsb' 99 29
    let q : BitVec 16 := hdr.extractLsb' 30 16
    let put : Prop := hdr.extractLsb' 24 2 = (1 : BitVec 2)
    t.here.net.sent.find? (fun x => x.dst == dst && x.pseq == q) = some r → r.who = .plain →
    let u := (t.modNet fun n => { n with sent := dropFirst (fun x => x.dst == dst && x.pseq == q) n.sent }).settle m
    (r.glob = true → Comes .nack s (u.asyncRecord (m.byte 0) r.cid m.src r.off false r.space (m.dw 1) r.org)) ∧
    (r.glob = false → put → Comes .nack s (u.asyncRecord (m.byte 0) r.cid m.src ((hdr.extractLsb' 6 18).setWidth 64) true 0 (m.dw 1) r.org)) ∧
    (r.glob = false → ¬ put → Comes .nack s (u.asyncRecord (m.byte 0) r.cid m.src 0 false 0 (m.dw 1) r.org))) ∧
  (∀ (s : State) (a b : OutItem) (d : CoreAddr) (k k' : BitVec 2) (ch ch' : BitVec 8) (pa pa' : BitVec 18) (pay pay' : List Strip),
    a.send = .uni d k ch pa pay → b.send = .uni d k' ch' pa' pay' → (∀ n, a.who ≠ .vote n) → (∀ n, b.who ≠ .vote n) →
    let free : Prop := s.here.net.unsettled d < 32768
    let early (x : OutItem) : Prop := x.l = true ∧ x.org.aseq ≠ 0 ∧ ∃ r ∈ s.here.net.sent, r.done = false ∧ r.org.aseq = x.org.aseq ∧ r.ord < x.ord
    (s.here.net.egress = [a] → free → ¬ early a →
      Comes .releaseSendLeave s ((s.emit1 d k ch pa pay a false a.e).modNet fun n => { n with egress := [] })) ∧
    (s.here.net.egress = [a, b] → ¬ free ∨ (early a ∧ b.org.aseq = a.org.aseq) → Comes .releaseSendLeave s s) ∧
    (s.here.net.egress = [a, b] → free → early a → b.org.aseq ≠ a.org.aseq → ¬ early b →
      Comes .releaseSendLeave s ((s.emit1 d k' ch' pa' pay' b false b.e).modNet fun n => { n with egress := [a] }))))

/-- Selection and dispatch (R28, R157); of a channel that is not paired and a message that is no twin's copy.

Ages (R158) and budgets (R42, R250). -/
def Obligations.Dispatch : Prop :=
  (
  (∀ (s : State) (ch c : BitVec 8), s.choose = some ch → (look s.here.net.queues c.toNat).isSome → s.runnable c = true →
    let last : BitVec 8 := s.here.live.rot.toList.getD (s.priority ch) 0
    let classS (c : BitVec 8) : Bool := (s.here.entry c).getLsbD 57
    s.runnable ch = true ∧ s.priority c ≤ s.priority ch ∧
    (s.priority c = s.priority ch → classS c = true → classS ch = true) ∧
    (s.priority c = s.priority ch → classS c = classS ch → (ch - last - 1).toNat ≤ (c - last - 1).toNat)) ∧
  (∀ s : State, s.choose = none → Comes .dispatch s s) ∧
  (∀ (s : State) (ch : BitVec 8) (q : QEntry) (i : Fin 4), s.choose = some ch → (s.here.net.queue ch).find? (fun e => !e.running) = some q →
    s.freeFor (s.here.entry ch) = some i → q.msg.dst = s.at_ → (s.here.entry ch).getLsbD 60 = false → (s.here.entry ch).getLsbD 59 = false →
    let e := s.here.entry ch
    let m := q.msg
    let p := s.priority ch
    ∃ a : Act,
      a.busy = true ∧ a.pc = (e.extractLsb' 14 15).setWidth 64 ∧ a.ch = ch ∧ a.trig = m ∧ a.entry = e ∧ a.t0 = s.here.cyc ∧ a.paired = false ∧ a.outbox = [] ∧ a.instret = 0 ∧
      a.aseq = (if s.here.seqNo = BitVec.allOnes 64 then 1 else s.here.seqNo + 1) ∧ some a.img = s.here.images[(e.extractLsb' 29 3).toFin] ∧
      a.csr.olive = 0xFF ∧ a.csr.fflg = 0 ∧ a.csr.lpcnt = 0 ∧
      (∀ r : Fin 32, a.regs.g[r] =
        if r = 1 then m.src.setWidth 64
        else if r = 2 then m.summary
        else if m.kind = kPut ∧ r = 3 then BitVec.ofNat 64 m.paddr
        else if m.kind = kPut ∧ r = 4 then BitVec.ofNat 64 (32 * m.flits)
        else if m.kind ≠ kPut ∧ 3 ≤ r.val ∧ r.val ≤ 10 then m.dw (r.val - 3)
        else if r = 11 then (s.here.region e).1.setWidth 64
        else if r = 12 then s.here.live.lpb
        else if r = 13 then BitVec.ofNat 64 (if isEngine s.at_ = true then engineNo s.at_ else flatOf s.at_)
        else if r = 14 then s.at_.setWidth 64 else 0) ∧
      (∀ r : Fin 32, a.regs.v[r] = if m.kind ≠ kPut ∧ 24 ≤ r.val then m.flit (r.val - 24) else 0) ∧
      (∀ r : Fin 8, a.regs.o[r] = 0) ∧ (∀ r : Fin 4, a.regs.k[r] = 0) ∧
      Comes .dispatch s { s with here := { s.here with
        acts := s.here.acts.set i a
        seqNo := a.aseq
        live := { s.here.live with rot := s.here.live.rot.setIfInBounds p ch, ages := drop1 s.here.live.ages ch.toNat }
        net := s.here.net.setQueue ch (if e.getLsbD 58 = true then dropFirst (fun x => !x.running) (s.here.net.queue ch)
          else mapFirst (fun x => !x.running) (fun x => { x with running := true }) (s.here.net.queue ch)) } })) ∧
  (
  (∀ s : State, ∃ ages : List (Nat × Age), ages.map (·.1) = s.here.live.ages.map (·.1) ∧ ages.map (·.2.count) = s.here.live.ages.map (·.2.count) ∧
    (∀ x ∈ ages, x.2.boost = min 6 (x.2.count.toNat / 65536)) ∧
    Comes .agePromotion s { s with here := { s.here with live := { s.here.live with ages := ages } } }) ∧
  (∀ (s : State) (ch : BitVec 8), let p := ((s.here.entry ch).extractLsb' 54 3).toNat
    (6 ≤ p → s.priority ch = p) ∧
    (p < 6 → look s.here.live.ages ch.toNat = none → s.priority ch = p) ∧
    (p < 6 → ∀ a, look s.here.live.ages ch.toNat = some a → s.priority ch = max p (min 6 (p + a.count.toNat / 65536)))) ∧
  (∀ s : State, s.act.busy = true → s.act.paired = false → s.here.dbg.held ≠ some s.slot →
    let b : BitVec 16 := s.act.entry.extractLsb' 32 16
    (64 * b.toNat ≤ s.acnt.toNat → Comes .budget s (s.trap (.plain 0x08 (b.setWidth 64)))) ∧
    (s.acnt.toNat < 64 * b.toNat → Comes .budget s s)))

/-- Resume packets (R198, R248); of the install, of an entry of KIND 0 to 2 at a core that holds no request or check; of the refusal, of a tag that holds one request that is neither a get nor an
engine's.

Fault records at a supervisor and page requests at the host link agent (R197, R247 to R249). That each record is answered by itself, and that a region is placed when an event says so,
is the model's (log entries 28 and 61). -/
def Obligations.Placements : Prop :=
  (
  (∀ (s : State) (m : Msg) (t : State), Takes s m t → m.ch = 11 → m.kind = kSystem →
    let u := t.settle m
    let e := RptEntry.ofFlit (m.flit 1)
    let cid : BitVec 16 := (m.dw 0).extractLsb' 16 16
    let idle : Prop := ∀ i : Fin 4, ∀ j a b c d, u.here.acts[i].part ≠ .chk j a b c d
    (m.byte 0 = 0 → e.kind ≠ 3 → idle → u.here.net.egress = [] → (∀ i : Fin 16, u.here.net.tags[i] = none) →
      (isEngine u.at_ = true ∨ cid.extractLsb' 4 12 = 0#12 ∨ cid.extractLsb' 4 12 = u.here.regs.lessee) →
      ∃ plb : List RptEntry, e ∈ plb ∧ (∀ x ∈ plb, x ≠ e → x ∈ u.here.live.plb ∧ (x.space ≠ e.space ∨ x.base ≠ e.base)) ∧
        (u.here.live.plb.length < 64 → ∀ x ∈ u.here.live.plb, x.space ≠ e.space ∨ x.base ≠ e.base → x ∈ plb) ∧
        (u.here.live.plb.length ≤ 64 → plb.length ≤ 64) ∧
        Comes .resumeInstall s { u with here := { u.here with live := { u.here.live with plb := plb } }, free := u.free + 1 }) ∧
    (m.byte 0 = 1 → idle → ∀ (i : Fin 16) (g : FaultTag) (x : OutItem) (r : GReq), i.val = ((m.dw 0).extractLsb' 8 4).toNat →
      u.here.net.tags[i] = some g → (∀ j : Fin 16, j ≠ i → u.here.net.tags[j] = none) → u.here.net.egress = [x] → x.tag = some i → x.send = .glob r → x.who = .plain →
      r.op ≠ 5 → r.off.toNat < g.off.toNat + g.len → g.off.toNat < r.off.toNat + r.len →
      Comes .resumeRefuse s ((((u.modNet fun n => { n with egress := [] }).asyncRecord cPlacement x.cid u.at_ r.off false r.space r.off x.org).flush).modNet
        fun n => { n with tags := n.tags.set i none })) ∧
    (m.byte 0 = 2 → u.here.holdsRegion e = true →
      Comes .plbShootdown s { u with here := { u.here with
        live := { u.here.live with plb := u.here.live.plb.filter fun x => !(x.space == e.space && x.base == e.base) }
        saved := u.here.saved.map fun v => { v with lessee := { v.lessee with plb := v.lessee.plb.filter fun x => !(x.space == e.space && x.base == e.base) } }
        net := { u.here.net with shoot := u.here.net.shoot ++ [(e, m.src)] } } }) ∧
    (m.byte 0 = 2 → u.here.holdsRegion e = false → Comes .plbShootdown s (u.sendOwn m.src kSystem 10 0 [faultFlit 5 0 0 e.space e.base u.at_ 0]))) ∧
  (∀ (s : State) (e : RptEntry) (d : CoreAddr) (rest : List (RptEntry × CoreAddr)), s.here.net.shoot = (e, d) :: rest →
    (∀ r ∈ s.here.net.sent, r.done = false → r.glob = true → r.space = e.space → e.holds r.off.toNat = false) →
    (∀ r ∈ s.here.net.egress, r.glob = true → r.space = e.space → e.holds r.off.toNat = false) →
    Comes .shootdownAck s ((s.modNet fun n => { n with shoot := rest }).sendOwn d kSystem 10 0 [faultFlit 5 0 0 e.space e.base s.at_ 0]))) ∧
  (
  (∀ (s : State) (m : Msg) (t : State), Takes s m t → s.eventFor m = .placementFaultRecord →
    let r := m.fault
    let u := (if s.ev.flag then t.placeRegion s.ev.region else t).settle m
    let goes (v : State) : Prop := Comes .placementFaultRecord s v
    let region := u.home.regionAt r.space r.off
    let keep := u.modEng fun e => { e with reports := e.reports ++ [m] }
    (r.kind = 1 ∨ r.kind = 2 → u.home.assisted r.ten 38 = false → r.ten ≠ 0 ∨ isCopyEngine r.req = false →
      (region = none → goes (u.resumePacket r.req 1 r.tag r.cid 0)) ∧
      (∀ e, region = some e → e.owner ≠ r.ten ∨ e.ok = false → goes (u.resumePacket r.req 1 r.tag r.cid 0)) ∧
      (∀ e, region = some e → e.owner = r.ten → e.ok = true → e.mov = false → ∃ rest : List CoreAddr,
        (∀ d ∈ rest, d ≠ r.req ∧ pkgOf d = pkgOf r.req ∧ dieOf d = dieOf r.req ∧ (u.core d).waitsFor r.ten e = true) ∧
        goes (rest.foldl (fun v d => v.resumePacket d 0 0 r.cid e.flit) (u.resumePacket r.req 0 0 r.cid e.flit))) ∧
      (∀ e, region = some e → e.owner = r.ten → e.ok = true → e.mov = true → goes keep)) ∧
    (r.kind = 1 ∨ r.kind = 2 → u.home.assisted r.ten 38 = true → ∀ i, i < 256 → (∀ p ∈ u.home.prg, p.index ≠ i) → (∀ j, j < i → ∃ p ∈ u.home.prg, p.index = j) →
      ∃ vf : Nat, (∀ f, u.home.vfOf r.ten = some f → vf = f.1) ∧
        goes (u.modHome fun k => { k with
          prg := k.prg ++ [{ index := i, cid := r.cid, space := r.space, off := r.off, len := r.len, tag := r.tag, req := r.req }]
          pageReqs := k.pageReqs ++ [{ vf := vf, last := true, index := i, addr := r.off &&& ~~~(0xFFF#64), space := r.space }] })) ∧
    (r.kind = 5 → goes (u.modHome fun k => { k with shots := (k.shots.map fun x =>
      if x.1 == r.space && x.2.1 == r.off then (x.1, x.2.1, dropFirst (· == r.req) x.2.2) else x).filter fun x => !x.2.2.isEmpty })) ∧
    (r.kind = 3 ∨ r.kind = 4 → goes keep)) ∧
  (∀ s : State,
    (s.home.prg.find? (fun p => p.index == s.ev.idx && decide (p.index < 256)) = none →
      Comes .prgResponse s (s.modHome fun k => { k with prgDropped := k.prgDropped + 1 })) ∧
    (∀ p, s.home.prg.find? (fun p => p.index == s.ev.idx && decide (p.index < 256)) = some p →
      let t := s.modHome fun k => match takeFirst (fun x : PrgEntry => x.index == 256) (k.prg.filter (· != p)) with
        | none => { k with prg := k.prg.filter (· != p) }
        | some (w, others) => { k with prg := others }.askHost { w with index := p.index }
      let region := t.home.regionAt p.space p.off
      let ten : BitVec 12 := p.cid.extractLsb' 4 12
      let goes (u : State) : Prop := Comes .prgResponse s u
      s.at_ = t.standIn (supervisorOf p.req) → ten ≠ 0 ∨ isCopyEngine p.req = false →
      (s.ev.n ≠ 0 → goes (t.resumePacket p.req 1 p.tag p.cid 0)) ∧
      (s.ev.n = 0 → region = none → goes (t.resumePacket p.req 1 p.tag p.cid 0)) ∧
      (s.ev.n = 0 → ∀ e, region = some e → e.owner ≠ ten ∨ e.ok = false → goes (t.resumePacket p.req 1 p.tag p.cid 0)) ∧
      (s.ev.n = 0 → ∀ e, region = some e → e.owner = ten → e.ok = true → e.mov = false → ∃ rest : List CoreAddr,
        (∀ d ∈ rest, d ≠ p.req ∧ pkgOf d = pkgOf p.req ∧ dieOf d = dieOf p.req ∧ (t.core d).waitsFor ten e = true) ∧
        goes (rest.foldl (fun v d => v.resumePacket d 0 0 p.cid e.flit) (t.resumePacket p.req 0 0 p.cid e.flit))) ∧
      (s.ev.n = 0 → ∀ e, region = some e → e.owner = ten → e.ok = true → e.mov = true → goes (t.modEng fun x => { x with
        reports := x.reports ++ [FaultRec.msg { kind := 1, tag := p.tag, cid := p.cid, space := p.space, off := p.off, req := p.req, len := p.len }] })))))

/-- Copy commands at their engine (R224, R231, R232). The layout of a kick's second flit is the model's (log entry 22), as is what a get of the engine names as its near address (log entry 15). -/
def Obligations.CopyEngines : Prop :=
  (∀ (s : State) (m : Msg) (t : State), TakesRouted s m t → s.eventFor m = .copyKick →
    let k := m.flit 1
    Comes .copyKick s ((t.settle m).modEng fun e => { e with copies := e.copies ++ [{
      id := e.copyNo, blk := m.flit 0, xid := k.extractLsb' 0 32, cid := m.cid, kslot := k.extractLsb' 32 4, gsa := k.extractLsb' 40 8, gsb := k.extractLsb' 48 8, issuer := m.src,
      started := false, parts := [], halted := false, fail := none }], copyNo := e.copyNo + 1 })) ∧
  (∀ (s : State) (c : CopyCmd) (rest : List CopyCmd), s.here.eng.copies = c :: rest → c.started = false →
    let n := blkLen c.blk
    let ten : BitVec 12 := c.cid.extractLsb' 4 12
    let side (second : Bool) : BitVec 8 × Nat :=
      if second = true then (if c.blk.getLsbD 161 = true then c.gsb else c.gsa, (blkDst c.blk).toNat) else (if c.blk.getLsbD 160 = true then c.gsb else c.gsa, (blkSrc c.blk).toNat)
    let at' (e : RptEntry) (sp : BitVec 8) (x : Nat) : Prop := e ∈ s.home.rpt ∧ e.space = sp ∧ e.base.toNat ≤ x ∧ x < e.base.toNat + e.len.toNat
    let owned (sp : BitVec 8) (x : Nat) : Prop := ∃ e, at' e sp x ∧ (e.owner = ten ∨ ten = 0)
    let inside (sp : BitVec 8) (x l : Nat) : Prop := ∃ e, at' e sp x ∧ x + l ≤ e.base.toNat + e.len.toNat ∧
      (e.kind = 1 → (x - e.base.toNat) / 4096 = (x + l - 1 - e.base.toNat) / 4096)
    (∀ f, s.home.copyCheck c = some f →
      Comes .copyCommandStart s (s.modEng fun e => { e with copies := { c with started := true, halted := true, fail := some f } :: rest })) ∧
    ((∀ b, (side b).2 + n ≤ 2 ^ 64) →
      (∀ cause unit a, s.home.copyCheck c = some (cause, unit, a) → cause = 0x0C ∧ ∃ b, unit = (if b = true then 2 else 1) ∧
        (b = true → ∀ x, x < n → owned (side false).1 ((side false).2 + x)) ∧
        (side b).2 ≤ a.toNat ∧ a.toNat < (side b).2 + n ∧ (∀ x, (side b).2 ≤ x → x < a.toNat → owned (side b).1 x) ∧
        ((∀ e, ¬ at' e (side b).1 a.toNat) ∨ ten ≠ 0 ∧ ∃ e, at' e (side b).1 a.toNat ∧ e.owner ≠ ten)) ∧
      (s.home.copyCheck c = none → ∀ b x, x < n → owned (side b).1 ((side b).2 + x))) ∧
    (s.home.copyCheck c = none → ∃ ps : List CopyPart,
      (∀ p ∈ ps, 1 ≤ p.len ∧ p.len ≤ 256 ∧ p.off + p.len ≤ n ∧
        ((blkSrc c.blk).toNat + p.off) / 4096 = ((blkSrc c.blk).toNat + p.off + p.len - 1) / 4096) ∧
      ps.Pairwise (fun p q => p.off + p.len ≤ q.off) ∧
      ((∀ b, (side b).2 + n ≤ 2 ^ 64) → (blkBf c.blk = 3 → n % 48 = 0) → (∀ x, x < n → ∃ p ∈ ps, p.off ≤ x ∧ x < p.off + p.len) ∧
        ∀ p ∈ ps, ∀ b, inside (side b).1 ((side b).2 + p.off) p.len) ∧
      Comes .copyCommandStart s (s.modEng fun e => { e with copies := { c with started := true, parts := ps } :: rest }).copyAdvance)) ∧
  (∀ (s : State) (m : Msg) (t : State), TakesRouted s m t → s.eventFor m = .getLanding → isPoolAgent t.at_ = false → isCopyEngine t.at_ = true →
    let id := (m.dw 2).toNat / 2 ^ 32
    let o := (m.dw 2).toNat % 2 ^ 32
    let landed (p : CopyPart) : CopyPart := if p.st = .reading ∧ p.off + p.data.length = o then
      { p with data := p.data ++ m.data, st := if p.len ≤ p.data.length + m.data.length then .toWrite else .reading } else p
    (∀ c ∈ t.here.eng.members, c.id ≠ id) →
    (∀ c rest, t.here.eng.copies = c :: rest → c.id = id →
      Comes .getLanding s (((t.modEng fun e => { e with copies := { c with parts := c.parts.map landed } :: rest }).settle m).copyAdvance)) ∧
    ((∀ c ∈ t.here.eng.copies, c.id ≠ id) → Comes .getLanding s ((t.settle m).copyAdvance))) ∧
  (∀ (s : State) (c : CopyCmd) (rest : List CopyCmd), s.here.eng.copies = c :: rest → c.started = true →
    (∀ p ∈ c.parts, p.st ≠ .reading ∧ p.st ≠ .writing ∧ (c.halted = true ∨ p.st = .done)) → (c.blk.extractLsb' 200 1 = (0 : BitVec 1)) →
    let ch : BitVec 8 := c.blk.extractLsb' 192 8
    let t := s.modEng fun e => { e with copies := rest }
    let n : Word := BitVec.ofNat 64 ((c.parts.filter fun p => p.st == .done).map (·.len)).sum
    let call (f : Strip) : State := t.leaveOwn { OutItem.own (.uni c.issuer kCall ch 0 [f]) c.cid with comp := true }
    (c.failure = none ↔ c.fail = none ∧ ∀ p ∈ c.parts, ∀ x y z, p.st ≠ .failed x y z) ∧
    (∀ f, c.fail = some f → c.failure = some f) ∧
    (c.fail = none → ∀ f, c.failure = some f → ∃ p ∈ c.parts, p.st = .failed f.1 f.2.1 f.2.2 ∧ ∀ q ∈ c.parts, ∀ x y z, q.st = .failed x y z → p.off ≤ q.off) ∧
    (ch = 0 → Comes .copyCompletion s t) ∧
    (ch ≠ 0 → c.failure = none → Comes .copyCompletion s (call (flit4 0 n 0 (c.xid.setWidth 64)))) ∧
    (ch ≠ 0 → ∀ cause unit a, c.failure = some (cause, unit, a) →
      let space : BitVec 8 := if unit = 3 then 0 else if unit = 2 then (if c.blk.getLsbD 161 = true then c.gsb else c.gsa) else if c.blk.getLsbD 160 = true then c.gsb else c.gsa
      Comes .copyCompletion s (call (flit4 (cause ++ unit ++ 0#4 ++ space ++ 0#40 : BitVec 64) n a (c.xid.setWidth 64)))))

/-- Acceptance (R162 to R164, R273). The layout of a submission and the place of the copy are the model's (log entry 21); the error class is free (log entry 38).

Wakes, votes, failures and ends (R164 to R168). One wake is one step, a region that fits nowhere fails it, a window of 0 raises at once also while one is open, and the messages' layouts are the model's (log entries 21 and 38). -/
def Obligations.Launches : Prop :=
  (
  (∀ (s : State) (m : Msg) (t : State), TakesRouted s m t → s.eventFor m = .launchAccept → isSubmission m = true → s.lpbHeld m = false →
    let u := t.settle m
    let off := m.dw 0
    let vf := (m.dw 2).toNat
    let seq := m.dw 3
    let pkg := pkgOf u.at_
    let sp := u.home.gsaOf m.ten
    let seen (h b : List Byte) : State := (u.seeRead pkg m.ten sp off (lpbBytes h)).seeImages pkg m.ten b
    let refused (x : State) (f : Nat) : Prop := ∃ code, Comes .launchAccept s ((x.modHome fun k => k.modFn vf fun g => g.rewrite seq 0x02 0).modHome fun k => k.modFn vf fun g =>
      { g with answers := g.answers ++ [(code, off + BitVec.ofNat 64 f)] })
    (off.toNat % 64 ≠ 0 → ∀ h b, u.gvaRead pkg m.ten sp off 32 = .ok h → u.gvaRead pkg m.ten sp off (lpbBytes h) = .ok b → refused (seen h b) 0) ∧
    ((∀ h, u.gvaRead pkg m.ten sp off 32 ≠ .ok h) → refused u 0) ∧
    (∀ h b, u.gvaRead pkg m.ten sp off 32 = .ok h → u.gvaRead pkg m.ten sp off (lpbBytes h) = .ok b →
      (off.toNat % 64 = 0 → (∀ c ∈ lpbShape b ++ u.lpbLocal pkg m.ten b, c.2 = true) → ∃ copy : Nat, let x := seen h b
        (∀ r ∈ x.copies pkg, copy + b.length ≤ r.1 ∨ r.2 ≤ copy) ∧
        let targets := (wakeTargets x.at_ true (lpbCores b)).map x.standIn
        let l : Launch :=
          { lid := lpbLid b, ten := m.ten, sub := m.cid.extractLsb' 0 4, lpb := b, lpbOff := off, copyOff := BitVec.ofNat 64 copy, cores := (lpbCores b).length,
            votes := 0, waits := targets, up := none, vf := vf, seq := seq, failed := false }
        let v := (({ x with free := x.free + 1 } : State).modHome fun k =>
          { (k.modFn vf fun f => f.rewrite seq 0x00 ((lpbLid b).setWidth 40)) with devMem := memWrite k.devMem copy b }).modEng fun e => { e with launches := e.launches ++ [l] }
        Comes .launchAccept s (targets.foldl (fun x d => x.leaveOwn
          { OutItem.own (.uni d kSystem 0 0 [flit4 (BitVec.ofNat 64 copy) off ((lpbLid b).setWidth 64) ((m.cid.extractLsb' 0 4 : BitVec 4).setWidth 64)])
            (m.ten ++ (m.cid.extractLsb' 0 4 : BitVec 4)) with who := .wake (lpbLid b) }) v)) ∧
      (∀ f : Nat, off.toNat % 64 = 0 → (f, false) ∈ lpbShape b ++ u.lpbLocal pkg m.ten b → (∀ c ∈ lpbShape b ++ u.lpbLocal pkg m.ten b, c.2 = false → f ≤ c.1) → refused (seen h b) f))) ∧
  (∀ b : List Byte, (∀ c ∈ lpbShape b, c.2 = true) →
    1 ≤ lpbNh b ∧ lpbNh b ≤ 32 ∧ 1 ≤ lpbNi b ∧ lpbNi b ≤ 8 ∧ lpbNp b ≤ 8 ∧ lpbRk b ≤ 1 ∧ lpbCk b ≤ 2 ∧ 1 ≤ lpbCount b ∧ lpbDbud b ≠ 0 ∧
    15 < (lpbStart b).toNat ∧ (lpbStart b).toNat < 248)) ∧
  (
  (∀ (s : State) (m : Msg), s.vendorMsg 0 = some m → s.mayWake = true → s.residentHeld m.ten (s.wakeBlock m) = false →
    let dev := (s.pkg (pkgOf m.src)).devMem
    let b := memRead dev (m.dw 0).toNat (lpbBytes (memRead dev (m.dw 0).toNat 32))
    let r := (s.takeQueued 0).residents m.ten b [] (List.range (lpbNi b))
    let fails : Prop := Comes .launchWake s (r.2.sendOwn m.src kSystem 0 m.cid [flit4 (m.dw 2) 0 0 (BitVec.ofNat 64 (2 ^ 57))])
    let placed (imgs : List (Fin 8)) : Option State := r.2.placeRegions (((r.2.here.images[imgs.headD 0]).map (·.kslot)).getD 0) b (List.range (lpbNp b))
    (r.1 = none → fails) ∧
    (∀ imgs, r.1 = some imgs → placed imgs = none → fails) ∧
    (∀ imgs v, r.1 = some imgs → placed imgs = some v →
      ∃ hs : List (Nat × Word),
        (∀ ch, (∀ i, i < lpbNh b → ((lpbTemplate b i).2.extractLsb' 0 8).toNat ≠ ch) → look hs ch = look v.here.live.handlers ch) ∧
        (∀ i, i < lpbNh b → (∀ j, i < j → j < lpbNh b → (lpbTemplate b j).2.extractLsb' 0 8 ≠ (lpbTemplate b i).2.extractLsb' 0 8) →
          let w := (lpbTemplate b i).1
          let e := (look hs ((lpbTemplate b i).2.extractLsb' 0 8).toNat).getD 0x003F_0000_0000_0000
          (w.getLsbD 63 = false → e = 0) ∧
          (w.getLsbD 63 = true → e.extractLsb' 29 3 = BitVec.ofNat 3 (imgs.getD (w.extractLsb' 29 3).toNat 0).val ∧
            e.extractLsb' 32 16 = (if w.extractLsb' 32 16 = (0 : BitVec 16) then lpbDbud b else w.extractLsb' 32 16) ∧
            e.extractLsb' 0 29 = w.extractLsb' 0 29 ∧ e.extractLsb' 48 16 = w.extractLsb' 48 16)) ∧
        Comes .launchWake s ((v.modLive fun x => { x with
          handlers := hs, cnum := BitVec.ofNat 64 (lpbRank b v.at_), lbase := BitVec.ofNat 64 (lpbBase b), lcnt := BitVec.ofNat 64 (lpbCount b), lid := lpbLid b,
          lpb := m.dw 1, voted := false, wakes := x.wakes + 1 }).sendOwn v.at_ kCall (lpbStart b) m.cid []))) ∧
  (∀ (s : State) (m : Msg) (t : State) (l : Launch), TakesRouted s m t →
    let u := t.settle m
    let lid : BitVec 32 := (m.dw 0).extractLsb' 0 32
    let n := (m.dw 1).toNat
    let waits (x : Launch) : Bool := x.lid == lid && x.ten == m.ten && x.waits.contains m.src
    let heard (x : Launch) : Launch := { x with waits := x.waits.filter (· != m.src) }
    (s.eventFor m = .launchVote → u.here.eng.launches.find? waits = some l →
      let v := u.modEng fun e => { e with launches := dropFirst waits e.launches }
      let clear (x : State) : State := x.modHome fun k => { k with devMem := memClear k.devMem l.copyOff.toNat l.lpb.length }
      let fin := (clear v).modHome fun k => k.modFn l.vf fun f => f.rewrite l.seq 0x01 (l.lid.setWidth 40)
      let end_ := lpbDw l.lpb 3
      (l.votes + n < l.cores ∨ l.failed = true → Comes .launchVote s (u.modEng fun e => { e with launches := mapFirst waits (fun x => { heard x with votes := x.votes + n }) e.launches })) ∧
      (l.cores ≤ l.votes + n → l.failed = false → ∀ d, l.up = some d →
        Comes .launchVote s ((if pkgOf d = pkgOf s.at_ then v else clear v).sendOwn d kSystem 0 l.cid
          [flit4 (lid.setWidth 64) (BitVec.ofNat 64 l.cores) 0 (BitVec.ofNat 64 (2 ^ 56))])) ∧
      (l.cores ≤ l.votes + n → l.failed = false → l.up = none → fin.home.assisted l.ten 41 = false →
        (lpbCk l.lpb = 0 → Comes .launchVote s fin) ∧
        (lpbCk l.lpb = 1 → Comes .launchVote s (fin.sendOwn (end_.extractLsb' 0 29) kCall (end_.extractLsb' 29 8) l.cid
          [flit4 (l.lid.setWidth 64) (BitVec.ofNat 64 (lpbCount l.lpb)) 0 0])) ∧
        (lpbCk l.lpb = 2 → Comes .launchVote s (fin.modHome fun k => k.modFn (end_.extractLsb' 16 5).toNat fun f =>
          f.coalesce (end_.extractLsb' 0 16) (end_.extractLsb' 21 10).toNat s.time s.home.downUntil)))) ∧
    (s.eventFor m = .wakeFailure → u.here.eng.launches.find? waits = some l →
      let v := u.modEng fun e => { e with launches := mapFirst waits (fun x => { heard x with failed := true }) e.launches }
      (l.failed = true → Comes .wakeFailure s v) ∧
      (l.failed = false → ∀ d, l.up = some d → Comes .wakeFailure s (v.sendOwn d kSystem 0 l.cid [flit4 (lid.setWidth 64) 0 0 (BitVec.ofNat 64 (2 ^ 57))])) ∧
      (l.failed = false → l.up = none → Comes .wakeFailure s (v.modHome fun k => k.modFn l.vf fun f => f.rewrite l.seq 0x03 0x0C))) ∧
    (u.here.eng.launches.find? waits = none → (s.eventFor m = .launchVote → Comes .launchVote s u) ∧ (s.eventFor m = .wakeFailure → Comes .wakeFailure s u))) ∧
  (∀ (f : Func) (v : BitVec 16) (us : Nat) (now up : Word),
    let close := now + BitVec.ofNat 64 (1000 * us)
    let g := f.coalesce v us now up
    (us = 0 → up.toNat ≤ now.toNat → g = { f with raised := f.raised ++ [v] }) ∧
    (us ≠ 0 → (∀ o ∈ f.opened, o.1 ≠ v) → g = { f with opened := f.opened ++ [(v, close)] }) ∧
    (us ≠ 0 → ∀ o ∈ f.opened, o.1 = v → g.raised = f.raised ∧ (v, if close.toNat < o.2.toNat then close else o.2) ∈ g.opened)) ∧
  (∀ (s : State) (f : Func), look s.home.funcs s.ev.idx = some f →
    let due (o : BitVec 16 × Word) : Bool := decide (o.2.toNat ≤ s.time.toNat)
    Comes .coalesceWindowClose s (s.modHome fun k => { k with funcs := put k.funcs s.ev.idx { f with
      raised := f.raised ++ (f.opened.filter fun o => due o && decide (s.home.downUntil.toNat ≤ o.2.toNat)).map (·.1)
      opened := f.opened.filter fun o => !due o } })))

/-- Trap triage, engine completions, rescue and double records (R243, R244, R246, R289, R355). The trap vector's number is free and the way to the host agent takes no step
(log entry 36). -/
def Obligations.RecordHandlers : Prop :=
  (∀ (s : State) (m : Msg), s.vendorMsg 249 = some m →
    let cid : BitVec 16 := (m.dw 0).extractLsb' 16 16
    let ten : BitVec 12 := cid.extractLsb' 4 12
    let t := s.takeQueued 249
    let dropped := t.modCtr fun c => { c with undeliverable := c.undeliverable + 1 }
    let delivered := t.modFunc ten fun g => { g with delivered := g.delivered + 1 }
    (s.home.vfOf ten = none → Comes .trapTriageHw s dropped) ∧
    (∀ i v, s.home.vfOf ten = some (i, v) →
      let mine : Prop := v.trapCore (cid.extractLsb' 0 4).toNat = some s.at_
      let tch : BitVec 8 := v.rec16[3].extractLsb' 48 8
      (v.rec16[0].getLsbD 39 = false →
        (mine → 15 < tch.toNat → tch.toNat < 248 → Comes .trapTriageHw s (delivered.sendOwn s.at_ kCall tch cid m.pay)) ∧
        (¬ mine ∨ tch.toNat ≤ 15 ∨ 248 ≤ tch.toNat → Comes .trapTriageHw s dropped)) ∧
      (v.rec16[0].getLsbD 39 = true →
        (mine → ∃ n : BitVec 16, Comes .trapTriageHost s (delivered.modFunc ten fun g =>
          { g with trapRing := g.trapRing ++ [Vector.ofFn fun i => m.dw i.val], raised := g.raised ++ (if s.time.toNat < s.home.downUntil.toNat then [] else [n]) })) ∧
        (¬ mine → Comes .trapTriageHost s dropped)))) ∧
  (∀ (s : State) (m : Msg), s.vendorMsg 250 = some m →
    let t := (s.takeQueued 250).modFunc m.ten fun f => { f with completions := f.completions + 1 }
    let org : Origin := { Origin.none with ch := 250 }
    (isCopyEngine m.src = true →
      (m.byte 7 = 0 → Comes .engineCompletion s t) ∧
      (m.byte 7 ≠ 0 → Comes .engineCompletion s (t.asyncRecord (m.byte 7) m.cid m.src (m.dw 2) false ((m.dw 0).extractLsb' 40 8) (m.dw 0) org))) ∧
    (isCopyEngine m.src = false →
      (m.byte 2 = 0 → Comes .engineCompletion s t) ∧
      (m.byte 2 ≠ 0 → Comes .engineCompletion s (t.asyncRecord (m.byte 2) m.cid m.src 0 false 0 (m.dw 0) org)))) ∧
  (∀ (s : State) (m : Msg), s.vendorMsg 251 = some m →
    let t := s.takeQueued 251
    (m.cid = (m.dw 0).extractLsb' 16 16 → (s.home.vfOf m.ten).isSome = true →
      Comes .rescueRelay s (t.sendOwn s.at_ kCall ((m.flit 2).extractLsb' 0 8) m.cid (m.pay.take 2))) ∧
    (m.cid ≠ (m.dw 0).extractLsb' 16 16 ∨ (s.home.vfOf m.ten).isSome = false →
      Comes .rescueRelay s (t.modCtr fun c => { c with undeliverable := c.undeliverable + 1 }))) ∧
  (∀ (s : State) (m : Msg) (t : State), Takes s m t → s.eventFor m = .doubleRecord →
    let u := t.settle m
    let kept := u.modEng fun e => { e with reports := e.reports ++ [m] }
    let ten : BitVec 12 := (m.dw 0).extractLsb' 20 12
    (m.byte 7 ≠ 0x18 → Comes .doubleRecord s kept) ∧
    (m.byte 7 = 0x18 → s.ev.flag = false → (kept.home.vfOf ten = none ∨ ∃ i v, kept.home.vfOf ten = some (i, v) ∧ v.rec16[0].getLsbD 42 = false) →
      Comes .doubleRecord s kept) ∧
    (m.byte 7 = 0x18 → s.ev.flag = false → ∀ i v, kept.home.vfOf ten = some (i, v) → v.rec16[0].getLsbD 42 = true → ∃ n : BitVec 16,
      Comes .doubleRecord s (kept.modFunc ten fun g => { g with trapRing := g.trapRing ++ [Vector.ofFn fun i => m.dw i.val], raised := g.raised ++ (if s.time.toNat < s.home.downUntil.toNat then [] else [n]) })) ∧
    (m.byte 7 = 0x18 → s.ev.flag = true → Comes .doubleRecord s ((u.modCtr fun c => { c with double := c.double + 1 }).modHome fun k =>
      { k with double := k.double.setIfInBounds (dieOf u.at_) (k.double.toList.getD (dieOf u.at_) 0 + 1) })))

/-- Lease changes (R251, R252, R355); what the change leaves is stated for the tables, registers and data state. The division into events and the layout of the record on channel 7 are the model's
(log entry 30).

Revocation (R314). The layout of a request is the model's (log entry 23); the refusal's value is free (log entry 1). -/
def Obligations.Leases : Prop :=
  (
  (∀ (s : State) (m : Msg), s.preemptMsg = some m → s.here.swapping = false →
    (s.here.preempting = false → Comes .preempt s { s with here := { s.here with preempting := true } }) ∧
    (s.here.preempting = true → s.quiescent = false → Comes .preempt s s) ∧
    (s.here.preempting = true → s.quiescent = true → s.here.changing = false → Comes .preempt s { s with here := { s.here with changing := true } }) ∧
    (s.here.preempting = true → s.quiescent = true → s.here.changing = true →
      let ten : BitVec 12 := if (m.dw 0).getLsbD 16 = true then 0 else (m.dw 0).extractLsb' 0 12
      ∃ t : State, Comes .preempt s t ∧ t.here.preempting = true ∧ t.here.changing = true ∧ t.here.swapping = true ∧ t.here.regs.lessee = ten ∧
        t.here.mx = Machine.Matrix.zero ∧ t.here.acts = s.here.acts ∧ t.here.windows = s.here.windows ∧ t.here.images = s.here.images ∧ t.here.mem = s.here.mem ∧
        t.here.net = s.here.net ∧ t.here.leaseNo = s.here.leaseNo + 1 ∧
        (ten ≠ s.here.regs.lessee → t.here.live = (match s.here.saved.find? fun v => v.ten == ten with
          | some v => v.lessee
          | none => Lessee.zero)) ∧
        (∀ f, ten ≠ 0 → s.home.vfOf ten = some f →
          t.here.regs.mcap = f.2.rec16[3].extractLsb' 32 9 &&& 0x17F ∧ t.here.regs.gsa = f.2.rec16[0].extractLsb' 16 8 ∧ t.here.regs.gsb = f.2.rec16[0].extractLsb' 24 8 ∧
          t.here.regs.spq = f.2.rec16[3].extractLsb' 0 32 ∧ t.here.regs.tch = f.2.rec16[3].extractLsb' 48 8 ∧
          ∀ i : Fin 16, let w : BitVec 32 := (f.2.rec16[6 + i.val / 2]'(by omega)).extractLsb' (32 * (i.val % 2)) 32
            t.here.regs.trapCore[i] = if w.getLsbD 31 = true then some (w.extractLsb' 0 29) else none) ∧
        (∀ p : Fin 4, t.here.links[p].fifo = [] ∧ t.here.links[p].out = [] ∧ t.here.links[p].o = 0 ∧ t.here.links[p].win = 4) ∧
        (∀ (p : Fin 4) (a : CoreAddr), s.linkPeer p = some a → (t.core a).links[oppositePort p] = { (s.core a).links[oppositePort p] with out := [], o := 0 }) ∧
        t.here.saved.getLast? = some { ten := s.here.regs.lessee, area := 0, serial := s.free, lessee := s.here.live })) ∧
  (∀ s : State, s.here.swapping = true →
    let old := s.here.lastLessee
    let parked (u : State) : State := (u.modNet fun n => n.bivouac old).returnAll
    let done (u : State) : State := { parked u with here := { (parked u).here with preempting := false, changing := false, swapping := false } }
    (s.here.preempting = false → Comes .preempt s (done s)) ∧
    (∀ m, s.here.preempting = true → s.preemptMsg = some m →
      Comes .preempt s ((done (s.takeQueued 1)).sendOwn m.src kSystem 7 0
        [flit4 (s.here.regs.lessee.setWidth 64 ||| (old.setWidth 64 <<< 16)) (s.at_.setWidth 64) s.time 0]))) ∧
  (∀ (n : Iface) (ten : BitVec 12), (n.queues.map (·.1)).Nodup → (n.rings.map (·.1)).Nodup →
    let moves (e : QEntry) : Bool := e.msg.ten == ten && !e.running && !passes e.msg.ten e.msg.ch
    (∀ ch, (n.bivouac ten).queue ch = (n.queue ch).filter fun e => !moves e) ∧
    (∃ out : List SpillEntry, (n.bivouac ten).ring ten = out ++ n.ring ten ∧ out.map (fun e => (e.msg, e.seq)) = (n.queues.flatMap fun q => q.2.filter moves).map fun e => (e.msg, e.seq)) ∧
    (∀ x : BitVec 12, x ≠ ten → (n.bivouac ten).ring x = n.ring x)) ∧
  (∀ (s : State) (f : Func), look s.home.funcs s.ev.idx = some f → isSupervisor s.at_ = true → f.valid = true → f.rec16[0].getLsbD 40 = false →
    let ten : BitVec 12 := s.ev.w.extractLsb' 0 12
    Comes .timeSliceQuantum s ((s.servedCores.filter fun a => (s.core a).regs.lessee == f.rec16[0].extractLsb' 0 12).foldl
      (fun t a => t.sendOwn a kSystem 1 0 [flit4 (if ten = 0 then 0x10000 else ten.setWidth 64) 0 0 0]) s))) ∧
  (
  (∀ (s : State) (m : Msg) (t : State), Takes s m t → s.eventFor m = .igtRevokeRequest →
    let id : BitVec 32 := (m.dw 0).extractLsb' 0 32
    let e := t.home.igtEntry id
    let gen : BitVec 16 := e.extractLsb' 32 16
    let known : Prop := e.getLsbD 63 = true ∧ e.extractLsb' 0 32 = id
    (known → gen ≠ 0xFFFF → ∃ e' : Word, e'.extractLsb' 32 16 = gen + 1 ∧ e'.getLsbD 62 = (m.dw 0).getLsbD 32 ∧ e'.extractLsb' 0 32 = e.extractLsb' 0 32 ∧
      e'.getLsbD 63 = true ∧
      Comes .igtRevokeRequest s ((packageCores (pkgOf t.at_)).foldl (fun u d => u.sendOwn d kSystem 5 0 [flit4 (id.setWidth 64 ||| ((gen + 1).setWidth 64 <<< 32)) 0 0 0])
        ((t.modHome fun k => { k with igt := put k.igt (id.toNat % 65536) e' }).settle m))) ∧
    (¬ known ∨ gen = 0xFFFF → ∃ v, Comes .igtRevokeRequest s (t.nack m cPlacement v))) ∧
  (∀ (s : State) (m : Msg) (t : State),
    let id : BitVec 32 := (m.dw 0).extractLsb' 0 32
    let gen : BitVec 16 := (m.dw 0).extractLsb' 32 16
    let stale (i : ImgEntry) : ImgEntry := if i.id = id ∧ i.gen.toNat < gen.toNat then { i with stale := true } else i
    let marks (u : State) : State := { u with here := { u.here with images := u.here.images.map fun o => o.map stale } }
    (isEngine s.at_ = false → s.vendorMsg 5 = some m → Comes .imgrevNotice s (marks (s.takeQueued 5))) ∧
    (isSupervisor s.at_ = false → s.ev.flag = false → isEngine s.at_ = true → Takes s m t → s.eventFor m = .imgrevNotice → Comes .imgrevNotice s (marks (t.settle m)))))

/-- Requests on ascents (R278 to R280, R285, R293). The layout of messages on channel 12 is the model's (log entry 20).

Anchors and compensations (R280, R282 to R289). Layouts and the fetch without a step of its own are the model's (log entries 20 and 37). -/
def Obligations.AscentEvents : Prop :=
  (
  (∀ (s : State) (m : Msg) (t : State), Takes s m t →
    let u := t.settle m
    let reply (v : State) (stat st : Nat) (aid : BitVec 32) (g4 g5 g6 : Word) : State :=
      if m.byte 2 = 0 then v
      else v.sendOwn ((m.dw 3).extractLsb' 0 29) kReply (m.byte 2) m.cid [flit4 ((BitVec.ofNat 64 stat <<< 56) ||| (BitVec.ofNat 64 st <<< 48) ||| aid.setWidth 64) g4 g5 g6]
    let aid : BitVec 32 := (m.dw 1).extractLsb' 0 32
    let k := u.keeper
    let on (i : Instr) (full : Bool) (stat : Nat) (v : State) : Prop :=
      let w := v.modKeeper Keeper.quiet
      ∀ b, w.keeper.ascent aid = some b → Comes i s (reply w stat b.st.code aid (BitVec.ofNat 64 (w.keeper.depth b))
        (if full then BitVec.ofNat 64 (w.keeper.statSeq b) else 0) (if full then BitVec.ofNat 64 (b.left w.time) else 0))
    let become (v : State) (a : Ascent) (st : AscState) : State := v.modKeeper fun k => k.modAscent a.aid fun x => { x with st := st }
    let restart (v : State) (a : Ascent) (f : Stacked → Stacked) : State := v.modKeeper fun k =>
      (k.modStack a.gid fun x => if x.aid == a.aid && some x.gseq == a.stranded then f x else x).modAscent a.aid fun x => { x with st := .retreating, stranded := none }
    (s.eventFor m = .ascentBeginReq →
      let gid : BitVec 16 := (m.dw 1).extractLsb' 0 16
      let taken : Prop := ∃ g ∈ k.groups, g.gid = gid ∧ g.ten ≠ m.ten
      (taken → Comes .ascentBeginReq s (reply u 4 0 0 (m.dw 2) 0 0)) ∧
      (¬ taken → k.ascents.length < 512 → ∀ q, 1 ≤ q → q ≤ 65535 → (∀ a ∈ k.ascents, (a.aid.extractLsb' 0 16).toNat ≠ q) → k.lastSeq.toNat < q →
        (∀ r, k.lastSeq.toNat < r → r < q → ∃ a ∈ k.ascents, (a.aid.extractLsb' 0 16).toNat = r) →
        let id : BitVec 32 := BitVec.ofNat 32 (dieOf u.at_ * 0x80000 + (gid.extractLsb' 0 3).toNat * 0x10000 + q)
        let a : Ascent :=
          { aid := id, gid := gid, st := .climbing, origin := (m.dw 3).extractLsb' 0 29, cid := m.cid, rch := (m.dw 1).extractLsb' 16 8,
            life := (m.dw 1).extractLsb' 32 24, born := s.time, stranded := none, order := k.nextOrder }
        let groups := if ∃ g ∈ k.groups, g.gid = gid then k.groups else k.groups ++ [{ gid := gid, ten := m.ten, nextGseq := 1, stack := [] }]
        Comes .ascentBeginReq s (reply (u.modKeeper fun k => { k with ascents := k.ascents ++ [a], groups := groups, lastSeq := BitVec.ofNat 16 q, nextOrder := k.nextOrder + 1 })
          0 0 id (m.dw 2) 0 0))) ∧
    (k.ascentOf m.ten aid = none →
      (s.eventFor m = .ascentSummitReq → Comes .ascentSummitReq s (reply u 1 0 aid 0 0 0)) ∧ (s.eventFor m = .ascentRetreatReq → Comes .ascentRetreatReq s (reply u 1 0 aid 0 0 0)) ∧
      (s.eventFor m = .ascentResumeReq → Comes .ascentResumeReq s (reply u 1 0 aid 0 0 0)) ∧ (s.eventFor m = .ascentStatReq → Comes .ascentStatReq s (reply u 1 0 aid 0 0 0))) ∧
    (∀ a, k.ascentOf m.ten aid = some a →
      (s.eventFor m = .ascentSummitReq → (a.st = .climbing → on .ascentSummitReq false 0 (become (u.discardAll a) a .summited)) ∧
        (a.st ≠ .climbing → on .ascentSummitReq false 2 u)) ∧
      (s.eventFor m = .ascentRetreatReq → (a.st = .climbing → on .ascentRetreatReq false 0 (become u a .retreating)) ∧
        (a.st = .retreating → on .ascentRetreatReq false 0 u) ∧ (a.st ≠ .climbing → a.st ≠ .retreating → on .ascentRetreatReq false 2 u)) ∧
      (s.eventFor m = .ascentResumeReq →
        let spent : Prop := ∃ x ∈ k.anchorsOf a, some x.gseq = a.stranded ∧ 15 ≤ x.rtry
        (a.st ≠ .stranded → on .ascentResumeReq false 2 u) ∧
        (a.st = .stranded → m.byte 1 = 2 → on .ascentResumeReq false 0 ((u.discardAll a).modKeeper fun k =>
          k.modAscent a.aid fun x => { x with st := .abandoned, stranded := none })) ∧
        (a.st = .stranded → m.byte 1 = 1 → on .ascentResumeReq false 0 (restart (u.skipStored a) a fun x => { x with skip := true })) ∧
        (a.st = .stranded → m.byte 1 = 0 → spent → on .ascentResumeReq false 5 u) ∧
        (a.st = .stranded → m.byte 1 = 0 → ¬ spent → on .ascentResumeReq false 0 (restart u a fun x => { x with rtry := x.rtry + 1 }))) ∧
      (s.eventFor m = .ascentStatReq → on .ascentStatReq true 0 u))) ∧
  (∀ (s : State) (a : Ascent) (x : Stacked) (r : AnchorRec), (s.keeper.anchorsOf a).find? (fun x => some x.gseq == a.stranded) = some x →
    (s.core x.keeper).eng.keeper.record x.key = some r → r.spilled = false →
    ((s.skipStored a).core x.keeper).eng.keeper.record x.key = some { r with rec8 := r.rec8.set 2 (r.rec8[2] ||| 4), freed := true }) ∧
  (∀ s : State,
    let late (a : Ascent) : Prop := a.st = .climbing ∧ a.life ≠ 0 ∧ a.life.toNat * 1000 ≤ (s.time - a.born).toNat
    ∃ f : Ascent → Ascent,
      (∀ a, late a ∨ a.st = .retreating → s.keeper.depth a = 0 → f a = { a with st := .retreated }) ∧
      (∀ a, late a ∨ a.st = .retreating → s.keeper.depth a ≠ 0 → f a = { a with st := .retreating }) ∧
      (∀ a, ¬ late a → a.st ≠ .retreating → f a = a) ∧
      Comes .ascentLifetime s (s.modKeeper fun k => { k with ascents := k.ascents.map f }))) ∧
  (
  (∀ (s : State) (m : Msg) (t : State), Takes s m t →
    let k := t.keeper
    let u := t.settle m
    let pushOf (hdr : BitVec 128) : Msg := { hdr := hdr, aword := 0, pay := [], pool := 0, sys := true }
    (s.eventFor m = .anchorPush →
      let aid : BitVec 32 := (m.dw 0).extractLsb' 32 32
      let body : Vector Word 8 := Vector.ofFn fun i => m.dw i.val
      let rec' (spilled bad : Bool) (place : Nat) : AnchorRec :=
        { key := k.nextKey, rec8 := body, stamped := false, spilled := spilled, place := place, freed := false, bad := bad, push := m.hdr }
      let asks (v : State) (old : List AnchorRec) (r : AnchorRec) : Prop :=
        Comes .anchorPush s ((v.modKeeper fun k => { k with nextKey := k.nextKey + 1, anchors := old ++ [r] }).leaveOwn
          { OutItem.own (.uni (t.keeperOf aid) kSystem 12 0 [flit4 (if r.bad = true then 257 else 1) (aid.setWidth 64) (BitVec.ofNat 64 k.nextKey) (t.at_.setWidth 64), m.hdr.setWidth 256])
            m.cid with who := .stamp k.nextKey })
      ((k.anchors.filter fun r => !r.spilled).length < 4096 → asks t k.anchors (rec' false false 0)) ∧
      (4096 ≤ (k.anchors.filter fun r => !r.spilled && !r.freed).length → ∃ place,
        (∀ r ∈ k.anchors, r.spilled = true → r.freed = false → r.place ≠ place) ∧
        (∀ q, q < place → ∃ r ∈ k.anchors, r.spilled = true ∧ r.freed = false ∧ r.place = q) ∧
        let old := k.anchors.filter fun r => !(r.spilled && r.place == place)
        (∀ v, t.spillWrite place body = some v → asks v old (rec' true false place)) ∧
        (t.spillWrite place body = none → asks t old (rec' true true place)))) ∧
    (s.eventFor m = .anchorStamp →
      let aid : BitVec 32 := (m.dw 1).extractLsb' 0 32
      let back (v : State) (kind gseq : Nat) : State :=
        v.sendOwn ((m.dw 3).extractLsb' 0 29) kSystem 12 m.cid [flit4 (BitVec.ofNat 64 (7 + 256 * kind)) (BitVec.ofNat 64 gseq) (m.dw 2) 0]
      let turn (a : Ascent) : Ascent := if a.aid = aid ∧ cidTen a.cid = m.ten ∧ a.st = .climbing then { a with st := .retreating } else a
      let refused : Prop := Comes .anchorStamp s ((back (u.nack (pushOf ((m.flit 1).extractLsb' 0 128)) 0x0C (aid.setWidth 64)) 0 0).modKeeper fun k => (k.mapAscents turn).quiet)
      (u.keeper.ascentOf m.ten aid = none → refused) ∧
      (∀ a, u.keeper.ascentOf m.ten aid = some a →
        let open_ : Prop := a.st ≠ .summited ∧ a.st ≠ .abandoned
        (¬ open_ → Comes .anchorStamp s (back u 3 0)) ∧
        (open_ → (m.dw 0).getLsbD 8 = true ∨ 65535 ≤ u.keeper.depth a → refused) ∧
        (open_ → (m.dw 0).getLsbD 8 = false → u.keeper.depth a < 65535 → ∀ g, u.keeper.groups.find? (fun g => g.gid == a.gid) = some g →
          (2 ^ 32 ≤ g.nextGseq → refused) ∧
          (g.nextGseq < 2 ^ 32 →
            let late := decide (a.st ≠ .climbing)
            Comes .anchorStamp s (back (u.modKeeper fun k => (k.modGroup a.gid fun g => { g with nextGseq := g.nextGseq + 1, stack := g.stack ++
              [{ gseq := g.nextGseq, aid := aid, keeper := m.src, key := (m.dw 2).toNat, late := late, ran := false, skip := false, rtry := 0, inFlight := false }] }).modAscent aid fun y =>
                if y.st = .retreated then { y with st := .retreating } else y) (if late then 2 else 1) g.nextGseq))))) ∧
    (s.eventFor m = .stampReturn → ∀ r, u.keeper.record (m.dw 2).toNat = some r →
      let key := (m.dw 2).toNat
      let freed := u.modRecord key fun x => { x with freed := true }
      (m.byte 1 = 0 → Comes .stampReturn s freed) ∧
      (m.byte 1 = 3 → Comes .stampReturn s (freed.settle (pushOf r.push))) ∧
      (m.byte 1 = 1 ∨ m.byte 1 = 2 → Comes .stampReturn s
        (((u.writeRecord key (stamped r.rec8 (m.dw 1).toNat (m.byte 1 == 2))).modRecord key fun x => { x with stamped := true }).settle (pushOf r.push)))) ∧
    (∀ x, u.keeper.running m.aword = some x →
      (s.eventFor m = .endNotice → Comes .endNotice s ((u.freeAnchor x).modKeeper fun k =>
        (k.mapStacks fun l => l.filter fun y => !(y.aid == x.aid && y.gseq == x.gseq)).quiet)) ∧
      (s.eventFor m = .failureNotice → Comes .failureNotice s (u.strand x.aid x.gseq (u.anchorRec x) (Vector.ofFn fun i => m.dw i.val))))) ∧
  (∀ (s : State) (key : Nat) (d : Vector Word 8) (x : AnchorRec), s.keeper.record key = some x →
    let local_ := s.modRecord key fun y => { y with rec8 := d }
    (x.spilled = false → s.writeRecord key d = local_) ∧ (x.spilled = true → ∀ v, local_.spillWrite x.place d = some v → s.writeRecord key d = v) ∧
    (x.bad = false → x.spilled = false → s.readRecord x = some x.rec8) ∧ (x.bad = true → s.readRecord x = none)) ∧
  (∀ (s : State) (x : Stacked), let gid : BitVec 16 := BitVec.ofNat 16 s.ev.idx
    s.keeper.nextAnchor gid = some x →
    (x.inFlight = false ∧ x ∈ s.keeper.stack gid ∧ x.skip = false ∧
      (∀ y ∈ s.keeper.stack gid, y.inFlight = false) ∧ (∃ a ∈ s.keeper.ascents, a.aid = x.aid ∧ a.st = .retreating) ∧
      ∀ y ∈ s.keeper.stack gid, y.skip = false → (∃ a ∈ s.keeper.ascents, a.aid = y.aid ∧ a.st = .retreating) → y.gseq ≤ x.gseq) ∧
    (s.storedAnchor x = none → Comes .anchorSend s (s.strand x.aid x.gseq (s.keeper.lost x.aid) noRecord)) ∧
    (∀ r, s.storedAnchor x = some r →
      (r.stamped = false → Comes .anchorSend s s) ∧
      (r.stamped = true → (s.focus x.keeper).readRecord r = none → Comes .anchorSend s (s.strand x.aid x.gseq r.rec8 noRecord)) ∧
      (r.stamped = true → ∀ body, (s.focus x.keeper).readRecord r = some body →
        let d := sentRecord body x.rtry (s.keeper.overtaker gid x)
        Comes .anchorSend s (((s.at x.keeper fun u => (if r.spilled = true then u.seeRead (pkgOf u.at_) 0 0xFF (u.spillPlace r.place) 64 else u).writeRecord x.key d).modKeeper fun k =>
          k.modStack gid fun y => if y.gseq == x.gseq then { y with ran := true, inFlight := true } else y).leaveOwn
            { OutItem.own (.uni (d[1].extractLsb' 0 29) kCall (d[2].extractLsb' 56 8) 0 [flit4 d[4] d[5] d[6] d[7], flit4 d[0] d[1] d[2] d[3]]) (d[2].extractLsb' 32 16) with
              a := true, aword := x.aid, who := .comp gid x.gseq })))) ∧
  (∀ (r : Vector Word 8) (rtry : Nat) (ov : Option (BitVec 32)), let d := sentRecord r rtry ov
    d[1].extractLsb' 32 32 = ov.getD 0 ∧ d[1].extractLsb' 0 32 = r[1].extractLsb' 0 32 ∧
    d[2].extractLsb' 8 56 = r[2].extractLsb' 8 56 ∧ d[2].extractLsb' 4 4 = BitVec.ofNat 4 rtry ∧ d[2].getLsbD 3 = true ∧
    d[2].extractLsb' 1 2 = r[2].extractLsb' 1 2 ∧ d[2].getLsbD 0 = ov.isSome ∧
    d[0] = r[0] ∧ d[3] = r[3] ∧ d[4] = r[4] ∧ d[5] = r[5] ∧ d[6] = r[6] ∧ d[7] = r[7]) ∧
  (∀ (k : Keeper) (gid : BitVec 16) (x : Stacked),
    let live (y : Stacked) : Prop := y ∈ k.stack gid ∧ y.aid ≠ x.aid ∧ y.ran = false ∧ x.gseq < y.gseq
    (k.overtaker gid x = none → ∀ y, ¬ live y) ∧
    (∀ a, k.overtaker gid x = some a → ∃ y, live y ∧ y.aid = a ∧ ∀ z, live z → y.gseq ≤ z.gseq)) ∧
  (∀ (s : State) (aid : BitVec 32) (gseq : Nat) (anchor r : Vector Word 8) (a : Ascent), s.keeper.ascent aid = some a →
    let cid : BitVec 16 := anchor[2].extractLsb' 32 16
    s.strand aid gseq anchor r =
      ((s.modKeeper fun k => (k.modStack a.gid fun x => if x.aid == aid && x.gseq == gseq then { x with inFlight := false } else x).modAscent aid fun x =>
        { x with st := .stranded, stranded := some gseq }).sendOwn a.origin kSystem 251 cid (recFlits (s.compfail a anchor gseq r) ++ [a.rch.setWidth 256])).sendOwn
          (s.standIn (supervisor0 (pkgOf s.at_) (dieOf s.at_))) kSystem 249 cid (recFlits (s.compfail a anchor gseq r))))

/-- Collective groups (R274 to R276). What the members' engines tell each other takes no message, and the notice's channel and layout are the model's (log entry 40).

The fabric (R262 to R271, R324, R329). How many credits a port's receiver has is the implementation's, and the detour of a detour and the failure record's layout are the model's (log entries 39 and 64). -/
def Obligations.Collectives : Prop :=
  (
  (∀ (s : State) (m : Msg) (t : State), TakesRouted s m t → s.ev.flag = false → s.eventFor m = .collectiveCommand →
    (t.at_ = t.collEngine → m.sys = true →
      Comes .collectiveCommand s ((t.settle m).modEng fun e => { e with colls := e.colls ++ [{ blk := flitBytes (m.pay.take 2), cid := m.cid, issuer := m.src, stage := 0, parts := [] }] })) ∧
    (t.at_ ≠ t.collEngine ∨ m.sys = false → Comes .collectiveCommand s (t.nack m cPlacement (m.ch.setWidth 64)))) ∧
  (∀ (s : State) (c : CollCmd) (rest : List CollCmd), s.ev.flag = true → s.here.eng.colls = c :: rest →
    let t := s.modEng fun e => { e with colls := rest }
    let tgt := headDw c.blk 4
    let done (u : State) (stat : BitVec 8) (gen : BitVec 32) (bytes : Nat) : State := u.sendOwn (tgt.extractLsb' 0 29) kCall (tgt.extractLsb' 29 8) c.cid
      [flit4 ((stat.setWidth 64 <<< 56) ||| (c.gid.setWidth 64 <<< 40) ||| gen.setWidth 64) (BitVec.ofNat 64 bytes) 0 0]
    (s.here.eng.groups.find? (fun g => g.gid == c.gid) = none → Comes .collectiveCommand s (done t 0x03 0 0)) ∧
    (∀ g, s.here.eng.groups.find? (fun g => g.gid == c.gid) = some g →
      let pkgs := g.members.map fun m => m.1.toNat
      let reset : Prop := ∃ x ∈ g.members, s.inService x.1.toNat = true ∧ (s.pkg x.1.toNat).bootGen ≠ x.2.1
      let broken : Prop := c.bad g.members.length (pkgOf s.at_) = true
      let old : Prop := g.gen ≠ c.gen ∨ reset
      let short : Prop := ∃ p ∈ pkgs, s.inService p = false ∨ s.reaches s.at_ p = false
      let goes (r : State × List (Nat × CoreAddr × Nat)) (n : Nat) : Prop :=
        Comes .collectiveCommand s (r.1.modEng fun e => { e with colls := { c with stage := n, parts := r.2 } :: e.colls })
      (c.stage = 0 →
        (g.void = true → Comes .collectiveCommand s (done t 0x01 g.gen 0)) ∧
        (g.void = false → broken → Comes .collectiveCommand s (done t 0x03 g.gen 0)) ∧
        (g.void = false → ¬ broken → old → Comes .collectiveCommand s (done t 0x01 g.gen 0)) ∧
        (g.void = false → ¬ broken → ¬ old → short → Comes .collectiveCommand s (done t 0x02 g.gen 0)) ∧
        (g.void = false → ¬ broken → ¬ old → ¬ short → goes (t.beginReads c pkgs 0) 1)) ∧
      (c.stage ≠ 0 →
        let work (x : Nat × CoreAddr × Nat) : Option CopyCmd := (s.core x.2.1).eng.members.find? fun p => p.id == x.2.2
        let running (x : Nat × CoreAddr × Nat) : Prop := ∃ p, work x = some p ∧ ∃ y ∈ p.parts, y.inFlight = true
        let stat (x : Nat × CoreAddr × Nat) : Option (BitVec 8) := match work x with
          | none => some (if (s.core x.2.1).present = true then 0x01 else 0x02)
          | some p => p.failure.map fun f => if f.2.1 = 3 then 0x02 else 0x03
        let bytes : Nat := match (c.parts.find? fun x => x.1 == c.root).bind work with
          | some p => if c.stage = 2 then p.bytesWritten else 0
          | none => 0
        let ends (v : BitVec 8) : Prop := Comes .collectiveCommand s ((t.endParts c).at (s.collEngineOf (pkgs.getD c.root (pkgOf s.at_))) fun u => u.collDone c v bytes)
        ((∃ x ∈ c.parts, running x) → Comes .collectiveCommand s s) ∧
        ((∀ x ∈ c.parts, ¬ running x) → (∃ x ∈ c.parts, stat x ≠ none) → ∃ x ∈ c.parts, ∃ v, stat x = some v ∧ ends v) ∧
        ((∀ x ∈ c.parts, ¬ running x) → (∀ x ∈ c.parts, stat x = none) →
          (c.stage = 1 → goes ((t.endParts c).beginWrites c ((List.range pkgs.length).map (s.partBytes c)) pkgs 0) 2) ∧
          (c.stage ≠ 1 → ends 0x00))))) ∧
  (∀ (s : State) (c : CollCmd) (pkgs : List Nat) (srcs : List (List Byte)),
    ((s.beginReads c pkgs 0).2.map (·.1) = (List.range pkgs.length).filter fun r => c.op != 1 || r == c.root) ∧
    ((s.beginWrites c srcs pkgs 0).2.map (·.1) = List.range pkgs.length)) ∧
  (∀ (s : State) (c : CollCmd) (addr : Word) (n : Nat) (data : Option (List Byte)), (∀ bs, data = some bs → bs.length = n) →
    let sp := s.home.gsaOf c.ten
    let add (q : CopyCmd) : State := s.modEng fun e => { e with members := e.members ++ [q], copyNo := e.copyNo + 1 }
    let bare (q : CopyCmd) : Prop := q.id = s.here.eng.copyNo ∧ q.cid = c.cid ∧ q.xid = c.gid.setWidth 32
    (∀ a, s.home.unowned c.ten sp s.home.rpt.length addr.toNat (addr.toNat + n) = some a → ∃ q, bare q ∧ q.parts = [] ∧ q.fail = some (cPlacement, 1, a) ∧
      s.beginPart c addr n data = add q) ∧
    (s.home.unowned c.ten sp s.home.rpt.length addr.toNat (addr.toNat + n) = none → ∃ (q : CopyCmd) (out : List OutItem), bare q ∧ q.fail = none ∧
      s.beginPart c addr n data = ((add q).modNet fun m => { m with egress := m.egress ++ out }).flush ∧ out.length = q.parts.length ∧
      (addr.toNat + n ≤ 2 ^ 64 → ∀ x, x < n → ∃ p ∈ q.parts, p.off ≤ x ∧ x < p.off + p.len) ∧
      ∀ i (h : i < q.parts.length) (h' : i < out.length), let x := q.parts[i]; 1 ≤ x.len ∧ x.off + x.len ≤ n ∧ out[i].cid = c.cid ∧ ∃ r, out[i].send = .glob r ∧
        r.space = sp ∧ r.off = addr + BitVec.ofNat 64 x.off ∧ r.len = x.len ∧
        (data = none → r.op = 5 ∧ x.st = .reading) ∧ (∀ bs, data = some bs → r.op = 3 ∧ x.st = .writing ∧ r.data = (bs.drop x.off).take x.len))) ∧
  (∀ (u : State) (c : CollCmd) (v : BitVec 8) (n : Nat), let tgt := headDw c.blk 4
    let gen : BitVec 32 := ((u.here.eng.groups.find? fun g => g.gid == c.gid).map (·.gen)).getD 0
    u.collDone c v n = u.sendOwn (tgt.extractLsb' 0 29) kCall (tgt.extractLsb' 29 8) c.cid
      [flit4 ((v.setWidth 64 <<< 56) ||| (c.gid.setWidth 64 <<< 40) ||| gen.setWidth 64) (BitVec.ofNat 64 n) 0 0]) ∧
  (∀ (c : CollCmd) (n pkg : Nat), c.bad n pkg = false →
    1 ≤ c.op ∧ c.op ≤ 4 ∧ c.len ≠ 0 ∧ c.len % 16 = 0 ∧ (c.op = 1 → c.root < n) ∧ (c.op = 3 → c.type ≤ 2) ∧ (c.op ≠ 3 → c.type = 0) ∧ (c.op = 4 → c.len % (16 * n) = 0) ∧
    pkgOf ((headDw c.blk 4).extractLsb' 0 29) = pkg) ∧
  (∀ (c : CollCmd) (srcs : List (List Byte)) (r : Nat),
    let sum (f : Fmt) (w : Nat) : List Byte := (List.range (c.len / w)).flatMap fun i => leBytes w (collSum f (srcs.map fun b => leNat ((b.drop (w * i)).take w)))
    (c.op = 1 → c.result srcs r = srcs.getD c.root []) ∧
    (c.op = 2 → c.result srcs r = srcs.flatten) ∧
    (c.op = 3 → c.type = 0 → c.result srcs r = sum fp32 4) ∧ (c.op = 3 → c.type = 1 → c.result srcs r = sum fp64 8) ∧ (c.op = 3 → c.type = 2 → c.result srcs r = sum bf16 2) ∧
    (c.op = 4 → c.result srcs r = srcs.flatMap fun b => (b.drop (c.len / srcs.length * r)).take (c.len / srcs.length))) ∧
  (∀ (s : State) (m : Msg) (t : State), Takes s m t → s.eventFor m = .generationNotice →
    let u := t.settle m
    let names (g : CollGroup) : Bool := g.members.any fun x => x.1 == (m.dw 0).extractLsb' 0 14
    let hit (c : CollCmd) : Bool := u.here.eng.groups.any fun g => names g && g.gid == c.gid
    let stop (g : CollGroup) : CollGroup := if names g = true then { g with void := true, keyed := false } else g
    let part (p : CopyCmd) : Bool := u.here.eng.groups.any fun g => names g && g.gid == p.xid.extractLsb' 0 16
    Comes .generationNotice s ((u.here.eng.colls.filter hit).foldl (fun v c => (v.endParts c).collDone c 0x01 0)
      (u.modEng fun e => { e with groups := e.groups.map stop, colls := e.colls.filter fun c => !hit c, members := e.members.filter fun p => !part p }))) ∧
  (∀ s : State, Comes .fabricLinkUp s (((s.pkgs.map (·.1)).filter (· != pkgOf s.at_)).foldl
    (fun t q => t.sendOwn (t.standIn (launchEngine q 0)) kSystem 2 0 [flit4 (BitVec.ofNat 64 (pkgOf s.at_) ||| (s.home.bootGen.setWidth 64 <<< 32)) 0 0 0]) s))) ∧
  (
  (∀ (sy sz p d : Nat),
    (pkgY p ≠ pkgY d → 2 * ((pkgY d + sy - pkgY p) % sy) ≤ sy → nextDir sy sz p d = some 4) ∧
    (pkgY p ≠ pkgY d → sy < 2 * ((pkgY d + sy - pkgY p) % sy) → nextDir sy sz p d = some 5) ∧
    (pkgY p = pkgY d → pkgZ p ≠ pkgZ d → 2 * ((pkgZ d + sz - pkgZ p) % sz) ≤ sz → nextDir sy sz p d = some 6) ∧
    (pkgY p = pkgY d → pkgZ p ≠ pkgZ d → sz < 2 * ((pkgZ d + sz - pkgZ p) % sz) → nextDir sy sz p d = some 7) ∧
    (pkgY p = pkgY d → pkgZ p = pkgZ d → pkgW p < pkgW d → nextDir sy sz p d = some 0) ∧
    (pkgY p = pkgY d → pkgZ p = pkgZ d → pkgW d < pkgW p → nextDir sy sz p d = some 1) ∧
    (pkgY p = pkgY d → pkgZ p = pkgZ d → pkgW p = pkgW d → pkgX p < pkgX d → nextDir sy sz p d = some 2) ∧
    (pkgY p = pkgY d → pkgZ p = pkgZ d → pkgW p = pkgW d → pkgX d < pkgX p → nextDir sy sz p d = some 3)) ∧
  (∀ (s : State) (x : Transit), s.transit[s.ev.idx]? = some x → x.pkg = pkgOf s.at_ →
    let i := s.ev.idx
    let d := pkgOf x.msg.dst
    let without (u : State) : State := { u with transit := u.transit.take i ++ u.transit.drop (i + 1) }
    let drops (u : State) (engine : CoreAddr) : Prop := Comes .fabricForward s
      (if x.msg.isNack = true then (without u).settle x.msg else (without u).at engine fun v => v.nack x.msg cPlacement (x.msg.dst.setWidth 64))
    let lands (u : State) : State := { without u with flight := u.flight ++ [x.msg] }
    (x.port = none → x.pkg = d →
      (((s.pkg d).dieWay x.die (dieOf x.msg.dst)).isSome = true → Comes .fabricForward s (lands (s.passDies d x.die (dieOf x.msg.dst) x.msg))) ∧
      (((s.pkg d).dieWay x.die (dieOf x.msg.dst)).isSome = false → Comes .fabricForward s s)) ∧
    (x.port = none → ∀ dir, x.pkg ≠ d → nextDir s.sy s.sz x.pkg d = some dir →
      let open_ (k : Nat) : Bool := s.hopOpen x.pkg x.die x.msg.src k
      let way := x.dir.getD dir
      let side := detourDir x.pkg way
      let lost : Prop := s.named d = false ∨ (stepDir s.sy s.sz x.pkg dir = some d ∧ look s.pkgs d = none)
      let leaves (k det : Nat) : Prop := ∀ q, stepDir s.sy s.sz x.pkg k = some q →
        let upper := x.upper || decide (x.det < det)
        let port := s.choosePort x.pkg q x.msg upper ((s.pkg x.pkg).livePorts x.pkg x.die k x.msg.src)
        let keyed : Prop := s.sealedMsg x.msg = false ∨ (q ∈ (s.pkg x.pkg).fabricKeys ∧ x.pkg ∈ (s.pkg q).fabricKeys)
        (¬ keyed ∨ port = none → Comes .fabricForward s s) ∧
        (keyed → ∀ p, port = some p → let u := (s.passDies x.pkg x.die (p / 6) x.msg).takePort x.pkg p x.msg
          Comes .fabricForward s { u with transit := u.transit.take i ++ u.transit.drop (i + 1) ++ [{ x with det := det, upper := upper, port := some p }] })
      (lost → drops s (portEngine x.pkg (6 * dir))) ∧
      let ends : Prop := drops s (portEngine x.pkg (6 * dir))
      (¬ lost → open_ way = true → leaves way x.det) ∧
      (¬ lost → open_ way = false → 2 ≤ x.det → ends) ∧
      (¬ lost → open_ way = false → x.det < 2 → open_ side = true → leaves side (x.det + 1)) ∧
      (¬ lost → open_ way = false → open_ side = false → x.det = 1 → ends) ∧
      (¬ lost → open_ way = false → open_ side = false → x.det = 0 → open_ (detourDir x.pkg side) = true → leaves (detourDir x.pkg side) 2) ∧
      (¬ lost → open_ way = false → open_ side = false → x.det = 0 → open_ (detourDir x.pkg side) = false → ends)) ∧
    (∀ port, x.port = some port → (∃ y ∈ s.transit.take i, y.pkg = x.pkg ∧ y.port = some port) → Comes .fabricForward s s) ∧
    (∀ port q, x.port = some port → (∀ y ∈ s.transit.take i, ¬ (y.pkg = x.pkg ∧ y.port = some port)) → stepDir s.sy s.sz x.pkg (port / 6) = some q →
      let inPort := 6 * (if port / 6 % 2 = 0 then port / 6 + 1 else port / 6 - 1) + port % 6
      let t := s.modPort q inPort fun p => { p with digestIn := nextDigest p.digestIn x.msg }
      let y := { x with pkg := q, upper := x.upper || dateline s.sy s.sz x.pkg (port / 6), port := none, inPort := some (inPort, x.upper), dir := none }
      let there : State := { t with transit := t.transit.take i ++ [y] ++ t.transit.drop (i + 1) }
      (q ≠ d → Comes .fabricForward s there) ∧
      (q = d → (t.pkg q).portPart inPort ≠ (t.pkg q).partOf x.msg.dst → drops t (portEngine q inPort)) ∧
      (q = d → (t.pkg q).portPart inPort = (t.pkg q).partOf x.msg.dst →
        (((t.pkg q).dieWay (inPort / 6) (dieOf x.msg.dst)).isSome = true → Comes .fabricForward s (lands (t.passDies q (inPort / 6) (dieOf x.msg.dst) x.msg))) ∧
        (((t.pkg q).dieWay (inPort / 6) (dieOf x.msg.dst)).isSome = false → Comes .fabricForward s there)))) ∧
  (∀ p k : Nat, k < 8 → detourDir p k = if k ≤ 1 then (if pkgX p < 3 then 2 else 3) else if pkgW p < 3 then 0 else 1) ∧
  (∀ (s : State) (pkg d e : Nat) (m : Msg) (w : List Nat), (s.sealedMsg m = false → s.passDies pkg d e m = s) ∧
    (s.sealedMsg m = true → (s.pkg pkg).dieWay d e = some w → ∃ l : List (Nat × Nat), s.passDies pkg d e m = s.setPkg pkg { s.pkg pkg with dieCounts := l })) ∧
  (∀ (s : State) (pkg q : Nat) (m : Msg) (upper : Bool) (ports : List Nat), ports.Pairwise (· < ·) →
    let credits (p : Nat) : Nat := s.credits pkg p q m.cls upper
    (s.choosePort pkg q m upper ports = none ↔ ∀ p ∈ ports, credits p < s.linkFlits m) ∧
    (∀ p, s.choosePort pkg q m upper ports = some p → p ∈ ports ∧ s.linkFlits m ≤ credits p ∧
      ∀ r ∈ ports, credits r ≤ credits p ∧ (credits r = credits p → p ≤ r))) ∧
  (∀ (k : Package) (d e : Nat), d < 8 → e < 8 → (∀ b, b < 10 → k.lostModules b < 12) → ∃ l : List Nat, k.dieWay d e = some l ∧
    l.head? = some d ∧ l.getLast? = some e ∧ (∀ x ∈ l.dropLast, x / 4 = d / 4) ∧
    l.length = 1 + (d % 4 - e % 4) + (e % 4 - d % 4) + (if d / 4 = e / 4 then 0 else 1)) ∧
  (∀ (s : State) (p : Port), s.home.ports.toList[s.ev.idx]? = some p →
    let recent (l : List Word) : List Word := l.filter fun t => decide ((s.time - t).toNat < 1000000)
    let with' (q : Port) : State := s.modHome fun k => { k with ports := k.ports.setIfInBounds s.ev.idx q }
    let back (x : Transit) : Transit := if x.pkg = pkgOf s.at_ ∧ x.port = some s.ev.idx then { x with port := none, dir := some (s.ev.idx / 6) } else x
    (s.ev.flag = false → Comes .linkRetry s (with' { p with retries := recent p.retries ++ [s.time] })) ∧
    (s.ev.flag = true → Comes .linkRetry s (with' { p with retries := recent p.retries ++ [s.time], tagFails := recent p.tagFails ++ [s.time] })) ∧
    (p.withdrawn = false → 16 < (recent p.retries).length ∨ 16 ≤ (recent p.tagFails).length ∨ s.ev.flag = true →
      Comes .portWithdraw s (({ (with' { p with withdrawn := true, failures := p.failures + 1 }) with transit := s.transit.map back }).at (portEngine (pkgOf s.at_) s.ev.idx) fun u =>
        u.sendOwn (u.standIn (supervisor0 (pkgOf s.at_) (s.ev.idx / 6))) kSystem 7 0 [flit4 (BitVec.ofNat 64 s.ev.idx) (BitVec.ofNat 64 (p.failures + 1)) s.time 0])) ∧
    (p.withdrawn = false → (recent p.retries).length ≤ 16 → (recent p.tagFails).length < 16 → s.ev.flag = false → Comes .portWithdraw s s) ∧
    (p.withdrawn = true → isSupervisor s.at_ = true → dieOf s.at_ = s.ev.idx / 6 →
      Comes .portRetrain s (with' { p with withdrawn := false, retries := [], tagFails := [] })) ∧
    (isSupervisor s.at_ = false ∨ dieOf s.at_ ≠ s.ev.idx / 6 → Comes .portRetrain s s)) ∧
  (∀ s : State, s.ev.idx < 10 → let n := (look s.home.modules s.ev.idx).getD 0
    Comes .moduleWithdraw s (s.modHome fun k => { k with modules := put k.modules s.ev.idx (min 12 (n + 1)) })))

/-- Debug events (R338 to R342, R347, R348). The cause and value of a refused step are free (log entry 1).

Paired execution (R256). -/
def Obligations.DebugEvents : Prop :=
  (
  (∀ (s : State) (m : Msg) (t : State), Takes s m t →
    let u := t.settle m
    let d := u.here.dbg
    let dgid : Prop := (m.dw 1).extractLsb' 40 16 = (d.group.extractLsb' 40 16 : BitVec 16)
    (s.eventFor m = .debugStop → d.en = true → d.stopping = false → dgid → Comes .debugStop s (u.modDbg fun d => { d with
      stopping := true, stopped := false, trig := m.dw 0, cause := (m.dw 1).extractLsb' 29 3, arrived := u.time, skid := 0 })) ∧
    (s.eventFor m = .debugStop → d.en = false ∨ d.stopping = true ∨ ¬ dgid → Comes .debugStop s u) ∧
    (s.eventFor m = .debugStep → let n := ((m.dw 1).extractLsb' 0 16).toNat
      (t.here.dbg.stopped = true → t.here.dbg.steps = 0 → n ≠ 0 → Comes .debugStep s (u.modDbg fun d => { d with steps := n, done := 0, draining := false, step := StepMark.none })) ∧
      (t.here.dbg.stopped = false ∨ t.here.dbg.steps ≠ 0 ∨ n = 0 → ∃ c v, Comes .debugStep s (t.nack m c v))) ∧
    (s.eventFor m = .debugResume →
      let go (v : State) : State := v.modDbg fun d => { d with stopping := false, stopped := false, skid := 0, steps := 0, done := 0, draining := false }
      (d.held = none → Comes .debugResume s (go u)) ∧
      (∀ i, d.held = some i → Comes .debugResume s (go { u with here := { u.here with
        acts := u.here.acts.set i { u.here.acts[i] with heldFor := u.here.acts[i].heldFor +
          if u.here.cyc.toNat < u.here.acts[i].heldAt.toNat then 0 else u.here.cyc - u.here.acts[i].heldAt }
        dbg := { d with held := none, passBp := d.passBp ||| BitVec.twoPow 4 i.val } } })))) ∧
  (∀ s : State,
    let d := s.here.dbg
    let alone : Prop := ∀ i : Fin 4, s.here.acts[i].busy = false ∨ d.held = some i
    let land : Word := BitVec.ofNat 64 (min (d.ended.toNat - d.arrived.toNat) 0xFFFFFF)
    let skid : Strip := flit4 ((land <<< 40) ||| (d.trig.extractLsb' 0 40).setWidth 64)
      ((d.skid.setWidth 64 <<< 48) ||| ((d.group.extractLsb' 40 16).setWidth 64 <<< 32) ||| (d.cause.setWidth 64 <<< 29) ||| s.at_.setWidth 64) 0 0
    (d.stopping = true → d.stopped = false → alone → Comes .coreStopped s (((s.modCore (s.standIn (collectorOf s.at_)) fun c => { c with eng := { c.eng with
      trace := { c.eng.trace with passed := c.eng.trace.passed ++ [skid] } } }).modDbg fun d => { d with stopped := true }).sendLog true)) ∧
    (d.stopping = false ∨ d.stopped = true ∨ ¬ alone → Comes .coreStopped s s) ∧
    (s.ev.n = 1 → Comes .recordReplayMode s (s.modDbg fun d => { d with digest := 0, count := 0, logbook := [], replay := .record })) ∧
    (s.ev.n = 2 → Comes .recordReplayMode s (s.modDbg fun d => { d with digest := 0, count := 0, replay := .replay 0 })) ∧
    (s.ev.n ≠ 1 → s.ev.n ≠ 2 → Comes .recordReplayMode s (s.modDbg fun d => { d with replay := .off })))) ∧
  (
  ∀ (s : State) (tc : CoreAddr) (j : Fin 4),
    let u : State := { s with slot := Fin.ofNat 4 s.ev.idx }
    let p := u.pairPoint
    let q := ({ u.focus tc with slot := j } : State).pairPoint
    let back (t : State) : State := { t with slot := s.slot }
    let goes (t : State) : Prop := Comes .fingerprintCheckpoint s (back t)
    let both (f g : State → State) : State := (f u).atSlot tc j g
    let dropped := both (fun v => v.dropRun false) fun v => v.dropRun false
    let record (n : Nat) : Record := { u.syncRecord (.plain 0x14 (BitVec.ofNat 64 n)) true with async := true, pc := 0 }
    let retired (n : Nat) : State := (both (fun v => v.dropRun true) fun v => v.dropRun true).deliver u.classS u.act.trig.cid
      (record n) u.origin u.act.sends
    let mismatch (n : Nat) : Prop := (u.dropsOf < 3 → goes dropped) ∧ (3 ≤ u.dropsOf →
      goes (if u.act.csr.asid.getLsbD 36 = true then (retired n).ascentTrap u.act (record n) u.origin else retired n))
    let next := u.act.instret.toNat / 1024 + 1
    u.act.busy = true → u.act.paired = true → u.act.trig.dst = s.at_ → neighbour s.at_ 0 = some tc → (s.core tc).twinSlot u.act = some j →
      (p = .running ∨ q = .running → Comes .fingerprintCheckpoint s s) ∧
      (∀ n f, p = .point n f → q = .point n f → goes (both (fun v => v.modAct fun a => { a with ckpt := n }) fun v => v.modAct fun a => { a with ckpt := n })) ∧
      (∀ n f k g, p = .point n f → q = .point k g → n ≠ k ∨ f ≠ g → mismatch n) ∧
      (∀ n f x y, p = .point n f → q = .trapped x y → mismatch n) ∧
      (∀ n f x y, p = .trapped x y → q = .point n f → mismatch n) ∧
      (∀ x y v w, p = .trapped x y → q = .trapped v w → x.cause = v.cause → y = w →
        (x.cause ≠ 0x13 → goes (both (fun z => z.takeTrap x false) fun z => z.dropRun true)) ∧
        (x.cause = 0x13 → u.dropsOf < 3 → goes dropped) ∧
        (x.cause = 0x13 → 3 ≤ u.dropsOf → goes (both (fun z => z.takeTrap x true) fun z => z.dropRun true))) ∧
      (∀ x y v w, p = .trapped x y → q = .trapped v w → x.cause ≠ v.cause ∨ y ≠ w → mismatch next))

/-- Repairs by a supervisor (R258 to R260, R320). The new home of a slide is a core of the model's choice, a failed copy leaves the region (log entry 42), and what a failed engine had
accepted follows log entry 68. -/
def Obligations.Repairs : Prop :=
  (∀ (s : State), isCompute s.ev.src = true → pkgOf s.ev.src = pkgOf s.at_ → s.serves s.ev.src = true →
    let a := s.ev.src
    let row := rowFrom a
    let hit (e : RptEntry) : Bool := e.homes.any row.contains
    let used := (look s.home.rowsUsed (rowNo a)).isSome
    let last := mkAddr (pkgOf a) (dieOf a) (yOf a) 47
    (a ∉ s.home.moving → s.home.rpt.Pairwise (fun x y => ¬ (x.space = y.space ∧ x.base = y.base)) → ∃ t, Comes .quarantine s t ∧ t.home.moving = s.home.moving ++ [a] ∧
      t.home.rpt = s.home.rpt.map (fun e => if hit e then { e with mov := true } else e) ∧ (∀ c ∈ row, (t.core c).frozen = (s.core c).frozen) ∧
      ∀ e ∈ s.home.rpt, hit e = true → ∃ l, (e.space, e.base, l) ∈ t.home.shots ∧ ∀ d ∈ packageCores (pkgOf s.at_), (s.core d).present = true → d ∈ l) ∧
    (a ∈ s.home.moving → s.rowQuiet a = false → Comes .quarantine s s) ∧
    (a ∈ s.home.moving → s.rowQuiet a = true → (s.core a).frozen = false → ∃ t, Comes .quarantine s t ∧ (t.core a).mx.queue = [] ∧ ∀ c ∈ row, (t.core c).frozen = true) ∧
    (a ∈ s.home.moving → s.rowQuiet a = true → (s.core a).frozen = true → s.rehoming a = true ∨ (∃ c ∈ row, (s.core c).atRest = false) → Comes .quarantine s s) ∧
    (a ∈ s.home.moving → s.rowQuiet a = true → (s.core a).frozen = true → s.rehoming a = false → (∀ c ∈ row, (s.core c).atRest = true) →
      let stays (e : RptEntry) : Bool := (used && e.homes.contains last) || s.home.slides.any fun x => x.region.same e
      ∃ t, Comes .quarantine s t ∧ a ∉ t.home.moving ∧ (t.core a).mx = Machine.Matrix.zero ∧
      (t.core a).mem.bytes = (s.core a).mem.bytes ∧ (t.core a).mem.bad = [] ∧ (∀ g ∈ (s.core a).mem.bad, g ∈ (t.core a).mem.poison) ∧
      t.home.rpt = s.home.rpt.map (fun e => if e.mov && hit e && !stays e then { e with mov := false, pgen := e.pgen + 1 } else e) ∧
      (∀ c ∈ row, (∀ b ∈ s.home.moving, b ≠ a → c ∉ rowFrom b) → (t.core c).frozen = false) ∧ (t.home.rowsUsed.map (·.1)).contains (rowNo a) = true ∧
      (used = false → t.home.absent = s.home.absent) ∧ (used = true → (t.core last).present = false))) ∧
  (∀ (s : State), isSupervisor s.at_ = true → isEngine s.ev.src = true → pkgOf s.ev.src = pkgOf s.at_ → dieOf s.ev.src = dieOf s.at_ →
    s.home.absent.contains s.ev.src.toNat = false →
    let a := s.ev.src
    let t := s.modEng fun e => { e with reports := e.reports.filter fun m => !(m.ch == 10 && m.fault.kind == 4 && m.fault.req == a) }
    let ended (c : CopyCmd) : CopyCmd := { c with started := true, halted := true, fail := some (0x13, 3, 0) }
    let free := (sparesOf (pkgOf a) (dieOf a)).filter fun p => p != a && !(s.home.engMap.any fun e => e.2 == p.toNat)
    (free = [] → (s.core a).eng.copies ≠ [] → Comes .engineSpareReplace s (s.at a fun u => u.modEng fun e => { e with copies := e.copies.map ended })) ∧
    (free = [] → (s.core a).eng.copies = [] → ∃ v, Comes .engineSpareReplace s v ∧ v.home.absent = insertNat s.home.absent a.toNat ∧ (v.core a).present = false) ∧
    (∀ p rest, free = p :: rest → 
      let failed : List (Nat × Nat) := match look s.home.engMap a.toNat with
        | some old => put s.home.engMap old old
        | none => s.home.engMap
      Comes .engineSpareReplace s ((t.modHome fun k => { k with engMap := put failed a.toNat p.toNat }).at a State.endWork))) ∧
  (∀ s : State, let t := s.endWork
    let ended (c : CopyCmd) : CopyCmd := { c with started := true, halted := true, fail := some (0x13, 3, 0) }
    t.here.eng.copies = s.here.eng.copies.map ended ∧ t.here.eng.members = s.here.eng.members.map ended ∧ t.here.eng.colls = [] ∧
    (∀ l ∈ t.here.eng.launches, l.failed = true) ∧ t.here.mem.bad = [] ∧ ∀ g ∈ s.here.mem.bad, g ∈ t.here.mem.poison) ∧
  (∀ (s : State) (x : Slide), s.home.slides[s.ev.idx]? = some x → s.serves (x.region.homes.headD 0) = true →
    let i := s.ev.idx
    let ids := s.home.slideIds x
    let all := computeCores (pkgOf s.at_)
    let mask (on : Bool) (t : State) : State := (x.region.spans.zip x.target.spans).foldl
      (fun u p => u.modCore p.1.1 fun c => c.modLessee x.region.owner fun l => l.maskPreg [p.1.2, p.2.2] on) (t.modCores all fun c => c.maskImages ids on)
    let busy : Prop := (∃ a ∈ all, (s.core a).runs ids = true) ∨ ∃ p ∈ x.region.spans, (s.core p.1).runsOn x.region.owner p.2 = true
    let step (n : Nat) (t : State) : State := t.modHome fun k => { k with slides := k.slides.modify i fun y => { y with step := n } }
    let goes (t : State) : Prop := Comes .slideRegion s t
    (x.step = 0 → ∀ e, s.home.rpt.find? (fun e => e.same x.region) = some e → ∃ t, goes t ∧ t.home.slides = s.home.slides.modify i (fun y => { y with step := 1 }) ∧
      t.home.rpt = s.home.rpt.map fun y => if y.space = e.space ∧ y.base = e.base then { e with mov := true, pgen := e.pgen + 1 } else y) ∧
    (x.step = 1 → s.home.quietOn x.region = false → goes s) ∧
    (x.step = 1 → s.home.quietOn x.region = true → goes (step 2 (mask true s))) ∧
    (x.step = 2 → busy → goes s) ∧
    (x.step = 2 → ¬ busy → ∃ dev : RptEntry, dev.space = 0xFF ∧ dev.owner = 0 ∧ dev.loc = x.target.loc ∧ dev.len = x.region.len ∧
      goes ((step 3 ((s.openCopy x).modHome fun k => { k with rpt := k.rpt ++ [dev] })).leaveOwn { OutItem.own (.uni s.slideEngine kSystem 9 0
        [flit4 x.region.base dev.base ((1#64 <<< 33) ||| BitVec.ofNat 64 x.region.len.toNat) 250, kickFlit x.xid (s.slideSlot x) x.region.space 0xFF 0]) 0 with l := true })) ∧
    (x.step = 3 → s.slideReport x = none → goes s) ∧
    (x.step = 3 → ∀ m, s.slideReport x = some m →
      (m.byte 7 = 0 → ∃ t, goes t ∧ t.home.slides = s.home.slides.modify i (fun y => { y with step := 4 }) ∧
        ∀ e ∈ s.home.rpt, e.space ≠ 0xFF → (if e.same x.region then { e with loc := x.target.loc, mov := false } else e) ∈ t.home.rpt) ∧
      (m.byte 7 ≠ 0 → ∃ t, goes t ∧ t.home.slides = s.home.slides.eraseIdx i ∧
        ∀ e ∈ s.home.rpt, e.space ≠ 0xFF → (if e.same x.region then { e with mov := false } else e) ∈ t.home.rpt)) ∧
    (x.step = 4 → s.isPersistent x.target = true → goes (step 5 s)) ∧
    (x.step = 4 → s.isPersistent x.target = false → ∃ t, goes t ∧ t.home.slides = s.home.slides.modify i (fun y => { y with step := 5 }) ∧
      ∀ p ∈ s.home.boundTo x.region, ∀ q, s.home.reseal (x.region.loc.extractLsb' 0 18).toNat x.newNear.toNat p = some q →
        q ∈ t.home.plodan ∧ q.src.id = p.src.id ∧ q.src.gen = p.src.gen + 1) ∧
    (4 < x.step → (∃ d ∈ ids, s.installed d = false) → goes s) ∧
    (4 < x.step → (∀ d ∈ ids, s.installed d = true) → goes ((mask false s).modHome fun k => { k with slides := k.slides.eraseIdx i }).releaseFaults))

/-- Host commands (R352 to R354). Numbers from 0x40 on, the places of a call's fields and the counters' selectors are the model's (log entry 43).

Host accesses to device memory (R323) and the journal window (R352). -/
def Obligations.HostCommands : Prop :=
  (
  ∀ s : State, s.at_ = hostAgent (pkgOf s.at_) → s.home.queueOpen s.ev.cmd.vf s.ev.cmd.queue = true →
    let vf := s.ev.cmd.vf
    let q := s.ev.cmd.queue
    let f := s.home.fn vf
    let enter (f : Func) (status : BitVec 8) (cm : Vector Word 8) : Func :=
      let e : Journal := { seq := f.nextSeq, status := status, type := cm[0].extractLsb' 0 8, info := 0, hash := sha3First128 (cm.toList.flatMap fun x => leBytes 8 x.toNat) }
      { f with journal := (f.journal.filter fun j => j.seq.toNat % 65536 != e.seq.toNat % 65536) ++ [e], nextSeq := f.nextSeq + 1 }
    let modVf (f : Func → Func) : State := s.modHome fun k => k.modFn vf f
    let entered (status : BitVec 8) (cm : Vector Word 8) (x : Func) : Func := enter { x with pend := x.pend.filter (· != q) } status cm
    let events : List Instr := [.hostLaunch, .hostCall, .stageImage, .hostSlideRegion, .hostCollective, .readCounters, .pfCommand, .deviceReset]
    (s.ev.flag = true → ∀ i ∈ events,
      (∀ old, look f.win q = some old → q ∈ f.pend → Comes i s (modVf fun x => { enter x 0x04 old with win := put (enter x 0x04 old).win q s.ev.cmd.dw,
                                                                                                         pend := insertNat (enter x 0x04 old).pend q })) ∧
      (look f.win q = none ∨ q ∉ f.pend → Comes i s (modVf fun x => { x with win := put x.win q s.ev.cmd.dw, pend := insertNat x.pend q }))) ∧
    (s.ev.flag = false → ∀ cm : Vector Word 8, look f.win q = some cm → q ∈ f.pend → cm[0].extractLsb' 8 56 = (0 : BitVec 56) →
      let type : BitVec 8 := cm[0].extractLsb' 0 8
      let a := modVf fun x => { entered 0x00 cm x with status := put (entered 0x00 cm x).status q (f.nextSeq <<< 16) }
      let no := modVf (entered 0x02 cm)
      let ten : BitVec 12 := f.rec16[0].extractLsb' 0 12
      let fcid (sub : BitVec 4) : BitVec 16 := ten ++ sub
      (type = 0x01 → (cm[2].extractLsb' 4 60 = 0 → Comes .hostLaunch s (a.sendOwn (s.standIn (launchEngine (pkgOf s.at_) 0)) kSystem 0 (fcid (cm[2].extractLsb' 0 4))
          [flit4 cm[1] ((cm[2].extractLsb' 0 4).setWidth 64) (BitVec.ofNat 64 vf) f.nextSeq, 0])) ∧
        (cm[2].extractLsb' 4 60 ≠ 0 → Comes .hostLaunch s no)) ∧
      (type = 0x02 →
        let d : CoreAddr := cm[1].extractLsb' 0 29
        let ch : BitVec 8 := cm[2].extractLsb' 0 8
        let n := (cm[2].extractLsb' 8 6).toNat
        let sys : Prop := ch.toNat < 16 ∨ (248 ≤ ch.toNat ∧ ch.toNat < 252)
        let reaches : Prop := vf = 0 ∨ (pkgOf d = pkgOf s.at_ ∧ f.rec16[1].getLsbD (sectorOf d) = true) ∨ (pkgOf d ≠ pkgOf s.at_ ∧ f.rec16[2].extractLsb' 0 48 ≠ 0)
        let ok : Prop := cm[1].extractLsb' 29 35 = 0 ∧ namesCore d = true ∧ cm[2].extractLsb' 14 50 = 0 ∧ n ≤ 32 ∧ (sys → vf = 0) ∧ reaches
        (ok → ∃ k : BitVec 2, (sys → k = 3) ∧ (¬ sys → k = 0) ∧ Comes .hostCall s (a.sendOwn d k ch (fcid 0)
          (flitsOf ((leBytes 8 cm[3].toNat ++ leBytes 8 cm[4].toNat ++ leBytes 8 cm[5].toNat ++ leBytes 8 cm[6].toNat).take n)))) ∧
        (¬ ok → Comes .hostCall s no)) ∧
      (type = 0x03 →
        let n := cm[2].toNat
        let broken : Prop := (s.home.part (f.rec16[0].extractLsb' 32 5).toNat).conf = true ∧ (s.ev.w.getLsbD 8 = true ∨ s.home.ideKeys.contains hostPort = false)
        (∀ e, s.home.regionAt (f.rec16[0].extractLsb' 16 8) cm[3] = some e → e.owner = ten → cm[3].toNat + n ≤ e.base.toNat + e.len.toNat → e.mov = false →
          (f.grants vf e = false → Comes .stageImage s no) ∧
          (f.grants vf e = true → vf ≠ 0 → broken → Comes .stageImage s (a.modHome fun k => k.modFn vf fun x => x.rewrite f.nextSeq 0x03 0x13)) ∧
          (f.grants vf e = true → vf = 0 ∨ ¬ broken → ∀ t k, let w := a.writeParts ten (memRead s.hostMem cm[1].toNat n) (partsAt e (pkgOf s.at_) cm[3] n)
            (w = (t, k, none) → Comes .stageImage s t) ∧
            (∀ c v, w = (t, k, some (c, v)) → Comes .stageImage s (t.modHome fun k => k.modFn vf fun x => x.rewrite f.nextSeq 0x03 (c.setWidth 40))))) ∧
        (s.home.regionAt (f.rec16[0].extractLsb' 16 8) cm[3] = none → Comes .stageImage s no)) ∧
      (type = 0x04 → ∀ e, s.home.rpt.find? (fun e => e.space == (cm[1].extractLsb' 0 8 : BitVec 8) && e.base == cm[2]) = some e →
        let mine : Prop := vf = 0 ∨ (e.owner = ten ∧ f.grants vf e = true ∧ ((cm[1].extractLsb' 0 8 : BitVec 8) = f.rec16[0].extractLsb' 16 8 ∨ (cm[1].extractLsb' 0 8 : BitVec 8) = f.rec16[0].extractLsb' 24 8))
        let near : BitVec 18 := cm[3].extractLsb' 0 18
        let asks : Prop := cm[1].extractLsb' 8 56 = 0 ∧ cm[3].extractLsb' 18 46 = 0 ∧ e.mov = false ∧ mine
        (asks → ∀ c, c ∈ a.slideTargets e near → ∃ d ∈ a.slideTargets e near, Comes .hostSlideRegion s (({ a with free := a.free + 1 } : State).modHome fun k => { k with
          slides := k.slides ++ [{ region := e, newNear := near, newCore := d, step := 0, xid := BitVec.ofNat 32 k.slideNo }], slideNo := k.slideNo + 1 })) ∧
        (¬ asks ∨ a.slideTargets e near = [] → Comes .hostSlideRegion s no)) ∧
      (type = 0x05 →
        let pay := [flit4 cm[1] cm[2] cm[3] cm[4], flit4 cm[5] 0 0 0]
        let c : CollCmd := { blk := flitBytes pay, cid := fcid 0, issuer := s.at_, stage := 0, parts := [] }
        let ok : Prop := cm[6] = 0 ∧ cm[7] = 0 ∧ (vf = 0 ∨ a.collInQuota f vf c = true)
        (ok → Comes .hostCollective s (a.leaveOwn { OutItem.own (.uni s.collEngine kSystem 9 0 pay) (fcid 0) with l := true })) ∧
        (¬ ok → Comes .hostCollective s no)) ∧
      (type = 0x06 → ∀ n, f.counter cm[1].toNat = some n →
        Comes .readCounters s (a.modHome fun k => k.modFn vf fun x => { x with answers := x.answers ++ [(cm[1], BitVec.ofNat 64 n)] })) ∧
      (0x40 ≤ type.toNat → type.toNat < 0x4F → vf ≠ 0 → Comes .pfCommand s no) ∧
      (type = 0x43 → vf = 0 → 1500 ≤ cm[1].toNat → cm[1].toNat ≤ 4600 →
        Comes .pfCommand s (a.modHome fun k => { k with powerLimit := cm[1].extractLsb' 0 16 })) ∧
      (type = 0x43 → vf = 0 → cm[1].toNat < 1500 ∨ 4600 < cm[1].toNat → Comes .pfCommand s no) ∧
      (type = 0x4F → vf = 0 → Comes .deviceReset s (a.resetPackage s.ev.n s.home.firmware)) ∧
      (type = 0x4F → vf ≠ 0 → Comes .deviceReset s no))) ∧
  (
  ∀ s : State, s.at_ = hostAgent (pkgOf s.at_) →
    (s.home.queueOpen s.ev.cmd.vf s.ev.cmd.queue = true → Comes .journalWindowWrite s (s.modHome fun k => k.modFn s.ev.cmd.vf fun f =>
      { f with jsel := put f.jsel s.ev.cmd.queue (s.ev.w.extractLsb' 0 16) })) ∧
    (let vf := s.ev.idx
     let f := s.home.fn vf
     let ten : BitVec 12 := f.rec16[0].extractLsb' 0 12
     let sp : BitVec 8 := s.ev.w.extractLsb' 0 8
     let off := s.ev.w2
     let n := if s.ev.flag = true then s.ev.bytes.length else s.ev.n
     let mine : Prop := f.valid = true ∧ ten ≠ 0 ∧ (sp = f.rec16[0].extractLsb' 16 8 ∨ sp = f.rec16[0].extractLsb' 24 8)
     let modVf (t : State) (g : Func → Func) : State := t.modHome fun k => k.modFn vf g
     let nacked (c : Cause) (x : Func) : Func := { x with nacks := put x.nacks c.toNat ((look x.nacks c.toNat).getD 0 + 1), eccu := if c = 0x13 then x.eccu + 1 else x.eccu }
     let unsupported := modVf s fun f => { f with unsupported := f.unsupported + 1 }
     let broken : Prop := (s.home.part (f.rec16[0].extractLsb' 32 5).toNat).conf = true ∧ (s.ev.w.getLsbD 8 = true ∨ s.home.ideKeys.contains hostPort = false)
     (¬ mine → Comes .hostMemoryAccess s unsupported) ∧
     (mine → broken → Comes .hostMemoryAccess s (modVf s fun f => { f with nacks := put f.nacks 0x13 ((look f.nacks 0x13).getD 0 + 1), eccu := f.eccu + 1 })) ∧
     (mine → ¬ broken → s.home.regionAt sp off = none → Comes .hostMemoryAccess s unsupported) ∧
     (mine → ¬ broken → ∀ e, s.home.regionAt sp off = some e → e.owner = ten → off.toNat + n ≤ e.base.toNat + e.len.toNat → e.mov = false → f.grants vf e = false →
       Comes .hostMemoryAccess s unsupported) ∧
     (mine → ¬ broken → ∀ e, s.home.regionAt sp off = some e → e.owner = ten → off.toNat + n ≤ e.base.toNat + e.len.toNat → e.mov = false → f.grants vf e = true →
       (s.ev.flag = false → ∀ bs, s.readParts ten (partsAt e (pkgOf s.at_) off n) = .ok bs →
         Comes .hostMemoryAccess s (modVf (s.seeParts ten (partsAt e (pkgOf s.at_) off n)) fun x => { x with answers := x.answers ++ readAnswers off bs })) ∧
       (s.ev.flag = false → ∀ c v, s.readParts ten (partsAt e (pkgOf s.at_) off n) = .refused c v →
         Comes .hostMemoryAccess s (modVf (s.seeParts ten (partsAt e (pkgOf s.at_) off n)) (nacked c))) ∧
       (s.ev.flag = true → ∀ t k c v, s.writeParts ten s.ev.bytes (partsAt e (pkgOf s.at_) off n) = (t, k, some (c, v)) → Comes .hostMemoryAccess s (modVf t (nacked c))) ∧
       (s.ev.flag = true → ∀ t k, s.writeParts ten s.ev.bytes (partsAt e (pkgOf s.at_) off n) = (t, k, none) → Comes .hostMemoryAccess s t))))

/-- Resets (R334, R356, R357). That partitions but 0 hold nothing after a cold reset, and that a scrubbed partition dispatches again, are the model's choices (log entry 45).

Function-level reset (R357) and the power limit (R358). What becomes of discarded messages is the model's choice (log entry 45).

SPDM requests and IDE keys (R330, R331, R334). The request codes are the model's presumption, the ports' numbers and the bytes that are measured its choice (log entry 44). -/
def Obligations.PackageResets : Prop :=
  (
  ∀ s : State,
    let p := pkgOf s.at_
    let k := s.home
    let failed : Nat := if Config.firmwareOk s.ev.bytes = (true, true) then (if s.ev.flag = true then s.ev.n else 0) else 1
    let pool : Prop := failed = 0 ∨ 4 < failed
    let device (e : RptEntry) : Prop := e ∈ s.ev.regions ∧ e.space = 0xFF ∧ e.owner = 0 ∧ ∀ a ∈ e.homes, pkgOf a = p
    ((∀ a ∈ k.absent, a < 2 ^ 29 ∧ pkgOf (BitVec.ofNat 29 a) = p) →
      ∃ t, Comes .coldReset s t ∧
        (∀ a, pkgOf a = p → t.core a = { Core.reset with present := !k.absent.contains a.toNat }) ∧
        (∀ a, pkgOf a ≠ p → t.core a = s.core a) ∧
        (∀ q, q ≠ p → t.pkg q = s.pkg q) ∧
        (∀ m, m ∈ t.flight ↔ m ∈ s.flight ∧ pkgOf m.dst ≠ p) ∧ (∀ m, m ∈ t.transit ↔ m ∈ s.transit ∧ m.pkg ≠ p) ∧
        (∀ n, (t.home.part n).epoch = (k.part n).epoch) ∧
        t.home = { Package.reset with
          absent := k.absent, rowsUsed := k.rowsUsed, engMap := k.engMap, modules := k.modules, bootGen := k.bootGen + 1, groupGens := k.groupGens, parts := t.home.parts,
          hdm := if pool then s.ev.found else [], rpt := t.home.rpt,
          firmware := if failed = 1 then [] else s.ev.bytes, inReset := failed != 0, resetCause := failed, outOfService := !k.joined } ∧
        (¬ pool → t.home.rpt = []) ∧ (∀ e ∈ t.home.rpt, device e ∧ e.ok = true) ∧
        (pool → ∀ e, device e → e.ok = true → e ∈ t.home.rpt ∨ (∃ f ∈ t.home.rpt, e.meets f = true) ∨ 2 ^ 20 ≤ t.home.rpt.length) ∧
        t.time = s.time ∧ t.free = s.free) ∧
    Comes .hotReset s (s.setPkg p { k with
      ideKeys := [], sessions := [], opening := [], attested := false,
      funcs := k.funcs.map fun f => (f.1, { f.2 with
        raised := f.2.raised ++ (f.2.opened.filter fun o => decide (o.2.toNat ≤ s.time.toNat) && decide (k.downUntil.toNat ≤ o.2.toNat)).map (·.1)
        opened := f.2.opened.filter fun o => !decide (o.2.toNat ≤ s.time.toNat) }),
      downUntil := s.time + BitVec.ofNat 64 s.ev.n,
      parts := k.parts.map fun x => (x.1, if x.2.conf = true then { x.2 with stoppedAt := some s.time } else x.2) }) ∧
    (let n := s.ev.idx
     ((k.part n).stoppedAt = none → Comes .confScrubTimeout s s) ∧
     (∀ since, (k.part n).stoppedAt = some since → (s.time - since).toNat < 10000000000 → Comes .confScrubTimeout s s) ∧
     (∀ since, (k.part n).stoppedAt = some since → 10000000000 ≤ (s.time - since).toNat →
       ∃ t, Comes .confScrubTimeout s t ∧
         t.home = { k with parts := put k.parts n { k.part n with epoch := (k.part n).epoch + 1, stoppedAt := none } } ∧
         (∀ a, a ∉ packageCores p ∨ k.partOf a ≠ n → t.core a = s.core a) ∧
         (∀ a ∈ packageCores p, k.partOf a = n →
           let c := t.core a
           let runs (n : Fin 8) : Prop := ∃ i : Fin 4, (s.core a).acts[i].busy = true ∧ entryImg (s.core a).acts[i].entry = n
           c.mem.bytes = [] ∧ c.mem.tags = [] ∧ c.mem.bad = [] ∧ c.mem.poison = [] ∧ c.net.queues = [] ∧ c.net.rings = [] ∧
           (∀ n : Fin 8, (¬ runs n → c.images[n] = none) ∧ (runs n → c.images[n] = ((s.core a).images[n]).map fun i => { i with stale := true }) ∧
             (¬ runs n → ∀ i, (s.core a).images[n] = some i → ∀ h, i.base.toNat ≤ 2 * h → 2 * h < i.base.toNat + i.xlen.toNat → c.xmap.getLsbD h = false)) ∧
           (∀ i : Fin 16, c.regs.keys[i] = (s.core a).regs.keys[i].map fun x => { x with epoch := (k.part n).epoch + 1 }) ∧ c.acts = (s.core a).acts)))) ∧
  (
  (∀ s : State, s.at_ = hostAgent (pkgOf s.at_) → s.ev.idx ≠ 0 → s.ev.idx ≤ 31 →
    let vf := s.ev.idx
    let f := s.home.fn vf
    let ten : BitVec 12 := f.rec16[0].extractLsb' 0 12
    ∃ t, Comes .vfFlr s t ∧
      t.home.fn vf = { f with win := [], pend := [], status := [], jsel := [] } ∧
      (∀ i, i ≠ vf → t.home.fn i = s.home.fn i) ∧
      (f.valid = true → ten ≠ 0 → t.home.rpt = s.home.rpt.filter fun e => e.owner != ten) ∧
      (f.valid = false ∨ ten = 0 → t.home.rpt = s.home.rpt ∧ ∀ a, t.core a = s.core a) ∧
      (f.valid = true → ten ≠ 0 → ∀ a ∈ packageCores (pkgOf s.at_),
        (∀ q ∈ (t.core a).net.queues, ∀ e ∈ q.2, e.msg.ten ≠ ten) ∧ (∀ m ∈ (t.core a).net.early, m.ch = 0 → m.kind = 3 → m.ten ≠ ten) ∧ ten.toNat ∉ (t.core a).net.quotaHit ∧ (∀ l ∈ (t.core a).eng.launches, l.ten ≠ ten) ∧
        (∀ e ∈ (t.core a).live.plb, e.owner ≠ ten) ∧
        (∀ m ∈ t.flight, m.ch = 0 → m.kind = 3 → m.ten = ten → pkgOf m.dst ≠ pkgOf s.at_) ∧
        ((s.core a).regs.lessee = ten → (t.core a).live.lcnt = 0 ∧ (t.core a).live.pregs = [] ∧ (t.core a).live.placed = []) ∧ (t.core a).acts = (s.core a).acts)) ∧
  (∀ s : State, (s.home.powerLimit.toNat < s.ev.w.toNat → Comes .powerLimitWindow s (s.modHome fun k => { k with gateUntil := s.time + 1000 })) ∧
    (s.ev.w.toNat ≤ s.home.powerLimit.toNat → Comes .powerLimitWindow s s))) ∧
  (
  ∀ s : State,
    let k := s.home
    let signed (code : BitVec 8) : List (BitVec 8 × Word × Word) := [(code, Config.spdm code.toNat (2 * s.free), Config.spdm code.toNat (2 * s.free + 1))]
    let put' (f : Package) : State := (s.setPkg (pkgOf s.at_) f)
    let answered (f : Package) : State := { (put' f) with free := s.free + 1 }
    let keyed (f : Package) (p : Partition) : Bool := f.ideKeys.contains 16 && (List.range 16).all fun i => !p.pports.getLsbD i || f.ideKeys.contains i
    let goesOn (f : Package) : Package := { f with
      parts := f.parts.map fun p => (p.1, if f.attested && keyed f p.2 then { p.2 with stoppedAt := p.2.stoppedAt.filter fun t => decide (10000000000 ≤ (s.time - t).toNat) } else p.2) }
    let attested (code : BitVec 8) : Package := { k with spdm := k.spdm ++ signed code, attested := true }
    Comes .getCertificate s (answered { k with spdm := k.spdm ++ signed 0x82 }) ∧
    Comes .challenge s (answered (goesOn (attested 0x83))) ∧
    (∃ l : List (BitVec 384), l = Config.digest k.firmware :: ((List.range 11).map Config.imageDigest ++ [Config.digest k.partBytes, Config.digest k.recordBytes, Config.digest k.mapBytes]) ∧
      Comes .getMeasurements s (answered (goesOn { attested 0xE0 with measures := l }))) ∧
    Comes .keyExchange s (answered { k with spdm := k.spdm ++ signed 0xE4, opening := insertNat k.opening s.ev.n, sessions := k.sessions.filter (· != s.ev.n) }) ∧
    (s.ev.n ∈ k.opening →
      let q := s.ev.idx
      let own := answered { k with spdm := k.spdm ++ signed 0xE5, opening := k.opening.filter (· != s.ev.n), sessions := insertNat k.sessions s.ev.n }
      let peer : Prop := s.ev.flag = true ∧ (look s.pkgs q).isSome = true ∧ q ≠ pkgOf s.at_
      (¬ peer → Comes .finish s own) ∧
      (peer → ∃ t, Comes .finish s t ∧ t.home = { own.home with fabricKeys := insertNat k.fabricKeys q } ∧
        t.pkg q = { s.pkg q with fabricKeys := insertNat (s.pkg q).fabricKeys (pkgOf s.at_) } ∧ t.here = s.here ∧ ∀ p, p ≠ q → p ≠ pkgOf s.at_ → t.pkg p = s.pkg p)) ∧
    (s.ev.n ∉ k.opening → Comes .finish s s) ∧
    (s.ev.n ∈ k.sessions → s.ev.idx ≤ 16 → Comes .ideKeyManagement s (put' (goesOn { k with ideKeys := insertNat k.ideKeys s.ev.idx }))) ∧
    (s.ev.n ∉ k.sessions ∨ 16 < s.ev.idx → Comes .ideKeyManagement s s))

/-- Admission (R300, R301). Where a refusal names no instruction the address is 0, which the spec leaves open (log entry 49). -/
def Obligations.Admission : Prop :=
  ∀ s : State,
    let o := s.ev.img
    (isTranslator s.at_ = false → Comes .admission s s) ∧
    (isTranslator s.at_ = true →
      (∀ a, o.refusal = some a → Comes .admission s (s.modFunc o.ten fun f => { f with answers := f.answers ++ [(o.id.setWidth 64, BitVec.ofNat 64 a)] })) ∧
      (o.refusal = none → ∀ slot b, s.admitted o = .ok (slot, b) →
        Comes .admission s (s.modHome fun k => { (k.enterIgt o).giveSlot o.ten slot with plodan := k.plodan ++ [b] }) ∧
        (∀ x, s.home.keySlots.find? (fun x => x.1 == o.ten) = some x → slot = x.2) ∧
        ((∀ x ∈ s.home.keySlots, x.1 ≠ o.ten) → slot ≠ 0 ∧ ∀ x ∈ s.home.keySlots, s.home.partOfTen x.1 = s.home.partOfTen o.ten → x.2 ≠ slot) ∧
        o.ten ≠ 0 ∧ o.gen ≠ 0 ∧ o.regions.length ≤ 1021 ∧ o.binds.length ≤ 256 ∧
        b.src = o ∧ b.bases.length = o.regions.length ∧
        (∀ i (h : i < o.regions.length) (h' : i < b.bases.length), b.bases[i] % (o.regions[i]).2 = 0 ∧ b.bases[i] + (o.regions[i]).1 ≤ 0x40000 ∧
          ∀ r ∈ s.regionsTaken o, b.bases[i] + (o.regions[i]).1 ≤ r.1 ∨ r.2 ≤ b.bases[i]) ∧
        (∀ i j (_ : i < j) (h : j < o.regions.length) (h' : j < b.bases.length),
          b.bases[i] + (o.regions[i]).1 ≤ b.bases[j] ∨ b.bases[j] + (o.regions[j]).1 ≤ b.bases[i]) ∧
        (∃ xlen, 64 ≤ xlen ∧ xlen ≤ 32768 ∧ xlen % 64 = 0 ∧ b.bytes.length = 64 + xlen + xlen / 16 + 8 * o.binds.length ∧
          (∀ i, i < 2 → (leBytes 2 xlen)[i]? = b.bytes[8 + i]?))))

/-- What verification promises of an image (R300). What is known of values, `edges`, `constBase` and `unproven` and what is checked of an unreachable
instruction are the model's choice (log entry 41). -/
def Obligations.AdmittedCode : Prop :=
  ∀ o : OpenImage, o.refusal = none →
    let begins (n : Int) : Prop := ∃ j ∈ o.items, (j.addr : Int) = n
    let loop (i : Item) (n : BitVec 12) : Prop := (∃ a, i.dec = some (.insn (.loop a n))) ∨ ∃ c, i.dec = some (.insn (.loopi c n))
    (∀ b ∈ o.binds, b.slotS = false ∧ 16 ≤ b.ch ∧ b.ch ≤ 247 ∧ b.prio ≠ 7 ∧ begins b.label) ∧
    (∀ i ∈ o.items, ∀ x d, i.dec = some (.insn x) → flowOffset x = some d → begins (i.addr + d)) ∧
    (∀ l ∈ o.items, ∀ n, loop l n → ∀ j ∈ o.items, l.addr + 4 ≤ j.addr → j.addr < l.addr + 4 + 2 * n.toNat →
      j.addr + j.size ≤ l.addr + 4 + 2 * n.toNat ∧ ∀ k, ¬ loop j k) ∧
    ∃ known : Nat → Option Facts,
      (∀ b ∈ o.binds, ∃ f, known b.label = some f ∧ f.join (entryFacts b) = f) ∧
      ∀ a f, known a = some f → ∃ i ∈ o.items, i.addr = a ∧
        (o.edges (loops o.items) i f = none → ∀ j ∈ o.items, known j.addr = some Facts.nothing) ∧
        (∀ es, o.edges (loops o.items) i f = some es → ∀ e ∈ es, ∃ (b : Nat) (g : Facts), e.1 = (b : Int) ∧ known b = some g ∧ g.join e.2 = g) ∧
        ∃ d, i.dec = some d ∧ majorOf i.bits ≠ some 0x1B ∧ majorOf i.bits ≠ some 0x2A ∧
          (majorOf i.bits = some 0x2B → ∃ g n, d = .insn (.dmark g n)) ∧
          (∀ x c, d = .insn x → csrOf x = some c → c.toNat < 0x0E0 ∨ 0x0FF < c.toNat) ∧
          i.constBase f = false ∧ o.unproven i f = false
end

