-- ==== Sys2Proof/Laws/Arrive.lean ====
section
/-! SUPPORT. What an arrival does once its message is the next of its pair. -/

namespace Sys2Proof.Laws

open Sys2Proof.Machine Sys2Proof.Safety

/-- A message that an event takes is performed on the machine after the ingress. -/
theorem arrive_of_takes {s : State} {m : Msg} {t : State} (h : Takes s m t) {p : Msg → Bool} (hp : p m = true) (f : Msg → State → State) :
    s.arrive s.ev.src p f = f m t := by
  obtain ⟨rest, -, hpr, he, ht, hq, hs, ha, rfl⟩ := h
  simp only [State.arrive, State.arriveNew, hpr, he, ht, hp, hq, hs, ha]
  simp

/-- The same for the event that takes the message. -/
theorem takes_of_takes {s : State} {m : Msg} {t : State} (h : Takes s m t) {i : Instr} (hi : s.eventFor m = i) {p : Msg → Bool} (hp : p m = true)
    (f : Msg → State → State) : s.takes i p f = f m t := by
  have hn : s.roleNext i = none := hi ▸ h.choose_spec.1
  simpa only [State.takes, hn] using arrive_of_takes h (by simp [hi, hp]) f

/-- A message that passes the partition routers is performed. -/
theorem routeThen_of_routed {t : State} {m : Msg} (h : t.routed m = true) (f : State → State) : t.routeThen m f = f t := by
  simp [State.routeThen, h]

end Sys2Proof.Laws
end

