-- ==== Sys2Proof/Laws/Memory.lean ====
section
/-! SUPPORT. Byte memories: every operation keeps the canonical form, and what a read gives after a write. -/

namespace Sys2Proof.Machine

/-! The canonical form. -/

/-- Canonical form from a least address on. -/
def memFrom (n : Nat) : Memory → Prop
  | [] => True
  | (k, b) :: t => n ≤ k ∧ b ≠ 0 ∧ memFrom (k + 1) t

theorem memFrom_mono {m : Memory} {a b : Nat} (h : memFrom a m) (hb : b ≤ a) : memFrom b m := by
  cases m with
  | nil => trivial
  | cons x t => exact ⟨Nat.le_trans hb h.1, h.2⟩

theorem memWf_cons (k : Nat) (b : Byte) (t : Memory) : memWf ((k, b) :: t) = true ↔ b ≠ 0 ∧ memFrom (k + 1) t := by
  induction t generalizing k b with
  | nil => simp [memWf, memFrom]
  | cons x t ih =>
    obtain ⟨k', b'⟩ := x
    have := ih k' b'
    simp only [memWf, Bool.and_eq_true, decide_eq_true_eq, bne_iff_ne, memFrom] at this ⊢
    rw [this]
    constructor
    · rintro ⟨⟨h1, h2⟩, h3, h4⟩; exact ⟨h2, h1, h3, h4⟩
    · rintro ⟨h2, h1, h3, h4⟩; exact ⟨⟨h1, h2⟩, h3, h4⟩

/-- `memWf` as a recursive condition. -/
theorem memWf_iff (m : Memory) : memWf m = true ↔ memFrom 0 m := by
  cases m with
  | nil => simp [memWf, memFrom]
  | cons x t => obtain ⟨k, b⟩ := x; simp [memWf_cons, memFrom]

theorem memSet_from {m : Memory} {n a : Nat} (b : Byte) (h : memFrom n m) (ha : n ≤ a) : memFrom n (memSet m a b) := by
  induction m generalizing n with
  | nil =>
    simp only [memSet]
    split
    · trivial
    · next hb => exact ⟨ha, hb, trivial⟩
  | cons x t ih =>
    obtain ⟨k, c⟩ := x
    obtain ⟨h1, h2, h3⟩ := h
    simp only [memSet]
    split
    · next hk => split
                 · exact ⟨h1, h2, h3⟩
                 · next hb => exact ⟨ha, hb, hk, h2, h3⟩
    · next hk =>
      split
      · next e => split
                  · exact memFrom_mono h3 (by omega)
                  · next hb => exact ⟨ha, hb, by subst e; exact h3⟩
      · next e => exact ⟨h1, h2, ih h3 (by omega)⟩

/-- A byte set keeps the canonical form. -/
theorem memSet_wf {m : Memory} (a : Nat) (b : Byte) (h : memWf m = true) : memWf (memSet m a b) = true :=
  (memWf_iff _).2 (memSet_from b ((memWf_iff _).1 h) (Nat.zero_le a))

/-- Bytes written keep the canonical form. -/
theorem memWrite_wf {m : Memory} (a : Nat) (bs : List Byte) (h : memWf m = true) : memWf (memWrite m a bs) = true := by
  induction bs generalizing m a with
  | nil => exact h
  | cons b bs ih => exact ih _ (memSet_wf a b h)

theorem memClear_from {m : Memory} {n : Nat} (a l : Nat) (h : memFrom n m) : memFrom n (memClear m a l) := by
  induction m generalizing n with
  | nil => exact h
  | cons x t ih =>
    obtain ⟨k, c⟩ := x
    obtain ⟨h1, h2, h3⟩ := h
    have := ih h3
    simp only [memClear] at this ⊢
    simp only [List.filter_cons]
    split
    · exact ⟨h1, h2, this⟩
    · exact memFrom_mono this (by omega)

/-- A range cleared keeps the canonical form. -/
theorem memClear_wf {m : Memory} (a l : Nat) (h : memWf m = true) : memWf (memClear m a l) = true :=
  (memWf_iff _).2 (memClear_from a l ((memWf_iff _).1 h))

theorem memOf_from (a : Nat) (bs : List Byte) : memFrom a (memOf a bs) := by
  induction bs generalizing a with
  | nil => trivial
  | cons b bs ih =>
    simp only [memOf]
    split
    · exact memFrom_mono (ih (a + 1)) (by omega)
    · next hb => exact ⟨Nat.le_refl a, hb, ih (a + 1)⟩

/-- A memory built from a list is in canonical form. -/
theorem memOf_wf (a : Nat) (bs : List Byte) : memWf (memOf a bs) = true :=
  (memWf_iff _).2 (memFrom_mono (memOf_from a bs) (Nat.zero_le a))

/-! Reads after writes. -/

theorem memByte_below {m : Memory} {n a : Nat} (h : memFrom n m) (ha : a < n) : memByte m a = 0 := by
  induction m generalizing n with
  | nil => rfl
  | cons x t ih =>
    obtain ⟨k, c⟩ := x
    obtain ⟨h1, _, h3⟩ := h
    simp only [memByte]
    rw [if_neg (by omega)]
    exact ih h3 (by omega)

theorem memByte_memSet_from {m : Memory} {n : Nat} (a x : Nat) (b : Byte) (h : memFrom n m) :
    memByte (memSet m a b) x = if x = a then b else memByte m x := by
  induction m generalizing n with
  | nil =>
    simp only [memSet]
    split
    · next hb => simp [memByte, hb]
    · by_cases hx : x = a
      · subst hx; simp [memByte]
      · simp [memByte, hx, Ne.symm hx]
  | cons y t ih =>
    obtain ⟨k, c⟩ := y
    obtain ⟨_, _, h3⟩ := h
    have below : ∀ z, z < k + 1 → memByte t z = 0 := fun z hz => memByte_below h3 hz
    simp only [memSet]
    split
    · next hk =>
      by_cases hb : b = 0
      · simp only [hb, if_true, memByte]
        by_cases hx : x = a
        · subst hx
          have : ¬ k = x := by omega
          simp [this, below x (by omega)]
        · simp [hx]
      · simp only [hb, if_false, memByte]
        by_cases hx : x = a
        · subst hx; simp
        · simp [hx, Ne.symm hx]
    · next hk =>
      split
      · next e =>
        subst e
        by_cases hb : b = 0
        · simp only [hb, if_true, memByte]
          by_cases hx : x = a
          · subst hx; simp [below x (by omega)]
          · simp [hx, Ne.symm hx]
        · simp only [hb, if_false, memByte]
          by_cases hx : x = a
          · subst hx; simp
          · simp [hx, Ne.symm hx]
      · next e =>
        simp only [memByte, ih h3]
        by_cases hx : x = a
        · subst hx
          have : ¬ k = x := by omega
          simp [this]
        · simp [hx]

/-- A byte read after a byte is set. -/
theorem memByte_memSet {m : Memory} (a x : Nat) (b : Byte) (h : memWf m = true) :
    memByte (memSet m a b) x = if x = a then b else memByte m x := memByte_memSet_from a x b ((memWf_iff _).1 h)

/-- A byte read after a list of bytes is written: the list's byte inside, the old byte outside. -/
theorem memByte_memWrite {m : Memory} (a x : Nat) (bs : List Byte) (h : memWf m = true) :
    memByte (memWrite m a bs) x = if a ≤ x ∧ x < a + bs.length then bs.getD (x - a) 0 else memByte m x := by
  induction bs generalizing m a with
  | nil =>
    simp only [memWrite, List.length_nil]
    rw [if_neg (by omega)]
  | cons b bs ih =>
    simp only [memWrite, ih _ (memSet_wf a b h), memByte_memSet a x b h, List.length_cons]
    by_cases h1 : a + 1 ≤ x ∧ x < a + 1 + bs.length
    · rw [if_pos h1, if_pos (by omega)]
      have : x - a = (x - (a + 1)) + 1 := by omega
      simp [this]
    · rw [if_neg h1]
      by_cases h2 : x = a
      · subst h2; simp
      · rw [if_neg h2, if_neg (by omega)]

/-- A byte read after a range is cleared. -/
theorem memByte_memClear {m : Memory} (a n x : Nat) : memByte (memClear m a n) x = if a ≤ x ∧ x < a + n then 0 else memByte m x := by
  induction m with
  | nil => simp [memClear, memByte]
  | cons y t ih =>
    obtain ⟨k, c⟩ := y
    simp only [memClear] at ih ⊢
    simp only [List.filter_cons]
    by_cases hk : k < a ∨ a + n ≤ k
    · have : (decide (k < a) || decide (a + n ≤ k)) = true := by simpa using hk
      rw [if_pos this]
      simp only [memByte, ih]
      by_cases hx : k = x
      · subst hx
        have hk' : ¬ (a ≤ k ∧ k < a + n) := by omega
        simp [hk']
      · simp [hx]
    · have : ¬ (decide (k < a) || decide (a + n ≤ k)) = true := by simpa using hk
      rw [if_neg this, ih]
      simp only [memByte]
      by_cases hx : k = x
      · subst hx
        rw [if_pos (by omega), if_pos (by omega)]
      · rw [if_neg hx]

/-- A byte of a memory built from a list. -/
theorem memByte_memOf (a x : Nat) (bs : List Byte) : memByte (memOf a bs) x = if a ≤ x ∧ x < a + bs.length then bs.getD (x - a) 0 else 0 := by
  induction bs generalizing a with
  | nil => simp [memOf, memByte]
  | cons b bs ih =>
    simp only [memOf, List.length_cons]
    by_cases hx : x = a
    · subst hx
      split
      · next hb => simp [memByte_below (memOf_from (x + 1) bs) (Nat.lt_succ_self x), hb]
      · simp [memByte]
    · have : memByte (if b = 0 then memOf (a + 1) bs else (a, b) :: memOf (a + 1) bs) x = memByte (memOf (a + 1) bs) x := by
        split
        · rfl
        · simp [memByte, Ne.symm hx]
      rw [this, ih]
      by_cases h1 : a + 1 ≤ x ∧ x < a + 1 + bs.length
      · rw [if_pos h1, if_pos (by omega)]
        have : x - a = (x - (a + 1)) + 1 := by omega
        simp [this]
      · rw [if_neg h1, if_neg (by omega)]

theorem memRead_length (m : Memory) (a n : Nat) : (memRead m a n).length = n := by
  induction n generalizing a with
  | zero => rfl
  | succ n ih => simp [memRead, ih]

theorem memRead_getD (m : Memory) (a n i : Nat) (h : i < n) : (memRead m a n).getD i 0 = memByte m (a + i) := by
  induction n generalizing a i with
  | zero => omega
  | succ n ih =>
    cases i with
    | zero => simp [memRead]
    | succ i => simp only [memRead, List.getD_cons_succ, ih (a + 1) i (by omega)]; congr 1; omega

end Sys2Proof.Machine
end

