-- ==== Sys2Proof/Laws/Local.lean ====
section
/-! SUPPORT. Association lists, and local memory under its keys: what an access reads after a store (R32, R34). -/

namespace Sys2Proof.Machine

/-! Association lists. -/

theorem look_put {α : Type} (l : List (Nat × α)) (a x : Nat) (v : α) : look (put l a v) x = if x = a then some v else look l x := by
  induction l with
  | nil => by_cases h : x = a <;> simp [put, look, h, Ne.symm]
  | cons y t ih =>
    obtain ⟨k, u⟩ := y
    simp only [put]
    split
    · by_cases h : x = a
      · subst h; simp [look]
      · simp [look, h, Ne.symm h]
    · split
      · next e =>
        subst e
        by_cases h : x = a
        · subst h; simp [look]
        · simp [look, h, Ne.symm h]
      · next e =>
        simp only [look, ih]
        by_cases h : x = a
        · subst h; simp [Ne.symm e]
        · simp [h]

theorem look_drop1 {α : Type} (l : List (Nat × α)) (a x : Nat) : look (drop1 l a) x = if x = a then none else look l x := by
  induction l with
  | nil => simp [drop1, look]
  | cons y t ih =>
    obtain ⟨k, u⟩ := y
    simp only [drop1]
    split
    · next e =>
      subst e
      rw [ih]
      by_cases h : x = k
      · simp [h]
      · simp [look, h, Ne.symm h]
    · next e =>
      simp only [look, ih]
      by_cases h : x = a
      · subst h; simp [e]
      · simp [h]

theorem look_putD {α : Type} [DecidableEq α] (l : List (Nat × α)) (a x : Nat) (v d : α) :
    (look (putD l a v d) x).getD d = if x = a then v else (look l x).getD d := by
  unfold putD
  split
  · next e => subst e; rw [look_drop1]; split <;> rfl
  · rw [look_put]; split <;> rfl

/-! Local memory. -/

theorem memRead_congr {m m' : Memory} {a n : Nat} (h : ∀ x, a ≤ x → x < a + n → memByte m x = memByte m' x) : memRead m a n = memRead m' a n := by
  induction n generalizing a with
  | zero => rfl
  | succ n ih =>
    simp only [memRead]
    rw [h a (by omega) (by omega), ih fun x h1 h2 => h x (by omega) (by omega)]

theorem LocalMem.read_length (m : LocalMem) (c : CoreAddr) (key : KeyId) (a n : Nat) : (m.read c key a n).length = n := by
  induction n generalizing a with
  | zero => rfl
  | succ n ih => simp [LocalMem.read, ih]

theorem LocalMem.read_getD (m : LocalMem) (c : CoreAddr) (key : KeyId) (a n i : Nat) (h : i < n) :
    (m.read c key a n).getD i 0 = m.byte c key (a + i) := by
  induction n generalizing a i with
  | zero => omega
  | succ n ih =>
    cases i with
    | zero => simp [LocalMem.read]
    | succ i => simp only [LocalMem.read, List.getD_cons_succ, ih (a + 1) i (by omega)]; congr 1; omega

theorem LocalMem.rekey_wf {m : LocalMem} (c : CoreAddr) (key : KeyId) (g : Nat) (h : memWf m.bytes = true) :
    memWf (LocalMem.rekey c key m g).bytes = true := by
  unfold LocalMem.rekey
  split
  · exact h
  · exact memWrite_wf _ _ h

theorem LocalMem.tag_rekey (m : LocalMem) (c : CoreAddr) (key : KeyId) (g x : Nat) :
    (LocalMem.rekey c key m g).tag x = if x = g then key else m.tag x := by
  unfold LocalMem.rekey
  split
  · next h => split
              · next e => rw [e, h]
              · rfl
  · simp only [LocalMem.tag, look_putD]

theorem LocalMem.bytes_rekey {m : LocalMem} (c : CoreAddr) (key : KeyId) (g x : Nat) (h : memWf m.bytes = true) :
    memByte (LocalMem.rekey c key m g).bytes x = if x / 16 = g ∧ m.tag g ≠ key then m.byte c key x else memByte m.bytes x := by
  unfold LocalMem.rekey
  split
  · next e => simp [e]
  · next e =>
    simp only [memByte_memWrite _ _ _ h, LocalMem.read_length]
    by_cases hx : x / 16 = g
    · rw [if_pos (by omega), if_pos ⟨hx, e⟩, LocalMem.read_getD _ _ _ _ _ _ (by omega)]
      congr 1
      omega
    · rw [if_neg (by omega), if_neg (by simp [hx])]

theorem LocalMem.plain_congr {m m' : LocalMem} {g : Nat} (h : ∀ x, x / 16 = g → memByte m.bytes x = memByte m'.bytes x) : m.plain g = m'.plain g := by
  unfold LocalMem.plain memNat
  rw [memRead_congr fun x h1 h2 => h x (by omega)]

/-- A granule encrypted anew reads under its new key as it read before. -/
theorem LocalMem.byte_rekey {m : LocalMem} (c : CoreAddr) (key : KeyId) (g x : Nat) (h : memWf m.bytes = true) :
    (LocalMem.rekey c key m g).byte c key x = m.byte c key x := by
  by_cases hx : x / 16 = g
  · rw [LocalMem.byte, LocalMem.tag_rekey, if_pos hx, if_pos rfl, LocalMem.bytes_rekey _ _ _ _ h]
    by_cases ht : m.tag g = key
    · simp [ht, LocalMem.byte, hx]
    · simp [ht, hx]
  · have hp : (LocalMem.rekey c key m g).plain (x / 16) = m.plain (x / 16) :=
      LocalMem.plain_congr fun y hy => by rw [LocalMem.bytes_rekey _ _ _ _ h, if_neg (by omega)]
    simp only [LocalMem.byte, LocalMem.tag_rekey, hp, LocalMem.bytes_rekey _ _ _ _ h, hx, false_and, if_false]

/-- A granule that is not encrypted anew reads as before under every key. -/
theorem LocalMem.byte_rekey_other {m : LocalMem} (c : CoreAddr) (key k' : KeyId) (g x : Nat) (h : memWf m.bytes = true) (hx : x / 16 ≠ g) :
    (LocalMem.rekey c key m g).byte c k' x = m.byte c k' x := by
  have hp : (LocalMem.rekey c key m g).plain (x / 16) = m.plain (x / 16) :=
    LocalMem.plain_congr fun y hy => by rw [LocalMem.bytes_rekey _ _ _ _ h, if_neg (by omega)]
  simp only [LocalMem.byte, LocalMem.tag_rekey, hp, LocalMem.bytes_rekey _ _ _ _ h, hx, false_and, if_false]

theorem LocalMem.rekeys {m : LocalMem} (c : CoreAddr) (key : KeyId) (gs : List Nat) (h : memWf m.bytes = true) :
    memWf (gs.foldl (LocalMem.rekey c key) m).bytes = true ∧
    (∀ x, (gs.foldl (LocalMem.rekey c key) m).byte c key x = m.byte c key x) ∧
    (∀ g, (gs.foldl (LocalMem.rekey c key) m).tag g = if g ∈ gs then key else m.tag g) ∧
    (∀ k' x, x / 16 ∉ gs → (gs.foldl (LocalMem.rekey c key) m).byte c k' x = m.byte c k' x) ∧
    (gs.foldl (LocalMem.rekey c key) m).bad = m.bad ∧ (gs.foldl (LocalMem.rekey c key) m).poison = m.poison := by
  induction gs generalizing m with
  | nil => simp [h]
  | cons g gs ih =>
    have hw := LocalMem.rekey_wf c key g h
    obtain ⟨h1, h2, h3, h4, h5, h6⟩ := ih hw
    refine ⟨h1, fun x => ?_, fun y => ?_, fun k' x hx => ?_, ?_, ?_⟩
    · rw [List.foldl_cons, h2, LocalMem.byte_rekey _ _ _ _ h]
    · rw [List.foldl_cons, h3, LocalMem.tag_rekey]
      by_cases hy : y ∈ gs
      · simp [hy]
      · by_cases e : y = g <;> simp [hy, e]
    · rw [List.foldl_cons, h4 _ _ fun hm => hx (List.mem_cons_of_mem _ hm)]
      exact LocalMem.byte_rekey_other _ _ _ _ _ h fun e => hx (e ▸ List.mem_cons_self)
    · rw [List.foldl_cons, h5]; unfold LocalMem.rekey; split <;> rfl
    · rw [List.foldl_cons, h6]; unfold LocalMem.rekey; split <;> rfl

theorem mem_granules (a n g : Nat) : g ∈ granules a n ↔ n ≠ 0 ∧ a / 16 ≤ g ∧ g ≤ (a + n - 1) / 16 := by
  unfold granules
  split
  · next h => simp [h]
  · next h =>
    simp only [List.mem_map, List.mem_range]
    constructor
    · rintro ⟨i, hi, rfl⟩; exact ⟨h, by omega, by omega⟩
    · rintro ⟨_, h1, h2⟩; exact ⟨g - a / 16, by omega, by omega⟩

/-- The key that a granule is under after a store (R34). -/
theorem LocalMem.tag_write (m : LocalMem) (c : CoreAddr) (key : KeyId) (a : Nat) (bs : List Byte) (g : Nat) (h : memWf m.bytes = true) :
    (m.write c key a bs).tag g = if g ∈ granules a bs.length then key else m.tag g :=
  (LocalMem.rekeys c key (granules a bs.length) h).2.2.1 g

/-- A store keeps the canonical form. -/
theorem LocalMem.write_wf {m : LocalMem} (c : CoreAddr) (key : KeyId) (a : Nat) (bs : List Byte) (h : memWf m.bytes = true) :
    memWf (m.write c key a bs).bytes = true :=
  memWrite_wf _ _ (LocalMem.rekeys c key (granules a bs.length) h).1

/-- What an access under the storing key reads after a store: the stored bytes, and elsewhere what it read before. -/
theorem LocalMem.byte_write {m : LocalMem} (c : CoreAddr) (key : KeyId) (a : Nat) (bs : List Byte) (x : Nat) (h : memWf m.bytes = true) :
    (m.write c key a bs).byte c key x = if a ≤ x ∧ x < a + bs.length then bs.getD (x - a) 0 else m.byte c key x := by
  obtain ⟨h1, h2, h3, h4, -, -⟩ := LocalMem.rekeys c key (granules a bs.length) h
  have hm : ∀ y, memByte (m.write c key a bs).bytes y =
      if a ≤ y ∧ y < a + bs.length then bs.getD (y - a) 0 else memByte ((granules a bs.length).foldl (LocalMem.rekey c key) m).bytes y :=
    fun y => memByte_memWrite a y bs h1
  have ht := LocalMem.tag_write m c key a bs (x / 16) h
  by_cases hg : x / 16 ∈ granules a bs.length
  · rw [if_pos hg] at ht
    rw [LocalMem.byte, if_pos ht, hm]
    split
    · rfl
    · rw [← h2 x, LocalMem.byte, h3, if_pos hg, if_pos rfl]
  · have hx : ¬ (a ≤ x ∧ x < a + bs.length) := fun hx => hg ((mem_granules _ _ _).2 ⟨by omega, by omega, by omega⟩)
    have hp : (m.write c key a bs).plain (x / 16) = ((granules a bs.length).foldl (LocalMem.rekey c key) m).plain (x / 16) :=
      LocalMem.plain_congr fun y hy => by
        rw [hm, if_neg fun hc => hg ((mem_granules _ _ _).2 ⟨by omega, by omega, by omega⟩)]
    rw [if_neg hx, ← h2 x]
    simp only [LocalMem.byte, ht, if_neg hg, h3, hp, hm, if_neg hx]

/-- Granules that a store does not touch read as before under every key. -/
theorem LocalMem.byte_write_other {m : LocalMem} (c : CoreAddr) (key k' : KeyId) (a : Nat) (bs : List Byte) (x : Nat) (h : memWf m.bytes = true)
    (hg : x / 16 ∉ granules a bs.length) : (m.write c key a bs).byte c k' x = m.byte c k' x := by
  obtain ⟨h1, h2, h3, h4, -, -⟩ := LocalMem.rekeys c key (granules a bs.length) h
  have hm : ∀ y, memByte (m.write c key a bs).bytes y =
      if a ≤ y ∧ y < a + bs.length then bs.getD (y - a) 0 else memByte ((granules a bs.length).foldl (LocalMem.rekey c key) m).bytes y :=
    fun y => memByte_memWrite a y bs h1
  have hx : ¬ (a ≤ x ∧ x < a + bs.length) := fun hx => hg ((mem_granules _ _ _).2 ⟨by omega, by omega, by omega⟩)
  have hp : (m.write c key a bs).plain (x / 16) = ((granules a bs.length).foldl (LocalMem.rekey c key) m).plain (x / 16) :=
    LocalMem.plain_congr fun y hy => by
      rw [hm, if_neg fun hc => hg ((mem_granules _ _ _).2 ⟨by omega, by omega, by omega⟩)]
  rw [← h4 k' x hg]
  simp only [LocalMem.byte, LocalMem.tag_write m c key a bs _ h, if_neg hg, h3, hp, hm, if_neg hx]

end Sys2Proof.Machine
end

