-- ==== Sys2Proof/Laws/PerInstr.lean ====
section
/-! SUPPORT. Instruction by instruction: the decoder reads back what the encoder writes (R44 to R57). -/

namespace Sys2Proof.Laws.RoundTrip

open Sys2Proof.Machine (fld)

set_option linter.unusedSimpArgs false

/-- A well-formed instruction that has an encoding is what the decoder reads from the bytes of it, and it takes all of them. -/
def Statement (i : Instr) : Prop := i.wf = true → encode i ≠ .event → decode (encode i).bytes = .ok (i, [])

theorem half_bytes (h : BitVec 16) : halfOfBytes (h.setWidth 8) ((h >>> 8).setWidth 8) = h := by
  apply BitVec.eq_of_getLsbD_eq
  intro i hi
  simp only [halfOfBytes, BitVec.getLsbD_append, BitVec.getLsbD_setWidth, BitVec.getLsbD_ushiftRight]
  by_cases h8 : i < 8
  · simp [h8]
  · have e : 8 + (i - 8) = i := by omega
    have l : i - 8 < 8 := by omega
    simp [h8, e, l]

theorem join_halves (w : BitVec 32) : joinHalves (fld w 16 16) (fld w 0 16) = w := by
  apply BitVec.eq_of_getLsbD_eq
  intro i hi
  simp only [joinHalves, fld, BitVec.getLsbD_append, BitVec.getLsbD_extractLsb']
  by_cases h8 : i < 16
  · simp [h8]
  · have e : 16 + (i - 16) = i := by omega
    have l : i - 16 < 16 := by omega
    simp [h8, e, l]

theorem top_bit {n : Nat} (w : BitVec n) (i : Nat) (b : Bool) (h : fld w i 1 = BitVec.ofBool b) : w.getLsbD i = b := by
  have := congrArg (fun x => x.getLsbD 0) h
  simpa [fld] using this

/-- Decoding the four bytes of a word whose top bit is set. -/
theorem decode_word (w : BitVec 32) (hl : fld w 31 1 = 1#1) : decode (Encoding.word w).bytes = (decodeWord w).map fun i => (i, []) := by
  have h : isLong (fld w 16 16) = true := by simpa [isLong, fld] using top_bit w 31 true hl
  simp only [Encoding.bytes, halfBytes, List.cons_append, List.nil_append, decode, half_bytes, h, if_true, join_halves]

/-- Decoding the two bytes of a halfword whose top bit is clear. -/
theorem decode_half (w : BitVec 16) (hl : fld w 15 1 = 0#1) : decode (Encoding.half w).bytes = (decodeHalf w).map fun i => (i, []) := by
  have h : isLong w = false := top_bit w 15 false hl
  simp only [Encoding.bytes, halfBytes, decode, half_bytes, h, Bool.false_eq_true, if_false]

/-- The round trip of a 32-bit instruction from its parse. -/
theorem of_parse32 (i : Instr) (w : BitVec 32) (he : encode i = .word w) (hn : fld w 25 7 ≠ 0x6C#7) (hl : fld w 31 1 = 1#1) (hp : parse32 w = some i) :
    Statement i := fun hw _ => by
  rw [he, decode_word w hl]
  simp [decodeWord, decodeParts, hn, hp, he, hw, Except.map, Decoded.instr]

/-- The round trip of a 16-bit instruction from its parse. -/
theorem of_parse16 (i : Instr) (w : BitVec 16) (he : encode i = .half w) (hl : fld w 15 1 = 0#1) (hp : parse16 w = some i) : Statement i := fun hw _ => by
  rw [he, decode_half w hl]
  simp [decodeHalf, hp, he, hw, Except.map]

theorem parse_00 (w : BitVec 32) (h : fld w 25 6 = 0x00#6) : parse32 w = parseMO00 w := by simp only [parse32, h]

theorem add (d a b : BitVec 5) : Statement (.add d a b) :=
  of_parse32 _ _ rfl (by simp (disch := decide) only [fld, pack32, BitVec.cast_eq, BitVec.extractLsb'_append_eq_of_le, BitVec.extractLsb'_append_eq_of_add_le]; simp)
    (by simp (disch := decide) only [fld, pack32, BitVec.cast_eq, BitVec.extractLsb'_append_eq_of_le, BitVec.extractLsb'_append_eq_of_add_le]; simp)
    ((parse_00 _ (by simp (disch := decide) only [fld, pack32, BitVec.cast_eq, BitVec.extractLsb'_append_eq_of_le, BitVec.extractLsb'_append_eq_of_add_le]; simp)).trans
      (by simp (disch := decide) only [parseMO00, fld, pack32, BitVec.cast_eq, BitVec.extractLsb'_append_eq_of_le, BitVec.extractLsb'_append_eq_of_add_le]; simp))

theorem sub (d a b : BitVec 5) : Statement (.sub d a b) :=
  of_parse32 _ _ rfl (by simp (disch := decide) only [fld, pack32, BitVec.cast_eq, BitVec.extractLsb'_append_eq_of_le, BitVec.extractLsb'_append_eq_of_add_le]; simp)
    (by simp (disch := decide) only [fld, pack32, BitVec.cast_eq, BitVec.extractLsb'_append_eq_of_le, BitVec.extractLsb'_append_eq_of_add_le]; simp)
    ((parse_00 _ (by simp (disch := decide) only [fld, pack32, BitVec.cast_eq, BitVec.extractLsb'_append_eq_of_le, BitVec.extractLsb'_append_eq_of_add_le]; simp)).trans
      (by simp (disch := decide) only [parseMO00, fld, pack32, BitVec.cast_eq, BitVec.extractLsb'_append_eq_of_le, BitVec.extractLsb'_append_eq_of_add_le]; simp))

theorem and (d a b : BitVec 5) : Statement (.and d a b) :=
  of_parse32 _ _ rfl (by simp (disch := decide) only [fld, pack32, BitVec.cast_eq, BitVec.extractLsb'_append_eq_of_le, BitVec.extractLsb'_append_eq_of_add_le]; simp)
    (by simp (disch := decide) only [fld, pack32, BitVec.cast_eq, BitVec.extractLsb'_append_eq_of_le, BitVec.extractLsb'_append_eq_of_add_le]; simp)
    ((parse_00 _ (by simp (disch := decide) only [fld, pack32, BitVec.cast_eq, BitVec.extractLsb'_append_eq_of_le, BitVec.extractLsb'_append_eq_of_add_le]; simp)).trans
      (by simp (disch := decide) only [parseMO00, fld, pack32, BitVec.cast_eq, BitVec.extractLsb'_append_eq_of_le, BitVec.extractLsb'_append_eq_of_add_le]; simp))

theorem or (d a b : BitVec 5) : Statement (.or d a b) :=
  of_parse32 _ _ rfl (by simp (disch := decide) only [fld, pack32, BitVec.cast_eq, BitVec.extractLsb'_append_eq_of_le, BitVec.extractLsb'_append_eq_of_add_le]; simp)
    (by simp (disch := decide) only [fld, pack32, BitVec.cast_eq, BitVec.extractLsb'_append_eq_of_le, BitVec.extractLsb'_append_eq_of_add_le]; simp)
    ((parse_00 _ (by simp (disch := decide) only [fld, pack32, BitVec.cast_eq, BitVec.extractLsb'_append_eq_of_le, BitVec.extractLsb'_append_eq_of_add_le]; simp)).trans
      (by simp (disch := decide) only [parseMO00, fld, pack32, BitVec.cast_eq, BitVec.extractLsb'_append_eq_of_le, BitVec.extractLsb'_append_eq_of_add_le]; simp))

theorem xor (d a b : BitVec 5) : Statement (.xor d a b) :=
  of_parse32 _ _ rfl (by simp (disch := decide) only [fld, pack32, BitVec.cast_eq, BitVec.extractLsb'_append_eq_of_le, BitVec.extractLsb'_append_eq_of_add_le]; simp)
    (by simp (disch := decide) only [fld, pack32, BitVec.cast_eq, BitVec.extractLsb'_append_eq_of_le, BitVec.extractLsb'_append_eq_of_add_le]; simp)
    ((parse_00 _ (by simp (disch := decide) only [fld, pack32, BitVec.cast_eq, BitVec.extractLsb'_append_eq_of_le, BitVec.extractLsb'_append_eq_of_add_le]; simp)).trans
      (by simp (disch := decide) only [parseMO00, fld, pack32, BitVec.cast_eq, BitVec.extractLsb'_append_eq_of_le, BitVec.extractLsb'_append_eq_of_add_le]; simp))

theorem andn (d a b : BitVec 5) : Statement (.andn d a b) :=
  of_parse32 _ _ rfl (by simp (disch := decide) only [fld, pack32, BitVec.cast_eq, BitVec.extractLsb'_append_eq_of_le, BitVec.extractLsb'_append_eq_of_add_le]; simp)
    (by simp (disch := decide) only [fld, pack32, BitVec.cast_eq, BitVec.extractLsb'_append_eq_of_le, BitVec.extractLsb'_append_eq_of_add_le]; simp)
    ((parse_00 _ (by simp (disch := decide) only [fld, pack32, BitVec.cast_eq, BitVec.extractLsb'_append_eq_of_le, BitVec.extractLsb'_append_eq_of_add_le]; simp)).trans
      (by simp (disch := decide) only [parseMO00, fld, pack32, BitVec.cast_eq, BitVec.extractLsb'_append_eq_of_le, BitVec.extractLsb'_append_eq_of_add_le]; simp))

theorem sll (d a b : BitVec 5) : Statement (.sll d a b) :=
  of_parse32 _ _ rfl (by simp (disch := decide) only [fld, pack32, BitVec.cast_eq, BitVec.extractLsb'_append_eq_of_le, BitVec.extractLsb'_append_eq_of_add_le]; simp)
    (by simp (disch := decide) only [fld, pack32, BitVec.cast_eq, BitVec.extractLsb'_append_eq_of_le, BitVec.extractLsb'_append_eq_of_add_le]; simp)
    ((parse_00 _ (by simp (disch := decide) only [fld, pack32, BitVec.cast_eq, BitVec.extractLsb'_append_eq_of_le, BitVec.extractLsb'_append_eq_of_add_le]; simp)).trans
      (by simp (disch := decide) only [parseMO00, fld, pack32, BitVec.cast_eq, BitVec.extractLsb'_append_eq_of_le, BitVec.extractLsb'_append_eq_of_add_le]; simp))

theorem srl (d a b : BitVec 5) : Statement (.srl d a b) :=
  of_parse32 _ _ rfl (by simp (disch := decide) only [fld, pack32, BitVec.cast_eq, BitVec.extractLsb'_append_eq_of_le, BitVec.extractLsb'_append_eq_of_add_le]; simp)
    (by simp (disch := decide) only [fld, pack32, BitVec.cast_eq, BitVec.extractLsb'_append_eq_of_le, BitVec.extractLsb'_append_eq_of_add_le]; simp)
    ((parse_00 _ (by simp (disch := decide) only [fld, pack32, BitVec.cast_eq, BitVec.extractLsb'_append_eq_of_le, BitVec.extractLsb'_append_eq_of_add_le]; simp)).trans
      (by simp (disch := decide) only [parseMO00, fld, pack32, BitVec.cast_eq, BitVec.extractLsb'_append_eq_of_le, BitVec.extractLsb'_append_eq_of_add_le]; simp))

theorem sra (d a b : BitVec 5) : Statement (.sra d a b) :=
  of_parse32 _ _ rfl (by simp (disch := decide) only [fld, pack32, BitVec.cast_eq, BitVec.extractLsb'_append_eq_of_le, BitVec.extractLsb'_append_eq_of_add_le]; simp)
    (by simp (disch := decide) only [fld, pack32, BitVec.cast_eq, BitVec.extractLsb'_append_eq_of_le, BitVec.extractLsb'_append_eq_of_add_le]; simp)
    ((parse_00 _ (by simp (disch := decide) only [fld, pack32, BitVec.cast_eq, BitVec.extractLsb'_append_eq_of_le, BitVec.extractLsb'_append_eq_of_add_le]; simp)).trans
      (by simp (disch := decide) only [parseMO00, fld, pack32, BitVec.cast_eq, BitVec.extractLsb'_append_eq_of_le, BitVec.extractLsb'_append_eq_of_add_le]; simp))

theorem ror (d a b : BitVec 5) : Statement (.ror d a b) :=
  of_parse32 _ _ rfl (by simp (disch := decide) only [fld, pack32, BitVec.cast_eq, BitVec.extractLsb'_append_eq_of_le, BitVec.extractLsb'_append_eq_of_add_le]; simp)
    (by simp (disch := decide) only [fld, pack32, BitVec.cast_eq, BitVec.extractLsb'_append_eq_of_le, BitVec.extractLsb'_append_eq_of_add_le]; simp)
    ((parse_00 _ (by simp (disch := decide) only [fld, pack32, BitVec.cast_eq, BitVec.extractLsb'_append_eq_of_le, BitVec.extractLsb'_append_eq_of_add_le]; simp)).trans
      (by simp (disch := decide) only [parseMO00, fld, pack32, BitVec.cast_eq, BitVec.extractLsb'_append_eq_of_le, BitVec.extractLsb'_append_eq_of_add_le]; simp))

theorem slt (d a b : BitVec 5) : Statement (.slt d a b) :=
  of_parse32 _ _ rfl (by simp (disch := decide) only [fld, pack32, BitVec.cast_eq, BitVec.extractLsb'_append_eq_of_le, BitVec.extractLsb'_append_eq_of_add_le]; simp)
    (by simp (disch := decide) only [fld, pack32, BitVec.cast_eq, BitVec.extractLsb'_append_eq_of_le, BitVec.extractLsb'_append_eq_of_add_le]; simp)
    ((parse_00 _ (by simp (disch := decide) only [fld, pack32, BitVec.cast_eq, BitVec.extractLsb'_append_eq_of_le, BitVec.extractLsb'_append_eq_of_add_le]; simp)).trans
      (by simp (disch := decide) only [parseMO00, fld, pack32, BitVec.cast_eq, BitVec.extractLsb'_append_eq_of_le, BitVec.extractLsb'_append_eq_of_add_le]; simp))

theorem sltu (d a b : BitVec 5) : Statement (.sltu d a b) :=
  of_parse32 _ _ rfl (by simp (disch := decide) only [fld, pack32, BitVec.cast_eq, BitVec.extractLsb'_append_eq_of_le, BitVec.extractLsb'_append_eq_of_add_le]; simp)
    (by simp (disch := decide) only [fld, pack32, BitVec.cast_eq, BitVec.extractLsb'_append_eq_of_le, BitVec.extractLsb'_append_eq_of_add_le]; simp)
    ((parse_00 _ (by simp (disch := decide) only [fld, pack32, BitVec.cast_eq, BitVec.extractLsb'_append_eq_of_le, BitVec.extractLsb'_append_eq_of_add_le]; simp)).trans
      (by simp (disch := decide) only [parseMO00, fld, pack32, BitVec.cast_eq, BitVec.extractLsb'_append_eq_of_le, BitVec.extractLsb'_append_eq_of_add_le]; simp))

theorem min (d a b : BitVec 5) : Statement (.min d a b) :=
  of_parse32 _ _ rfl (by simp (disch := decide) only [fld, pack32, BitVec.cast_eq, BitVec.extractLsb'_append_eq_of_le, BitVec.extractLsb'_append_eq_of_add_le]; simp)
    (by simp (disch := decide) only [fld, pack32, BitVec.cast_eq, BitVec.extractLsb'_append_eq_of_le, BitVec.extractLsb'_append_eq_of_add_le]; simp)
    ((parse_00 _ (by simp (disch := decide) only [fld, pack32, BitVec.cast_eq, BitVec.extractLsb'_append_eq_of_le, BitVec.extractLsb'_append_eq_of_add_le]; simp)).trans
      (by simp (disch := decide) only [parseMO00, fld, pack32, BitVec.cast_eq, BitVec.extractLsb'_append_eq_of_le, BitVec.extractLsb'_append_eq_of_add_le]; simp))

theorem max (d a b : BitVec 5) : Statement (.max d a b) :=
  of_parse32 _ _ rfl (by simp (disch := decide) only [fld, pack32, BitVec.cast_eq, BitVec.extractLsb'_append_eq_of_le, BitVec.extractLsb'_append_eq_of_add_le]; simp)
    (by simp (disch := decide) only [fld, pack32, BitVec.cast_eq, BitVec.extractLsb'_append_eq_of_le, BitVec.extractLsb'_append_eq_of_add_le]; simp)
    ((parse_00 _ (by simp (disch := decide) only [fld, pack32, BitVec.cast_eq, BitVec.extractLsb'_append_eq_of_le, BitVec.extractLsb'_append_eq_of_add_le]; simp)).trans
      (by simp (disch := decide) only [parseMO00, fld, pack32, BitVec.cast_eq, BitVec.extractLsb'_append_eq_of_le, BitVec.extractLsb'_append_eq_of_add_le]; simp))

theorem minu (d a b : BitVec 5) : Statement (.minu d a b) :=
  of_parse32 _ _ rfl (by simp (disch := decide) only [fld, pack32, BitVec.cast_eq, BitVec.extractLsb'_append_eq_of_le, BitVec.extractLsb'_append_eq_of_add_le]; simp)
    (by simp (disch := decide) only [fld, pack32, BitVec.cast_eq, BitVec.extractLsb'_append_eq_of_le, BitVec.extractLsb'_append_eq_of_add_le]; simp)
    ((parse_00 _ (by simp (disch := decide) only [fld, pack32, BitVec.cast_eq, BitVec.extractLsb'_append_eq_of_le, BitVec.extractLsb'_append_eq_of_add_le]; simp)).trans
      (by simp (disch := decide) only [parseMO00, fld, pack32, BitVec.cast_eq, BitVec.extractLsb'_append_eq_of_le, BitVec.extractLsb'_append_eq_of_add_le]; simp))

theorem maxu (d a b : BitVec 5) : Statement (.maxu d a b) :=
  of_parse32 _ _ rfl (by simp (disch := decide) only [fld, pack32, BitVec.cast_eq, BitVec.extractLsb'_append_eq_of_le, BitVec.extractLsb'_append_eq_of_add_le]; simp)
    (by simp (disch := decide) only [fld, pack32, BitVec.cast_eq, BitVec.extractLsb'_append_eq_of_le, BitVec.extractLsb'_append_eq_of_add_le]; simp)
    ((parse_00 _ (by simp (disch := decide) only [fld, pack32, BitVec.cast_eq, BitVec.extractLsb'_append_eq_of_le, BitVec.extractLsb'_append_eq_of_add_le]; simp)).trans
      (by simp (disch := decide) only [parseMO00, fld, pack32, BitVec.cast_eq, BitVec.extractLsb'_append_eq_of_le, BitVec.extractLsb'_append_eq_of_add_le]; simp))

theorem mul (d a b : BitVec 5) : Statement (.mul d a b) :=
  of_parse32 _ _ rfl (by simp (disch := decide) only [fld, pack32, BitVec.cast_eq, BitVec.extractLsb'_append_eq_of_le, BitVec.extractLsb'_append_eq_of_add_le]; simp)
    (by simp (disch := decide) only [fld, pack32, BitVec.cast_eq, BitVec.extractLsb'_append_eq_of_le, BitVec.extractLsb'_append_eq_of_add_le]; simp)
    ((parse_00 _ (by simp (disch := decide) only [fld, pack32, BitVec.cast_eq, BitVec.extractLsb'_append_eq_of_le, BitVec.extractLsb'_append_eq_of_add_le]; simp)).trans
      (by simp (disch := decide) only [parseMO00, fld, pack32, BitVec.cast_eq, BitVec.extractLsb'_append_eq_of_le, BitVec.extractLsb'_append_eq_of_add_le]; simp))

theorem mhi (d a b : BitVec 5) : Statement (.mhi d a b) :=
  of_parse32 _ _ rfl (by simp (disch := decide) only [fld, pack32, BitVec.cast_eq, BitVec.extractLsb'_append_eq_of_le, BitVec.extractLsb'_append_eq_of_add_le]; simp)
    (by simp (disch := decide) only [fld, pack32, BitVec.cast_eq, BitVec.extractLsb'_append_eq_of_le, BitVec.extractLsb'_append_eq_of_add_le]; simp)
    ((parse_00 _ (by simp (disch := decide) only [fld, pack32, BitVec.cast_eq, BitVec.extractLsb'_append_eq_of_le, BitVec.extractLsb'_append_eq_of_add_le]; simp)).trans
      (by simp (disch := decide) only [parseMO00, fld, pack32, BitVec.cast_eq, BitVec.extractLsb'_append_eq_of_le, BitVec.extractLsb'_append_eq_of_add_le]; simp))

theorem mhiu (d a b : BitVec 5) : Statement (.mhiu d a b) :=
  of_parse32 _ _ rfl (by simp (disch := decide) only [fld, pack32, BitVec.cast_eq, BitVec.extractLsb'_append_eq_of_le, BitVec.extractLsb'_append_eq_of_add_le]; simp)
    (by simp (disch := decide) only [fld, pack32, BitVec.cast_eq, BitVec.extractLsb'_append_eq_of_le, BitVec.extractLsb'_append_eq_of_add_le]; simp)
    ((parse_00 _ (by simp (disch := decide) only [fld, pack32, BitVec.cast_eq, BitVec.extractLsb'_append_eq_of_le, BitVec.extractLsb'_append_eq_of_add_le]; simp)).trans
      (by simp (disch := decide) only [parseMO00, fld, pack32, BitVec.cast_eq, BitVec.extractLsb'_append_eq_of_le, BitVec.extractLsb'_append_eq_of_add_le]; simp))

theorem mhisu (d a b : BitVec 5) : Statement (.mhisu d a b) :=
  of_parse32 _ _ rfl (by simp (disch := decide) only [fld, pack32, BitVec.cast_eq, BitVec.extractLsb'_append_eq_of_le, BitVec.extractLsb'_append_eq_of_add_le]; simp)
    (by simp (disch := decide) only [fld, pack32, BitVec.cast_eq, BitVec.extractLsb'_append_eq_of_le, BitVec.extractLsb'_append_eq_of_add_le]; simp)
    ((parse_00 _ (by simp (disch := decide) only [fld, pack32, BitVec.cast_eq, BitVec.extractLsb'_append_eq_of_le, BitVec.extractLsb'_append_eq_of_add_le]; simp)).trans
      (by simp (disch := decide) only [parseMO00, fld, pack32, BitVec.cast_eq, BitVec.extractLsb'_append_eq_of_le, BitVec.extractLsb'_append_eq_of_add_le]; simp))

theorem div (d a b : BitVec 5) : Statement (.div d a b) :=
  of_parse32 _ _ rfl (by simp (disch := decide) only [fld, pack32, BitVec.cast_eq, BitVec.extractLsb'_append_eq_of_le, BitVec.extractLsb'_append_eq_of_add_le]; simp)
    (by simp (disch := decide) only [fld, pack32, BitVec.cast_eq, BitVec.extractLsb'_append_eq_of_le, BitVec.extractLsb'_append_eq_of_add_le]; simp)
    ((parse_00 _ (by simp (disch := decide) only [fld, pack32, BitVec.cast_eq, BitVec.extractLsb'_append_eq_of_le, BitVec.extractLsb'_append_eq_of_add_le]; simp)).trans
      (by simp (disch := decide) only [parseMO00, fld, pack32, BitVec.cast_eq, BitVec.extractLsb'_append_eq_of_le, BitVec.extractLsb'_append_eq_of_add_le]; simp))

theorem divu (d a b : BitVec 5) : Statement (.divu d a b) :=
  of_parse32 _ _ rfl (by simp (disch := decide) only [fld, pack32, BitVec.cast_eq, BitVec.extractLsb'_append_eq_of_le, BitVec.extractLsb'_append_eq_of_add_le]; simp)
    (by simp (disch := decide) only [fld, pack32, BitVec.cast_eq, BitVec.extractLsb'_append_eq_of_le, BitVec.extractLsb'_append_eq_of_add_le]; simp)
    ((parse_00 _ (by simp (disch := decide) only [fld, pack32, BitVec.cast_eq, BitVec.extractLsb'_append_eq_of_le, BitVec.extractLsb'_append_eq_of_add_le]; simp)).trans
      (by simp (disch := decide) only [parseMO00, fld, pack32, BitVec.cast_eq, BitVec.extractLsb'_append_eq_of_le, BitVec.extractLsb'_append_eq_of_add_le]; simp))

theorem rem (d a b : BitVec 5) : Statement (.rem d a b) :=
  of_parse32 _ _ rfl (by simp (disch := decide) only [fld, pack32, BitVec.cast_eq, BitVec.extractLsb'_append_eq_of_le, BitVec.extractLsb'_append_eq_of_add_le]; simp)
    (by simp (disch := decide) only [fld, pack32, BitVec.cast_eq, BitVec.extractLsb'_append_eq_of_le, BitVec.extractLsb'_append_eq_of_add_le]; simp)
    ((parse_00 _ (by simp (disch := decide) only [fld, pack32, BitVec.cast_eq, BitVec.extractLsb'_append_eq_of_le, BitVec.extractLsb'_append_eq_of_add_le]; simp)).trans
      (by simp (disch := decide) only [parseMO00, fld, pack32, BitVec.cast_eq, BitVec.extractLsb'_append_eq_of_le, BitVec.extractLsb'_append_eq_of_add_le]; simp))

theorem remu (d a b : BitVec 5) : Statement (.remu d a b) :=
  of_parse32 _ _ rfl (by simp (disch := decide) only [fld, pack32, BitVec.cast_eq, BitVec.extractLsb'_append_eq_of_le, BitVec.extractLsb'_append_eq_of_add_le]; simp)
    (by simp (disch := decide) only [fld, pack32, BitVec.cast_eq, BitVec.extractLsb'_append_eq_of_le, BitVec.extractLsb'_append_eq_of_add_le]; simp)
    ((parse_00 _ (by simp (disch := decide) only [fld, pack32, BitVec.cast_eq, BitVec.extractLsb'_append_eq_of_le, BitVec.extractLsb'_append_eq_of_add_le]; simp)).trans
      (by simp (disch := decide) only [parseMO00, fld, pack32, BitVec.cast_eq, BitVec.extractLsb'_append_eq_of_le, BitVec.extractLsb'_append_eq_of_add_le]; simp))

theorem clz (d a : BitVec 5) : Statement (.clz d a) :=
  of_parse32 _ _ rfl (by simp (disch := decide) only [fld, pack32, BitVec.cast_eq, BitVec.extractLsb'_append_eq_of_le, BitVec.extractLsb'_append_eq_of_add_le]; simp)
    (by simp (disch := decide) only [fld, pack32, BitVec.cast_eq, BitVec.extractLsb'_append_eq_of_le, BitVec.extractLsb'_append_eq_of_add_le]; simp)
    ((parse_00 _ (by simp (disch := decide) only [fld, pack32, BitVec.cast_eq, BitVec.extractLsb'_append_eq_of_le, BitVec.extractLsb'_append_eq_of_add_le]; simp)).trans
      (by simp (disch := decide) only [parseMO00, fld, pack32, BitVec.cast_eq, BitVec.extractLsb'_append_eq_of_le, BitVec.extractLsb'_append_eq_of_add_le]; simp))

theorem ctz (d a : BitVec 5) : Statement (.ctz d a) :=
  of_parse32 _ _ rfl (by simp (disch := decide) only [fld, pack32, BitVec.cast_eq, BitVec.extractLsb'_append_eq_of_le, BitVec.extractLsb'_append_eq_of_add_le]; simp)
    (by simp (disch := decide) only [fld, pack32, BitVec.cast_eq, BitVec.extractLsb'_append_eq_of_le, BitVec.extractLsb'_append_eq_of_add_le]; simp)
    ((parse_00 _ (by simp (disch := decide) only [fld, pack32, BitVec.cast_eq, BitVec.extractLsb'_append_eq_of_le, BitVec.extractLsb'_append_eq_of_add_le]; simp)).trans
      (by simp (disch := decide) only [parseMO00, fld, pack32, BitVec.cast_eq, BitVec.extractLsb'_append_eq_of_le, BitVec.extractLsb'_append_eq_of_add_le]; simp))

theorem popc (d a : BitVec 5) : Statement (.popc d a) :=
  of_parse32 _ _ rfl (by simp (disch := decide) only [fld, pack32, BitVec.cast_eq, BitVec.extractLsb'_append_eq_of_le, BitVec.extractLsb'_append_eq_of_add_le]; simp)
    (by simp (disch := decide) only [fld, pack32, BitVec.cast_eq, BitVec.extractLsb'_append_eq_of_le, BitVec.extractLsb'_append_eq_of_add_le]; simp)
    ((parse_00 _ (by simp (disch := decide) only [fld, pack32, BitVec.cast_eq, BitVec.extractLsb'_append_eq_of_le, BitVec.extractLsb'_append_eq_of_add_le]; simp)).trans
      (by simp (disch := decide) only [parseMO00, fld, pack32, BitVec.cast_eq, BitVec.extractLsb'_append_eq_of_le, BitVec.extractLsb'_append_eq_of_add_le]; simp))

theorem bswap (d a : BitVec 5) : Statement (.bswap d a) :=
  of_parse32 _ _ rfl (by simp (disch := decide) only [fld, pack32, BitVec.cast_eq, BitVec.extractLsb'_append_eq_of_le, BitVec.extractLsb'_append_eq_of_add_le]; simp)
    (by simp (disch := decide) only [fld, pack32, BitVec.cast_eq, BitVec.extractLsb'_append_eq_of_le, BitVec.extractLsb'_append_eq_of_add_le]; simp)
    ((parse_00 _ (by simp (disch := decide) only [fld, pack32, BitVec.cast_eq, BitVec.extractLsb'_append_eq_of_le, BitVec.extractLsb'_append_eq_of_add_le]; simp)).trans
      (by simp (disch := decide) only [parseMO00, fld, pack32, BitVec.cast_eq, BitVec.extractLsb'_append_eq_of_le, BitVec.extractLsb'_append_eq_of_add_le]; simp))

theorem sxw (d a : BitVec 5) : Statement (.sxw d a) :=
  of_parse32 _ _ rfl (by simp (disch := decide) only [fld, pack32, BitVec.cast_eq, BitVec.extractLsb'_append_eq_of_le, BitVec.extractLsb'_append_eq_of_add_le]; simp)
    (by simp (disch := decide) only [fld, pack32, BitVec.cast_eq, BitVec.extractLsb'_append_eq_of_le, BitVec.extractLsb'_append_eq_of_add_le]; simp)
    ((parse_00 _ (by simp (disch := decide) only [fld, pack32, BitVec.cast_eq, BitVec.extractLsb'_append_eq_of_le, BitVec.extractLsb'_append_eq_of_add_le]; simp)).trans
      (by simp (disch := decide) only [parseMO00, fld, pack32, BitVec.cast_eq, BitVec.extractLsb'_append_eq_of_le, BitVec.extractLsb'_append_eq_of_add_le]; simp))

theorem zxw (d a : BitVec 5) : Statement (.zxw d a) :=
  of_parse32 _ _ rfl (by simp (disch := decide) only [fld, pack32, BitVec.cast_eq, BitVec.extractLsb'_append_eq_of_le, BitVec.extractLsb'_append_eq_of_add_le]; simp)
    (by simp (disch := decide) only [fld, pack32, BitVec.cast_eq, BitVec.extractLsb'_append_eq_of_le, BitVec.extractLsb'_append_eq_of_add_le]; simp)
    ((parse_00 _ (by simp (disch := decide) only [fld, pack32, BitVec.cast_eq, BitVec.extractLsb'_append_eq_of_le, BitVec.extractLsb'_append_eq_of_add_le]; simp)).trans
      (by simp (disch := decide) only [parseMO00, fld, pack32, BitVec.cast_eq, BitVec.extractLsb'_append_eq_of_le, BitVec.extractLsb'_append_eq_of_add_le]; simp))

theorem parse_01 (w : BitVec 32) (h : fld w 25 6 = 0x01#6) : parse32 w = parseMO01 w := by simp only [parse32, h]

theorem addi (d a : BitVec 5) (i : BitVec 15) : Statement (.addi d a i) :=
  of_parse32 _ _ rfl (by simp (disch := decide) only [fld, pack32, BitVec.cast_eq, BitVec.extractLsb'_append_eq_of_le, BitVec.extractLsb'_append_eq_of_add_le]; simp)
    (by simp (disch := decide) only [fld, pack32, BitVec.cast_eq, BitVec.extractLsb'_append_eq_of_le, BitVec.extractLsb'_append_eq_of_add_le]; simp)
    ((parse_01 _ (by simp (disch := decide) only [fld, pack32, BitVec.cast_eq, BitVec.extractLsb'_append_eq_of_le, BitVec.extractLsb'_append_eq_of_add_le]; simp)).trans
      (by simp (disch := decide) only [parseMO01, fld, pack32, BitVec.cast_eq, BitVec.extractLsb'_append_eq_of_le, BitVec.extractLsb'_append_eq_of_add_le]; simp))

theorem parse_02 (w : BitVec 32) (h : fld w 25 6 = 0x02#6) : parse32 w = parseMO02 w := by simp only [parse32, h]

theorem andi (d a : BitVec 5) (i : BitVec 15) : Statement (.andi d a i) :=
  of_parse32 _ _ rfl (by simp (disch := decide) only [fld, pack32, BitVec.cast_eq, BitVec.extractLsb'_append_eq_of_le, BitVec.extractLsb'_append_eq_of_add_le]; simp)
    (by simp (disch := decide) only [fld, pack32, BitVec.cast_eq, BitVec.extractLsb'_append_eq_of_le, BitVec.extractLsb'_append_eq_of_add_le]; simp)
    ((parse_02 _ (by simp (disch := decide) only [fld, pack32, BitVec.cast_eq, BitVec.extractLsb'_append_eq_of_le, BitVec.extractLsb'_append_eq_of_add_le]; simp)).trans
      (by simp (disch := decide) only [parseMO02, fld, pack32, BitVec.cast_eq, BitVec.extractLsb'_append_eq_of_le, BitVec.extractLsb'_append_eq_of_add_le]; simp))

theorem parse_03 (w : BitVec 32) (h : fld w 25 6 = 0x03#6) : parse32 w = parseMO03 w := by simp only [parse32, h]

theorem ori (d a : BitVec 5) (i : BitVec 15) : Statement (.ori d a i) :=
  of_parse32 _ _ rfl (by simp (disch := decide) only [fld, pack32, BitVec.cast_eq, BitVec.extractLsb'_append_eq_of_le, BitVec.extractLsb'_append_eq_of_add_le]; simp)
    (by simp (disch := decide) only [fld, pack32, BitVec.cast_eq, BitVec.extractLsb'_append_eq_of_le, BitVec.extractLsb'_append_eq_of_add_le]; simp)
    ((parse_03 _ (by simp (disch := decide) only [fld, pack32, BitVec.cast_eq, BitVec.extractLsb'_append_eq_of_le, BitVec.extractLsb'_append_eq_of_add_le]; simp)).trans
      (by simp (disch := decide) only [parseMO03, fld, pack32, BitVec.cast_eq, BitVec.extractLsb'_append_eq_of_le, BitVec.extractLsb'_append_eq_of_add_le]; simp))

theorem parse_04 (w : BitVec 32) (h : fld w 25 6 = 0x04#6) : parse32 w = parseMO04 w := by simp only [parse32, h]

theorem xori (d a : BitVec 5) (i : BitVec 15) : Statement (.xori d a i) :=
  of_parse32 _ _ rfl (by simp (disch := decide) only [fld, pack32, BitVec.cast_eq, BitVec.extractLsb'_append_eq_of_le, BitVec.extractLsb'_append_eq_of_add_le]; simp)
    (by simp (disch := decide) only [fld, pack32, BitVec.cast_eq, BitVec.extractLsb'_append_eq_of_le, BitVec.extractLsb'_append_eq_of_add_le]; simp)
    ((parse_04 _ (by simp (disch := decide) only [fld, pack32, BitVec.cast_eq, BitVec.extractLsb'_append_eq_of_le, BitVec.extractLsb'_append_eq_of_add_le]; simp)).trans
      (by simp (disch := decide) only [parseMO04, fld, pack32, BitVec.cast_eq, BitVec.extractLsb'_append_eq_of_le, BitVec.extractLsb'_append_eq_of_add_le]; simp))

theorem parse_05 (w : BitVec 32) (h : fld w 25 6 = 0x05#6) : parse32 w = parseMO05 w := by simp only [parse32, h]

theorem slli (d a : BitVec 5) (s : BitVec 6) : Statement (.slli d a s) :=
  of_parse32 _ _ rfl (by simp (disch := decide) only [fld, pack32, BitVec.cast_eq, BitVec.extractLsb'_append_eq_of_le, BitVec.extractLsb'_append_eq_of_add_le]; simp)
    (by simp (disch := decide) only [fld, pack32, BitVec.cast_eq, BitVec.extractLsb'_append_eq_of_le, BitVec.extractLsb'_append_eq_of_add_le]; simp)
    ((parse_05 _ (by simp (disch := decide) only [fld, pack32, BitVec.cast_eq, BitVec.extractLsb'_append_eq_of_le, BitVec.extractLsb'_append_eq_of_add_le]; simp)).trans
      (by simp (disch := decide) only [parseMO05, fld, pack32, BitVec.cast_eq, BitVec.extractLsb'_append_eq_of_le, BitVec.extractLsb'_append_eq_of_add_le]; simp))

theorem srli (d a : BitVec 5) (s : BitVec 6) : Statement (.srli d a s) :=
  of_parse32 _ _ rfl (by simp (disch := decide) only [fld, pack32, BitVec.cast_eq, BitVec.extractLsb'_append_eq_of_le, BitVec.extractLsb'_append_eq_of_add_le]; simp)
    (by simp (disch := decide) only [fld, pack32, BitVec.cast_eq, BitVec.extractLsb'_append_eq_of_le, BitVec.extractLsb'_append_eq_of_add_le]; simp)
    ((parse_05 _ (by simp (disch := decide) only [fld, pack32, BitVec.cast_eq, BitVec.extractLsb'_append_eq_of_le, BitVec.extractLsb'_append_eq_of_add_le]; simp)).trans
      (by simp (disch := decide) only [parseMO05, fld, pack32, BitVec.cast_eq, BitVec.extractLsb'_append_eq_of_le, BitVec.extractLsb'_append_eq_of_add_le]; simp))

theorem srai (d a : BitVec 5) (s : BitVec 6) : Statement (.srai d a s) :=
  of_parse32 _ _ rfl (by simp (disch := decide) only [fld, pack32, BitVec.cast_eq, BitVec.extractLsb'_append_eq_of_le, BitVec.extractLsb'_append_eq_of_add_le]; simp)
    (by simp (disch := decide) only [fld, pack32, BitVec.cast_eq, BitVec.extractLsb'_append_eq_of_le, BitVec.extractLsb'_append_eq_of_add_le]; simp)
    ((parse_05 _ (by simp (disch := decide) only [fld, pack32, BitVec.cast_eq, BitVec.extractLsb'_append_eq_of_le, BitVec.extractLsb'_append_eq_of_add_le]; simp)).trans
      (by simp (disch := decide) only [parseMO05, fld, pack32, BitVec.cast_eq, BitVec.extractLsb'_append_eq_of_le, BitVec.extractLsb'_append_eq_of_add_le]; simp))

theorem rori (d a : BitVec 5) (s : BitVec 6) : Statement (.rori d a s) :=
  of_parse32 _ _ rfl (by simp (disch := decide) only [fld, pack32, BitVec.cast_eq, BitVec.extractLsb'_append_eq_of_le, BitVec.extractLsb'_append_eq_of_add_le]; simp)
    (by simp (disch := decide) only [fld, pack32, BitVec.cast_eq, BitVec.extractLsb'_append_eq_of_le, BitVec.extractLsb'_append_eq_of_add_le]; simp)
    ((parse_05 _ (by simp (disch := decide) only [fld, pack32, BitVec.cast_eq, BitVec.extractLsb'_append_eq_of_le, BitVec.extractLsb'_append_eq_of_add_le]; simp)).trans
      (by simp (disch := decide) only [parseMO05, fld, pack32, BitVec.cast_eq, BitVec.extractLsb'_append_eq_of_le, BitVec.extractLsb'_append_eq_of_add_le]; simp))

theorem parse_06 (w : BitVec 32) (h : fld w 25 6 = 0x06#6) : parse32 w = parseMO06 w := by simp only [parse32, h]

theorem slti (d a : BitVec 5) (i : BitVec 14) : Statement (.slti d a i) :=
  of_parse32 _ _ rfl (by simp (disch := decide) only [fld, pack32, BitVec.cast_eq, BitVec.extractLsb'_append_eq_of_le, BitVec.extractLsb'_append_eq_of_add_le]; simp)
    (by simp (disch := decide) only [fld, pack32, BitVec.cast_eq, BitVec.extractLsb'_append_eq_of_le, BitVec.extractLsb'_append_eq_of_add_le]; simp)
    ((parse_06 _ (by simp (disch := decide) only [fld, pack32, BitVec.cast_eq, BitVec.extractLsb'_append_eq_of_le, BitVec.extractLsb'_append_eq_of_add_le]; simp)).trans
      (by simp (disch := decide) only [parseMO06, fld, pack32, BitVec.cast_eq, BitVec.extractLsb'_append_eq_of_le, BitVec.extractLsb'_append_eq_of_add_le]; simp))

theorem sltiu (d a : BitVec 5) (i : BitVec 14) : Statement (.sltiu d a i) :=
  of_parse32 _ _ rfl (by simp (disch := decide) only [fld, pack32, BitVec.cast_eq, BitVec.extractLsb'_append_eq_of_le, BitVec.extractLsb'_append_eq_of_add_le]; simp)
    (by simp (disch := decide) only [fld, pack32, BitVec.cast_eq, BitVec.extractLsb'_append_eq_of_le, BitVec.extractLsb'_append_eq_of_add_le]; simp)
    ((parse_06 _ (by simp (disch := decide) only [fld, pack32, BitVec.cast_eq, BitVec.extractLsb'_append_eq_of_le, BitVec.extractLsb'_append_eq_of_add_le]; simp)).trans
      (by simp (disch := decide) only [parseMO06, fld, pack32, BitVec.cast_eq, BitVec.extractLsb'_append_eq_of_le, BitVec.extractLsb'_append_eq_of_add_le]; simp))

theorem parse_07 (w : BitVec 32) (h : fld w 25 6 = 0x07#6) : parse32 w = parseMO07 w := by simp only [parse32, h]

theorem li (d : BitVec 5) (i : BitVec 19) : Statement (.li d i) :=
  of_parse32 _ _ rfl (by simp (disch := decide) only [fld, pack32, BitVec.cast_eq, BitVec.extractLsb'_append_eq_of_le, BitVec.extractLsb'_append_eq_of_add_le]; simp)
    (by simp (disch := decide) only [fld, pack32, BitVec.cast_eq, BitVec.extractLsb'_append_eq_of_le, BitVec.extractLsb'_append_eq_of_add_le]; simp)
    ((parse_07 _ (by simp (disch := decide) only [fld, pack32, BitVec.cast_eq, BitVec.extractLsb'_append_eq_of_le, BitVec.extractLsb'_append_eq_of_add_le]; simp)).trans
      (by simp (disch := decide) only [parseMO07, fld, pack32, BitVec.cast_eq, BitVec.extractLsb'_append_eq_of_le, BitVec.extractLsb'_append_eq_of_add_le]; simp))

theorem lih (d : BitVec 5) (p : BitVec 2) (i : BitVec 16) : Statement (.lih d p i) :=
  of_parse32 _ _ rfl (by simp (disch := decide) only [fld, pack32, BitVec.cast_eq, BitVec.extractLsb'_append_eq_of_le, BitVec.extractLsb'_append_eq_of_add_le]; simp)
    (by simp (disch := decide) only [fld, pack32, BitVec.cast_eq, BitVec.extractLsb'_append_eq_of_le, BitVec.extractLsb'_append_eq_of_add_le]; simp)
    ((parse_07 _ (by simp (disch := decide) only [fld, pack32, BitVec.cast_eq, BitVec.extractLsb'_append_eq_of_le, BitVec.extractLsb'_append_eq_of_add_le]; simp)).trans
      (by simp (disch := decide) only [parseMO07, fld, pack32, BitVec.cast_eq, BitVec.extractLsb'_append_eq_of_le, BitVec.extractLsb'_append_eq_of_add_le]; simp))

theorem parse_08 (w : BitVec 32) (h : fld w 25 6 = 0x08#6) : parse32 w = parseMO08 w := by simp only [parse32, h]

theorem ldb (d b : BitVec 5) (o : BitVec 12) : Statement (.ldb d b o) :=
  of_parse32 _ _ rfl (by simp (disch := decide) only [fld, pack32, BitVec.cast_eq, BitVec.extractLsb'_append_eq_of_le, BitVec.extractLsb'_append_eq_of_add_le]; simp)
    (by simp (disch := decide) only [fld, pack32, BitVec.cast_eq, BitVec.extractLsb'_append_eq_of_le, BitVec.extractLsb'_append_eq_of_add_le]; simp)
    ((parse_08 _ (by simp (disch := decide) only [fld, pack32, BitVec.cast_eq, BitVec.extractLsb'_append_eq_of_le, BitVec.extractLsb'_append_eq_of_add_le]; simp)).trans
      (by simp (disch := decide) only [parseMO08, fld, pack32, BitVec.cast_eq, BitVec.extractLsb'_append_eq_of_le, BitVec.extractLsb'_append_eq_of_add_le]; simp))

theorem ldh (d b : BitVec 5) (o : BitVec 12) : Statement (.ldh d b o) :=
  of_parse32 _ _ rfl (by simp (disch := decide) only [fld, pack32, BitVec.cast_eq, BitVec.extractLsb'_append_eq_of_le, BitVec.extractLsb'_append_eq_of_add_le]; simp)
    (by simp (disch := decide) only [fld, pack32, BitVec.cast_eq, BitVec.extractLsb'_append_eq_of_le, BitVec.extractLsb'_append_eq_of_add_le]; simp)
    ((parse_08 _ (by simp (disch := decide) only [fld, pack32, BitVec.cast_eq, BitVec.extractLsb'_append_eq_of_le, BitVec.extractLsb'_append_eq_of_add_le]; simp)).trans
      (by simp (disch := decide) only [parseMO08, fld, pack32, BitVec.cast_eq, BitVec.extractLsb'_append_eq_of_le, BitVec.extractLsb'_append_eq_of_add_le]; simp))

theorem ldw (d b : BitVec 5) (o : BitVec 12) : Statement (.ldw d b o) :=
  of_parse32 _ _ rfl (by simp (disch := decide) only [fld, pack32, BitVec.cast_eq, BitVec.extractLsb'_append_eq_of_le, BitVec.extractLsb'_append_eq_of_add_le]; simp)
    (by simp (disch := decide) only [fld, pack32, BitVec.cast_eq, BitVec.extractLsb'_append_eq_of_le, BitVec.extractLsb'_append_eq_of_add_le]; simp)
    ((parse_08 _ (by simp (disch := decide) only [fld, pack32, BitVec.cast_eq, BitVec.extractLsb'_append_eq_of_le, BitVec.extractLsb'_append_eq_of_add_le]; simp)).trans
      (by simp (disch := decide) only [parseMO08, fld, pack32, BitVec.cast_eq, BitVec.extractLsb'_append_eq_of_le, BitVec.extractLsb'_append_eq_of_add_le]; simp))

theorem ldd (d b : BitVec 5) (o : BitVec 12) : Statement (.ldd d b o) :=
  of_parse32 _ _ rfl (by simp (disch := decide) only [fld, pack32, BitVec.cast_eq, BitVec.extractLsb'_append_eq_of_le, BitVec.extractLsb'_append_eq_of_add_le]; simp)
    (by simp (disch := decide) only [fld, pack32, BitVec.cast_eq, BitVec.extractLsb'_append_eq_of_le, BitVec.extractLsb'_append_eq_of_add_le]; simp)
    ((parse_08 _ (by simp (disch := decide) only [fld, pack32, BitVec.cast_eq, BitVec.extractLsb'_append_eq_of_le, BitVec.extractLsb'_append_eq_of_add_le]; simp)).trans
      (by simp (disch := decide) only [parseMO08, fld, pack32, BitVec.cast_eq, BitVec.extractLsb'_append_eq_of_le, BitVec.extractLsb'_append_eq_of_add_le]; simp))

theorem ldbu (d b : BitVec 5) (o : BitVec 12) : Statement (.ldbu d b o) :=
  of_parse32 _ _ rfl (by simp (disch := decide) only [fld, pack32, BitVec.cast_eq, BitVec.extractLsb'_append_eq_of_le, BitVec.extractLsb'_append_eq_of_add_le]; simp)
    (by simp (disch := decide) only [fld, pack32, BitVec.cast_eq, BitVec.extractLsb'_append_eq_of_le, BitVec.extractLsb'_append_eq_of_add_le]; simp)
    ((parse_08 _ (by simp (disch := decide) only [fld, pack32, BitVec.cast_eq, BitVec.extractLsb'_append_eq_of_le, BitVec.extractLsb'_append_eq_of_add_le]; simp)).trans
      (by simp (disch := decide) only [parseMO08, fld, pack32, BitVec.cast_eq, BitVec.extractLsb'_append_eq_of_le, BitVec.extractLsb'_append_eq_of_add_le]; simp))

theorem ldhu (d b : BitVec 5) (o : BitVec 12) : Statement (.ldhu d b o) :=
  of_parse32 _ _ rfl (by simp (disch := decide) only [fld, pack32, BitVec.cast_eq, BitVec.extractLsb'_append_eq_of_le, BitVec.extractLsb'_append_eq_of_add_le]; simp)
    (by simp (disch := decide) only [fld, pack32, BitVec.cast_eq, BitVec.extractLsb'_append_eq_of_le, BitVec.extractLsb'_append_eq_of_add_le]; simp)
    ((parse_08 _ (by simp (disch := decide) only [fld, pack32, BitVec.cast_eq, BitVec.extractLsb'_append_eq_of_le, BitVec.extractLsb'_append_eq_of_add_le]; simp)).trans
      (by simp (disch := decide) only [parseMO08, fld, pack32, BitVec.cast_eq, BitVec.extractLsb'_append_eq_of_le, BitVec.extractLsb'_append_eq_of_add_le]; simp))

theorem ldwu (d b : BitVec 5) (o : BitVec 12) : Statement (.ldwu d b o) :=
  of_parse32 _ _ rfl (by simp (disch := decide) only [fld, pack32, BitVec.cast_eq, BitVec.extractLsb'_append_eq_of_le, BitVec.extractLsb'_append_eq_of_add_le]; simp)
    (by simp (disch := decide) only [fld, pack32, BitVec.cast_eq, BitVec.extractLsb'_append_eq_of_le, BitVec.extractLsb'_append_eq_of_add_le]; simp)
    ((parse_08 _ (by simp (disch := decide) only [fld, pack32, BitVec.cast_eq, BitVec.extractLsb'_append_eq_of_le, BitVec.extractLsb'_append_eq_of_add_le]; simp)).trans
      (by simp (disch := decide) only [parseMO08, fld, pack32, BitVec.cast_eq, BitVec.extractLsb'_append_eq_of_le, BitVec.extractLsb'_append_eq_of_add_le]; simp))

theorem parse_09 (w : BitVec 32) (h : fld w 25 6 = 0x09#6) : parse32 w = parseMO09 w := by simp only [parse32, h]

theorem stb (d b : BitVec 5) (o : BitVec 12) : Statement (.stb d b o) :=
  of_parse32 _ _ rfl (by simp (disch := decide) only [fld, pack32, BitVec.cast_eq, BitVec.extractLsb'_append_eq_of_le, BitVec.extractLsb'_append_eq_of_add_le]; simp)
    (by simp (disch := decide) only [fld, pack32, BitVec.cast_eq, BitVec.extractLsb'_append_eq_of_le, BitVec.extractLsb'_append_eq_of_add_le]; simp)
    ((parse_09 _ (by simp (disch := decide) only [fld, pack32, BitVec.cast_eq, BitVec.extractLsb'_append_eq_of_le, BitVec.extractLsb'_append_eq_of_add_le]; simp)).trans
      (by simp (disch := decide) only [parseMO09, fld, pack32, BitVec.cast_eq, BitVec.extractLsb'_append_eq_of_le, BitVec.extractLsb'_append_eq_of_add_le]; simp))

theorem sth (d b : BitVec 5) (o : BitVec 12) : Statement (.sth d b o) :=
  of_parse32 _ _ rfl (by simp (disch := decide) only [fld, pack32, BitVec.cast_eq, BitVec.extractLsb'_append_eq_of_le, BitVec.extractLsb'_append_eq_of_add_le]; simp)
    (by simp (disch := decide) only [fld, pack32, BitVec.cast_eq, BitVec.extractLsb'_append_eq_of_le, BitVec.extractLsb'_append_eq_of_add_le]; simp)
    ((parse_09 _ (by simp (disch := decide) only [fld, pack32, BitVec.cast_eq, BitVec.extractLsb'_append_eq_of_le, BitVec.extractLsb'_append_eq_of_add_le]; simp)).trans
      (by simp (disch := decide) only [parseMO09, fld, pack32, BitVec.cast_eq, BitVec.extractLsb'_append_eq_of_le, BitVec.extractLsb'_append_eq_of_add_le]; simp))

theorem stw (d b : BitVec 5) (o : BitVec 12) : Statement (.stw d b o) :=
  of_parse32 _ _ rfl (by simp (disch := decide) only [fld, pack32, BitVec.cast_eq, BitVec.extractLsb'_append_eq_of_le, BitVec.extractLsb'_append_eq_of_add_le]; simp)
    (by simp (disch := decide) only [fld, pack32, BitVec.cast_eq, BitVec.extractLsb'_append_eq_of_le, BitVec.extractLsb'_append_eq_of_add_le]; simp)
    ((parse_09 _ (by simp (disch := decide) only [fld, pack32, BitVec.cast_eq, BitVec.extractLsb'_append_eq_of_le, BitVec.extractLsb'_append_eq_of_add_le]; simp)).trans
      (by simp (disch := decide) only [parseMO09, fld, pack32, BitVec.cast_eq, BitVec.extractLsb'_append_eq_of_le, BitVec.extractLsb'_append_eq_of_add_le]; simp))

theorem std (d b : BitVec 5) (o : BitVec 12) : Statement (.std d b o) :=
  of_parse32 _ _ rfl (by simp (disch := decide) only [fld, pack32, BitVec.cast_eq, BitVec.extractLsb'_append_eq_of_le, BitVec.extractLsb'_append_eq_of_add_le]; simp)
    (by simp (disch := decide) only [fld, pack32, BitVec.cast_eq, BitVec.extractLsb'_append_eq_of_le, BitVec.extractLsb'_append_eq_of_add_le]; simp)
    ((parse_09 _ (by simp (disch := decide) only [fld, pack32, BitVec.cast_eq, BitVec.extractLsb'_append_eq_of_le, BitVec.extractLsb'_append_eq_of_add_le]; simp)).trans
      (by simp (disch := decide) only [parseMO09, fld, pack32, BitVec.cast_eq, BitVec.extractLsb'_append_eq_of_le, BitVec.extractLsb'_append_eq_of_add_le]; simp))

theorem parse_0a (w : BitVec 32) (h : fld w 25 6 = 0x0a#6) : parse32 w = parseMO0A w := by simp only [parse32, h]

theorem vld (d b : BitVec 5) (o : BitVec 12) : Statement (.vld d b o) :=
  of_parse32 _ _ rfl (by simp (disch := decide) only [fld, pack32, BitVec.cast_eq, BitVec.extractLsb'_append_eq_of_le, BitVec.extractLsb'_append_eq_of_add_le]; simp)
    (by simp (disch := decide) only [fld, pack32, BitVec.cast_eq, BitVec.extractLsb'_append_eq_of_le, BitVec.extractLsb'_append_eq_of_add_le]; simp)
    ((parse_0a _ (by simp (disch := decide) only [fld, pack32, BitVec.cast_eq, BitVec.extractLsb'_append_eq_of_le, BitVec.extractLsb'_append_eq_of_add_le]; simp)).trans
      (by simp (disch := decide) only [parseMO0A, fld, pack32, BitVec.cast_eq, BitVec.extractLsb'_append_eq_of_le, BitVec.extractLsb'_append_eq_of_add_le]; simp))

theorem vldh (d b : BitVec 5) (o : BitVec 12) : Statement (.vldh d b o) :=
  of_parse32 _ _ rfl (by simp (disch := decide) only [fld, pack32, BitVec.cast_eq, BitVec.extractLsb'_append_eq_of_le, BitVec.extractLsb'_append_eq_of_add_le]; simp)
    (by simp (disch := decide) only [fld, pack32, BitVec.cast_eq, BitVec.extractLsb'_append_eq_of_le, BitVec.extractLsb'_append_eq_of_add_le]; simp)
    ((parse_0a _ (by simp (disch := decide) only [fld, pack32, BitVec.cast_eq, BitVec.extractLsb'_append_eq_of_le, BitVec.extractLsb'_append_eq_of_add_le]; simp)).trans
      (by simp (disch := decide) only [parseMO0A, fld, pack32, BitVec.cast_eq, BitVec.extractLsb'_append_eq_of_le, BitVec.extractLsb'_append_eq_of_add_le]; simp))

theorem vst (d b : BitVec 5) (o : BitVec 12) : Statement (.vst d b o) :=
  of_parse32 _ _ rfl (by simp (disch := decide) only [fld, pack32, BitVec.cast_eq, BitVec.extractLsb'_append_eq_of_le, BitVec.extractLsb'_append_eq_of_add_le]; simp)
    (by simp (disch := decide) only [fld, pack32, BitVec.cast_eq, BitVec.extractLsb'_append_eq_of_le, BitVec.extractLsb'_append_eq_of_add_le]; simp)
    ((parse_0a _ (by simp (disch := decide) only [fld, pack32, BitVec.cast_eq, BitVec.extractLsb'_append_eq_of_le, BitVec.extractLsb'_append_eq_of_add_le]; simp)).trans
      (by simp (disch := decide) only [parseMO0A, fld, pack32, BitVec.cast_eq, BitVec.extractLsb'_append_eq_of_le, BitVec.extractLsb'_append_eq_of_add_le]; simp))

theorem vsth (d b : BitVec 5) (o : BitVec 12) : Statement (.vsth d b o) :=
  of_parse32 _ _ rfl (by simp (disch := decide) only [fld, pack32, BitVec.cast_eq, BitVec.extractLsb'_append_eq_of_le, BitVec.extractLsb'_append_eq_of_add_le]; simp)
    (by simp (disch := decide) only [fld, pack32, BitVec.cast_eq, BitVec.extractLsb'_append_eq_of_le, BitVec.extractLsb'_append_eq_of_add_le]; simp)
    ((parse_0a _ (by simp (disch := decide) only [fld, pack32, BitVec.cast_eq, BitVec.extractLsb'_append_eq_of_le, BitVec.extractLsb'_append_eq_of_add_le]; simp)).trans
      (by simp (disch := decide) only [parseMO0A, fld, pack32, BitVec.cast_eq, BitVec.extractLsb'_append_eq_of_le, BitVec.extractLsb'_append_eq_of_add_le]; simp))

theorem parse_0b (w : BitVec 32) (h : fld w 25 6 = 0x0b#6) : parse32 w = parseMO0B w := by simp only [parse32, h]

theorem ldp (d b : BitVec 5) (o : BitVec 12) : Statement (.ldp d b o) :=
  of_parse32 _ _ rfl (by simp (disch := decide) only [fld, pack32, BitVec.cast_eq, BitVec.extractLsb'_append_eq_of_le, BitVec.extractLsb'_append_eq_of_add_le]; simp)
    (by simp (disch := decide) only [fld, pack32, BitVec.cast_eq, BitVec.extractLsb'_append_eq_of_le, BitVec.extractLsb'_append_eq_of_add_le]; simp)
    ((parse_0b _ (by simp (disch := decide) only [fld, pack32, BitVec.cast_eq, BitVec.extractLsb'_append_eq_of_le, BitVec.extractLsb'_append_eq_of_add_le]; simp)).trans
      (by simp (disch := decide) only [parseMO0B, fld, pack32, BitVec.cast_eq, BitVec.extractLsb'_append_eq_of_le, BitVec.extractLsb'_append_eq_of_add_le]; simp))

theorem stp (d b : BitVec 5) (o : BitVec 12) : Statement (.stp d b o) :=
  of_parse32 _ _ rfl (by simp (disch := decide) only [fld, pack32, BitVec.cast_eq, BitVec.extractLsb'_append_eq_of_le, BitVec.extractLsb'_append_eq_of_add_le]; simp)
    (by simp (disch := decide) only [fld, pack32, BitVec.cast_eq, BitVec.extractLsb'_append_eq_of_le, BitVec.extractLsb'_append_eq_of_add_le]; simp)
    ((parse_0b _ (by simp (disch := decide) only [fld, pack32, BitVec.cast_eq, BitVec.extractLsb'_append_eq_of_le, BitVec.extractLsb'_append_eq_of_add_le]; simp)).trans
      (by simp (disch := decide) only [parseMO0B, fld, pack32, BitVec.cast_eq, BitVec.extractLsb'_append_eq_of_le, BitVec.extractLsb'_append_eq_of_add_le]; simp))

theorem parse_0c (w : BitVec 32) (h : fld w 25 6 = 0x0c#6) : parse32 w = parseMO0C w := by simp only [parse32, h]

theorem beq (a b : BitVec 5) (o : BitVec 12) : Statement (.beq a b o) :=
  of_parse32 _ _ rfl (by simp (disch := decide) only [fld, pack32, BitVec.cast_eq, BitVec.extractLsb'_append_eq_of_le, BitVec.extractLsb'_append_eq_of_add_le]; simp)
    (by simp (disch := decide) only [fld, pack32, BitVec.cast_eq, BitVec.extractLsb'_append_eq_of_le, BitVec.extractLsb'_append_eq_of_add_le]; simp)
    ((parse_0c _ (by simp (disch := decide) only [fld, pack32, BitVec.cast_eq, BitVec.extractLsb'_append_eq_of_le, BitVec.extractLsb'_append_eq_of_add_le]; simp)).trans
      (by simp (disch := decide) only [parseMO0C, fld, pack32, BitVec.cast_eq, BitVec.extractLsb'_append_eq_of_le, BitVec.extractLsb'_append_eq_of_add_le]; simp))

theorem bne (a b : BitVec 5) (o : BitVec 12) : Statement (.bne a b o) :=
  of_parse32 _ _ rfl (by simp (disch := decide) only [fld, pack32, BitVec.cast_eq, BitVec.extractLsb'_append_eq_of_le, BitVec.extractLsb'_append_eq_of_add_le]; simp)
    (by simp (disch := decide) only [fld, pack32, BitVec.cast_eq, BitVec.extractLsb'_append_eq_of_le, BitVec.extractLsb'_append_eq_of_add_le]; simp)
    ((parse_0c _ (by simp (disch := decide) only [fld, pack32, BitVec.cast_eq, BitVec.extractLsb'_append_eq_of_le, BitVec.extractLsb'_append_eq_of_add_le]; simp)).trans
      (by simp (disch := decide) only [parseMO0C, fld, pack32, BitVec.cast_eq, BitVec.extractLsb'_append_eq_of_le, BitVec.extractLsb'_append_eq_of_add_le]; simp))

theorem blt (a b : BitVec 5) (o : BitVec 12) : Statement (.blt a b o) :=
  of_parse32 _ _ rfl (by simp (disch := decide) only [fld, pack32, BitVec.cast_eq, BitVec.extractLsb'_append_eq_of_le, BitVec.extractLsb'_append_eq_of_add_le]; simp)
    (by simp (disch := decide) only [fld, pack32, BitVec.cast_eq, BitVec.extractLsb'_append_eq_of_le, BitVec.extractLsb'_append_eq_of_add_le]; simp)
    ((parse_0c _ (by simp (disch := decide) only [fld, pack32, BitVec.cast_eq, BitVec.extractLsb'_append_eq_of_le, BitVec.extractLsb'_append_eq_of_add_le]; simp)).trans
      (by simp (disch := decide) only [parseMO0C, fld, pack32, BitVec.cast_eq, BitVec.extractLsb'_append_eq_of_le, BitVec.extractLsb'_append_eq_of_add_le]; simp))

theorem bge (a b : BitVec 5) (o : BitVec 12) : Statement (.bge a b o) :=
  of_parse32 _ _ rfl (by simp (disch := decide) only [fld, pack32, BitVec.cast_eq, BitVec.extractLsb'_append_eq_of_le, BitVec.extractLsb'_append_eq_of_add_le]; simp)
    (by simp (disch := decide) only [fld, pack32, BitVec.cast_eq, BitVec.extractLsb'_append_eq_of_le, BitVec.extractLsb'_append_eq_of_add_le]; simp)
    ((parse_0c _ (by simp (disch := decide) only [fld, pack32, BitVec.cast_eq, BitVec.extractLsb'_append_eq_of_le, BitVec.extractLsb'_append_eq_of_add_le]; simp)).trans
      (by simp (disch := decide) only [parseMO0C, fld, pack32, BitVec.cast_eq, BitVec.extractLsb'_append_eq_of_le, BitVec.extractLsb'_append_eq_of_add_le]; simp))

theorem bltu (a b : BitVec 5) (o : BitVec 12) : Statement (.bltu a b o) :=
  of_parse32 _ _ rfl (by simp (disch := decide) only [fld, pack32, BitVec.cast_eq, BitVec.extractLsb'_append_eq_of_le, BitVec.extractLsb'_append_eq_of_add_le]; simp)
    (by simp (disch := decide) only [fld, pack32, BitVec.cast_eq, BitVec.extractLsb'_append_eq_of_le, BitVec.extractLsb'_append_eq_of_add_le]; simp)
    ((parse_0c _ (by simp (disch := decide) only [fld, pack32, BitVec.cast_eq, BitVec.extractLsb'_append_eq_of_le, BitVec.extractLsb'_append_eq_of_add_le]; simp)).trans
      (by simp (disch := decide) only [parseMO0C, fld, pack32, BitVec.cast_eq, BitVec.extractLsb'_append_eq_of_le, BitVec.extractLsb'_append_eq_of_add_le]; simp))

theorem bgeu (a b : BitVec 5) (o : BitVec 12) : Statement (.bgeu a b o) :=
  of_parse32 _ _ rfl (by simp (disch := decide) only [fld, pack32, BitVec.cast_eq, BitVec.extractLsb'_append_eq_of_le, BitVec.extractLsb'_append_eq_of_add_le]; simp)
    (by simp (disch := decide) only [fld, pack32, BitVec.cast_eq, BitVec.extractLsb'_append_eq_of_le, BitVec.extractLsb'_append_eq_of_add_le]; simp)
    ((parse_0c _ (by simp (disch := decide) only [fld, pack32, BitVec.cast_eq, BitVec.extractLsb'_append_eq_of_le, BitVec.extractLsb'_append_eq_of_add_le]; simp)).trans
      (by simp (disch := decide) only [parseMO0C, fld, pack32, BitVec.cast_eq, BitVec.extractLsb'_append_eq_of_le, BitVec.extractLsb'_append_eq_of_add_le]; simp))

theorem parse_0d (w : BitVec 32) (h : fld w 25 6 = 0x0d#6) : parse32 w = parseMO0D w := by simp only [parse32, h]

theorem j (o : BitVec 24) : Statement (.j o) :=
  of_parse32 _ _ rfl (by simp (disch := decide) only [fld, pack32, BitVec.cast_eq, BitVec.extractLsb'_append_eq_of_le, BitVec.extractLsb'_append_eq_of_add_le]; simp)
    (by simp (disch := decide) only [fld, pack32, BitVec.cast_eq, BitVec.extractLsb'_append_eq_of_le, BitVec.extractLsb'_append_eq_of_add_le]; simp)
    ((parse_0d _ (by simp (disch := decide) only [fld, pack32, BitVec.cast_eq, BitVec.extractLsb'_append_eq_of_le, BitVec.extractLsb'_append_eq_of_add_le]; simp)).trans
      (by simp (disch := decide) only [parseMO0D, fld, pack32, BitVec.cast_eq, BitVec.extractLsb'_append_eq_of_le, BitVec.extractLsb'_append_eq_of_add_le]; simp))

theorem jal (o : BitVec 24) : Statement (.jal o) :=
  of_parse32 _ _ rfl (by simp (disch := decide) only [fld, pack32, BitVec.cast_eq, BitVec.extractLsb'_append_eq_of_le, BitVec.extractLsb'_append_eq_of_add_le]; simp)
    (by simp (disch := decide) only [fld, pack32, BitVec.cast_eq, BitVec.extractLsb'_append_eq_of_le, BitVec.extractLsb'_append_eq_of_add_le]; simp)
    ((parse_0d _ (by simp (disch := decide) only [fld, pack32, BitVec.cast_eq, BitVec.extractLsb'_append_eq_of_le, BitVec.extractLsb'_append_eq_of_add_le]; simp)).trans
      (by simp (disch := decide) only [parseMO0D, fld, pack32, BitVec.cast_eq, BitVec.extractLsb'_append_eq_of_le, BitVec.extractLsb'_append_eq_of_add_le]; simp))

theorem parse_0e (w : BitVec 32) (h : fld w 25 6 = 0x0e#6) : parse32 w = parseMO0E w := by simp only [parse32, h]

theorem jr (a : BitVec 5) (i : BitVec 15) : Statement (.jr a i) :=
  of_parse32 _ _ rfl (by simp (disch := decide) only [fld, pack32, BitVec.cast_eq, BitVec.extractLsb'_append_eq_of_le, BitVec.extractLsb'_append_eq_of_add_le]; simp)
    (by simp (disch := decide) only [fld, pack32, BitVec.cast_eq, BitVec.extractLsb'_append_eq_of_le, BitVec.extractLsb'_append_eq_of_add_le]; simp)
    ((parse_0e _ (by simp (disch := decide) only [fld, pack32, BitVec.cast_eq, BitVec.extractLsb'_append_eq_of_le, BitVec.extractLsb'_append_eq_of_add_le]; simp)).trans
      (by simp (disch := decide) only [parseMO0E, fld, pack32, BitVec.cast_eq, BitVec.extractLsb'_append_eq_of_le, BitVec.extractLsb'_append_eq_of_add_le]; simp))

theorem jalr (a : BitVec 5) (i : BitVec 15) : Statement (.jalr a i) :=
  of_parse32 _ _ rfl (by simp (disch := decide) only [fld, pack32, BitVec.cast_eq, BitVec.extractLsb'_append_eq_of_le, BitVec.extractLsb'_append_eq_of_add_le]; simp)
    (by simp (disch := decide) only [fld, pack32, BitVec.cast_eq, BitVec.extractLsb'_append_eq_of_le, BitVec.extractLsb'_append_eq_of_add_le]; simp)
    ((parse_0e _ (by simp (disch := decide) only [fld, pack32, BitVec.cast_eq, BitVec.extractLsb'_append_eq_of_le, BitVec.extractLsb'_append_eq_of_add_le]; simp)).trans
      (by simp (disch := decide) only [parseMO0E, fld, pack32, BitVec.cast_eq, BitVec.extractLsb'_append_eq_of_le, BitVec.extractLsb'_append_eq_of_add_le]; simp))

theorem parse_0f (w : BitVec 32) (h : fld w 25 6 = 0x0f#6) : parse32 w = parseMO0F w := by simp only [parse32, h]

theorem loop (a : BitVec 5) (l : BitVec 12) : Statement (.loop a l) :=
  of_parse32 _ _ rfl (by simp (disch := decide) only [fld, pack32, BitVec.cast_eq, BitVec.extractLsb'_append_eq_of_le, BitVec.extractLsb'_append_eq_of_add_le]; simp)
    (by simp (disch := decide) only [fld, pack32, BitVec.cast_eq, BitVec.extractLsb'_append_eq_of_le, BitVec.extractLsb'_append_eq_of_add_le]; simp)
    ((parse_0f _ (by simp (disch := decide) only [fld, pack32, BitVec.cast_eq, BitVec.extractLsb'_append_eq_of_le, BitVec.extractLsb'_append_eq_of_add_le]; simp)).trans
      (by simp (disch := decide) only [parseMO0F, fld, pack32, BitVec.cast_eq, BitVec.extractLsb'_append_eq_of_le, BitVec.extractLsb'_append_eq_of_add_le]; simp))

theorem loopi (c l : BitVec 12) : Statement (.loopi c l) :=
  of_parse32 _ _ rfl (by simp (disch := decide) only [fld, pack32, BitVec.cast_eq, BitVec.extractLsb'_append_eq_of_le, BitVec.extractLsb'_append_eq_of_add_le]; simp)
    (by simp (disch := decide) only [fld, pack32, BitVec.cast_eq, BitVec.extractLsb'_append_eq_of_le, BitVec.extractLsb'_append_eq_of_add_le]; simp)
    ((parse_0f _ (by simp (disch := decide) only [fld, pack32, BitVec.cast_eq, BitVec.extractLsb'_append_eq_of_le, BitVec.extractLsb'_append_eq_of_add_le]; simp)).trans
      (by simp (disch := decide) only [parseMO0F, fld, pack32, BitVec.cast_eq, BitVec.extractLsb'_append_eq_of_le, BitVec.extractLsb'_append_eq_of_add_le]; simp))

theorem parse_10 (w : BitVec 32) (h : fld w 25 6 = 0x10#6) : parse32 w = parseMO10 w := by simp only [parse32, h]

theorem trap (i : BitVec 10) : Statement (.trap i) :=
  of_parse32 _ _ rfl (by simp (disch := decide) only [fld, pack32, BitVec.cast_eq, BitVec.extractLsb'_append_eq_of_le, BitVec.extractLsb'_append_eq_of_add_le]; simp)
    (by simp (disch := decide) only [fld, pack32, BitVec.cast_eq, BitVec.extractLsb'_append_eq_of_le, BitVec.extractLsb'_append_eq_of_add_le]; simp)
    ((parse_10 _ (by simp (disch := decide) only [fld, pack32, BitVec.cast_eq, BitVec.extractLsb'_append_eq_of_le, BitVec.extractLsb'_append_eq_of_add_le]; simp)).trans
      (by simp (disch := decide) only [parseMO10, fld, pack32, BitVec.cast_eq, BitVec.extractLsb'_append_eq_of_le, BitVec.extractLsb'_append_eq_of_add_le]; simp))

theorem parse_11 (w : BitVec 32) (h : fld w 25 6 = 0x11#6) : parse32 w = parseMO11 w := by simp only [parse32, h]

theorem crd (d : BitVec 5) (c : BitVec 10) : Statement (.crd d c) :=
  of_parse32 _ _ rfl (by simp (disch := decide) only [fld, pack32, BitVec.cast_eq, BitVec.extractLsb'_append_eq_of_le, BitVec.extractLsb'_append_eq_of_add_le]; simp)
    (by simp (disch := decide) only [fld, pack32, BitVec.cast_eq, BitVec.extractLsb'_append_eq_of_le, BitVec.extractLsb'_append_eq_of_add_le]; simp)
    ((parse_11 _ (by simp (disch := decide) only [fld, pack32, BitVec.cast_eq, BitVec.extractLsb'_append_eq_of_le, BitVec.extractLsb'_append_eq_of_add_le]; simp)).trans
      (by simp (disch := decide) only [parseMO11, fld, pack32, BitVec.cast_eq, BitVec.extractLsb'_append_eq_of_le, BitVec.extractLsb'_append_eq_of_add_le]; simp))

theorem cwr (a : BitVec 5) (c : BitVec 10) : Statement (.cwr a c) :=
  of_parse32 _ _ rfl (by simp (disch := decide) only [fld, pack32, BitVec.cast_eq, BitVec.extractLsb'_append_eq_of_le, BitVec.extractLsb'_append_eq_of_add_le]; simp)
    (by simp (disch := decide) only [fld, pack32, BitVec.cast_eq, BitVec.extractLsb'_append_eq_of_le, BitVec.extractLsb'_append_eq_of_add_le]; simp)
    ((parse_11 _ (by simp (disch := decide) only [fld, pack32, BitVec.cast_eq, BitVec.extractLsb'_append_eq_of_le, BitVec.extractLsb'_append_eq_of_add_le]; simp)).trans
      (by simp (disch := decide) only [parseMO11, fld, pack32, BitVec.cast_eq, BitVec.extractLsb'_append_eq_of_le, BitVec.extractLsb'_append_eq_of_add_le]; simp))

theorem cins (a b : BitVec 5) (c : BitVec 10) : Statement (.cins a b c) :=
  of_parse32 _ _ rfl (by simp (disch := decide) only [fld, pack32, BitVec.cast_eq, BitVec.extractLsb'_append_eq_of_le, BitVec.extractLsb'_append_eq_of_add_le]; simp)
    (by simp (disch := decide) only [fld, pack32, BitVec.cast_eq, BitVec.extractLsb'_append_eq_of_le, BitVec.extractLsb'_append_eq_of_add_le]; simp)
    ((parse_11 _ (by simp (disch := decide) only [fld, pack32, BitVec.cast_eq, BitVec.extractLsb'_append_eq_of_le, BitVec.extractLsb'_append_eq_of_add_le]; simp)).trans
      (by simp (disch := decide) only [parseMO11, fld, pack32, BitVec.cast_eq, BitVec.extractLsb'_append_eq_of_le, BitVec.extractLsb'_append_eq_of_add_le]; simp))

theorem cxch (a d : BitVec 5) (c : BitVec 10) : Statement (.cxch a d c) :=
  of_parse32 _ _ rfl (by simp (disch := decide) only [fld, pack32, BitVec.cast_eq, BitVec.extractLsb'_append_eq_of_le, BitVec.extractLsb'_append_eq_of_add_le]; simp)
    (by simp (disch := decide) only [fld, pack32, BitVec.cast_eq, BitVec.extractLsb'_append_eq_of_le, BitVec.extractLsb'_append_eq_of_add_le]; simp)
    ((parse_11 _ (by simp (disch := decide) only [fld, pack32, BitVec.cast_eq, BitVec.extractLsb'_append_eq_of_le, BitVec.extractLsb'_append_eq_of_add_le]; simp)).trans
      (by simp (disch := decide) only [parseMO11, fld, pack32, BitVec.cast_eq, BitVec.extractLsb'_append_eq_of_le, BitVec.extractLsb'_append_eq_of_add_le]; simp))

theorem crdz (d : BitVec 5) (c : BitVec 10) : Statement (.crdz d c) :=
  of_parse32 _ _ rfl (by simp (disch := decide) only [fld, pack32, BitVec.cast_eq, BitVec.extractLsb'_append_eq_of_le, BitVec.extractLsb'_append_eq_of_add_le]; simp)
    (by simp (disch := decide) only [fld, pack32, BitVec.cast_eq, BitVec.extractLsb'_append_eq_of_le, BitVec.extractLsb'_append_eq_of_add_le]; simp)
    ((parse_11 _ (by simp (disch := decide) only [fld, pack32, BitVec.cast_eq, BitVec.extractLsb'_append_eq_of_le, BitVec.extractLsb'_append_eq_of_add_le]; simp)).trans
      (by simp (disch := decide) only [parseMO11, fld, pack32, BitVec.cast_eq, BitVec.extractLsb'_append_eq_of_le, BitVec.extractLsb'_append_eq_of_add_le]; simp))

theorem parse_12 (w : BitVec 32) (h : fld w 25 6 = 0x12#6) : parse32 w = parseMO12 w := by simp only [parse32, h]

theorem gld (l : BitVec 1) (s : BitVec 2) (a b : BitVec 5) (p : BitVec 1) (c : BitVec 8) (x : BitVec 1) : Statement (.gld l s a b p c x) :=
  of_parse32 _ _ rfl (by simp (disch := decide) only [fld, pack32, BitVec.cast_eq, BitVec.extractLsb'_append_eq_of_le, BitVec.extractLsb'_append_eq_of_add_le]; simp)
    (by simp (disch := decide) only [fld, pack32, BitVec.cast_eq, BitVec.extractLsb'_append_eq_of_le, BitVec.extractLsb'_append_eq_of_add_le]; simp)
    ((parse_12 _ (by simp (disch := decide) only [fld, pack32, BitVec.cast_eq, BitVec.extractLsb'_append_eq_of_le, BitVec.extractLsb'_append_eq_of_add_le]; simp)).trans
      (by simp (disch := decide) only [parseMO12, fld, pack32, BitVec.cast_eq, BitVec.extractLsb'_append_eq_of_le, BitVec.extractLsb'_append_eq_of_add_le]; simp))

theorem parse_13 (w : BitVec 32) (h : fld w 25 6 = 0x13#6) : parse32 w = parseMO13 w := by simp only [parse32, h]

theorem gst (l : BitVec 1) (s : BitVec 2) (a b : BitVec 5) (p : BitVec 1) : Statement (.gst l s a b p) :=
  of_parse32 _ _ rfl (by simp (disch := decide) only [fld, pack32, BitVec.cast_eq, BitVec.extractLsb'_append_eq_of_le, BitVec.extractLsb'_append_eq_of_add_le]; simp)
    (by simp (disch := decide) only [fld, pack32, BitVec.cast_eq, BitVec.extractLsb'_append_eq_of_le, BitVec.extractLsb'_append_eq_of_add_le]; simp)
    ((parse_13 _ (by simp (disch := decide) only [fld, pack32, BitVec.cast_eq, BitVec.extractLsb'_append_eq_of_le, BitVec.extractLsb'_append_eq_of_add_le]; simp)).trans
      (by simp (disch := decide) only [parseMO13, fld, pack32, BitVec.cast_eq, BitVec.extractLsb'_append_eq_of_le, BitVec.extractLsb'_append_eq_of_add_le]; simp))

theorem parse_14 (w : BitVec 32) (h : fld w 25 6 = 0x14#6) : parse32 w = parseMO14 w := by simp only [parse32, h]

theorem put (l p : BitVec 1) (a b c : BitVec 5) : Statement (.put l p a b c) :=
  of_parse32 _ _ rfl (by simp (disch := decide) only [fld, pack32, BitVec.cast_eq, BitVec.extractLsb'_append_eq_of_le, BitVec.extractLsb'_append_eq_of_add_le]; simp)
    (by simp (disch := decide) only [fld, pack32, BitVec.cast_eq, BitVec.extractLsb'_append_eq_of_le, BitVec.extractLsb'_append_eq_of_add_le]; simp)
    ((parse_14 _ (by simp (disch := decide) only [fld, pack32, BitVec.cast_eq, BitVec.extractLsb'_append_eq_of_le, BitVec.extractLsb'_append_eq_of_add_le]; simp)).trans
      (by simp (disch := decide) only [parseMO14, fld, pack32, BitVec.cast_eq, BitVec.extractLsb'_append_eq_of_le, BitVec.extractLsb'_append_eq_of_add_le]; simp))

theorem putr (l p : BitVec 1) (a b c : BitVec 5) : Statement (.putr l p a b c) :=
  of_parse32 _ _ rfl (by simp (disch := decide) only [fld, pack32, BitVec.cast_eq, BitVec.extractLsb'_append_eq_of_le, BitVec.extractLsb'_append_eq_of_add_le]; simp)
    (by simp (disch := decide) only [fld, pack32, BitVec.cast_eq, BitVec.extractLsb'_append_eq_of_le, BitVec.extractLsb'_append_eq_of_add_le]; simp)
    ((parse_14 _ (by simp (disch := decide) only [fld, pack32, BitVec.cast_eq, BitVec.extractLsb'_append_eq_of_le, BitVec.extractLsb'_append_eq_of_add_le]; simp)).trans
      (by simp (disch := decide) only [parseMO14, fld, pack32, BitVec.cast_eq, BitVec.extractLsb'_append_eq_of_le, BitVec.extractLsb'_append_eq_of_add_le]; simp))

theorem get (l p : BitVec 1) (a b c : BitVec 5) : Statement (.get l p a b c) :=
  of_parse32 _ _ rfl (by simp (disch := decide) only [fld, pack32, BitVec.cast_eq, BitVec.extractLsb'_append_eq_of_le, BitVec.extractLsb'_append_eq_of_add_le]; simp)
    (by simp (disch := decide) only [fld, pack32, BitVec.cast_eq, BitVec.extractLsb'_append_eq_of_le, BitVec.extractLsb'_append_eq_of_add_le]; simp)
    ((parse_14 _ (by simp (disch := decide) only [fld, pack32, BitVec.cast_eq, BitVec.extractLsb'_append_eq_of_le, BitVec.extractLsb'_append_eq_of_add_le]; simp)).trans
      (by simp (disch := decide) only [parseMO14, fld, pack32, BitVec.cast_eq, BitVec.extractLsb'_append_eq_of_le, BitVec.extractLsb'_append_eq_of_add_le]; simp))

theorem parse_15 (w : BitVec 32) (h : fld w 25 6 = 0x15#6) : parse32 w = parseMO15 w := by simp only [parse32, h]

theorem aadd (r l p : BitVec 1) (a b : BitVec 5) (c : BitVec 8) : Statement (.aadd r l p a b c) :=
  of_parse32 _ _ rfl (by simp (disch := decide) only [fld, pack32, BitVec.cast_eq, BitVec.extractLsb'_append_eq_of_le, BitVec.extractLsb'_append_eq_of_add_le]; simp)
    (by simp (disch := decide) only [fld, pack32, BitVec.cast_eq, BitVec.extractLsb'_append_eq_of_le, BitVec.extractLsb'_append_eq_of_add_le]; simp)
    ((parse_15 _ (by simp (disch := decide) only [fld, pack32, BitVec.cast_eq, BitVec.extractLsb'_append_eq_of_le, BitVec.extractLsb'_append_eq_of_add_le]; simp)).trans
      (by simp (disch := decide) only [parseMO15, fld, pack32, BitVec.cast_eq, BitVec.extractLsb'_append_eq_of_le, BitVec.extractLsb'_append_eq_of_add_le]; simp))

theorem aand (r l p : BitVec 1) (a b : BitVec 5) (c : BitVec 8) : Statement (.aand r l p a b c) :=
  of_parse32 _ _ rfl (by simp (disch := decide) only [fld, pack32, BitVec.cast_eq, BitVec.extractLsb'_append_eq_of_le, BitVec.extractLsb'_append_eq_of_add_le]; simp)
    (by simp (disch := decide) only [fld, pack32, BitVec.cast_eq, BitVec.extractLsb'_append_eq_of_le, BitVec.extractLsb'_append_eq_of_add_le]; simp)
    ((parse_15 _ (by simp (disch := decide) only [fld, pack32, BitVec.cast_eq, BitVec.extractLsb'_append_eq_of_le, BitVec.extractLsb'_append_eq_of_add_le]; simp)).trans
      (by simp (disch := decide) only [parseMO15, fld, pack32, BitVec.cast_eq, BitVec.extractLsb'_append_eq_of_le, BitVec.extractLsb'_append_eq_of_add_le]; simp))

theorem aor (r l p : BitVec 1) (a b : BitVec 5) (c : BitVec 8) : Statement (.aor r l p a b c) :=
  of_parse32 _ _ rfl (by simp (disch := decide) only [fld, pack32, BitVec.cast_eq, BitVec.extractLsb'_append_eq_of_le, BitVec.extractLsb'_append_eq_of_add_le]; simp)
    (by simp (disch := decide) only [fld, pack32, BitVec.cast_eq, BitVec.extractLsb'_append_eq_of_le, BitVec.extractLsb'_append_eq_of_add_le]; simp)
    ((parse_15 _ (by simp (disch := decide) only [fld, pack32, BitVec.cast_eq, BitVec.extractLsb'_append_eq_of_le, BitVec.extractLsb'_append_eq_of_add_le]; simp)).trans
      (by simp (disch := decide) only [parseMO15, fld, pack32, BitVec.cast_eq, BitVec.extractLsb'_append_eq_of_le, BitVec.extractLsb'_append_eq_of_add_le]; simp))

theorem axor (r l p : BitVec 1) (a b : BitVec 5) (c : BitVec 8) : Statement (.axor r l p a b c) :=
  of_parse32 _ _ rfl (by simp (disch := decide) only [fld, pack32, BitVec.cast_eq, BitVec.extractLsb'_append_eq_of_le, BitVec.extractLsb'_append_eq_of_add_le]; simp)
    (by simp (disch := decide) only [fld, pack32, BitVec.cast_eq, BitVec.extractLsb'_append_eq_of_le, BitVec.extractLsb'_append_eq_of_add_le]; simp)
    ((parse_15 _ (by simp (disch := decide) only [fld, pack32, BitVec.cast_eq, BitVec.extractLsb'_append_eq_of_le, BitVec.extractLsb'_append_eq_of_add_le]; simp)).trans
      (by simp (disch := decide) only [parseMO15, fld, pack32, BitVec.cast_eq, BitVec.extractLsb'_append_eq_of_le, BitVec.extractLsb'_append_eq_of_add_le]; simp))

theorem amin (r l p : BitVec 1) (a b : BitVec 5) (c : BitVec 8) : Statement (.amin r l p a b c) :=
  of_parse32 _ _ rfl (by simp (disch := decide) only [fld, pack32, BitVec.cast_eq, BitVec.extractLsb'_append_eq_of_le, BitVec.extractLsb'_append_eq_of_add_le]; simp)
    (by simp (disch := decide) only [fld, pack32, BitVec.cast_eq, BitVec.extractLsb'_append_eq_of_le, BitVec.extractLsb'_append_eq_of_add_le]; simp)
    ((parse_15 _ (by simp (disch := decide) only [fld, pack32, BitVec.cast_eq, BitVec.extractLsb'_append_eq_of_le, BitVec.extractLsb'_append_eq_of_add_le]; simp)).trans
      (by simp (disch := decide) only [parseMO15, fld, pack32, BitVec.cast_eq, BitVec.extractLsb'_append_eq_of_le, BitVec.extractLsb'_append_eq_of_add_le]; simp))

theorem amax (r l p : BitVec 1) (a b : BitVec 5) (c : BitVec 8) : Statement (.amax r l p a b c) :=
  of_parse32 _ _ rfl (by simp (disch := decide) only [fld, pack32, BitVec.cast_eq, BitVec.extractLsb'_append_eq_of_le, BitVec.extractLsb'_append_eq_of_add_le]; simp)
    (by simp (disch := decide) only [fld, pack32, BitVec.cast_eq, BitVec.extractLsb'_append_eq_of_le, BitVec.extractLsb'_append_eq_of_add_le]; simp)
    ((parse_15 _ (by simp (disch := decide) only [fld, pack32, BitVec.cast_eq, BitVec.extractLsb'_append_eq_of_le, BitVec.extractLsb'_append_eq_of_add_le]; simp)).trans
      (by simp (disch := decide) only [parseMO15, fld, pack32, BitVec.cast_eq, BitVec.extractLsb'_append_eq_of_le, BitVec.extractLsb'_append_eq_of_add_le]; simp))

theorem aminu (r l p : BitVec 1) (a b : BitVec 5) (c : BitVec 8) : Statement (.aminu r l p a b c) :=
  of_parse32 _ _ rfl (by simp (disch := decide) only [fld, pack32, BitVec.cast_eq, BitVec.extractLsb'_append_eq_of_le, BitVec.extractLsb'_append_eq_of_add_le]; simp)
    (by simp (disch := decide) only [fld, pack32, BitVec.cast_eq, BitVec.extractLsb'_append_eq_of_le, BitVec.extractLsb'_append_eq_of_add_le]; simp)
    ((parse_15 _ (by simp (disch := decide) only [fld, pack32, BitVec.cast_eq, BitVec.extractLsb'_append_eq_of_le, BitVec.extractLsb'_append_eq_of_add_le]; simp)).trans
      (by simp (disch := decide) only [parseMO15, fld, pack32, BitVec.cast_eq, BitVec.extractLsb'_append_eq_of_le, BitVec.extractLsb'_append_eq_of_add_le]; simp))

theorem amaxu (r l p : BitVec 1) (a b : BitVec 5) (c : BitVec 8) : Statement (.amaxu r l p a b c) :=
  of_parse32 _ _ rfl (by simp (disch := decide) only [fld, pack32, BitVec.cast_eq, BitVec.extractLsb'_append_eq_of_le, BitVec.extractLsb'_append_eq_of_add_le]; simp)
    (by simp (disch := decide) only [fld, pack32, BitVec.cast_eq, BitVec.extractLsb'_append_eq_of_le, BitVec.extractLsb'_append_eq_of_add_le]; simp)
    ((parse_15 _ (by simp (disch := decide) only [fld, pack32, BitVec.cast_eq, BitVec.extractLsb'_append_eq_of_le, BitVec.extractLsb'_append_eq_of_add_le]; simp)).trans
      (by simp (disch := decide) only [parseMO15, fld, pack32, BitVec.cast_eq, BitVec.extractLsb'_append_eq_of_le, BitVec.extractLsb'_append_eq_of_add_le]; simp))

theorem aswap (r l p : BitVec 1) (a b : BitVec 5) (c : BitVec 8) : Statement (.aswap r l p a b c) :=
  of_parse32 _ _ rfl (by simp (disch := decide) only [fld, pack32, BitVec.cast_eq, BitVec.extractLsb'_append_eq_of_le, BitVec.extractLsb'_append_eq_of_add_le]; simp)
    (by simp (disch := decide) only [fld, pack32, BitVec.cast_eq, BitVec.extractLsb'_append_eq_of_le, BitVec.extractLsb'_append_eq_of_add_le]; simp)
    ((parse_15 _ (by simp (disch := decide) only [fld, pack32, BitVec.cast_eq, BitVec.extractLsb'_append_eq_of_le, BitVec.extractLsb'_append_eq_of_add_le]; simp)).trans
      (by simp (disch := decide) only [parseMO15, fld, pack32, BitVec.cast_eq, BitVec.extractLsb'_append_eq_of_le, BitVec.extractLsb'_append_eq_of_add_le]; simp))

theorem acas (r l p : BitVec 1) (a b : BitVec 5) (c : BitVec 8) : Statement (.acas r l p a b c) :=
  of_parse32 _ _ rfl (by simp (disch := decide) only [fld, pack32, BitVec.cast_eq, BitVec.extractLsb'_append_eq_of_le, BitVec.extractLsb'_append_eq_of_add_le]; simp)
    (by simp (disch := decide) only [fld, pack32, BitVec.cast_eq, BitVec.extractLsb'_append_eq_of_le, BitVec.extractLsb'_append_eq_of_add_le]; simp)
    ((parse_15 _ (by simp (disch := decide) only [fld, pack32, BitVec.cast_eq, BitVec.extractLsb'_append_eq_of_le, BitVec.extractLsb'_append_eq_of_add_le]; simp)).trans
      (by simp (disch := decide) only [parseMO15, fld, pack32, BitVec.cast_eq, BitVec.extractLsb'_append_eq_of_le, BitVec.extractLsb'_append_eq_of_add_le]; simp))

theorem afadd (r l p : BitVec 1) (a b : BitVec 5) (c : BitVec 8) : Statement (.afadd r l p a b c) :=
  of_parse32 _ _ rfl (by simp (disch := decide) only [fld, pack32, BitVec.cast_eq, BitVec.extractLsb'_append_eq_of_le, BitVec.extractLsb'_append_eq_of_add_le]; simp)
    (by simp (disch := decide) only [fld, pack32, BitVec.cast_eq, BitVec.extractLsb'_append_eq_of_le, BitVec.extractLsb'_append_eq_of_add_le]; simp)
    ((parse_15 _ (by simp (disch := decide) only [fld, pack32, BitVec.cast_eq, BitVec.extractLsb'_append_eq_of_le, BitVec.extractLsb'_append_eq_of_add_le]; simp)).trans
      (by simp (disch := decide) only [parseMO15, fld, pack32, BitVec.cast_eq, BitVec.extractLsb'_append_eq_of_le, BitVec.extractLsb'_append_eq_of_add_le]; simp))

theorem parse_16 (w : BitVec 32) (h : fld w 25 6 = 0x16#6) : parse32 w = parseMO16 w := by simp only [parse32, h]

theorem send (l : BitVec 1) (a v : BitVec 5) (n : BitVec 4) (c : BitVec 8) : Statement (.send l a v n c) :=
  of_parse32 _ _ rfl (by simp (disch := decide) only [fld, pack32, BitVec.cast_eq, BitVec.extractLsb'_append_eq_of_le, BitVec.extractLsb'_append_eq_of_add_le]; simp)
    (by simp (disch := decide) only [fld, pack32, BitVec.cast_eq, BitVec.extractLsb'_append_eq_of_le, BitVec.extractLsb'_append_eq_of_add_le]; simp)
    ((parse_16 _ (by simp (disch := decide) only [fld, pack32, BitVec.cast_eq, BitVec.extractLsb'_append_eq_of_le, BitVec.extractLsb'_append_eq_of_add_le]; simp)).trans
      (by simp (disch := decide) only [parseMO16, fld, pack32, BitVec.cast_eq, BitVec.extractLsb'_append_eq_of_le, BitVec.extractLsb'_append_eq_of_add_le]; simp))

theorem sendp (l : BitVec 1) (a v : BitVec 5) (n : BitVec 4) (c : BitVec 8) : Statement (.sendp l a v n c) :=
  of_parse32 _ _ rfl (by simp (disch := decide) only [fld, pack32, BitVec.cast_eq, BitVec.extractLsb'_append_eq_of_le, BitVec.extractLsb'_append_eq_of_add_le]; simp)
    (by simp (disch := decide) only [fld, pack32, BitVec.cast_eq, BitVec.extractLsb'_append_eq_of_le, BitVec.extractLsb'_append_eq_of_add_le]; simp)
    ((parse_16 _ (by simp (disch := decide) only [fld, pack32, BitVec.cast_eq, BitVec.extractLsb'_append_eq_of_le, BitVec.extractLsb'_append_eq_of_add_le]; simp)).trans
      (by simp (disch := decide) only [parseMO16, fld, pack32, BitVec.cast_eq, BitVec.extractLsb'_append_eq_of_le, BitVec.extractLsb'_append_eq_of_add_le]; simp))

theorem sendm (l : BitVec 1) (a v : BitVec 5) (n : BitVec 4) (c : BitVec 8) : Statement (.sendm l a v n c) :=
  of_parse32 _ _ rfl (by simp (disch := decide) only [fld, pack32, BitVec.cast_eq, BitVec.extractLsb'_append_eq_of_le, BitVec.extractLsb'_append_eq_of_add_le]; simp)
    (by simp (disch := decide) only [fld, pack32, BitVec.cast_eq, BitVec.extractLsb'_append_eq_of_le, BitVec.extractLsb'_append_eq_of_add_le]; simp)
    ((parse_16 _ (by simp (disch := decide) only [fld, pack32, BitVec.cast_eq, BitVec.extractLsb'_append_eq_of_le, BitVec.extractLsb'_append_eq_of_add_le]; simp)).trans
      (by simp (disch := decide) only [parseMO16, fld, pack32, BitVec.cast_eq, BitVec.extractLsb'_append_eq_of_le, BitVec.extractLsb'_append_eq_of_add_le]; simp))

theorem reply (l : BitVec 1) (a v : BitVec 5) (n : BitVec 4) (c : BitVec 8) : Statement (.reply l a v n c) :=
  of_parse32 _ _ rfl (by simp (disch := decide) only [fld, pack32, BitVec.cast_eq, BitVec.extractLsb'_append_eq_of_le, BitVec.extractLsb'_append_eq_of_add_le]; simp)
    (by simp (disch := decide) only [fld, pack32, BitVec.cast_eq, BitVec.extractLsb'_append_eq_of_le, BitVec.extractLsb'_append_eq_of_add_le]; simp)
    ((parse_16 _ (by simp (disch := decide) only [fld, pack32, BitVec.cast_eq, BitVec.extractLsb'_append_eq_of_le, BitVec.extractLsb'_append_eq_of_add_le]; simp)).trans
      (by simp (disch := decide) only [parseMO16, fld, pack32, BitVec.cast_eq, BitVec.extractLsb'_append_eq_of_le, BitVec.extractLsb'_append_eq_of_add_le]; simp))

theorem parse_17 (w : BitVec 32) (h : fld w 25 6 = 0x17#6) : parse32 w = parseMO17 w := by simp only [parse32, h]

theorem chmask (c : BitVec 8) : Statement (.chmask c) :=
  of_parse32 _ _ rfl (by simp (disch := decide) only [fld, pack32, BitVec.cast_eq, BitVec.extractLsb'_append_eq_of_le, BitVec.extractLsb'_append_eq_of_add_le]; simp)
    (by simp (disch := decide) only [fld, pack32, BitVec.cast_eq, BitVec.extractLsb'_append_eq_of_le, BitVec.extractLsb'_append_eq_of_add_le]; simp)
    ((parse_17 _ (by simp (disch := decide) only [fld, pack32, BitVec.cast_eq, BitVec.extractLsb'_append_eq_of_le, BitVec.extractLsb'_append_eq_of_add_le]; simp)).trans
      (by simp (disch := decide) only [parseMO17, fld, pack32, BitVec.cast_eq, BitVec.extractLsb'_append_eq_of_le, BitVec.extractLsb'_append_eq_of_add_le]; simp))

theorem chunmask (c : BitVec 8) : Statement (.chunmask c) :=
  of_parse32 _ _ rfl (by simp (disch := decide) only [fld, pack32, BitVec.cast_eq, BitVec.extractLsb'_append_eq_of_le, BitVec.extractLsb'_append_eq_of_add_le]; simp)
    (by simp (disch := decide) only [fld, pack32, BitVec.cast_eq, BitVec.extractLsb'_append_eq_of_le, BitVec.extractLsb'_append_eq_of_add_le]; simp)
    ((parse_17 _ (by simp (disch := decide) only [fld, pack32, BitVec.cast_eq, BitVec.extractLsb'_append_eq_of_le, BitVec.extractLsb'_append_eq_of_add_le]; simp)).trans
      (by simp (disch := decide) only [parseMO17, fld, pack32, BitVec.cast_eq, BitVec.extractLsb'_append_eq_of_le, BitVec.extractLsb'_append_eq_of_add_le]; simp))

theorem chtas (d : BitVec 5) (c : BitVec 8) : Statement (.chtas d c) :=
  of_parse32 _ _ rfl (by simp (disch := decide) only [fld, pack32, BitVec.cast_eq, BitVec.extractLsb'_append_eq_of_le, BitVec.extractLsb'_append_eq_of_add_le]; simp)
    (by simp (disch := decide) only [fld, pack32, BitVec.cast_eq, BitVec.extractLsb'_append_eq_of_le, BitVec.extractLsb'_append_eq_of_add_le]; simp)
    ((parse_17 _ (by simp (disch := decide) only [fld, pack32, BitVec.cast_eq, BitVec.extractLsb'_append_eq_of_le, BitVec.extractLsb'_append_eq_of_add_le]; simp)).trans
      (by simp (disch := decide) only [parseMO17, fld, pack32, BitVec.cast_eq, BitVec.extractLsb'_append_eq_of_le, BitVec.extractLsb'_append_eq_of_add_le]; simp))

theorem jdec (l : BitVec 1) (a : BitVec 5) (n : BitVec 8) : Statement (.jdec l a n) :=
  of_parse32 _ _ rfl (by simp (disch := decide) only [fld, pack32, BitVec.cast_eq, BitVec.extractLsb'_append_eq_of_le, BitVec.extractLsb'_append_eq_of_add_le]; simp)
    (by simp (disch := decide) only [fld, pack32, BitVec.cast_eq, BitVec.extractLsb'_append_eq_of_le, BitVec.extractLsb'_append_eq_of_add_le]; simp)
    ((parse_17 _ (by simp (disch := decide) only [fld, pack32, BitVec.cast_eq, BitVec.extractLsb'_append_eq_of_le, BitVec.extractLsb'_append_eq_of_add_le]; simp)).trans
      (by simp (disch := decide) only [parseMO17, fld, pack32, BitVec.cast_eq, BitVec.extractLsb'_append_eq_of_le, BitVec.extractLsb'_append_eq_of_add_le]; simp))

theorem barm (b : BitVec 5) (c : BitVec 8) : Statement (.barm b c) :=
  of_parse32 _ _ rfl (by simp (disch := decide) only [fld, pack32, BitVec.cast_eq, BitVec.extractLsb'_append_eq_of_le, BitVec.extractLsb'_append_eq_of_add_le]; simp)
    (by simp (disch := decide) only [fld, pack32, BitVec.cast_eq, BitVec.extractLsb'_append_eq_of_le, BitVec.extractLsb'_append_eq_of_add_le]; simp)
    ((parse_17 _ (by simp (disch := decide) only [fld, pack32, BitVec.cast_eq, BitVec.extractLsb'_append_eq_of_le, BitVec.extractLsb'_append_eq_of_add_le]; simp)).trans
      (by simp (disch := decide) only [parseMO17, fld, pack32, BitVec.cast_eq, BitVec.extractLsb'_append_eq_of_le, BitVec.extractLsb'_append_eq_of_add_le]; simp))

theorem bdis (c : BitVec 8) : Statement (.bdis c) :=
  of_parse32 _ _ rfl (by simp (disch := decide) only [fld, pack32, BitVec.cast_eq, BitVec.extractLsb'_append_eq_of_le, BitVec.extractLsb'_append_eq_of_add_le]; simp)
    (by simp (disch := decide) only [fld, pack32, BitVec.cast_eq, BitVec.extractLsb'_append_eq_of_le, BitVec.extractLsb'_append_eq_of_add_le]; simp)
    ((parse_17 _ (by simp (disch := decide) only [fld, pack32, BitVec.cast_eq, BitVec.extractLsb'_append_eq_of_le, BitVec.extractLsb'_append_eq_of_add_le]; simp)).trans
      (by simp (disch := decide) only [parseMO17, fld, pack32, BitVec.cast_eq, BitVec.extractLsb'_append_eq_of_le, BitVec.extractLsb'_append_eq_of_add_le]; simp))

theorem parse_18 (w : BitVec 32) (h : fld w 25 6 = 0x18#6) : parse32 w = parseMO18 w := by simp only [parse32, h]

theorem lwin (p : BitVec 2) (n : BitVec 4) : Statement (.lwin p n) :=
  of_parse32 _ _ rfl (by simp (disch := decide) only [fld, pack32, BitVec.cast_eq, BitVec.extractLsb'_append_eq_of_le, BitVec.extractLsb'_append_eq_of_add_le]; simp)
    (by simp (disch := decide) only [fld, pack32, BitVec.cast_eq, BitVec.extractLsb'_append_eq_of_le, BitVec.extractLsb'_append_eq_of_add_le]; simp)
    ((parse_18 _ (by simp (disch := decide) only [fld, pack32, BitVec.cast_eq, BitVec.extractLsb'_append_eq_of_le, BitVec.extractLsb'_append_eq_of_add_le]; simp)).trans
      (by simp (disch := decide) only [parseMO18, fld, pack32, BitVec.cast_eq, BitVec.extractLsb'_append_eq_of_le, BitVec.extractLsb'_append_eq_of_add_le]; simp))

theorem lstat (p : BitVec 2) (d : BitVec 5) : Statement (.lstat p d) :=
  of_parse32 _ _ rfl (by simp (disch := decide) only [fld, pack32, BitVec.cast_eq, BitVec.extractLsb'_append_eq_of_le, BitVec.extractLsb'_append_eq_of_add_le]; simp)
    (by simp (disch := decide) only [fld, pack32, BitVec.cast_eq, BitVec.extractLsb'_append_eq_of_le, BitVec.extractLsb'_append_eq_of_add_le]; simp)
    ((parse_18 _ (by simp (disch := decide) only [fld, pack32, BitVec.cast_eq, BitVec.extractLsb'_append_eq_of_le, BitVec.extractLsb'_append_eq_of_add_le]; simp)).trans
      (by simp (disch := decide) only [parseMO18, fld, pack32, BitVec.cast_eq, BitVec.extractLsb'_append_eq_of_le, BitVec.extractLsb'_append_eq_of_add_le]; simp))

theorem parse_19 (w : BitVec 32) (h : fld w 25 6 = 0x19#6) : parse32 w = parseMO19 w := by simp only [parse32, h]

theorem sbind (s t : BitVec 3) : Statement (.sbind s t) :=
  of_parse32 _ _ rfl (by simp (disch := decide) only [fld, pack32, BitVec.cast_eq, BitVec.extractLsb'_append_eq_of_le, BitVec.extractLsb'_append_eq_of_add_le]; simp)
    (by simp (disch := decide) only [fld, pack32, BitVec.cast_eq, BitVec.extractLsb'_append_eq_of_le, BitVec.extractLsb'_append_eq_of_add_le]; simp)
    ((parse_19 _ (by simp (disch := decide) only [fld, pack32, BitVec.cast_eq, BitVec.extractLsb'_append_eq_of_le, BitVec.extractLsb'_append_eq_of_add_le]; simp)).trans
      (by simp (disch := decide) only [parseMO19, fld, pack32, BitVec.cast_eq, BitVec.extractLsb'_append_eq_of_le, BitVec.extractLsb'_append_eq_of_add_le]; simp))

theorem sdrop (s : BitVec 3) : Statement (.sdrop s) :=
  of_parse32 _ _ rfl (by simp (disch := decide) only [fld, pack32, BitVec.cast_eq, BitVec.extractLsb'_append_eq_of_le, BitVec.extractLsb'_append_eq_of_add_le]; simp)
    (by simp (disch := decide) only [fld, pack32, BitVec.cast_eq, BitVec.extractLsb'_append_eq_of_le, BitVec.extractLsb'_append_eq_of_add_le]; simp)
    ((parse_19 _ (by simp (disch := decide) only [fld, pack32, BitVec.cast_eq, BitVec.extractLsb'_append_eq_of_le, BitVec.extractLsb'_append_eq_of_add_le]; simp)).trans
      (by simp (disch := decide) only [parseMO19, fld, pack32, BitVec.cast_eq, BitVec.extractLsb'_append_eq_of_le, BitVec.extractLsb'_append_eq_of_add_le]; simp))

theorem sstat (s : BitVec 3) (d : BitVec 5) : Statement (.sstat s d) :=
  of_parse32 _ _ rfl (by simp (disch := decide) only [fld, pack32, BitVec.cast_eq, BitVec.extractLsb'_append_eq_of_le, BitVec.extractLsb'_append_eq_of_add_le]; simp)
    (by simp (disch := decide) only [fld, pack32, BitVec.cast_eq, BitVec.extractLsb'_append_eq_of_le, BitVec.extractLsb'_append_eq_of_add_le]; simp)
    ((parse_19 _ (by simp (disch := decide) only [fld, pack32, BitVec.cast_eq, BitVec.extractLsb'_append_eq_of_le, BitVec.extractLsb'_append_eq_of_add_le]; simp)).trans
      (by simp (disch := decide) only [parseMO19, fld, pack32, BitVec.cast_eq, BitVec.extractLsb'_append_eq_of_le, BitVec.extractLsb'_append_eq_of_add_le]; simp))

theorem parse_1a (w : BitVec 32) (h : fld w 25 6 = 0x1a#6) : parse32 w = parseMO1A w := by simp only [parse32, h]

theorem tmld (t : BitVec 3) (a : BitVec 5) (o : BitVec 12) : Statement (.tmld t a o) :=
  of_parse32 _ _ rfl (by simp (disch := decide) only [fld, pack32, BitVec.cast_eq, BitVec.extractLsb'_append_eq_of_le, BitVec.extractLsb'_append_eq_of_add_le]; simp)
    (by simp (disch := decide) only [fld, pack32, BitVec.cast_eq, BitVec.extractLsb'_append_eq_of_le, BitVec.extractLsb'_append_eq_of_add_le]; simp)
    ((parse_1a _ (by simp (disch := decide) only [fld, pack32, BitVec.cast_eq, BitVec.extractLsb'_append_eq_of_le, BitVec.extractLsb'_append_eq_of_add_le]; simp)).trans
      (by simp (disch := decide) only [parseMO1A, fld, pack32, BitVec.cast_eq, BitVec.extractLsb'_append_eq_of_le, BitVec.extractLsb'_append_eq_of_add_le]; simp))

theorem tmbase (t : BitVec 3) (a : BitVec 5) : Statement (.tmbase t a) :=
  of_parse32 _ _ rfl (by simp (disch := decide) only [fld, pack32, BitVec.cast_eq, BitVec.extractLsb'_append_eq_of_le, BitVec.extractLsb'_append_eq_of_add_le]; simp)
    (by simp (disch := decide) only [fld, pack32, BitVec.cast_eq, BitVec.extractLsb'_append_eq_of_le, BitVec.extractLsb'_append_eq_of_add_le]; simp)
    ((parse_1a _ (by simp (disch := decide) only [fld, pack32, BitVec.cast_eq, BitVec.extractLsb'_append_eq_of_le, BitVec.extractLsb'_append_eq_of_add_le]; simp)).trans
      (by simp (disch := decide) only [parseMO1A, fld, pack32, BitVec.cast_eq, BitVec.extractLsb'_append_eq_of_le, BitVec.extractLsb'_append_eq_of_add_le]; simp))

theorem tmcnt (t : BitVec 3) (a : BitVec 5) (d : BitVec 2) : Statement (.tmcnt t a d) :=
  of_parse32 _ _ rfl (by simp (disch := decide) only [fld, pack32, BitVec.cast_eq, BitVec.extractLsb'_append_eq_of_le, BitVec.extractLsb'_append_eq_of_add_le]; simp)
    (by simp (disch := decide) only [fld, pack32, BitVec.cast_eq, BitVec.extractLsb'_append_eq_of_le, BitVec.extractLsb'_append_eq_of_add_le]; simp)
    ((parse_1a _ (by simp (disch := decide) only [fld, pack32, BitVec.cast_eq, BitVec.extractLsb'_append_eq_of_le, BitVec.extractLsb'_append_eq_of_add_le]; simp)).trans
      (by simp (disch := decide) only [parseMO1A, fld, pack32, BitVec.cast_eq, BitVec.extractLsb'_append_eq_of_le, BitVec.extractLsb'_append_eq_of_add_le]; simp))

theorem parse_1b (w : BitVec 32) (h : fld w 25 6 = 0x1b#6) : parse32 w = parseMO1B w := by simp only [parse32, h]

theorem chk (r : BitVec 10) : Statement (.chk r) :=
  of_parse32 _ _ rfl (by simp (disch := decide) only [fld, pack32, BitVec.cast_eq, BitVec.extractLsb'_append_eq_of_le, BitVec.extractLsb'_append_eq_of_add_le]; simp)
    (by simp (disch := decide) only [fld, pack32, BitVec.cast_eq, BitVec.extractLsb'_append_eq_of_le, BitVec.extractLsb'_append_eq_of_add_le]; simp)
    ((parse_1b _ (by simp (disch := decide) only [fld, pack32, BitVec.cast_eq, BitVec.extractLsb'_append_eq_of_le, BitVec.extractLsb'_append_eq_of_add_le]; simp)).trans
      (by simp (disch := decide) only [parseMO1B, fld, pack32, BitVec.cast_eq, BitVec.extractLsb'_append_eq_of_le, BitVec.extractLsb'_append_eq_of_add_le]; simp))

theorem chke (r : BitVec 10) : Statement (.chke r) :=
  of_parse32 _ _ rfl (by simp (disch := decide) only [fld, pack32, BitVec.cast_eq, BitVec.extractLsb'_append_eq_of_le, BitVec.extractLsb'_append_eq_of_add_le]; simp)
    (by simp (disch := decide) only [fld, pack32, BitVec.cast_eq, BitVec.extractLsb'_append_eq_of_le, BitVec.extractLsb'_append_eq_of_add_le]; simp)
    ((parse_1b _ (by simp (disch := decide) only [fld, pack32, BitVec.cast_eq, BitVec.extractLsb'_append_eq_of_le, BitVec.extractLsb'_append_eq_of_add_le]; simp)).trans
      (by simp (disch := decide) only [parseMO1B, fld, pack32, BitVec.cast_eq, BitVec.extractLsb'_append_eq_of_le, BitVec.extractLsb'_append_eq_of_add_le]; simp))

theorem chkg (a : BitVec 5) : Statement (.chkg a) :=
  of_parse32 _ _ rfl (by simp (disch := decide) only [fld, pack32, BitVec.cast_eq, BitVec.extractLsb'_append_eq_of_le, BitVec.extractLsb'_append_eq_of_add_le]; simp)
    (by simp (disch := decide) only [fld, pack32, BitVec.cast_eq, BitVec.extractLsb'_append_eq_of_le, BitVec.extractLsb'_append_eq_of_add_le]; simp)
    ((parse_1b _ (by simp (disch := decide) only [fld, pack32, BitVec.cast_eq, BitVec.extractLsb'_append_eq_of_le, BitVec.extractLsb'_append_eq_of_add_le]; simp)).trans
      (by simp (disch := decide) only [parseMO1B, fld, pack32, BitVec.cast_eq, BitVec.extractLsb'_append_eq_of_le, BitVec.extractLsb'_append_eq_of_add_le]; simp))

theorem parse_1c (w : BitVec 32) (h : fld w 25 6 = 0x1c#6) : parse32 w = parseMO1C w := by simp only [parse32, h]

theorem vadd (d a : BitVec 3) (l : BitVec 1) (b : BitVec 3) (m : BitVec 1) (k : BitVec 2) (t : BitVec 4) : Statement (.vadd d a l b m k t) :=
  of_parse32 _ _ rfl (by simp (disch := decide) only [fld, pack32, BitVec.cast_eq, BitVec.extractLsb'_append_eq_of_le, BitVec.extractLsb'_append_eq_of_add_le]; simp)
    (by simp (disch := decide) only [fld, pack32, BitVec.cast_eq, BitVec.extractLsb'_append_eq_of_le, BitVec.extractLsb'_append_eq_of_add_le]; simp)
    ((parse_1c _ (by simp (disch := decide) only [fld, pack32, BitVec.cast_eq, BitVec.extractLsb'_append_eq_of_le, BitVec.extractLsb'_append_eq_of_add_le]; simp)).trans
      (by simp (disch := decide) only [parseMO1C, fld, pack32, BitVec.cast_eq, BitVec.extractLsb'_append_eq_of_le, BitVec.extractLsb'_append_eq_of_add_le]; simp))

theorem vsub (d a : BitVec 3) (l : BitVec 1) (b : BitVec 3) (m : BitVec 1) (k : BitVec 2) (t : BitVec 4) : Statement (.vsub d a l b m k t) :=
  of_parse32 _ _ rfl (by simp (disch := decide) only [fld, pack32, BitVec.cast_eq, BitVec.extractLsb'_append_eq_of_le, BitVec.extractLsb'_append_eq_of_add_le]; simp)
    (by simp (disch := decide) only [fld, pack32, BitVec.cast_eq, BitVec.extractLsb'_append_eq_of_le, BitVec.extractLsb'_append_eq_of_add_le]; simp)
    ((parse_1c _ (by simp (disch := decide) only [fld, pack32, BitVec.cast_eq, BitVec.extractLsb'_append_eq_of_le, BitVec.extractLsb'_append_eq_of_add_le]; simp)).trans
      (by simp (disch := decide) only [parseMO1C, fld, pack32, BitVec.cast_eq, BitVec.extractLsb'_append_eq_of_le, BitVec.extractLsb'_append_eq_of_add_le]; simp))

theorem vmul (d a : BitVec 3) (l : BitVec 1) (b : BitVec 3) (m : BitVec 1) (k : BitVec 2) (t : BitVec 4) : Statement (.vmul d a l b m k t) :=
  of_parse32 _ _ rfl (by simp (disch := decide) only [fld, pack32, BitVec.cast_eq, BitVec.extractLsb'_append_eq_of_le, BitVec.extractLsb'_append_eq_of_add_le]; simp)
    (by simp (disch := decide) only [fld, pack32, BitVec.cast_eq, BitVec.extractLsb'_append_eq_of_le, BitVec.extractLsb'_append_eq_of_add_le]; simp)
    ((parse_1c _ (by simp (disch := decide) only [fld, pack32, BitVec.cast_eq, BitVec.extractLsb'_append_eq_of_le, BitVec.extractLsb'_append_eq_of_add_le]; simp)).trans
      (by simp (disch := decide) only [parseMO1C, fld, pack32, BitVec.cast_eq, BitVec.extractLsb'_append_eq_of_le, BitVec.extractLsb'_append_eq_of_add_le]; simp))

theorem vdiv (d a : BitVec 3) (l : BitVec 1) (b : BitVec 3) (m : BitVec 1) (k : BitVec 2) (t : BitVec 4) : Statement (.vdiv d a l b m k t) :=
  of_parse32 _ _ rfl (by simp (disch := decide) only [fld, pack32, BitVec.cast_eq, BitVec.extractLsb'_append_eq_of_le, BitVec.extractLsb'_append_eq_of_add_le]; simp)
    (by simp (disch := decide) only [fld, pack32, BitVec.cast_eq, BitVec.extractLsb'_append_eq_of_le, BitVec.extractLsb'_append_eq_of_add_le]; simp)
    ((parse_1c _ (by simp (disch := decide) only [fld, pack32, BitVec.cast_eq, BitVec.extractLsb'_append_eq_of_le, BitVec.extractLsb'_append_eq_of_add_le]; simp)).trans
      (by simp (disch := decide) only [parseMO1C, fld, pack32, BitVec.cast_eq, BitVec.extractLsb'_append_eq_of_le, BitVec.extractLsb'_append_eq_of_add_le]; simp))

theorem vsqrt (d a : BitVec 3) (l : BitVec 1) (k : BitVec 2) (t : BitVec 4) : Statement (.vsqrt d a l k t) :=
  of_parse32 _ _ rfl (by simp (disch := decide) only [fld, pack32, BitVec.cast_eq, BitVec.extractLsb'_append_eq_of_le, BitVec.extractLsb'_append_eq_of_add_le]; simp)
    (by simp (disch := decide) only [fld, pack32, BitVec.cast_eq, BitVec.extractLsb'_append_eq_of_le, BitVec.extractLsb'_append_eq_of_add_le]; simp)
    ((parse_1c _ (by simp (disch := decide) only [fld, pack32, BitVec.cast_eq, BitVec.extractLsb'_append_eq_of_le, BitVec.extractLsb'_append_eq_of_add_le]; simp)).trans
      (by simp (disch := decide) only [parseMO1C, fld, pack32, BitVec.cast_eq, BitVec.extractLsb'_append_eq_of_le, BitVec.extractLsb'_append_eq_of_add_le]; simp))

theorem vfma (d a : BitVec 3) (l : BitVec 1) (b : BitVec 3) (m : BitVec 1) (c : BitVec 3) (n : BitVec 1) (k : BitVec 2) (t : BitVec 4) : Statement (.vfma d a l b m c n k t) :=
  of_parse32 _ _ rfl (by simp (disch := decide) only [fld, pack32, BitVec.cast_eq, BitVec.extractLsb'_append_eq_of_le, BitVec.extractLsb'_append_eq_of_add_le]; simp)
    (by simp (disch := decide) only [fld, pack32, BitVec.cast_eq, BitVec.extractLsb'_append_eq_of_le, BitVec.extractLsb'_append_eq_of_add_le]; simp)
    ((parse_1c _ (by simp (disch := decide) only [fld, pack32, BitVec.cast_eq, BitVec.extractLsb'_append_eq_of_le, BitVec.extractLsb'_append_eq_of_add_le]; simp)).trans
      (by simp (disch := decide) only [parseMO1C, fld, pack32, BitVec.cast_eq, BitVec.extractLsb'_append_eq_of_le, BitVec.extractLsb'_append_eq_of_add_le]; simp))

theorem vfms (d a : BitVec 3) (l : BitVec 1) (b : BitVec 3) (m : BitVec 1) (c : BitVec 3) (n : BitVec 1) (k : BitVec 2) (t : BitVec 4) : Statement (.vfms d a l b m c n k t) :=
  of_parse32 _ _ rfl (by simp (disch := decide) only [fld, pack32, BitVec.cast_eq, BitVec.extractLsb'_append_eq_of_le, BitVec.extractLsb'_append_eq_of_add_le]; simp)
    (by simp (disch := decide) only [fld, pack32, BitVec.cast_eq, BitVec.extractLsb'_append_eq_of_le, BitVec.extractLsb'_append_eq_of_add_le]; simp)
    ((parse_1c _ (by simp (disch := decide) only [fld, pack32, BitVec.cast_eq, BitVec.extractLsb'_append_eq_of_le, BitVec.extractLsb'_append_eq_of_add_le]; simp)).trans
      (by simp (disch := decide) only [parseMO1C, fld, pack32, BitVec.cast_eq, BitVec.extractLsb'_append_eq_of_le, BitVec.extractLsb'_append_eq_of_add_le]; simp))

theorem vfnma (d a : BitVec 3) (l : BitVec 1) (b : BitVec 3) (m : BitVec 1) (c : BitVec 3) (n : BitVec 1) (k : BitVec 2) (t : BitVec 4) : Statement (.vfnma d a l b m c n k t) :=
  of_parse32 _ _ rfl (by simp (disch := decide) only [fld, pack32, BitVec.cast_eq, BitVec.extractLsb'_append_eq_of_le, BitVec.extractLsb'_append_eq_of_add_le]; simp)
    (by simp (disch := decide) only [fld, pack32, BitVec.cast_eq, BitVec.extractLsb'_append_eq_of_le, BitVec.extractLsb'_append_eq_of_add_le]; simp)
    ((parse_1c _ (by simp (disch := decide) only [fld, pack32, BitVec.cast_eq, BitVec.extractLsb'_append_eq_of_le, BitVec.extractLsb'_append_eq_of_add_le]; simp)).trans
      (by simp (disch := decide) only [parseMO1C, fld, pack32, BitVec.cast_eq, BitVec.extractLsb'_append_eq_of_le, BitVec.extractLsb'_append_eq_of_add_le]; simp))

theorem vmin (d a : BitVec 3) (l : BitVec 1) (b : BitVec 3) (m : BitVec 1) (k : BitVec 2) (t : BitVec 4) : Statement (.vmin d a l b m k t) :=
  of_parse32 _ _ rfl (by simp (disch := decide) only [fld, pack32, BitVec.cast_eq, BitVec.extractLsb'_append_eq_of_le, BitVec.extractLsb'_append_eq_of_add_le]; simp)
    (by simp (disch := decide) only [fld, pack32, BitVec.cast_eq, BitVec.extractLsb'_append_eq_of_le, BitVec.extractLsb'_append_eq_of_add_le]; simp)
    ((parse_1c _ (by simp (disch := decide) only [fld, pack32, BitVec.cast_eq, BitVec.extractLsb'_append_eq_of_le, BitVec.extractLsb'_append_eq_of_add_le]; simp)).trans
      (by simp (disch := decide) only [parseMO1C, fld, pack32, BitVec.cast_eq, BitVec.extractLsb'_append_eq_of_le, BitVec.extractLsb'_append_eq_of_add_le]; simp))

theorem vmax (d a : BitVec 3) (l : BitVec 1) (b : BitVec 3) (m : BitVec 1) (k : BitVec 2) (t : BitVec 4) : Statement (.vmax d a l b m k t) :=
  of_parse32 _ _ rfl (by simp (disch := decide) only [fld, pack32, BitVec.cast_eq, BitVec.extractLsb'_append_eq_of_le, BitVec.extractLsb'_append_eq_of_add_le]; simp)
    (by simp (disch := decide) only [fld, pack32, BitVec.cast_eq, BitVec.extractLsb'_append_eq_of_le, BitVec.extractLsb'_append_eq_of_add_le]; simp)
    ((parse_1c _ (by simp (disch := decide) only [fld, pack32, BitVec.cast_eq, BitVec.extractLsb'_append_eq_of_le, BitVec.extractLsb'_append_eq_of_add_le]; simp)).trans
      (by simp (disch := decide) only [parseMO1C, fld, pack32, BitVec.cast_eq, BitVec.extractLsb'_append_eq_of_le, BitVec.extractLsb'_append_eq_of_add_le]; simp))

theorem vabs (d a : BitVec 3) (l : BitVec 1) (k : BitVec 2) (t : BitVec 4) : Statement (.vabs d a l k t) :=
  of_parse32 _ _ rfl (by simp (disch := decide) only [fld, pack32, BitVec.cast_eq, BitVec.extractLsb'_append_eq_of_le, BitVec.extractLsb'_append_eq_of_add_le]; simp)
    (by simp (disch := decide) only [fld, pack32, BitVec.cast_eq, BitVec.extractLsb'_append_eq_of_le, BitVec.extractLsb'_append_eq_of_add_le]; simp)
    ((parse_1c _ (by simp (disch := decide) only [fld, pack32, BitVec.cast_eq, BitVec.extractLsb'_append_eq_of_le, BitVec.extractLsb'_append_eq_of_add_le]; simp)).trans
      (by simp (disch := decide) only [parseMO1C, fld, pack32, BitVec.cast_eq, BitVec.extractLsb'_append_eq_of_le, BitVec.extractLsb'_append_eq_of_add_le]; simp))

theorem vneg (d a : BitVec 3) (l : BitVec 1) (k : BitVec 2) (t : BitVec 4) : Statement (.vneg d a l k t) :=
  of_parse32 _ _ rfl (by simp (disch := decide) only [fld, pack32, BitVec.cast_eq, BitVec.extractLsb'_append_eq_of_le, BitVec.extractLsb'_append_eq_of_add_le]; simp)
    (by simp (disch := decide) only [fld, pack32, BitVec.cast_eq, BitVec.extractLsb'_append_eq_of_le, BitVec.extractLsb'_append_eq_of_add_le]; simp)
    ((parse_1c _ (by simp (disch := decide) only [fld, pack32, BitVec.cast_eq, BitVec.extractLsb'_append_eq_of_le, BitVec.extractLsb'_append_eq_of_add_le]; simp)).trans
      (by simp (disch := decide) only [parseMO1C, fld, pack32, BitVec.cast_eq, BitVec.extractLsb'_append_eq_of_le, BitVec.extractLsb'_append_eq_of_add_le]; simp))

theorem parse_1d (w : BitVec 32) (h : fld w 25 6 = 0x1d#6) : parse32 w = parseMO1D w := by simp only [parse32, h]

theorem vfeq (e : BitVec 2) (a : BitVec 3) (l : BitVec 1) (b : BitVec 3) (m : BitVec 1) (k : BitVec 2) (t : BitVec 4) : Statement (.vfeq e a l b m k t) :=
  of_parse32 _ _ rfl (by simp (disch := decide) only [fld, pack32, BitVec.cast_eq, BitVec.extractLsb'_append_eq_of_le, BitVec.extractLsb'_append_eq_of_add_le]; simp)
    (by simp (disch := decide) only [fld, pack32, BitVec.cast_eq, BitVec.extractLsb'_append_eq_of_le, BitVec.extractLsb'_append_eq_of_add_le]; simp)
    ((parse_1d _ (by simp (disch := decide) only [fld, pack32, BitVec.cast_eq, BitVec.extractLsb'_append_eq_of_le, BitVec.extractLsb'_append_eq_of_add_le]; simp)).trans
      (by simp (disch := decide) only [parseMO1D, fld, pack32, BitVec.cast_eq, BitVec.extractLsb'_append_eq_of_le, BitVec.extractLsb'_append_eq_of_add_le]; simp))

theorem vflt (e : BitVec 2) (a : BitVec 3) (l : BitVec 1) (b : BitVec 3) (m : BitVec 1) (k : BitVec 2) (t : BitVec 4) : Statement (.vflt e a l b m k t) :=
  of_parse32 _ _ rfl (by simp (disch := decide) only [fld, pack32, BitVec.cast_eq, BitVec.extractLsb'_append_eq_of_le, BitVec.extractLsb'_append_eq_of_add_le]; simp)
    (by simp (disch := decide) only [fld, pack32, BitVec.cast_eq, BitVec.extractLsb'_append_eq_of_le, BitVec.extractLsb'_append_eq_of_add_le]; simp)
    ((parse_1d _ (by simp (disch := decide) only [fld, pack32, BitVec.cast_eq, BitVec.extractLsb'_append_eq_of_le, BitVec.extractLsb'_append_eq_of_add_le]; simp)).trans
      (by simp (disch := decide) only [parseMO1D, fld, pack32, BitVec.cast_eq, BitVec.extractLsb'_append_eq_of_le, BitVec.extractLsb'_append_eq_of_add_le]; simp))

theorem vfle (e : BitVec 2) (a : BitVec 3) (l : BitVec 1) (b : BitVec 3) (m : BitVec 1) (k : BitVec 2) (t : BitVec 4) : Statement (.vfle e a l b m k t) :=
  of_parse32 _ _ rfl (by simp (disch := decide) only [fld, pack32, BitVec.cast_eq, BitVec.extractLsb'_append_eq_of_le, BitVec.extractLsb'_append_eq_of_add_le]; simp)
    (by simp (disch := decide) only [fld, pack32, BitVec.cast_eq, BitVec.extractLsb'_append_eq_of_le, BitVec.extractLsb'_append_eq_of_add_le]; simp)
    ((parse_1d _ (by simp (disch := decide) only [fld, pack32, BitVec.cast_eq, BitVec.extractLsb'_append_eq_of_le, BitVec.extractLsb'_append_eq_of_add_le]; simp)).trans
      (by simp (disch := decide) only [parseMO1D, fld, pack32, BitVec.cast_eq, BitVec.extractLsb'_append_eq_of_le, BitVec.extractLsb'_append_eq_of_add_le]; simp))

theorem vfclass (d a : BitVec 3) (l : BitVec 1) (k : BitVec 2) (t : BitVec 4) : Statement (.vfclass d a l k t) :=
  of_parse32 _ _ rfl (by simp (disch := decide) only [fld, pack32, BitVec.cast_eq, BitVec.extractLsb'_append_eq_of_le, BitVec.extractLsb'_append_eq_of_add_le]; simp)
    (by simp (disch := decide) only [fld, pack32, BitVec.cast_eq, BitVec.extractLsb'_append_eq_of_le, BitVec.extractLsb'_append_eq_of_add_le]; simp)
    ((parse_1d _ (by simp (disch := decide) only [fld, pack32, BitVec.cast_eq, BitVec.extractLsb'_append_eq_of_le, BitVec.extractLsb'_append_eq_of_add_le]; simp)).trans
      (by simp (disch := decide) only [parseMO1D, fld, pack32, BitVec.cast_eq, BitVec.extractLsb'_append_eq_of_le, BitVec.extractLsb'_append_eq_of_add_le]; simp))

theorem parse_1e (w : BitVec 32) (h : fld w 25 6 = 0x1e#6) : parse32 w = parseMO1E w := by simp only [parse32, h]

theorem vcvt (d a : BitVec 3) (l : BitVec 1) (s : BitVec 4) (k : BitVec 2) (t : BitVec 4) : Statement (.vcvt d a l s k t) :=
  of_parse32 _ _ rfl (by simp (disch := decide) only [fld, pack32, BitVec.cast_eq, BitVec.extractLsb'_append_eq_of_le, BitVec.extractLsb'_append_eq_of_add_le]; simp)
    (by simp (disch := decide) only [fld, pack32, BitVec.cast_eq, BitVec.extractLsb'_append_eq_of_le, BitVec.extractLsb'_append_eq_of_add_le]; simp)
    ((parse_1e _ (by simp (disch := decide) only [fld, pack32, BitVec.cast_eq, BitVec.extractLsb'_append_eq_of_le, BitVec.extractLsb'_append_eq_of_add_le]; simp)).trans
      (by simp (disch := decide) only [parseMO1E, fld, pack32, BitVec.cast_eq, BitVec.extractLsb'_append_eq_of_le, BitVec.extractLsb'_append_eq_of_add_le]; simp))

theorem vcvtl (d a : BitVec 3) (l : BitVec 1) (s : BitVec 4) (k : BitVec 2) (t : BitVec 4) : Statement (.vcvtl d a l s k t) :=
  of_parse32 _ _ rfl (by simp (disch := decide) only [fld, pack32, BitVec.cast_eq, BitVec.extractLsb'_append_eq_of_le, BitVec.extractLsb'_append_eq_of_add_le]; simp)
    (by simp (disch := decide) only [fld, pack32, BitVec.cast_eq, BitVec.extractLsb'_append_eq_of_le, BitVec.extractLsb'_append_eq_of_add_le]; simp)
    ((parse_1e _ (by simp (disch := decide) only [fld, pack32, BitVec.cast_eq, BitVec.extractLsb'_append_eq_of_le, BitVec.extractLsb'_append_eq_of_add_le]; simp)).trans
      (by simp (disch := decide) only [parseMO1E, fld, pack32, BitVec.cast_eq, BitVec.extractLsb'_append_eq_of_le, BitVec.extractLsb'_append_eq_of_add_le]; simp))

theorem vcvth (d a : BitVec 3) (l : BitVec 1) (s : BitVec 4) (k : BitVec 2) (t : BitVec 4) : Statement (.vcvth d a l s k t) :=
  of_parse32 _ _ rfl (by simp (disch := decide) only [fld, pack32, BitVec.cast_eq, BitVec.extractLsb'_append_eq_of_le, BitVec.extractLsb'_append_eq_of_add_le]; simp)
    (by simp (disch := decide) only [fld, pack32, BitVec.cast_eq, BitVec.extractLsb'_append_eq_of_le, BitVec.extractLsb'_append_eq_of_add_le]; simp)
    ((parse_1e _ (by simp (disch := decide) only [fld, pack32, BitVec.cast_eq, BitVec.extractLsb'_append_eq_of_le, BitVec.extractLsb'_append_eq_of_add_le]; simp)).trans
      (by simp (disch := decide) only [parseMO1E, fld, pack32, BitVec.cast_eq, BitVec.extractLsb'_append_eq_of_le, BitVec.extractLsb'_append_eq_of_add_le]; simp))

theorem vcvtn (d a : BitVec 3) (l : BitVec 1) (b : BitVec 3) (m : BitVec 1) (s : BitVec 4) (k : BitVec 2) (t : BitVec 4) : Statement (.vcvtn d a l b m s k t) :=
  of_parse32 _ _ rfl (by simp (disch := decide) only [fld, pack32, BitVec.cast_eq, BitVec.extractLsb'_append_eq_of_le, BitVec.extractLsb'_append_eq_of_add_le]; simp)
    (by simp (disch := decide) only [fld, pack32, BitVec.cast_eq, BitVec.extractLsb'_append_eq_of_le, BitVec.extractLsb'_append_eq_of_add_le]; simp)
    ((parse_1e _ (by simp (disch := decide) only [fld, pack32, BitVec.cast_eq, BitVec.extractLsb'_append_eq_of_le, BitVec.extractLsb'_append_eq_of_add_le]; simp)).trans
      (by simp (disch := decide) only [parseMO1E, fld, pack32, BitVec.cast_eq, BitVec.extractLsb'_append_eq_of_le, BitVec.extractLsb'_append_eq_of_add_le]; simp))

theorem parse_1f (w : BitVec 32) (h : fld w 25 6 = 0x1f#6) : parse32 w = parseMO1F w := by simp only [parse32, h]

theorem vaddInt (d a : BitVec 3) (l : BitVec 1) (b : BitVec 3) (m : BitVec 1) (k : BitVec 2) (t : BitVec 4) : Statement (.vaddInt d a l b m k t) :=
  of_parse32 _ _ rfl (by simp (disch := decide) only [fld, pack32, BitVec.cast_eq, BitVec.extractLsb'_append_eq_of_le, BitVec.extractLsb'_append_eq_of_add_le]; simp)
    (by simp (disch := decide) only [fld, pack32, BitVec.cast_eq, BitVec.extractLsb'_append_eq_of_le, BitVec.extractLsb'_append_eq_of_add_le]; simp)
    ((parse_1f _ (by simp (disch := decide) only [fld, pack32, BitVec.cast_eq, BitVec.extractLsb'_append_eq_of_le, BitVec.extractLsb'_append_eq_of_add_le]; simp)).trans
      (by simp (disch := decide) only [parseMO1F, fld, pack32, BitVec.cast_eq, BitVec.extractLsb'_append_eq_of_le, BitVec.extractLsb'_append_eq_of_add_le]; simp))

theorem vsubInt (d a : BitVec 3) (l : BitVec 1) (b : BitVec 3) (m : BitVec 1) (k : BitVec 2) (t : BitVec 4) : Statement (.vsubInt d a l b m k t) :=
  of_parse32 _ _ rfl (by simp (disch := decide) only [fld, pack32, BitVec.cast_eq, BitVec.extractLsb'_append_eq_of_le, BitVec.extractLsb'_append_eq_of_add_le]; simp)
    (by simp (disch := decide) only [fld, pack32, BitVec.cast_eq, BitVec.extractLsb'_append_eq_of_le, BitVec.extractLsb'_append_eq_of_add_le]; simp)
    ((parse_1f _ (by simp (disch := decide) only [fld, pack32, BitVec.cast_eq, BitVec.extractLsb'_append_eq_of_le, BitVec.extractLsb'_append_eq_of_add_le]; simp)).trans
      (by simp (disch := decide) only [parseMO1F, fld, pack32, BitVec.cast_eq, BitVec.extractLsb'_append_eq_of_le, BitVec.extractLsb'_append_eq_of_add_le]; simp))

theorem vmulInt (d a : BitVec 3) (l : BitVec 1) (b : BitVec 3) (m : BitVec 1) (k : BitVec 2) (t : BitVec 4) : Statement (.vmulInt d a l b m k t) :=
  of_parse32 _ _ rfl (by simp (disch := decide) only [fld, pack32, BitVec.cast_eq, BitVec.extractLsb'_append_eq_of_le, BitVec.extractLsb'_append_eq_of_add_le]; simp)
    (by simp (disch := decide) only [fld, pack32, BitVec.cast_eq, BitVec.extractLsb'_append_eq_of_le, BitVec.extractLsb'_append_eq_of_add_le]; simp)
    ((parse_1f _ (by simp (disch := decide) only [fld, pack32, BitVec.cast_eq, BitVec.extractLsb'_append_eq_of_le, BitVec.extractLsb'_append_eq_of_add_le]; simp)).trans
      (by simp (disch := decide) only [parseMO1F, fld, pack32, BitVec.cast_eq, BitVec.extractLsb'_append_eq_of_le, BitVec.extractLsb'_append_eq_of_add_le]; simp))

theorem vmulh (d a : BitVec 3) (l : BitVec 1) (b : BitVec 3) (m : BitVec 1) (k : BitVec 2) (t : BitVec 4) : Statement (.vmulh d a l b m k t) :=
  of_parse32 _ _ rfl (by simp (disch := decide) only [fld, pack32, BitVec.cast_eq, BitVec.extractLsb'_append_eq_of_le, BitVec.extractLsb'_append_eq_of_add_le]; simp)
    (by simp (disch := decide) only [fld, pack32, BitVec.cast_eq, BitVec.extractLsb'_append_eq_of_le, BitVec.extractLsb'_append_eq_of_add_le]; simp)
    ((parse_1f _ (by simp (disch := decide) only [fld, pack32, BitVec.cast_eq, BitVec.extractLsb'_append_eq_of_le, BitVec.extractLsb'_append_eq_of_add_le]; simp)).trans
      (by simp (disch := decide) only [parseMO1F, fld, pack32, BitVec.cast_eq, BitVec.extractLsb'_append_eq_of_le, BitVec.extractLsb'_append_eq_of_add_le]; simp))

theorem vand (d a : BitVec 3) (l : BitVec 1) (b : BitVec 3) (m : BitVec 1) (k : BitVec 2) (t : BitVec 4) : Statement (.vand d a l b m k t) :=
  of_parse32 _ _ rfl (by simp (disch := decide) only [fld, pack32, BitVec.cast_eq, BitVec.extractLsb'_append_eq_of_le, BitVec.extractLsb'_append_eq_of_add_le]; simp)
    (by simp (disch := decide) only [fld, pack32, BitVec.cast_eq, BitVec.extractLsb'_append_eq_of_le, BitVec.extractLsb'_append_eq_of_add_le]; simp)
    ((parse_1f _ (by simp (disch := decide) only [fld, pack32, BitVec.cast_eq, BitVec.extractLsb'_append_eq_of_le, BitVec.extractLsb'_append_eq_of_add_le]; simp)).trans
      (by simp (disch := decide) only [parseMO1F, fld, pack32, BitVec.cast_eq, BitVec.extractLsb'_append_eq_of_le, BitVec.extractLsb'_append_eq_of_add_le]; simp))

theorem vor (d a : BitVec 3) (l : BitVec 1) (b : BitVec 3) (m : BitVec 1) (k : BitVec 2) (t : BitVec 4) : Statement (.vor d a l b m k t) :=
  of_parse32 _ _ rfl (by simp (disch := decide) only [fld, pack32, BitVec.cast_eq, BitVec.extractLsb'_append_eq_of_le, BitVec.extractLsb'_append_eq_of_add_le]; simp)
    (by simp (disch := decide) only [fld, pack32, BitVec.cast_eq, BitVec.extractLsb'_append_eq_of_le, BitVec.extractLsb'_append_eq_of_add_le]; simp)
    ((parse_1f _ (by simp (disch := decide) only [fld, pack32, BitVec.cast_eq, BitVec.extractLsb'_append_eq_of_le, BitVec.extractLsb'_append_eq_of_add_le]; simp)).trans
      (by simp (disch := decide) only [parseMO1F, fld, pack32, BitVec.cast_eq, BitVec.extractLsb'_append_eq_of_le, BitVec.extractLsb'_append_eq_of_add_le]; simp))

theorem vxor (d a : BitVec 3) (l : BitVec 1) (b : BitVec 3) (m : BitVec 1) (k : BitVec 2) (t : BitVec 4) : Statement (.vxor d a l b m k t) :=
  of_parse32 _ _ rfl (by simp (disch := decide) only [fld, pack32, BitVec.cast_eq, BitVec.extractLsb'_append_eq_of_le, BitVec.extractLsb'_append_eq_of_add_le]; simp)
    (by simp (disch := decide) only [fld, pack32, BitVec.cast_eq, BitVec.extractLsb'_append_eq_of_le, BitVec.extractLsb'_append_eq_of_add_le]; simp)
    ((parse_1f _ (by simp (disch := decide) only [fld, pack32, BitVec.cast_eq, BitVec.extractLsb'_append_eq_of_le, BitVec.extractLsb'_append_eq_of_add_le]; simp)).trans
      (by simp (disch := decide) only [parseMO1F, fld, pack32, BitVec.cast_eq, BitVec.extractLsb'_append_eq_of_le, BitVec.extractLsb'_append_eq_of_add_le]; simp))

theorem vsll (d a : BitVec 3) (l : BitVec 1) (b : BitVec 3) (m : BitVec 1) (k : BitVec 2) (t : BitVec 4) : Statement (.vsll d a l b m k t) :=
  of_parse32 _ _ rfl (by simp (disch := decide) only [fld, pack32, BitVec.cast_eq, BitVec.extractLsb'_append_eq_of_le, BitVec.extractLsb'_append_eq_of_add_le]; simp)
    (by simp (disch := decide) only [fld, pack32, BitVec.cast_eq, BitVec.extractLsb'_append_eq_of_le, BitVec.extractLsb'_append_eq_of_add_le]; simp)
    ((parse_1f _ (by simp (disch := decide) only [fld, pack32, BitVec.cast_eq, BitVec.extractLsb'_append_eq_of_le, BitVec.extractLsb'_append_eq_of_add_le]; simp)).trans
      (by simp (disch := decide) only [parseMO1F, fld, pack32, BitVec.cast_eq, BitVec.extractLsb'_append_eq_of_le, BitVec.extractLsb'_append_eq_of_add_le]; simp))

theorem vsrl (d a : BitVec 3) (l : BitVec 1) (b : BitVec 3) (m : BitVec 1) (k : BitVec 2) (t : BitVec 4) : Statement (.vsrl d a l b m k t) :=
  of_parse32 _ _ rfl (by simp (disch := decide) only [fld, pack32, BitVec.cast_eq, BitVec.extractLsb'_append_eq_of_le, BitVec.extractLsb'_append_eq_of_add_le]; simp)
    (by simp (disch := decide) only [fld, pack32, BitVec.cast_eq, BitVec.extractLsb'_append_eq_of_le, BitVec.extractLsb'_append_eq_of_add_le]; simp)
    ((parse_1f _ (by simp (disch := decide) only [fld, pack32, BitVec.cast_eq, BitVec.extractLsb'_append_eq_of_le, BitVec.extractLsb'_append_eq_of_add_le]; simp)).trans
      (by simp (disch := decide) only [parseMO1F, fld, pack32, BitVec.cast_eq, BitVec.extractLsb'_append_eq_of_le, BitVec.extractLsb'_append_eq_of_add_le]; simp))

theorem vsra (d a : BitVec 3) (l : BitVec 1) (b : BitVec 3) (m : BitVec 1) (k : BitVec 2) (t : BitVec 4) : Statement (.vsra d a l b m k t) :=
  of_parse32 _ _ rfl (by simp (disch := decide) only [fld, pack32, BitVec.cast_eq, BitVec.extractLsb'_append_eq_of_le, BitVec.extractLsb'_append_eq_of_add_le]; simp)
    (by simp (disch := decide) only [fld, pack32, BitVec.cast_eq, BitVec.extractLsb'_append_eq_of_le, BitVec.extractLsb'_append_eq_of_add_le]; simp)
    ((parse_1f _ (by simp (disch := decide) only [fld, pack32, BitVec.cast_eq, BitVec.extractLsb'_append_eq_of_le, BitVec.extractLsb'_append_eq_of_add_le]; simp)).trans
      (by simp (disch := decide) only [parseMO1F, fld, pack32, BitVec.cast_eq, BitVec.extractLsb'_append_eq_of_le, BitVec.extractLsb'_append_eq_of_add_le]; simp))

theorem vminInt (d a : BitVec 3) (l : BitVec 1) (b : BitVec 3) (m : BitVec 1) (k : BitVec 2) (t : BitVec 4) : Statement (.vminInt d a l b m k t) :=
  of_parse32 _ _ rfl (by simp (disch := decide) only [fld, pack32, BitVec.cast_eq, BitVec.extractLsb'_append_eq_of_le, BitVec.extractLsb'_append_eq_of_add_le]; simp)
    (by simp (disch := decide) only [fld, pack32, BitVec.cast_eq, BitVec.extractLsb'_append_eq_of_le, BitVec.extractLsb'_append_eq_of_add_le]; simp)
    ((parse_1f _ (by simp (disch := decide) only [fld, pack32, BitVec.cast_eq, BitVec.extractLsb'_append_eq_of_le, BitVec.extractLsb'_append_eq_of_add_le]; simp)).trans
      (by simp (disch := decide) only [parseMO1F, fld, pack32, BitVec.cast_eq, BitVec.extractLsb'_append_eq_of_le, BitVec.extractLsb'_append_eq_of_add_le]; simp))

theorem vmaxInt (d a : BitVec 3) (l : BitVec 1) (b : BitVec 3) (m : BitVec 1) (k : BitVec 2) (t : BitVec 4) : Statement (.vmaxInt d a l b m k t) :=
  of_parse32 _ _ rfl (by simp (disch := decide) only [fld, pack32, BitVec.cast_eq, BitVec.extractLsb'_append_eq_of_le, BitVec.extractLsb'_append_eq_of_add_le]; simp)
    (by simp (disch := decide) only [fld, pack32, BitVec.cast_eq, BitVec.extractLsb'_append_eq_of_le, BitVec.extractLsb'_append_eq_of_add_le]; simp)
    ((parse_1f _ (by simp (disch := decide) only [fld, pack32, BitVec.cast_eq, BitVec.extractLsb'_append_eq_of_le, BitVec.extractLsb'_append_eq_of_add_le]; simp)).trans
      (by simp (disch := decide) only [parseMO1F, fld, pack32, BitVec.cast_eq, BitVec.extractLsb'_append_eq_of_le, BitVec.extractLsb'_append_eq_of_add_le]; simp))

theorem vadds (d a : BitVec 3) (l : BitVec 1) (b : BitVec 3) (m : BitVec 1) (k : BitVec 2) (t : BitVec 4) : Statement (.vadds d a l b m k t) :=
  of_parse32 _ _ rfl (by simp (disch := decide) only [fld, pack32, BitVec.cast_eq, BitVec.extractLsb'_append_eq_of_le, BitVec.extractLsb'_append_eq_of_add_le]; simp)
    (by simp (disch := decide) only [fld, pack32, BitVec.cast_eq, BitVec.extractLsb'_append_eq_of_le, BitVec.extractLsb'_append_eq_of_add_le]; simp)
    ((parse_1f _ (by simp (disch := decide) only [fld, pack32, BitVec.cast_eq, BitVec.extractLsb'_append_eq_of_le, BitVec.extractLsb'_append_eq_of_add_le]; simp)).trans
      (by simp (disch := decide) only [parseMO1F, fld, pack32, BitVec.cast_eq, BitVec.extractLsb'_append_eq_of_le, BitVec.extractLsb'_append_eq_of_add_le]; simp))

theorem vsubs (d a : BitVec 3) (l : BitVec 1) (b : BitVec 3) (m : BitVec 1) (k : BitVec 2) (t : BitVec 4) : Statement (.vsubs d a l b m k t) :=
  of_parse32 _ _ rfl (by simp (disch := decide) only [fld, pack32, BitVec.cast_eq, BitVec.extractLsb'_append_eq_of_le, BitVec.extractLsb'_append_eq_of_add_le]; simp)
    (by simp (disch := decide) only [fld, pack32, BitVec.cast_eq, BitVec.extractLsb'_append_eq_of_le, BitVec.extractLsb'_append_eq_of_add_le]; simp)
    ((parse_1f _ (by simp (disch := decide) only [fld, pack32, BitVec.cast_eq, BitVec.extractLsb'_append_eq_of_le, BitVec.extractLsb'_append_eq_of_add_le]; simp)).trans
      (by simp (disch := decide) only [parseMO1F, fld, pack32, BitVec.cast_eq, BitVec.extractLsb'_append_eq_of_le, BitVec.extractLsb'_append_eq_of_add_le]; simp))

theorem vabsd (d a : BitVec 3) (l : BitVec 1) (b : BitVec 3) (m : BitVec 1) (k : BitVec 2) (t : BitVec 4) : Statement (.vabsd d a l b m k t) :=
  of_parse32 _ _ rfl (by simp (disch := decide) only [fld, pack32, BitVec.cast_eq, BitVec.extractLsb'_append_eq_of_le, BitVec.extractLsb'_append_eq_of_add_le]; simp)
    (by simp (disch := decide) only [fld, pack32, BitVec.cast_eq, BitVec.extractLsb'_append_eq_of_le, BitVec.extractLsb'_append_eq_of_add_le]; simp)
    ((parse_1f _ (by simp (disch := decide) only [fld, pack32, BitVec.cast_eq, BitVec.extractLsb'_append_eq_of_le, BitVec.extractLsb'_append_eq_of_add_le]; simp)).trans
      (by simp (disch := decide) only [parseMO1F, fld, pack32, BitVec.cast_eq, BitVec.extractLsb'_append_eq_of_le, BitVec.extractLsb'_append_eq_of_add_le]; simp))

theorem vmadd (d a : BitVec 3) (l : BitVec 1) (b : BitVec 3) (m : BitVec 1) (c : BitVec 3) (n : BitVec 1) (k : BitVec 2) (t : BitVec 4) : Statement (.vmadd d a l b m c n k t) :=
  of_parse32 _ _ rfl (by simp (disch := decide) only [fld, pack32, BitVec.cast_eq, BitVec.extractLsb'_append_eq_of_le, BitVec.extractLsb'_append_eq_of_add_le]; simp)
    (by simp (disch := decide) only [fld, pack32, BitVec.cast_eq, BitVec.extractLsb'_append_eq_of_le, BitVec.extractLsb'_append_eq_of_add_le]; simp)
    ((parse_1f _ (by simp (disch := decide) only [fld, pack32, BitVec.cast_eq, BitVec.extractLsb'_append_eq_of_le, BitVec.extractLsb'_append_eq_of_add_le]; simp)).trans
      (by simp (disch := decide) only [parseMO1F, fld, pack32, BitVec.cast_eq, BitVec.extractLsb'_append_eq_of_le, BitVec.extractLsb'_append_eq_of_add_le]; simp))

theorem parse_20 (w : BitVec 32) (h : fld w 25 6 = 0x20#6) : parse32 w = parseMO20 w := by simp only [parse32, h]

theorem vceq (e : BitVec 2) (a : BitVec 3) (l : BitVec 1) (b : BitVec 3) (m : BitVec 1) (k : BitVec 2) (t : BitVec 4) : Statement (.vceq e a l b m k t) :=
  of_parse32 _ _ rfl (by simp (disch := decide) only [fld, pack32, BitVec.cast_eq, BitVec.extractLsb'_append_eq_of_le, BitVec.extractLsb'_append_eq_of_add_le]; simp)
    (by simp (disch := decide) only [fld, pack32, BitVec.cast_eq, BitVec.extractLsb'_append_eq_of_le, BitVec.extractLsb'_append_eq_of_add_le]; simp)
    ((parse_20 _ (by simp (disch := decide) only [fld, pack32, BitVec.cast_eq, BitVec.extractLsb'_append_eq_of_le, BitVec.extractLsb'_append_eq_of_add_le]; simp)).trans
      (by simp (disch := decide) only [parseMO20, fld, pack32, BitVec.cast_eq, BitVec.extractLsb'_append_eq_of_le, BitVec.extractLsb'_append_eq_of_add_le]; simp))

theorem vclt (e : BitVec 2) (a : BitVec 3) (l : BitVec 1) (b : BitVec 3) (m : BitVec 1) (k : BitVec 2) (t : BitVec 4) : Statement (.vclt e a l b m k t) :=
  of_parse32 _ _ rfl (by simp (disch := decide) only [fld, pack32, BitVec.cast_eq, BitVec.extractLsb'_append_eq_of_le, BitVec.extractLsb'_append_eq_of_add_le]; simp)
    (by simp (disch := decide) only [fld, pack32, BitVec.cast_eq, BitVec.extractLsb'_append_eq_of_le, BitVec.extractLsb'_append_eq_of_add_le]; simp)
    ((parse_20 _ (by simp (disch := decide) only [fld, pack32, BitVec.cast_eq, BitVec.extractLsb'_append_eq_of_le, BitVec.extractLsb'_append_eq_of_add_le]; simp)).trans
      (by simp (disch := decide) only [parseMO20, fld, pack32, BitVec.cast_eq, BitVec.extractLsb'_append_eq_of_le, BitVec.extractLsb'_append_eq_of_add_le]; simp))

theorem vcle (e : BitVec 2) (a : BitVec 3) (l : BitVec 1) (b : BitVec 3) (m : BitVec 1) (k : BitVec 2) (t : BitVec 4) : Statement (.vcle e a l b m k t) :=
  of_parse32 _ _ rfl (by simp (disch := decide) only [fld, pack32, BitVec.cast_eq, BitVec.extractLsb'_append_eq_of_le, BitVec.extractLsb'_append_eq_of_add_le]; simp)
    (by simp (disch := decide) only [fld, pack32, BitVec.cast_eq, BitVec.extractLsb'_append_eq_of_le, BitVec.extractLsb'_append_eq_of_add_le]; simp)
    ((parse_20 _ (by simp (disch := decide) only [fld, pack32, BitVec.cast_eq, BitVec.extractLsb'_append_eq_of_le, BitVec.extractLsb'_append_eq_of_add_le]; simp)).trans
      (by simp (disch := decide) only [parseMO20, fld, pack32, BitVec.cast_eq, BitVec.extractLsb'_append_eq_of_le, BitVec.extractLsb'_append_eq_of_add_le]; simp))

theorem vsel (d a : BitVec 3) (l : BitVec 1) (b : BitVec 3) (m : BitVec 1) (k : BitVec 2) (t : BitVec 4) : Statement (.vsel d a l b m k t) :=
  of_parse32 _ _ rfl (by simp (disch := decide) only [fld, pack32, BitVec.cast_eq, BitVec.extractLsb'_append_eq_of_le, BitVec.extractLsb'_append_eq_of_add_le]; simp)
    (by simp (disch := decide) only [fld, pack32, BitVec.cast_eq, BitVec.extractLsb'_append_eq_of_le, BitVec.extractLsb'_append_eq_of_add_le]; simp)
    ((parse_20 _ (by simp (disch := decide) only [fld, pack32, BitVec.cast_eq, BitVec.extractLsb'_append_eq_of_le, BitVec.extractLsb'_append_eq_of_add_le]; simp)).trans
      (by simp (disch := decide) only [parseMO20, fld, pack32, BitVec.cast_eq, BitVec.extractLsb'_append_eq_of_le, BitVec.extractLsb'_append_eq_of_add_le]; simp))

theorem kand (e g h : BitVec 2) : Statement (.kand e g h) :=
  of_parse32 _ _ rfl (by simp (disch := decide) only [fld, pack32, BitVec.cast_eq, BitVec.extractLsb'_append_eq_of_le, BitVec.extractLsb'_append_eq_of_add_le]; simp)
    (by simp (disch := decide) only [fld, pack32, BitVec.cast_eq, BitVec.extractLsb'_append_eq_of_le, BitVec.extractLsb'_append_eq_of_add_le]; simp)
    ((parse_20 _ (by simp (disch := decide) only [fld, pack32, BitVec.cast_eq, BitVec.extractLsb'_append_eq_of_le, BitVec.extractLsb'_append_eq_of_add_le]; simp)).trans
      (by simp (disch := decide) only [parseMO20, fld, pack32, BitVec.cast_eq, BitVec.extractLsb'_append_eq_of_le, BitVec.extractLsb'_append_eq_of_add_le]; simp))

theorem kor (e g h : BitVec 2) : Statement (.kor e g h) :=
  of_parse32 _ _ rfl (by simp (disch := decide) only [fld, pack32, BitVec.cast_eq, BitVec.extractLsb'_append_eq_of_le, BitVec.extractLsb'_append_eq_of_add_le]; simp)
    (by simp (disch := decide) only [fld, pack32, BitVec.cast_eq, BitVec.extractLsb'_append_eq_of_le, BitVec.extractLsb'_append_eq_of_add_le]; simp)
    ((parse_20 _ (by simp (disch := decide) only [fld, pack32, BitVec.cast_eq, BitVec.extractLsb'_append_eq_of_le, BitVec.extractLsb'_append_eq_of_add_le]; simp)).trans
      (by simp (disch := decide) only [parseMO20, fld, pack32, BitVec.cast_eq, BitVec.extractLsb'_append_eq_of_le, BitVec.extractLsb'_append_eq_of_add_le]; simp))

theorem kxor (e g h : BitVec 2) : Statement (.kxor e g h) :=
  of_parse32 _ _ rfl (by simp (disch := decide) only [fld, pack32, BitVec.cast_eq, BitVec.extractLsb'_append_eq_of_le, BitVec.extractLsb'_append_eq_of_add_le]; simp)
    (by simp (disch := decide) only [fld, pack32, BitVec.cast_eq, BitVec.extractLsb'_append_eq_of_le, BitVec.extractLsb'_append_eq_of_add_le]; simp)
    ((parse_20 _ (by simp (disch := decide) only [fld, pack32, BitVec.cast_eq, BitVec.extractLsb'_append_eq_of_le, BitVec.extractLsb'_append_eq_of_add_le]; simp)).trans
      (by simp (disch := decide) only [parseMO20, fld, pack32, BitVec.cast_eq, BitVec.extractLsb'_append_eq_of_le, BitVec.extractLsb'_append_eq_of_add_le]; simp))

theorem knot (e g : BitVec 2) : Statement (.knot e g) :=
  of_parse32 _ _ rfl (by simp (disch := decide) only [fld, pack32, BitVec.cast_eq, BitVec.extractLsb'_append_eq_of_le, BitVec.extractLsb'_append_eq_of_add_le]; simp)
    (by simp (disch := decide) only [fld, pack32, BitVec.cast_eq, BitVec.extractLsb'_append_eq_of_le, BitVec.extractLsb'_append_eq_of_add_le]; simp)
    ((parse_20 _ (by simp (disch := decide) only [fld, pack32, BitVec.cast_eq, BitVec.extractLsb'_append_eq_of_le, BitVec.extractLsb'_append_eq_of_add_le]; simp)).trans
      (by simp (disch := decide) only [parseMO20, fld, pack32, BitVec.cast_eq, BitVec.extractLsb'_append_eq_of_le, BitVec.extractLsb'_append_eq_of_add_le]; simp))

theorem parse_21 (w : BitVec 32) (h : fld w 25 6 = 0x21#6) : parse32 w = parseMO21 w := by simp only [parse32, h]

theorem vperm (d a : BitVec 3) (l : BitVec 1) (b : BitVec 3) (m : BitVec 1) (k : BitVec 2) (t : BitVec 4) : Statement (.vperm d a l b m k t) :=
  of_parse32 _ _ rfl (by simp (disch := decide) only [fld, pack32, BitVec.cast_eq, BitVec.extractLsb'_append_eq_of_le, BitVec.extractLsb'_append_eq_of_add_le]; simp)
    (by simp (disch := decide) only [fld, pack32, BitVec.cast_eq, BitVec.extractLsb'_append_eq_of_le, BitVec.extractLsb'_append_eq_of_add_le]; simp)
    ((parse_21 _ (by simp (disch := decide) only [fld, pack32, BitVec.cast_eq, BitVec.extractLsb'_append_eq_of_le, BitVec.extractLsb'_append_eq_of_add_le]; simp)).trans
      (by simp (disch := decide) only [parseMO21, fld, pack32, BitVec.cast_eq, BitVec.extractLsb'_append_eq_of_le, BitVec.extractLsb'_append_eq_of_add_le]; simp))

theorem vbcast (d a : BitVec 3) (l : BitVec 1) (b : BitVec 3) (m : BitVec 1) (k : BitVec 2) (t : BitVec 4) : Statement (.vbcast d a l b m k t) :=
  of_parse32 _ _ rfl (by simp (disch := decide) only [fld, pack32, BitVec.cast_eq, BitVec.extractLsb'_append_eq_of_le, BitVec.extractLsb'_append_eq_of_add_le]; simp)
    (by simp (disch := decide) only [fld, pack32, BitVec.cast_eq, BitVec.extractLsb'_append_eq_of_le, BitVec.extractLsb'_append_eq_of_add_le]; simp)
    ((parse_21 _ (by simp (disch := decide) only [fld, pack32, BitVec.cast_eq, BitVec.extractLsb'_append_eq_of_le, BitVec.extractLsb'_append_eq_of_add_le]; simp)).trans
      (by simp (disch := decide) only [parseMO21, fld, pack32, BitVec.cast_eq, BitVec.extractLsb'_append_eq_of_le, BitVec.extractLsb'_append_eq_of_add_le]; simp))

theorem vrev (d a : BitVec 3) (l : BitVec 1) (k : BitVec 2) (t : BitVec 4) : Statement (.vrev d a l k t) :=
  of_parse32 _ _ rfl (by simp (disch := decide) only [fld, pack32, BitVec.cast_eq, BitVec.extractLsb'_append_eq_of_le, BitVec.extractLsb'_append_eq_of_add_le]; simp)
    (by simp (disch := decide) only [fld, pack32, BitVec.cast_eq, BitVec.extractLsb'_append_eq_of_le, BitVec.extractLsb'_append_eq_of_add_le]; simp)
    ((parse_21 _ (by simp (disch := decide) only [fld, pack32, BitVec.cast_eq, BitVec.extractLsb'_append_eq_of_le, BitVec.extractLsb'_append_eq_of_add_le]; simp)).trans
      (by simp (disch := decide) only [parseMO21, fld, pack32, BitVec.cast_eq, BitVec.extractLsb'_append_eq_of_le, BitVec.extractLsb'_append_eq_of_add_le]; simp))

theorem vzipl (d a : BitVec 3) (l : BitVec 1) (b : BitVec 3) (m : BitVec 1) (k : BitVec 2) (t : BitVec 4) : Statement (.vzipl d a l b m k t) :=
  of_parse32 _ _ rfl (by simp (disch := decide) only [fld, pack32, BitVec.cast_eq, BitVec.extractLsb'_append_eq_of_le, BitVec.extractLsb'_append_eq_of_add_le]; simp)
    (by simp (disch := decide) only [fld, pack32, BitVec.cast_eq, BitVec.extractLsb'_append_eq_of_le, BitVec.extractLsb'_append_eq_of_add_le]; simp)
    ((parse_21 _ (by simp (disch := decide) only [fld, pack32, BitVec.cast_eq, BitVec.extractLsb'_append_eq_of_le, BitVec.extractLsb'_append_eq_of_add_le]; simp)).trans
      (by simp (disch := decide) only [parseMO21, fld, pack32, BitVec.cast_eq, BitVec.extractLsb'_append_eq_of_le, BitVec.extractLsb'_append_eq_of_add_le]; simp))

theorem vziph (d a : BitVec 3) (l : BitVec 1) (b : BitVec 3) (m : BitVec 1) (k : BitVec 2) (t : BitVec 4) : Statement (.vziph d a l b m k t) :=
  of_parse32 _ _ rfl (by simp (disch := decide) only [fld, pack32, BitVec.cast_eq, BitVec.extractLsb'_append_eq_of_le, BitVec.extractLsb'_append_eq_of_add_le]; simp)
    (by simp (disch := decide) only [fld, pack32, BitVec.cast_eq, BitVec.extractLsb'_append_eq_of_le, BitVec.extractLsb'_append_eq_of_add_le]; simp)
    ((parse_21 _ (by simp (disch := decide) only [fld, pack32, BitVec.cast_eq, BitVec.extractLsb'_append_eq_of_le, BitVec.extractLsb'_append_eq_of_add_le]; simp)).trans
      (by simp (disch := decide) only [parseMO21, fld, pack32, BitVec.cast_eq, BitVec.extractLsb'_append_eq_of_le, BitVec.extractLsb'_append_eq_of_add_le]; simp))

theorem vuzpe (d a : BitVec 3) (l : BitVec 1) (b : BitVec 3) (m : BitVec 1) (k : BitVec 2) (t : BitVec 4) : Statement (.vuzpe d a l b m k t) :=
  of_parse32 _ _ rfl (by simp (disch := decide) only [fld, pack32, BitVec.cast_eq, BitVec.extractLsb'_append_eq_of_le, BitVec.extractLsb'_append_eq_of_add_le]; simp)
    (by simp (disch := decide) only [fld, pack32, BitVec.cast_eq, BitVec.extractLsb'_append_eq_of_le, BitVec.extractLsb'_append_eq_of_add_le]; simp)
    ((parse_21 _ (by simp (disch := decide) only [fld, pack32, BitVec.cast_eq, BitVec.extractLsb'_append_eq_of_le, BitVec.extractLsb'_append_eq_of_add_le]; simp)).trans
      (by simp (disch := decide) only [parseMO21, fld, pack32, BitVec.cast_eq, BitVec.extractLsb'_append_eq_of_le, BitVec.extractLsb'_append_eq_of_add_le]; simp))

theorem vuzpo (d a : BitVec 3) (l : BitVec 1) (b : BitVec 3) (m : BitVec 1) (k : BitVec 2) (t : BitVec 4) : Statement (.vuzpo d a l b m k t) :=
  of_parse32 _ _ rfl (by simp (disch := decide) only [fld, pack32, BitVec.cast_eq, BitVec.extractLsb'_append_eq_of_le, BitVec.extractLsb'_append_eq_of_add_le]; simp)
    (by simp (disch := decide) only [fld, pack32, BitVec.cast_eq, BitVec.extractLsb'_append_eq_of_le, BitVec.extractLsb'_append_eq_of_add_le]; simp)
    ((parse_21 _ (by simp (disch := decide) only [fld, pack32, BitVec.cast_eq, BitVec.extractLsb'_append_eq_of_le, BitVec.extractLsb'_append_eq_of_add_le]; simp)).trans
      (by simp (disch := decide) only [parseMO21, fld, pack32, BitVec.cast_eq, BitVec.extractLsb'_append_eq_of_le, BitVec.extractLsb'_append_eq_of_add_le]; simp))

theorem parse_22 (w : BitVec 32) (h : fld w 25 6 = 0x22#6) : parse32 w = parseMO22 w := by simp only [parse32, h]

theorem vrsum (d a : BitVec 3) (l : BitVec 1) (k : BitVec 2) (t : BitVec 4) : Statement (.vrsum d a l k t) :=
  of_parse32 _ _ rfl (by simp (disch := decide) only [fld, pack32, BitVec.cast_eq, BitVec.extractLsb'_append_eq_of_le, BitVec.extractLsb'_append_eq_of_add_le]; simp)
    (by simp (disch := decide) only [fld, pack32, BitVec.cast_eq, BitVec.extractLsb'_append_eq_of_le, BitVec.extractLsb'_append_eq_of_add_le]; simp)
    ((parse_22 _ (by simp (disch := decide) only [fld, pack32, BitVec.cast_eq, BitVec.extractLsb'_append_eq_of_le, BitVec.extractLsb'_append_eq_of_add_le]; simp)).trans
      (by simp (disch := decide) only [parseMO22, fld, pack32, BitVec.cast_eq, BitVec.extractLsb'_append_eq_of_le, BitVec.extractLsb'_append_eq_of_add_le]; simp))

theorem vrmin (d a : BitVec 3) (l : BitVec 1) (k : BitVec 2) (t : BitVec 4) : Statement (.vrmin d a l k t) :=
  of_parse32 _ _ rfl (by simp (disch := decide) only [fld, pack32, BitVec.cast_eq, BitVec.extractLsb'_append_eq_of_le, BitVec.extractLsb'_append_eq_of_add_le]; simp)
    (by simp (disch := decide) only [fld, pack32, BitVec.cast_eq, BitVec.extractLsb'_append_eq_of_le, BitVec.extractLsb'_append_eq_of_add_le]; simp)
    ((parse_22 _ (by simp (disch := decide) only [fld, pack32, BitVec.cast_eq, BitVec.extractLsb'_append_eq_of_le, BitVec.extractLsb'_append_eq_of_add_le]; simp)).trans
      (by simp (disch := decide) only [parseMO22, fld, pack32, BitVec.cast_eq, BitVec.extractLsb'_append_eq_of_le, BitVec.extractLsb'_append_eq_of_add_le]; simp))

theorem vrmax (d a : BitVec 3) (l : BitVec 1) (k : BitVec 2) (t : BitVec 4) : Statement (.vrmax d a l k t) :=
  of_parse32 _ _ rfl (by simp (disch := decide) only [fld, pack32, BitVec.cast_eq, BitVec.extractLsb'_append_eq_of_le, BitVec.extractLsb'_append_eq_of_add_le]; simp)
    (by simp (disch := decide) only [fld, pack32, BitVec.cast_eq, BitVec.extractLsb'_append_eq_of_le, BitVec.extractLsb'_append_eq_of_add_le]; simp)
    ((parse_22 _ (by simp (disch := decide) only [fld, pack32, BitVec.cast_eq, BitVec.extractLsb'_append_eq_of_le, BitVec.extractLsb'_append_eq_of_add_le]; simp)).trans
      (by simp (disch := decide) only [parseMO22, fld, pack32, BitVec.cast_eq, BitVec.extractLsb'_append_eq_of_le, BitVec.extractLsb'_append_eq_of_add_le]; simp))

theorem vrand (d a : BitVec 3) (l : BitVec 1) (k : BitVec 2) (t : BitVec 4) : Statement (.vrand d a l k t) :=
  of_parse32 _ _ rfl (by simp (disch := decide) only [fld, pack32, BitVec.cast_eq, BitVec.extractLsb'_append_eq_of_le, BitVec.extractLsb'_append_eq_of_add_le]; simp)
    (by simp (disch := decide) only [fld, pack32, BitVec.cast_eq, BitVec.extractLsb'_append_eq_of_le, BitVec.extractLsb'_append_eq_of_add_le]; simp)
    ((parse_22 _ (by simp (disch := decide) only [fld, pack32, BitVec.cast_eq, BitVec.extractLsb'_append_eq_of_le, BitVec.extractLsb'_append_eq_of_add_le]; simp)).trans
      (by simp (disch := decide) only [parseMO22, fld, pack32, BitVec.cast_eq, BitVec.extractLsb'_append_eq_of_le, BitVec.extractLsb'_append_eq_of_add_le]; simp))

theorem vror (d a : BitVec 3) (l : BitVec 1) (k : BitVec 2) (t : BitVec 4) : Statement (.vror d a l k t) :=
  of_parse32 _ _ rfl (by simp (disch := decide) only [fld, pack32, BitVec.cast_eq, BitVec.extractLsb'_append_eq_of_le, BitVec.extractLsb'_append_eq_of_add_le]; simp)
    (by simp (disch := decide) only [fld, pack32, BitVec.cast_eq, BitVec.extractLsb'_append_eq_of_le, BitVec.extractLsb'_append_eq_of_add_le]; simp)
    ((parse_22 _ (by simp (disch := decide) only [fld, pack32, BitVec.cast_eq, BitVec.extractLsb'_append_eq_of_le, BitVec.extractLsb'_append_eq_of_add_le]; simp)).trans
      (by simp (disch := decide) only [parseMO22, fld, pack32, BitVec.cast_eq, BitVec.extractLsb'_append_eq_of_le, BitVec.extractLsb'_append_eq_of_add_le]; simp))

theorem vrxor (d a : BitVec 3) (l : BitVec 1) (k : BitVec 2) (t : BitVec 4) : Statement (.vrxor d a l k t) :=
  of_parse32 _ _ rfl (by simp (disch := decide) only [fld, pack32, BitVec.cast_eq, BitVec.extractLsb'_append_eq_of_le, BitVec.extractLsb'_append_eq_of_add_le]; simp)
    (by simp (disch := decide) only [fld, pack32, BitVec.cast_eq, BitVec.extractLsb'_append_eq_of_le, BitVec.extractLsb'_append_eq_of_add_le]; simp)
    ((parse_22 _ (by simp (disch := decide) only [fld, pack32, BitVec.cast_eq, BitVec.extractLsb'_append_eq_of_le, BitVec.extractLsb'_append_eq_of_add_le]; simp)).trans
      (by simp (disch := decide) only [parseMO22, fld, pack32, BitVec.cast_eq, BitVec.extractLsb'_append_eq_of_le, BitVec.extractLsb'_append_eq_of_add_le]; simp))

theorem parse_23 (w : BitVec 32) (h : fld w 25 6 = 0x23#6) : parse32 w = parseMO23 w := by simp only [parse32, h]

theorem vmovOV (v : BitVec 5) (o : BitVec 3) : Statement (.vmovOV v o) :=
  of_parse32 _ _ rfl (by simp (disch := decide) only [fld, pack32, BitVec.cast_eq, BitVec.extractLsb'_append_eq_of_le, BitVec.extractLsb'_append_eq_of_add_le]; simp)
    (by simp (disch := decide) only [fld, pack32, BitVec.cast_eq, BitVec.extractLsb'_append_eq_of_le, BitVec.extractLsb'_append_eq_of_add_le]; simp)
    ((parse_23 _ (by simp (disch := decide) only [fld, pack32, BitVec.cast_eq, BitVec.extractLsb'_append_eq_of_le, BitVec.extractLsb'_append_eq_of_add_le]; simp)).trans
      (by simp (disch := decide) only [parseMO23, fld, pack32, BitVec.cast_eq, BitVec.extractLsb'_append_eq_of_le, BitVec.extractLsb'_append_eq_of_add_le]; simp))

theorem vmovVO (v : BitVec 5) (o : BitVec 3) (l : BitVec 1) : Statement (.vmovVO v o l) :=
  of_parse32 _ _ rfl (by simp (disch := decide) only [fld, pack32, BitVec.cast_eq, BitVec.extractLsb'_append_eq_of_le, BitVec.extractLsb'_append_eq_of_add_le]; simp)
    (by simp (disch := decide) only [fld, pack32, BitVec.cast_eq, BitVec.extractLsb'_append_eq_of_le, BitVec.extractLsb'_append_eq_of_add_le]; simp)
    ((parse_23 _ (by simp (disch := decide) only [fld, pack32, BitVec.cast_eq, BitVec.extractLsb'_append_eq_of_le, BitVec.extractLsb'_append_eq_of_add_le]; simp)).trans
      (by simp (disch := decide) only [parseMO23, fld, pack32, BitVec.cast_eq, BitVec.extractLsb'_append_eq_of_le, BitVec.extractLsb'_append_eq_of_add_le]; simp))

theorem vmovOport (p : BitVec 5) (o : BitVec 3) (w : BitVec 1) : Statement (.vmovOport p o w) :=
  of_parse32 _ _ rfl (by simp (disch := decide) only [fld, pack32, BitVec.cast_eq, BitVec.extractLsb'_append_eq_of_le, BitVec.extractLsb'_append_eq_of_add_le]; simp)
    (by simp (disch := decide) only [fld, pack32, BitVec.cast_eq, BitVec.extractLsb'_append_eq_of_le, BitVec.extractLsb'_append_eq_of_add_le]; simp)
    ((parse_23 _ (by simp (disch := decide) only [fld, pack32, BitVec.cast_eq, BitVec.extractLsb'_append_eq_of_le, BitVec.extractLsb'_append_eq_of_add_le]; simp)).trans
      (by simp (disch := decide) only [parseMO23, fld, pack32, BitVec.cast_eq, BitVec.extractLsb'_append_eq_of_le, BitVec.extractLsb'_append_eq_of_add_le]; simp))

theorem vmovPorto (p : BitVec 5) (o : BitVec 3) (l : BitVec 1) : Statement (.vmovPorto p o l) :=
  of_parse32 _ _ rfl (by simp (disch := decide) only [fld, pack32, BitVec.cast_eq, BitVec.extractLsb'_append_eq_of_le, BitVec.extractLsb'_append_eq_of_add_le]; simp)
    (by simp (disch := decide) only [fld, pack32, BitVec.cast_eq, BitVec.extractLsb'_append_eq_of_le, BitVec.extractLsb'_append_eq_of_add_le]; simp)
    ((parse_23 _ (by simp (disch := decide) only [fld, pack32, BitVec.cast_eq, BitVec.extractLsb'_append_eq_of_le, BitVec.extractLsb'_append_eq_of_add_le]; simp)).trans
      (by simp (disch := decide) only [parseMO23, fld, pack32, BitVec.cast_eq, BitVec.extractLsb'_append_eq_of_le, BitVec.extractLsb'_append_eq_of_add_le]; simp))

theorem vmovOO (m o : BitVec 3) (l : BitVec 1) : Statement (.vmovOO m o l) :=
  of_parse32 _ _ rfl (by simp (disch := decide) only [fld, pack32, BitVec.cast_eq, BitVec.extractLsb'_append_eq_of_le, BitVec.extractLsb'_append_eq_of_add_le]; simp)
    (by simp (disch := decide) only [fld, pack32, BitVec.cast_eq, BitVec.extractLsb'_append_eq_of_le, BitVec.extractLsb'_append_eq_of_add_le]; simp)
    ((parse_23 _ (by simp (disch := decide) only [fld, pack32, BitVec.cast_eq, BitVec.extractLsb'_append_eq_of_le, BitVec.extractLsb'_append_eq_of_add_le]; simp)).trans
      (by simp (disch := decide) only [parseMO23, fld, pack32, BitVec.cast_eq, BitVec.extractLsb'_append_eq_of_le, BitVec.extractLsb'_append_eq_of_add_le]; simp))

theorem vsplat (g : BitVec 5) (o : BitVec 3) (t : BitVec 4) : Statement (.vsplat g o t) :=
  of_parse32 _ _ rfl (by simp (disch := decide) only [fld, pack32, BitVec.cast_eq, BitVec.extractLsb'_append_eq_of_le, BitVec.extractLsb'_append_eq_of_add_le]; simp)
    (by simp (disch := decide) only [fld, pack32, BitVec.cast_eq, BitVec.extractLsb'_append_eq_of_le, BitVec.extractLsb'_append_eq_of_add_le]; simp)
    ((parse_23 _ (by simp (disch := decide) only [fld, pack32, BitVec.cast_eq, BitVec.extractLsb'_append_eq_of_le, BitVec.extractLsb'_append_eq_of_add_le]; simp)).trans
      (by simp (disch := decide) only [parseMO23, fld, pack32, BitVec.cast_eq, BitVec.extractLsb'_append_eq_of_le, BitVec.extractLsb'_append_eq_of_add_le]; simp))

theorem vext (g : BitVec 5) (o : BitVec 3) (l : BitVec 1) (n : BitVec 5) (t : BitVec 4) : Statement (.vext g o l n t) :=
  of_parse32 _ _ rfl (by simp (disch := decide) only [fld, pack32, BitVec.cast_eq, BitVec.extractLsb'_append_eq_of_le, BitVec.extractLsb'_append_eq_of_add_le]; simp)
    (by simp (disch := decide) only [fld, pack32, BitVec.cast_eq, BitVec.extractLsb'_append_eq_of_le, BitVec.extractLsb'_append_eq_of_add_le]; simp)
    ((parse_23 _ (by simp (disch := decide) only [fld, pack32, BitVec.cast_eq, BitVec.extractLsb'_append_eq_of_le, BitVec.extractLsb'_append_eq_of_add_le]; simp)).trans
      (by simp (disch := decide) only [parseMO23, fld, pack32, BitVec.cast_eq, BitVec.extractLsb'_append_eq_of_le, BitVec.extractLsb'_append_eq_of_add_le]; simp))

theorem vins (g : BitVec 5) (o : BitVec 3) (n : BitVec 5) (t : BitVec 4) : Statement (.vins g o n t) :=
  of_parse32 _ _ rfl (by simp (disch := decide) only [fld, pack32, BitVec.cast_eq, BitVec.extractLsb'_append_eq_of_le, BitVec.extractLsb'_append_eq_of_add_le]; simp)
    (by simp (disch := decide) only [fld, pack32, BitVec.cast_eq, BitVec.extractLsb'_append_eq_of_le, BitVec.extractLsb'_append_eq_of_add_le]; simp)
    ((parse_23 _ (by simp (disch := decide) only [fld, pack32, BitVec.cast_eq, BitVec.extractLsb'_append_eq_of_le, BitVec.extractLsb'_append_eq_of_add_le]; simp)).trans
      (by simp (disch := decide) only [parseMO23, fld, pack32, BitVec.cast_eq, BitVec.extractLsb'_append_eq_of_le, BitVec.extractLsb'_append_eq_of_add_le]; simp))

theorem kmovKG (g : BitVec 5) (k : BitVec 2) : Statement (.kmovKG g k) :=
  of_parse32 _ _ rfl (by simp (disch := decide) only [fld, pack32, BitVec.cast_eq, BitVec.extractLsb'_append_eq_of_le, BitVec.extractLsb'_append_eq_of_add_le]; simp)
    (by simp (disch := decide) only [fld, pack32, BitVec.cast_eq, BitVec.extractLsb'_append_eq_of_le, BitVec.extractLsb'_append_eq_of_add_le]; simp)
    ((parse_23 _ (by simp (disch := decide) only [fld, pack32, BitVec.cast_eq, BitVec.extractLsb'_append_eq_of_le, BitVec.extractLsb'_append_eq_of_add_le]; simp)).trans
      (by simp (disch := decide) only [parseMO23, fld, pack32, BitVec.cast_eq, BitVec.extractLsb'_append_eq_of_le, BitVec.extractLsb'_append_eq_of_add_le]; simp))

theorem kmovGK (g : BitVec 5) (k : BitVec 2) : Statement (.kmovGK g k) :=
  of_parse32 _ _ rfl (by simp (disch := decide) only [fld, pack32, BitVec.cast_eq, BitVec.extractLsb'_append_eq_of_le, BitVec.extractLsb'_append_eq_of_add_le]; simp)
    (by simp (disch := decide) only [fld, pack32, BitVec.cast_eq, BitVec.extractLsb'_append_eq_of_le, BitVec.extractLsb'_append_eq_of_add_le]; simp)
    ((parse_23 _ (by simp (disch := decide) only [fld, pack32, BitVec.cast_eq, BitVec.extractLsb'_append_eq_of_le, BitVec.extractLsb'_append_eq_of_add_le]; simp)).trans
      (by simp (disch := decide) only [parseMO23, fld, pack32, BitVec.cast_eq, BitVec.extractLsb'_append_eq_of_le, BitVec.extractLsb'_append_eq_of_add_le]; simp))

theorem parse_24 (w : BitVec 32) (h : fld w 25 6 = 0x24#6) : parse32 w = parseMO24 w := by simp only [parse32, h]

theorem vexp2 (d a : BitVec 3) (l : BitVec 1) (k : BitVec 2) (t : BitVec 4) : Statement (.vexp2 d a l k t) :=
  of_parse32 _ _ rfl (by simp (disch := decide) only [fld, pack32, BitVec.cast_eq, BitVec.extractLsb'_append_eq_of_le, BitVec.extractLsb'_append_eq_of_add_le]; simp)
    (by simp (disch := decide) only [fld, pack32, BitVec.cast_eq, BitVec.extractLsb'_append_eq_of_le, BitVec.extractLsb'_append_eq_of_add_le]; simp)
    ((parse_24 _ (by simp (disch := decide) only [fld, pack32, BitVec.cast_eq, BitVec.extractLsb'_append_eq_of_le, BitVec.extractLsb'_append_eq_of_add_le]; simp)).trans
      (by simp (disch := decide) only [parseMO24, fld, pack32, BitVec.cast_eq, BitVec.extractLsb'_append_eq_of_le, BitVec.extractLsb'_append_eq_of_add_le]; simp))

theorem vlog2 (d a : BitVec 3) (l : BitVec 1) (k : BitVec 2) (t : BitVec 4) : Statement (.vlog2 d a l k t) :=
  of_parse32 _ _ rfl (by simp (disch := decide) only [fld, pack32, BitVec.cast_eq, BitVec.extractLsb'_append_eq_of_le, BitVec.extractLsb'_append_eq_of_add_le]; simp)
    (by simp (disch := decide) only [fld, pack32, BitVec.cast_eq, BitVec.extractLsb'_append_eq_of_le, BitVec.extractLsb'_append_eq_of_add_le]; simp)
    ((parse_24 _ (by simp (disch := decide) only [fld, pack32, BitVec.cast_eq, BitVec.extractLsb'_append_eq_of_le, BitVec.extractLsb'_append_eq_of_add_le]; simp)).trans
      (by simp (disch := decide) only [parseMO24, fld, pack32, BitVec.cast_eq, BitVec.extractLsb'_append_eq_of_le, BitVec.extractLsb'_append_eq_of_add_le]; simp))

theorem vrcp (d a : BitVec 3) (l : BitVec 1) (k : BitVec 2) (t : BitVec 4) : Statement (.vrcp d a l k t) :=
  of_parse32 _ _ rfl (by simp (disch := decide) only [fld, pack32, BitVec.cast_eq, BitVec.extractLsb'_append_eq_of_le, BitVec.extractLsb'_append_eq_of_add_le]; simp)
    (by simp (disch := decide) only [fld, pack32, BitVec.cast_eq, BitVec.extractLsb'_append_eq_of_le, BitVec.extractLsb'_append_eq_of_add_le]; simp)
    ((parse_24 _ (by simp (disch := decide) only [fld, pack32, BitVec.cast_eq, BitVec.extractLsb'_append_eq_of_le, BitVec.extractLsb'_append_eq_of_add_le]; simp)).trans
      (by simp (disch := decide) only [parseMO24, fld, pack32, BitVec.cast_eq, BitVec.extractLsb'_append_eq_of_le, BitVec.extractLsb'_append_eq_of_add_le]; simp))

theorem vrsq (d a : BitVec 3) (l : BitVec 1) (k : BitVec 2) (t : BitVec 4) : Statement (.vrsq d a l k t) :=
  of_parse32 _ _ rfl (by simp (disch := decide) only [fld, pack32, BitVec.cast_eq, BitVec.extractLsb'_append_eq_of_le, BitVec.extractLsb'_append_eq_of_add_le]; simp)
    (by simp (disch := decide) only [fld, pack32, BitVec.cast_eq, BitVec.extractLsb'_append_eq_of_le, BitVec.extractLsb'_append_eq_of_add_le]; simp)
    ((parse_24 _ (by simp (disch := decide) only [fld, pack32, BitVec.cast_eq, BitVec.extractLsb'_append_eq_of_le, BitVec.extractLsb'_append_eq_of_add_le]; simp)).trans
      (by simp (disch := decide) only [parseMO24, fld, pack32, BitVec.cast_eq, BitVec.extractLsb'_append_eq_of_le, BitVec.extractLsb'_append_eq_of_add_le]; simp))

theorem vsinpi (d a : BitVec 3) (l : BitVec 1) (k : BitVec 2) (t : BitVec 4) : Statement (.vsinpi d a l k t) :=
  of_parse32 _ _ rfl (by simp (disch := decide) only [fld, pack32, BitVec.cast_eq, BitVec.extractLsb'_append_eq_of_le, BitVec.extractLsb'_append_eq_of_add_le]; simp)
    (by simp (disch := decide) only [fld, pack32, BitVec.cast_eq, BitVec.extractLsb'_append_eq_of_le, BitVec.extractLsb'_append_eq_of_add_le]; simp)
    ((parse_24 _ (by simp (disch := decide) only [fld, pack32, BitVec.cast_eq, BitVec.extractLsb'_append_eq_of_le, BitVec.extractLsb'_append_eq_of_add_le]; simp)).trans
      (by simp (disch := decide) only [parseMO24, fld, pack32, BitVec.cast_eq, BitVec.extractLsb'_append_eq_of_le, BitVec.extractLsb'_append_eq_of_add_le]; simp))

theorem vcospi (d a : BitVec 3) (l : BitVec 1) (k : BitVec 2) (t : BitVec 4) : Statement (.vcospi d a l k t) :=
  of_parse32 _ _ rfl (by simp (disch := decide) only [fld, pack32, BitVec.cast_eq, BitVec.extractLsb'_append_eq_of_le, BitVec.extractLsb'_append_eq_of_add_le]; simp)
    (by simp (disch := decide) only [fld, pack32, BitVec.cast_eq, BitVec.extractLsb'_append_eq_of_le, BitVec.extractLsb'_append_eq_of_add_le]; simp)
    ((parse_24 _ (by simp (disch := decide) only [fld, pack32, BitVec.cast_eq, BitVec.extractLsb'_append_eq_of_le, BitVec.extractLsb'_append_eq_of_add_le]; simp)).trans
      (by simp (disch := decide) only [parseMO24, fld, pack32, BitVec.cast_eq, BitVec.extractLsb'_append_eq_of_le, BitVec.extractLsb'_append_eq_of_add_le]; simp))

theorem parse_25 (w : BitVec 32) (h : fld w 25 6 = 0x25#6) : parse32 w = parseMO25 w := by simp only [parse32, h]

theorem dtld (b : BitVec 5) (s : BitVec 1) (o : BitVec 8) : Statement (.dtld b s o) :=
  of_parse32 _ _ rfl (by simp (disch := decide) only [fld, pack32, BitVec.cast_eq, BitVec.extractLsb'_append_eq_of_le, BitVec.extractLsb'_append_eq_of_add_le]; simp)
    (by simp (disch := decide) only [fld, pack32, BitVec.cast_eq, BitVec.extractLsb'_append_eq_of_le, BitVec.extractLsb'_append_eq_of_add_le]; simp)
    ((parse_25 _ (by simp (disch := decide) only [fld, pack32, BitVec.cast_eq, BitVec.extractLsb'_append_eq_of_le, BitVec.extractLsb'_append_eq_of_add_le]; simp)).trans
      (by simp (disch := decide) only [parseMO25, fld, pack32, BitVec.cast_eq, BitVec.extractLsb'_append_eq_of_le, BitVec.extractLsb'_append_eq_of_add_le]; simp))

theorem vdec (d a : BitVec 3) (l s : BitVec 1) (q : BitVec 3) (f : BitVec 2) : Statement (.vdec d a l s q f) :=
  of_parse32 _ _ rfl (by simp (disch := decide) only [fld, pack32, BitVec.cast_eq, BitVec.extractLsb'_append_eq_of_le, BitVec.extractLsb'_append_eq_of_add_le]; simp)
    (by simp (disch := decide) only [fld, pack32, BitVec.cast_eq, BitVec.extractLsb'_append_eq_of_le, BitVec.extractLsb'_append_eq_of_add_le]; simp)
    ((parse_25 _ (by simp (disch := decide) only [fld, pack32, BitVec.cast_eq, BitVec.extractLsb'_append_eq_of_le, BitVec.extractLsb'_append_eq_of_add_le]; simp)).trans
      (by simp (disch := decide) only [parseMO25, fld, pack32, BitVec.cast_eq, BitVec.extractLsb'_append_eq_of_le, BitVec.extractLsb'_append_eq_of_add_le]; simp))

theorem venc (d a : BitVec 3) (l s : BitVec 1) (q : BitVec 3) (f : BitVec 2) : Statement (.venc d a l s q f) :=
  of_parse32 _ _ rfl (by simp (disch := decide) only [fld, pack32, BitVec.cast_eq, BitVec.extractLsb'_append_eq_of_le, BitVec.extractLsb'_append_eq_of_add_le]; simp)
    (by simp (disch := decide) only [fld, pack32, BitVec.cast_eq, BitVec.extractLsb'_append_eq_of_le, BitVec.extractLsb'_append_eq_of_add_le]; simp)
    ((parse_25 _ (by simp (disch := decide) only [fld, pack32, BitVec.cast_eq, BitVec.extractLsb'_append_eq_of_le, BitVec.extractLsb'_append_eq_of_add_le]; simp)).trans
      (by simp (disch := decide) only [parseMO25, fld, pack32, BitVec.cast_eq, BitVec.extractLsb'_append_eq_of_le, BitVec.extractLsb'_append_eq_of_add_le]; simp))

theorem bld (d : BitVec 3) (b : BitVec 5) (s : BitVec 1) (f : BitVec 2) (o : BitVec 8) : Statement (.bld d b s f o) :=
  of_parse32 _ _ rfl (by simp (disch := decide) only [fld, pack32, BitVec.cast_eq, BitVec.extractLsb'_append_eq_of_le, BitVec.extractLsb'_append_eq_of_add_le]; simp)
    (by simp (disch := decide) only [fld, pack32, BitVec.cast_eq, BitVec.extractLsb'_append_eq_of_le, BitVec.extractLsb'_append_eq_of_add_le]; simp)
    ((parse_25 _ (by simp (disch := decide) only [fld, pack32, BitVec.cast_eq, BitVec.extractLsb'_append_eq_of_le, BitVec.extractLsb'_append_eq_of_add_le]; simp)).trans
      (by simp (disch := decide) only [parseMO25, fld, pack32, BitVec.cast_eq, BitVec.extractLsb'_append_eq_of_le, BitVec.extractLsb'_append_eq_of_add_le]; simp))

theorem bst (a : BitVec 3) (l : BitVec 1) (b : BitVec 5) (s : BitVec 1) (f : BitVec 2) (o : BitVec 8) : Statement (.bst a l b s f o) :=
  of_parse32 _ _ rfl (by simp (disch := decide) only [fld, pack32, BitVec.cast_eq, BitVec.extractLsb'_append_eq_of_le, BitVec.extractLsb'_append_eq_of_add_le]; simp)
    (by simp (disch := decide) only [fld, pack32, BitVec.cast_eq, BitVec.extractLsb'_append_eq_of_le, BitVec.extractLsb'_append_eq_of_add_le]; simp)
    ((parse_25 _ (by simp (disch := decide) only [fld, pack32, BitVec.cast_eq, BitVec.extractLsb'_append_eq_of_le, BitVec.extractLsb'_append_eq_of_add_le]; simp)).trans
      (by simp (disch := decide) only [parseMO25, fld, pack32, BitVec.cast_eq, BitVec.extractLsb'_append_eq_of_le, BitVec.extractLsb'_append_eq_of_add_le]; simp))

theorem parse_26 (w : BitVec 32) (h : fld w 25 6 = 0x26#6) : parse32 w = parseMO26 w := by simp only [parse32, h]

theorem twld (o t : BitVec 3) (a : BitVec 5) : Statement (.twld o t a) :=
  of_parse32 _ _ rfl (by simp (disch := decide) only [fld, pack32, BitVec.cast_eq, BitVec.extractLsb'_append_eq_of_le, BitVec.extractLsb'_append_eq_of_add_le]; simp)
    (by simp (disch := decide) only [fld, pack32, BitVec.cast_eq, BitVec.extractLsb'_append_eq_of_le, BitVec.extractLsb'_append_eq_of_add_le]; simp)
    ((parse_26 _ (by simp (disch := decide) only [fld, pack32, BitVec.cast_eq, BitVec.extractLsb'_append_eq_of_le, BitVec.extractLsb'_append_eq_of_add_le]; simp)).trans
      (by simp (disch := decide) only [parseMO26, fld, pack32, BitVec.cast_eq, BitVec.extractLsb'_append_eq_of_le, BitVec.extractLsb'_append_eq_of_add_le]; simp))

theorem twst (o : BitVec 3) (l : BitVec 1) (t : BitVec 3) (a : BitVec 5) : Statement (.twst o l t a) :=
  of_parse32 _ _ rfl (by simp (disch := decide) only [fld, pack32, BitVec.cast_eq, BitVec.extractLsb'_append_eq_of_le, BitVec.extractLsb'_append_eq_of_add_le]; simp)
    (by simp (disch := decide) only [fld, pack32, BitVec.cast_eq, BitVec.extractLsb'_append_eq_of_le, BitVec.extractLsb'_append_eq_of_add_le]; simp)
    ((parse_26 _ (by simp (disch := decide) only [fld, pack32, BitVec.cast_eq, BitVec.extractLsb'_append_eq_of_le, BitVec.extractLsb'_append_eq_of_add_le]; simp)).trans
      (by simp (disch := decide) only [parseMO26, fld, pack32, BitVec.cast_eq, BitVec.extractLsb'_append_eq_of_le, BitVec.extractLsb'_append_eq_of_add_le]; simp))

theorem parse_27 (w : BitVec 32) (h : fld w 25 6 = 0x27#6) : parse32 w = parseMO27 w := by simp only [parse32, h]

theorem qclaim (q : BitVec 3) : Statement (.qclaim q) :=
  of_parse32 _ _ rfl (by simp (disch := decide) only [fld, pack32, BitVec.cast_eq, BitVec.extractLsb'_append_eq_of_le, BitVec.extractLsb'_append_eq_of_add_le]; simp)
    (by simp (disch := decide) only [fld, pack32, BitVec.cast_eq, BitVec.extractLsb'_append_eq_of_le, BitVec.extractLsb'_append_eq_of_add_le]; simp)
    ((parse_27 _ (by simp (disch := decide) only [fld, pack32, BitVec.cast_eq, BitVec.extractLsb'_append_eq_of_le, BitVec.extractLsb'_append_eq_of_add_le]; simp)).trans
      (by simp (disch := decide) only [parseMO27, fld, pack32, BitVec.cast_eq, BitVec.extractLsb'_append_eq_of_le, BitVec.extractLsb'_append_eq_of_add_le]; simp))

theorem qtry (q : BitVec 3) (d : BitVec 5) : Statement (.qtry q d) :=
  of_parse32 _ _ rfl (by simp (disch := decide) only [fld, pack32, BitVec.cast_eq, BitVec.extractLsb'_append_eq_of_le, BitVec.extractLsb'_append_eq_of_add_le]; simp)
    (by simp (disch := decide) only [fld, pack32, BitVec.cast_eq, BitVec.extractLsb'_append_eq_of_le, BitVec.extractLsb'_append_eq_of_add_le]; simp)
    ((parse_27 _ (by simp (disch := decide) only [fld, pack32, BitVec.cast_eq, BitVec.extractLsb'_append_eq_of_le, BitVec.extractLsb'_append_eq_of_add_le]; simp)).trans
      (by simp (disch := decide) only [parseMO27, fld, pack32, BitVec.cast_eq, BitVec.extractLsb'_append_eq_of_le, BitVec.extractLsb'_append_eq_of_add_le]; simp))

theorem qrel (q : BitVec 3) : Statement (.qrel q) :=
  of_parse32 _ _ rfl (by simp (disch := decide) only [fld, pack32, BitVec.cast_eq, BitVec.extractLsb'_append_eq_of_le, BitVec.extractLsb'_append_eq_of_add_le]; simp)
    (by simp (disch := decide) only [fld, pack32, BitVec.cast_eq, BitVec.extractLsb'_append_eq_of_le, BitVec.extractLsb'_append_eq_of_add_le]; simp)
    ((parse_27 _ (by simp (disch := decide) only [fld, pack32, BitVec.cast_eq, BitVec.extractLsb'_append_eq_of_le, BitVec.extractLsb'_append_eq_of_add_le]; simp)).trans
      (by simp (disch := decide) only [parseMO27, fld, pack32, BitVec.cast_eq, BitVec.extractLsb'_append_eq_of_le, BitVec.extractLsb'_append_eq_of_add_le]; simp))

theorem qld (q : BitVec 3) (a : BitVec 5) (f : BitVec 2) (s : BitVec 1) : Statement (.qld q a f s) :=
  of_parse32 _ _ rfl (by simp (disch := decide) only [fld, pack32, BitVec.cast_eq, BitVec.extractLsb'_append_eq_of_le, BitVec.extractLsb'_append_eq_of_add_le]; simp)
    (by simp (disch := decide) only [fld, pack32, BitVec.cast_eq, BitVec.extractLsb'_append_eq_of_le, BitVec.extractLsb'_append_eq_of_add_le]; simp)
    ((parse_27 _ (by simp (disch := decide) only [fld, pack32, BitVec.cast_eq, BitVec.extractLsb'_append_eq_of_le, BitVec.extractLsb'_append_eq_of_add_le]; simp)).trans
      (by simp (disch := decide) only [parseMO27, fld, pack32, BitVec.cast_eq, BitVec.extractLsb'_append_eq_of_le, BitVec.extractLsb'_append_eq_of_add_le]; simp))

theorem qput (q : BitVec 3) (a : BitVec 5) (o : BitVec 3) (l : BitVec 1) : Statement (.qput q a o l) :=
  of_parse32 _ _ rfl (by simp (disch := decide) only [fld, pack32, BitVec.cast_eq, BitVec.extractLsb'_append_eq_of_le, BitVec.extractLsb'_append_eq_of_add_le]; simp)
    (by simp (disch := decide) only [fld, pack32, BitVec.cast_eq, BitVec.extractLsb'_append_eq_of_le, BitVec.extractLsb'_append_eq_of_add_le]; simp)
    ((parse_27 _ (by simp (disch := decide) only [fld, pack32, BitVec.cast_eq, BitVec.extractLsb'_append_eq_of_le, BitVec.extractLsb'_append_eq_of_add_le]; simp)).trans
      (by simp (disch := decide) only [parseMO27, fld, pack32, BitVec.cast_eq, BitVec.extractLsb'_append_eq_of_le, BitVec.extractLsb'_append_eq_of_add_le]; simp))

theorem qget (q : BitVec 3) (a : BitVec 5) (o : BitVec 3) : Statement (.qget q a o) :=
  of_parse32 _ _ rfl (by simp (disch := decide) only [fld, pack32, BitVec.cast_eq, BitVec.extractLsb'_append_eq_of_le, BitVec.extractLsb'_append_eq_of_add_le]; simp)
    (by simp (disch := decide) only [fld, pack32, BitVec.cast_eq, BitVec.extractLsb'_append_eq_of_le, BitVec.extractLsb'_append_eq_of_add_le]; simp)
    ((parse_27 _ (by simp (disch := decide) only [fld, pack32, BitVec.cast_eq, BitVec.extractLsb'_append_eq_of_le, BitVec.extractLsb'_append_eq_of_add_le]; simp)).trans
      (by simp (disch := decide) only [parseMO27, fld, pack32, BitVec.cast_eq, BitVec.extractLsb'_append_eq_of_le, BitVec.extractLsb'_append_eq_of_add_le]; simp))

theorem qlnk (q : BitVec 3) (p : BitVec 2) (w s : BitVec 1) : Statement (.qlnk q p w s) :=
  of_parse32 _ _ rfl (by simp (disch := decide) only [fld, pack32, BitVec.cast_eq, BitVec.extractLsb'_append_eq_of_le, BitVec.extractLsb'_append_eq_of_add_le]; simp)
    (by simp (disch := decide) only [fld, pack32, BitVec.cast_eq, BitVec.extractLsb'_append_eq_of_le, BitVec.extractLsb'_append_eq_of_add_le]; simp)
    ((parse_27 _ (by simp (disch := decide) only [fld, pack32, BitVec.cast_eq, BitVec.extractLsb'_append_eq_of_le, BitVec.extractLsb'_append_eq_of_add_le]; simp)).trans
      (by simp (disch := decide) only [parseMO27, fld, pack32, BitVec.cast_eq, BitVec.extractLsb'_append_eq_of_le, BitVec.extractLsb'_append_eq_of_add_le]; simp))

theorem mma (a b : BitVec 3) (k : BitVec 2) (h : BitVec 1) (c : BitVec 8) : Statement (.mma a b k h c) :=
  of_parse32 _ _ rfl (by simp (disch := decide) only [fld, pack32, BitVec.cast_eq, BitVec.extractLsb'_append_eq_of_le, BitVec.extractLsb'_append_eq_of_add_le]; simp)
    (by simp (disch := decide) only [fld, pack32, BitVec.cast_eq, BitVec.extractLsb'_append_eq_of_le, BitVec.extractLsb'_append_eq_of_add_le]; simp)
    ((parse_27 _ (by simp (disch := decide) only [fld, pack32, BitVec.cast_eq, BitVec.extractLsb'_append_eq_of_le, BitVec.extractLsb'_append_eq_of_add_le]; simp)).trans
      (by simp (disch := decide) only [parseMO27, fld, pack32, BitVec.cast_eq, BitVec.extractLsb'_append_eq_of_le, BitVec.extractLsb'_append_eq_of_add_le]; simp))

theorem accld (o : BitVec 3) (b v : BitVec 1) (r c : BitVec 7) : Statement (.accld o b v r c) :=
  of_parse32 _ _ rfl (by simp (disch := decide) only [fld, pack32, BitVec.cast_eq, BitVec.extractLsb'_append_eq_of_le, BitVec.extractLsb'_append_eq_of_add_le]; simp)
    (by simp (disch := decide) only [fld, pack32, BitVec.cast_eq, BitVec.extractLsb'_append_eq_of_le, BitVec.extractLsb'_append_eq_of_add_le]; simp)
    ((parse_27 _ (by simp (disch := decide) only [fld, pack32, BitVec.cast_eq, BitVec.extractLsb'_append_eq_of_le, BitVec.extractLsb'_append_eq_of_add_le]; simp)).trans
      (by simp (disch := decide) only [parseMO27, fld, pack32, BitVec.cast_eq, BitVec.extractLsb'_append_eq_of_le, BitVec.extractLsb'_append_eq_of_add_le]; simp))

theorem accldReg (o : BitVec 3) (b v : BitVec 1) (r c : BitVec 5) : Statement (.accldReg o b v r c) :=
  of_parse32 _ _ rfl (by simp (disch := decide) only [fld, pack32, BitVec.cast_eq, BitVec.extractLsb'_append_eq_of_le, BitVec.extractLsb'_append_eq_of_add_le]; simp)
    (by simp (disch := decide) only [fld, pack32, BitVec.cast_eq, BitVec.extractLsb'_append_eq_of_le, BitVec.extractLsb'_append_eq_of_add_le]; simp)
    ((parse_27 _ (by simp (disch := decide) only [fld, pack32, BitVec.cast_eq, BitVec.extractLsb'_append_eq_of_le, BitVec.extractLsb'_append_eq_of_add_le]; simp)).trans
      (by simp (disch := decide) only [parseMO27, fld, pack32, BitVec.cast_eq, BitVec.extractLsb'_append_eq_of_le, BitVec.extractLsb'_append_eq_of_add_le]; simp))

theorem accst (o : BitVec 3) (l b v : BitVec 1) (r c : BitVec 7) : Statement (.accst o l b v r c) :=
  of_parse32 _ _ rfl (by simp (disch := decide) only [fld, pack32, BitVec.cast_eq, BitVec.extractLsb'_append_eq_of_le, BitVec.extractLsb'_append_eq_of_add_le]; simp)
    (by simp (disch := decide) only [fld, pack32, BitVec.cast_eq, BitVec.extractLsb'_append_eq_of_le, BitVec.extractLsb'_append_eq_of_add_le]; simp)
    ((parse_27 _ (by simp (disch := decide) only [fld, pack32, BitVec.cast_eq, BitVec.extractLsb'_append_eq_of_le, BitVec.extractLsb'_append_eq_of_add_le]; simp)).trans
      (by simp (disch := decide) only [parseMO27, fld, pack32, BitVec.cast_eq, BitVec.extractLsb'_append_eq_of_le, BitVec.extractLsb'_append_eq_of_add_le]; simp))

theorem accstReg (o : BitVec 3) (l b v : BitVec 1) (r c : BitVec 5) : Statement (.accstReg o l b v r c) :=
  of_parse32 _ _ rfl (by simp (disch := decide) only [fld, pack32, BitVec.cast_eq, BitVec.extractLsb'_append_eq_of_le, BitVec.extractLsb'_append_eq_of_add_le]; simp)
    (by simp (disch := decide) only [fld, pack32, BitVec.cast_eq, BitVec.extractLsb'_append_eq_of_le, BitVec.extractLsb'_append_eq_of_add_le]; simp)
    ((parse_27 _ (by simp (disch := decide) only [fld, pack32, BitVec.cast_eq, BitVec.extractLsb'_append_eq_of_le, BitVec.extractLsb'_append_eq_of_add_le]; simp)).trans
      (by simp (disch := decide) only [parseMO27, fld, pack32, BitVec.cast_eq, BitVec.extractLsb'_append_eq_of_le, BitVec.extractLsb'_append_eq_of_add_le]; simp))

theorem acczero (k : BitVec 2) : Statement (.acczero k) :=
  of_parse32 _ _ rfl (by simp (disch := decide) only [fld, pack32, BitVec.cast_eq, BitVec.extractLsb'_append_eq_of_le, BitVec.extractLsb'_append_eq_of_add_le]; simp)
    (by simp (disch := decide) only [fld, pack32, BitVec.cast_eq, BitVec.extractLsb'_append_eq_of_le, BitVec.extractLsb'_append_eq_of_add_le]; simp)
    ((parse_27 _ (by simp (disch := decide) only [fld, pack32, BitVec.cast_eq, BitVec.extractLsb'_append_eq_of_le, BitVec.extractLsb'_append_eq_of_add_le]; simp)).trans
      (by simp (disch := decide) only [parseMO27, fld, pack32, BitVec.cast_eq, BitVec.extractLsb'_append_eq_of_le, BitVec.extractLsb'_append_eq_of_add_le]; simp))

theorem mxcmd (a b : BitVec 3) (k : BitVec 2) (h : BitVec 1) (c : BitVec 8) : Statement (.mxcmd a b k h c) :=
  of_parse32 _ _ rfl (by simp (disch := decide) only [fld, pack32, BitVec.cast_eq, BitVec.extractLsb'_append_eq_of_le, BitVec.extractLsb'_append_eq_of_add_le]; simp)
    (by simp (disch := decide) only [fld, pack32, BitVec.cast_eq, BitVec.extractLsb'_append_eq_of_le, BitVec.extractLsb'_append_eq_of_add_le]; simp)
    ((parse_27 _ (by simp (disch := decide) only [fld, pack32, BitVec.cast_eq, BitVec.extractLsb'_append_eq_of_le, BitVec.extractLsb'_append_eq_of_add_le]; simp)).trans
      (by simp (disch := decide) only [parseMO27, fld, pack32, BitVec.cast_eq, BitVec.extractLsb'_append_eq_of_le, BitVec.extractLsb'_append_eq_of_add_le]; simp))

theorem parse_28 (w : BitVec 32) (h : fld w 25 6 = 0x28#6) : parse32 w = parseMO28 w := by simp only [parse32, h]

theorem dxld (x : BitVec 1) (a : BitVec 5) (o : BitVec 10) : Statement (.dxld x a o) :=
  of_parse32 _ _ rfl (by simp (disch := decide) only [fld, pack32, BitVec.cast_eq, BitVec.extractLsb'_append_eq_of_le, BitVec.extractLsb'_append_eq_of_add_le]; simp)
    (by simp (disch := decide) only [fld, pack32, BitVec.cast_eq, BitVec.extractLsb'_append_eq_of_le, BitVec.extractLsb'_append_eq_of_add_le]; simp)
    ((parse_28 _ (by simp (disch := decide) only [fld, pack32, BitVec.cast_eq, BitVec.extractLsb'_append_eq_of_le, BitVec.extractLsb'_append_eq_of_add_le]; simp)).trans
      (by simp (disch := decide) only [parseMO28, fld, pack32, BitVec.cast_eq, BitVec.extractLsb'_append_eq_of_le, BitVec.extractLsb'_append_eq_of_add_le]; simp))

theorem dxrun (x : BitVec 1) (d a : BitVec 5) (f : BitVec 1) : Statement (.dxrun x d a f) :=
  of_parse32 _ _ rfl (by simp (disch := decide) only [fld, pack32, BitVec.cast_eq, BitVec.extractLsb'_append_eq_of_le, BitVec.extractLsb'_append_eq_of_add_le]; simp)
    (by simp (disch := decide) only [fld, pack32, BitVec.cast_eq, BitVec.extractLsb'_append_eq_of_le, BitVec.extractLsb'_append_eq_of_add_le]; simp)
    ((parse_28 _ (by simp (disch := decide) only [fld, pack32, BitVec.cast_eq, BitVec.extractLsb'_append_eq_of_le, BitVec.extractLsb'_append_eq_of_add_le]; simp)).trans
      (by simp (disch := decide) only [parseMO28, fld, pack32, BitVec.cast_eq, BitVec.extractLsb'_append_eq_of_le, BitVec.extractLsb'_append_eq_of_add_le]; simp))

theorem parse_29 (w : BitVec 32) (h : fld w 25 6 = 0x29#6) : parse32 w = parseMO29 w := by simp only [parse32, h]

theorem abegin (a b : BitVec 5) (c : BitVec 8) : Statement (.abegin a b c) :=
  of_parse32 _ _ rfl (by simp (disch := decide) only [fld, pack32, BitVec.cast_eq, BitVec.extractLsb'_append_eq_of_le, BitVec.extractLsb'_append_eq_of_add_le]; simp)
    (by simp (disch := decide) only [fld, pack32, BitVec.cast_eq, BitVec.extractLsb'_append_eq_of_le, BitVec.extractLsb'_append_eq_of_add_le]; simp)
    ((parse_29 _ (by simp (disch := decide) only [fld, pack32, BitVec.cast_eq, BitVec.extractLsb'_append_eq_of_le, BitVec.extractLsb'_append_eq_of_add_le]; simp)).trans
      (by simp (disch := decide) only [parseMO29, fld, pack32, BitVec.cast_eq, BitVec.extractLsb'_append_eq_of_le, BitVec.extractLsb'_append_eq_of_add_le]; simp))

theorem ajoin (a : BitVec 5) : Statement (.ajoin a) :=
  of_parse32 _ _ rfl (by simp (disch := decide) only [fld, pack32, BitVec.cast_eq, BitVec.extractLsb'_append_eq_of_le, BitVec.extractLsb'_append_eq_of_add_le]; simp)
    (by simp (disch := decide) only [fld, pack32, BitVec.cast_eq, BitVec.extractLsb'_append_eq_of_le, BitVec.extractLsb'_append_eq_of_add_le]; simp)
    ((parse_29 _ (by simp (disch := decide) only [fld, pack32, BitVec.cast_eq, BitVec.extractLsb'_append_eq_of_le, BitVec.extractLsb'_append_eq_of_add_le]; simp)).trans
      (by simp (disch := decide) only [parseMO29, fld, pack32, BitVec.cast_eq, BitVec.extractLsb'_append_eq_of_le, BitVec.extractLsb'_append_eq_of_add_le]; simp))

theorem apitch (a v : BitVec 5) (c : BitVec 8) : Statement (.apitch a v c) :=
  of_parse32 _ _ rfl (by simp (disch := decide) only [fld, pack32, BitVec.cast_eq, BitVec.extractLsb'_append_eq_of_le, BitVec.extractLsb'_append_eq_of_add_le]; simp)
    (by simp (disch := decide) only [fld, pack32, BitVec.cast_eq, BitVec.extractLsb'_append_eq_of_le, BitVec.extractLsb'_append_eq_of_add_le]; simp)
    ((parse_29 _ (by simp (disch := decide) only [fld, pack32, BitVec.cast_eq, BitVec.extractLsb'_append_eq_of_le, BitVec.extractLsb'_append_eq_of_add_le]; simp)).trans
      (by simp (disch := decide) only [parseMO29, fld, pack32, BitVec.cast_eq, BitVec.extractLsb'_append_eq_of_le, BitVec.extractLsb'_append_eq_of_add_le]; simp))

theorem asummit (a : BitVec 5) (c : BitVec 8) : Statement (.asummit a c) :=
  of_parse32 _ _ rfl (by simp (disch := decide) only [fld, pack32, BitVec.cast_eq, BitVec.extractLsb'_append_eq_of_le, BitVec.extractLsb'_append_eq_of_add_le]; simp)
    (by simp (disch := decide) only [fld, pack32, BitVec.cast_eq, BitVec.extractLsb'_append_eq_of_le, BitVec.extractLsb'_append_eq_of_add_le]; simp)
    ((parse_29 _ (by simp (disch := decide) only [fld, pack32, BitVec.cast_eq, BitVec.extractLsb'_append_eq_of_le, BitVec.extractLsb'_append_eq_of_add_le]; simp)).trans
      (by simp (disch := decide) only [parseMO29, fld, pack32, BitVec.cast_eq, BitVec.extractLsb'_append_eq_of_le, BitVec.extractLsb'_append_eq_of_add_le]; simp))

theorem aretreat (a : BitVec 5) (c : BitVec 8) : Statement (.aretreat a c) :=
  of_parse32 _ _ rfl (by simp (disch := decide) only [fld, pack32, BitVec.cast_eq, BitVec.extractLsb'_append_eq_of_le, BitVec.extractLsb'_append_eq_of_add_le]; simp)
    (by simp (disch := decide) only [fld, pack32, BitVec.cast_eq, BitVec.extractLsb'_append_eq_of_le, BitVec.extractLsb'_append_eq_of_add_le]; simp)
    ((parse_29 _ (by simp (disch := decide) only [fld, pack32, BitVec.cast_eq, BitVec.extractLsb'_append_eq_of_le, BitVec.extractLsb'_append_eq_of_add_le]; simp)).trans
      (by simp (disch := decide) only [parseMO29, fld, pack32, BitVec.cast_eq, BitVec.extractLsb'_append_eq_of_le, BitVec.extractLsb'_append_eq_of_add_le]; simp))

theorem aresume (a : BitVec 5) (x : BitVec 2) (c : BitVec 8) : Statement (.aresume a x c) :=
  of_parse32 _ _ rfl (by simp (disch := decide) only [fld, pack32, BitVec.cast_eq, BitVec.extractLsb'_append_eq_of_le, BitVec.extractLsb'_append_eq_of_add_le]; simp)
    (by simp (disch := decide) only [fld, pack32, BitVec.cast_eq, BitVec.extractLsb'_append_eq_of_le, BitVec.extractLsb'_append_eq_of_add_le]; simp)
    ((parse_29 _ (by simp (disch := decide) only [fld, pack32, BitVec.cast_eq, BitVec.extractLsb'_append_eq_of_le, BitVec.extractLsb'_append_eq_of_add_le]; simp)).trans
      (by simp (disch := decide) only [parseMO29, fld, pack32, BitVec.cast_eq, BitVec.extractLsb'_append_eq_of_le, BitVec.extractLsb'_append_eq_of_add_le]; simp))

theorem astat (a : BitVec 5) (c : BitVec 8) : Statement (.astat a c) :=
  of_parse32 _ _ rfl (by simp (disch := decide) only [fld, pack32, BitVec.cast_eq, BitVec.extractLsb'_append_eq_of_le, BitVec.extractLsb'_append_eq_of_add_le]; simp)
    (by simp (disch := decide) only [fld, pack32, BitVec.cast_eq, BitVec.extractLsb'_append_eq_of_le, BitVec.extractLsb'_append_eq_of_add_le]; simp)
    ((parse_29 _ (by simp (disch := decide) only [fld, pack32, BitVec.cast_eq, BitVec.extractLsb'_append_eq_of_le, BitVec.extractLsb'_append_eq_of_add_le]; simp)).trans
      (by simp (disch := decide) only [parseMO29, fld, pack32, BitVec.cast_eq, BitVec.extractLsb'_append_eq_of_le, BitVec.extractLsb'_append_eq_of_add_le]; simp))

theorem parse_2a (w : BitVec 32) (h : fld w 25 6 = 0x2a#6) : parse32 w = parseMO2A w := by simp only [parse32, h]

theorem imgld (a d : BitVec 5) (i : BitVec 10) : Statement (.imgld a d i) :=
  of_parse32 _ _ rfl (by simp (disch := decide) only [fld, pack32, BitVec.cast_eq, BitVec.extractLsb'_append_eq_of_le, BitVec.extractLsb'_append_eq_of_add_le]; simp)
    (by simp (disch := decide) only [fld, pack32, BitVec.cast_eq, BitVec.extractLsb'_append_eq_of_le, BitVec.extractLsb'_append_eq_of_add_le]; simp)
    ((parse_2a _ (by simp (disch := decide) only [fld, pack32, BitVec.cast_eq, BitVec.extractLsb'_append_eq_of_le, BitVec.extractLsb'_append_eq_of_add_le]; simp)).trans
      (by simp (disch := decide) only [parseMO2A, fld, pack32, BitVec.cast_eq, BitVec.extractLsb'_append_eq_of_le, BitVec.extractLsb'_append_eq_of_add_le]; simp))

theorem imgrev (a : BitVec 5) : Statement (.imgrev a) :=
  of_parse32 _ _ rfl (by simp (disch := decide) only [fld, pack32, BitVec.cast_eq, BitVec.extractLsb'_append_eq_of_le, BitVec.extractLsb'_append_eq_of_add_le]; simp)
    (by simp (disch := decide) only [fld, pack32, BitVec.cast_eq, BitVec.extractLsb'_append_eq_of_le, BitVec.extractLsb'_append_eq_of_add_le]; simp)
    ((parse_2a _ (by simp (disch := decide) only [fld, pack32, BitVec.cast_eq, BitVec.extractLsb'_append_eq_of_le, BitVec.extractLsb'_append_eq_of_add_le]; simp)).trans
      (by simp (disch := decide) only [parseMO2A, fld, pack32, BitVec.cast_eq, BitVec.extractLsb'_append_eq_of_le, BitVec.extractLsb'_append_eq_of_add_le]; simp))

theorem hset (a : BitVec 5) (i : BitVec 10) : Statement (.hset a i) :=
  of_parse32 _ _ rfl (by simp (disch := decide) only [fld, pack32, BitVec.cast_eq, BitVec.extractLsb'_append_eq_of_le, BitVec.extractLsb'_append_eq_of_add_le]; simp)
    (by simp (disch := decide) only [fld, pack32, BitVec.cast_eq, BitVec.extractLsb'_append_eq_of_le, BitVec.extractLsb'_append_eq_of_add_le]; simp)
    ((parse_2a _ (by simp (disch := decide) only [fld, pack32, BitVec.cast_eq, BitVec.extractLsb'_append_eq_of_le, BitVec.extractLsb'_append_eq_of_add_le]; simp)).trans
      (by simp (disch := decide) only [parseMO2A, fld, pack32, BitVec.cast_eq, BitVec.extractLsb'_append_eq_of_le, BitVec.extractLsb'_append_eq_of_add_le]; simp))

theorem pset (a b : BitVec 5) (i : BitVec 10) : Statement (.pset a b i) :=
  of_parse32 _ _ rfl (by simp (disch := decide) only [fld, pack32, BitVec.cast_eq, BitVec.extractLsb'_append_eq_of_le, BitVec.extractLsb'_append_eq_of_add_le]; simp)
    (by simp (disch := decide) only [fld, pack32, BitVec.cast_eq, BitVec.extractLsb'_append_eq_of_le, BitVec.extractLsb'_append_eq_of_add_le]; simp)
    ((parse_2a _ (by simp (disch := decide) only [fld, pack32, BitVec.cast_eq, BitVec.extractLsb'_append_eq_of_le, BitVec.extractLsb'_append_eq_of_add_le]; simp)).trans
      (by simp (disch := decide) only [parseMO2A, fld, pack32, BitVec.cast_eq, BitVec.extractLsb'_append_eq_of_le, BitVec.extractLsb'_append_eq_of_add_le]; simp))

theorem winw (a b : BitVec 5) (i : BitVec 10) : Statement (.winw a b i) :=
  of_parse32 _ _ rfl (by simp (disch := decide) only [fld, pack32, BitVec.cast_eq, BitVec.extractLsb'_append_eq_of_le, BitVec.extractLsb'_append_eq_of_add_le]; simp)
    (by simp (disch := decide) only [fld, pack32, BitVec.cast_eq, BitVec.extractLsb'_append_eq_of_le, BitVec.extractLsb'_append_eq_of_add_le]; simp)
    ((parse_2a _ (by simp (disch := decide) only [fld, pack32, BitVec.cast_eq, BitVec.extractLsb'_append_eq_of_le, BitVec.extractLsb'_append_eq_of_add_le]; simp)).trans
      (by simp (disch := decide) only [parseMO2A, fld, pack32, BitVec.cast_eq, BitVec.extractLsb'_append_eq_of_le, BitVec.extractLsb'_append_eq_of_add_le]; simp))

theorem keyset (a : BitVec 5) (i : BitVec 10) : Statement (.keyset a i) :=
  of_parse32 _ _ rfl (by simp (disch := decide) only [fld, pack32, BitVec.cast_eq, BitVec.extractLsb'_append_eq_of_le, BitVec.extractLsb'_append_eq_of_add_le]; simp)
    (by simp (disch := decide) only [fld, pack32, BitVec.cast_eq, BitVec.extractLsb'_append_eq_of_le, BitVec.extractLsb'_append_eq_of_add_le]; simp)
    ((parse_2a _ (by simp (disch := decide) only [fld, pack32, BitVec.cast_eq, BitVec.extractLsb'_append_eq_of_le, BitVec.extractLsb'_append_eq_of_add_le]; simp)).trans
      (by simp (disch := decide) only [parseMO2A, fld, pack32, BitVec.cast_eq, BitVec.extractLsb'_append_eq_of_le, BitVec.extractLsb'_append_eq_of_add_le]; simp))

theorem lease (a b : BitVec 5) : Statement (.lease a b) :=
  of_parse32 _ _ rfl (by simp (disch := decide) only [fld, pack32, BitVec.cast_eq, BitVec.extractLsb'_append_eq_of_le, BitVec.extractLsb'_append_eq_of_add_le]; simp)
    (by simp (disch := decide) only [fld, pack32, BitVec.cast_eq, BitVec.extractLsb'_append_eq_of_le, BitVec.extractLsb'_append_eq_of_add_le]; simp)
    ((parse_2a _ (by simp (disch := decide) only [fld, pack32, BitVec.cast_eq, BitVec.extractLsb'_append_eq_of_le, BitVec.extractLsb'_append_eq_of_add_le]; simp)).trans
      (by simp (disch := decide) only [parseMO2A, fld, pack32, BitVec.cast_eq, BitVec.extractLsb'_append_eq_of_le, BitVec.extractLsb'_append_eq_of_add_le]; simp))

theorem imgev (d : BitVec 5) (i : BitVec 10) : Statement (.imgev d i) :=
  of_parse32 _ _ rfl (by simp (disch := decide) only [fld, pack32, BitVec.cast_eq, BitVec.extractLsb'_append_eq_of_le, BitVec.extractLsb'_append_eq_of_add_le]; simp)
    (by simp (disch := decide) only [fld, pack32, BitVec.cast_eq, BitVec.extractLsb'_append_eq_of_le, BitVec.extractLsb'_append_eq_of_add_le]; simp)
    ((parse_2a _ (by simp (disch := decide) only [fld, pack32, BitVec.cast_eq, BitVec.extractLsb'_append_eq_of_le, BitVec.extractLsb'_append_eq_of_add_le]; simp)).trans
      (by simp (disch := decide) only [parseMO2A, fld, pack32, BitVec.cast_eq, BitVec.extractLsb'_append_eq_of_le, BitVec.extractLsb'_append_eq_of_add_le]; simp))

theorem parse_2b (w : BitVec 32) (h : fld w 25 6 = 0x2b#6) : parse32 w = parseMO2B w := by simp only [parse32, h]

theorem dmark (a : BitVec 5) (i : BitVec 10) : Statement (.dmark a i) :=
  of_parse32 _ _ rfl (by simp (disch := decide) only [fld, pack32, BitVec.cast_eq, BitVec.extractLsb'_append_eq_of_le, BitVec.extractLsb'_append_eq_of_add_le]; simp)
    (by simp (disch := decide) only [fld, pack32, BitVec.cast_eq, BitVec.extractLsb'_append_eq_of_le, BitVec.extractLsb'_append_eq_of_add_le]; simp)
    ((parse_2b _ (by simp (disch := decide) only [fld, pack32, BitVec.cast_eq, BitVec.extractLsb'_append_eq_of_le, BitVec.extractLsb'_append_eq_of_add_le]; simp)).trans
      (by simp (disch := decide) only [parseMO2B, fld, pack32, BitVec.cast_eq, BitVec.extractLsb'_append_eq_of_le, BitVec.extractLsb'_append_eq_of_add_le]; simp))

theorem wpset (a b : BitVec 5) (i : BitVec 10) : Statement (.wpset a b i) :=
  of_parse32 _ _ rfl (by simp (disch := decide) only [fld, pack32, BitVec.cast_eq, BitVec.extractLsb'_append_eq_of_le, BitVec.extractLsb'_append_eq_of_add_le]; simp)
    (by simp (disch := decide) only [fld, pack32, BitVec.cast_eq, BitVec.extractLsb'_append_eq_of_le, BitVec.extractLsb'_append_eq_of_add_le]; simp)
    ((parse_2b _ (by simp (disch := decide) only [fld, pack32, BitVec.cast_eq, BitVec.extractLsb'_append_eq_of_le, BitVec.extractLsb'_append_eq_of_add_le]; simp)).trans
      (by simp (disch := decide) only [parseMO2B, fld, pack32, BitVec.cast_eq, BitVec.extractLsb'_append_eq_of_le, BitVec.extractLsb'_append_eq_of_add_le]; simp))

theorem wpclr (i : BitVec 10) : Statement (.wpclr i) :=
  of_parse32 _ _ rfl (by simp (disch := decide) only [fld, pack32, BitVec.cast_eq, BitVec.extractLsb'_append_eq_of_le, BitVec.extractLsb'_append_eq_of_add_le]; simp)
    (by simp (disch := decide) only [fld, pack32, BitVec.cast_eq, BitVec.extractLsb'_append_eq_of_le, BitVec.extractLsb'_append_eq_of_add_le]; simp)
    ((parse_2b _ (by simp (disch := decide) only [fld, pack32, BitVec.cast_eq, BitVec.extractLsb'_append_eq_of_le, BitVec.extractLsb'_append_eq_of_add_le]; simp)).trans
      (by simp (disch := decide) only [parseMO2B, fld, pack32, BitVec.cast_eq, BitVec.extractLsb'_append_eq_of_le, BitVec.extractLsb'_append_eq_of_add_le]; simp))

theorem bpset (a : BitVec 5) (i : BitVec 10) : Statement (.bpset a i) :=
  of_parse32 _ _ rfl (by simp (disch := decide) only [fld, pack32, BitVec.cast_eq, BitVec.extractLsb'_append_eq_of_le, BitVec.extractLsb'_append_eq_of_add_le]; simp)
    (by simp (disch := decide) only [fld, pack32, BitVec.cast_eq, BitVec.extractLsb'_append_eq_of_le, BitVec.extractLsb'_append_eq_of_add_le]; simp)
    ((parse_2b _ (by simp (disch := decide) only [fld, pack32, BitVec.cast_eq, BitVec.extractLsb'_append_eq_of_le, BitVec.extractLsb'_append_eq_of_add_le]; simp)).trans
      (by simp (disch := decide) only [parseMO2B, fld, pack32, BitVec.cast_eq, BitVec.extractLsb'_append_eq_of_le, BitVec.extractLsb'_append_eq_of_add_le]; simp))

theorem dgrp (a : BitVec 5) : Statement (.dgrp a) :=
  of_parse32 _ _ rfl (by simp (disch := decide) only [fld, pack32, BitVec.cast_eq, BitVec.extractLsb'_append_eq_of_le, BitVec.extractLsb'_append_eq_of_add_le]; simp)
    (by simp (disch := decide) only [fld, pack32, BitVec.cast_eq, BitVec.extractLsb'_append_eq_of_le, BitVec.extractLsb'_append_eq_of_add_le]; simp)
    ((parse_2b _ (by simp (disch := decide) only [fld, pack32, BitVec.cast_eq, BitVec.extractLsb'_append_eq_of_le, BitVec.extractLsb'_append_eq_of_add_le]; simp)).trans
      (by simp (disch := decide) only [parseMO2B, fld, pack32, BitVec.cast_eq, BitVec.extractLsb'_append_eq_of_le, BitVec.extractLsb'_append_eq_of_add_le]; simp))

theorem dstat (d : BitVec 5) (i : BitVec 10) : Statement (.dstat d i) :=
  of_parse32 _ _ rfl (by simp (disch := decide) only [fld, pack32, BitVec.cast_eq, BitVec.extractLsb'_append_eq_of_le, BitVec.extractLsb'_append_eq_of_add_le]; simp)
    (by simp (disch := decide) only [fld, pack32, BitVec.cast_eq, BitVec.extractLsb'_append_eq_of_le, BitVec.extractLsb'_append_eq_of_add_le]; simp)
    ((parse_2b _ (by simp (disch := decide) only [fld, pack32, BitVec.cast_eq, BitVec.extractLsb'_append_eq_of_le, BitVec.extractLsb'_append_eq_of_add_le]; simp)).trans
      (by simp (disch := decide) only [parseMO2B, fld, pack32, BitVec.cast_eq, BitVec.extractLsb'_append_eq_of_le, BitVec.extractLsb'_append_eq_of_add_le]; simp))

theorem cMv (d a : BitVec 5) : Statement (.cMv d a) :=
  of_parse16 _ _ rfl (by simp (disch := decide) only [fld, pack16, BitVec.cast_eq, BitVec.extractLsb'_append_eq_of_le, BitVec.extractLsb'_append_eq_of_add_le]; simp)
    (by simp (disch := decide) only [parse16, fld, pack16, BitVec.cast_eq, BitVec.extractLsb'_append_eq_of_le, BitVec.extractLsb'_append_eq_of_add_le]; simp)

theorem cAddi (d : BitVec 5) (i : BitVec 6) : Statement (.cAddi d i) :=
  of_parse16 _ _ rfl (by simp (disch := decide) only [fld, pack16, BitVec.cast_eq, BitVec.extractLsb'_append_eq_of_le, BitVec.extractLsb'_append_eq_of_add_le]; simp)
    (by simp (disch := decide) only [parse16, fld, pack16, BitVec.cast_eq, BitVec.extractLsb'_append_eq_of_le, BitVec.extractLsb'_append_eq_of_add_le]; simp)

theorem cLdd (d : BitVec 5) (b o : BitVec 3) : Statement (.cLdd d b o) :=
  of_parse16 _ _ rfl (by simp (disch := decide) only [fld, pack16, BitVec.cast_eq, BitVec.extractLsb'_append_eq_of_le, BitVec.extractLsb'_append_eq_of_add_le]; simp)
    (by simp (disch := decide) only [parse16, fld, pack16, BitVec.cast_eq, BitVec.extractLsb'_append_eq_of_le, BitVec.extractLsb'_append_eq_of_add_le]; simp)

theorem cStd (d : BitVec 5) (b o : BitVec 3) : Statement (.cStd d b o) :=
  of_parse16 _ _ rfl (by simp (disch := decide) only [fld, pack16, BitVec.cast_eq, BitVec.extractLsb'_append_eq_of_le, BitVec.extractLsb'_append_eq_of_add_le]; simp)
    (by simp (disch := decide) only [parse16, fld, pack16, BitVec.cast_eq, BitVec.extractLsb'_append_eq_of_le, BitVec.extractLsb'_append_eq_of_add_le]; simp)

theorem cBeqz (a : BitVec 5) (o : BitVec 6) : Statement (.cBeqz a o) :=
  of_parse16 _ _ rfl (by simp (disch := decide) only [fld, pack16, BitVec.cast_eq, BitVec.extractLsb'_append_eq_of_le, BitVec.extractLsb'_append_eq_of_add_le]; simp)
    (by simp (disch := decide) only [parse16, fld, pack16, BitVec.cast_eq, BitVec.extractLsb'_append_eq_of_le, BitVec.extractLsb'_append_eq_of_add_le]; simp)

theorem cBnez (a : BitVec 5) (o : BitVec 6) : Statement (.cBnez a o) :=
  of_parse16 _ _ rfl (by simp (disch := decide) only [fld, pack16, BitVec.cast_eq, BitVec.extractLsb'_append_eq_of_le, BitVec.extractLsb'_append_eq_of_add_le]; simp)
    (by simp (disch := decide) only [parse16, fld, pack16, BitVec.cast_eq, BitVec.extractLsb'_append_eq_of_le, BitVec.extractLsb'_append_eq_of_add_le]; simp)

theorem cJ (o : BitVec 11) : Statement (.cJ o) :=
  of_parse16 _ _ rfl (by simp (disch := decide) only [fld, pack16, BitVec.cast_eq, BitVec.extractLsb'_append_eq_of_le, BitVec.extractLsb'_append_eq_of_add_le]; simp)
    (by simp (disch := decide) only [parse16, fld, pack16, BitVec.cast_eq, BitVec.extractLsb'_append_eq_of_le, BitVec.extractLsb'_append_eq_of_add_le]; simp)

theorem cAdd (d b : BitVec 5) : Statement (.cAdd d b) :=
  of_parse16 _ _ rfl (by simp (disch := decide) only [fld, pack16, BitVec.cast_eq, BitVec.extractLsb'_append_eq_of_le, BitVec.extractLsb'_append_eq_of_add_le]; simp)
    (by simp (disch := decide) only [parse16, fld, pack16, BitVec.cast_eq, BitVec.extractLsb'_append_eq_of_le, BitVec.extractLsb'_append_eq_of_add_le]; simp)

theorem cSub (d b : BitVec 5) : Statement (.cSub d b) :=
  of_parse16 _ _ rfl (by simp (disch := decide) only [fld, pack16, BitVec.cast_eq, BitVec.extractLsb'_append_eq_of_le, BitVec.extractLsb'_append_eq_of_add_le]; simp)
    (by simp (disch := decide) only [parse16, fld, pack16, BitVec.cast_eq, BitVec.extractLsb'_append_eq_of_le, BitVec.extractLsb'_append_eq_of_add_le]; simp)

theorem cSlli (d : BitVec 5) (s : BitVec 6) : Statement (.cSlli d s) :=
  of_parse16 _ _ rfl (by simp (disch := decide) only [fld, pack16, BitVec.cast_eq, BitVec.extractLsb'_append_eq_of_le, BitVec.extractLsb'_append_eq_of_add_le]; simp)
    (by simp (disch := decide) only [parse16, fld, pack16, BitVec.cast_eq, BitVec.extractLsb'_append_eq_of_le, BitVec.extractLsb'_append_eq_of_add_le]; simp)

theorem cVmovOV (o : BitVec 3) (v : BitVec 5) : Statement (.cVmovOV o v) :=
  of_parse16 _ _ rfl (by simp (disch := decide) only [fld, pack16, BitVec.cast_eq, BitVec.extractLsb'_append_eq_of_le, BitVec.extractLsb'_append_eq_of_add_le]; simp)
    (by simp (disch := decide) only [parse16, fld, pack16, BitVec.cast_eq, BitVec.extractLsb'_append_eq_of_le, BitVec.extractLsb'_append_eq_of_add_le]; simp)

theorem cVmovVO (o : BitVec 3) (v : BitVec 5) (l : BitVec 1) : Statement (.cVmovVO o v l) :=
  of_parse16 _ _ rfl (by simp (disch := decide) only [fld, pack16, BitVec.cast_eq, BitVec.extractLsb'_append_eq_of_le, BitVec.extractLsb'_append_eq_of_add_le]; simp)
    (by simp (disch := decide) only [parse16, fld, pack16, BitVec.cast_eq, BitVec.extractLsb'_append_eq_of_le, BitVec.extractLsb'_append_eq_of_add_le]; simp)

theorem cLi (d : BitVec 5) (i : BitVec 6) : Statement (.cLi d i) :=
  of_parse16 _ _ rfl (by simp (disch := decide) only [fld, pack16, BitVec.cast_eq, BitVec.extractLsb'_append_eq_of_le, BitVec.extractLsb'_append_eq_of_add_le]; simp)
    (by simp (disch := decide) only [parse16, fld, pack16, BitVec.cast_eq, BitVec.extractLsb'_append_eq_of_le, BitVec.extractLsb'_append_eq_of_add_le]; simp)

theorem cpy (a b e : BitVec 5) (o : BitVec 10) : Statement (.cpy a b e o) := fun _ _ => by
  rw [encode, decode_word _ (by simp (disch := decide) only [fld, pack32, BitVec.cast_eq, BitVec.extractLsb'_append_eq_of_le, BitVec.extractLsb'_append_eq_of_add_le]; simp)]
  simp (disch := decide) only [decodeWord, decodeParts, fld, pack32, BitVec.cast_eq, BitVec.extractLsb'_append_eq_of_le, BitVec.extractLsb'_append_eq_of_add_le]
  simp [Except.map, Decoded.instr]

theorem end_ : Statement (.end_) :=
  of_parse32 _ _ rfl (by simp (disch := decide) only [fld, pack32, BitVec.cast_eq, BitVec.extractLsb'_append_eq_of_le, BitVec.extractLsb'_append_eq_of_add_le]; simp)
    (by simp (disch := decide) only [fld, pack32, BitVec.cast_eq, BitVec.extractLsb'_append_eq_of_le, BitVec.extractLsb'_append_eq_of_add_le]; simp)
    ((parse_10 _ (by simp (disch := decide) only [fld, pack32, BitVec.cast_eq, BitVec.extractLsb'_append_eq_of_le, BitVec.extractLsb'_append_eq_of_add_le]; simp)).trans
      (by simp (disch := decide) only [parseMO10, fld, pack32, BitVec.cast_eq, BitVec.extractLsb'_append_eq_of_le, BitVec.extractLsb'_append_eq_of_add_le]; simp))

theorem nop : Statement (.nop) :=
  of_parse32 _ _ rfl (by simp (disch := decide) only [fld, pack32, BitVec.cast_eq, BitVec.extractLsb'_append_eq_of_le, BitVec.extractLsb'_append_eq_of_add_le]; simp)
    (by simp (disch := decide) only [fld, pack32, BitVec.cast_eq, BitVec.extractLsb'_append_eq_of_le, BitVec.extractLsb'_append_eq_of_add_le]; simp)
    ((parse_10 _ (by simp (disch := decide) only [fld, pack32, BitVec.cast_eq, BitVec.extractLsb'_append_eq_of_le, BitVec.extractLsb'_append_eq_of_add_le]; simp)).trans
      (by simp (disch := decide) only [parseMO10, fld, pack32, BitVec.cast_eq, BitVec.extractLsb'_append_eq_of_le, BitVec.extractLsb'_append_eq_of_add_le]; simp))

theorem brk : Statement (.brk) :=
  of_parse32 _ _ rfl (by simp (disch := decide) only [fld, pack32, BitVec.cast_eq, BitVec.extractLsb'_append_eq_of_le, BitVec.extractLsb'_append_eq_of_add_le]; simp)
    (by simp (disch := decide) only [fld, pack32, BitVec.cast_eq, BitVec.extractLsb'_append_eq_of_le, BitVec.extractLsb'_append_eq_of_add_le]; simp)
    ((parse_10 _ (by simp (disch := decide) only [fld, pack32, BitVec.cast_eq, BitVec.extractLsb'_append_eq_of_le, BitVec.extractLsb'_append_eq_of_add_le]; simp)).trans
      (by simp (disch := decide) only [parseMO10, fld, pack32, BitVec.cast_eq, BitVec.extractLsb'_append_eq_of_le, BitVec.extractLsb'_append_eq_of_add_le]; simp))

theorem lend : Statement (.lend) :=
  of_parse32 _ _ rfl (by simp (disch := decide) only [fld, pack32, BitVec.cast_eq, BitVec.extractLsb'_append_eq_of_le, BitVec.extractLsb'_append_eq_of_add_le]; simp)
    (by simp (disch := decide) only [fld, pack32, BitVec.cast_eq, BitVec.extractLsb'_append_eq_of_le, BitVec.extractLsb'_append_eq_of_add_le]; simp)
    ((parse_17 _ (by simp (disch := decide) only [fld, pack32, BitVec.cast_eq, BitVec.extractLsb'_append_eq_of_le, BitVec.extractLsb'_append_eq_of_add_le]; simp)).trans
      (by simp (disch := decide) only [parseMO17, fld, pack32, BitVec.cast_eq, BitVec.extractLsb'_append_eq_of_le, BitVec.extractLsb'_append_eq_of_add_le]; simp))

theorem dstop : Statement (.dstop) :=
  of_parse32 _ _ rfl (by simp (disch := decide) only [fld, pack32, BitVec.cast_eq, BitVec.extractLsb'_append_eq_of_le, BitVec.extractLsb'_append_eq_of_add_le]; simp)
    (by simp (disch := decide) only [fld, pack32, BitVec.cast_eq, BitVec.extractLsb'_append_eq_of_le, BitVec.extractLsb'_append_eq_of_add_le]; simp)
    ((parse_2b _ (by simp (disch := decide) only [fld, pack32, BitVec.cast_eq, BitVec.extractLsb'_append_eq_of_le, BitVec.extractLsb'_append_eq_of_add_le]; simp)).trans
      (by simp (disch := decide) only [parseMO2B, fld, pack32, BitVec.cast_eq, BitVec.extractLsb'_append_eq_of_le, BitVec.extractLsb'_append_eq_of_add_le]; simp))

theorem cNop : Statement (.cNop) :=
  of_parse16 _ _ rfl (by simp (disch := decide) only [fld, pack16, BitVec.cast_eq, BitVec.extractLsb'_append_eq_of_le, BitVec.extractLsb'_append_eq_of_add_le]; simp)
    (by simp (disch := decide) only [parse16, fld, pack16, BitVec.cast_eq, BitVec.extractLsb'_append_eq_of_le, BitVec.extractLsb'_append_eq_of_add_le]; simp)

theorem cEnd : Statement (.cEnd) :=
  of_parse16 _ _ rfl (by simp (disch := decide) only [fld, pack16, BitVec.cast_eq, BitVec.extractLsb'_append_eq_of_le, BitVec.extractLsb'_append_eq_of_add_le]; simp)
    (by simp (disch := decide) only [parse16, fld, pack16, BitVec.cast_eq, BitVec.extractLsb'_append_eq_of_le, BitVec.extractLsb'_append_eq_of_add_le]; simp)

theorem cBrk : Statement (.cBrk) :=
  of_parse16 _ _ rfl (by simp (disch := decide) only [fld, pack16, BitVec.cast_eq, BitVec.extractLsb'_append_eq_of_le, BitVec.extractLsb'_append_eq_of_add_le]; simp)
    (by simp (disch := decide) only [parse16, fld, pack16, BitVec.cast_eq, BitVec.extractLsb'_append_eq_of_le, BitVec.extractLsb'_append_eq_of_add_le]; simp)

theorem dxrunReadPhase : Statement (.dxrunReadPhase) := fun _ h => absurd rfl h

theorem dxrunWritePhase : Statement (.dxrunWritePhase) := fun _ h => absurd rfl h

theorem budget : Statement (.budget) := fun _ h => absurd rfl h

theorem dispatch : Statement (.dispatch) := fun _ h => absurd rfl h

theorem agePromotion : Statement (.agePromotion) := fun _ h => absurd rfl h

theorem messageArrival : Statement (.messageArrival) := fun _ h => absurd rfl h

theorem nack : Statement (.nack) := fun _ h => absurd rfl h

theorem settleAck : Statement (.settleAck) := fun _ h => absurd rfl h

theorem releaseSendLeave : Statement (.releaseSendLeave) := fun _ h => absurd rfl h

theorem spill : Statement (.spill) := fun _ h => absurd rfl h

theorem spillReturn : Statement (.spillReturn) := fun _ h => absurd rfl h

theorem linkWordDelivery : Statement (.linkWordDelivery) := fun _ h => absurd rfl h

theorem linkCreditReturn : Statement (.linkCreditReturn) := fun _ h => absurd rfl h

theorem remoteLoad : Statement (.remoteLoad) := fun _ h => absurd rfl h

theorem remoteStore : Statement (.remoteStore) := fun _ h => absurd rfl h

theorem remotePut : Statement (.remotePut) := fun _ h => absurd rfl h

theorem remotePutr : Statement (.remotePutr) := fun _ h => absurd rfl h

theorem remoteGet : Statement (.remoteGet) := fun _ h => absurd rfl h

theorem getLanding : Statement (.getLanding) := fun _ h => absurd rfl h

theorem getCompletion : Statement (.getCompletion) := fun _ h => absurd rfl h

theorem remoteAtomic : Statement (.remoteAtomic) := fun _ h => absurd rfl h

theorem remoteJdec : Statement (.remoteJdec) := fun _ h => absurd rfl h

theorem placementFaultRecord : Statement (.placementFaultRecord) := fun _ h => absurd rfl h

theorem resumeInstall : Statement (.resumeInstall) := fun _ h => absurd rfl h

theorem resumeRefuse : Statement (.resumeRefuse) := fun _ h => absurd rfl h

theorem plbShootdown : Statement (.plbShootdown) := fun _ h => absurd rfl h

theorem shootdownAck : Statement (.shootdownAck) := fun _ h => absurd rfl h

theorem prgResponse : Statement (.prgResponse) := fun _ h => absurd rfl h

theorem mmaCommandStart : Statement (.mmaCommandStart) := fun _ h => absurd rfl h

theorem mmaCommandComplete : Statement (.mmaCommandComplete) := fun _ h => absurd rfl h

theorem ropeCommandArrival : Statement (.ropeCommandArrival) := fun _ h => absurd rfl h

theorem ropeCommandTimeout : Statement (.ropeCommandTimeout) := fun _ h => absurd rfl h

theorem streamStripFetch : Statement (.streamStripFetch) := fun _ h => absurd rfl h

theorem copyKick : Statement (.copyKick) := fun _ h => absurd rfl h

theorem copyCommandStart : Statement (.copyCommandStart) := fun _ h => absurd rfl h

theorem copyCompletion : Statement (.copyCompletion) := fun _ h => absurd rfl h

theorem launchAccept : Statement (.launchAccept) := fun _ h => absurd rfl h

theorem launchWake : Statement (.launchWake) := fun _ h => absurd rfl h

theorem launchVote : Statement (.launchVote) := fun _ h => absurd rfl h

theorem coalesceWindowClose : Statement (.coalesceWindowClose) := fun _ h => absurd rfl h

theorem trapTriageHw : Statement (.trapTriageHw) := fun _ h => absurd rfl h

theorem trapTriageHost : Statement (.trapTriageHost) := fun _ h => absurd rfl h

theorem engineCompletion : Statement (.engineCompletion) := fun _ h => absurd rfl h

theorem doubleRecord : Statement (.doubleRecord) := fun _ h => absurd rfl h

theorem preempt : Statement (.preempt) := fun _ h => absurd rfl h

theorem timeSliceQuantum : Statement (.timeSliceQuantum) := fun _ h => absurd rfl h

theorem fingerprintCheckpoint : Statement (.fingerprintCheckpoint) := fun _ h => absurd rfl h

theorem quarantine : Statement (.quarantine) := fun _ h => absurd rfl h

theorem engineSpareReplace : Statement (.engineSpareReplace) := fun _ h => absurd rfl h

theorem igtRevokeRequest : Statement (.igtRevokeRequest) := fun _ h => absurd rfl h

theorem imgrevNotice : Statement (.imgrevNotice) := fun _ h => absurd rfl h

theorem slideRegion : Statement (.slideRegion) := fun _ h => absurd rfl h

theorem anchorPush : Statement (.anchorPush) := fun _ h => absurd rfl h

theorem anchorStamp : Statement (.anchorStamp) := fun _ h => absurd rfl h

theorem stampReturn : Statement (.stampReturn) := fun _ h => absurd rfl h

theorem ascentBeginReq : Statement (.ascentBeginReq) := fun _ h => absurd rfl h

theorem ascentSummitReq : Statement (.ascentSummitReq) := fun _ h => absurd rfl h

theorem ascentRetreatReq : Statement (.ascentRetreatReq) := fun _ h => absurd rfl h

theorem ascentResumeReq : Statement (.ascentResumeReq) := fun _ h => absurd rfl h

theorem ascentStatReq : Statement (.ascentStatReq) := fun _ h => absurd rfl h

theorem ascentLifetime : Statement (.ascentLifetime) := fun _ h => absurd rfl h

theorem anchorSend : Statement (.anchorSend) := fun _ h => absurd rfl h

theorem endNotice : Statement (.endNotice) := fun _ h => absurd rfl h

theorem failureNotice : Statement (.failureNotice) := fun _ h => absurd rfl h

theorem rescueRelay : Statement (.rescueRelay) := fun _ h => absurd rfl h

theorem collectiveCommand : Statement (.collectiveCommand) := fun _ h => absurd rfl h

theorem generationNotice : Statement (.generationNotice) := fun _ h => absurd rfl h

theorem fabricForward : Statement (.fabricForward) := fun _ h => absurd rfl h

theorem linkRetry : Statement (.linkRetry) := fun _ h => absurd rfl h

theorem portWithdraw : Statement (.portWithdraw) := fun _ h => absurd rfl h

theorem moduleWithdraw : Statement (.moduleWithdraw) := fun _ h => absurd rfl h

theorem debugStop : Statement (.debugStop) := fun _ h => absurd rfl h

theorem coreStopped : Statement (.coreStopped) := fun _ h => absurd rfl h

theorem debugStep : Statement (.debugStep) := fun _ h => absurd rfl h

theorem debugResume : Statement (.debugResume) := fun _ h => absurd rfl h

theorem hostLaunch : Statement (.hostLaunch) := fun _ h => absurd rfl h

theorem hostCall : Statement (.hostCall) := fun _ h => absurd rfl h

theorem stageImage : Statement (.stageImage) := fun _ h => absurd rfl h

theorem hostSlideRegion : Statement (.hostSlideRegion) := fun _ h => absurd rfl h

theorem hostCollective : Statement (.hostCollective) := fun _ h => absurd rfl h

theorem readCounters : Statement (.readCounters) := fun _ h => absurd rfl h

theorem pfCommand : Statement (.pfCommand) := fun _ h => absurd rfl h

theorem journalWindowWrite : Statement (.journalWindowWrite) := fun _ h => absurd rfl h

theorem hostMemoryAccess : Statement (.hostMemoryAccess) := fun _ h => absurd rfl h

theorem getCertificate : Statement (.getCertificate) := fun _ h => absurd rfl h

theorem challenge : Statement (.challenge) := fun _ h => absurd rfl h

theorem getMeasurements : Statement (.getMeasurements) := fun _ h => absurd rfl h

theorem keyExchange : Statement (.keyExchange) := fun _ h => absurd rfl h

theorem finish : Statement (.finish) := fun _ h => absurd rfl h

theorem coldReset : Statement (.coldReset) := fun _ h => absurd rfl h

theorem deviceReset : Statement (.deviceReset) := fun _ h => absurd rfl h

theorem vfFlr : Statement (.vfFlr) := fun _ h => absurd rfl h

theorem hotReset : Statement (.hotReset) := fun _ h => absurd rfl h

theorem confScrubTimeout : Statement (.confScrubTimeout) := fun _ h => absurd rfl h

theorem undefEncoding : Statement (.undefEncoding) := fun _ h => absurd rfl h

theorem fetchFailure : Statement (.fetchFailure) := fun _ h => absurd rfl h

theorem admission : Statement (.admission) := fun _ h => absurd rfl h

theorem wakeFailure : Statement (.wakeFailure) := fun _ h => absurd rfl h

theorem portRetrain : Statement (.portRetrain) := fun _ h => absurd rfl h

theorem fabricLinkUp : Statement (.fabricLinkUp) := fun _ h => absurd rfl h

theorem ideKeyManagement : Statement (.ideKeyManagement) := fun _ h => absurd rfl h

theorem recordReplayMode : Statement (.recordReplayMode) := fun _ h => absurd rfl h

theorem powerLimitWindow : Statement (.powerLimitWindow) := fun _ h => absurd rfl h


end Sys2Proof.Laws.RoundTrip
end

