-- ==== Sys2Proof/Laws/State.lean ====
section
/-! SUPPORT. Field by field what the updates of the machine leave: one lemma per field per update, true by `rfl`. -/

namespace Sys2Proof.Machine

variable (s : State)

/-! `State.setAct`. -/

@[simp] theorem State.setAct_at (a : Act) : (s.setAct a).at_ = s.at_ := rfl
@[simp] theorem State.setAct_slot (a : Act) : (s.setAct a).slot = s.slot := rfl
@[simp] theorem State.setAct_away (a : Act) : (s.setAct a).away = s.away := rfl
@[simp] theorem State.setAct_flight (a : Act) : (s.setAct a).flight = s.flight := rfl
@[simp] theorem State.setAct_acks (a : Act) : (s.setAct a).acks = s.acks := rfl
@[simp] theorem State.setAct_transit (a : Act) : (s.setAct a).transit = s.transit := rfl
@[simp] theorem State.setAct_pkgs (a : Act) : (s.setAct a).pkgs = s.pkgs := rfl
@[simp] theorem State.setAct_hostMem (a : Act) : (s.setAct a).hostMem = s.hostMem := rfl
@[simp] theorem State.setAct_sy (a : Act) : (s.setAct a).sy = s.sy := rfl
@[simp] theorem State.setAct_sz (a : Act) : (s.setAct a).sz = s.sz := rfl
@[simp] theorem State.setAct_time (a : Act) : (s.setAct a).time = s.time := rfl
@[simp] theorem State.setAct_moved (a : Act) : (s.setAct a).moved = s.moved := rfl
@[simp] theorem State.setAct_turns (a : Act) : (s.setAct a).turns = s.turns := rfl
@[simp] theorem State.setAct_ev (a : Act) : (s.setAct a).ev = s.ev := rfl
@[simp] theorem State.setAct_free (a : Act) : (s.setAct a).free = s.free := rfl
@[simp] theorem State.setAct_here_acts (a : Act) : (s.setAct a).here.acts = s.here.acts.set s.slot a := rfl
@[simp] theorem State.setAct_here_lastSlot (a : Act) : (s.setAct a).here.lastSlot = s.here.lastSlot := rfl
@[simp] theorem State.setAct_here_tried (a : Act) : (s.setAct a).here.tried = s.here.tried := rfl
@[simp] theorem State.setAct_here_mem (a : Act) : (s.setAct a).here.mem = s.here.mem := rfl
@[simp] theorem State.setAct_here_imem (a : Act) : (s.setAct a).here.imem = s.here.imem := rfl
@[simp] theorem State.setAct_here_xmap (a : Act) : (s.setAct a).here.xmap = s.here.xmap := rfl
@[simp] theorem State.setAct_here_imemBad (a : Act) : (s.setAct a).here.imemBad = s.here.imemBad := rfl
@[simp] theorem State.setAct_here_images (a : Act) : (s.setAct a).here.images = s.here.images := rfl
@[simp] theorem State.setAct_here_imgOrder (a : Act) : (s.setAct a).here.imgOrder = s.here.imgOrder := rfl
@[simp] theorem State.setAct_here_seqNo (a : Act) : (s.setAct a).here.seqNo = s.here.seqNo := rfl
@[simp] theorem State.setAct_here_regs (a : Act) : (s.setAct a).here.regs = s.here.regs := rfl
@[simp] theorem State.setAct_here_live (a : Act) : (s.setAct a).here.live = s.here.live := rfl
@[simp] theorem State.setAct_here_saved (a : Act) : (s.setAct a).here.saved = s.here.saved := rfl
@[simp] theorem State.setAct_here_leaseNo (a : Act) : (s.setAct a).here.leaseNo = s.here.leaseNo := rfl
@[simp] theorem State.setAct_here_preempting (a : Act) : (s.setAct a).here.preempting = s.here.preempting := rfl
@[simp] theorem State.setAct_here_changing (a : Act) : (s.setAct a).here.changing = s.here.changing := rfl
@[simp] theorem State.setAct_here_swapping (a : Act) : (s.setAct a).here.swapping = s.here.swapping := rfl
@[simp] theorem State.setAct_here_frozen (a : Act) : (s.setAct a).here.frozen = s.here.frozen := rfl
@[simp] theorem State.setAct_here_mx (a : Act) : (s.setAct a).here.mx = s.here.mx := rfl
@[simp] theorem State.setAct_here_links (a : Act) : (s.setAct a).here.links = s.here.links := rfl
@[simp] theorem State.setAct_here_windows (a : Act) : (s.setAct a).here.windows = s.here.windows := rfl
@[simp] theorem State.setAct_here_net (a : Act) : (s.setAct a).here.net = s.here.net := rfl
@[simp] theorem State.setAct_here_dbg (a : Act) : (s.setAct a).here.dbg = s.here.dbg := rfl
@[simp] theorem State.setAct_here_ctr (a : Act) : (s.setAct a).here.ctr = s.here.ctr := rfl
@[simp] theorem State.setAct_here_eng (a : Act) : (s.setAct a).here.eng = s.here.eng := rfl
@[simp] theorem State.setAct_here_present (a : Act) : (s.setAct a).here.present = s.here.present := rfl
@[simp] theorem State.setAct_here_cyc (a : Act) : (s.setAct a).here.cyc = s.here.cyc := rfl
@[simp] theorem State.setAct_here_strip (a : Act) : (s.setAct a).here.strip = s.here.strip := rfl
@[simp] theorem State.setAct_here_upsets (a : Act) : (s.setAct a).here.upsets = s.here.upsets := rfl

/-! `State.modMx`. -/

@[simp] theorem State.modMx_at (f : Matrix → Matrix) : (s.modMx f).at_ = s.at_ := rfl
@[simp] theorem State.modMx_slot (f : Matrix → Matrix) : (s.modMx f).slot = s.slot := rfl
@[simp] theorem State.modMx_away (f : Matrix → Matrix) : (s.modMx f).away = s.away := rfl
@[simp] theorem State.modMx_flight (f : Matrix → Matrix) : (s.modMx f).flight = s.flight := rfl
@[simp] theorem State.modMx_acks (f : Matrix → Matrix) : (s.modMx f).acks = s.acks := rfl
@[simp] theorem State.modMx_transit (f : Matrix → Matrix) : (s.modMx f).transit = s.transit := rfl
@[simp] theorem State.modMx_pkgs (f : Matrix → Matrix) : (s.modMx f).pkgs = s.pkgs := rfl
@[simp] theorem State.modMx_hostMem (f : Matrix → Matrix) : (s.modMx f).hostMem = s.hostMem := rfl
@[simp] theorem State.modMx_sy (f : Matrix → Matrix) : (s.modMx f).sy = s.sy := rfl
@[simp] theorem State.modMx_sz (f : Matrix → Matrix) : (s.modMx f).sz = s.sz := rfl
@[simp] theorem State.modMx_time (f : Matrix → Matrix) : (s.modMx f).time = s.time := rfl
@[simp] theorem State.modMx_moved (f : Matrix → Matrix) : (s.modMx f).moved = s.moved := rfl
@[simp] theorem State.modMx_turns (f : Matrix → Matrix) : (s.modMx f).turns = s.turns := rfl
@[simp] theorem State.modMx_ev (f : Matrix → Matrix) : (s.modMx f).ev = s.ev := rfl
@[simp] theorem State.modMx_free (f : Matrix → Matrix) : (s.modMx f).free = s.free := rfl
@[simp] theorem State.modMx_here_acts (f : Matrix → Matrix) : (s.modMx f).here.acts = s.here.acts := rfl
@[simp] theorem State.modMx_here_lastSlot (f : Matrix → Matrix) : (s.modMx f).here.lastSlot = s.here.lastSlot := rfl
@[simp] theorem State.modMx_here_tried (f : Matrix → Matrix) : (s.modMx f).here.tried = s.here.tried := rfl
@[simp] theorem State.modMx_here_mem (f : Matrix → Matrix) : (s.modMx f).here.mem = s.here.mem := rfl
@[simp] theorem State.modMx_here_imem (f : Matrix → Matrix) : (s.modMx f).here.imem = s.here.imem := rfl
@[simp] theorem State.modMx_here_xmap (f : Matrix → Matrix) : (s.modMx f).here.xmap = s.here.xmap := rfl
@[simp] theorem State.modMx_here_imemBad (f : Matrix → Matrix) : (s.modMx f).here.imemBad = s.here.imemBad := rfl
@[simp] theorem State.modMx_here_images (f : Matrix → Matrix) : (s.modMx f).here.images = s.here.images := rfl
@[simp] theorem State.modMx_here_imgOrder (f : Matrix → Matrix) : (s.modMx f).here.imgOrder = s.here.imgOrder := rfl
@[simp] theorem State.modMx_here_seqNo (f : Matrix → Matrix) : (s.modMx f).here.seqNo = s.here.seqNo := rfl
@[simp] theorem State.modMx_here_regs (f : Matrix → Matrix) : (s.modMx f).here.regs = s.here.regs := rfl
@[simp] theorem State.modMx_here_live (f : Matrix → Matrix) : (s.modMx f).here.live = s.here.live := rfl
@[simp] theorem State.modMx_here_saved (f : Matrix → Matrix) : (s.modMx f).here.saved = s.here.saved := rfl
@[simp] theorem State.modMx_here_leaseNo (f : Matrix → Matrix) : (s.modMx f).here.leaseNo = s.here.leaseNo := rfl
@[simp] theorem State.modMx_here_preempting (f : Matrix → Matrix) : (s.modMx f).here.preempting = s.here.preempting := rfl
@[simp] theorem State.modMx_here_changing (f : Matrix → Matrix) : (s.modMx f).here.changing = s.here.changing := rfl
@[simp] theorem State.modMx_here_swapping (f : Matrix → Matrix) : (s.modMx f).here.swapping = s.here.swapping := rfl
@[simp] theorem State.modMx_here_frozen (f : Matrix → Matrix) : (s.modMx f).here.frozen = s.here.frozen := rfl
@[simp] theorem State.modMx_here_mx (f : Matrix → Matrix) : (s.modMx f).here.mx = f s.here.mx := rfl
@[simp] theorem State.modMx_here_links (f : Matrix → Matrix) : (s.modMx f).here.links = s.here.links := rfl
@[simp] theorem State.modMx_here_windows (f : Matrix → Matrix) : (s.modMx f).here.windows = s.here.windows := rfl
@[simp] theorem State.modMx_here_net (f : Matrix → Matrix) : (s.modMx f).here.net = s.here.net := rfl
@[simp] theorem State.modMx_here_dbg (f : Matrix → Matrix) : (s.modMx f).here.dbg = s.here.dbg := rfl
@[simp] theorem State.modMx_here_ctr (f : Matrix → Matrix) : (s.modMx f).here.ctr = s.here.ctr := rfl
@[simp] theorem State.modMx_here_eng (f : Matrix → Matrix) : (s.modMx f).here.eng = s.here.eng := rfl
@[simp] theorem State.modMx_here_present (f : Matrix → Matrix) : (s.modMx f).here.present = s.here.present := rfl
@[simp] theorem State.modMx_here_cyc (f : Matrix → Matrix) : (s.modMx f).here.cyc = s.here.cyc := rfl
@[simp] theorem State.modMx_here_strip (f : Matrix → Matrix) : (s.modMx f).here.strip = s.here.strip := rfl
@[simp] theorem State.modMx_here_upsets (f : Matrix → Matrix) : (s.modMx f).here.upsets = s.here.upsets := rfl

/-! `State.modDbg`. -/

@[simp] theorem State.modDbg_at (f : Debug → Debug) : (s.modDbg f).at_ = s.at_ := rfl
@[simp] theorem State.modDbg_slot (f : Debug → Debug) : (s.modDbg f).slot = s.slot := rfl
@[simp] theorem State.modDbg_away (f : Debug → Debug) : (s.modDbg f).away = s.away := rfl
@[simp] theorem State.modDbg_flight (f : Debug → Debug) : (s.modDbg f).flight = s.flight := rfl
@[simp] theorem State.modDbg_acks (f : Debug → Debug) : (s.modDbg f).acks = s.acks := rfl
@[simp] theorem State.modDbg_transit (f : Debug → Debug) : (s.modDbg f).transit = s.transit := rfl
@[simp] theorem State.modDbg_pkgs (f : Debug → Debug) : (s.modDbg f).pkgs = s.pkgs := rfl
@[simp] theorem State.modDbg_hostMem (f : Debug → Debug) : (s.modDbg f).hostMem = s.hostMem := rfl
@[simp] theorem State.modDbg_sy (f : Debug → Debug) : (s.modDbg f).sy = s.sy := rfl
@[simp] theorem State.modDbg_sz (f : Debug → Debug) : (s.modDbg f).sz = s.sz := rfl
@[simp] theorem State.modDbg_time (f : Debug → Debug) : (s.modDbg f).time = s.time := rfl
@[simp] theorem State.modDbg_moved (f : Debug → Debug) : (s.modDbg f).moved = s.moved := rfl
@[simp] theorem State.modDbg_turns (f : Debug → Debug) : (s.modDbg f).turns = s.turns := rfl
@[simp] theorem State.modDbg_ev (f : Debug → Debug) : (s.modDbg f).ev = s.ev := rfl
@[simp] theorem State.modDbg_free (f : Debug → Debug) : (s.modDbg f).free = s.free := rfl
@[simp] theorem State.modDbg_here_acts (f : Debug → Debug) : (s.modDbg f).here.acts = s.here.acts := rfl
@[simp] theorem State.modDbg_here_lastSlot (f : Debug → Debug) : (s.modDbg f).here.lastSlot = s.here.lastSlot := rfl
@[simp] theorem State.modDbg_here_tried (f : Debug → Debug) : (s.modDbg f).here.tried = s.here.tried := rfl
@[simp] theorem State.modDbg_here_mem (f : Debug → Debug) : (s.modDbg f).here.mem = s.here.mem := rfl
@[simp] theorem State.modDbg_here_imem (f : Debug → Debug) : (s.modDbg f).here.imem = s.here.imem := rfl
@[simp] theorem State.modDbg_here_xmap (f : Debug → Debug) : (s.modDbg f).here.xmap = s.here.xmap := rfl
@[simp] theorem State.modDbg_here_imemBad (f : Debug → Debug) : (s.modDbg f).here.imemBad = s.here.imemBad := rfl
@[simp] theorem State.modDbg_here_images (f : Debug → Debug) : (s.modDbg f).here.images = s.here.images := rfl
@[simp] theorem State.modDbg_here_imgOrder (f : Debug → Debug) : (s.modDbg f).here.imgOrder = s.here.imgOrder := rfl
@[simp] theorem State.modDbg_here_seqNo (f : Debug → Debug) : (s.modDbg f).here.seqNo = s.here.seqNo := rfl
@[simp] theorem State.modDbg_here_regs (f : Debug → Debug) : (s.modDbg f).here.regs = s.here.regs := rfl
@[simp] theorem State.modDbg_here_live (f : Debug → Debug) : (s.modDbg f).here.live = s.here.live := rfl
@[simp] theorem State.modDbg_here_saved (f : Debug → Debug) : (s.modDbg f).here.saved = s.here.saved := rfl
@[simp] theorem State.modDbg_here_leaseNo (f : Debug → Debug) : (s.modDbg f).here.leaseNo = s.here.leaseNo := rfl
@[simp] theorem State.modDbg_here_preempting (f : Debug → Debug) : (s.modDbg f).here.preempting = s.here.preempting := rfl
@[simp] theorem State.modDbg_here_changing (f : Debug → Debug) : (s.modDbg f).here.changing = s.here.changing := rfl
@[simp] theorem State.modDbg_here_swapping (f : Debug → Debug) : (s.modDbg f).here.swapping = s.here.swapping := rfl
@[simp] theorem State.modDbg_here_frozen (f : Debug → Debug) : (s.modDbg f).here.frozen = s.here.frozen := rfl
@[simp] theorem State.modDbg_here_mx (f : Debug → Debug) : (s.modDbg f).here.mx = s.here.mx := rfl
@[simp] theorem State.modDbg_here_links (f : Debug → Debug) : (s.modDbg f).here.links = s.here.links := rfl
@[simp] theorem State.modDbg_here_windows (f : Debug → Debug) : (s.modDbg f).here.windows = s.here.windows := rfl
@[simp] theorem State.modDbg_here_net (f : Debug → Debug) : (s.modDbg f).here.net = s.here.net := rfl
@[simp] theorem State.modDbg_here_dbg (f : Debug → Debug) : (s.modDbg f).here.dbg = f s.here.dbg := rfl
@[simp] theorem State.modDbg_here_ctr (f : Debug → Debug) : (s.modDbg f).here.ctr = s.here.ctr := rfl
@[simp] theorem State.modDbg_here_eng (f : Debug → Debug) : (s.modDbg f).here.eng = s.here.eng := rfl
@[simp] theorem State.modDbg_here_present (f : Debug → Debug) : (s.modDbg f).here.present = s.here.present := rfl
@[simp] theorem State.modDbg_here_cyc (f : Debug → Debug) : (s.modDbg f).here.cyc = s.here.cyc := rfl
@[simp] theorem State.modDbg_here_strip (f : Debug → Debug) : (s.modDbg f).here.strip = s.here.strip := rfl
@[simp] theorem State.modDbg_here_upsets (f : Debug → Debug) : (s.modDbg f).here.upsets = s.here.upsets := rfl

/-! `State.modCtr`. -/

@[simp] theorem State.modCtr_at (f : Counters → Counters) : (s.modCtr f).at_ = s.at_ := rfl
@[simp] theorem State.modCtr_slot (f : Counters → Counters) : (s.modCtr f).slot = s.slot := rfl
@[simp] theorem State.modCtr_away (f : Counters → Counters) : (s.modCtr f).away = s.away := rfl
@[simp] theorem State.modCtr_flight (f : Counters → Counters) : (s.modCtr f).flight = s.flight := rfl
@[simp] theorem State.modCtr_acks (f : Counters → Counters) : (s.modCtr f).acks = s.acks := rfl
@[simp] theorem State.modCtr_transit (f : Counters → Counters) : (s.modCtr f).transit = s.transit := rfl
@[simp] theorem State.modCtr_pkgs (f : Counters → Counters) : (s.modCtr f).pkgs = s.pkgs := rfl
@[simp] theorem State.modCtr_hostMem (f : Counters → Counters) : (s.modCtr f).hostMem = s.hostMem := rfl
@[simp] theorem State.modCtr_sy (f : Counters → Counters) : (s.modCtr f).sy = s.sy := rfl
@[simp] theorem State.modCtr_sz (f : Counters → Counters) : (s.modCtr f).sz = s.sz := rfl
@[simp] theorem State.modCtr_time (f : Counters → Counters) : (s.modCtr f).time = s.time := rfl
@[simp] theorem State.modCtr_moved (f : Counters → Counters) : (s.modCtr f).moved = s.moved := rfl
@[simp] theorem State.modCtr_turns (f : Counters → Counters) : (s.modCtr f).turns = s.turns := rfl
@[simp] theorem State.modCtr_ev (f : Counters → Counters) : (s.modCtr f).ev = s.ev := rfl
@[simp] theorem State.modCtr_free (f : Counters → Counters) : (s.modCtr f).free = s.free := rfl
@[simp] theorem State.modCtr_here_acts (f : Counters → Counters) : (s.modCtr f).here.acts = s.here.acts := rfl
@[simp] theorem State.modCtr_here_lastSlot (f : Counters → Counters) : (s.modCtr f).here.lastSlot = s.here.lastSlot := rfl
@[simp] theorem State.modCtr_here_tried (f : Counters → Counters) : (s.modCtr f).here.tried = s.here.tried := rfl
@[simp] theorem State.modCtr_here_mem (f : Counters → Counters) : (s.modCtr f).here.mem = s.here.mem := rfl
@[simp] theorem State.modCtr_here_imem (f : Counters → Counters) : (s.modCtr f).here.imem = s.here.imem := rfl
@[simp] theorem State.modCtr_here_xmap (f : Counters → Counters) : (s.modCtr f).here.xmap = s.here.xmap := rfl
@[simp] theorem State.modCtr_here_imemBad (f : Counters → Counters) : (s.modCtr f).here.imemBad = s.here.imemBad := rfl
@[simp] theorem State.modCtr_here_images (f : Counters → Counters) : (s.modCtr f).here.images = s.here.images := rfl
@[simp] theorem State.modCtr_here_imgOrder (f : Counters → Counters) : (s.modCtr f).here.imgOrder = s.here.imgOrder := rfl
@[simp] theorem State.modCtr_here_seqNo (f : Counters → Counters) : (s.modCtr f).here.seqNo = s.here.seqNo := rfl
@[simp] theorem State.modCtr_here_regs (f : Counters → Counters) : (s.modCtr f).here.regs = s.here.regs := rfl
@[simp] theorem State.modCtr_here_live (f : Counters → Counters) : (s.modCtr f).here.live = s.here.live := rfl
@[simp] theorem State.modCtr_here_saved (f : Counters → Counters) : (s.modCtr f).here.saved = s.here.saved := rfl
@[simp] theorem State.modCtr_here_leaseNo (f : Counters → Counters) : (s.modCtr f).here.leaseNo = s.here.leaseNo := rfl
@[simp] theorem State.modCtr_here_preempting (f : Counters → Counters) : (s.modCtr f).here.preempting = s.here.preempting := rfl
@[simp] theorem State.modCtr_here_changing (f : Counters → Counters) : (s.modCtr f).here.changing = s.here.changing := rfl
@[simp] theorem State.modCtr_here_swapping (f : Counters → Counters) : (s.modCtr f).here.swapping = s.here.swapping := rfl
@[simp] theorem State.modCtr_here_frozen (f : Counters → Counters) : (s.modCtr f).here.frozen = s.here.frozen := rfl
@[simp] theorem State.modCtr_here_mx (f : Counters → Counters) : (s.modCtr f).here.mx = s.here.mx := rfl
@[simp] theorem State.modCtr_here_links (f : Counters → Counters) : (s.modCtr f).here.links = s.here.links := rfl
@[simp] theorem State.modCtr_here_windows (f : Counters → Counters) : (s.modCtr f).here.windows = s.here.windows := rfl
@[simp] theorem State.modCtr_here_net (f : Counters → Counters) : (s.modCtr f).here.net = s.here.net := rfl
@[simp] theorem State.modCtr_here_dbg (f : Counters → Counters) : (s.modCtr f).here.dbg = s.here.dbg := rfl
@[simp] theorem State.modCtr_here_ctr (f : Counters → Counters) : (s.modCtr f).here.ctr = f s.here.ctr := rfl
@[simp] theorem State.modCtr_here_eng (f : Counters → Counters) : (s.modCtr f).here.eng = s.here.eng := rfl
@[simp] theorem State.modCtr_here_present (f : Counters → Counters) : (s.modCtr f).here.present = s.here.present := rfl
@[simp] theorem State.modCtr_here_cyc (f : Counters → Counters) : (s.modCtr f).here.cyc = s.here.cyc := rfl
@[simp] theorem State.modCtr_here_strip (f : Counters → Counters) : (s.modCtr f).here.strip = s.here.strip := rfl
@[simp] theorem State.modCtr_here_upsets (f : Counters → Counters) : (s.modCtr f).here.upsets = s.here.upsets := rfl

/-! `State.modEng`. -/

@[simp] theorem State.modEng_at (f : Engine → Engine) : (s.modEng f).at_ = s.at_ := rfl
@[simp] theorem State.modEng_slot (f : Engine → Engine) : (s.modEng f).slot = s.slot := rfl
@[simp] theorem State.modEng_away (f : Engine → Engine) : (s.modEng f).away = s.away := rfl
@[simp] theorem State.modEng_flight (f : Engine → Engine) : (s.modEng f).flight = s.flight := rfl
@[simp] theorem State.modEng_acks (f : Engine → Engine) : (s.modEng f).acks = s.acks := rfl
@[simp] theorem State.modEng_transit (f : Engine → Engine) : (s.modEng f).transit = s.transit := rfl
@[simp] theorem State.modEng_pkgs (f : Engine → Engine) : (s.modEng f).pkgs = s.pkgs := rfl
@[simp] theorem State.modEng_hostMem (f : Engine → Engine) : (s.modEng f).hostMem = s.hostMem := rfl
@[simp] theorem State.modEng_sy (f : Engine → Engine) : (s.modEng f).sy = s.sy := rfl
@[simp] theorem State.modEng_sz (f : Engine → Engine) : (s.modEng f).sz = s.sz := rfl
@[simp] theorem State.modEng_time (f : Engine → Engine) : (s.modEng f).time = s.time := rfl
@[simp] theorem State.modEng_moved (f : Engine → Engine) : (s.modEng f).moved = s.moved := rfl
@[simp] theorem State.modEng_turns (f : Engine → Engine) : (s.modEng f).turns = s.turns := rfl
@[simp] theorem State.modEng_ev (f : Engine → Engine) : (s.modEng f).ev = s.ev := rfl
@[simp] theorem State.modEng_free (f : Engine → Engine) : (s.modEng f).free = s.free := rfl
@[simp] theorem State.modEng_here_acts (f : Engine → Engine) : (s.modEng f).here.acts = s.here.acts := rfl
@[simp] theorem State.modEng_here_lastSlot (f : Engine → Engine) : (s.modEng f).here.lastSlot = s.here.lastSlot := rfl
@[simp] theorem State.modEng_here_tried (f : Engine → Engine) : (s.modEng f).here.tried = s.here.tried := rfl
@[simp] theorem State.modEng_here_mem (f : Engine → Engine) : (s.modEng f).here.mem = s.here.mem := rfl
@[simp] theorem State.modEng_here_imem (f : Engine → Engine) : (s.modEng f).here.imem = s.here.imem := rfl
@[simp] theorem State.modEng_here_xmap (f : Engine → Engine) : (s.modEng f).here.xmap = s.here.xmap := rfl
@[simp] theorem State.modEng_here_imemBad (f : Engine → Engine) : (s.modEng f).here.imemBad = s.here.imemBad := rfl
@[simp] theorem State.modEng_here_images (f : Engine → Engine) : (s.modEng f).here.images = s.here.images := rfl
@[simp] theorem State.modEng_here_imgOrder (f : Engine → Engine) : (s.modEng f).here.imgOrder = s.here.imgOrder := rfl
@[simp] theorem State.modEng_here_seqNo (f : Engine → Engine) : (s.modEng f).here.seqNo = s.here.seqNo := rfl
@[simp] theorem State.modEng_here_regs (f : Engine → Engine) : (s.modEng f).here.regs = s.here.regs := rfl
@[simp] theorem State.modEng_here_live (f : Engine → Engine) : (s.modEng f).here.live = s.here.live := rfl
@[simp] theorem State.modEng_here_saved (f : Engine → Engine) : (s.modEng f).here.saved = s.here.saved := rfl
@[simp] theorem State.modEng_here_leaseNo (f : Engine → Engine) : (s.modEng f).here.leaseNo = s.here.leaseNo := rfl
@[simp] theorem State.modEng_here_preempting (f : Engine → Engine) : (s.modEng f).here.preempting = s.here.preempting := rfl
@[simp] theorem State.modEng_here_changing (f : Engine → Engine) : (s.modEng f).here.changing = s.here.changing := rfl
@[simp] theorem State.modEng_here_swapping (f : Engine → Engine) : (s.modEng f).here.swapping = s.here.swapping := rfl
@[simp] theorem State.modEng_here_frozen (f : Engine → Engine) : (s.modEng f).here.frozen = s.here.frozen := rfl
@[simp] theorem State.modEng_here_mx (f : Engine → Engine) : (s.modEng f).here.mx = s.here.mx := rfl
@[simp] theorem State.modEng_here_links (f : Engine → Engine) : (s.modEng f).here.links = s.here.links := rfl
@[simp] theorem State.modEng_here_windows (f : Engine → Engine) : (s.modEng f).here.windows = s.here.windows := rfl
@[simp] theorem State.modEng_here_net (f : Engine → Engine) : (s.modEng f).here.net = s.here.net := rfl
@[simp] theorem State.modEng_here_dbg (f : Engine → Engine) : (s.modEng f).here.dbg = s.here.dbg := rfl
@[simp] theorem State.modEng_here_ctr (f : Engine → Engine) : (s.modEng f).here.ctr = s.here.ctr := rfl
@[simp] theorem State.modEng_here_eng (f : Engine → Engine) : (s.modEng f).here.eng = f s.here.eng := rfl
@[simp] theorem State.modEng_here_present (f : Engine → Engine) : (s.modEng f).here.present = s.here.present := rfl
@[simp] theorem State.modEng_here_cyc (f : Engine → Engine) : (s.modEng f).here.cyc = s.here.cyc := rfl
@[simp] theorem State.modEng_here_strip (f : Engine → Engine) : (s.modEng f).here.strip = s.here.strip := rfl
@[simp] theorem State.modEng_here_upsets (f : Engine → Engine) : (s.modEng f).here.upsets = s.here.upsets := rfl

/-! `State.modNet`. -/

@[simp] theorem State.modNet_at (f : Iface → Iface) : (s.modNet f).at_ = s.at_ := rfl
@[simp] theorem State.modNet_slot (f : Iface → Iface) : (s.modNet f).slot = s.slot := rfl
@[simp] theorem State.modNet_away (f : Iface → Iface) : (s.modNet f).away = s.away := rfl
@[simp] theorem State.modNet_flight (f : Iface → Iface) : (s.modNet f).flight = s.flight := rfl
@[simp] theorem State.modNet_acks (f : Iface → Iface) : (s.modNet f).acks = s.acks := rfl
@[simp] theorem State.modNet_transit (f : Iface → Iface) : (s.modNet f).transit = s.transit := rfl
@[simp] theorem State.modNet_pkgs (f : Iface → Iface) : (s.modNet f).pkgs = s.pkgs := rfl
@[simp] theorem State.modNet_hostMem (f : Iface → Iface) : (s.modNet f).hostMem = s.hostMem := rfl
@[simp] theorem State.modNet_sy (f : Iface → Iface) : (s.modNet f).sy = s.sy := rfl
@[simp] theorem State.modNet_sz (f : Iface → Iface) : (s.modNet f).sz = s.sz := rfl
@[simp] theorem State.modNet_time (f : Iface → Iface) : (s.modNet f).time = s.time := rfl
@[simp] theorem State.modNet_moved (f : Iface → Iface) : (s.modNet f).moved = s.moved := rfl
@[simp] theorem State.modNet_turns (f : Iface → Iface) : (s.modNet f).turns = s.turns := rfl
@[simp] theorem State.modNet_ev (f : Iface → Iface) : (s.modNet f).ev = s.ev := rfl
@[simp] theorem State.modNet_free (f : Iface → Iface) : (s.modNet f).free = s.free := rfl
@[simp] theorem State.modNet_here_acts (f : Iface → Iface) : (s.modNet f).here.acts = s.here.acts := rfl
@[simp] theorem State.modNet_here_lastSlot (f : Iface → Iface) : (s.modNet f).here.lastSlot = s.here.lastSlot := rfl
@[simp] theorem State.modNet_here_tried (f : Iface → Iface) : (s.modNet f).here.tried = s.here.tried := rfl
@[simp] theorem State.modNet_here_mem (f : Iface → Iface) : (s.modNet f).here.mem = s.here.mem := rfl
@[simp] theorem State.modNet_here_imem (f : Iface → Iface) : (s.modNet f).here.imem = s.here.imem := rfl
@[simp] theorem State.modNet_here_xmap (f : Iface → Iface) : (s.modNet f).here.xmap = s.here.xmap := rfl
@[simp] theorem State.modNet_here_imemBad (f : Iface → Iface) : (s.modNet f).here.imemBad = s.here.imemBad := rfl
@[simp] theorem State.modNet_here_images (f : Iface → Iface) : (s.modNet f).here.images = s.here.images := rfl
@[simp] theorem State.modNet_here_imgOrder (f : Iface → Iface) : (s.modNet f).here.imgOrder = s.here.imgOrder := rfl
@[simp] theorem State.modNet_here_seqNo (f : Iface → Iface) : (s.modNet f).here.seqNo = s.here.seqNo := rfl
@[simp] theorem State.modNet_here_regs (f : Iface → Iface) : (s.modNet f).here.regs = s.here.regs := rfl
@[simp] theorem State.modNet_here_live (f : Iface → Iface) : (s.modNet f).here.live = s.here.live := rfl
@[simp] theorem State.modNet_here_saved (f : Iface → Iface) : (s.modNet f).here.saved = s.here.saved := rfl
@[simp] theorem State.modNet_here_leaseNo (f : Iface → Iface) : (s.modNet f).here.leaseNo = s.here.leaseNo := rfl
@[simp] theorem State.modNet_here_preempting (f : Iface → Iface) : (s.modNet f).here.preempting = s.here.preempting := rfl
@[simp] theorem State.modNet_here_changing (f : Iface → Iface) : (s.modNet f).here.changing = s.here.changing := rfl
@[simp] theorem State.modNet_here_swapping (f : Iface → Iface) : (s.modNet f).here.swapping = s.here.swapping := rfl
@[simp] theorem State.modNet_here_frozen (f : Iface → Iface) : (s.modNet f).here.frozen = s.here.frozen := rfl
@[simp] theorem State.modNet_here_mx (f : Iface → Iface) : (s.modNet f).here.mx = s.here.mx := rfl
@[simp] theorem State.modNet_here_links (f : Iface → Iface) : (s.modNet f).here.links = s.here.links := rfl
@[simp] theorem State.modNet_here_windows (f : Iface → Iface) : (s.modNet f).here.windows = s.here.windows := rfl
@[simp] theorem State.modNet_here_net (f : Iface → Iface) : (s.modNet f).here.net = f s.here.net := rfl
@[simp] theorem State.modNet_here_dbg (f : Iface → Iface) : (s.modNet f).here.dbg = s.here.dbg := rfl
@[simp] theorem State.modNet_here_ctr (f : Iface → Iface) : (s.modNet f).here.ctr = s.here.ctr := rfl
@[simp] theorem State.modNet_here_eng (f : Iface → Iface) : (s.modNet f).here.eng = s.here.eng := rfl
@[simp] theorem State.modNet_here_present (f : Iface → Iface) : (s.modNet f).here.present = s.here.present := rfl
@[simp] theorem State.modNet_here_cyc (f : Iface → Iface) : (s.modNet f).here.cyc = s.here.cyc := rfl
@[simp] theorem State.modNet_here_strip (f : Iface → Iface) : (s.modNet f).here.strip = s.here.strip := rfl
@[simp] theorem State.modNet_here_upsets (f : Iface → Iface) : (s.modNet f).here.upsets = s.here.upsets := rfl

/-! The acting slot. -/

@[simp] theorem State.act_setAct (a : Act) : (s.setAct a).act = a := by simp [State.act]

@[simp] theorem State.setAct_setAct (a b : Act) : (s.setAct a).setAct b = s.setAct b := by simp [State.setAct]

@[simp] theorem State.setAct_act : s.setAct s.act = s := by simp [State.setAct, State.act]

theorem State.setAct_other (a : Act) (i : Fin 4) (h : i ≠ s.slot) : (s.setAct a).here.acts[i] = s.here.acts[i] := by
  have h' : s.slot.val ≠ i.val := fun e => h (Fin.ext e.symm)
  simp [h']

/-- Every update of the acting slot is one `setAct`. -/
theorem State.modAct_eq (f : Act → Act) : s.modAct f = s.setAct (f s.act) := rfl

theorem State.modRegs_eq (f : Regs → Regs) : s.modRegs f = s.setAct { s.act with regs := f s.act.regs } := rfl

theorem State.modCsr_eq (f : Csrs → Csrs) : s.modCsr f = s.setAct { s.act with csr := f s.act.csr } := rfl

/-- The general registers with one written (R27: g0 ignores it). -/
def setGVec (g : Vector Word 32) (r : BitVec 5) (v : Word) : Vector Word 32 := if r = 0 then g else g.set r.toNat v

theorem State.setG_eq (r : BitVec 5) (v : Word) : s.setG r v = s.setAct { s.act with regs := { s.act.regs with g := setGVec s.act.regs.g r v } } := by
  unfold State.setG setGVec
  split
  · exact s.setAct_act.symm
  · rfl

theorem State.setV_eq (r : BitVec 5) (v : Strip) : s.setV r v = s.setAct { s.act with regs := { s.act.regs with v := s.act.regs.v.set r.toNat v } } := rfl

theorem State.setTm_eq (r : BitVec 3) (v : TMap) : s.setTm r v = s.setAct { s.act with regs := { s.act.regs with tm := s.act.regs.tm.set r.toNat v } } := rfl

/-- The mask registers with one written (R27: k0 ignores it). -/
def setKVec (k : Vector (BitVec 32) 4) (r : BitVec 2) (v : BitVec 32) : Vector (BitVec 32) 4 := if r = 0 then k else k.set r.toNat v

theorem State.setK_eq (r : BitVec 2) (v : BitVec 32) : s.setK r v = s.setAct { s.act with regs := { s.act.regs with k := setKVec s.act.regs.k r v } } := by
  unfold State.setK setKVec
  split
  · exact s.setAct_act.symm
  · rfl

theorem State.setO_eq (n : BitVec 3) (v : Strip) : s.setO n v = s.setAct { s.act with
    regs := { s.act.regs with o := s.act.regs.o.set n.toNat v }
    csr := { s.act.csr with olive := s.act.csr.olive ||| (1#8 <<< n.toNat) } } := rfl

theorem State.addFlags_eq (f : BitVec 6) : s.addFlags f = s.setAct { s.act with csr := { s.act.csr with fflg := s.act.csr.fflg ||| f } } := rfl

/-! Reads after writes. -/

theorem State.g_zero : s.g 0 = 0 := by simp [State.g]

theorem State.g_setG_same (r : BitVec 5) (v : Word) (h : r ≠ 0) : (s.setG r v).g r = v := by
  simp only [State.g, State.setG_eq, setGVec, if_neg h, State.act_setAct, Vector.getElem_set_self]

theorem State.g_setG_ne (r q : BitVec 5) (v : Word) (h : q ≠ r) : (s.setG r v).g q = s.g q := by
  have hn : r.toNat ≠ q.toNat := fun e => h (BitVec.eq_of_toNat_eq e.symm)
  simp only [State.g, State.setG_eq, setGVec, State.act_setAct]
  by_cases hr : r = 0 <;> simp only [hr, if_true, if_false, Vector.getElem_set_ne _ _ hn]

theorem State.v_setV_same (r : BitVec 5) (v : Strip) : (s.setV r v).v r = v := by simp [State.v, State.setV_eq]

theorem State.v_setV_ne (r q : BitVec 5) (v : Strip) (h : q ≠ r) : (s.setV r v).v q = s.v q := by
  have hn : r.toNat ≠ q.toNat := fun e => h (BitVec.eq_of_toNat_eq e.symm)
  simp [State.v, State.setV_eq, hn]

theorem State.k_zero : s.k 0 = BitVec.allOnes 32 := by simp [State.k]

theorem State.k_setK_same (r : BitVec 2) (v : BitVec 32) (h : r ≠ 0) : (s.setK r v).k r = v := by
  simp only [State.k, State.setK_eq, setKVec, if_neg h, State.act_setAct, Vector.getElem_set_self]

theorem State.k_setK_ne (r q : BitVec 2) (v : BitVec 32) (h : q ≠ r) : (s.setK r v).k q = s.k q := by
  have hn : r.toNat ≠ q.toNat := fun e => h (BitVec.eq_of_toNat_eq e.symm)
  simp only [State.k, State.setK_eq, setKVec, State.act_setAct]
  by_cases hr : r = 0 <;> simp only [hr, if_true, if_false, Vector.getElem_set_ne _ _ hn]

theorem State.tm_setTm_same (r : BitVec 3) (v : TMap) : (s.setTm r v).tm r = v := by simp [State.tm, State.setTm_eq]

theorem State.tm_setTm_ne (r q : BitVec 3) (v : TMap) (h : q ≠ r) : (s.setTm r v).tm q = s.tm q := by
  have hn : r.toNat ≠ q.toNat := fun e => h (BitVec.eq_of_toNat_eq e.symm)
  simp [State.tm, State.setTm_eq, hn]

end Sys2Proof.Machine
end

