-- ==== Sys2Proof/Laws/Retire.lean ====
section
/-! SUPPORT. What a retiring instruction leaves: one law for sequential flow, one for a transfer. -/

namespace Sys2Proof.Safety

open Sys2Proof.Machine

theorem loopSeq_fst (c : Csrs) (p : Word) : (loopSeq c p).1 = { c with lpcnt := (loopSeq c p).1.lpcnt } := by
  unfold loopSeq
  split
  · rfl
  · split
    · split <;> rfl
    · split <;> rfl

theorem loopJump_fst (c : Csrs) (p : Word) : (loopJump c p).1 = { c with lpcnt := (loopJump c p).1.lpcnt } := by
  unfold loopJump
  split
  · rfl
  · split <;> rfl

/-- The activation that a retiring instruction leaves. -/
def retiredAct (a : Act) (cp : Csrs × Word) : Act :=
  let b := { a with csr := cp.1, pc := cp.2, instret := a.instret + 1, part := .none }
  if a.paired then { b with fp := Config.fingerprint a.fp a.pc b.regs b.csr a.stores (b.outbox.map (·.send)), stores := [] } else b

theorem act_retireWith (s : State) (cp : Csrs × Word) : (s.retireWith cp).act = retiredAct s.act cp := by
  simp [State.retireWith, State.passed, State.modDbg, State.modAct, State.act, State.setAct, retiredAct]

theorem retiredAct_regs (a : Act) (cp : Csrs × Word) : (retiredAct a cp).regs = a.regs := by unfold retiredAct; dsimp; split <;> rfl
theorem retiredAct_csr (a : Act) (cp : Csrs × Word) : (retiredAct a cp).csr = cp.1 := by unfold retiredAct; dsimp; split <;> rfl
theorem retiredAct_pc (a : Act) (cp : Csrs × Word) : (retiredAct a cp).pc = cp.2 := by unfold retiredAct; dsimp; split <;> rfl
theorem retiredAct_kept (a : Act) (cp : Csrs × Word) : ActKept a (retiredAct a cp) := by
  exact ⟨by unfold retiredAct; dsimp; split <;> rfl, fun h => by unfold retiredAct; simp [h]⟩

theorem retireWith_eq (s : State) (cp : Csrs × Word) :
    (s.retireWith cp).issued = { s with here := { s.here with
      acts := (s.retireWith cp).here.acts
      lastSlot := s.slot
      tried := Vector.replicate 4 false
      dbg := { s.here.dbg with cycle := 1, passBp := (s.retireWith cp).here.dbg.passBp } } } := rfl

theorem retireWith_other (s : State) (cp : Csrs × Word) (i : Fin 4) (h : i ≠ s.slot) : (s.retireWith cp).here.acts[i] = s.here.acts[i] := by
  have h' : s.slot.val ≠ i.val := fun e => h (Fin.ext e.symm)
  simp [State.retireWith, State.passed, State.modDbg, State.modAct, State.setAct, h']

/-- An issue leaves the activations as they are. -/
@[simp] theorem act_issued (s : State) : s.issued.act = s.act := rfl

/-- Whatever registers and control registers an instruction leaves to the acting slot, retiring changes nothing else. -/
theorem retires_with (s : State) (regs : Regs) (csr : Csrs) (cp : Csrs × Word) (hc : cp.1 = { csr with lpcnt := cp.1.lpcnt }) :
    Retires s ((s.setAct { s.act with regs := regs, csr := csr }).retireWith cp).issued regs csr := by
  have ha : ((s.setAct { s.act with regs := regs, csr := csr }).retireWith cp).act = retiredAct { s.act with regs := regs, csr := csr } cp := by
    rw [act_retireWith, State.act_setAct]
  refine ⟨⟨retireWith_eq _ cp, fun i hi => ?_⟩, ?_, ?_, ?_⟩
  · exact (retireWith_other (s.setAct _) cp i hi).trans (State.setAct_other s _ i hi)
  · rw [act_issued, ha]
    exact ⟨by unfold retiredAct; dsimp; split <;> rfl, fun h => by unfold retiredAct; simp [h]⟩
  · rw [act_issued, ha, retiredAct_regs]
  · rw [act_issued, ha, retiredAct_csr]; exact hc

theorem seqNext_loopSeq (c : Csrs) (p : Word) (b : Act) (hc : b.csr = (loopSeq c p).1) (hp : b.pc = (loopSeq c p).2) : SeqNext c p b := by
  have e : (c.lpcnt - 1 = 0) ↔ c.lpcnt = 1 := by bv_omega
  unfold SeqNext
  rw [hc, hp, e]
  unfold loopSeq
  refine ⟨fun h => ?_, fun h1 h2 h3 => ?_, fun h1 h2 h3 => ?_, fun h1 h2 h3 h4 => ?_, fun h1 h2 h3 => ?_⟩
  · rw [if_pos h]; exact ⟨rfl, h⟩
  · rw [if_neg h1, if_pos h2, if_pos h3]; exact ⟨h2, rfl⟩
  · rw [if_neg h1, if_pos h2, if_neg (fun h => h3 (e.2 h))]; exact ⟨rfl, rfl⟩
  · rw [if_neg h1, if_neg h2, if_pos ⟨h3, h4⟩]; exact ⟨rfl, rfl⟩
  · rw [if_neg h1, if_neg h2, if_neg h3]; exact ⟨rfl, rfl⟩

theorem jumpNext_loopJump (c : Csrs) (p : Word) (b : Act) (hc : b.csr = (loopJump c p).1) (hp : b.pc = (loopJump c p).2) : JumpNext c p b := by
  unfold JumpNext
  rw [hc, hp]
  unfold loopJump
  refine ⟨?_, fun h1 h2 h3 => ?_, fun h => ?_⟩
  · split
    · rfl
    · split <;> rfl
  · rw [if_neg h1, if_pos ⟨h2, h3⟩]
  · by_cases h0 : c.lpcnt = 0
    · rw [if_pos h0]; exact h0
    · rw [if_neg h0, if_neg (h.resolve_left h0)]

/-- Sequential flow (R95): an instruction of `len` bytes that leaves these registers and control registers. -/
theorem retire_spec (s : State) (len : Nat) (regs : Regs) (csr : Csrs) :
    RetiresSeq len s ((s.setAct { s.act with regs := regs, csr := csr }).retire len).issued regs csr := by
  have ha := act_retireWith (s.setAct { s.act with regs := regs, csr := csr }) (loopSeq csr (s.pc + BitVec.ofNat 64 len))
  rw [State.act_setAct] at ha
  have hr : (s.setAct { s.act with regs := regs, csr := csr }).retire len =
      (s.setAct { s.act with regs := regs, csr := csr }).retireWith (loopSeq csr (s.pc + BitVec.ofNat 64 len)) := by
    simp only [State.retire, State.pc, State.act_setAct]
  rw [hr]
  exact ⟨retires_with s regs csr _ (loopSeq_fst _ _), seqNext_loopSeq _ _ _ (by rw [act_issued, ha, retiredAct_csr]) (by rw [act_issued, ha, retiredAct_pc])⟩

/-- A transfer (R95): an instruction that leaves these registers and control registers and goes on at `p`. -/
theorem retireTo_spec (s : State) (p : Word) (regs : Regs) (csr : Csrs) :
    RetiresTo p s ((s.setAct { s.act with regs := regs, csr := csr }).retireTo p).issued regs csr := by
  have ha := act_retireWith (s.setAct { s.act with regs := regs, csr := csr }) (loopJump csr p)
  rw [State.act_setAct] at ha
  have hr : (s.setAct { s.act with regs := regs, csr := csr }).retireTo p = (s.setAct { s.act with regs := regs, csr := csr }).retireWith (loopJump csr p) := by
    simp only [State.retireTo, State.act_setAct]
  rw [hr]
  exact ⟨retires_with s regs csr _ (loopJump_fst _ _), jumpNext_loopJump _ _ _ (by rw [act_issued, ha, retiredAct_csr]) (by rw [act_issued, ha, retiredAct_pc])⟩

/-- The write of a general register, retired. -/
theorem setG_retire (s : State) (len : Nat) (d : BitVec 5) (v : Word) : RetiresSeq len s ((s.setG d v).retire len).issued (withG s.act.regs d v) s.act.csr := by
  rw [State.setG_eq]
  exact retire_spec s len (withG s.act.regs d v) s.act.csr

/-- Nothing written, retired. -/
theorem self_retire (s : State) (len : Nat) : RetiresSeq len s (s.retire len).issued s.act.regs s.act.csr := by
  have := retire_spec s len s.act.regs s.act.csr
  rwa [show ({ s.act with regs := s.act.regs, csr := s.act.csr } : Act) = s.act from rfl, State.setAct_act] at this

/-- Nothing written, then a transfer. -/
theorem self_retireTo (s : State) (p : Word) : RetiresTo p s (s.retireTo p).issued s.act.regs s.act.csr := by
  have := retireTo_spec s p s.act.regs s.act.csr
  rwa [show ({ s.act with regs := s.act.regs, csr := s.act.csr } : Act) = s.act from rfl, State.setAct_act] at this

end Sys2Proof.Safety
end

