-- ==== Sys2Proof/Laws/Vector.lean ====
section
/-! SUPPORT. What an element-wise instruction and a compare do: one law each. -/

namespace Sys2Proof.Safety

open Sys2Proof.Machine

theorem ofLanes_lt (w : Nat) (xs : List Nat) : ofLanes w xs < 2 ^ (w * xs.length) := by
  induction xs with
  | nil => simp [ofLanes]
  | cons x xs ih =>
    have h1 : x % 2 ^ w < 2 ^ w := Nat.mod_lt _ (Nat.two_pow_pos w)
    have h2 : 2 ^ (w * (x :: xs).length) = 2 ^ w * 2 ^ (w * xs.length) := by rw [List.length_cons, Nat.mul_succ, Nat.pow_add]; ring
    rw [h2]
    unfold ofLanes
    calc x % 2 ^ w + 2 ^ w * ofLanes w xs < 2 ^ w + 2 ^ w * ofLanes w xs := by omega
      _ = 2 ^ w * (ofLanes w xs + 1) := by ring
      _ ≤ 2 ^ w * 2 ^ (w * xs.length) := Nat.mul_le_mul_left _ ih

/-- Lane `i` of the number that holds a list of lanes. -/
theorem ofLanes_lane (w : Nat) (xs : List Nat) (i : Nat) : ofLanes w xs / 2 ^ (w * i) % 2 ^ w = xs.getD i 0 % 2 ^ w := by
  induction xs generalizing i with
  | nil => simp [ofLanes]
  | cons x xs ih =>
    unfold ofLanes
    cases i with
    | zero => simp
    | succ i =>
      have h1 : x % 2 ^ w < 2 ^ w := Nat.mod_lt _ (Nat.two_pow_pos w)
      rw [show 2 ^ (w * (i + 1)) = 2 ^ w * 2 ^ (w * i) by rw [Nat.mul_succ, Nat.pow_add]; ring, ← Nat.div_div_eq_div_mul,
        Nat.add_mul_div_left _ _ (Nat.two_pow_pos w), Nat.div_eq_of_lt h1, Nat.zero_add, ih]
      simp

theorem lane_ofLanes (w : Nat) (xs : List Nat) (h : w * xs.length ≤ 256) (i : Nat) : lane w (BitVec.ofNat 256 (ofLanes w xs)) i = xs.getD i 0 % 2 ^ w := by
  have h1 := ofLanes_lt w xs
  have h2 : 2 ^ (w * xs.length) ≤ 2 ^ 256 := Nat.pow_le_pow_right (by decide) h
  unfold lane
  rw [BitVec.toNat_ofNat, Nat.mod_eq_of_lt (Nat.lt_of_lt_of_le h1 h2), ofLanes_lane]

theorem laneWidth_mul (t : TypeCode) : laneWidth t * laneCount t ≤ 256 := Nat.mul_div_le 256 _

theorem active_eq (k : BitVec 32) (i : Nat) : active k i = k.getLsbD i := rfl

theorem lane_lt (w : Nat) (x : Strip) (i : Nat) : lane w x i < 2 ^ w := Nat.mod_lt _ (Nat.two_pow_pos w)

theorem foldl_or_bit (l : List (BitVec 6)) (a : BitVec 6) (b : Nat) :
    (l.foldl (· ||| ·) a).getLsbD b = (a.getLsbD b || l.any fun f => f.getLsbD b) := by
  induction l generalizing a with
  | nil => simp
  | cons x l ih => rw [List.foldl_cons, ih]; simp [Bool.or_assoc]

theorem orFlags_bit (l : List (BitVec 6)) (b : Nat) : (orFlags l).getLsbD b = l.any fun f => f.getLsbD b := by
  unfold orFlags; rw [foldl_or_bit]; simp

theorem laneFlags_orFlags (n : Nat) (k : BitVec 32) (f : Nat → BitVec 6) (g : Nat → BitVec 6) (h : ∀ i, g i = if k.getLsbD i then f i else 0) :
    laneFlags n k f (orFlags ((List.range n).map g)) := by
  intro b _
  rw [orFlags_bit]
  simp only [List.any_map, List.any_eq_true, List.mem_range, Function.comp_apply]
  constructor
  · rintro ⟨i, hi, hb⟩
    rw [h] at hb
    split at hb
    · next hk => exact ⟨i, hi, hk, hb⟩
    · simp at hb
  · rintro ⟨i, hi, hk, hb⟩
    exact ⟨i, hi, by rw [h, if_pos hk]; exact hb⟩

/-- The o sources read, flags added and an o register written, retired. -/
theorem setO_retire (s : State) (src : List (BitVec 3 × BitVec 1)) (fl : BitVec 6) (len : Nat) (d : BitVec 3) (v : Strip) :
    RetiresSeq len s ((((s.useO src).addFlags fl).setO d v).retire len).issued (withO s.act.regs d v) (withLive (withFlags (usedO s src) fl) d) := by
  have : (((s.useO src).addFlags fl).setO d v) =
      s.setAct { s.act with regs := withO s.act.regs d v, csr := withLive (withFlags (usedO s src) fl) d } := by
    simp only [State.useO, State.addFlags, State.setO, State.modCsr, State.modAct, State.act_setAct, State.setAct_setAct]
    rfl
  rw [this]
  exact retire_spec s len _ _

/-- The o sources read, flags added and a mask register written, retired. -/
theorem setK_retire (s : State) (src : List (BitVec 3 × BitVec 1)) (fl : BitVec 6) (len : Nat) (e : BitVec 2) (m : BitVec 32) :
    RetiresSeq len s ((((s.useO src).addFlags fl).setK e m).retire len).issued (withK s.act.regs e m) (withFlags (usedO s src) fl) := by
  have : (((s.useO src).addFlags fl).setK e m) = s.setAct { s.act with regs := withK s.act.regs e m, csr := withFlags (usedO s src) fl } := by
    unfold State.setK withK
    simp only [State.useO, State.addFlags, State.modCsr, State.modRegs, State.modAct, State.act_setAct, State.setAct_setAct]
    split <;> rfl
  rw [this]
  exact retire_spec s len _ _

/-- Everything an element-wise instruction does (R100). -/
theorem vec_spec (i : Instr) (ty : TypeCode) (d : BitVec 3) (k : BitVec 2) (src : List (BitVec 3 × BitVec 1)) (f : Nat → Nat × BitVec 6) (s : State)
    (h : exec i s = finish 4 s (.ok (s.vec d (laneWidth ty) (laneCount ty) k src f))) : VecDoes i ty d k src f s := by
  have hl : laneWidth ty * (((List.range (laneCount ty)).map fun j => if active (s.k k) j then f j else (lane (laneWidth ty) (s.o d) j, 0)).map (·.1)).length
      ≤ 256 := by simpa using laneWidth_mul ty
  refine ⟨(vecResult (laneWidth ty) (laneCount ty) (s.k k) (s.o d) f).1, (vecResult (laneWidth ty) (laneCount ty) (s.k k) (s.o d) f).2, ?_, fun j hj => ?_,
    _, h, setO_retire s src _ 4 d _⟩
  · show laneFlags _ _ _ (orFlags _)
    rw [List.map_map]
    refine laneFlags_orFlags _ _ _ _ fun j => ?_
    simp only [Function.comp_apply]
    rw [← active_eq]
    by_cases hk : active (s.k k) j = true
    · rw [if_pos hk, if_pos hk]
    · rw [if_neg hk, if_neg hk]
  · show lane _ (BitVec.ofNat 256 (ofLanes _ _)) j = _
    rw [lane_ofLanes _ _ hl, List.map_map, List.getD_eq_getElem?_getD, List.getElem?_map, List.getElem?_range hj]
    simp only [Option.map_some, Option.getD_some, Function.comp_apply]
    rw [← active_eq]
    by_cases hk : active (s.k k) j = true
    · rw [if_pos hk, if_pos hk]
    · rw [if_neg hk, if_neg hk]; exact Nat.mod_eq_of_lt (lane_lt ..)

/-- Everything a compare does (R107, R110). -/
theorem cmp_spec (i : Instr) (ty : TypeCode) (e k : BitVec 2) (src : List (BitVec 3 × BitVec 1)) (f : Nat → Bool × BitVec 6) (s : State)
    (h : exec i s = finish 4 s (.ok (s.cmp e (laneCount ty) k src f))) : CmpDoes i ty e k src f s := by
  refine ⟨(maskResult (laneCount ty) (s.k k) f).1, (maskResult (laneCount ty) (s.k k) f).2, ?_, fun j hj => ?_, _, h, setK_retire s src _ 4 e _⟩
  · show laneFlags _ _ _ (orFlags _)
    rw [List.map_map]
    refine laneFlags_orFlags _ _ _ _ fun j => ?_
    simp only [Function.comp_apply]
    rw [← active_eq]
    by_cases hk : active (s.k k) j = true
    · rw [if_pos hk, if_pos hk]
    · rw [if_neg hk, if_neg hk]
  · show (BitVec.ofNat 32 (ofLanes 1 _)).getLsbD j = _
    rw [BitVec.getLsbD_ofNat, Nat.testBit_eq_decide_div_mod_eq]
    have := ofLanes_lane 1 ((((List.range (laneCount ty)).map fun j => if active (s.k k) j then f j else (false, 0))).map fun r => if r.1 then 1 else 0) j
    rw [Nat.one_mul] at this
    rw [show (2 : Nat) ^ 1 = 2 from rfl] at this
    have e : ((((List.range (laneCount ty)).map fun j => if active (s.k k) j then f j else (false, 0))).map fun r => if r.1 then 1 else 0).getD j 0 =
        if (decide (j < laneCount ty) && (s.k k).getLsbD j && (f j).1) = true then 1 else 0 := by
      rw [List.map_map, List.getD_eq_getElem?_getD, List.getElem?_map]
      by_cases hc : j < laneCount ty
      · rw [List.getElem?_range hc, ← active_eq]
        simp only [Option.map_some, Option.getD_some, Function.comp_apply]
        by_cases hk : active (s.k k) j = true
        · rw [if_pos hk]; simp [hc, hk]
        · rw [if_neg hk]; simp [hk]
      · rw [List.getElem?_eq_none (by simpa using hc)]
        simp [hc]
    rw [e] at this
    rw [decide_eq_true hj, Bool.true_and, this]
    generalize (decide (j < laneCount ty) && (s.k k).getLsbD j && (f j).1) = b
    cases b <;> rfl

end Sys2Proof.Safety
end

