-- ==== Sys2Proof/Tests/Slice0.lean ====
section
/-! SUPPORT. Tests: ill-formed terms, words of the spec's encodings, single instructions, and states that meet the hypotheses of the statements. -/

namespace Sys2Proof.Tests

open Sys2Proof.Machine Sys2Proof.Safety

section

set_option Elab.async false

/-! Terms that the checks of R57 refuse, by constructor. -/

theorem test_ill_formed_1 : ([.stb 1 0 0, .sth 1 0 0, .stw 1 0 0, .std 1 0 0, .vst 1 0 0, .vsth 1 0 0, .ldp 0 1 0, .ldp 3 1 0,
  .stp 0 1 0, .stp 3 1 0, .stp 2 0 0, .loop 1 0, .loopi 1 0, .gld 0 3 1 1 0 20 1, .gld 0 3 1 1 0 252 0, .aadd 1 0 0 1 1 252,
  .aadd 0 0 0 1 1 20, .aand 1 0 0 1 1 252, .aand 0 0 0 1 1 20, .aor 1 0 0 1 1 252, .aor 0 0 0 1 1 20, .axor 1 0 0 1 1 252, .axor 0 0 0 1 1 20, .amin 1 0 0 1 1 252,
  .amin 0 0 0 1 1 20, .amax 1 0 0 1 1 252, .amax 0 0 0 1 1 20, .aminu 1 0 0 1 1 252, .aminu 0 0 0 1 1 20, .amaxu 1 0 0 1 1 252, .amaxu 0 0 0 1 1 20, .aswap 1 0 0 1 1 252,
  .aswap 0 0 0 1 1 20, .acas 1 0 0 1 2 252, .acas 0 0 0 1 2 20, .acas 1 0 0 1 0 20, .acas 1 0 0 1 3 20, .afadd 1 0 0 1 1 252, .afadd 0 0 0 1 1 20, .send 0 1 0 9 20] : List Instr).all (fun i => !i.wf) = true := by decide

theorem test_ill_formed_2 : ([.send 0 1 31 2 20, .send 0 1 3 0 20, .sendp 0 1 0 9 20, .sendp 0 1 31 2 20, .sendp 0 1 3 0 20, .sendm 0 1 0 9 20, .sendm 0 1 31 2 20, .sendm 0 1 3 0 20,
  .reply 0 1 0 9 20, .reply 0 1 31 2 20, .reply 0 1 3 0 20, .jdec 0 1 0, .lwin 0 0, .sbind 6 0, .sdrop 7, .sstat 6 1,
  .vadd 0 0 0 0 0 0 4, .vsub 0 0 0 0 0 0 4, .vmul 0 0 0 0 0 0 4, .vdiv 0 0 0 0 0 0 4, .vsqrt 0 0 0 0 4, .vfma 0 0 0 0 0 0 0 0 4, .vfms 0 0 0 0 0 0 0 0 4, .vfnma 0 0 0 0 0 0 0 0 4,
  .vmin 0 0 0 0 0 0 4, .vmax 0 0 0 0 0 0 4, .vabs 0 0 0 0 4, .vneg 0 0 0 0 4, .vfeq 0 0 0 0 0 0 4, .vflt 0 0 0 0 0 0 4, .vfle 0 0 0 0 0 0 4, .vfclass 0 0 0 0 4,
  .vcvt 0 0 0 4 0 4, .vcvt 0 0 0 0 0 0, .vcvt 0 0 0 1 0 0, .vcvt 0 0 0 12 0 0, .vcvtl 0 0 0 0 0 0, .vcvtl 0 0 0 2 0 3, .vcvtl 0 0 0 6 0 4, .vcvth 0 0 0 0 0 0] : List Instr).all (fun i => !i.wf) = true := by decide

theorem test_ill_formed_3 : ([.vcvth 0 0 0 2 0 3, .vcvth 0 0 0 6 0 4, .vcvtn 0 0 0 0 0 0 0 0, .vcvtn 0 0 0 0 0 4 0 6, .vcvtn 0 0 0 0 0 2 0 0, .vaddInt 0 0 0 0 0 0 3, .vaddInt 0 0 0 0 0 0 12, .vsubInt 0 0 0 0 0 0 3,
  .vsubInt 0 0 0 0 0 0 12, .vmulInt 0 0 0 0 0 0 3, .vmulInt 0 0 0 0 0 0 12, .vmulh 0 0 0 0 0 0 3, .vmulh 0 0 0 0 0 0 12, .vand 0 0 0 0 0 0 3, .vand 0 0 0 0 0 0 12, .vor 0 0 0 0 0 0 3,
  .vor 0 0 0 0 0 0 12, .vxor 0 0 0 0 0 0 3, .vxor 0 0 0 0 0 0 12, .vsll 0 0 0 0 0 0 3, .vsll 0 0 0 0 0 0 12, .vsrl 0 0 0 0 0 0 3, .vsrl 0 0 0 0 0 0 12, .vsra 0 0 0 0 0 0 3,
  .vsra 0 0 0 0 0 0 12, .vminInt 0 0 0 0 0 0 3, .vminInt 0 0 0 0 0 0 12, .vmaxInt 0 0 0 0 0 0 3, .vmaxInt 0 0 0 0 0 0 12, .vadds 0 0 0 0 0 0 3, .vadds 0 0 0 0 0 0 12, .vsubs 0 0 0 0 0 0 3,
  .vsubs 0 0 0 0 0 0 12, .vabsd 0 0 0 0 0 0 3, .vabsd 0 0 0 0 0 0 12, .vmadd 0 0 0 0 0 0 0 0 3, .vmadd 0 0 0 0 0 0 0 0 12, .vceq 0 0 0 0 0 0 3, .vceq 0 0 0 0 0 0 12, .vclt 0 0 0 0 0 0 3] : List Instr).all (fun i => !i.wf) = true := by decide

theorem test_ill_formed_4 : ([.vclt 0 0 0 0 0 0 12, .vcle 0 0 0 0 0 0 3, .vcle 0 0 0 0 0 0 12, .vsel 0 0 0 0 0 0 12, .vperm 0 0 0 0 0 0 12, .vbcast 0 0 0 0 0 0 12, .vrev 0 0 0 0 12, .vzipl 0 0 0 0 0 0 12,
  .vziph 0 0 0 0 0 0 12, .vuzpe 0 0 0 0 0 0 12, .vuzpo 0 0 0 0 0 0 12, .vrsum 0 0 0 0 12, .vrmin 0 0 0 0 12, .vrmax 0 0 0 0 12, .vrand 0 0 0 0 3, .vrand 0 0 0 0 12,
  .vror 0 0 0 0 3, .vror 0 0 0 0 12, .vrxor 0 0 0 0 3, .vrxor 0 0 0 0 12, .vmovOport 4 0 0, .vmovOport 0 0 1, .vmovOport 12 0 0, .vmovPorto 3 0 0,
  .vmovPorto 6 0 0, .vmovPorto 12 0 0, .vsplat 1 0 12, .vext 1 0 0 0 12, .vext 1 0 0 8 0, .vext 1 0 0 4 1, .vins 1 0 0 12, .vins 1 0 8 0,
  .vins 1 0 4 1, .vexp2 0 0 0 0 2, .vlog2 0 0 0 0 2, .vrcp 0 0 0 0 2, .vrsq 0 0 0 0 2, .vsinpi 0 0 0 0 2, .vcospi 0 0 0 0 2, .vdec 0 0 0 0 4 0] : List Instr).all (fun i => !i.wf) = true := by decide

theorem test_ill_formed_5 : ([.vdec 0 0 0 0 2 2, .venc 0 0 0 0 4 0, .venc 0 0 0 0 2 2, .bld 0 1 0 2 0, .bld 1 1 0 0 0, .bld 0 1 1 1 0, .bst 0 0 1 0 2 0, .bst 1 0 1 0 0 0,
  .bst 0 0 1 1 1 0, .bst 0 0 0 0 0 0, .qld 0 1 3 0, .qld 0 1 0 1, .mma 0 1 3 0 0, .mma 0 1 0 0 15, .mma 0 1 0 0 248, .acczero 3,
  .mxcmd 0 1 3 0 0, .mxcmd 0 1 0 0 15, .mxcmd 0 1 0 0 251, .dxrun 0 1 0 0, .abegin 1 1 15, .apitch 1 1 248, .asummit 1 1, .aretreat 1 249,
  .aresume 1 3 20, .aresume 1 0 8, .astat 1 0, .imgld 1 1 8, .hset 1 256, .pset 1 1 63, .winw 1 1 8, .keyset 1 0,
  .keyset 1 16, .imgev 1 8, .wpset 1 1 8, .wpclr 8, .bpset 1 4, .dstat 1 4, .cMv 0 1] : List Instr).all (fun i => !i.wf) = true := by decide

/-! Words written out from the encodings of the spec. -/

/-- R165: `crd g5, cnum`, whose number is 0x010. -/
theorem test_decode_crd_cnum : decodeTableWord 32 0xA2001410 = some (.crd 5 0x010) := by decide +kernel

set_option maxRecDepth 100000 in
/-- The SHA3-256 example of FIPS 202's authors for "abc": 3a985da74fe225b2045c172d6bd390bd... (log entry 6). -/
theorem test_sha3 : sha3First128 [0x61, 0x62, 0x63] = 0xbd90d36b2d175c04b225e24fa75d983a := by decide +kernel

/-- `addi g3, g3, -1` (R83): MO 0x01. -/
theorem test_decode_addi : decodeTableWord 32 0x8231FFFF = some (.addi 3 3 0x7FFF) := by decide +kernel

/-- `andi g4, g5, -16384` (R83): MO 0x02. -/
theorem test_decode_andi : decodeTableWord 32 0x8442C000 = some (.andi 4 5 0x4000) := by decide +kernel

/-- `add g8, g6, g7` (R81): MO 0x00. -/
theorem test_decode_add : decodeTableWord 32 0x80831C00 = some (.add 8 6 7) := by decide +kernel

/-- `rori g9, g3, 63` (R84): fn2 3. -/
theorem test_decode_rori : decodeTableWord 32 0x8A91E03F = some (.rori 9 3 63) := by decide +kernel

/-- `sltiu g2, g1, -1` (R85): u 1. -/
theorem test_decode_sltiu : decodeTableWord 32 0x8C20FFFF = some (.sltiu 2 1 0x3FFF) := by decide +kernel

/-- `li g20, 0x100` (R86). -/
theorem test_decode_li : decodeTableWord 32 0x8F400100 = some (.li 20 0x100) := by decide +kernel

/-- `lih g5, 0x4567, 2` (R86). -/
theorem test_decode_lih : decodeTableWord 32 0x8E5A4567 = some (.lih 5 2 0x4567) := by decide +kernel

/-- `ldhu g7, [g31-2048]` (R87): sz 5. -/
theorem test_decode_ldhu : decodeTableWord 32 0x907FD800 = some (.ldhu 7 31 0x800) := by decide +kernel

/-- `stw g7, [g1+4]` (R88): sz 2. -/
theorem test_decode_stw : decodeTableWord 32 0x9270A004 = some (.stw 7 1 4) := by decide +kernel

/-- `vst v31, [g1+32]` (R103): sz 2. -/
theorem test_decode_vst : decodeTableWord 32 0x95F0A020 = some (.vst 31 1 32) := by decide +kernel

/-- `ldp g6, [pc+32]` (R89). -/
theorem test_decode_ldp : decodeTableWord 32 0x96600020 = some (.ldp 6 0 32) := by decide +kernel

/-- `stp g6, [g11+0]` (R89). -/
theorem test_decode_stp : decodeTableWord 32 0x96659000 = some (.stp 6 11 0) := by decide +kernel

/-- `bltu g5, g6` 8 halfwords on (R90): cond 4. -/
theorem test_decode_bltu : decodeTableWord 32 0x990A6008 = some (.bltu 5 6 8) := by decide +kernel

/-- `jal` one halfword back (R91): link 1. -/
theorem test_decode_jal : decodeTableWord 32 0x9BFFFFFF = some (.jal 0xFFFFFF) := by decide +kernel

/-- `jalr g31` (R92): rd 31. -/
theorem test_decode_jalr : decodeTableWord 32 0x9DFF8000 = some (.jalr 31 0) := by decide +kernel

/-- `loop g3` over 4 halfwords (R94). -/
theorem test_decode_loop : decodeTableWord 32 0x9E180004 = some (.loop 3 4) := by decide +kernel

/-- `trap 5` (R96). -/
theorem test_decode_trap : decodeTableWord 32 0xA0300005 = some (.trap 5) := by decide +kernel

/-- `crd g9, fflg` (R97). -/
theorem test_decode_crd : decodeTableWord 32 0xA2002400 = some (.crd 9 0) := by decide +kernel

/-- `cins fflg, g0, g5` (R97). -/
theorem test_decode_cins : decodeTableWord 32 0xA2201400 = some (.cins 0 5 0) := by decide +kernel

/-- `gld.d` (R204). -/
theorem test_decode_gld : decodeTableWord 32 0xA4C29850 = some (.gld 0 3 5 6 0 40 0) := by decide +kernel

/-- `gst.d.l` (R204). -/
theorem test_decode_gst : decodeTableWord 32 0xA7C29C00 = some (.gst 1 3 5 7 0) := by decide +kernel

/-- `putr [g5], g8, g9` (R206). -/
theorem test_decode_putr : decodeTableWord 32 0xA8854240 = some (.putr 0 0 5 8 9) := by decide +kernel

/-- `aadd.r 41` (R207). -/
theorem test_decode_aaddr : decodeTableWord 32 0xAA10A629 = some (.aadd 1 0 0 5 6 41) := by decide +kernel

/-- `send g14, 18` (R173). -/
theorem test_decode_send : decodeTableWord 32 0xAC1C0012 = some (.send 0 14 0 0 18) := by decide +kernel

/-- `jdec.l g7, 1` (R180). -/
theorem test_decode_jdec : decodeTableWord 32 0xAE738001 = some (.jdec 1 7 1) := by decide +kernel

/-- `barm 24, g20` (R180). -/
theorem test_decode_barm : decodeTableWord 32 0xAE805018 = some (.barm 20 24) := by decide +kernel

/-- `lwin le, 4` (R187). -/
theorem test_decode_lwin : decodeTableWord 32 0xB0000004 = some (.lwin 0 4) := by decide +kernel

/-- `lstat g5, ls` (R187). -/
theorem test_decode_lstat : decodeTableWord 32 0xB0728000 = some (.lstat 3 5) := by decide +kernel

/-- `sstat g5, si1` (R228). -/
theorem test_decode_sstat : decodeTableWord 32 0xB2882800 = some (.sstat 1 5) := by decide +kernel

/-- `tmcnt tm7, g9, 3` (R116). -/
theorem test_decode_tmcnt : decodeTableWord 32 0xB5D3A000 = some (.tmcnt 7 9 3) := by decide +kernel

/-- `chk 0` (R308). -/
theorem test_decode_chk : decodeTableWord 32 0xB6000000 = some (.chk 0) := by decide +kernel

/-- `vfma.f32 o0, o0, o1, o3` (R106). -/
theorem test_decode_vfma : decodeTableWord 32 0xB8009805 = some (.vfma 0 0 0 1 0 3 0 0 0) := by decide +kernel

/-- `vadd.f32 o2, o0!, o1!` (R106). -/
theorem test_decode_vadd : decodeTableWord 32 0xB884C000 = some (.vadd 2 0 1 1 1 0 0) := by decide +kernel

/-- `vfle.f64 k3, o1, o2, k1` (R107). -/
theorem test_decode_vfle : decodeTableWord 32 0xBAC90112 = some (.vfle 3 1 0 2 0 1 1) := by decide +kernel

/-- `vcvtl.f64.f32 o2, o1` (R108). -/
theorem test_decode_vcvtl : decodeTableWord 32 0xBC880011 = some (.vcvtl 2 1 0 0 0 1) := by decide +kernel

/-- `vclt.i8 k2, o6!, o7` (R110). -/
theorem test_decode_vclt : decodeTableWord 32 0xC0B78071 = some (.vclt 2 6 1 7 0 0 7) := by decide +kernel

/-- `vbcast.f32 o1, o2, o3!, k2` (R111). -/
theorem test_decode_vbcast : decodeTableWord 32 0xC251C201 = some (.vbcast 1 2 0 3 1 2 0) := by decide +kernel

/-- `vrmax.f64 o5, o4!` (R112). -/
theorem test_decode_vrmax : decodeTableWord 32 0xC5640012 = some (.vrmax 5 4 1 0 1) := by decide +kernel

/-- `vmov o0, v24` (R104). -/
theorem test_decode_vmov : decodeTableWord 32 0xC6180000 = some (.vmovOV 24 0) := by decide +kernel

/-- `vsplat.w64 o0, g5` (R104). -/
theorem test_decode_vsplat : decodeTableWord 32 0xC6A50024 = some (.vsplat 5 0 9) := by decide +kernel

/-- `venc` of BF16 lanes, q 1, B side (R118). -/
theorem test_decode_venc : decodeTableWord 32 0xCA89D300 = some (.venc 1 3 1 1 1 2) := by decide +kernel

/-- `accst acc1:0:0, o2!` (R132). -/
theorem test_decode_accst : decodeTableWord 32 0xCF2B0000 = some (.accst 2 1 1 0 0 0) := by decide +kernel

/-- `mma acc0, q0, q1` (R133). -/
theorem test_decode_mma : decodeTableWord 32 0xCEE08000 = some (.mma 0 1 0 0 0) := by decide +kernel

/-- `qput q0, g6, o0` (R131). -/
theorem test_decode_qput : decodeTableWord 32 0xCE80C000 = some (.qput 0 6 0 0) := by decide +kernel

/-- `mxcmd` with channel 18 (R135). -/
theorem test_decode_mxcmd : decodeTableWord 32 0xCF608012 = some (.mxcmd 0 1 0 0 18) := by decide +kernel

/-- `dxrun.f` (R146). -/
theorem test_decode_dxrun : decodeTableWord 32 0xD045A400 = some (.dxrun 0 5 20 1) := by decide +kernel

/-- `apitch g7, 30, v4` (R291). -/
theorem test_decode_apitch : decodeTableWord 32 0xD28E401E = some (.apitch 7 4 30) := by decide +kernel

/-- `ajoin g3` (R291). -/
theorem test_decode_ajoin : decodeTableWord 32 0xD2460000 = some (.ajoin 3) := by decide +kernel

/-- `imgld` into entry 2 (R311). -/
theorem test_decode_imgld : decodeTableWord 32 0xD4031402 = some (.imgld 6 5 2) := by decide +kernel

/-- `wpset` of watchpoint 2 (R338). -/
theorem test_decode_wpset : decodeTableWord 32 0xD6131C02 = some (.wpset 6 7 2) := by decide +kernel

/-- `cpy` (R230). -/
theorem test_decode_cpy : decodeTableWord 32 0xD94A8C00 = some (.cpy 20 21 3 0) := by decide +kernel

/-- `c.mv g6, g7` (R53). -/
theorem test_decode_cmv : decodeTableWord 16 0x018E = some (.cMv 6 7) := by decide +kernel

/-- `c.beqz g31` 32 halfwords back (R53). -/
theorem test_decode_cbeqz : decodeTableWord 16 0x27E0 = some (.cBeqz 31 0x20) := by decide +kernel

/-- `c.end` (R53). -/
theorem test_decode_cend : decodeTableWord 16 0x5900 = some (.cEnd) := by decide +kernel

/-- Refused: MO 0x2D is unassigned (R57). -/
theorem test_decode_refuses_unassigned_major : decodeTableWord 32 0xDA000000 = none := by decide +kernel

/-- Refused: MO 0x3F is unassigned (R57). -/
theorem test_decode_refuses_all_ones : decodeTableWord 32 0xFFFFFFFF = none := by decide +kernel

/-- Refused: the zero halfword is reserved (R53). -/
theorem test_decode_refuses_zero_halfword : decodeTableWord 16 0x0000 = none := by decide +kernel

/-- Refused: a reserved bit of a shift immediate (R56). -/
theorem test_decode_refuses_reserved_bit : decodeTableWord 32 0x8A918040 = none := by decide +kernel

/-- Refused: op4 13 is unassigned (R57). -/
theorem test_decode_refuses_short_op13 : decodeTableWord 16 0x6800 = none := by decide +kernel

/-! One step or one instruction on a small state. Expected values are the spec's, or are worked out from its rules by hand. -/

/-- The next state of an outcome; the state of reset for a stop. -/
def nextOf (o : Host.Outcome State Fault Refusal) : State := match o with
  | .next t => t
  | _ => State.reset

/-- A class-S activation in slot 3 about to run the instruction with bits `w`. -/
def start (w : Nat) : State := { State.reset.withFetchWord 32 w with slot := 3 }

/-- A class-S activation in slot 3. -/
def base : State := start 0xA0100000

/-- A class-N activation in slot 0. -/
def userBase : State :=
  let a : Act := { base.here.acts[3] with img := { placedImage with cls := 0, ten := 1 } }
  { base with slot := 0, here := { base.here with acts := base.here.acts.set 0 a } }

/-- General registers set. -/
def gs (s : State) (l : List (BitVec 5 × Word)) : State := l.foldl (fun u p => u.setG p.1 p.2) s

/-- An o register set. -/
def os (s : State) (d : BitVec 3) (v : Strip) : State := s.modRegs fun x => { x with o := x.o.set d.toNat v }

/-- Bytes of local memory set under key slot 0. -/
def mem (s : State) (a : Nat) (bs : List Byte) : State := { s with here := { s.here with mem := s.here.mem.write s.at_ KeyId.system a bs } }

/-- The state after an instruction. -/
def run (i : Instr) (s : State) : State := nextOf (exec i s)

/-- The state after the step that fetches and runs a word. -/
def step1 (w : Nat) (f : State → State) : State := nextOf (step (f (start w)))

/-- R81: 5 + (2^64 - 1) wraps to 4, fetched from the image. -/
theorem test_step_add_wraps : (let t := step1 0x80831C00 (gs · [(6, 5), (7, 0xFFFFFFFFFFFFFFFF)]); (t.g 8, t.pc)) = (4, 4) := by decide +kernel
/-- R37, R46: an empty image cannot be fetched from at address 2. -/
theorem test_step_fetch_clear_map : (nextOf (step ((start 0).modAct fun a => { a with pc := 4 }))).here.acts[(3 : Fin 4)].busy = false := by decide +kernel
/-- R27: a write to g0 is discarded. -/
theorem test_add_g0 : (run (.add 0 6 7) (gs base [(6, 5), (7, 1)])).g 0 = 0 := by decide +kernel
/-- R81: 3 - 5. -/
theorem test_sub : (run (.sub 8 6 7) (gs base [(6, 3), (7, 5)])).g 8 = 0xFFFFFFFFFFFFFFFE := by decide +kernel
/-- R81: high half of -1 times 2^64 - 1, signed by unsigned. -/
theorem test_mhisu : (run (.mhisu 8 6 7) (gs base [(6, 0xFFFFFFFFFFFFFFFF), (7, 0xFFFFFFFFFFFFFFFF)])).g 8 = 0xFFFFFFFFFFFFFFFF := by decide +kernel
/-- R82: -7 divided by 2 rounds towards zero, remainder -1. -/
theorem test_div_rem : (let s := gs base [(6, 0xFFFFFFFFFFFFFFF9), (7, 2)]; ((run (.div 8 6 7) s).g 8, (run (.rem 8 6 7) s).g 8)) =
    (0xFFFFFFFFFFFFFFFD, 0xFFFFFFFFFFFFFFFF) := by decide +kernel
/-- R81: no one bit. -/
theorem test_clz_zero : (run (.clz 8 6) base).g 8 = 64 := by decide +kernel
/-- R84: an arithmetic shift by 63 of a negative value. -/
theorem test_srai : (run (.srai 8 6 63) (gs base [(6, 0x8000000000000000)])).g 8 = 0xFFFFFFFFFFFFFFFF := by decide +kernel
/-- R85: only all ones is not below all ones. -/
theorem test_sltiu : ((run (.sltiu 8 6 0x3FFF) base).g 8, (run (.sltiu 8 6 0x3FFF) (gs base [(6, 0xFFFFFFFFFFFFFFFF)])).g 8) = (1, 0) := by decide +kernel
/-- R86: the second instruction of the example. -/
theorem test_lih : (run (.lih 5 1 0x89AB) (gs base [(5, 0xCDEF)])).g 5 = 0x89ABCDEF := by decide +kernel
/-- R87: a negative byte. -/
theorem test_ldb_sign : (run (.ldb 8 6 1) (mem (gs base [(6, 0x100)]) 0x101 [0x80])).g 8 = 0xFFFFFFFFFFFFFF80 := by decide +kernel
/-- R87: the last doubleword of local memory; its address is the source register's old value. -/
theorem test_ldd_top : (run (.ldd 6 6 0) (mem (gs base [(6, 0x3FFF8)]) 0x3FFFF [0x12])).g 6 = 0x1200000000000000 := by decide +kernel
/-- R32: 0x3FFFC is in range and misaligned for eight bytes. -/
theorem test_ldd_align : run (.ldd 8 6 0) (gs base [(6, 0x3FFFC)]) = ((gs base [(6, 0x3FFFC)]).trap (.atNear 0x0F 0x3FFFC 0x3FFFC)).issued := by decide +kernel
/-- R88: four bytes, little-endian, and no fifth. -/
theorem test_stw : (let t := run (.stw 8 6 0) (gs base [(6, 0x100), (8, 0xAABBCCDD11223344)]); t.here.mem.bytes) = [(0x100, 0x44), (0x101, 0x33), (0x102, 0x22), (0x103, 0x11)] := by
  decide +kernel
/-- R89: the base is read before it is overwritten. -/
theorem test_ldp : (let t := run (.ldp 10 11 0) (mem (gs base [(11, 0x40)]) 0x40 [1, 0, 0, 0, 0, 0, 0, 0, 2]); (t.g 10, t.g 11)) = (1, 2) := by decide +kernel
/-- R103: the upper half is zero. -/
theorem test_vldh : (run (.vldh 3 6 0) (mem (gs base [(6, 0x40)]) 0x4F [0x7F, 0xFF])).act.regs.v[3] = 0x7F000000000000000000000000000000 := by decide +kernel
/-- R90, R50: a backward branch. -/
theorem test_blt_back : (run (.blt 6 7 0xFFE) ((gs base [(6, 0xFFFFFFFFFFFFFFFF)]).modAct fun a => { a with pc := 16 })).pc = 12 := by decide +kernel
/-- R92: the target is formed before the link is written. -/
theorem test_jalr_g31 : (let t := run (.jalr 31 4) (gs base [(31, 0x20)]); (t.pc, t.g 31)) = (0x24, 4) := by decide +kernel
/-- R94: the loop state of a loop of three rounds over two halfwords. -/
theorem test_loop : (let t := run (.loop 3 2) (gs base [(3, 3)]); (t.act.csr.lpcnt, t.act.csr.lpbeg, t.act.csr.lpend)) = (3, 4, 8) := by decide +kernel
/-- R95: at the end of the body the loop goes back. -/
theorem test_loop_back : (let t := run .nop (base.modAct fun a => { a with pc := 8, csr := { a.csr with lpcnt := 2, lpbeg := 4, lpend := 12 } }); (t.pc, t.act.csr.lpcnt)) =
    (4, 1) := by decide +kernel
/-- R96: `end` frees the slot. -/
theorem test_end : (run .end_ base).act.busy = false := by decide +kernel
/-- R96, R238: `trap 5` is TRAPINST with value 5. -/
theorem test_trap : run (.trap 5) base = (base.trap (.plain 0x17 5)).issued := by decide +kernel
/-- R97: 6 is no rounding mode. -/
theorem test_cwr_frm : run (.cwr 6 0x001) (gs base [(6, 6)]) = ((gs base [(6, 6)]).trap (.plain 0x01 0xA2130001)).issued := by decide +kernel
/-- R97: the mask selects the bits. -/
theorem test_cins : (run (.cins 6 7 0x000) ((gs base [(6, 0x3F), (7, 0x0C)]).modCsr fun c => { c with fflg := 1 })).act.csr.fflg = 0x0D := by decide +kernel
/-- R159, R171: a deferred send of no flits waits in the outbox. -/
theorem test_send : (run (.send 0 14 0 0 18) base).act.outbox.length = 1 := by decide +kernel
/-- R174: a class-N slot may not name channel 5. -/
theorem test_send_system_channel : run (.send 0 14 0 0 5) userBase = (userBase.trap (.plain 0x0E 5)).issued := by decide +kernel
/-- R180: test and set of a mask bit. -/
theorem test_chtas : (let t := run (.chtas 5 40) base; (t.g 5, t.here.live.chmask.getLsbD 40)) = (0, true) := by decide +kernel
/-- R104: the low lane of g5 in every lane. -/
theorem test_vsplat : (run (.vsplat 5 0 10) (gs base [(5, 0x1234)])).act.regs.o[0] =
    0x1234123412341234123412341234123412341234123412341234123412341234 := by decide +kernel
/-- R104, R29: a negative lane is sign-extended, and a last use kills. -/
theorem test_vext : (let t := run (.vext 5 1 1 15 6) (os base 1 (0x8000#256 <<< 240)); (t.g 5, t.act.csr.olive)) = (0xFFFFFFFFFFFF8000, 0xFD) := by decide +kernel
/-- R106: 1.5 + 2.25 = 3.75 in lane 0; the other lanes are 0 + 0. -/
theorem test_vadd : (run (.vadd 2 0 0 1 0 0 0) (os (os base 0 0x3FC00000) 1 0x40100000)).act.regs.o[2] = 0x40700000 := by decide +kernel
/-- R66: 1 / 0 is an infinity, with no flag in a lane alone. -/
theorem test_vdiv_zero : (let t := run (.vdiv 2 0 0 1 0 1 0) ((os base 0 0x3F800000).modRegs fun x => { x with k := x.k.set 1 1 }); (t.act.regs.o[2], t.act.csr.fflg)) =
    (0x7F800000, 0) := by decide +kernel
/-- R66: 0 / 0 is the canonical NaN and sets NV. -/
theorem test_vdiv_nan : (let t := run (.vdiv 2 0 0 1 0 0 1) base; (t.act.regs.o[2].extractLsb' 0 64, t.act.csr.fflg)) = (0x7FF8000000000000#64, 0x20) := by decide +kernel
/-- R108: 70,000.0 narrowed to FP16 by RNE. -/
theorem test_vcvtn : (let t := run (.vcvtn 2 0 0 1 0 0 0 3) (os base 0 0x4788B800); (t.act.regs.o[2], t.act.csr.fflg)) = (0x7C00, 0x14) := by decide +kernel
/-- R108: -1.5 to an unsigned integer by RTZ is out of range. -/
theorem test_vcvt_range : (let t := run (.vcvt 2 0 0 0 0 8) ((os base 0 0xBFC00000).modCsr fun c => { c with frm := 1 }); (t.act.regs.o[2], t.act.csr.fflg)) = (0, 0x20) := by
  decide +kernel
/-- R109: a saturating sum. -/
theorem test_vadds : (run (.vadds 2 0 0 1 0 0 7) (os (os base 0 0x7F) 1 0x01)).act.regs.o[2] = 0x7F := by decide +kernel
/-- R110: -1 is below 0 as an i8. -/
theorem test_vclt : (run (.vclt 1 0 0 1 0 0 7) (os base 0 0xFF)).act.regs.k[1] = 1 := by decide +kernel
/-- R111: the last lane comes first. -/
theorem test_vrev : (run (.vrev 2 0 0 0 1) (os base 0 0x0123456789ABCDEF)).act.regs.o[2] = 0x0123456789ABCDEF#256 <<< 192 := by decide +kernel
/-- R112: with every lane inactive the floating sum is -0. -/
theorem test_vrsum_none : (run (.vrsum 2 0 0 1 0) (os base 0 0x3F800000)).act.regs.o[2] = 0x80000000 := by decide +kernel
/-- R114: the reciprocal of -0. -/
theorem test_vrcp_zero : ((run (.vrcp 2 0 0 0 0) (os base 0 0x80000000)).act.regs.o[2].extractLsb' 0 32) = (0xFF800000 : BitVec 32) := by decide +kernel
/-- R116, R117: the example's map walks to 0x0120 first. -/
theorem test_tmld_twld : (let s := mem (gs base [(6, 0x40)]) 0x40 [0x20, 0x01, 0, 0, 0, 0, 0, 0, 0, 0, 0, 0, 0, 0, 0, 0, 8, 0, 4, 0, 2, 0, 0x20, 0, 1, 0, 0, 0, 1];
    let t := mem (run (.tmld 1 6 0) s) 0x120 [0x78, 0x56, 0x34, 0x12]; (run (.twld 2 1 0) t).act.regs.o[2]) = 0x12345678 := by decide +kernel
/-- R116: a base above local memory. -/
theorem test_tmbase_range : run (.tmbase 1 6) (gs base [(6, 0x40000)]) = ((gs base [(6, 0x40000)]).trap (.plain 0x0C 0x40000)).issued := by decide +kernel
/-- R130, R131: a claimed slot takes a word, which is read back. -/
theorem test_qput_qget : (let s := run (.qclaim 0) base; (run (.qget 0 6 3) (run (.qput 0 6 1 0) (os (gs s [(6, 5)]) 1 0xABC))).act.regs.o[3]) = 0xABC := by decide +kernel
/-- R132: what is stored in an accumulator is loaded again. -/
theorem test_accst_accld : (run (.accld 3 0 0 5 8) (run (.accst 1 0 0 0 5 8) (os base 1 0x77))).act.regs.o[3] = 0x77 := by decide +kernel
/-- R311: a class-N slot may not run a system instruction. -/
theorem test_keyset_user : run (.keyset 6 1) userBase = (userBase.trap (.plain 0x0E 5)).issued := by decide +kernel
/-- R318: key slot 1 becomes the key of tenant 9. -/
theorem test_keyset : ((run (.keyset 6 1) (gs base [(6, 9)])).here.regs.keys[1].map (·.ten)) = some 9 := by decide +kernel
/-- R99: the 16-bit forms. -/
theorem test_short : ((run (.cLi 5 0x3F) base).g 5, (run (.cLi 5 0x3F) base).pc) = (0xFFFFFFFFFFFFFFFF, 2) := by decide +kernel
/-- R356: a bring-up step that fails leaves the device in reset, and then only a cold reset is carried out. -/
theorem test_cold_reset_fails : (let t := base.resetPackage 3 []; (t.home.inReset, t.home.resetCause,
    match step t with | .fault .inReset => true | _ => false)) = (true, 3, true) := by decide +kernel
/-- R334: a hot reset drops the keys and sessions. -/
theorem test_hot_reset : (let s := base.modHome fun k => { k with ideKeys := [16], sessions := [1] }; (run .hotReset s).home.ideKeys) = [] := by decide +kernel
/-- R358: a draw above the limit gates for 1,000 cycles. -/
theorem test_power : (run .powerLimitWindow { base with ev := { base.ev with w := 4601 }, time := 7 }).home.gateUntil = 1007 := by decide +kernel

/-! States and operands that meet the hypotheses of the statements, by statement. -/

/-- A clean memory passes every check of an access within it. -/
theorem nearOk_clean (s : State) (store : Bool) (a n al : Nat) (hb : s.here.mem.bad = []) (hp : s.here.mem.poison = []) (ht : s.here.mem.tags = [])
    (hk : s.key = KeyId.system) (h1 : a + n ≤ nearEnd s.at_) (h2 : a % al = 0) : NearOk s store a n al :=
  ⟨h1, h2, fun g _ _ => .inr ⟨by simp [hb], by simp [hp], by simp [LocalMem.tagOk, LocalMem.tag, look, ht, hk]⟩⟩

/-- An instruction about to be fetched and run by the next step. -/
def ready0 : State := start 0x80831C00

theorem witness_StepRunsDecoded :
    (ready0.turns.isEmpty && !ready0.home.inReset && ready0.dueWindow.isNone && !ready0.here.dbg.stopped && !(ready0.here.live.ages.any fun a => a.2.behind) && ready0.spentSlot.isNone && ready0.vendor.isNone &&
      ready0.choose.isNone && ready0.searchOrder.filter ready0.ready == [3] && State.bpHits { ready0 with slot := 3 } == 0 && !ready0.gated) = true ∧
    (isLong (halfOfBytes (memByte ready0.here.imem 0) (memByte ready0.here.imem 1)) = true ∧ ready0.here.acts[(3 : Fin 4)].img.xlen = 64 ∧
      (∀ j, j < 4 → ready0.here.xmap.getLsbD (j / 2) = true) ∧ ready0.here.imemBad = []) ∧
    decodeTableWord 32 0x80831C00 = some (.add 8 6 7) := by decide +kernel

/-- A turn of the fabric engine: an event of the table. -/
theorem witness_StepRunsDecoded_turn : ∃ (s : State) (x : Turn), s.turns = [x] ∧ encode x.what = .event ∧ (({ s with turns := [] } : State).focus x.core).home.inReset = false :=
  ⟨{ base with turns := [{ core := 0, what := .hotReset, arg := EvArg.none }] }, { core := 0, what := .hotReset, arg := EvArg.none }, rfl, rfl, by decide +kernel⟩

/-- A well-formed instruction with an encoding, and bytes that are read as one with a byte left. -/
theorem witness_RoundTrip : (Instr.addi 3 3 0x7FFF).wf = true ∧ encode (.addi 3 3 0x7FFF) ≠ .event ∧
    (match decode [0x31, 0x82, 0xFF, 0xFF, 7] with | .ok (i, rest) => decide (i = .addi 3 3 0x7FFF ∧ rest = [7]) | .error _ => false) = true := by decide +kernel

theorem witness_MemoriesStayCanonical : Wf State.reset ∧ Safety.Steps ready0 :=
  ⟨⟨⟨rfl, rfl⟩, List.forall_mem_nil _, by unfold pkgWf; decide +kernel, rfl⟩, by
    show ∃ t, step ready0 = .next t
    have h : (match step ready0 with | .next _ => true | _ => false) = true := by decide +kernel
    revert h
    cases step ready0 with
    | next t => exact fun _ => ⟨t, rfl⟩
    | fault _ => exact fun h => nomatch h
    | refused _ => exact fun h => nomatch h⟩

theorem witness_IntegerDivision :
    (let s := gs base [(6, 0x8000000000000000), (7, 0xFFFFFFFFFFFFFFFF), (8, 0), (9, 64), (10, 128)]
     (s.g 7).toInt = -1 ∧ (s.g 6).toInt = -(2 ^ 63) ∧ s.g 8 = 0 ∧ 0 < (s.g 9).toInt ∧ s.g 9 ≠ 0 ∧ (s.g 9).toNat % 64 = 0 ∧ (s.g 9).toNat % 64 = (s.g 10).toNat % 64) := by decide +kernel

theorem witness_BranchesAndJumps :
    (let s := gs base [(6, 0xFFFFFFFFFFFFFFFF), (7, 1)]; (s.g 6).toInt < (s.g 7).toInt ∧ (s.g 7).toNat < (s.g 6).toNat ∧ s.g 6 ≠ s.g 7 ∧ s.g 0 = 0) := by decide +kernel

theorem witness_RegisterJumps : (let s := gs base [(6, 0x20)]; (s.g 6 + (0 : Word)).getLsbD 0 = false ∧ (s.g 6 + (1 : Word)).getLsbD 0 = true) := by decide +kernel

/-- In a loop body from 4 to 12: the last instruction, one inside, and one that leaves it, with one round left or more. -/
theorem witness_Loops :
    (let at' (p n : Word) := (base.modAct fun a => { a with pc := p, csr := { a.csr with lpcnt := n, lpbeg := 4, lpend := 12 } })
     (at' 8 2).act.csr.lpcnt ≠ 0 ∧ (at' 8 2).pc + 4 = (at' 8 2).act.csr.lpend ∧ (at' 8 2).act.csr.lpcnt ≠ 1 ∧ (at' 8 1).act.csr.lpcnt = 1 ∧
       (at' 4 2).pc + 4 ≠ (at' 4 2).act.csr.lpend ∧ (at' 4 2).act.csr.lpbeg.toNat ≤ ((at' 4 2).pc + 4).toNat ∧ ((at' 4 2).pc + 4).toNat < (at' 4 2).act.csr.lpend.toNat ∧
       ((at' 0x40 2).pc + 4).toNat ≥ (at' 0x40 2).act.csr.lpend.toNat ∧ (gs base [(6, 3)]).g 6 ≠ 0 ∧ base.g 6 = 0) := by decide +kernel

theorem witness_NearLoads : LoadOk (gs base [(6, 0x3FFE0)]) 6 ((gs base [(6, 0x3FFE0)]).g 6 + 0).toNat 32 32 := by
  show NearOk _ _ _ _ _
  exact nearOk_clean _ _ _ _ _ (by decide +kernel) (by decide +kernel) (by decide +kernel) (by decide +kernel) (by decide +kernel) (by decide +kernel)

/-- A load from the running image's extent, in its last bytes. -/
theorem witness_NearLoads_pool : LoadOk base 0 (base.pc + 32).toNat 32 32 := by
  show ImemOk _ _ _ _
  exact ⟨by decide +kernel, by decide +kernel, fun h hh => absurd hh (by simp [show base.here.imemBad = [] from rfl])⟩

theorem witness_NearStores : NearOk (gs base [(6, 0x3FFE0)]) true ((gs base [(6, 0x3FFE0)]).g 6 + 0).toNat 32 32 :=
  nearOk_clean _ _ _ _ _ (by decide +kernel) (by decide +kernel) (by decide +kernel) (by decide +kernel) (by decide +kernel) (by decide +kernel)

/-- Checks of R32 and R38 that fail: above the end, misaligned, a bad granule, above the extent, misaligned in it, and a bad halfword. -/
theorem witness_NearAccessChecks :
    NearFails (gs base [(6, 0x40000)]) false 0x40000 1 1 (.atNear 0x0C 0x40000 0x40000) ∧
    NearFails (gs base [(6, 0x3FFFC)]) false 0x3FFFC 8 8 (.atNear 0x0F 0x3FFFC 0x3FFFC) ∧
    NearFails { base with here := { base.here with mem := { base.here.mem with bad := [16] } } } false 0x100 8 8 (.atNear 0x13 0x100 0x100) ∧
    ImemFails base 64 1 1 (.atImem 0x0C 64 64) ∧ ImemFails base 60 8 8 (.atImem 0x0F 60 60) ∧
    ImemFails { base with here := { base.here with imemBad := [16] } } 32 8 8 (.atSpace 0x13 32 0 32) := by
  refine ⟨.inl ⟨by decide +kernel, rfl⟩, .inr (.inl ⟨by decide +kernel, by decide +kernel, rfl⟩), .inr (.inr (.inr ⟨by decide +kernel, by decide +kernel, 16, by decide +kernel,
    by decide +kernel, ?_, ?_, ?_⟩)), .inl ⟨by decide +kernel, rfl⟩, .inr (.inl ⟨by decide +kernel, by decide +kernel, rfl⟩),
    .inr (.inr (.inr ⟨by decide +kernel, by decide +kernel, ⟨16, by decide +kernel, by decide +kernel, by decide +kernel⟩, rfl⟩))⟩
  · intro h h1 h2
    exact absurd (Nat.le_trans (by decide +kernel : 16 ≤ (0x100 : Word).toNat / 16) h1) (by omega)
  · rintro (⟨h, -⟩ | ⟨h, -⟩)
    · exact absurd h (by decide)
    · exact h (by decide +kernel)
  · rfl

/-- Outside a pair, with no debugger and with one. -/
theorem witness_ControlInstructions :
    base.act.paired = false ∧ base.here.dbg.group.getLsbD 56 = false ∧
      ({ base with here := { base.here with dbg := { base.here.dbg with group := 1#64 <<< 56 } } } : State).here.dbg.group.getLsbD 56 = true ∧
      base.act.outbox = [] ∧ base.act.traced = false ∧ base.act.csr.asid.getLsbD 36 = false := by decide +kernel

/-- A send of an activation in the egress, L or not, to core 7. -/
def outgoing (l : Bool) (aseq : Word) : OutItem :=
  { send := .uni 7 kCall 20 0 [], l := l, who := .plain, org := { Origin.none with aseq := aseq }, ord := 1, cid := 0x50, aword := 0, a := false, p := false, e := false, part := 0,
    tag := none, pool := 0, space := 0, off := 0, glob := false, sys := false }

/-- An outbox that is not empty, in a plain activation, a joined one and a compensation. -/
theorem witness_ControlInstructions_outbox :
    (∀ x ∈ [0, 0x1_00280007, 0x10_00280007], let s := base.modAct fun a => { a with outbox := [{ outgoing false 1 with part := 1 }], csr := { a.csr with asid := BitVec.ofNat 64 x } }
      (s.act.outbox.filter (·.part == 1)) ≠ [] ∧ s.act.paired = false ∧ s.act.traced = false) ∧
      (0x1_00280007 : Word).getLsbD 32 = true ∧ (0x1_00280007 : Word).getLsbD 36 = false ∧ (0x10_00280007 : Word).getLsbD 36 = true := by decide +kernel

theorem witness_TakingATrap :
    base.act.paired = false ∧ base.act.traced = false ∧ base.act.csr.asid.getLsbD 36 = false ∧ base.act.csr.asid.getLsbD 32 = false ∧ base.classS = true ∧
      base.isTrapRec base.act = false := by decide +kernel

/-- The fetches that fail and the bits that are no instruction. -/
theorem witness_TakingATrap_fetch :
    ¬ ((base.modAct fun a => { a with pc := 64 }).pc.toNat < base.act.img.xlen.toNat) ∧
      (0 : Nat) ∈ ({ base with here := { base.here with imemBad := [0] } } : State).here.imemBad ∧ base.here.xmap.getLsbD 0 = true ∧
      ((start 0xA0100000).here.xmap &&& 1).getLsbD 1 = false ∧ (memBits (start 0xA0100000).here.imem 0 2 16 : BitVec 16).getLsbD 15 = true ∧
      (match decodeHalf 0 with | .error _ => true | .ok _ => false) = true ∧ (match decodeParts 0xFFFFFFFF with | .error _ => true | .ok _ => false) = true := by decide +kernel

theorem witness_ControlRegisters :
    userBase.classS = false ∧ base.classS = true ∧ (gs base [(6, 6)]).g 6 = 6 ∧ ((gs base [(6, 63)]).g 6).toNat < 64 ∧ ¬ ((gs base [(6, 64)]).g 6).toNat < 64 ∧
      (0x0E3 : BitVec 10).toNat ≤ 0xEF ∧ ¬ ((0x018 : BitVec 10).toNat ≤ 0x17) := by decide +kernel

/-- Sends that may be made and sends that may not: to core 1 with a tenant's channel, a system channel from each class, and a core that does not exist. -/
theorem witness_Sends :
    NotJoined base ∧ MayName base 18 ∧ MayName base 5 ∧ MayName userBase 18 ∧ ¬ MayName userBase 5 ∧ ¬ MayName userBase 251 ∧ MayName userBase 252 ∧
      namesCore (1 : CoreAddr) = true ∧ namesCore 0x30 = false ∧ isCompute 1 = true ∧ base.here.live.lcnt = 0 ∧
      base.act.modeI = false ∧ base.act.outbox.length < 32 ∧ base.act.outBytes + 48 ≤ 4096 := by
  refine ⟨by unfold NotJoined; decide +kernel, .inl (by decide +kernel), .inl (by decide +kernel), .inr (.inl (by decide)), ?_, ?_, .inr (.inr (by decide)), by decide +kernel, by decide +kernel,
    by decide +kernel, by decide +kernel, by decide +kernel, by decide +kernel, by decide +kernel⟩ <;>
  · rintro (h | ⟨h1, h2⟩ | h)
    · exact absurd h (by decide +kernel)
    · revert h1 h2; decide
    · revert h; decide

/-- The same in an activation that has joined an ascent: a core of its package, and one of another. -/
def joinedBase : State := base.modAct fun a => { a with csr := { a.csr with asid := 0x1_00280007 } }

theorem witness_Sends_joined :
    ¬ NotJoined joinedBase ∧ pkgOf (1 : CoreAddr) = pkgOf joinedBase.at_ ∧ pkgOf (0x8001 : CoreAddr) ≠ pkgOf joinedBase.at_ ∧ namesCore (0x8001 : CoreAddr) = true ∧
      isCompute (0x8001 : CoreAddr) = true ∧ MayName joinedBase 18 ∧ (0x8001 : Word).extractLsb' 29 35 = 0 ∧ ((0x8001 : Word).extractLsb' 0 29) = (0x8001 : CoreAddr) :=
  ⟨by unfold NotJoined; decide +kernel, by decide +kernel, by decide +kernel, by decide +kernel, by decide +kernel, .inl (by decide +kernel), by decide +kernel, by decide +kernel⟩

theorem witness_GlobalOperations :
    (let s := gs base [(6, 0x108), (7, 0x109), (8, 0x00012810), (9, 0x40), (10, 0x00290010)]
     (s.g 6).toNat % 8 = 0 ∧ (s.g 7).toNat % 8 ≠ 0 ∧ ((s.g 10).extractLsb' 0 16).toNat = 16 ∧ (s.g 10).extractLsb' 16 8 = (41 : BitVec 8) ∧ (s.g 10).extractLsb' 53 11 = (0 : BitVec 11) ∧
       (s.g 9).toNat % 16 = 0 ∧ (s.g 9).toNat + 16 ≤ 2 ^ 18 ∧ ¬ ((s.g 7).extractLsb' 0 16).toNat % 16 = 0) ∧ NotJoined base ∧
    NearOk (gs base [(9, 0x40)]) false 0x40 16 16 := by
  refine ⟨by decide +kernel, by unfold NotJoined; decide +kernel, ?_⟩
  exact nearOk_clean _ _ _ _ _ (by decide +kernel) (by decide +kernel) (by decide +kernel) (by decide +kernel) (by decide +kernel) (by decide +kernel)

/-- Regions that are placed here and in another package, for a joined activation; block words of each move; near addresses at the end of the near space, past it, and whose range wraps. -/
theorem witness_GlobalOperations_joined :
    (let r (loc : Word) (kind : BitVec 2) : RptEntry := { base := 0, len := 0x1000, space := 0, owner := 0, kind := kind, mov := false, pgen := 0, loc := loc }
     let s (e : RptEntry) : State := joinedBase.modHome fun k => { k with rpt := [e] }
     HomeAway (s (r (0x8001 <<< 18) 0)) 0 0x10 ∧ HomeHere (s (r (1 <<< 18) 0)) 0 0x10 ∧ HomeHere (s (r (1 <<< 18) 1)) 0 0x10 ∧ HomeHere (s (r 0 2)) 0 0x10 ∧
       HomeHere (s (r 0 2)) 0 0x1000) := by
  have here (s : State) (e : RptEntry) (h : s.placedAt 0 0x10 = some e)
      (h' : (e.kind = 0 ∧ pkgOf (e.loc.extractLsb' 18 29) = pkgOf s.at_) ∨ (e.kind = 1 ∧ RectInDie e ∧ pkgOf (e.loc.extractLsb' 18 29) = pkgOf s.at_) ∨ e.kind = 2) : HomeHere s 0 0x10 :=
    fun p hp => Option.some.inj (h.symm.trans hp) ▸ h'
  refine ⟨⟨_, rfl, .inl rfl, by decide +kernel⟩, here _ _ rfl (.inl ⟨rfl, by decide +kernel⟩), here _ _ rfl (.inr (.inl ⟨rfl, ⟨by decide +kernel, by decide +kernel⟩, by decide +kernel⟩)),
    here _ _ rfl (.inr (.inr rfl)), fun p hp => nomatch (show none = some p from hp)⟩

theorem witness_GlobalOperations_moves :
    (let sound (w : Word) : Prop := w.extractLsb' 53 11 = (0 : BitVec 11) ∧ (w.extractLsb' 0 16).toNat ≠ 0 ∧ (w.extractLsb' 0 16).toNat % 16 = 0
     (∀ n ∈ [0x100, 0x18020100, 0x181000, 0xFC0010, 0x050010, 0x110, 0x181010, 0x12100], sound (BitVec.ofNat 64 n)) ∧ ((0x100 : Word).extractLsb' 0 16).toNat ≤ 256 ∧
       (0x100 : Word).extractLsb' 16 8 = (0 : BitVec 8) ∧ ((0x181000 : Word).extractLsb' 0 16).toNat ≤ 4096 ∧ 256 < ((0x110 : Word).extractLsb' 0 16).toNat ∧
       4096 < ((0x181010 : Word).extractLsb' 0 16).toNat ∧ (0xFC0010 : Word).extractLsb' 16 8 = (252 : BitVec 8) ∧ (0x050010 : Word).extractLsb' 16 8 = (5 : BitVec 8) ∧
       namesCore ((0x18020100 : Word).extractLsb' 24 29) = true) ∧
    (0x3FFF0 : Word).toNat + 16 ≤ 2 ^ 18 ∧ 2 ^ 18 ≤ ((0x40000 : Word) + BitVec.ofNat 64 (16 - 1)).toNat ∧ ((0xFFFFFFFFFFFFFFF0 : Word) + BitVec.ofNat 64 (32 - 1)).toNat < 2 ^ 18 ∧
      NearFails (gs base [(9, 0xFFFFFFFFFFFFFFF0)]) false 0xFFFFFFFFFFFFFFF0 32 16 (.atNear 0x0C 0xFFFFFFFFFFFFFFF0 0xFFFFFFFFFFFFFFF0) :=
  ⟨by decide +kernel, by decide +kernel, by decide +kernel, by decide +kernel, .inl ⟨by decide +kernel, rfl⟩⟩

theorem witness_ChannelInstructions :
    (let s := gs base [(6, 0x3FFF0), (7, 0x40000), (8, 8)]
     (s.g 6).extractLsb' 18 46 = (0 : BitVec 46) ∧ (s.g 6).toNat % 16 = 0 ∧ (s.here.live.barm.filter fun e => e.1 ≠ 24).length < 8 ∧ (s.g 7).extractLsb' 18 46 ≠ (0 : BitVec 46) ∧
       (s.g 8).toNat % 16 ≠ 0 ∧ 8 ≤ ((List.range 8).map fun i => (i + 32, 16 * i)).length) := by decide +kernel

/-- Core (1,0) of the first die: it has four neighbours, and its left one is core (0,0). -/
def inner : State := { base with at_ := mkAddr 0 0 1 1 }

/-- A link with a word in its FIFO, a word on its way, and a credit to give back. -/
def linked : State :=
  { inner with here := { inner.here with links := inner.here.links.set 0 { Link.reset with fifo := [{ val := 7, lease := 0 }], out := [{ val := 8, lease := 0 }], owed := [0] } } }

theorem witness_Links :
    (linked.here.links[0]).fifo = [{ val := 7, lease := 0 }] ∧ linked.linkLive 0 = true ∧ linked.linkLive 1 = true ∧ (linked.here.links[1]).fifo = [] ∧
      (linked.here.links[1]).o < (linked.here.links[1]).win.toNat ∧
      ({ linked with here := { linked.here with changing := true } } : State).linkLive 0 = false ∧
      ({ linked with here := { linked.here with links := linked.here.links.set 0 { Link.reset with o := 4 } } } : State).linkLive 0 = true := by decide +kernel

theorem witness_Links_ends :
    isCompute linked.at_ = true ∧ (∃ n, n ≠ linked.at_ ∧ neighbour linked.at_ 0 = some n ∧ (linked.core n).links[1].fifo.length < 4 ∧ (linked.core n).leaseNo = 0) ∧
      (linked.here.links[0]).out = [{ val := 8, lease := 0 }] ∧ (linked.here.links[0]).owed = [0] ∧ linked.ev.idx = 0 := by
  refine ⟨by decide +kernel, ⟨(neighbour linked.at_ 0).getD 0, by decide +kernel, by decide +kernel, by decide +kernel, by decide +kernel⟩, by decide +kernel, by decide +kernel,
    by decide +kernel⟩

/-- A map of two strips of eight FP32 elements from 0x100. -/
def map2 : TMap := { head := 0x100, shape := 0x00000001000000010000000100040010 }

/-- A state with that map in tm1, bound to si0 with one strip fetched and to so0. -/
def streaming : State :=
  (base.modRegs fun r => { r with tm := r.tm.set 1 map2 }).modAct fun a =>
    { a with si := a.si.set 0 (some { map := map2, next := 0, buf := [.good 5] }), so := a.so.set 0 (some { map := map2, next := 1, buf := [] }) }

theorem witness_StreamInstructions :
    (streaming.tm 1).strips = 2 ∧ streaming.act.si[0] = some { map := map2, next := 0, buf := [.good 5] } ∧ streaming.act.so[0] = some { map := map2, next := 1, buf := [] } ∧
      (1 : Nat) ≠ map2.strips ∧ 0 + 1 < map2.strips ∧ streaming.stream 1 = none ∧ (streaming.here.acts[(3 : Fin 4)]).busy = true ∧ (2 : Nat) = map2.strips := by decide +kernel

/-- Every lane of both strips lies in a clean memory. -/
theorem witness_StreamInstructions_strips : StripOk streaming true map2 1 ∧ StripOk streaming false map2 0 := by
  constructor <;> intro i hi x hx
  · have h : map2.lanes = 8 := by decide +kernel
    have hx' : x = 0x100 + 4 * (8 + i) := by
      have : ∀ i, i < 8 → map2.addr (1 * map2.lanes + i) = some (0x100 + 4 * (8 + i : Int)) := by decide +kernel
      rw [this i (h ▸ hi)] at hx
      exact (Option.some.inj hx).symm
    rw [h] at hi
    subst hx'
    exact ⟨by omega, nearOk_clean _ _ _ _ _ (by decide +kernel) (by decide +kernel) (by decide +kernel) (by decide +kernel)
      (by show _ + 4 ≤ 262144; omega) (by show _ % 4 = 0; omega)⟩
  · have h : map2.lanes = 8 := by decide +kernel
    have hx' : x = 0x100 + 4 * i := by
      have : ∀ i, i < 8 → map2.addr (0 * map2.lanes + i) = some (0x100 + 4 * (i : Int)) := by decide +kernel
      rw [this i (h ▸ hi)] at hx
      exact (Option.some.inj hx).symm
    rw [h] at hi
    subst hx'
    exact ⟨by omega, nearOk_clean _ _ _ _ _ (by decide +kernel) (by decide +kernel) (by decide +kernel) (by decide +kernel)
      (by show _ + 4 ≤ 262144; omega) (by show _ % 4 = 0; omega)⟩

/-- A tensor map in reach, a base that fits, one that is misaligned and one too high; the last element of the walk and the first one past it. -/
theorem witness_TensorMaps :
    (let s := gs streaming [(6, 0x40), (7, 0x104), (8, 0x102), (9, 0x40000)]
     (s.g 7).extractLsb' 18 46 = (0 : BitVec 46) ∧ (s.g 7).toNat % 4 = 0 ∧ (s.g 8).toNat % 4 ≠ 0 ∧ (s.g 9).extractLsb' 18 46 ≠ (0 : BitVec 46) ∧
       ((s.tm 1).head.extractLsb' 18 4).toNat < 12 ∧ (15 : Nat) < map2.count 0 ∧ 0 < map2.count 1 ∧ map2.count 0 * map2.count 1 * map2.count 2 * map2.count 3 = 16 ∧
       (s.tm 1).type.toNat < 12) ∧
    LoadOk (gs streaming [(6, 0x40)]) 6 0x40 32 16 := by
  refine ⟨by decide +kernel, ?_⟩
  show NearOk _ _ _ _ _
  exact nearOk_clean _ _ _ _ _ (by decide +kernel) (by decide +kernel) (by decide +kernel) (by decide +kernel) (by decide +kernel) (by decide +kernel)

/-- A value on a format's grid, a zero, and a value that overflows. -/
theorem witness_ExactRounding :
    (Dy.one).m ≠ 0 ∧ (fp32.round Dy.one 0).2 = 0 ∧ (fp32.round { neg := false, m := 1, e := 128 } 1).2 &&& fOF ≠ 0 ∧ fp32 ∈ [fp32, fp64, bf16, fp16, ixFmt] ∧
      fp32.decode 0x3F800000 = .fin { neg := false, m := 0x800000, e := -23 } := by decide +kernel

theorem witness_ExactArithmetic : (Machine.Num.nan true).isNan = true ∧ (Machine.Num.fin { Dy.one with m := 0 }).isZero = true ∧ (Machine.Num.inf true).isNan = false ∧
    (numMul (.fin Dy.one) (.fin Dy.one)).isNan = false := by decide +kernel

/-- A quotient that fits and one that does not, a root, and a pair in order. -/
theorem witness_ExactArithmetic_quotients :
    ((numDiv fp32 (.fin Dy.one) (.fin { Dy.one with m := 3 })).to fp32 0).2 &&& fOF = 0 ∧ ((numDiv fp32 (.fin { Dy.one with e := 100 }) (.fin { Dy.one with e := -100 })).to fp32 0).2 &&& fOF ≠ 0 ∧
      ((numSqrt fp32 (.fin { Dy.one with m := 2 })).to fp32 0).2 &&& fOF = 0 ∧ fp32.decode 0x80000000 = .fin { neg := true, m := 0, e := -149 } ∧
      fp32.decode 0 = .fin { neg := false, m := 0, e := -149 } ∧ fp32.decode 0xFF800000 = .inf true ∧ (fp32.decode 0).isNan = false := by decide +kernel

theorem witness_FloatingArithmetic : isFloat 0 = true ∧ isFloat 3 = true ∧ isFloat 4 = false := by decide

theorem witness_Conversions : ∃ t u v : TypeCode, cvtPair t u = true ∧ laneWidth t = 2 * laneWidth u ∧ cvtPair v t = true ∧ laneWidth v = laneWidth t :=
  ⟨1, 0, 5, by decide⟩

theorem witness_SpecialFunctions : (∃ q, fp32.decode 0x7FC00000 = .nan q) ∧ fp32.decode 0x7F800000 = .inf false ∧ fp32.decode 0xFF800000 = .inf true ∧
    (∃ v, fp32.decode 0 = .fin v ∧ v.m = 0) ∧ (∃ v, fp32.decode 0xBF800000 = .fin v ∧ v.m ≠ 0 ∧ v.neg = true) :=
  ⟨⟨_, rfl⟩, rfl, rfl, ⟨_, rfl, by decide +kernel⟩, ⟨_, rfl, by decide +kernel, by decide +kernel⟩⟩

/-- FP32 lanes, and a lane that mask k1 leaves alone. -/
theorem witness_SpecialFunctionsComplete : (0 : TypeCode) = 0 ∧ 7 < laneCount 0 ∧ (base.k 1).getLsbD 7 = false ∧ ((base.k 0).getLsbD 7 = true) := by decide +kernel

theorem witness_IntegerVectors : isInt 4 = true ∧ isInt 11 = true ∧ isInt 3 = false ∧ isInt 12 = false ∧ (0 : TypeCode).toNat < 12 := by decide

theorem witness_LaneMoves : (11 : TypeCode).toNat < 12 ∧ (31 : BitVec 5).toNat < laneCount 7 ∧ isFloat 1 = true ∧ isInt 7 = true := by decide

/-- A table of zeros is a decode table: one code, whose value is 0, and a NaN has no code. -/
theorem witness_NarrowFormats :
    tabOk [] = true ∧ tabOk (memWrite [] 2 [2]) = false ∧ isEngine base.at_ = false ∧ base.here.mx.tabBad[0] = false ∧
      ({ base.here.mx with tabBad := base.here.mx.tabBad.set 0 true } : Machine.Matrix).tabBad[0] = true ∧ memByte base.here.mx.tab[0] 2 = 0 ∧ (0 : BitVec 3).toNat * laneCount 2 + laneCount 2 ≤ 32 ∧
      LoadOk (gs base [(6, 0x100)]) 6 0x100 1296 16 := by
  refine ⟨by decide +kernel, by decide +kernel, by decide +kernel, by decide +kernel, by decide +kernel, by decide +kernel, by decide +kernel, ?_⟩
  show NearOk _ _ _ _ _
  exact nearOk_clean _ _ _ _ _ (by decide +kernel) (by decide +kernel) (by decide +kernel) (by decide +kernel) (by decide +kernel) (by decide +kernel)

/-- Values of a block: all zero, all one, with a NaN; and a table whose values are zero. -/
theorem witness_NarrowFormats_block :
    (List.replicate 32 (Machine.Num.fin Dy.one)).length = 32 ∧ (∀ i, i < 32 → (List.replicate 32 (Machine.Num.fin Dy.one))[i]? = some (.fin Dy.one)) ∧
      (∀ x ∈ List.replicate 32 (Machine.Num.fin { Dy.one with m := 0 }), x.isZero = true) ∧ (∃ x ∈ List.replicate 32 (Machine.Num.nan false), (x.isNan || x.isInf) = true) ∧
      (∃ u w, tabV [] 0 = .fin u ∧ tabV [] (tabNord []) = .fin w) ∧ Dy.one.m ≠ 0 ∧ Dy.one.neg = false :=
  ⟨by decide +kernel, by decide +kernel, by decide +kernel, by decide +kernel, ⟨_, _, rfl, rfl⟩, by decide +kernel, by decide +kernel⟩

/-- A record of zeros, whose padding is zero, and one whose padding is not. -/
theorem witness_BlockTransfers :
    LoadOk (gs base [(6, 0x3FFD0)]) 6 0x3FFD0 48 16 ∧ (∀ i, 32 < i → i < 48 → loadByte (gs base [(6, 0x3FFD0)]) 6 (0x3FFD0 + i) = 0) ∧
      loadByte (mem (gs base [(6, 0x3FFD0)]) 0x3FFFF [1]) 6 (0x3FFD0 + 47) ≠ 0 ∧ isEngine base.at_ = false := by
  refine ⟨?_, fun i h h' => (by decide +kernel : ∀ i : Fin 48, loadByte (gs base [(6, 0x3FFD0)]) 6 (0x3FFD0 + i) = 0) ⟨i, h'⟩, by decide +kernel, by decide +kernel⟩
  show NearOk _ _ _ _ _
  exact nearOk_clean _ _ _ _ _ (by decide +kernel) (by decide +kernel) (by decide +kernel) (by decide +kernel) (by decide +kernel) (by decide +kernel)

/-- An operand slot in each state that the statements name. -/
def slotted (st : QState) (locks : Nat) : State := base.setQ 0 { QSlot.free with st := st, locks := locks }

theorem witness_OperandSlots :
    isEngine base.at_ = false ∧ (base.q 0).st = .free ∧ ((slotted .claimed 0).q 0).st = .claimed ∧ ((slotted .loaded 0).q 0).locks = 0 ∧ ((slotted .loaded 1).q 0).locks ≠ 0 ∧
      ((slotted .filling 0).q 0).st = .filling ∧ ((gs base [(6, 271)]).g 6).toNat ≤ 271 ∧ 271 < ((gs base [(6, 272)]).g 6).toNat ∧
      ((slotted .filling 0).modAct fun a => { a with part := .qlnk 0 255 }).act.part = .qlnk 0 255 ∧ linked.here.links[0].fifo ≠ [] := by decide +kernel

/-- The raw and the block loads of a slot lie in a clean memory, and the first fails with an address one granule too high. -/
theorem witness_OperandSlots_near :
    NearOk (gs base [(6, 0x3C000)]) false 0x3C000 16384 16 ∧ NearOk (gs base [(6, 0x3C000)]) false 0x3C000 12288 16 ∧ NearOk (gs base [(6, 0x3C000)]) false 0x3C000 8192 16 ∧
      NearFails (gs base [(6, 0x3E010)]) false 0x3E010 8192 16 (.atNear 0x0C 0x40000 0x3E010) := by
  refine ⟨?_, ?_, ?_, .inr (.inr (.inl ⟨by decide +kernel, by decide +kernel, by decide +kernel, by decide +kernel⟩))⟩ <;>
  exact nearOk_clean _ _ _ _ _ (by decide +kernel) (by decide +kernel) (by decide +kernel) (by decide +kernel) (by decide +kernel) (by decide +kernel)

/-- A command of FP16 (format 0) that has entered the queue. -/
def cmd0 (started locked : Bool) : MxCmd :=
  { qa := 0, qb := 1, bank := 0, hi := false, ch := 0, fmt := 0, scla := 0, sclb := 0, badTab := false, no := 0, tabA := [], tabB := [], cid := 0, aseq := 0, locked := locked, started := started, arrived := 0 }

/-- A matrix unit with such a command at the head of its queue, and slots 0 and 1 loaded. -/
def commanded (started locked : Bool) : State :=
  ((slotted .loaded 0).setQ 1 { QSlot.free with st := .loaded }).modMx fun m => { m with queue := [cmd0 started locked] }

/-- A queued command that entered before the instruction issued, and one that entered after it. -/
theorem witness_Accumulators :
    ((gs base [(6, 127)]).g 6).toNat ≤ 127 ∧ 127 < ((gs base [(6, 128)]).g 6).toNat ∧ (120 : Nat) < ((gs base [(6, 121)]).g 6).toNat ∧ base.here.mx.queue = [] ∧
      (cmd0 true true) ∈ (commanded true true).here.mx.queue ∧ (cmd0 true true).bank = 0 ∧ ¬ (cmd0 true true).no < base.here.mx.entered ∧
      ((commanded true true).modMx fun m => { m with entered := 1 }).here.mx.entered = (cmd0 true true).no + 1 ∧
      ((commanded true true).modAct fun a => { a with part := .mx 0 }).act.part = .mx 0 := by decide +kernel

theorem witness_MatrixRegisters :
    isEngine base.at_ = false ∧ isEngine (supervisor0 0 0) = true ∧ base.classS = true ∧ base.here.mx.queue = [] ∧ (255 : Word).toNat < 256 ∧ (1 : Word).toNat < 2 ∧
      (let v : Word := 0x3F0000 ||| (7 <<< 13) ||| (7 <<< 10) ||| 1
       v.extractLsb' 22 42 = (0 : BitVec 42) ∧ v.extractLsb' 1 9 = (0 : BitVec 9) ∧ (v.extractLsb' 13 3 : BitVec 3).toNat ≤ (v.extractLsb' 19 3 : BitVec 3).toNat ∧
         (v.extractLsb' 10 3 : BitVec 3).toNat ≤ (v.extractLsb' 16 3 : BitVec 3).toNat) ∧ ((0x400000 : Word).extractLsb' 22 42 : BitVec 42) ≠ 0 := by decide +kernel

/-- Values that the rope register does not take: a column past W1, a row past H1. -/
theorem witness_MatrixRegisters_refused :
    ¬ (((1 <<< 13 : Word).extractLsb' 13 3 : BitVec 3).toNat ≤ ((1 <<< 13 : Word).extractLsb' 19 3 : BitVec 3).toNat) ∧
      ¬ (((1 <<< 10 : Word).extractLsb' 10 3 : BitVec 3).toNat ≤ ((1 <<< 10 : Word).extractLsb' 16 3 : BitVec 3).toNat) ∧ ¬ ((256 : Word).toNat < 256) ∧ ¬ ((2 : Word).toNat < 2) ∧
      (∃ m ∈ ((commanded true true).modMx fun m => { m with entered := 1 }).here.mx.queue, m.no < 1) ∧ base.home.partOf base.at_ < 16 := by decide +kernel

/-- A granted format and one that is not, a shape that is refused, a free slot, and a corner of a rope. -/
theorem witness_MatrixIssue :
    base.here.regs.mcap.getLsbD 0 = true ∧ base.here.regs.mcap.getLsbD 7 = false ∧ (base.q 0).st = .free ∧ ((commanded true true).q 0).st = .loaded ∧
      (commanded true true).mxCheck (cmd0 false true) = none ∧ ¬ 4 ≤ (commanded true true).here.mx.queue.length ∧
      (let r : BitVec 22 := 0x090001; r.getLsbD 0 = true ∧ r.extractLsb' 10 6 = (0 : BitVec 6) ∧ base.here.regs.mcap.getLsbD 8 = true ∧
        xOf base.at_ + (r.extractLsb' 19 3).toNat ≤ 47 ∧ yOf base.at_ + (r.extractLsb' 16 3).toNat ≤ 31) ∧
      base.act.modeI = false ∧ base.act.outbox.length + 3 ≤ 32 ∧ base.act.outBytes + 48 * 3 ≤ 4096 := by decide +kernel

theorem witness_MatrixExecution :
    base.here.mx.queue = [] ∧ (commanded true true).here.mx.queue = [cmd0 true true] ∧ (commanded true true).mxBad (cmd0 true true) = false ∧
      ((commanded true true).modMx fun m => { m with accBad := m.accBad.set 0 true }).mxBad (cmd0 true true) = true ∧
      (∀ q ∈ (cmd0 false false).slots, ((commanded false false).q q).st = .loaded) ∧ (base.q 0).st ≠ .loaded ∧ base.mxReady (cmd0 false false) = false ∧
      1048576 ≤ (({ base with time := 1048576 } : State).time - (cmd0 false false).arrived).toNat ∧
      (({ base with time := 1048575 } : State).time - (cmd0 false false).arrived).toNat < 1048576 := by decide +kernel

/-- A topo header of one state whose digits are one bit wide: two transitions, 288 bytes. -/
theorem witness_TransducerIssue :
    (let hd : BitVec 128 := 0
     let states := (hd.extractLsb' 0 6).toNat + 1
     let sb := 2 ^ (hd.extractLsb' 12 2).toNat
     hd.extractLsb' 18 110 = (0 : BitVec 110) ∧ sb ≤ 8 ∧ states * 2 ^ sb ≤ 1024 ∧ (hd.extractLsb' 6 6).toNat < states ∧ (0x110 + 2 * (states * 2 ^ sb) + 15) / 16 * 16 = 288) ∧
    LoadOk (gs base [(6, 0x100)]) 6 0x100 288 16 ∧ base.here.mx.dxUnit = none ∧ NearOk (gs base [(6, 0x100)]) false 0x100 128 16 ∧ (∀ l : Fin 8, descEn ([] : Memory) l = false) ∧
    base.here.mx.dxBad[0] = false ∧ ((base.modMx fun m => { m with dxBad := m.dxBad.set 0 true }).here.mx.dxBad[0] = true) := by
  refine ⟨by decide +kernel, ?_, by decide +kernel, ?_, by decide +kernel, by decide +kernel, by decide +kernel⟩
  · show NearOk _ _ _ _ _
    exact nearOk_clean _ _ _ _ _ (by decide +kernel) (by decide +kernel) (by decide +kernel) (by decide +kernel) (by decide +kernel) (by decide +kernel)
  · exact nearOk_clean _ _ _ _ _ (by decide +kernel) (by decide +kernel) (by decide +kernel) (by decide +kernel) (by decide +kernel) (by decide +kernel)

/-- A run whose lanes are all disabled, before and after its read phase, and one whose lane 0 leaves its topo. -/
def run0 (input : Option Memory) (desc : Memory) : DxRun := { slot := 3, rd := 5, flag := false, tb := 0x100, desc := desc, topo := [], input := input }

theorem witness_TransducerPhases :
    ({ base with slot := 3 } : State).spent = false ∧ ({ base with here := { base.here with cyc := 0x3FFFC0 }, slot := 3 } : State).spent = true ∧
    base.here.mx.dxUnit = none ∧ (base.modMx fun m => { m with dxUnit := some (run0 none []) }).here.mx.dxUnit = some (run0 none []) ∧
      (∀ l : Fin 8, descEn (run0 (some []) []).desc l = false) ∧ (run0 (some []) []).flag = false ∧
      (∃ l, l < 8 ∧ descEn (memWrite [] 10 [1]) l = true ∧ (match (run0 (some []) (memWrite [] 10 [1])).lane [] l with | .off _ => true | .done _ _ => false) = true) := by
  refine ⟨by decide +kernel, by decide +kernel, by decide +kernel, by decide +kernel, by decide +kernel, by decide +kernel, 0, by decide +kernel, by decide +kernel, by decide +kernel⟩

/-- An image of one region from 0x100 to 0x140 and a check in front of an access (R302, R309): `ldd g5, [g6]`. -/
def checked : State :=
  let s := gs (start 0xB6000000) [(6, 0x138)]
  let img := { placedImage with rto := 16, nreg := 1 }
  { s with here := { s.here with imem := memWrite s.here.imem 0 [0, 0xB6, 0, 0, 0x53, 0x90, 0, 0x30, 0, 0, 0, 0, 0, 0, 0, 0, 0, 1, 0, 0, 0x40, 1], xmap := s.here.xmap ||| 0xF,
                                 acts := s.here.acts.set 3 { s.here.acts[3] with img := img } } }

/-- The access lies inside the region by its last byte; one further it does not. -/
theorem witness_BoundsAndOwnerChecks :
    (match checked.insnAt (checked.pc + 4) with | .ok (.insn (.ldd 5 6 0)) => true | _ => false) = true ∧ checked.nearRange (.insn (.ldd 5 6 0)) = some (0x138, 0x140) ∧
      checked.act.img.nreg = 1 ∧ (memBits checked.here.imem 16 8 64 : Word) = 0x14000000100 ∧ (gs checked [(6, 0x139)]).nearRange (.insn (.ldd 5 6 0)) = some (0x139, 0x141) ∧
      checked.here.regs.audit = false ∧ ({ checked.here.regs with audit := true }).audit = true ∧ checked.act.part = .none ∧ checked.nearRange (.insn .nop) = none ∧ checked.act.part = .none ∧ userBase.classS = false ∧ checked.classS = true ∧
      plbFind checked.here.live.plb 0 0 0 = none ∧ checked.here.net.tags[(0 : Fin 16)] = none ∧
      (plbFind [{ base := 0, len := 64, space := 0, owner := 5, kind := 0, mov := false, pgen := 0, loc := 0 }] 5 0 0).isSome = true := by decide +kernel

/-- A copy of 16 bytes from 0 to 16, and one of no bytes. -/
theorem witness_CopyInstruction :
    (let blk : Strip := 0x10#256 <<< 128 ||| 0x10#256 <<< 64
     blk.extractLsb' 164 28 = (0 : BitVec 28) ∧ blk.extractLsb' 219 37 = (0 : BitVec 37) ∧ (blk.extractLsb' 128 32).toNat = 16 ∧ (blk.extractLsb' 64 64).toNat % 16 = 0 ∧
       (blk.extractLsb' 192 8).toNat = 0 ∧ blk.extractLsb' 162 2 = (0 : BitVec 2)) ∧ ((0 : Strip).extractLsb' 128 32).toNat = 0 ∧ NotJoined base ∧
    LoadOk (gs base [(6, 0x3FFE0)]) 6 0x3FFE0 32 16 := by
  refine ⟨by decide +kernel, by decide +kernel, by unfold NotJoined; decide +kernel, ?_⟩
  show NearOk _ _ _ _ _
  exact nearOk_clean _ _ _ _ _ (by decide +kernel) (by decide +kernel) (by decide +kernel) (by decide +kernel) (by decide +kernel) (by decide +kernel)

/-- A watched range that ends just below an access and one that it overlaps; operands of the debug instructions that pass and that fail. -/
theorem witness_WatchingInstructions :
    (let x : Word := 0x100 ||| 0x108 <<< 20
     x.extractLsb' 38 26 = (0 : BitVec 26) ∧ (x.extractLsb' 0 18).toNat % 8 = 0 ∧ (x.extractLsb' 0 18).toNat < (x.extractLsb' 20 18).toNat ∧
       (x.extractLsb' 0 18).toNat < 0x107 + 1 ∧ 0x107 < (x.extractLsb' 20 18).toNat ∧ ¬ 0x108 < (x.extractLsb' 20 18).toNat) ∧
    (3 : Word).getLsbD 0 = true ∧ (3 : Word).extractLsb' 3 5 = (0 : BitVec 5) ∧ (3 : Word).extractLsb' 20 44 = (0 : BitVec 44) ∧ (4 : Word).getLsbD 0 = false ∧
    isCompute base.at_ = true ∧ pkgOf 0 = pkgOf base.at_ ∧ base.act.entry.getLsbD 60 = false ∧ base.classS = true ∧ userBase.classS = false := by decide +kernel

/-- A tenant's D-mode activation that may join, and one that has joined with three and with four anchors. -/
theorem witness_AscentInstructions :
    (let w : Word := 0x00000000_00280007
     w.extractLsb' 22 42 = (0 : BitVec 42) ∧ w.extractLsb' 0 16 ≠ (0 : BitVec 16) ∧ userBase.act.modeI = false ∧ userBase.classS = false ∧ userBase.act.csr.asid.getLsbD 36 = false ∧
       userBase.act.csr.asid.getLsbD 32 = false) ∧
    (let x : Word := 0x7_00280007
     x.getLsbD 32 = true ∧ (x.extractLsb' 33 3).toNat = 3 ∧ (x.extractLsb' 0 32 : BitVec 32) = 0x280007) ∧ ((0x9_00280007 : Word).extractLsb' 33 3).toNat = 4 ∧
    (let b : Word := 0x00000001_00140007
     b.extractLsb' 56 8 = (0 : BitVec 8) ∧ b.extractLsb' 24 8 = (0 : BitVec 8) ∧ (b.extractLsb' 16 8).toNat = 20) ∧
    isCompute 1 = true ∧ pkgOf 1 = pkgOf userBase.at_ ∧ userBase.act.outbox.length < 32 ∧ userBase.act.outBytes + 80 ≤ 4096 := by decide +kernel

/-- Entry words, regions, windows and tenants that the system instructions take, and the last ones before they refuse. -/
theorem witness_SystemInstructions :
    (let e : Word := 0x8200_0010_0000_0000
     e.extractLsb' 0 15 = (0 : BitVec 15) ∧ e.extractLsb' 32 16 ≠ (0 : BitVec 16) ∧ e.getLsbD 57 = true ∧ e.getLsbD 59 = false ∧ e.getLsbD 63 = true ∧
       base.here.images[((e.extractLsb' 29 3).toNat : Nat)]? = some (some placedImage)) ∧
    ((0x3FFF0 : Word).toNat + (16 : Word).toNat ≤ 0x40000) ∧ ¬ ((0x3FFF0 : Word).toNat + (32 : Word).toNat ≤ 0x40000) ∧
    (((0 : Word) ++ (0 : Word)).extractLsb' 18 19).toNat ≤ 0x40000 ∧ ((9 : Word).extractLsb' 0 12 : BitVec 12) ≠ 0 ∧ ((0x1000 : Word).extractLsb' 0 12 : BitVec 12) = 0 ∧
    base.stagedCheck 0x100 64 = none ∧ base.stagedCheck 0x100 128 = none ∧ headOk (base.here.mem.read base.at_ KeyId.system 0x100 64) = false ∧
    (∃ p ∈ [(20, (0x80000000_20000000 : Word))], p.2.getLsbD 63 = true ∧ p.2.extractLsb' 29 3 = BitVec.ofNat 3 1) ∧ base.here.images[1] = none ∧
    recOk (recOfBytes (List.replicate 128 0)) = true ∧ base.quiescent = true ∧ userBase.quiescent = false ∧ base.act.part = .none ∧
    ((0x3E800 : BitVec 18).toNat % 64 = 0 ∧ (0x3E800 : BitVec 18).toNat + 6144 ≤ nearEnd base.at_) := by decide +kernel

/-- The last register of the round robin that wants a strip, and the strip it wants. -/
theorem witness_StreamFetch :
    (∀ k i : Fin 4, (match streaming.here.acts[k].si[i] with | some _ => true | none => false) = decide (k = 3 ∧ i = 0)) ∧ streaming.here.acts[(3 : Fin 4)].busy = true ∧
      streaming.here.acts[(3 : Fin 4)].si[(0 : Fin 4)] = some { map := map2, next := 0, buf := [.good 5] } ∧
      4 * 3 + 0 = (streaming.here.strip + 1 + 12) % 16 ∧ (∀ m, m < 12 → (streaming.here.strip + 1 + m) % 16 ≠ 12) ∧ StripOk { streaming with slot := 3 } false map2 (0 + 1) := by
  refine ⟨by decide +kernel, by decide +kernel, by decide +kernel, by decide +kernel, by decide +kernel, ?_⟩
  intro i hi x hx
  have h : map2.lanes = 8 := by decide +kernel
  have hx' : x = 0x100 + 4 * (8 + i) := by
    have : ∀ i, i < 8 → map2.addr ((0 + 1) * map2.lanes + i) = some (0x100 + 4 * (8 + i : Int)) := by decide +kernel
    rw [this i (h ▸ hi)] at hx
    exact (Option.some.inj hx).symm
  rw [h] at hi
  subst hx'
  exact ⟨by omega, nearOk_clean _ _ _ _ _ (by decide +kernel) (by decide +kernel) (by decide +kernel) (by decide +kernel)
    (by show _ + 4 ≤ 262144; omega) (by show _ % 4 = 0; omega)⟩

/-- A credit of a lease that the neighbour no longer has. -/
theorem witness_LinkLive :
    (∃ n, n ≠ linked.at_ ∧ neighbour linked.at_ 0 = some n ∧
      (linked.core n).leaseNo ≠ 1 ∧ (linked.core n).links[1].fifo.length < 4) ∧ ({ Link.reset with owed := [1] } : Link).owed = [1] :=
  ⟨⟨(neighbour linked.at_ 0).getD 0, by decide +kernel, by decide +kernel, by decide +kernel, by decide +kernel⟩, rfl⟩

/-- A debugger that holds slot 2 and one that holds none. -/
theorem witness_DebugInstructions :
    base.here.dbg.held = none ∧ ({ base.here.dbg with held := some 2 } : Debug).held = some 2 ∧ base.act.entry.getLsbD 60 = false ∧
      (0 : Word).getLsbD 56 = false ∧ ((1 : Word) <<< 56).getLsbD 56 = true := by decide +kernel

/-- A sealed header of one 64-byte extent, of a system image. -/
def header : List Byte := leBytes 16 ((1 <<< 48) ||| (64 <<< 64)) ++ List.replicate 48 0

/-- An IGT that knows the image, and one that does not; an entry of the core's table that is free and one that is taken. -/
theorem witness_ImageLoads :
    headOk header = true ∧ (let e := (base.modHome fun k => { k with igt := [(0, 0x8000_0000_0000_0000)] }).home.igtEntry (headId header)
      e.getLsbD 63 = true ∧ e.extractLsb' 0 32 = headId header ∧ e.extractLsb' 32 16 = headGen header) ∧ (base.home.igtEntry (headId header)).getLsbD 63 = false ∧
      base.here.images[(1 : Fin 8)] = none ∧ base.here.images[(0 : Fin 8)] ≠ none ∧ base.here.spans 64 ≠ [] ∧ base.here.spans 32768 = [] ∧ base.act.part = .none ∧
      (base.modAct fun v => { v with part := .igt header }).act.part = .igt header ∧ base.mayLoad header = true := by decide +kernel

/-- A device-space region of core 0, and the state with it in the placement table. -/
def areaEntry : RptEntry := { base := 0, len := 0x4000, space := 0xFF, owner := 0, kind := 0, mov := false, pgen := 0, loc := 0x10000 }

def leasing : State := base.modHome fun k => { k with rpt := [areaEntry] }

/-- Save areas in a device-space region of the core, and a record that a lease takes and one that it does not. -/
theorem witness_LeaseInstruction :
    (let w : Word := 0x00011800_00010000
     w.extractLsb' 18 14 = (0 : BitVec 14) ∧ w.extractLsb' 50 14 = (0 : BitVec 14) ∧ w.extractLsb' 0 18 = (0x10000 : BitVec 18) ∧ w.extractLsb' 32 18 = (0x11800 : BitVec 18)) ∧
    areaEntry ∈ leasing.home.rpt ∧ areaEntry.space = 0xFF ∧ areaEntry.kind = 0 ∧ areaEntry.loc.extractLsb' 18 29 = leasing.at_ ∧
    (areaEntry.loc.extractLsb' 0 18).toNat = 0x10000 ∧ areaEntry.len.toNat = 0x4000 ∧ 0x11800 + 6144 ≤ 0x10000 + 0x4000 ∧ 0x10000 % 64 = 0 ∧ 0x11800 % 64 = 0 ∧
    (0x100 : Word).toNat + 128 ≤ nearEnd leasing.at_ ∧ leasing.stagedCheck 0x100 128 = none ∧
    recOk (recOfBytes (leasing.here.mem.read leasing.at_ KeyId.system 0x100 128)) = true ∧
    recOk (recOfBytes ((mem leasing 0x101 [0x10]).here.mem.read leasing.at_ KeyId.system 0x100 128)) = false ∧ leasing.quiescent = true ∧ leasing.act.part = .none ∧
    (leasing.modAct fun v => { v with part := .lease }).act.part = .lease := by
  refine ⟨by decide +kernel, List.mem_cons_self .., by decide +kernel, by decide +kernel, by decide +kernel, by decide +kernel, by decide +kernel, by decide, by decide, by decide, by decide +kernel,
    by decide +kernel, by decide +kernel, by decide +kernel, by decide +kernel, by decide +kernel, by decide +kernel⟩

/-- A state saved in the incoming area, whose bytes the area holds. -/
theorem witness_LeaseInstruction_saved :
    (let v : Saved := { ten := 5, area := 0x11800, serial := 9, lessee := Lessee.zero }
     (({ leasing.here with saved := [v] } : Core).saved.find? fun v => v.area == 0x11800) = some v ∧ (0x00011800_00010000 : Word).extractLsb' 32 18 ≠ (0 : BitVec 18)) := by decide +kernel

/-- A global access of tenant 1 with an entry, with one marked MOV, and with no tag left. -/
theorem witness_OwnerChecks :
    (let e : RptEntry := { base := 0, len := 64, space := 0, owner := 1, kind := 0, mov := false, pgen := 0, loc := 0 }
     let full := base.modNet fun n => { n with tags := Vector.replicate 16 (some { ten := 2, cid := 0, space := 0, off := 0x1000000, len := 8 }) }
     plbFind [e] 1 0 8 = some e ∧ plbFind [{ e with mov := true }] 1 0 8 = some { e with mov := true } ∧ plbFind [e] 1 0 64 = none ∧
     (8 : Word).toNat + 8 ≤ e.base.toNat + e.len.toNat ∧ ¬ ((60 : Word).toNat + 8 ≤ e.base.toNat + e.len.toNat) ∧
     (∀ k : Fin 16, full.here.net.tags[k] ≠ none) ∧ tagFor full.here.net.tags 1 0 8 = none ∧ tagFor base.here.net.tags 1 0 8 = none ∧ base.here.net.tags[(0 : Fin 16)] = none) := by
  decide +kernel

/-! Messages and the machine once the ingress has taken one. -/

/-- A message of tenant `ten` from core `src` to core 0, the first of its pair. -/
def msgOf (src : CoreAddr) (ch : BitVec 8) (ten : BitVec 12) (kind : BitVec 2) (paddr : BitVec 18) (pay : List Strip) : Msg :=
  { hdr := mkHdr 0 src ch (ten ++ 0#4) 0 pay.length kind paddr false false false false false false, aword := 0, pay := pay, pool := 0, sys := decide (ten = 0) }

/-- A NACK of tenant 5 from core 7: cause NACKWIN, about a message of channel 18 to core 7. -/
def nackMsg : Msg :=
  { hdr := mkHdr 0 7 18 (5#12 ++ 0#4) 0 1 kReply 0 false false false false true false, aword := 0,
    pay := [mkHdr 7 0 18 (5#12 ++ 0#4) 3 0 kCall 0 false false false false false false ++ (0#64) ++ (0x05#64)], pool := 0, sys := false }

/-- The machine with a message on its way and the event that takes it. -/
def arriving (s : State) (m : Msg) : State := { s with flight := [m], ev := { s.ev with src := m.src } }

/-- The machine once the ingress has taken it. -/
def taken (s : State) (m : Msg) : State := State.ingress { arriving s m with flight := [] } m.src m

/-- A message is the next of its pair there, and none of its event waits. -/
def takesOk (s : State) (m : Msg) : Bool :=
  s.here.present && (s.here.net.takeEarly m.src).isNone && m.dst == s.at_ && m.pseq == s.here.net.expectOf m.src && !s.here.net.spilling m.src && s.here.dbg.admits m &&
    ((arriving s m).roleNext ((arriving s m).eventFor m)).isNone

/-- Such a message is the next of its pair. -/
theorem takes_of (s : State) (m : Msg)
    (h : takesOk s m = true) : Takes (arriving s m) m (taken s m) := by
  simp only [takesOk, Bool.and_eq_true, Option.isNone_iff_eq_none, beq_iff_eq, Bool.not_eq_true'] at h
  obtain ⟨⟨⟨⟨⟨⟨h1, h2⟩, h3⟩, h4⟩, h6⟩, h5⟩, h7⟩ := h
  refine ⟨[], h7, h1, h2, ?_, h4, h6, h5, rfl⟩
  simp [arriving, takeFirst, h3]

/-- Core 0 with a window of tenant 5 over all of local memory, with every right, under key slot 0. -/
def windowed : State := { base with here := { base.here with windows := base.here.windows.set 0 ((5#128 <<< 116) ||| (0xF#128 <<< 100) ||| (0x40000#128 <<< 18)) } }

/-- A request of the remote-op thread of tenant 5: operation, size byte, length and near address. -/
def request (op sz : BitVec 8) (len : BitVec 16) (paddr : BitVec 18) : Msg := msgOf 7 8 5 kSystem paddr [descFlit op sz 0 len.toNat 0 0 0, 0]

/-- Requests whose checks pass at the ends of local memory, and one that no window grants. -/
theorem witness_RemoteAccesses :
    (∀ m ∈ [request 1 3 8 0x3FFF8, request 1 7 8 0, request 2 3 8 0, request 0x10 3 8 0, request 0x1A 3 8 0x3FFF8],
      (taken windowed m).routed m = true ∧ m.ch = 8 ∧ m.kind = kSystem ∧
      (∀ a ∈ [(Perm.read, false), (.write, true), (.atomic, true)], (match (taken windowed m).place m a.1 a.2 8 with | .ok _ => true | .error _ => false) = true)) ∧
    (∀ op ∈ [(1 : BitVec 8), 2, 0x10, 0x1A], ∀ a ∈ [(Perm.read, false), (.write, true), (.atomic, true)],
      (match (taken base (request op 3 8 0)).place (request op 3 8 0) a.1 a.2 8 with | .ok _ => false | .error _ => true) = true) ∧
    (request 1 3 8 0).op = 1 ∧ (request 1 3 8 0).width = 8 ∧ (request 0x1A 3 8 0).op = 0x1A ∧ (request 1 7 8 0).sz.getLsbD 2 = true ∧ (request 1 3 8 0).sz.getLsbD 2 = false := by
  decide +kernel

theorem witness_RemoteAccesses_takes :
    ∀ m ∈ [request 1 3 8 0x3FFF8, request 2 3 8 0, request 0x10 3 8 0, request 0x1A 3 8 0x3FFF8, request 0x20 0 0 0x100], TakesRouted (arriving windowed m) m (taken windowed m) := by
  have h : ∀ m ∈ [request 1 3 8 0x3FFF8, request 2 3 8 0, request 0x10 3 8 0, request 0x1A 3 8 0x3FFF8, request 0x20 0 0 0x100],
      (takesOk windowed m && (taken windowed m).routed m) = true := by decide +kernel
  intro m hm
  have := h m hm
  rw [Bool.and_eq_true] at this
  exact ⟨takes_of _ _ this.1, this.2⟩

/-- A get of 256 bytes of tenant 5 from core 7 into the end of local memory, one part of it under way, with some of its bytes landed. -/
def getting (got : List (Nat × List Byte)) (left : Bool) (near : Nat) : GetOp :=
  { id := 0, near := 0x3FF00, len := 256, ch := 20, cid := 0x50, kslot := 0, org := Origin.none, fails := [],
    left := if left then [{ off := 0, near := near, len := 256, home := 7, got := got }] else [] }

/-- The core with such a get. -/
def getter (g : GetOp) : State := windowed.modNet fun n => { n with gets := [g] }

/-- A landing of tenant 5 from core 7: bytes, near address, offset. -/
def landing (n : Nat) (near off : Word) : Msg := msgOf 7 8 5 kSystem 0 (descFlit 6 0 20 n 0 near off :: flitsOf (List.replicate n 1))

/-- Parts of moves that are granted and refused; the first landing of a part, its last one, granted and refused; a get whose parts have all ended, with and without a failed part. -/
theorem witness_RemoteMoves :
    (∀ m ∈ [request 3 0 32 0x3FFE0, request 4 0 32 0x3FFE0, request 5 0 32 0x3FFE0],
      (taken windowed m).routed m = true ∧ m.ch = 8 ∧ m.kind = kSystem ∧ m.len = 32 ∧
      (∀ a ∈ [(Perm.read, false), (.write, true)], (match (taken windowed m).place m a.1 a.2 32 with | .ok _ => true | .error _ => false) = true ∧
        (match (taken base m).place m a.1 a.2 32 with | .ok _ => false | .error _ => true) = true)) ∧
    (let m := landing 224 0x3FF00 0
     let m' := landing 32 0x3FFE0 224
     let g := getting [] true 0x3FF00
     let g' := getting [(0, List.replicate 224 1)] true 0x3FF00
     let t := taken (getter g) m
     let t' := taken (getter g') m'
     m.op = 6 ∧ m.rch = 20 ∧ m.cid = 0x50 ∧ isPoolAgent t.at_ = false ∧ isCopyEngine t.at_ = false ∧
     t.here.net.gets.find? (fun g => g.cid == m.cid && g.ch == m.rch && g.left.any fun p => p.awaits m) = some g ∧ g.left.find? (fun p => p.awaits m) = g.left.head? ∧
     m.data.length = 224 ∧ t'.here.net.gets.find? (fun g => g.cid == m'.cid && g.ch == m'.rch && g.left.any fun p => p.awaits m') = some g' ∧ m'.data.length = 32 ∧
     (match t'.landBytes 0 0x3FF00 (List.replicate 256 1) with | .ok _ => true | .error _ => false) = true ∧
     (match t'.landBytes 0 0x3FF10 (List.replicate 256 1) with | .ok _ => false | .error _ => true) = true) ∧
    takeFirst (fun x : GetOp => x.left.isEmpty) [getting [] false 0] = some (getting [] false 0, []) ∧
    takeFirst (fun x : GetOp => x.left.isEmpty) [{ getting [] false 0 with fails := [(0, cNackWin)] }] ≠ none := by
  decide +kernel

theorem witness_RemoteMoves_takes :
    (∀ m ∈ [request 3 0 32 0x3FFE0, request 4 0 32 0x3FFE0, request 5 0 32 0x3FFE0], TakesRouted (arriving windowed m) m (taken windowed m)) ∧
    TakesRouted (arriving (getter (getting [] true 0x3FF00)) (landing 224 0x3FF00 0)) (landing 224 0x3FF00 0) (taken (getter (getting [] true 0x3FF00)) (landing 224 0x3FF00 0)) := by
  have h : ∀ m ∈ [request 3 0 32 0x3FFE0, request 4 0 32 0x3FFE0, request 5 0 32 0x3FFE0],
      (takesOk windowed m && (taken windowed m).routed m) = true := by decide +kernel
  refine ⟨fun m hm => ?_, takes_of _ _ (by decide +kernel), by decide +kernel⟩
  have := h m hm
  rw [Bool.and_eq_true] at this
  exact ⟨takes_of _ _ this.1, this.2⟩

/-- A join record at 0x100 with count 1 and its reserved bits zero, one that counts less, one with a reserved bit set, and a barrier's of exactly one flit. -/
theorem witness_JoinsAndBarriers :
    (let m := request 0x20 0 0 0x100
     let x (s : State) : BitVec 128 := (match (taken s m).record m m.paddr with | .ok r => r.2 | .error _ => 0)
     let s := mem windowed 0x10C [1]
     (taken s m).routed m = true ∧ m.op = 0x20 ∧ m.paddr = 0x100 ∧ ((x s).extractLsb' 96 32).toNat = 1 ∧ (x s).extractLsb' 64 32 = (0 : BitVec 32) ∧ (x s).extractLsb' 0 1 = (0 : BitVec 1) ∧
       (x s).extractLsb' 2 25 = (0 : BitVec 25) ∧ (x windowed).extractLsb' 96 32 = (0 : BitVec 32) ∧ (x (mem windowed 0x108 [1])).extractLsb' 64 32 ≠ (0 : BitVec 32) ∧
       (match (taken base m).record m m.paddr with | .ok _ => false | .error _ => true) = true ∧ isPoolAgent s.at_ = false) ∧
    (let s : State := { windowed with here := { windowed.here with regs := { windowed.here.regs with lessee := 5 }, live := { windowed.here.live with barm := [(20, 0x100)] } } }
     let m := msgOf 7 20 5 kPut 0x200 [0]
     let f := msgOf 7 20 5 kPut 0x3FFF0 [0]
     let z := mem (mem s 0x10C [32]) 0x100 [1]
     (taken z m).barrier m = some 0x100 ∧ (taken z f).barrier f = some 0x100 ∧ m.kind = kPut ∧ m.isNack = false ∧ m.ch ≠ 8 ∧ m.bytes.length = 32 ∧
       (match (taken z m).record m 0x100 with | .ok r => decide ((r.2.extractLsb' 96 32).toNat = 32 ∧ r.2.extractLsb' 0 1 = (1 : BitVec 1)) | .error _ => false) = true ∧
       (match (taken z m).homeCheck m.ten .write true m.paddr 32 with | .ok _ => true | .error _ => false) = true ∧
       (match (taken z f).homeCheck f.ten .write true f.paddr 32 with | .ok _ => false | .error _ => true) = true) := by decide +kernel

/-- A join's decrement at a pool agent. -/
theorem witness_JoinsAndBarriers_pool :
    (let s : State := { base with at_ := poolAgent 0 0 }
     let m := { request 0x20 0 0 0x100 with hdr := mkHdr (poolAgent 0 0) 7 8 0 0 2 kSystem 0x100 false false false false false false }
     isPoolAgent s.at_ = true ∧ TakesRouted (arriving s m) m (taken s m) ∧ m.op = 0x20) :=
  ⟨by decide +kernel, ⟨takes_of _ _ (by decide +kernel), by decide +kernel⟩, by decide +kernel⟩

/-- A core whose channel 20 has a handler; a message of its lessee there is queued. -/
def handled : State := { base with here := { base.here with live := { base.here.live with handlers := [(20, 0x8000000100000000)] } } }

/-- The same with four messages in the channel's queue. -/
def fullQueue : State := handled.modNet fun n => { n with queues := [(20, List.replicate 4 { msg := msgOf 7 20 0 kCall 0 [], running := false, drops := 0 })] }

/-- Two cores side by side, with one image and one paired entry of channel 20. -/
def twinned : State :=
  let c (x : Core) : Core := { x with images := x.images.set 0 (some placedImage), live := { x.live with handlers := [(20, 0x8800000100000000)] } }
  { base with here := c base.here, away := [(1, c Core.reset)] }

/-- Calls that a core queues, spills, or refuses: of its own lessee with a handler and with none, of another tenant that may spill, on channel 252, behind a full queue, with a twin;
a report to an engine of a role; a put that a window grants and one that none grants. -/
theorem witness_Arrivals :
    (let m := msgOf 7 20 0 kCall 0 []
     let f := msgOf 7 20 5 kCall 0 []
     let quota (s : State) (x : Msg) : Prop := (taken s x).here.net.ringUse x.ten + 32 ≤ (taken s x).quota x.ten
     TakesRouted (arriving handled m) m (taken handled m) ∧ eventOf handled.at_ m = .messageArrival ∧ m.ch ≠ 249 ∧ (taken handled m).foreign m = false ∧ (taken handled f).foreign f = true ∧
       isPoolAgent handled.at_ = false ∧ ((look handled.here.live.handlers 20).getD 0).getLsbD 63 = true ∧ (taken handled m).twin 20 = none ∧
       ¬ 4 ≤ ((taken handled m).here.net.queue 20).length ∧ (taken handled m).ringHas 20 = false ∧ 4 ≤ ((taken fullQueue m).here.net.queue 20).length ∧
       look base.here.live.handlers 20 = none ∧ vendorChannel base.at_ 20 = false ∧ ¬ quota handled f ∧ (taken twinned m).twin 20 = some 1) := by
  refine ⟨⟨takes_of _ _ (by decide +kernel), by decide +kernel⟩, ?_⟩
  decide +kernel

theorem witness_Arrivals_lost : (let m := msgOf 7 252 0 kCall 0 []; TakesRouted (arriving base m) m (taken base m) ∧ eventOf base.at_ m = .messageArrival ∧ 252 ≤ m.ch.toNat) ∧
    (let m := msgOf 7 8 0 kCall 0 []; TakesRouted (arriving base m) m (taken base m) ∧ eventOf base.at_ m = .messageArrival ∧ m.ch = 8) :=
  ⟨⟨⟨takes_of _ _ (by decide +kernel), by decide +kernel⟩, by decide +kernel, by decide +kernel⟩, ⟨⟨takes_of _ _ (by decide +kernel), by decide +kernel⟩, by decide +kernel, by decide +kernel⟩⟩

/-- A spilled message that is not yet written, and one that may return. -/
def spilled (written : Bool) (s : State) : State :=
  s.modNet fun n => { n with rings := [(0, [{ msg := msgOf 7 20 0 kCall 0 [], seq := 0, written := written, early := false, copied := false }])] }

theorem witness_SpillRings :
    (((spilled false base).here.net.rings.findSome? fun r => (r.2.find? fun e => !e.written).map fun e => (r.1, e))).isSome = true ∧ (spilled false base).spillServed = true ∧
      ((spilled true base).returnable 20).isSome = true ∧ ((spilled true base).here.net.queue 20).length < 4 ∧ (spilled true base).here.swapping = false ∧
      (spilled true base).twin 20 = none ∧ ((spilled true twinned).returnable 20).isSome = true ∧ (spilled true twinned).twin 20 = some 1 := by decide +kernel

/-- Every spill engine of the core's die is absent. -/
theorem witness_SpillRings_unserved :
    ({ base with away := (List.range 8).map fun i => ((spillEngine 0 0 i).toNat, { Core.reset with present := false }) } : State).spillServed = false := by decide +kernel

/-- An unsettled send whose acknowledgement or refusal arrives. -/
def unsettled1 : State :=
  base.modNet fun n => { n with sent := [{ dst := 7, pseq := 3, org := { Origin.none with aseq := 1 }, ord := 0, cid := 0x50, space := 0, off := 0, glob := false, who := .plain, done := false }] }

theorem witness_Settling :
    (∀ b ∈ [true, false], ([{ src := 0, dst := 7, pseq := 3, nacked := b }].filter fun a : Ack => a.src == unsettled1.at_ && a.dst == 7)[0]? ≠ none) ∧
      (unsettled1.here.net.sent.find? (fun r => r.dst == 7 && r.pseq == 3)).isSome = true ∧ nackMsg.isNack = true ∧
      ((nackMsg.flit 0).extractLsb' 128 128).extractLsb' 99 29 = (7 : CoreAddr) ∧ ((nackMsg.flit 0).extractLsb' 128 128).extractLsb' 30 16 = (3 : BitVec 16) ∧
      ((nackMsg.flit 0).extractLsb' 128 128).extractLsb' 24 2 ≠ (1 : BitVec 2) ∧ unsettled1.here.net.unsettled 7 < 32768 ∧
      (∃ r ∈ unsettled1.here.net.sent, r.done = false ∧ r.org.aseq = (outgoing true 1).org.aseq ∧ r.ord < (outgoing true 1).ord) ∧
      (outgoing true 1).l = true ∧ (outgoing true 1).org.aseq ≠ (outgoing true 2).org.aseq ∧ (∀ r ∈ unsettled1.here.net.sent, r.org.aseq ≠ (outgoing true 2).org.aseq) := by decide +kernel

theorem witness_Settling_nack : Takes (arriving unsettled1 nackMsg) nackMsg (taken unsettled1 nackMsg) := takes_of _ _ (by decide +kernel)

/-- A core with an image, a handler of channel 20 of class S and mode D in it, and a queued message: the channel is chosen, and slot 3 is free. -/
def dispatching : State :=
  { State.reset with here := { State.reset.here with images := State.reset.here.images.set 0 (some placedImage), live := { State.reset.here.live with handlers := [(20, 0x8240000100000000)] },
                                                     net := { State.reset.here.net with queues := [(20, [{ msg := msgOf 7 20 0 kCall 0 [], running := false, drops := 0 }])] } } }

theorem witness_Dispatch :
    dispatching.choose = some 20 ∧ dispatching.runnable 20 = true ∧ (look dispatching.here.net.queues 20).isSome = true ∧ dispatching.freeFor (dispatching.here.entry 20) = some 3 ∧
      (dispatching.here.entry 20).getLsbD 60 = false ∧ (dispatching.here.entry 20).getLsbD 59 = false ∧
      (∃ q, (dispatching.here.net.queue 20).find? (fun e => !e.running) = some q ∧ q.msg.dst = dispatching.at_) ∧ base.choose = none :=
  ⟨by decide +kernel, by decide +kernel, by decide +kernel, by decide +kernel, by decide +kernel, by decide +kernel, ⟨_, rfl, by decide +kernel⟩, by decide +kernel⟩

/-- An entry of PRIO 6 and one of PRIO 5; a budget spent to the cycle, and one cycle before. -/
theorem witness_AgesAndBudgets :
    (let s (p : Word) : State := { dispatching with here := { dispatching.here with live := { dispatching.here.live with handlers := [(20, p <<< 54)] } } }
     6 ≤ (((s 6).here.entry 20).extractLsb' 54 3).toNat ∧ (((s 5).here.entry 20).extractLsb' 54 3).toNat < 6) ∧
    (let s (c : Word) : State := { base with here := { base.here with cyc := c } }
     base.act.busy = true ∧ base.act.paired = false ∧ base.here.dbg.held ≠ some base.slot ∧
       64 * (base.act.entry.extractLsb' 32 16 : BitVec 16).toNat ≤ (s 0x3FFFC0).acnt.toNat ∧ (s 0x3FFFBF).acnt.toNat < 64 * (base.act.entry.extractLsb' 32 16 : BitVec 16).toNat) := by
  decide +kernel

/-- Supervisor core 0 with a region in space 3, and perhaps a function whose record has its tenant and more bits of its first doubleword. -/
def supervised (owner : BitVec 12) (mov : Bool) (vf : Option Word) : State :=
  let s := ({ base with at_ := supervisor0 0 0 } : State)
  s.modHome fun k => { k with
    rpt := [{ base := 0, len := 0x1000, space := 3, owner := owner, kind := 0, mov := mov, pgen := 0, loc := 0 }]
    funcs := match vf with
      | some x => [(1, { Func.reset with rec16 := (Vector.replicate 16 (0 : Word)).set 0 (5 ||| x), valid := true })]
      | none => [] }

/-- A fault record to supervisor core 0 from core 7, tenant 5. -/
def faultMsg (kind : Nat) (space : BitVec 8) : Msg :=
  let m := msgOf 7 10 0 kSystem 0 [faultFlit kind 0 0x50 space 0 7 16]
  { m with hdr := mkHdr (supervisor0 0 0) 7 10 0 0 1 kSystem 0 false false false false false false }

/-- Records about no region, the tenant's own region and one of another tenant, one that is moving, one of a tenant whose placement repair is assisted, and an acknowledgement. -/
theorem witness_PlacementAnswers :
    (∀ m ∈ [faultMsg 1 3, faultMsg 1 4, faultMsg 2 3, faultMsg 5 3, faultMsg 3 3, faultMsg 4 3],
      Takes (arriving (supervised 5 false none) m) m (taken (supervised 5 false none) m) ∧ eventOf (supervised 5 false none).at_ m = .placementFaultRecord) ∧
    (let s (owner : BitVec 12) (mov : Bool) (vf : Option Word) : State := (taken (supervised owner mov vf) (faultMsg 1 3)).settle (faultMsg 1 3)
     (faultMsg 1 3).fault.kind = 1 ∧ (faultMsg 2 3).fault.kind = 2 ∧ (faultMsg 5 3).fault.kind = 5 ∧ (faultMsg 3 3).fault.kind = 3 ∧ (faultMsg 4 3).fault.kind = 4 ∧
     (faultMsg 1 3).fault.ten = 5 ∧ (s 5 false none).home.assisted 5 38 = false ∧ (s 5 false none).home.regionAt 4 0 = none ∧
     ((s 5 false none).home.regionAt 3 0).any (fun e => e.owner == 5 && e.ok && !e.mov) = true ∧ ((s 6 false none).home.regionAt 3 0).any (fun e => e.owner != 5) = true ∧
     ((s 5 true none).home.regionAt 3 0).any (fun e => e.owner == 5 && e.ok && e.mov) = true ∧ (s 5 false (some 0x4000000000)).home.assisted 5 38 = true ∧
     (s 5 false (some 0x4000000000)).home.prg = []) := by
  refine ⟨fun m hm => ?_, by decide +kernel⟩
  have h : ∀ m ∈ [faultMsg 1 3, faultMsg 1 4, faultMsg 2 3, faultMsg 5 3, faultMsg 3 3, faultMsg 4 3], let s := supervised 5 false none
      (takesOk s m && eventOf s.at_ m == .placementFaultRecord) = true := by decide +kernel
  have := h m hm
  rw [Bool.and_eq_true, beq_iff_eq] at this
  exact ⟨takes_of _ _ this.1, this.2⟩

/-- The last table index in use, and a response to it at the supervisor that serves the requester. -/
theorem witness_PlacementAnswers_response :
    (let p : PrgEntry := { index := 255, cid := 0x50, space := 3, off := 0, len := 16, tag := 0, req := 0 }
     let s := (supervised 5 false none).modHome fun k => { k with prg := [p] }
     let t : State := { s with ev := { s.ev with idx := 255 } }
     t.home.prg.find? (fun p => p.index == t.ev.idx && decide (p.index < 256)) = some p ∧ s.home.prg.find? (fun p => p.index == s.ev.idx && decide (p.index < 256)) = none ∧
       s.at_ = s.standIn (supervisorOf p.req) ∧ p.cid.extractLsb' 4 12 ≠ (0 : BitVec 12)) := by decide +kernel

/-- An install for tenant 0 at a core that holds no request; a refusal of the one request that a tag holds; a shootdown of a region that it does not hold and of one that it does. -/
theorem witness_Placements :
    (let m := msgOf 7 11 0 kSystem 0 [0, 0]
     let d := msgOf 7 11 0 kSystem 0 [2, 0]
     let f := msgOf 7 11 0 kSystem 0 [1, 0]
     let r : GReq := { op := 1, sz := 3, ch := 20, space := 3, off := 0, len := 8, v1 := 0, v2 := 0, relay := 0, near := 0, kslot := 0, data := [] }
     let s := base.modNet fun n => { n with
       egress := [{ outgoing false 1 with send := .glob r, tag := some 0 }], tags := n.tags.set 0 (some { ten := 5, cid := 0x50, space := 3, off := 0, len := 8 }) }
     (∀ x ∈ [m, d, f], x.ch = 11 ∧ x.kind = kSystem) ∧ m.byte 0 = 0 ∧ d.byte 0 = 2 ∧ f.byte 0 = 1 ∧ (taken base m).here.net.egress = [] ∧
       (∀ i : Fin 16, (taken base m).here.net.tags[i] = none) ∧ (RptEntry.ofFlit 0).kind ≠ 3 ∧
       ((m.dw 0).extractLsb' 16 16 : BitVec 16).extractLsb' 4 12 = 0#12 ∧ (∀ i : Fin 4, (taken base m).here.acts[i].part = .none) ∧
       (((f.dw 0).extractLsb' 8 4 : BitVec 4).toNat = 0 ∧ (∀ j : Fin 16, j ≠ 0 → (taken s f).here.net.tags[j] = none) ∧ (taken s f).here.net.egress.length = 1) ∧
       base.here.holdsRegion (RptEntry.ofFlit 0) = false ∧
       ({ base.here with live := { base.here.live with plb := [RptEntry.ofFlit 0] } } : Core).holdsRegion (RptEntry.ofFlit 0) = true ∧
       (∀ r ∈ base.here.net.sent, r.glob = false) ∧ base.here.net.egress = []) := by decide +kernel

theorem witness_Placements_takes : Takes (arriving base (msgOf 7 11 0 kSystem 0 [1, 0])) (msgOf 7 11 0 kSystem 0 [1, 0]) (taken base (msgOf 7 11 0 kSystem 0 [1, 0])) :=
  takes_of _ _ (by decide +kernel)

/-! Engines. -/

/-- A system message from core 7 to a core, the first of its pair. -/
def sysMsg (dst : CoreAddr) (ch : BitVec 8) (cid : BitVec 16) (pay : List Strip) : Msg :=
  { hdr := mkHdr dst 7 ch cid 0 pay.length kSystem 0 false false false false false false, aword := 0, pay := pay, pool := 0, sys := true }

/-- Copy engine 0 of die 0, with a region of tenant 5 from 0 to 4,096 in its first space. -/
def copier : State :=
  ({ base with at_ := copyEngine 0 0 0 } : State).modHome fun k => { k with rpt := [{ base := 0, len := 0x1000, space := 3, owner := 5, kind := 0, mov := false, pgen := 0, loc := 0 }] }

/-- A command of tenant 5: 512 B from 0 to an offset, with a channel. -/
def copyOf (dst : Word) (ch : BitVec 8) (started : Bool) (parts : List CopyPart) (halted : Bool) (fail : Option (BitVec 8 × BitVec 4 × Word)) : CopyCmd :=
  { id := 0, blk := flit4 0 dst 512 (ch.setWidth 64), xid := 9, cid := 0x50, kslot := 1, gsa := 3, gsb := 4, issuer := 0, started := started, parts := parts, halted := halted, fail := fail }

/-- A copy engine with a command. -/
def copying (c : CopyCmd) : State := { copier with here := { copier.here with eng := { copier.here.eng with copies := [c] } } }

/-- A kick; a command not started whose ranges the tenant owns up to the region's end, and one whose destination ends past it. -/
theorem witness_CopyEngines :
    (let m := sysMsg copier.at_ 9 0x50 [0, 0]
     TakesRouted (arriving copier m) m (taken copier m) ∧ eventOf copier.at_ m = .copyKick) ∧
      (copying (copyOf 0xE00 20 false [] false none)).home.copyCheck (copyOf 0xE00 20 false [] false none) = none ∧
      ((copying (copyOf 0xE10 20 false [] false none)).home.copyCheck (copyOf 0xE10 20 false [] false none)).isSome = true :=
  ⟨⟨⟨takes_of _ _ (by decide +kernel), by decide +kernel⟩, by decide +kernel⟩, by decide +kernel⟩

/-- A landing at the engine, of its command and of none. -/
theorem witness_CopyEngines_landing :
    (let m := sysMsg copier.at_ 8 0x50 [descFlit 6 0 0 16 0 0 0, 0]
     let s := copying (copyOf 0xE00 20 true [{ off := 0, len := 256, st := .reading, data := [] }] false none)
     TakesRouted (arriving s m) m (taken s m) ∧ eventOf s.at_ m = .getLanding ∧ isPoolAgent (taken s m).at_ = false ∧ isCopyEngine (taken s m).at_ = true ∧
       (∃ c, (taken s m).here.eng.copies = [c] ∧ c.id = (m.dw 2).toNat / 2 ^ 32) ∧ (taken copier m).here.eng.copies = []) :=
  ⟨⟨takes_of _ _ (by decide +kernel), by decide +kernel⟩, by decide +kernel, by decide +kernel, by decide +kernel, ⟨_, rfl, by decide +kernel⟩, by decide +kernel⟩

/-- Commands that are done, with and without a failure and a channel. -/
theorem witness_CopyEngines_done :
    (∀ c ∈ [copyOf 0xE00 20 true [{ off := 0, len := 256, st := .done, data := [] }] false none, copyOf 0xE00 0 true [] true (some (0x0C, 2, 0x1000)),
        copyOf 0xE00 20 true [{ off := 0, len := 256, st := .toRead, data := [] }] true (some (0x0C, 2, 0x1000))],
      c.started = true ∧ (∀ p ∈ c.parts, p.st ≠ .reading ∧ p.st ≠ .writing ∧ (c.halted = true ∨ p.st = .done)) ∧ c.blk.extractLsb' 200 1 = (0 : BitVec 1)) ∧
      (copyOf 0xE00 20 true [{ off := 0, len := 256, st := .done, data := [] }] false none).failure = none ∧
      (copyOf 0xE00 20 true [] true (some (0x0C, 2, 0x1000))).failure = some (0x0C, 2, 0x1000) := by decide +kernel

/-- A copy of `mxcmd q0, q1` to bank 0 in format 0 with channel 20, from the corner (0,0) of a 2 by 1 rope to its member (1,0). -/
def ropeMsg : Msg :=
  { hdr := mkHdr (mkAddr 0 0 0 1) 0 13 0 0 1 kSystem 0 false false false false false false, aword := 0, pay := [flit4 0x1CF608014 0 0 0], pool := 0, sys := false }

/-- The core (1,0) with a rope register. -/
def member (rope : BitVec 22) : State := { base with at_ := mkAddr 0 0 0 1, here := { base.here with mx := { base.here.mx with rope := rope } } }

/-- A member whose rope is off, and one that refuses nothing. -/
theorem witness_RopeCopies :
    (let s := member (1 ||| (1 <<< 19) ||| (1 <<< 13))
     let t := taken s ropeMsg
     let c := t.ropeCommand ropeMsg
     TakesRouted (arriving s ropeMsg) ropeMsg t ∧ eventOf s.at_ ropeMsg = .ropeCommandArrival ∧ s.here.mx.queue.length < 4 ∧
      t.ropeRefuses ropeMsg c = false ∧ c.qb = 1 ∧ c.ch = 20 ∧ (member 0).here.mx.rope.getLsbD 0 = false) :=
  ⟨⟨takes_of _ _ (by decide +kernel), by decide +kernel⟩, by decide +kernel⟩

/-! Launches. -/

/-- The cells of some bytes from an address. -/
def cells (a : Nat) (bs : List Byte) : Memory := (List.range bs.length).map fun i => (a + i, bs.getD i 0)

/-- The bytes of doublewords. -/
def dws (l : List Word) : List Byte := l.flatMap fun x => leBytes 8 x.toNat

/-- A block with LID 7 for core (0,0) alone, one image, generation 1 of ID 9 at 0x200, and one template for channel 16, which is START. -/
def block (dw0 ck : Word) : List Byte := dws [dw0, 0x100000000, 0x100000010, ck, 0x100000009, 0x200, 0x803F000000000000, 16]

/-- The block that passes. -/
def goodBlock : List Byte := block 0x704400000 0

/-- A sealed image of 64 B but its MAC: ID 9, generation 1, class 1. -/
def headBytes : List Byte := dws [0x1000100000009, 64, 0, 0, 0, 0]
def bodyBytes : List Byte := List.replicate 68 0

/-- The image with the MAC that its bytes have. -/
def goodImage : List Byte := headBytes ++ leBytes 16 (Config.sealMac (headBytes ++ bodyBytes)).toNat ++ bodyBytes

theorem leNat_leBytes (n x : Nat) : leNat (leBytes n x) = x % 256 ^ n := by
  induction n generalizing x with
  | zero => simp [leBytes, leNat, Nat.mod_one]
  | succ n ih =>
    have h : x % 256 ^ (n + 1) = x % 256 + 256 * (x / 256 % 256 ^ n) := by rw [Nat.pow_succ, Nat.mul_comm, Nat.mod_mul]
    rw [h]
    simp [leBytes, leNat, ih]

theorem goodImage_mac : macOk goodImage = true := by
  have h : headMac goodImage = Config.sealMac (headBytes ++ bodyBytes) := by
    have : (goodImage.drop 48).take 16 = leBytes 16 (Config.sealMac (headBytes ++ bodyBytes)).toNat := rfl
    rw [headMac, this, leNat_leBytes]
    apply BitVec.eq_of_toNat_eq
    rw [BitVec.toNat_ofNat, Nat.mod_mod_of_dvd _ (by decide)]
    exact Nat.mod_eq_of_lt (Config.sealMac (headBytes ++ bodyBytes)).isLt
  have e : goodImage.take 48 ++ goodImage.drop 64 = headBytes ++ bodyBytes := rfl
  rw [macOk, h, e]
  simp

/-- Launch engine 0 of package 0; tenant 1 owns 4 KiB of pool port 0, which hold a block and the image. -/
def launching (b : List Byte) : State :=
  ({ base with at_ := launchEngine 0 0 } : State).modHome fun k => { k with
    rpt := [{ base := 0, len := 0x1000, space := 0, owner := 1, kind := 2, mov := false, pgen := 0, loc := 0 }]
    igt := [(9, 0x8000000100000009 ||| 0x100000000)]
    pool := [(0, cells 0x200 goodImage ++ cells 0 b)] }

/-- The submission of the block at 0. -/
def submission : Msg := sysMsg (launchEngine 0 0) 0 0x10 [flit4 0 0 0 1, 0]

theorem memRead_cells (bs : List Byte) (t : Memory) (a n : Nat) (h : n ≤ bs.length) : memRead (cells a bs ++ t) a n = bs.take n := by
  have key : ∀ (l : List Nat) (t : Memory) (i : Nat), i ∈ l → memByte (l.map (fun i => (a + i, bs.getD i 0)) ++ t) (a + i) = bs.getD i 0 := by
    intro l t i hi
    induction l with
    | nil => exact nomatch hi
    | cons j l ih =>
      by_cases e : j = i
      · simp [memByte, e]
      · simpa [memByte, e] using ih (List.mem_of_ne_of_mem (fun h => e h.symm) hi)
  apply List.ext_getElem (by simp [memRead_length, h])
  intro i h1 h2
  rw [memRead_length] at h1
  have := memRead_getD (cells a bs ++ t) a n i h1
  rw [List.getD_eq_getElem _ _ (by simpa [memRead_length] using h1)] at this
  rw [this, cells, key _ _ _ (by simp; omega), List.getElem_take, List.getD_eq_getElem]

theorem launching_image (x : Word) (h : x = 0x200) : ((taken (launching goodBlock) submission).settle submission).imageAt 0 1 x = some goodImage := by
  subst h
  have h0 (n : Nat) (hn : n ≤ goodImage.length) (h : ((taken (launching goodBlock) submission).settle submission).gvaRead 0 1 0 0x200 n =
      .ok (memRead (cells 0x200 goodImage ++ cells 0 goodBlock) 0x200 n ++ [])) :
      ((taken (launching goodBlock) submission).settle submission).gvaRead 0 1 0 0x200 n = .ok (goodImage.take n) := by
    rw [h, memRead_cells _ _ _ _ hn, List.append_nil]
  have h1 := h0 64 (by decide +kernel) rfl
  have h2 := h0 132 (by decide +kernel) rfl
  have h3 : headOk (goodImage.take 64) = true ∧ imageBytes (goodImage.take 64) = 132 := by decide +kernel
  have h4 : (((taken (launching goodBlock) submission).settle submission).pkg 0).gsaOf 1 = 0 := by decide +kernel
  have h5 : goodImage.take 132 = goodImage := List.take_of_length_le (by decide +kernel)
  simp only [State.imageAt, h1, h2, h3, h4, h5, if_true]

/-- Bytes that were read. -/
def bytesOf (x : Access (List Byte)) : Option (List Byte) := match x with
  | .ok b => some b
  | _ => none

theorem of_bytesOf (x : Access (List Byte)) (b : List Byte) (h : bytesOf x = some b) : x = .ok b := by
  cases x with
  | ok a => exact congrArg Access.ok (Option.some.inj h)
  | refused c v => exact nomatch h
  | held => exact nomatch h

/-- The block is read, and every check passes. -/
theorem witness_LaunchAcceptance :
    (let s := launching goodBlock
     let u := (taken s submission).settle submission
     TakesRouted (arriving s submission) submission (taken s submission) ∧ eventOf s.at_ submission = .launchAccept ∧ isSubmission submission = true ∧
       s.lpbHeld submission = false ∧
       u.gvaRead 0 1 (u.home.gsaOf 1) 0 32 = .ok (goodBlock.take 32) ∧ u.gvaRead 0 1 (u.home.gsaOf 1) 0 (lpbBytes (goodBlock.take 32)) = .ok goodBlock ∧
       ∀ c ∈ lpbShape goodBlock ++ u.lpbLocal 0 1 goodBlock, c.2 = true) := by
  refine ⟨⟨takes_of _ _ (by decide +kernel), by decide +kernel⟩, by decide +kernel, by decide +kernel, by decide +kernel, of_bytesOf _ _ (by decide +kernel), of_bytesOf _ _ (by decide +kernel), ?_⟩
  have h1 : ∀ c ∈ lpbShape goodBlock, c.2 = true := by decide +kernel
  have h2 : lpbImage goodBlock 0 = (9, 1, 0x200) := by decide +kernel
  have h3 : lpbNi goodBlock = 1 ∧ lpbNh goodBlock = 1 := by decide +kernel
  have h4 : ((lpbTemplate goodBlock 0).1).getLsbD 57 = false := by decide +kernel
  intro c hc
  rcases List.mem_append.mp hc with hc | hc
  · exact h1 c hc
  · simp only [State.lpbLocal, h3, List.range_one, List.map_cons, List.map_nil, List.mem_cons, List.mem_append, List.not_mem_nil, or_false, State.imageLoads, h2,
      launching_image _ rfl, goodImage_mac, State.classOk, bit, h4] at hc
    rcases hc with (rfl | rfl) | rfl
    · decide +kernel
    · decide +kernel
    · rfl

/-- A block whose first word breaks R163: no image. -/
theorem witness_LaunchAcceptance_refused :
    (let b := block 0x704000000 0
     let s := launching b
     let u := (taken s submission).settle submission
     u.gvaRead 0 1 (u.home.gsaOf 1) 0 32 = .ok (b.take 32) ∧ u.gvaRead 0 1 (u.home.gsaOf 1) 0 (lpbBytes (b.take 32)) = .ok (b.take 48) ∧
       ∃ rest, lpbShape (b.take 48) = (0, false) :: rest) ∧
    (let u := (taken (launching goodBlock) submission).settle submission
     bytesOf (u.gvaRead 0 1 (u.home.gsaOf 1) 0x1000 32) = none ∧ (1 : Word).toNat % 64 ≠ 0 ∧ (bytesOf (u.gvaRead 0 1 (u.home.gsaOf 1) 1 32)).isSome = true) :=
  ⟨⟨of_bytesOf _ _ (by decide +kernel), of_bytesOf _ _ (by decide +kernel), (lpbShape ((block 0x704000000 0).take 48)).tail, by decide +kernel⟩, by decide +kernel⟩

/-- The same with slot 3 free, for a vendor's handler. -/
def idle3 (s : State) : State := { s with here := { s.here with acts := s.here.acts.set 3 State.reset.here.acts[3] } }

/-- A core with a wake in its channel-0 queue, the copy of a block in device space, and the block's image resident in entry 2 or not. -/
def waking (img : Option ImgEntry) : State :=
  { (({ idle3 base with here := { (idle3 base).here with images := base.here.images.set 2 img } } : State).modHome fun k => { k with devMem := cells 0 goodBlock }) with
    slot := 3 }.modNet fun n => { n with queues := [(0, [{ msg := msgOf 7 0 1 kSystem 0 [flit4 0 0 7 0], running := false, drops := 0 }])] }

theorem witness_LaunchWakes :
    (let s := waking (some { ImgEntry.zero with id := 9, gen := 1, xlen := 64, base := 64, kslot := 1 })
     let m := msgOf 7 0 1 kSystem 0 [flit4 0 0 7 0]
     let r := (s.takeQueued 0).residents m.ten goodBlock [] [0]
     s.vendorMsg 0 = some m ∧ s.mayWake = true ∧ s.residentHeld m.ten (s.wakeBlock m) = false ∧ memRead s.home.devMem 0 64 = goodBlock ∧ lpbBytes (memRead s.home.devMem 0 32) = 64 ∧ r.1 = some [2] ∧
       (r.2.placeRegions 1 goodBlock []).isSome = true ∧ lpbNp goodBlock = 0 ∧ ((lpbTemplate goodBlock 0).2.extractLsb' 0 8).toNat = 16 ∧ (lpbTemplate goodBlock 0).1.getLsbD 63 = true ∧
       (((waking none).takeQueued 0).residents m.ten goodBlock [] [0]).1 = none) := by decide +kernel

/-- A launch at its root with two cores and no vote, and at an engine below it with one vote to come. -/
def launched (up : Option CoreAddr) (votes : Nat) (dw0 : Word) (failed : Bool) : State :=
  (launching goodBlock).modEng fun e => { e with launches :=
    [{ lid := 7, ten := 1, sub := 0, lpb := block dw0 0, lpbOff := 0, copyOff := 0, cores := 2, votes := votes, waits := [7], up := up, vf := 0, seq := 1, failed := failed }] }

/-- A vote or a failure of launch 7. -/
def markMsg (n : Nat) : Msg := sysMsg (launchEngine 0 0) 0 0x10 [flit4 7 1 0 (BitVec.ofNat 64 (n * 2 ^ 56))]

theorem witness_LaunchWakes_votes :
    TakesRouted (arriving (launched none 0 0x704400000 false) (markMsg 1)) (markMsg 1) (taken (launched none 0 0x704400000 false) (markMsg 1)) ∧
      TakesRouted (arriving (launched none 0 0x704400000 false) (markMsg 2)) (markMsg 2) (taken (launched none 0 0x704400000 false) (markMsg 2)) ∧
      eventOf (launchEngine 0 0) (markMsg 1) = .launchVote ∧ eventOf (launchEngine 0 0) (markMsg 2) = .wakeFailure ∧
      (∀ s ∈ [launched none 0 0x704400000 false, launched none 1 0x704404000 false, launched none 1 0x704408000 false, launched (some 7) 1 0x704400000 false, launched none 1 0x704400000 true],
        (((taken s (markMsg 1)).settle (markMsg 1)).here.eng.launches.find? (fun x => x.lid == 7 && x.ten == (markMsg 1).ten && x.waits.contains (markMsg 1).src)).isSome = true) ∧
      ((taken (launching goodBlock) (markMsg 1)).settle (markMsg 1)).here.eng.launches = [] ∧
      (launched none 0 0x704400000 false).home.assisted 1 41 = false ∧ lpbCk (block 0x704400000 0) = 0 ∧ lpbCk (block 0x704404000 0) = 1 ∧ lpbCk (block 0x704408000 0) = 2 ∧
      (0 : Nat) + 1 < 2 ∧ 2 ≤ 1 + 1 ∧ (markMsg 1).dw 1 = 1 :=
  ⟨⟨takes_of _ _ (by decide +kernel), by decide +kernel⟩, ⟨takes_of _ _ (by decide +kernel), by decide +kernel⟩, by decide +kernel⟩

/-- A function whose coalescing window ends now. -/
theorem witness_LaunchWakes_window :
    (let s := base.modHome fun k => { k with funcs := [(0, { Func.reset with opened := [(3, base.time)] })] }
     look s.home.funcs s.ev.idx = some { Func.reset with opened := [(3, base.time)] } ∧ decide ((base.time).toNat ≤ s.time.toNat) = true) := by decide +kernel
/-! Vendor handlers. -/

/-- A core with slot 3 free and a message in a channel's queue. -/
def waiting (s : State) (ch : Nat) (m : Msg) : State := (idle3 s).modNet fun n => { n with queues := [(ch, [{ msg := m, running := false, drops := 0 }])] }

/-- A VF record of tenant 5: escalation and its modes by doubleword 0, TCH 20, and core 0 as trap core of sub-ID 0. -/
def vfRecord (dw0 : Word) : Vector Word 16 := ((Vector.replicate 16 (0 : Word)).set 0 (5 ||| dw0)).set 3 0x0014017F00000000 |>.set 6 0x80000000

/-- A package with that function. -/
def served (s : State) (dw0 : Word) : State := s.modHome fun k => { k with funcs := [(1, { Func.reset with rec16 := vfRecord dw0, valid := true })] }

/-- A record about tenant 5 on channel 249. -/
def recordMsg : Msg := msgOf 7 249 0 kSystem 0 [flit4 0x0C00000000500000 0 0 0, 0]

theorem witness_RecordHandlers :
    (∀ w ∈ [(0 : Word), 0x8000000000], let s := waiting (served base w) 249 recordMsg
      s.vendorMsg 249 = some recordMsg ∧ (∃ v, s.home.vfOf 5 = some (1, v) ∧ v.trapCore 0 = some s.at_ ∧ v.rec16[3].extractLsb' 48 8 = (20 : BitVec 8))) ∧
      (vfRecord 0)[0].getLsbD 39 = false ∧ (vfRecord 0x8000000000)[0].getLsbD 39 = true ∧ (waiting base 249 recordMsg).home.vfOf 5 = none ∧
      ((recordMsg.dw 0).extractLsb' 16 16 : BitVec 16).extractLsb' 4 12 = (5 : BitVec 12) := by
  refine ⟨?_, by decide +kernel⟩
  intro w hw
  simp only [List.mem_cons, List.not_mem_nil, or_false] at hw
  rcases hw with rfl | rfl
  · exact ⟨by decide +kernel, { Func.reset with rec16 := vfRecord 0, valid := true }, by decide +kernel⟩
  · exact ⟨by decide +kernel, { Func.reset with rec16 := vfRecord 0x8000000000, valid := true }, by decide +kernel⟩

/-- Completions of a copy engine and of another engine, with and without a failure, and rescue messages of their own containment ID and of another. -/
theorem witness_RecordHandlers_completions :
    (let m (src : CoreAddr) (w : Word) : Msg := msgOf src 250 5 kCall 0 [flit4 w 0 0 0]
     (∀ x ∈ [m (copyEngine 0 0 0) 0, m (copyEngine 0 0 0) 0x0C00000000000000, m 7 0, m 7 0x30000], (waiting base 250 x).vendorMsg 250 = some x) ∧
       isCopyEngine (m (copyEngine 0 0 0) 0).src = true ∧ isCopyEngine (m 7 0).src = false ∧ (m 7 0x0C00000000000000).byte 7 ≠ 0 ∧ (m 7 0x30000).byte 2 ≠ 0 ∧ (m 7 0).byte 7 = 0) ∧
    (let r (w : Word) : Msg := msgOf 7 251 5 kSystem 0 [flit4 w 0 0 0, 0, 20]
     (waiting (served base 0) 251 (r 0x500000)).vendorMsg 251 = some (r 0x500000) ∧ (r 0x500000).cid = ((r 0x500000).dw 0).extractLsb' 16 16 ∧
       ((served base 0).home.vfOf (r 0).ten).isSome = true ∧ (r 0).cid ≠ ((r 0).dw 0).extractLsb' 16 16) := by decide +kernel

/-- A DOUBLE record and another one at a supervisor, with escalation assisted and not. -/
theorem witness_RecordHandlers_double :
    (let m (w : Word) : Msg := sysMsg (supervisor0 0 0) 249 0 [flit4 w 0 0 0, 0]
     let s (dw0 : Word) : State := served { base with at_ := supervisor0 0 0 } dw0
     Takes (arriving (s 0) (m 0x1800000000500000)) (m 0x1800000000500000) (taken (s 0) (m 0x1800000000500000)) ∧
       eventOf (s 0).at_ (m 0x1800000000500000) = .doubleRecord ∧ (s 0).ev.flag = false ∧
       (m 0x1800000000500000).byte 7 = 0x18 ∧ (m 0).byte 7 ≠ 0x18 ∧ (vfRecord 0)[0].getLsbD 42 = false ∧ (vfRecord 0x40000000000)[0].getLsbD 42 = true ∧
       (s 0x40000000000).home.vfOf 5 = some (1, { Func.reset with rec16 := vfRecord 0x40000000000, valid := true })) :=
  ⟨takes_of _ _ (by decide +kernel), by decide +kernel⟩

/-- A core that is asked to go over to tenant 5, in each of its steps. -/
theorem witness_Leases :
    (let m : Msg := msgOf 7 1 0 kSystem 0 [flit4 5 0 0 0]
     let s (p c w : Bool) : State := let u := waiting (served base 0) 1 m; { u with here := { u.here with preempting := p, changing := c, swapping := w } }
     (∀ u ∈ [s false false false, s true false false, s true true false, s true true true], u.preemptMsg = some m ∧ u.quiescent = true) ∧
       (s true true false).here.preempting = true ∧ (s true true false).here.changing = true ∧ (s true true true).here.swapping = true ∧ (s false true true).here.swapping = true ∧
       (waiting (served userBase 0) 1 m).preemptMsg = some m ∧ (waiting (served userBase 0) 1 m).quiescent = false ∧ ((served base 0).home.vfOf 5).isSome = true ∧
       (m.dw 0).extractLsb' 0 12 = (5 : BitVec 12) ∧ (m.dw 0).getLsbD 16 = false ∧ base.here.regs.lessee ≠ 5 ∧
       ((waiting base 1 m).here.net.queues.map (·.1)).Nodup ∧ ((waiting base 1 m).here.net.rings.map (·.1)).Nodup) := by decide +kernel

/-- A function whose slice expires: its record, and a core that the supervisor serves and that the tenant leases. -/
theorem witness_Leases_slice :
    (let s : State := ({ served { base with at_ := supervisor0 0 0 } 0 with ev := { EvArg.none with idx := 1 } } : State).modCore 0 fun c => { c with regs := { c.regs with lessee := 5 } }
     (∃ f, look s.home.funcs s.ev.idx = some f ∧ f.valid = true ∧ f.rec16[0].getLsbD 40 = false ∧ f.rec16[0].extractLsb' 0 12 = (5 : BitVec 12)) ∧ isSupervisor s.at_ = true ∧
       (s.core 0).regs.lessee = 5) :=
  ⟨⟨{ Func.reset with rec16 := vfRecord 0, valid := true }, by decide +kernel⟩, by decide +kernel⟩

/-- That core is one of those that the supervisor serves. -/
theorem witness_Leases_served : (0 : CoreAddr) ∈ ({ base with at_ := supervisor0 0 0 } : State).servedCores := by decide +kernel

/-- The IGT home with an entry of ID 9, and requests for it and for an absent ID. -/
theorem witness_Revocations :
    (let s (e : Word) : State := ({ base with at_ := supervisor0 0 0 } : State).modHome fun k => { k with igt := [(9, e)] }
     let m (id : Word) : Msg := sysMsg (supervisor0 0 0) 5 0 [flit4 id 1 0 0]
     Takes (arriving (s 0x8000FFFE00000009) (m 9)) (m 9) (taken (s 0x8000FFFE00000009) (m 9)) ∧
       eventOf (supervisor0 0 0) (m 9) = .igtRevokeRequest ∧
       (s 0x8000FFFE00000009).home.igtEntry 9 = 0x8000FFFE00000009 ∧ (s 0x8000FFFF00000009).home.igtEntry 9 = 0x8000FFFF00000009 ∧ (s 0).home.igtEntry 10 = 0) :=
  ⟨takes_of _ _ (by decide +kernel), by decide +kernel⟩

/-- A notice at a compute core and at a copy engine. -/
theorem witness_Revocations_notice :
    (let m : Msg := msgOf 7 5 0 kSystem 0 [flit4 0x200000009 0 0 0]
     let d : Msg := sysMsg copier.at_ 5 0 [flit4 0x200000009 0 0 0]
     (waiting base 5 m).vendorMsg 5 = some m ∧ isEngine base.at_ = false ∧ Takes (arriving copier d) d (taken copier d) ∧ isEngine copier.at_ = true ∧
       isSupervisor copier.at_ = false ∧ copier.ev.flag = false ∧ eventOf copier.at_ d = .imgrevNotice) :=
  ⟨by decide +kernel, by decide +kernel, takes_of _ _ (by decide +kernel), by decide +kernel⟩
/-! Keepers. -/

/-- An ascent of tenant 5 in group 0, its record, and one stamped anchor of it. -/
def ascent1 (st : AscState) (life : BitVec 24) : Ascent :=
  { aid := 1, gid := 0, st := st, origin := 0, cid := 0x50, rch := 20, life := life, born := 0, stranded := if st = .stranded then some 1 else none, order := 0 }

/-- The home keeper of group 0 with that ascent; its anchor has been retried some times, and is in flight or not. -/
def keeping (st : AscState) (life : BitVec 24) (rtry : Nat) (fl : Bool) : State :=
  let s : State := { base with at_ := keeperAt 0 0 0, time := 1000 }
  s.modKeeper fun k => { k with
    ascents := [ascent1 st life]
    groups := [{ gid := 0, ten := 5, nextGseq := 2, stack := [{ gseq := 1, aid := 1, keeper := keeperAt 0 0 0, key := 0, late := false, ran := fl, skip := false, rtry := rtry, inFlight := fl }] }]
    anchors := [{ key := 0, rec8 := (Vector.replicate 8 (0 : Word)).set 0 0x100000001, stamped := true, spilled := false, place := 0, freed := false, bad := false, push := 0 }]
    lastSeq := 1, nextKey := 1, nextOrder := 1 }

/-- A request on an ascent by its keeper's tenant, with an action, and with reply channel 20. -/
def ascReq (op act : Nat) (aid : Word) : Msg := sysMsg (keeperAt 0 0 0) 12 0x50 [flit4 (BitVec.ofNat 64 (op + 256 * act + 65536 * 20)) aid 0 0]

theorem witness_AscentEvents :
    (let s := keeping .climbing 0 0 false
     let m := ascReq 2 0 0x100000
     let f := { m with hdr := mkHdr (keeperAt 0 0 0) 7 12 0x60 0 1 kSystem 0 false false false false false false }
     Takes (arriving s m) m (taken s m) ∧ eventOf s.at_ m = .ascentBeginReq ∧ (∀ g ∈ s.keeper.groups, ¬ (g.gid = 0 ∧ g.ten ≠ m.ten)) ∧ (∃ g ∈ s.keeper.groups, g.gid = 0 ∧ g.ten ≠ f.ten) ∧
       s.keeper.ascents.length < 512 ∧ (∀ a ∈ s.keeper.ascents, (a.aid.extractLsb' 0 16).toNat ≠ 2) ∧ s.keeper.lastSeq.toNat < 2 ∧ (ascReq 6 0 9).byte 2 = 20 ∧
       s.keeper.ascentOf 5 9 = none ∧
       (∀ q ∈ [(3, Instr.ascentSummitReq), (4, .ascentRetreatReq), (5, .ascentResumeReq), (6, .ascentStatReq)], eventOf s.at_ (ascReq q.1 0 1) = q.2)) :=
  ⟨takes_of _ _ (by decide +kernel), by decide +kernel⟩

theorem witness_AscentEvents_states :
    (∀ st ∈ [AscState.climbing, .retreating, .stranded, .summited], (keeping st 0 0 false).keeper.ascentOf 5 1 = some (ascent1 st 0)) ∧
      (∃ x ∈ (keeping .stranded 0 15 false).keeper.anchorsOf (ascent1 .stranded 0), some x.gseq = (ascent1 .stranded 0).stranded ∧ 15 ≤ x.rtry ∧
        (((keeping .stranded 0 15 false).core x.keeper).eng.keeper.record x.key).any (fun r => !r.spilled) = true) ∧
      (∀ x ∈ (keeping .stranded 0 14 false).keeper.anchorsOf (ascent1 .stranded 0), ¬ 15 ≤ x.rtry) ∧ (ascReq 5 2 1).byte 1 = 2 ∧ (ascReq 5 1 1).byte 1 = 1 ∧ (ascReq 5 0 1).byte 1 = 0 ∧
      (let a := ascent1 .climbing 1
       a.st = .climbing ∧ a.life ≠ 0 ∧ a.life.toNat * 1000 ≤ ((keeping .climbing 1 0 false).time - a.born).toNat ∧ (keeping .climbing 1 0 false).keeper.depth a ≠ 0) := by decide +kernel

/-- Messages of the keepers: a push, a stamp request and its four returns, an end notice and a failure notice. -/
theorem witness_Anchors :
    (let s := keeping .climbing 0 0 false
     let a := s.at_
     let m (d0 d1 d2 : Word) (two : List Strip) : Msg := sysMsg (keeperAt 0 0 0) 12 0x50 (flit4 d0 d1 d2 0 :: two)
     let push := m 0x100000000 0 0 [0]
     let stamp := m 1 1 1 [0]
     Takes (arriving s push) push (taken s push) ∧ eventOf a push = .anchorPush ∧ eventOf a stamp = .anchorStamp ∧ s.keeper.anchors.length < 4096 ∧
       (s.keeper.ascentOf 5 1).isSome = true ∧ s.keeper.ascentOf 5 9 = none ∧ (stamp.dw 0).getLsbD 8 = false ∧ (keeping .summited 0 0 false).keeper.ascentOf 5 1 = some (ascent1 .summited 0) ∧
       s.keeper.depth (ascent1 .climbing 0) < 65535 ∧ (∃ g, s.keeper.groups.find? (fun g => g.gid == 0) = some g ∧ g.nextGseq < 2 ^ 32) ∧
       (∀ k ∈ [0, 1, 2, 3], eventOf a (m (BitVec.ofNat 64 (7 + 256 * k)) 1 0 []) = .stampReturn ∧ (m (BitVec.ofNat 64 (7 + 256 * k)) 1 0 []).byte 1 = BitVec.ofNat 8 k) ∧
       (s.keeper.record 0).isSome = true ∧
       eventOf a (m 0 0 0 [0]) = .endNotice ∧ eventOf a (m 0x0C00000000000000 0 0 [0]) = .failureNotice ∧ ((keeping .retreating 0 0 true).keeper.running 1).isSome = true) :=
  ⟨takes_of _ _ (by decide +kernel), by decide +kernel, by decide +kernel, by decide +kernel, by decide +kernel, by decide +kernel, by decide +kernel, by decide +kernel,
    by decide +kernel, ⟨_, rfl, by decide +kernel⟩, by decide +kernel⟩

/-- A keeper with 4,096 live records, and one place in use behind them. -/
theorem witness_Anchors_full (r : AnchorRec) (h : r.spilled = false) (h' : r.freed = false) :
    4096 ≤ ((List.replicate 4096 r ++ [{ r with spilled := true, place := 0 }]).filter fun x : AnchorRec => !x.spilled && !x.freed).length := by
  rw [List.filter_append, List.filter_replicate_of_pos (by simp [h, h']), List.length_append, List.length_replicate]
  exact Nat.le_add_right _ _

/-- A spill region that is there, and none. -/
theorem witness_Anchors_spill :
    (let s := keeping .climbing 0 0 false
     let t := s.modHome fun k => { k with rpt := [{ base := Config.anchorExtent s.at_, len := 64, space := 0xFF, owner := 0, kind := 2, mov := false, pgen := 0, loc := 0 }] }
     ((t.home.regionAt 0xFF (t.spillPlace 0)).any fun e => e.kind == 2) = true) ∧ (keeping .climbing 0 0 false).spillWrite 0 noRecord = none := by
  constructor
  · intro s t
    have h1 : t.spillPlace 0 = Config.anchorExtent s.at_ := by
      show Config.anchorExtent s.at_ + 0#64 = _
      simp
    have h2 : t.home.rpt = [{ base := Config.anchorExtent s.at_, len := 64, space := 0xFF, owner := 0, kind := 2, mov := false, pgen := 0, loc := 0 }] := by
      simp only [t, State.home, State.pkg, State.modHome, State.setPkg, look_put, if_true, Option.getD_some]
    show ((t.home.rpt.find? fun e => e.space == 0xFF && e.holds (t.spillPlace 0).toNat).any fun e => e.kind == 2) = true
    rw [h1, h2]
    simp [RptEntry.holds]
  · have h : (keeping .climbing 0 0 false).home.regionAt 0xFF ((keeping .climbing 0 0 false).spillPlace 0) = none := by
      show List.find? _ [] = none
      rfl
    simp only [State.spillWrite, h]
    rfl

/-- An anchor to run, whose record is stored and stamped, stored and not yet stamped, stored and lost, and one whose storing keeper has no such record. -/
theorem witness_Anchors_send :
    (let s := keeping .retreating 0 0 false
     let r (f : AnchorRec → AnchorRec) : State := { s with here := s.here.modAnchors fun l => l.map f }
     let lost : State := { s with here := s.here.modAnchors fun _ => [] }
     (s.keeper.nextAnchor 0).isSome = true ∧ (lost.keeper.nextAnchor 0).isSome = true ∧ (s.keeper.ascent 1).isSome = true ∧
       (∀ x ∈ s.keeper.stack 0, lost.storedAnchor x = none ∧ (s.storedAnchor x).any (fun q => q.stamped && ((s.focus x.keeper).readRecord q).isSome) = true ∧
         ((r fun q => { q with stamped := false }).storedAnchor x).any (fun q => !q.stamped) = true ∧
         ((r fun q => { q with bad := true }).storedAnchor x).any (fun q => q.stamped && (((r fun q => { q with bad := true }).focus x.keeper).readRecord q).isNone) = true)) := by
  decide +kernel

/-! Collectives and the fabric. -/

/-- A command block of group 3, generation 1, with an operation, a length and the target core 0 on channel 20. -/
def collBlock (op type len root : Word) : List Byte :=
  dws [0x0003000000000001 ||| (op <<< 40) ||| (type <<< 36), 0, 0x800, len ||| (root <<< 32), 0x280000000, 0, 0, 0]

/-- Collective engine 0 of package 0 with a pending command and a group of one member; a region of tenant 5 in pool port 0. -/
def gathering (blk : List Byte) (gen : BitVec 32) (void : Bool) (pkg : BitVec 14) : State :=
  let s : State := ({ base with at_ := launchEngine 0 0, ev := { EvArg.none with flag := true } } : State).modHome fun k =>
    { k with rpt := [{ base := 0, len := 0x1000, space := 0, owner := 5, kind := 2, mov := false, pgen := 0, loc := 0 }] }
  s.modEng fun e => { e with colls := [{ blk := blk, cid := 0x50, issuer := 0, stage := 0, parts := [] }], groups := [{ gid := 3, gen := gen, void := void, keyed := true, members := [(pkg, 0, 0)] }] }

theorem witness_Collectives :
    (let c (op type len root : Word) : CollCmd := { blk := collBlock op type len root, cid := 0x50, issuer := 0, stage := 0, parts := [] }
     let g := gathering (collBlock 1 0 16 0) 1 false 0
     (c 1 0 16 0).gid = 3 ∧ (∀ x ∈ [c 1 0 16 0, c 2 0 16 0, c 3 0 16 0, c 3 1 16 0, c 3 2 16 0, c 4 0 16 0], x.bad 1 0 = false) ∧ (c 1 0 16 1).bad 1 0 = true ∧ (c 5 0 16 0).bad 1 0 = true ∧
       (c 1 0 16 0).bad 1 1 = true ∧ g.inService 0 = true ∧ g.reaches g.at_ 0 = true ∧ (gathering (collBlock 1 0 16 0) 1 false 1).inService 1 = false ∧ (g.pkg 0).bootGen = 0 ∧
       (gathering (collBlock 1 0 16 0) 2 false 0).here.eng.groups.length = 1 ∧ g.here.eng.groups.find? (fun g => g.gid == 4) = none) := by decide +kernel

/-- The same engine with a broadcast in a stage, whose one part stands as given. -/
def gathered (stage : Nat) (parts : List CopyPart) (fail : Option (BitVec 8 × BitVec 4 × Word)) : State :=
  (gathering (collBlock 1 0 16 0) 1 false 0).modEng fun e => { e with
    colls := [{ blk := collBlock 1 0 16 0, cid := 0x50, issuer := 0, stage := stage, parts := [(0, launchEngine 0 0, 0)] }]
    members := [{ id := 0, blk := 0, xid := 3, cid := 0x50, kslot := 0, gsa := 0, gsb := 0, issuer := 0, started := true, parts := parts, halted := false, fail := fail }] }

/-- A part under way, one that failed, and ones that are read and written. -/
theorem witness_Collectives_parts :
    (let work (s : State) : Option CopyCmd := (s.core (launchEngine 0 0)).eng.members.find? fun p => p.id == 0
     let p (st : PartSt) : CopyPart := { off := 0, len := 16, st := st, data := List.replicate 16 1 }
     (work (gathered 1 [p .reading] none)).any (fun c => c.parts.any (·.inFlight)) = true ∧
       (work (gathered 1 [] (some (0x0C, 1, 0)))).any (fun c => !(c.parts.any (·.inFlight)) && c.failure.isSome) = true ∧
       (∀ s ∈ [gathered 1 [p .toWrite] none, gathered 2 [p .done] none], (work s).any (fun c => !(c.parts.any (·.inFlight)) && c.failure.isNone) = true) ∧
       (gathered 2 [] none).here.eng.colls.map (·.stage) = [2]) := by decide +kernel

/-- A part inside the tenant's region, and one that ends outside it. -/
theorem witness_Collectives_begin :
    (let s := gathering (collBlock 1 0 16 0) 1 false 0
     s.home.unowned 5 0 s.home.rpt.length 0xFF0 0x1000 = none ∧ s.home.unowned 5 0 s.home.rpt.length 0xFF0 0x1010 = some 0x1000) := by decide +kernel

/-- A kick at that engine, a tenant's kick, and a generation notice. -/
theorem witness_Collectives_messages :
    (let s : State := { gathering [] 1 false 0 with ev := EvArg.none }
     let k := sysMsg (launchEngine 0 0) 9 0x50 [0, 0]
     let n := sysMsg (launchEngine 0 0) 2 0 [flit4 0x100000000 0 0 0]
     TakesRouted (arriving s k) k (taken s k) ∧ Takes (arriving s n) n (taken s n) ∧ s.ev.flag = false ∧ (taken s k).at_ = (taken s k).collEngine ∧ k.sys = true ∧
       ({ k with sys := false } : Msg).sys = false ∧ eventOf s.at_ k = .collectiveCommand ∧ eventOf s.at_ n = .generationNotice ∧
       s.here.eng.groups.any (fun g => g.members.any fun x => x.1 == (n.dw 0).extractLsb' 0 14) = true) :=
  ⟨⟨takes_of _ _ (by decide +kernel), by decide +kernel⟩, takes_of _ _ (by decide +kernel), by decide +kernel⟩

/-- A message to another package in transit: before it takes a port, on one, and to a package that is not there. -/
def crossing (port : Option Nat) (there : Bool) : State :=
  let m := sysMsg (mkAddr 1 0 0 0) 20 0 []
  { base with transit := [{ msg := m, pkg := 0, det := 0, upper := false, port := port, inPort := none }],
              pkgs := if there then [(0, Package.reset), (1, Package.reset)] else [(0, Package.reset)] }

/-- An open hop and a closed one whose detour is open; an absent destination, and one outside the system; a port behind nothing and behind an older message; the end of a hop at the
destination and before it. -/
theorem witness_Fabric :
    (let m := sysMsg (mkAddr 1 0 0 0) 20 0 []
     let s := crossing none true
     let shut := s.modHome fun k => { k with ports := (List.range 6).foldl (fun v i => v.setIfInBounds i { Port.up with withdrawn := true }) k.ports }
     let x : Transit := { msg := m, pkg := 0, det := 0, upper := false, port := none, inPort := none }
     s.transit[s.ev.idx]? = some x ∧ x.pkg = pkgOf s.at_ ∧ pkgOf m.dst = 1 ∧ nextDir s.sy s.sz 0 1 = some 0 ∧ stepDir s.sy s.sz 0 0 = some 1 ∧
       s.named 1 = true ∧ s.hopOpen 0 x.die m.src 0 = true ∧ shut.hopOpen 0 x.die m.src 0 = false ∧ detourDir 0 0 ≠ 0 ∧
       look s.pkgs 1 ≠ none ∧ look (crossing none false).pkgs 1 = none ∧ s.named 32 = false) := by decide +kernel

/-- A detour is open where its own next package is there. -/
theorem witness_Fabric_detour :
    (let s := crossing none true
     let q := (stepDir s.sy s.sz 0 (detourDir 0 0)).getD 0
     let t : State := { s with pkgs := s.pkgs ++ [(q, Package.reset)] }
     t.hopOpen 0 0 7 (detourDir 0 0) = true) := by decide +kernel

/-- A message that has made one detour whose hop is not open either, one that was on a withdrawn port, and a confidential one without the hop's keys. -/
theorem witness_Fabric_detours :
    detourDir 0 (detourDir 0 0) ≠ detourDir 0 0 ∧ ((some 2 : Option Nat).getD 0 = 2) ∧
      (let s := crossing none true
       let c := s.modHome fun k => { k with parts := [(0, { Partition.zero with conf := true })] }
       let m := sysMsg (mkAddr 1 0 0 0) 20 0 []
       s.sealedMsg m = false ∧ c.sealedMsg { m with hdr := mkHdr (mkAddr 1 0 0 0) 7 20 0 0 0 kCall 0 false false false false false false, sys := false } = true ∧ 1 ∉ (c.pkg 0).fabricKeys ∧
         ((s.pkg 0).dieWay 0 1).isSome = true) := by decide +kernel

theorem witness_Fabric_ports_taken :
    (let m := sysMsg (mkAddr 1 0 0 0) 20 0 []
     let s := crossing (some 0) true
     let x : Transit := { msg := m, pkg := 0, det := 0, upper := false, port := some 0, inPort := none }
     s.transit[s.ev.idx]? = some x ∧ (∀ y ∈ s.transit.take s.ev.idx, ¬ (y.pkg = x.pkg ∧ y.port = some 0)) ∧ (∃ y ∈ [x, x].take 1, y.pkg = x.pkg ∧ y.port = some 0) ∧
       stepDir s.sy s.sz 0 (0 / 6) = some 1 ∧ (s.pkg 1).portPart 6 = (s.pkg 1).partOf m.dst ∧ ((s.pkg 1).dieWay 1 (dieOf m.dst)).isSome = true ∧
       stepDir s.sy s.sz 1 0 = some 2 ∧ (2 : Nat) ≠ 1 ∧
       ({ s.pkg 1 with modules := (List.range 10).map fun b => (b, 12) } : Package).dieWay 1 (dieOf m.dst) = none) := by decide +kernel

/-- Ports in order; a package with every boundary one module from its last. -/
theorem witness_Fabric_choice :
    [0, 1, 2, 3, 4, 5].Pairwise (· < ·) ∧ (∀ b, b < 10 → ({ Package.reset with modules := (List.range 10).map fun b => (b, 11) } : Package).lostModules b < 12) := by decide +kernel

/-- A package whose port 6 belongs to another partition than the core that a message is for. -/
theorem witness_Fabric_foreign_port :
    (let k : Package := { Package.reset with parts := [(0, { Partition.zero with fports := 0 }), (1, { Partition.zero with sectors := 0, fports := 0x40 })] }
     k.portPart 6 ≠ k.partOf (mkAddr 1 0 0 0)) := by decide +kernel

/-- On rings of 4 and of 3 packages: a tie and the longer way, in Y and in Z, and steps in W and X. -/
theorem witness_Fabric_routes :
    pkgY 0 ≠ pkgY 32 ∧ 2 * ((pkgY 32 + 4 - pkgY 0) % 4) = 4 ∧ 3 < 2 * ((pkgY 32 + 3 - pkgY 0) % 3) ∧ pkgY 0 = pkgY 1024 ∧ pkgZ 0 ≠ pkgZ 1024 ∧
      2 * ((pkgZ 1024 + 4 - pkgZ 0) % 4) = 4 ∧ 3 < 2 * ((pkgZ 1024 + 3 - pkgZ 0) % 3) ∧ pkgZ 0 = pkgZ 1 ∧ pkgW 0 < pkgW 1 ∧ pkgW 0 = pkgW 4 ∧ pkgX 0 < pkgX 4 := by decide

/-- Ports with no retries, one retry too many, and sixteen failed tags. -/
theorem witness_Fabric_ports :
    base.home.ports.toList[base.ev.idx]? = some Port.up ∧ Port.up.withdrawn = false ∧ base.ev.flag = false ∧
      16 < ((List.replicate 17 (0 : Word)).filter fun t => decide ((base.time - t).toNat < 1000000)).length ∧
      16 ≤ ((List.replicate 16 (0 : Word)).filter fun t => decide ((base.time - t).toNat < 1000000)).length ∧ base.ev.idx < 10 := by decide +kernel
/-! Debug, pairs and repairs. -/

/-- Core 0 with debugging on, group 3, and a stop under way or over; slot 3 runs. -/
def debugged (stopping stopped : Bool) (held : Option (Fin 4)) : State :=
  base.modDbg fun d => { d with group := (1#64 <<< 56) ||| (3#64 <<< 40), stopping := stopping, stopped := stopped, held := held }

/-- A stop of a group, and a step of a count or a resume. -/
def stopMsg (g : Word) : Msg := msgOf 7 3 0 kSystem 0 [flit4 0 (g <<< 40) 0 0]
def stepMsg (op n : Word) : Msg := msgOf 7 4 0 kSystem 0 [flit4 op n 0 0]

theorem witness_DebugEvents :
    (let s := debugged false false none
     Takes (arriving s (stopMsg 3)) (stopMsg 3) (taken s (stopMsg 3)) ∧ s.here.dbg.en = true ∧ s.here.dbg.stopping = false ∧ eventOf s.at_ (stopMsg 3) = .debugStop ∧
       ((stopMsg 3).dw 1).extractLsb' 40 16 = (s.here.dbg.group.extractLsb' 40 16 : BitVec 16) ∧
       ((stopMsg 2).dw 1).extractLsb' 40 16 ≠ (s.here.dbg.group.extractLsb' 40 16 : BitVec 16) ∧ base.here.dbg.en = false ∧ (debugged true false none).here.dbg.stopping = true) :=
  ⟨takes_of _ _ (by decide +kernel), by decide +kernel⟩

theorem witness_DebugEvents_steps :
    (let s := debugged true true (some 3)
     Takes (arriving s (stepMsg 0 65535)) (stepMsg 0 65535) (taken s (stepMsg 0 65535)) ∧ Takes (arriving s (stepMsg 1 0)) (stepMsg 1 0) (taken s (stepMsg 1 0)) ∧
       eventOf s.at_ (stepMsg 0 65535) = .debugStep ∧ eventOf s.at_ (stepMsg 1 0) = .debugResume ∧ s.here.dbg.stopped = true ∧ s.here.dbg.steps = 0 ∧
       ((stepMsg 0 65535).dw 1).toNat = 65535 ∧ ((stepMsg 0 0).dw 1).toNat = 0 ∧ base.here.dbg.stopped = false ∧ s.here.dbg.held = some 3 ∧ base.here.dbg.held = none ∧
       (∀ i : Fin 4, (debugged true false (some 3)).here.acts[i].busy = false ∨ (debugged true false (some 3)).here.dbg.held = some i) ∧
       (debugged true false none).here.acts[(3 : Fin 4)].busy = true ∧ base.ev.n = 0) :=
  ⟨takes_of _ _ (by decide +kernel), takes_of _ _ (by decide +kernel), by decide +kernel⟩

/-- A primary in slot 3 and its twin in slot 2 of the core to its east, at some checkpoint, with a fingerprint, and perhaps a trap. -/
def paired (n : Nat) (f g : Word) (x y : Option Trap) (drops : Nat) : State :=
  let m := msgOf 7 20 0 kCall 0 []
  let a (f : Word) (t : Option Trap) : Act := { base.here.acts[3] with paired := true, ch := 20, trig := m, instret := BitVec.ofNat 64 (1024 * n), fp := f, ptrap := t }
  let q : Iface := { base.here.net with queues := [(20, [{ msg := m, running := true, drops := drops }])] }
  { base with ev := { EvArg.none with idx := 3 }, here := { base.here with acts := base.here.acts.set 3 (a f x), net := q },
              away := [(1, { base.here with acts := (Vector.replicate 4 Act.free).set 2 (a g y), net := q })] }

/-- The trap of an undefined encoding, and one of a placement. -/
def undef : Trap := .plain 0x01 0

theorem witness_PairedRuns :
    (∀ s ∈ [paired 1 5 5 none none 0, paired 1 5 6 none none 0, paired 1 5 6 none none 3, paired 0 5 5 none none 0, paired 1 5 5 (some undef) (some undef) 0,
        paired 1 5 5 (some undef) (some (.plain 0x0C 0)) 0, paired 1 5 5 none (some undef) 0],
      ({ s with slot := 3 } : State).act.busy = true ∧ ({ s with slot := 3 } : State).act.paired = true ∧ ({ s with slot := 3 } : State).act.trig.dst = s.at_ ∧
        neighbour s.at_ 0 = some 1 ∧ (s.core 1).twinSlot ({ s with slot := 3 } : State).act = some 2) ∧
      (let p (s : State) : PairPoint := ({ s with slot := 3 } : State).pairPoint
       let q (s : State) : PairPoint := ({ ({ s with slot := 3 } : State).focus 1 with slot := 2 } : State).pairPoint
       p (paired 1 5 5 none none 0) = .point 1 5 ∧ q (paired 1 5 5 none none 0) = .point 1 5 ∧ q (paired 1 5 6 none none 0) = .point 1 6 ∧ p (paired 0 5 5 none none 0) = .running ∧
         p (paired 1 5 5 (some undef) (some undef) 0) = .trapped undef 0 ∧ q (paired 1 5 5 (some undef) (some (.plain 0x0C 0)) 0) = .trapped (.plain 0x0C 0) 0 ∧
         ({ paired 1 5 6 none none 3 with slot := 3 } : State).dropsOf = 3) := by decide +kernel

/-- An uncorrectable error that both runs meet at one place, before the third drop and at it, and other traps. -/
theorem witness_PairedRuns_eccu :
    (let e : Trap := .plain 0x13 0x40
     e.cause = 0x13 ∧ undef.cause ≠ 0x13 ∧ ({ ({ paired 1 5 5 (some e) (some e) 0 with slot := 3 } : State).focus 1 with slot := 2 } : State).pairPoint = .trapped e 0 ∧
       ({ paired 1 5 5 (some e) (some e) 0 with slot := 3 } : State).pairPoint = .trapped e 0 ∧ ({ paired 1 5 5 (some e) (some e) 0 with slot := 3 } : State).dropsOf < 3 ∧
       3 ≤ ({ paired 1 5 5 (some e) (some e) 3 with slot := 3 } : State).dropsOf) := by decide +kernel

/-- The supervisor of the row of core (0,0), which has failed; its quarantine has begun or not, its shootdowns are acknowledged or not, dispatch there is stopped or not, and the row's spare
column is in use or not. -/
def quarantining (moving : List CoreAddr) (quiet stopped : Bool) (rows : List (Nat × Nat)) : State :=
  { (({ base with at_ := supervisor0 0 0, here := Core.reset } : State).modHome fun k => { k with
      moving := moving
      rowsUsed := rows
      rpt := [{ base := 0, len := 0x1000, space := 3, owner := 5, kind := 0, mov := true, pgen := 0, loc := 0 }]
      shots := if quiet then [] else [(3, 0, [7])] }) with
    away := if stopped then [(0, { Core.reset with frozen := true })] else [] }

theorem witness_Repairs :
    (∀ s ∈ [quarantining [] true false [], quarantining [0] false false [], quarantining [0] true false [], quarantining [0] true true [], quarantining [0] true true [(0, 5)]],
      isCompute s.ev.src = true ∧ pkgOf s.ev.src = pkgOf s.at_ ∧ s.serves s.ev.src = true ∧ s.ev.src = 0) ∧
      (quarantining [0] false false []).rowQuiet 0 = false ∧ (quarantining [0] true false []).rowQuiet 0 = true ∧ ((quarantining [0] true false []).core 0).frozen = false ∧
      ((quarantining [0] true true []).core 0).frozen = true ∧ (quarantining [0] true true [(0, 5)]).rehoming 0 = false ∧
      base.here.atRest = false ∧
      (look (quarantining [0] true true []).home.rowsUsed (rowNo 0)).isSome = false ∧ (look (quarantining [0] true true [(0, 5)]).home.rowsUsed (rowNo 0)).isSome = true := by
  decide +kernel

/-- Every core of that row is at rest. -/
theorem witness_Repairs_rest : ∀ c ∈ rowFrom 0, ((quarantining [0] true true []).core c).atRest = true := by
  intro c _
  have h : ({ Core.reset with frozen := true } : Core).atRest = true ∧ Core.reset.atRest = true := by decide +kernel
  unfold State.core
  split
  · exact h.2
  · show ((look [(0, { Core.reset with frozen := true })] c.toNat).getD Core.reset).atRest = true
    unfold look
    split
    · exact h.1
    · exact h.2

theorem witness_Repairs_regions : (quarantining [] true false []).home.rpt.Pairwise (fun x y => ¬ (x.space = y.space ∧ x.base = y.base)) := List.pairwise_singleton _ _

/-- A failed copy engine of the supervisor's die, with a spare to take and with none. -/
theorem witness_Repairs_engine :
    (let a := copyEngine 0 0 0
     isEngine a = true ∧ pkgOf a = pkgOf (supervisor0 0 0) ∧ dieOf a = dieOf (supervisor0 0 0) ∧ isSupervisor (supervisor0 0 0) = true ∧ base.home.absent.contains a.toNat = false ∧
       (sparesOf 0 0).filter (fun p => p != a && !(base.home.engMap.any fun e => e.2 == p.toNat)) ≠ [] ∧
       (sparesOf 0 0).filter (fun p => p != a && !(((sparesOf 0 0).map fun p => (p.toNat, p.toNat)).any fun e => e.2 == p.toNat)) = []) := by decide +kernel

/-- A failed engine with a copy command and with none. -/
theorem witness_Repairs_lost :
    (let c := copyOf 0xE00 20 false [] false none
     (({ base with at_ := supervisor0 0 0, away := [((copyEngine 0 0 0).toNat, (copying c).here)] } : State).core (copyEngine 0 0 0)).eng.copies ≠ [] ∧
       (({ base with at_ := supervisor0 0 0 } : State).core (copyEngine 0 0 0)).eng.copies = []) := by decide +kernel

/-- A slide of a region of tenant 5, to which an image is bound, in some step, with a shootdown to come or the copy's report. -/
def sliding (step : Nat) (shots : Bool) (status : Option Word) : State :=
  let e : RptEntry := { base := 0, len := 0x1000, space := 3, owner := 5, kind := 0, mov := false, pgen := 0, loc := 0 }
  let o : OpenImage := { id := 0, ten := 5, gen := 1, code := [], pool := [], regions := [(0x1000, 0)], relocs := [], binds := [] }
  let s := (({ base with at_ := supervisor0 0 0 } : State).modHome fun k => { k with
    rpt := [e]
    slides := [{ region := e, newNear := 0x2000, newCore := 1, step := step, xid := 9 }]
    shots := if shots then [(3, 0, [7])] else []
    plodan := [{ src := o, bases := [0], bytes := [] }] })
  s.modEng fun x => { x with reports := match status with
    | some w => [msgOf 7 250 0 kCall 0 [flit4 w 0 0 9]]
    | none => [] }

/-- Each step of the slide, with what it waits for there and not. -/
theorem witness_Repairs_slide :
    (let x (n : Nat) : Slide := { region := { base := 0, len := 0x1000, space := 3, owner := 5, kind := 0, mov := false, pgen := 0, loc := 0 }, newNear := 0x2000, newCore := 1, step := n, xid := 9 }
     (∀ n ∈ [0, 1, 2, 3, 4, 5], (sliding n false none).home.slides[(sliding n false none).ev.idx]? = some (x n) ∧ (sliding n false none).serves ((x n).region.homes.headD 0) = true) ∧
       ((sliding 0 false none).home.rpt.find? (fun e => e.same (x 0).region)).isSome = true ∧ (sliding 1 true none).home.quietOn (x 1).region = false ∧
       (sliding 1 false none).home.quietOn (x 1).region = true ∧ (sliding 2 false none).home.slideIds (x 2) = [0] ∧ base.here.runs [0] = true ∧
       ({ sliding 2 false none with away := [(0, base.here)] } : State).core 0 = base.here ∧
       (sliding 3 false none).slideReport (x 3) = none ∧ ((sliding 3 false (some 0)).slideReport (x 3)).any (fun m => m.byte 7 == 0) = true ∧
       ((sliding 3 false (some 0x0C00000000000000)).slideReport (x 3)).any (fun m => m.byte 7 != 0) = true ∧ (sliding 4 false none).isPersistent (x 4).target = false ∧
       (sliding 5 false none).installed 0 = false ∧ 4 < 5) := by decide +kernel

/-- Images that no core runs: of an image with no core's activation. -/
theorem witness_Repairs_idle (c : Core) : c.runs [] = false := by
  simp only [Core.runs, List.contains_nil, Bool.and_false]
  exact List.any_eq_false.mpr (by simp)

/-! The host. -/

/-- The host link agent; VF 1 of tenant 5 with two queues and sector 0 and pool port 0, and a pending command of a function in its queue 1. -/
def hosted (vf : Nat) (cmd : Vector Word 8) (flag : Bool) : State :=
  let f : Func := { Func.reset with rec16 := ((vfRecord 0).set 4 2).set 1 0x100000001, valid := true }
  let fs := if vf = 0 then [(0, { Func.reset with win := [(1, cmd)], pend := [1] }), (1, f)] else [(1, { f with win := [(1, cmd)], pend := [1] })]
  { base with at_ := hostAgent 0, ev := { EvArg.none with flag := flag, idx := 1, cmd := { vf := vf, queue := 1, dw := cmd } }, pkgs := [(0, { Package.reset with
      funcs := fs
      rpt := [{ base := 0, len := 0x1000, space := 0, owner := 5, kind := 2, mov := false, pgen := 0, loc := 0 },
              { base := 0x2000, len := 0x1000, space := 0, owner := 5, kind := 0, mov := false, pgen := 0, loc := 0 },
              { base := 0x4000, len := 0x1000, space := 0, owner := 5, kind := 2, mov := false, pgen := 0, loc := 1#64 <<< 60 }] })] }

/-- Any command may be pending, of the PF and of the VF. -/
theorem witness_HostCommands (cmd : Vector Word 8) :
    (∀ flag, (hosted 0 cmd flag).at_ = hostAgent 0 ∧ (hosted 0 cmd flag).home.queueOpen 0 1 = true ∧ (hosted 0 cmd flag).ev.flag = flag) ∧
      look ((hosted 0 cmd false).home.fn 0).win 1 = some cmd ∧ ((hosted 0 cmd false).home.fn 0).pend = [1] ∧
      look ((hosted 1 cmd false).home.fn 1).win 1 = some cmd ∧ ((hosted 1 cmd false).home.fn 1).pend = [1] := by
  have h : pkgOf (hostAgent 0) = 0 := by decide
  refine ⟨fun _ => ⟨rfl, rfl, rfl⟩, ?_, ?_, ?_, ?_⟩ <;> simp [hosted, State.home, State.pkg, Package.fn, look, h]

theorem witness_HostCommands_queues :
    (hosted 1 (Vector.replicate 8 0) true).home.queueOpen 1 1 = true ∧ (hosted 1 (Vector.replicate 8 0) true).home.queueOpen 1 2 = false ∧ (0x43 : Word).extractLsb' 8 56 = (0 : BitVec 56) ∧
      (0xF : Word).extractLsb' 4 60 = (0 : BitVec 60) ∧ (0x10 : Word).extractLsb' 4 60 ≠ (0 : BitVec 60) := by decide +kernel

/-- The clauses of single commands: a call that may be made, one without a core, a range that the tenant owns to its end within its quota, one outside its quota, one in no region, and a
counter. -/
theorem witness_HostCommands_clauses :
    (let s := hosted 1 (Vector.replicate 8 0) false
     let f := s.home.fn 1
     namesCore 0 = true ∧ namesCore 0x30 = false ∧ f.rec16[1].getLsbD (sectorOf 0) = true ∧ ((0x2014 : Word).extractLsb' 8 6).toNat = 32 ∧
       f.rec16[0].extractLsb' 0 12 = (5 : BitVec 12) ∧
       (s.home.regionAt 0 0).any (fun e => e.owner == 5 && decide (0 + 0x1000 ≤ e.base.toNat + e.len.toNat) && !e.mov && f.grants 1 e) = true ∧
       (s.home.regionAt 0 0x4000).any (fun e => e.owner == 5 && decide (0x4000 + 0x1000 ≤ e.base.toNat + e.len.toNat) && !e.mov && !f.grants 1 e) = true ∧
       s.home.regionAt 0 0x1000 = none ∧ f.counter 5 = some 0 ∧
       (∃ k, (s.writeParts 5 (memRead s.hostMem 0 16) (partsAt (s.home.rpt.headD (RptEntry.ofFlit 0)) 0 0xFF0 16)).2 = (k, none))) :=
  ⟨by decide +kernel, by decide +kernel, by decide +kernel, by decide +kernel, by decide +kernel, by decide +kernel, by decide +kernel, by decide +kernel, by decide +kernel,
    16, by decide +kernel⟩

/-- A collective within the function's quota and one outside it; staging through a port with its key and without; an image whose MAC fails. -/
theorem witness_HostCommands_quota :
    (let s := hosted 1 (Vector.replicate 8 0) false
     let f := s.home.fn 1
     let c (src : Word) : CollCmd := { blk := dws [0x0003010000000001, src, src, 16, 0x280000000, 0, 0, 0], cid := 0x50, issuer := s.at_, stage := 0, parts := [] }
     s.collInQuota f 1 (c 0) = true ∧ s.collInQuota f 1 (c 0x4000) = false ∧ (s.home.part 0).conf = false ∧
       ((s.modHome fun k => { k with parts := [(0, { Partition.zero with conf := true })] }).home.part 0).conf = true ∧ s.home.ideKeys.contains hostPort = false ∧
       (0x100 : Word).getLsbD 8 = true) := by decide +kernel

theorem slideTargets_none (s : State) (e : RptEntry) (near : BitVec 18) (h : (s.core (e.homes.headD 0)).slotOf e.owner = none) : s.slideTargets e near = [] := by
  unfold State.slideTargets
  split
  · exact List.filter_eq_nil_iff.mpr fun c _ => by simp only [State.mayLie, h, Bool.false_eq_true, not_false_eq_true]
  · rfl

/-- A region that may slide to core (1,0), and to no core where its tenant has no key slot. -/
theorem witness_HostCommands_slide :
    (let s : State := { hosted 1 (Vector.replicate 8 0) false with
       away := [(0, { Core.reset with regs := { Core.reset.regs with keys := Core.reset.regs.keys.set 1 (some { ptn := 0, epoch := 0, ten := 5, slot := 1 }) } })] }
     let e : RptEntry := { base := 0x2000, len := 0x1000, space := 0, owner := 5, kind := 0, mov := false, pgen := 0, loc := 0 }
     s.home.rpt.find? (fun e => e.space == 0 && e.base == 0x2000) = some e ∧ (s.home.fn 1).grants 1 e = true ∧ (1 : CoreAddr) ∈ s.slideTargets e 0x4000) ∧
    (let s := hosted 1 (Vector.replicate 8 0) false
     let e : RptEntry := { base := 0x2000, len := 0x1000, space := 0, owner := 5, kind := 0, mov := false, pgen := 0, loc := 0 }
     s.slideTargets e 0x4000 = []) := by
  constructor
  · intro s e
    refine ⟨by decide +kernel, by decide +kernel, ?_⟩
    have h1 : s.home.maySlide e 0x4000 = true := by decide +kernel
    have h2 : s.mayLie e (e.movedTo 1 0x4000) = true := by decide +kernel
    have h3 : (1 : CoreAddr) ∈ computeCores 0 := by
      rw [computeCores, List.mem_flatMap]
      exact ⟨0, by simp, by decide +kernel⟩
    have h0 : pkgOf s.at_ = 0 := by decide +kernel
    rw [State.slideTargets, if_pos h1, List.mem_filter, h0]
    exact ⟨h3, h2⟩
  · intro s e
    have h : (s.core (e.homes.headD 0)).slotOf e.owner = none := by decide +kernel
    rw [slideTargets_none _ _ _ h]

/-- Host accesses: one that is the tenant's, read and written whole, one of another space, one outside the quota, and one in a confidential partition. -/
theorem witness_HostAccesses :
    (let s := hosted 1 (Vector.replicate 8 0) false
     let f := s.home.fn 1
     s.at_ = hostAgent (pkgOf s.at_) ∧ f.valid = true ∧ f.rec16[0].extractLsb' 0 12 ≠ (0 : BitVec 12) ∧ (0 : BitVec 8) = f.rec16[0].extractLsb' 16 8 ∧
       (1 : BitVec 8) ≠ f.rec16[0].extractLsb' 16 8 ∧ (s.home.part (f.rec16[0].extractLsb' 32 5).toNat).conf = false ∧
       (s.modHome fun k => { k with parts := [(0, { Partition.zero with conf := true })] }).home.ideKeys.contains hostPort = false ∧
       (s.modHome fun k => { k with parts := [(0, { Partition.zero with conf := true })] }).home.parts = [(0, { Partition.zero with conf := true })] ∧
       (s.home.regionAt 0 0x4000).any (fun e => e.owner == 5 && !f.grants 1 e) = true ∧
       (match s.readParts 5 (partsAt (s.home.rpt.headD (RptEntry.ofFlit 0)) 0 0xFF8 8) with | .ok _ => true | _ => false) = true ∧
       (s.writeParts 5 [1, 2, 3, 4, 5, 6, 7, 8] (partsAt (s.home.rpt.headD (RptEntry.ofFlit 0)) 0 0xFF8 8)).2.2 = none) := by decide +kernel

/-- A read that a home refuses: the region has no pool behind its offset. -/
theorem witness_HostAccesses_refused :
    (let s := hosted 1 (Vector.replicate 8 0) false
     let e : RptEntry := { base := 0x2000, len := 0x1000, space := 0, owner := 6, kind := 0, mov := false, pgen := 0, loc := 0 }
     (match s.readParts 5 (partsAt e 0 0x2000 8) with | .refused _ _ => true | _ => false) = true ∧ (s.writeParts 5 [1, 2, 3, 4, 5, 6, 7, 8] (partsAt e 0 0x2000 8)).2.2.isSome = true) := by decide +kernel

/-! Resets and attestation. -/

theorem witness_Attestation :
    (let k : Package := { Package.reset with opening := [3], sessions := [4], attested := true, ideKeys := [16] }
     16 ∈ k.ideKeys ∧ 16 ∉ Package.reset.ideKeys ∧ 3 ∈ k.opening ∧ 4 ∉ k.opening ∧ 4 ∈ k.sessions ∧ 3 ∉ k.sessions ∧ base.ev.idx ≤ 16 ∧ k.attested = true) := by decide +kernel

/-- A session between two roots, and one with a package that is not there. -/
theorem witness_Attestation_peer :
    (let s : State := { base with pkgs := [(0, Package.reset), (1, Package.reset)], ev := { EvArg.none with flag := true, idx := 1 } }
     s.ev.flag = true ∧ (look s.pkgs s.ev.idx).isSome = true ∧ s.ev.idx ≠ pkgOf s.at_ ∧ (look base.pkgs 1).isSome = false) := by decide +kernel

theorem witness_PackageResets :
    (∀ a ∈ ({ Package.reset with absent := [47] } : Package).absent, a < 2 ^ 29 ∧ pkgOf (BitVec.ofNat 29 a) = pkgOf base.at_) ∧
      (let s (time : Word) : State := ({ base with time := time } : State).modHome fun k => { k with parts := [(0, { Partition.zero with conf := true, stoppedAt := some 0 })] }
       ((s 9999999999).home.part 0).stoppedAt = some 0 ∧ ((s 9999999999).time - 0).toNat < 10000000000 ∧ 10000000000 ≤ ((s 10000000000).time - 0).toNat ∧
         (base.home.part 0).stoppedAt = none ∧ base.at_ ∈ packageCores 0 ∧ base.home.partOf base.at_ = 0) := by decide +kernel

/-- A region of device space that bring-up places, and one that overlaps it. -/
theorem witness_PackageResets_regions :
    (let e (b : Word) : RptEntry := { base := b, len := 0x1000, space := 0xFF, owner := 0, kind := 0, mov := false, pgen := 0, loc := 0x40 <<< 18 }
     (e 0).ok = true ∧ (e 0).homes = [0x40] ∧ pkgOf 0x40 = pkgOf base.at_ ∧ (e 0).meets (e 0x800) = true ∧ (e 0).meets (e 0x1000) = false) := by decide +kernel

theorem witness_FunctionReset :
    (let s := hosted 1 (Vector.replicate 8 0) false
     s.at_ = hostAgent (pkgOf s.at_) ∧ s.ev.idx ≠ 0 ∧ s.ev.idx ≤ 31 ∧ (s.home.fn 1).valid = true ∧ (s.home.fn 1).rec16[0].extractLsb' 0 12 ≠ (0 : BitVec 12) ∧ (s.home.fn 2).valid = false ∧
       s.home.powerLimit.toNat < (4601 : Word).toNat ∧ (4600 : Word).toNat ≤ s.home.powerLimit.toNat) := by decide +kernel

/-! Admission. -/

/-- An open image of one region and of a 16-bit end, with a handler that begins at an address. -/
def openImage (label : Nat) : OpenImage :=
  { id := 9, ten := 5, gen := 1, code := [0x5900], pool := [], regions := [(64, 16)], relocs := [], binds := [{ label := label, ch := 20, prio := 3, budget := 1, slotS := false, modeI := false, persist := 0 }] }

/-- An image that is refused, and one that is admitted. -/
theorem witness_Admission :
    isTranslator (mkAddr 0 0 62 16) = true ∧ isTranslator base.at_ = false ∧ (openImage 2).refusal = some 2 ∧ (openImage 0).refusal = none ∧
      ∃ slot b, ({ base with at_ := mkAddr 0 0 62 16 } : State).admitted (openImage 0) = .ok (slot, b) := by
  refine ⟨by decide +kernel, by decide +kernel, by decide +kernel, by decide +kernel, ?_⟩
  have hr : (openImage 0).refusal = none := by decide +kernel
  have ht : ({ base with at_ := mkAddr 0 0 62 16 } : State).regionsTaken (openImage 0) = [] := by decide +kernel
  have ho : ({ base with at_ := mkAddr 0 0 62 16 } : State).regionsOwned (openImage 0) = [] := by decide +kernel
  have he : ((({ base with at_ := mkAddr 0 0 62 16 } : State).home.igtEntry (openImage 0).id).getLsbD 63) = false := by decide +kernel
  have hk : ∃ k, ({ base with at_ := mkAddr 0 0 62 16 } : State).home.keySlotFor (openImage 0).ten = some k := by
    show ∃ k, (((List.range 15).map fun n => BitVec.ofNat 4 (n + 1)).filter fun n => !([] : List (BitVec 4)).contains n)[Config.keySlot 5 %
      (((List.range 15).map fun n => BitVec.ofNat 4 (n + 1)).filter fun n => !([] : List (BitVec 4)).contains n).length]? = some k
    rw [List.getElem?_eq_getElem (Nat.mod_lt _ (by decide))]
    exact ⟨_, rfl⟩
  have hb : ∃ a, bindRegions (openImage 0).id [] [] 0 (openImage 0).regions = some [a] := by
    show ∃ a, bindRegions 9 [] [] 0 [(64, 16)] = some [a]
    simp only [bindRegions]
    have hl : 0 < (((List.range (0x40000 / 16)).map (16 * ·)).filter fun b => decide (b + 64 ≤ 0x40000) && ([] : List (Nat × Nat)).all (clearOf b 64) &&
        ([] : List (Nat × Nat)).all fun r => clearOf b 64 r || r == (b, b + 64)).length := by
      apply List.length_pos_of_mem (a := 0)
      simp
    rw [List.getElem?_eq_getElem (Nat.mod_lt _ hl)]
    exact ⟨_, rfl⟩
  obtain ⟨a, ha⟩ := hb
  obtain ⟨k, hk⟩ := hk
  have hs : ((openImage 0).build k [a]).isSome = true := rfl
  obtain ⟨b, hb⟩ := Option.isSome_iff_exists.mp hs
  exact ⟨k, { src := openImage 0, bases := [a], bytes := b }, by simp only [State.admitted, hr, ht, ho, he, hk, ha, hb, bit, Bool.false_eq_true, false_and, if_false]⟩

theorem witness_AdmittedCode : (openImage 0).refusal = none ∧ (∀ b ∈ (openImage 0).binds, b.label = 0) ∧ (openImage 0).items.length = 1 := by decide +kernel

end

end Sys2Proof.Tests
end

section
/-! PROOFS. A step of a running core is the meaning of the instruction that the bytes at the pc decode to (R23, R25, R26, R44 to R46), and a turn is the meaning of its event.
The layers follow the model: bytes and halfwords, the decoder, the fetch, the choice of a move, the move made. -/

namespace Sys2Proof.Machine

/-! Halfwords of memory. -/

/-- A halfword of memory is its two bytes, the first at the lower address (R45). -/
theorem memBits_two (m : Memory) (a : Nat) : memBits m a 2 16 = halfOfBytes (memByte m a) (memByte m (a + 1)) := by
  apply BitVec.eq_of_toNat_eq
  have h0 := (memByte m a).isLt
  have h1 := (memByte m (a + 1)).isLt
  simp only [memBits, memNat, memRead, leNat, halfOfBytes, BitVec.toNat_ofNat, BitVec.toNat_append]
  rw [Nat.shiftLeft_eq, Nat.mul_comm _ (2 ^ 8), ← Nat.two_pow_add_eq_or_of_lt h0]
  omega

/-! The decoder on the bytes of one instruction. -/

/-- What was decoded has the meaning of the instruction that it is. -/
theorem execDecoded_eq_exec_instr (d : Decoded) (s : State) : execDecoded d s = exec d.instr s := by
  cases d <;> rfl

/-- Two bytes that decode to an instruction are a halfword that the fetch's decoder takes for it. -/
theorem decodeFetched_of_decode_half {b0 b1 : Byte} {x : Instr} (hs : isLong (halfOfBytes b0 b1) = false) (hd : decode [b0, b1] = .ok (x, [])) :
    ∃ d, decodeFetched (.inl (halfOfBytes b0 b1)) = .ok d ∧ d.instr = x := by
  simp only [decode, hs, Bool.false_eq_true, if_false] at hd
  cases hh : decodeHalf (halfOfBytes b0 b1) with
  | error e => simp [hh, Except.map] at hd
  | ok i =>
    have hi : i = x := by simpa [hh, Except.map] using hd
    exact ⟨.insn i, by simp only [decodeFetched, hh], hi⟩

/-- Four bytes that decode to an instruction are a word that the fetch's decoder takes for it. -/
theorem decodeFetched_of_decode_word {b0 b1 b2 b3 : Byte} {x : Instr} (hl : isLong (halfOfBytes b0 b1) = true)
    (hd : decode [b0, b1, b2, b3] = .ok (x, [])) :
    ∃ d, decodeFetched (.inr (joinHalves (halfOfBytes b0 b1) (halfOfBytes b2 b3))) = .ok d ∧ d.instr = x := by
  simp only [decode, hl, if_true, decodeWord] at hd
  cases hp : decodeParts (joinHalves (halfOfBytes b0 b1) (halfOfBytes b2 b3)) with
  | error e => simp [hp, Except.map] at hd
  | ok d =>
    have hi : d.instr = x := by simpa [hp, Except.map] using hd
    exact ⟨d, by simp only [decodeFetched, hp], hi⟩

/-! The fetch. -/

/-- A halfword inside the extent, executable and without an error is fetched (R37, R46, R254). -/
theorem State.fetchHalf_of_executable {s : State} {x : Word} {a : Nat} (ha : s.act.img.base.toNat + x.toNat = a) (hx : x.toNat < s.act.img.xlen.toNat)
    (hm : s.here.xmap.getLsbD (a / 2) = true) (hb : a / 2 ∉ s.here.imemBad) :
    s.fetchHalf x = .ok (halfOfBytes (memByte s.here.imem a) (memByte s.here.imem (a + 1))) := by
  have hf : s.fetchable x = true := by simp [State.fetchable, ha, hx, hm]
  have hg : s.halfBad x = false := by simpa [State.halfBad, ha] using hb
  simp only [State.fetchHalf, hf, hg, State.halfAt, ha, memBits_two, Bool.not_true, Bool.false_eq_true, if_false]

/-- A fetched halfword whose top bit is clear is the fetch (R44). -/
theorem State.fetch_of_half {s : State} {x : Word} {h0 : BitVec 16} (hf : s.fetchHalf x = .ok h0) (hs : isLong h0 = false) : s.fetch x = .ok (.inl h0) := by
  simp [State.fetch, hf, hs]

/-- A fetched halfword whose top bit is set is fetched with the halfword behind it (R44). -/
theorem State.fetch_of_word {s : State} {x : Word} {h0 h1 : BitVec 16} (hf : s.fetchHalf x = .ok h0) (hl : isLong h0 = true)
    (hf' : s.fetchHalf (x + 2) = .ok h1) : s.fetch x = .ok (.inr (joinHalves h0 h1)) := by
  simp only [State.fetch, hf, hl, if_true, hf']

/-- What was fetched is decoded (R57). -/
theorem State.insnAt_of_fetch {s : State} {x : Word} {f : BitVec 16 ⊕ BitVec 32} (h : s.fetch x = .ok f) : s.insnAt x = decodeFetched f := by
  simp [State.insnAt, h]

/-- The executable bytes at an offset of the extent that decode to an instruction are the instruction there (R44 to R46). -/
theorem State.insnAt_of_decode {s : State} {p : Word} {a n : Nat} {x : Instr} (ha : s.act.img.base.toNat + p.toNat = a)
    (hn : n = if isLong (halfOfBytes (memByte s.here.imem a) (memByte s.here.imem (a + 1))) then 4 else 2) (hx : p.toNat + n ≤ s.act.img.xlen.toNat)
    (hok : ∀ j, j < n → s.here.xmap.getLsbD ((a + j) / 2) = true ∧ (a + j) / 2 ∉ s.here.imemBad)
    (hd : decode (memRead s.here.imem a n) = .ok (x, [])) : ∃ d, s.insnAt p = .ok d ∧ d.instr = x := by
  have hpos : 0 < n := by rw [hn]; split <;> decide
  have h0 : s.fetchHalf p = .ok (halfOfBytes (memByte s.here.imem a) (memByte s.here.imem (a + 1))) :=
    State.fetchHalf_of_executable ha (by omega) (hok 0 hpos).1 (hok 0 hpos).2
  cases hl : isLong (halfOfBytes (memByte s.here.imem a) (memByte s.here.imem (a + 1))) with
  | false =>
    obtain rfl : n = 2 := by simpa [hl] using hn
    rw [State.insnAt_of_fetch (State.fetch_of_half h0 hl)]
    exact decodeFetched_of_decode_half hl hd
  | true =>
    obtain rfl : n = 4 := by simpa [hl] using hn
    have hp : (p + 2).toNat = p.toNat + 2 := by
      have := s.act.img.xlen.isLt
      bv_omega
    have h1 : s.fetchHalf (p + 2) = .ok (halfOfBytes (memByte s.here.imem (a + 2)) (memByte s.here.imem (a + 3))) :=
      State.fetchHalf_of_executable (by omega) (by omega) (hok 2 (by decide)).1 (hok 2 (by decide)).2
    rw [State.insnAt_of_fetch (State.fetch_of_word h0 hl h1)]
    exact decodeFetched_of_decode_word hl hd

/-! The choice of a move. -/

/-- A slot whose pc holds an instruction issues it next. -/
theorem State.nextOf_of_insnAt {s : State} {i : Fin 4} {d : Decoded} (h : ({ s with slot := i } : State).insnAt s.here.acts[i].pc = .ok d) : s.nextOf i = .issue i d := by
  change ({ s with slot := i } : State).insnAt ({ s with slot := i } : State).pc = .ok d at h
  simp only [State.insnAt] at h
  simp only [State.nextOf]
  cases hf : ({ s with slot := i } : State).fetch ({ s with slot := i } : State).pc with
  | error t => simp [hf] at h
  | ok f =>
    simp only [hf] at h
    simp only [h]

/-- With no breakpoint before it and no gate, what a slot would issue is its move (R341, R358). -/
theorem State.slotMove_of_issue {s : State} {i : Fin 4} {d : Decoded} (hb : State.bpHits { s with slot := i } = 0) (hg : s.gated = false)
    (h : s.nextOf i = .issue i d) : s.slotMove i = some (.issue i d) := by
  simp [State.slotMove, hb, hg, h]

/-- The first ready slot in search order gives the move of issue (R25). -/
theorem State.issueMove_of_first {s : State} {i : Fin 4} {r : List (Fin 4)} {m : Choice} (hf : s.searchOrder.filter s.ready = i :: r) (h : s.slotMove i = some m) :
    s.issueMove = some m := by
  simp only [State.issueMove, hf, List.findSome?_cons, h]

/-- With nothing that comes before issue, a core that is not stopped makes the move of issue. -/
theorem State.move_of_issueMove {s : State} {m : Choice} (hw : s.dueWindow = none) (hs : s.here.dbg.stopped = false)
    (ha : ∀ a ∈ s.here.live.ages, a.2.behind = false) (hb : s.spentSlot = none) (hv : s.vendor = none) (hc : s.choose = none) (h : s.issueMove = some m) :
    s.move = m := by
  have hany : (s.here.live.ages.any fun a => a.2.behind) = false := List.any_eq_false.mpr fun a h => by simp [ha a h]
  simp [State.move, State.plainMove, hw, hs, hany, hb, hv, hc, h]

/-! The move made. -/

/-- A ready slot is not held. -/
theorem State.not_held_of_ready {s : State} {i : Fin 4} (h : s.ready i = true) : (s.here.dbg.held == some i) = false := by
  simp only [State.ready, Bool.and_eq_true, bne, Bool.not_eq_true'] at h
  obtain ⟨⟨⟨_, hheld⟩, _⟩, _⟩ := h
  exact hheld

/-- A ready slot's issue is the meaning of the instruction at that slot, and the cycle ends behind it unless the slot stalled (R26). -/
theorem State.make_issue_of_ready {s : State} {i : Fin 4} (h : s.ready i = true) (d : Decoded) :
    s.make (.issue i d) = andThen (State.afterIssue i) (exec d.instr { s with slot := i }) := by
  simp only [State.make, State.not_held_of_ready h, Bool.false_eq_true, if_false, State.issue, execDecoded_eq_exec_instr]

/-- With no turn of another agent, the step is the acting core's own move. -/
theorem step_of_no_turn {s : State} (ht : s.turns = []) (hr : s.home.inReset = false) : step s = s.make s.move := by
  simp [step, ht, State.goOn, hr]

/-- An encoding of no bits is that of an event. -/
theorem isEvent_of_encode {i : Instr} (h : encode i = .event) : isEvent i = true := by
  simp only [isEvent, h]

/-- A turn with an event is the event's meaning at the named core, and the cycle ends. -/
theorem step_of_event_turn {s : State} {x : Turn} {rest : List Turn} (ht : s.turns = x :: rest) (he : encode x.what = .event)
    (hr : (({ s with turns := rest } : State).focus x.core).home.inReset = false) :
    step s = andThen State.tick (exec x.what { ({ s with turns := rest } : State).focus x.core with ev := x.arg }) := by
  simp [step, ht, State.takeTurn, hr, isEvent_of_encode he, State.perform1]

/-- Settles O3: the layers above, from the bytes at the pc of the first ready slot to the move made there; a turn is the last lemma alone. -/
theorem stepRunsDecoded : Obligations.StepRunsDecoded := by
  refine ⟨?_, fun s x rest ht he hr => step_of_event_turn ht he hr⟩
  intro s i r x n ht hr hw hs ha hb hv hc hfirst hbp hg a b hn hx hok hd
  obtain ⟨d, hat, rfl⟩ := State.insnAt_of_decode (s := { s with slot := i }) (p := a.pc) rfl hn hx hok hd
  have hready : s.ready i = true := (List.mem_filter.mp (hfirst ▸ List.mem_cons_self)).2
  have hissue : s.issueMove = some (.issue i d) :=
    State.issueMove_of_first hfirst (State.slotMove_of_issue hbp hg (State.nextOf_of_insnAt hat))
  calc step s = s.make s.move := step_of_no_turn ht hr
    _ = s.make (.issue i d) := by rw [State.move_of_issueMove hw hs ha hb hv hc hissue]
    _ = andThen (State.afterIssue i) (exec d.instr { s with slot := i }) := State.make_issue_of_ready hready d

end Sys2Proof.Machine
end

section
/-! PROOFS. The state after reset (R32, R36, R43). -/

namespace Sys2Proof.Safety

open Sys2Proof.Machine

/-- A core that comes out of reset has canonical memories: they are empty. -/
theorem coreWf_reset : coreWf Core.reset := ⟨rfl, rfl⟩

/-- A package after its bring-up has canonical memories: they are empty. -/
theorem pkgWf_reset : pkgWf Package.reset := ⟨rfl, fun _ h => (List.not_mem_nil h).elim⟩

/-- At reset every granule is under the system's key, which is the key of key slot 0 (R33, R43). -/
theorem tag_reset (g : Nat) : Core.reset.mem.tag g = Core.reset.key 0 := rfl

/-- A granule verifies under the key that it was written with (R34). -/
theorem tagOk_of_tag {m : LocalMem} {key : KeyId} {g : Nat} (at_ : CoreAddr) (h : m.tag g = key) : m.tagOk at_ key g = true := by
  simp [LocalMem.tagOk, h]

theorem wf_reset : Wf State.reset := by
  refine ⟨coreWf_reset, fun _ h => (List.not_mem_nil h).elim, fun p h => ?_, rfl⟩
  obtain rfl := List.mem_singleton.mp h
  exact pkgWf_reset

/-- Settles O4: register by register the value of reset; local memory is empty and under the system's key. -/
theorem resetState : Obligations.ResetState := by
  refine ⟨⟨?_, ?_, rfl, ?_, ?_, ?_, ?_, fun g => ⟨tag_reset g, tagOk_of_tag _ (tag_reset g)⟩, fun a => ?_⟩, wf_reset⟩
  · decide
  · decide
  · intro ch
    exact (by decide : bit noEntry 63 = false)
  · intro q a
    simp [State.reset, Core.reset, Machine.Matrix.zero, QSlot.free, memByte]
  · intro b a
    simp [State.reset, Core.reset, Machine.Matrix.zero, memByte]
  · decide
  · exact if_pos (tag_reset (a / 16))

end Sys2Proof.Safety
end

section
/-! PROOFS. Floating arithmetic and compares on lanes (R100, R106, R107). -/

namespace Sys2Proof.Safety

open Sys2Proof.Machine

/-! Floating arithmetic (R106) and compares (R107). -/

/-- A NaN is below nothing. -/
theorem numLt_eq_false_of_isNan_left {x : Machine.Num} (y : Machine.Num) (h : x.isNan = true) : numLt x y = false := by
  cases x with
  | nan _ => rfl
  | inf _ | fin _ => cases h

/-- Nothing is below a NaN. -/
theorem numLt_eq_false_of_isNan_right (x : Machine.Num) {y : Machine.Num} (h : y.isNan = true) : numLt x y = false := by
  cases y with
  | nan _ => cases x <;> simp [numLt]
  | inf _ | fin _ => cases h

/-- `vflt` asks of the first source for no NaN too: it is below nothing. -/
theorem not_isNan_and_numLt (x y : Machine.Num) : (!y.isNan && numLt x y) = (!(x.isNan || y.isNan) && numLt x y) := by
  cases hx : x.isNan with
  | false => rfl
  | true => simp [numLt_eq_false_of_isNan_left y hx]

theorem numEq_eq (x y : Machine.Num) : numEq x y = (!(x.isNan || y.isNan) && !numLt x y && !numLt y x) := by
  simp only [numEq, Bool.not_or]

theorem numLe_eq (x y : Machine.Num) : numLe x y = (!(x.isNan || y.isNan) && !numLt y x) := by
  simp only [numLe, Bool.not_or]

/-- A signalling NaN is a NaN. -/
theorem isNan_of_isSig {x : Machine.Num} (h : x.isSig = true) : x.isNan = true := by
  cases x with
  | nan _ => rfl
  | inf _ | fin _ => cases h

/-- A compare that is quiet signals a signalling NaN alone, any other every NaN. -/
theorem compare_flag (quiet : Bool) (x y : Machine.Num) :
    flagIf (x.isSig || y.isSig || (!quiet && (x.isNan || y.isNan))) fNV =
      if (if quiet then x.isSig || y.isSig else x.isNan || y.isNan) then fNV else 0 := by
  cases quiet with
  | true => simp [flagIf]
  | false =>
    have h : (x.isSig || y.isSig || (x.isNan || y.isNan)) = (x.isNan || y.isNan) :=
      Bool.or_eq_right_iff_imp.mpr fun h => by
        rcases (Bool.or_eq_true _ _).mp h with h | h <;> simp [isNan_of_isSig h]
    simp [flagIf, h]

/-- A floating compare of two sources (R107). -/
theorem cmp_of_fcmp {i : Instr} {e k : BitVec 2} {a b : BitVec 3} {l m : BitVec 1} {t : TypeCode} {quiet : Bool} {f g : Machine.Num → Machine.Num → Bool} {s : State}
    (h : exec i s = fcmp e a l b m k t quiet f s) (hfg : ∀ x y, f x y = g x y) :
    CmpDoes i t e k [(a, l), (b, m)] (fun j => (g (flane t (s.o a) j) (flane t (s.o b) j),
      if (if quiet then (flane t (s.o a) j).isSig || (flane t (s.o b) j).isSig else (flane t (s.o a) j).isNan || (flane t (s.o b) j).isNan) then fNV else 0)) s := by
  refine cmp_spec i t e k _ _ s (h.trans ?_)
  simp only [fcmp, hfg, compare_flag]

/-- Settles O25: every arithmetic form is an element-wise instruction on the values of its lanes; the compares ask for no NaN first, and `vfclass` follows the pattern's value. -/
theorem floatingArithmetic : Obligations.FloatingArithmetic := by
  refine ⟨fun s d a b c l m n k t _ => ?_, fun s d a b e k l m t _ => ⟨?_, ?_, ?_, ?_⟩⟩
  · refine ⟨?_, ?_, ?_, ?_, ?_, ?_, ?_, ?_, ?_, ?_, ?_, ?_⟩ <;> exact vec_spec _ t d k _ _ s rfl
  · exact cmp_of_fcmp (quiet := true) rfl numEq_eq
  · exact cmp_of_fcmp (quiet := false) rfl not_isNan_and_numLt
  · exact cmp_of_fcmp (quiet := false) rfl numLe_eq
  · refine vec_spec _ t d k _ _ s (congrArg (fun f => finish 4 s (.ok (s.vec d _ _ k [(a, l)] f))) (funext fun j => ?_))
    simp only [classBit]
    cases (fmtOf t).decode (lane (laneWidth t) (s.o a) j) <;> rfl

end Sys2Proof.Safety
end

section
/-! PROOFS. The special functions complete in every state and mode, and set neither DR nor PZ (R113, R114). -/
namespace Sys2Proof.Safety

open Sys2Proof.Machine

/-! The special functions (R113, R114): no lane sets DR or PZ. -/

/-- Flags with neither DR nor PZ. -/
def NoDrPz (f : BitVec 6) : Prop := f &&& (fDR ||| fPZ) = 0

theorem noDrPz_zero : NoDrPz 0 := by unfold NoDrPz; decide
theorem noDrPz_nv : NoDrPz fNV := by unfold NoDrPz; decide
theorem noDrPz_nx : NoDrPz fNX := by unfold NoDrPz; decide
theorem noDrPz_of : NoDrPz fOF := by unfold NoDrPz; decide
theorem noDrPz_uf : NoDrPz fUF := by unfold NoDrPz; decide

theorem NoDrPz.or {f g : BitVec 6} (hf : NoDrPz f) (hg : NoDrPz g) : NoDrPz (f ||| g) := by
  have hd : (f ||| g) &&& (fDR ||| fPZ) = f &&& (fDR ||| fPZ) ||| g &&& (fDR ||| fPZ) := by
    ext b hb
    simp only [BitVec.getElem_and, BitVec.getElem_or, Bool.and_or_distrib_right]
  exact hd.trans (by rw [hf, hg]; rfl)

theorem NoDrPz.flagIf {f : BitVec 6} (h : NoDrPz f) (b : Bool) : NoDrPz (flagIf b f) := by
  cases b with
  | false => exact noDrPz_zero
  | true => exact h

/-- A rounding sets OF, UF and NX at most (R63, R67). -/
theorem noDrPz_round (f : Fmt) (x : Dy) (mode : Nat) : NoDrPz (f.round x mode).2 := by
  unfold Fmt.round
  dsimp only
  split
  · exact noDrPz_zero
  · split
    · exact noDrPz_of.or noDrPz_nx
    · split
      · exact (noDrPz_uf.or noDrPz_nx).flagIf _
      · exact noDrPz_nx.flagIf _

theorem noDrPz_exp2Lane (t : TypeCode) (x : Nat) : NoDrPz (exp2Lane t x).2 := by
  unfold exp2Lane
  dsimp only
  split
  · exact noDrPz_nv.flagIf _
  · exact noDrPz_zero
  · split
    · exact noDrPz_zero
    · exact (noDrPz_nx.or (noDrPz_of.flagIf _)).or (noDrPz_uf.flagIf _)

theorem noDrPz_log2Lane (t : TypeCode) (x : Nat) : NoDrPz (log2Lane t x).2 := by
  unfold log2Lane
  dsimp only
  split
  · exact noDrPz_nv.flagIf _
  · split
    · exact noDrPz_nv
    · exact noDrPz_zero
  · split
    · exact noDrPz_zero
    · split
      · exact noDrPz_nv
      · split
        · exact noDrPz_round ..
        · exact noDrPz_nx

theorem noDrPz_rcpLane (t : TypeCode) (x : Nat) : NoDrPz (rcpLane t x).2 := by
  unfold rcpLane
  dsimp only
  split
  · exact noDrPz_nv.flagIf _
  · exact noDrPz_zero
  · split
    · exact noDrPz_zero
    · split
      · exact noDrPz_zero
      · exact noDrPz_nx

theorem noDrPz_rsqLane (t : TypeCode) (x : Nat) : NoDrPz (rsqLane t x).2 := by
  unfold rsqLane
  dsimp only
  split
  · exact noDrPz_nv.flagIf _
  · split
    · exact noDrPz_nv
    · exact noDrPz_zero
  · split
    · exact noDrPz_zero
    · split
      · exact noDrPz_nv
      · split
        · exact noDrPz_zero
        · exact noDrPz_nx

/-- `vsinpi` and `vcospi` differ in their exact results and their enclosure alone. -/
theorem noDrPz_sinpiLane (t : TypeCode) (x : Nat) : NoDrPz (sinpiLane t x).2 := by
  unfold sinpiLane
  dsimp only
  split
  · exact noDrPz_nv.flagIf _
  · exact noDrPz_nv
  · split
    · exact noDrPz_nx
    · split <;> exact noDrPz_zero

theorem noDrPz_cospiLane (t : TypeCode) (x : Nat) : NoDrPz (cospiLane t x).2 := by
  unfold cospiLane
  dsimp only
  split
  · exact noDrPz_nv.flagIf _
  · exact noDrPz_nv
  · split
    · exact noDrPz_nx
    · split <;> exact noDrPz_zero

/-- The flags of lanes that set neither DR nor PZ hold neither. -/
theorem noDrPz_of_laneFlags {n : Nat} {k : BitVec 32} {f : Nat → BitVec 6} {fl : BitVec 6} (h : laneFlags n k f fl) (hf : ∀ i, NoDrPz (f i)) : NoDrPz fl := by
  apply BitVec.eq_of_getLsbD_eq
  intro b hb
  have hz : (0 : BitVec 6).getLsbD b = false := BitVec.getLsbD_zero
  rw [BitVec.getLsbD_and, hz, Bool.and_eq_false_imp]
  intro hfl
  obtain ⟨i, -, -, hi⟩ := (h b hb).mp hfl
  have hm := congrArg (fun v : BitVec 6 => v.getLsbD b) (hf i)
  simpa [hi] using hm

/-- A one-source floating instruction whose lanes set neither DR nor PZ completes, and its inactive lanes keep what they held. -/
theorem completes_of_fvec1 {i : Instr} {d a : BitVec 3} {l : BitVec 1} {k : BitVec 2} {t : TypeCode} {f : Nat → Nat × BitVec 6} {s : State}
    (h : exec i s = fvec1 d a l k t f s) (hf : ∀ x, NoDrPz (f x).2) :
    ∃ (v : Strip) (fl : BitVec 6) (u : State), exec i s = .next u ∧
      RetiresSeq 4 s u (withO s.act.regs d v) (withLive (withFlags (usedO s [(a, l)]) fl) d) ∧ fl &&& (fDR ||| fPZ) = 0 ∧
      ∀ j, j < laneCount t → (s.k k).getLsbD j = false → lane (laneWidth t) v j = lane (laneWidth t) (s.o d) j := by
  obtain ⟨v, fl, hfl, hv, u, hu, hr⟩ := vec_spec i t d k [(a, l)] _ s h
  exact ⟨v, fl, u, hu, hr, noDrPz_of_laneFlags hfl fun j => hf _, fun j hj hk => by simpa [hk] using hv j hj⟩

/-- Settles O28: each function is a one-source floating instruction, and no branch of a lane's value sets DR or PZ. -/
theorem specialFunctionsComplete : Obligations.SpecialFunctionsComplete := by
  intro s d a k l t _ i hi
  simp only [List.mem_cons, List.not_mem_nil, or_false] at hi
  rcases hi with rfl | rfl | rfl | rfl | rfl | rfl
  · exact completes_of_fvec1 rfl (noDrPz_exp2Lane t)
  · exact completes_of_fvec1 rfl (noDrPz_log2Lane t)
  · exact completes_of_fvec1 rfl (noDrPz_rcpLane t)
  · exact completes_of_fvec1 rfl (noDrPz_rsqLane t)
  · exact completes_of_fvec1 rfl (noDrPz_sinpiLane t)
  · exact completes_of_fvec1 rfl (noDrPz_cospiLane t)

end Sys2Proof.Safety
end

section
/-! PROOFS. Integer vectors, compares, select and mask logic (R109, R110). -/

namespace Sys2Proof.Safety

open Sys2Proof.Machine

/-! Lanes as integers and as bits (R109). -/

/-- Every lane type is at least a byte wide. -/
theorem laneWidth_pos (t : TypeCode) : 0 < laneWidth t := by
  unfold laneWidth
  split <;> decide

/-- No lane type has more than 32 lanes. -/
theorem laneCount_le (t : TypeCode) : laneCount t ≤ 32 := by
  unfold laneCount laneWidth
  split <;> decide

/-- The signed value of a bit vector, by its top bit. -/
theorem toInt_eq_of_pos {w : Nat} (hw : 0 < w) (p : BitVec w) : p.toInt = if p.toNat < 2 ^ (w - 1) then (p.toNat : Int) else p.toNat - 2 ^ w := by
  have hpow : 2 ^ w = 2 * 2 ^ (w - 1) := by
    rw [← Nat.pow_succ', Nat.succ_eq_add_one, Nat.sub_add_cancel hw]
  rw [BitVec.toInt_eq_toNat_cond, hpow]
  simp only [Nat.mul_lt_mul_left (show 0 < 2 by decide)]
  split
  · rfl
  · push_cast [← hpow]
    rfl

/-- A lane as the model reads it is the integer that its type says. -/
theorem laneVal_eq_intLane (t : TypeCode) (x : Strip) (i : Nat) : laneVal t x i = intLane t x i := by
  have hlt := lane_lt (laneWidth t) x i
  simp only [laneVal, intLane, slane, toInt_eq_of_pos (laneWidth_pos t), BitVec.toNat_ofNat, Nat.mod_eq_of_lt hlt]

/-- Lanes that agree modulo the lane width, with the same flags, are the same element-wise instruction. -/
theorem VecDoes.congr {i : Instr} {ty : TypeCode} {d : BitVec 3} {k : BitVec 2} {src : List (BitVec 3 × BitVec 1)} {f g : Nat → Nat × BitVec 6} {s : State}
    (h : VecDoes i ty d k src f s) (hv : ∀ j, j < laneCount ty → (f j).1 % 2 ^ laneWidth ty = (g j).1 % 2 ^ laneWidth ty)
    (hf : ∀ j, j < laneCount ty → (f j).2 = (g j).2) : VecDoes i ty d k src g s := by
  obtain ⟨v, fl, hfl, hlanes, hw⟩ := h
  refine ⟨v, fl, fun b hb => (hfl b hb).trans (exists_congr fun j => and_congr_right fun hj => ?_), fun j hj => ?_, hw⟩
  · simp only [hf j hj]
  · rw [hlanes j hj, hv j hj]

section Lanes

variable {i : Instr} {d a b : BitVec 3} {l m : BitVec 1} {k : BitVec 2} {t : TypeCode} {s : State}

/-- A two-source integer instruction writes the wrapped value of the lanes' integers. -/
theorem vec_of_ivec2 {f : Int → Int → Int} (h : exec i s = ivec2 d a l b m k t f s) :
    VecDoes i t d k [(a, l), (b, m)] (fun j => ((f (intLane t (s.o a) j) (intLane t (s.o b) j) % 2 ^ laneWidth t).toNat, 0)) s := by
  refine vec_spec i t d k _ _ s (h.trans ?_)
  simp only [ivec2, laneVal_eq_intLane, wrapLane]

/-- A two-source instruction on lanes as bits writes a bit vector of the lane width. -/
theorem vec_of_bvec2 {f : Nat → Nat → Nat} {g : BitVec (laneWidth t) → BitVec (laneWidth t) → BitVec (laneWidth t)} (h : exec i s = bvec2 d a l b m k t f s)
    (hfg : ∀ p q : BitVec (laneWidth t), f p.toNat q.toNat % 2 ^ laneWidth t = (g p q).toNat) :
    VecDoes i t d k [(a, l), (b, m)] (fun j => ((g (BitVec.ofNat _ (lane (laneWidth t) (s.o a) j)) (BitVec.ofNat _ (lane (laneWidth t) (s.o b) j))).toNat, 0)) s := by
  refine (vec_spec i t d k _ _ s h).congr (fun j _ => ?_) fun _ _ => rfl
  have ha := lane_lt (laneWidth t) (s.o a) j
  have hb := lane_lt (laneWidth t) (s.o b) j
  rw [Nat.mod_eq_of_lt (BitVec.isLt _), ← hfg, BitVec.toNat_ofNat, BitVec.toNat_ofNat, Nat.mod_eq_of_lt ha, Nat.mod_eq_of_lt hb]

/-- An integer compare asks of the lanes' integers. -/
theorem cmp_of_icmp {e : BitVec 2} {f : Int → Int → Bool} (h : exec i s = icmp e a l b m k t f s) :
    CmpDoes i t e k [(a, l), (b, m)] (fun j => (f (intLane t (s.o a) j) (intLane t (s.o b) j), 0)) s := by
  refine cmp_spec i t e k _ _ s (h.trans ?_)
  simp only [icmp, laneVal_eq_intLane]

end Lanes

/-- A value clamped to a lane type's range (R109). -/
theorem clampLane_eq (t : TypeCode) (n : Int) : clampLane t n =
    max (if isSigned t then -(2 ^ (laneWidth t - 1) : Int) else 0) (min (if isSigned t then 2 ^ (laneWidth t - 1) - 1 else 2 ^ laneWidth t - 1) n) := by
  unfold clampLane intRange
  dsimp only
  split <;> rfl

/-- Arithmetic right shift of a lane is that of the bit vector. -/
theorem sraLane_eq {w : Nat} (hw : 0 < w) (p : BitVec w) (n : Nat) : sraLane w p.toNat n = (p.sshiftRight n).toNat := by
  have hint : (if 2 ^ (w - 1) ≤ p.toNat then (p.toNat : Int) - 2 ^ w else p.toNat) = p.toInt := by
    simp only [toInt_eq_of_pos hw, ← Nat.not_lt, ite_not]
  rw [BitVec.sshiftRight_eq, BitVec.toNat_ofInt, Int.shiftRight_eq_div_pow, sraLane, wrapLane, hint]
  push_cast
  rfl

/-- Bit `j` of a mask, k0 reading as all ones (R27). -/
theorem getLsbD_k (s : State) (r : BitVec 2) {j : Nat} (hj : j < 32) : (s.k r).getLsbD j = (decide (r = 0) || s.act.regs.k[r.toNat].getLsbD j) := by
  unfold State.k
  by_cases h : r = 0
  · rw [if_pos h, decide_eq_true h, Bool.true_or, BitVec.getLsbD_allOnes, decide_eq_true hj]
  · rw [if_neg h, decide_eq_false h, Bool.false_or]

/-- A mask register written, retired. -/
theorem setK_only_retire (s : State) (len : Nat) (e : BitVec 2) (x : BitVec 32) : RetiresSeq len s ((s.setK e x).retire len).issued (withK s.act.regs e x) s.act.csr := by
  rw [State.setK_eq]
  exact retire_spec s len (withK s.act.regs e x) s.act.csr

/-- Mask logic writes the mask and nothing else (R110). -/
theorem leaves_of_maskEff {i : Instr} {e : BitVec 2} {x : BitVec 32} {s : State} (h : exec i s = maskEff e x s) : Leaves i 4 (withK s.act.regs e x) s.act.csr s :=
  ⟨_, h, setK_only_retire s 4 e x⟩

/-- Settles O29: the two shapes of a two-source instruction, on integers and on bits, and the compare on integers; mask logic is read bit by bit. -/
theorem integerVectors : Obligations.IntegerVectors := by
  refine ⟨fun s d a b c l m n k t _ => ?_, fun s d a b e g h k l m t => ?_⟩
  · refine ⟨vec_of_ivec2 (f := (· + ·)) rfl, vec_of_ivec2 (f := (· - ·)) rfl, vec_of_ivec2 (f := (· * ·)) rfl,
      vec_of_ivec2 (f := fun x y => x * y / 2 ^ laneWidth t) rfl,
      vec_of_bvec2 (f := (· &&& ·)) (g := (· &&& ·)) rfl ?_,
      vec_of_bvec2 (f := (· ||| ·)) (g := (· ||| ·)) rfl ?_,
      vec_of_bvec2 (f := (· ^^^ ·)) (g := (· ^^^ ·)) rfl ?_,
      vec_of_bvec2 (f := fun x y => x * 2 ^ (y % laneWidth t)) (g := fun p q => p <<< (q.toNat % laneWidth t)) rfl ?_,
      vec_of_bvec2 (f := fun x y => x / 2 ^ (y % laneWidth t)) (g := fun p q => p >>> (q.toNat % laneWidth t)) rfl ?_,
      vec_of_bvec2 (f := fun x y => sraLane (laneWidth t) x (y % laneWidth t)) (g := fun p q => p.sshiftRight (q.toNat % laneWidth t)) rfl ?_,
      vec_of_ivec2 (f := min) rfl, vec_of_ivec2 (f := max) rfl, ?_, ?_, ?_, ?_⟩
    · intro p q
      rw [← BitVec.toNat_and, Nat.mod_eq_of_lt (BitVec.isLt _)]
    · intro p q
      rw [← BitVec.toNat_or, Nat.mod_eq_of_lt (BitVec.isLt _)]
    · intro p q
      rw [← BitVec.toNat_xor, Nat.mod_eq_of_lt (BitVec.isLt _)]
    · intro p q
      rw [BitVec.toNat_shiftLeft, Nat.shiftLeft_eq]
    · intro p q
      rw [BitVec.toNat_ushiftRight, Nat.shiftRight_eq_div_pow, Nat.mod_eq_of_lt ((Nat.div_le_self ..).trans_lt p.isLt)]
    · intro p q
      rw [sraLane_eq (laneWidth_pos t), Nat.mod_eq_of_lt (BitVec.isLt _)]
    · simpa only [clampLane_eq] using vec_of_ivec2 (i := .vadds d a l b m k t) (f := fun x y => clampLane t (x + y)) (s := s) rfl
    · simpa only [clampLane_eq] using vec_of_ivec2 (i := .vsubs d a l b m k t) (f := fun x y => clampLane t (x - y)) (s := s) rfl
    · simpa only [Int.natCast_natAbs] using vec_of_ivec2 (i := .vabsd d a l b m k t) (f := fun x y => ((x - y).natAbs : Int)) (s := s) rfl
    · simpa only [laneVal_eq_intLane, wrapLane] using vec_spec (.vmadd d a l b m c n k t) t d k _ _ s rfl
  · refine ⟨fun _ => ⟨cmp_of_icmp (f := fun x y => decide (x = y)) rfl, cmp_of_icmp (f := fun x y => decide (x < y)) rfl,
        cmp_of_icmp (f := fun x y => decide (x ≤ y)) rfl⟩, fun _ => ?_, ⟨_, fun j hj => ?_, leaves_of_maskEff rfl⟩, ⟨_, fun j hj => ?_, leaves_of_maskEff rfl⟩,
      ⟨_, fun j hj => ?_, leaves_of_maskEff rfl⟩, ⟨_, fun j hj => ?_, leaves_of_maskEff rfl⟩⟩
    · refine (vec_spec (.vsel d a l b m k t) t d 0 _ _ s rfl).congr (fun j hj => ?_) fun _ _ => rfl
      simp only [bit, getLsbD_k s k (hj.trans_le (laneCount_le t))]
    · rw [BitVec.getLsbD_and, getLsbD_k s g hj, getLsbD_k s h hj]
    · rw [BitVec.getLsbD_or, getLsbD_k s g hj, getLsbD_k s h hj]
    · rw [BitVec.getLsbD_xor, getLsbD_k s g hj, getLsbD_k s h hj]
    · rw [BitVec.getLsbD_not, getLsbD_k s g hj, decide_eq_true hj, Bool.true_and]

end Sys2Proof.Safety
end

section
/-! PROOFS. A rounded value is a pattern of its format (R61, R63). -/

namespace Sys2Proof.Safety

open Sys2Proof.Machine

/-! Number of bits of a magnitude. -/

theorem lt_two_pow_bitLen (m : Nat) : m < 2 ^ bitLen m := by
  unfold bitLen
  split
  · next h => simp [h]
  · exact Nat.lt_log2_self

theorem two_pow_le_of_bitLen {m : Nat} (h : m ≠ 0) : 2 ^ (bitLen m - 1) ≤ m := by
  rw [bitLen, if_neg h, Nat.add_sub_cancel]
  exact Nat.log2_self_le h

theorem bitLen_pos {m : Nat} (h : m ≠ 0) : 0 < bitLen m := by
  rw [bitLen, if_neg h]
  exact Nat.succ_pos _

theorem bitLen_le_of_lt {m k : Nat} (h : m < 2 ^ k) : bitLen m ≤ k := by
  by_cases hm : m = 0
  · simp [bitLen, hm]
  · rw [bitLen, if_neg hm]
    exact (Nat.log2_lt hm).mpr h

theorem lt_bitLen_of_le {m k : Nat} (h : 2 ^ k ≤ m) : k < bitLen m :=
  (Nat.pow_lt_pow_iff_right (by decide)).mp (h.trans_lt (lt_two_pow_bitLen m))

/-! A magnitude on a grid (R63 step 1). -/

theorem roundGrid_of_le (mode : Nat) (neg : Bool) (m : Nat) {e g : Int} (h : g ≤ e) : (roundGrid mode neg m e g).1 = m * 2 ^ (e - g).toNat := by
  unfold roundGrid
  rw [if_pos h]

/-- On a coarser grid the quotient is rounded down or up. -/
theorem roundGrid_of_lt (mode : Nat) (neg : Bool) (m : Nat) {e g : Int} (h : e < g) :
    m / 2 ^ (g - e).toNat ≤ (roundGrid mode neg m e g).1 ∧ (roundGrid mode neg m e g).1 ≤ m / 2 ^ (g - e).toNat + 1 := by
  unfold roundGrid
  rw [if_neg (Int.not_le.mpr h)]
  dsimp only
  split
  · exact ⟨Nat.le_refl _, Nat.le_succ _⟩
  · have hup : ∀ (q : Nat) (up : Bool), q ≤ (if mode = 5 then q + (1 - q % 2) else if up then q + 1 else q) ∧
        (if mode = 5 then q + (1 - q % 2) else if up then q + 1 else q) ≤ q + 1 := by
      intro q up
      split
      · omega
      · cases up <;> simp
    exact hup _ _

/-- On the grid of its own precision a magnitude keeps its leading bit. -/
theorem le_roundGrid_own (mode : Nat) (neg : Bool) {m : Nat} (e : Int) (p : Nat) (hm : m ≠ 0) : 2 ^ p ≤ (roundGrid mode neg m e ((bitLen m : Int) - 1 + e - p)).1 := by
  have hlen := bitLen_pos hm
  have hle := two_pow_le_of_bitLen hm
  by_cases h : (bitLen m : Int) - 1 + e - p ≤ e
  · rw [roundGrid_of_le _ _ _ h, show (e - ((bitLen m : Int) - 1 + e - p)).toNat = p + 1 - bitLen m by omega]
    calc 2 ^ p = 2 ^ (bitLen m - 1) * 2 ^ (p + 1 - bitLen m) := by rw [← Nat.pow_add]; congr 1; omega
      _ ≤ m * 2 ^ (p + 1 - bitLen m) := Nat.mul_le_mul_right _ hle
  · refine Nat.le_trans ?_ (roundGrid_of_lt mode neg m (Int.not_le.mp h)).1
    rw [show ((bitLen m : Int) - 1 + e - p - e).toNat = bitLen m - 1 - p by omega, Nat.le_div_iff_mul_le (Nat.two_pow_pos _), ← Nat.pow_add]
    exact (Nat.pow_le_pow_right (by decide) (by omega)).trans hle

/-- A magnitude below 2^(g + p) is at most 2^p on the grid 2^g. -/
theorem roundGrid_le_of_lt (mode : Nat) (neg : Bool) {m : Nat} {e g : Int} {p : Nat} (h : (bitLen m : Int) + e ≤ g + p) : (roundGrid mode neg m e g).1 ≤ 2 ^ p := by
  have hlt := lt_two_pow_bitLen m
  by_cases hg : g ≤ e
  · rw [roundGrid_of_le _ _ _ hg]
    calc m * 2 ^ (e - g).toNat ≤ 2 ^ bitLen m * 2 ^ (e - g).toNat := Nat.mul_le_mul_right _ hlt.le
      _ = 2 ^ (bitLen m + (e - g).toNat) := (Nat.pow_add ..).symm
      _ ≤ 2 ^ p := Nat.pow_le_pow_right (by decide) (by omega)
  · have hq : m / 2 ^ (g - e).toNat < 2 ^ p := by
      rw [Nat.div_lt_iff_lt_mul (Nat.two_pow_pos _), ← Nat.pow_add]
      exact hlt.trans_le (Nat.pow_le_pow_right (by decide) (by omega))
    have := (roundGrid_of_lt mode neg m (Int.not_le.mp hg)).2
    omega

/-! Patterns of a format (R61). -/

/-- A format with a bias of at least 1 and a fraction. -/
structure FmtOk (f : Fmt) : Prop where
  ew : 2 ≤ f.ew
  p : 1 ≤ f.p

section Patterns

variable {f : Fmt}

theorem two_bias (h : 2 ≤ f.ew) : 2 * f.bias + 2 = 2 ^ f.ew := by
  have h2 : 2 ^ f.ew = 2 * 2 ^ (f.ew - 1) := by rw [← Nat.pow_succ', Nat.succ_eq_add_one, Nat.sub_add_cancel (by omega)]
  have hpos := Nat.two_pow_pos (f.ew - 1)
  unfold Fmt.bias
  omega

theorem one_le_bias (h : 2 ≤ f.ew) : 1 ≤ f.bias := by
  have h2 : 2 ^ 1 ≤ 2 ^ (f.ew - 1) := Nat.pow_le_pow_right (by decide) (by omega)
  unfold Fmt.bias
  omega

theorem signBit_add_lt (neg : Bool) {r : Nat} (h : r < 2 ^ (f.p + f.ew)) : f.signBit neg + r < 2 ^ (f.p + f.ew + 1) := by
  rw [Nat.pow_succ]
  unfold Fmt.signBit
  split <;> omega

/-- An exponent field below the format's end and a fraction make a magnitude. -/
theorem field_lt {ex fr : Nat} (hex : ex < 2 ^ f.ew) (hfr : fr < 2 ^ f.p) : ex * 2 ^ f.p + fr < 2 ^ (f.p + f.ew) := by
  calc ex * 2 ^ f.p + fr < ex * 2 ^ f.p + 2 ^ f.p := Nat.add_lt_add_left hfr _
    _ = (ex + 1) * 2 ^ f.p := (Nat.succ_mul ..).symm
    _ ≤ 2 ^ f.ew * 2 ^ f.p := Nat.mul_le_mul_right _ hex
    _ = 2 ^ (f.p + f.ew) := by rw [Nat.pow_add, Nat.mul_comm]

theorem signBit_lt (neg : Bool) : f.signBit neg < 2 ^ (f.p + f.ew + 1) := signBit_add_lt neg (r := 0) (Nat.two_pow_pos _)

theorem infBits_lt (neg : Bool) : f.infBits neg < 2 ^ (f.p + f.ew + 1) := by
  have hpos := Nat.two_pow_pos f.ew
  exact signBit_add_lt neg (field_lt (ex := 2 ^ f.ew - 1) (fr := 0) (by omega) (Nat.two_pow_pos _))

theorem maxBits_lt (h : FmtOk f) (neg : Bool) : f.maxBits neg < 2 ^ (f.p + f.ew + 1) := by
  have hpos := two_bias h.ew
  have hp := Nat.two_pow_pos f.p
  rw [Fmt.maxBits, Nat.add_assoc]
  exact signBit_add_lt neg (field_lt (by omega) (by omega))

theorem cnan_lt (h : FmtOk f) : f.cnan < 2 ^ (f.p + f.ew + 1) := by
  have hpos := Nat.two_pow_pos f.ew
  have hfr : 2 ^ (f.p - 1) < 2 ^ f.p := Nat.pow_lt_pow_right (by decide) (by have := h.p; omega)
  exact (field_lt (by omega) hfr).trans_le (Nat.pow_le_pow_right (by decide) (Nat.le_succ _))

/-- A packed magnitude is a pattern, where its exponent is one of the format and it lies on the subnormal grid or is normal. -/
theorem pack_lt (h : FmtOk f) (neg : Bool) {q : Nat} {g : Int} (hex : (bitLen q : Int) - 1 + g ≤ f.bias)
    (hg : 1 - (f.bias : Int) - f.p ≤ g ∨ 1 - (f.bias : Int) ≤ (bitLen q : Int) - 1 + g) : f.pack neg q g < 2 ^ (f.p + f.ew + 1) := by
  unfold Fmt.pack
  split
  · exact signBit_lt neg
  · next hq =>
    have hlt := lt_two_pow_bitLen q
    have hbias := two_bias h.ew
    dsimp only
    split
    · refine signBit_add_lt neg ?_
      calc q * 2 ^ (g - (1 - (f.bias : Int) - f.p)).toNat < 2 ^ bitLen q * 2 ^ (g - (1 - (f.bias : Int) - f.p)).toNat :=
            Nat.mul_lt_mul_of_pos_right hlt (Nat.two_pow_pos _)
        _ = 2 ^ (bitLen q + (g - (1 - (f.bias : Int) - f.p)).toNat) := (Nat.pow_add ..).symm
        _ ≤ 2 ^ (f.p + f.ew) := Nat.pow_le_pow_right (by decide) (by omega)
    · rw [Nat.add_assoc]
      refine signBit_add_lt neg (field_lt (by omega) ?_)
      have hfr : (if bitLen q ≤ f.p + 1 then q * 2 ^ (f.p + 1 - bitLen q) else q / 2 ^ (bitLen q - (f.p + 1))) < 2 ^ (f.p + 1) := by
        split
        · next hl =>
          calc q * 2 ^ (f.p + 1 - bitLen q) < 2 ^ bitLen q * 2 ^ (f.p + 1 - bitLen q) := Nat.mul_lt_mul_of_pos_right hlt (Nat.two_pow_pos _)
            _ = 2 ^ (f.p + 1) := by rw [← Nat.pow_add, Nat.add_sub_cancel' hl]
        · rw [Nat.div_lt_iff_lt_mul (Nat.two_pow_pos _), ← Nat.pow_add]
          exact hlt.trans_le (Nat.pow_le_pow_right (by decide) (by omega))
      have hp := Nat.two_pow_pos f.p
      rw [Nat.pow_succ] at hfr
      omega

/-- A rounded value is a pattern (R63). -/
theorem round_lt (h : FmtOk f) (x : Dy) (mode : Nat) : (f.round x mode).1 < 2 ^ (f.p + f.ew + 1) := by
  have hbias := one_le_bias h.ew
  unfold Fmt.round
  split
  · exact signBit_lt x.neg
  · next hm =>
    have hown := lt_bitLen_of_le (le_roundGrid_own mode x.neg x.e f.p hm)
    dsimp only
    split
    · have hbits : ∀ toInf : Bool, (if toInf then f.infBits x.neg else f.maxBits x.neg) < 2 ^ (f.p + f.ew + 1)
        | true => infBits_lt x.neg
        | false => maxBits_lt h x.neg
      exact hbits _
    · split
      · have hsub := bitLen_le_of_lt (Nat.lt_succ_of_le (roundGrid_le_of_lt mode x.neg (m := x.m) (e := x.e) (g := 1 - (f.bias : Int) - f.p) (p := f.p) (by omega)) |>.trans_le
          (show 2 ^ f.p + 1 ≤ 2 ^ (f.p + 1) by have := Nat.two_pow_pos f.p; rw [Nat.pow_succ]; omega))
        exact pack_lt h x.neg (by omega) (.inl (Int.le_refl _))
      · exact pack_lt h x.neg (by omega) (.inr (by omega))

/-- The pattern of a result (R63, R66). -/
theorem exact_to_lt (h : FmtOk f) (x : Exact) (mode : Nat) : (x.to f mode).1 < 2 ^ (f.p + f.ew + 1) := by
  cases x with
  | nan nv => exact cnan_lt h
  | inf neg => exact infBits_lt neg
  | val d => exact round_lt h d mode

theorem fminBits_lt (h : FmtOk f) {x y : Nat} (hx : x < 2 ^ (f.p + f.ew + 1)) (hy : y < 2 ^ (f.p + f.ew + 1)) : (fminBits f x y).1 < 2 ^ (f.p + f.ew + 1) := by
  unfold fminBits
  dsimp only
  split
  · exact cnan_lt h
  · dsimp only
    split
    · exact hx
    · exact hy

theorem fmaxBits_lt (h : FmtOk f) {x y : Nat} (hx : x < 2 ^ (f.p + f.ew + 1)) (hy : y < 2 ^ (f.p + f.ew + 1)) : (fmaxBits f x y).1 < 2 ^ (f.p + f.ew + 1) := by
  unfold fmaxBits
  dsimp only
  split
  · exact cnan_lt h
  · dsimp only
    split
    · exact hx
    · exact hy

end Patterns

/-- The formats of the lane types (R15, R61). -/
theorem fmtOk_fmtOf (t : TypeCode) : FmtOk (fmtOf t) := by
  unfold fmtOf
  split <;> exact ⟨by decide, by decide⟩

/-- A floating lane is as wide as its format. -/
theorem laneWidth_eq_fmt : ∀ t : TypeCode, isFloat t = true → (fmtOf t).p + (fmtOf t).ew + 1 = laneWidth t := by decide

end Sys2Proof.Safety
end

section
/-! PROOFS. Permutes, reductions and moves between files (R78, R104, R111, R112). -/

namespace Sys2Proof.Safety

open Sys2Proof.Machine

/-! Permutes (R111). -/

/-- The lane count is even and positive. -/
theorem laneCount_even (t : TypeCode) : 0 < laneCount t ∧ laneCount t % 2 = 0 := by
  unfold laneCount laneWidth
  split <;> decide

/-- A permute is the element-wise instruction on the lanes that it names in the pair of its sources. -/
theorem vec_of_permEff {i : Instr} {d a b : BitVec 3} {l : BitVec 1} {src : List (BitVec 3 × BitVec 1)} {k : BitVec 2} {t : TypeCode} {f g : Nat → Nat} {s : State}
    (h : exec i s = permEff d a l src k t b f s)
    (hg : ∀ j, j < laneCount t → (if f j < laneCount t then lane (laneWidth t) (s.o a) (f j) else lane (laneWidth t) (s.o b) (f j - laneCount t)) = g j) :
    VecDoes i t d k ((a, l) :: src) (fun j => (g j, 0)) s :=
  (vec_spec i t d k _ _ s h).congr (fun j hj => by rw [hg j hj]) fun _ _ => rfl

/-! The reduction tree (R78). -/

section Tree

variable (step : Nat → Nat → Nat × BitVec 6)

/-- The value at place `i` of level `r` of the tree over the leaves `x`. -/
def treeVal (x : Nat → Nat) : Nat → Nat → Nat
  | 0, i => x i
  | r + 1, i => (step (treeVal x r (2 * i)) (treeVal x r (2 * i + 1))).1

/-- The flags of the step that makes that value. -/
def treeFlag (x : Nat → Nat) : Nat → Nat → BitVec 6
  | 0, _ => 0
  | r + 1, i => (step (treeVal step x r (2 * i)) (treeVal step x r (2 * i + 1))).2

/-- A level combines neighbours. -/
theorem treeLevel_map_range (y : Nat → Nat) (m : Nat) :
    (treeLevel step ((List.range (2 * m)).map y)).1 = (List.range m).map (fun i => (step (y (2 * i)) (y (2 * i + 1))).1) ∧
    ∀ b, (treeLevel step ((List.range (2 * m)).map y)).2.getLsbD b = true ↔ ∃ i, i < m ∧ (step (y (2 * i)) (y (2 * i + 1))).2.getLsbD b = true := by
  induction m generalizing y with
  | zero => simp [treeLevel]
  | succ m ih =>
    obtain ⟨hv, hf⟩ := ih fun i => y (i + 2)
    have hl : (List.range (2 * (m + 1))).map y = y 0 :: y 1 :: (List.range (2 * m)).map fun i => y (i + 2) := by
      rw [Nat.mul_succ, List.range_succ_eq_map, List.range_succ_eq_map]
      simp
    rw [hl, treeLevel]
    refine ⟨?_, fun b => ?_⟩
    · rw [hv, List.range_succ_eq_map]
      simp [Function.comp_def, Nat.mul_succ]
    · rw [BitVec.getLsbD_or, Bool.or_eq_true, hf b]
      constructor
      · rintro (h | ⟨i, hi, h⟩)
        · exact ⟨0, Nat.succ_pos m, h⟩
        · exact ⟨i + 1, Nat.succ_lt_succ hi, h⟩
      · rintro ⟨i, hi, h⟩
        cases i with
        | zero => exact .inl h
        | succ i => exact .inr ⟨i, Nat.lt_of_succ_lt_succ hi, h⟩

/-- With two values or more left, a level is formed and the rest reduced. -/
theorem treeReduce_of_two (n : Nat) {l : List Nat} (h : 2 ≤ l.length) :
    treeReduce step (n + 1) l = ((treeReduce step n (treeLevel step l).1).1, (treeLevel step l).2 ||| (treeReduce step n (treeLevel step l).1).2) := by
  match l, h with
  | _ :: _ :: _, _ => rfl

/-- From level `r` on, `k` levels lead to the value at the root, with the flags of every step between. -/
theorem treeReduce_level (x : Nat → Nat) (k : Nat) : ∀ r n, k < n →
    (treeReduce step n ((List.range (2 ^ k)).map (treeVal step x r))).1 = treeVal step x (r + k) 0 ∧
    ∀ b, (treeReduce step n ((List.range (2 ^ k)).map (treeVal step x r))).2.getLsbD b = true ↔
      ∃ q i, q < k ∧ i < 2 ^ (k - 1 - q) ∧ (treeFlag step x (r + q + 1) i).getLsbD b = true := by
  induction k with
  | zero =>
    intro r n hn
    obtain ⟨n, rfl⟩ := Nat.exists_eq_add_one.mpr hn
    exact ⟨rfl, fun b => by simp [treeReduce]⟩
  | succ k ih =>
    intro r n hn
    obtain ⟨n, rfl⟩ := Nat.exists_eq_add_one.mpr (Nat.zero_lt_of_lt hn)
    obtain ⟨hv, hf⟩ := treeLevel_map_range step (treeVal step x r) (2 ^ k)
    obtain ⟨hv', hf'⟩ := ih (r + 1) n (Nat.lt_of_succ_lt_succ hn)
    have hlen : 2 ≤ ((List.range (2 ^ (k + 1))).map (treeVal step x r)).length := by
      have := Nat.two_pow_pos k
      rw [List.length_map, List.length_range, Nat.pow_succ]
      omega
    rw [treeReduce_of_two step n hlen, Nat.pow_succ', hv]
    change ((treeReduce step n ((List.range (2 ^ k)).map (treeVal step x (r + 1)))).1 = _) ∧ ∀ b, (_ ||| (treeReduce step n ((List.range (2 ^ k)).map (treeVal step x (r + 1)))).2).getLsbD b = true ↔ _
    refine ⟨by rw [hv']; congr 1; omega, fun b => ?_⟩
    rw [BitVec.getLsbD_or, Bool.or_eq_true, hf b, hf' b]
    constructor
    · rintro (⟨i, hi, h⟩ | ⟨q, i, hq, hi, h⟩)
      · exact ⟨0, i, Nat.succ_pos k, hi, h⟩
      · exact ⟨q + 1, i, Nat.succ_lt_succ hq, by rwa [show k + 1 - 1 - (q + 1) = k - 1 - q by omega], by rwa [show r + (q + 1) + 1 = r + 1 + q + 1 by omega]⟩
    · rintro ⟨q, i, hq, hi, h⟩
      cases q with
      | zero => exact .inl ⟨i, hi, h⟩
      | succ q =>
        exact .inr ⟨q, i, Nat.lt_of_succ_lt_succ hq, by rwa [show k - 1 - q = k + 1 - 1 - (q + 1) by omega], by rwa [show r + 1 + q + 1 = r + (q + 1) + 1 by omega]⟩

/-- Every value of the tree is below a bound that its leaves are below and that a step keeps. -/
theorem treeVal_lt {x : Nat → Nat} {c : Nat} (hx : ∀ i, x i < c) (hs : ∀ p q, p < c → q < c → (step p q).1 < c) (r i : Nat) : treeVal step x r i < c := by
  induction r generalizing i with
  | zero => exact hx i
  | succ r ih => exact hs _ _ (ih _) (ih _)

/-! A reduction whose step is associative on what its values stand for. -/

variable {α : Type} {g : α → α → α} {val : Nat → α} {c : Nat} {e : α}

/-- A level leaves the fold over the values as it was. -/
theorem foldl_treeLevel (ha : ∀ x y z, g (g x y) z = g x (g y z)) (hs : ∀ x y, x < c → y < c → (step x y).1 < c ∧ val (step x y).1 = g (val x) (val y)) (z : α)
    (l : List Nat) (hl : ∀ x ∈ l, x < c) : (∀ x ∈ (treeLevel step l).1, x < c) ∧ ((treeLevel step l).1.map val).foldl g z = (l.map val).foldl g z := by
  match l with
  | [] | [_] => exact ⟨hl, rfl⟩
  | x :: y :: t =>
    obtain ⟨hxy, hval⟩ := hs x y (hl x (by simp)) (hl y (by simp))
    obtain ⟨hlt, hf⟩ := foldl_treeLevel ha hs (g (g z (val x)) (val y)) t fun u hu => hl u (by simp [hu])
    refine ⟨fun u hu => ?_, ?_⟩
    · rcases List.mem_cons.mp hu with rfl | hu
      · exact hxy
      · exact hlt u hu
    · simp only [treeLevel, List.map_cons, List.foldl_cons, hval, ← ha]
      exact hf

theorem length_treeLevel (l : List Nat) : (treeLevel step l).1.length = (l.length + 1) / 2 := by
  match l with
  | [] | [_] => simp [treeLevel]
  | x :: y :: t =>
    simp only [treeLevel, List.length_cons, length_treeLevel t]
    omega

/-- The reduction of at most 2^n values stands for the fold over them. -/
theorem val_treeReduce (ha : ∀ x y z, g (g x y) z = g x (g y z)) (hs : ∀ x y, x < c → y < c → (step x y).1 < c ∧ val (step x y).1 = g (val x) (val y))
    (he : ∀ x, x < c → g e (val x) = val x) (n : Nat) : ∀ l : List Nat, 1 ≤ l.length → l.length ≤ 2 ^ n → (∀ x ∈ l, x < c) →
    (treeReduce step n l).1 < c ∧ val (treeReduce step n l).1 = (l.map val).foldl g e := by
  have hone : ∀ x, x < c → x < c ∧ val x = ([x].map val).foldl g e := fun x hx => ⟨hx, (he x hx).symm⟩
  induction n with
  | zero =>
    intro l h1 h2 hl
    obtain ⟨x, rfl⟩ := List.length_eq_one_iff.mp (Nat.le_antisymm h2 h1)
    exact hone x (hl x (by simp))
  | succ n ih =>
    intro l h1 h2 hl
    match l, h1 with
    | [x], _ => exact hone x (hl x (by simp))
    | x :: y :: t, _ =>
      obtain ⟨hlt, hf⟩ := foldl_treeLevel step ha hs e (x :: y :: t) hl
      have hlen := length_treeLevel step (x :: y :: t)
      rw [treeReduce_of_two step n (by simp), ← hf]
      rw [Nat.pow_succ, List.length_cons, List.length_cons] at h2
      rw [List.length_cons, List.length_cons] at hlen
      exact ih _ (by omega) (by omega) hlt

theorem treeLevel_flags (hs : ∀ x y, (step x y).2 = 0) (l : List Nat) : (treeLevel step l).2 = 0 := by
  match l with
  | [] | [_] => rfl
  | x :: y :: t =>
    rw [treeLevel]
    dsimp only
    rw [hs, treeLevel_flags hs t]
    rfl

/-- Steps that set no flag make a reduction that sets none. -/
theorem treeReduce_flags (hs : ∀ x y, (step x y).2 = 0) (n : Nat) (l : List Nat) : (treeReduce step n l).2 = 0 := by
  induction n generalizing l with
  | zero => rfl
  | succ n ih =>
    match l with
    | [_] => rfl
    | [] =>
      change (0 : BitVec 6) ||| (treeReduce step n []).2 = 0
      rw [ih]
      rfl
    | x :: y :: t =>
      rw [treeReduce_of_two step n (by simp)]
      dsimp only
      rw [treeLevel_flags step hs, ih]
      rfl

end Tree

/-! Reductions (R112). -/

/-- What enters the reduction for lane `i`: the lane where the mask has it active, the identity elsewhere. -/
def enters (s : State) (k : BitVec 2) (t : TypeCode) (a : BitVec 3) (ident i : Nat) : Nat := if (s.k k).getLsbD i then lane (laneWidth t) (s.o a) i else ident

/-- The reduction of the lanes that enter, with its flags. -/
def reduction (s : State) (k : BitVec 2) (t : TypeCode) (a : BitVec 3) (ident : Nat) (step : Nat → Nat → Nat × BitVec 6) : Nat × BitVec 6 :=
  treeReduce step 6 ((List.range (laneCount t)).map (enters s k t a ident))

/-- A reduction's value is a lane, and it is all that its register holds. -/
def Reduces (s : State) (i : Instr) (t : TypeCode) (d a : BitVec 3) (l : BitVec 1) (v : Nat) (fl : BitVec 6) : Prop :=
  v < 2 ^ laneWidth t ∧ WritesO i 4 d (BitVec.ofNat 256 v) (withFlags (usedO s [(a, l)]) fl) s

/-- A value and flags are those of the tree of R78 over `n` leaves. -/
def OfTree (step : Nat → Nat → Nat × BitVec 6) (leaf : Nat → Nat) (n v : Nat) (fl : BitVec 6) : Prop :=
  ∃ (T : Nat → Nat → Nat) (F : Nat → Nat → BitVec 6), (∀ i, i < n → T 0 i = leaf i) ∧
    (∀ r i, T (r + 1) i = (step (T r (2 * i)) (T r (2 * i + 1))).1 ∧ F (r + 1) i = (step (T r (2 * i)) (T r (2 * i + 1))).2) ∧
    ∃ depth, 2 ^ depth = n ∧ v = T depth 0 ∧
      ∀ b, b < 6 → (fl.getLsbD b = true ↔ ∃ r i, r < depth ∧ i < 2 ^ (depth - 1 - r) ∧ (F (r + 1) i).getLsbD b = true)

/-- Every lane count is a power of two, of at most six levels. -/
theorem laneCount_two_pow (t : TypeCode) : ∃ depth, depth < 6 ∧ 2 ^ depth = laneCount t := by
  have h : ∀ t : TypeCode, ∃ depth : Fin 6, 2 ^ depth.val = laneCount t := by decide
  obtain ⟨depth, hd⟩ := h t
  exact ⟨depth, depth.isLt, hd⟩

section Reduction

variable {s : State} {i : Instr} {d a : BitVec 3} {l : BitVec 1} {k : BitVec 2} {t : TypeCode} {ident : Nat} {step : Nat → Nat → Nat × BitVec 6}

theorem enters_lt (hi : ident < 2 ^ laneWidth t) (j : Nat) : enters s k t a ident j < 2 ^ laneWidth t := by
  unfold enters
  split
  · exact lane_lt _ _ _
  · exact hi

/-- A reduction whose result is a lane writes it. -/
theorem reduces_of_redEff (h : exec i s = redEff d a l k t ident step s) (hlt : (reduction s k t a ident step).1 < 2 ^ laneWidth t) :
    Reduces s i t d a l (reduction s k t a ident step).1 (reduction s k t a ident step).2 := by
  have hx : exec i s = finish 4 s (.ok (((s.useO [(a, l)]).addFlags (reduction s k t a ident step).2).setO d
    (BitVec.ofNat 256 ((reduction s k t a ident step).1 % 2 ^ laneWidth t)))) := h
  rw [Nat.mod_eq_of_lt hlt] at hx
  exact ⟨hlt, _, hx, setO_retire s _ _ 4 d _⟩

/-- A reduction by steps that keep to a lane is that of the tree. -/
theorem tree_of_redEff (h : exec i s = redEff d a l k t ident step s) (hi : ident < 2 ^ laneWidth t)
    (hs : ∀ p q, p < 2 ^ laneWidth t → q < 2 ^ laneWidth t → (step p q).1 < 2 ^ laneWidth t) :
    ∃ v fl, Reduces s i t d a l v fl ∧ OfTree step (enters s k t a ident) (laneCount t) v fl := by
  obtain ⟨depth, hdepth, hn⟩ := laneCount_two_pow t
  obtain ⟨hv, hf⟩ := treeReduce_level step (enters s k t a ident) depth 0 6 hdepth
  rw [hn, Nat.zero_add] at hv
  simp only [hn, Nat.zero_add] at hf
  have hlt := treeVal_lt step (enters_lt (s := s) (k := k) (a := a) hi) hs depth 0
  exact ⟨_, _, reduces_of_redEff h (hv ▸ hlt), treeVal step (enters s k t a ident), treeFlag step (enters s k t a ident), fun _ _ => rfl, fun _ _ => ⟨rfl, rfl⟩,
    depth, hn, hv, fun b _ => hf b⟩

/-- A reduction by an associative step without flags is the fold over what its lanes stand for. -/
theorem fold_of_redEff {α : Type} {g : α → α → α} {val : Nat → α} {e : α} (h : exec i s = redEff d a l k t ident step s) (hi : ident < 2 ^ laneWidth t)
    (hfl : ∀ x y, (step x y).2 = 0) (ha : ∀ x y z, g (g x y) z = g x (g y z))
    (hs : ∀ x y, x < 2 ^ laneWidth t → y < 2 ^ laneWidth t → (step x y).1 < 2 ^ laneWidth t ∧ val (step x y).1 = g (val x) (val y))
    (he : ∀ x, x < 2 ^ laneWidth t → g e (val x) = val x) :
    ∃ v, Reduces s i t d a l v 0 ∧ val v = (((List.range (laneCount t)).map (enters s k t a ident)).map val).foldl g e := by
  have hlen : ((List.range (laneCount t)).map (enters s k t a ident)).length = laneCount t := by simp
  have hcount := laneCount_even t
  have hle := laneCount_le t
  obtain ⟨hlt, hval⟩ := val_treeReduce step ha hs he 6 ((List.range (laneCount t)).map (enters s k t a ident)) (by omega) (by omega) (by
    intro x hx
    obtain ⟨j, -, rfl⟩ := List.mem_map.mp hx
    exact enters_lt hi j)
  exact ⟨_, treeReduce_flags step hfl 6 _ ▸ reduces_of_redEff h hlt, hval⟩

end Reduction

/-! Lanes as integers (R109). -/

/-- A lane's bits as the integer that its type says. -/
def intOf (t : TypeCode) (n : Nat) : Int := if isSigned t then (BitVec.ofNat (laneWidth t) n).toInt else n

/-- The least and the greatest integer of a lane type. -/
def intLo (t : TypeCode) : Int := if isSigned t then -(2 ^ (laneWidth t - 1) : Int) else 0
def intHi (t : TypeCode) : Int := if isSigned t then 2 ^ (laneWidth t - 1) - 1 else 2 ^ laneWidth t - 1

theorem intRange_eq (t : TypeCode) : intRange t = (intLo t, intHi t) := by
  unfold intRange intLo intHi
  split <;> rfl

theorem intLo_le_intHi (t : TypeCode) : intLo t ≤ intHi t := by
  have h1 : (0 : Int) < 2 ^ (laneWidth t - 1) := by positivity
  have h2 : (0 : Int) < 2 ^ laneWidth t := by positivity
  unfold intLo intHi
  split <;> omega

/-- No integer type is a floating one (R15). -/
theorem not_isFloat_of_isInt : ∀ t : TypeCode, isInt t = true → ¬ isFloat t = true := by decide

theorem intLane_eq_intOf (t : TypeCode) (x : Strip) (i : Nat) : intLane t x i = intOf t (lane (laneWidth t) x i) := rfl

theorem intOf_cond (t : TypeCode) {n : Nat} (h : n < 2 ^ laneWidth t) :
    intOf t n = if isSigned t ∧ 2 ^ (laneWidth t - 1) ≤ n then (n : Int) - 2 ^ laneWidth t else n := by
  by_cases hs : isSigned t = true
  · simp only [intOf, hs, if_true, true_and, toInt_eq_of_pos (laneWidth_pos t), BitVec.toNat_ofNat, Nat.mod_eq_of_lt h, ← Nat.not_lt, ite_not]
  · simp [intOf, hs]

/-- A lane's width as twice the half of its range. -/
theorem two_pow_laneWidth (t : TypeCode) : (2 : Int) ^ laneWidth t = 2 * 2 ^ (laneWidth t - 1) := by
  rw [← pow_succ', Nat.sub_add_cancel (laneWidth_pos t)]

theorem intOf_mem_range (t : TypeCode) {n : Nat} (h : n < 2 ^ laneWidth t) : intLo t ≤ intOf t n ∧ intOf t n ≤ intHi t := by
  have hw := two_pow_laneWidth t
  have h' : (n : Int) < 2 ^ laneWidth t := by exact_mod_cast h
  rw [intOf_cond t h]
  by_cases hs : isSigned t = true
  · have hle : (2 ^ (laneWidth t - 1) ≤ n) ↔ ((2 : Int) ^ (laneWidth t - 1) ≤ n) := by exact_mod_cast Iff.rfl
    simp only [intLo, intHi, hs, if_true, true_and, hle]
    split <;> omega
  · simp only [intLo, intHi, hs, if_false, false_and, Bool.false_eq_true]
    omega

/-- A wrapped integer is its remainder. -/
theorem cast_wrapLane (w : Nat) (n : Int) : (wrapLane w n : Int) = n % 2 ^ w :=
  Int.toNat_of_nonneg (Int.emod_nonneg _ (by positivity))

theorem wrapLane_lt (w : Nat) (n : Int) : wrapLane w n < 2 ^ w := by
  zify
  rw [cast_wrapLane]
  exact Int.emod_lt_of_pos n (by positivity)

/-- A lane's integer is the lane modulo the lane width. -/
theorem intOf_emod (t : TypeCode) {n : Nat} (h : n < 2 ^ laneWidth t) : intOf t n % 2 ^ laneWidth t = n := by
  have h' : (n : Int) < 2 ^ laneWidth t := by exact_mod_cast h
  rw [intOf_cond t h]
  split
  · rw [Int.sub_emod_right]
    exact Int.emod_eq_of_lt (Int.natCast_nonneg n) h'
  · exact Int.emod_eq_of_lt (Int.natCast_nonneg n) h'

theorem wrapLane_intOf (t : TypeCode) {n : Nat} (h : n < 2 ^ laneWidth t) : wrapLane (laneWidth t) (intOf t n) = n := by
  zify
  rw [cast_wrapLane, intOf_emod t h]

/-- The bits of an integer of the range stand for it. -/
theorem intOf_wrapLane (t : TypeCode) {n : Int} (hlo : intLo t ≤ n) (hhi : n ≤ intHi t) : intOf t (wrapLane (laneWidth t) n) = n := by
  have hw := two_pow_laneWidth t
  have hlt := wrapLane_lt (laneWidth t) n
  have hx := cast_wrapLane (laneWidth t) n
  rw [intOf_cond t hlt]
  by_cases hs : isSigned t = true
  · simp only [intLo, intHi, hs, if_true] at hlo hhi
    have hle : (2 ^ (laneWidth t - 1) ≤ wrapLane (laneWidth t) n) ↔ ((2 : Int) ^ (laneWidth t - 1) ≤ n % 2 ^ laneWidth t) := by
      rw [← hx]
      exact_mod_cast Iff.rfl
    simp only [hs, true_and, hle, hx]
    rcases Int.lt_or_le n 0 with hn | hn
    · rw [← Int.add_emod_right, Int.emod_eq_of_lt (by omega) (by omega), if_pos (by omega)]
      omega
    · rw [Int.emod_eq_of_lt hn (by omega), if_neg (by omega)]
  · simp only [intLo, intHi, hs, if_false, Bool.false_eq_true] at hlo hhi
    simp only [hs, false_and, if_false, hx, Bool.false_eq_true]
    exact Int.emod_eq_of_lt hlo (by omega)

/-- A step of an integer reduction works on the lanes' integers (R109). -/
theorem intStep_eq (t : TypeCode) (g : Int → Int → Int) {x y : Nat} (hx : x < 2 ^ laneWidth t) (hy : y < 2 ^ laneWidth t) :
    (intStep t g x y).1 = wrapLane (laneWidth t) (g (intOf t x) (intOf t y)) := by
  rw [intOf_cond t hx, intOf_cond t hy]
  rfl

/-! Integer reductions. -/

section IntReduction

variable {s : State} {i : Instr} {d a : BitVec 3} {l : BitVec 1} {k : BitVec 2} {t : TypeCode}

/-- The integers that enter a reduction, those of the active lanes and `e` for the others. -/
def intEnters (s : State) (k : BitVec 2) (t : TypeCode) (a : BitVec 3) (e : Int) (j : Nat) : Int := if (s.k k).getLsbD j then intLane t (s.o a) j else e

/-- Addition modulo `c`, folded, is the sum's remainder. -/
theorem foldl_add_emod (c z : Int) (xs : List Int) : (xs.foldl (fun x y => (x + y) % c) z) % c = (z + xs.sum) % c := by
  induction xs generalizing z with
  | nil => simp
  | cons x xs ih => rw [List.foldl_cons, ih, Int.emod_add_emod, List.sum_cons, add_assoc]

/-- Sums of terms that agree modulo `c` agree modulo `c`. -/
theorem sum_emod_congr {c : Int} {f g : Nat → Int} (h : ∀ j, f j % c = g j % c) (xs : List Nat) : (xs.map f).sum % c = (xs.map g).sum % c := by
  induction xs with
  | nil => rfl
  | cons x xs ih => rw [List.map_cons, List.map_cons, List.sum_cons, List.sum_cons, Int.add_emod, h, ih, ← Int.add_emod]

/-- What enters for a lane agrees with its integer modulo the lane width. -/
theorem enters_emod (j : Nat) : ((enters s k t a 0 j : Nat) : Int) % 2 ^ laneWidth t = intEnters s k t a 0 j % 2 ^ laneWidth t := by
  unfold enters intEnters
  split
  · rw [intLane_eq_intOf, intOf_emod t (lane_lt ..)]
    exact Int.emod_eq_of_lt (Int.natCast_nonneg _) (by exact_mod_cast lane_lt ..)
  · rfl

/-- The wrapped sum of the active lanes. -/
theorem reduces_sum (h : exec i s = redEff d a l k t 0 (intStep t (· + ·)) s) :
    Reduces s i t d a l (((List.range (laneCount t)).map (intEnters s k t a 0)).sum % 2 ^ laneWidth t).toNat 0 := by
  obtain ⟨v, hred, hv⟩ := fold_of_redEff (g := fun x y => (x + y) % 2 ^ laneWidth t) (val := fun n => (n : Int)) (e := 0) h (Nat.two_pow_pos _) (fun _ _ => rfl)
    (fun x y z => by rw [Int.emod_add_emod, Int.add_emod_emod, add_assoc])
    (fun x y hx hy => ⟨wrapLane_lt _ _, by rw [intStep_eq t _ hx hy, cast_wrapLane, Int.add_emod, intOf_emod t hx, intOf_emod t hy]⟩)
    (fun x hx => by rw [zero_add]; exact Int.emod_eq_of_lt (Int.natCast_nonneg x) (by exact_mod_cast hx))
  have hsum : (v : Int) = ((List.range (laneCount t)).map (intEnters s k t a 0)).sum % 2 ^ laneWidth t := by
    calc (v : Int) = v % 2 ^ laneWidth t := (Int.emod_eq_of_lt (Int.natCast_nonneg v) (by exact_mod_cast hred.1)).symm
      _ = ((List.range (laneCount t)).map fun j => (enters s k t a 0 j : Int)).sum % 2 ^ laneWidth t := by
        rw [hv, foldl_add_emod, zero_add, List.map_map]
        rfl
      _ = _ := sum_emod_congr enters_emod _
  rw [← hsum, Int.toNat_natCast]
  exact hred

/-- The least or the greatest integer of the active lanes: one of two by each step, `e` being the end of the range that gives way to any other. -/
theorem reduces_pick {g : Int → Int → Int} {e : Int} (h : exec i s = redEff d a l k t (wrapLane (laneWidth t) e) (intStep t g) s) (hlo : intLo t ≤ e) (hhi : e ≤ intHi t)
    (ha : ∀ x y z, g (g x y) z = g x (g y z)) (hg : ∀ x y, g x y = x ∨ g x y = y) (he : ∀ x, intLo t ≤ x → x ≤ intHi t → g e x = x) :
    Reduces s i t d a l (wrapLane (laneWidth t) (((List.range (laneCount t)).map (intEnters s k t a e)).foldl g e)) 0 := by
  obtain ⟨v, hred, hv⟩ := fold_of_redEff (g := g) (val := intOf t) (e := e) h (wrapLane_lt ..) (fun _ _ => rfl) ha
    (fun x y hx hy => by
      rw [intStep_eq t _ hx hy]
      refine ⟨wrapLane_lt .., ?_⟩
      obtain ⟨hxl, hxh⟩ := intOf_mem_range t hx
      obtain ⟨hyl, hyh⟩ := intOf_mem_range t hy
      rcases hg (intOf t x) (intOf t y) with hp | hp <;> rw [hp]
      · exact intOf_wrapLane t hxl hxh
      · exact intOf_wrapLane t hyl hyh)
    (fun x hx => he _ (intOf_mem_range t hx).1 (intOf_mem_range t hx).2)
  have hent : ∀ j, intOf t (enters s k t a (wrapLane (laneWidth t) e) j) = intEnters s k t a e j := by
    intro j
    unfold enters intEnters
    split
    · rfl
    · exact intOf_wrapLane t hlo hhi
  rw [List.map_map, show intOf t ∘ enters s k t a (wrapLane (laneWidth t) e) = intEnters s k t a e from funext hent] at hv
  rw [← hv, wrapLane_intOf t hred.1]
  exact hred

/-- The bitwise combination of the active lanes. -/
theorem reduces_bits {g : Nat → Nat → Nat} {e : Nat} (h : exec i s = redEff d a l k t e (fun x y => (g x y, 0)) s) (hi : e < 2 ^ laneWidth t)
    (ha : ∀ x y z, g (g x y) z = g x (g y z)) (hg : ∀ x y, x < 2 ^ laneWidth t → y < 2 ^ laneWidth t → g x y < 2 ^ laneWidth t)
    (he : ∀ x, x < 2 ^ laneWidth t → g e x = x) :
    Reduces s i t d a l (((List.range (laneCount t)).map (enters s k t a e)).foldl g e) 0 := by
  obtain ⟨v, hred, hv⟩ := fold_of_redEff (g := g) (val := id) (e := e) h hi (fun _ _ => rfl) ha (fun x y hx hy => ⟨hg x y hx hy, rfl⟩) he
  rw [List.map_id] at hv
  exact hv ▸ hred

end IntReduction

/-! Moves (R104). -/

/-- An o register written without a source, retired. -/
theorem setO_only_retire (s : State) (len : Nat) (d : BitVec 3) (v : Strip) : RetiresSeq len s ((s.setO d v).retire len).issued (withO s.act.regs d v) (withLive s.act.csr d) := by
  rw [State.setO_eq]
  exact retire_spec s len (withO s.act.regs d v) (withLive s.act.csr d)

theorem useO_eq_setAct (s : State) (src : List (BitVec 3 × BitVec 1)) : s.useO src = s.setAct { s.act with csr := usedO s src } := rfl

/-- The o sources read and an o register written, retired. -/
theorem useO_setO_retire (s : State) (src : List (BitVec 3 × BitVec 1)) (len : Nat) (d : BitVec 3) (v : Strip) :
    RetiresSeq len s (((s.useO src).setO d v).retire len).issued (withO s.act.regs d v) (withLive (usedO s src) d) := by
  rw [useO_eq_setAct, State.setO_eq, State.act_setAct, State.setAct_setAct]
  exact retire_spec s len (withO s.act.regs d v) (withLive (usedO s src) d)

/-- The o sources read and a v register written, retired. -/
theorem useO_setV_retire (s : State) (src : List (BitVec 3 × BitVec 1)) (len : Nat) (d : BitVec 5) (v : Strip) :
    RetiresSeq len s (((s.useO src).setV d v).retire len).issued (withV s.act.regs d v) (usedO s src) := by
  rw [useO_eq_setAct, State.setV_eq, State.act_setAct, State.setAct_setAct]
  exact retire_spec s len (withV s.act.regs d v) (usedO s src)

/-- The o sources read and a general register written, retired. -/
theorem useO_setG_retire (s : State) (src : List (BitVec 3 × BitVec 1)) (len : Nat) (d : BitVec 5) (v : Word) :
    RetiresSeq len s (((s.useO src).setG d v).retire len).issued (withG s.act.regs d v) (usedO s src) := by
  rw [useO_eq_setAct, State.setG_eq, State.act_setAct, State.setAct_setAct]
  exact retire_spec s len (withG s.act.regs d v) (usedO s src)

/-- The word that `vext` reads is the lane's integer. -/
theorem extLane_eq (t : TypeCode) (x : Strip) (i : Nat) : extLane t x i = BitVec.ofInt 64 (intLane t x i) := by
  have h := laneVal_eq_intLane t x i
  unfold extLane
  split
  · next hs => rw [← h, laneVal, if_pos hs]
  · next hs => rw [← h, laneVal, if_neg hs, BitVec.ofInt_natCast]

/-- The lanes of a register built from as many values as the type has lanes. -/
theorem lane_ofNat_ofLanes (t : TypeCode) (xs : List Nat) (hx : xs.length = laneCount t) (i : Nat) :
    lane (laneWidth t) (BitVec.ofNat 256 (ofLanes (laneWidth t) xs)) i = xs.getD i 0 % 2 ^ laneWidth t :=
  lane_ofLanes _ _ (hx ▸ laneWidth_mul t) i

/-- What `kmov` reads of a mask, k0 reading all ones (R27). -/
theorem zext_k (s : State) (k : BitVec 2) : zext (s.k k) = if k = 0 then 0xFFFFFFFF else (s.act.regs.k[k.toNat]).setWidth 64 := by
  unfold State.k
  split
  · rfl
  · rfl

/-! Which step and identity a reduction takes by its lane type (R112). -/

section ByType

variable {s : State} {d a : BitVec 3} {l : BitVec 1} {k : BitVec 2} {t : TypeCode}

theorem exec_vrsum_float (hf : isFloat t = true) : exec (.vrsum d a l k t) s =
    redEff d a l k t ((fmtOf t).signBit true) (fun x y => (numAdd 0 ((fmtOf t).decode x) ((fmtOf t).decode y)).to (fmtOf t) 0) s := if_pos hf

theorem exec_vrmin_float (hf : isFloat t = true) : exec (.vrmin d a l k t) s = redEff d a l k t ((fmtOf t).infBits false) (fminBits (fmtOf t)) s := if_pos hf

theorem exec_vrmax_float (hf : isFloat t = true) : exec (.vrmax d a l k t) s = redEff d a l k t ((fmtOf t).infBits true) (fmaxBits (fmtOf t)) s := if_pos hf

theorem exec_vrsum_int (hi : isInt t = true) : exec (.vrsum d a l k t) s = redEff d a l k t 0 (intStep t (· + ·)) s := if_neg (not_isFloat_of_isInt t hi)

theorem exec_vrmin_int (hi : isInt t = true) : exec (.vrmin d a l k t) s = redEff d a l k t (wrapLane (laneWidth t) (intHi t)) (intStep t min) s := by
  rw [show intHi t = (intRange t).2 from (congrArg Prod.snd (intRange_eq t)).symm]
  exact if_neg (not_isFloat_of_isInt t hi)

theorem exec_vrmax_int (hi : isInt t = true) : exec (.vrmax d a l k t) s = redEff d a l k t (wrapLane (laneWidth t) (intLo t)) (intStep t max) s := by
  rw [show intLo t = (intRange t).1 from (congrArg Prod.fst (intRange_eq t)).symm]
  exact if_neg (not_isFloat_of_isInt t hi)

end ByType

/-- Settles O30: a permute names lanes of the pair of its sources; a reduction is the tree, and for integers the fold of an associative step; a move writes one register. -/
theorem laneMoves : Obligations.LaneMoves := by
  refine ⟨fun s d a b l m k t _ => ?_, fun s d a l k t _ => ⟨fun hf => ?_, fun hi => ?_⟩, fun s v g o o' l n k t _ hn => ?_⟩
  · obtain ⟨hpos, heven⟩ := laneCount_even t
    refine ⟨vec_of_permEff rfl fun j hj => ?_, vec_of_permEff rfl fun j hj => ?_, vec_of_permEff rfl fun j hj => ?_, vec_of_permEff rfl fun j hj => ?_,
      vec_of_permEff rfl fun j hj => ?_, vec_of_permEff rfl fun j hj => rfl, vec_of_permEff rfl fun j hj => rfl⟩
    · exact if_pos (Nat.mod_lt _ hpos)
    · exact if_pos (Nat.mod_lt _ hpos)
    · exact if_pos (by omega)
    · rcases Nat.mod_two_eq_zero_or_one j with h | h
      · simp only [h, if_true]
        rw [if_pos (by omega)]
      · simp only [h, Nat.one_ne_zero, if_false]
        rw [if_neg (by omega), Nat.add_sub_cancel_left, show j / 2 = (j - 1) / 2 by omega]
    · rcases Nat.mod_two_eq_zero_or_one j with h | h
      · simp only [h, if_true]
        rw [if_pos (by omega), Nat.add_comm]
      · simp only [h, Nat.one_ne_zero, if_false]
        rw [if_neg (by omega), show laneCount t + j / 2 + laneCount t / 2 - laneCount t = laneCount t / 2 + (j - 1) / 2 by omega]
  · have hw := laneWidth_eq_fmt t hf
    have hok := fmtOk_fmtOf t
    refine ⟨tree_of_redEff (exec_vrsum_float hf) (hw ▸ signBit_lt true) fun p q _ _ => hw ▸ exact_to_lt hok _ _,
      tree_of_redEff (exec_vrmin_float hf) (hw ▸ infBits_lt false) fun p q hp hq => ?_, tree_of_redEff (exec_vrmax_float hf) (hw ▸ infBits_lt true) fun p q hp hq => ?_⟩
    · rw [← hw] at hp hq ⊢
      exact fminBits_lt hok hp hq
    · rw [← hw] at hp hq ⊢
      exact fmaxBits_lt hok hp hq
  · have hle := intLo_le_intHi t
    refine ⟨reduces_sum (exec_vrsum_int hi), ?_, ?_, ?_, ?_, ?_⟩
    · exact reduces_pick (exec_vrmin_int hi) hle (Int.le_refl _) min_assoc min_choice fun x _ hx => min_eq_right hx
    · exact reduces_pick (exec_vrmax_int hi) (Int.le_refl _) hle max_assoc max_choice fun x hx _ => max_eq_right hx
    · exact reduces_bits rfl (Nat.sub_lt (Nat.two_pow_pos _) Nat.one_pos) Nat.land_assoc (fun x y _ hy => Nat.and_lt_two_pow x hy) fun x hx => by
        rw [Nat.land_comm, Nat.and_two_pow_sub_one_of_lt_two_pow hx]
    · exact reduces_bits rfl (Nat.two_pow_pos _) Nat.lor_assoc (fun x y hx hy => Nat.or_lt_two_pow hx hy) fun x _ => Nat.zero_or x
    · exact reduces_bits rfl (Nat.two_pow_pos _) Nat.xor_assoc (fun x y hx hy => Nat.xor_lt_two_pow hx hy) fun x _ => Nat.zero_xor x
  · refine ⟨⟨_, rfl, setO_only_retire s 4 o _⟩, ⟨_, rfl, setO_only_retire s 2 o _⟩, ⟨_, rfl, useO_setV_retire s _ 4 v _⟩, ⟨_, rfl, useO_setV_retire s _ 2 v _⟩,
      ⟨_, rfl, useO_setO_retire s _ 4 o _⟩, ⟨_, ⟨_, rfl, setO_only_retire s 4 o _⟩, fun i hi => ?_⟩, ⟨_, rfl, ?_⟩, ⟨_, ⟨_, rfl, setO_only_retire s 4 o _⟩, fun i hi => ?_⟩,
      ⟨_, rfl, setK_only_retire s 4 k _⟩, ⟨_, rfl, ?_⟩⟩
    · rw [lane_ofNat_ofLanes t _ List.length_replicate]
      simp [hi]
    · rw [extLane_eq]
      exact useO_setG_retire s _ 4 g _
    · rw [lane_ofNat_ofLanes t _ (by simp), List.getD_eq_getElem?_getD, List.getElem?_map, List.getElem?_range hi]
      simp only [Option.map_some, Option.getD_some]
      split
      · rfl
      · exact Nat.mod_eq_of_lt (lane_lt ..)
    · rw [← zext_k]
      exact setG_retire s 4 g _

end Sys2Proof.Safety
end

section
/-! PROOFS. The checks of near and PC-relative accesses, in order (R32, R38). -/

namespace Sys2Proof.Safety

open Sys2Proof.Machine

/-! The granules of an access, lowest first (R32, R254, R258). -/

/-- A granule that passes leaves the decision to those behind it. -/
theorem firstBad_cons_of_ok {s : State} {store : Bool} {a n g : Nat} (gs : List Nat) (h : GranuleOk s store a n g) :
    s.here.mem.firstBad s.at_ s.key store a n (g :: gs) = s.here.mem.firstBad s.at_ s.key store a n gs := by
  rw [LocalMem.firstBad]
  split
  · rfl
  · next hs =>
    rcases h with ⟨rfl, hp, ha, hn⟩ | ⟨hb, hp, ht⟩
    · exact absurd (by simp [hp, covers, ha, hn]) hs
    · simp [hb, hp, ht]

/-- The first granule that does not pass decides, by an error or a mark, else by its tag. -/
theorem firstBad_cons_of_not_ok {s : State} {store : Bool} {a n g : Nat} (gs : List Nat) (h : ¬ GranuleOk s store a n g) :
    s.here.mem.firstBad s.at_ s.key store a n (g :: gs) = some (if g ∈ s.here.mem.bad ∨ g ∈ s.here.mem.poison then cEccu else cKeyTag, 16 * g) := by
  have hwhole : ¬ (store && s.here.mem.poison.contains g && covers a n g) = true := fun hs => h (.inl (by
    simpa [covers, and_assoc] using hs))
  rw [LocalMem.firstBad, if_neg hwhole]
  by_cases hb : g ∈ s.here.mem.bad ∨ g ∈ s.here.mem.poison
  · rw [if_pos (by simpa using hb), if_pos hb]
  · have ht : ¬ s.here.mem.tagOk s.at_ s.key g = true := fun ht => h (.inr ⟨fun hm => hb (.inl hm), fun hm => hb (.inr hm), ht⟩)
    rw [if_neg (by simpa using hb), if_neg ht, if_neg hb]

/-- Granules that all pass. -/
theorem firstBad_eq_none {s : State} {store : Bool} {a n : Nat} {gs : List Nat} (h : ∀ g ∈ gs, GranuleOk s store a n g) :
    s.here.mem.firstBad s.at_ s.key store a n gs = none := by
  induction gs with
  | nil => rfl
  | cons g gs ih => rw [firstBad_cons_of_ok gs (h g List.mem_cons_self), ih fun x hx => h x (List.mem_cons_of_mem g hx)]

/-- Granules that pass before the first one that does not. -/
theorem firstBad_append {s : State} {store : Bool} {a n g : Nat} {gs : List Nat} (l : List Nat) (h : ∀ x ∈ gs, GranuleOk s store a n x) :
    s.here.mem.firstBad s.at_ s.key store a n (gs ++ g :: l) = s.here.mem.firstBad s.at_ s.key store a n (g :: l) := by
  induction gs with
  | nil => rfl
  | cons x gs ih => rw [List.cons_append, firstBad_cons_of_ok _ (h x List.mem_cons_self), ih fun y hy => h y (List.mem_cons_of_mem x hy)]

/-- The granules of an access rise. -/
theorem granules_pairwise (a n : Nat) : (granules a n).Pairwise (· < ·) := by
  unfold granules
  split
  · exact .nil
  · exact List.pairwise_map.mpr (List.pairwise_lt_range.imp fun h => Nat.add_lt_add_left h _)

/-- The check of an access whose granules all pass. -/
theorem check_eq_none {s : State} {store : Bool} {a n : Nat} (h : ∀ g, a / 16 ≤ g → g ≤ (a + n - 1) / 16 → GranuleOk s store a n g) :
    s.here.mem.check s.at_ s.key store a n = none :=
  firstBad_eq_none fun g hg => by
    obtain ⟨-, hlo, hhi⟩ := (mem_granules a n g).mp hg
    exact h g hlo hhi

/-- The check of an access whose lowest failing granule is `g`. -/
theorem check_eq_some {s : State} {store : Bool} {a n g : Nat} (hn : n ≠ 0) (hlo : a / 16 ≤ g) (hhi : g ≤ (a + n - 1) / 16)
    (hok : ∀ h, a / 16 ≤ h → h < g → GranuleOk s store a n h) (hbad : ¬ GranuleOk s store a n g) :
    s.here.mem.check s.at_ s.key store a n = some (if g ∈ s.here.mem.bad ∨ g ∈ s.here.mem.poison then cEccu else cKeyTag, 16 * g) := by
  obtain ⟨l₁, l₂, hl⟩ := List.append_of_mem ((mem_granules a n g).mpr ⟨hn, hlo, hhi⟩)
  have hbefore : ∀ x ∈ l₁, GranuleOk s store a n x := fun x hx => by
    have hx' : x ∈ granules a n := hl ▸ List.mem_append_left _ hx
    have hlt := (List.pairwise_append.mp (hl ▸ granules_pairwise a n)).2.2 x hx g List.mem_cons_self
    exact hok x ((mem_granules a n x).mp hx').2.1 hlt
  rw [LocalMem.check, hl, firstBad_append l₂ hbefore, firstBad_cons_of_not_ok l₂ hbad]

/-! The checks of an access (R32, R38). -/

/-- An access that passes every check of R32. -/
theorem nearCheck_of_nearOk {s : State} {store : Bool} {ea : Word} {n align : Nat} (hn : n ≠ 0) (h : NearOk s store ea.toNat n align) :
    s.nearCheck store ea n align = none := by
  obtain ⟨hend, halign, hok⟩ := h
  simp only [State.nearCheck]
  rw [if_neg (by omega), if_neg (by omega), if_neg (by omega), check_eq_none hok]
  rfl

/-- The first failing check of R32 is the trap that the access takes. -/
theorem nearCheck_of_nearFails {s : State} {store : Bool} {ea : Word} {n align : Nat} {t : Trap} (hn : n ≠ 0) (h : NearFails s store ea n align t) :
    s.nearCheck store ea n align = some t := by
  simp only [State.nearCheck]
  rcases h with ⟨hend, rfl⟩ | ⟨hend, halign, rfl⟩ | ⟨hend, halign, hover, rfl⟩ | ⟨hend, halign, g, hlo, hhi, hok, hbad, rfl⟩
  · rw [if_pos hend]
    rfl
  · rw [if_neg (by omega), if_pos halign]
    rfl
  · rw [if_neg (by omega), if_neg (by omega), if_pos hover]
    rfl
  · rw [if_neg (by omega), if_neg (by omega), if_neg (by omega), check_eq_some hn hlo hhi hok hbad]
    rfl

/-- An access that passes every check of R38. -/
theorem imemCheck_of_imemOk {s : State} {ea : Word} {n align : Nat} (hn : n ≠ 0) (h : ImemOk s ea.toNat n align) : s.imemCheck ea n align = none := by
  obtain ⟨hend, halign, hok⟩ := h
  simp only [State.imemCheck]
  rw [if_neg (by omega), if_neg (by omega), if_neg (by omega), if_neg]
  simpa using fun x hx => by simpa using hok x hx

/-- The first failing check of R38 is the trap that the access takes. -/
theorem imemCheck_of_imemFails {s : State} {ea : Word} {n align : Nat} {t : Trap} (hn : n ≠ 0) (h : ImemFails s ea n align t) : s.imemCheck ea n align = some t := by
  simp only [State.imemCheck]
  rcases h with ⟨hend, rfl⟩ | ⟨hend, halign, rfl⟩ | ⟨hend, halign, hover, rfl⟩ | ⟨hend, halign, ⟨x, hx, hx'⟩, rfl⟩
  · rw [if_pos hend]
    rfl
  · rw [if_neg (by omega), if_pos halign]
    rfl
  · rw [if_neg (by omega), if_neg (by omega), if_pos hover]
    rfl
  · rw [if_neg (by omega), if_neg (by omega), if_neg (by omega), if_pos]
    · rfl
    · exact List.any_eq_true.mpr ⟨x, hx, by simpa using hx'⟩

/-! Loads and stores (R87 to R89, R103). -/

/-- A number as `n` bytes has `n` bytes. -/
theorem leBytes_length (n x : Nat) : (leBytes n x).length = n := by
  induction n generalizing x with
  | zero => rfl
  | succ n ih => rw [leBytes, List.length_cons, ih]

/-- A near load whose checks fail takes the trap of the first one that does. -/
theorem traps_of_loadEff_near {i : Instr} {s : State} {len n : Nat} {b : BitVec 5} {off : Word} {f : State → Nat → State} {t : Trap} (hb : b ≠ 0) (hn : n ≠ 0)
    (h : exec i s = finish len s (loadEff b off n f s)) (hf : NearFails s false (s.g b + off) n n t) : Traps i t s := by
  have hea : s.ea b off = s.g b + off := by simp only [State.ea, if_neg hb]
  rw [Traps, h, loadEff, hea, State.load, if_neg hb, nearCheck_of_nearFails hn hf]
  rfl

/-- A PC-relative load whose checks fail takes the trap of the first one that does. -/
theorem traps_of_loadEff_imem {i : Instr} {s : State} {len n : Nat} {off : Word} {f : State → Nat → State} {t : Trap} (hn : n ≠ 0)
    (h : exec i s = finish len s (loadEff 0 off n f s)) (hf : ImemFails s (s.pc + off) n n t) : Traps i t s := by
  have hea : s.ea 0 off = s.pc + off := by simp only [State.ea, if_pos]
  rw [Traps, h, loadEff, hea, State.load, if_pos rfl, imemCheck_of_imemFails hn hf]
  rfl

/-- A near store whose checks fail takes the trap of the first one that does. -/
theorem traps_of_storeEff {i : Instr} {s : State} {len n x : Nat} {b : BitVec 5} {off : Word} {t : Trap} (hn : n ≠ 0)
    (h : exec i s = finish len s (storeEff b off n x s)) (hf : NearFails s true (s.g b + off) n n t) : Traps i t s := by
  have hlen : (leBytes n x).length = n := leBytes_length n x
  rw [Traps, h, storeEff, State.store, hlen, nearCheck_of_nearFails hn hf]
  rfl

/-- Settles O13: every load and store is one access by the checks above. -/
theorem nearAccessChecks : Obligations.NearAccessChecks := by
  refine ⟨fun s d b o t hb => ?near, fun s d o t => ?imem⟩
  case near =>
    exact ⟨fun h => ⟨traps_of_loadEff_near hb (by decide) rfl h, traps_of_loadEff_near hb (by decide) rfl h⟩,
      fun h => ⟨traps_of_loadEff_near hb (by decide) rfl h, traps_of_loadEff_near hb (by decide) rfl h⟩,
      fun h => ⟨traps_of_loadEff_near hb (by decide) rfl h, traps_of_loadEff_near hb (by decide) rfl h⟩,
      fun h => traps_of_loadEff_near hb (by decide) rfl h,
      fun h => ⟨traps_of_loadEff_near hb (by decide) rfl h, traps_of_loadEff_near hb (by decide) rfl h⟩,
      fun h => traps_of_loadEff_near hb (by decide) rfl h,
      fun h => traps_of_storeEff (by decide) rfl h, fun h => traps_of_storeEff (by decide) rfl h,
      fun h => traps_of_storeEff (by decide) rfl h, fun h => traps_of_storeEff (by decide) rfl h,
      fun h => ⟨traps_of_storeEff (by decide) rfl h, traps_of_storeEff (by decide) rfl h⟩,
      fun h => traps_of_storeEff (by decide) rfl h⟩
  case imem =>
    exact ⟨fun h => ⟨traps_of_loadEff_imem (by decide) rfl h, traps_of_loadEff_imem (by decide) rfl h⟩,
      fun h => ⟨traps_of_loadEff_imem (by decide) rfl h, traps_of_loadEff_imem (by decide) rfl h⟩,
      fun h => ⟨traps_of_loadEff_imem (by decide) rfl h, traps_of_loadEff_imem (by decide) rfl h⟩,
      fun h => traps_of_loadEff_imem (by decide) rfl h,
      fun h => ⟨traps_of_loadEff_imem (by decide) rfl h, traps_of_loadEff_imem (by decide) rfl h⟩,
      fun h => traps_of_loadEff_imem (by decide) rfl h⟩

end Sys2Proof.Safety
end

section
/-! PROOFS. Bytes of words, and the accumulator banks (R132, R136). -/

namespace Sys2Proof.Safety

open Sys2Proof.Machine

/-! Bytes of a word in memory (R2). -/

/-- A byte of a number in memory order. -/
theorem leBytes_getD {n x i : Nat} (h : i < n) : (leBytes n x).getD i 0 = BitVec.ofNat 8 (x / 256 ^ i) := by
  induction n generalizing x i with
  | zero => exact absurd h (Nat.not_lt_zero i)
  | succ n ih =>
    cases i with
    | zero => simp [leBytes]
    | succ i => rw [leBytes, List.getD_cons_succ, ih (Nat.lt_of_succ_lt_succ h), Nat.div_div_eq_div_mul, Nat.pow_succ']

/-- A byte of a word in memory order. -/
theorem leBytes_toNat_getD {w n i : Nat} (x : BitVec w) (h : i < n) : (leBytes n x.toNat).getD i 0 = byteOf x i := by
  rw [leBytes_getD h]
  apply BitVec.eq_of_toNat_eq
  rw [byteOf, BitVec.extractLsb'_toNat, BitVec.toNat_ofNat, Nat.shiftRight_eq_div_pow, Nat.pow_mul]

/-- A byte of the value of some bytes. -/
theorem leNat_byte (bs : List Byte) (i : Nat) : BitVec.ofNat 8 (leNat bs / 256 ^ i) = bs.getD i 0 := by
  induction bs generalizing i with
  | nil => simp [leNat]
  | cons b bs ih =>
    have hb : b.toNat < 256 := b.isLt
    cases i with
    | zero =>
      apply BitVec.eq_of_toNat_eq
      rw [leNat, BitVec.toNat_ofNat, List.getD_cons_zero]
      omega
    | succ i => rw [leNat, List.getD_cons_succ, ← ih i, Nat.pow_succ', ← Nat.div_div_eq_div_mul, Nat.add_mul_div_left _ _ (by decide), Nat.div_eq_of_lt hb, Nat.zero_add]

/-- A byte of a word read from memory. -/
theorem byteOf_memBits (m : Memory) (a : Nat) {n w j : Nat} (hj : j < n) (hw : 8 * n ≤ w) : byteOf (memBits m a n w) j = memByte m (a + j) := by
  rw [← memRead_getD m a n j hj, ← leNat_byte (memRead m a n) j]
  apply BitVec.eq_of_toNat_eq
  have hmod : 2 ^ w = 2 ^ (8 * j) * (2 ^ 8 * 2 ^ (w - 8 * j - 8)) := by
    rw [← pow_add, ← pow_add]
    congr 1
    omega
  rw [byteOf, BitVec.extractLsb'_toNat, memBits, memNat, BitVec.toNat_ofNat, BitVec.toNat_ofNat, Nat.shiftRight_eq_div_pow, hmod, Nat.mod_mul_right_div_self,
    Nat.mod_mul_right_mod, Nat.pow_mul]

/-- A byte after a word was stored. -/
theorem memByte_memWrite_word {m : Memory} (a n x : Nat) {w : Nat} (v : BitVec w) (h : memWf m = true) :
    memByte (memWrite m a (leBytes n v.toNat)) x = if a ≤ x ∧ x < a + n then byteOf v (x - a) else memByte m x := by
  rw [memByte_memWrite a x _ h, leBytes_length]
  split
  · next hx => exact leBytes_toNat_getD v (by omega)
  · rfl

/-! Accumulator banks (R132, R136). -/

/-- A row outside the bank. -/
theorem accAt_of_row {v : BitVec 1} {row col : Word} (h : 127 < row.toNat) : accAt v row col = .error (.plain cSlotState row) := if_pos h

/-- A column whose lanes pass the edge of the view. -/
theorem accAt_of_col {v : BitVec 1} {row col : Word} (h : row.toNat ≤ 127) (hc : (if v = 0 then 120 else 60) < col.toNat) :
    accAt v row col = .error (.plain cSlotState col) := by
  rw [accAt, if_neg (by omega)]
  split at hc
  · next hv => rw [if_pos hv, if_pos (by omega)]
  · next hv => rw [if_neg hv, if_pos (by omega)]

/-- The place of a row and a column inside the view. -/
theorem accAt_of_inside {v : BitVec 1} {row col : Word} (h : row.toNat ≤ 127) (hc : col.toNat ≤ if v = 0 then 120 else 60) :
    accAt v row col = .ok (if v = 0 then 512 * row.toNat + 4 * col.toNat else 512 * row.toNat + 8 * col.toNat) := by
  rw [accAt, if_neg (by omega)]
  split at hc
  · next hv =>
    rw [if_pos hv, if_neg (by omega), if_pos hv]
    congr 1
    omega
  · next hv =>
    rw [if_neg hv, if_neg (by omega), if_neg hv]
    congr 1
    omega

/-- The matrix core changed in two ways that agree where it stands. -/
theorem modMx_congr {s : State} {f g : Machine.Matrix → Machine.Matrix} (h : f s.here.mx = g s.here.mx) : s.modMx f = s.modMx g := by
  rw [State.modMx, State.modMx, h]

/-- A bank is busy when a command that entered before writes it. -/
theorem bankBusy_iff (s : State) (n : Nat) : s.bankBusy n = true ↔ ∃ m ∈ s.here.mx.queue, m.no < s.mxBefore ∧ (m.bank = 2 ∨ m.bank.toNat = n) := by
  simp [State.bankBusy, State.mxBlocks, MxCmd.writes]

section Access
variable {i : Instr} {s : State} {o : BitVec 3} {l b v : BitVec 1} {row col : Word}

/-- An instruction of the matrix core that stands on a compute core. -/
theorem exec_of_onCompute {e : Effect} {mo : Nat} (he : isEngine s.at_ = false) (h : exec i s = finish 4 s (onCompute mo s e)) : exec i s = finish 4 s e := by
  rw [h, onCompute, if_neg (by simp [he])]

/-- A bank access outside the bank traps. -/
theorem traps_of_accAt {t : Trap} (ha : accAt v row col = .error t) :
    (exec i s = finish 4 s (accldEff o b v row col s) → Traps i t s) ∧ (exec i s = finish 4 s (accstEff o l b v row col s) → Traps i t s) := by
  constructor
  · intro h
    rw [Traps, h, accldEff, ha]
    rfl
  · intro h
    rw [Traps, h, accstEff, ha]
    rfl

/-- A bank access inside the bank waits while the bank is busy. -/
theorem waits_of_bankBusy {a : Nat} (ha : accAt v row col = .ok a) (hb : s.bankBusy b.toNat = true) :
    (exec i s = finish 4 s (accldEff o b v row col s) → exec i s = finish 4 s s.mxWait) ∧
      (exec i s = finish 4 s (accstEff o l b v row col s) → exec i s = finish 4 s s.mxWait) := by
  constructor
  · intro h
    rw [h, accldEff, ha]
    simp only [hb, if_true]
  · intro h
    rw [h, accstEff, ha]
    simp only [hb, if_true]

/-- A read of an idle bank. -/
theorem writesO_of_accld {a : Nat} (ha : accAt v row col = .ok a) (hb : s.bankBusy b.toNat = false) (h : exec i s = finish 4 s (accldEff o b v row col s)) :
    WritesO i 4 o (memBits s.here.mx.acc[b.toNat] a 32 256) s.act.csr s := by
  refine ⟨_, ?_, setO_only_retire s 4 o _⟩
  rw [h, accldEff, ha]
  simp only [hb]
  rfl

/-- A write of an idle bank. -/
theorem does_of_accst {a : Nat} (ha : accAt v row col = .ok a) (hb : s.bankBusy b.toNat = false) (h : exec i s = finish 4 s (accstEff o l b v row col s)) :
    Does i 4 s ((s.useO [(o, l)]).modMx fun z => { z with acc := z.acc.set b.toNat (memWrite s.here.mx.acc[b.toNat] a (leBytes 32 (s.o o).toNat)) }) := by
  have hst : accstEff o l b v row col s =
      .ok ((s.useO [(o, l)]).modMx fun z => { z with acc := z.acc.set b.toNat (memWrite s.here.mx.acc[b.toNat] a (leBytes 32 (s.o o).toNat)) }) := by
    simp only [accstEff, ha, hb, Bool.false_eq_true, if_false]
    exact congrArg Effect.ok (modMx_congr rfl)
  rw [Does, h, hst]
  rfl

end Access

/-- The banks that `acczero` names, by its field. -/
theorem acczero_names {k : BitVec 2} (hk : k ≠ 3) : (k.toNat = 2 ∨ k.toNat = 0 ↔ k ≠ 1) ∧ (k.toNat = 2 ∨ k.toNat = 1 ↔ k ≠ 0) := by
  have hk' : k.toNat ≠ 3 := fun h => hk (BitVec.eq_of_toNat_eq h)
  constructor
  · bv_omega
  · bv_omega

/-- A named bank is busy: `acczero` waits. -/
theorem acczeroEff_of_busy {k : BitVec 2} {s : State} (hk : k ≠ 3) (hb : ((k = 2 ∨ k = 0) ∧ s.bankBusy 0 = true) ∨ ((k = 2 ∨ k = 1) ∧ s.bankBusy 1 = true)) :
    acczeroEff k s = s.mxWait := by
  refine if_pos ?_
  rcases hb with ⟨rfl | rfl, h⟩ | ⟨rfl | rfl, h⟩ <;> simp [h]

/-- The named banks are idle: `acczero` clears them with their errors. -/
theorem acczeroEff_of_idle {k : BitVec 2} {s : State} (hk : k ≠ 3)
    (hb : ¬ (((k = 2 ∨ k = 0) ∧ s.bankBusy 0 = true) ∨ ((k = 2 ∨ k = 1) ∧ s.bankBusy 1 = true))) :
    acczeroEff k s = .ok (s.modMx fun m => { m with
      acc := #v[if k = 1 then s.here.mx.acc[0] else [], if k = 0 then s.here.mx.acc[1] else []]
      accBad := #v[decide (k = 1) && s.here.mx.accBad[0], decide (k = 0) && s.here.mx.accBad[1]] }) := by
  obtain ⟨h0, h1⟩ := acczero_names hk
  have hidle : ¬ ((decide (k.toNat = 2 ∨ k.toNat = 0) && s.bankBusy 0) || (decide (k.toNat = 2 ∨ k.toNat = 1) && s.bankBusy 1)) = true := by
    have hne : k ≠ 1 ↔ k = 2 ∨ k = 0 := by bv_omega
    have hne' : k ≠ 0 ↔ k = 2 ∨ k = 1 := by bv_omega
    simpa only [h0, h1, hne, hne', Bool.or_eq_true, Bool.and_eq_true, decide_eq_true_eq] using hb
  rw [acczeroEff, if_neg hidle]
  simp only [h0, h1, decide_not, Bool.not_not, Bool.not_eq_true', decide_eq_false_iff_not, ite_not]
  exact congrArg Effect.ok (modMx_congr rfl)

/-- Settles O34: the place decides first, then the commands queued before, and what is left is one read or write of the bank. -/
theorem accumulators : Obligations.Accumulators := by
  intro s o l b v r c x y k he before busy waits bank last place
  have hbusy : ∀ n, busy n ↔ s.bankBusy n = true := fun n => (bankBusy_iff s n).symm
  refine ⟨?access, ?zeroWaits, ?zero⟩
  case access =>
    intro row col ld st hinstr
    have hld : exec ld s = finish 4 s (accldEff o b v row col s) := by
      rcases hinstr with ⟨rfl, -, rfl, rfl⟩ | ⟨rfl, -, rfl, rfl⟩ <;> exact exec_of_onCompute he rfl
    have hst : exec st s = finish 4 s (accstEff o l b v row col s) := by
      rcases hinstr with ⟨-, rfl, rfl, rfl⟩ | ⟨-, rfl, rfl, rfl⟩ <;> exact exec_of_onCompute he rfl
    refine ⟨fun hrow => ?_, fun hrow hcol => ?_, fun hrow hcol hb => ?_, fun hrow hcol hb => ⟨?_, ?_⟩⟩
    · have ht := accAt_of_row (v := v) (col := col) hrow
      exact ⟨(traps_of_accAt (l := l) ht).1 hld, (traps_of_accAt ht).2 hst⟩
    · have ht := accAt_of_col (v := v) hrow hcol
      exact ⟨(traps_of_accAt (l := l) ht).1 hld, (traps_of_accAt ht).2 hst⟩
    · have ha := accAt_of_inside (v := v) hrow hcol
      exact ⟨(waits_of_bankBusy (l := l) ha ((hbusy _).mp hb)).1 hld, (waits_of_bankBusy ha ((hbusy _).mp hb)).2 hst⟩
    · have ha := accAt_of_inside (v := v) hrow hcol
      exact ⟨_, writesO_of_accld ha (Bool.eq_false_iff.mpr fun h => hb ((hbusy _).mpr h)) hld, fun j hj => byteOf_memBits _ _ hj (by decide)⟩
    · have ha := accAt_of_inside (v := v) hrow hcol
      exact ⟨_, does_of_accst ha (Bool.eq_false_iff.mpr fun h => hb ((hbusy _).mpr h)) hst, fun hwf a => memByte_memWrite_word _ 32 a _ hwf⟩
  case zeroWaits =>
    intro hk hb
    have hexec : exec (.acczero k) s = finish 4 s (acczeroEff k s) := exec_of_onCompute he rfl
    rw [hbusy, hbusy] at hb
    exact hexec.trans (congrArg (finish 4 s) (acczeroEff_of_busy hk hb))
  case zero =>
    intro hk hb
    have hexec : exec (.acczero k) s = finish 4 s (acczeroEff k s) := exec_of_onCompute he rfl
    rw [hbusy, hbusy] at hb
    exact ⟨_, _, hexec.trans (congrArg (finish 4 s) (acczeroEff_of_idle hk hb)), rfl, rfl, rfl, rfl⟩

end Sys2Proof.Safety
end

section
/-! PROOFS. Control registers (R30, R31, R97, R124, R310). -/

namespace Sys2Proof.Safety

open Sys2Proof.Machine

/-! What a control-register instruction does, by what the register reads as and allows (R97). -/

/-- A number that the acting slot's class may name (R310). -/
def CsrOpen (s : State) (n : BitVec 10) : Prop := ¬ (0xE0 ≤ n.toNat ∧ n.toNat ≤ 0xEF ∧ s.classS = false)

/-- An access of `mflg` waits for a queued command (R124). -/
def CsrWaits (s : State) (n : BitVec 10) : Prop := n = 0x100 ∧ s.mxBlocks (fun _ => true) = true

section Csr
variable {s : State} {n : BitVec 10} {i : Instr} {rd : Option (BitVec 5)} {old : Word} {f : Word → Word} {t : State}

/-- A closed number is refused first. -/
theorem csrEff_of_closed {wr : Option (Word → Word)} (hlo : 0xE0 ≤ n.toNat) (hhi : n.toNat ≤ 0xEF) (hs : s.classS = false) :
    csrEff i n rd wr s = .trap (.plain cCapability (zext n)) := if_pos ⟨hlo, hhi, by rw [hs]; rfl⟩

/-- The first check of an open number passes. -/
theorem not_closed (ho : CsrOpen s n) : ¬ (0xE0 ≤ n.toNat ∧ n.toNat ≤ 0xEF ∧ (!s.classS) = true) := fun h => ho ⟨h.1, h.2.1, by simpa using h.2.2⟩

/-- An open number that is no register. -/
theorem csrEff_of_absent {wr : Option (Word → Word)} (ho : CsrOpen s n) (h : s.csr n.toNat = none) : csrEff i n rd wr s = .trap (.plain cUndef (insnBits i)) := by
  rw [csrEff, if_neg (not_closed ho), h]

/-- A refused write. -/
theorem csrEff_of_refused (ho : CsrOpen s n) (h : ∀ x, s.csr n.toNat = some x → s.setCsr n.toNat (f x) = none) :
    csrEff i n rd (some f) s = .trap (.plain cUndef (insnBits i)) := by
  rw [csrEff, if_neg (not_closed ho)]
  cases hr : s.csr n.toNat with
  | none => rfl
  | some x => simp only [h x hr]

/-- A read that does not wait. -/
theorem csrEff_of_read (ho : CsrOpen s n) (hw : ¬ CsrWaits s n) (h : s.csr n.toNat = some old) (d : BitVec 5) :
    csrEff i n (some d) none s = .ok (s.setG d old) := by
  rw [csrEff, if_neg (not_closed ho), h]
  exact if_neg hw

/-- A read that waits. -/
theorem csrEff_of_read_waits (ho : CsrOpen s n) (hw : CsrWaits s n) (h : s.csr n.toNat = some old) (d : BitVec 5) :
    csrEff i n (some d) none s = s.mxWait := by
  rw [csrEff, if_neg (not_closed ho), h]
  exact if_pos hw

/-- A write that is allowed and does not wait. -/
theorem csrEff_of_write (ho : CsrOpen s n) (hw : ¬ CsrWaits s n) (h : s.csr n.toNat = some old) (hset : s.setCsr n.toNat (f old) = some t) :
    csrEff i n rd (some f) s = .ok (match rd with | some d => t.setG d old | none => t) := by
  rw [csrEff, if_neg (not_closed ho), h]
  simp only [hset]
  exact if_neg hw

/-- A write that is allowed and waits. -/
theorem csrEff_of_write_waits (ho : CsrOpen s n) (hw : CsrWaits s n) (h : s.csr n.toNat = some old) (hset : s.setCsr n.toNat (f old) = some t) :
    csrEff i n rd (some f) s = s.mxWait := by
  rw [csrEff, if_neg (not_closed ho), h]
  simp only [hset]
  exact if_pos hw

end Csr

/-! The five instructions on one register. -/

/-- What `cins` writes. -/
def csrMerge (s : State) (a b : BitVec 5) (old : Word) : Word := (old &&& ~~~(s.g b)) ||| (s.g a &&& s.g b)

section Instructions
variable {s : State} {n : BitVec 10} (a b d : BitVec 5) {old : Word} {ok : Word → Prop} {set : Word → State}

/-- A register that can be read. -/
theorem crd_writesG (ho : CsrOpen s n) (hw : ¬ CsrWaits s n) (h : s.csr n.toNat = some old) : WritesG (.crd d n) 4 d old s :=
  ⟨_, congrArg (finish 4 s) (csrEff_of_read ho hw h d), setG_retire s 4 d old⟩

/-- The instructions on a register that reads as `old`, allows `ok` and is set by `set`. -/
theorem csr_readWrite (ho : CsrOpen s n) (hw : ¬ CsrWaits s n) (h : s.csr n.toNat = some old) (hset : ∀ w, ok w → s.setCsr n.toNat w = some (set w)) (h0 : ok 0) :
    WritesG (.crd d n) 4 d old s ∧ (ok (s.g a) → Does (.cwr a n) 4 s (set (s.g a)) ∧ Does (.cxch a d n) 4 s ((set (s.g a)).setG d old)) ∧
      (ok (csrMerge s a b old) → Does (.cins a b n) 4 s (set (csrMerge s a b old))) ∧ Does (.crdz d n) 4 s ((set 0).setG d old) := by
  refine ⟨crd_writesG d ho hw h, fun hv => ⟨?_, ?_⟩, fun hv => ?_, ?_⟩
  · exact congrArg (finish 4 s) (csrEff_of_write (rd := none) (f := fun _ => s.g a) ho hw h (hset _ hv))
  · exact congrArg (finish 4 s) (csrEff_of_write (rd := some d) (f := fun _ => s.g a) ho hw h (hset _ hv))
  · exact congrArg (finish 4 s) (csrEff_of_write (rd := none) (f := csrMerge s a b) ho hw h (hset _ hv))
  · exact congrArg (finish 4 s) (csrEff_of_write (rd := some d) (f := fun _ => 0) ho hw h (hset _ h0))

/-- The values that a register refuses. -/
theorem csr_refuses (ho : CsrOpen s n) (h : s.csr n.toNat = some old) (hno : ∀ w, ¬ ok w → s.setCsr n.toNat w = none) :
    (¬ ok (s.g a) → Traps (.cwr a n) (.plain 0x01 (insnBits (.cwr a n))) s ∧ Traps (.cxch a d n) (.plain 0x01 (insnBits (.cxch a d n))) s) ∧
      (¬ ok (csrMerge s a b old) → Traps (.cins a b n) (.plain 0x01 (insnBits (.cins a b n))) s) := by
  refine ⟨fun hv => ⟨?_, ?_⟩, fun hv => ?_⟩
  · exact congrArg (finish 4 s) (csrEff_of_refused ho fun _ _ => hno _ hv)
  · exact congrArg (finish 4 s) (csrEff_of_refused ho fun _ _ => hno _ hv)
  · refine congrArg (finish 4 s) (csrEff_of_refused ho fun x hx => ?_)
    obtain rfl : old = x := Option.some.inj (h.symm.trans hx)
    exact hno _ hv

/-- A number that no instruction can write. -/
theorem csr_readOnly (ho : CsrOpen s n) (hno : ∀ w, s.setCsr n.toNat w = none) :
    Traps (.cwr a n) (.plain 0x01 (insnBits (.cwr a n))) s ∧ Traps (.cins a b n) (.plain 0x01 (insnBits (.cins a b n))) s ∧
      Traps (.cxch a d n) (.plain 0x01 (insnBits (.cxch a d n))) s ∧ Traps (.crdz d n) (.plain 0x01 (insnBits (.crdz d n))) s := by
  refine ⟨?_, ?_, ?_, ?_⟩
  · exact congrArg (finish 4 s) (csrEff_of_refused ho fun _ _ => hno _)
  · exact congrArg (finish 4 s) (csrEff_of_refused ho fun _ _ => hno _)
  · exact congrArg (finish 4 s) (csrEff_of_refused ho fun _ _ => hno _)
  · exact congrArg (finish 4 s) (csrEff_of_refused ho fun _ _ => hno _)

/-- A number that is no register. -/
theorem crd_absent (ho : CsrOpen s n) (h : s.csr n.toNat = none) : Traps (.crd d n) (.plain 0x01 (insnBits (.crd d n))) s :=
  congrArg (finish 4 s) (csrEff_of_absent ho h)

/-- The instructions on a closed number. -/
theorem csr_closed (hlo : 0xE0 ≤ n.toNat) (hhi : n.toNat ≤ 0xEF) (hs : s.classS = false) :
    Traps (.crd d n) (.plain 0x0E (n.setWidth 64)) s ∧ Traps (.cwr a n) (.plain 0x0E (n.setWidth 64)) s ∧ Traps (.cins a b n) (.plain 0x0E (n.setWidth 64)) s ∧
      Traps (.cxch a d n) (.plain 0x0E (n.setWidth 64)) s ∧ Traps (.crdz d n) (.plain 0x0E (n.setWidth 64)) s := by
  refine ⟨?_, ?_, ?_, ?_, ?_⟩
  · exact congrArg (finish 4 s) (csrEff_of_closed hlo hhi hs)
  · exact congrArg (finish 4 s) (csrEff_of_closed hlo hhi hs)
  · exact congrArg (finish 4 s) (csrEff_of_closed hlo hhi hs)
  · exact congrArg (finish 4 s) (csrEff_of_closed hlo hhi hs)
  · exact congrArg (finish 4 s) (csrEff_of_closed hlo hhi hs)

/-- What the instructions wait with (R124). -/
def CsrHeld (s : State) (i : Instr) : Prop := exec i s = .next ((s.modAct fun a => { a with part := .mx s.mxBefore }).stalled false)

/-- The instructions on `mflg` while a queued command entered before they issued. -/
theorem csr_waits (ho : CsrOpen s n) (hw : CsrWaits s n) (h : s.csr n.toNat = some old) (hset : ∀ w, ok w → s.setCsr n.toNat w = some (set w)) (h0 : ok 0) :
    CsrHeld s (.crd d n) ∧ CsrHeld s (.crdz d n) ∧ (ok (s.g a) → CsrHeld s (.cwr a n) ∧ CsrHeld s (.cxch a d n)) ∧
      (ok (csrMerge s a b old) → CsrHeld s (.cins a b n)) := by
  refine ⟨?_, ?_, fun hv => ⟨?_, ?_⟩, fun hv => ?_⟩
  · exact congrArg (finish 4 s) (csrEff_of_read_waits ho hw h d)
  · exact congrArg (finish 4 s) (csrEff_of_write_waits (f := fun _ => 0) ho hw h (hset _ h0))
  · exact congrArg (finish 4 s) (csrEff_of_write_waits (f := fun _ => s.g a) ho hw h (hset _ hv))
  · exact congrArg (finish 4 s) (csrEff_of_write_waits (f := fun _ => s.g a) ho hw h (hset _ hv))
  · exact congrArg (finish 4 s) (csrEff_of_write_waits (f := csrMerge s a b) ho hw h (hset _ hv))

end Instructions

/-! The registers (R30, R31, R124, R310). -/

/-- The bits of a word above the lowest `k` are zero when it is below 2^k. -/
theorem zeroBits_iff_lt (v : Word) {k m : Nat} (h : k + m = 64) : zeroBits v k m = true ↔ v.toNat < 2 ^ k := by
  have hv : v.toNat / 2 ^ k < 2 ^ m := by
    rw [Nat.div_lt_iff_lt_mul (Nat.two_pow_pos k), ← pow_add, Nat.add_comm m k, h]
    exact v.isLt
  rw [zeroBits, fld, beq_iff_eq, ← BitVec.toNat_inj, BitVec.extractLsb'_toNat, Nat.shiftRight_eq_div_pow, Nat.mod_eq_of_lt hv]
  exact Nat.div_eq_zero_iff_lt (Nat.two_pow_pos k)

/-- The low bits of a word. -/
theorem fld_zero (v : Word) (k : Nat) : fld v 0 k = v.setWidth k := by
  apply BitVec.eq_of_toNat_eq
  rw [fld, BitVec.extractLsb'_toNat, BitVec.toNat_setWidth, Nat.shiftRight_zero]

/-- What a slot-scope register that can be written reads as. -/
def seqOld (c : Csrs) (n : BitVec 10) : Word :=
  if n = 0 then c.fflg.setWidth 64 else if n = 1 then c.frm.setWidth 64 else if n = 2 then c.fmt.setWidth 64
  else if n = 3 then c.scla.setWidth 64 else if n = 4 then c.sclb.setWidth 64 else c.tscl

/-- The values that it allows. -/
def seqAllows (n : BitVec 10) (v : Word) : Prop :=
  if n = 0 then v.toNat < 64 else if n = 1 then v.toNat < 6 else if n = 2 then v.toNat < 7
  else if n = 5 then v.extractLsb' 8 56 = 0 else v.toNat < 8192

/-- The control registers once it is written. -/
def seqNew (c : Csrs) (n : BitVec 10) (v : Word) : Csrs :=
  if n = 0 then { c with fflg := v.setWidth 6 } else if n = 1 then { c with frm := v.setWidth 3 } else if n = 2 then { c with fmt := v.setWidth 4 }
  else if n = 3 then { c with scla := v.setWidth 13 } else if n = 4 then { c with sclb := v.setWidth 13 } else { c with tscl := v }

/-- The slot-scope registers that can be written. -/
theorem seq_cases {n : BitVec 10} (h : n.toNat ≤ 5) : n = 0 ∨ n = 1 ∨ n = 2 ∨ n = 3 ∨ n = 4 ∨ n = 5 := by bv_omega

/-- A slot-scope register reads as it stands. -/
theorem csr_seq (s : State) {n : BitVec 10} (h : n.toNat ≤ 5) : s.csr n.toNat = some (seqOld s.act.csr n) := by
  rcases seq_cases h with rfl | rfl | rfl | rfl | rfl | rfl <;> rfl

/-- A slot-scope register set to a value that it allows. -/
theorem setCsr_seq (s : State) {n : BitVec 10} (h : n.toNat ≤ 5) {v : Word} (hv : seqAllows n v) :
    s.setCsr n.toNat v = some (s.setAct { s.act with csr := seqNew s.act.csr n v }) := by
  rcases seq_cases h with rfl | rfl | rfl | rfl | rfl | rfl
  · have hz := (zeroBits_iff_lt v (k := 6) (m := 58) rfl).mpr hv
    exact (if_pos hz).trans (by rw [fld_zero]; rfl)
  · have hv : v.toNat < 6 := hv
    have hz := (zeroBits_iff_lt v (k := 3) (m := 61) rfl).mpr (by omega)
    exact (if_pos (by simp [hz, hv])).trans (by rw [fld_zero]; rfl)
  · have hv : v.toNat < 7 := hv
    have hz := (zeroBits_iff_lt v (k := 4) (m := 60) rfl).mpr (by omega)
    exact (if_pos (by simp [hz, hv])).trans (by rw [fld_zero]; rfl)
  · have hz := (zeroBits_iff_lt v (k := 13) (m := 51) rfl).mpr hv
    exact (if_pos hz).trans (by rw [fld_zero]; rfl)
  · have hz := (zeroBits_iff_lt v (k := 13) (m := 51) rfl).mpr hv
    exact (if_pos hz).trans (by rw [fld_zero]; rfl)
  · exact if_pos (beq_iff_eq.mpr hv)

/-- A value that a slot-scope register refuses. -/
theorem setCsr_seq_refused (s : State) {n : BitVec 10} (h : n.toNat ≤ 5) {v : Word} (hv : ¬ seqAllows n v) : s.setCsr n.toNat v = none := by
  rcases seq_cases h with rfl | rfl | rfl | rfl | rfl | rfl
  · exact if_neg (hv ∘ (zeroBits_iff_lt v (k := 6) (m := 58) rfl).mp)
  · refine if_neg fun hz => ?_
    have hlt : v.toNat < 6 := of_decide_eq_true (Bool.and_eq_true_iff.mp hz).2
    exact hv hlt
  · refine if_neg fun hz => ?_
    have hlt : v.toNat < 7 := of_decide_eq_true (Bool.and_eq_true_iff.mp hz).2
    exact hv hlt
  · exact if_neg (hv ∘ (zeroBits_iff_lt v (k := 13) (m := 51) rfl).mp)
  · exact if_neg (hv ∘ (zeroBits_iff_lt v (k := 13) (m := 51) rfl).mp)
  · exact if_neg (hv ∘ beq_iff_eq.mp)

/-- Every slot-scope register allows zero. -/
theorem seqAllows_zero {n : BitVec 10} (h : n.toNat ≤ 5) : seqAllows n 0 := by
  unfold seqAllows
  rcases seq_cases h with rfl | rfl | rfl | rfl | rfl | rfl <;> decide

/-- A number that is no register reads as nothing. -/
theorem csr_of_absent (s : State) {n : Nat} (h : ¬ (n ≤ 0x17 ∨ (0xE0 ≤ n ∧ n ≤ 0xE2) ∨ (0x100 ≤ n ∧ n ≤ 0x102))) : s.csr n = none := by
  unfold State.csr
  split
  case h_31 => rfl
  all_goals omega

/-- A register that is none of those that can be written. -/
theorem setCsr_of_readOnly (s : State) {n : Nat} (h : 5 < n) (hA : n ≠ 0xE0) (hF : n ≠ 0x100) (hR : n ≠ 0x102) (v : Word) : s.setCsr n v = none := by
  unfold State.setCsr
  split
  case h_10 => rfl
  all_goals omega

/-- `mflg` on a compute core (R124). -/
theorem csr_mflg {s : State} (he : isEngine s.at_ = false) : s.csr 0x100 = some (s.here.mx.mflg.setWidth 64) := if_neg (by simp [he])

/-- `mflg` set to 8 bits. -/
theorem setCsr_mflg {s : State} (he : isEngine s.at_ = false) {w : Word} (hw : w.toNat < 256) :
    s.setCsr 0x100 w = some (s.modMx fun m => { m with mflg := w.setWidth 8 }) := by
  have hz := (zeroBits_iff_lt w (k := 8) (m := 56) rfl).mpr hw
  exact (if_pos (by simp [hz, he])).trans (by rw [fld_zero])

/-- `mflg` refuses any other value. -/
theorem setCsr_mflg_refused (s : State) {w : Word} (hw : ¬ w.toNat < 256) : s.setCsr 0x100 w = none :=
  if_neg fun hz => hw ((zeroBits_iff_lt w (k := 8) (m := 56) rfl).mp (Bool.and_eq_true_iff.mp hz).1)

/-- The values that `rope` allows (R124). -/
def ropeAllows (w : Word) : Prop :=
  w.extractLsb' 22 42 = 0 ∧ w.extractLsb' 1 9 = 0 ∧ (w.extractLsb' 13 3).toNat ≤ (w.extractLsb' 19 3).toNat ∧ (w.extractLsb' 10 3).toNat ≤ (w.extractLsb' 16 3).toNat

/-- `rope` allows zero. -/
theorem ropeAllows_zero : ropeAllows 0 := by
  unfold ropeAllows
  decide

/-- The check of a write of `rope` on a compute core. -/
theorem ropeAllows_iff (w : Word) : ropeAllows w ↔ (zeroBits w 22 42 && zeroBits w 1 9 && decide ((fld w 13 3).toNat ≤ (fld w 19 3).toNat) &&
    decide ((fld w 10 3).toNat ≤ (fld w 16 3).toNat)) = true := by
  simp only [zeroBits, Bool.and_eq_true, decide_eq_true_eq, beq_iff_eq, and_assoc]
  rfl

/-- `rope` on a compute core. -/
theorem csr_rope {s : State} (he : isEngine s.at_ = false) : s.csr 0x102 = some (s.here.mx.rope.setWidth 64) := if_neg (by simp [he])

/-- `mcap` on a compute core. -/
theorem csr_mcap {s : State} (he : isEngine s.at_ = false) : s.csr 0x101 = some (s.here.regs.mcap.setWidth 64) := if_neg (by simp [he])

/-- The fields of `ptn` (R310). -/
theorem ptn_fields {p : Nat} (hp : p < 16) (conf : Bool) :
    (BitVec.ofNat 64 (p + if conf then 16 else 0)).extractLsb' 0 4 = BitVec.ofNat 4 p ∧ (BitVec.ofNat 64 (p + if conf then 16 else 0)).getLsbD 4 = conf ∧
      (BitVec.ofNat 64 (p + if conf then 16 else 0)).extractLsb' 5 59 = 0 := by
  revert conf p
  decide

/-- `rope` set to a value that it allows. -/
theorem setCsr_rope {s : State} (he : isEngine s.at_ = false) {w : Word} (hw : ropeAllows w) :
    s.setCsr 0x102 w = some (s.modMx fun m => { m with rope := w.setWidth 22 }) := by
  have hz := (ropeAllows_iff w).mp hw
  exact (if_pos (by rw [hz, he]; rfl)).trans (by rw [fld_zero])

/-- `rope` refuses any other value. -/
theorem setCsr_rope_refused (s : State) {w : Word} (hw : ¬ ropeAllows w) : s.setCsr 0x102 w = none :=
  if_neg fun hz => hw ((ropeAllows_iff w).mpr (Bool.and_eq_true_iff.mp hz).1)

/-- `audit` set to 0 or 1 (R310). -/
theorem setCsr_audit (s : State) {w : Word} (hw : w.toNat < 2) :
    s.setCsr 0xE0 w = some { s with here := { s.here with regs := { s.here.regs with audit := w.getLsbD 0 } } } :=
  if_pos ((zeroBits_iff_lt w (k := 1) (m := 63) rfl).mpr hw)

/-- `audit` refuses any other value. -/
theorem setCsr_audit_refused (s : State) {w : Word} (hw : ¬ w.toNat < 2) : s.setCsr 0xE0 w = none :=
  if_neg (hw ∘ (zeroBits_iff_lt w (k := 1) (m := 63) rfl).mp)

/-- An engine core has no matrix registers (R221). -/
theorem csr_of_engine {s : State} (he : isEngine s.at_ = true) {n : Nat} (hlo : 0x100 ≤ n) (hhi : n ≤ 0x102) : s.csr n = none := by
  have hn : n = 0x100 ∨ n = 0x101 ∨ n = 0x102 := by omega
  rcases hn with rfl | rfl | rfl <;> exact if_pos he

/-- An engine core refuses every write of them. -/
theorem setCsr_of_engine {s : State} (he : isEngine s.at_ = true) {n : Nat} (hlo : 0x100 ≤ n) (hhi : n ≤ 0x102) (w : Word) : s.setCsr n w = none := by
  have hn : n = 0x100 ∨ n = 0x101 ∨ n = 0x102 := by omega
  rcases hn with rfl | rfl | rfl
  · exact if_neg (by simp [he])
  · rfl
  · exact if_neg (by simp [he])

/-- `mflg` waits for the commands queued before. -/
theorem csrWaits_mflg (s : State) : CsrWaits s 0x100 ↔ ∃ m ∈ s.here.mx.queue, m.no < s.mxBefore := by
  simp [CsrWaits, State.mxBlocks]

/-- The slot-scope registers under the five instructions. -/
theorem seqRegisters (s : State) (a b d : BitVec 5) {n : BitVec 10} (h : n.toNat ≤ 5) :
    WritesG (.crd d n) 4 d (seqOld s.act.csr n) s ∧
    (seqAllows n (s.g a) → ∃ t, exec (.cwr a n) s = .next t ∧ RetiresSeq 4 s t s.act.regs (seqNew s.act.csr n (s.g a))) ∧
    (seqAllows n (csrMerge s a b (seqOld s.act.csr n)) →
      ∃ t, exec (.cins a b n) s = .next t ∧ RetiresSeq 4 s t s.act.regs (seqNew s.act.csr n (csrMerge s a b (seqOld s.act.csr n)))) ∧
    (seqAllows n (s.g a) →
      ∃ t, exec (.cxch a d n) s = .next t ∧ RetiresSeq 4 s t (withG s.act.regs d (seqOld s.act.csr n)) (seqNew s.act.csr n (s.g a))) ∧
    ∃ t, exec (.crdz d n) s = .next t ∧ RetiresSeq 4 s t (withG s.act.regs d (seqOld s.act.csr n)) (seqNew s.act.csr n 0) := by
  have hopen : CsrOpen s n := fun hc => absurd hc.1 (by omega)
  have hidle : ¬ CsrWaits s n := fun hw => absurd (hw.1 ▸ h) (by decide)
  have hset (w : Word) : RetiresSeq 4 s ((s.setAct { s.act with csr := seqNew s.act.csr n w }).retire 4).issued s.act.regs (seqNew s.act.csr n w) :=
    retire_spec s 4 s.act.regs (seqNew s.act.csr n w)
  have hxch (w : Word) : RetiresSeq 4 s (((s.setAct { s.act with csr := seqNew s.act.csr n w }).setG d (seqOld s.act.csr n)).retire 4).issued
      (withG s.act.regs d (seqOld s.act.csr n)) (seqNew s.act.csr n w) := by
    rw [State.setG_eq, State.act_setAct, State.setAct_setAct]
    exact retire_spec s 4 (withG s.act.regs d (seqOld s.act.csr n)) (seqNew s.act.csr n w)
  obtain ⟨hrd, hwr, hins, hrdz⟩ := csr_readWrite a b d hopen hidle (csr_seq s h) (fun w hw => setCsr_seq s h hw) (seqAllows_zero h)
  exact ⟨hrd, fun hv => ⟨_, (hwr hv).1, hset _⟩, fun hv => ⟨_, hins hv, hset _⟩, fun hv => ⟨_, (hwr hv).2, hxch _⟩, _, hrdz, hxch _⟩

/-- A register that always reads, on a number open to both classes. -/
theorem crd_reads {s : State} (d : BitVec 5) {n : BitVec 10} {v : Word} (hlt : n.toNat < 0xE0) (h : s.csr n.toNat = some v) : WritesG (.crd d n) 4 d v s :=
  crd_writesG d (fun hc => absurd hc.1 (by omega)) (fun hw => absurd (hw.1 ▸ hlt) (by decide)) h

/-- Settles O16: each instruction is one read and at most one write of its register, and the registers are gone through by their numbers. -/
theorem controlRegisters : Obligations.ControlRegisters := by
  refine ⟨?seq, ?shared, ?matrix⟩
  case seq =>
    intro s a b d n h c old allows new merged undef
    obtain ⟨hrd, hwr, hins, hxch, hrdz⟩ := seqRegisters s a b d h
    have hopen : CsrOpen s n := fun hc => absurd hc.1 (by omega)
    obtain ⟨hno, hnoIns⟩ := csr_refuses a b d hopen (csr_seq s h) fun w hw => setCsr_seq_refused s h hw
    exact ⟨hrd, hwr, hins, hxch, hrdz, hno, hnoIns⟩
  case shared =>
    intro s a b d n undef sys readOnly absent
    have hopen (ho : ¬ (sys ∧ s.classS = false)) : CsrOpen s n := fun hc => ho ⟨⟨hc.1, hc.2.1⟩, hc.2.2⟩
    have hsysOpen {n : BitVec 10} (hs : s.classS = true) : CsrOpen s n := fun hc => absurd hc.2.2 (by simp [hs])
    refine ⟨fun hsys hs => csr_closed a b d hsys.1 hsys.2 hs, fun ha ho => crd_absent d (hopen ho) (csr_of_absent s ha), fun hr ho => ?_,
      crd_reads d (by decide) rfl, ?_, crd_reads d (by decide) rfl, crd_reads d (by decide) rfl, crd_reads d (by decide) rfl, crd_reads d (by decide) rfl,
      crd_reads d (by decide) rfl, crd_reads d (by decide) rfl, crd_reads d (by decide) rfl, crd_reads d (by decide) rfl, crd_reads d (by decide) rfl,
      crd_reads d (by decide) rfl, crd_reads d (by decide) rfl, crd_reads d (by decide) rfl, crd_reads d (by decide) rfl, crd_reads d (by decide) rfl,
      crd_reads d (by decide) rfl, crd_reads d (by decide) rfl, fun hs => ⟨?_, ?_, fun hp => ?_⟩⟩
    · have hn : 5 < n.toNat ∧ n.toNat ≠ 0xE0 ∧ n.toNat ≠ 0x100 ∧ n.toNat ≠ 0x102 := by
        rcases hr with (hr | rfl | rfl | rfl) | hr
        · omega
        · decide
        · decide
        · decide
        · omega
      obtain ⟨h5, hE0, h100, h102⟩ := hn
      exact csr_readOnly a b d (hopen ho) (setCsr_of_readOnly s h5 hE0 h100 h102)
    · refine crd_reads d (by decide) ((congrArg some ?_ : s.csr 0x007 = _))
      simp only [State.classS, Bool.or_eq_true, decide_eq_true_eq]
    · exact crd_writesG d (hsysOpen hs) (fun hw => absurd hw.1 (by decide)) rfl
    · exact crd_writesG d (hsysOpen hs) (fun hw => absurd hw.1 (by decide)) rfl
    · exact ⟨_, crd_writesG d (hsysOpen hs) (fun hw => absurd hw.1 (by decide)) rfl, ptn_fields hp _⟩
  case matrix =>
    intro s a b d v merged undef ropeOk before busy waits rw refuses mflg rope audit
    refine ⟨fun he => ?compute, fun hs => ?audit, fun he n hlo hhi => ?engine⟩
    case compute =>
      have hopen {n : BitVec 10} (hn : 0xEF < n.toNat) : CsrOpen s n := fun hc => absurd hc.2.1 (by omega)
      have hcap : ¬ CsrWaits s 0x101 := fun hw => absurd hw.1 (by decide)
      have hrope : ¬ CsrWaits s 0x102 := fun hw => absurd hw.1 (by decide)
      obtain ⟨hwr, hins, hxch, hrdz⟩ := csr_readOnly a b d (hopen (n := 0x101) (by decide)) fun w => setCsr_of_readOnly s (by decide) (by decide) (by decide) (by decide) w
      exact ⟨fun hb => csr_readWrite a b d (hopen (by decide)) (fun hw => hb ((csrWaits_mflg s).mp hw)) (csr_mflg he) (fun w hw => setCsr_mflg he hw) (by decide),
        fun hb => csr_waits a b d (hopen (by decide)) ((csrWaits_mflg s).mpr hb) (csr_mflg he) (fun w hw => setCsr_mflg he hw) (by decide),
        csr_refuses a b d (hopen (n := 0x100) (by decide)) (csr_mflg he) (fun w hw => setCsr_mflg_refused s hw),
        crd_writesG d (hopen (by decide)) hcap (csr_mcap he), hwr, hins, hxch, hrdz,
        csr_readWrite a b d (hopen (by decide)) hrope (csr_rope he) (fun w hw => setCsr_rope he hw) ropeAllows_zero,
        csr_refuses a b d (hopen (n := 0x102) (by decide)) (csr_rope he) (fun w hw => setCsr_rope_refused s hw)⟩
    case audit =>
      have hopen : CsrOpen s 0xE0 := fun hc => absurd hc.2.2 (by simp [hs])
      exact ⟨csr_readWrite a b d hopen (fun hw => absurd hw.1 (by decide)) rfl (fun w hw => setCsr_audit s hw) (by decide),
        csr_refuses a b d hopen rfl fun w hw => setCsr_audit_refused s hw⟩
    case engine =>
      have hopen : CsrOpen s n := fun hc => absurd hc.2.1 (by omega)
      exact ⟨crd_absent d hopen (csr_of_engine he hlo hhi), csr_readOnly a b d hopen (setCsr_of_engine he hlo hhi)⟩

end Sys2Proof.Safety
end

section
/-! PROOFS. Dispatch (R28, R157), ages (R158) and budgets (R42). -/

namespace Sys2Proof.Safety

open Sys2Proof.Machine

/-! The channel that the dispatcher chooses (R157). -/

/-- An entry that is found stands in the list. -/
theorem mem_of_look {α : Type} {l : List (Nat × α)} {a : Nat} {v : α} (h : look l a = some v) : (a, v) ∈ l := by
  induction l with
  | nil => cases h
  | cons x t ih =>
    obtain ⟨k, w⟩ := x
    rw [look] at h
    split at h
    · next hk =>
      obtain rfl := Option.some.inj h
      rw [hk]
      exact List.mem_cons_self
    · exact List.mem_cons_of_mem _ (ih h)

/-- The runnable channels. -/
def runnables (s : State) : List (BitVec 8) := (s.here.net.queues.map fun q => BitVec.ofNat 8 q.1).filter s.runnable

/-- The runnable channels of a priority. -/
def levelOf (s : State) (p : Nat) : List (BitVec 8) := (runnables s).filter fun c => s.priority c == p

/-- The runnable channels of class S of a priority. -/
def systemOf (s : State) (p : Nat) : List (BitVec 8) := (levelOf s p).filter fun c => bit (s.here.entry c) 57

/-- The channels that the rotation of a priority picks from: those of class S when there are any. -/
def poolOf (s : State) (p : Nat) : List (BitVec 8) := if (systemOf s p).isEmpty then levelOf s p else systemOf s p

theorem choose_eq (s : State) : s.choose = match ((runnables s).map s.priority).max? with
    | none => none
    | some p => (Machine.rotation (s.here.live.rot.toList.getD p 0)).find? fun c => (poolOf s p).contains c := rfl

/-- A runnable channel with a queue is one of them. -/
theorem mem_runnables {s : State} {c : BitVec 8} (hq : (look s.here.net.queues c.toNat).isSome) (hr : s.runnable c = true) : c ∈ runnables s := by
  obtain ⟨q, hq⟩ := Option.isSome_iff_exists.mp hq
  exact List.mem_filter.mpr ⟨List.mem_map.mpr ⟨_, mem_of_look hq, by simp⟩, hr⟩

/-- A channel of the pool has its priority. -/
theorem mem_levelOf_of_pool {s : State} {p : Nat} {c : BitVec 8} (h : c ∈ poolOf s p) : c ∈ levelOf s p := by
  rw [poolOf] at h
  split at h
  · exact h
  · exact List.mem_of_mem_filter h

/-- A channel of class S keeps those of class N out of the pool. -/
theorem classS_of_pool {s : State} {p : Nat} {c ch : BitVec 8} (hc : c ∈ levelOf s p) (hs : (s.here.entry c).getLsbD 57 = true) (h : ch ∈ poolOf s p) :
    (s.here.entry ch).getLsbD 57 = true := by
  have hmem : c ∈ systemOf s p := List.mem_filter.mpr ⟨hc, hs⟩
  rw [poolOf, if_neg (by simpa using List.ne_nil_of_mem hmem)] at h
  exact (List.mem_filter.mp h).2

/-- A channel of the chosen one's priority and class is in the pool with it. -/
theorem mem_pool {s : State} {p : Nat} {c ch : BitVec 8} (hc : c ∈ levelOf s p) (hch : ch ∈ poolOf s p)
    (hs : (s.here.entry c).getLsbD 57 = (s.here.entry ch).getLsbD 57) : c ∈ poolOf s p := by
  rw [poolOf] at hch ⊢
  split at hch
  · next he => rwa [if_pos he]
  · next he =>
    rw [if_neg he]
    exact List.mem_filter.mpr ⟨hc, hs.trans (List.mem_filter.mp hch).2⟩

/-- The place of a channel in the rotation after `last`. -/
theorem rotation_index (last : BitVec 8) {i : Nat} (h : i < (Machine.rotation last).length) : (((Machine.rotation last)[i] - last - 1).toNat) = i := by
  have hi : i < 256 := by rwa [Machine.rotation, List.length_map, List.length_range] at h
  simp only [Machine.rotation, List.getElem_map, List.getElem_range]
  have hx : last + 1 + BitVec.ofNat 8 i - last - 1 = BitVec.ofNat 8 i := by ring
  rw [hx, BitVec.toNat_ofNat]
  exact Nat.mod_eq_of_lt hi

/-- Every channel stands in the rotation at its place. -/
theorem rotation_getElem (last c : BitVec 8) : ∃ h : (c - last - 1).toNat < (Machine.rotation last).length, (Machine.rotation last)[(c - last - 1).toNat] = c := by
  have hlt : (c - last - 1).toNat < (Machine.rotation last).length := by
    rw [Machine.rotation, List.length_map, List.length_range]
    exact (c - last - 1).isLt
  refine ⟨hlt, ?_⟩
  simp only [Machine.rotation, List.getElem_map, List.getElem_range, BitVec.ofNat_toNat, BitVec.setWidth_eq]
  ring

/-- What the choice says: the greatest priority, the pool, and the first of the pool in the rotation. -/
theorem of_choose {s : State} {ch : BitVec 8} (h : s.choose = some ch) :
    (∀ c ∈ runnables s, s.priority c ≤ s.priority ch) ∧ ch ∈ poolOf s (s.priority ch) ∧
      ∀ c ∈ poolOf s (s.priority ch), (ch - s.here.live.rot.toList.getD (s.priority ch) 0 - 1).toNat ≤ (c - s.here.live.rot.toList.getD (s.priority ch) 0 - 1).toNat := by
  rw [choose_eq] at h
  cases hmax : ((runnables s).map s.priority).max? with
  | none => rw [hmax] at h; cases h
  | some p =>
    rw [hmax] at h
    obtain ⟨hpool, i, hi, hget, hfirst⟩ := List.find?_eq_some_iff_getElem.mp h
    rw [List.contains_iff_mem] at hpool
    have hp : s.priority ch = p := beq_iff_eq.mp (List.mem_filter.mp (mem_levelOf_of_pool hpool)).2
    rw [hp]
    refine ⟨fun c hc => (List.max?_eq_some_iff.mp hmax).2 _ (List.mem_map_of_mem hc), hpool, fun c hc => ?_⟩
    have hch := rotation_index (s.here.live.rot.toList.getD p 0) hi
    rw [hget] at hch
    rw [hch]
    by_contra hlt
    obtain ⟨hj, hcget⟩ := rotation_getElem (s.here.live.rot.toList.getD p 0) c
    have hno := hfirst _ (Nat.lt_of_not_le hlt)
    rw [hcget] at hno
    simp [hc] at hno

/-- The chosen channel is runnable. -/
theorem runnable_of_choose {s : State} {ch : BitVec 8} (h : s.choose = some ch) : ch ∈ runnables s :=
  (List.mem_filter.mp (mem_levelOf_of_pool (of_choose h).2.1)).1

/-- The chosen channel against another runnable one. -/
theorem choose_spec {s : State} {ch c : BitVec 8} (h : s.choose = some ch) (hc : c ∈ runnables s) :
    s.runnable ch = true ∧ s.priority c ≤ s.priority ch ∧
    (s.priority c = s.priority ch → (s.here.entry c).getLsbD 57 = true → (s.here.entry ch).getLsbD 57 = true) ∧
    (s.priority c = s.priority ch → (s.here.entry c).getLsbD 57 = (s.here.entry ch).getLsbD 57 →
      (ch - s.here.live.rot.toList.getD (s.priority ch) 0 - 1).toNat ≤ (c - s.here.live.rot.toList.getD (s.priority ch) 0 - 1).toNat) := by
  obtain ⟨hmax, hpool, hfirst⟩ := of_choose h
  have hlevel (hp : s.priority c = s.priority ch) : c ∈ levelOf s (s.priority ch) := List.mem_filter.mpr ⟨hc, beq_iff_eq.mpr hp⟩
  exact ⟨(List.mem_filter.mp (runnable_of_choose h)).2, hmax c hc, fun hp hs => classS_of_pool (hlevel hp) hs hpool,
    fun hp hs => hfirst c (mem_pool (hlevel hp) hpool hs)⟩

/-! The dispatch (R28, R157). -/

/-- The image of a runnable channel's entry is resident. -/
theorem image_of_runnable {s : State} {ch : BitVec 8} (h : s.runnable ch = true) : ∃ i, s.here.images[entryImg (s.here.entry ch)] = some i := by
  have he : s.here.held (s.here.entry ch) = false := by
    simp only [State.runnable, State.eligible, Bool.and_eq_true, Bool.not_eq_true'] at h
    exact h.1.1.2
  rw [Core.held, Bool.or_eq_false_iff] at he
  split at he
  · next i hi => exact ⟨i, hi⟩
  · cases he.2

/-- The general registers at entry, by number. -/
theorem entryG_getElem (s : State) (own : CoreAddr) (base : BitVec 18) (m : Msg) (r : Fin 32) : (s.entryG own base m)[r] =
    if r = 1 then m.src.setWidth 64
    else if r = 2 then m.summary
    else if m.kind = kPut ∧ r = 3 then BitVec.ofNat 64 m.paddr
    else if m.kind = kPut ∧ r = 4 then BitVec.ofNat 64 (32 * m.flits)
    else if m.kind ≠ kPut ∧ 3 ≤ r.val ∧ r.val ≤ 10 then m.dw (r.val - 3)
    else if r = 11 then base.setWidth 64
    else if r = 12 then s.here.live.lpb
    else if r = 13 then BitVec.ofNat 64 (if isEngine own = true then engineNo own else flatOf own)
    else if r = 14 then own.setWidth 64 else 0 := by
  obtain ⟨r, hr⟩ := r
  simp only [Fin.getElem_fin, Fin.ext_iff]
  by_cases hk : m.kind = kPut
  · simp only [State.entryG, hk, if_true, true_and, ne_eq, not_true_eq_false, false_and, if_false, Vector.getElem_set, Vector.getElem_replicate]
    interval_cases r <;> rfl
  · simp only [State.entryG, hk, if_false, true_and, ne_eq, not_false_eq_true, false_and, Vector.getElem_set, Vector.getElem_replicate]
    interval_cases r <;> rfl

/-- The vector registers at entry, by number. -/
theorem entryV_getElem (m : Msg) (r : Fin 32) : (entryV m)[r] = if m.kind ≠ kPut ∧ 24 ≤ r.val then m.flit (r.val - 24) else 0 := by
  obtain ⟨r, hr⟩ := r
  simp only [Fin.getElem_fin]
  by_cases hk : m.kind = kPut
  · simp only [entryV, hk, if_true, ne_eq, not_true_eq_false, false_and, if_false, Vector.getElem_replicate]
  · simp only [entryV, hk, if_false, true_and, ne_eq, not_false_eq_true, Vector.getElem_set, Vector.getElem_replicate]
    interval_cases r <;> rfl

/-- The dispatch of a chosen channel's message on an entry that is not traced. -/
theorem dispatch_of_choose {s : State} {ch : BitVec 8} {q : QEntry} {i : Fin 4} (hc : s.choose = some ch)
    (hq : nextEntry (s.here.net.queue ch) = some q) (hi : s.freeFor (s.here.entry ch) = some i) (ht : (s.here.entry ch).getLsbD 60 = false) :
    s.dispatch = { s with here := { s.here with
      acts := s.here.acts.set i (s.newAct (s.here.entry ch) ch q.msg)
      seqNo := (s.newAct (s.here.entry ch) ch q.msg).aseq
      live := { s.here.live with rot := s.here.live.rot.setIfInBounds (s.priority ch) ch, ages := drop1 s.here.live.ages ch.toNat }
      net := s.here.net.setQueue ch (if (s.here.entry ch).getLsbD 58 = true then dropFirst (fun x => !x.running) (s.here.net.queue ch)
        else mapFirst (fun x => !x.running) (fun x => { x with running := true }) (s.here.net.queue ch)) } } := by
  have hact : (s.newAct (s.here.entry ch) ch q.msg).traced = false := ht
  rw [State.dispatch, hc]
  simp only [hq, hi, State.dispatchTo, State.traceIf]
  rw [if_neg]
  · rfl
  · simp [State.act, hact]

/-- The trap of a budget, and nothing before it (R42). -/
theorem spent_iff {s : State} (hb : s.act.busy = true) (hh : s.here.dbg.held ≠ some s.slot) :
    s.spent = true ↔ 64 * (s.act.entry.extractLsb' 32 16 : BitVec 16).toNat ≤ s.acnt.toNat := by
  have hran : s.ran = s.acnt := by rw [State.ran, if_neg hh]; exact BitVec.sub_zero _
  rw [State.spent, hb, hran, Bool.true_and, decide_eq_true_eq, Nat.mul_comm]
  rfl

/-- An age with the levels that it has gained noted (R158). -/
def promoted (a : Nat × Age) : Nat × Age := (a.1, { a.2 with boost := min 6 a.2.levels })

/-- Settles O47: the choice by its pool and rotation, the dispatch by the registers at entry, an age and a budget each by its one definition. -/
theorem dispatch : Obligations.Dispatch := by
  refine ⟨⟨fun s ch c h hq hr => choose_spec h (mem_runnables hq hr), fun s h => ?none, fun s ch q i hc hq hi hdst ht hp => ?some⟩, fun s => ?ages, fun s ch => ?boost,
    fun s hb hp hh => ?budget⟩
  case none =>
    have hd : s.dispatch = s := by rw [State.dispatch, h]
    exact congrArg Host.Outcome.next hd
  case some =>
    obtain ⟨img, himg⟩ := image_of_runnable (List.mem_filter.mp (runnable_of_choose hc)).2
    have hcore : s.core q.msg.dst = s.here := if_pos hdst
    have hpaired : (q.msg.isCopyAt s.at_ || bit (s.here.entry ch) 59) = false := by
      rw [Msg.isCopyAt, hdst, bne_self_eq_false, Bool.false_or]
      exact hp
    refine ⟨s.newAct (s.here.entry ch) ch q.msg, rfl, rfl, rfl, rfl, rfl, rfl, hpaired, rfl, rfl, rfl, ?_, rfl, rfl, rfl, fun r => ?_, entryV_getElem q.msg, fun r => ?_, fun r => ?_,
      congrArg Host.Outcome.next (dispatch_of_choose hc hq hi ht)⟩
    · rw [State.newAct]
      exact (congrArg (fun o => some (Option.getD o ImgEntry.zero)) himg).trans himg.symm
    · have hg := entryG_getElem s q.msg.dst (s.here.region (s.here.entry ch)).1 q.msg r
      rw [hdst] at hg
      rw [← hg, State.newAct, hcore, hdst]
    · exact Vector.getElem_replicate _
    · exact Vector.getElem_replicate _
  case ages =>
    refine ⟨s.here.live.ages.map promoted, ?_, ?_, fun x hx => ?_, rfl⟩
    · rw [List.map_map]
      rfl
    · rw [List.map_map]
      rfl
    · obtain ⟨y, -, rfl⟩ := List.mem_map.mp hx
      rfl
  case boost =>
    intro p
    have hprio : s.priority ch = if p < 6 then max p (min 6 (p + s.boost ch)) else p := rfl
    refine ⟨fun h => hprio.trans (if_neg (by omega)), fun h hl => ?_, fun h a hl => ?_⟩
    · have hb : s.boost ch = 0 := by rw [State.boost, hl]; rfl
      rw [hprio, if_pos h, hb]
      omega
    · have hb : s.boost ch = a.count.toNat / 65536 := by rw [State.boost, hl]; rfl
      rw [hprio, if_pos h, hb]
  case budget =>
    refine ⟨fun h => congrArg Host.Outcome.next ?_, fun h => congrArg Host.Outcome.next ?_⟩
    · simp only [(spent_iff hb hh).mpr h, hp]
      rfl
    · rw [if_neg (fun hs => by have := (spent_iff hb hh).mp hs; omega)]

end Sys2Proof.Safety
end

section
/-! PROOFS. Canonical memories (O5): what every step keeps, and the cores and packages of a machine. -/

namespace Sys2Proof.Safety

open Sys2Proof.Machine

/-! Association lists. -/

/-- An entry of a list with one entry put in. -/
theorem mem_of_mem_put {α : Type} {l : List (Nat × α)} {a : Nat} {v : α} {x : Nat × α} (h : x ∈ put l a v) : x = (a, v) ∨ x ∈ l := by
  induction l with
  | nil => exact .inl (List.mem_singleton.mp h)
  | cons y t ih =>
    obtain ⟨k, w⟩ := y
    rw [put] at h
    split at h
    · exact List.mem_cons.mp h
    · split at h
      · exact (List.mem_cons.mp h).imp_right (List.mem_cons_of_mem _)
      · rcases List.mem_cons.mp h with rfl | h
        · exact .inr List.mem_cons_self
        · exact (ih h).imp_right (List.mem_cons_of_mem _)

/-- An entry of a list with one key left out. -/
theorem mem_of_mem_drop1 {α : Type} {l : List (Nat × α)} {a : Nat} {x : Nat × α} (h : x ∈ drop1 l a) : x ∈ l := by
  induction l with
  | nil => exact h
  | cons y t ih =>
    obtain ⟨k, w⟩ := y
    rw [drop1] at h
    split at h
    · exact List.mem_cons_of_mem _ (ih h)
    · rcases List.mem_cons.mp h with rfl | h
      · exact List.mem_cons_self
      · exact List.mem_cons_of_mem _ (ih h)

/-- Every value of a list meets a predicate once a value that meets it is put in. -/
theorem forall_mem_put {α : Type} {P : α → Prop} {l : List (Nat × α)} (h : ∀ x ∈ l, P x.2) {a : Nat} {v : α} (hv : P v) : ∀ x ∈ put l a v, P x.2 := fun x hx => by
  rcases mem_of_mem_put hx with rfl | hx
  · exact hv
  · exact h x hx

/-- The value found in a list, or a default, meets what all values do. -/
theorem look_getD_of_forall {α : Type} {P : α → Prop} {l : List (Nat × α)} (h : ∀ x ∈ l, P x.2) {d : α} (hd : P d) (a : Nat) : P ((look l a).getD d) := by
  cases hl : look l a with
  | none => exact hd
  | some v => exact h _ (mem_of_look hl)

/-! Cores and packages of a machine. -/

/-- An effect after which every memory is canonical, in the machine that it holds, if any. -/
def EffWf : Effect → Prop
  | .ok t | .jump t _ | .wait t _ | .goOn t | .fin t => Wf t
  | .trap _ | .stall _ => True

/-- An outcome whose next state has canonical memories. -/
def OutWf : Host.Outcome State Fault Refusal → Prop
  | .next t => Wf t
  | _ => True

section
variable {s t : State} {a : CoreAddr} {c : Core}

theorem Wf.here (h : Wf s) : coreWf s.here := h.1

theorem Wf.ite {p : Prop} [Decidable p] (hs : Wf s) (ht : Wf t) : Wf (if p then s else t) := by
  split
  · exact hs
  · exact ht

theorem Wf.some (h : Wf s) : ∀ t ∈ some s, Wf t := fun _ ht => Option.some.inj ht ▸ h

theorem Wf.none : ∀ t ∈ (none : Option State), Wf t := fun _ ht => nomatch ht

theorem coreWf.ite {p : Prop} [Decidable p] {c d : Core} (hc : coreWf c) (hd : coreWf d) : coreWf (if p then c else d) := by
  split
  · exact hc
  · exact hd

theorem pkgWf.ite {p : Prop} [Decidable p] {k l : Package} (hk : pkgWf k) (hl : pkgWf l) : pkgWf (if p then k else l) := by
  split
  · exact hk
  · exact hl

theorem EffWf.ite {p : Prop} [Decidable p] {e f : Effect} (he : EffWf e) (hf : EffWf f) : EffWf (if p then e else f) := by
  split
  · exact he
  · exact hf

theorem OutWf.ite {p : Prop} [Decidable p] {o q : Host.Outcome State Fault Refusal} (ho : OutWf o) (hq : OutWf q) : OutWf (if p then o else q) := by
  split
  · exact ho
  · exact hq

/-- A machine that differs in its acting core. -/
theorem Wf.withHere (h : Wf s) (hc : coreWf t.here) (ha : t.away = s.away) (hk : t.pkgs = s.pkgs) (hm : t.hostMem = s.hostMem) : Wf t :=
  ⟨hc, ha ▸ h.2.1, hk ▸ h.2.2.1, hm ▸ h.2.2.2⟩

theorem Wf.core (h : Wf s) : coreWf (s.core a) := by
  rw [State.core]
  split
  · exact h.here
  · exact look_getD_of_forall h.2.1 coreWf_reset a.toNat

theorem Wf.setCore (h : Wf s) (hc : coreWf c) : Wf (s.setCore a c) := by
  rw [State.setCore]
  split
  · exact ⟨hc, h.2⟩
  · exact ⟨h.here, forall_mem_put h.2.1 hc, h.2.2⟩

theorem Wf.focus (h : Wf s) : Wf (s.focus a) := by
  rw [State.focus]
  split
  · exact h
  · exact ⟨look_getD_of_forall h.2.1 coreWf_reset a.toNat, forall_mem_put (fun x hx => h.2.1 x (mem_of_mem_drop1 hx)) h.here, h.2.2⟩

theorem Wf.at {f : State → State} (h : Wf s) (hf : ∀ t, Wf t → Wf (f t)) : Wf (s.at a f) := (hf _ h.focus).focus

theorem Wf.pkg (h : Wf s) {p : Nat} : pkgWf (s.pkg p) := look_getD_of_forall h.2.2.1 pkgWf_reset p

theorem Wf.home (h : Wf s) : pkgWf s.home := h.pkg

theorem Wf.setPkg (h : Wf s) {p : Nat} {k : Package} (hk : pkgWf k) : Wf (s.setPkg p k) := ⟨h.here, h.2.1, forall_mem_put h.2.2.1 hk, h.2.2.2⟩

theorem Wf.modHome {f : Package → Package} (h : Wf s) (hf : ∀ k, pkgWf k → pkgWf (f k)) : Wf (s.modHome f) := h.setPkg (hf _ h.home)

theorem Wf.foldl {β : Type} {f : State → β → State} (h : Wf s) (hf : ∀ t x, Wf t → Wf (f t x)) {l : List β} : Wf (l.foldl f s) := by
  induction l generalizing s with
  | nil => exact h
  | cons x l ih => exact ih (hf s x h)

/-- A loop over cores' states keeps what each of its steps keeps. -/
theorem coreWf.foldl {β : Type} {c : Core} {f : Core → β → Core} (h : coreWf c) (hf : ∀ d x, coreWf d → coreWf (f d x)) {l : List β} : coreWf (l.foldl f c) := by
  induction l generalizing c with
  | nil => exact h
  | cons x l ih => exact ih (hf c x h)

theorem pkgWf.foldl {β : Type} {k : Package} {f : Package → β → Package} (h : pkgWf k) (hf : ∀ k x, pkgWf k → pkgWf (f k x)) {l : List β} : pkgWf (l.foldl f k) := by
  induction l generalizing k with
  | nil => exact h
  | cons x l ih => exact ih (hf k x h)

/-- A state that may have been made, or another. -/
theorem Wf.getD {o : Option State} (ho : ∀ u ∈ o, Wf u) (ht : Wf t) : Wf (o.getD t) := by
  cases o with
  | none => exact ht
  | some u => exact ho u rfl

theorem forall_ok {ε α : Type} {P : α → Prop} {x : α} (h : P x) : ∀ r, (Except.ok x : Except ε α) = .ok r → P r := fun _ hr => Except.ok.inj hr ▸ h

theorem forall_access {α : Type} {P : α → Prop} {x : α} (h : P x) : ∀ r, (Access.ok x : Access α) = .ok r → P r := fun _ hr => Access.ok.inj hr ▸ h

theorem forall_mem_map {α : Type} {o : Option α} {f : α → State} (h : ∀ x, Wf (f x)) : ∀ t ∈ o.map f, Wf t := fun _ ht => by
  obtain ⟨x, -, rfl⟩ := Option.map_eq_some_iff.mp ht
  exact h x

theorem EffWf.of_ok {e : Effect} (h : EffWf e) (he : e = .ok s) : Wf s := by
  rw [he] at h
  exact h

/-- The memory behind a port of a package. -/
theorem pkgWf.poolMem {k : Package} (h : pkgWf k) {p : Nat} : memWf (k.poolMem p) = true := look_getD_of_forall (P := fun m => memWf m = true) h.2 rfl p

/-- The memory behind a port replaced. -/
theorem pkgWf.putPool {k : Package} (h : pkgWf k) {p : Nat} {m : Memory} (hm : memWf m = true) : ∀ x ∈ putD k.pool p m [], memWf x.2 = true := by
  rw [putD]
  split
  · exact fun x hx => h.2 x (mem_of_mem_drop1 hx)
  · exact forall_mem_put (P := fun m => memWf m = true) h.2 hm

end

end Sys2Proof.Safety
end

section
/-! PROOFS. Canonical memories (O5): the operations of a core, messages and placements. A lemma `Wf.f`, `coreWf.f` or `pkgWf.f` says that the function `f` of the model keeps the canonical
form of the memories of a machine, a core or a package; they stand in the order of the model. -/

namespace Sys2Proof.Safety

open Sys2Proof.Machine

/-! How messages leave a core (`Net.lean`). -/

theorem Wf.modNet {s : State} {f : Iface → Iface} (h : Wf s) : Wf (s.modNet f) := h

theorem Wf.passDies {s : State} {pkg d e : ℕ} {m : Msg} (h : Wf s) : Wf (s.passDies pkg d e m) := by
  unfold State.passDies
  dsimp only
  split
  · exact h.setPkg h.pkg
  · exact h

theorem Wf.fly {s : State} {m : Msg} (h : Wf s) : Wf (s.fly m) := Wf.ite h.passDies h

theorem Wf.emit1 {s : State} {d : CoreAddr} {kind : BitVec 2} {ch : BitVec 8} {paddr : BitVec 18} {pay : List Strip} {it : OutItem} {m e : Bool} (h : Wf s) : Wf (s.emit1 d kind ch paddr pay it m e) :=
  h.modNet.fly

theorem coreWf.modLessee {c : Core} {ten : BitVec 12} {f : Lessee → Lessee} (h : coreWf c) : coreWf (c.modLessee ten f) := coreWf.ite h h

theorem Wf.emitAll {s : State} {it : OutItem} (h : Wf s) : Wf (s.emitAll it) := h.foldl (fun _ _ h1 => h1.emit1)

theorem Wf.emit {s : State} {it : OutItem} (h : Wf s) : Wf (s.emit it) := by
  unfold State.emit
  split
  · exact Wf.ite h (Wf.emitAll (h.withHere h.here.modLessee rfl rfl rfl))
  · exact h.emitAll

theorem Wf.leaveOwn {s : State} {it : OutItem} (h : Wf s) : Wf (s.leaveOwn it) := Wf.ite h.emit h.modNet

theorem Wf.sendOwn {s : State} {d : CoreAddr} {kind : BitVec 2} {ch : BitVec 8} {cid : BitVec 16} {pay : List Strip} (h : Wf s) : Wf (s.sendOwn d kind ch cid pay) := h.leaveOwn

theorem Wf.drainList {s : State} {blocked x2 : List OutItem} (h : Wf s) : Wf (s.drainList blocked x2) := by
  induction x2 generalizing s blocked with
  | nil => exact h
  | cons it rest ih =>
    rw [State.drainList]
    exact .ite (ih h.emit) (ih h)

theorem Wf.drain {s : State} (h : Wf s) : Wf s.drain := h.drainList

theorem Wf.faultRecord {s : State} {kind tag len : ℕ} {cid : BitVec 16} {space : BitVec 8} {off : Word} (h : Wf s) : Wf (s.faultRecord kind tag cid space off len) := h.sendOwn

theorem Wf.hold {s : State} {it : OutItem} {r : GReq} {kind : ℕ} (h : Wf s) : Wf (s.hold it r kind).1 := by
  unfold State.hold
  split
  · exact h
  · dsimp only
    split
    · exact h
    · split
      · exact h
      · exact h.modNet.faultRecord

theorem Wf.resolve {s : State} {it : OutItem} {r : GReq} {e : RptEntry} (h : Wf s) : Wf (s.resolve it r e).1 := Wf.ite h.modNet h

theorem Wf.lookups {s : State} {done x3 : List OutItem} {refused : List (OutItem × GReq)} (h : Wf s) : Wf (s.lookups done refused x3).1 := by
  induction x3 generalizing s done refused with
  | nil => exact h
  | cons it rest ih =>
    rw [State.lookups]
    split
    · split
      · exact ih h.resolve
      · split
        · exact ih h
        · exact ih h.hold
      · exact ih h
    · exact ih h

/-! The shared operations of an activation (`Ops.lean`). -/

theorem Wf.setAct {s : State} {a : Act} (h : Wf s) : Wf (s.setAct a) := h

theorem Wf.modAct {s : State} {f : Act → Act} (h : Wf s) : Wf (s.modAct f) := h.setAct

theorem Wf.modRegs {s : State} {f : Regs → Regs} (h : Wf s) : Wf (s.modRegs f) := h.modAct

theorem Wf.modCsr {s : State} {f : Csrs → Csrs} (h : Wf s) : Wf (s.modCsr f) := h.modAct

theorem Wf.modMx {s : State} {f : Machine.Matrix → Machine.Matrix} (h : Wf s) : Wf (s.modMx f) := h

theorem Wf.modDbg {s : State} {f : Debug → Debug} (h : Wf s) : Wf (s.modDbg f) := h

theorem Wf.modCtr {s : State} {f : Counters → Counters} (h : Wf s) : Wf (s.modCtr f) := h

theorem Wf.modEng {s : State} {f : Engine → Engine} (h : Wf s) : Wf (s.modEng f) := h

theorem Wf.setG {s : State} {r : BitVec 5} {v : Word} (h : Wf s) : Wf (s.setG r v) := Wf.ite h h.modRegs

theorem Wf.issued {s : State} (h : Wf s) : Wf s.issued := h

theorem Wf.passed {s : State} (h : Wf s) : Wf s.passed := h.modDbg

theorem Wf.retireWith {s : State} {cp : Csrs × Word} (h : Wf s) : Wf (s.retireWith cp) := h.modAct.passed

theorem Wf.retire {s : State} {len : ℕ} (h : Wf s) : Wf (s.retire len) := h.retireWith

theorem Wf.retireTo {s : State} {t : Word} (h : Wf s) : Wf (s.retireTo t) := h.retireWith

theorem Wf.stalled {s : State} {onMsg : Bool} (h : Wf s) : Wf (s.stalled onMsg) := h

theorem Wf.trigger {s : State} {cause : BitVec 3} (h : Wf s) : Wf (s.trigger cause) := Wf.ite (h.foldl (fun _ _ h1 => h1.leaveOwn)) h

theorem Wf.watch {s : State} {rd wr : Bool} {ten : BitVec 12} {ranges : List (ℕ × ℕ)} (h : Wf s) : Wf (s.watch rd wr ten ranges) := Wf.ite h h.modDbg.trigger

theorem Wf.noteStore {s : State} {a : ℕ} {bs : List Byte} (h : Wf s) : Wf (s.noteStore a bs) := Wf.ite h.modAct h

theorem Wf.nearStore {s : State} {a : ℕ} {bs : List Byte} (h : Wf s) : Wf (s.nearStore a bs) :=
  Wf.watch (Wf.noteStore (h.withHere ⟨LocalMem.write_wf _ _ _ _ h.here.1, h.here.2⟩ rfl rfl rfl))

/-- Several writes to a local memory keep it canonical. -/
theorem memWf_foldl_write {m : LocalMem} (h : memWf m.bytes = true) {a : CoreAddr} {key : KeyId} (ws : List (Nat × List Byte)) :
    memWf (ws.foldl (fun (m : LocalMem) (p : Nat × List Byte) => m.write a key p.1 p.2) m).bytes = true := by
  induction ws generalizing m with
  | nil => exact h
  | cons w ws ih => exact ih (LocalMem.write_wf _ _ _ _ h)

theorem Wf.nearStores {s : State} {ws : List (ℕ × List Byte)} (h : Wf s) : Wf (s.nearStores ws) := by
  refine Wf.watch (Wf.foldl ?_ fun _ _ h1 => h1.noteStore)
  exact h.withHere ⟨memWf_foldl_write h.here.1 ws, h.here.2⟩ rfl rfl rfl

theorem Wf.nearLoaded {s : State} {a n : ℕ} (h : Wf s) : Wf (s.nearLoaded a n) := h.watch

theorem Wf.load {s : State} {base : BitVec 5} {ea : Word} {n align : ℕ} (h : Wf s) : ∀ r, (s.load base ea n align) = .ok r → Wf r.2 := by
  intro r hr
  rw [State.load] at hr
  split at hr
  · split at hr
    · cases hr
    · obtain rfl := Except.ok.inj hr
      exact h
  · split at hr
    · cases hr
    · obtain rfl := Except.ok.inj hr
      exact h.nearLoaded

theorem Wf.store {s : State} {ea : Word} {align : ℕ} {bs : List Byte} (h : Wf s) : ∀ r, (s.store ea align bs) = .ok r → Wf r := by
  intro r hr
  rw [State.store] at hr
  split at hr
  · cases hr
  · obtain rfl := Except.ok.inj hr
    exact h.nearStore

theorem Wf.sendRecord {s : State} {d : CoreAddr} {cid : BitVec 16} {r : Record} {org : Machine.Origin} {ord : ℕ} (h : Wf s) : Wf (s.sendRecord d cid r org ord) := h.modNet.drain

theorem Wf.deliver {s : State} {classS : Bool} {cid : BitVec 16} {r : Record} {org : Machine.Origin} {ord : ℕ} (h : Wf s) : Wf (s.deliver classS cid r org ord) := by
  unfold State.deliver
  split
  · exact h.sendRecord
  · split
    · exact h.sendRecord
    · exact h.modCtr

theorem Wf.doubleFault {s : State} (h : Wf s) : Wf s.doubleFault := h.modCtr.modHome (fun _ h1 => h1)

theorem Wf.sendDouble {s : State} {r : Record} {orig nest : BitVec 8} {org : Machine.Origin} {ord : ℕ} (h : Wf s) : Wf (s.sendDouble r orig nest org ord) :=
  Wf.ite h.doubleFault h.sendRecord

theorem Wf.modFunc {s : State} {ten : BitVec 12} {f : Func → Func} (h : Wf s) : Wf (s.modFunc ten f) := by
  unfold State.modFunc
  split
  · exact h.modHome (fun _ h2 => h2)
  · exact h

theorem Wf.asyncRecord {s : State} {cause : Cause} {cid : BitVec 16} {src : CoreAddr} {faddr value : Word} {near : Bool} {fspace : BitVec 8} {org : Machine.Origin} (h : Wf s) : Wf (s.asyncRecord cause cid src faddr near fspace value org) := by
  unfold State.asyncRecord
  dsimp only
  split
  · exact h.sendDouble
  · exact h.deliver

theorem Wf.modWork {s : State} {id : ℕ} {f : CopyCmd → CopyCmd} (h : Wf s) : Wf (s.modWork id f) := h.modEng

theorem Wf.modPart {s : State} {id off : ℕ} {f : CopyPart → CopyPart} (h : Wf s) : Wf (s.modPart id off f) := h.modWork

theorem Wf.failPart {s : State} {id off : ℕ} {cause : Cause} {unit : BitVec 4} {addr : Word} (h : Wf s) : Wf (s.failPart id off cause unit addr) := h.modPart.modWork

theorem Wf.refuseAll {s : State} {x1 : List (OutItem × GReq)} (h : Wf s) : Wf (s.refuseAll x1) := by
  induction x1 generalizing s with
  | nil => exact h
  | cons x rest ih =>
    obtain ⟨it, r⟩ := x
    rw [State.refuseAll]
    apply ih
    split
    · exact h.failPart
    · exact h.failPart
    · exact .ite h.asyncRecord h.asyncRecord

theorem Wf.flush {s : State} (h : Wf s) : Wf s.flush := h.lookups.modNet.refuseAll.drain

theorem Wf.send {s : State} {send : Send} {l : Bool} {part : ℕ} {who : Waiter} (h : Wf s) : EffWf (s.send send l part who) :=
  EffWf.ite (EffWf.ite trivial h.modAct.modNet.flush) (EffWf.ite trivial h.modAct)

theorem Wf.sendAll {s : State} {l : Bool} {x2 : List Send} (h : Wf s) : EffWf (s.sendAll l x2) := by
  induction x2 generalizing s with
  | nil => exact h
  | cons x xs ih =>
    have hx : EffWf (s.send x l 1 .plain) := h.send
    rw [State.sendAll]
    split
    · next t ht => exact ih (hx.of_ok ht)
    · exact hx

theorem Wf.modCore {s : State} {a : CoreAddr} {f : Core → Core} (h : Wf s) (hf : ∀ x0, coreWf x0 → coreWf (f x0)) : Wf (s.modCore a f) := h.setCore (hf _ h.core)

theorem Wf.traceOf {s : State} {a : StepMark} {kind : BitVec 4} {mimm : BitVec 10} {data : Word} (h : Wf s) : Wf (s.traceOf a kind mimm data) := h.modCore (fun _ h1 => h1)

theorem Wf.trace {s : State} {kind : BitVec 4} {mimm : BitVec 10} {data : Word} (h : Wf s) : Wf (s.trace kind mimm data) := h.traceOf

theorem Wf.traceIf {s : State} {kind : BitVec 4} {data : Word} (h : Wf s) : Wf (s.traceIf kind data) := Wf.ite h.trace h

theorem Wf.freeEntry {s : State} (h : Wf s) : Wf s.freeEntry := h.modNet

theorem Wf.abandon {s : State} (h : Wf s) : Wf s.abandon := by
  unfold State.abandon
  split
  · exact h.modMx
  · exact h.modMx
  · exact h
  · exact h

theorem Wf.freeSlot {s : State} (h : Wf s) : Wf s.freeSlot := h.abandon.modDbg.setAct

theorem Wf.keeperMsg {s : State} {d : CoreAddr} {cid : BitVec 16} {aid : BitVec 32} {pay : List Strip} {org : Machine.Origin} {ord : ℕ} (h : Wf s) : Wf (s.keeperMsg d cid aid pay org ord) :=
  h.modNet.drain

theorem Wf.ascentTrap {s : State} {a : Act} {r : Record} {org : Machine.Origin} (h : Wf s) : Wf (s.ascentTrap a r org) := Wf.ite h.keeperMsg (Wf.ite h.keeperMsg h)

theorem Wf.takeTrap {s : State} {t : Trap} {redel : Bool} (h : Wf s) : Wf (s.takeTrap t redel) := by
  unfold State.takeTrap
  refine Wf.ascentTrap ?_
  split
  · exact h.traceIf.freeEntry.freeSlot.sendDouble
  · exact h.traceIf.freeEntry.freeSlot.deliver

theorem Wf.eccSeen {s : State} {near : Word} (h : Wf s) : Wf (s.eccSeen near) := h.modFunc.modCtr.faultRecord

theorem Wf.redeliver {s : State} {t : Trap} (h : Wf s) : Wf (s.redeliver t) := by
  unfold State.redeliver
  dsimp only
  split
  · exact Wf.ite h.modNet.freeSlot h.takeTrap
  · exact h.takeTrap

theorem Wf.trap {s : State} {t : Trap} (h : Wf s) : Wf (s.trap t) :=
  Wf.ite (((Wf.ite h.eccSeen h).abandon).modAct) (Wf.ite ((Wf.ite h.eccSeen h).redeliver) ((Wf.ite h.eccSeen h).takeTrap))

theorem Wf.complete {len : ℕ} {s : State} {x2 : Effect} (h : Wf s) (h' : EffWf x2) : OutWf (complete len s x2) := by
  cases x2 with
  | ok t => exact Wf.retire h'
  | jump t p => exact Wf.retireTo h'
  | trap t => exact h.trap
  | stall m => exact h.stalled
  | wait t m => exact Wf.stalled h'
  | goOn t => exact h'
  | fin t => exact h'

theorem Wf.finish {len : ℕ} {s : State} {x2 : Effect} (h : Wf s) (h' : EffWf x2) : OutWf (finish len s x2) := by
  cases x2 with
  | ok t => exact Wf.issued (Wf.retire h')
  | jump t p => exact Wf.issued (Wf.retireTo h')
  | trap t => exact h.trap.issued
  | stall m => exact h.stalled
  | wait t m => exact Wf.stalled h'
  | goOn t => exact Wf.issued h'
  | fin t => exact Wf.issued h'

theorem Wf.ofExcept {x : Except Trap State} (h : ∀ r, x = .ok r → Wf r) : EffWf (Effect.ofExcept x) := by
  cases x with
  | ok t => exact h t rfl
  | error t => trivial

theorem Wf.endAct {s : State} (h : Wf s) : Wf s.endAct :=
  Wf.ite ((Wf.ite h.traceIf.freeEntry.freeSlot h.traceIf.freeEntry.freeSlot.modNet.flush).keeperMsg) (Wf.ite h.traceIf.freeEntry.freeSlot h.traceIf.freeEntry.freeSlot.modNet.flush)

theorem Wf.settle {s : State} {m : Msg} (h : Wf s) : Wf (s.settle m) := h

theorem Wf.settleNacked {s : State} {m : Msg} (h : Wf s) : Wf (s.settleNacked m) := h

theorem Wf.nack {s : State} {m : Msg} {cause : Cause} {value : Word} (h : Wf s) : Wf (s.nack m cause value) := h.modFunc.leaveOwn.settleNacked

/-! The ingress of a core (`Ingress.lean`). -/

theorem Wf.digested {s : State} {m : Msg} (h : Wf s) : Wf (s.digested m) := by
  unfold State.digested
  dsimp only
  split
  · exact h.modDbg
  · exact h.modDbg.modDbg
  · exact Wf.ite h.modDbg.modDbg.trigger h.modDbg.modDbg

theorem Wf.ingress {s : State} {src : CoreAddr} {m : Msg} (h : Wf s) : Wf (s.ingress src m) := h.modNet.digested.foldl (fun _ _ h1 => h1.digested)

theorem Wf.toRing {s : State} {m : Msg} {early copied : Bool} (h : Wf s) : Wf (s.toRing m early copied) := h.modNet

theorem Wf.rearm {s : State} {ten : BitVec 12} (h : Wf s) : Wf (s.rearm ten) := Wf.ite h.modNet h

theorem Wf.quotaRefuse {s : State} {m : Msg} (h : Wf s) : Wf (s.quotaRefuse m) := Wf.ite h.nack h.nack.modNet.asyncRecord

theorem Wf.holdEarly {s : State} {m : Msg} (h : Wf s) : Wf (s.holdEarly m) := Wf.ite h.modNet (Wf.ite h.toRing h.quotaRefuse.modNet)

theorem Wf.absentArrive {s : State} {src : CoreAddr} (h : Wf s) : Wf (s.absentArrive src) := by
  unfold State.absentArrive
  split
  · exact h
  · exact Wf.ite (Wf.settle (Wf.modNet h)) (Wf.nack (Wf.modNet h))

theorem Wf.arriveNew {s : State} {src : CoreAddr} {p : Msg → Bool} {f : Msg → State → State} (h : Wf s) (hf : ∀ x0 x1, Wf x1 → Wf (f x0 x1)) : Wf (s.arriveNew src p f) := by
  unfold State.arriveNew
  split
  · exact h
  · exact Wf.ite h (Wf.ite (Wf.ite h (Wf.ite (hf _ _ (Wf.ingress h)) (Wf.holdEarly h))) (Wf.holdEarly h))

theorem Wf.arrive {s : State} {src : CoreAddr} {p : Msg → Bool} {f : Msg → State → State} (h : Wf s) (hf : ∀ x0 x1, Wf x1 → Wf (f x0 x1)) : Wf (s.arrive src p f) := by
  unfold State.arrive
  split
  · exact h.absentArrive
  · split
    · exact Wf.ite (hf _ _ h.modNet.rearm.ingress) (h.arriveNew hf)
    · exact h.arriveNew hf

theorem Wf.routeThen {m : Msg} {f : State → State} {s : State} (hf : ∀ x0, Wf x0 → Wf (f x0)) (h : Wf s) : Wf (State.routeThen m f s) := Wf.ite (hf _ h) h.nack

theorem Wf.homeWrite {s : State} {key : KeyId} {p : ℕ} {bs : List Byte} (h : Wf s) : Wf (s.homeWrite key p bs) :=
  h.withHere ⟨LocalMem.write_wf _ _ _ _ h.here.1, h.here.2⟩ rfl rfl rfl

theorem Wf.homeRefuse {s : State} {m : Msg} {cause : Cause} {v : Word} (h : Wf s) : Wf (s.homeRefuse m cause v) := Wf.ite h.nack.modCtr.faultRecord h.nack

/-! Which event takes an arriving message (`Classify.lean`). -/

theorem Wf.runRole {s : State} {m : Msg} {f : Msg → State → State} (h : Wf s) (hf : ∀ x0 x1, Wf x1 → Wf (f x0 x1)) : Wf (s.runRole m f) := hf _ _ h.modNet

theorem Wf.takes {s : State} {i : Instr} {p : Msg → Bool} {f : Msg → State → State} (h : Wf s) (hf : ∀ x0 x1, Wf x1 → Wf (f x0 x1)) : Wf (s.takes i p f) := by
  unfold State.takes
  split
  · exact Wf.ite (h.runRole hf) h
  · exact h.arrive hf

/-! Arrivals, joins, barriers and spill rings (`Arrive.lean`). -/

theorem Wf.enqueue {s : State} {m : Msg} (h : Wf s) : Wf (s.enqueue m) := h.modNet.settle

theorem Wf.copyToTwin {s : State} {m : Msg} (h : Wf s) : Wf (s.copyToTwin m) := by
  unfold State.copyToTwin
  split
  · exact h.modCore (fun _ h2 => h2)
  · exact h

theorem Wf.keepReport {s : State} {m : Msg} (h : Wf s) : Wf (s.keepReport m) := h.modEng

theorem Wf.accept {s : State} {m : Msg} (h : Wf s) : Wf (s.accept m) :=
  Wf.ite h.modCtr.modFunc.modNet.settle (Wf.ite ((Wf.ite h.modNet h).toRing) (Wf.ite (((Wf.ite h.modNet h).settle).keepReport) ((Wf.ite ((Wf.ite h.modNet h).toRing) ((Wf.ite h.modNet h).enqueue)).copyToTwin)))

theorem Wf.refuse {s : State} {m : Msg} {x2 : Refused} (h : Wf s) : Wf (s.refuse m x2) := by
  unfold State.refuse
  split
  · exact h.nack
  · exact h.quotaRefuse

theorem Wf.arriveAt {s : State} {m : Msg} {r amount : ℕ} {kind : BitVec 1} {put : Option (ℕ × List Byte)} (h : Wf s) : Wf (s.arriveAt m r amount kind put) := by
  unfold State.arriveAt
  split
  · exact h.homeRefuse
  · dsimp only
    split
    · exact h.nack
    · split
      · exact h.homeWrite.nack
      · split
        · exact h.homeRefuse
        · next t ht =>
          have h1 : Wf t := by
            split at ht
            · exact Except.ok.inj ht ▸ h
            · split at ht
              · cases ht
              · exact Except.ok.inj ht ▸ h.homeWrite.watch
          exact .ite h1.homeWrite.watch.settle.sendOwn h1.homeWrite.watch.settle

theorem Wf.arrivePut {s : State} {m : Msg} (h : Wf s) : Wf (s.arrivePut m) := by
  unfold State.arrivePut
  split
  · exact h.arriveAt
  · split
    · exact h.refuse
    · split
      · exact h.homeRefuse
      · exact h.homeWrite.watch.accept

theorem Wf.arriveMsg {s : State} {m : Msg} (h : Wf s) : Wf (s.arriveMsg m) := by
  unfold State.arriveMsg
  split
  · exact h.arrivePut
  · split
    · exact h.refuse
    · exact h.accept

theorem Wf.execMessageArrival {s : State} (h : Wf s) : OutWf (execMessageArrival s) := by
  unfold Machine.execMessageArrival
  split
  · exact h.runRole (fun _ _ h2 => h2.keepReport)
  · exact h.arrive (fun _ _ h2 => Wf.routeThen (fun _ h3 => h3.arriveMsg) h2)

theorem Wf.execSpill {s : State} (h : Wf s) : OutWf (execSpill s) := by
  unfold Machine.execSpill
  split
  · exact h
  · exact Wf.ite h.modNet h.modNet.settle

theorem Wf.spillBack {s : State} {ch : BitVec 8} (h : Wf s) : Wf (s.spillBack ch) := by
  unfold State.spillBack
  split
  · exact h
  · split
    · exact h
    · exact (Wf.ite h.modNet h.modNet.copyToTwin).rearm

theorem Wf.execSpillReturn {s : State} (h : Wf s) : OutWf (execSpillReturn s) := Wf.ite h h.spillBack

theorem Wf.settledWaiter {s : State} {x1 : Waiter} (h : Wf s) : Wf (s.settledWaiter x1) := by
  unfold State.settledWaiter
  split
  · exact h.modPart
  · exact h

theorem Wf.execSettleAck {s : State} (h : Wf s) : OutWf (execSettleAck s) := by
  unfold Machine.execSettleAck
  split
  · exact h
  · dsimp only
    split
    · exact h
    · exact Wf.ite (Wf.modNet h) (Wf.settledWaiter (Wf.modNet h))

theorem Wf.modGet {s : State} {id : ℕ} {f : GetOp → GetOp} (h : Wf s) : Wf (s.modGet id f) := h.modNet

theorem Wf.nackRecord {s : State} {m : Msg} {r : SentRec} {hdr : BitVec 128} (h : Wf s) : Wf (s.nackRecord m r hdr) := h.asyncRecord

/-! Remote operations at their home (`Home.lean`). -/

theorem pkgWf.poolWrite {k : Package} {port a : ℕ} {bs : List Byte} (h : pkgWf k) : pkgWf (k.poolWrite port a bs) := ⟨h.1, h.putPool (memWrite_wf _ _ h.poolMem)⟩

theorem Wf.writePlace {s : State} {bs : List Byte} {x2 : Place} (h : Wf s) : Wf (s.writePlace bs x2) := by
  unfold State.writePlace
  split
  · exact h.homeWrite
  · exact h.modHome (fun _ h2 => h2.poolWrite)

theorem Wf.watchPlace {s : State} {rd wr : Bool} {m : Msg} {n : ℕ} {x5 : Place} (h : Wf s) : Wf (s.watchPlace rd wr m n x5) := by
  unfold State.watchPlace
  split
  · exact h.watch
  · exact h

theorem Wf.perform {s : State} {m : Msg} {perm : Machine.Perm} {store : Bool} {n : ℕ} {f : Place → State → State} (h : Wf s) (hf : ∀ x0 x1, Wf x1 → Wf (f x0 x1)) : Wf (s.perform m perm store n f) := by
  unfold State.perform
  split
  · exact h.homeRefuse
  · exact Wf.settle (hf _ _ h)

theorem Wf.request {s : State} {i : Instr} {f : Msg → State → State} (h : Wf s) (hf : ∀ x0 x1, Wf x1 → Wf (f x0 x1)) : OutWf (s.request i f) :=
  h.takes (fun _ _ h1 => Wf.routeThen (fun _ h2 => hf _ _ h2) h1)

theorem Wf.answer {s : State} {m : Msg} {v w : Word} (h : Wf s) : Wf (s.answer m v w) := Wf.ite h.sendOwn h

theorem Wf.execRemoteLoad {s : State} (h : Wf s) : OutWf (execRemoteLoad s) := h.request (fun _ _ h1 => h1.perform (fun _ _ h2 => h2.watchPlace.answer))

theorem Wf.execRemoteStore {s : State} (h : Wf s) : OutWf (execRemoteStore s) := h.request (fun _ _ h1 => h1.perform (fun _ _ h2 => h2.writePlace.watchPlace))

theorem Wf.putPart {s : State} {m : Msg} {p : Place} (h : Wf s) : Wf (s.putPart m p) := h.writePlace.watchPlace

theorem Wf.execRemotePut {s : State} (h : Wf s) : OutWf (execRemotePut s) := h.request (fun _ _ h1 => h1.perform (fun _ _ h2 => h2.putPart))

theorem Wf.execRemotePutr {s : State} (h : Wf s) : OutWf (execRemotePutr s) := h.request (fun _ _ h1 => h1.perform (fun _ _ h2 => h2.putPart.sendOwn))

theorem Wf.sendLandings {s : State} {m : Msg} {bs : List Byte} (h : Wf s) : Wf (s.sendLandings m bs) := h.foldl (fun _ _ h1 => h1.sendOwn)

theorem Wf.execRemoteGet {s : State} (h : Wf s) : OutWf (execRemoteGet s) := h.request (fun _ _ h1 => h1.perform (fun _ _ h2 => h2.watchPlace.sendLandings))

theorem Wf.execRemoteAtomic {s : State} (h : Wf s) : OutWf (execRemoteAtomic s) := h.request (fun _ _ h1 => h1.perform (fun _ _ h2 => h2.writePlace.watchPlace.answer))

theorem Wf.execRemoteJdec {s : State} (h : Wf s) : OutWf (execRemoteJdec s) := h.request (fun _ _ h1 => Wf.ite h1.nack h1.arriveAt)

theorem Wf.landBytes {s : State} {kslot : BitVec 4} {p : ℕ} {bs : List Byte} (h : Wf s) : ∀ r, (s.landBytes kslot p bs) = .ok r → Wf r := by
  intro r hr
  rw [State.landBytes] at hr
  split at hr
  · cases hr
  · split at hr
    · cases hr
    · obtain rfl := Except.ok.inj hr
      exact h.homeWrite

theorem Wf.landPart {s : State} {g : GetOp} {p : GetPart} (h : Wf s) : Wf (s.landPart g p) := by
  unfold State.landPart
  split
  · next ht1 =>
      exact ((h.landBytes _ ht1).watch).modGet
  · exact h.modGet

theorem Wf.landGet {s : State} {m : Msg} (h : Wf s) : Wf (s.landGet m) := by
  unfold State.landGet
  dsimp only
  split
  · exact h
  · split
    · exact h
    · exact Wf.ite h.landPart h.modGet

theorem Wf.execGetCompletion {s : State} (h : Wf s) : OutWf (execGetCompletion s) := by
  unfold Machine.execGetCompletion
  split
  · exact h
  · exact h.modNet.sendOwn

/-! Placement faults and installs (`Placement.lean`). -/

theorem pkgWf.placeRegion {k : Package} {e : RptEntry} (h : pkgWf k) : pkgWf (k.placeRegion e) := pkgWf.ite h h

theorem Wf.bindKey {s : State} {slot : BitVec 4} {ten : BitVec 12} (h : Wf s) : Wf (s.bindKey slot ten) := Wf.ite h h

theorem pkgWf.giveSlot {k : Package} {ten : BitVec 12} {n : BitVec 4} (h : pkgWf k) : pkgWf (k.giveSlot ten n) := pkgWf.ite h h

theorem Wf.zeroUnder {s : State} {key : KeyId} {r : ℕ × ℕ} (h : Wf s) : Wf (s.zeroUnder key r) := h.homeWrite

theorem Wf.initRegion {s : State} {e : RptEntry} (h : Wf s) : Wf (s.initRegion e) := by
  unfold State.initRegion
  split
  · exact h
  · exact (Wf.ite h (h.modHome (fun _ h2 => h2.giveSlot))).foldl (fun _ _ h2 => h2.at (fun _ h3 => h3.bindKey.zeroUnder))

theorem Wf.placeRegion {s : State} {e : RptEntry} (h : Wf s) : Wf (s.placeRegion e) :=
  Wf.ite (h.modHome (fun _ h1 => h1.placeRegion)) ((h.modHome (fun _ h1 => h1.placeRegion)).initRegion)

theorem Wf.resumePacket {s : State} {d : CoreAddr} {out : ℕ} {tag : BitVec 4} {cid : BitVec 16} {entry : Strip} (h : Wf s) : Wf (s.resumePacket d out tag cid entry) := h.sendOwn

theorem Wf.answerFault {s : State} {r : FaultRec} (h : Wf s) : ∀ t ∈ (s.answerFault r), Wf t := by
  unfold State.answerFault
  split
  · dsimp only
    split
    · exact h.resumePacket.some
    · split
      · exact Wf.none
      · exact (h.foldl (fun _ _ h2 => h2.resumePacket)).some
  · exact h.resumePacket.some

theorem pkgWf.askHost {k : Package} {p : PrgEntry} (h : pkgWf k) : pkgWf (k.askHost p) := h

theorem Wf.pageRequest {s : State} {r : FaultRec} (h : Wf s) : Wf (s.pageRequest r) := h.modHome (fun _ h1 => h1.askHost)

theorem pkgWf.shoot {k : Package} {e : RptEntry} {l : List CoreAddr} (h : pkgWf k) : pkgWf (k.shoot e l) := h

theorem Wf.shotAck {s : State} {r : FaultRec} (h : Wf s) : Wf (s.shotAck r) := h.modHome (fun _ h1 => h1)

theorem Wf.superviseFault {s : State} {m : Msg} (h : Wf s) : Wf (s.superviseFault m) :=
  Wf.ite (Wf.ite h.pageRequest (Wf.getD h.answerFault h.keepReport)) (Wf.ite h.shotAck h.keepReport)

theorem Wf.execPlacementFaultRecord {s : State} (h : Wf s) : OutWf (execPlacementFaultRecord s) := h.takes (fun _ _ h1 => ((Wf.ite h1.placeRegion h1).settle).superviseFault)

theorem pkgWf.freePrg {k : Package} {p : PrgEntry} (h : pkgWf k) : pkgWf (k.freePrg p) := by
  unfold Package.freePrg
  dsimp only
  split
  · exact h
  · exact pkgWf.askHost h

theorem Wf.execPrgResponse {s : State} (h : Wf s) : OutWf (execPrgResponse s) := by
  unfold Machine.execPrgResponse
  split
  · exact h.modHome (fun _ h2 => h2)
  · exact Wf.at (h.modHome (fun _ h2 => h2.freePrg)) (fun _ h2 => Wf.ite (Wf.getD h2.answerFault h2.keepReport) h2.resumePacket)

theorem Wf.modPlb {s : State} {ten : BitVec 12} {f : List RptEntry → List RptEntry} (h : Wf s) : Wf (s.modPlb ten f) := Wf.ite h h

theorem coreWf.tagAfter {before : Core} {s : State} {i : Fin 16} (_ : coreWf before) (h' : Wf s) : Wf (State.tagAfter before s i) := by
  unfold State.tagAfter
  split
  · exact h'
  · split
    · exact h'.modNet
    · exact Wf.ite h'.modNet.faultRecord h'

theorem Wf.tagsAfter {s : State} {before : Core} (h : Wf s) (h' : coreWf before) : Wf (s.tagsAfter before) := h.foldl (fun _ _ h1 => h'.tagAfter h1)

theorem Wf.modChecks {s : State} {f : Machine.Part → Machine.Part} (h : Wf s) : Wf (s.modChecks f) := h

theorem Wf.install {s : State} {cid : BitVec 16} {e : RptEntry} (h : Wf s) : Wf (s.install cid e) := Wf.ite h (Wf.tagsAfter (Wf.flush (Wf.modChecks h.modPlb)) h.here)

theorem Wf.refuseTag {s : State} {i : Fin 16} (h : Wf s) : Wf (s.refuseTag i) := by
  unfold State.refuseTag
  split
  · exact h
  · exact h.modNet.modChecks.refuseAll.flush.tagsAfter h.here

theorem Wf.resume {s : State} {i : Instr} {f : Msg → State → State} (h : Wf s) (hf : ∀ x0 x1, Wf x1 → Wf (f x0 x1)) : OutWf (s.resume i f) :=
  h.takes (fun _ _ h1 => hf _ _ h1.settle)

theorem Wf.execResumeInstall {s : State} (h : Wf s) : OutWf (execResumeInstall s) := h.resume (fun _ _ h1 => h1.install)

theorem Wf.execResumeRefuse {s : State} (h : Wf s) : OutWf (execResumeRefuse s) := h.resume (fun _ _ h1 => h1.refuseTag)

theorem coreWf.forgets {c : Core} {e : RptEntry} (h : coreWf c) : coreWf (c.forgets e) := h

theorem Wf.ackShoot {s : State} {e : RptEntry} {d : CoreAddr} (h : Wf s) : Wf (s.ackShoot e d) := h.sendOwn

theorem Wf.execPlbShootdown {s : State} (h : Wf s) : OutWf (execPlbShootdown s) := h.resume (fun _ _ h1 => Wf.ite (Wf.modNet h1) h1.ackShoot)

theorem Wf.execShootdownAck {s : State} (h : Wf s) : OutWf (execShootdownAck s) := by
  unfold Machine.execShootdownAck
  split
  · exact h
  · exact h.modNet.ackShoot

/-! Ranges of global addresses (`Gva.lean`). -/

theorem Wf.partWrite {s : State} {ten : BitVec 12} {bs : List Byte} {p : Piece} (h : Wf s) : ∀ r, (s.partWrite ten bs p) = .ok r → Wf r := by
  intro r hr
  rw [State.partWrite] at hr
  dsimp only at hr
  split at hr
  · split at hr
    · cases hr
    · obtain rfl := Except.ok.inj hr
      exact h.setPkg h.pkg.poolWrite
  · split at hr
    · cases hr
    · obtain rfl := Except.ok.inj hr
      exact h.focus.homeWrite.watch.focus

theorem Wf.writeParts {s : State} {ten : BitVec 12} {bs : List Byte} {x3 : List Piece} (h : Wf s) : Wf (s.writeParts ten bs x3).1 := by
  induction x3 generalizing s with
  | nil => exact h
  | cons p rest ih =>
    rw [State.writeParts]
    split
    · exact h
    · next t ht => exact ih (h.partWrite _ ht)

theorem Wf.seeParts {s : State} {ten : BitVec 12} {x2 : List Piece} (h : Wf s) : Wf (s.seeParts ten x2) := by
  induction x2 generalizing s with
  | nil => exact h
  | cons p rest ih =>
    rw [State.seeParts]
    split
    · exact h
    · exact ih (.ite h h.focus.watch.focus)

theorem Wf.seeRead {s : State} {pkg n : ℕ} {ten : BitVec 12} {space : BitVec 8} {off : Word} (h : Wf s) : Wf (s.seeRead pkg ten space off n) := by
  unfold State.seeRead
  split
  · exact h.seeParts
  · exact h

theorem Wf.gvaWrite {s : State} {pkg : ℕ} {ten : BitVec 12} {space : BitVec 8} {off : Word} {bs : List Byte} (h : Wf s) : ∀ r, (s.gvaWrite pkg ten space off bs) = .ok r → Wf r.1 := by
  intro r hr
  rw [State.gvaWrite] at hr
  split at hr
  · obtain rfl := Access.ok.inj hr
    exact h.writeParts
  · cases hr
  · cases hr

/-! Sticky flags (`Flags.lean`). -/

theorem Wf.addFlags {s : State} {f : BitVec 6} (h : Wf s) : Wf (s.addFlags f) := h.modCsr

/-! Vector operands (`Operands.lean`). -/

theorem Wf.setO {s : State} {n : BitVec 3} {v : Strip} (h : Wf s) : Wf (s.setO n v) := h.modAct

theorem Wf.useO {s : State} {src : List (BitVec 3 × BitVec 1)} (h : Wf s) : Wf (s.useO src) := h.modCsr

theorem Wf.setV {s : State} {n : BitVec 5} {x : Strip} (h : Wf s) : Wf (s.setV n x) := h.modRegs

theorem Wf.setK {s : State} {n : BitVec 2} {x : BitVec 32} (h : Wf s) : Wf (s.setK n x) := Wf.ite h h.modRegs

theorem Wf.setTm {s : State} {n : BitVec 3} {x : TMap} (h : Wf s) : Wf (s.setTm n x) := h.modRegs

theorem Wf.vec {s : State} {d : BitVec 3} {w n : ℕ} {k : BitVec 2} {src : List (BitVec 3 × BitVec 1)} {f : ℕ → ℕ × BitVec 6} (h : Wf s) : Wf (s.vec d w n k src f) :=
  h.useO.addFlags.setO

theorem Wf.cmp {s : State} {e k : BitVec 2} {n : ℕ} {src : List (BitVec 3 × BitVec 1)} {f : ℕ → Bool × BitVec 6} (h : Wf s) : Wf (s.cmp e n k src f) := h.useO.addFlags.setK

/-! Neighbour links (`Links.lean`). -/

theorem Wf.setLink {s : State} {p : Fin 4} {l : Link} (h : Wf s) : Wf (s.setLink p l) := h

theorem Wf.linkTake {s : State} {p : Fin 4} {w : LinkWord} {rest : List LinkWord} (h : Wf s) : Wf (s.linkTake p w rest) := h.setLink

theorem Wf.linkPut {s : State} {p : Fin 4} {v : Strip} (h : Wf s) : Wf (s.linkPut p v) := h.setLink

theorem Wf.linkPop {p : Fin 4} {f : State → Strip → State} {s : State} (hf : ∀ x0 x1, Wf x0 → Wf (f x0 x1)) (h : Wf s) : EffWf (linkPop p f s) := by
  unfold Machine.linkPop
  split
  · exact hf _ _ h.linkTake
  · exact EffWf.ite trivial trivial

theorem Wf.linkForward {p : Fin 4} {f : State → Strip → State} {s : State} (hf : ∀ x0 x1, Wf x0 → Wf (f x0 x1)) (h : Wf s) : EffWf (linkForward p f s) := by
  unfold Machine.linkForward
  dsimp only
  split
  · exact trivial
  · split
    · exact EffWf.ite trivial trivial
    · exact EffWf.ite (hf _ _ h.linkTake.linkPut) trivial

theorem Wf.linkWrite {p : Fin 4} {o : BitVec 3} {l : BitVec 1} {s : State} (h : Wf s) : EffWf (linkWrite p o l s) := EffWf.ite trivial (EffWf.ite h.linkPut.useO trivial)

theorem Wf.execLwin {p : BitVec 2} {n : BitVec 4} {s : State} (h : Wf s) : OutWf (execLwin p n s) := h.finish h.setLink

theorem Wf.execLstat {p : BitVec 2} {d : BitVec 5} {s : State} (h : Wf s) : OutWf (execLstat p d s) := h.finish h.setG

theorem Wf.execLinkWordDelivery {s : State} (h : Wf s) : OutWf (execLinkWordDelivery s) := by
  unfold Machine.execLinkWordDelivery
  dsimp only
  split
  · exact Wf.ite (h.setLink.setCore h.core) h
  · exact h

theorem Wf.execLinkCreditReturn {s : State} (h : Wf s) : OutWf (execLinkCreditReturn s) := by
  unfold Machine.execLinkCreditReturn
  dsimp only
  split
  · exact h.setLink.setCore (coreWf.ite h.core h.core)
  · exact h

/-! Control registers (`Control.lean`). -/

theorem Wf.mxWait {s : State} (h : Wf s) : EffWf s.mxWait := h.modAct

theorem Wf.setCsr {s : State} {c : ℕ} {v : Word} (h : Wf s) : ∀ t ∈ (s.setCsr c v), Wf t := by
  unfold State.setCsr
  split
  · split
    · exact h.modCsr.some
    · exact Wf.none
  · split
    · exact h.modCsr.some
    · exact Wf.none
  · split
    · exact h.modCsr.some
    · exact Wf.none
  · split
    · exact h.modCsr.some
    · exact Wf.none
  · split
    · exact h.modCsr.some
    · exact Wf.none
  · split
    · exact h.modCsr.some
    · exact Wf.none
  · split
    · exact Wf.some h
    · exact Wf.none
  · split
    · exact h.modMx.some
    · exact Wf.none
  · split
    · exact h.modMx.some
    · exact Wf.none
  · exact Wf.none

theorem Wf.csrEff {i : Instr} {c : BitVec 10} {rd : Option (BitVec 5)} {wr : Option (Word → Word)} {s : State} (h : Wf s) : EffWf (csrEff i c rd wr s) := by
  rw [Machine.csrEff]
  split
  · trivial
  · split
    · trivial
    · cases wr with
      | none =>
        refine .ite h.mxWait ?_
        cases rd with
        | none => exact h
        | some d => exact h.setG
      | some f =>
        dsimp only
        split
        · trivial
        · next t ht =>
          have h1 : Wf t := h.setCsr _ ht
          refine .ite h.mxWait ?_
          cases rd with
          | none => exact h1
          | some d => exact h1.setG

theorem Wf.execCrd {d : BitVec 5} {c : BitVec 10} {s : State} (h : Wf s) : OutWf (execCrd d c s) := h.finish h.csrEff

theorem Wf.execCwr {a : BitVec 5} {c : BitVec 10} {s : State} (h : Wf s) : OutWf (execCwr a c s) := h.finish h.csrEff

theorem Wf.execCins {a b : BitVec 5} {c : BitVec 10} {s : State} (h : Wf s) : OutWf (execCins a b c s) := h.finish h.csrEff

theorem Wf.execCxch {a d : BitVec 5} {c : BitVec 10} {s : State} (h : Wf s) : OutWf (execCxch a d c s) := h.finish h.csrEff

theorem Wf.execCrdz {d : BitVec 5} {c : BitVec 10} {s : State} (h : Wf s) : OutWf (execCrdz d c s) := h.finish h.csrEff

theorem Wf.endEff {s : State} (h : Wf s) : EffWf (endEff s) := EffWf.ite trivial h.modAct.endAct

theorem Wf.execEnd {s : State} (h : Wf s) : OutWf (execEnd s) := h.finish h.endEff

theorem Wf.execNop {s : State} (h : Wf s) : OutWf (execNop s) := h.finish h

theorem Wf.execTrap {i : BitVec 10} {s : State} (h : Wf s) : OutWf (execTrap i s) := h.finish trivial

theorem Wf.holdSlot {s : State} (h : Wf s) : Wf s.holdSlot := Wf.ite h h.modDbg.modAct

theorem Wf.brkEff {len : ℕ} {s : State} (h : Wf s) : EffWf (brkEff len s) := EffWf.ite h.retire.holdSlot.trigger trivial

theorem Wf.execBrk {s : State} (h : Wf s) : OutWf (execBrk s) := h.finish h.brkEff

theorem Wf.execCNop {s : State} (h : Wf s) : OutWf (execCNop s) := h.finish h

theorem Wf.execCEnd {s : State} (h : Wf s) : OutWf (execCEnd s) := h.finish h.endEff

theorem Wf.execCBrk {s : State} (h : Wf s) : OutWf (execCBrk s) := h.finish h.brkEff

/-! Selection and dispatch (`Select.lean`). -/

theorem Wf.dispatchTo {s : State} {ch : BitVec 8} {i : Fin 4} {q : QEntry} (h : Wf s) : Wf (s.dispatchTo ch i q) := Wf.traceIf h

theorem Wf.dispatch {s : State} (h : Wf s) : Wf s.dispatch := by
  unfold State.dispatch
  split
  · exact h
  · split
    · exact h.dispatchTo
    · exact h

theorem Wf.refreshAges {s : State} (h : Wf s) : Wf s.refreshAges := h

theorem Wf.promote {s : State} (h : Wf s) : Wf s.promote := h

/-! Lease changes (`Lease.lean`). -/

theorem Wf.cutLink {s : State} {p : Fin 4} (h : Wf s) : Wf (s.cutLink p) := by
  unfold State.cutLink
  split
  · exact h
  · exact h.modCore (fun _ h2 => h2)

theorem Wf.returnAll {s : State} (h : Wf s) : Wf s.returnAll := h.foldl (fun _ _ h1 => h1.spillBack)

theorem Wf.changeLease {s : State} {r : Vector Word 16} {load : Lessee} {area : Option (BitVec 18)} (h : Wf s) : Wf (s.changeLease r load area) := by
  unfold State.changeLease
  extract_lets c ten old _ c' t
  have hc : coreWf c' := by
    refine ⟨?_, h.here.2⟩
    cases area with
    | none => exact h.here.1
    | some x => exact LocalMem.write_wf _ _ _ _ h.here.1
  have ht : Wf t := by
    refine Wf.foldl ?_ fun _ _ h1 => h1.cutLink
    exact ⟨hc, h.2⟩
  exact ht

theorem Wf.leaseEnd {s : State} (h : Wf s) : Wf s.leaseEnd := h.modNet.returnAll

theorem Wf.takeQueued {s : State} {ch : BitVec 8} (h : Wf s) : Wf (s.takeQueued ch) := h.modNet

theorem Wf.leaseRecord {s : State} {d : CoreAddr} {old new : BitVec 12} (h : Wf s) : Wf (s.leaseRecord d old new) := h.sendOwn

theorem Wf.leaseTo {s : State} {m : Msg} (h : Wf s) : Wf (s.leaseTo m) := by
  unfold State.leaseTo
  exact h.changeLease

theorem Wf.leaseFinish {s : State} (h : Wf s) : Wf s.leaseFinish := by
  unfold State.leaseFinish
  split
  · exact Wf.ite h.takeQueued.leaseEnd.leaseRecord h.leaseEnd
  · exact h.leaseEnd

theorem Wf.execPreempt {s : State} (h : Wf s) : OutWf (execPreempt s) := by
  unfold Machine.execPreempt
  split
  · exact h.leaseFinish
  · split
    · exact h
    · exact Wf.ite h (Wf.ite h (Wf.ite h h.leaseTo))

end Sys2Proof.Safety
end

section
/-! PROOFS. Canonical memories (O5): global operations, launches and the units of a core. -/

namespace Sys2Proof.Safety

open Sys2Proof.Machine

/-! Global operations (`Global.lean`). -/

theorem Wf.inPackage {s : State} {d : CoreAddr} {w : Word} {e : Effect} (_ : Wf s) (h' : EffWf e) : EffWf (s.inPackage d w e) := EffWf.ite trivial h'

theorem Wf.sendGlob {s : State} {r : GReq} {l : BitVec 1} (h : Wf s) : EffWf (s.sendGlob r l) := by
  unfold State.sendGlob
  dsimp only
  split
  · exact h.inPackage h.send
  · exact h.send

theorem Wf.gldEff {l p x : BitVec 1} {sz : BitVec 2} {a b : BitVec 5} {c : BitVec 8} {s : State} (h : Wf s) : EffWf (gldEff l sz a b p c x s) :=
  EffWf.ite trivial (EffWf.ite trivial h.sendGlob)

theorem Wf.execGld {l p x : BitVec 1} {sz : BitVec 2} {a b : BitVec 5} {c : BitVec 8} {s : State} (h : Wf s) : OutWf (execGld l sz a b p c x s) := h.finish h.gldEff

theorem Wf.gstEff {l p : BitVec 1} {sz : BitVec 2} {a b : BitVec 5} {s : State} (h : Wf s) : EffWf (gstEff l sz a b p s) := EffWf.ite trivial h.sendGlob

theorem Wf.execGst {l p : BitVec 1} {sz : BitVec 2} {a b : BitVec 5} {s : State} (h : Wf s) : OutWf (execGst l sz a b p s) := h.finish h.gstEff

theorem Wf.moveEff {m : Move} {l p : BitVec 1} {ra rb rc : BitVec 5} {s : State} (h : Wf s) : EffWf (moveEff m l p ra rb rc s) := by
  unfold Machine.moveEff
  dsimp only
  split
  · exact trivial
  · split
    · exact h.sendGlob
    · split
      · exact trivial
      · exact h.nearLoaded.sendGlob

theorem Wf.execPut {l p : BitVec 1} {a b c : BitVec 5} {s : State} (h : Wf s) : OutWf (execPut l p a b c s) := h.finish h.moveEff

theorem Wf.execPutr {l p : BitVec 1} {a b c : BitVec 5} {s : State} (h : Wf s) : OutWf (execPutr l p a b c s) := h.finish h.moveEff

theorem Wf.execGet {l p : BitVec 1} {a b c : BitVec 5} {s : State} (h : Wf s) : OutWf (execGet l p a b c s) := h.finish h.moveEff

theorem Wf.atomicEff {fn : ℕ} {r l p : BitVec 1} {a b : BitVec 5} {c : BitVec 8} {s : State} (h : Wf s) : EffWf (atomicEff fn r l p a b c s) :=
  EffWf.ite trivial (EffWf.ite trivial h.sendGlob)

theorem Wf.execAadd {r l p : BitVec 1} {a b : BitVec 5} {c : BitVec 8} {s : State} (h : Wf s) : OutWf (execAadd r l p a b c s) := h.finish h.atomicEff

theorem Wf.execAand {r l p : BitVec 1} {a b : BitVec 5} {c : BitVec 8} {s : State} (h : Wf s) : OutWf (execAand r l p a b c s) := h.finish h.atomicEff

theorem Wf.execAor {r l p : BitVec 1} {a b : BitVec 5} {c : BitVec 8} {s : State} (h : Wf s) : OutWf (execAor r l p a b c s) := h.finish h.atomicEff

theorem Wf.execAxor {r l p : BitVec 1} {a b : BitVec 5} {c : BitVec 8} {s : State} (h : Wf s) : OutWf (execAxor r l p a b c s) := h.finish h.atomicEff

theorem Wf.execAmin {r l p : BitVec 1} {a b : BitVec 5} {c : BitVec 8} {s : State} (h : Wf s) : OutWf (execAmin r l p a b c s) := h.finish h.atomicEff

theorem Wf.execAmax {r l p : BitVec 1} {a b : BitVec 5} {c : BitVec 8} {s : State} (h : Wf s) : OutWf (execAmax r l p a b c s) := h.finish h.atomicEff

theorem Wf.execAminu {r l p : BitVec 1} {a b : BitVec 5} {c : BitVec 8} {s : State} (h : Wf s) : OutWf (execAminu r l p a b c s) := h.finish h.atomicEff

theorem Wf.execAmaxu {r l p : BitVec 1} {a b : BitVec 5} {c : BitVec 8} {s : State} (h : Wf s) : OutWf (execAmaxu r l p a b c s) := h.finish h.atomicEff

theorem Wf.execAswap {r l p : BitVec 1} {a b : BitVec 5} {c : BitVec 8} {s : State} (h : Wf s) : OutWf (execAswap r l p a b c s) := h.finish h.atomicEff

theorem Wf.execAcas {r l p : BitVec 1} {a b : BitVec 5} {c : BitVec 8} {s : State} (h : Wf s) : OutWf (execAcas r l p a b c s) := h.finish h.atomicEff

theorem Wf.execAfadd {r l p : BitVec 1} {a b : BitVec 5} {c : BitVec 8} {s : State} (h : Wf s) : OutWf (execAfadd r l p a b c s) := h.finish h.atomicEff

/-! Sends, joins and barriers (`Messages.lean`). -/

theorem Wf.sendEff {f : SendFn} {l : BitVec 1} {a v : BitVec 5} {n : BitVec 4} {c : BitVec 8} {s : State} (h : Wf s) : EffWf (sendEff f l a v n c s) := by
  unfold Machine.sendEff
  split
  · exact trivial
  · exact h.inPackage h.send

theorem Wf.execSend {l : BitVec 1} {a v : BitVec 5} {n : BitVec 4} {c : BitVec 8} {s : State} (h : Wf s) : OutWf (execSend l a v n c s) := h.finish h.sendEff

theorem Wf.execSendp {l : BitVec 1} {a v : BitVec 5} {n : BitVec 4} {c : BitVec 8} {s : State} (h : Wf s) : OutWf (execSendp l a v n c s) := h.finish h.sendEff

theorem Wf.execSendm {l : BitVec 1} {a v : BitVec 5} {n : BitVec 4} {c : BitVec 8} {s : State} (h : Wf s) : OutWf (execSendm l a v n c s) := h.finish h.sendEff

theorem Wf.execReply {l : BitVec 1} {a v : BitVec 5} {n : BitVec 4} {c : BitVec 8} {s : State} (h : Wf s) : OutWf (execReply l a v n c s) := h.finish h.sendEff

theorem Wf.modLive {s : State} {f : Lessee → Lessee} (h : Wf s) : Wf (s.modLive f) := h

theorem Wf.onChannel {s : State} {c : BitVec 8} {e : Effect} (_ : Wf s) (h' : EffWf e) : EffWf (s.onChannel c e) := EffWf.ite h' trivial

theorem Wf.setMask {s : State} {c : BitVec 8} {b : Bool} (h : Wf s) : Wf (s.setMask c b) := h.modLive

theorem Wf.execChmask {c : BitVec 8} {s : State} (h : Wf s) : OutWf (execChmask c s) := h.finish (h.onChannel h.setMask)

theorem Wf.execChunmask {c : BitVec 8} {s : State} (h : Wf s) : OutWf (execChunmask c s) := h.finish (h.onChannel h.setMask)

theorem Wf.execChtas {d : BitVec 5} {c : BitVec 8} {s : State} (h : Wf s) : OutWf (execChtas d c s) := h.finish (h.onChannel h.setMask.setG)

theorem Wf.jdecEff {l : BitVec 1} {a : BitVec 5} {n : BitVec 8} {s : State} (h : Wf s) : EffWf (jdecEff l a n s) := EffWf.ite trivial (EffWf.ite trivial (h.inPackage h.send))

theorem Wf.execJdec {l : BitVec 1} {a : BitVec 5} {n : BitVec 8} {s : State} (h : Wf s) : OutWf (execJdec l a n s) := h.finish h.jdecEff

theorem Wf.barmEff {b : BitVec 5} {c : BitVec 8} {s : State} (h : Wf s) : EffWf (barmEff b c s) := EffWf.ite trivial (EffWf.ite trivial (EffWf.ite trivial h.modLive))

theorem Wf.execBarm {b : BitVec 5} {c : BitVec 8} {s : State} (h : Wf s) : OutWf (execBarm b c s) := h.finish (h.onChannel h.barmEff)

theorem Wf.execBdis {c : BitVec 8} {s : State} (h : Wf s) : OutWf (execBdis c s) := h.finish (h.onChannel h.modLive)

theorem Wf.lendEff {s : State} (h : Wf s) : EffWf (lendEff s) := EffWf.ite h h.send

theorem Wf.execLend {s : State} (h : Wf s) : OutWf (execLend s) := h.finish h.lendEff

/-! System instructions (`System.lean`). -/

theorem Wf.system {s : State} {fn : ℕ} {e : Effect} (_ : Wf s) (h' : EffWf e) : EffWf (s.system fn e) := EffWf.ite h' trivial

theorem coreWf.loadImage {c : Core} {n : Fin 8} {img : List Byte} {base : ℕ} (h : coreWf c) : coreWf (c.loadImage n img base) := ⟨h.1, memWrite_wf _ _ (memClear_wf _ _ h.2)⟩

theorem Wf.loadFound {s : State} {n : Fin 8} {img : List Byte} (h : Wf s) : Wf (s.loadFound n img).2 := by
  unfold State.loadFound
  split
  · exact h
  · split
    · exact h
    · dsimp only
      split
      · exact h
      · exact h.withHere h.here.loadImage rfl rfl rfl

theorem Wf.loadStaged {s : State} {n : Fin 8} {img : List Byte} (h : Wf s) : Wf (s.loadStaged n img).2 := by
  unfold State.loadStaged
  split
  · exact h
  · exact h.loadFound

theorem Wf.imgldStart {a d : BitVec 5} {s : State} (h : Wf s) : EffWf (imgldStart a d s) := by
  unfold Machine.imgldStart
  dsimp only
  split
  · exact trivial
  · split
    · exact h.setG
    · split
      · exact h.setG
      · split
        · exact trivial
        · exact EffWf.ite h.setG h.modAct

theorem Wf.imgldEff {a d : BitVec 5} {i : BitVec 10} {s : State} (h : Wf s) : EffWf (imgldEff a d i s) := by
  unfold Machine.imgldEff
  split
  · exact h.loadFound.setG
  · exact h.imgldStart

theorem Wf.execImgld {a d : BitVec 5} {i : BitVec 10} {s : State} (h : Wf s) : OutWf (execImgld a d i s) := h.finish (h.system h.imgldEff)

theorem Wf.execImgrev {a : BitVec 5} {s : State} (h : Wf s) : OutWf (execImgrev a s) := h.finish (h.system h.send)

theorem Wf.hsetEff {a : BitVec 5} {i : BitVec 10} {s : State} (h : Wf s) : EffWf (hsetEff a i s) := EffWf.ite h.modLive trivial

theorem Wf.execHset {a : BitVec 5} {i : BitVec 10} {s : State} (h : Wf s) : OutWf (execHset a i s) := h.finish (h.system h.hsetEff)

theorem Wf.psetEff {a b : BitVec 5} {i : BitVec 10} {s : State} (h : Wf s) : EffWf (psetEff a b i s) := EffWf.ite trivial h.modLive

theorem Wf.execPset {a b : BitVec 5} {i : BitVec 10} {s : State} (h : Wf s) : OutWf (execPset a b i s) := h.finish (h.system h.psetEff)

theorem Wf.winwEff {a b : BitVec 5} {i : BitVec 10} {s : State} (h : Wf s) : EffWf (winwEff a b i s) := EffWf.ite h trivial

theorem Wf.execWinw {a b : BitVec 5} {i : BitVec 10} {s : State} (h : Wf s) : OutWf (execWinw a b i s) := h.finish (h.system h.winwEff)

theorem Wf.keysetEff {a : BitVec 5} {i : BitVec 10} {s : State} (h : Wf s) : EffWf (keysetEff a i s) := EffWf.ite trivial h

theorem Wf.execKeyset {a : BitVec 5} {i : BitVec 10} {s : State} (h : Wf s) : OutWf (execKeyset a i s) := h.finish (h.system h.keysetEff)

theorem Wf.leaseEff {a b : BitVec 5} {s : State} (h : Wf s) : EffWf (leaseEff a b s) := by
  unfold Machine.leaseEff
  dsimp only
  split
  · exact trivial
  · split
    · exact trivial
    · split
      · exact trivial
      · split
        · exact trivial
        · split
          · exact h.modAct.changeLease
          · exact Wf.stalled (Wf.modAct h)

theorem Wf.execLease {a b : BitVec 5} {s : State} (h : Wf s) : OutWf (execLease a b s) := h.finish (h.system h.leaseEff)

theorem coreWf.dropImage {c : Core} {n : Fin 8} (h : coreWf c) : coreWf (c.dropImage n) := by
  unfold Core.dropImage
  split <;> exact h

theorem Wf.imgevEff {d : BitVec 5} {i : BitVec 10} {s : State} (h : Wf s) : EffWf (imgevEff d i s) := EffWf.ite h.setG (Wf.setG (h.withHere h.here.dropImage rfl rfl rfl))

theorem Wf.execImgev {d : BitVec 5} {i : BitVec 10} {s : State} (h : Wf s) : OutWf (execImgev d i s) := h.finish (h.system h.imgevEff)

theorem Wf.revoke {s : State} {m : Msg} (h : Wf s) : Wf (s.revoke m) := by
  unfold State.revoke
  extract_lets id e gen e' t
  have ht : Wf t := Wf.settle (h.modHome fun _ h1 => h1)
  exact .ite h.nack (ht.foldl (fun _ _ h1 => h1.sendOwn))

theorem Wf.execIgtRevokeRequest {s : State} (h : Wf s) : OutWf (execIgtRevokeRequest s) := h.takes (fun _ _ h1 => h1.revoke)

theorem Wf.markStale {s : State} {m : Msg} (h : Wf s) : Wf (s.markStale m) := h

/-! Launches (`Launch.lean`). -/

theorem Wf.seeImage {s : State} {pkg : ℕ} {ten : BitVec 12} {off : Word} (h : Wf s) : Wf (s.seeImage pkg ten off) := by
  unfold State.seeImage
  dsimp only
  split
  · exact h.seeRead
  · exact h

theorem Wf.seeImages {s : State} {pkg : ℕ} {ten : BitVec 12} {b : List Byte} (h : Wf s) : Wf (s.seeImages pkg ten b) := h.foldl (fun _ _ h1 => h1.seeImage)

theorem pkgWf.modFn {k : Package} {i : ℕ} {f : Func → Func} (h : pkgWf k) : pkgWf (k.modFn i f) := h

theorem Wf.journal {s : State} {vf : ℕ} {seq : Word} {status : BitVec 8} {info : BitVec 40} (h : Wf s) : Wf (s.journal vf seq status info) := h.modHome (fun _ h1 => h1.modFn)

theorem Wf.passWake {s : State} {l : Launch} {root : Bool} (h : Wf s) : Wf (s.passWake l root) := h.modEng.foldl (fun _ _ h1 => h1.leaveOwn)

theorem Wf.putCopy {s : State} {copy : ℕ} {b : List Byte} (h : Wf s) : Wf (s.putCopy copy b) := by
  rw [State.putCopy]
  exact Wf.modHome h fun k hk => ⟨memWrite_wf _ _ hk.1, hk.2⟩

theorem Wf.refuseLaunch {s : State} {vf : ℕ} {seq addr : Word} (h : Wf s) : Wf (s.refuseLaunch vf seq addr) := h.journal.modHome (fun _ h1 => h1.modFn)

theorem Wf.acceptRoot {s : State} {m : Msg} (h : Wf s) : Wf (s.acceptRoot m) := by
  unfold State.acceptRoot
  dsimp only
  split
  · split
    · split
      · exact h.seeRead.seeImages.refuseLaunch
      · exact h.seeRead.seeImages.putCopy.journal.passWake
    · exact h.refuseLaunch
  · exact h.refuseLaunch

theorem Wf.acceptWake {s : State} {m : Msg} (h : Wf s) : Wf (s.acceptWake m) :=
  Wf.ite ((Wf.ite h.seeImages h).nack) ((Wf.ite (((Wf.ite h.seeImages h).settle).putCopy) ((Wf.ite h.seeImages h).settle)).passWake)

theorem Wf.execLaunchAccept {s : State} (h : Wf s) : OutWf (execLaunchAccept s) := h.takes (fun _ _ h1 => Wf.routeThen (fun _ h2 => Wf.ite h2.settle.acceptRoot h2.acceptWake) h1)

theorem Wf.initDeclared {s : State} {n : Fin 8} (h : Wf s) : Wf (s.initDeclared n) := by
  unfold State.initDeclared
  split
  · exact h
  · exact h.foldl (fun _ _ h2 => h2.zeroUnder)

theorem Wf.fitImage {s : State} {keep : List (Fin 8)} {img : List Byte} {x3 : ℕ} (h : Wf s) : Wf (s.fitImage keep img x3).2 := by
  induction x3 generalizing s with
  | zero => exact h
  | succ fuel ih =>
    unfold State.fitImage
    extract_lets free
    split
    · extract_lets r
      split
      · exact h.loadStaged
      · exact h
    · split
      · exact h
      · exact ih (Wf.withHere h h.here.dropImage rfl rfl rfl)

theorem Wf.initialised {r : Option (Fin 8) × State} (h : Wf r.2) : Wf (initialised r).2 := by
  rw [Machine.initialised]
  cases r.1 with
  | none => exact h
  | some n => exact h.initDeclared

theorem Wf.makeResident {s : State} {ten : BitVec 12} {keep : List (Fin 8)} {x : BitVec 32 × BitVec 16 × Word} (h : Wf s) : Wf (s.makeResident ten keep x).2 := by
  unfold State.makeResident
  refine Wf.initialised ?_
  split
  · exact h
  · split
    · exact h
    · dsimp only
      split
      · exact h.seeImage.fitImage
      · exact h.seeImage

theorem Wf.residents {s : State} {ten : BitVec 12} {b : List Byte} {done : List (Fin 8)} {x4 : List ℕ} (h : Wf s) : Wf (s.residents ten b done x4).2 := by
  induction x4 generalizing s done with
  | nil => exact h
  | cons i rest ih =>
    rw [State.residents]
    split
    · exact h.makeResident
    · exact ih h.makeResident

theorem Wf.placeNew {s : State} {kslot : BitVec 4} {lid j n : ℕ} (h : Wf s) : ∀ t ∈ (s.placeNew kslot lid j n), Wf t := by
  intro t ht
  unfold State.placeNew at ht
  extract_lets _ _ drop c₁ c₂ at ht
  have hc : coreWf c₂ := .ite h.here h.here
  clear_value c₂
  split at ht
  · cases ht
  · next base hb =>
    obtain rfl := Option.some.inj ht
    exact Wf.homeWrite ⟨⟨hc.1, hc.2⟩, h.2⟩

theorem Wf.placeRegions {s : State} {kslot : BitVec 4} {b : List Byte} {x3 : List ℕ} (h : Wf s) : ∀ t ∈ (s.placeRegions kslot b x3), Wf t := by
  intro t ht
  delta State.placeRegions State.placeRegions._f at ht
  induction x3 generalizing s with
  | nil =>
    obtain rfl := Option.some.inj ht
    exact h
  | cons j rest ih =>
    dsimp only at ht
    split at ht
    · exact ih h.modLive ht
    · split at ht
      · cases ht
      · next u hu => exact ih (h.placeNew _ hu) ht

theorem Wf.enterLaunch {s : State} {m : Msg} {b : List Byte} {imgs : List (Fin 8)} (h : Wf s) : Wf (s.enterLaunch m b imgs) := h.modLive.sendOwn

theorem Wf.failWake {s : State} {m : Msg} (h : Wf s) : Wf (s.failWake m) := h.sendOwn

theorem Wf.execLaunchWake {s : State} (h : Wf s) : OutWf (execLaunchWake s) := by
  unfold Machine.execLaunchWake
  split
  · exact h
  · dsimp only
    split
    · exact h
    · split
      · exact h.takeQueued.residents.failWake
      · split
        · exact h.takeQueued.residents.failWake
        · next ht3 =>
            exact (h.takeQueued.residents.placeRegions _ ht3).enterLaunch

theorem Wf.failLaunch {s : State} {l : Launch} (h : Wf s) : Wf (s.failLaunch l) := by
  unfold State.failLaunch
  split
  · exact h
  · split
    · exact h.sendOwn
    · exact h.journal

theorem Wf.launchFailed {s : State} {lid : BitVec 32} {ten : BitVec 12} {src : CoreAddr} (h : Wf s) : Wf (s.launchFailed lid ten src) := by
  unfold State.launchFailed
  split
  · exact h
  · exact h.modEng.failLaunch

theorem Wf.execWakeFailure {s : State} (h : Wf s) : OutWf (execWakeFailure s) := h.takes (fun _ _ h1 => Wf.routeThen (fun _ h2 => h2.settle.launchFailed) h1)

theorem Wf.launchEnd {s : State} {l : Launch} (h : Wf s) : Wf (s.launchEnd l) := by
  unfold State.launchEnd
  dsimp only
  split
  · exact (Wf.ite h.journal.modFunc h.journal).sendOwn
  · exact (Wf.ite h.journal.modFunc h.journal).modHome (fun _ h2 => h2.modFn)
  · exact Wf.ite h.journal.modFunc h.journal

theorem Wf.dropCopy {s : State} {l : Launch} (h : Wf s) : Wf (s.dropCopy l) := by
  rw [State.dropCopy]
  exact .ite h (h.modHome fun k hk => ⟨memClear_wf _ _ hk.1, hk.2⟩)

theorem Wf.count {s : State} {lid : BitVec 32} {ten : BitVec 12} {src : CoreAddr} {n : ℕ} (h : Wf s) : Wf (s.count lid ten src n) := by
  unfold State.count
  split
  · exact h
  · split
    · exact h.modEng
    · dsimp only
      split
      · exact h.modEng.dropCopy.sendOwn
      · exact h.modEng.dropCopy.launchEnd

theorem Wf.execLaunchVote {s : State} (h : Wf s) : OutWf (execLaunchVote s) := h.takes (fun _ _ h1 => Wf.routeThen (fun _ h2 => h2.settle.count) h1)

theorem Wf.execCoalesceWindowClose {s : State} (h : Wf s) : OutWf (execCoalesceWindowClose s) := by
  unfold Machine.execCoalesceWindowClose
  refine h.modHome (fun _ h1 => ?_)
  split <;> exact h1

/-! Narrow formats (`Narrow.lean`). -/

theorem Wf.onCompute {mo : ℕ} {s : State} {e : Effect} (_ : Wf s) (h' : EffWf e) : EffWf (onCompute mo s e) := EffWf.ite trivial h'

theorem Wf.withTab {s : State} {side : BitVec 1} {e : Effect} (_ : Wf s) (h' : EffWf e) : EffWf (s.withTab side e) := EffWf.ite trivial h'

theorem Wf.dtldEff {b : BitVec 5} {side : BitVec 1} {o : BitVec 8} {s : State} (h : Wf s) : EffWf (dtldEff b side o s) := by
  unfold Machine.dtldEff
  dsimp only
  split
  · exact trivial
  · next ht1 =>
      exact EffWf.ite ((h.load _ ht1).modMx) trivial

theorem Wf.execDtld {b : BitVec 5} {side : BitVec 1} {o : BitVec 8} {s : State} (h : Wf s) : OutWf (execDtld b side o s) := h.finish (h.onCompute h.dtldEff)

theorem Wf.vdecEff {d a q : BitVec 3} {l side : BitVec 1} {ft : BitVec 2} {s : State} (h : Wf s) : EffWf (vdecEff d a l side q ft s) := h.withTab h.vec

theorem Wf.execVdec {d a q : BitVec 3} {l side : BitVec 1} {ft : BitVec 2} {s : State} (h : Wf s) : OutWf (execVdec d a l side q ft s) := h.finish (h.onCompute h.vdecEff)

theorem Wf.vencEff {d a q : BitVec 3} {l side : BitVec 1} {ft : BitVec 2} {s : State} (h : Wf s) : EffWf (vencEff d a l side q ft s) := by
  unfold Machine.vencEff
  refine h.withTab ?_
  split
  · exact trivial
  · exact h.useO.addFlags.setO

theorem Wf.execVenc {d a q : BitVec 3} {l side : BitVec 1} {ft : BitVec 2} {s : State} (h : Wf s) : OutWf (execVenc d a l side q ft s) := h.finish (h.onCompute h.vencEff)

theorem Wf.setO4 {s : State} {d : BitVec 3} {xs : List ℕ} (h : Wf s) : Wf (s.setO4 d xs) := h.foldl (fun _ _ h1 => h1.setO)

theorem Wf.bldEff {d : BitVec 3} {b : BitVec 5} {side : BitVec 1} {f : BitVec 2} {o : BitVec 8} {s : State} (h : Wf s) : EffWf (bldEff d b side f o s) := by
  unfold Machine.bldEff
  dsimp only
  split
  · exact trivial
  · next ht1 =>
      split
      · split
        · exact (h.load _ ht1).withTab (((h.load _ ht1).addFlags).setO4)
        · exact ((h.load _ ht1).addFlags).setO4
      · exact trivial

theorem Wf.execBld {d : BitVec 3} {b : BitVec 5} {side : BitVec 1} {f : BitVec 2} {o : BitVec 8} {s : State} (h : Wf s) : OutWf (execBld d b side f o s) :=
  h.finish (h.onCompute h.bldEff)

theorem Wf.bstEff {a : BitVec 3} {l side : BitVec 1} {b : BitVec 5} {f : BitVec 2} {o : BitVec 8} {s : State} (h : Wf s) : EffWf (bstEff a l b side f o s) := by
  unfold Machine.bstEff
  dsimp only
  split
  · refine h.withTab ?_
    split
    · exact trivial
    · split
      · exact trivial
      · next ht2 =>
          exact ((h.store _ ht2).useO).addFlags
  · split
    · exact trivial
    · split
      · exact trivial
      · next ht2 =>
          exact ((h.store _ ht2).useO).addFlags

theorem Wf.execBst {a : BitVec 3} {l side : BitVec 1} {b : BitVec 5} {f : BitVec 2} {o : BitVec 8} {s : State} (h : Wf s) : OutWf (execBst a l b side f o s) :=
  h.finish (h.onCompute h.bstEff)

/-! Copy commands (`Copy.lean`). -/

theorem Wf.cpyEff {a b e : BitVec 5} {o : BitVec 10} {s : State} (h : Wf s) : EffWf (cpyEff a b e o s) := by
  unfold Machine.cpyEff
  dsimp only
  split
  · exact trivial
  · next ht1 =>
      exact EffWf.ite trivial ((h.load _ ht1).send)

theorem Wf.execCpy {a b e : BitVec 5} {o : BitVec 10} {s : State} (h : Wf s) : OutWf (execCpy a b e o s) := h.finish h.cpyEff

/-! Fetch failures (`Fetch.lean`). -/

theorem Wf.execFetchFailure {s : State} (h : Wf s) : OutWf (execFetchFailure s) := by
  unfold Machine.execFetchFailure
  split
  · exact h.trap.issued
  · exact h

theorem Wf.execUndefEncoding {s : State} (h : Wf s) : OutWf (execUndefEncoding s) := by
  unfold Machine.execUndefEncoding
  split
  · exact h
  · split
    · exact h.trap.issued
    · exact h

/-! The matrix unit (`Matrix.lean`). -/

theorem Wf.setQ {s : State} {q : BitVec 3} {x : QSlot} (h : Wf s) : Wf (s.setQ q x) := h.modMx

theorem Wf.slotTrap {s : State} (_ : Wf s) : EffWf s.slotTrap := trivial

theorem Wf.qclaimEff {q : BitVec 3} {s : State} (h : Wf s) : EffWf (qclaimEff q s) := EffWf.ite h.setQ h.slotTrap

theorem Wf.execQclaim {q : BitVec 3} {s : State} (h : Wf s) : OutWf (execQclaim q s) := h.finish (h.onCompute h.qclaimEff)

theorem Wf.qtryEff {q : BitVec 3} {d : BitVec 5} {s : State} (h : Wf s) : EffWf (qtryEff q d s) := EffWf.ite h.setQ.setG h.setG

theorem Wf.execQtry {q : BitVec 3} {d : BitVec 5} {s : State} (h : Wf s) : OutWf (execQtry q d s) := h.finish (h.onCompute h.qtryEff)

theorem Wf.qrelEff {q : BitVec 3} {s : State} (h : Wf s) : EffWf (qrelEff q s) := EffWf.ite h.setQ h.slotTrap

theorem Wf.execQrel {q : BitVec 3} {s : State} (h : Wf s) : OutWf (execQrel q s) := h.finish (h.onCompute h.qrelEff)

theorem Wf.qldRaw {q : BitVec 3} {a : BitVec 5} {s : State} (h : Wf s) : EffWf (qldRaw q a s) := by
  unfold Machine.qldRaw
  dsimp only
  split
  · exact trivial
  · exact h.nearLoaded.setQ

theorem Wf.qldBlocks {q : BitVec 3} {a : BitVec 5} {f : BitVec 2} {s : State} (h : Wf s) : EffWf (qldBlocks q a f s) := by
  unfold Machine.qldBlocks
  dsimp only
  split
  · exact trivial
  · split
    · exact trivial
    · exact h.nearLoaded.setQ

theorem Wf.qldEff {q : BitVec 3} {a : BitVec 5} {f : BitVec 2} {s : State} (h : Wf s) : EffWf (qldEff q a f s) := EffWf.ite (EffWf.ite h.qldRaw h.qldBlocks) h.slotTrap

theorem Wf.execQld {q : BitVec 3} {a : BitVec 5} {f : BitVec 2} {_side : BitVec 1} {s : State} (h : Wf s) : OutWf (execQld q a f _side s) := h.finish (h.onCompute h.qldEff)

theorem Wf.qputEff {q o : BitVec 3} {a : BitVec 5} {l : BitVec 1} {s : State} (h : Wf s) : EffWf (qputEff q a o l s) := EffWf.ite trivial (EffWf.ite h.useO.setQ h.slotTrap)

theorem Wf.execQput {q o : BitVec 3} {a : BitVec 5} {l : BitVec 1} {s : State} (h : Wf s) : OutWf (execQput q a o l s) := h.finish (h.onCompute h.qputEff)

theorem Wf.qgetEff {q o : BitVec 3} {a : BitVec 5} {s : State} (h : Wf s) : EffWf (qgetEff q a o s) := EffWf.ite trivial (EffWf.ite h.setO h.slotTrap)

theorem Wf.execQget {q o : BitVec 3} {a : BitVec 5} {s : State} (h : Wf s) : OutWf (execQget q a o s) := h.finish (h.onCompute h.qgetEff)

theorem Wf.qlnkWord {s : State} {q : BitVec 3} {done : ℕ} {v : Strip} {last : Bool} (h : Wf s) : Wf (s.qlnkWord q done v last) := h.setQ.modAct

theorem Wf.qlnkEff {q : BitVec 3} {p : BitVec 2} {w sc : BitVec 1} {s : State} (h : Wf s) : EffWf (qlnkEff q p w sc s) := by
  unfold Machine.qlnkEff
  split
  · dsimp only
    split
    · next ht2 =>
        exact EffWf.ite ((EffWf.ite (Wf.linkForward (fun _ _ h2 => h2.qlnkWord) h) (Wf.linkPop (fun _ _ h2 => h2.qlnkWord) h)).of_ok ht2) ((EffWf.ite (Wf.linkForward (fun _ _ h2 => h2.qlnkWord) h) (Wf.linkPop (fun _ _ h2 => h2.qlnkWord) h)).of_ok ht2)
    · next ht2 =>
        exact EffWf.ite (Wf.linkForward (fun _ _ h2 => h2.qlnkWord) h) (Wf.linkPop (fun _ _ h2 => h2.qlnkWord) h)
  · exact EffWf.ite h.setQ.modAct h.slotTrap

theorem Wf.execQlnk {q : BitVec 3} {p : BitVec 2} {w sc : BitVec 1} {s : State} (h : Wf s) : OutWf (execQlnk q p w sc s) := h.finish (h.onCompute h.qlnkEff)

theorem Wf.accldEff {o : BitVec 3} {b v : BitVec 1} {row col : Word} {s : State} (h : Wf s) : EffWf (accldEff o b v row col s) := by
  unfold Machine.accldEff
  split
  · exact trivial
  · exact EffWf.ite h.mxWait h.setO

theorem Wf.accstEff {o : BitVec 3} {l b v : BitVec 1} {row col : Word} {s : State} (h : Wf s) : EffWf (accstEff o l b v row col s) := by
  unfold Machine.accstEff
  split
  · exact trivial
  · exact EffWf.ite h.mxWait h.useO.modMx

theorem Wf.execAccld {o : BitVec 3} {b v : BitVec 1} {r c : BitVec 7} {s : State} (h : Wf s) : OutWf (execAccld o b v r c s) := h.finish (h.onCompute h.accldEff)

theorem Wf.execAccldReg {o : BitVec 3} {b v : BitVec 1} {r c : BitVec 5} {s : State} (h : Wf s) : OutWf (execAccldReg o b v r c s) := h.finish (h.onCompute h.accldEff)

theorem Wf.execAccst {o : BitVec 3} {l b v : BitVec 1} {r c : BitVec 7} {s : State} (h : Wf s) : OutWf (execAccst o l b v r c s) := h.finish (h.onCompute h.accstEff)

theorem Wf.execAccstReg {o : BitVec 3} {l b v : BitVec 1} {r c : BitVec 5} {s : State} (h : Wf s) : OutWf (execAccstReg o l b v r c s) := h.finish (h.onCompute h.accstEff)

theorem Wf.acczeroEff {k : BitVec 2} {s : State} (h : Wf s) : EffWf (acczeroEff k s) := EffWf.ite h.mxWait h.modMx

theorem Wf.execAcczero {k : BitVec 2} {s : State} (h : Wf s) : OutWf (execAcczero k s) := h.finish (h.onCompute h.acczeroEff)

theorem Wf.mxEnqueue {s : State} {c : MxCmd} (h : Wf s) : Wf (s.mxEnqueue c) := h.modMx

theorem Wf.mmaEff {a b : BitVec 3} {k : BitVec 2} {h : BitVec 1} {c : BitVec 8} {s : State} (hs : Wf s) : EffWf (mmaEff a b k h c s) := by
  unfold Machine.mmaEff
  dsimp only
  split
  · exact trivial
  · exact EffWf.ite trivial hs.mxEnqueue

theorem Wf.execMma {a b : BitVec 3} {k : BitVec 2} {h : BitVec 1} {c : BitVec 8} {s : State} (hs : Wf s) : OutWf (execMma a b k h c s) := hs.finish (hs.onCompute hs.mmaEff)

theorem Wf.mxcmdEff {a b : BitVec 3} {k : BitVec 2} {h : BitVec 1} {c : BitVec 8} {s : State} (hs : Wf s) : EffWf (mxcmdEff a b k h c s) := by
  unfold Machine.mxcmdEff
  dsimp only
  split
  · exact trivial
  · split
    · exact trivial
    · split
      · next ht2 =>
          exact EffWf.ite trivial ((hs.sendAll.of_ok ht2).mxEnqueue)
      · next ht2 =>
          exact hs.sendAll

theorem Wf.execMxcmd {a b : BitVec 3} {k : BitVec 2} {h : BitVec 1} {c : BitVec 8} {s : State} (hs : Wf s) : OutWf (execMxcmd a b k h c s) := hs.finish (hs.onCompute hs.mxcmdEff)

theorem Wf.mxDone {s : State} {c : MxCmd} {stat : BitVec 8} {fl : BitVec 4} (h : Wf s) : Wf (s.mxDone c stat fl) := Wf.ite h.modMx h.modMx.sendOwn

theorem Wf.execMmaCommandStart {s : State} (h : Wf s) : OutWf (execMmaCommandStart s) := by
  unfold Machine.execMmaCommandStart
  split
  · exact Wf.ite h.modMx h
  · exact h

theorem Wf.mxResult {s : State} {c : MxCmd} (h : Wf s) : Wf (s.mxResult c).1 := by
  unfold State.mxResult
  dsimp only
  split
  · exact h.modMx
  · exact h.modMx

theorem Wf.execMmaCommandComplete {s : State} (h : Wf s) : OutWf (execMmaCommandComplete s) := by
  unfold Machine.execMmaCommandComplete
  split
  · exact Wf.ite h (Wf.ite h.modCtr.faultRecord.mxDone h.mxResult.mxDone)
  · exact h

theorem Wf.execRopeCommandTimeout {s : State} (h : Wf s) : OutWf (execRopeCommandTimeout s) := by
  unfold Machine.execRopeCommandTimeout
  split
  · exact Wf.ite h.mxDone h
  · exact h

/-! Near loads and stores (`NearMem.lean`). -/

theorem Wf.loadEff {base : BitVec 5} {off : Word} {n : ℕ} {f : State → ℕ → State} {s : State} (hf : ∀ x0 x1, Wf x0 → Wf (f x0 x1)) (h : Wf s) : EffWf (loadEff base off n f s) := by
  unfold Machine.loadEff
  split
  · exact trivial
  · next ht1 =>
      exact hf _ _ (h.load _ ht1)

theorem Wf.storeEff {base : BitVec 5} {off : Word} {n x : ℕ} {s : State} (h : Wf s) : EffWf (storeEff base off n x s) := Wf.ofExcept h.store

theorem Wf.execLdb {d b : BitVec 5} {o : BitVec 12} {s : State} (h : Wf s) : OutWf (execLdb d b o s) := h.finish (Wf.loadEff (fun _ _ h1 => h1.setG) h)

theorem Wf.execLdh {d b : BitVec 5} {o : BitVec 12} {s : State} (h : Wf s) : OutWf (execLdh d b o s) := h.finish (Wf.loadEff (fun _ _ h1 => h1.setG) h)

theorem Wf.execLdw {d b : BitVec 5} {o : BitVec 12} {s : State} (h : Wf s) : OutWf (execLdw d b o s) := h.finish (Wf.loadEff (fun _ _ h1 => h1.setG) h)

theorem Wf.execLdd {d b : BitVec 5} {o : BitVec 12} {s : State} (h : Wf s) : OutWf (execLdd d b o s) := h.finish (Wf.loadEff (fun _ _ h1 => h1.setG) h)

theorem Wf.execLdbu {d b : BitVec 5} {o : BitVec 12} {s : State} (h : Wf s) : OutWf (execLdbu d b o s) := h.finish (Wf.loadEff (fun _ _ h1 => h1.setG) h)

theorem Wf.execLdhu {d b : BitVec 5} {o : BitVec 12} {s : State} (h : Wf s) : OutWf (execLdhu d b o s) := h.finish (Wf.loadEff (fun _ _ h1 => h1.setG) h)

theorem Wf.execLdwu {d b : BitVec 5} {o : BitVec 12} {s : State} (h : Wf s) : OutWf (execLdwu d b o s) := h.finish (Wf.loadEff (fun _ _ h1 => h1.setG) h)

theorem Wf.execStb {d b : BitVec 5} {o : BitVec 12} {s : State} (h : Wf s) : OutWf (execStb d b o s) := h.finish h.storeEff

theorem Wf.execSth {d b : BitVec 5} {o : BitVec 12} {s : State} (h : Wf s) : OutWf (execSth d b o s) := h.finish h.storeEff

theorem Wf.execStw {d b : BitVec 5} {o : BitVec 12} {s : State} (h : Wf s) : OutWf (execStw d b o s) := h.finish h.storeEff

theorem Wf.execStd {d b : BitVec 5} {o : BitVec 12} {s : State} (h : Wf s) : OutWf (execStd d b o s) := h.finish h.storeEff

theorem Wf.execLdp {d b : BitVec 5} {o : BitVec 12} {s : State} (h : Wf s) : OutWf (execLdp d b o s) := h.finish (Wf.loadEff (fun _ _ h1 => h1.setG.setG) h)

theorem Wf.execStp {d b : BitVec 5} {o : BitVec 12} {s : State} (h : Wf s) : OutWf (execStp d b o s) := h.finish h.storeEff

theorem Wf.execVld {d b : BitVec 5} {o : BitVec 12} {s : State} (h : Wf s) : OutWf (execVld d b o s) := h.finish (Wf.loadEff (fun _ _ h1 => h1.setV) h)

theorem Wf.execVldh {d b : BitVec 5} {o : BitVec 12} {s : State} (h : Wf s) : OutWf (execVldh d b o s) := h.finish (Wf.loadEff (fun _ _ h1 => h1.setV) h)

theorem Wf.execVst {d b : BitVec 5} {o : BitVec 12} {s : State} (h : Wf s) : OutWf (execVst d b o s) := h.finish h.storeEff

theorem Wf.execVsth {d b : BitVec 5} {o : BitVec 12} {s : State} (h : Wf s) : OutWf (execVsth d b o s) := h.finish h.storeEff

theorem Wf.execCLdd {d : BitVec 5} {b o : BitVec 3} {s : State} (h : Wf s) : OutWf (execCLdd d b o s) := h.finish (Wf.loadEff (fun _ _ h1 => h1.setG) h)

theorem Wf.execCStd {d : BitVec 5} {b o : BitVec 3} {s : State} (h : Wf s) : OutWf (execCStd d b o s) := h.finish h.storeEff

/-! Check instructions (`Checks.lean`). -/

theorem Wf.chkEff {rix : BitVec 10} {s : State} (h : Wf s) : EffWf (chkEff rix s) := by
  unfold Machine.chkEff
  split
  · exact trivial
  · split
    · exact trivial
    · split
      · exact trivial
      · exact h

theorem Wf.execChk {r : BitVec 10} {s : State} (h : Wf s) : OutWf (execChk r s) := h.finish h.chkEff

theorem Wf.execChke {r : BitVec 10} {s : State} (h : Wf s) : OutWf (execChke r s) := h.finish (EffWf.ite h.chkEff h)

theorem Wf.holdCheck {s : State} {space : BitVec 8} {off : Word} {len kind : ℕ} (h : Wf s) : EffWf (s.holdCheck space off len kind) := by
  unfold State.holdCheck
  dsimp only
  split
  · exact trivial
  · split
    · exact h.modAct
    · split
      · exact trivial
      · exact h.modNet.faultRecord.modAct

theorem Wf.chkgRanges {s : State} {ten : BitVec 12} {x2 : List (BitVec 8 × Word × ℕ)} (h : Wf s) : EffWf (s.chkgRanges ten x2) := by
  induction x2 generalizing s with
  | nil => exact h
  | cons x rest ih =>
    obtain ⟨sp, a, n⟩ := x
    unfold State.chkgRanges
    extract_lets refused
    split
    · trivial
    · split
      · exact h.holdCheck
      · exact .ite h.holdCheck (.ite trivial (ih h))

theorem Wf.chkgEff {ra : BitVec 5} {s : State} (h : Wf s) : EffWf (chkgEff ra s) := by
  unfold Machine.chkgEff
  split
  · exact trivial
  · split
    · exact trivial
    · split
      · exact trivial
      · exact h.chkgRanges

theorem Wf.execChkg {a : BitVec 5} {s : State} (h : Wf s) : OutWf (execChkg a s) := h.finish h.chkgEff

/-! Records and completions (`Triage.lean`). -/

theorem Wf.undeliverable {s : State} (h : Wf s) : Wf s.undeliverable := h.modCtr

theorem Wf.triage {s : State} {host : Bool} {f : Msg → ℕ → Func → State → State} (h : Wf s) (hf : ∀ x0 x1 x2 x3, Wf x3 → Wf (f x0 x1 x2 x3)) : Wf (s.triage host f) := by
  unfold State.triage
  split
  · exact h
  · split
    · exact Wf.ite h h.takeQueued.undeliverable
    · exact Wf.ite h (Wf.ite (hf _ _ _ _ h.takeQueued.modFunc) h.takeQueued.undeliverable)

theorem Wf.execTrapTriageHw {s : State} (h : Wf s) : OutWf (execTrapTriageHw s) := h.triage (fun _ _ _ _ h1 => h1.sendOwn)

theorem Wf.execTrapTriageHost {s : State} (h : Wf s) : OutWf (execTrapTriageHost s) := h.triage (fun _ _ _ _ h1 => h1.modFunc)

theorem Wf.execEngineCompletion {s : State} (h : Wf s) : OutWf (execEngineCompletion s) := by
  unfold Machine.execEngineCompletion
  split
  · exact h
  · exact Wf.ite h.takeQueued.modFunc h.takeQueued.modFunc.asyncRecord

theorem Wf.escalate {s : State} {m : Msg} (h : Wf s) : Wf (s.escalate m) := by
  unfold State.escalate
  split
  · exact Wf.ite h.modFunc h
  · exact h

theorem Wf.execDoubleRecord {s : State} (h : Wf s) : OutWf (execDoubleRecord s) :=
  h.takes (fun _ _ h1 => Wf.ite (Wf.ite h1.settle.doubleFault h1.settle.keepReport.escalate) h1.settle.keepReport)

theorem Wf.execRescueRelay {s : State} (h : Wf s) : OutWf (execRescueRelay s) := by
  unfold Machine.execRescueRelay
  split
  · exact h
  · exact Wf.ite h.takeQueued.sendOwn h.takeQueued.undeliverable

/-! Admission of an image (`Admission.lean`). -/

theorem pkgWf.enterIgt {k : Package} {o : OpenImage} (h : pkgWf k) : pkgWf (k.enterIgt o) := pkgWf.ite h h

theorem Wf.execAdmission {s : State} (h : Wf s) : OutWf (execAdmission s) := by
  unfold Machine.execAdmission
  split
  · exact h
  · dsimp only
    split
    · exact h.modFunc
    · exact h.modHome (fun _ h2 => h2.enterIgt.giveSlot)

/-! Ascent instructions (`Ascent.lean`). -/

theorem Wf.ascentReq {s : State} {d : CoreAddr} {op act : ℕ} {ch : BitVec 8} {w cookie : Word} (h : Wf s) : EffWf (s.ascentReq d op act ch w cookie) := h.send

theorem Wf.abeginEff {a b : BitVec 5} {c : BitVec 8} {s : State} (h : Wf s) : EffWf (abeginEff a b c s) := EffWf.ite trivial h.ascentReq

theorem Wf.execAbegin {a b : BitVec 5} {c : BitVec 8} {s : State} (h : Wf s) : OutWf (execAbegin a b c s) := h.finish h.abeginEff

theorem Wf.ajoinEff {a : BitVec 5} {s : State} (h : Wf s) : EffWf (ajoinEff a s) := EffWf.ite trivial h.modCsr

theorem Wf.execAjoin {a : BitVec 5} {s : State} (h : Wf s) : OutWf (execAjoin a s) := h.finish h.ajoinEff

theorem Wf.apitchEff {a v : BitVec 5} {c : BitVec 8} {s : State} (h : Wf s) : EffWf (apitchEff a v c s) := by
  unfold Machine.apitchEff
  dsimp only
  split
  · exact trivial
  · split
    · exact trivial
    · split
      · exact trivial
      · split
        · next ht1 =>
            exact (h.send.of_ok ht1).modCsr
        · next ht1 =>
            exact h.send

theorem Wf.execApitch {a v : BitVec 5} {c : BitVec 8} {s : State} (h : Wf s) : OutWf (execApitch a v c s) := h.finish h.apitchEff

theorem Wf.aidEff {op act : ℕ} {a : BitVec 5} {c : BitVec 8} {s : State} (h : Wf s) : EffWf (aidEff op act a c s) := EffWf.ite trivial h.ascentReq

theorem Wf.execAsummit {a : BitVec 5} {c : BitVec 8} {s : State} (h : Wf s) : OutWf (execAsummit a c s) := h.finish h.aidEff

theorem Wf.execAretreat {a : BitVec 5} {c : BitVec 8} {s : State} (h : Wf s) : OutWf (execAretreat a c s) := h.finish h.aidEff

theorem Wf.execAresume {a : BitVec 5} {x : BitVec 2} {c : BitVec 8} {s : State} (h : Wf s) : OutWf (execAresume a x c s) := h.finish h.aidEff

theorem Wf.execAstat {a : BitVec 5} {c : BitVec 8} {s : State} (h : Wf s) : OutWf (execAstat a c s) := h.finish h.aidEff

/-! Attestation and link keys (`Attest.lean`). -/

theorem Wf.respond {s : State} {r : SpdmReq} (h : Wf s) : Wf (s.respond r) := by
  unfold State.respond
  extract_lets sign t
  have ht : Wf t := h.modHome fun _ h1 => h1
  exact ht

theorem pkgWf.resume {k : Package} {now : Word} (h : pkgWf k) : pkgWf (k.resume now) := h

theorem Wf.attest {s : State} (h : Wf s) : Wf s.attest := h.modHome (fun _ h1 => pkgWf.resume h1)

theorem Wf.execChallenge {s : State} (h : Wf s) : OutWf (execChallenge s) := h.respond.attest

theorem Wf.execGetMeasurements {s : State} (h : Wf s) : OutWf (execGetMeasurements s) := Wf.attest (h.respond.modHome (fun _ h1 => h1))

theorem Wf.execKeyExchange {s : State} (h : Wf s) : OutWf (execKeyExchange s) := h.respond.modHome (fun _ h1 => h1)

theorem Wf.meetPeer {s : State} {p : ℕ} (h : Wf s) : Wf (s.meetPeer p) := by
  unfold State.meetPeer
  extract_lets t
  have ht : Wf t := h.modHome fun _ h1 => h1
  exact ht.setPkg ht.pkg

theorem Wf.execFinish {s : State} (h : Wf s) : OutWf (execFinish s) := Wf.ite (Wf.ite (Wf.meetPeer (h.respond.modHome (fun _ h1 => h1))) (h.respond.modHome (fun _ h1 => h1))) h

theorem Wf.execIdeKeyManagement {s : State} (h : Wf s) : OutWf (execIdeKeyManagement s) := Wf.ite (h.modHome (fun _ h1 => pkgWf.resume h1)) h

/-! Branches, jumps and loops (`Branch.lean`). -/

theorem Wf.branchEff {w : ℕ} {c : Bool} {off : BitVec w} {s : State} (h : Wf s) : EffWf (branchEff c off s) := EffWf.ite h h

theorem Wf.execBeq {a b : BitVec 5} {o : BitVec 12} {s : State} (h : Wf s) : OutWf (execBeq a b o s) := h.finish h.branchEff

theorem Wf.execBne {a b : BitVec 5} {o : BitVec 12} {s : State} (h : Wf s) : OutWf (execBne a b o s) := h.finish h.branchEff

theorem Wf.execBlt {a b : BitVec 5} {o : BitVec 12} {s : State} (h : Wf s) : OutWf (execBlt a b o s) := h.finish h.branchEff

theorem Wf.execBge {a b : BitVec 5} {o : BitVec 12} {s : State} (h : Wf s) : OutWf (execBge a b o s) := h.finish h.branchEff

theorem Wf.execBltu {a b : BitVec 5} {o : BitVec 12} {s : State} (h : Wf s) : OutWf (execBltu a b o s) := h.finish h.branchEff

theorem Wf.execBgeu {a b : BitVec 5} {o : BitVec 12} {s : State} (h : Wf s) : OutWf (execBgeu a b o s) := h.finish h.branchEff

theorem Wf.execJ {o : BitVec 24} {s : State} (h : Wf s) : OutWf (execJ o s) := h.finish h

theorem Wf.execJal {o : BitVec 24} {s : State} (h : Wf s) : OutWf (execJal o s) := h.finish h.setG

theorem Wf.jumpReg {link : Bool} {a : BitVec 5} {i : BitVec 15} {s : State} (h : Wf s) : EffWf (jumpReg link a i s) := EffWf.ite trivial (Wf.ite h.setG h)

theorem Wf.execJr {a : BitVec 5} {i : BitVec 15} {s : State} (h : Wf s) : OutWf (execJr a i s) := h.finish h.jumpReg

theorem Wf.execJalr {a : BitVec 5} {i : BitVec 15} {s : State} (h : Wf s) : OutWf (execJalr a i s) := h.finish h.jumpReg

theorem Wf.loopEff {n : Word} {l : BitVec 12} {s : State} (h : Wf s) : EffWf (loopEff n l s) := EffWf.ite h h.modCsr

theorem Wf.execLoop {a : BitVec 5} {l : BitVec 12} {s : State} (h : Wf s) : OutWf (execLoop a l s) := h.finish h.loopEff

theorem Wf.execLoopi {c l : BitVec 12} {s : State} (h : Wf s) : OutWf (execLoopi c l s) := h.finish h.loopEff

theorem Wf.execCBeqz {a : BitVec 5} {o : BitVec 6} {s : State} (h : Wf s) : OutWf (execCBeqz a o s) := h.finish h.branchEff

theorem Wf.execCBnez {a : BitVec 5} {o : BitVec 6} {s : State} (h : Wf s) : OutWf (execCBnez a o s) := h.finish h.branchEff

theorem Wf.execCJ {o : BitVec 11} {s : State} (h : Wf s) : OutWf (execCJ o s) := h.finish h

/-! Copy engines (`CopyEngine.lean`). -/

theorem Wf.execCopyKick {s : State} (h : Wf s) : OutWf (execCopyKick s) := h.takes (fun _ _ h1 => Wf.routeThen (fun _ h2 => h2.settle.modEng) h1)

theorem Wf.copyAdvance {s : State} (h : Wf s) : Wf s.copyAdvance := by
  unfold State.copyAdvance
  split
  · exact Wf.ite h.modEng.modNet.flush h
  · exact h

theorem Wf.execCopyCommandStart {s : State} (h : Wf s) : OutWf (execCopyCommandStart s) := by
  unfold Machine.execCopyCommandStart
  split
  · exact h
  · split
    · exact h
    · split
      · exact h.modEng
      · exact h.modEng.copyAdvance

theorem Wf.landCopy {s : State} {place : ℕ} {bs : List Byte} (h : Wf s) : Wf (s.landCopy place bs) := h.modWork

theorem Wf.execGetLanding {s : State} (h : Wf s) : OutWf (execGetLanding s) :=
  h.request (fun _ _ h1 => Wf.ite h1.nack (Wf.ite h1.landCopy.settle.copyAdvance (Wf.ite h1.landCopy.settle h1.landGet.settle)))

theorem Wf.mailbox {s : State} {c : CopyCmd} (h : Wf s) : Wf (s.mailbox c) := Wf.ite h.leaveOwn h

theorem Wf.copyDone {s : State} {c : CopyCmd} (h : Wf s) : Wf (s.copyDone c) := Wf.ite h.mailbox h.mailbox.leaveOwn

theorem Wf.execCopyCompletion {s : State} (h : Wf s) : OutWf (execCopyCompletion s) := by
  unfold Machine.execCopyCompletion
  split
  · exact Wf.ite h.modEng.copyDone h
  · exact h

/-! The fabric between packages (`Fabric.lean`). -/

theorem Wf.modPort {s : State} {pkg port : ℕ} {f : Port → Port} (h : Wf s) : Wf (s.modPort pkg port f) := by
  unfold State.modPort
  dsimp only
  split
  · exact h.setPkg h.pkg
  · exact h

theorem Wf.takePort {s : State} {pkg port : ℕ} {m : Msg} (h : Wf s) : Wf (s.takePort pkg port m) := h.modPort

theorem Wf.dropTransit {s : State} {i : ℕ} {engine : CoreAddr} {m : Msg} (h : Wf s) : Wf (s.dropTransit i engine m) := Wf.ite (Wf.settle h) (Wf.at h (fun _ h1 => h1.nack))

theorem Wf.route {s : State} {i : ℕ} {x : Transit} (h : Wf s) : Wf (s.route i x) := by
  unfold State.route
  dsimp only
  split
  · exact h
  · split
    · exact h.dropTransit
    · split
      · exact h.dropTransit
      · split
        · exact h
        · split
          · exact h
          · exact h.passDies.takePort

theorem Wf.landTransit {s : State} {i : ℕ} {x : Transit} (h : Wf s) : Wf (s.landTransit i x) := Wf.ite h.passDies h

theorem Wf.cross {s : State} {i port : ℕ} {x : Transit} (h : Wf s) : Wf (s.cross i port x) := by
  unfold State.cross
  dsimp only
  split
  · exact h.dropTransit
  · exact Wf.ite h.modPort (Wf.ite (Wf.dropTransit h.modPort) (Wf.landTransit h.modPort))

theorem Wf.execFabricForward {s : State} (h : Wf s) : OutWf (execFabricForward s) := by
  unfold Machine.execFabricForward
  split
  · exact h
  · split
    · exact h
    · split
      · exact Wf.ite h.landTransit h.route
      · exact Wf.ite h.cross h

theorem Wf.execPortWithdraw {s : State} (h : Wf s) : OutWf (execPortWithdraw s) := by
  unfold Machine.execPortWithdraw
  dsimp only
  split
  · exact h
  · exact Wf.ite (Wf.at h.modPort (fun _ h2 => h2.sendOwn)) h

theorem Wf.execPortRetrain {s : State} (h : Wf s) : OutWf (execPortRetrain s) := Wf.ite h.modPort h

theorem Wf.execModuleWithdraw {s : State} (h : Wf s) : OutWf (execModuleWithdraw s) := Wf.ite (h.modHome (fun _ h1 => h1)) h

/-! Floating vector instructions (`VectorFloat.lean`). -/

theorem Wf.fvec1 {d a : BitVec 3} {l : BitVec 1} {k : BitVec 2} {t : TypeCode} {f : ℕ → ℕ × BitVec 6} {s : State} (h : Wf s) : OutWf (fvec1 d a l k t f s) := h.finish h.vec

theorem Wf.fvec2 {d a b : BitVec 3} {l m : BitVec 1} {k : BitVec 2} {t : TypeCode} {f : Machine.Num → Machine.Num → Exact} {s : State} (h : Wf s) : OutWf (fvec2 d a l b m k t f s) :=
  h.finish h.vec

theorem Wf.fvec3 {d a b c : BitVec 3} {l m n : BitVec 1} {k : BitVec 2} {t : TypeCode} {f : Machine.Num → Machine.Num → Machine.Num → Exact} {s : State} (h : Wf s) : OutWf (fvec3 d a l b m c n k t f s) :=
  h.finish h.vec

theorem Wf.fpick2 {d a b : BitVec 3} {l m : BitVec 1} {k : BitVec 2} {t : TypeCode} {f : ℕ → ℕ → ℕ × BitVec 6} {s : State} (h : Wf s) : OutWf (fpick2 d a l b m k t f s) :=
  h.finish h.vec

theorem Wf.fcmp {e k : BitVec 2} {a b : BitVec 3} {l m : BitVec 1} {t : TypeCode} {quiet : Bool} {f : Machine.Num → Machine.Num → Bool} {s : State} (h : Wf s) : OutWf (fcmp e a l b m k t quiet f s) :=
  h.finish h.cmp

theorem Wf.execVadd {d a b : BitVec 3} {l m : BitVec 1} {k : BitVec 2} {t : BitVec 4} {s : State} (h : Wf s) : OutWf (execVadd d a l b m k t s) := h.fvec2

theorem Wf.execVsub {d a b : BitVec 3} {l m : BitVec 1} {k : BitVec 2} {t : BitVec 4} {s : State} (h : Wf s) : OutWf (execVsub d a l b m k t s) := h.fvec2

theorem Wf.execVmul {d a b : BitVec 3} {l m : BitVec 1} {k : BitVec 2} {t : BitVec 4} {s : State} (h : Wf s) : OutWf (execVmul d a l b m k t s) := h.fvec2

theorem Wf.execVdiv {d a b : BitVec 3} {l m : BitVec 1} {k : BitVec 2} {t : BitVec 4} {s : State} (h : Wf s) : OutWf (execVdiv d a l b m k t s) := h.fvec2

theorem Wf.execVsqrt {d a : BitVec 3} {l : BitVec 1} {k : BitVec 2} {t : BitVec 4} {s : State} (h : Wf s) : OutWf (execVsqrt d a l k t s) := h.fvec1

theorem Wf.execVfma {d a b c : BitVec 3} {l m n : BitVec 1} {k : BitVec 2} {t : BitVec 4} {s : State} (h : Wf s) : OutWf (execVfma d a l b m c n k t s) := h.fvec3

theorem Wf.execVfms {d a b c : BitVec 3} {l m n : BitVec 1} {k : BitVec 2} {t : BitVec 4} {s : State} (h : Wf s) : OutWf (execVfms d a l b m c n k t s) := h.fvec3

theorem Wf.execVfnma {d a b c : BitVec 3} {l m n : BitVec 1} {k : BitVec 2} {t : BitVec 4} {s : State} (h : Wf s) : OutWf (execVfnma d a l b m c n k t s) := h.fvec3

theorem Wf.execVmin {d a b : BitVec 3} {l m : BitVec 1} {k : BitVec 2} {t : BitVec 4} {s : State} (h : Wf s) : OutWf (execVmin d a l b m k t s) := h.fpick2

theorem Wf.execVmax {d a b : BitVec 3} {l m : BitVec 1} {k : BitVec 2} {t : BitVec 4} {s : State} (h : Wf s) : OutWf (execVmax d a l b m k t s) := h.fpick2

theorem Wf.execVabs {d a : BitVec 3} {l : BitVec 1} {k : BitVec 2} {t : BitVec 4} {s : State} (h : Wf s) : OutWf (execVabs d a l k t s) := h.fvec1

theorem Wf.execVneg {d a : BitVec 3} {l : BitVec 1} {k : BitVec 2} {t : BitVec 4} {s : State} (h : Wf s) : OutWf (execVneg d a l k t s) := h.fvec1

theorem Wf.execVfeq {e k : BitVec 2} {a b : BitVec 3} {l m : BitVec 1} {t : BitVec 4} {s : State} (h : Wf s) : OutWf (execVfeq e a l b m k t s) := h.fcmp

theorem Wf.execVflt {e k : BitVec 2} {a b : BitVec 3} {l m : BitVec 1} {t : BitVec 4} {s : State} (h : Wf s) : OutWf (execVflt e a l b m k t s) := h.fcmp

theorem Wf.execVfle {e k : BitVec 2} {a b : BitVec 3} {l m : BitVec 1} {t : BitVec 4} {s : State} (h : Wf s) : OutWf (execVfle e a l b m k t s) := h.fcmp

theorem Wf.execVfclass {d a : BitVec 3} {l : BitVec 1} {k : BitVec 2} {t : BitVec 4} {s : State} (h : Wf s) : OutWf (execVfclass d a l k t s) := h.fvec1

theorem Wf.cvtVec {d a : BitVec 3} {l : BitVec 1} {st t : BitVec 4} {k : BitVec 2} {off : ℕ} {s : State} (h : Wf s) : OutWf (cvtVec d a l st k t off s) := h.finish h.vec

theorem Wf.execVcvtn {d a b : BitVec 3} {l m : BitVec 1} {st t : BitVec 4} {k : BitVec 2} {s : State} (h : Wf s) : OutWf (execVcvtn d a l b m st k t s) := h.finish h.vec

theorem Wf.execVexp2 {d a : BitVec 3} {l : BitVec 1} {k : BitVec 2} {t : BitVec 4} {s : State} (h : Wf s) : OutWf (execVexp2 d a l k t s) := h.fvec1

theorem Wf.execVlog2 {d a : BitVec 3} {l : BitVec 1} {k : BitVec 2} {t : BitVec 4} {s : State} (h : Wf s) : OutWf (execVlog2 d a l k t s) := h.fvec1

theorem Wf.execVrcp {d a : BitVec 3} {l : BitVec 1} {k : BitVec 2} {t : BitVec 4} {s : State} (h : Wf s) : OutWf (execVrcp d a l k t s) := h.fvec1

theorem Wf.execVrsq {d a : BitVec 3} {l : BitVec 1} {k : BitVec 2} {t : BitVec 4} {s : State} (h : Wf s) : OutWf (execVrsq d a l k t s) := h.fvec1

theorem Wf.execVsinpi {d a : BitVec 3} {l : BitVec 1} {k : BitVec 2} {t : BitVec 4} {s : State} (h : Wf s) : OutWf (execVsinpi d a l k t s) := h.fvec1

theorem Wf.execVcospi {d a : BitVec 3} {l : BitVec 1} {k : BitVec 2} {t : BitVec 4} {s : State} (h : Wf s) : OutWf (execVcospi d a l k t s) := h.fvec1

/-! Integer vector instructions (`VectorInt.lean`). -/

theorem Wf.ivec2 {d a b : BitVec 3} {l m : BitVec 1} {k : BitVec 2} {t : TypeCode} {f : ℤ → ℤ → ℤ} {s : State} (h : Wf s) : OutWf (ivec2 d a l b m k t f s) := h.finish h.vec

theorem Wf.bvec2 {d a b : BitVec 3} {l m : BitVec 1} {k : BitVec 2} {t : TypeCode} {f : ℕ → ℕ → ℕ} {s : State} (h : Wf s) : OutWf (bvec2 d a l b m k t f s) := h.finish h.vec

theorem Wf.icmp {e k : BitVec 2} {a b : BitVec 3} {l m : BitVec 1} {t : TypeCode} {f : ℤ → ℤ → Bool} {s : State} (h : Wf s) : OutWf (icmp e a l b m k t f s) := h.finish h.cmp

theorem Wf.execVaddInt {d a b : BitVec 3} {l m : BitVec 1} {k : BitVec 2} {t : BitVec 4} {s : State} (h : Wf s) : OutWf (execVaddInt d a l b m k t s) := h.ivec2

theorem Wf.execVsubInt {d a b : BitVec 3} {l m : BitVec 1} {k : BitVec 2} {t : BitVec 4} {s : State} (h : Wf s) : OutWf (execVsubInt d a l b m k t s) := h.ivec2

theorem Wf.execVmulInt {d a b : BitVec 3} {l m : BitVec 1} {k : BitVec 2} {t : BitVec 4} {s : State} (h : Wf s) : OutWf (execVmulInt d a l b m k t s) := h.ivec2

theorem Wf.execVmulh {d a b : BitVec 3} {l m : BitVec 1} {k : BitVec 2} {t : BitVec 4} {s : State} (h : Wf s) : OutWf (execVmulh d a l b m k t s) := h.ivec2

theorem Wf.execVminInt {d a b : BitVec 3} {l m : BitVec 1} {k : BitVec 2} {t : BitVec 4} {s : State} (h : Wf s) : OutWf (execVminInt d a l b m k t s) := h.ivec2

theorem Wf.execVmaxInt {d a b : BitVec 3} {l m : BitVec 1} {k : BitVec 2} {t : BitVec 4} {s : State} (h : Wf s) : OutWf (execVmaxInt d a l b m k t s) := h.ivec2

theorem Wf.execVadds {d a b : BitVec 3} {l m : BitVec 1} {k : BitVec 2} {t : BitVec 4} {s : State} (h : Wf s) : OutWf (execVadds d a l b m k t s) := h.ivec2

theorem Wf.execVsubs {d a b : BitVec 3} {l m : BitVec 1} {k : BitVec 2} {t : BitVec 4} {s : State} (h : Wf s) : OutWf (execVsubs d a l b m k t s) := h.ivec2

theorem Wf.execVabsd {d a b : BitVec 3} {l m : BitVec 1} {k : BitVec 2} {t : BitVec 4} {s : State} (h : Wf s) : OutWf (execVabsd d a l b m k t s) := h.ivec2

theorem Wf.execVand {d a b : BitVec 3} {l m : BitVec 1} {k : BitVec 2} {t : BitVec 4} {s : State} (h : Wf s) : OutWf (execVand d a l b m k t s) := h.bvec2

theorem Wf.execVor {d a b : BitVec 3} {l m : BitVec 1} {k : BitVec 2} {t : BitVec 4} {s : State} (h : Wf s) : OutWf (execVor d a l b m k t s) := h.bvec2

theorem Wf.execVxor {d a b : BitVec 3} {l m : BitVec 1} {k : BitVec 2} {t : BitVec 4} {s : State} (h : Wf s) : OutWf (execVxor d a l b m k t s) := h.bvec2

theorem Wf.execVsll {d a b : BitVec 3} {l m : BitVec 1} {k : BitVec 2} {t : BitVec 4} {s : State} (h : Wf s) : OutWf (execVsll d a l b m k t s) := h.bvec2

theorem Wf.execVsrl {d a b : BitVec 3} {l m : BitVec 1} {k : BitVec 2} {t : BitVec 4} {s : State} (h : Wf s) : OutWf (execVsrl d a l b m k t s) := h.bvec2

theorem Wf.execVsra {d a b : BitVec 3} {l m : BitVec 1} {k : BitVec 2} {t : BitVec 4} {s : State} (h : Wf s) : OutWf (execVsra d a l b m k t s) := h.bvec2

theorem Wf.execVmadd {d a b c : BitVec 3} {l m n : BitVec 1} {k : BitVec 2} {t : BitVec 4} {s : State} (h : Wf s) : OutWf (execVmadd d a l b m c n k t s) := h.finish h.vec

theorem Wf.execVceq {e k : BitVec 2} {a b : BitVec 3} {l m : BitVec 1} {t : BitVec 4} {s : State} (h : Wf s) : OutWf (execVceq e a l b m k t s) := h.icmp

theorem Wf.execVclt {e k : BitVec 2} {a b : BitVec 3} {l m : BitVec 1} {t : BitVec 4} {s : State} (h : Wf s) : OutWf (execVclt e a l b m k t s) := h.icmp

theorem Wf.execVcle {e k : BitVec 2} {a b : BitVec 3} {l m : BitVec 1} {t : BitVec 4} {s : State} (h : Wf s) : OutWf (execVcle e a l b m k t s) := h.icmp

theorem Wf.execVsel {d a b : BitVec 3} {l m : BitVec 1} {k : BitVec 2} {t : BitVec 4} {s : State} (h : Wf s) : OutWf (execVsel d a l b m k t s) := h.finish h.vec

theorem Wf.maskEff {e : BitVec 2} {x : BitVec 32} {s : State} (h : Wf s) : OutWf (maskEff e x s) := h.finish h.setK

theorem Wf.execKand {e g h : BitVec 2} {s : State} (hs : Wf s) : OutWf (execKand e g h s) := hs.maskEff

theorem Wf.execKor {e g h : BitVec 2} {s : State} (hs : Wf s) : OutWf (execKor e g h s) := hs.maskEff

theorem Wf.execKxor {e g h : BitVec 2} {s : State} (hs : Wf s) : OutWf (execKxor e g h s) := hs.maskEff

theorem Wf.permEff {d a b : BitVec 3} {l : BitVec 1} {src : List (BitVec 3 × BitVec 1)} {k : BitVec 2} {t : TypeCode} {f : ℕ → ℕ} {s : State} (h : Wf s) : OutWf (permEff d a l src k t b f s) := by
  unfold Machine.permEff
  exact h.finish (Wf.vec h)

theorem Wf.redEff {d a : BitVec 3} {l : BitVec 1} {k : BitVec 2} {t : TypeCode} {ident : ℕ} {f : ℕ → ℕ → ℕ × BitVec 6} {s : State} (h : Wf s) : OutWf (redEff d a l k t ident f s) := by
  unfold Machine.redEff
  exact h.finish (Wf.setO (Wf.addFlags h.useO))

theorem Wf.execVrsum {d a : BitVec 3} {l : BitVec 1} {k : BitVec 2} {t : BitVec 4} {s : State} (h : Wf s) : OutWf (execVrsum d a l k t s) := OutWf.ite h.redEff h.redEff

theorem Wf.execVrmin {d a : BitVec 3} {l : BitVec 1} {k : BitVec 2} {t : BitVec 4} {s : State} (h : Wf s) : OutWf (execVrmin d a l k t s) := OutWf.ite h.redEff h.redEff

theorem Wf.execVrmax {d a : BitVec 3} {l : BitVec 1} {k : BitVec 2} {t : BitVec 4} {s : State} (h : Wf s) : OutWf (execVrmax d a l k t s) := OutWf.ite h.redEff h.redEff

end Sys2Proof.Safety
end

section
/-! PROOFS. Canonical memories (O5): keepers, supervisors, the host, resets and the watch unit. -/

namespace Sys2Proof.Safety

open Sys2Proof.Machine

/-! Collective groups (`Collective.lean`). -/

theorem Wf.collDone {s : State} {c : CollCmd} {stat : BitVec 8} {bytes : ℕ} (h : Wf s) : Wf (s.collDone c stat bytes) := h.sendOwn

theorem Wf.beginPart {s : State} {c : CollCmd} {addr : Word} {n : ℕ} {data : Option (List Byte)} (h : Wf s) : Wf (s.beginPart c addr n data) := by
  unfold State.beginPart
  dsimp only
  split
  · exact h.modEng
  · exact h.modEng.modNet.flush

theorem Wf.beginAt {s : State} {c : CollCmd} {rank pkg n : ℕ} {addr : Word} {data : Option (List Byte)} (h : Wf s) : Wf (s.beginAt c rank pkg addr n data).1 :=
  h.at (fun _ h1 => h1.beginPart)

theorem Wf.beginReads {s : State} {c : CollCmd} {x2 : List ℕ} {x3 : ℕ} (h : Wf s) : Wf (s.beginReads c x2 x3).1 := by
  induction x2 generalizing s x3 with
  | nil => exact h
  | cons p rest ih =>
    rw [State.beginReads]
    split
    · exact ih h
    · exact ih h.beginAt

theorem Wf.beginWrites {s : State} {c : CollCmd} {srcs : List (List Byte)} {x3 : List ℕ} {x4 : ℕ} (h : Wf s) : Wf (s.beginWrites c srcs x3 x4).1 := by
  induction x3 generalizing s x4 with
  | nil => exact h
  | cons p rest ih => exact ih h.beginAt

theorem Wf.endParts {s : State} {c : CollCmd} (h : Wf s) : Wf (s.endParts c) := by
  refine h.foldl fun _ _ h1 => ?_
  exact h1.modCore fun _ h2 => h2

theorem Wf.collEnd {s : State} {c : CollCmd} {pkgs : List ℕ} {stat : BitVec 8} (h : Wf s) : Wf (s.collEnd c pkgs stat) := h.endParts.at (fun _ h1 => h1.collDone)

theorem Wf.collRun {s : State} {c : CollCmd} {rest : List CollCmd} (h : Wf s) : Wf (s.collRun c rest) := by
  unfold State.collRun
  dsimp only
  split
  · exact h.modEng.collDone
  · split
    · exact Wf.ite h.modEng.collDone (Wf.ite h.modEng.collDone (Wf.ite h.modEng.collDone (Wf.ite h.modEng.collDone h.modEng.beginReads.modEng)))
    · split
      · exact h
      · split
        · exact h.modEng.collEnd
        · exact Wf.ite h.modEng.endParts.beginWrites.modEng h.modEng.collEnd

theorem Wf.acceptColl {s : State} {m : Msg} (h : Wf s) : Wf (s.acceptColl m) := Wf.ite h.settle.modEng h.nack

theorem Wf.execCollectiveCommand {s : State} (h : Wf s) : OutWf (execCollectiveCommand s) := by
  unfold Machine.execCollectiveCommand
  split
  · split
    · exact h
    · exact h.collRun
  · exact h.takes (fun _ _ h1 => Wf.routeThen (fun _ h2 => h2.acceptColl) h1)

theorem Wf.execFabricLinkUp {s : State} (h : Wf s) : OutWf (execFabricLinkUp s) := h.foldl (fun _ _ h1 => h1.sendOwn)

theorem Wf.voidGroups {s : State} {pkg : BitVec 14} (h : Wf s) : Wf (s.voidGroups pkg) := h.modEng.foldl (fun _ _ h1 => h1.endParts.collDone)

theorem Wf.execGenerationNotice {s : State} (h : Wf s) : OutWf (execGenerationNotice s) := h.takes (fun _ _ h1 => h1.settle.voidGroups)

/-! Anchor keepers (`Keeper.lean`). -/

theorem Wf.modKeeper {s : State} {f : Keeper → Keeper} (h : Wf s) : Wf (s.modKeeper f) := h.modEng

theorem Wf.modRecord {s : State} {key : ℕ} {f : AnchorRec → AnchorRec} (h : Wf s) : Wf (s.modRecord key f) := h

theorem Wf.spillWrite {s : State} {place : ℕ} {r : Vector Word 8} (h : Wf s) : ∀ t ∈ (s.spillWrite place r), Wf t := by
  unfold State.spillWrite
  dsimp only
  split
  · split
    · next ht1 =>
        exact (h.gvaWrite _ ht1).some
    · next ht1 =>
        exact Wf.none
  · exact Wf.none

theorem Wf.writeRecord {s : State} {key : ℕ} {r : Vector Word 8} (h : Wf s) : Wf (s.writeRecord key r) := by
  unfold State.writeRecord
  dsimp only
  split
  · exact Wf.ite (Wf.getD h.modRecord.spillWrite h.modRecord) h.modRecord
  · exact h.modRecord

theorem Wf.freeAnchor {s : State} {x : Stacked} (h : Wf s) : Wf (s.freeAnchor x) := h.at (fun _ h1 => h1.modRecord)

theorem Wf.discardAll {s : State} {a : Ascent} (h : Wf s) : Wf (s.discardAll a) := (h.foldl (fun _ _ h1 => h1.freeAnchor)).modKeeper

theorem Wf.ascentReply {s : State} {m : Msg} {stat st : ℕ} {aid : BitVec 32} {g4 g5 g6 : Word} (h : Wf s) : Wf (s.ascentReply m stat st aid g4 g5 g6) := Wf.ite h h.sendOwn

theorem Wf.answerOn {s : State} {m : Msg} {stat : ℕ} {aid : BitVec 32} {full : Bool} (h : Wf s) : Wf (s.answerOn m stat aid full) := by
  unfold State.answerOn
  split <;> exact h.ascentReply

theorem Wf.ascentEvent {s : State} {op : Instr} {full : Bool} {f : Ascent → Msg → State → ℕ × State} (h : Wf s) (hf : ∀ x0 x1 x2, Wf x2 → Wf (f x0 x1 x2).2) : OutWf (s.ascentEvent op full f) := by
  unfold State.ascentEvent
  refine h.takes (fun _ _ h1 => ?_)
  dsimp only
  split
  · exact h1.settle.ascentReply
  · exact Wf.answerOn (Wf.modKeeper (hf _ _ _ h1.settle))

theorem Wf.execAscentBeginReq {s : State} (h : Wf s) : OutWf (execAscentBeginReq s) := by
  unfold Machine.execAscentBeginReq
  refine h.takes (fun _ _ h1 => ?_)
  dsimp only
  split
  · exact h1.settle.ascentReply
  · split
    · exact h1.settle.ascentReply
    · exact h1.settle.modKeeper.ascentReply

theorem Wf.execAscentSummitReq {s : State} (h : Wf s) : OutWf (execAscentSummitReq s) := by
  unfold Machine.execAscentSummitReq
  refine h.ascentEvent (fun _ _ _ h1 => ?_)
  split
  · exact h1.discardAll.modKeeper
  · exact h1

theorem Wf.execAscentRetreatReq {s : State} (h : Wf s) : OutWf (execAscentRetreatReq s) := by
  unfold Machine.execAscentRetreatReq
  refine h.ascentEvent (fun _ _ _ h1 => ?_)
  split
  · exact h1.modKeeper
  · split
    · exact h1
    · exact h1

theorem Wf.skipStored {s : State} {a : Ascent} (h : Wf s) : Wf (s.skipStored a) := by
  unfold State.skipStored
  split
  · exact h
  · refine Wf.freeAnchor ?_
    refine h.at (fun _ h2 => ?_)
    split
    · exact h2.writeRecord
    · exact h2

theorem Wf.execAscentResumeReq {s : State} (h : Wf s) : OutWf (execAscentResumeReq s) := by
  unfold Machine.execAscentResumeReq
  refine h.ascentEvent (fun _ _ _ h1 => ?_)
  dsimp only
  split
  · exact h1
  · split
    · exact h1.discardAll.modKeeper
    · split
      · exact h1.skipStored.modKeeper
      · split
        · exact h1
        · exact h1.modKeeper

theorem Wf.execAscentStatReq {s : State} (h : Wf s) : OutWf (execAscentStatReq s) := h.ascentEvent (fun _ _ _ h1 => h1)

theorem Wf.execAnchorPush {s : State} (h : Wf s) : OutWf (execAnchorPush s) := by
  refine h.takes fun m t h1 => Wf.leaveOwn (Wf.modKeeper (Wf.getD ?_ h1))
  split
  · exact h1.spillWrite
  · exact h1.some

theorem Wf.stampBack {s : State} {m : Msg} {kind gseq : ℕ} (h : Wf s) : Wf (s.stampBack m kind gseq) := h.sendOwn

theorem Wf.refusePush {s : State} {m : Msg} {aid : BitVec 32} (h : Wf s) : Wf (s.refusePush m aid) := h.nack.stampBack.modKeeper

theorem Wf.execAnchorStamp {s : State} (h : Wf s) : OutWf (execAnchorStamp s) := by
  unfold Machine.execAnchorStamp
  refine h.takes (fun _ _ h1 => ?_)
  dsimp only
  split
  · exact h1.settle.refusePush
  · split
    · exact h1.settle.stampBack
    · split
      · exact h1.settle.refusePush
      · exact Wf.ite h1.settle.refusePush h1.settle.modKeeper.stampBack

theorem Wf.execStampReturn {s : State} (h : Wf s) : OutWf (execStampReturn s) := by
  unfold Machine.execStampReturn
  refine h.takes (fun _ _ h1 => ?_)
  dsimp only
  split
  · exact h1.settle
  · exact Wf.ite h1.settle.modRecord (Wf.ite h1.settle.modRecord.settle h1.settle.writeRecord.modRecord.settle)

theorem Wf.strand {s : State} {aid : BitVec 32} {gseq : ℕ} {anchor r : Vector Word 8} (h : Wf s) : Wf (s.strand aid gseq anchor r) := by
  unfold State.strand
  split
  · exact h
  · exact h.modKeeper.sendOwn.sendOwn

theorem Wf.execAnchorSend {s : State} (h : Wf s) : OutWf (execAnchorSend s) := by
  unfold Machine.execAnchorSend
  dsimp only
  split
  · exact h
  · split
    · exact h.strand
    · split
      · exact h
      · split
        · exact h.strand
        · exact Wf.leaveOwn (Wf.modKeeper (h.at (fun _ h4 => (Wf.ite h4.seeRead h4).writeRecord)))

theorem Wf.execEndNotice {s : State} (h : Wf s) : OutWf (execEndNotice s) := by
  unfold Machine.execEndNotice
  refine h.takes (fun _ _ h1 => ?_)
  dsimp only
  split
  · exact h1.settle
  · exact h1.settle.freeAnchor.modKeeper

theorem Wf.execFailureNotice {s : State} (h : Wf s) : OutWf (execFailureNotice s) := by
  unfold Machine.execFailureNotice
  refine h.takes (fun _ _ h1 => ?_)
  dsimp only
  split
  · exact h1.settle
  · exact h1.settle.strand

/-! Supervisor cores (`Supervise.lean`). -/

theorem coreWf.rebindAll {c : Core} {hit : ℕ × Word → Bool} {n : Fin 8} (h : coreWf c) : coreWf (c.rebindAll hit n) := h

theorem Wf.bring {s : State} {img : List Byte} (h : Wf s) : Wf (s.bring img).2 := by
  unfold State.bring
  refine Wf.initialised ?_
  split
  · exact h
  · split
    · exact h.fitImage
    · exact h

theorem coreWf.dropUnused {c : Core} {n : Fin 8} (h : coreWf c) : coreWf (c.dropUnused n) := coreWf.ite h h.dropImage

theorem Wf.succeed {s : State} {img : List Byte} {old : Fin 8} (h : Wf s) : Wf (s.succeed img old) := by
  have hb : Wf (s.bring img).2 := Wf.bring h
  rw [State.succeed]
  split
  · next t ht => rwa [ht] at hb
  · next n t ht =>
    rw [ht] at hb
    exact Wf.withHere hb hb.here.rebindAll.dropUnused rfl rfl rfl

theorem Wf.reportRevoked {s : State} {i : ImgEntry} {orig : Cause} (h : Wf s) : Wf (s.reportRevoked i orig) := by
  unfold State.reportRevoked
  dsimp only
  split
  · exact Wf.ite (Wf.modHome (h.modHome (fun _ h2 => h2.modFn)) (fun _ h2 => h2.modFn)) (h.modHome (fun _ h2 => h2.modFn))
  · exact h.modHome (fun _ h2 => h2.modFn)

theorem Wf.reportHeld {s : State} {c : Core} {h : ℕ × Msg} (hs : Wf s) (_ : coreWf c) : Wf (s.reportHeld c h) := by
  unfold State.reportHeld
  split
  · exact hs
  · exact Wf.ite hs.reportRevoked.keepReport hs

theorem Wf.installFor {s : State} {h : ℕ × Msg} (hs : Wf s) : Wf (s.installFor h) := by
  rw [State.installFor]
  split
  · next p _ _ =>
    have hb : Wf (s.bring p.bytes).2 := hs.bring
    split
    · next n t ht =>
      rw [ht] at hb
      exact Wf.withHere hb hb.here.rebindAll rfl rfl rfl
    · next t ht => rwa [ht] at hb
  · exact hs

theorem Wf.tendRecords {s : State} {a : CoreAddr} (h : Wf s) : Wf (s.tendRecords a) := h.foldl (fun _ _ h1 => (h1.reportHeld h.core).at (fun _ h2 => h2.installFor))

theorem Wf.tendNotice {s : State} {m : Msg} (h : Wf s) : Wf (s.tendNotice m) := by
  unfold State.tendNotice
  extract_lets id gen hits t
  have ht : Wf t := by
    unfold t
    split
    · exact h
    · exact h.foldl fun _ _ h1 => h1.at fun _ h2 => h2.succeed
  exact .ite ht.modEng ht

theorem Wf.tend {s : State} (h : Wf s) : Wf s.tend := Wf.foldl (h.foldl (fun _ _ h1 => h1.tendNotice)) (fun _ _ h1 => h1.tendRecords)

theorem Wf.followNotice {s : State} {m : Msg} (h : Wf s) : Wf (s.followNotice m) := by
  unfold State.followNotice
  dsimp only
  split
  · refine Wf.tend ?_
    split
    · exact h.keepReport.reportRevoked
    · exact h.keepReport
  · exact h.keepReport.tend

theorem Wf.execImgrevNotice {s : State} (h : Wf s) : OutWf (execImgrevNotice s) := by
  unfold Machine.execImgrevNotice
  split
  · exact Wf.ite (Wf.ite h.tend h) (h.takes (fun _ _ h1 => Wf.ite h1.settle.markStale.followNotice h1.settle.markStale))
  · split
    · exact h
    · exact h.takeQueued.markStale

theorem Wf.execTimeSliceQuantum {s : State} (h : Wf s) : OutWf (execTimeSliceQuantum s) := by
  unfold Machine.execTimeSliceQuantum
  split
  · exact h
  · exact Wf.ite h (h.foldl (fun _ _ h2 => h2.sendOwn))

theorem Wf.shootdown {s : State} {e : RptEntry} (h : Wf s) : Wf (s.shootdown e) := (h.foldl (fun _ _ h1 => h1.resumePacket)).modHome (fun _ h1 => h1.shoot)

theorem pkgWf.place {k : Package} {e : RptEntry} (h : pkgWf k) : pkgWf (k.place e) := h

theorem Wf.releaseOwn {s : State} (h : Wf s) : Wf s.releaseOwn := by
  unfold State.releaseOwn
  refine h.foldl (fun _ _ h1 => ?_)
  split
  · next ht2 =>
      exact (h1.answerFault _ ht2).modEng
  · exact h1

theorem Wf.releaseFaults {s : State} (h : Wf s) : Wf s.releaseFaults := h.foldl (fun _ _ h1 => h1.at (fun _ h2 => h2.releaseOwn))

theorem Wf.modCores {s : State} {l : List CoreAddr} {f : Core → Core} (h : Wf s) (hf : ∀ x0, coreWf x0 → coreWf (f x0)) : Wf (s.modCores l f) :=
  h.foldl (fun _ _ h1 => h1.modCore hf)

theorem Wf.dropReports {s : State} {a : CoreAddr} (h : Wf s) : Wf (s.dropReports a) := h.modEng

theorem Wf.beginQuarantine {s : State} {a : CoreAddr} (h : Wf s) : Wf (s.beginQuarantine a) := by
  unfold State.beginQuarantine
  extract_lets hit
  refine Wf.foldl (Wf.modHome h.dropReports fun k hk => ?_) fun _ _ h1 => h1.shootdown
  have hp : pkgWf (hit.foldl Package.place k) := hk.foldl fun _ _ h2 => h2.place
  exact hp

theorem Wf.freezeRow {s : State} {a : CoreAddr} (h : Wf s) : Wf (s.freezeRow a) := Wf.modCore (h.modCores (fun _ h1 => h1)) (fun _ h1 => h1)

theorem coreWf.salvageImages {c : Core} (h : coreWf c) : coreWf (c.salvageImages) := h.foldl (fun _ _ h1 => h1.dropImage)

theorem coreWf.replaced {c : Core} (h : coreWf c) : coreWf (c.replaced) := ⟨h.1, h.salvageImages.2⟩

theorem Wf.replace {s : State} {a : CoreAddr} (h : Wf s) : Wf (s.replace a) := by
  refine h.at fun t h1 => Wf.foldl ?_ fun _ _ h2 => h2.cutLink
  exact h1.withHere h1.here.replaced rfl rfl rfl

theorem Wf.endQuarantine {s : State} {a : CoreAddr} (h : Wf s) : Wf (s.endQuarantine a) :=
  Wf.releaseFaults (Wf.dropReports (Wf.modHome (Wf.ite (Wf.modCore (h.replace.modCores (fun _ h1 => h1)) (fun _ h1 => h1)) (h.replace.modCores (fun _ h1 => h1))) (fun _ h1 => h1)))

theorem pkgWf.mapEngine {k : Package} {a p : CoreAddr} (h : pkgWf k) : pkgWf (k.mapEngine a p) := h

theorem Wf.endCommands {s : State} (h : Wf s) : Wf s.endCommands := Wf.modEng (Wf.foldl (h.modEng.foldl (fun _ _ h1 => h1.endParts.collDone)) (fun _ _ h1 => h1.failLaunch))

theorem Wf.endWork {s : State} (h : Wf s) : Wf s.endWork := by
  unfold State.endWork
  extract_lets t
  have ht : Wf t := Wf.modEng h.endCommands
  exact ⟨⟨ht.here.1, ht.here.salvageImages.2⟩, ht.2⟩

theorem Wf.endCopies {s : State} {a : CoreAddr} (h : Wf s) : Wf (s.endCopies a) := h.at (fun _ h1 => h1.modEng)

theorem Wf.loseEngine {s : State} {a : CoreAddr} (h : Wf s) : Wf (s.loseEngine a) :=
  Wf.ite (Wf.modCore (Wf.modHome (h.at (fun _ h1 => h1.endCommands)) (fun _ h1 => h1)) (fun _ h1 => h1)) (Wf.modCore (Wf.modCore (Wf.modHome (h.at (fun _ h1 => h1.endCommands)) (fun _ h1 => h1)) (fun _ h1 => h1)) (fun _ h1 => h1))

theorem Wf.execEngineSpareReplace {s : State} (h : Wf s) : OutWf (execEngineSpareReplace s) := by
  unfold Machine.execEngineSpareReplace
  dsimp only
  split
  · exact h
  · split
    · exact Wf.ite h.dropReports.loseEngine h.endCopies
    · exact Wf.at (h.dropReports.modHome (fun _ h2 => h2.mapEngine)) (fun _ h2 => h2.endWork)

/-! Slides of regions (`Slide.lean`). -/

theorem coreWf.maskImages {c : Core} {ids : List (BitVec 32)} {on : Bool} (h : coreWf c) : coreWf (c.maskImages ids on) := h

theorem coreWf.openWindow {c : Core} {w : BitVec 128} (h : coreWf c) : coreWf (c.openWindow w) := by
  unfold Core.openWindow
  split <;> exact h

theorem coreWf.closeWindows {c : Core} {p : BitVec 128 → Bool} (h : coreWf c) : coreWf (c.closeWindows p) := h

theorem pkgWf.addSlide {k : Package} {e : RptEntry} {c : CoreAddr} {near : BitVec 18} (h : pkgWf k) : pkgWf (k.addSlide e c near) := h

theorem Wf.chooseSlide {s : State} {e : RptEntry} {near : BitVec 18} (h : Wf s) : ∀ t ∈ (s.chooseSlide e near), Wf t :=
  forall_mem_map (fun _ => Wf.modHome h (fun _ h1 => h1.addSlide))

theorem Wf.modSlide {s : State} {i : ℕ} {f : Slide → Slide} (h : Wf s) : Wf (s.modSlide i f) := h.modHome (fun _ h1 => h1)

theorem Wf.nextStep {s : State} {i n : ℕ} (h : Wf s) : Wf (s.nextStep i n) := h.modSlide

theorem Wf.slideMask {s : State} {x : Slide} {on : Bool} (h : Wf s) : Wf (s.slideMask x on) :=
  (h.modCores (fun _ h1 => h1.maskImages)).foldl (fun _ _ h1 => h1.modCore (fun _ h2 => h2.modLessee))

theorem Wf.slideStop {s : State} {i : ℕ} {x : Slide} (h : Wf s) : Wf (s.slideStop i x) := by
  unfold State.slideStop
  split
  · exact h
  · exact ((h.modHome (fun _ h2 => h2.place)).nextStep).shootdown

theorem Wf.openCopy {s : State} {x : Slide} (h : Wf s) : Wf (s.openCopy x) :=
  h.foldl (fun _ _ h1 => Wf.modCore (Wf.at (h1.modCore (fun _ h2 => h2.openWindow)) (fun _ h2 => h2.bindKey)) (fun _ h2 => h2.openWindow))

theorem Wf.closeCopy {s : State} {x : Slide} (h : Wf s) : Wf (s.closeCopy x) :=
  h.foldl (fun _ _ h1 => (h1.modCore (fun _ h2 => h2.closeWindows)).modCore (fun _ h2 => h2.closeWindows))

theorem Wf.slideCopy {s : State} {i : ℕ} {x : Slide} (h : Wf s) : Wf (s.slideCopy i x) := Wf.leaveOwn (Wf.nextStep (h.openCopy.modHome (fun _ h1 => h1)))

theorem Wf.endCopy {s : State} {x : Slide} {m : Msg} (h : Wf s) : Wf (s.endCopy x m) := by
  unfold State.endCopy
  dsimp only
  split
  · exact h.modEng.closeCopy
  · exact (h.modEng.closeCopy.modCore (fun _ h2 => h2.forgets.forgets)).modHome (fun _ h2 => h2)

theorem Wf.moveWindows {s : State} {ten : BitVec 12} {slot : BitVec 4} {p : (CoreAddr × ℕ × ℕ) × CoreAddr × ℕ × ℕ} (h : Wf s) : Wf (s.moveWindows ten slot p) := by
  unfold State.moveWindows
  dsimp only
  split
  · exact (h.modCore (fun _ h2 => h2.closeWindows)).modCore (fun _ h2 => h2.openWindow)
  · exact h.modCore (fun _ h2 => h2.closeWindows)

theorem Wf.slidePlace {s : State} {i : ℕ} {x : Slide} {m : Msg} (h : Wf s) : Wf (s.slidePlace i x m) := by
  unfold State.slidePlace
  extract_lets t
  have ht : Wf t := by
    refine Wf.modHome h.endCopy fun _ h1 => ?_
    exact h1
  exact Wf.nextStep (ht.foldl fun _ _ h1 => h1.moveWindows.modCore fun _ h2 => h2.modLessee)

theorem Wf.slideFail {s : State} {i : ℕ} {x : Slide} {m : Msg} (h : Wf s) : Wf (s.slideFail i x m) := Wf.releaseFaults (h.endCopy.slideMask.modHome (fun _ h1 => h1))

theorem Wf.slideReseal {s : State} {i : ℕ} {x : Slide} (h : Wf s) : Wf (s.slideReseal i x) := by
  unfold State.slideReseal
  extract_lets old new
  refine Wf.nextStep (h.foldl fun t p ht => ?_)
  exact Wf.sendOwn (ht.modHome fun _ h2 => h2)

theorem Wf.slideEnd {s : State} {i : ℕ} {x : Slide} (h : Wf s) : Wf (s.slideEnd i x) := Wf.releaseFaults (h.slideMask.modHome (fun _ h1 => h1))

theorem Wf.slideStep {s : State} {i : ℕ} {x : Slide} (h : Wf s) : Wf (s.slideStep i x) := by
  unfold State.slideStep
  dsimp only
  split
  · exact h.slideStop
  · exact Wf.ite h.slideMask.nextStep h
  · exact Wf.ite h.slideCopy h
  · split
    · exact h
    · exact Wf.ite h.slidePlace h.slideFail
  · exact Wf.ite h.nextStep h.slideReseal
  · exact Wf.ite h.slideEnd h

theorem Wf.execSlideRegion {s : State} (h : Wf s) : OutWf (execSlideRegion s) := by
  unfold Machine.execSlideRegion
  split
  · exact h
  · exact Wf.ite h.slideStep h

theorem Wf.rehome {s : State} {e : RptEntry} (h : Wf s) : Wf (s.rehome e) := by
  unfold State.rehome
  split
  · exact h
  · exact Wf.getD h.chooseSlide h

theorem Wf.execQuarantine {s : State} (h : Wf s) : OutWf (execQuarantine s) :=
  Wf.ite h (Wf.ite (h.beginQuarantine.foldl (fun _ _ h1 => h1.rehome)) (Wf.ite h (Wf.ite h.freezeRow (Wf.ite h.endQuarantine h))))

/-! The host (`Host.lean`). -/

theorem Wf.acceptCmd {s : State} {vf q : ℕ} {cm : Vector Word 8} {f : HostAct} (h : Wf s) (hf : ∀ x0 x1 x2 x3 x4, Wf x4 → ∀ t ∈ (f x0 x1 x2 x3 x4), Wf t) : Wf (s.acceptCmd vf q cm f) := by
  rw [State.acceptCmd]
  dsimp only
  split
  · next t ht =>
    split at ht
    · exact hf _ _ _ _ _ (h.modHome fun _ h1 => h1.modFn) _ ht
    · cases ht
  · exact h.modHome fun _ h1 => h1.modFn

theorem Wf.hostCmd {s : State} {mine : BitVec 8 → Bool} {wait : Func → Vector Word 8 → Bool} {f : HostAct} (h : Wf s) (hf : ∀ x0 x1 x2 x3 x4, Wf x4 → ∀ t ∈ (f x0 x1 x2 x3 x4), Wf t) : OutWf (s.hostCmd mine wait f) := by
  unfold State.hostCmd
  dsimp only
  split
  · exact h
  · split
    · exact h.modHome (fun _ h1 => h1.modFn)
    · split
      · exact h
      · split
        · exact h
        · refine h.acceptCmd (fun _ _ _ _ _ h2 => ?_)
          split
          · exact hf _ _ _ _ _ h2
          · exact Wf.none

theorem Wf.hostLaunchAct {vf : ℕ} {f : Func} {cm : Vector Word 8} {seq : Word} {s : State} (h : Wf s) : ∀ t ∈ (hostLaunchAct vf f cm seq s), Wf t := by
  unfold Machine.hostLaunchAct
  split
  · exact Wf.none
  · exact h.sendOwn.some

theorem Wf.execHostLaunch {s : State} (h : Wf s) : OutWf (execHostLaunch s) := h.hostCmd (fun _ _ _ _ _ h1 => h1.hostLaunchAct)

theorem Wf.hostCallAct {vf : ℕ} {f : Func} {cm : Vector Word 8} {x3 : Word} {s : State} (h : Wf s) : ∀ t ∈ (hostCallAct vf f cm x3 s), Wf t := by
  unfold Machine.hostCallAct
  dsimp only
  split
  · exact Wf.none
  · exact h.sendOwn.some

theorem Wf.execHostCall {s : State} (h : Wf s) : OutWf (execHostCall s) := h.hostCmd (fun _ _ _ _ _ h1 => h1.hostCallAct)

theorem Wf.stageImageAct {vf : ℕ} {f : Func} {cm : Vector Word 8} {seq : Word} {s : State} (h : Wf s) : ∀ t ∈ (stageImageAct vf f cm seq s), Wf t := by
  unfold Machine.stageImageAct
  dsimp only
  split
  · split
    · exact Wf.none
    · split
      · exact h.journal.some
      · split
        · exact h.writeParts.journal.some
        · exact h.writeParts.some
  · exact Wf.none

theorem Wf.execStageImage {s : State} (h : Wf s) : OutWf (execStageImage s) := h.hostCmd (fun _ _ _ _ _ h1 => h1.stageImageAct)

theorem Wf.hostSlideAct {vf : ℕ} {f : Func} {cm : Vector Word 8} {x3 : Word} {s : State} (h : Wf s) : ∀ t ∈ (hostSlideAct vf f cm x3 s), Wf t := by
  unfold Machine.hostSlideAct
  dsimp only
  split
  · exact Wf.none
  · split
    · exact Wf.none
    · exact h.chooseSlide

theorem Wf.execHostSlideRegion {s : State} (h : Wf s) : OutWf (execHostSlideRegion s) := h.hostCmd (fun _ _ _ _ _ h1 => h1.hostSlideAct)

theorem Wf.hostCollectiveAct {vf : ℕ} {f : Func} {cm : Vector Word 8} {x3 : Word} {s : State} (h : Wf s) : ∀ t ∈ (hostCollectiveAct vf f cm x3 s), Wf t := by
  unfold Machine.hostCollectiveAct
  dsimp only
  split
  · exact Wf.none
  · exact h.leaveOwn.some

theorem Wf.execHostCollective {s : State} (h : Wf s) : OutWf (execHostCollective s) := h.hostCmd (fun _ _ _ _ _ h1 => h1.hostCollectiveAct)

theorem Wf.readCountersAct {vf : ℕ} {f : Func} {cm : Vector Word 8} {x3 : Word} {s : State} (h : Wf s) : ∀ t ∈ (readCountersAct vf f cm x3 s), Wf t :=
  forall_mem_map (fun _ => h.modHome (fun _ h1 => h1.modFn))

theorem Wf.execReadCounters {s : State} (h : Wf s) : OutWf (execReadCounters s) := h.hostCmd (fun _ _ _ _ _ h1 => h1.readCountersAct)

theorem pkgWf.dropSlots {k old : Package} (h : pkgWf k) (_ : pkgWf old) : pkgWf (k.dropSlots old) := h

theorem Wf.pfRecord {cm : Vector Word 8} {s : State} (h : Wf s) : ∀ t ∈ (pfRecord cm s), Wf t := by
  unfold Machine.pfRecord
  dsimp only
  split
  · exact Wf.none
  · exact (h.modHome (fun _ h1 => h1.modFn.dropSlots h1)).some

theorem Wf.pfPartition {cm : Vector Word 8} {s : State} (h : Wf s) : ∀ t ∈ (pfPartition cm s), Wf t := by
  unfold Machine.pfPartition
  dsimp only
  split
  · exact Wf.none
  · exact Wf.some (h.modHome (fun _ h1 => h1))

theorem Wf.noteGen {s : State} {gid : BitVec 16} {gen p : ℕ} (h : Wf s) : Wf (s.noteGen gid gen p) := h.setPkg h.pkg

theorem Wf.pfGroup {cm : Vector Word 8} {s : State} (h : Wf s) : ∀ t ∈ (pfGroup cm s), Wf t := by
  unfold Machine.pfGroup
  dsimp only
  split
  · exact Wf.none
  · split
    · exact Wf.none
    · exact Wf.some (Wf.modCores (h.foldl (fun _ _ h1 => h1.noteGen)) (fun _ h1 => h1))

theorem Wf.pfPower {cm : Vector Word 8} {s : State} (h : Wf s) : ∀ t ∈ (pfPower cm s), Wf t := by
  unfold Machine.pfPower
  split
  · exact Wf.none
  · exact Wf.some (h.modHome (fun _ h1 => h1))

theorem Wf.pfAct {vf : ℕ} {x1 : Func} {cm : Vector Word 8} {x3 : Word} {s : State} (h : Wf s) : ∀ t ∈ (pfAct vf x1 cm x3 s), Wf t := by
  unfold Machine.pfAct
  split
  · exact Wf.none
  · split
    · exact h.pfRecord
    · exact h.pfPartition
    · exact h.pfGroup
    · exact h.pfPower
    · exact Wf.none

theorem Wf.execPfCommand {s : State} (h : Wf s) : OutWf (execPfCommand s) := h.hostCmd (fun _ _ _ _ _ h1 => h1.pfAct)

theorem Wf.execJournalWindowWrite {s : State} (h : Wf s) : OutWf (execJournalWindowWrite s) := Wf.ite h (h.modHome (fun _ h1 => h1.modFn))

theorem Wf.unsupported {s : State} {vf : ℕ} (h : Wf s) : Wf (s.unsupported vf) := h.modHome (fun _ h1 => h1.modFn)

theorem Wf.execHostMemoryAccess {s : State} (h : Wf s) : OutWf (execHostMemoryAccess s) := by
  unfold Machine.execHostMemoryAccess
  dsimp only
  split
  · exact h
  · split
    · exact h.unsupported
    · split
      · exact h.modHome (fun _ h1 => h1.modFn)
      · split
        · exact h
        · exact h.unsupported
        · split
          · exact h.unsupported
          · split
            · split
              · exact h.writeParts.modHome (fun _ h3 => h3.modFn)
              · exact h.writeParts
            · split
              · exact h.seeParts.modHome (fun _ h3 => h3.modFn)
              · exact h.seeParts.modHome (fun _ h3 => h3.modFn)
              · exact h

/-! Tensor maps (`Tensor.lean`). -/

theorem Wf.stripWrite {s : State} {w : ℕ} {as : List (Option ℤ)} {v : Strip} (h : Wf s) : Wf (s.stripWrite w as v) := h.nearStores

theorem Wf.walkLoad {s : State} {m : TMap} {j : ℕ} (h : Wf s) : ∀ r, (s.walkLoad m j) = .ok r → Wf r.2 := by
  intro r hr
  rw [State.walkLoad] at hr
  split at hr
  · cases hr
  · obtain rfl := Except.ok.inj hr
    exact h.watch

theorem Wf.walkStore {s : State} {m : TMap} {j : ℕ} {v : Strip} (h : Wf s) : ∀ r, (s.walkStore m j v) = .ok r → Wf r := by
  intro r hr
  rw [State.walkStore] at hr
  split at hr
  · cases hr
  · obtain rfl := Except.ok.inj hr
    exact h.stripWrite

theorem Wf.tmldEff {t : BitVec 3} {a : BitVec 5} {o : BitVec 12} {s : State} (h : Wf s) : EffWf (tmldEff t a o s) := by
  unfold Machine.tmldEff
  dsimp only
  split
  · exact trivial
  · next ht1 =>
      split
      · exact trivial
      · exact (h.load _ ht1).setTm

theorem Wf.execTmld {t : BitVec 3} {a : BitVec 5} {o : BitVec 12} {s : State} (h : Wf s) : OutWf (execTmld t a o s) := h.finish h.tmldEff

theorem Wf.tmbaseEff {t : BitVec 3} {a : BitVec 5} {s : State} (h : Wf s) : EffWf (tmbaseEff t a s) := EffWf.ite trivial (EffWf.ite trivial h.setTm)

theorem Wf.execTmbase {t : BitVec 3} {a : BitVec 5} {s : State} (h : Wf s) : OutWf (execTmbase t a s) := h.finish h.tmbaseEff

theorem Wf.execTmcnt {t : BitVec 3} {a : BitVec 5} {d : BitVec 2} {s : State} (h : Wf s) : OutWf (execTmcnt t a d s) := h.finish h.setTm

theorem Wf.twldEff {o t : BitVec 3} {a : BitVec 5} {s : State} (h : Wf s) : EffWf (twldEff o t a s) := by
  unfold Machine.twldEff
  split
  · exact trivial
  · next ht1 =>
      exact (h.walkLoad _ ht1).setO

theorem Wf.execTwld {o t : BitVec 3} {a : BitVec 5} {s : State} (h : Wf s) : OutWf (execTwld o t a s) := h.finish h.twldEff

theorem Wf.twstEff {o t : BitVec 3} {l : BitVec 1} {a : BitVec 5} {s : State} (h : Wf s) : EffWf (twstEff o l t a s) := by
  unfold Machine.twstEff
  split
  · exact trivial
  · next ht1 =>
      exact (h.walkStore _ ht1).useO

theorem Wf.execTwst {o t : BitVec 3} {l : BitVec 1} {a : BitVec 5} {s : State} (h : Wf s) : OutWf (execTwst o l t a s) := h.finish h.twstEff

/-! Stream registers (`Streams.lean`). -/

theorem Wf.setStream {s : State} {n : ℕ} {x : Option Machine.Stream} (h : Wf s) : Wf (s.setStream n x) := Wf.ite h.modAct h.modAct

theorem Wf.sbindEff {r t : BitVec 3} {s : State} (h : Wf s) : EffWf (sbindEff r t s) := EffWf.ite trivial h.setStream

theorem Wf.execSbind {r t : BitVec 3} {s : State} (h : Wf s) : OutWf (execSbind r t s) := h.finish h.sbindEff

theorem Wf.execSdrop {r : BitVec 3} {s : State} (h : Wf s) : OutWf (execSdrop r s) := h.finish h.setStream

theorem Wf.execSstat {r : BitVec 3} {d : BitVec 5} {s : State} (h : Wf s) : OutWf (execSstat r d s) := h.finish h.setG

theorem Wf.siPop {n : ℕ} {o : BitVec 3} {s : State} (h : Wf s) : EffWf (siPop n o s) := by
  unfold Machine.siPop
  split
  · exact trivial
  · split
    · exact trivial
    · split
      · exact trivial
      · exact trivial
      · exact h.setStream.setO

theorem Wf.soPush {n : ℕ} {o : BitVec 3} {l : BitVec 1} {s : State} (h : Wf s) : EffWf (soPush n o l s) := by
  unfold Machine.soPush
  split
  · exact trivial
  · split
    · exact trivial
    · split
      · exact trivial
      · next ht2 =>
          exact ((h.walkStore _ ht2).setStream).useO

theorem Wf.fetchStrip {s : State} {p : ℕ} (h : Wf s) : Wf (s.fetchStrip p) := by
  unfold State.fetchStrip
  extract_lets _ t u
  have ht : Wf t := h
  have hu : Wf u := by
    unfold u
    split
    · exact ht
    · split
      · exact ht.setStream
      · next _ v hv => exact Wf.setStream (ht.walkLoad _ hv)
  exact hu

theorem Wf.execStreamStripFetch {s : State} (h : Wf s) : OutWf (execStreamStripFetch s) := by
  unfold Machine.execStreamStripFetch
  split
  · exact h
  · exact h.fetchStrip

/-! Moves between files (`Moves.lean`). -/

theorem Wf.execVmovOV {v : BitVec 5} {o : BitVec 3} {s : State} (h : Wf s) : OutWf (execVmovOV v o s) := h.finish h.setO

theorem Wf.execVmovVO {v : BitVec 5} {o : BitVec 3} {l : BitVec 1} {s : State} (h : Wf s) : OutWf (execVmovVO v o l s) := h.finish h.useO.setV

theorem Wf.execVmovOO {m o : BitVec 3} {l : BitVec 1} {s : State} (h : Wf s) : OutWf (execVmovOO m o l s) := h.finish h.useO.setO

theorem Wf.execVmovOport {p : BitVec 5} {o : BitVec 3} {w : BitVec 1} {s : State} (h : Wf s) : OutWf (execVmovOport p o w s) :=
  h.finish (EffWf.ite h.siPop (EffWf.ite (Wf.linkForward (fun _ _ h1 => h1.setO) h) (Wf.linkPop (fun _ _ h1 => h1.setO) h)))

theorem Wf.execVmovPorto {p : BitVec 5} {o : BitVec 3} {l : BitVec 1} {s : State} (h : Wf s) : OutWf (execVmovPorto p o l s) := h.finish (EffWf.ite h.soPush h.linkWrite)

theorem Wf.execVsplat {g : BitVec 5} {o : BitVec 3} {t : BitVec 4} {s : State} (h : Wf s) : OutWf (execVsplat g o t s) := h.finish h.setO

theorem Wf.execVext {g n : BitVec 5} {o : BitVec 3} {l : BitVec 1} {t : BitVec 4} {s : State} (h : Wf s) : OutWf (execVext g o l n t s) := h.finish h.useO.setG

theorem Wf.execVins {g n : BitVec 5} {o : BitVec 3} {t : BitVec 4} {s : State} (h : Wf s) : OutWf (execVins g o n t s) := h.finish h.setO

theorem Wf.execKmovKG {g : BitVec 5} {k : BitVec 2} {s : State} (h : Wf s) : OutWf (execKmovKG g k s) := h.finish h.setK

theorem Wf.execKmovGK {g : BitVec 5} {k : BitVec 2} {s : State} (h : Wf s) : OutWf (execKmovGK g k s) := h.finish h.setG

theorem Wf.execCVmovOV {o : BitVec 3} {v : BitVec 5} {s : State} (h : Wf s) : OutWf (execCVmovOV o v s) := h.finish h.setO

theorem Wf.execCVmovVO {o : BitVec 3} {v : BitVec 5} {l : BitVec 1} {s : State} (h : Wf s) : OutWf (execCVmovVO o v l s) := h.finish h.useO.setV

/-! NACKs (`Nack.lean`). -/

theorem Wf.copyNack {s : State} {m : Msg} {r : SentRec} {id part : ℕ} {unit : BitVec 4} (h : Wf s) : Wf (s.copyNack m r id part unit) := Wf.ite h.failPart.faultRecord h.failPart

theorem Wf.stampNack {s : State} {m : Msg} {key : ℕ} (h : Wf s) : Wf (s.stampNack m key) := by
  unfold State.stampNack
  split
  · exact h
  · exact h.modRecord.nack

theorem Wf.nackArrives {s : State} {m : Msg} (h : Wf s) : Wf (s.nackArrives m) := by
  unfold State.nackArrives
  dsimp only
  split
  · exact h.settle
  · split
    · exact h.modNet.settle.nackRecord
    · exact h.modNet.settle.modGet.nackRecord
    · exact h.modNet.settle.copyNack
    · exact h.modNet.settle.copyNack
    · exact h.modNet.settle
    · exact h.modNet.settle.stampNack
    · exact h.modNet.settle.launchFailed
    · split
      · exact h.modNet.settle
      · exact h.modNet.settle.strand
    · exact h.modNet.settle.nackRecord

theorem Wf.execNack {s : State} (h : Wf s) : OutWf (execNack s) := h.takes (fun _ _ h1 => h1.nackArrives)

/-! Paired execution (`Paired.lean`). -/

theorem Wf.atSlot {s : State} {c : CoreAddr} {i : Fin 4} {f : State → State} (h : Wf s) (hf : ∀ x0, Wf x0 → Wf (f x0)) : Wf (s.atSlot c i f) := h.at (fun _ h1 => hf _ h1)

theorem Wf.dropRun {s : State} {last : Bool} (h : Wf s) : Wf (s.dropRun last) := Wf.ite h.freeEntry.freeSlot h.modNet.freeSlot

theorem Wf.compFailed {s : State} {a : Act} {r : Record} {org : Machine.Origin} (h : Wf s) : Wf (s.compFailed a r org) := Wf.ite h.ascentTrap h

theorem Wf.mismatch {s : State} {tc : CoreAddr} {j : Fin 4} {n : ℕ} (h : Wf s) : Wf (s.mismatch tc j n) :=
  Wf.ite (((h.dropRun.atSlot (fun _ h1 => h1.dropRun)).deliver).compFailed) (h.dropRun.atSlot (fun _ h1 => h1.dropRun))

theorem Wf.compare {s : State} {tc : CoreAddr} {j : Fin 4} {p q : PairPoint} (h : Wf s) : Wf (s.compare tc j p q) := by
  unfold State.compare
  dsimp only
  split
  · exact h
  · exact h
  · exact Wf.ite (h.modAct.atSlot (fun _ h2 => h2.modAct)) h.mismatch
  · exact Wf.ite (Wf.ite (h.dropRun.atSlot (fun _ h2 => h2.dropRun)) (h.takeTrap.atSlot (fun _ h2 => h2.dropRun))) h.mismatch
  · exact h.mismatch
  · exact h.mismatch

theorem Wf.dropAlone {s : State} (h : Wf s) : Wf s.dropAlone := Wf.ite h.dropRun.deliver.compFailed h.dropRun

theorem Wf.settlePair {s : State} (h : Wf s) : Wf s.settlePair := by
  unfold State.settlePair
  split
  · exact h.dropAlone
  · split
    · exact h.dropAlone
    · split
      · exact h.compare
      · exact h.mismatch

theorem Wf.pairBudget {s : State} {t : Trap} (h : Wf s) : Wf (s.pairBudget t) := by
  unfold State.pairBudget
  extract_lets u
  have hu : Wf u := .ite h h.trap
  split
  · exact hu.settlePair
  · split
    · exact hu.dropAlone
    · exact hu.atSlot fun _ h2 => h2.settlePair

theorem Wf.execBudget {s : State} (h : Wf s) : OutWf (execBudget s) := Wf.ite (Wf.ite h.pairBudget h.trap) h

theorem Wf.execFingerprintCheckpoint {s : State} (h : Wf s) : OutWf (execFingerprintCheckpoint s) := by
  unfold Machine.execFingerprintCheckpoint
  dsimp only
  split
  · exact h
  · split
    · exact h
    · split
      · exact h
      · exact Wf.compare h

/-! Resets and power (`Reset.lean`). -/

theorem pkgWf.afterReset {k : Package} {failed : ℕ} {firmware : List Byte} (_ : pkgWf k) : pkgWf (k.afterReset failed firmware) := pkgWf_reset

theorem Wf.bringUpPool {s : State} (h : Wf s) : Wf s.bringUpPool := by
  refine Wf.foldl ?_ fun _ _ h1 => h1.placeRegion
  exact h.modHome fun _ h1 => h1

theorem Wf.resetPackage {s : State} {failed : ℕ} {firmware : List Byte} (h : Wf s) : Wf (s.resetPackage failed firmware) := by
  unfold State.resetPackage
  extract_lets p k gone t _ u
  have ht : Wf t := ⟨coreWf_reset, fun p hp => h.2.1 p (List.mem_of_mem_filter hp), h.2.2⟩
  have hu : Wf u := by
    refine Wf.foldl ?_ fun _ _ h1 => h1.setCore ?_
    · exact ht.setPkg h.home.afterReset
    · exact coreWf_reset
  split
  · exact hu.bringUpPool
  · exact hu

theorem Wf.deviceResetAct {vf : ℕ} {x1 : Func} {x2 : Vector Word 8} {x3 : Word} {s : State} (h : Wf s) : ∀ t ∈ (deviceResetAct vf x1 x2 x3 s), Wf t := by
  unfold Machine.deviceResetAct
  split
  · exact Wf.none
  · exact h.resetPackage.some

theorem Wf.execDeviceReset {s : State} (h : Wf s) : OutWf (execDeviceReset s) := h.hostCmd (fun _ _ _ _ _ h1 => h1.deviceResetAct)

theorem Wf.scrubPart {s : State} {p : Piece} (h : Wf s) : Wf (s.scrubPart p) := by
  rw [State.scrubPart]
  exact .ite (h.setPkg ⟨h.pkg.1, h.pkg.putPool (memClear_wf _ _ h.pkg.poolMem)⟩) (h.at fun _ h1 => h1.homeWrite)

theorem Wf.scrub {s : State} {e : RptEntry} (h : Wf s) : Wf (s.scrub e) := h.foldl (fun _ _ h1 => h1.scrubPart)

theorem Wf.discard {s : State} {m : Msg} (h : Wf s) : Wf (s.discard m) := (Wf.ite h.ingress h.modNet).settle

theorem Wf.dropLaunches {s : State} {ten : BitVec 12} (h : Wf s) : Wf (s.dropLaunches ten) := by
  unfold State.dropLaunches
  extract_lets mine t
  have ht : Wf t := by
    refine Wf.foldl ?_ fun _ _ h1 => h1.at fun _ h2 => h2.discard
    exact h
  refine ht.foldl fun _ _ h1 => h1.at fun u h2 => ?_
  refine Wf.foldl ?_ fun _ _ h3 => h3.discard
  exact h2

theorem coreWf.flr {c : Core} {ten : BitVec 12} (h : coreWf c) : coreWf (c.flr ten) := h

theorem Wf.scrubPregs {s : State} {ten : BitVec 12} {a : CoreAddr} (h : Wf s) : Wf (s.scrubPregs ten a) := h.foldl (fun _ _ h1 => h1.at (fun _ h2 => h2.homeWrite))

theorem Wf.execVfFlr {s : State} (h : Wf s) : OutWf (execVfFlr s) :=
  Wf.ite h (Wf.ite (h.modHome (fun _ h1 => h1.modFn)) (Wf.modHome (Wf.modHome (Wf.dropLaunches (Wf.modCores (Wf.foldl (Wf.foldl (h.foldl (fun _ _ h1 => h1.scrub)) (fun _ _ h1 => h1.scrubPregs)) (fun _ _ h1 => h1.foldl (fun _ _ h2 => h2.settle))) (fun _ h1 => h1.flr))) (fun _ h1 => h1)) (fun _ h1 => h1.modFn)))

theorem Wf.execHotReset {s : State} (h : Wf s) : OutWf (execHotReset s) := h.modHome (fun _ h1 => h1)

theorem coreWf.evictAll {c : Core} (h : coreWf c) : coreWf (c.evictAll) := by
  unfold Core.evictAll
  refine h.foldl (fun _ _ h1 => ?_)
  split
  · exact h1
  · exact h1.dropImage

theorem coreWf.scrubbed {c : Core} {epoch : Word} (h : coreWf c) : coreWf (c.scrubbed epoch) := by
  have h1 : coreWf c.evictAll := h.evictAll
  unfold Core.scrubbed
  generalize c.evictAll = d at h1
  exact ⟨rfl, h1.2⟩

theorem Wf.execConfScrubTimeout {s : State} (h : Wf s) : OutWf (execConfScrubTimeout s) := by
  unfold Machine.execConfScrubTimeout
  dsimp only
  split
  · exact h
  · exact Wf.ite h (Wf.modHome (Wf.modCores (h.foldl (fun _ _ h2 => h2.foldl (fun _ _ h3 => h3.settle))) (fun _ h2 => h2.scrubbed)) (fun _ h2 => h2))

theorem Wf.execPowerLimitWindow {s : State} (h : Wf s) : OutWf (execPowerLimitWindow s) := by
  unfold Machine.execPowerLimitWindow
  split
  · refine Wf.modHome h fun _ h1 => ?_
    exact ⟨h1.1, h1.2⟩
  · exact h

/-! Rope command copies (`Rope.lean`). -/

theorem Wf.ropeArrive {s : State} {m : Msg} (h : Wf s) : Wf (s.ropeArrive m) := Wf.ite (Wf.ite h.settle h.settle.sendOwn) h.mxEnqueue.settle

theorem Wf.execRopeCommandArrival {s : State} (h : Wf s) : OutWf (execRopeCommandArrival s) := h.takes (fun _ _ h1 => Wf.routeThen (fun _ h2 => h2.ropeArrive) h1)

/-! Scalar instructions (`Scalar.lean`). -/

theorem Wf.writeG {len : ℕ} {d : BitVec 5} {v : Word} {s : State} (h : Wf s) : OutWf (writeG len d v s) := h.finish h.setG

/-! Digit transducers (`Transducer.lean`). -/

theorem Wf.dxldEff {x : BitVec 1} {a : BitVec 5} {o : BitVec 10} {s : State} (h : Wf s) : EffWf (dxldEff x a o s) := by
  unfold Machine.dxldEff
  dsimp only
  split
  · trivial
  · next hd _ _ =>
    generalize topoHeadOk (memWrite [] 0 hd) = headOk
    split
    · trivial
    · split
      · trivial
      · next bs t ht =>
        generalize topoBodyOk (memWrite [] 0 bs) = bodyOk
        exact .ite (Wf.modMx (h.load _ ht)) trivial

theorem Wf.execDxld {x : BitVec 1} {a : BitVec 5} {o : BitVec 10} {s : State} (h : Wf s) : OutWf (execDxld x a o s) := h.finish (h.onCompute h.dxldEff)

theorem Wf.dxrunEff {x f : BitVec 1} {d a : BitVec 5} {s : State} (h : Wf s) : EffWf (dxrunEff x d a f s) := by
  unfold Machine.dxrunEff
  split
  · exact trivial
  · dsimp only
    split
    · exact trivial
    · split
      · exact trivial
      · split
        · exact trivial
        · exact h.nearLoaded.modMx.modAct

theorem Wf.execDxrun {x f : BitVec 1} {d a : BitVec 5} {s : State} (h : Wf s) : OutWf (execDxrun x d a f s) := h.finish (h.onCompute h.dxrunEff)

theorem Wf.execDxrunReadPhase {s : State} (h : Wf s) : OutWf (execDxrunReadPhase s) := by
  unfold Machine.execDxrunReadPhase
  split
  · exact Wf.ite h (Wf.modMx (Wf.watch h))
  · exact h

theorem Wf.dxFinish {r : DxRun} {m : Memory} {s : State} (h : Wf s) : EffWf (dxFinish r m s) := by
  unfold Machine.dxFinish
  dsimp only
  split
  · exact trivial
  · exact h.nearStores.modMx.modAct.setG

theorem Wf.execDxrunWritePhase {s : State} (h : Wf s) : OutWf (execDxrunWritePhase s) := by
  unfold Machine.execDxrunWritePhase
  split
  · split
    · exact OutWf.ite h (Wf.complete h (Wf.dxFinish h))
    · exact h
  · exact h

/-! The watch unit (`Watch.lean`). -/

theorem Wf.watchOp {s : State} {fn : ℕ} {e : Effect} (_ : Wf s) (h' : EffWf e) : EffWf (s.watchOp fn e) := EffWf.ite h' trivial

theorem Wf.execDmark {a : BitVec 5} {i : BitVec 10} {s : State} (h : Wf s) : OutWf (execDmark a i s) := h.finish (Wf.ite h.trace h)

theorem Wf.wpsetEff {a b : BitVec 5} {i : BitVec 10} {s : State} (h : Wf s) : EffWf (wpsetEff a b i s) := EffWf.ite h.modDbg trivial

theorem Wf.execWpset {a b : BitVec 5} {i : BitVec 10} {s : State} (h : Wf s) : OutWf (execWpset a b i s) := h.finish (h.watchOp h.wpsetEff)

theorem Wf.execWpclr {i : BitVec 10} {s : State} (h : Wf s) : OutWf (execWpclr i s) := h.finish (h.watchOp h.modDbg)

theorem Wf.bpsetEff {a : BitVec 5} {i : BitVec 10} {s : State} (h : Wf s) : EffWf (bpsetEff a i s) := EffWf.ite h.modDbg trivial

theorem Wf.execBpset {a : BitVec 5} {i : BitVec 10} {s : State} (h : Wf s) : OutWf (execBpset a i s) := h.finish (h.watchOp h.bpsetEff)

theorem Wf.unhold {s : State} (h : Wf s) : Wf s.unhold := by
  unfold State.unhold
  split <;> exact h

theorem Wf.setGroup {s : State} {w : Word} (h : Wf s) : Wf (s.setGroup w) := Wf.ite h.modDbg h.modDbg.unhold

theorem Wf.dgrpEff {a : BitVec 5} {s : State} (h : Wf s) : EffWf (dgrpEff a s) := EffWf.ite h.setGroup trivial

theorem Wf.execDgrp {a : BitVec 5} {s : State} (h : Wf s) : OutWf (execDgrp a s) := h.finish (h.watchOp h.dgrpEff)

theorem Wf.execDstop {s : State} (h : Wf s) : OutWf (execDstop s) := h.finish (h.watchOp h.trigger)

theorem Wf.execDstat {d : BitVec 5} {i : BitVec 10} {s : State} (h : Wf s) : OutWf (execDstat d i s) := h.finish (h.watchOp h.setG)

theorem Wf.breakpoint {s : State} (h : Wf s) : Wf s.breakpoint := h.modDbg.holdSlot.trigger

theorem Wf.takeStop {s : State} {m : Msg} (h : Wf s) : Wf (s.takeStop m) := h.modDbg

theorem Wf.execDebugStop {s : State} (h : Wf s) : OutWf (execDebugStop s) := h.takes (fun _ _ h1 => Wf.ite h1.settle.takeStop h1.settle)

theorem Wf.toBelay {s : State} {l : List Strip} (h : Wf s) : Wf (s.toBelay l) := h.modCore (fun _ h1 => h1)

theorem Wf.sendLog {s : State} {all : Bool} (h : Wf s) : Wf (s.sendLog all) := h.toBelay.modDbg

theorem Wf.execCoreStopped {s : State} (h : Wf s) : OutWf (execCoreStopped s) := Wf.ite h.toBelay.modDbg.sendLog h

theorem Wf.execDebugResume {s : State} (h : Wf s) : OutWf (execDebugResume s) := h.takes (fun _ _ h1 => h1.settle.unhold.modDbg)

theorem Wf.execDebugStep {s : State} (h : Wf s) : OutWf (execDebugStep s) := h.takes (fun _ _ h1 => Wf.ite h1.settle.modDbg h1.nack)

theorem Wf.stepReport {s : State} (h : Wf s) : Wf s.stepReport := h.traceOf.modDbg

theorem Wf.stepDrain {s : State} (h : Wf s) : Wf s.stepDrain := Wf.ite h (Wf.ite h.modDbg.stepReport h.modDbg)

theorem Wf.stepDispatch {s : State} (h : Wf s) : Wf s.stepDispatch := by
  unfold State.stepDispatch
  extract_lets go
  have hg : Wf go := h.modDbg
  split
  · exact h.stepReport
  · split
    · exact h.stepReport
    · extract_lets t t'
      have ht : Wf t := hg.dispatch
      have ht' : Wf t' := Wf.modDbg ht.holdSlot
      exact .ite ht' ht'.modDbg

theorem Wf.stepRelease {i : Fin 4} {s : State} (h : Wf s) : Wf (State.stepRelease i s) := Wf.modDbg (Wf.unhold h)

theorem Wf.rehold {i : Fin 4} {s : State} (h : Wf s) : Wf (State.rehold i s) := Wf.ite (Wf.holdSlot h) h

theorem Wf.stepHold {i : Fin 4} {s : State} (h : Wf s) : Wf (State.stepHold i s) := h.rehold.modDbg

theorem Wf.stepSpent {s : State} (h : Wf s) : Wf s.stepSpent := h.modDbg

/-! Cycles and storage errors (`Sched.lean`). -/

theorem OutWf.andThen {f : State → State} {x1 : Host.Outcome State Fault Refusal} (hf : ∀ x0, Wf x0 → Wf (f x0)) (h : OutWf x1) : OutWf (andThen f x1) := by
  cases x1 with
  | next t => exact hf t h
  | fault _ => trivial
  | refused _ => trivial

theorem Wf.logCycle {s : State} (h : Wf s) : Wf s.logCycle := Wf.ite h (Wf.ite h.modDbg.sendLog h.modDbg)

theorem coreWf.struck {c : Core} {u : Upset} (h : coreWf c) : coreWf (c.struck u) := by
  unfold Core.struck
  split
  · exact h
  · split <;> exact h

theorem Wf.strike {s : State} {u : Upset} (h : Wf s) : Wf (s.strike u) :=
  Wf.ite (Wf.faultRecord (Wf.modCtr (h.withHere h.here.struck rfl rfl rfl))) (h.withHere h.here.struck rfl rfl rfl)

theorem Wf.strikes {s : State} (h : Wf s) : Wf s.strikes := by
  unfold State.strikes
  extract_lets due
  refine Wf.foldl ?_ fun _ _ h1 => h1.strike
  exact h

theorem Wf.clock {s : State} (h : Wf s) : Wf s.clock := Wf.ite h h

theorem Wf.tick {s : State} (h : Wf s) : Wf s.tick := Wf.refreshAges (Wf.clock (Wf.strikes h.logCycle))

theorem Wf.afterIssue {i : Fin 4} {t : State} (h : Wf t) : Wf (State.afterIssue i t) := Wf.ite h h.tick

theorem Wf.passOver {i : Fin 4} {t : State} (h : Wf t) : Wf (State.passOver i t) := Wf.ite h h.modDbg

theorem Wf.atBreakpoint {s : State} {i : Fin 4} (h : Wf s) : Wf (s.atBreakpoint i) := Wf.passOver (Wf.breakpoint h)

end Sys2Proof.Safety
end

section
/-! PROOFS. Canonical memories (O5): every instruction, event and step. -/

namespace Sys2Proof.Safety

open Sys2Proof.Machine

/-- Every instruction and event keeps the memories canonical: one case for each arm of `exec`. -/
theorem Wf.exec {s : State} (h : Wf s) : ∀ i, OutWf (exec i s)
  | .add _ _ _ => h.writeG
  | .sub _ _ _ => h.writeG
  | .and _ _ _ => h.writeG
  | .or _ _ _ => h.writeG
  | .xor _ _ _ => h.writeG
  | .andn _ _ _ => h.writeG
  | .sll _ _ _ => h.writeG
  | .srl _ _ _ => h.writeG
  | .sra _ _ _ => h.writeG
  | .ror _ _ _ => h.writeG
  | .slt _ _ _ => h.writeG
  | .sltu _ _ _ => h.writeG
  | .min _ _ _ => h.writeG
  | .max _ _ _ => h.writeG
  | .minu _ _ _ => h.writeG
  | .maxu _ _ _ => h.writeG
  | .mul _ _ _ => h.writeG
  | .mhi _ _ _ => h.writeG
  | .mhiu _ _ _ => h.writeG
  | .mhisu _ _ _ => h.writeG
  | .div _ _ _ => h.writeG
  | .divu _ _ _ => h.writeG
  | .rem _ _ _ => h.writeG
  | .remu _ _ _ => h.writeG
  | .clz _ _ => h.writeG
  | .ctz _ _ => h.writeG
  | .popc _ _ => h.writeG
  | .bswap _ _ => h.writeG
  | .sxw _ _ => h.writeG
  | .zxw _ _ => h.writeG
  | .addi _ _ _ => h.writeG
  | .andi _ _ _ => h.writeG
  | .ori _ _ _ => h.writeG
  | .xori _ _ _ => h.writeG
  | .slli _ _ _ => h.writeG
  | .srli _ _ _ => h.writeG
  | .srai _ _ _ => h.writeG
  | .rori _ _ _ => h.writeG
  | .slti _ _ _ => h.writeG
  | .sltiu _ _ _ => h.writeG
  | .li _ _ => h.writeG
  | .lih _ _ _ => h.writeG
  | .ldb _ _ _ => h.execLdb
  | .ldh _ _ _ => h.execLdh
  | .ldw _ _ _ => h.execLdw
  | .ldd _ _ _ => h.execLdd
  | .ldbu _ _ _ => h.execLdbu
  | .ldhu _ _ _ => h.execLdhu
  | .ldwu _ _ _ => h.execLdwu
  | .stb _ _ _ => h.execStb
  | .sth _ _ _ => h.execSth
  | .stw _ _ _ => h.execStw
  | .std _ _ _ => h.execStd
  | .vld _ _ _ => h.execVld
  | .vldh _ _ _ => h.execVldh
  | .vst _ _ _ => h.execVst
  | .vsth _ _ _ => h.execVsth
  | .ldp _ _ _ => h.execLdp
  | .stp _ _ _ => h.execStp
  | .beq _ _ _ => h.execBeq
  | .bne _ _ _ => h.execBne
  | .blt _ _ _ => h.execBlt
  | .bge _ _ _ => h.execBge
  | .bltu _ _ _ => h.execBltu
  | .bgeu _ _ _ => h.execBgeu
  | .j _ => h.execJ
  | .jal _ => h.execJal
  | .jr _ _ => h.execJr
  | .jalr _ _ => h.execJalr
  | .loop _ _ => h.execLoop
  | .loopi _ _ => h.execLoopi
  | .trap _ => h.execTrap
  | .crd _ _ => h.execCrd
  | .cwr _ _ => h.execCwr
  | .cins _ _ _ => h.execCins
  | .cxch _ _ _ => h.execCxch
  | .crdz _ _ => h.execCrdz
  | .gld _ _ _ _ _ _ _ => h.execGld
  | .gst _ _ _ _ _ => h.execGst
  | .put _ _ _ _ _ => h.execPut
  | .putr _ _ _ _ _ => h.execPutr
  | .get _ _ _ _ _ => h.execGet
  | .aadd _ _ _ _ _ _ => h.execAadd
  | .aand _ _ _ _ _ _ => h.execAand
  | .aor _ _ _ _ _ _ => h.execAor
  | .axor _ _ _ _ _ _ => h.execAxor
  | .amin _ _ _ _ _ _ => h.execAmin
  | .amax _ _ _ _ _ _ => h.execAmax
  | .aminu _ _ _ _ _ _ => h.execAminu
  | .amaxu _ _ _ _ _ _ => h.execAmaxu
  | .aswap _ _ _ _ _ _ => h.execAswap
  | .acas _ _ _ _ _ _ => h.execAcas
  | .afadd _ _ _ _ _ _ => h.execAfadd
  | .send _ _ _ _ _ => h.execSend
  | .sendp _ _ _ _ _ => h.execSendp
  | .sendm _ _ _ _ _ => h.execSendm
  | .reply _ _ _ _ _ => h.execReply
  | .chmask _ => h.execChmask
  | .chunmask _ => h.execChunmask
  | .chtas _ _ => h.execChtas
  | .jdec _ _ _ => h.execJdec
  | .barm _ _ => h.execBarm
  | .bdis _ => h.execBdis
  | .lwin _ _ => h.execLwin
  | .lstat _ _ => h.execLstat
  | .sbind _ _ => h.execSbind
  | .sdrop _ => h.execSdrop
  | .sstat _ _ => h.execSstat
  | .tmld _ _ _ => h.execTmld
  | .tmbase _ _ => h.execTmbase
  | .tmcnt _ _ _ => h.execTmcnt
  | .chk _ => h.execChk
  | .chke _ => h.execChke
  | .chkg _ => h.execChkg
  | .vadd _ _ _ _ _ _ _ => h.execVadd
  | .vsub _ _ _ _ _ _ _ => h.execVsub
  | .vmul _ _ _ _ _ _ _ => h.execVmul
  | .vdiv _ _ _ _ _ _ _ => h.execVdiv
  | .vsqrt _ _ _ _ _ => h.execVsqrt
  | .vfma _ _ _ _ _ _ _ _ _ => h.execVfma
  | .vfms _ _ _ _ _ _ _ _ _ => h.execVfms
  | .vfnma _ _ _ _ _ _ _ _ _ => h.execVfnma
  | .vmin _ _ _ _ _ _ _ => h.execVmin
  | .vmax _ _ _ _ _ _ _ => h.execVmax
  | .vabs _ _ _ _ _ => h.execVabs
  | .vneg _ _ _ _ _ => h.execVneg
  | .vfeq _ _ _ _ _ _ _ => h.execVfeq
  | .vflt _ _ _ _ _ _ _ => h.execVflt
  | .vfle _ _ _ _ _ _ _ => h.execVfle
  | .vfclass _ _ _ _ _ => h.execVfclass
  | .vcvt _ _ _ _ _ _ => h.cvtVec
  | .vcvtl _ _ _ _ _ _ => h.cvtVec
  | .vcvth _ _ _ _ _ _ => h.cvtVec
  | .vcvtn _ _ _ _ _ _ _ _ => h.execVcvtn
  | .vaddInt _ _ _ _ _ _ _ => h.execVaddInt
  | .vsubInt _ _ _ _ _ _ _ => h.execVsubInt
  | .vmulInt _ _ _ _ _ _ _ => h.execVmulInt
  | .vmulh _ _ _ _ _ _ _ => h.execVmulh
  | .vand _ _ _ _ _ _ _ => h.execVand
  | .vor _ _ _ _ _ _ _ => h.execVor
  | .vxor _ _ _ _ _ _ _ => h.execVxor
  | .vsll _ _ _ _ _ _ _ => h.execVsll
  | .vsrl _ _ _ _ _ _ _ => h.execVsrl
  | .vsra _ _ _ _ _ _ _ => h.execVsra
  | .vminInt _ _ _ _ _ _ _ => h.execVminInt
  | .vmaxInt _ _ _ _ _ _ _ => h.execVmaxInt
  | .vadds _ _ _ _ _ _ _ => h.execVadds
  | .vsubs _ _ _ _ _ _ _ => h.execVsubs
  | .vabsd _ _ _ _ _ _ _ => h.execVabsd
  | .vmadd _ _ _ _ _ _ _ _ _ => h.execVmadd
  | .vceq _ _ _ _ _ _ _ => h.execVceq
  | .vclt _ _ _ _ _ _ _ => h.execVclt
  | .vcle _ _ _ _ _ _ _ => h.execVcle
  | .vsel _ _ _ _ _ _ _ => h.execVsel
  | .kand _ _ _ => h.execKand
  | .kor _ _ _ => h.execKor
  | .kxor _ _ _ => h.execKxor
  | .knot _ _ => h.maskEff
  | .vperm _ _ _ _ _ _ _ => h.permEff
  | .vbcast _ _ _ _ _ _ _ => h.permEff
  | .vrev _ _ _ _ _ => h.permEff
  | .vzipl _ _ _ _ _ _ _ => h.permEff
  | .vziph _ _ _ _ _ _ _ => h.permEff
  | .vuzpe _ _ _ _ _ _ _ => h.permEff
  | .vuzpo _ _ _ _ _ _ _ => h.permEff
  | .vrsum _ _ _ _ _ => h.execVrsum
  | .vrmin _ _ _ _ _ => h.execVrmin
  | .vrmax _ _ _ _ _ => h.execVrmax
  | .vrand _ _ _ _ _ => h.redEff
  | .vror _ _ _ _ _ => h.redEff
  | .vrxor _ _ _ _ _ => h.redEff
  | .vmovOV _ _ => h.execVmovOV
  | .vmovVO _ _ _ => h.execVmovVO
  | .vmovOport _ _ _ => h.execVmovOport
  | .vmovPorto _ _ _ => h.execVmovPorto
  | .vmovOO _ _ _ => h.execVmovOO
  | .vsplat _ _ _ => h.execVsplat
  | .vext _ _ _ _ _ => h.execVext
  | .vins _ _ _ _ => h.execVins
  | .kmovKG _ _ => h.execKmovKG
  | .kmovGK _ _ => h.execKmovGK
  | .vexp2 _ _ _ _ _ => h.execVexp2
  | .vlog2 _ _ _ _ _ => h.execVlog2
  | .vrcp _ _ _ _ _ => h.execVrcp
  | .vrsq _ _ _ _ _ => h.execVrsq
  | .vsinpi _ _ _ _ _ => h.execVsinpi
  | .vcospi _ _ _ _ _ => h.execVcospi
  | .dtld _ _ _ => h.execDtld
  | .vdec _ _ _ _ _ _ => h.execVdec
  | .venc _ _ _ _ _ _ => h.execVenc
  | .bld _ _ _ _ _ => h.execBld
  | .bst _ _ _ _ _ _ => h.execBst
  | .twld _ _ _ => h.execTwld
  | .twst _ _ _ _ => h.execTwst
  | .qclaim _ => h.execQclaim
  | .qtry _ _ => h.execQtry
  | .qrel _ => h.execQrel
  | .qld _ _ _ side => h.execQld (_side := side)
  | .qput _ _ _ _ => h.execQput
  | .qget _ _ _ => h.execQget
  | .qlnk _ _ _ _ => h.execQlnk
  | .mma _ _ _ _ _ => h.execMma
  | .accld _ _ _ _ _ => h.execAccld
  | .accldReg _ _ _ _ _ => h.execAccldReg
  | .accst _ _ _ _ _ _ => h.execAccst
  | .accstReg _ _ _ _ _ _ => h.execAccstReg
  | .acczero _ => h.execAcczero
  | .mxcmd _ _ _ _ _ => h.execMxcmd
  | .dxld _ _ _ => h.execDxld
  | .dxrun _ _ _ _ => h.execDxrun
  | .abegin _ _ _ => h.execAbegin
  | .ajoin _ => h.execAjoin
  | .apitch _ _ _ => h.execApitch
  | .asummit _ _ => h.execAsummit
  | .aretreat _ _ => h.execAretreat
  | .aresume _ _ _ => h.execAresume
  | .astat _ _ => h.execAstat
  | .imgld _ _ _ => h.execImgld
  | .imgrev _ => h.execImgrev
  | .hset _ _ => h.execHset
  | .pset _ _ _ => h.execPset
  | .winw _ _ _ => h.execWinw
  | .keyset _ _ => h.execKeyset
  | .lease _ _ => h.execLease
  | .imgev _ _ => h.execImgev
  | .dmark _ _ => h.execDmark
  | .wpset _ _ _ => h.execWpset
  | .wpclr _ => h.execWpclr
  | .bpset _ _ => h.execBpset
  | .dgrp _ => h.execDgrp
  | .dstat _ _ => h.execDstat
  | .cMv _ _ => h.writeG
  | .cAddi _ _ => h.writeG
  | .cLdd _ _ _ => h.execCLdd
  | .cStd _ _ _ => h.execCStd
  | .cBeqz _ _ => h.execCBeqz
  | .cBnez _ _ => h.execCBnez
  | .cJ _ => h.execCJ
  | .cAdd _ _ => h.writeG
  | .cSub _ _ => h.writeG
  | .cSlli _ _ => h.writeG
  | .cVmovOV _ _ => h.execCVmovOV
  | .cVmovVO _ _ _ => h.execCVmovVO
  | .cLi _ _ => h.writeG
  | .cpy _ _ _ _ => h.execCpy
  | .end_ => h.execEnd
  | .nop => h.execNop
  | .brk => h.execBrk
  | .lend => h.execLend
  | .dstop => h.execDstop
  | .cNop => h.execCNop
  | .cEnd => h.execCEnd
  | .cBrk => h.execCBrk
  | .dxrunReadPhase => h.execDxrunReadPhase
  | .dxrunWritePhase => h.execDxrunWritePhase
  | .budget => h.execBudget
  | .dispatch => h.dispatch
  | .agePromotion => h.promote
  | .messageArrival => h.execMessageArrival
  | .nack => h.execNack
  | .settleAck => h.execSettleAck
  | .releaseSendLeave => h.flush
  | .spill => h.execSpill
  | .spillReturn => h.execSpillReturn
  | .linkWordDelivery => h.execLinkWordDelivery
  | .linkCreditReturn => h.execLinkCreditReturn
  | .remoteLoad => h.execRemoteLoad
  | .remoteStore => h.execRemoteStore
  | .remotePut => h.execRemotePut
  | .remotePutr => h.execRemotePutr
  | .remoteGet => h.execRemoteGet
  | .getLanding => h.execGetLanding
  | .getCompletion => h.execGetCompletion
  | .remoteAtomic => h.execRemoteAtomic
  | .remoteJdec => h.execRemoteJdec
  | .placementFaultRecord => h.execPlacementFaultRecord
  | .resumeInstall => h.execResumeInstall
  | .resumeRefuse => h.execResumeRefuse
  | .plbShootdown => h.execPlbShootdown
  | .shootdownAck => h.execShootdownAck
  | .prgResponse => h.execPrgResponse
  | .mmaCommandStart => h.execMmaCommandStart
  | .mmaCommandComplete => h.execMmaCommandComplete
  | .ropeCommandArrival => h.execRopeCommandArrival
  | .ropeCommandTimeout => h.execRopeCommandTimeout
  | .streamStripFetch => h.execStreamStripFetch
  | .copyKick => h.execCopyKick
  | .copyCommandStart => h.execCopyCommandStart
  | .copyCompletion => h.execCopyCompletion
  | .launchAccept => h.execLaunchAccept
  | .launchWake => h.execLaunchWake
  | .launchVote => h.execLaunchVote
  | .coalesceWindowClose => h.execCoalesceWindowClose
  | .trapTriageHw => h.execTrapTriageHw
  | .trapTriageHost => h.execTrapTriageHost
  | .engineCompletion => h.execEngineCompletion
  | .doubleRecord => h.execDoubleRecord
  | .preempt => h.execPreempt
  | .timeSliceQuantum => h.execTimeSliceQuantum
  | .fingerprintCheckpoint => h.execFingerprintCheckpoint
  | .quarantine => h.execQuarantine
  | .engineSpareReplace => h.execEngineSpareReplace
  | .igtRevokeRequest => h.execIgtRevokeRequest
  | .imgrevNotice => h.execImgrevNotice
  | .slideRegion => h.execSlideRegion
  | .anchorPush => h.execAnchorPush
  | .anchorStamp => h.execAnchorStamp
  | .stampReturn => h.execStampReturn
  | .ascentBeginReq => h.execAscentBeginReq
  | .ascentSummitReq => h.execAscentSummitReq
  | .ascentRetreatReq => h.execAscentRetreatReq
  | .ascentResumeReq => h.execAscentResumeReq
  | .ascentStatReq => h.execAscentStatReq
  | .ascentLifetime => h.modKeeper
  | .anchorSend => h.execAnchorSend
  | .endNotice => h.execEndNotice
  | .failureNotice => h.execFailureNotice
  | .rescueRelay => h.execRescueRelay
  | .collectiveCommand => h.execCollectiveCommand
  | .generationNotice => h.execGenerationNotice
  | .fabricForward => h.execFabricForward
  | .linkRetry => h.modPort
  | .portWithdraw => h.execPortWithdraw
  | .moduleWithdraw => h.execModuleWithdraw
  | .debugStop => h.execDebugStop
  | .coreStopped => h.execCoreStopped
  | .debugStep => h.execDebugStep
  | .debugResume => h.execDebugResume
  | .hostLaunch => h.execHostLaunch
  | .hostCall => h.execHostCall
  | .stageImage => h.execStageImage
  | .hostSlideRegion => h.execHostSlideRegion
  | .hostCollective => h.execHostCollective
  | .readCounters => h.execReadCounters
  | .pfCommand => h.execPfCommand
  | .journalWindowWrite => h.execJournalWindowWrite
  | .hostMemoryAccess => h.execHostMemoryAccess
  | .getCertificate => h.respond
  | .challenge => h.execChallenge
  | .getMeasurements => h.execGetMeasurements
  | .keyExchange => h.execKeyExchange
  | .finish => h.execFinish
  | .coldReset => h.resetPackage
  | .deviceReset => h.execDeviceReset
  | .vfFlr => h.execVfFlr
  | .hotReset => h.execHotReset
  | .confScrubTimeout => h.execConfScrubTimeout
  | .undefEncoding => h.execUndefEncoding
  | .fetchFailure => h.execFetchFailure
  | .admission => h.execAdmission
  | .wakeFailure => h.execWakeFailure
  | .portRetrain => h.execPortRetrain
  | .fabricLinkUp => h.execFabricLinkUp
  | .ideKeyManagement => h.execIdeKeyManagement
  | .recordReplayMode => h.modDbg
  | .powerLimitWindow => h.execPowerLimitWindow

theorem Wf.execDecoded {s : State} (h : Wf s) : ∀ d, OutWf (execDecoded d s)
  | .copy _ _ _ _ => h.execCpy
  | .insn i => h.exec i

theorem Wf.issue {s : State} {i : Fin 4} {d : Decoded} (h : Wf s) : OutWf (s.issue i d) := by
  refine OutWf.andThen (fun _ h1 => h1.afterIssue) (Wf.execDecoded ?_ d)
  exact h

theorem Wf.perform1 {s : State} {i : Instr} {slot : Fin 4} {arg : EvArg} (h : Wf s) : OutWf (s.perform1 i slot arg) := by
  refine OutWf.andThen (fun _ h1 => h1.tick) (Wf.exec ?_ i)
  exact h

theorem Wf.stepIssue {s : State} {i : Fin 4} {d : Decoded} (h : Wf s) : OutWf (s.stepIssue i d) :=
  OutWf.andThen (fun _ h1 => Wf.ite h1.rehold h1.stepHold.tick) (h.stepRelease.execDecoded d)

theorem Wf.stepEvent {s : State} {i : Instr} {slot : Fin 4} {arg : EvArg} (h : Wf s) : OutWf (s.stepEvent i slot arg) := by
  refine OutWf.andThen (fun _ h1 => Wf.tick (Wf.ite h1.stepSpent h1.stepHold)) (Wf.exec ?_ i)
  exact h.stepRelease

theorem Wf.make {s : State} (h : Wf s) : ∀ c, OutWf (s.make c)
  | .event _ _ _ => h.perform1
  | .timer i arg => Wf.exec (s := { s with ev := arg }) h i
  | .issue _ _ => OutWf.ite h.stepIssue h.issue
  | .stepEvent _ _ _ => h.stepEvent
  | .breakpoint _ => h.atBreakpoint.tick
  | .stepDispatch => h.stepDispatch.tick
  | .stepDrain => h.stepDrain.tick
  | .endCycle => h.tick

theorem Wf.goOn {s : State} (h : Wf s) : OutWf s.goOn := OutWf.ite trivial (h.make _)

theorem Wf.takeTurn {s : State} {x : Turn} (h : Wf s) : OutWf (s.takeTurn x) :=
  OutWf.ite h.focus.tick (OutWf.ite h.focus.perform1 h.focus.goOn)

/-- One step: the turn that comes next, or the acting core's own move. -/
theorem Wf.step {s : State} (h : Wf s) : OutWf (step s) := by
  unfold Machine.step
  split
  next rest _ => exact Wf.takeTurn (s := { s with turns := rest }) h
  next => exact h.goOn

/-- Settles O5: each function of the model that changes the state has a lemma that it keeps the memories canonical, and `step` is made of them; the writes to a memory all go
through `LocalMem.write`, `memWrite` and their relatives, which keep the canonical form. -/
theorem memoriesStayCanonical : Obligations.MemoriesStayCanonical := by
  intro s t h hst
  have ht : OutWf (.next t) := hst ▸ h.step
  exact ht

end Sys2Proof.Safety
end

section
/-! PROOFS. Block loads and stores (R72 to R75, R121). -/

namespace Sys2Proof.Safety

open Sys2Proof.Machine

/-! A watchpoint's hit leaves the matrix unit as it is: the stop message that it may send concerns the interface alone. -/

@[simp] theorem State.fly_mx (s : State) (m : Msg) : (s.fly m).here.mx = s.here.mx := by
  unfold State.fly
  split
  · show (s.passDies _ _ _ m).here.mx = s.here.mx
    unfold State.passDies
    dsimp only
    split
    · rfl
    · rfl
  · rfl

@[simp] theorem State.emit1_mx (s : State) (d : CoreAddr) (kind : BitVec 2) (ch : BitVec 8) (paddr : BitVec 18) (pay : List Strip) (it : OutItem) (m e : Bool) :
    (s.emit1 d kind ch paddr pay it m e).here.mx = s.here.mx :=
  State.fly_mx _ _

/-- What every step of a fold leaves as it is, the fold does. -/
theorem foldl_keeps {α β γ : Type} {f : α → β → α} (g : α → γ) (h : ∀ a b, g (f a b) = g a) (l : List β) (a : α) : g (l.foldl f a) = g a := by
  induction l generalizing a with
  | nil => rfl
  | cons b l ih => exact (ih _).trans (h a b)

@[simp] theorem State.emitAll_mx (s : State) (it : OutItem) : (s.emitAll it).here.mx = s.here.mx :=
  foldl_keeps (fun t : State => t.here.mx) (fun _ _ => State.emit1_mx ..) _ _

@[simp] theorem State.emit_mx (s : State) (it : OutItem) : (s.emit it).here.mx = s.here.mx := by
  unfold State.emit
  split
  · dsimp only
    split
    · rfl
    · rw [State.emitAll_mx]
      unfold Core.modLessee
      split
      · rfl
      · rfl
  · exact State.emitAll_mx s it

@[simp] theorem State.leaveOwn_mx (s : State) (it : OutItem) : (s.leaveOwn it).here.mx = s.here.mx := by
  unfold State.leaveOwn
  split
  · exact State.emit_mx s it
  · rfl

@[simp] theorem State.trigger_mx (s : State) (cause : BitVec 3) : (s.trigger cause).here.mx = s.here.mx := by
  unfold State.trigger
  dsimp only
  split
  · exact foldl_keeps (fun t : State => t.here.mx) (fun _ _ => State.leaveOwn_mx ..) _ _
  · rfl

@[simp] theorem State.watch_mx (s : State) (rd wr : Bool) (ten : BitVec 12) (ranges : List (Nat × Nat)) : (s.watch rd wr ten ranges).here.mx = s.here.mx := by
  unfold State.watch
  dsimp only
  split
  · rfl
  · rw [State.trigger_mx]
    rfl

theorem loaded_mx (s : State) (b : BitVec 5) (a n : Nat) : (loaded s b a n).here.mx = s.here.mx := by
  unfold loaded
  split
  · rfl
  · exact State.watch_mx ..

/-! A load that passes its checks (R32, R38). -/

/-- The bytes that a load by base field reads once it passes its checks, and the machine after it. -/
theorem load_of_loadOk {s : State} {b : BitVec 5} {ea : Word} {n align : Nat} (hn : n ≠ 0) (h : LoadOk s b ea.toNat n align) :
    ∃ bs, s.load b ea n align = .ok (bs, loaded s b ea.toNat n) ∧ bs.length = n ∧ ∀ j, j < n → bs.getD j 0 = loadByte s b (ea.toNat + j) := by
  unfold LoadOk at h
  unfold State.load loaded loadByte
  split at h
  · next hb =>
    refine ⟨s.imemBytes ea.toNat n, ?_, memRead_length .., fun j hj => ?_⟩
    · rw [if_pos hb, if_pos hb, imemCheck_of_imemOk hn h]
    · rw [if_pos hb, State.imemBytes, memRead_getD _ _ _ _ hj, Nat.add_assoc]
  · next hb =>
    refine ⟨s.nearBytes ea.toNat n, ?_, LocalMem.read_length .., fun j hj => ?_⟩
    · rw [if_neg hb, if_neg hb, nearCheck_of_nearOk hn h]
      rfl
    · rw [if_neg hb, State.nearBytes, LocalMem.read_getD _ _ _ _ _ _ hj]

/-- An instruction of MO 0x25 on an engine core (R221). -/
theorem traps_on_engine {i : Instr} {s : State} {e : Effect} (he : isEngine s.at_ = true) (h : exec i s = finish 4 s (onCompute 0x25 s e)) :
    Traps i (.plain 0x0E 0x25) s := by
  rw [Traps, h, onCompute, if_pos he]
  rfl

/-- A decode table with an uncorrectable error (R254). -/
theorem withTab_of_bad {s : State} {side : BitVec 1} (h : s.here.mx.tabBad[side.toNat] = true) (e : Effect) :
    s.withTab side e = .trap (.plain 0x13 (Config.info cEccu 0 s.time)) := if_pos h

theorem withTab_of_sound {s : State} {side : BitVec 1} (h : s.here.mx.tabBad[side.toNat] = false) (e : Effect) : s.withTab side e = e := by
  rw [State.withTab, h]
  rfl

/-! Records (R72, R73). -/

/-- The padding of a record: the bytes behind its scale. -/
theorem padOk_iff (f : BlockFmt) (r : List Byte) : padOk f r = true ↔ ∀ i, f.scaleAt < i → i < r.length → r.getD i 0 = 0 := by
  unfold padOk
  rw [List.all_eq_true]
  constructor
  · intro h i hi hl
    have hm : r[i] ∈ r.drop (f.scaleAt + 1) := List.mem_drop_iff_getElem.mpr ⟨i - (f.scaleAt + 1), by omega, by congr 1; omega⟩
    rw [List.getD_eq_getElem _ _ hl]
    exact eq_of_beq (h _ hm)
  · intro h x hx
    obtain ⟨j, hj, rfl⟩ := List.mem_drop_iff_getElem.mp hx
    have := h (f.scaleAt + 1 + j) (by omega) (by omega)
    rw [List.getD_eq_getElem _ _ (by omega)] at this
    simp [this]

/-- The record of a block has the size of its format (R72). -/
theorem length_blockRec (f : BlockFmt) (scale : Nat) {es : List Nat} (h : es.length = 32) : (blockRec f scale es).length = f.size := by
  cases f with
  | bs8 => simp [blockRec, BlockFmt.size, h]
  | bs4 => simp [blockRec, BlockFmt.size]

theorem length_of_encodeBlock {f : BlockFmt} {tab : Memory} {t : Int} {xs : List Machine.Num} {pick : Nat → Bool} {r : List Byte} {fl : BitVec 6} (hx : xs.length = 32)
    (h : encodeBlock f tab t xs pick = .block r fl) : r.length = f.size := by
  unfold encodeBlock at h
  split at h
  · obtain ⟨rfl, -⟩ := Encoded.block.inj h
    exact length_blockRec _ _ (List.length_replicate ..)
  · extract_lets ys a emax at h
    split at h
    · obtain ⟨rfl, -⟩ := Encoded.block.inj h
      exact length_blockRec _ _ (List.length_replicate ..)
    · split at h
      · cases h
      · split at h
        · cases h
        · obtain ⟨rfl, -⟩ := Encoded.block.inj h
          exact length_blockRec _ _ (by simp [ys, hx])

/-- Four o registers take four eighths of 32 FP32 lanes each. -/
theorem setO4_eq (s : State) (d : BitVec 3) (xs : List Nat) :
    let v (m : Nat) : Strip := BitVec.ofNat 256 (ofLanes 32 ((xs.drop (8 * m)).take 8))
    s.setO4 d xs = (((s.setO d (v 0)).setO (d + 1) (v 1)).setO (d + 2) (v 2)).setO (d + 3) (v 3) := by
  intro v
  show ((((s.setO (d + 0#3) (v 0)).setO (d + 1) (v 1)).setO (d + 2) (v 2)).setO (d + 3) (v 3)) = _
  rw [BitVec.add_zero]

/-- Lane `j` of the `m`-th of four registers. -/
theorem lane_setO4 {xs : List Nat} (hx : ∀ x ∈ xs, x < 2 ^ 32) (m : Nat) {j : Nat} (hj : j < 8) :
    lane 32 (BitVec.ofNat 256 (ofLanes 32 ((xs.drop (8 * m)).take 8))) j = xs.getD (8 * m + j) 0 := by
  have hl : ((xs.drop (8 * m)).take 8).length ≤ 8 := List.length_take_le ..
  rw [lane_ofLanes _ _ (by omega), List.getD_eq_getElem?_getD, List.getD_eq_getElem?_getD, List.getElem?_take_of_lt hj, List.getElem?_drop]
  cases hg : xs[8 * m + j]? with
  | none => rfl
  | some x => exact Nat.mod_eq_of_lt (hx x (List.mem_of_getElem? hg))

/-! Values of a record (R72, R74). -/

/-- Value of element `i` of the record at `r` under its scale, rounded to FP32 (R72, R121). -/
def recordLane (f : BlockFmt) (tab : Memory) (r : Nat → Byte) (i : Nat) : Nat × BitVec 6 :=
  if r f.scaleAt = 0xFF then (fp32.cnan, 0)
  else (numMul (.fin (e5m3 (r f.scaleAt).toNat)) (match f with
    | .bs8 => ixFmt.decode (memNat tab (16 + 4 * (r i).toNat) 4 % 2 ^ 19)
    | .bs4 => .fin (e2m1 (if i % 2 = 0 then (r (i / 2)).toNat % 16 else (r (i / 2)).toNat / 16)))).to fp32 0

theorem blockVal_to (f : BlockFmt) (tab : Memory) (bs : List Byte) {r : Nat → Byte} (h : ∀ j, j < f.size → bs.getD j 0 = r j) {i : Nat} (hi : i < 32) :
    (blockVal f tab bs i).to fp32 0 = recordLane f tab r i := by
  have hsc : bs.getD f.scaleAt 0 = r f.scaleAt := h _ (by cases f <;> decide)
  have hff : (r f.scaleAt).toNat = 0xFF ↔ r f.scaleAt = 0xFF := by
    rw [← BitVec.toNat_inj]
    rfl
  unfold blockVal recordLane scaledVal blockScale
  rw [hsc]
  by_cases hn : r f.scaleAt = 0xFF
  · rw [if_pos hn, if_pos (hff.mpr hn)]
    rfl
  · rw [if_neg hn, if_neg fun e => hn (hff.mp e)]
    cases f with
    | bs8 =>
      show (numMul _ (tabVal tab (bs.getD i 0).toNat)).to fp32 0 = _
      rw [h i (by show i < 48; omega)]
      rfl
    | bs4 =>
      show (numMul _ (.fin (e2m1 ((bs.getD (i / 2) 0).toNat / (if i % 2 = 0 then 1 else 16) % 16)))).to fp32 0 = _
      rw [h (i / 2) (by show i / 2 < 32; omega)]
      have hb := (r (i / 2)).isLt
      split
      · rw [Nat.div_one]
      · rw [Nat.mod_eq_of_lt (by omega)]

/-! `bld` and `bst` (R121). -/

section Transfer

variable {s : State} {d : BitVec 3} {b : BitVec 5} {l side : BitVec 1} {f : BitVec 2} {o : BitVec 8}

/-- Every byte behind the scale of the record that a load reads is zero (R73). -/
def Padded (s : State) (b : BitVec 5) (a : Nat) (f : BlockFmt) : Prop := ∀ i, f.scaleAt < i → i < f.size → loadByte s b (a + i) = 0

/-- The lanes that `bld` writes. -/
def bldLane (s : State) (b : BitVec 5) (side : BitVec 1) (f : BitVec 2) (o : BitVec 8) (i : Nat) : Nat × BitVec 6 :=
  recordLane (blockFmt f) (s.tab side) (fun j => loadByte s b ((s.ea b (off16 o)).toNat + j)) i

theorem size_ne_zero (f : BlockFmt) : f.size ≠ 0 := by
  cases f with
  | bs8 => decide
  | bs4 => decide

/-- The padding of a record that was loaded. -/
theorem padOk_of_loaded {a : Nat} {f : BlockFmt} {bs : List Byte} (hl : bs.length = f.size) (hb : ∀ j, j < f.size → bs.getD j 0 = loadByte s b (a + j)) :
    padOk f bs = true ↔ Padded s b a f := by
  rw [padOk_iff, hl]
  exact forall_congr' fun i => forall_congr' fun _ => forall_congr' fun hi => by rw [hb i hi]

theorem bldEff_of_padded (hs : blockFmt f = .bs8 → s.here.mx.tabBad[side.toNat] = false) (h : LoadOk s b (s.ea b (off16 o)).toNat (blockFmt f).size 16)
    (hp : Padded s b (s.ea b (off16 o)).toNat (blockFmt f)) :
    bldEff d b side f o s = .ok (((loaded s b (s.ea b (off16 o)).toNat (blockFmt f).size).addFlags (orFlags ((List.range 32).map fun i => (bldLane s b side f o i).2))).setO4 d
      ((List.range 32).map fun i => (bldLane s b side f o i).1)) := by
  obtain ⟨bs, hbs, hl, hb⟩ := load_of_loadOk (size_ne_zero _) h
  have hx : (List.range 32).map (fun i => (blockVal (blockFmt f) (s.tab side) bs i).to fp32 0) = (List.range 32).map (bldLane s b side f o) :=
    List.map_congr_left fun i hi => blockVal_to _ _ _ hb (List.mem_range.mp hi)
  have ht : ∀ e, (if blockFmt f = .bs8 then (loaded s b (s.ea b (off16 o)).toNat (blockFmt f).size).withTab side else id) e = e := fun e => by
    split
    · next h8 => exact withTab_of_sound (by rw [loaded_mx]; exact hs h8) e
    · rfl
  unfold bldEff
  simp only [hbs, (padOk_of_loaded hl hb).mpr hp, if_true, hx, ht, List.map_map, Function.comp_def]

theorem bldEff_of_not_padded (h : LoadOk s b (s.ea b (off16 o)).toNat (blockFmt f).size 16) (hp : ¬ Padded s b (s.ea b (off16 o)).toNat (blockFmt f)) :
    bldEff d b side f o s = .trap (.atBase b cPoison (s.ea b (off16 o)) (s.ea b (off16 o))) := by
  obtain ⟨bs, hbs, hl, hb⟩ := load_of_loadOk (size_ne_zero _) h
  unfold bldEff
  simp only [hbs, mt (padOk_of_loaded hl hb).mp hp, if_false, Bool.false_eq_true]

theorem bldEff_of_bad (h8 : blockFmt f = .bs8) (hs : s.here.mx.tabBad[side.toNat] = true) (h : LoadOk s b (s.ea b (off16 o)).toNat (blockFmt f).size 16)
    (hp : Padded s b (s.ea b (off16 o)).toNat (blockFmt f)) : ∃ x, bldEff d b side f o s = .trap (.plain 0x13 x) := by
  obtain ⟨bs, hbs, hl, hb⟩ := load_of_loadOk (size_ne_zero _) h
  unfold bldEff
  simp only [hbs, (padOk_of_loaded hl hb).mpr hp, if_true, if_pos h8]
  exact ⟨_, withTab_of_bad (by rw [loaded_mx]; exact hs) _⟩

/-- The block that `bst` encodes. -/
def bstBlock (s : State) (d : BitVec 3) (side : BitVec 1) (f : BitVec 2) : Encoded :=
  encodeBlock (blockFmt f) (s.tab side) (fld s.act.csr.tscl 0 8).toInt (s.lanes32 d) (Config.midInf s.time.toNat)

theorem bstEff_of_bad (h8 : blockFmt f = .bs8) (hs : s.here.mx.tabBad[side.toNat] = true) : ∃ x, bstEff d l b side f o s = .trap (.plain 0x13 x) := by
  unfold bstEff
  simp only [if_pos h8]
  exact ⟨_, withTab_of_bad hs _⟩

/-- `bst` with a table that it can read, or without need of one. -/
theorem bstEff_of_sound (hs : blockFmt f = .bs8 → s.here.mx.tabBad[side.toNat] = false) :
    (∀ c x, bstBlock s d side f = .trap c x → bstEff d l b side f o s = .trap (.atNear c x (s.g b + off16 o))) ∧
    ∀ r fl, bstBlock s d side f = .block r fl → (∀ u, s.store (s.g b + off16 o) 16 r = .ok u → bstEff d l b side f o s = .ok ((u.useO (fourO d l)).addFlags fl)) ∧
      ∀ t, s.store (s.g b + off16 o) 16 r = .error t → bstEff d l b side f o s = .trap t := by
  have ht : ∀ e, (if blockFmt f = .bs8 then s.withTab side else id) e = e := fun e => by
    split
    · next h8 => exact withTab_of_sound (hs h8) e
    · rfl
  unfold bstEff bstBlock
  constructor
  · intro c x h
    simp only [ht, h]
  · intro r fl h
    exact ⟨fun u hu => by simp only [ht, h, hu], fun t hu => by simp only [ht, h, hu]⟩

end Transfer

theorem does_of_ok {i : Instr} {len : Nat} {s t : State} {e : Effect} (h : exec i s = finish len s e) (he : e = .ok t) : Does i len s t := by
  rw [Does, h, he]
  rfl

theorem traps_of_trap {i : Instr} {len : Nat} {s : State} {t : Trap} {e : Effect} (h : exec i s = finish len s e) (he : e = .trap t) : Traps i t s := by
  rw [Traps, h, he]
  rfl

theorem recordLane_lt (f : BlockFmt) (tab : Memory) (r : Nat → Byte) (i : Nat) : (recordLane f tab r i).1 < 2 ^ 32 := by
  unfold recordLane
  split
  · decide
  · exact exact_to_lt (fmtOk_fmtOf 0) _ _

theorem bldLane_lt {s : State} {b : BitVec 5} {side : BitVec 1} {f : BitVec 2} {o : BitVec 8} (i : Nat) : (bldLane s b side f o i).1 < 2 ^ 32 := recordLane_lt ..

/-- The flags of all of up to 32 lanes. -/
theorem laneFlags_all {n : Nat} (hn : n ≤ 32) (f : Nat → BitVec 6) : laneFlags n (BitVec.allOnes 32) f (orFlags ((List.range n).map f)) := by
  have h := laneFlags_orFlags n (BitVec.allOnes 32) f _ fun _ => rfl
  rwa [List.map_congr_left fun i hi => if_pos (by rw [BitVec.getLsbD_allOnes]; exact decide_eq_true (Nat.lt_of_lt_of_le (List.mem_range.mp hi) hn))] at h

/-- Settles O32. -/
theorem blockTransfers : Obligations.BlockTransfers := by
  intro s d b l side ft o hft hd ea size scaleAt tab elem value rec_ pad src sound enc
  have hsize : size = (blockFmt ft).size := by rcases hft with rfl | rfl <;> rfl
  have hpad : pad ↔ Padded s b ea.toNat (blockFmt ft) := by rcases hft with rfl | rfl <;> exact Iff.rfl
  have hval : ∀ i, value rec_ i = bldLane s b side ft o i := by rcases hft with rfl | rfl <;> exact fun _ => rfl
  have hsound : sound ↔ (blockFmt ft = .bs8 → s.here.mx.tabBad[side.toNat] = false) := by rcases hft with rfl | rfl <;> simp [sound, blockFmt]
  have henc : enc = bstBlock s d side ft := by simp only [enc, bstBlock, fld_zero]; rfl
  have hbad : ¬ sound → blockFmt ft = .bs8 ∧ s.here.mx.tabBad[side.toNat] = true := fun h => by simpa [hsound] using h
  have hlen {r : List Byte} {fl : BitVec 6} (h : enc = .block r fl) : r.length = (blockFmt ft).size := length_of_encodeBlock (by simp) h
  have hea (hb : b ≠ 0) : ea = s.g b + off16 o := congrArg (· + off16 o) (if_neg hb)
  rw [hsize]
  refine ⟨fun he => ⟨traps_on_engine he rfl, traps_on_engine he rfl⟩, fun he hs => ⟨fun h hp => ?_, ?_⟩, fun he hs h hp => ?_, fun he h hp => ?_, fun he hs hb => ⟨fun c x h => ?_, fun r fl h => ⟨?_, fun hn => ?_, fun t hn => ?_⟩⟩⟩
  · obtain ⟨h8, ht⟩ := hbad hs
    obtain ⟨x, hx⟩ := bldEff_of_bad h8 ht h (hpad.mp hp)
    exact ⟨x, traps_of_trap (exec_of_onCompute he rfl) hx⟩
  · obtain ⟨h8, ht⟩ := hbad hs
    obtain ⟨x, hx⟩ := bstEff_of_bad h8 ht
    exact ⟨x, traps_of_trap (exec_of_onCompute he rfl) hx⟩
  · simp only [hval]
    refine ⟨fun k => BitVec.ofNat 256 (ofLanes 32 ((((List.range 32).map fun i => (bldLane s b side ft o i).1).drop (8 * k.val)).take 8)), _,
      laneFlags_all (Nat.le_refl 32) _, fun k j hj => ?_,
      does_of_ok (exec_of_onCompute he rfl) ((bldEff_of_padded (hsound.mp hs) h (hpad.mp hp)).trans (congrArg Effect.ok (setO4_eq ..)))⟩
    rw [lane_setO4 (by simpa using fun i _ => bldLane_lt i) _ hj, List.getD_eq_getElem _ _ (by simp; omega)]
    simp
  · refine traps_of_trap (exec_of_onCompute he rfl) ((bldEff_of_not_padded h (mt hpad.mpr hp)).trans (congrArg Effect.trap ?_))
    unfold Trap.atBase
    by_cases hb : b = 0
    · rw [if_neg (not_not.mpr hb), if_pos hb]
      rfl
    · rw [if_pos hb, if_neg hb]
      rfl
  · rw [hea hb]
    exact traps_of_trap (exec_of_onCompute he rfl) ((bstEff_of_sound (hsound.mp hs)).1 c x (henc ▸ h))
  · exact hlen h
  · refine does_of_ok (exec_of_onCompute he rfl) (((bstEff_of_sound (hsound.mp hs)).2 r fl (henc ▸ h)).1 _ ?_)
    rw [← hea hb, State.store, hlen h, nearCheck_of_nearOk (size_ne_zero _) hn]
  · refine traps_of_trap (exec_of_onCompute he rfl) (((bstEff_of_sound (hsound.mp hs)).2 r fl (henc ▸ h)).2 t ?_)
    rw [← hea hb, State.store, hlen h, nearCheck_of_nearFails (size_ne_zero _) hn]

end Sys2Proof.Safety
end

section
/-! PROOFS. Exact values as rationals: comparison, sum, product and scaling (R64 to R66). -/

namespace Sys2Proof.Safety

open Sys2Proof.Machine

/-- A dyadic as an integer at a lower exponent. -/
theorem cast_at (x : Dy) {e : Int} (h : e ≤ x.e) : ((x.at e : Int) : ℚ) * 2 ^ e = ratOf x := by
  have hp : ((2 : ℚ) ^ (x.e - e).toNat) * 2 ^ e = 2 ^ x.e := by
    rw [← zpow_natCast, ← zpow_add₀ two_ne_zero, Int.toNat_of_nonneg (by omega), sub_add_cancel]
  unfold Dy.at ratOf
  rw [← hp]
  push_cast
  split <;> ring

theorem numLt_fin (x y : Dy) : numLt (.fin x) (.fin y) = decide (ratOf x < ratOf y) := by
  show decide (x.at (min x.e y.e) < y.at (min x.e y.e)) = _
  rw [← cast_at x (min_le_left x.e y.e), ← cast_at y (min_le_right x.e y.e)]
  refine decide_eq_decide.mpr ?_
  rw [mul_lt_mul_iff_left₀ (zpow_pos two_pos _), Int.cast_lt]

theorem numLe_fin (x y : Dy) : numLe (.fin x) (.fin y) = decide (ratOf x ≤ ratOf y) := by
  show (!numLt (.fin y) (.fin x)) = _
  rw [numLt_fin, ← decide_not]
  exact decide_eq_decide.mpr not_lt

theorem numEq_fin (x y : Dy) : numEq (.fin x) (.fin y) = decide (ratOf x = ratOf y) := by
  show ((!numLt (.fin x) (.fin y)) && !numLt (.fin y) (.fin x)) = _
  rw [numLt_fin, numLt_fin, ← decide_not, ← decide_not, ← Bool.decide_and]
  exact decide_eq_decide.mpr ⟨fun h => le_antisymm (not_lt.mp h.2) (not_lt.mp h.1), fun h => ⟨h.not_lt, h.not_gt⟩⟩

theorem ratOf_mul (x y : Dy) : ratOf (x.mul y) = ratOf x * ratOf y := by
  have h : (2 : ℚ) ^ (x.e + y.e) = 2 ^ x.e * 2 ^ y.e := zpow_add₀ two_ne_zero _ _
  unfold ratOf Dy.mul
  dsimp only
  rw [h]
  cases x.neg <;> cases y.neg <;> simp <;> ring

theorem ratOf_scale (x : Dy) (k : Int) : ratOf (x.scale k) = ratOf x * 2 ^ k := by
  unfold ratOf Dy.scale
  dsimp only
  rw [zpow_add₀ two_ne_zero, mul_assoc, mul_assoc, mul_assoc]

theorem ratOf_add (mode : Nat) (x y : Dy) : ratOf (x.add mode y) = ratOf x + ratOf y := by
  rw [← cast_at x (min_le_left x.e y.e), ← cast_at y (min_le_right x.e y.e), ← add_mul, ← Int.cast_add]
  unfold Dy.add
  dsimp only
  generalize x.at (min x.e y.e) + y.at (min x.e y.e) = n
  split
  · next h => simp [ratOf, h]
  · unfold ratOf
    congr 1
    rcases lt_or_ge n 0 with h | h
    · simp [h, abs_of_neg h]
    · simp [not_lt.mpr h, abs_of_nonneg h]

theorem ratOf_eq_zero (x : Dy) : ratOf x = 0 ↔ x.m = 0 := by
  have h2 : (2 : ℚ) ^ x.e ≠ 0 := zpow_ne_zero _ two_ne_zero
  unfold ratOf
  cases x.neg <;> simp [h2]

theorem ratOf_of_pos {x : Dy} (h : x.neg = false) : ratOf x = x.m * 2 ^ x.e := by simp [ratOf, h]

theorem ratOf_nonneg {x : Dy} (h : x.neg = false) : 0 ≤ ratOf x := by
  rw [ratOf_of_pos h]
  positivity

theorem ratOf_pos {x : Dy} (h : x.neg = false) (hm : x.m ≠ 0) : 0 < ratOf x :=
  lt_of_le_of_ne (ratOf_nonneg h) fun e => hm ((ratOf_eq_zero x).mp e.symm)

/-- The magnitude of a value. -/
theorem ratOf_abs (x : Dy) : ratOf { x with neg := false } = |ratOf x| := by
  unfold ratOf
  rw [abs_mul, abs_mul, abs_of_nonneg (by positivity : (0 : ℚ) ≤ 2 ^ x.e), abs_of_nonneg (by positivity : (0 : ℚ) ≤ x.m)]
  cases x.neg <;> simp

theorem ratOf_neg_iff (x : Dy) (h : x.m ≠ 0) : ratOf x < 0 ↔ x.neg = true := by
  have hp : (0 : ℚ) < x.m * 2 ^ x.e := by positivity
  unfold ratOf
  cases x.neg
  · simpa using hp.le
  · simpa [mul_assoc] using hp

/-! The order of values and infinities. -/

/-- A value's place in the order of the values and the two infinities; a NaN has none, and stands here at 0. -/
def rank : Machine.Num → WithBot (WithTop ℚ)
  | .nan _ => ((0 : ℚ) : WithTop ℚ)
  | .inf true => ⊥
  | .inf false => (⊤ : WithTop ℚ)
  | .fin d => (ratOf d : WithTop ℚ)

theorem rat_lt_top (y : ℚ) : ((y : WithTop ℚ) : WithBot (WithTop ℚ)) < ⊤ := WithBot.coe_lt_coe.mpr (WithTop.coe_lt_top y)

theorem numLt_rank {x y : Machine.Num} (hx : x.isNan = false) (hy : y.isNan = false) : numLt x y = true ↔ rank x < rank y := by
  cases x with
  | nan => cases hx
  | inf n =>
    cases y with
    | nan => cases hy
    | inf n' => cases n <;> cases n' <;> simp [numLt, rank]
    | fin d => cases n <;> simp [numLt, rank]
  | fin d =>
    cases y with
    | nan => cases hy
    | inf n' => cases n' <;> simp [numLt, rank, rat_lt_top]
    | fin d' => simp [numLt_fin, rank]

theorem rank_fin_iff {v : Machine.Num} (hv : v.isNan = false) (y : ℚ) : rank v = (y : WithTop ℚ) ↔ ∃ z, v = .fin z ∧ ratOf z = y := by
  cases v with
  | nan => cases hv
  | inf n => cases n <;> simp [rank]
  | fin d => simp [rank]

/-- A finite value over a positive scale against a value of a table. -/
theorem numLt_times {s x : Dy} (hs : 0 < ratOf s) {v : Machine.Num} (hv : v.isNan = false) :
    (numLt (.fin x) (v.times s) = true ↔ ((ratOf x / ratOf s : ℚ) : WithTop ℚ) < rank v) ∧
    (numLt (v.times s) (.fin x) = true ↔ rank v < ((ratOf x / ratOf s : ℚ) : WithTop ℚ)) := by
  cases v with
  | nan => cases hv
  | inf n => cases n <;> simp [Machine.Num.times, numLt, rank, rat_lt_top]
  | fin d =>
    simp only [Machine.Num.times, numLt_fin, ratOf_mul, rank, decide_eq_true_eq, WithBot.coe_lt_coe, WithTop.coe_lt_coe]
    exact ⟨(div_lt_iff₀ hs).symm, (lt_div_iff₀ hs).symm⟩

end Sys2Proof.Safety
end

section
/-! PROOFS. Encoding under a decode table (R71). -/

namespace Sys2Proof.Safety

open Sys2Proof.Machine

/-! The nearest of rising values. -/

/-- An index up to `n` whose value, of the finite ones of `R`, none is nearer to `q` than; of two equally near ones it is even. -/
def NearestAt (R : Nat → WithBot (WithTop ℚ)) (n : Nat) (q : ℚ) (i : Nat) : Prop :=
  i ≤ n ∧ ∀ j y, j ≤ n → R j = ((y : ℚ) : WithTop ℚ) → ∃ z : ℚ, R i = (z : WithTop ℚ) ∧ |z - q| ≤ |y - q| ∧ (j ≠ i → |z - q| = |y - q| → i % 2 = 0)

section Nearest

variable {R : Nat → WithBot (WithTop ℚ)} {n : Nat} {q : ℚ}

/-- A place between two finite ones is finite. -/
theorem finite_between {u : WithBot (WithTop ℚ)} {y z : ℚ} (hy : ((y : WithTop ℚ) : WithBot (WithTop ℚ)) ≤ u) (hz : u ≤ ((z : WithTop ℚ) : WithBot (WithTop ℚ))) :
    ∃ w : ℚ, u = (w : WithTop ℚ) ∧ y ≤ w ∧ w ≤ z := by
  induction u with
  | bot => exact absurd hy (by simp)
  | coe u =>
    induction u with
    | top => exact absurd hz (by simp)
    | coe w => exact ⟨w, rfl, by simpa using hy, by simpa using hz⟩

/-- Below `q` a greater index is nearer. -/
theorem nearer_below (hR : ∀ i j, i < j → j ≤ n → R i < R j) {i j : Nat} (hij : j < i) (hi : i ≤ n) (hq : R i ≤ (q : WithTop ℚ)) {y : ℚ} (hy : R j = (y : WithTop ℚ)) :
    ∃ z : ℚ, R i = (z : WithTop ℚ) ∧ y < z ∧ z ≤ q := by
  have hlt := hR j i hij hi
  obtain ⟨z, hz, -, hzq⟩ := finite_between (hy ▸ hlt.le) hq
  refine ⟨z, hz, ?_, hzq⟩
  rw [hy, hz] at hlt
  simpa using hlt

/-- Above `q` a lesser index is nearer. -/
theorem nearer_above (hR : ∀ i j, i < j → j ≤ n → R i < R j) {i j : Nat} (hij : i < j) (hj : j ≤ n) (hq : ((q : WithTop ℚ) : WithBot (WithTop ℚ)) ≤ R i) {y : ℚ} (hy : R j = (y : WithTop ℚ)) :
    ∃ z : ℚ, R i = (z : WithTop ℚ) ∧ q ≤ z ∧ z < y := by
  have hlt := hR i j hij hj
  obtain ⟨z, hz, hqz, -⟩ := finite_between hq (hy ▸ hlt.le)
  refine ⟨z, hz, hqz, ?_⟩
  rw [hy, hz] at hlt
  simpa using hlt

/-- A `q` not above the first value. -/
theorem nearestAt_first (hR : ∀ i j, i < j → j ≤ n → R i < R j) (hq : ((q : WithTop ℚ) : WithBot (WithTop ℚ)) ≤ R 0) : NearestAt R n q 0 := by
  refine ⟨Nat.zero_le n, fun j y hj hy => ?_⟩
  rcases Nat.eq_zero_or_pos j with rfl | hpos
  · exact ⟨y, hy, le_rfl, fun h => absurd rfl h⟩
  · obtain ⟨z, hz, hqz, hzy⟩ := nearer_above hR hpos hj hq hy
    exact ⟨z, hz, by rw [abs_of_nonneg, abs_of_nonneg] <;> linarith, fun _ _ => rfl⟩

/-- A `q` not below the last value. -/
theorem nearestAt_last (hR : ∀ i j, i < j → j ≤ n → R i < R j) (hq : R n ≤ (q : WithTop ℚ)) : NearestAt R n q n := by
  refine ⟨le_rfl, fun j y hj hy => ?_⟩
  rcases hj.eq_or_lt with rfl | hlt
  · exact ⟨y, hy, le_rfl, fun h => absurd rfl h⟩
  · obtain ⟨z, hz, hyz, hzq⟩ := nearer_below hR hlt le_rfl hq hy
    have h1 : |z - q| = q - z := by rw [abs_of_nonpos] <;> linarith
    have h2 : |y - q| = q - y := by rw [abs_of_nonpos] <;> linarith
    exact ⟨z, hz, by rw [h1, h2]; linarith, fun _ e => by rw [h1, h2] at e; linarith⟩

/-- A `q` between two neighbours, the lower of which is taken: it is finite wherever some value is, and not farther than the upper one. -/
theorem nearestAt_low (hR : ∀ i j, i < j → j ≤ n → R i < R j) {l : Nat} (hl : l + 1 ≤ n) (hlo : R l ≤ (q : WithTop ℚ)) (hhi : ((q : WithTop ℚ) : WithBot (WithTop ℚ)) ≤ R (l + 1))
    (hup : ∀ b : ℚ, R (l + 1) = (b : WithTop ℚ) → ∃ a : ℚ, R l = (a : WithTop ℚ) ∧ q - a ≤ b - q ∧ (q - a = b - q → l % 2 = 0)) : NearestAt R n q l := by
  refine ⟨by omega, fun j y hj hy => ?_⟩
  rcases lt_trichotomy j l with hlt | rfl | hgt
  · obtain ⟨z, hz, hyz, hzq⟩ := nearer_below hR hlt (by omega) hlo hy
    have h1 : |z - q| = q - z := by rw [abs_of_nonpos] <;> linarith
    have h2 : |y - q| = q - y := by rw [abs_of_nonpos] <;> linarith
    exact ⟨z, hz, by rw [h1, h2]; linarith, fun _ e => by rw [h1, h2] at e; linarith⟩
  · exact ⟨y, hy, le_rfl, fun h => absurd rfl h⟩
  · obtain ⟨b, hb, hqb, hby⟩ : ∃ b : ℚ, R (l + 1) = (b : WithTop ℚ) ∧ q ≤ b ∧ b ≤ y := by
      rcases (show l + 1 ≤ j from hgt).eq_or_lt with rfl | hlt
      · exact ⟨y, hy, by rw [hy] at hhi; simpa using hhi, le_rfl⟩
      · obtain ⟨b, hb, hqb, hby⟩ := nearer_above hR hlt hj hhi hy
        exact ⟨b, hb, hqb, hby.le⟩
    obtain ⟨a, ha, hab, htie⟩ := hup b hb
    have haq : a ≤ q := by rw [ha] at hlo; simpa using hlo
    have h1 : |a - q| = q - a := by rw [abs_of_nonpos] <;> linarith
    have h2 : |y - q| = y - q := by rw [abs_of_nonneg]; linarith
    exact ⟨a, ha, by rw [h1, h2]; linarith, fun _ e => htie (by rw [h1, h2] at e; linarith)⟩

/-- A `q` between two neighbours, the upper of which is taken: it is finite wherever some value is, and not farther than the lower one. -/
theorem nearestAt_high (hR : ∀ i j, i < j → j ≤ n → R i < R j) {l : Nat} (hl : l + 1 ≤ n) (hlo : R l ≤ (q : WithTop ℚ)) (hhi : ((q : WithTop ℚ) : WithBot (WithTop ℚ)) ≤ R (l + 1))
    (hdn : ∀ a : ℚ, R l = (a : WithTop ℚ) → ∃ b : ℚ, R (l + 1) = (b : WithTop ℚ) ∧ b - q ≤ q - a ∧ (b - q = q - a → (l + 1) % 2 = 0)) : NearestAt R n q (l + 1) := by
  refine ⟨hl, fun j y hj hy => ?_⟩
  rcases lt_trichotomy j (l + 1) with hlt | rfl | hgt
  · obtain ⟨a, ha, hya, haq⟩ : ∃ a : ℚ, R l = (a : WithTop ℚ) ∧ y ≤ a ∧ a ≤ q := by
      rcases (show j ≤ l by omega).eq_or_lt with rfl | hlt
      · exact ⟨y, hy, le_rfl, by rw [hy] at hlo; simpa using hlo⟩
      · obtain ⟨a, ha, hya, haq⟩ := nearer_below hR hlt (by omega) hlo hy
        exact ⟨a, ha, hya.le, haq⟩
    obtain ⟨b, hb, hba, htie⟩ := hdn a ha
    have hqb : q ≤ b := by rw [hb] at hhi; simpa using hhi
    have h1 : |b - q| = b - q := by rw [abs_of_nonneg]; linarith
    have h2 : |y - q| = q - y := by rw [abs_of_nonpos] <;> linarith
    exact ⟨b, hb, by rw [h1, h2]; linarith, fun _ e => htie (by rw [h1, h2] at e; linarith)⟩
  · exact ⟨y, hy, le_rfl, fun h => absurd rfl h⟩
  · obtain ⟨z, hz, hqz, hzy⟩ := nearer_above hR hgt hj hhi hy
    have h1 : |z - q| = z - q := by rw [abs_of_nonneg]; linarith
    have h2 : |y - q| = y - q := by rw [abs_of_nonneg]; linarith
    exact ⟨z, hz, by rw [h1, h2]; linarith, fun _ e => by rw [h1, h2] at e; linarith⟩

end Nearest

/-! A table that passes R70. -/

section Table

variable {t : Memory} {s x : Dy}

/-- The values of a table in order rise, and none is a NaN (R70). -/
theorem tabOk_rises (h : tabOk t = true) : (∀ i, i ≤ tabNord t → (tabV t i).isNan = false) ∧ ∀ i j, i < j → j ≤ tabNord t → rank (tabV t i) < rank (tabV t j) := by
  unfold tabOk at h
  simp only [Bool.and_eq_true, List.all_eq_true, List.mem_range, Bool.not_eq_true'] at h
  obtain ⟨⟨-, hnan⟩, hlt⟩ := h
  have hn : ∀ i, i ≤ tabNord t → (tabV t i).isNan = false := fun i hi => hnan i (by omega)
  refine ⟨hn, fun i j hij => ?_⟩
  induction j, hij using Nat.le_induction with
  | base => exact fun hj => (numLt_rank (hn i (by omega)) (hn _ hj)).mp (hlt i (by omega))
  | succ j hij ih => exact fun hj => (ih (by omega)).trans ((numLt_rank (hn j (by omega)) (hn _ hj)).mp (hlt j (by omega)))

variable (hs : 0 < ratOf s) (hok : tabOk t = true)

include hs hok in
/-- The binary search of R71 keeps its interval around x / s, and ends with neighbours. -/
theorem tabSearch_spec (fuel : Nat) : ∀ lo hi, lo < hi → hi ≤ tabNord t → hi - lo ≤ 2 ^ fuel →
    rank (tabV t lo) ≤ ((ratOf x / ratOf s : ℚ) : WithTop ℚ) → ((ratOf x / ratOf s : ℚ) : WithTop ℚ) ≤ rank (tabV t hi) →
    let l := tabSearch t s (.fin x) fuel lo hi
    l + 1 ≤ tabNord t ∧ rank (tabV t l) ≤ ((ratOf x / ratOf s : ℚ) : WithTop ℚ) ∧ ((ratOf x / ratOf s : ℚ) : WithTop ℚ) ≤ rank (tabV t (l + 1)) := by
  obtain ⟨hnan, -⟩ := tabOk_rises hok
  induction fuel with
  | zero =>
    intro lo hi hlt hn hd hl hh
    obtain rfl : hi = lo + 1 := by omega
    exact ⟨hn, hl, hh⟩
  | succ fuel ih =>
    intro lo hi hlt hn hd hl hh
    rw [tabSearch]
    have hcmp := (numLt_times (x := x) hs (hnan ((lo + hi) / 2) (by omega))).1
    split
    · dsimp only
      split
      · next hm => exact ih _ _ (by omega) (by omega) (by omega) hl (hcmp.mp hm).le
      · next hm => exact ih _ _ (by omega) hn (by omega) (not_lt.mp (mt hcmp.mpr hm)) hh
    · obtain rfl : hi = lo + 1 := by omega
      exact ⟨hn, hl, hh⟩

omit hok in
include hs in
theorem numLe_times {v : Machine.Num} (hv : v.isNan = false) :
    (numLe (.fin x) (v.times s) = true ↔ ((ratOf x / ratOf s : ℚ) : WithTop ℚ) ≤ rank v) ∧
    (numLe (v.times s) (.fin x) = true ↔ rank v ≤ ((ratOf x / ratOf s : ℚ) : WithTop ℚ)) := by
  have ht : (v.times s).isNan = false := by
    cases v with
    | nan => cases hv
    | inf => rfl
    | fin => rfl
  obtain ⟨h1, h2⟩ := numLt_times (x := x) hs hv
  rw [← not_lt, ← not_lt, ← h1, ← h2, Bool.not_eq_true, Bool.not_eq_true, numLe_eq, numLe_eq, ht]
  simp [Machine.Num.isNan]

/-- Of two neighbours around `q` the midpoint decides (R71). -/
theorem nearestAt_midpoint {R : Nat → WithBot (WithTop ℚ)} {n l : Nat} {q : ℚ} (hR : ∀ i j, i < j → j ≤ n → R i < R j) (hl : l + 1 ≤ n) (hlo : R l ≤ (q : WithTop ℚ))
    (hhi : ((q : WithTop ℚ) : WithBot (WithTop ℚ)) ≤ R (l + 1)) {a b : Machine.Num} (ha : a.isNan = false) (hb : b.isNan = false) (hra : R l = rank a) (hrb : R (l + 1) = rank b) :
    (midpoint a b = none → NearestAt R n q l ∧ NearestAt R n q (l + 1)) ∧
    ∀ m, midpoint a b = some m → m.isNan = false ∧ ((q : WithTop ℚ) < rank m → NearestAt R n q l) ∧ (rank m < (q : WithTop ℚ) → NearestAt R n q (l + 1)) ∧
      (¬ (q : WithTop ℚ) < rank m → ¬ rank m < (q : WithTop ℚ) → (l % 2 = 0 → NearestAt R n q l) ∧ (l % 2 ≠ 0 → NearestAt R n q (l + 1))) := by
  have hab := hR l (l + 1) (Nat.lt_succ_self l) hl
  have hlow (h : ∀ y : ℚ, rank b = (y : WithTop ℚ) → ∃ z : ℚ, rank a = (z : WithTop ℚ) ∧ q - z ≤ y - q ∧ (q - z = y - q → l % 2 = 0)) : NearestAt R n q l :=
    nearestAt_low hR hl hlo hhi (by rwa [hra, hrb])
  have hhigh (h : ∀ z : ℚ, rank a = (z : WithTop ℚ) → ∃ y : ℚ, rank b = (y : WithTop ℚ) ∧ y - q ≤ q - z ∧ (y - q = q - z → (l + 1) % 2 = 0)) : NearestAt R n q (l + 1) :=
    nearestAt_high hR hl hlo hhi (by rwa [hra, hrb])
  rw [hra, hrb] at hab
  cases a with
  | nan => cases ha
  | inf n' =>
    obtain rfl : n' = true := by
      cases n' with
      | true => rfl
      | false => exact absurd hab (by simp [rank])
    have h1 : NearestAt R n q (l + 1) := hhigh fun z hz => by cases hz
    cases b with
    | nan => cases hb
    | inf n'' =>
      obtain rfl : n'' = false := by
        cases n'' with
        | false => rfl
        | true => exact absurd hab (by simp [rank])
      exact ⟨fun _ => ⟨hlow fun y hy => (by cases hy), h1⟩, fun m hm => by cases hm⟩
    | fin y =>
      refine ⟨fun h => (by cases h), fun m hm => ?_⟩
      obtain rfl := Option.some.inj hm
      exact ⟨rfl, fun h => by simp [rank] at h, fun _ => h1, fun _ h => by simp [rank] at h⟩
  | fin z =>
    cases b with
    | nan => cases hb
    | inf n' =>
      refine ⟨fun h => (by cases h), fun m hm => ?_⟩
      obtain rfl := Option.some.inj hm
      obtain rfl : n' = false := by
        cases n' with
        | false => rfl
        | true => exact absurd hab (by simp [rank])
      exact ⟨rfl, fun _ => hlow fun y hy => (by cases hy), fun h => by simp [rank] at h, fun h => absurd (rat_lt_top q) h⟩
    | fin y =>
      refine ⟨fun h => (by cases h), fun m hm => ?_⟩
      obtain rfl := Option.some.inj hm
      have hm : rank (.fin ((z.add 0 y).scale (-1))) = (((ratOf z + ratOf y) / 2 : ℚ) : WithTop ℚ) := by
        simp only [rank, ratOf_scale, ratOf_add, zpow_neg_one, div_eq_mul_inv]
      rw [hm]
      simp only [WithBot.coe_lt_coe, WithTop.coe_lt_coe, not_lt]
      have hl' (h : q - ratOf z ≤ ratOf y - q) (ht : q - ratOf z = ratOf y - q → l % 2 = 0) : NearestAt R n q l :=
        hlow fun u hu => ⟨ratOf z, rfl, by simp only [rank, WithBot.coe_inj, WithTop.coe_inj] at hu; subst hu; exact ⟨h, ht⟩⟩
      have hh' (h : ratOf y - q ≤ q - ratOf z) (ht : ratOf y - q = q - ratOf z → (l + 1) % 2 = 0) : NearestAt R n q (l + 1) :=
        hhigh fun u hu => ⟨ratOf y, rfl, by simp only [rank, WithBot.coe_inj, WithTop.coe_inj] at hu; subst hu; exact ⟨h, ht⟩⟩
      exact ⟨rfl, fun h => hl' (by linarith) fun e => by linarith, fun h => hh' (by linarith) fun e => by linarith,
        fun h1 h2 => ⟨fun he => hl' (by linarith) fun _ => he, fun ho => hh' (by linarith) fun _ => by omega⟩⟩

theorem tabNord_lt (t : Memory) : tabNord t < 256 := (memByte t 0).isLt

include hs hok in
/-- Encode of R71 takes the index of the nearest value. -/
theorem tabIndex_nearest (pick : Bool) : NearestAt (fun i => rank (tabV t i)) (tabNord t) (ratOf x / ratOf s) (tabIndex t s (.fin x) pick) := by
  obtain ⟨hnan, hR⟩ := tabOk_rises hok
  unfold tabIndex
  dsimp only
  have h0 := (numLe_times (x := x) hs (hnan 0 (Nat.zero_le _))).1
  have hn := (numLe_times (x := x) hs (hnan (tabNord t) le_rfl)).2
  split
  · next h => exact nearestAt_first hR (h0.mp h)
  · next h1 =>
    split
    · next h => exact nearestAt_last hR (hn.mp h)
    · next h2 =>
      have hlo : rank (tabV t 0) < ((ratOf x / ratOf s : ℚ) : WithTop ℚ) := not_le.mp (mt h0.mpr h1)
      have hhi : ((ratOf x / ratOf s : ℚ) : WithTop ℚ) < rank (tabV t (tabNord t)) := not_le.mp (mt hn.mpr h2)
      have hpos : 0 < tabNord t := Nat.pos_of_ne_zero fun e => by rw [e] at hhi; exact absurd (hlo.trans hhi) (lt_irrefl _)
      have hlt := tabNord_lt t
      obtain ⟨hl, hla, hlb⟩ := tabSearch_spec hs hok 9 0 (tabNord t) hpos le_rfl (by omega) hlo.le hhi.le
      generalize tabSearch t s (.fin x) 9 0 (tabNord t) = l at hl hla hlb ⊢
      obtain ⟨hnone, hsome⟩ := nearestAt_midpoint hR hl hla hlb (hnan l (by omega)) (hnan (l + 1) hl) rfl rfl
      split
      · next hm =>
        obtain ⟨hl1, hl2⟩ := hnone hm
        split <;> split <;> assumption
      · next m hm =>
        obtain ⟨hm', hlow, hhigh, heven⟩ := hsome m hm
        obtain ⟨c1, c2⟩ := numLt_times (x := x) hs hm'
        split
        · next h => exact hlow (c1.mp h)
        · next h =>
          split
          · next h' => exact hhigh (c2.mp h')
          · next h' =>
            obtain ⟨e1, e2⟩ := heven (mt c1.mpr h) (mt c2.mpr h')
            split
            · next he => exact e1 he
            · next ho => exact e2 ho

end Table

/-- Which of three flags a union of them holds. -/
theorem three_flags (a b c : Bool) :
    ((flagIf a fNX ||| flagIf b fOF ||| flagIf c fPZ) &&& fNX = 0 ↔ a = false) ∧ ((flagIf a fNX ||| flagIf b fOF ||| flagIf c fPZ) &&& fOF ≠ 0 ↔ b = true) ∧
      ((flagIf a fNX ||| flagIf b fOF ||| flagIf c fPZ) &&& fPZ ≠ 0 ↔ c = true) := by
  revert a b c
  decide

/-- A value of a table over a scale is exactly x. -/
theorem numEq_times {s x : Dy} (hs : 0 < ratOf s) {v : Machine.Num} (hv : v.isNan = false) :
    numEq (v.times s) (.fin x) = true ↔ ∃ z, v = .fin z ∧ ratOf z = ratOf x / ratOf s := by
  rw [← rank_fin_iff hv]
  obtain ⟨h1, h2⟩ := numLt_times (x := x) hs hv
  have ht : (v.times s).isNan = false := by
    cases v with
    | nan => cases hv
    | inf => rfl
    | fin => rfl
  rw [numEq_eq, ht]
  simp only [Machine.Num.isNan, Bool.or_self, Bool.not_false, Bool.true_and, Bool.and_eq_true, Bool.not_eq_true', ← Bool.not_eq_true, h1, h2, not_lt]
  exact ⟨fun h => le_antisymm h.2 h.1, fun h => ⟨h.ge, h.le⟩⟩

/-- x over a scale lies below, or above, a value of a table. -/
theorem beyond_iff {s x : Dy} (hs : 0 < ratOf s) {v : Machine.Num} (hv : v.isNan = false) :
    (numLt (.fin x) (v.times s) = true ↔ v = .inf false ∨ ∃ z, v = .fin z ∧ ratOf x / ratOf s < ratOf z) ∧
    (numLt (v.times s) (.fin x) = true ↔ v = .inf true ∨ ∃ z, v = .fin z ∧ ratOf z < ratOf x / ratOf s) := by
  obtain ⟨h1, h2⟩ := numLt_times (x := x) hs hv
  rw [h1, h2]
  cases v with
  | nan => cases hv
  | inf n => cases n <;> simp [rank, rat_lt_top]
  | fin d => simp [rank]

theorem isZero_times {s : Dy} (hs : s.m ≠ 0) (v : Machine.Num) : (v.times s).isZero = true ↔ ∃ z, v = .fin z ∧ z.m = 0 := by
  cases v with
  | nan => simp [Machine.Num.times, Machine.Num.isZero]
  | inf => simp [Machine.Num.times, Machine.Num.isZero]
  | fin d => simp [Machine.Num.times, Machine.Num.isZero, Dy.mul, hs]

/-- Encode of R71 against exact rationals. -/
theorem tabEncode_spec {t : Memory} {s x : Dy} (pick : Bool) (hok : tabOk t = true) (hm : s.m ≠ 0) (hn : s.neg = false) :
    let r := tabEncode t s (.fin x) pick
    let q := ratOf x / ratOf s
    let n := tabNord t
    ∃ i, i ≤ n ∧ r.1 = tabOrder t i ∧
      (∀ j y, j ≤ n → tabV t j = .fin y → ∃ z, tabV t i = .fin z ∧ |ratOf z - q| ≤ |ratOf y - q| ∧ (j ≠ i → |ratOf z - q| = |ratOf y - q| → i % 2 = 0)) ∧
      (r.2 &&& fNX = 0 ↔ ∃ z, tabV t i = .fin z ∧ ratOf z = q) ∧
      (r.2 &&& fOF ≠ 0 ↔ tabV t 0 = .inf false ∨ tabV t n = .inf true ∨ (∃ z, tabV t 0 = .fin z ∧ q < ratOf z) ∨ ∃ z, tabV t n = .fin z ∧ ratOf z < q) ∧
      (r.2 &&& fPZ ≠ 0 ↔ x.m ≠ 0 ∧ ∃ z, tabV t i = .fin z ∧ z.m = 0) := by
  intro r q n
  have hs := ratOf_pos hn hm
  obtain ⟨hnan, -⟩ := tabOk_rises hok
  obtain ⟨hi, hnear⟩ := tabIndex_nearest (x := x) hs hok pick
  obtain ⟨hnx, hof, hpz⟩ := three_flags (!numEq ((tabV t (tabIndex t s (.fin x) pick)).times s) (.fin x))
    (numLt (.fin x) ((tabV t 0).times s) || numLt ((tabV t (tabNord t)).times s) (.fin x)) (!(Machine.Num.fin x).isZero && ((tabV t (tabIndex t s (.fin x) pick)).times s).isZero)
  refine ⟨tabIndex t s (.fin x) pick, hi, rfl, fun j y hj hy => ?_, hnx.trans ?_, hof.trans ?_, hpz.trans ?_⟩
  · obtain ⟨z, hz, hle, htie⟩ := hnear j (ratOf y) hj (congrArg rank hy)
    obtain ⟨z', hz', rfl⟩ := (rank_fin_iff (hnan _ hi) z).mp hz
    exact ⟨z', hz', hle, htie⟩
  · rw [Bool.not_eq_false', numEq_times hs (hnan _ hi)]
  · rw [Bool.or_eq_true, (beyond_iff hs (hnan 0 (Nat.zero_le _))).1, (beyond_iff hs (hnan _ le_rfl)).2]
    exact ⟨by rintro ((h | h) | h | h) <;> simp [h, q, n], by rintro (h | h | h | h) <;> simp [h, q, n]⟩
  · rw [Bool.and_eq_true, isZero_times hm, Bool.not_eq_true']
    simp [Machine.Num.isZero]

end Sys2Proof.Safety
end

section
/-! PROOFS. EncodeBlock (R75): the scale, the elements and the record. -/

namespace Sys2Proof.Safety

open Sys2Proof.Machine

/-! Records (R72, R73). -/

theorem getD_replicate (n : Nat) (b : Byte) (j : Nat) : (List.replicate n b).getD j b = b := by
  rw [List.getD_eq_getElem?_getD, List.getElem?_replicate]
  split
  · rfl
  · rfl

/-- A record holds the codes that it is made of, its scale, and zero behind it. -/
theorem blockRec_spec (f : BlockFmt) {scale : Nat} (hs : scale < 256) {es : List Nat} (hl : es.length = 32) (hlt : ∀ i, i < 32 → es.getD i 0 < if f = .bs8 then 256 else 16) :
    ((blockRec f scale es).getD f.scaleAt 0).toNat = scale ∧ (∀ i, f.scaleAt < i → (blockRec f scale es).getD i 0 = 0) ∧
      ∀ i, i < 32 → blockElem f (blockRec f scale es) i = es.getD i 0 := by
  have hz (xs : List Byte) {n i : Nat} (hn : xs.length = n) (hi : n < i) : (xs ++ BitVec.ofNat 8 scale :: List.replicate 15 0).getD i 0 = 0 := by
    rw [List.getD_append_right _ _ _ _ (by omega), hn]
    obtain ⟨j, hj⟩ : ∃ j, i - n = j + 1 := ⟨i - n - 1, by omega⟩
    rw [hj, List.getD_cons_succ, getD_replicate]
  have hsc (xs : List Byte) {n : Nat} (hn : xs.length = n) : ((xs ++ BitVec.ofNat 8 scale :: List.replicate 15 0).getD n 0).toNat = scale := by
    rw [List.getD_append_right _ _ _ _ (by omega), hn, Nat.sub_self, List.getD_cons_zero, BitVec.toNat_ofNat, Nat.mod_eq_of_lt hs]
  cases f with
  | bs8 =>
    have hl' : (es.map (BitVec.ofNat 8)).length = 32 := by rw [List.length_map, hl]
    refine ⟨hsc _ hl', fun i hi => hz _ hl' hi, fun i hi => ?_⟩
    have := hlt i hi
    rw [if_pos rfl] at this
    show ((_ ++ _ : List Byte).getD i 0).toNat = _
    rw [List.getD_append _ _ _ _ (by omega), List.getD_eq_getElem _ _ (by omega), List.getElem_map, BitVec.toNat_ofNat, List.getD_eq_getElem _ _ (by omega)]
    rw [List.getD_eq_getElem _ _ (by omega)] at this
    exact Nat.mod_eq_of_lt this
  | bs4 =>
    have hl' : ((List.range 16).map fun i => BitVec.ofNat 8 (es.getD (2 * i) 0 + 16 * es.getD (2 * i + 1) 0)).length = 16 := by simp
    refine ⟨hsc _ hl', fun i hi => hz _ hl' hi, fun i hi => ?_⟩
    have h0 := hlt (2 * (i / 2)) (by omega)
    have h1 := hlt (2 * (i / 2) + 1) (by omega)
    rw [if_neg (by decide)] at h0 h1
    show ((_ ++ _ : List Byte).getD (i / 2) 0).toNat / (if i % 2 = 0 then 1 else 16) % 16 = _
    rw [List.getD_append _ _ _ _ (by omega), List.getD_eq_getElem _ _ (by omega), List.getElem_map, List.getElem_range, BitVec.toNat_ofNat]
    rcases Nat.mod_two_eq_zero_or_one i with he | ho
    · rw [if_pos he]
      have hi2 : 2 * (i / 2) = i := by omega
      rw [hi2] at h0 ⊢
      omega
    · rw [if_neg (by omega)]
      have hi2 : 2 * (i / 2) + 1 = i := by omega
      rw [hi2] at h1 ⊢
      omega

/-! The greatest magnitude, and the scale (R75). -/

/-- The greatest of some magnitudes. -/
theorem foldl_numMax (l : List Dy) (z : Dy) (hz : z.neg = false) (hl : ∀ y ∈ l, y.neg = false) :
    ∃ A : Dy, A.neg = false ∧ (l.map Machine.Num.fin).foldl numMax (.fin z) = .fin A ∧ ratOf z ≤ ratOf A ∧ (∀ y ∈ l, ratOf y ≤ ratOf A) ∧ (A = z ∨ A ∈ l) := by
  induction l generalizing z with
  | nil => exact ⟨z, hz, rfl, le_rfl, by simp, .inl rfl⟩
  | cons y l ih =>
    have hy := hl y List.mem_cons_self
    obtain ⟨m, hm, hmz, hmy, hmem⟩ : ∃ m : Dy, numMax (.fin z) (.fin y) = .fin m ∧ ratOf z ≤ ratOf m ∧ ratOf y ≤ ratOf m ∧ (m = z ∨ m = y) := by
      unfold numMax
      rw [numLt_fin]
      by_cases h : ratOf z < ratOf y
      · exact ⟨y, if_pos (decide_eq_true h), h.le, le_rfl, .inr rfl⟩
      · exact ⟨z, if_neg (by simpa using h), le_rfl, not_lt.mp h, .inl rfl⟩
    have hneg : m.neg = false := by rcases hmem with rfl | rfl <;> assumption
    obtain ⟨A, hA, hf, hle, hall, hin⟩ := ih m hneg fun x hx => hl x (List.mem_cons_of_mem _ hx)
    refine ⟨A, hA, by rw [List.map_cons, List.foldl_cons, hm, hf], hmz.trans hle, fun x hx => ?_, ?_⟩
    · rcases List.mem_cons.mp hx with rfl | hx
      · exact hmy.trans hle
      · exact hall x hx
    · rcases hin with rfl | hin
      · exact hmem.imp_right fun h => by rw [h]; exact List.mem_cons_self
      · exact .inr (List.mem_cons_of_mem _ hin)

theorem two_zpow_le_ratOf {x : Dy} (hn : x.neg = false) (hm : x.m ≠ 0) : (2 : ℚ) ^ ((bitLen x.m : Int) - 1 + x.e) ≤ ratOf x ∧ ratOf x < 2 ^ ((bitLen x.m : Int) + x.e) := by
  rw [ratOf_of_pos hn, zpow_add₀ two_ne_zero, zpow_add₀ two_ne_zero]
  have hp : (0 : ℚ) < 2 ^ x.e := zpow_pos two_pos _
  have hpos := bitLen_pos hm
  constructor
  · refine mul_le_mul_of_nonneg_right ?_ hp.le
    rw [show (bitLen x.m : Int) - 1 = ((bitLen x.m - 1 : Nat) : Int) by omega, zpow_natCast]
    exact_mod_cast two_pow_le_of_bitLen hm
  · refine mul_lt_mul_of_pos_right ?_ hp
    rw [zpow_natCast]
    exact_mod_cast lt_two_pow_bitLen x.m

/-- The floor of the logarithm of a quotient. -/
theorem log2Ratio_spec {a b : Dy} (ha : a.neg = false) (hb : b.neg = false) (ham : a.m ≠ 0) (hbm : b.m ≠ 0) :
    (2 : ℚ) ^ log2Ratio a b ≤ ratOf a / ratOf b ∧ ratOf a / ratOf b < 2 ^ (log2Ratio a b + 1) := by
  obtain ⟨ha1, ha2⟩ := two_zpow_le_ratOf ha ham
  obtain ⟨hb1, hb2⟩ := two_zpow_le_ratOf hb hbm
  have hbp := ratOf_pos hb hbm
  rw [le_div_iff₀ hbp, div_lt_iff₀ hbp]
  have hx : ∀ i : Int, (0 : ℚ) < 2 ^ i := zpow_pos two_pos
  unfold log2Ratio
  dsimp only
  generalize hp : (bitLen a.m : Int) + a.e - bitLen b.m - b.e = p
  rw [numLe_fin, ratOf_scale]
  have e1 : (2 : ℚ) ^ ((bitLen a.m : Int) + a.e) = 2 ^ (p + 1) * 2 ^ ((bitLen b.m : Int) - 1 + b.e) := by
    rw [← zpow_add₀ two_ne_zero]
    congr 1
    omega
  have e2 : (2 : ℚ) ^ ((bitLen a.m : Int) - 1 + a.e) = 2 ^ (p - 1) * 2 ^ ((bitLen b.m : Int) + b.e) := by
    rw [← zpow_add₀ two_ne_zero]
    congr 1
    omega
  split
  · next h =>
    refine ⟨by rw [mul_comm]; simpa using h, ha2.trans_le ?_⟩
    rw [e1]
    exact mul_le_mul_of_nonneg_left hb1 (hx _).le
  · next h =>
    refine ⟨le_trans ?_ ha1, ?_⟩
    · rw [e2]
      exact mul_le_mul_of_nonneg_left hb2.le (hx _).le
    · rw [sub_add_cancel, mul_comm]
      simpa using h

theorem ratOf_e5m3 (c : Nat) : ratOf (e5m3 c) = ((if c / 8 = 0 then c % 8 else 8 + c % 8 : Nat) : ℚ) * 2 ^ (((c / 8 - 1 : Nat) : Int) - 17) := by
  unfold e5m3
  dsimp only
  split
  · next h => rw [ratOf_of_pos rfl, h]; rfl
  · next h =>
    rw [ratOf_of_pos rfl, show ((c / 8 - 1 : Nat) : Int) - 17 = (c / 8 : Nat) - 18 by omega]

theorem e5m3_rises (c : Nat) : ratOf (e5m3 c) < ratOf (e5m3 (c + 1)) := by
  rw [ratOf_e5m3, ratOf_e5m3]
  have hp : ∀ i : Int, (0 : ℚ) < 2 ^ i := zpow_pos two_pos
  rcases Nat.lt_or_ge (c % 8) 7 with h | h
  · rw [show (c + 1) / 8 = c / 8 by omega, show (c + 1) % 8 = c % 8 + 1 by omega]
    refine mul_lt_mul_of_pos_right (Nat.cast_lt.mpr ?_) (hp _)
    split <;> omega
  · rw [show (c + 1) / 8 = c / 8 + 1 by omega, show (c + 1) % 8 = 0 by omega, show c % 8 = 7 by omega, if_neg (Nat.succ_ne_zero _), Nat.add_sub_cancel]
    rcases Nat.eq_zero_or_pos (c / 8) with h0 | h0
    · rw [if_pos h0, h0]
      exact mul_lt_mul_of_pos_right (by norm_num) (hp _)
    · rw [if_neg (by omega), show ((c / 8 : Nat) : Int) - 17 = ((c / 8 - 1 : Nat) : Int) - 17 + 1 by omega, zpow_add_one₀ two_ne_zero]
      have := hp (((c / 8 - 1 : Nat) : Int) - 17)
      norm_num
      linarith

theorem e5m3_mono {b c : Nat} (h : b ≤ c) : ratOf (e5m3 b) ≤ ratOf (e5m3 c) := monotone_nat_of_le_succ (f := fun c => ratOf (e5m3 c)) (fun c => (e5m3_rises c).le) h

theorem e5m3_last : ratOf (e5m3 254) = 114688 := by
  rw [show e5m3 254 = { neg := false, m := 14, e := 13 } from rfl, ratOf_of_pos rfl]
  norm_num

theorem e5m3_neg (c : Nat) : (e5m3 c).neg = false := by
  unfold e5m3
  dsimp only
  split
  · rfl
  · rfl

/-- The smallest scale of a code from 1 to 254 that is not below `r`, if any is. -/
theorem scale_find (r : ℚ) {p : Nat → Bool} (hp : ∀ c, p c = true ↔ r ≤ ratOf (e5m3 (c + 1))) :
    (114688 < r → (List.range 254).find? p = none) ∧ (r ≤ 114688 → ∃ c, (List.range 254).find? p = some c ∧ c < 254 ∧ r ≤ ratOf (e5m3 (c + 1)) ∧
      ∀ k, 1 ≤ k → k ≤ 254 → r ≤ ratOf (e5m3 k) → ratOf (e5m3 (c + 1)) ≤ ratOf (e5m3 k)) := by
  constructor
  · intro h
    refine List.find?_eq_none.mpr fun c hc => ?_
    rw [hp, not_le]
    exact (e5m3_mono (show c + 1 ≤ 254 from List.mem_range.mp hc)).trans_lt (e5m3_last ▸ h)
  · intro h
    cases hf : (List.range 254).find? p with
    | none => exact absurd ((hp 253).mpr (e5m3_last ▸ h)) (List.find?_eq_none.mp hf 253 (by decide))
    | some c =>
      obtain ⟨hpc, hc, hmin⟩ := List.find?_range_eq_some.mp hf
      have hc := List.mem_range.mp hc
      refine ⟨c, rfl, hc, (hp c).mp hpc, fun k h1 h2 hk => e5m3_mono ?_⟩
      by_contra hlt
      have := hmin (k - 1) (by omega)
      rw [Bool.not_eq_true', ← Bool.not_eq_true, hp, Nat.sub_add_cancel h1] at this
      exact this hk

/-! E2M1 elements (R75). -/

/-- An index up to `n` whose rising values' midpoints enclose `y` is the nearest; with a tie only where it is even. -/
theorem nearest_of_midpoints {m : Nat → ℚ} {n c : Nat} {y : ℚ} (hm : ∀ i j, i < j → j ≤ n → m i < m j) (hc : c ≤ n)
    (hlo : 0 < c → (m (c - 1) + m c) / 2 ≤ y ∧ ((m (c - 1) + m c) / 2 = y → c % 2 = 0)) (hhi : c < n → y ≤ (m c + m (c + 1)) / 2 ∧ (y = (m c + m (c + 1)) / 2 → c % 2 = 0)) :
    ∀ j, j ≤ n → |m c - y| ≤ |m j - y| ∧ (j ≠ c → |m c - y| = |m j - y| → c % 2 = 0) := by
  have hle : ∀ i j, i ≤ j → j ≤ n → m i ≤ m j := fun i j hij hj => hij.eq_or_lt.elim (fun e => e ▸ le_rfl) fun h => (hm i j h hj).le
  intro j hj
  rcases lt_trichotomy j c with hlt | rfl | hgt
  · obtain ⟨h1, h2⟩ := hlo (by omega)
    have hjc := hle j (c - 1) (by omega) (by omega)
    have hcc := hm (c - 1) c (by omega) hc
    have hy : |m j - y| = y - m j := by rw [abs_of_nonpos] <;> linarith
    have hab : |m c - y| ≤ y - m (c - 1) := abs_le.mpr ⟨by linarith, by linarith⟩
    refine ⟨by linarith, fun _ e => h2 ?_⟩
    rcases le_or_gt (m c) y with h | h
    · rw [abs_of_nonpos (by linarith)] at e
      linarith
    · rw [abs_of_pos (by linarith)] at e
      linarith
  · exact ⟨le_rfl, fun h => absurd rfl h⟩
  · obtain ⟨h1, h2⟩ := hhi (by omega)
    have hjc := hle (c + 1) j (by omega) hj
    have hcc := hm c (c + 1) (by omega) (by omega)
    have hy : |m j - y| = m j - y := by rw [abs_of_nonneg]; linarith
    have hab : |m c - y| ≤ m (c + 1) - y := abs_le.mpr ⟨by linarith, by linarith⟩
    refine ⟨by linarith, fun _ e => h2 ?_⟩
    rcases le_or_gt (m c) y with h | h
    · rw [abs_of_nonpos (by linarith)] at e
      linarith
    · rw [abs_of_pos (by linarith)] at e
      linarith

theorem e2m1_rises {i j : Nat} (hij : i < j) (hj : j ≤ 7) : ratOf (e2m1 i) < ratOf (e2m1 j) := by
  have h : ∀ i : Fin 8, ∀ j : Fin 8, i < j → numLt (.fin (e2m1 i)) (.fin (e2m1 j)) = true := by decide
  simpa [numLt_fin] using h ⟨i, by omega⟩ ⟨j, by omega⟩ hij

theorem e2m1Nearest_spec {s y : Dy} (hs : 0 < ratOf s) :
    e2m1Nearest s y ≤ 7 ∧ ∀ j, j ≤ 7 → |ratOf (e2m1 (e2m1Nearest s y)) * ratOf s - abs (ratOf y)| ≤ |ratOf (e2m1 j) * ratOf s - abs (ratOf y)| ∧
      (j ≠ e2m1Nearest s y → |ratOf (e2m1 (e2m1Nearest s y)) * ratOf s - abs (ratOf y)| = |ratOf (e2m1 j) * ratOf s - abs (ratOf y)| → e2m1Nearest s y % 2 = 0) := by
  have hmid (j : Nat) : ratOf ((((e2m1 j).add 0 (e2m1 (j + 1))).scale (-1)).mul s) = (ratOf (e2m1 j) * ratOf s + ratOf (e2m1 (j + 1)) * ratOf s) / 2 := by
    rw [ratOf_mul, ratOf_scale, ratOf_add, zpow_neg_one]
    ring
  have hm (i j : Nat) (hij : i < j) (hj : j ≤ 7) : ratOf (e2m1 i) * ratOf s < ratOf (e2m1 j) * ratOf s := mul_lt_mul_of_pos_right (e2m1_rises hij hj) hs
  unfold e2m1Nearest
  dsimp only
  simp only [numLt_fin, numEq_fin, hmid, ratOf_abs]
  split
  · next c hc =>
    obtain ⟨hpc, hc7, hmin⟩ := List.find?_range_eq_some.mp hc
    have hc7 := List.mem_range.mp hc7
    simp only [Bool.or_eq_true, Bool.and_eq_true, decide_eq_true_eq, beq_iff_eq] at hpc
    refine ⟨hc7.le, nearest_of_midpoints (m := fun j => ratOf (e2m1 j) * ratOf s) hm hc7.le (fun h0 => ?_) fun _ => ?_⟩
    · have := hmin (c - 1) (by omega)
      simp only [Bool.not_eq_true', Bool.or_eq_false_iff, Bool.and_eq_false_iff, decide_eq_false_iff_not, not_lt, beq_eq_false_iff_ne, Nat.sub_add_cancel h0] at this
      exact ⟨this.1, fun e => this.2.elim (fun h => absurd e.symm h) fun h => by omega⟩
    · exact ⟨hpc.elim le_of_lt fun h => h.1.le, fun e => hpc.elim (fun h => absurd e h.ne) fun h => h.2⟩
  · next hc =>
    refine ⟨le_rfl, nearest_of_midpoints (m := fun j => ratOf (e2m1 j) * ratOf s) hm le_rfl (fun _ => ?_) fun h => absurd h (lt_irrefl 7)⟩
    have := List.find?_eq_none.mp hc 6 (by decide)
    simp only [Bool.or_eq_true, Bool.and_eq_true, decide_eq_true_eq, beq_iff_eq, not_or, not_and, not_lt] at this
    exact ⟨this.1, fun e => absurd trivial (this.2 e.symm)⟩

end Sys2Proof.Safety
end

section
/-! PROOFS. Blocks encoded (R75), and the narrow formats' instructions (R119, R120). -/

namespace Sys2Proof.Safety

open Sys2Proof.Machine

/-! BS4 elements. -/

/-- What the statement says of a BS4 element: its code is that of the nearest magnitude, with the value's sign. -/
def Bs4Code (c : Nat) (y : ℚ) (k : Nat) : Prop :=
  let m (j : Nat) : ℚ := ratOf (e2m1 (j % 8)) * ratOf (e5m3 c)
  (∀ j, j < 8 → abs (m k - abs y) ≤ abs (m j - abs y) ∧ (j ≠ k % 8 → abs (m k - abs y) = abs (m j - abs y) → k % 2 = 0)) ∧ (k % 8 = 0 → k = 0) ∧ (k % 8 ≠ 0 → (8 ≤ k ↔ y < 0))

theorem e2m1_zero : ratOf (e2m1 0) = 0 := (ratOf_eq_zero _).mpr rfl

theorem e2m1Nearest_zero {s y : Dy} (hs : 0 < ratOf s) (hy : y.m = 0) : e2m1Nearest s y = 0 := by
  obtain ⟨h7, h⟩ := e2m1Nearest_spec (y := y) hs
  rcases Nat.eq_zero_or_pos (e2m1Nearest s y) with h0 | h0
  · exact h0
  · have hle := (h 0 (by omega)).1
    have hpos := mul_pos (e2m1_zero ▸ e2m1_rises h0 h7) hs
    rw [(ratOf_eq_zero y).mpr hy, e2m1_zero, zero_mul, abs_zero, sub_zero, sub_zero, abs_zero, abs_of_pos hpos] at hle
    exact absurd hpos hle.not_gt

/-- A BS4 element and its flags. -/
theorem bs4Encode_spec {c : Nat} {y : Dy} (hs : 0 < ratOf (e5m3 c)) :
    (bs4Encode (e5m3 c) y).1 < 16 ∧ Bs4Code c (ratOf y) (bs4Encode (e5m3 c) y).1 ∧
      ((bs4Encode (e5m3 c) y).2 = flagIf (decide (ratOf (e2m1 ((bs4Encode (e5m3 c) y).1 % 8)) * ratOf (e5m3 c) ≠ |ratOf y|)) fNX |||
        flagIf (decide ((bs4Encode (e5m3 c) y).1 = 0 ∧ ratOf y ≠ 0)) fPZ) := by
  obtain ⟨h7, h⟩ := e2m1Nearest_spec (y := y) hs
  have hz := e2m1Nearest_zero (y := y) hs
  have hneg := ratOf_neg_iff y
  have hflags : (bs4Encode (e5m3 c) y).2 = flagIf (decide (ratOf (e2m1 (e2m1Nearest (e5m3 c) y)) * ratOf (e5m3 c) ≠ |ratOf y|)) fNX |||
      flagIf (decide (e2m1Nearest (e5m3 c) y = 0 ∧ ratOf y ≠ 0)) fPZ := by
    show flagIf (!numEq _ _) fNX ||| flagIf (decide (_ ∧ y.m ≠ 0)) fPZ = _
    simp only [numEq_fin, ratOf_mul, ratOf_abs, decide_not, ne_eq, ratOf_eq_zero]
  rw [hflags]
  have hcode : (bs4Encode (e5m3 c) y).1 = if e2m1Nearest (e5m3 c) y = 0 then 0 else if y.neg = true then e2m1Nearest (e5m3 c) y + 8 else e2m1Nearest (e5m3 c) y := rfl
  rw [hcode]
  generalize e2m1Nearest (e5m3 c) y = n at h7 h hz
  have hlt : (if n = 0 then 0 else if y.neg = true then n + 8 else n) < 16 := by
    split
    · omega
    · split <;> omega
  have hmod : (if n = 0 then 0 else if y.neg = true then n + 8 else n) % 8 = n := by
    split
    · omega
    · split <;> omega
  have hge : n ≠ 0 → (8 ≤ (if n = 0 then 0 else if y.neg = true then n + 8 else n) ↔ y.neg = true) := fun h0 => by
    rw [if_neg h0]
    split
    · next hn => simp [hn]
    · next hn => simpa [hn] using Nat.lt_succ_of_le h7
  have hzero : (if n = 0 then 0 else if y.neg = true then n + 8 else n) = 0 ↔ n = 0 := ⟨fun h => by omega, fun h => if_pos h⟩
  generalize (if n = 0 then 0 else if y.neg = true then n + 8 else n) = k at hlt hmod hge hzero
  refine ⟨hlt, ⟨fun j hj => ?_, fun hk => hzero.mpr (hmod ▸ hk), fun hk => ?_⟩, by simp only [hmod, hzero]⟩
  · dsimp only
    rw [hmod, Nat.mod_eq_of_lt hj]
    obtain ⟨hle, htie⟩ := h j (by omega)
    exact ⟨hle, fun hne he => by have := htie hne he; omega⟩
  · rw [hmod] at hk
    rw [hge hk, hneg (mt hz hk)]

/-! The stages of EncodeBlock (R75). -/

section Stages

variable (f : BlockFmt) (tab : Memory) (t : Int) (xs : List Machine.Num) (pick : Nat → Bool)

/-- The values of a block under its exponent offset. -/
def blockYs : List Dy := xs.map fun x => x.dy.scale (-t)

/-- The greatest magnitude of a block. -/
def blockMax : Machine.Num := ((blockYs t xs).map fun y => (Machine.Num.fin { y with neg := false })).foldl numMax (.fin { neg := false, m := 0, e := 0 })

/-- The greatest magnitude of a format's elements. -/
def blockTop : Machine.Num :=
  match f with
  | .bs4 => .fin { neg := false, m := 6, e := 0 }
  | .bs8 => numMax (tabV tab 0).abs (tabV tab (tabNord tab)).abs

/-- An element of a block under its scale. -/
def elemCode (s : Dy) (y : Dy × Nat) : Nat × BitVec 6 :=
  match f with
  | .bs8 => tabEncode tab s (.fin y.1) (pick y.2)
  | .bs4 => bs4Encode s y.1

/-- Whether a block's scale is high enough: the test of the search for a scale. -/
def scaleFits (c : Nat) : Bool := numLe (blockMax t xs) ((blockTop f tab).times (e5m3 (c + 1)))

variable {f tab t xs pick}

theorem encodeBlock_special (h : ∃ x ∈ xs, (x.isNan || x.isInf) = true) : encodeBlock f tab t xs pick = .block (blockRec f 0xFF (List.replicate 32 0)) fNV := by
  unfold encodeBlock
  rw [if_pos (List.any_eq_true.mpr h)]

variable (hfin : ∀ x ∈ xs, (x.isNan || x.isInf) = false)

include hfin

theorem encodeBlock_zero (h : (blockMax t xs).isZero = true) : encodeBlock f tab t xs pick = .block (blockRec f 0 (List.replicate 32 0)) 0 := by
  unfold encodeBlock
  rw [if_neg (by simpa using hfin)]
  exact if_pos h

theorem encodeBlock_noTop (h : ¬ (blockMax t xs).isZero = true) (ht : (blockTop f tab).isZero = true) : encodeBlock f tab t xs pick = .trap cDecode 0 := by
  unfold encodeBlock
  rw [if_neg (by simpa using hfin)]
  exact (if_neg h).trans (if_pos ht)

theorem encodeBlock_rescale (h : ¬ (blockMax t xs).isZero = true) (ht : ¬ (blockTop f tab).isZero = true) (hs : (List.range 254).find? (scaleFits f tab t xs) = none) :
    encodeBlock f tab t xs pick = .trap cRescale (BitVec.ofInt 64 (log2Ratio (blockMax t xs).dy (blockTop f tab).dy)) := by
  unfold encodeBlock
  rw [if_neg (by simpa using hfin)]
  refine (if_neg h).trans ((if_neg ht).trans ?_)
  show (match (List.range 254).find? (scaleFits f tab t xs) with | none => _ | some c => _) = _
  rw [hs] <;> rfl

theorem encodeBlock_block (h : ¬ (blockMax t xs).isZero = true) (ht : ¬ (blockTop f tab).isZero = true) {c : Nat} (hs : (List.range 254).find? (scaleFits f tab t xs) = some c) :
    let es := (blockYs t xs).zipIdx.map (elemCode f tab pick (e5m3 (c + 1)))
    encodeBlock f tab t xs pick = .block (blockRec f (c + 1) (es.map (·.1))) (orFlags (es.map (·.2))) := by
  unfold encodeBlock
  rw [if_neg (by simpa using hfin)]
  refine (if_neg h).trans ((if_neg ht).trans ?_)
  show (match (List.range 254).find? (scaleFits f tab t xs) with | none => _ | some c => _) = _
  rw [hs] <;> rfl

end Stages

/-! Blocks of finite values. -/

/-- A block of zero codes. -/
theorem zeroBlock_spec (f : BlockFmt) {scale : Nat} (hs : scale < 256) :
    (blockRec f scale (List.replicate 32 0)).length = f.size ∧ ((blockRec f scale (List.replicate 32 0)).getD f.scaleAt 0).toNat = scale ∧
      (∀ i, f.scaleAt < i → (blockRec f scale (List.replicate 32 0)).getD i 0 = 0) ∧ ∀ i, i < 32 → blockElem f (blockRec f scale (List.replicate 32 0)) i = 0 := by
  have hz (i : Nat) : (List.replicate 32 0).getD i 0 = 0 := by
    rw [List.getD_eq_getElem?_getD, List.getElem?_replicate]
    split
    · rfl
    · rfl
  obtain ⟨h1, h2, h3⟩ := blockRec_spec f hs (es := List.replicate 32 0) List.length_replicate fun i _ => by rw [hz]; split <;> decide
  exact ⟨length_blockRec f scale List.length_replicate, h1, h2, fun i hi => (h3 i hi).trans (hz i)⟩

section Finite

variable {f : BlockFmt} {tab : Memory} {t : Int} {d : Nat → Dy} {pick : Nat → Bool} {a top : ℚ}

/-- The 32 values of a block. -/
def blockOf (d : Nat → Dy) : List Machine.Num := (List.range 32).map fun i => .fin (d i)

theorem blockOf_finite (d : Nat → Dy) : ∀ x ∈ blockOf d, (x.isNan || x.isInf) = false := by
  simp [blockOf, Machine.Num.isNan, Machine.Num.isInf]

theorem blockYs_blockOf (t : Int) (d : Nat → Dy) : blockYs t (blockOf d) = (List.range 32).map fun i => (d i).scale (-t) := by
  simp [blockYs, blockOf, Machine.Num.dy, Function.comp_def]

theorem ratOf_scale_neg (x : Dy) (t : Int) : ratOf (x.scale (-t)) = ratOf x / 2 ^ t := by rw [ratOf_scale, zpow_neg, div_eq_mul_inv]

theorem blockMax_blockOf (ha : 0 < a) (hle : ∀ i, i < 32 → |ratOf (d i) / 2 ^ t| ≤ a) (hex : ∃ i, i < 32 ∧ |ratOf (d i) / 2 ^ t| = a) :
    ∃ A : Dy, A.neg = false ∧ blockMax t (blockOf d) = .fin A ∧ ratOf A = a := by
  obtain ⟨A, hA, hf, hz, hall, hin⟩ := foldl_numMax ((List.range 32).map fun i => { (d i).scale (-t) with neg := false }) { neg := false, m := 0, e := 0 } rfl (by simp)
  simp only [List.mem_map, List.mem_range, forall_exists_index, and_imp, forall_apply_eq_imp_iff₂] at hall hin
  simp only [ratOf_abs, ratOf_scale_neg] at hall
  refine ⟨A, hA, ?_, le_antisymm ?_ ?_⟩
  · rw [← hf, List.map_map]
    simp only [blockMax, blockYs_blockOf, List.map_map]
    rfl
  · rcases hin with rfl | ⟨i, hi, rfl⟩
    · rw [(ratOf_eq_zero _).mpr rfl]
      exact ha.le
    · rw [ratOf_abs, ratOf_scale_neg]
      exact hle i hi
  · obtain ⟨i, hi, rfl⟩ := hex
    exact hall i hi

theorem blockTop_finite (h4 : f = .bs4 → top = 6) (h8 : f = .bs8 → ∃ u w, tabV tab 0 = .fin u ∧ tabV tab (tabNord tab) = .fin w ∧ top = max |ratOf u| |ratOf w|) :
    ∃ E : Dy, E.neg = false ∧ blockTop f tab = .fin E ∧ ratOf E = top := by
  cases f with
  | bs4 => exact ⟨{ neg := false, m := 6, e := 0 }, rfl, rfl, by rw [h4 rfl, ratOf_of_pos rfl]; norm_num⟩
  | bs8 =>
    obtain ⟨u, w, hu, hw, rfl⟩ := h8 rfl
    have ht : blockTop .bs8 tab = numMax (.fin { u with neg := false }) (.fin { w with neg := false }) := by
      show numMax (tabV tab 0).abs (tabV tab (tabNord tab)).abs = _
      rw [hu, hw]
      rfl
    rw [ht, numMax, numLt_fin, ratOf_abs, ratOf_abs]
    rcases lt_or_ge |ratOf u| |ratOf w| with h | h
    · exact ⟨_, rfl, if_pos (decide_eq_true h), by rw [ratOf_abs, max_eq_right h.le]⟩
    · exact ⟨_, rfl, if_neg (by simpa using h), by rw [ratOf_abs, max_eq_left h]⟩

/-- The codes and flags of the elements of a block, in order. -/
theorem elems_blockOf (s : Dy) : (blockYs t (blockOf d)).zipIdx.map (elemCode f tab pick s) = (List.range 32).map fun i => elemCode f tab pick s ((d i).scale (-t), i) := by
  rw [blockYs_blockOf]
  refine List.ext_getElem (by simp) fun i h1 h2 => ?_
  simp

theorem elemCode_lt (s : Dy) (hs : f = .bs4 → ∃ c, s = e5m3 c ∧ 0 < ratOf s) (y : Dy × Nat) : (elemCode f tab pick s y).1 < if f = .bs8 then 256 else 16 := by
  cases f with
  | bs8 => exact (memByte tab _).isLt
  | bs4 =>
    obtain ⟨c, rfl, hc⟩ := hs rfl
    exact (bs4Encode_spec hc).1

end Finite

/-- A union of unions of two flags. -/
theorem orFlags_two {α : Type} (l : List α) (p q : α → Bool) (x y : BitVec 6) :
    orFlags (l.map fun i => flagIf (p i) x ||| flagIf (q i) y) = flagIf (l.any p) x ||| flagIf (l.any q) y := by
  have hb (c : Bool) (z : BitVec 6) (b : Nat) : (flagIf c z).getLsbD b = (c && z.getLsbD b) := by cases c <;> simp [flagIf]
  refine BitVec.eq_of_getLsbD_eq fun b _ => ?_
  rw [orFlags_bit, BitVec.getLsbD_or, hb, hb, List.any_map]
  induction l with
  | nil => simp
  | cons i l ih => 
    simp only [List.any_cons, ih, Function.comp_apply, BitVec.getLsbD_or, hb, Bool.and_or_distrib_right]
    ac_rfl

theorem two_flags (a b : Bool) : ((flagIf a fNX ||| flagIf b fPZ) &&& fNX ≠ 0 ↔ a = true) ∧ ((flagIf a fNX ||| flagIf b fPZ) &&& fPZ ≠ 0 ↔ b = true) ∧
    (flagIf a fNX ||| flagIf b fPZ) &&& ~~~(fNX ||| fPZ) = 0 := by
  revert a b
  decide

/-- What a block is, by the bytes of its record. -/
def IsBlock (f : BlockFmt) (enc : Encoded) (b : List Byte) (fl : BitVec 6) (scale : Nat) : Prop :=
  enc = .block b fl ∧ b.length = f.size ∧ (b.getD f.scaleAt 0).toNat = scale ∧ ∀ i, f.scaleAt < i → b.getD i 0 = 0

section Block

variable {f : BlockFmt} {tab : Memory} {t : Int} {d : Nat → Dy} {pick : Nat → Bool} {a top : ℚ}

/-- EncodeBlock of finite values by the greatest magnitude and the greatest element (R75). -/
theorem encodeBlock_finite (ha : 0 < a) (hle : ∀ i, i < 32 → |ratOf (d i) / 2 ^ t| ≤ a) (hex : ∃ i, i < 32 ∧ |ratOf (d i) / 2 ^ t| = a) (h4 : f = .bs4 → top = 6)
    (h8 : f = .bs8 → ∃ u w, tabV tab 0 = .fin u ∧ tabV tab (tabNord tab) = .fin w ∧ top = max |ratOf u| |ratOf w|) :
    (top = 0 → encodeBlock f tab t (blockOf d) pick = .trap cDecode 0) ∧
    (0 < top → 114688 < a / top → ∃ n : Int, encodeBlock f tab t (blockOf d) pick = .trap cRescale (BitVec.ofInt 64 n) ∧ 2 ^ n ≤ a / top ∧ a / top < 2 ^ (n + 1)) ∧
    (0 < top → a / top ≤ 114688 → ∃ c, c < 254 ∧ a / top ≤ ratOf (e5m3 (c + 1)) ∧ (∀ k, 1 ≤ k → k ≤ 254 → a / top ≤ ratOf (e5m3 k) → ratOf (e5m3 (c + 1)) ≤ ratOf (e5m3 k)) ∧
      encodeBlock f tab t (blockOf d) pick = .block (blockRec f (c + 1) ((List.range 32).map fun i => (elemCode f tab pick (e5m3 (c + 1)) ((d i).scale (-t), i)).1))
        (orFlags ((List.range 32).map fun i => (elemCode f tab pick (e5m3 (c + 1)) ((d i).scale (-t), i)).2))) := by
  obtain ⟨A, hA, hmax, rfl⟩ := blockMax_blockOf ha hle hex
  obtain ⟨E, hE, htop, rfl⟩ := blockTop_finite h4 h8
  have hAm : A.m ≠ 0 := fun h => ha.ne' ((ratOf_eq_zero A).mpr h)
  have hmz : ¬ (blockMax t (blockOf d)).isZero = true := by simp [hmax, Machine.Num.isZero, hAm]
  have htz : (blockTop f tab).isZero = true ↔ ratOf E = 0 := by simp [htop, Machine.Num.isZero, ratOf_eq_zero]
  have hfit (hp : 0 < ratOf E) (c : Nat) : scaleFits f tab t (blockOf d) c = true ↔ ratOf A / ratOf E ≤ ratOf (e5m3 (c + 1)) := by
    rw [scaleFits, hmax, htop]
    show numLe (.fin A) (.fin (E.mul (e5m3 (c + 1)))) = true ↔ _
    rw [numLe_fin, ratOf_mul, decide_eq_true_eq, div_le_iff₀ hp, mul_comm]
  refine ⟨fun h => encodeBlock_noTop (blockOf_finite d) hmz (htz.mpr h), fun hp h => ?_, fun hp h => ?_⟩
  · have hnz : ¬ (blockTop f tab).isZero = true := fun e => hp.ne' (htz.mp e)
    have hlog := log2Ratio_spec hA hE hAm fun e => hp.ne' ((ratOf_eq_zero E).mpr e)
    exact ⟨log2Ratio A E, (encodeBlock_rescale (blockOf_finite d) hmz hnz ((scale_find _ (hfit hp)).1 h)).trans (by rw [hmax, htop]; rfl), hlog.1, hlog.2⟩
  · have hnz : ¬ (blockTop f tab).isZero = true := fun e => hp.ne' (htz.mp e)
    obtain ⟨c, hf, hc, hle, hmin⟩ := (scale_find _ (hfit hp)).2 h
    refine ⟨c, hc, hle, hmin, (encodeBlock_block (blockOf_finite d) hmz hnz hf).trans ?_⟩
    simp only [elems_blockOf, List.map_map, Function.comp_def]

end Block

end Sys2Proof.Safety
end

section
/-! PROOFS. The narrow formats' instructions (R119, R120) and their encodings. -/

namespace Sys2Proof.Safety

open Sys2Proof.Machine

section Instructions

variable {s : State} {d a q : BitVec 3} {b : BitVec 5} {l side : BitVec 1} {ft : BitVec 2} {o : BitVec 8}

/-- `dtld` of a record that passes the checks of the access (R70, R119). -/
theorem dtld_of_loadOk (h : LoadOk s b (s.ea b (off16 o)).toNat 1296 16) :
    ∃ r : Memory, memWf r = true ∧ (∀ j, memByte r j = if j < 1296 then loadByte s b ((s.ea b (off16 o)).toNat + j) else 0) ∧
      (tabOk r = true → dtldEff b side o s = .ok ((loaded s b (s.ea b (off16 o)).toNat 1296).modMx fun m => { m with tab := m.tab.set side.toNat r, tabBad := m.tabBad.set side.toNat false })) ∧
      (tabOk r = false → dtldEff b side o s = .trap (.atBase b cDecode (Config.info cDecode (s.ea b (off16 o)) s.time) (s.ea b (off16 o)))) := by
  obtain ⟨bs, hbs, hl, hb⟩ := load_of_loadOk (by decide) h
  refine ⟨memWrite [] 0 bs, memWrite_wf 0 bs rfl, fun j => ?_, fun ht => ?_, fun ht => ?_⟩
  · rw [memByte_memWrite 0 j bs rfl, hl]
    by_cases hj : j < 1296
    · rw [if_pos (by omega), if_pos hj, Nat.sub_zero, hb j hj]
    · rw [if_neg (by omega), if_neg hj]
      rfl
  · unfold dtldEff
    simp only [hbs, ht, if_true]
  · unfold dtldEff
    simp only [hbs, ht, if_false, Bool.false_eq_true]

/-- The lanes that `venc` encodes. -/
def vencValue (s : State) (a : BitVec 3) (ft : BitVec 2) (i : Nat) : Machine.Num :=
  (fmtOf (ft.setWidth 4)).decode (lane (laneWidth (ft.setWidth 4)) (s.o a) i)

/-- `venc` where no lane is a NaN or the table has a code for one (R71, R120). -/
theorem vencEff_of_codes (hs : s.here.mx.tabBad[side.toNat] = false) (hn : ∀ i, i < laneCount (ft.setWidth 4) → (vencValue s a ft i).isNan = true → tabNcv (s.tab side) = true) :
    let n := laneCount (ft.setWidth 4)
    let r := (List.range n).map fun i => vencLane (s.tab side) (vencValue s a ft i) (Config.midInf s.time.toNat i)
    let lo := q.toNat * n
    vencEff d a l side q ft s = .ok (((s.useO [(a, l)]).addFlags (orFlags (r.map (·.2)))).setO d
      (BitVec.ofNat 256 (ofLanes 8 ((List.range 32).map fun j => if lo ≤ j ∧ j < lo + n then (r.getD (j - lo) (0, 0)).1 else lane 8 (s.o d) j)))) := by
  have hf : (List.range (laneCount (ft.setWidth 4))).find? (fun i => (vencValue s a ft i).isNan && !tabNcv (s.tab side)) = none := by
    refine List.find?_eq_none.mpr fun i hi h => ?_
    rw [Bool.and_eq_true, Bool.not_eq_true'] at h
    rw [hn i (List.mem_range.mp hi) h.1] at h
    exact absurd h.2 (by decide)
  unfold vencEff
  dsimp only
  rw [withTab_of_sound hs]
  unfold vencValue at hf
  rw [hf]
  rfl

/-- `venc` with a NaN in a lane and no code for it (R120). -/
theorem vencEff_of_nan (hs : s.here.mx.tabBad[side.toNat] = false) (hc : tabNcv (s.tab side) = false) {i : Nat} (hi : i < laneCount (ft.setWidth 4))
    (hn : (vencValue s a ft i).isNan = true) (hmin : ∀ j, j < i → (vencValue s a ft j).isNan = false) :
    vencEff d a l side q ft s = .trap (.plain cDecode (BitVec.ofNat 64 (lane (laneWidth (ft.setWidth 4)) (s.o a) i))) := by
  have hf : (List.range (laneCount (ft.setWidth 4))).find? (fun i => (vencValue s a ft i).isNan && !tabNcv (s.tab side)) = some i :=
    List.find?_range_eq_some.mpr ⟨by rw [hn, hc]; rfl, List.mem_range.mpr hi, fun j hj => by rw [hmin j hj]; rfl⟩
  unfold vencEff
  dsimp only
  rw [withTab_of_sound hs]
  unfold vencValue at hf
  rw [hf]

theorem vencLane_lt (t : Memory) (x : Machine.Num) (pick : Bool) : (vencLane t x pick).1 < 256 := by
  unfold vencLane
  split
  · exact (memByte t 1).isLt
  · exact (memByte t _).isLt

end Instructions

/-- A trap over an access by base field that is neither PLACEMENT nor ALIGN (R240). -/
theorem atBase_space (b : BitVec 5) {c : Cause} (hp : c ≠ cPlacement) (ha : c ≠ cAlign) (v a : Word) : Trap.atBase b c v a = if b = 0 then .atSpace c v 0 a else .atNear c v a := by
  unfold Trap.atBase
  by_cases hb : b = 0
  · rw [if_neg (not_not.mpr hb), if_pos hb, if_neg (by simp [hp, ha])]
  · rw [if_pos hb, if_neg hb]

/-! Blocks of finite values, by element. -/

theorem finite_of_isZero {x : Machine.Num} (h : x.isZero = true) : (x.isNan || x.isInf) = false := by
  cases x with
  | nan => cases h
  | inf => cases h
  | fin => rfl

theorem blockMax_zero {t : Int} {xs : List Machine.Num} (h : ∀ x ∈ xs, x.isZero = true) : (blockMax t xs).isZero = true := by
  obtain ⟨A, -, hf, -, -, hin⟩ := foldl_numMax ((blockYs t xs).map fun y => { y with neg := false }) { neg := false, m := 0, e := 0 } rfl (by simp)
  have hA : A.m = 0 := by
    rcases hin with rfl | hin
    · rfl
    · simp only [blockYs, List.map_map, List.mem_map] at hin
      obtain ⟨x, hx, rfl⟩ := hin
      have := h x hx
      cases x with
      | nan => cases this
      | inf => cases this
      | fin y => simpa [Machine.Num.isZero, Machine.Num.dy, Dy.scale] using this
  rw [List.map_map] at hf
  rw [show blockMax t xs = .fin A from hf]
  simp [Machine.Num.isZero, hA]

theorem eq_blockOf {xs : List Machine.Num} {d : Nat → Dy} (hl : xs.length = 32) (h : ∀ i, i < 32 → xs[i]? = some (.fin (d i))) : xs = blockOf d := by
  refine List.ext_getElem? fun i => ?_
  by_cases hi : i < 32
  · rw [h i hi]
    simp [blockOf, hi]
  · rw [List.getElem?_eq_none (by omega), List.getElem?_eq_none (by simp [blockOf]; omega)]

/-- The record of a block's codes under its scale. -/
theorem blockRec_elems {f : BlockFmt} {tab : Memory} {pick : Nat → Bool} {c : Nat} (hc : c < 256) (hs : 0 < ratOf (e5m3 c)) (y : Nat → Dy) :
    let b := blockRec f c ((List.range 32).map fun i => (elemCode f tab pick (e5m3 c) (y i, i)).1)
    (b.getD f.scaleAt 0).toNat = c ∧ (∀ i, f.scaleAt < i → b.getD i 0 = 0) ∧ ∀ i, i < 32 → blockElem f b i = (elemCode f tab pick (e5m3 c) (y i, i)).1 := by
  have hg : ∀ i, i < 32 → ((List.range 32).map fun i => (elemCode f tab pick (e5m3 c) (y i, i)).1).getD i 0 = (elemCode f tab pick (e5m3 c) (y i, i)).1 := fun i hi => by
    rw [List.getD_eq_getElem _ _ (by simpa using hi)]
    simp
  obtain ⟨h1, h2, h3⟩ := blockRec_spec f hc (es := (List.range 32).map fun i => (elemCode f tab pick (e5m3 c) (y i, i)).1) (by simp)
    fun i hi => by rw [hg i hi]; exact elemCode_lt _ (fun _ => ⟨c, rfl, hs⟩) _
  exact ⟨h1, h2, fun i hi => (h3 i hi).trans (hg i hi)⟩

/-- The flags of 32 BS4 elements. -/
theorem bs4_flags {c : Nat} (hs : 0 < ratOf (e5m3 c)) (y : Nat → Dy) :
    let k (i : Nat) : Nat := (bs4Encode (e5m3 c) (y i)).1
    let fl := orFlags ((List.range 32).map fun i => (bs4Encode (e5m3 c) (y i)).2)
    (fl &&& fNX ≠ 0 ↔ ∃ i, i < 32 ∧ ratOf (e2m1 (k i % 8)) * ratOf (e5m3 c) ≠ |ratOf (y i)|) ∧ (fl &&& fPZ ≠ 0 ↔ ∃ i, i < 32 ∧ k i = 0 ∧ ratOf (y i) ≠ 0) ∧
      fl &&& ~~~(fNX ||| fPZ) = 0 := by
  intro k fl
  have hfl : fl = flagIf ((List.range 32).any fun i => decide (ratOf (e2m1 (k i % 8)) * ratOf (e5m3 c) ≠ |ratOf (y i)|)) fNX |||
      flagIf ((List.range 32).any fun i => decide (k i = 0 ∧ ratOf (y i) ≠ 0)) fPZ := by
    rw [← orFlags_two]
    exact congrArg orFlags (List.map_congr_left fun i _ => (bs4Encode_spec hs).2.2)
  obtain ⟨h1, h2, h3⟩ := two_flags ((List.range 32).any fun i => decide (ratOf (e2m1 (k i % 8)) * ratOf (e5m3 c) ≠ |ratOf (y i)|))
    ((List.range 32).any fun i => decide (k i = 0 ∧ ratOf (y i) ≠ 0))
  rw [hfl]
  refine ⟨h1.trans ?_, h2.trans ?_, h3⟩
  · simp only [List.any_eq_true, List.mem_range, decide_eq_true_eq]
  · simp only [List.any_eq_true, List.mem_range, decide_eq_true_eq]

/-- Settles O31. -/
theorem narrowFormats : Obligations.NarrowFormats := by
  refine ⟨fun s d a b l side q ft o => ?_, fun t s x pick hok hm hn => tabEncode_spec pick hok hm hn, fun bf tab t xs pick hlen => ?_⟩
  · intro ea ty f n w tab entry x ncv sound
    refine ⟨fun he i hi => ?_, fun he h => ?_, fun he hs i hi => ?_, fun he hs => ?_, fun he hs hc hn hq => ?_, fun he hs hc i hi hn hmin => ?_⟩
    · simp only [List.mem_cons, List.not_mem_nil, or_false] at hi
      rcases hi with rfl | rfl | rfl
      · exact traps_on_engine he rfl
      · exact traps_on_engine he rfl
      · exact traps_on_engine he rfl
    · obtain ⟨r, hwf, hr, hok, hbad⟩ := dtld_of_loadOk (side := side) h
      refine ⟨r, hwf, hr, fun ht => does_of_ok (exec_of_onCompute he rfl) (hok ht), fun ht => ?_⟩
      exact ⟨_, traps_of_trap (exec_of_onCompute he rfl) ((hbad ht).trans (congrArg Effect.trap (atBase_space b (by decide) (by decide) _ _)))⟩
    · have hbad : s.here.mx.tabBad[side.toNat] = true := by simpa [sound] using hs
      simp only [List.mem_cons, List.not_mem_nil, or_false] at hi
      rcases hi with rfl | rfl
      · exact ⟨_, traps_of_trap (exec_of_onCompute he rfl) (withTab_of_bad hbad _)⟩
      · exact ⟨_, traps_of_trap (exec_of_onCompute he rfl) (withTab_of_bad hbad _)⟩
    · refine vec_spec _ ty d 0 [(a, l)] _ s ((exec_of_onCompute he rfl).trans (congrArg (finish 4 s) ?_))
      exact withTab_of_sound hs _
    · have hncv : ∀ i, i < n → (x i).isNan = true → tabNcv tab = true := fun i hi hx => by
        rcases hn with h | h
        · rw [h i hi] at hx
          cases hx
        · unfold tabNcv
          rw [h]
          rfl
      have hv := vencEff_of_codes (d := d) (q := q) (l := l) hs hncv
      dsimp only at hv
      rw [List.map_map] at hv
      refine ⟨_, _, Config.midInf s.time.toNat, laneFlags_all (laneCount_le ty) _, fun j hj => ?_, _, (exec_of_onCompute he rfl).trans (congrArg (finish 4 s) hv), setO_retire s _ _ 4 d _⟩
      rw [lane_ofLanes 8 _ (by simp), List.getD_eq_getElem _ _ (by simpa using hj), List.getElem_map, List.getElem_range]
      split
      · next hin =>
        rw [List.getD_eq_getElem _ _ (by simp; omega), List.getElem_map, List.getElem_range]
        exact Nat.mod_eq_of_lt (vencLane_lt ..)
      · exact Nat.mod_eq_of_lt (lane_lt ..)
    · refine traps_of_trap (exec_of_onCompute he rfl) (vencEff_of_nan hs ?_ hi hn hmin)
      unfold tabNcv
      rw [show memByte (s.tab side) 2 = 0 from hc]
      rfl
  · intro size scaleAt code enc block
    have hcode : ∀ b i, code b i = blockElem bf b i := by cases bf <;> exact fun _ _ => rfl
    have hblock : ∀ b fl sc, block b fl sc ↔ IsBlock bf enc b fl sc := by cases bf <;> exact fun _ _ _ => Iff.rfl
    simp only [hcode, hblock]
    refine ⟨fun h => ?_, fun h => ?_, fun d hd a top ha hle hex h4 h8 => ?_⟩
    · obtain ⟨h1, h2, h3, h4⟩ := zeroBlock_spec bf (show 0xFF < 256 by decide)
      exact ⟨_, ⟨encodeBlock_special h, h1, h2, h3⟩, h4⟩
    · obtain ⟨h1, h2, h3, h4⟩ := zeroBlock_spec bf (show 0 < 256 by decide)
      exact ⟨_, ⟨encodeBlock_zero (fun x hx => finite_of_isZero (h x hx)) (blockMax_zero h), h1, h2, h3⟩, h4⟩
    · obtain rfl : xs = blockOf d := eq_blockOf hlen hd
      obtain ⟨h1, h2, h3⟩ := encodeBlock_finite (pick := pick) ha hle hex h4 h8
      refine ⟨h1, h2, fun hp hr => ?_⟩
      obtain ⟨c, hc, hcle, hmin, henc⟩ := h3 hp hr
      have hsp : 0 < ratOf (e5m3 (c + 1)) := (div_pos ha hp).trans_le hcle
      obtain ⟨hb1, hb2, hb3⟩ := blockRec_elems (f := bf) (tab := tab) (pick := pick) (show c + 1 < 256 by omega) hsp fun i => (d i).scale (-t)
      refine ⟨c + 1, _, _, by omega, by omega, hcle, hmin, ⟨henc, length_blockRec _ _ (by simp), hb1, hb2⟩, fun h => ?_, fun h => ?_⟩
      · subst h
        exact ⟨hb3, laneFlags_all le_rfl _⟩
      · subst h
        obtain ⟨hf1, hf2, hf3⟩ := bs4_flags hsp fun i => (d i).scale (-t)
        simp only [ratOf_scale_neg] at hf1 hf2
        refine ⟨fun i hi => ?_, hf1.trans ?_, hf2.trans ?_, hf3⟩
        · rw [hb3 i hi]
          have hcode := (bs4Encode_spec (y := (d i).scale (-t)) hsp).2.1
          rw [ratOf_scale_neg] at hcode
          exact hcode
        · exact exists_congr fun i => and_congr_right fun hi => by rw [hb3 i hi]; rfl
        · exact exists_congr fun i => and_congr_right fun hi => by rw [hb3 i hi]; rfl

end Sys2Proof.Safety
end

section
/-! PROOFS. The scrub of a stopped partition (R334) and the executable map of an extent of odd length. -/

namespace Sys2Proof.Safety

open Sys2Proof.Machine

/-- A core whose halfword 0 is executable though every image of it is one byte at address 0: an extent that holds no whole halfword. -/
def OddExtent (c : Core) : Prop := c.xmap.getLsbD 0 = true ∧ ∀ (n : Fin 8) (i : ImgEntry), c.images[n] = some i → i.base = 0 ∧ i.xlen = 1

/-- An extent of one byte has no map bits: clearing them leaves halfword 0 as it is. -/
theorem setMap_one (x : BitVec 16384) : (setMap x 0 1 fun _ => false).getLsbD 0 = x.getLsbD 0 := by
  unfold setMap
  simp only [BitVec.getLsbD_or, BitVec.getLsbD_and, BitVec.getLsbD_not, BitVec.getLsbD_shiftLeft, BitVec.getLsbD_ushiftRight, BitVec.getLsbD_allOnes,
    BitVec.getLsbD_ofNat, show 1 / 2 = 0 from rfl, List.range_zero, List.foldr_nil]
  simp

theorem OddExtent.dropImage {c : Core} (h : OddExtent c) (n : Fin 8) : OddExtent (c.dropImage n) := by
  obtain ⟨hx, hi⟩ := h
  unfold Core.dropImage
  split
  · exact ⟨hx, hi⟩
  · next i hn =>
    obtain ⟨hb, hl⟩ := hi n i hn
    refine ⟨?_, fun m j hj => ?_⟩
    · rw [hb, hl]
      exact (setMap_one c.xmap).trans hx
    · by_cases hmn : n = m
      · subst hmn
        simp at hj
      · exact hi m j (by simpa [Vector.getElem_set, Fin.val_inj, hmn] using hj)

/-- An image marked stale keeps its extent. -/
theorem OddExtent.stale {c : Core} (h : OddExtent c) (n : Fin 8) : OddExtent { c with images := c.images.set n ((c.images[n]).map fun i => { i with stale := true }) } := by
  obtain ⟨hx, hi⟩ := h
  refine ⟨hx, fun m j hj => ?_⟩
  by_cases hmn : n = m
  · subst hmn
    simp only [Fin.getElem_fin, Vector.getElem_set_self, Option.map_eq_some_iff] at hj
    obtain ⟨i, hn, rfl⟩ := hj
    exact hi n i hn
  · exact hi m j (by simpa [Vector.getElem_set, Fin.val_inj, hmn] using hj)

theorem OddExtent.evictAll {c : Core} (h : OddExtent c) : OddExtent c.evictAll := by
  unfold Core.evictAll
  induction List.finRange 8 generalizing c with
  | nil => exact h
  | cons n l ih =>
    refine ih ?_
    dsimp only
    split
    · exact h.stale n
    · exact h.dropImage n

theorem OddExtent.scrubbed {c : Core} (h : OddExtent c) (epoch : Word) : OddExtent (c.scrubbed epoch) := by
  have hc := h.evictAll
  unfold Core.scrubbed
  generalize c.evictAll = d at hc
  obtain ⟨hx, hi⟩ := hc
  exact ⟨hx, hi⟩

/-- What is read of a core after one is replaced. -/
theorem core_setCore (s : State) (a b : CoreAddr) (c : Core) : (s.setCore a c).core b = if b = a then c else s.core b := by
  unfold State.setCore State.core
  by_cases ha : a = s.at_
  · rw [if_pos ha, ha]
    by_cases hb : b = s.at_
    · rw [if_pos hb, if_pos hb]
    · rw [if_neg hb, if_neg hb, if_neg hb]
  · rw [if_neg ha]
    by_cases hb : b = s.at_
    · rw [if_pos hb, if_neg fun e : b = a => ha (e ▸ hb), if_pos hb]
    · dsimp only
      rw [if_neg hb, look_put, if_neg hb]
      by_cases hba : b = a
      · rw [if_pos (congrArg BitVec.toNat hba), if_pos hba]
        rfl
      · rw [if_neg (fun e => hba (BitVec.eq_of_toNat_eq e)), if_neg hba]

theorem core_modHome (s : State) (f : Package → Package) (b : CoreAddr) : (s.modHome f).core b = s.core b := rfl

/-- A change of some cores keeps of each what it keeps of one. -/
theorem modCores_keeps {P : Core → Prop} {f : Core → Core} (hf : ∀ c, P c → P (f c)) (l : List CoreAddr) {s : State} {b : CoreAddr} (h : P (s.core b)) :
    P ((s.modCores l f).core b) := by
  unfold State.modCores
  induction l generalizing s with
  | nil => exact h
  | cons a l ih =>
    refine ih ?_
    show P ((s.setCore a (f (s.core a))).core b)
    rw [core_setCore]
    split
    · next hb => exact hf _ (hb ▸ h)
    · exact h

/-- The messages that a scrub discards unperformed are settled, and nothing is done to the cores. -/
theorem core_settleAll (g : State → CoreAddr → List Msg) (l : List CoreAddr) (s : State) (b : CoreAddr) :
    (l.foldl (fun u a => (g u a).foldl State.settle u) s).core b = s.core b := by
  induction l generalizing s with
  | nil => rfl
  | cons a l ih =>
    rw [List.foldl_cons, ih]
    generalize g s a = ms
    induction ms generalizing s with
    | nil => rfl
    | cons m ms ihm => exact ihm _

/-- The scrub of a stopped partition leaves such a core's halfword 0 executable. -/
theorem oddExtent_confScrub {s t : State} {b : CoreAddr} (ho : OddExtent (s.core b)) (h : Comes .confScrubTimeout s t) : OddExtent (t.core b) := by
  have hs : execConfScrubTimeout s = .next t := h
  unfold execConfScrubTimeout at hs
  injection hs with hs
  subst hs
  dsimp only
  split
  · exact ho
  · split
    · exact ho
    · rw [core_modHome]
      refine modCores_keeps (P := OddExtent) (fun c hc => OddExtent.scrubbed hc _) _ ?_
      rw [core_settleAll]
      exact ho

/-- An image-table entry of one byte at address 0. -/
def oneByteImage : ImgEntry := { base := 0, xlen := 1, id := 0, gen := 0, ten := 0, kslot := 0, cls := 0, rto := 0, nreg := 0, stale := false, order := 0, binds := [] }

/-- The machine after reset 10 s later, with partition 0 stopped since, that image in entry 0 of core 0, and halfword 0 of the core executable. -/
def stoppedOdd : State :=
  { State.reset with
    here := { Core.reset with xmap := 1, images := (Vector.replicate 8 none).set 0 (some oneByteImage) }
    pkgs := [(0, { Package.reset with parts := [(0, { Partition.zero with stoppedAt := some 0 })] })]
    time := 10000000000 }

theorem images_stoppedOdd (n : Fin 8) : stoppedOdd.here.images[n] = if n = 0 then some oneByteImage else none := by
  show ((Vector.replicate 8 none).set 0 (some oneByteImage))[n] = _
  rw [Fin.getElem_fin, Vector.getElem_set]
  by_cases h : n = 0
  · rw [h]
    rfl
  · rw [if_neg h, if_neg fun e => h (Fin.ext e.symm), Vector.getElem_replicate]

theorem oddExtent_stoppedOdd : OddExtent stoppedOdd.here := by
  refine ⟨(BitVec.getLsbD_one ..).trans (by simp), fun n i h => ?_⟩
  rw [images_stoppedOdd] at h
  split at h
  · cases h
    exact ⟨rfl, rfl⟩
  · cases h

theorem partOf_stoppedOdd (a : CoreAddr) : stoppedOdd.home.partOf a = 0 := by
  rfl

theorem zero_mem_packageCores : (0 : CoreAddr) ∈ packageCores 0 := by
  refine List.mem_flatMap.mpr ⟨0, by simp, List.mem_append_left _ (List.mem_map.mpr ⟨0, by simp, by decide⟩)⟩

/-- No activation holds a slot of core 0. -/
theorem idle_stoppedOdd (i : Fin 4) : stoppedOdd.here.acts[i].busy = false := by
  show (Vector.replicate 4 Act.free)[i].busy = false
  rw [Fin.getElem_fin, Vector.getElem_replicate]
  rfl

/-- Refutes O58: the statement is about every state, so also about one with an image-table entry of one byte (the spec's extents are of whole 64 B, R36). The byte at address 0 lies in
halfword 0, which the statement wants cleared, but a scrub clears the map bits of the `xlen / 2` whole halfwords of an extent, here none. -/
theorem not_packageResets : ¬ Obligations.PackageResets := by
  unfold Obligations.PackageResets
  intro h
  obtain ⟨hreset, -⟩ := h
  obtain ⟨-, -, -, -, hscrub⟩ := hreset stoppedOdd
  obtain ⟨t, ht, -, -, hcores⟩ := hscrub 0 rfl (by decide)
  obtain ⟨-, -, -, -, -, -, himages, -⟩ := hcores 0 zero_mem_packageCores (partOf_stoppedOdd 0)
  obtain ⟨-, -, hmap⟩ := himages 0
  have hclear := hmap (fun ⟨i, hb, _⟩ => by rw [show stoppedOdd.core 0 = stoppedOdd.here from rfl, idle_stoppedOdd i] at hb; cases hb) oneByteImage (images_stoppedOdd 0) 0 (by decide) (by decide)
  obtain ⟨hset, -⟩ := oddExtent_confScrub (s := stoppedOdd) (b := 0) oddExtent_stoppedOdd ht
  rw [hset] at hclear
  cases hclear

end Sys2Proof.Safety
end

section
/-! PROOFS. The decoder and the encoder agree (R44, R45, R55 to R57): every constructor's round trip, and what the bytes of a decoded instruction are. -/

namespace Sys2Proof.Laws.RoundTrip

open Sys2Proof.Machine (fld)

/-! What the encoder writes is read back. -/

/-- Every instruction is read back from its bytes: the induction over `Instr`, whose cases are the lemmas named after the constructors, in their order; the last group,
from `dxrunReadPhase` on, are the events, which have no bytes. -/
theorem decode_encode (i : Instr) : Statement i :=
  Instr.casesOn i
    add sub and or xor andn sll srl sra ror slt sltu min max minu maxu mul mhi mhiu mhisu div divu rem remu clz ctz popc bswap sxw zxw addi andi ori xori slli srli srai
    rori slti sltiu li lih ldb ldh ldw ldd ldbu ldhu ldwu stb sth stw std vld vldh vst vsth ldp stp beq bne blt bge bltu bgeu j jal jr jalr loop loopi trap crd cwr cins
    cxch crdz gld gst put putr get aadd aand aor axor amin amax aminu amaxu aswap acas afadd send sendp sendm reply chmask chunmask chtas jdec barm bdis lwin lstat sbind
    sdrop sstat tmld tmbase tmcnt chk chke chkg vadd vsub vmul vdiv vsqrt vfma vfms vfnma vmin vmax vabs vneg vfeq vflt vfle vfclass vcvt vcvtl vcvth vcvtn vaddInt
    vsubInt vmulInt vmulh vand vor vxor vsll vsrl vsra vminInt vmaxInt vadds vsubs vabsd vmadd vceq vclt vcle vsel kand kor kxor knot vperm vbcast vrev vzipl vziph vuzpe
    vuzpo vrsum vrmin vrmax vrand vror vrxor vmovOV vmovVO vmovOport vmovPorto vmovOO vsplat vext vins kmovKG kmovGK vexp2 vlog2 vrcp vrsq vsinpi vcospi dtld vdec venc
    bld bst twld twst qclaim qtry qrel qld qput qget qlnk mma accld accldReg accst accstReg acczero mxcmd dxld dxrun abegin ajoin apitch asummit aretreat aresume astat
    imgld imgrev hset pset winw keyset lease imgev dmark wpset wpclr bpset dgrp dstat cMv cAddi cLdd cStd cBeqz cBnez cJ cAdd cSub cSlli cVmovOV cVmovVO cLi cpy end_ nop
    brk lend dstop cNop cEnd cBrk
    dxrunReadPhase dxrunWritePhase budget dispatch agePromotion messageArrival nack settleAck releaseSendLeave spill spillReturn linkWordDelivery linkCreditReturn
    remoteLoad remoteStore remotePut remotePutr remoteGet getLanding getCompletion remoteAtomic remoteJdec placementFaultRecord resumeInstall resumeRefuse plbShootdown
    shootdownAck prgResponse mmaCommandStart mmaCommandComplete ropeCommandArrival ropeCommandTimeout streamStripFetch copyKick copyCommandStart copyCompletion
    launchAccept launchWake launchVote coalesceWindowClose trapTriageHw trapTriageHost engineCompletion doubleRecord preempt timeSliceQuantum fingerprintCheckpoint
    quarantine engineSpareReplace igtRevokeRequest imgrevNotice slideRegion anchorPush anchorStamp stampReturn ascentBeginReq ascentSummitReq ascentRetreatReq
    ascentResumeReq ascentStatReq ascentLifetime anchorSend endNotice failureNotice rescueRelay collectiveCommand generationNotice fabricForward linkRetry portWithdraw
    moduleWithdraw debugStop coreStopped debugStep debugResume hostLaunch hostCall stageImage hostSlideRegion hostCollective readCounters pfCommand journalWindowWrite
    hostMemoryAccess getCertificate challenge getMeasurements keyExchange finish coldReset deviceReset vfFlr hotReset confScrubTimeout undefEncoding fetchFailure
    admission wakeFailure portRetrain fabricLinkUp ideKeyManagement recordReplayMode powerLimitWindow

/-! What was read is what the encoder writes. -/

/-- The bytes of a halfword put together from two bytes are those bytes (R45). -/
theorem halfBytes_halfOfBytes (b0 b1 : Byte) : halfBytes (halfOfBytes b0 b1) = [b0, b1] := by
  simp only [halfBytes, halfOfBytes, BitVec.setWidth_append_eq_right, BitVec.setWidth_ushiftRight_eq_extractLsb, BitVec.extractLsb'_append_eq_left]

/-- The bytes of a word are those of its upper half and then those of its lower half (R44, R45). -/
theorem bytes_joinHalves (h0 h1 : BitVec 16) : (Encoding.word (joinHalves h0 h1)).bytes = halfBytes h0 ++ halfBytes h1 := by
  simp only [Encoding.bytes, joinHalves, fld, BitVec.extractLsb'_append_eq_left, BitVec.extractLsb'_append_eq_right]

/-- A word of major opcode 0x2C is the word of the `cpy` of its fields (R48, R229). -/
theorem encode_cpy_fields {w : BitVec 32} (h : fld w 25 7 = 0x6C#7) : encode (.cpy (fld w 20 5) (fld w 15 5) (fld w 10 5) (fld w 0 10)) = .word w := by
  simp only [encode, pack32, ← h, fld, BitVec.cast_eq, BitVec.extractLsb'_append_extractLsb'_eq_extractLsb', BitVec.extractLsb'_eq_self]

/-- An instruction read from a word is well formed, and the word is its word (R56, R57). -/
theorem encode_of_decodeWord {w : BitVec 32} {i : Instr} (h : decodeWord w = .ok i) : i.wf = true ∧ encode i = .word w := by
  simp only [decodeWord, decodeParts] at h
  split at h
  next hcpy =>
    cases h
    exact ⟨rfl, encode_cpy_fields hcpy⟩
  next =>
    split at h
    next => cases h
    next x _ =>
      split_ifs at h with he hw
      all_goals cases h
      exact ⟨hw, he⟩

/-- An instruction read from a halfword is well formed, and the halfword is its halfword (R56, R57). -/
theorem encode_of_decodeHalf {x : BitVec 16} {i : Instr} (h : decodeHalf x = .ok i) : i.wf = true ∧ encode i = .half x := by
  simp only [decodeHalf] at h
  split at h
  next => cases h
  next j _ =>
    split_ifs at h with he hw
    all_goals cases h
    exact ⟨hw, he⟩

/-- A result paired with the rest of the bytes is the result of what was paired. -/
theorem ok_of_map_pair {x : Except DecodeError Instr} {i : Instr} {r rest : List Byte} (h : (x.map fun j => (j, r)) = .ok (i, rest)) : x = .ok i ∧ r = rest := by
  cases x with
  | error e => cases h
  | ok j =>
    cases h
    exact ⟨rfl, rfl⟩

/-- The bytes that are read as an instruction are those of a halfword or of a word that is read as it, and what follows them is left (R44, R45). -/
theorem decode_eq_ok {bs rest : List Byte} {i : Instr} (h : decode bs = .ok (i, rest)) :
    (∃ x, decodeHalf x = .ok i ∧ bs = (Encoding.half x).bytes ++ rest) ∨ (∃ w, decodeWord w = .ok i ∧ bs = (Encoding.word w).bytes ++ rest) := by
  match bs, h with
  | [], h => cases h
  | [_], h => cases h
  | b0 :: b1 :: tail, h =>
    simp only [decode] at h
    split_ifs at h with hl
    · match tail, h with
      | [], h => cases h
      | [_], h => cases h
      | b2 :: b3 :: _, h =>
        obtain ⟨hw, rfl⟩ := ok_of_map_pair h
        exact .inr ⟨_, hw, by rw [bytes_joinHalves, halfBytes_halfOfBytes, halfBytes_halfOfBytes]; rfl⟩
    · obtain ⟨hx, rfl⟩ := ok_of_map_pair h
      exact .inl ⟨_, hx, by rw [Encoding.bytes, halfBytes_halfOfBytes]; rfl⟩

/-- An instruction that was read is well formed and has an encoding, and its bytes are the ones that were taken (R44, R45, R56, R57). -/
theorem encode_decode {bs rest : List Byte} {i : Instr} (h : decode bs = .ok (i, rest)) : i.wf = true ∧ encode i ≠ .event ∧ bs = (encode i).bytes ++ rest := by
  rcases decode_eq_ok h with ⟨x, hx, hbs⟩ | ⟨w, hw, hbs⟩
  · obtain ⟨hwf, he⟩ := encode_of_decodeHalf hx
    exact ⟨hwf, by rw [he]; nofun, by rw [he, hbs]⟩
  · obtain ⟨hwf, he⟩ := encode_of_decodeWord hw
    exact ⟨hwf, by rw [he]; nofun, by rw [he, hbs]⟩

/-- Settles O1: the cases of `decode_encode` one way; the other way the decoder itself compares a pattern with the encoding of what it read, and `cpy` has no reserved bit. -/
theorem roundTrip : Obligations.RoundTrip :=
  ⟨decode_encode, fun _ _ _ h => encode_decode h⟩

end Sys2Proof.Laws.RoundTrip
end

section
/-! PROOFS. Vector conversions (R69, R108). -/

namespace Sys2Proof.Safety

open Sys2Proof.Machine

section Cvt

variable {st t : TypeCode} {mode : Nat}

/-- An integer lane converts by one rounding of its integer (R69). -/
theorem cvt_of_int (h : isFloat st = false) (x : Strip) (i : Nat) :
    cvt t st mode (lane (laneWidth st) x i) = (fmtOf t).round (dyOfInt (intLane st x i)) mode := by
  rw [intLane_eq_intOf, intOf_cond st (lane_lt ..)]
  simp only [cvt, h, Bool.false_eq_true, if_false]

/-- A floating lane converts to a floating type by RoundTo of its value (R66, R108). -/
theorem cvt_float_to_float (hs : isFloat st = true) (ht : isFloat t = true) (n : Nat) : cvt t st mode n = ((fmtOf st).decode n).exact.to (fmtOf t) mode := by
  simp only [cvt, hs, ht, if_true]

/-- A floating lane converts to an integer type by R69, RTO as RTZ. -/
theorem cvt_float_to_int (hs : isFloat st = true) (ht : isFloat t = false) (n : Nat) :
    cvt t st mode n = (wrapLane (laneWidth t) (numToInt (if mode = 5 then 1 else mode) ((fmtOf st).decode n) (intLo t) (intHi t)).1,
      (numToInt (if mode = 5 then 1 else mode) ((fmtOf st).decode n) (intLo t) (intHi t)).2) := by
  simp only [cvt, hs, ht, if_true, Bool.false_eq_true, if_false, intRange_eq]

/-- A finite value outside the range takes its end with NV, else it is inexact where the rounding was (R69). -/
theorem wrapLane_numToInt_fin (w : Nat) (d : Dy) (lo hi : Int) : (wrapLane w (numToInt mode (.fin d) lo hi).1, (numToInt mode (.fin d) lo hi).2) =
    let r := roundGrid mode d.neg d.m d.e 0
    let n : Int := if d.neg then -(r.1 : Int) else r.1
    if n < lo then ((lo % 2 ^ w).toNat, fNV) else if hi < n then ((hi % 2 ^ w).toNat, fNV) else ((n % 2 ^ w).toNat, if r.2 then 0 else fNX) := by
  dsimp only [numToInt]
  generalize (if d.neg then -((roundGrid mode d.neg d.m d.e 0).1 : Int) else (roundGrid mode d.neg d.m d.e 0).1) = n
  split
  · rfl
  · split
    · rfl
    · cases (roundGrid mode d.neg d.m d.e 0).2 <;> rfl

end Cvt

/-- An element-wise instruction on lanes that are each another's (R100). -/
theorem vec_spec_of_eq {i : Instr} {t : TypeCode} {d : BitVec 3} {k : BitVec 2} {src : List (BitVec 3 × BitVec 1)} {f g : Nat → Nat × BitVec 6} {s : State}
    (h : exec i s = finish 4 s (.ok (s.vec d (laneWidth t) (laneCount t) k src f))) (hfg : ∀ j, g j = f j) : VecDoes i t d k src g s := by
  rw [funext hfg]
  exact vec_spec i t d k src f s h

/-- Settles O26: each conversion is an element-wise instruction, and a lane's conversion goes by the kinds of its two types. -/
theorem conversions : Obligations.Conversions := by
  intro s d a b k l m st t _ _ _ w mode lo hi conv
  have hconv (x : Strip) (i : Nat) : cvt t st mode (lane w x i) = conv x i := by
    by_cases hs : isFloat st = true
    · simp only [conv, hs, Bool.true_eq_false, if_false]
      by_cases ht : isFloat t = true
      · rw [cvt_float_to_float hs ht]
        cases (fmtOf st).decode (lane w x i) <;> simp [ht, Machine.Num.exact, Exact.to, flagIf]
      · rw [cvt_float_to_int hs (by simpa using ht)]
        cases (fmtOf st).decode (lane w x i) with
        | nan q => simp [ht, numToInt, wrapLane]
        | inf neg => simp only [ht, numToInt, wrapLane]; rfl
        | fin v => exact (wrapLane_numToInt_fin _ v _ _).trans (if_neg ht).symm
    · exact (cvt_of_int (by simpa using hs) x i).trans (if_pos (by simpa using hs)).symm
  refine ⟨?_, ?_, ?_, ?_⟩
  · exact vec_spec_of_eq rfl fun j => by rw [Nat.zero_add, ← hconv]
  · exact vec_spec_of_eq rfl fun j => by rw [Nat.zero_add, ← hconv]
  · exact vec_spec_of_eq rfl fun j => (hconv ..).symm
  · refine vec_spec_of_eq rfl fun j => ?_
    split
    · exact (hconv ..).symm
    · exact (hconv ..).symm

end Sys2Proof.Safety
end

section
/-! PROOFS. Matrix and rope commands executed (R77, R123, R128, R133 to R135, R191). -/

namespace Sys2Proof.Safety

open Sys2Proof.Machine

/-! Fields of one width in a row of bytes (R2). -/

theorem leNat_leBytes_eq_mod (n x : Nat) : leNat (leBytes n x) = x % 256 ^ n := by
  induction n generalizing x with
  | zero => rw [Nat.pow_zero, Nat.mod_one, leBytes, leNat]
  | succ n ih =>
    rw [leBytes, leNat, ih, BitVec.toNat_ofNat, pow_succ' 256 n]
    exact (Nat.mod_mul ..).symm

/-- Byte `k` of field `x`, where every field has `w` bytes. -/
theorem getD_flatMap_of_length {α : Type} {f : α → List Byte} {w k : Nat} (hf : ∀ r, (f r).length = w) (hk : k < w) (rs : List α) {x : Nat} (hx : x < rs.length) :
    (rs.flatMap f).getD (w * x + k) 0 = (f rs[x]).getD k 0 := by
  induction rs generalizing x with
  | nil => exact absurd hx (Nat.not_lt_zero x)
  | cons r rs ih =>
    rw [List.flatMap_cons]
    cases x with
    | zero => rw [Nat.mul_zero, Nat.zero_add, List.getD_append _ _ _ _ (by rwa [hf]), List.getElem_cons_zero]
    | succ x =>
      rw [List.getD_append_right _ _ _ _ (by rw [hf, Nat.mul_succ]; omega), hf, show w * (x + 1) + k - w = w * x + k by rw [Nat.mul_succ]; omega,
        ih (Nat.lt_of_succ_lt_succ hx), List.getElem_cons_succ]

theorem length_flatMap_of_length {α : Type} {f : α → List Byte} {w : Nat} (hf : ∀ r, (f r).length = w) (rs : List α) : (rs.flatMap f).length = w * rs.length := by
  induction rs with
  | nil => rfl
  | cons r rs ih => rw [List.flatMap_cons, List.length_append, hf, ih, List.length_cons, Nat.mul_succ, Nat.add_comm]

/-- A field of a memory that is made of fields. -/
theorem memNat_memOf_fields {α : Type} (w : Nat) (v : α → Nat) (rs : List α) {x : Nat} (hx : x < rs.length) :
    memNat (memOf 0 (rs.flatMap fun r => leBytes w (v r))) (w * x) w = v rs[x] % 256 ^ w := by
  have hlen (r : α) : (leBytes w (v r)).length = w := leBytes_length ..
  rw [memNat, ← leNat_leBytes_eq_mod w (v rs[x])]
  refine congrArg leNat (List.ext_getElem (by rw [memRead_length, leBytes_length]) fun k h1 h2 => ?_)
  rw [memRead_length] at h1
  have hin : w * x + k < w * rs.length :=
    calc w * x + k < w * (x + 1) := by rw [Nat.mul_succ]; omega
      _ ≤ w * rs.length := Nat.mul_le_mul_left w hx
  rw [← List.getD_eq_getElem _ 0, ← List.getD_eq_getElem _ 0, memRead_getD _ _ _ _ h1, memByte_memOf, length_flatMap_of_length hlen,
    if_pos ⟨Nat.zero_le _, by rwa [Nat.zero_add]⟩, Nat.sub_zero, getD_flatMap_of_length hlen h1 rs hx]

/-! The result of a command (R77, R133). -/

/-- Bytes of an accumulator element of a command (R122). -/
def mxWidth (c : MxCmd) : Nat := if c.fmt = 1 then 8 else 4

/-- Columns of a bank in a command's format (R122). -/
def mxCols (c : MxCmd) : Nat := if c.fmt = 1 then 64 else 128

/-- The element of row i and column j that a command leaves in a bank, with the flags of its roundings: the sum of R77 from what the bank held. -/
def mxElem (c : MxCmd) (qa qb sa sb bank : Memory) (j0 i j : Nat) : Nat × BitVec 6 :=
  (mxTerms c qa qb sa sb i (j0 + j)).foldl (mxStep c.accFmt) (memNat bank (mxWidth c * (mxCols c * i + j)) (mxWidth c), 0)

section Bank

variable (c : MxCmd) (qa qb sa sb bank : Memory) (j0 : Nat)

/-- The elements of a command's result, row by row. -/
def mxElems : List (Nat × BitVec 6) :=
  (List.range (128 * mxCols c)).map fun x => (mxTerms c qa qb sa sb (x / mxCols c) (j0 + x % mxCols c)).foldl (mxStep c.accFmt) (memNat bank (mxWidth c * x) (mxWidth c), 0)

theorem mxBank_eq : mxBank c qa qb sa sb bank j0 =
    ((mxElems c qa qb sa sb bank j0).flatMap fun r => leBytes (mxWidth c) r.1, orFlags ((mxElems c qa qb sa sb bank j0).map (·.2))) := rfl

theorem length_mxElems : (mxElems c qa qb sa sb bank j0).length = 128 * mxCols c := by rw [mxElems, List.length_map, List.length_range]

variable {c qa qb sa sb bank j0}

theorem place_lt {i j : Nat} (hi : i < 128) (hj : j < mxCols c) : mxCols c * i + j < 128 * mxCols c :=
  calc mxCols c * i + j < mxCols c * (i + 1) := by rw [Nat.mul_succ]; omega
    _ ≤ mxCols c * 128 := Nat.mul_le_mul_left _ hi
    _ = 128 * mxCols c := Nat.mul_comm ..

theorem mxElems_getElem {i j : Nat} (hj : j < mxCols c) (h : mxCols c * i + j < (mxElems c qa qb sa sb bank j0).length) :
    (mxElems c qa qb sa sb bank j0)[mxCols c * i + j] = mxElem c qa qb sa sb bank j0 i j := by
  have hpos : 0 < mxCols c := by omega
  have hdiv : (mxCols c * i + j) / mxCols c = i := by rw [Nat.mul_add_div hpos, Nat.div_eq_of_lt hj, Nat.add_zero]
  have hmod : (mxCols c * i + j) % mxCols c = j := by rw [Nat.mul_add_mod, Nat.mod_eq_of_lt hj]
  simp only [mxElems, List.getElem_map, List.getElem_range, hdiv, hmod]
  rfl

/-- Every element of a bank after a command. -/
theorem memNat_mxBank {i j : Nat} (hi : i < 128) (hj : j < mxCols c) :
    memNat (memOf 0 (mxBank c qa qb sa sb bank j0).1) (mxWidth c * (mxCols c * i + j)) (mxWidth c) = (mxElem c qa qb sa sb bank j0 i j).1 % 2 ^ (8 * mxWidth c) := by
  have hx := (place_lt hi hj).trans_eq (length_mxElems c qa qb sa sb bank j0).symm
  rw [mxBank_eq, memNat_memOf_fields _ _ _ hx, mxElems_getElem hj, Nat.pow_mul]

/-- The matrix flags of a bank are those of its elements (R128). -/
theorem getLsbD_matrixFlags_mxBank {b : Nat} (hb : b < 4) :
    (matrixFlags (mxBank c qa qb sa sb bank j0).2).getLsbD b = true ↔ ∃ i j, i < 128 ∧ j < mxCols c ∧ (mxElem c qa qb sa sb bank j0 i j).2.getLsbD (b + 2) = true := by
  have hl := length_mxElems c qa qb sa sb bank j0
  rw [matrixFlags, fld, BitVec.getLsbD_extractLsb', decide_eq_true hb, Bool.true_and, Nat.add_comm 2 b, mxBank_eq, orFlags_bit, List.any_map, List.any_eq_true]
  constructor
  · rintro ⟨r, hr, hf⟩
    obtain ⟨x, hx, rfl⟩ := List.mem_iff_getElem.mp hr
    have hpos : 0 < mxCols c := by unfold mxCols; split <;> decide
    have hj := Nat.mod_lt x hpos
    have hi : x / mxCols c < 128 := by rw [Nat.div_lt_iff_lt_mul hpos, ← hl]; exact hx
    refine ⟨x / mxCols c, x % mxCols c, hi, hj, ?_⟩
    rw [← mxElems_getElem hj (by rwa [Nat.div_add_mod])]
    simpa only [Nat.div_add_mod, Function.comp_apply] using hf
  · rintro ⟨i, j, hi, hj, hf⟩
    have hx := (place_lt hi hj).trans_eq hl.symm
    exact ⟨_, List.getElem_mem hx, by rwa [Function.comp_apply, mxElems_getElem hj]⟩

end Bank

/-! The end of a command (R128, R135). -/

/-- The completion word as a number. -/
theorem mxWord_eq (stat : BitVec 8) (fl : BitVec 4) (bank : BitVec 2) : mxWord stat fl bank = BitVec.ofNat 64 (stat.toNat * 65536 + fl.toNat * 256 + bank.toNat) := by
  have hs := stat.isLt
  have hf := fl.isLt
  have hb := bank.isLt
  refine BitVec.eq_of_toNat_eq ?_
  have h1 : (fl.setWidth 64 <<< 8 ||| bank.setWidth 64).toNat = fl.toNat * 256 + bank.toNat := by
    rw [BitVec.toNat_or, BitVec.toNat_shiftLeft, BitVec.toNat_setWidth_of_le (by decide), BitVec.toNat_setWidth_of_le (by decide), Nat.shiftLeft_eq, Nat.mod_eq_of_lt (by omega),
      ← Nat.shiftLeft_eq, ← Nat.shiftLeft_add_eq_or_of_lt (by omega), Nat.shiftLeft_eq]
  rw [mxWord, BitVec.or_assoc, BitVec.toNat_or, h1, BitVec.toNat_shiftLeft, BitVec.toNat_setWidth_of_le (by decide), Nat.shiftLeft_eq, Nat.mod_eq_of_lt (by omega), ← Nat.shiftLeft_eq,
    ← Nat.shiftLeft_add_eq_or_of_lt (by omega), Nat.shiftLeft_eq, BitVec.toNat_ofNat, Nat.mod_eq_of_lt (by omega), Nat.add_assoc]

/-- A command at the head of the queue leaves it, with its message. -/
theorem mxDone_eq {t : State} {c : MxCmd} {rest : List MxCmd} (h : t.here.mx.queue = c :: rest) (stat : BitVec 8) (fl : BitVec 4) :
    t.mxDone c stat fl =
      if c.ch = 0 then t.modMx fun m => { (if c.locked then m.unlock c.slots else m) with queue := rest }
      else (t.modMx fun m => { (if c.locked then m.unlock c.slots else m) with queue := rest }).sendOwn t.at_ 2 c.ch c.cid
        [flit4 (BitVec.ofNat 64 (stat.toNat * 65536 + fl.toNat * 256 + c.bank.toNat)) 0 0 0] := by
  have hq : t.modMx (fun m => { (if c.locked then m.unlock c.slots else m) with queue := m.queue.drop 1 }) =
      t.modMx fun m => { (if c.locked then m.unlock c.slots else m) with queue := rest } := modMx_congr (by rw [h]; rfl)
  unfold State.mxDone
  rw [hq, mxWord_eq]
  rfl

theorem unlock_acc_mflg (m : Machine.Matrix) (qs : List (BitVec 3)) : ((m.unlock qs).acc, (m.unlock qs).mflg) = (m.acc, m.mflg) := by
  unfold Machine.Matrix.unlock
  refine foldl_keeps (fun m : Machine.Matrix => (m.acc, m.mflg)) (fun _ _ => ?_) _ _
  rfl

@[simp] theorem State.sendOwn_mx (s : State) (d : CoreAddr) (kind : BitVec 2) (ch : BitVec 8) (cid : BitVec 16) (pay : List Strip) : (s.sendOwn d kind ch cid pay).here.mx = s.here.mx :=
  State.leaveOwn_mx ..

/-- A command that leaves the queue leaves the banks and `mflg` as they are. -/
theorem mxDone_keeps {t : State} {c : MxCmd} {rest : List MxCmd} (h : t.here.mx.queue = c :: rest) (stat : BitVec 8) (fl : BitVec 4) :
    (t.mxDone c stat fl).here.mx.acc = t.here.mx.acc ∧ (t.mxDone c stat fl).here.mx.mflg = t.here.mx.mflg ∧ (t.mxDone c stat fl).here.mx.queue = rest := by
  have hm : (t.mxDone c stat fl).here.mx = { (if c.locked then t.here.mx.unlock c.slots else t.here.mx) with queue := rest } := by
    rw [mxDone_eq h]
    split
    · rfl
    · exact State.sendOwn_mx ..
  obtain ⟨hacc, hmflg⟩ := Prod.mk.inj (unlock_acc_mflg t.here.mx c.slots)
  rw [hm]
  refine ⟨?_, ?_, rfl⟩
  · dsimp only
    split
    · exact hacc
    · rfl
  · dsimp only
    split
    · exact hmflg
    · rfl

/-! The events at the head of the queue. -/

section Head

variable {s : State} {c : MxCmd} {rest : List MxCmd} (h : s.here.mx.queue = c :: rest)

include h

theorem mmaCommandStart_of_ready (hs : c.started = false) (hr : s.mxReady c = true) :
    exec .mmaCommandStart s = .next (s.modMx fun m => { (if c.locked then m else m.lock c.slots) with queue := { c with locked := true, started := true } :: rest }) := by
  show execMmaCommandStart s = _
  simp only [execMmaCommandStart, h, hs, hr, Bool.not_false, Bool.and_self, if_true]

theorem mmaCommandStart_of_not (hn : c.started = true ∨ s.mxReady c = false) : exec .mmaCommandStart s = .next s := by
  show execMmaCommandStart s = _
  have : ¬ (!c.started && s.mxReady c) = true := by rcases hn with hn | hn <;> simp [hn]
  simp only [execMmaCommandStart, h, if_neg this]

theorem mmaCommandComplete_of_not_started (hs : c.started = false) : exec .mmaCommandComplete s = .next s := by
  show execMmaCommandComplete s = _
  simp only [execMmaCommandComplete, h, hs, Bool.not_false, if_true]

theorem mmaCommandComplete_of_bad (hs : c.started = true) (hb : s.mxBad c = true) :
    exec .mmaCommandComplete s = .next (((s.modCtr fun k => { k with uncorrected := k.uncorrected + 1 }).faultRecord 4 0 c.cid 0 0 0).mxDone c 0x13 0) := by
  show execMmaCommandComplete s = _
  simp only [execMmaCommandComplete, h, hs, hb, Bool.not_true, Bool.false_eq_true, if_false, if_true]

theorem mmaCommandComplete_of_good (hs : c.started = true) (hb : s.mxBad c = false) : exec .mmaCommandComplete s = .next ((s.mxResult c).1.mxDone c 0 (s.mxResult c).2) := by
  show execMmaCommandComplete s = _
  simp only [execMmaCommandComplete, h, hs, hb, Bool.not_true, Bool.false_eq_true, if_false]

theorem ropeCommandTimeout_of_due (hs : c.started = false) (hr : s.mxReady c = false) (ht : 1048576 ≤ (s.time - c.arrived).toNat) :
    exec .ropeCommandTimeout s = .next (s.mxDone c 0x0D 0) := by
  show execRopeCommandTimeout s = _
  simp only [execRopeCommandTimeout, h, hs, hr, ht, Bool.not_false, Bool.and_self, decide_true, if_true]

theorem ropeCommandTimeout_of_not (hn : c.started = true ∨ s.mxReady c = true ∨ (s.time - c.arrived).toNat < 1048576) : exec .ropeCommandTimeout s = .next s := by
  show execRopeCommandTimeout s = _
  have : ¬ (!c.started && !s.mxReady c && decide (1048576 ≤ (s.time - c.arrived).toNat)) = true := by
    rcases hn with hn | hn | hn
    · simp [hn]
    · simp [hn]
    · rw [decide_eq_false (Nat.not_le.mpr hn), Bool.and_false]
      exact Bool.false_ne_true
  simp only [execRopeCommandTimeout, h, if_neg this]

end Head

/-- A command without its locks is ready once every slot it reads is LOADED (R135). -/
theorem mxReady_unlocked {s : State} {c : MxCmd} (hl : c.locked = false) : s.mxReady c = true ↔ ∀ q ∈ c.slots, (s.q q).st = .loaded := by
  simp only [State.mxReady, hl, Bool.false_or, List.all_eq_true, beq_iff_eq]

theorem mxReady_locked {s : State} {c : MxCmd} (hl : c.locked = true) : s.mxReady c = true := by
  simp only [State.mxReady, hl, Bool.true_or]

/-- The bytes and flags of a command's result in a bank, from its slots as they stand. -/
def newBank (s : State) (c : MxCmd) (bank : Memory) (j0 : Nat) : List Byte × BitVec 6 :=
  let q := s.here.mx.q
  mxBank c q[c.qa.toNat].arr q[c.qb.toNat].arr q[(scaleSlot c.scla c.qa).toNat].arr q[(scaleSlot c.sclb c.qb).toNat].arr bank j0

/-- The result of a command in one bank. -/
theorem mxResult_of_one {s : State} {c : MxCmd} (hb : c.bank.toNat < 2) :
    let r := newBank s c (s.here.mx.acc.toList.getD c.bank.toNat []) (if c.hi then 64 else 0)
    s.mxResult c = (s.modMx fun m => { m with acc := m.acc.setIfInBounds c.bank.toNat (memOf 0 r.1), mflg := m.mflg ||| ((matrixFlags r.2).setWidth 8 <<< (4 * c.bank.toNat)) },
      matrixFlags r.2) := by
  have h2 : c.bank ≠ 2 := fun e => absurd (e ▸ hb) (by decide)
  simp only [State.mxResult, if_neg h2, Nat.mod_eq_of_lt hb, newBank]

/-- The result of a command in both banks. -/
theorem mxResult_of_both {s : State} {c : MxCmd} (hb : c.bank = 2) :
    let r0 := newBank s c s.here.mx.acc[0] 0
    let r1 := newBank s c s.here.mx.acc[1] 64
    s.mxResult c = (s.modMx fun m => { m with acc := #v[memOf 0 r0.1, memOf 0 r1.1], mflg := m.mflg ||| (matrixFlags r1.2 ++ matrixFlags r0.2) }, matrixFlags r0.2 ||| matrixFlags r1.2) :=
  if_pos hb

/-! Copies of rope commands (R135, R191). -/

theorem ropeRefuses_iff (t : State) (m : Msg) (c : MxCmd) : t.ropeRefuses m c = true ↔
    t.here.mx.rope.getLsbD 0 = false ∨ (m.dw 0).extractLsb' 32 6 ≠ BitVec.ofNat 6 (ropeW t.here.mx.rope + 8 * ropeH t.here.mx.rope) ∨
      t.here.regs.mcap.getLsbD c.fmt.toNat = false ∨ t.here.regs.mcap.getLsbD 8 = false ∨ m.ten ≠ t.here.regs.lessee ∨
      xOf t.at_ ≠ xOf m.src + (t.here.mx.rope.extractLsb' 13 3).toNat ∨ yOf t.at_ ≠ yOf m.src + (t.here.mx.rope.extractLsb' 10 3).toNat := by
  simp only [State.ropeRefuses, bit, fld, Bool.or_eq_true, bne_iff_ne, Bool.not_eq_true', or_assoc, ne_eq]

theorem ropeArrive_of_refused {t : State} {m : Msg} (h : t.ropeRefuses m (t.ropeCommand m) = true) : t.ropeArrive m =
    if (t.ropeCommand m).ch = 0 then t.settle m
    else (t.settle m).sendOwn t.at_ kReply (t.ropeCommand m).ch (t.ropeCommand m).cid [flit4 (mxWord 0x0E 0 (t.ropeCommand m).bank) 0 0 0] := if_pos h

theorem ropeArrive_of_taken {t : State} {m : Msg} (h : ¬ t.ropeRefuses m (t.ropeCommand m) = true) : t.ropeArrive m =
    (t.mxEnqueue { t.ropeCommand m with locked := (t.ropeCommand m).slots.all fun q => (t.q q).st == .loaded }).settle m := if_neg h

/-- A copy that a member takes is performed on the machine after the ingress. -/
theorem ropeCommandArrival_of_takes {s : State} {m : Msg} {t : State} (h : TakesRouted s m t) (hi : s.eventFor m = .ropeCommandArrival) (hq : s.here.mx.queue.length < 4) :
    Comes .ropeCommandArrival s (t.ropeArrive m) := by
  have ht := Laws.takes_of_takes h.1 hi (p := fun _ => decide (s.here.mx.queue.length < 4)) (decide_eq_true hq) fun m t => t.routeThen m fun u => u.ropeArrive m
  exact congrArg Host.Outcome.next (ht.trans (Laws.routeThen_of_routed h.2 _))

/-- The fields of the instruction word that a copy carries. -/
theorem ropeCommand_of_mxcmd {t : State} {m : Msg} {a b : BitVec 3} {k : BitVec 2} {h : BitVec 1} {ch : BitVec 8}
    (hd : decodeParts ((m.dw 0).extractLsb' 0 32) = .ok (.insn (.mxcmd a b k h ch))) :
    (t.ropeCommand m).qa = a ∧ (t.ropeCommand m).qb = b ∧ (t.ropeCommand m).bank = k ∧ (t.ropeCommand m).ch = ch ∧ (t.ropeCommand m).cid = m.cid ∧
      (t.ropeCommand m).fmt = (m.dw 1).extractLsb' 0 4 ∧ (t.ropeCommand m).scla = (m.dw 2).extractLsb' 0 13 ∧ (t.ropeCommand m).sclb = (m.dw 3).extractLsb' 0 13 := by
  simp only [State.ropeCommand, fld, hd, and_self]

/-- Settles O36: each event by what the head of the queue is; a completed command by the elements of its banks; a copy by the checks of its member. -/
theorem matrixExecution : Obligations.MatrixExecution := by
  refine ⟨⟨fun s h => ⟨?_, ?_, ?_⟩, fun s c rest h => ?_⟩, fun s m t ht hi hq => ?_⟩
  · show execMmaCommandStart s = _
    simp only [execMmaCommandStart, h]
  · show execMmaCommandComplete s = _
    simp only [execMmaCommandComplete, h]
  · show execRopeCommandTimeout s = _
    simp only [execRopeCommandTimeout, h]
  · intro m gone w cols elem flags holds
    have helem (b : Memory) (j0 i j : Nat) : elem b j0 i j =
        mxElem c m.q[c.qa.toNat].arr m.q[c.qb.toNat].arr m.q[(scaleSlot c.scla c.qa).toNat].arr m.q[(scaleSlot c.sclb c.qb).toNat].arr b j0 i j := by
      refine congrArg (fun f => List.foldl f _ _) (funext fun x => funext fun step => ?_)
      cases step <;> rfl
    have hdone {t : State} (hq : t.here.mx.queue = c :: rest) (ha : t.at_ = s.at_) (stat : BitVec 8) (fl : BitVec 4) : t.mxDone c stat fl = gone t stat.toNat fl := by
      rw [mxDone_eq hq, ha]
    have hholds (b : Memory) (j0 : Nat) : holds b (memOf 0 (newBank s c b j0).1) j0 := fun i j hi hj => (memNat_mxBank hi hj).trans (by rw [helem]; rfl)
    have hflags (b : Memory) (j0 : Nat) : flags b j0 (matrixFlags (newBank s c b j0).2) := fun x hx => (getLsbD_matrixFlags_mxBank hx).trans (by simp only [helem]; rfl)
    refine ⟨fun hs hl => ?_, fun hs hl hr => ?_, fun hn => ?_, fun hs => ?_, fun hs hb => ?_, fun hs hb hk => ?_, fun hs hb hk => ?_, fun hs hr hd => ?_, fun hn => ?_⟩
    · rw [mmaCommandStart_of_ready h hs (mxReady_locked hl), hl]
      refine congrArg Host.Outcome.next (modMx_congr ?_)
      obtain ⟨⟩ := c
      subst hl
      rfl
    · rw [mmaCommandStart_of_ready h hs ((mxReady_unlocked hl).mpr hr), hl]
      rfl
    · refine mmaCommandStart_of_not h (hn.imp_right fun ⟨hl, q, hq, hne⟩ => ?_)
      exact Bool.eq_false_iff.mpr fun hr => hne ((mxReady_unlocked hl).mp hr q hq)
    · exact mmaCommandComplete_of_not_started h hs
    · have hm : ((s.modCtr fun k => { k with uncorrected := k.uncorrected + 1 }).faultRecord 4 0 c.cid 0 0 0).here.mx = s.here.mx := State.sendOwn_mx ..
      obtain ⟨h1, h2, h3⟩ := mxDone_keeps (by rw [hm]; exact h) 0x13 0
      exact ⟨_, mmaCommandComplete_of_bad h hs hb, h1.trans (by rw [hm]), h2.trans (by rw [hm]), h3⟩
    · refine ⟨_, _, (mmaCommandComplete_of_good h hs hb).trans (congrArg Host.Outcome.next ?_), hholds _ _, hflags _ _⟩
      rw [mxResult_of_one hk]
      refine hdone ?_ ?_ 0 _
      · exact h
      · rfl
    · refine ⟨_, _, _, _, (mmaCommandComplete_of_good h hs hb).trans (congrArg Host.Outcome.next ?_), hholds _ _, hflags _ _, hholds _ _, hflags _ _⟩
      rw [mxResult_of_both hk]
      refine hdone ?_ ?_ 0 _
      · exact h
      · rfl
    · exact (ropeCommandTimeout_of_due h hs hr hd).trans (congrArg Host.Outcome.next (hdone h rfl 0x0D 0))
    · exact ropeCommandTimeout_of_not h hn
  · intro r c refused
    have hcomes := ropeCommandArrival_of_takes ht hi hq
    have href : t.ropeRefuses m c = true ↔ refused := ropeRefuses_iff t m c
    refine ⟨fun hr hc => ?_, fun hr hc => ?_, fun hr => ?_, fun a b k h ch hd => ropeCommand_of_mxcmd hd⟩
    · rwa [ropeArrive_of_refused (href.mpr hr), if_pos hc] at hcomes
    · rwa [ropeArrive_of_refused (href.mpr hr), if_neg hc] at hcomes
    · rw [ropeArrive_of_taken (mt href.mp hr)] at hcomes
      exact ⟨_, by simp only [List.all_eq_true, beq_iff_eq]; rfl, hcomes⟩

end Sys2Proof.Safety
end

section
/-! PROOFS. The finite values of a format (R61, R62) and the patterns that hold them. -/

namespace Sys2Proof.Safety

open Sys2Proof.Machine

/-- The exponent of a format's least subnormal (R62). -/
def leastExp (f : Fmt) : Int := 1 - (f.bias : Int) - f.p

section Values

variable {f : Fmt}

theorem bias_double (h : FmtOk f) : 2 ^ f.ew - 1 = 2 * f.bias + 1 := by
  have := two_bias h.ew
  omega

/-- A magnitude below those of the infinities, behind a sign: its fields (R62). -/
theorem fields_of_magnitude (neg : Bool) {n : Nat} (hn : n < 2 ^ (f.p + f.ew)) :
    (f.signBit neg + n) % 2 ^ f.p = n % 2 ^ f.p ∧ (f.signBit neg + n) / 2 ^ f.p % 2 ^ f.ew = n / 2 ^ f.p ∧ ((f.signBit neg + n) / 2 ^ (f.p + f.ew) % 2 == 1) = neg := by
  have hp := Nat.two_pow_pos f.p
  have hlt : n / 2 ^ f.p < 2 ^ f.ew := by rwa [Nat.div_lt_iff_lt_mul hp, Nat.mul_comm, ← Nat.pow_add]
  cases neg with
  | false => simp [Fmt.signBit, Nat.mod_eq_of_lt hlt, Nat.div_eq_of_lt hn]
  | true =>
    have hs : f.signBit true = 2 ^ f.p * 2 ^ f.ew := Nat.pow_add ..
    refine ⟨?_, ?_, ?_⟩
    · rw [hs, Nat.mul_add_mod]
    · rw [hs, Nat.mul_add_div hp, Nat.add_mod_left, Nat.mod_eq_of_lt hlt]
    · rw [show f.signBit true = 2 ^ (f.p + f.ew) * 1 from (Nat.mul_one _).symm, Nat.mul_add_div (Nat.two_pow_pos _), Nat.div_eq_of_lt hn]
      rfl

/-- The pattern of the magnitude q · 2^(least + j), where q is normal or the magnitude subnormal (R62). -/
theorem decode_magnitude (h : FmtOk f) (neg : Bool) {j q : Nat} (hq : q < 2 ^ (f.p + 1)) (hn : 2 ^ f.p ≤ q ∨ j = 0) (hr : j * 2 ^ f.p + q < (2 ^ f.ew - 1) * 2 ^ f.p) :
    f.decode (f.signBit neg + (j * 2 ^ f.p + q)) = .fin { neg := neg, m := q, e := leastExp f + j } := by
  have hp := Nat.two_pow_pos f.p
  have hb := bias_double h
  have hlt : j * 2 ^ f.p + q < 2 ^ (f.p + f.ew) := hr.trans_le (by rw [Nat.add_comm, Nat.pow_add]; exact Nat.mul_le_mul_right _ (Nat.sub_le ..))
  obtain ⟨hfrac, hex, hneg⟩ := fields_of_magnitude neg hlt
  have hdiv : (j * 2 ^ f.p + q) / 2 ^ f.p < 2 ^ f.ew - 1 := (Nat.div_lt_iff_lt_mul hp).mpr hr
  unfold Fmt.decode
  dsimp only
  rw [hfrac, hex, hneg, if_neg hdiv.ne]
  rw [Nat.pow_succ] at hq
  rcases Nat.lt_or_ge q (2 ^ f.p) with hsub | hnorm
  · obtain rfl : j = 0 := hn.resolve_left (Nat.not_le.mpr hsub)
    rw [Nat.zero_mul, Nat.zero_add, Nat.div_eq_of_lt hsub, Nat.mod_eq_of_lt hsub, if_pos rfl]
    simp [leastExp]
  · obtain ⟨c, rfl⟩ := Nat.exists_eq_add_of_le hnorm
    have hc : c < 2 ^ f.p := by omega
    rw [show j * 2 ^ f.p + (2 ^ f.p + c) = 2 ^ f.p * (j + 1) + c by ring, Nat.mul_add_div hp, Nat.mul_add_mod, Nat.div_eq_of_lt hc, Nat.mod_eq_of_lt hc, Nat.add_zero,
      if_neg (Nat.succ_ne_zero j)]
    simp only [leastExp, Num.fin.injEq, Dy.mk.injEq, true_and]
    push_cast
    ring

/-- Every finite value has a significand of p + 1 bits at an exponent of the format, and a full one above the least exponent (R62). -/
theorem decode_fin (h : FmtOk f) {n : Nat} {d : Dy} (hd : f.decode n = .fin d) :
    ∃ j : Nat, d.e = leastExp f + j ∧ j < 2 * f.bias ∧ d.m < 2 ^ (f.p + 1) ∧ (2 ^ f.p ≤ d.m ∨ j = 0) := by
  have hb := bias_double h
  have hbias := one_le_bias h.ew
  have hfrac := Nat.mod_lt n (Nat.two_pow_pos f.p)
  have hex := Nat.mod_lt (n / 2 ^ f.p) (Nat.two_pow_pos f.ew)
  have hpow := Nat.pow_succ 2 f.p
  unfold Fmt.decode at hd
  dsimp only at hd
  split at hd
  · split at hd
    · cases hd
    · cases hd
  · split at hd
    · cases hd
      exact ⟨0, by simp [leastExp], by omega, by dsimp only; omega, .inr rfl⟩
    · cases hd
      refine ⟨n / 2 ^ f.p % 2 ^ f.ew - 1, ?_, by omega, by dsimp only; omega, .inl (Nat.le_add_right ..)⟩
      simp only [leastExp]
      omega

theorem decode_infBits (neg : Bool) : f.decode (f.infBits neg) = .inf neg := by
  have hpos := Nat.two_pow_pos f.ew
  have hp := Nat.two_pow_pos f.p
  obtain ⟨hfrac, hex, hneg⟩ := fields_of_magnitude (f := f) neg (n := (2 ^ f.ew - 1) * 2 ^ f.p) (by
    rw [Nat.add_comm f.p, Nat.pow_add]
    exact Nat.mul_lt_mul_of_pos_right (by omega) hp)
  unfold Fmt.decode Fmt.infBits
  dsimp only
  rw [hfrac, hex, hneg, Nat.mul_div_cancel _ hp, Nat.mul_mod_left, if_pos rfl, if_pos rfl]

/-! Patterns as `pack` makes them. -/

theorem bitLen_eq {q k : Nat} (h1 : 2 ^ k ≤ q) (h2 : q < 2 ^ (k + 1)) : bitLen q = k + 1 :=
  Nat.le_antisymm (bitLen_le_of_lt h2) (lt_bitLen_of_le h1)

theorem bitLen_two_pow (k : Nat) : bitLen (2 ^ k) = k + 1 := bitLen_eq le_rfl (Nat.pow_lt_pow_right (by decide) (Nat.lt_succ_self k))

/-- A significand of p + 1 bits, or the carry out of it, at an exponent of the format: its pattern counts on from the least one. -/
theorem pack_eq (neg : Bool) {q : Nat} {g : Int} (hg : leastExp f ≤ g) (hq : q ≤ 2 ^ (f.p + 1)) (hn : 2 ^ f.p ≤ q ∨ g = leastExp f) :
    f.pack neg q g = f.signBit neg + ((g - leastExp f).toNat * 2 ^ f.p + q) := by
  have hp := Nat.two_pow_pos f.p
  obtain ⟨j, rfl⟩ : ∃ j : Nat, g = leastExp f + j := ⟨(g - leastExp f).toNat, by omega⟩
  rw [show (leastExp f + (j : Int) - leastExp f).toNat = j by omega]
  have hpow := Nat.pow_succ 2 f.p
  unfold Fmt.pack
  dsimp only
  rcases Nat.lt_or_ge q (2 ^ f.p) with hsub | hnorm
  · obtain rfl : j = 0 := by
      have := hn.resolve_left (Nat.not_le.mpr hsub)
      omega
    have hl := bitLen_le_of_lt hsub
    split
    · next h0 => simp [h0]
    · rw [if_pos (by unfold leastExp; omega)]
      simp [leastExp]
  · rw [if_neg (by omega)]
    rcases hq.lt_or_eq with hlt | rfl
    · rw [bitLen_eq hnorm hlt, if_neg (by unfold leastExp; omega), if_pos le_rfl, Nat.sub_self, Nat.pow_zero, Nat.mul_one,
        show ((f.p + 1 : Nat) : Int) - 1 + (leastExp f + j) + f.bias = ((j + 1 : Nat) : Int) by unfold leastExp; push_cast; ring, Int.toNat_natCast, Nat.add_mul, Nat.one_mul]
      omega
    · rw [bitLen_two_pow, if_neg (by unfold leastExp; omega), if_neg (by omega), show f.p + 1 + 1 - (f.p + 1) = 1 by omega, hpow, Nat.pow_one, Nat.mul_div_cancel _ (by decide),
        show ((f.p + 1 + 1 : Nat) : Int) - 1 + (leastExp f + j) + f.bias = ((j + 2 : Nat) : Int) by unfold leastExp; push_cast; ring, Int.toNat_natCast, Nat.add_mul]
      omega

/-- The carry out of the subnormals' finer neighbours is the smallest normal value. -/
theorem pack_carry (neg : Bool) : f.pack neg (2 ^ (f.p + 1)) (leastExp f - 1) = f.signBit neg + 2 ^ f.p := by
  have hp := Nat.two_pow_pos (f.p + 1)
  have hpow := Nat.pow_succ 2 f.p
  unfold Fmt.pack
  dsimp only
  rw [if_neg hp.ne', bitLen_two_pow, if_neg (by unfold leastExp; omega), if_neg (by omega), show f.p + 1 + 1 - (f.p + 1) = 1 by omega, hpow, Nat.pow_one,
    Nat.mul_div_cancel _ (by decide), show ((f.p + 1 + 1 : Nat) : Int) - 1 + (leastExp f - 1) + f.bias = ((1 : Nat) : Int) by unfold leastExp; push_cast; ring, Int.toNat_natCast]
  omega

end Values

end Sys2Proof.Safety
end

section
/-! PROOFS. A magnitude rounded to a grid (R63 step 1), for every real magnitude that the dyadic stands for. -/

namespace Sys2Proof.Safety

open Sys2Proof.Machine

/-- A magnitude `a` against the grid of 2^g: its quotient is `n`, and its rest compares with nothing and with half a place of the grid as `r` does with 0 and `h`. -/
structure Splits (a : ℝ) (g : Int) (n r h : Nat) : Prop where
  lo : n * 2 ^ g ≤ a
  hi : a < (n + 1) * 2 ^ g
  exact_iff : r = 0 ↔ a = n * 2 ^ g
  below_iff : r < h ↔ 2 * a < (2 * n + 1) * 2 ^ g
  mid_iff : r = h ↔ 2 * a = (2 * n + 1) * 2 ^ g

/-- A rest less than 1 away from an odd whole number compares with even whole numbers as that number does. -/
theorem rest_compares {r h : Nat} {δ : ℝ} (hr : r < 2 * h) (hδ : δ = 0 ∨ (r % 2 = 1 ∧ h % 2 = 0 ∧ -1 < δ ∧ δ < 1)) :
    0 ≤ r + δ ∧ r + δ < 2 * h ∧ (r = 0 ↔ r + δ = 0) ∧ (r < h ↔ r + δ < h) ∧ (r = h ↔ r + δ = h) := by
  rcases hδ with rfl | ⟨ho, he, h1, h2⟩
  · simp only [add_zero]
    exact ⟨Nat.cast_nonneg r, by exact_mod_cast hr, by norm_cast, by norm_cast, by norm_cast⟩
  · have hle {x y : Nat} (h : x < y) : (x : ℝ) + 1 ≤ y := by exact_mod_cast h
    have h0 := hle (show 0 < r by omega)
    have h3 := hle hr
    push_cast at h0 h3
    rcases Nat.lt_or_ge r h with hlt | hge
    · have := hle hlt
      exact ⟨by linarith, by linarith, ⟨fun e => by omega, fun e => by linarith⟩, ⟨fun _ => by linarith, fun _ => hlt⟩, ⟨fun e => by omega, fun e => by linarith⟩⟩
    · have := hle (show h < r by omega)
      exact ⟨by linarith, by linarith, ⟨fun e => by omega, fun e => by linarith⟩, ⟨fun e => by omega, fun e => by linarith⟩, ⟨fun e => by omega, fun e => by linarith⟩⟩

theorem splits_of_position {a b δ : ℝ} {g : Int} {n r h : Nat} (hb : 0 < b) (hu : (2 : ℝ) ^ g = 2 * h * b) (ha : a = (2 * h * n + r + δ) * b) (hr : r < 2 * h)
    (hδ : δ = 0 ∨ (r % 2 = 1 ∧ h % 2 = 0 ∧ -1 < δ ∧ δ < 1)) : Splits a g n r h := by
  obtain ⟨h1, h2, h3, h4, h5⟩ := rest_compares hr hδ
  have hrest : a - n * 2 ^ g = (r + δ) * b := by rw [ha, hu]; ring
  have hhalf : 2 * a - (2 * n + 1) * 2 ^ g = 2 * (r + δ - h) * b := by rw [ha, hu]; ring
  refine ⟨?_, ?_, h3.trans ?_, h4.trans ?_, h5.trans ?_⟩
  · nlinarith
  · nlinarith
  · rw [← sub_eq_zero (a := a), hrest, mul_eq_zero_iff_right hb.ne']
  · rw [← sub_neg (a := 2 * a), hhalf]
    constructor
    · intro h; nlinarith
    · intro h; nlinarith
  · rw [← sub_eq_zero (a := 2 * a), hhalf, mul_eq_zero_iff_right hb.ne', mul_eq_zero, or_iff_right two_ne_zero, sub_eq_zero]

/-- The dyadic m · 2^e stands for the magnitude `a` on a grid: it is it, or it is odd, the grid is at least four times as coarse, and `a` lies strictly within its last place. -/
def StandsFor (m : Nat) (e : Int) (a : ℝ) (g : Int) : Prop :=
  a = m * 2 ^ e ∨ (m % 2 = 1 ∧ e + 2 ≤ g ∧ ((m : ℝ) - 1) * 2 ^ e < a ∧ a < ((m : ℝ) + 1) * 2 ^ e)

theorem StandsFor.splits {m : Nat} {e g : Int} {a : ℝ} (h : StandsFor m e a g) (hg : e < g) :
    Splits a g (m / 2 ^ (g - e).toNat) (m % 2 ^ (g - e).toNat) (2 ^ ((g - e).toNat - 1)) := by
  obtain ⟨k, hk⟩ : ∃ k : Nat, (g - e).toNat = k + 1 := ⟨(g - e).toNat - 1, by omega⟩
  have hb : (0 : ℝ) < 2 ^ e := zpow_pos two_pos e
  have hu : (2 : ℝ) ^ g = 2 * (2 ^ k : Nat) * 2 ^ e := by
    rw [show g = ((k + 1 : Nat) : Int) + e by omega, zpow_add₀ two_ne_zero, zpow_natCast, pow_succ']
    push_cast
    rfl
  rw [hk, Nat.add_sub_cancel]
  have hr := Nat.mod_lt m (Nat.two_pow_pos (k + 1))
  have hm : (m : ℝ) = 2 * (2 ^ k : Nat) * (m / 2 ^ (k + 1) : Nat) + (m % 2 ^ (k + 1) : Nat) := by
    have := Nat.div_add_mod m (2 ^ (k + 1))
    rw [Nat.pow_succ'] at this ⊢
    exact_mod_cast this.symm
  rw [Nat.pow_succ'] at hr
  refine splits_of_position (δ := a / 2 ^ e - m) hb hu ?_ (by rwa [Nat.pow_succ']) ?_
  · rw [← hm, add_sub_cancel, div_mul_cancel₀ _ hb.ne']
  · rcases h with rfl | ⟨ho, hle, h1, h2⟩
    · exact .inl (by rw [mul_div_cancel_right₀ _ hb.ne', sub_self])
    · obtain ⟨k', rfl⟩ : ∃ k', k = k' + 1 := ⟨k - 1, by omega⟩
      rw [← lt_div_iff₀ hb] at h1
      rw [← div_lt_iff₀ hb] at h2
      exact .inr ⟨by rw [Nat.mod_mod_of_dvd _ (dvd_pow_self 2 (Nat.succ_ne_zero _)), ho], by rw [Nat.pow_succ, Nat.mul_mod_left], by linarith, by linarith⟩

/-- The magnitude `a` is rounded to `q` places of the grid of 2^g, the place below it being `n`, in a mode (R63 step 1). -/
structure RoundedAt (mode : Nat) (neg : Bool) (a : ℝ) (g : Int) (n q : Nat) (ex : Bool) : Prop where
  lo : n * 2 ^ g ≤ a
  hi : a < (n + 1) * 2 ^ g
  exact_iff : ex = true ↔ a = n * 2 ^ g
  step : q = n ∨ (q = n + 1 ∧ ex = false)
  near : mode = 0 ∨ mode = 4 → ex = false → (q = n → 2 * a ≤ (2 * n + 1) * 2 ^ g) ∧ (q = n + 1 → (2 * n + 1) * 2 ^ g ≤ 2 * a)
  even : mode = 0 → 2 * a = (2 * n + 1) * 2 ^ g → q % 2 = 0
  away : mode = 4 → 2 * a = (2 * n + 1) * 2 ^ g → q = n + 1
  trunc : mode = 1 → q = n
  up : mode = 2 → ex = false → (q = n + 1 ↔ neg = false)
  down : mode = 3 → ex = false → (q = n + 1 ↔ neg = true)
  odd : mode = 5 → ex = false → q % 2 = 1

/-- A magnitude on the grid is left as it is, in every mode. -/
theorem roundedAt_exact (mode : Nat) (neg : Bool) (n : Nat) (g : Int) : RoundedAt mode neg (n * 2 ^ g) g n n true := by
  have hu : (0 : ℝ) < 2 ^ g := zpow_pos two_pos g
  have hmid : 2 * ((n : ℝ) * 2 ^ g) ≠ (2 * n + 1) * 2 ^ g := by nlinarith
  exact ⟨le_rfl, by nlinarith, by simp, .inl rfl, nofun, fun _ h => absurd h hmid, fun _ h => absurd h hmid, fun _ => rfl, nofun, nofun, nofun⟩

section Inexact

variable {mode : Nat} {neg : Bool} {a : ℝ} {g : Int} {n : Nat} (lo : n * 2 ^ g ≤ a) (hi : a < (n + 1) * 2 ^ g) (hne : a ≠ n * 2 ^ g)

include lo hi hne

/-- A magnitude between two places of the grid, rounded to the lower one. -/
theorem roundedAt_low (h0 : mode = 0 → 2 * a < (2 * n + 1) * 2 ^ g ∨ (2 * a = (2 * n + 1) * 2 ^ g ∧ n % 2 = 0)) (h2 : mode = 2 → neg = true) (h3 : mode = 3 → neg = false)
    (h4 : mode = 4 → 2 * a < (2 * n + 1) * 2 ^ g) (h5 : mode = 5 → n % 2 = 1) : RoundedAt mode neg a g n n false := by
  have hn : ¬ n = n + 1 := by omega
  refine ⟨lo, hi, by simpa using hne, .inl rfl, fun h _ => ⟨fun _ => ?_, fun e => absurd e hn⟩, fun h e => ?_, fun h e => absurd e (h4 h).ne, fun _ => rfl,
    fun h _ => by simp [h2 h], fun h _ => by simp [h3 h], fun h _ => h5 h⟩
  · rcases h with h | h
    · exact (h0 h).elim le_of_lt fun e => e.1.le
    · exact (h4 h).le
  · exact (h0 h).elim (fun h => absurd e h.ne) fun h => h.2

/-- A magnitude between two places of the grid, rounded to the upper one. -/
theorem roundedAt_high (h0 : mode = 0 → (2 * n + 1) * 2 ^ g < 2 * a ∨ (2 * a = (2 * n + 1) * 2 ^ g ∧ n % 2 = 1)) (h1 : mode ≠ 1) (h2 : mode = 2 → neg = false)
    (h3 : mode = 3 → neg = true) (h4 : mode = 4 → (2 * n + 1) * 2 ^ g ≤ 2 * a) (h5 : mode = 5 → n % 2 = 0) : RoundedAt mode neg a g n (n + 1) false := by
  have hn : ¬ n + 1 = n := by omega
  refine ⟨lo, hi, by simpa using hne, .inr ⟨rfl, rfl⟩, fun h _ => ⟨fun e => absurd e hn, fun _ => ?_⟩, fun h e => ?_, fun _ _ => rfl, fun h => absurd h h1,
    fun h _ => by simp [h2 h], fun h _ => by simp [h3 h], fun h _ => by have := h5 h; omega⟩
  · rcases h with h | h
    · exact (h0 h).elim le_of_lt fun e => e.1.ge
    · exact h4 h
  · exact (h0 h).elim (fun h => absurd e h.ne') fun h => by omega

end Inexact

/-- The grid's rounding of the dyadic is that of every magnitude that it stands for. -/
theorem roundGrid_roundedAt {mode : Nat} (hmode : mode < 6) (neg : Bool) {m : Nat} {e g : Int} {a : ℝ} (h : StandsFor m e a g) :
    ∃ n, RoundedAt mode neg a g n (roundGrid mode neg m e g).1 (roundGrid mode neg m e g).2 := by
  unfold roundGrid
  split
  · next hg =>
    have ha : a = m * 2 ^ e := h.resolve_right fun h => by omega
    have hm : a = (m * 2 ^ (e - g).toNat : Nat) * 2 ^ g := by
      rw [ha]
      push_cast
      rw [mul_assoc, ← zpow_natCast, ← zpow_add₀ two_ne_zero, Int.toNat_of_nonneg (by omega), sub_add_cancel]
    exact ⟨_, hm ▸ roundedAt_exact mode neg _ g⟩
  · next hg =>
    obtain ⟨lo, hi, hex, hbelow, hmid⟩ := h.splits (Int.not_le.mp hg)
    dsimp only
    generalize m / 2 ^ (g - e).toNat = n at *
    generalize m % 2 ^ (g - e).toNat = r at *
    generalize 2 ^ ((g - e).toNat - 1) = c at *
    refine ⟨n, ?_⟩
    split
    · next h0 => rw [hex.mp h0]; exact roundedAt_exact mode neg n g
    · next h0 =>
      have hne := mt hex.mpr h0
      have habove : c ≤ r ↔ (2 * n + 1) * 2 ^ g ≤ 2 * a := by rw [← not_lt, hbelow, not_lt]
      have low := roundedAt_low (mode := mode) (neg := neg) lo hi hne
      have high := roundedAt_high (mode := mode) (neg := neg) lo hi hne
      match mode, hmode with
      | 0, _ =>
        show RoundedAt 0 neg a g n (if (decide (c < r) || (decide (r = c) && n % 2 == 1)) = true then n + 1 else n) false
        split
        · next hup =>
          simp only [Bool.or_eq_true, Bool.and_eq_true, decide_eq_true_eq, beq_iff_eq] at hup
          refine high (fun _ => hup.imp (fun h => ?_) fun h => ⟨hmid.mp h.1, h.2⟩) (by decide) nofun nofun nofun nofun
          exact lt_of_le_of_ne (habove.mp h.le) fun e => h.ne' (hmid.mpr e.symm)
        · next hup =>
          simp only [Bool.or_eq_true, Bool.and_eq_true, decide_eq_true_eq, beq_iff_eq, not_or, not_and] at hup
          refine low (fun _ => ?_) nofun nofun nofun nofun
          rcases Nat.lt_or_ge r c with hlt | hge
          · exact .inl (hbelow.mp hlt)
          · have hrc : r = c := by omega
            exact .inr ⟨hmid.mp hrc, by have := hup.2 hrc; omega⟩
      | 1, _ => exact low nofun nofun nofun nofun nofun
      | 2, _ =>
        rw [if_neg (by decide)]
        cases neg with
        | false => exact high nofun (by decide) (fun _ => rfl) nofun nofun nofun
        | true => exact low nofun (fun _ => rfl) nofun nofun nofun
      | 3, _ =>
        rw [if_neg (by decide)]
        cases neg with
        | false => exact low nofun nofun (fun _ => rfl) nofun nofun
        | true => exact high nofun (by decide) nofun (fun _ => rfl) nofun nofun
      | 4, _ =>
        show RoundedAt 4 neg a g n (if decide (c ≤ r) = true then n + 1 else n) false
        split
        · next hup => exact high nofun (by decide) nofun nofun (fun _ => habove.mp (of_decide_eq_true hup)) nofun
        · next hup => exact low nofun nofun nofun (fun _ => hbelow.mp (Nat.not_le.mp fun h => hup (decide_eq_true h))) nofun
      | 5, _ =>
        rw [if_pos rfl]
        rcases Nat.mod_two_eq_zero_or_one n with hn | hn
        · rw [hn]
          exact high nofun (by decide) nofun nofun nofun fun _ => hn
        · rw [hn]
          exact low nofun nofun nofun nofun fun _ => hn

end Sys2Proof.Safety
end

section
/-! PROOFS. RoundTo (R63, R67) of a magnitude: in range on one grid of the format, or overflowed. -/

namespace Sys2Proof.Safety

open Sys2Proof.Machine

theorem two_zpow_add (k : Nat) (g : Int) : (2 : ℝ) ^ ((k : Int) + g) = (2 ^ k : Nat) * 2 ^ g := by
  rw [zpow_add₀ two_ne_zero, zpow_natCast]
  push_cast
  rfl

/-! Bounds of a rounded magnitude. -/

section Bounds

variable {mode : Nat} {neg : Bool} {a : ℝ} {g : Int} {n q : Nat} {ex : Bool} (h : RoundedAt mode neg a g n q ex)

include h

theorem RoundedAt.lt_of_lt {k : Nat} (ha : a < k * 2 ^ g) : n < k := by
  have hu : (0 : ℝ) < 2 ^ g := zpow_pos two_pos g
  exact_mod_cast lt_of_mul_lt_mul_right (h.lo.trans_lt ha) hu.le

theorem RoundedAt.le_of_le {k : Nat} (ha : k * 2 ^ g ≤ a) : k ≤ n := by
  have hu : (0 : ℝ) < 2 ^ g := zpow_pos two_pos g
  have : (k : ℝ) < n + 1 := lt_of_mul_lt_mul_right (ha.trans_lt h.hi) hu.le
  exact Nat.lt_succ_iff.mp (by exact_mod_cast this)

theorem RoundedAt.le_result : n ≤ q := by
  rcases h.step with h | ⟨h, -⟩ <;> omega

theorem RoundedAt.result_le : q ≤ n + 1 := by
  rcases h.step with h | ⟨h, -⟩ <;> omega

/-- A result above the place below is inexact. -/
theorem RoundedAt.inexact_of_lt (hq : n < q) : q = n + 1 ∧ ex = false := h.step.resolve_left (by omega)

theorem RoundedAt.lt_of_inexact (hex : ex = false) : n * 2 ^ g < a :=
  lt_of_le_of_ne h.lo fun e => by rw [h.exact_iff.mpr e.symm] at hex; cases hex

/-- A magnitude rounded up to an even place is rounded up to that place of the grid twice as coarse too. -/
theorem RoundedAt.coarsen {k : Nat} (hk : q = 2 * (k + 1)) (hq : n < q) : RoundedAt mode neg a (g + 1) k (k + 1) false := by
  obtain ⟨hqn, hex⟩ := h.inexact_of_lt hq
  have hu : (0 : ℝ) < 2 ^ g := zpow_pos two_pos g
  have hlo := h.lt_of_inexact hex
  have hhi := h.hi
  have hn : (n : ℝ) = 2 * k + 1 := by exact_mod_cast (show n = 2 * k + 1 by omega)
  have h2 : (2 : ℝ) ^ (g + 1) = 2 * 2 ^ g := by rw [zpow_add_one₀ two_ne_zero, mul_comm]
  rw [hn] at hlo hhi
  have hmid : (2 * (k : ℝ) + 1) * 2 ^ (g + 1) < 2 * a := by rw [h2]; linarith
  refine roundedAt_high ?_ ?_ ?_ (fun _ => .inl hmid) (fun hm => ?_) (fun hm => (h.up hm hex).mp hqn) (fun hm => (h.down hm hex).mp hqn) (fun _ => hmid.le) fun hm => ?_
  · rw [h2]; linarith
  · rw [h2]; linarith
  · intro e; rw [e, h2] at hmid; linarith
  · have := h.trunc hm; omega
  · have := h.odd hm hex; omega

end Bounds

/-! The magnitudes that a dyadic stands for in RoundTo. -/

theorem StandsFor.mono {m : Nat} {e g g' : Int} {a : ℝ} (h : StandsFor m e a g) (hg : g ≤ g') : StandsFor m e a g' :=
  h.imp_right fun ⟨ho, hle, hlt⟩ => ⟨ho, hle.trans hg, hlt⟩

/-- The grid of a dyadic's own precision in a format (R63 step 1). -/
def ownGrid (f : Fmt) (x : Dy) : Int := (bitLen x.m : Int) - 1 + x.e - f.p

/-- The magnitudes that RoundTo treats as the dyadic's. -/
def Approximates (f : Fmt) (x : Dy) (a : ℝ) : Prop := (x.m = 0 ∧ a = 0) ∨ (x.m ≠ 0 ∧ StandsFor x.m x.e a (ownGrid f x))

/-- A magnitude has p + 1 bits on its own grid. -/
theorem ownGrid_bounds {f : Fmt} {x : Dy} {a : ℝ} (hm : x.m ≠ 0) (h : StandsFor x.m x.e a (ownGrid f x)) :
    (2 ^ f.p : Nat) * 2 ^ ownGrid f x ≤ a ∧ a < (2 ^ (f.p + 1) : Nat) * 2 ^ ownGrid f x := by
  have hb : (0 : ℝ) < 2 ^ x.e := zpow_pos two_pos _
  have hl := bitLen_pos hm
  have hle := two_pow_le_of_bitLen hm
  have hlt := lt_two_pow_bitLen x.m
  rw [← two_zpow_add, ← two_zpow_add, show (f.p : Int) + ownGrid f x = ((bitLen x.m - 1 : Nat) : Int) + x.e by unfold ownGrid; omega,
    show ((f.p + 1 : Nat) : Int) + ownGrid f x = (bitLen x.m : Int) + x.e by unfold ownGrid; push_cast; ring, two_zpow_add, two_zpow_add]
  rcases h with rfl | ⟨ho, hg, h1, h2⟩
  · exact ⟨mul_le_mul_of_nonneg_right (by exact_mod_cast hle) hb.le, mul_lt_mul_of_pos_right (by exact_mod_cast hlt) hb⟩
  · obtain ⟨k, hk⟩ : ∃ k, bitLen x.m - 1 = k + 1 := ⟨bitLen x.m - 2, by unfold ownGrid at hg; omega⟩
    rw [hk, Nat.pow_succ] at hle ⊢
    have hle' : ((2 ^ k * 2 : Nat) : ℝ) ≤ x.m - 1 := by
      rw [le_sub_iff_add_le]
      exact_mod_cast (show 2 ^ k * 2 + 1 ≤ x.m by omega)
    have hlt' : (x.m : ℝ) + 1 ≤ (2 ^ bitLen x.m : Nat) := by exact_mod_cast hlt
    exact ⟨(mul_le_mul_of_nonneg_right hle' hb.le).trans h1.le, h2.trans_le (mul_le_mul_of_nonneg_right hlt' hb.le)⟩

/-! The two outcomes. -/

/-- A result of a magnitude `a` on the grid of 2^g of a format: the value is `q` places of it. -/
structure InRange (f : Fmt) (mode : Nat) (neg : Bool) (a : ℝ) (r : Nat × BitVec 6) (g : Int) (n q : Nat) (ex : Bool) : Prop where
  rounded : RoundedAt mode neg a g n q ex
  least_le : leastExp f ≤ g
  low : g = leastExp f ∨ (2 ^ f.p : Nat) * 2 ^ g ≤ a
  high : a < (2 ^ (f.p + 1) : Nat) * 2 ^ g
  bits : r.1 = f.signBit neg + ((g - leastExp f).toNat * 2 ^ f.p + q)
  range : (g - leastExp f).toNat * 2 ^ f.p + q < (2 ^ f.ew - 1) * 2 ^ f.p
  flags : r.2 = flagIf (!ex) fNX ∨ r.2 = flagIf (!ex) (fUF ||| fNX)

/-- A result beyond every finite value of a format. -/
structure Overflowed (f : Fmt) (mode : Nat) (neg : Bool) (a : ℝ) (r : Nat × BitVec 6) : Prop where
  bits : r.1 = f.infBits neg ∨ r.1 = f.maxBits neg
  flags : r.2 = fOF ||| fNX
  beyond : (2 ^ (f.p + 1) - 1 : Nat) * 2 ^ ((f.bias : Int) - f.p) < a
  trunc : mode = 1 → (2 ^ (f.p + 1) : Nat) * 2 ^ ((f.bias : Int) - f.p) ≤ a

section Cases

variable {f : Fmt} {mode : Nat} {neg : Bool} {a : ℝ}

/-- A rounding on one grid of the format below its end is in range. -/
theorem inRange_pack (hf : FmtOk f) {g : Int} {n q : Nat} {ex : Bool} {fl : BitVec 6} (h : RoundedAt mode neg a g n q ex) (hg : leastExp f ≤ g)
    (hlow : g = leastExp f ∨ (2 ^ f.p : Nat) * 2 ^ g ≤ a) (hhigh : a < (2 ^ (f.p + 1) : Nat) * 2 ^ g) (hend : g < (f.bias : Int) - f.p ∨ (g = (f.bias : Int) - f.p ∧ q < 2 ^ (f.p + 1)))
    (hfl : fl = flagIf (!ex) fNX ∨ fl = flagIf (!ex) (fUF ||| fNX)) : InRange f mode neg a (f.pack neg q g, fl) g n q ex := by
  have hn := h.lt_of_lt hhigh
  have hq := h.result_le
  have hb := bias_double hf
  have hbias := one_le_bias hf.ew
  refine ⟨h, hg, hlow, hhigh, pack_eq neg hg (by omega) ?_, ?_, hfl⟩
  · exact hlow.symm.imp_left fun hl => (h.le_of_le hl).trans h.le_result
  · have hpow := Nat.pow_succ 2 f.p
    have hp := Nat.two_pow_pos f.p
    rw [hb]
    rcases hend with hend | ⟨hend, hlt⟩
    · have : (g - leastExp f).toNat + 2 ≤ 2 * f.bias := by unfold leastExp; omega
      calc (g - leastExp f).toNat * 2 ^ f.p + q ≤ ((g - leastExp f).toNat + 2) * 2 ^ f.p := by rw [Nat.add_mul]; omega
        _ ≤ 2 * f.bias * 2 ^ f.p := Nat.mul_le_mul_right _ this
        _ < (2 * f.bias + 1) * 2 ^ f.p := Nat.mul_lt_mul_of_pos_right (Nat.lt_succ_self _) hp
    · have : (g - leastExp f).toNat + 1 = 2 * f.bias := by unfold leastExp; omega
      calc (g - leastExp f).toNat * 2 ^ f.p + q < (g - leastExp f).toNat * 2 ^ f.p + 2 ^ (f.p + 1) := Nat.add_lt_add_left hlt _
        _ = ((g - leastExp f).toNat + 1 + 1) * 2 ^ f.p := by rw [hpow]; ring
        _ = (2 * f.bias + 1) * 2 ^ f.p := by rw [this]

/-- Zero is in range. -/
theorem inRange_zero (hf : FmtOk f) : InRange f mode neg 0 (f.signBit neg, 0) (leastExp f) 0 0 true := by
  have hu : (0 : ℝ) < 2 ^ leastExp f := zpow_pos two_pos _
  have hb := bias_double hf
  have h0 := roundedAt_exact mode neg 0 (leastExp f)
  rw [Nat.cast_zero, zero_mul] at h0
  refine ⟨h0, le_rfl, .inl rfl, ?_, by simp, ?_, .inl rfl⟩
  · have : (0 : ℝ) < (2 ^ (f.p + 1) : Nat) := by exact_mod_cast Nat.two_pow_pos _
    positivity
  · rw [hb, Int.sub_self]
    simp

end Cases

/-- RoundTo of a dyadic, for every magnitude that it stands for. -/
theorem round_cases {f : Fmt} (hf : FmtOk f) {mode : Nat} (hmode : mode < 6) {x : Dy} {a : ℝ} (h : Approximates f x a) :
    (∃ g n q ex, InRange f mode x.neg a (f.round x mode) g n q ex) ∨ Overflowed f mode x.neg a (f.round x mode) := by
  unfold Fmt.round
  rcases h with ⟨hm, rfl⟩ | ⟨hm, h⟩
  · rw [if_pos hm]
    exact .inl ⟨_, _, _, _, inRange_zero hf⟩
  rw [if_neg hm]
  obtain ⟨hlo, hhi⟩ := ownGrid_bounds hm h
  obtain ⟨n, hr⟩ := roundGrid_roundedAt hmode x.neg h
  have hn1 := hr.le_of_le hlo
  have hn2 := hr.lt_of_lt hhi
  have hq1 := hr.le_result
  have hq2 := hr.result_le
  dsimp only
  rw [show (bitLen x.m : Int) - 1 + x.e - f.p = ownGrid f x from rfl]
  generalize roundGrid mode x.neg x.m x.e (ownGrid f x) = r at *
  obtain ⟨q, ex⟩ := r
  dsimp only at *
  have hlen : (q < 2 ^ (f.p + 1) ∧ bitLen q = f.p + 1) ∨ (q = 2 ^ (f.p + 1) ∧ bitLen q = f.p + 2) := by
    rcases Nat.lt_or_ge q (2 ^ (f.p + 1)) with hlt | hge
    · exact .inl ⟨hlt, bitLen_eq (hn1.trans hq1) hlt⟩
    · obtain rfl : q = 2 ^ (f.p + 1) := by omega
      exact .inr ⟨rfl, bitLen_two_pow _⟩
  have hbias := one_le_bias hf.ew
  split
  · next hover =>
    have hu : (0 : ℝ) < 2 ^ ((f.bias : Int) - f.p) := zpow_pos two_pos _
    have hfull (hq : q < 2 ^ (f.p + 1)) : (2 ^ (f.p + 1) : Nat) * 2 ^ ((f.bias : Int) - f.p) ≤ a := by
      refine le_trans ?_ hlo
      rw [← two_zpow_add, ← two_zpow_add]
      exact zpow_le_zpow_right₀ one_le_two (by push_cast; omega)
    refine .inr ⟨ite_eq_or_eq _ _ _, rfl, ?_, fun hm => hfull (by rw [hr.trunc hm]; exact hn2)⟩
    rcases Nat.lt_or_ge q (2 ^ (f.p + 1)) with hq | hq
    · exact (mul_lt_mul_of_pos_right (Nat.cast_lt.mpr (Nat.sub_lt (Nat.two_pow_pos _) one_pos)) hu).trans_le (hfull hq)
    · obtain ⟨hqn, hex⟩ := hr.inexact_of_lt (hn2.trans_le hq)
      rw [show 2 ^ (f.p + 1) - 1 = n by omega]
      exact (mul_le_mul_of_nonneg_left (zpow_le_zpow_right₀ one_le_two (by omega)) (Nat.cast_nonneg n)).trans_lt (hr.lt_of_inexact hex)
  · next hover =>
    split
    · next hsub =>
      have hlt : ownGrid f x < leastExp f := by unfold leastExp; omega
      obtain ⟨n', hr'⟩ := roundGrid_roundedAt hmode x.neg (h.mono hlt.le)
      have hhigh : a < (2 ^ f.p : Nat) * 2 ^ leastExp f := by
        refine hhi.trans_le ?_
        rw [← two_zpow_add, ← two_zpow_add]
        exact zpow_le_zpow_right₀ one_le_two (by push_cast; omega)
      have hu : (0 : ℝ) < 2 ^ leastExp f := zpow_pos two_pos _
      refine .inl ⟨leastExp f, n', _, _, inRange_pack hf hr' le_rfl (.inl rfl) ?_ ?_ (.inr rfl)⟩
      · exact hhigh.trans (mul_lt_mul_of_pos_right (Nat.cast_lt.mpr (Nat.pow_lt_pow_right (by decide) (Nat.lt_succ_self _))) hu)
      · exact .inl (by omega)
    · next hsub =>
      rcases Int.lt_or_le (ownGrid f x) (leastExp f) with hlt | hge
      · have hq : q = 2 ^ (f.p + 1) ∧ ownGrid f x = leastExp f - 1 := by unfold leastExp at *; omega
        obtain ⟨rfl, hg⟩ := hq
        obtain ⟨k, hk⟩ : ∃ k, 2 ^ f.p = k + 1 := ⟨2 ^ f.p - 1, by have := Nat.two_pow_pos f.p; omega⟩
        have hc := hr.coarsen (k := k) (by rw [Nat.pow_succ', hk]) hn2
        rw [hg, sub_add_cancel] at hc
        have hpack : f.pack x.neg (2 ^ (f.p + 1)) (ownGrid f x) = f.pack x.neg (k + 1) (leastExp f) := by
          rw [hg, pack_carry, ← hk, pack_eq x.neg le_rfl (Nat.pow_le_pow_right two_pos (Nat.le_succ _)) (.inl le_rfl), Int.sub_self, Int.toNat_zero, Nat.zero_mul, Nat.zero_add]
        obtain ⟨-, rfl⟩ := hr.inexact_of_lt hn2
        rw [hpack]
        refine .inl ⟨leastExp f, k, _, _, inRange_pack hf hc le_rfl (.inl rfl) (hhi.trans_le ?_) ?_ (.inl rfl)⟩
        · exact mul_le_mul_of_nonneg_left (zpow_le_zpow_right₀ one_le_two hlt.le) (Nat.cast_nonneg _)
        · exact .inl (by unfold leastExp; omega)
      · refine .inl ⟨ownGrid f x, n, q, ex, inRange_pack hf hr hge (.inr hlo) hhi ?_ (.inl rfl)⟩
        omega

end Sys2Proof.Safety
end

section
/-! PROOFS. The value that RoundTo returns, among the finite values of its format (R62, R63). -/

namespace Sys2Proof.Safety

open Sys2Proof.Machine

/-- The factor of a sign. -/
def signFactor (neg : Bool) : ℝ := if neg then -1 else 1

theorem signFactor_mul_self (neg : Bool) : signFactor neg * signFactor neg = 1 := by
  unfold signFactor
  split <;> norm_num

theorem abs_signFactor_mul (neg : Bool) (x : ℝ) : |signFactor neg * x| = |x| := by
  cases neg <;> simp [signFactor]

theorem abs_signFactor_mul_sub (neg : Bool) (x y : ℝ) : |x - signFactor neg * y| = |signFactor neg * x - y| := by
  rw [← abs_signFactor_mul neg (x - _), mul_sub, ← mul_assoc, signFactor_mul_self, one_mul]

theorem ratOf_cast (d : Dy) : (ratOf d : ℝ) = signFactor d.neg * (d.m * 2 ^ d.e) := by
  unfold ratOf signFactor
  split <;> push_cast <;> ring

/-- The real is a finite value of the format. -/
def IsFinite (f : Fmt) (v : ℝ) : Prop := ∃ q d, f.decode q = .fin d ∧ (ratOf d : ℝ) = v

/-! The finite values against a grid. -/

/-- A finite value is a multiple of the grid or lies below its p-bit magnitudes. -/
theorem finite_multiple {f : Fmt} (hf : FmtOk f) {v : ℝ} (hv : IsFinite f v) (g : Int) :
    (∃ k : Nat, |v| = k * 2 ^ g) ∨ (|v| < (2 ^ f.p : Nat) * 2 ^ g ∧ g ≠ leastExp f) := by
  obtain ⟨i, d, hd, rfl⟩ := hv
  obtain ⟨j, he, -, hm, -⟩ := decode_fin hf hd
  have hb : (0 : ℝ) < 2 ^ d.e := zpow_pos two_pos _
  rw [ratOf_cast, abs_signFactor_mul, abs_of_nonneg (by positivity)]
  rcases Int.lt_or_le d.e g with hlt | hge
  · refine .inr ⟨?_, by omega⟩
    calc (d.m : ℝ) * 2 ^ d.e < (2 ^ (f.p + 1) : Nat) * 2 ^ d.e := mul_lt_mul_of_pos_right (Nat.cast_lt.mpr hm) hb
      _ = 2 ^ (((f.p + 1 : Nat) : Int) + d.e) := (two_zpow_add _ _).symm
      _ ≤ 2 ^ ((f.p : Int) + g) := zpow_le_zpow_right₀ one_le_two (by push_cast; omega)
      _ = (2 ^ f.p : Nat) * 2 ^ g := two_zpow_add _ _
  · refine .inl ⟨d.m * 2 ^ (d.e - g).toNat, ?_⟩
    have hpow : (2 : ℝ) ^ d.e = (2 ^ (d.e - g).toNat : Nat) * 2 ^ g := by rw [← two_zpow_add, Int.toNat_of_nonneg (by omega), sub_add_cancel]
    rw [hpow, Nat.cast_mul, mul_assoc]

/-- The greatest finite magnitude. -/
theorem finite_le_max {f : Fmt} (hf : FmtOk f) {v : ℝ} (hv : IsFinite f v) : |v| ≤ (2 ^ (f.p + 1) - 1 : Nat) * 2 ^ ((f.bias : Int) - f.p) := by
  obtain ⟨i, d, hd, rfl⟩ := hv
  obtain ⟨j, he, hj, hm, -⟩ := decode_fin hf hd
  rw [ratOf_cast, abs_signFactor_mul, abs_of_nonneg (by positivity)]
  have hle : d.e ≤ (f.bias : Int) - f.p := by unfold leastExp at he; omega
  exact mul_le_mul (Nat.cast_le.mpr (Nat.le_sub_one_of_lt hm)) (zpow_le_zpow_right₀ one_le_two hle) (by positivity) (Nat.cast_nonneg _)

/-! A rounded magnitude against the values that the gap around it leaves out. -/

section Gap

variable {mode : Nat} {neg : Bool} {a : ℝ} {g : Int} {n q : Nat} {ex : Bool} (h : RoundedAt mode neg a g n q ex)

include h

theorem RoundedAt.exact_eq (hex : ex = true) : q * 2 ^ g = a := by
  rw [h.step.resolve_right fun hs => by simp [hex] at hs, ← h.exact_iff.mp hex]

/-- A result at or below the magnitude is the closest value of that side. -/
theorem RoundedAt.closest_low (hq : q = n) {w : ℝ} (hw : w ≤ n * 2 ^ g) : |q * 2 ^ g - a| ≤ |w - a| := by
  have hlo := h.lo
  rw [hq, abs_sub_comm, abs_sub_comm w, abs_of_nonneg (by linarith), abs_of_nonneg (by linarith)]
  linarith

/-- A result at or above the magnitude is the closest value of that side. -/
theorem RoundedAt.closest_high (hq : q = n + 1) {w : ℝ} (hw : (n + 1) * 2 ^ g ≤ w) : |q * 2 ^ g - a| ≤ |w - a| := by
  have hhi := h.hi
  have hcast : (q : ℝ) = n + 1 := by exact_mod_cast hq
  rw [hcast, abs_of_nonneg (by linarith), abs_of_nonneg (by linarith)]
  linarith

variable {w : ℝ} (hw : w ≤ n * 2 ^ g ∨ (n + 1) * 2 ^ g ≤ w)

include hw

/-- To nearest: no value is closer. -/
theorem RoundedAt.closest (hm : mode = 0 ∨ mode = 4) : |q * 2 ^ g - a| ≤ |w - a| := by
  cases ex with
  | true => rw [h.exact_eq rfl, sub_self, abs_zero]; exact abs_nonneg _
  | false =>
    obtain ⟨hdown, hup⟩ := h.near hm rfl
    have hlo := h.lo
    have hhi := h.hi
    rcases h.step with hq | ⟨hq, -⟩
    · rcases hw with hw | hw
      · exact h.closest_low hq hw
      · have := hdown hq
        rw [hq, abs_sub_comm, abs_of_nonneg (by linarith), abs_of_nonneg (by linarith)]
        linarith
    · rcases hw with hw | hw
      · have := hup hq
        have hcast : (q : ℝ) = n + 1 := by exact_mod_cast hq
        rw [hcast, abs_of_nonneg (by linarith), abs_sub_comm, abs_of_nonneg (by linarith)]
        linarith
      · exact h.closest_high hq hw

/-- To nearest: another value as close means that the magnitude is a midpoint of the grid. -/
theorem RoundedAt.midpoint_of_tie (hm : mode = 0 ∨ mode = 4) (hne : w ≠ q * 2 ^ g) (heq : |q * 2 ^ g - a| = |w - a|) : 2 * a = (2 * n + 1) * 2 ^ g := by
  cases ex with
  | true =>
    rw [h.exact_eq rfl, sub_self, abs_zero] at heq
    rw [h.exact_eq rfl] at hne
    exact absurd (sub_eq_zero.mp (abs_eq_zero.mp heq.symm)) hne
  | false =>
    obtain ⟨hdown, hup⟩ := h.near hm rfl
    have hlo := h.lo
    have hhi := h.hi
    rcases h.step with hq | ⟨hq, -⟩
    · have hle := hdown hq
      rw [hq] at heq hne
      rw [abs_sub_comm, abs_of_nonneg (by linarith)] at heq
      rcases hw with hw | hw
      · rw [abs_sub_comm, abs_of_nonneg (by linarith)] at heq
        exact absurd (by linarith) hne
      · rw [abs_of_nonneg (by linarith)] at heq
        linarith
    · have hle := hup hq
      have hcast : (q : ℝ) = n + 1 := by exact_mod_cast hq
      rw [hcast] at heq hne
      rw [abs_of_nonneg (by linarith)] at heq
      rcases hw with hw | hw
      · rw [abs_sub_comm, abs_of_nonneg (by linarith)] at heq
        linarith
      · rw [abs_of_nonneg (by linarith)] at heq
        exact absurd (by linarith) hne

/-- A result not above the magnitude, among the values not above it. -/
theorem RoundedAt.closest_below (hq : q = n) (hwa : w ≤ a) : |q * 2 ^ g - a| ≤ |w - a| :=
  h.closest_low hq (hw.resolve_right fun hw => by have := h.hi; linarith)

/-- A result not below the magnitude, among the values not below it. -/
theorem RoundedAt.closest_above (hq : ex = true ∨ q = n + 1) (haw : a ≤ w) : |q * 2 ^ g - a| ≤ |w - a| := by
  rcases hq with hex | hq
  · rw [h.exact_eq hex, sub_self, abs_zero]
    exact abs_nonneg _
  · have hex := (h.inexact_of_lt (by omega)).2
    exact h.closest_high hq (hw.resolve_left fun hw => by have := h.lt_of_inexact hex; linarith)

end Gap

section Sides

variable {mode : Nat} {neg : Bool} {a : ℝ} {g : Int} {n q : Nat} {ex : Bool} (h : RoundedAt mode neg a g n q ex)

include h

theorem RoundedAt.eq_low_of_exact (hex : ex = true) : q = n := h.step.resolve_right fun hs => by simp [hex] at hs

/-- The modes that take the place below a magnitude. -/
theorem RoundedAt.low (hm : mode = 1 ∨ (mode = 2 ∧ neg = true) ∨ (mode = 3 ∧ neg = false)) : q = n := by
  cases ex with
  | true => exact h.eq_low_of_exact rfl
  | false =>
    refine h.step.resolve_right fun ⟨hq, _⟩ => ?_
    rcases hm with hm | ⟨hm, hn⟩ | ⟨hm, hn⟩
    · have := h.trunc hm; omega
    · rw [hn] at h; exact nomatch (h.up hm rfl).mp hq
    · rw [hn] at h; exact nomatch (h.down hm rfl).mp hq

/-- The modes that take the place above a magnitude. -/
theorem RoundedAt.high (hm : (mode = 2 ∧ neg = false) ∨ (mode = 3 ∧ neg = true)) : ex = true ∨ q = n + 1 := by
  cases ex with
  | true => exact .inl rfl
  | false => exact .inr (hm.elim (fun ⟨hm, hn⟩ => (h.up hm rfl).mpr hn) fun ⟨hm, hn⟩ => (h.down hm rfl).mpr hn)

theorem RoundedAt.le_of_low (hq : q = n) : q * 2 ^ g ≤ a := hq ▸ h.lo

theorem RoundedAt.ge_of_high (hq : ex = true ∨ q = n + 1) : a ≤ q * 2 ^ g := by
  rcases hq with hex | hq
  · exact (h.exact_eq hex).ge
  · have hcast : (q : ℝ) = n + 1 := by exact_mod_cast hq
    exact hcast ▸ h.hi.le

theorem RoundedAt.exact_iff_eq : ex = true ↔ q * 2 ^ g = a := by
  refine ⟨h.exact_eq, fun e => h.exact_iff.mpr ?_⟩
  rcases h.step with hq | ⟨hq, -⟩
  · rw [← e, hq]
  · have hcast : (q : ℝ) = n + 1 := by exact_mod_cast hq
    rw [hcast] at e
    exact absurd h.hi e.not_gt

end Sides

/-! The outcomes of RoundTo. -/

/-- A value of a format that a mode but RTO chooses for an exact real: the nearest, or the nearest on the mode's side. -/
structure Chosen (f : Fmt) (mode : Nat) (t y : ℝ) : Prop where
  near : mode = 0 ∨ mode = 4 → ∀ v, IsFinite f v → |y - t| ≤ |v - t|
  trunc : mode = 1 → |y| ≤ |t| ∧ ∀ v, IsFinite f v → |v| ≤ |t| → |y - t| ≤ |v - t|
  up : mode = 2 → t ≤ y ∧ ∀ v, IsFinite f v → t ≤ v → |y - t| ≤ |v - t|
  down : mode = 3 → y ≤ t ∧ ∀ v, IsFinite f v → v ≤ t → |y - t| ≤ |v - t|

section Outcomes

variable {f : Fmt} {mode : Nat} {neg : Bool} {a : ℝ} {r : Nat × BitVec 6}

theorem Overflowed.finite_lt (hf : FmtOk f) (h : Overflowed f mode neg a r) {v : ℝ} (hv : IsFinite f v) : |v| < a :=
  (finite_le_max hf hv).trans_lt h.beyond

variable {g : Int} {n q : Nat} {ex : Bool} (h : InRange f mode neg a r g n q ex)

include h

/-- No finite value lies between the two places around a magnitude. -/
theorem InRange.gap (hf : FmtOk f) {v : ℝ} (hv : IsFinite f v) : |v| ≤ n * 2 ^ g ∨ (n + 1) * 2 ^ g ≤ |v| := by
  have hu : (0 : ℝ) < 2 ^ g := zpow_pos two_pos g
  rcases finite_multiple hf hv g with ⟨k, hk⟩ | ⟨hlt, hne⟩
  · rw [hk]
    rcases Nat.lt_or_ge n k with hnk | hkn
    · exact .inr (mul_le_mul_of_nonneg_right (by exact_mod_cast hnk) hu.le)
    · exact .inl (mul_le_mul_of_nonneg_right (by exact_mod_cast hkn) hu.le)
  · refine .inl (hlt.le.trans (mul_le_mul_of_nonneg_right ?_ hu.le))
    exact_mod_cast h.rounded.le_of_le (h.low.resolve_left hne)

/-- The same for a finite value seen from the sign of the result. -/
theorem InRange.gap_signed (hf : FmtOk f) {v : ℝ} (hv : IsFinite f v) (neg' : Bool) : signFactor neg' * v ≤ n * 2 ^ g ∨ (n + 1) * 2 ^ g ≤ signFactor neg' * v := by
  have hu : (0 : ℝ) < 2 ^ g := zpow_pos two_pos g
  have hgap := h.gap hf hv
  rw [← abs_signFactor_mul neg'] at hgap
  rcases hgap with hle | hge
  · exact .inl ((le_abs_self _).trans hle)
  · refine (le_abs.mp hge).symm.imp_left fun hneg => ?_
    have : (0 : ℝ) ≤ n * 2 ^ g := by positivity
    nlinarith

/-- The value of a result in range. -/
theorem InRange.decode (hf : FmtOk f) : ∃ d, f.decode r.1 = .fin d ∧ (ratOf d : ℝ) = signFactor neg * (q * 2 ^ g) := by
  have hq := h.rounded.result_le
  have hn := h.rounded.lt_of_lt h.high
  have hrange := h.range
  have hg : leastExp f + ((g - leastExp f).toNat : Int) = g := by have := h.least_le; omega
  rw [h.bits]
  rcases Nat.lt_or_ge q (2 ^ (f.p + 1)) with hlt | hge
  · refine ⟨_, decode_magnitude hf neg hlt ?_ hrange, by rw [ratOf_cast, hg]⟩
    exact h.low.symm.imp (fun hl => (h.rounded.le_of_le hl).trans h.rounded.le_result) fun hl => by omega
  · obtain rfl : q = 2 ^ (f.p + 1) := by omega
    have hcarry : (g - leastExp f).toNat * 2 ^ f.p + 2 ^ (f.p + 1) = ((g - leastExp f).toNat + 1) * 2 ^ f.p + 2 ^ f.p := by rw [Nat.pow_succ]; ring
    rw [hcarry] at hrange ⊢
    refine ⟨_, decode_magnitude hf neg (Nat.pow_lt_pow_right (by decide) (Nat.lt_succ_self _)) (.inl le_rfl) hrange, ?_⟩
    rw [ratOf_cast]
    dsimp only
    rw [show leastExp f + (((g - leastExp f).toNat + 1 : Nat) : Int) = g + 1 by push_cast; omega, zpow_add_one₀ two_ne_zero, pow_succ]
    push_cast
    ring

/-- A result in range is what its mode chooses for the exact value. -/
theorem InRange.chosen (hf : FmtOk f) : Chosen f mode (signFactor neg * a) (signFactor neg * (q * 2 ^ g)) := by
  have hu : (0 : ℝ) < 2 ^ g := zpow_pos two_pos g
  have hr := h.rounded
  have ha : 0 ≤ a := le_trans (by positivity) hr.lo
  have hq : (0 : ℝ) ≤ q * 2 ^ g := by positivity
  have hdist (v : ℝ) : |v - signFactor neg * a| = |signFactor neg * v - a| := abs_signFactor_mul_sub neg v a
  have hself : signFactor neg * (signFactor neg * (q * 2 ^ g)) = q * 2 ^ g := by rw [← mul_assoc, signFactor_mul_self, one_mul]
  refine ⟨fun hm v hv => ?_, fun hm => ⟨?_, fun v hv hle => ?_⟩, fun hm => ?_, fun hm => ?_⟩
  · rw [hdist, hdist, hself]
    exact hr.closest (h.gap_signed hf hv neg) hm
  · rw [abs_signFactor_mul, abs_signFactor_mul, abs_of_nonneg hq, abs_of_nonneg ha]
    exact hr.le_of_low (hr.low (.inl hm))
  · rw [hdist, hdist, hself]
    rw [abs_signFactor_mul, abs_of_nonneg ha, ← abs_signFactor_mul neg] at hle
    exact hr.closest_below (h.gap_signed hf hv neg) (hr.low (.inl hm)) ((le_abs_self _).trans hle)
  · cases neg with
    | false =>
      have hside := hr.high (.inl ⟨hm, rfl⟩)
      simp only [signFactor, Bool.false_eq_true, if_false, one_mul]
      exact ⟨hr.ge_of_high hside, fun v hv hle => hr.closest_above (by simpa [signFactor] using h.gap_signed hf hv false) hside hle⟩
    | true =>
      have hside := hr.low (.inr (.inl ⟨hm, rfl⟩))
      refine ⟨?_, fun v hv hle => ?_⟩
      · simpa [signFactor] using hr.le_of_low hside
      · rw [hdist, hdist, hself]
        exact hr.closest_below (h.gap_signed hf hv true) hside (by simp only [signFactor, if_true] at hle ⊢; linarith)
  · cases neg with
    | false =>
      have hside := hr.low (.inr (.inr ⟨hm, rfl⟩))
      simp only [signFactor, Bool.false_eq_true, if_false, one_mul]
      exact ⟨hr.le_of_low hside, fun v hv hle => hr.closest_below (by simpa [signFactor] using h.gap_signed hf hv false) hside hle⟩
    | true =>
      have hside := hr.high (.inr ⟨hm, rfl⟩)
      refine ⟨?_, fun v hv hle => ?_⟩
      · simpa [signFactor] using hr.ge_of_high hside
      · rw [hdist, hdist, hself]
        exact hr.closest_above (h.gap_signed hf hv true) hside (by simp only [signFactor, if_true] at hle ⊢; linarith)

/-- To nearest: another finite value as close means that the exact magnitude is a midpoint of the grid. -/
theorem InRange.midpoint_of_tie (hf : FmtOk f) (hm : mode = 0 ∨ mode = 4) {v : ℝ} (hv : IsFinite f v) (hne : v ≠ signFactor neg * (q * 2 ^ g))
    (heq : |signFactor neg * (q * 2 ^ g) - signFactor neg * a| = |v - signFactor neg * a|) : 2 * a = (2 * n + 1) * 2 ^ g := by
  have hself (x : ℝ) : signFactor neg * (signFactor neg * x) = x := by rw [← mul_assoc, signFactor_mul_self, one_mul]
  refine h.rounded.midpoint_of_tie (h.gap_signed hf hv neg) hm (fun e => hne ?_) ?_
  · rw [← e, hself]
  · rwa [abs_signFactor_mul_sub, hself, abs_signFactor_mul_sub] at heq

/-- A finite value is the exact one only when the result is exact. -/
theorem InRange.exact_of_finite (hf : FmtOk f) (hv : IsFinite f (signFactor neg * a)) : ex = true := by
  have hr := h.rounded
  have ha : 0 ≤ a := le_trans (by positivity) hr.lo
  have hgap := h.gap hf hv
  rw [abs_signFactor_mul, abs_of_nonneg ha] at hgap
  exact hr.exact_iff.mpr (le_antisymm (hgap.resolve_right hr.hi.not_ge) hr.lo)

theorem InRange.exact_iff_eq : ex = true ↔ signFactor neg * (q * 2 ^ g) = signFactor neg * a := by
  rw [h.rounded.exact_iff_eq, mul_right_inj' fun e => by have := signFactor_mul_self neg; simp [e] at this]

end Outcomes

end Sys2Proof.Safety
end

section
/-! PROOFS. RoundTo against exact rationals (R61 to R63, R67). -/

namespace Sys2Proof.Safety

open Sys2Proof.Machine

/-- The formats of the statement. -/
theorem fmtOk_of_mem {f : Fmt} (h : f ∈ [fp32, fp64, bf16, fp16, ixFmt]) : FmtOk f := by
  simp only [List.mem_cons, List.not_mem_nil, or_false] at h
  rcases h with rfl | rfl | rfl | rfl | rfl <;> exact ⟨by decide, by decide⟩

/-- The exact magnitude of a dyadic. -/
noncomputable def magnitude (x : Dy) : ℝ := x.m * 2 ^ x.e

theorem signFactor_mul_magnitude (x : Dy) : signFactor x.neg * magnitude x = ratOf x := (ratOf_cast x).symm

theorem approximates_magnitude (f : Fmt) (x : Dy) : Approximates f x (magnitude x) := by
  by_cases hm : x.m = 0
  · exact .inl ⟨hm, by simp [magnitude, hm]⟩
  · exact .inr ⟨hm, .inl rfl⟩

theorem isFinite_ratOf {f : Fmt} {i : Nat} {d : Dy} (h : f.decode i = .fin d) : IsFinite f (ratOf d) := ⟨i, d, h, rfl⟩

/-! Signs and parities of results. -/

section Bits

variable {f : Fmt}

theorem signed_div (neg : Bool) {n : Nat} (hn : n < 2 ^ (f.p + f.ew)) : (f.signBit neg + n) / 2 ^ (f.p + f.ew) = if neg then 1 else 0 := by
  unfold Fmt.signBit
  split
  · rw [Nat.add_div_left _ (Nat.two_pow_pos _), Nat.div_eq_of_lt hn]
  · rw [Nat.zero_add, Nat.div_eq_of_lt hn]

theorem below_inf_lt {n : Nat} (hn : n ≤ (2 ^ f.ew - 1) * 2 ^ f.p) : n < 2 ^ (f.p + f.ew) :=
  hn.trans_lt (by rw [Nat.add_comm, Nat.pow_add]; exact Nat.mul_lt_mul_of_pos_right (Nat.sub_lt (Nat.two_pow_pos _) one_pos) (Nat.two_pow_pos _))

theorem maxBits_eq (hf : FmtOk f) (neg : Bool) : ∃ n, f.maxBits neg = f.signBit neg + n ∧ n < (2 ^ f.ew - 1) * 2 ^ f.p := by
  refine ⟨(2 ^ f.ew - 2) * 2 ^ f.p + (2 ^ f.p - 1), Nat.add_assoc .., ?_⟩
  have hb := bias_double hf
  have hp := Nat.two_pow_pos f.p
  rw [show 2 ^ f.ew - 1 = 2 ^ f.ew - 2 + 1 by omega, Nat.add_one_mul]
  omega

theorem signBit_even (hf : FmtOk f) (neg : Bool) : f.signBit neg % 2 = 0 := by
  unfold Fmt.signBit
  split
  · exact Nat.mod_eq_zero_of_dvd (dvd_pow_self 2 (by have := hf.p; omega))
  · rfl

end Bits

section Results

variable {f : Fmt} {mode : Nat} {neg : Bool} {a : ℝ} {r : Nat × BitVec 6}

theorem Overflowed.sign (hf : FmtOk f) (h : Overflowed f mode neg a r) : r.1 / 2 ^ (f.p + f.ew) = if neg then 1 else 0 := by
  rcases h.bits with hb | hb
  · rw [hb]
    exact signed_div neg (below_inf_lt le_rfl)
  · obtain ⟨n, hn, hlt⟩ := maxBits_eq hf neg
    rw [hb, hn]
    exact signed_div neg (below_inf_lt hlt.le)

variable {g : Int} {n q : Nat} {ex : Bool} (h : InRange f mode neg a r g n q ex)

include h

theorem InRange.sign : r.1 / 2 ^ (f.p + f.ew) = if neg then 1 else 0 := by
  rw [h.bits]
  exact signed_div neg (below_inf_lt h.range.le)

theorem InRange.parity (hf : FmtOk f) : r.1 % 2 = q % 2 := by
  obtain ⟨k, hk⟩ : ∃ k, f.p = k + 1 := ⟨f.p - 1, by have := hf.p; omega⟩
  have hs := signBit_even hf neg
  rw [h.bits, hk, Nat.pow_succ, ← Nat.mul_assoc]
  omega

/-- Its flags: nothing of an overflow, NX when inexact, UF only then. -/
theorem InRange.flags_of : r.2 &&& fOF = 0 ∧ (r.2 &&& fNX ≠ 0 ↔ ex = false) ∧ (r.2 &&& fUF ≠ 0 → ex = false) ∧ r.2 &&& (fNV ||| fDR ||| fPZ) = 0 ∧ (ex = true → r.2 = 0) := by
  rcases h.flags with hfl | hfl
  · rw [hfl]
    cases ex <;> decide
  · rw [hfl]
    cases ex <;> decide

end Results

/-! Round to odd beside round toward zero. -/

section Odd

variable {f : Fmt} {neg : Bool} {a : ℝ} {r r' : Nat × BitVec 6} {g : Int} {n q : Nat} {ex : Bool}

/-- Below its top a magnitude's grid does not depend on the mode. -/
theorem InRange.grid_le {mode mode' : Nat} {g' : Int} {n' q' : Nat} {ex' : Bool} (h : InRange f mode neg a r g n q ex) (h' : InRange f mode' neg a r' g' n' q' ex') : g ≤ g' := by
  rcases h.low with hl | hl
  · exact hl ▸ h'.least_le
  · have hlt := hl.trans_lt h'.high
    rw [← two_zpow_add, ← two_zpow_add] at hlt
    have := (zpow_lt_zpow_iff_right₀ one_lt_two).mp hlt
    push_cast at this
    omega

/-- A magnitude in range in one mode does not overflow toward zero. -/
theorem InRange.not_overflowed_trunc {mode : Nat} (h : InRange f mode neg a r g n q ex) (hf : FmtOk f) : ¬ Overflowed f 1 neg a r' := by
  intro ho
  have hle := (ho.trunc rfl).trans_lt h.high
  rw [← two_zpow_add, ← two_zpow_add] at hle
  have hg := (zpow_lt_zpow_iff_right₀ one_lt_two).mp hle
  have hb := bias_double hf
  have hbias := one_le_bias hf.ew
  have hlow := h.low.resolve_left fun e => by rw [e] at hg; unfold leastExp at hg; push_cast at hg; omega
  have hq := (h.rounded.le_of_le hlow).trans h.rounded.le_result
  have hrange := h.range
  have : (2 * f.bias + 1) * 2 ^ f.p ≤ (g - leastExp f).toNat * 2 ^ f.p + q := by
    calc (2 * f.bias + 1) * 2 ^ f.p ≤ ((g - leastExp f).toNat + 1) * 2 ^ f.p := Nat.mul_le_mul_right _ (by unfold leastExp; push_cast at hg; omega)
      _ ≤ _ := by rw [Nat.add_one_mul]; omega
  rw [hb] at hrange
  omega

/-- Round to odd gives what round toward zero gives, or the pattern next above. -/
theorem InRange.odd_next {n' q' : Nat} {ex' : Bool} {g' : Int} (h : InRange f 5 neg a r g n q ex) (h' : InRange f 1 neg a r' g' n' q' ex') : r'.1 = r.1 ∨ r'.1 + 1 = r.1 := by
  obtain rfl := le_antisymm (h.grid_le h') (h'.grid_le h)
  have hn : n' = n := by
    have h1 := Nat.lt_succ_iff.mp (h.rounded.lt_of_lt (k := n' + 1) (by push_cast; exact h'.rounded.hi))
    have h2 := Nat.lt_succ_iff.mp (h'.rounded.lt_of_lt (k := n + 1) (by push_cast; exact h.rounded.hi))
    omega
  have hq' := h'.rounded.trunc rfl
  rw [h.bits, h'.bits, hq', hn]
  rcases h.rounded.step with hq | ⟨hq, -⟩
  · exact .inl (by rw [hq])
  · exact .inr (by rw [hq]; omega)

end Odd

/-! The choice of a mode as rationals. -/

/-- No value of a side is nearer, read for rationals. -/
theorem among_of_real {f : Fmt} {t y : ℚ} {side : ℚ → Prop} (hy : side y) (h : ∀ v : ℚ, IsFinite f v → side v → |(y : ℝ) - t| ≤ |(v : ℝ) - t|) :
    side y ∧ ∀ i z, i < 2 ^ (f.p + f.ew + 1) → f.decode i = .fin z → side (ratOf z) → |y - t| ≤ |ratOf z - t| :=
  ⟨hy, fun i z _ hz hs => by exact_mod_cast h (ratOf z) (isFinite_ratOf hz) hs⟩

/-- Settles O23: RoundTo is in range on one grid of the format, between whose places no value lies, or beyond every finite value. -/
theorem exactRounding : Obligations.ExactRounding := by
  intro f hmem x mode hmode r
  have hf := fmtOk_of_mem hmem
  have hcases : (∃ g n q ex, InRange f mode x.neg (magnitude x) r g n q ex) ∨ Overflowed f mode x.neg (magnitude x) r := round_cases hf hmode (approximates_magnitude f x)
  refine ⟨fun hm => if_pos hm, fun _ => ?_, fun i y _ hy _ heq => ?_, fun _ hof => ?_, fun _ hof => ?_⟩
  · rcases hcases with ⟨g, n, q, ex, h⟩ | h
    · exact h.sign
    · exact h.sign hf
  · have hfin : IsFinite f (signFactor x.neg * magnitude x) := by
      rw [signFactor_mul_magnitude, ← heq]
      exact isFinite_ratOf hy
    rcases hcases with ⟨g, n, q, ex, h⟩ | h
    · have hex := h.exact_of_finite hf hfin
      obtain ⟨d, hd, hval⟩ := h.decode hf
      rw [h.exact_iff_eq.mp hex, signFactor_mul_magnitude] at hval
      exact ⟨h.flags_of.2.2.2.2 hex, d, hd, by exact_mod_cast hval⟩
    · have hlt := h.finite_lt hf hfin
      rw [abs_signFactor_mul] at hlt
      exact absurd (le_abs_self _) hlt.not_ge
  · rcases hcases with ⟨g, n, q, ex, h⟩ | h
    · exact absurd h.flags_of.1 hof
    · refine ⟨h.flags, h.bits.imp_left fun hb => ?_⟩
      rw [hb, decode_infBits]
  · obtain ⟨g, n, q, ex, h⟩ := hcases.resolve_right fun h => absurd hof (by rw [h.flags]; decide)
    obtain ⟨-, hnx, huf, hother, -⟩ := h.flags_of
    obtain ⟨y, hy, hval⟩ := h.decode hf
    have hexact : ex = true ↔ ratOf y = ratOf x := by
      rw [h.exact_iff_eq, ← hval, signFactor_mul_magnitude]
      norm_cast
    have hinexact : ex = false ↔ ratOf y ≠ ratOf x := by rw [ne_eq, ← hexact, Bool.not_eq_true]
    have htie (hm : mode = 0 ∨ mode = 4) {i : Nat} {z : Dy} (hz : f.decode i = .fin z) (hne : ratOf z ≠ ratOf y) (heq : |ratOf y - ratOf x| = |ratOf z - ratOf x|) :
        2 * magnitude x = (2 * n + 1) * 2 ^ g := by
      refine h.midpoint_of_tie hf hm (isFinite_ratOf hz) ?_ ?_
      · rw [← hval]
        exact_mod_cast hne
      · rw [← hval, signFactor_mul_magnitude]
        exact_mod_cast heq
    obtain ⟨near, trunc, up, down⟩ := hval ▸ signFactor_mul_magnitude x ▸ h.chosen hf
    refine ⟨y, hy, ?_, hnx.trans hinexact, fun h => hinexact.mp (huf h), hother⟩
    intro among tie
    refine ⟨fun hm => ⟨among_of_real (side := fun _ => True) trivial fun v hv _ => near (.inl hm) v hv, fun i z _ hz hne heq => ?_⟩, fun hm => ?_, fun hm => ?_, fun hm => ?_,
      fun hm => ⟨among_of_real (side := fun _ => True) trivial fun v hv _ => near (.inr hm) v hv, fun i z _ hz hne heq => ?_⟩, fun hm hne => ⟨?_, _, ?_, rfl⟩⟩
    · rw [h.parity hf]
      exact h.rounded.even hm (htie (.inl hm) hz hne heq)
    · obtain ⟨hside, hbest⟩ := trunc hm
      exact among_of_real (side := fun z => |z| ≤ |ratOf x|) (by exact_mod_cast hside) fun v hv hs => hbest v hv (by exact_mod_cast hs)
    · obtain ⟨hside, hbest⟩ := up hm
      exact among_of_real (side := fun z => ratOf x ≤ z) (by exact_mod_cast hside) fun v hv hs => hbest v hv (by exact_mod_cast hs)
    · obtain ⟨hside, hbest⟩ := down hm
      exact among_of_real (side := fun z => z ≤ ratOf x) (by exact_mod_cast hside) fun v hv hs => hbest v hv (by exact_mod_cast hs)
    · have hq := h.rounded.away hm (htie (.inr hm) hz hne heq)
      have hlt : |(ratOf x : ℝ)| < |(ratOf y : ℝ)| := by
        rw [hval, ← signFactor_mul_magnitude, abs_signFactor_mul, abs_signFactor_mul, hq]
        push_cast
        exact (abs_of_nonneg (le_trans (by positivity) h.rounded.lo)).trans_lt (h.rounded.hi.trans_le (le_abs_self _))
      exact_mod_cast hlt
    · rw [h.parity hf]
      exact h.rounded.odd hm (hinexact.mpr hne)
    · subst hm
      rcases round_cases hf (show 1 < 6 by decide) (approximates_magnitude f x) with ⟨g', n', q', ex', h'⟩ | h'
      · exact h.odd_next h'
      · exact absurd h' (h.not_overflowed_trunc hf)

end Sys2Proof.Safety
end

section
/-! PROOFS. The rounded quotient and square root (R66): the dyadic that each hands to RoundTo stands for the exact value. -/

namespace Sys2Proof.Safety

open Sys2Proof.Machine

/-- Twice a whole number of places, with a last bit for the rest, stands for what lies from that number of places to the next. -/
theorem approximates_sticky {f : Fmt} {neg : Bool} {M : Nat} {E : Int} {a : ℝ} {c : Prop} [Decidable c] (hM : 2 ^ (f.p + 1) ≤ M) (hex : c → a = M * 2 ^ (E + 1))
    (hlo : ¬ c → M * 2 ^ (E + 1) < a) (hhi : a < (M + 1) * 2 ^ (E + 1)) : Approximates f { neg := neg, m := 2 * M + (if c then 0 else 1), e := E } a := by
  have h2 : (2 : ℝ) ^ (E + 1) = 2 * 2 ^ E := by rw [zpow_add_one₀ two_ne_zero, mul_comm]
  have hpos := Nat.two_pow_pos (f.p + 1)
  rw [h2] at hex hlo hhi
  by_cases hc : c
  · rw [if_pos hc]
    refine .inr ⟨by dsimp only; omega, .inl ?_⟩
    rw [hex hc]
    push_cast
    ring
  · rw [if_neg hc]
    have hlen : f.p + 2 < bitLen (2 * M + 1) := lt_bitLen_of_le (by rw [Nat.pow_succ']; omega)
    have hlo := hlo hc
    refine .inr ⟨Nat.succ_ne_zero _, .inr ⟨Nat.mul_add_mod 2 M 1, by unfold ownGrid; dsimp only; omega, ?_, ?_⟩⟩
    · push_cast
      linarith
    · push_cast
      linarith

/-! The quotient. -/

/-- A quotient of whole numbers beside its whole part. -/
theorem div_between {n d : Nat} (hd : 0 < d) : (n % d = 0 → (n : ℝ) / d = (n / d : Nat)) ∧ (¬ n % d = 0 → ((n / d : Nat) : ℝ) < n / d) ∧ (n : ℝ) / d < (n / d : Nat) + 1 := by
  have hdr : (0 : ℝ) < d := by exact_mod_cast hd
  have hdm := Nat.div_add_mod n d
  have hlt := Nat.mod_lt n hd
  refine ⟨fun h => ?_, fun h => ?_, ?_⟩
  · rw [div_eq_iff hdr.ne']
    exact_mod_cast (show n = n / d * d by rw [Nat.mul_comm]; omega)
  · rw [lt_div_iff₀ hdr]
    exact_mod_cast (show n / d * d < n by rw [Nat.mul_comm]; omega)
  · rw [div_lt_iff₀ hdr]
    exact_mod_cast (show n < (n / d + 1) * d by rw [Nat.add_one_mul, Nat.mul_comm]; omega)

theorem magnitude_div {x y : Dy} (hy : y.m ≠ 0) {k : Nat} {g : Int} (hg : g = x.e - y.e - k) : magnitude x / magnitude y = ((x.m * 2 ^ k : Nat) : ℝ) / y.m * 2 ^ g := by
  have hY : (y.m : ℝ) ≠ 0 := Nat.cast_ne_zero.mpr hy
  have hpow : (2 : ℝ) ^ x.e = (2 ^ k : Nat) * 2 ^ g * 2 ^ y.e := by
    rw [← two_zpow_add, ← zpow_add₀ two_ne_zero]
    congr 1
    omega
  unfold magnitude
  rw [hpow, Nat.cast_mul]
  field_simp

theorem numDiv_fin (f : Fmt) (x : Dy) {y : Dy} (hy : y.m ≠ 0) :
    ∃ d, numDiv f (.fin x) (.fin y) = .val d ∧ d.neg = (x.neg != y.neg) ∧ Approximates f d (magnitude x / magnitude y) := by
  refine ⟨_, if_neg hy, rfl, ?_⟩
  by_cases hx : x.m = 0
  · exact .inl ⟨by simp [hx], by simp [magnitude, hx]⟩
  have hu : (0 : ℝ) < 2 ^ (x.e - y.e - (f.p + 4 + bitLen y.m : Nat) - 1 + 1) := zpow_pos two_pos _
  obtain ⟨heq, hlt, hhi⟩ := div_between (n := x.m * 2 ^ (f.p + 4 + bitLen y.m)) (Nat.pos_of_ne_zero hy)
  rw [magnitude_div hy (k := f.p + 4 + bitLen y.m) (g := x.e - y.e - (f.p + 4 + bitLen y.m : Nat) - 1 + 1) (sub_add_cancel _ _)]
  refine approximates_sticky ?_ (fun h => by rw [heq h]) (fun h => mul_lt_mul_of_pos_right (hlt h) hu) (mul_lt_mul_of_pos_right hhi hu)
  rw [Nat.le_div_iff_mul_le (Nat.pos_of_ne_zero hy)]
  calc 2 ^ (f.p + 1) * y.m ≤ 2 ^ (f.p + 4) * 2 ^ bitLen y.m := Nat.mul_le_mul (Nat.pow_le_pow_right two_pos (by omega)) (lt_two_pow_bitLen _).le
    _ = 2 ^ (f.p + 4 + bitLen y.m) := (Nat.pow_add ..).symm
    _ ≤ x.m * 2 ^ (f.p + 4 + bitLen y.m) := Nat.le_mul_of_pos_left _ (Nat.pos_of_ne_zero hx)

/-! The square root. -/

/-- The bit-by-bit square root keeps its bounds: r² ≤ n < (r + 2^b)². -/
theorem isqrtGo_spec {n : Nat} (b : Nat) {r : Nat} (hlo : r * r ≤ n) (hhi : n < (r + 2 ^ b) * (r + 2 ^ b)) :
    isqrtGo n b r * isqrtGo n b r ≤ n ∧ n < (isqrtGo n b r + 1) * (isqrtGo n b r + 1) := by
  induction b generalizing r with
  | zero => exact ⟨hlo, hhi⟩
  | succ b ih =>
    unfold isqrtGo
    rw [Nat.pow_succ, Nat.mul_two, ← Nat.add_assoc] at hhi
    split
    · next h => exact ih h hhi
    · next h => exact ih hlo (Nat.not_le.mp h)

theorem isqrt_spec (n : Nat) : isqrt n * isqrt n ≤ n ∧ n < (isqrt n + 1) * (isqrt n + 1) := by
  refine isqrtGo_spec _ (Nat.zero_le _) ((lt_two_pow_bitLen n).trans_le ?_)
  rw [Nat.zero_add, ← Nat.pow_add]
  exact Nat.pow_le_pow_right two_pos (by omega)

/-- A square root beside its whole part. -/
theorem sqrt_between (n : Nat) : (isqrt n * isqrt n = n → √(n : ℝ) = isqrt n) ∧ (¬ isqrt n * isqrt n = n → (isqrt n : ℝ) < √n) ∧ √(n : ℝ) < isqrt n + 1 := by
  obtain ⟨hlo, hhi⟩ := isqrt_spec n
  refine ⟨fun h => ?_, fun h => ?_, ?_⟩
  · refine (Real.sqrt_eq_iff_mul_self_eq (Nat.cast_nonneg _) (Nat.cast_nonneg _)).mpr ?_
    exact_mod_cast h.symm
  · rw [Real.lt_sqrt (Nat.cast_nonneg _), sq]
    exact_mod_cast lt_of_le_of_ne hlo h
  · rw [Real.sqrt_lt' (by positivity), sq]
    exact_mod_cast hhi

theorem sqrt_magnitude {x : Dy} {k : Nat} {g : Int} (hg : 2 * g = x.e - k) : √(magnitude x) = √((x.m * 2 ^ k : Nat) : ℝ) * 2 ^ g := by
  have hpow : (2 : ℝ) ^ x.e = (2 ^ k : Nat) * (2 ^ g) ^ 2 := by
    rw [← zpow_natCast, ← zpow_mul, ← two_zpow_add]
    congr 1
    push_cast
    omega
  have hu : (0 : ℝ) ≤ 2 ^ g := (zpow_pos two_pos g).le
  unfold magnitude
  rw [hpow, ← mul_assoc, ← Nat.cast_mul, Real.sqrt_mul (Nat.cast_nonneg _), Real.sqrt_sq hu]

theorem numSqrt_fin (f : Fmt) {x : Dy} (hx : x.neg = false) : ∃ d, numSqrt f (.fin x) = .val d ∧ d.neg = false ∧ Approximates f d √(magnitude x) := by
  by_cases hm : x.m = 0
  · exact ⟨x, if_pos hm, hx, .inl ⟨hm, by simp [magnitude, hm]⟩⟩
  refine ⟨_, (if_neg hm).trans (if_neg (by rw [hx]; decide)), rfl, ?_⟩
  have hodd := Int.emod_two_eq_zero_or_one x.e
  generalize hn : x.m * 2 ^ ((x.e % 2).toNat + 2 * (f.p + 3)) = n
  have hu : (0 : ℝ) < 2 ^ ((x.e - x.e % 2) / 2 - (f.p + 3 : Nat) - 1 + 1) := zpow_pos two_pos _
  obtain ⟨heq, hlt, hhi⟩ := sqrt_between n
  rw [sqrt_magnitude (k := (x.e % 2).toNat + 2 * (f.p + 3)) (g := (x.e - x.e % 2) / 2 - (f.p + 3 : Nat) - 1 + 1) (by push_cast; omega), hn]
  refine approximates_sticky ?_ (fun h => by rw [heq h]) (fun h => mul_lt_mul_of_pos_right (hlt h) hu) (mul_lt_mul_of_pos_right hhi hu)
  refine Nat.lt_succ_iff.mp (Nat.mul_self_lt_mul_self_iff.mp (lt_of_le_of_lt ?_ (isqrt_spec n).2))
  rw [← hn, ← Nat.pow_add]
  exact (Nat.pow_le_pow_right two_pos (by omega)).trans (Nat.le_mul_of_pos_left _ (Nat.pos_of_ne_zero hm))

end Sys2Proof.Safety
end

section
/-! PROOFS. The exact values of R66 and R106, the rounded quotient and square root, and the lesser and greater of two values. -/

namespace Sys2Proof.Safety

open Sys2Proof.Machine

/-! Special values of the operations (R66). -/

theorem neg_add_of_cancel (mode : Nat) {x y : Dy} (h0 : ratOf x + ratOf y = 0) (h : ¬ (x.m = 0 ∧ y.m = 0 ∧ x.neg = y.neg)) : (x.add mode y).neg = (mode == 3) := by
  have hs : x.at (min x.e y.e) + y.at (min x.e y.e) = 0 := by
    rw [← cast_at x (min_le_left x.e y.e), ← cast_at y (min_le_right x.e y.e), ← add_mul, mul_eq_zero_iff_right (zpow_ne_zero _ two_ne_zero)] at h0
    exact_mod_cast h0
  simp only [Dy.add, hs, if_true, if_neg h]

/-- A NaN operand (R66): the same in a sum, a product and a quotient. -/
theorem nan_operand (mode : Nat) (f : Fmt) {a b : Machine.Num} (h : (a.isNan || b.isNan) = true) :
    numAdd mode a b = .nan (a.isSig || b.isSig) ∧ numMul a b = .nan (a.isSig || b.isSig) ∧ numDiv f a b = .nan (a.isSig || b.isSig) := by
  cases a with
  | nan s => exact ⟨rfl, rfl, rfl⟩
  | inf n =>
    cases b with
    | nan s => exact ⟨rfl, rfl, rfl⟩
    | inf _ | fin _ => cases h
  | fin x =>
    cases b with
    | nan s => exact ⟨rfl, rfl, rfl⟩
    | inf _ | fin _ => cases h

theorem zero_times_inf (mode : Nat) {a : Machine.Num} (h : a.isZero = true) (n : Bool) (c : Machine.Num) :
    numMul a (.inf n) = .nan true ∧ numMul (.inf n) a = .nan true ∧ numFma mode a (.inf n) c = .nan true := by
  cases a with
  | nan _ | inf _ => cases h
  | fin x =>
    have hm : x.m = 0 := beq_iff_eq.mp h
    have h1 : numMul (.fin x) (.inf n) = .nan true := if_pos hm
    have h2 : numMul (.inf n) (.fin x) = .nan true := if_pos hm
    exact ⟨h1, h2, by simp [numFma, h1]⟩

theorem numFma_nan_addend (mode : Nat) {a b c : Machine.Num} (h : (numMul a b).isNan = false) (hc : c.isNan = true) : numFma mode a b c = .nan c.isSig := by
  cases c with
  | inf _ | fin _ => cases hc
  | nan s =>
    unfold numFma
    split
    · next hm => rw [hm] at h; cases h
    · rfl
    · rfl

/-! The lesser and the greater (R106). -/

section MinMax

variable {f : Fmt} {p q : Nat} (hp : (f.decode p).isNan = false) (hq : (f.decode q).isNan = false)

include hp hq

theorem minmax_of_lt (hlt : numLt (f.decode p) (f.decode q) = true) (hgt : numLt (f.decode q) (f.decode p) = false) :
    fminBits f p q = (p, 0) ∧ fminBits f q p = (p, 0) ∧ fmaxBits f p q = (q, 0) ∧ fmaxBits f q p = (q, 0) := by
  simp [fminBits, fmaxBits, numEq, hp, hq, hlt, hgt]

theorem minmax_of_signs (hlt : numLt (f.decode p) (f.decode q) = false) (hgt : numLt (f.decode q) (f.decode p) = false) (hsp : (f.decode p).sign = true)
    (hsq : (f.decode q).sign = false) : fminBits f p q = (p, 0) ∧ fminBits f q p = (p, 0) ∧ fmaxBits f p q = (q, 0) ∧ fmaxBits f q p = (q, 0) := by
  simp [fminBits, fmaxBits, numEq, hp, hq, hlt, hgt, hsp, hsq]

end MinMax

/-- -∞ lies below every other value. -/
theorem neg_inf_lt {b : Machine.Num} (hb : b.isNan = false) (hne : b ≠ .inf true) : numLt (.inf true) b = true ∧ numLt b (.inf true) = false := by
  cases b with
  | nan _ => cases hb
  | inf n => cases n with
    | false => exact ⟨rfl, rfl⟩
    | true => exact absurd rfl hne
  | fin _ => exact ⟨rfl, rfl⟩

/-- +∞ lies above every other value. -/
theorem lt_pos_inf {a : Machine.Num} (ha : a.isNan = false) (hne : a ≠ .inf false) : numLt a (.inf false) = true ∧ numLt (.inf false) a = false := by
  cases a with
  | nan _ => cases ha
  | inf n => cases n with
    | false => exact absurd rfl hne
    | true => exact ⟨rfl, rfl⟩
  | fin _ => exact ⟨rfl, rfl⟩

/-! A rounded approximation. -/

/-- RoundTo of a dyadic that stands for a real: beyond every finite value, or the mode's choice for the real. -/
theorem rounds_approximated {f : Fmt} (hf : FmtOk f) {mode : Nat} (hmode : mode < 5) {d : Dy} {a : ℝ} (h : Approximates f d a) :
    ((f.round d mode).2 &&& fOF ≠ 0 ∧ ∀ v, IsFinite f v → |v| < |signFactor d.neg * a|) ∨
    ((f.round d mode).2 &&& fOF = 0 ∧ ∃ y, f.decode (f.round d mode).1 = .fin y ∧ ((f.round d mode).2 &&& fNX ≠ 0 ↔ (ratOf y : ℝ) ≠ signFactor d.neg * a) ∧
      (d.neg = false → 0 ≤ ratOf y) ∧ Chosen f mode (signFactor d.neg * a) (ratOf y)) := by
  rcases round_cases hf (hmode.trans (by decide)) h with ⟨g, n, q, ex, h⟩ | h
  · obtain ⟨hof, hnx, -⟩ := h.flags_of
    obtain ⟨y, hy, hval⟩ := h.decode hf
    refine .inr ⟨hof, y, hy, ?_, fun hneg => ?_, hval ▸ h.chosen hf⟩
    · rw [hnx, hval, ne_eq, ← h.exact_iff_eq, Bool.not_eq_true]
    · have hpos : (0 : ℝ) ≤ ratOf y := by
        rw [hval, hneg]
        simp only [signFactor, Bool.false_eq_true, if_false, one_mul]
        positivity
      exact_mod_cast hpos
  · refine .inl ⟨by rw [h.flags]; decide, fun v hv => ?_⟩
    rw [abs_signFactor_mul]
    exact (h.finite_lt hf hv).trans_le (le_abs_self a)

theorem ratOf_div_cast (x y : Dy) : signFactor (x.neg != y.neg) * (magnitude x / magnitude y) = ((ratOf x / ratOf y : ℚ) : ℝ) := by
  rw [Rat.cast_div, ← signFactor_mul_magnitude, ← signFactor_mul_magnitude]
  cases x.neg <;> cases y.neg <;> simp [signFactor, neg_div, div_neg]

/-! The nearest of two to a square root. -/

theorem le_midpoint {t y v : ℝ} (h : |y - t| ≤ |v - t|) (hyv : y < v) : 2 * t ≤ y + v := by
  have := sq_le_sq.mpr h
  nlinarith

theorem midpoint_le {t y v : ℝ} (h : |y - t| ≤ |v - t|) (hvy : v < y) : y + v ≤ 2 * t := by
  have := sq_le_sq.mpr h
  nlinarith

/-- What a mode's choice for a square root is, said of squares. -/
theorem chosen_sqrt {f : Fmt} {mode : Nat} {x y : ℚ} (hx : 0 ≤ x) (hy : 0 ≤ y) (h : Chosen f mode √(x : ℝ) y) :
    (mode = 0 ∨ mode = 4 → ∀ v : ℚ, IsFinite f v → 0 ≤ v → (y < v → 4 * x ≤ (y + v) ^ 2) ∧ (v < y → (y + v) ^ 2 ≤ 4 * x)) ∧
    (mode = 1 ∨ mode = 3 → y ^ 2 ≤ x ∧ ∀ v : ℚ, IsFinite f v → v ^ 2 ≤ x → v ≤ y) ∧
    (mode = 2 → x ≤ y ^ 2 ∧ ∀ v : ℚ, IsFinite f v → 0 ≤ v → x ≤ v ^ 2 → y ≤ v) := by
  have hx' : (0 : ℝ) ≤ x := by exact_mod_cast hx
  have hy' : (0 : ℝ) ≤ y := by exact_mod_cast hy
  have ht := Real.sqrt_nonneg (x : ℝ)
  have hsq : √(x : ℝ) ^ 2 = x := Real.sq_sqrt hx'
  have hroot {v : ℚ} (hv : v ^ 2 ≤ x) : |(v : ℝ)| ≤ √(x : ℝ) := Real.abs_le_sqrt (by exact_mod_cast hv)
  obtain ⟨near, trunc, up, down⟩ := h
  refine ⟨fun hm v hv hv0 => ⟨fun hlt => ?_, fun hlt => ?_⟩, fun hm => ?_, fun hm => ?_⟩
  · have hmid := le_midpoint (near hm v hv) (by exact_mod_cast hlt)
    have hle : 4 * (x : ℝ) ≤ (y + v) ^ 2 := by rw [← hsq]; nlinarith
    exact_mod_cast hle
  · have hmid := midpoint_le (near hm v hv) (by exact_mod_cast hlt)
    have hv0' : (0 : ℝ) ≤ v := by exact_mod_cast hv0
    have hle : ((y : ℝ) + v) ^ 2 ≤ 4 * x := by rw [← hsq]; nlinarith
    exact_mod_cast hle
  · have hboth : (y : ℝ) ≤ √(x : ℝ) ∧ ∀ v : ℚ, IsFinite f v → v ^ 2 ≤ x → |(y : ℝ) - √(x : ℝ)| ≤ |(v : ℝ) - √(x : ℝ)| := by
      rcases hm with hm | hm
      · obtain ⟨hside, hbest⟩ := trunc hm
        exact ⟨by rwa [abs_of_nonneg hy', abs_of_nonneg ht] at hside, fun v hv hle => hbest v hv (by rw [abs_of_nonneg ht]; exact hroot hle)⟩
      · obtain ⟨hside, hbest⟩ := down hm
        exact ⟨hside, fun v hv hle => hbest v hv ((le_abs_self _).trans (hroot hle))⟩
    obtain ⟨hside, hbest⟩ := hboth
    refine ⟨?_, fun v hv hle => ?_⟩
    · have hle : (y : ℝ) ^ 2 ≤ x := by rw [← hsq]; exact pow_le_pow_left₀ hy' hside 2
      exact_mod_cast hle
    · have hdist := hbest v hv hle
      rw [abs_sub_comm, abs_of_nonneg (sub_nonneg.mpr hside), abs_sub_comm, abs_of_nonneg (sub_nonneg.mpr ((le_abs_self _).trans (hroot hle)))] at hdist
      have hle : (v : ℝ) ≤ y := by linarith
      exact_mod_cast hle
  · obtain ⟨hside, hbest⟩ := up hm
    refine ⟨?_, fun v hv hv0 hle => ?_⟩
    · have hle : (x : ℝ) ≤ y ^ 2 := by rw [← hsq]; exact pow_le_pow_left₀ ht hside 2
      exact_mod_cast hle
    · have hroot : √(x : ℝ) ≤ v := Real.sqrt_le_iff.mpr ⟨by exact_mod_cast hv0, by exact_mod_cast hle⟩
      have hdist := hbest v hv hroot
      rw [abs_of_nonneg (sub_nonneg.mpr hside), abs_of_nonneg (sub_nonneg.mpr hroot)] at hdist
      have hle : (y : ℝ) ≤ v := by linarith
      exact_mod_cast hle

/-- Settles O24: the model's exact values are those of the rationals; the quotient and the root are rounded through a dyadic that stands for them. -/
theorem exactArithmetic : Obligations.ExactArithmetic := by
  intro mode x y z a b c
  refine ⟨⟨_, rfl, ratOf_add mode x y, neg_add_of_cancel mode⟩, ⟨_, rfl, ratOf_mul x y, rfl⟩, ⟨_, rfl, by rw [ratOf_add, ratOf_mul]⟩,
    fun h => ⟨(nan_operand mode fp32 h).1, (nan_operand mode fp32 h).2.1⟩, rfl, rfl, fun n h => zero_times_inf mode h n c, fun _ _ h hc => numFma_nan_addend mode h hc, ?_⟩
  intro f hmem finite
  have hf := fmtOk_of_mem hmem
  have hfinite {v : ℚ} (hv : finite v) : IsFinite f v := by
    obtain ⟨i, d, -, hd, rfl⟩ := hv
    exact isFinite_ratOf hd
  refine ⟨fun hy hmode => ?_, ⟨rfl, rfl, rfl, ⟨_, rfl, rfl, rfl⟩, fun hy => if_pos hy, fun h => (nan_operand mode f h).2.2⟩, fun hx hmode => ?_,
    ⟨rfl, rfl, fun hx => ?_⟩, fun p q => ⟨fun h => ?_, fun h => ⟨if_pos h, if_pos h⟩⟩⟩
  · obtain ⟨d, hd, hneg, happ⟩ := numDiv_fin f x hy
    have hround := rounds_approximated hf hmode happ
    rw [hneg, ratOf_div_cast] at hround
    rw [hd]
    show ((f.round d mode).2 &&& fOF ≠ 0 → _) ∧ ((f.round d mode).2 &&& fOF = 0 → _)
    rcases hround with ⟨hof, hlt⟩ | ⟨hof, w, hw, hnx, -, near, trunc, up, down⟩
    · exact ⟨fun _ v hv => by exact_mod_cast hlt v (hfinite hv), fun h => absurd h hof⟩
    · refine ⟨fun h => absurd hof h, fun _ => ⟨w, hw, by exact_mod_cast hnx, ?_⟩⟩
      intro best
      refine ⟨fun hm => ⟨trivial, fun v hv _ => by exact_mod_cast near hm v (hfinite hv)⟩, fun hm => ?_, fun hm => ?_, fun hm => ?_⟩
      · obtain ⟨hside, hbest⟩ := trunc hm
        exact ⟨by exact_mod_cast hside, fun v hv hs => by exact_mod_cast hbest v (hfinite hv) (by exact_mod_cast hs)⟩
      · obtain ⟨hside, hbest⟩ := up hm
        exact ⟨by exact_mod_cast hside, fun v hv hs => by exact_mod_cast hbest v (hfinite hv) (by exact_mod_cast hs)⟩
      · obtain ⟨hside, hbest⟩ := down hm
        exact ⟨by exact_mod_cast hside, fun v hv hs => by exact_mod_cast hbest v (hfinite hv) (by exact_mod_cast hs)⟩
  · obtain ⟨d, hd, hneg, happ⟩ := numSqrt_fin f hx
    have hround := rounds_approximated hf hmode happ
    have hmag : magnitude x = ratOf x := by rw [← signFactor_mul_magnitude, hx]; exact (one_mul _).symm
    rw [hneg, show signFactor false = 1 from rfl, one_mul, hmag] at hround
    rw [hd]
    intro r hof
    obtain ⟨w, hw, hnx, hpos, hchosen⟩ := (hround.resolve_left fun h => h.1 hof).2
    have hx0 := ratOf_nonneg hx
    obtain ⟨h1, h2, h3⟩ := chosen_sqrt hx0 (hpos rfl) hchosen
    refine ⟨w, hw, hpos rfl, hnx.trans (not_congr ?_), fun hm v hv => h1 hm v (hfinite hv), fun hm => ?_, fun hm => ?_⟩
    · rw [eq_comm, Real.sqrt_eq_iff_eq_sq (by exact_mod_cast hx0) (by exact_mod_cast hpos rfl), eq_comm]
      norm_cast
    · exact ⟨(h2 hm).1, fun v hv => (h2 hm).2 v (hfinite hv)⟩
    · exact ⟨(h3 hm).1, fun v hv => (h3 hm).2 v (hfinite hv)⟩
  · simp [numSqrt, hx]
  · rcases h with ⟨u, v, hu, hv, h⟩ | ⟨hp, hq, hne⟩ | ⟨hq, hp, hne⟩
    · have hup : (f.decode p).isNan = false := by rw [hu]; rfl
      have hvq : (f.decode q).isNan = false := by rw [hv]; rfl
      rcases h with hlt | ⟨hu0, hun, hv0, hvn⟩
      · refine minmax_of_lt hup hvq ?_ ?_
        · rw [hu, hv, numLt_fin]; exact decide_eq_true hlt
        · rw [hu, hv, numLt_fin]; exact decide_eq_false hlt.not_gt
      · have hz : ratOf u = ratOf v := by rw [(ratOf_eq_zero u).mpr hu0, (ratOf_eq_zero v).mpr hv0]
        refine minmax_of_signs hup hvq ?_ ?_ ?_ ?_
        · rw [hu, hv, numLt_fin]; exact decide_eq_false hz.not_lt
        · rw [hu, hv, numLt_fin]; exact decide_eq_false hz.not_gt
        · rw [hu]; exact hun
        · rw [hv]; exact hvn
    · obtain ⟨hlt, hgt⟩ := neg_inf_lt hq hne
      exact minmax_of_lt (by rw [hp]; rfl) hq (by rw [hp]; exact hlt) (by rw [hp]; exact hgt)
    · obtain ⟨hlt, hgt⟩ := lt_pos_inf hp hne
      exact minmax_of_lt hp (by rw [hq]; rfl) (by rw [hq]; exact hlt) (by rw [hq]; exact hgt)

end Sys2Proof.Safety
end

section
/-! PROOFS. Link windows: moves to and from the ports (R105, R185 to R188). -/

namespace Sys2Proof.Safety

open Sys2Proof.Machine

theorem stalls_of_stall {i : Instr} {len : Nat} {s : State} {m : Bool} {e : Effect} (h : exec i s = finish len s e) (he : e = .stall m) : Stalls i s :=
  ⟨m, by rw [h, he]; rfl⟩

/-! The moves by port. -/

theorem port_not_stream (p : Fin 4) : ¬ (BitVec.ofNat 5 (8 + p.val)).toNat < 8 ∧ Fin.ofNat 4 (BitVec.ofNat 5 (8 + p.val)).toNat = p := by
  revert p
  decide

theorem exec_linkRead (p : Fin 4) (o : BitVec 3) (w : BitVec 1) (s : State) : exec (.vmovOport (BitVec.ofNat 5 (8 + p.val)) o w) s =
    finish 4 s (if w = 1 then linkForward p (fun t v => t.setO o v) s else linkPop p (fun t v => t.setO o v) s) := by
  obtain ⟨hport, hp⟩ := port_not_stream p
  show finish 4 s (if _ then _ else _) = _
  rw [if_neg hport, hp]

theorem exec_linkWrite (p : Fin 4) (o : BitVec 3) (m : BitVec 1) (s : State) : exec (.vmovPorto (BitVec.ofNat 5 (8 + p.val)) o m) s = finish 4 s (linkWrite p o m s) := by
  obtain ⟨hport, hp⟩ := port_not_stream p
  show finish 4 s (if _ then _ else _) = _
  rw [if_neg hport, hp]

theorem toFin_port (p : Fin 4) : (BitVec.ofNat 2 p.val).toFin = p := by
  revert p
  decide

theorem exec_lwin (p : Fin 4) (n : BitVec 4) (s : State) : exec (.lwin (BitVec.ofNat 2 p.val) n) s = finish 4 s (.ok (s.setLink p { s.here.links[p] with win := n })) :=
  congrArg (fun x => finish 4 s (.ok (s.setLink x { s.here.links[x] with win := n }))) (toFin_port p)

theorem exec_lstat (p : Fin 4) (d : BitVec 5) (s : State) : exec (.lstat (BitVec.ofNat 2 p.val) d) s = finish 4 s (.ok (s.setG d (s.linkStatus p))) :=
  congrArg (fun x => finish 4 s (.ok (s.setG d (s.linkStatus x)))) (toFin_port p)

/-- The port opposite to another is another one. -/
theorem oppositePort_ne (p : Fin 4) : oppositePort p ≠ p := by
  revert p
  decide

theorem oppositePort_eq (p : Fin 4) : oppositePort p = if p = 0 then 1 else if p = 1 then 0 else if p = 2 then 3 else 2 := by
  revert p
  decide

section Moves

variable {s : State} {p : Fin 4} {o : BitVec 3} {m : BitVec 1} {f : State → Strip → State} {w : LinkWord} {rest : List LinkWord}

theorem Link.open_iff (l : Link) : l.open_ = true ↔ l.o < l.win.toNat := decide_eq_true_iff

/-- A pop of a port that holds a word (R186). -/
theorem linkPop_of_cons (h : s.here.links[p].fifo = w :: rest) : linkPop p f s = .ok (f (s.linkTake p w rest) w.val) := by
  simp only [linkPop, h]

/-- A pop of an empty port stalls on a live link and traps on another (R188). -/
theorem linkPop_of_nil (h : s.here.links[p].fifo = []) : linkPop p f s = if s.linkLive p then .stall true else .trap (linkTrap p) := by
  simp only [linkPop, h]

theorem linkWrite_of_dead (h : s.linkLive p = false) : linkWrite p o m s = .trap (linkTrap p) := by simp [linkWrite, h]

theorem linkWrite_of_live (h : s.linkLive p = true) : linkWrite p o m s = if s.here.links[p].open_ then .ok ((s.linkPut p (s.o o)).useO [(o, m)]) else .stall true := by
  simp [linkWrite, h]

variable {q : Fin 4} (hq : oppositePort p = q)

include hq

theorem linkForward_of_dead (h : s.linkLive q = false) : linkForward p f s = .trap (linkTrap q) := by
  subst hq
  simp [linkForward, h]

theorem linkForward_of_live (h : s.linkLive q = true) : linkForward p f s = match s.here.links[p].fifo with
    | [] => if s.linkLive p then .stall true else .trap (linkTrap p)
    | w :: rest => if s.here.links[q].open_ then .ok (f ((s.linkTake p w rest).linkPut q w.val) w.val) else .stall true := by
  subst hq
  exact if_neg (by rw [h]; decide)

theorem linkForward_of_nil (hl : s.linkLive q = true) (h : s.here.links[p].fifo = []) :
    linkForward p f s = if s.linkLive p then .stall true else .trap (linkTrap p) := by
  rw [linkForward_of_live hq hl, h]

theorem linkForward_of_cons (hl : s.linkLive q = true) (h : s.here.links[p].fifo = w :: rest) : linkForward p f s =
    if s.here.links[q].open_ then .ok (f ((s.linkTake p w rest).linkPut q w.val) w.val) else .stall true := by
  rw [linkForward_of_live hq hl, h]

/-- A forwarded word: the port loses it and the opposite port sends it on. -/
theorem linkTake_linkPut : (s.linkTake p w rest).linkPut q w.val =
    (s.linkTake p w rest).setLink q { s.here.links[q] with out := s.here.links[q].out ++ [{ val := w.val, lease := s.here.leaseNo }], o := s.here.links[q].o + 1 } := by
  have hne : p.val ≠ q.val := fun e => oppositePort_ne p (hq.trans (Fin.ext e.symm))
  have hl : (s.linkTake p w rest).here.links[q] = s.here.links[q] := Vector.getElem_set_ne p.isLt q.isLt hne
  exact congrArg (fun l : Link => (s.linkTake p w rest).setLink q { l with out := l.out ++ [{ val := w.val, lease := s.here.leaseNo }], o := l.o + 1 }) hl

end Moves

/-! The two ends of a link (R185, R186). -/

section Ends

variable {s : State} {p : Fin 4} {n : CoreAddr}

theorem linkPeer_eq (hc : isCompute s.at_ = true) (hn : neighbour s.at_ p.val = some n) : s.linkPeer p = some n := (if_pos hc).trans hn

theorem linkLive_iff (h : s.linkPeer p = some n) : s.linkLive p = true ↔ (s.core n).present = true ∧ s.home.partOf s.at_ = s.home.partOf n ∧
    (s.core n).regs.lessee = s.here.regs.lessee ∧ (s.core n).changing = false ∧ s.here.changing = false := by
  simp [State.linkLive, h, and_assoc]

theorem setLink_setCore (h : n ≠ s.at_) (l : Link) (c : Core) : (s.setLink p l).setCore n c = { s.setLink p l with away := put s.away n.toNat c } := if_neg h

/-- LINK_WORD_DELIVERY at a port that has a neighbour. -/
theorem linkWordDelivery_eq (h : s.linkPeer p = some n) (hi : s.ev.idx = p.val) {q : Fin 4} (hq : oppositePort p = q) : exec .linkWordDelivery s = .next (match s.here.links[p].out with
    | [] => s
    | w :: rest => if (s.core n).links[q].fifo.length < 4 then
        (s.setLink p { s.here.links[p] with out := rest }).setCore n
          { s.core n with links := (s.core n).links.set (q) { (s.core n).links[q] with fifo := (s.core n).links[q].fifo ++ [w] } }
      else s) := by
  subst hq
  show execLinkWordDelivery s = _
  unfold execLinkWordDelivery
  simp only [hi, Fin.ofNat_eq_cast, Fin.cast_val_eq_self, h]
  cases s.here.links[p].out <;> rfl

/-- LINK_CREDIT_RETURN at a port that has a neighbour. -/
theorem linkCreditReturn_eq (h : s.linkPeer p = some n) (hi : s.ev.idx = p.val) {q : Fin 4} (hq : oppositePort p = q) : exec .linkCreditReturn s = .next (match s.here.links[p].owed with
    | [] => s
    | k :: rest => (s.setLink p { s.here.links[p] with owed := rest }).setCore n (if (s.core n).leaseNo = k then
        { s.core n with links := (s.core n).links.set (q) { (s.core n).links[q] with o := (s.core n).links[q].o - 1 } }
      else s.core n)) := by
  subst hq
  show execLinkCreditReturn s = _
  unfold execLinkCreditReturn
  simp only [hi, Fin.ofNat_eq_cast, Fin.cast_val_eq_self, h]
  cases s.here.links[p].owed <;> rfl

end Ends

/-- Settles O20, by one equation for each way a link move can go. -/
theorem links : Obligations.Links := by
  constructor
  · intro s p o m n d code l q lq links state taken pop fwd push
    have hopp : oppositePort p = q := oppositePort_eq p
    have hpop : exec pop s = finish 4 s (linkPop p (fun t v => t.setO o v) s) := exec_linkRead p o 0 s
    have hfwd : exec fwd s = finish 4 s (linkForward p (fun t v => t.setO o v) s) := exec_linkRead p o 1 s
    have hpush : exec push s = finish 4 s (linkWrite p o m s) := exec_linkWrite p o m s
    refine ⟨fun w rest h => ?_, fun h hl => ?_, fun h hl => ?_, fun hl ho => ?_, fun hl ho => ?_, fun hl => ?_, fun hl => ?_, fun hq h hl => ?_, fun hq h hl => ?_, fun hq h ho => ?_,
      fun hq ho w rest h => ?_, ?_, ?_⟩
    · exact does_of_ok hpop (linkPop_of_cons h)
    · exact stalls_of_stall hpop ((linkPop_of_nil h).trans (if_pos hl))
    · exact traps_of_trap hpop ((linkPop_of_nil h).trans (by rw [hl]; rfl))
    · exact does_of_ok hpush ((linkWrite_of_live hl).trans (if_pos ((Link.open_iff _).mpr ho)))
    · exact stalls_of_stall hpush ((linkWrite_of_live hl).trans (if_neg fun h => ho.not_gt ((Link.open_iff _).mp h)))
    · exact traps_of_trap hpush (linkWrite_of_dead hl)
    · exact traps_of_trap hfwd (linkForward_of_dead hopp hl)
    · exact stalls_of_stall hfwd ((linkForward_of_nil hopp hq h).trans (if_pos hl))
    · exact traps_of_trap hfwd ((linkForward_of_nil hopp hq h).trans (by rw [hl]; rfl))
    · obtain ⟨w, rest, h⟩ := List.exists_cons_of_ne_nil h
      exact stalls_of_stall hfwd ((linkForward_of_cons hopp hq h).trans (if_neg fun h => ho.not_gt ((Link.open_iff _).mp h)))
    · exact does_of_ok hfwd ((linkForward_of_cons hopp hq h).trans ((if_pos ((Link.open_iff _).mpr ho)).trans (by rw [linkTake_linkPut hopp]; rfl)))
    · rw [Does, exec_lwin]
      rfl
    · refine ⟨_, ?_, setG_retire s 4 d _⟩
      rw [exec_lstat]
      rfl
  · intro s p n hc hne hn q c l mine theirs
    have hopp : oppositePort p = q := oppositePort_eq p
    have hpeer := linkPeer_eq hc hn
    refine ⟨linkLive_iff hpeer, fun hi => ⟨fun w rest h hlt => ?_, fun h => ?_, fun k rest h hk => ?_, fun k rest h hk => ?_, fun h => ?_⟩⟩
    · rw [linkWordDelivery_eq hpeer hi hopp, h]
      dsimp only
      rw [if_pos hlt, setLink_setCore hne]
      rfl
    · rw [linkWordDelivery_eq hpeer hi hopp]
      split
      · rfl
      · next w rest h' => exact congrArg Host.Outcome.next (if_neg fun hlt => h.elim (fun h => absurd (h'.symm.trans h) (List.cons_ne_nil w rest)) fun h => h.not_gt hlt)
    · rw [linkCreditReturn_eq hpeer hi hopp, h]
      dsimp only
      rw [if_pos hk, setLink_setCore hne]
      rfl
    · rw [linkCreditReturn_eq hpeer hi hopp, h]
      dsimp only
      rw [if_neg hk]
      exact ⟨_, rfl, by rw [setLink_setCore hne]; rfl, by rw [core_setCore, if_pos rfl]⟩
    · rw [linkCreditReturn_eq hpeer hi hopp, h]

end Sys2Proof.Safety
end

section
/-! PROOFS. A watchpoint's hit beside what it neither reads nor changes. -/

namespace Sys2Proof.Safety

open Sys2Proof.Machine

/-- The slot, the activations, local memory and the stream unit's place put beside what a watchpoint's stop messages read and change. -/
def aside (i : Fin 4) (acts : Vector Act 4) (m : LocalMem) (n : Nat) (s : State) : State :=
  { s with slot := i, here := { s.here with acts := acts, mem := m, strip := n } }

section Aside

variable (i : Fin 4) (acts : Vector Act 4) (m : LocalMem) (n : Nat) (s : State)

theorem passDies_aside (pkg d e : Nat) (x : Msg) : (aside i acts m n s).passDies pkg d e x = aside i acts m n (s.passDies pkg d e x) := by
  have hs : (aside i acts m n s).sealedMsg x = s.sealedMsg x := rfl
  have hk : (aside i acts m n s).pkg pkg = s.pkg pkg := rfl
  simp only [State.passDies, hs, hk]
  split
  · rfl
  · rfl

theorem fly_aside (x : Msg) : (aside i acts m n s).fly x = aside i acts m n (s.fly x) := by
  unfold State.fly
  rw [apply_ite (aside i acts m n)]
  refine ite_congr rfl (fun _ => ?_) fun _ => rfl
  dsimp only
  rw [passDies_aside]
  rfl

theorem emit1_aside (d : CoreAddr) (kind : BitVec 2) (ch : BitVec 8) (paddr : BitVec 18) (pay : List Strip) (it : OutItem) (y e : Bool) :
    (aside i acts m n s).emit1 d kind ch paddr pay it y e = aside i acts m n (s.emit1 d kind ch paddr pay it y e) := by
  symm
  exact (fly_aside ..).symm

theorem emitAll_aside (it : OutItem) : (aside i acts m n s).emitAll it = aside i acts m n (s.emitAll it) :=
  List.foldl_hom (aside i acts m n) fun _ _ => emit1_aside ..

theorem modLessee_aside (ten : BitVec 12) (f : Lessee → Lessee) :
    ({ aside i acts m n s with here := (aside i acts m n s).here.modLessee ten f } : State) = aside i acts m n { s with here := s.here.modLessee ten f } := by
  by_cases h : ten = s.here.regs.lessee
  · have h1 : s.here.modLessee ten f = { s.here with live := f s.here.live } := if_pos h
    have h2 : (aside i acts m n s).here.modLessee ten f = { (aside i acts m n s).here with live := f s.here.live } := if_pos h
    rw [h1, h2]
    rfl
  · have h1 : s.here.modLessee ten f = { s.here with saved := s.here.saved.map fun v => if v.ten == ten then { v with lessee := f v.lessee } else v } := if_neg h
    have h2 : (aside i acts m n s).here.modLessee ten f =
      { (aside i acts m n s).here with saved := s.here.saved.map fun v => if v.ten == ten then { v with lessee := f v.lessee } else v } := if_neg h
    rw [h1, h2]
    rfl

theorem emit_aside (it : OutItem) : (aside i acts m n s).emit it = aside i acts m n (s.emit it) := by
  unfold State.emit
  split
  · dsimp only
    rw [apply_ite (aside i acts m n), modLessee_aside, emitAll_aside]
    rfl
  · exact emitAll_aside ..

theorem leaveOwn_aside (it : OutItem) : (aside i acts m n s).leaveOwn it = aside i acts m n (s.leaveOwn it) := by
  unfold State.leaveOwn
  rw [apply_ite (aside i acts m n), emit_aside]
  rfl

theorem trigger_aside (cause : BitVec 3) : (aside i acts m n s).trigger cause = aside i acts m n (s.trigger cause) := by
  unfold State.trigger
  dsimp only
  rw [apply_ite (aside i acts m n)]
  exact ite_congr rfl (fun _ => List.foldl_hom (aside i acts m n) fun _ _ => leaveOwn_aside ..) fun _ => rfl

theorem watch_aside (rd wr : Bool) (ten : BitVec 12) (rs : List (Nat × Nat)) : (aside i acts m n s).watch rd wr ten rs = aside i acts m n (s.watch rd wr ten rs) := by
  unfold State.watch
  dsimp only
  rw [apply_ite (aside i acts m n)]
  refine ite_congr rfl (fun _ => rfl) fun _ => ?_
  symm
  exact (trigger_aside ..).symm

end Aside

section Watch

variable (s : State) (rd wr : Bool) (ten : BitVec 12) (rs : List (Nat × Nat))

/-- A watchpoint's hit leaves the slot, the activations, local memory and the stream unit's place as they are. -/
theorem watch_eq_aside : s.watch rd wr ten rs = aside s.slot s.here.acts s.here.mem s.here.strip (s.watch rd wr ten rs) := watch_aside s.slot s.here.acts s.here.mem s.here.strip s rd wr ten rs

@[simp] theorem State.watch_slot : (s.watch rd wr ten rs).slot = s.slot := by
  rw [watch_eq_aside]
  rfl

@[simp] theorem State.watch_acts : (s.watch rd wr ten rs).here.acts = s.here.acts := by
  rw [watch_eq_aside]
  rfl

@[simp] theorem State.watch_mem : (s.watch rd wr ten rs).here.mem = s.here.mem := by
  rw [watch_eq_aside]
  rfl

@[simp] theorem State.watch_strip : (s.watch rd wr ten rs).here.strip = s.here.strip := by
  rw [watch_eq_aside]
  rfl

@[simp] theorem State.watch_act : (s.watch rd wr ten rs).act = s.act := by
  rw [watch_eq_aside]
  rfl

/-- The watchpoints do not see what an instruction does to its activation. -/
theorem setAct_watch (a : Act) : (s.setAct a).watch rd wr ten rs = (s.watch rd wr ten rs).setAct a := by
  conv_rhs => rw [watch_eq_aside]
  exact watch_aside s.slot (s.here.acts.set s.slot a) s.here.mem s.here.strip s rd wr ten rs

end Watch

/-- A load that has been performed leaves the activation and local memory as they are. -/
theorem loaded_act (s : State) (b : BitVec 5) (a n : Nat) : (loaded s b a n).act = s.act := by
  unfold loaded
  split
  · rfl
  · exact State.watch_act ..

theorem loaded_mem (s : State) (b : BitVec 5) (a n : Nat) : (loaded s b a n).here.mem = s.here.mem := by
  unfold loaded
  split
  · rfl
  · exact State.watch_mem ..

end Sys2Proof.Safety
end

section
/-! PROOFS. Strips of a tensor walk: their checks, what they read and what they store (R117). -/

namespace Sys2Proof.Safety

open Sys2Proof.Machine

/-! Bytes of a register and of its lanes. -/

/-- A byte of a register is a byte of the lane of `w` bytes that it lies in. -/
theorem byteOf_lane (v : Strip) (w i : Nat) {b : Nat} (hb : b < w) : byteOf v (i * w + b) = BitVec.ofNat 8 (lane (8 * w) v i / 256 ^ b) := by
  apply BitVec.eq_of_toNat_eq
  have hpow : (256 : Nat) ^ b = 2 ^ (8 * b) := by rw [Nat.pow_mul]
  have hmod : 2 ^ (8 * w) = 2 ^ (8 * b) * (2 ^ 8 * 2 ^ (8 * w - 8 * b - 8)) := by
    rw [← pow_add, ← pow_add]
    congr 1
    omega
  rw [hpow]
  rw [byteOf, BitVec.extractLsb'_toNat, BitVec.toNat_ofNat, lane, Nat.shiftRight_eq_div_pow, hmod, Nat.mod_mul_right_div_self, Nat.mod_mul_right_mod, Nat.div_div_eq_div_mul,
    ← Nat.pow_add]
  congr 3
  ring

theorem leNat_lt (bs : List Byte) : leNat bs < 256 ^ bs.length := by
  induction bs with
  | nil => exact Nat.one_pos
  | cons b bs ih =>
    have hb : b.toNat < 256 := b.isLt
    rw [leNat, List.length_cons, Nat.pow_succ]
    omega

/-! The lanes of a strip. -/

section Lanes

variable {s : State} {m : TMap} {j : Nat} {store : Bool}

theorem mapSize_pos (m : TMap) : 0 < m.size := by
  unfold TMap.size
  generalize m.type = t
  revert t
  decide

/-- The lanes of a map's type fill a register. -/
theorem mapSize_lanes (m : TMap) : m.size * 8 = laneWidth m.type ∧ 8 * m.size * m.lanes ≤ 256 := by
  unfold TMap.size TMap.lanes
  generalize m.type = t
  revert t
  decide

theorem mem_strip {o : Option Int} (h : o ∈ m.strip j) : ∃ i, i < m.lanes ∧ o = m.addr (j * m.lanes + i) := by
  obtain ⟨i, hi, rfl⟩ := List.mem_map.mp h
  exact ⟨i, List.mem_range.mp hi, rfl⟩

/-- A lane's exact address as the word of its access. -/
theorem toNat_ofInt_of_nearOk {x : Int} {n align : Nat} (h0 : 0 ≤ x) (h : NearOk s store x.toNat n align) : (BitVec.ofInt 64 x).toNat = x.toNat := by
  have hend : nearEnd s.at_ ≤ 0x40000 := by unfold nearEnd; split <;> decide
  have := h.1
  rw [BitVec.toNat_ofInt, Int.emod_eq_of_lt h0 (by omega)]

/-- A strip whose lanes pass their checks passes. -/
theorem stripCheck_eq_none {w : Nat} (hw : w ≠ 0) {as : List (Option Int)} (h : ∀ x, some x ∈ as → 0 ≤ x ∧ NearOk s store x.toNat w w) : s.stripCheck store w as = none := by
  induction as with
  | nil => rfl
  | cons a as ih =>
    have ih := ih fun x hx => h x (List.mem_cons_of_mem _ hx)
    cases a with
    | none => exact ih
    | some x =>
      obtain ⟨h0, hok⟩ := h x List.mem_cons_self
      rw [← toNat_ofInt_of_nearOk h0 hok] at hok
      simp only [State.stripCheck, nearCheck_of_nearOk hw hok, ih]

theorem stripCheck_of_stripOk (h : StripOk s store m j) : s.stripCheck store m.size (m.strip j) = none := by
  refine stripCheck_eq_none (mapSize_pos m).ne' fun x hx => ?_
  obtain ⟨i, hi, hx⟩ := mem_strip hx
  exact h i hi x hx.symm

end Lanes

/-! A strip read. -/

/-- A walk's load of a strip whose lanes pass their checks. -/
theorem walkLoad_of_stripOk {s : State} {m : TMap} {j : Nat} (h : StripOk s false m j) :
    s.walkLoad m j = .ok (s.stripRead m.size (m.strip j), s.watch true false s.ten (stripRanges m.size (m.strip j))) := by
  simp only [State.walkLoad, stripCheck_of_stripOk h]

theorem stripReads_stripRead (s : State) (m : TMap) (j : Nat) : StripReads s m j (s.stripRead m.size (m.strip j)) := by
  intro i hi b hb
  have hlen (f : Option Int → Nat) : ((m.strip j).map f).length = m.lanes := by simp [TMap.strip]
  rw [byteOf_lane _ _ _ hb, State.stripRead, lane_ofLanes _ _ (by rw [hlen]; exact (mapSize_lanes m).2), List.getD_eq_getElem _ _ (by rw [hlen]; exact hi)]
  simp only [TMap.strip, List.getElem_map, List.getElem_range]
  cases m.addr (j * m.lanes + i) with
  | none => simp
  | some x =>
    have hlt := leNat_lt (s.nearBytes x.toNat m.size)
    rw [State.nearBytes, LocalMem.read_length] at hlt
    rw [Nat.pow_mul]
    dsimp only [State.nearBytes]
    rw [Nat.mod_eq_of_lt hlt, leNat_byte, LocalMem.read_getD _ _ _ _ _ _ hb]

/-! A strip stored. -/

/-- The stores of a strip: lane `i` at its address. -/
def laneStore (m : TMap) (j : Nat) (v : Strip) (i : Nat) : Option (Nat × List Byte) := (m.addr (j * m.lanes + i)).map fun x => (x.toNat, leBytes m.size (lane (8 * m.size) v i))

theorem strip_zipIdx (m : TMap) (j : Nat) : (m.strip j).zipIdx = (List.range m.lanes).map fun i => (m.addr (j * m.lanes + i), i) := by
  refine List.ext_getElem (by simp [TMap.strip]) fun i _ _ => ?_
  simp [TMap.strip]

theorem stripWrite_eq (s : State) (m : TMap) (j : Nat) (v : Strip) : s.stripWrite m.size (m.strip j) v = s.nearStores ((List.range m.lanes).filterMap (laneStore m j v)) := by
  rw [State.stripWrite, strip_zipIdx, List.filterMap_map]
  rfl

theorem ranges_laneStore (m : TMap) (j : Nat) (v : Strip) :
    ((List.range m.lanes).filterMap (laneStore m j v)).map (fun p => (p.1, p.2.length)) = stripRanges m.size (m.strip j) := by
  rw [stripRanges, TMap.strip, List.map_filterMap, List.filterMap_map]
  refine congrArg (fun f => List.filterMap f _) (funext fun i => ?_)
  simp [laneStore, leBytes_length, Function.comp_def]

/-- What near stores note of a paired run (R256). -/
theorem foldl_noteStore (s : State) (ws : List (Nat × List Byte)) : ws.foldl (fun (t : State) (p : Nat × List Byte) => t.noteStore p.1 p.2) s =
    s.setAct { s.act with stores := if s.act.paired then s.act.stores ++ ws else s.act.stores } := by
  induction ws generalizing s with
  | nil =>
    simp only [List.foldl_nil, List.append_nil, ite_self]
    exact (State.setAct_act s).symm
  | cons p ws ih =>
    rw [List.foldl_cons, ih]
    unfold State.noteStore
    by_cases hp : s.act.paired = true
    · simp only [hp, if_true, State.modAct_eq, State.act_setAct, State.setAct_setAct, List.append_assoc, List.singleton_append]
    · simp only [hp, if_false, Bool.false_eq_true]

/-- Several near stores: local memory written, the stores noted, and the watchpoints passed. -/
theorem nearStores_eq (s : State) (ws : List (Nat × List Byte)) : s.nearStores ws =
    (({ s with here := { s.here with mem := ws.foldl (fun (m : LocalMem) (p : Nat × List Byte) => m.write s.at_ s.key p.1 p.2) s.here.mem } }).watch false true s.ten
      (ws.map fun (p : Nat × List Byte) => (p.1, p.2.length))).setAct { s.act with stores := if s.act.paired then s.act.stores ++ ws else s.act.stores } := by
  rw [State.nearStores, foldl_noteStore, setAct_watch]
  rfl

/-- A byte lies in a store. -/
def Covers (p : Nat × List Byte) (y : Nat) : Prop := p.1 ≤ y ∧ y < p.1 + p.2.length

/-- Stores in order: the canonical form stays, a byte outside them all keeps its value, and any other is that of the last store that covers it. -/
theorem byte_writes (c : CoreAddr) (key : KeyId) {m : LocalMem} (h : memWf m.bytes = true) (g : Nat → Option (Nat × List Byte)) (n : Nat) :
    let r := ((List.range n).filterMap g).foldl (fun (m : LocalMem) (p : Nat × List Byte) => m.write c key p.1 p.2) m
    memWf r.bytes = true ∧ (∀ y, (∀ i, i < n → ∀ p, g i = some p → ¬ Covers p y) → r.byte c key y = m.byte c key y) ∧
    ∀ y i p, i < n → g i = some p → Covers p y → (∀ i', i < i' → i' < n → ∀ q, g i' = some q → ¬ Covers q y) → r.byte c key y = p.2.getD (y - p.1) 0 := by
  induction n with
  | zero => exact ⟨h, fun _ _ => rfl, fun _ _ _ hi => absurd hi (Nat.not_lt_zero _)⟩
  | succ n ih =>
    intro r
    have hr : r = (match g n with | none => [] | some p => [p]).foldl (fun (m : LocalMem) (p : Nat × List Byte) => m.write c key p.1 p.2)
        (((List.range n).filterMap g).foldl (fun (m : LocalMem) (p : Nat × List Byte) => m.write c key p.1 p.2) m) := by
      simp only [r, List.range_succ, List.filterMap_append, List.foldl_append]
      cases hg : g n <;> simp [hg]
    obtain ⟨hwf, hout, hin⟩ := ih
    generalize ((List.range n).filterMap g).foldl (fun (m : LocalMem) (p : Nat × List Byte) => m.write c key p.1 p.2) m = u at hr hwf hout hin
    rw [hr]
    cases hg : g n with
    | none =>
      refine ⟨hwf, fun y hy => hout y fun i hi => hy i (by omega), fun y i p hi hp hc hlast => ?_⟩
      have hne : i ≠ n := fun e => by rw [e, hg] at hp; cases hp
      exact hin y i p (by omega) hp hc fun i' hlt hi' => hlast i' hlt (by omega)
    | some q =>
      have hpos {y : Nat} (hc : Covers q y) : (u.write c key q.1 q.2).byte c key y = q.2.getD (y - q.1) 0 := (LocalMem.byte_write _ _ _ _ _ hwf).trans (if_pos hc)
      have hneg {y : Nat} (hc : ¬ Covers q y) : (u.write c key q.1 q.2).byte c key y = u.byte c key y := (LocalMem.byte_write _ _ _ _ _ hwf).trans (if_neg hc)
      refine ⟨LocalMem.write_wf _ _ _ _ hwf, fun y hy => ?_, fun y i p hi hp hc hlast => ?_⟩
      · exact (hneg (hy n (by omega) q hg)).trans (hout y fun i hi => hy i (by omega))
      · by_cases he : i = n
        · subst he
          obtain rfl : q = p := Option.some.inj (hg.symm.trans hp)
          exact hpos hc
        · refine (hneg (hlast n (by omega) (by omega) q hg)).trans ?_
          exact hin y i p (by omega) hp hc fun i' hlt hi' => hlast i' hlt (by omega)

section Stored

variable {s : State} {m : TMap} {j : Nat} {v : Strip}

/-- A byte of a lane's store, by the lane's exact address. -/
theorem covers_laneStore {i y : Nat} {x : Int} (h0 : 0 ≤ x) : Covers (x.toNat, leBytes m.size (lane (8 * m.size) v i)) y ↔ x ≤ (y : Int) ∧ (y : Int) < x + m.size := by
  rw [Covers, leBytes_length]
  dsimp only
  omega

theorem laneStore_eq_some {i : Nat} {p : Nat × List Byte} (h : laneStore m j v i = some p) :
    ∃ x, m.addr (j * m.lanes + i) = some x ∧ p = (x.toNat, leBytes m.size (lane (8 * m.size) v i)) := by
  obtain ⟨x, hx, rfl⟩ := Option.map_eq_some_iff.mp h
  exact ⟨x, hx, rfl⟩

theorem stripStored_writes (h : StripOk s true m j) (hwf : memWf s.here.mem.bytes = true) : StripStored s m j v
    (((List.range m.lanes).filterMap (laneStore m j v)).foldl (fun (r : LocalMem) (p : Nat × List Byte) => r.write s.at_ s.key p.1 p.2) s.here.mem) := by
  obtain ⟨-, hout, hin⟩ := byte_writes s.at_ s.key hwf (laneStore m j v) m.lanes
  have hfar {y i : Nat} (hi : i < m.lanes) (hy : ∀ x, m.addr (j * m.lanes + i) = some x → ¬ (x ≤ (y : Int) ∧ (y : Int) < x + m.size)) :
      ∀ p, laneStore m j v i = some p → ¬ Covers p y := by
    intro p hp
    obtain ⟨x, hx, rfl⟩ := laneStore_eq_some hp
    rw [covers_laneStore (h i hi x hx).1]
    exact hy x hx
  refine ⟨fun y hy => hout y fun i hi => hfar hi (hy i hi), fun y i x hi hx hle hlt hlast => ?_⟩
  have hc := (covers_laneStore (m := m) (v := v) (i := i) (y := y) (h i hi x hx).1).mpr ⟨hle, hlt⟩
  rw [hin y i _ hi (by rw [laneStore, hx]; rfl) hc fun i' hlt' hi' => hfar hi' (hlast i' hlt' hi')]
  have hb : y - x.toNat < m.size := by omega
  dsimp only
  rw [leBytes_getD hb, byteOf_lane _ _ _ hb]

/-- A walk's store of a strip whose lanes pass their checks. -/
theorem walkStore_of_stripOk (h : StripOk s true m j) : ∃ u : State, s.walkStore m j v = .ok u ∧
    u = (({ s with here := { s.here with mem := u.here.mem } }).watch false true s.ten (stripRanges m.size (m.strip j))).setAct { s.act with stores := u.act.stores } ∧
    (s.act.paired = false → u.act.stores = s.act.stores) ∧ (memWf s.here.mem.bytes = true → StripStored s m j v u.here.mem) := by
  refine ⟨_, by simp only [State.walkStore, stripCheck_of_stripOk h]; rfl, ?_, fun hp => ?_, fun hwf => ?_⟩
  · rw [stripWrite_eq, nearStores_eq, ranges_laneStore]
    simp only [State.act_setAct, State.setAct_here_mem, State.watch_mem]
  · rw [stripWrite_eq, nearStores_eq, State.act_setAct, if_neg (by simp [hp])]
  · rw [stripWrite_eq, nearStores_eq, State.setAct_here_mem, State.watch_mem]
    exact stripStored_writes h hwf

end Stored

end Sys2Proof.Safety
end

section
/-! PROOFS. Tensor maps: their records, the addresses of a walk, and its loads and stores (R115 to R117). -/

namespace Sys2Proof.Safety

open Sys2Proof.Machine

/-! The record of `tmld` (R116). -/

section Record

/-- A record that is none: a reserved bit set, or a type past the last one. -/
def BadRecord (m : TMap) : Prop := m.head.extractLsb' 22 106 ≠ 0 ∨ 12 ≤ (m.head.extractLsb' 18 4).toNat

/-- A base or a stride that is no multiple of the element size. -/
def OffRecord (m : TMap) : Prop := m.base.toNat % m.size ≠ 0 ∨ ∃ i : Fin 4, m.stride i.val % (m.size : Int) ≠ 0

variable {m : TMap}

theorem bad_iff : BadRecord m ↔ (!zeroBits m.head 22 106 || decide (12 ≤ m.type.toNat)) = true := by
  simp only [BadRecord, Bool.or_eq_true, Bool.not_eq_true', decide_eq_true_eq, zeroBits, beq_eq_false_iff_ne]
  exact Iff.rfl

theorem check_of_bad (h : BadRecord m) : m.check = some cPoison := if_pos (bad_iff.mp h)

theorem off_iff : OffRecord m ↔ (m.base.toNat % m.size != 0 || (List.range 4).any fun i => m.stride i % (m.size : Int) != 0) = true := by
  simp only [OffRecord, Bool.or_eq_true, bne_iff_ne, List.any_eq_true, List.mem_range]
  refine or_congr_right ⟨fun ⟨i, h⟩ => ⟨i.val, i.isLt, h⟩, fun ⟨i, hi, h⟩ => ⟨⟨i, hi⟩, h⟩⟩

theorem check_of_not_bad (h : ¬ BadRecord m) :
    m.check = if (m.base.toNat % m.size != 0 || (List.range 4).any fun i => m.stride i % (m.size : Int) != 0) then some cAlign else none := if_neg (mt bad_iff.mpr h)

theorem check_of_off (h : ¬ BadRecord m) (ho : OffRecord m) : m.check = some cAlign := (check_of_not_bad h).trans (if_pos (off_iff.mp ho))

theorem check_of_sound (h : ¬ BadRecord m) (ho : ¬ OffRecord m) : m.check = none := (check_of_not_bad h).trans (if_neg (mt off_iff.mpr ho))

/-- A byte of the word that some bytes make. -/
theorem byteOf_leNat (bs : List Byte) {w j : Nat} (hw : 8 * (j + 1) ≤ w) : byteOf (BitVec.ofNat w (leNat bs)) j = bs.getD j 0 := by
  rw [← leNat_byte bs j]
  apply BitVec.eq_of_toNat_eq
  have hmod : 2 ^ w = 2 ^ (8 * j) * (2 ^ 8 * 2 ^ (w - 8 * j - 8)) := by
    rw [← pow_add, ← pow_add]
    congr 1
    omega
  rw [byteOf, BitVec.extractLsb'_toNat, BitVec.toNat_ofNat, BitVec.toNat_ofNat, Nat.shiftRight_eq_div_pow, hmod, Nat.mod_mul_right_div_self, Nat.mod_mul_right_mod, Nat.pow_mul]

/-- The map in a record of 32 bytes (R115). -/
def mapOf (bs : List Byte) : TMap := { head := BitVec.ofNat 128 (leNat (bs.take 16)), shape := BitVec.ofNat 128 (leNat (bs.drop 16)) }

theorem byteOf_mapOf {bs : List Byte} {j : Nat} (hj : j < 16) : byteOf (mapOf bs).head j = bs.getD j 0 ∧ byteOf (mapOf bs).shape j = bs.getD (16 + j) 0 := by
  refine ⟨(byteOf_leNat _ (by omega)).trans ?_, (byteOf_leNat _ (by omega)).trans ?_⟩
  · rw [List.getD_eq_getElem?_getD, List.getD_eq_getElem?_getD, List.getElem?_take_of_lt hj]
  · rw [List.getD_eq_getElem?_getD, List.getD_eq_getElem?_getD, List.getElem?_drop]

/-- A tensor-map register written by a machine that keeps the activation, retired. -/
theorem setTm_retire {s u : State} (hu : u.act = s.act) (len : Nat) (t : BitVec 3) (m : TMap) : RetiresSeq len u ((u.setTm t m).retire len).issued (withTm s.act.regs t m) s.act.csr := by
  rw [← hu]
  exact retire_spec u len (withTm u.act.regs t m) u.act.csr

theorem tmldEff_of_loaded {s u : State} {t : BitVec 3} {a : BitVec 5} {o : BitVec 12} {bs : List Byte} (h : s.load a (s.ea a (sext o)) 32 16 = .ok (bs, u)) :
    tmldEff t a o s = match (mapOf bs).check with
      | some c => .trap (.atBase a c (s.ea a (sext o)) (s.ea a (sext o)))
      | none => .ok (u.setTm t (mapOf bs)) := by
  simp only [tmldEff, h]
  rfl

theorem atBase_align (b : BitVec 5) (v a : Word) : Trap.atBase b cAlign v a = if b = 0 then .atImem 0x0F v a else .atNear 0x0F v a := by
  unfold Trap.atBase
  by_cases hb : b = 0
  · rw [if_neg (not_not.mpr hb), if_pos hb]
    rfl
  · rw [if_pos hb, if_neg hb]
    rfl

end Record

/-! Edits of a map (R116). -/

theorem setFld_low (x : BitVec 128) (v : BitVec 18) : setFld x 0 v = x.extractLsb' 18 110 ++ v := by
  refine BitVec.eq_of_getLsbD_eq fun i hi => ?_
  simp only [setFld, BitVec.getLsbD_or, BitVec.getLsbD_and, BitVec.getLsbD_not, BitVec.getLsbD_shiftLeft, BitVec.getLsbD_setWidth, BitVec.getLsbD_allOnes, BitVec.getLsbD_append,
    BitVec.getLsbD_extractLsb']
  by_cases h : i < 18
  · simp [h, hi]
  · have h2 : v.getLsbD i = false := BitVec.getLsbD_of_ge _ _ (by omega)
    simp [h, hi, h2, show 18 + (i - 18) = i by omega, show i - 18 < 110 by omega]

theorem getLsbD_setFld {w n : Nat} (x : BitVec w) (lo : Nat) (v : BitVec n) {i : Nat} (hi : i < w) :
    (setFld x lo v).getLsbD i = if lo ≤ i ∧ i < lo + n then v.getLsbD (i - lo) else x.getLsbD i := by
  simp only [setFld, BitVec.getLsbD_or, BitVec.getLsbD_and, BitVec.getLsbD_not, BitVec.getLsbD_shiftLeft, BitVec.getLsbD_setWidth, BitVec.getLsbD_allOnes, hi, decide_true, Bool.true_and]
  by_cases h1 : lo ≤ i
  · by_cases h2 : i < lo + n
    · simp [h1, h2, show ¬ i < lo by omega, show i - lo < n by omega, show i - lo < w by omega]
    · have h3 : v.getLsbD (i - lo) = false := BitVec.getLsbD_of_ge _ _ (by omega)
      simp [h2, h3, show ¬ i < lo by omega, show ¬ i - lo < n by omega]
  · simp [h1, show i < lo by omega]

/-! The addresses of a walk (R117). -/

/-- The indices of element i0 + N0·(i1 + N1·(i2 + N2·i3)). -/
theorem mixed_radix {n0 n1 n2 i0 i1 i2 i3 : Nat} (h0 : i0 < n0) (h1 : i1 < n1) (h2 : i2 < n2) :
    let e := i0 + n0 * (i1 + n1 * (i2 + n2 * i3))
    e % n0 = i0 ∧ e / n0 % n1 = i1 ∧ e / (n0 * n1) % n2 = i2 ∧ e / (n0 * n1 * n2) = i3 := by
  intro e
  have d0 : e / n0 = i1 + n1 * (i2 + n2 * i3) := by rw [Nat.add_mul_div_left _ _ (by omega), Nat.div_eq_of_lt h0, Nat.zero_add]
  have d1 : (i1 + n1 * (i2 + n2 * i3)) / n1 = i2 + n2 * i3 := by rw [Nat.add_mul_div_left _ _ (by omega), Nat.div_eq_of_lt h1, Nat.zero_add]
  have d2 : (i2 + n2 * i3) / n2 = i3 := by rw [Nat.add_mul_div_left _ _ (by omega), Nat.div_eq_of_lt h2, Nat.zero_add]
  refine ⟨?_, ?_, ?_, ?_⟩
  · rw [Nat.add_mul_mod_self_left, Nat.mod_eq_of_lt h0]
  · rw [d0, Nat.add_mul_mod_self_left, Nat.mod_eq_of_lt h1]
  · rw [← Nat.div_div_eq_div_mul, d0, d1, Nat.add_mul_mod_self_left, Nat.mod_eq_of_lt h2]
  · rw [← Nat.div_div_eq_div_mul, ← Nat.div_div_eq_div_mul, d0, d1, d2]

/-- An element whose indices are below their counts lies inside the walk. -/
theorem element_lt {n0 n1 n2 n3 i0 i1 i2 i3 : Nat} (h0 : i0 < n0) (h1 : i1 < n1) (h2 : i2 < n2) (h3 : i3 < n3) :
    i0 + n0 * (i1 + n1 * (i2 + n2 * i3)) < n0 * n1 * n2 * n3 := by
  have step {i n k r : Nat} (hi : i < n) (hk : k < r) : i + n * k < n * r :=
    calc i + n * k < n * (k + 1) := by rw [Nat.mul_succ]; omega
      _ ≤ n * r := Nat.mul_le_mul_left n hk
  rw [Nat.mul_assoc, Nat.mul_assoc]
  exact step h0 (step h1 (step h2 h3))

theorem addr_element (m : TMap) {i0 i1 i2 i3 : Nat} (h0 : i0 < m.count 0) (h1 : i1 < m.count 1) (h2 : i2 < m.count 2) (h3 : i3 < m.count 3) :
    m.addr (i0 + m.count 0 * (i1 + m.count 1 * (i2 + m.count 2 * i3))) =
      some ((m.base.toNat : Int) + i0 * m.stride 0 + i1 * m.stride 1 + i2 * m.stride 2 + i3 * m.stride 3) := by
  obtain ⟨e0, e1, e2, e3⟩ := mixed_radix (i3 := i3) h0 h1 h2
  refine (if_neg (element_lt h0 h1 h2 h3).not_ge).trans ?_
  simp only [e0, e1, e2, e3]

/-! Loads and stores of a walk (R117). -/

theorem twldEff_of_stripOk {s : State} {o t : BitVec 3} {a : BitVec 5} (h : StripOk s false (s.tm t) (s.g a).toNat) : twldEff o t a s =
    .ok ((s.watch true false s.ten (stripRanges (s.tm t).size ((s.tm t).strip (s.g a).toNat))).setO o (s.stripRead (s.tm t).size ((s.tm t).strip (s.g a).toNat))) := by
  simp only [twldEff, walkLoad_of_stripOk h]

theorem twstEff_of_walkStore {s u : State} {o t : BitVec 3} {l : BitVec 1} {a : BitVec 5} (h : s.walkStore (s.tm t) (s.g a).toNat (s.o o) = .ok u) :
    twstEff o l t a s = .ok (u.useO [(o, l)]) := by
  simp only [twstEff, h]

/-- Settles O22, by the checks of a record and of a strip, lane by lane. -/
theorem tensorMaps : Obligations.TensorMaps := by
  refine ⟨fun s t a o d => ?_, fun m i0 i1 i2 i3 h0 h1 h2 h3 => addr_element m h0 h1 h2 h3, fun m e h => if_pos h, fun s o t l a _ => ?_⟩
  · intro ea w bad off
    refine ⟨fun h => ?_, ?_⟩
    · obtain ⟨bs, hload, -, hbs⟩ := load_of_loadOk (by decide) h
      have heff := tmldEff_of_loaded (t := t) (o := o) hload
      have hexec : exec (.tmld t a o) s = finish 4 s (tmldEff t a o s) := rfl
      refine ⟨(mapOf bs).head, (mapOf bs).shape, fun j hj => ?_, fun hb ho => ?_, fun hb => ?_, fun hb ho => ?_⟩
      · obtain ⟨h1, h2⟩ := byteOf_mapOf (bs := bs) hj
        exact ⟨h1.trans (hbs j (by omega)), h2.trans ((hbs _ (by omega)).trans (congrArg _ (Nat.add_assoc ..).symm))⟩
      · rw [check_of_sound hb ho] at heff
        refine ⟨_, does_of_ok hexec heff, setTm_retire (loaded_act ..) 4 t _, ?_⟩
        exact loaded_mem s a ea.toNat 32
      · rw [check_of_bad hb] at heff
        exact traps_of_trap hexec (heff.trans (congrArg Effect.trap (atBase_space a (by decide) (by decide) ea ea)))
      · rw [check_of_off hb ho] at heff
        exact traps_of_trap hexec (heff.trans (congrArg Effect.trap (atBase_align a ea ea)))
    · intro x m
      have hbase : exec (.tmbase t a) s = finish 4 s (tmbaseEff t a s) := rfl
      have hzero : zeroBits x 18 46 = true ↔ x.extractLsb' 18 46 = 0 := beq_iff_eq
      refine ⟨fun h => traps_of_trap hbase (if_pos (by rw [Bool.not_eq_true', Bool.eq_false_iff]; exact mt hzero.mp h)), fun h _ ho => ?_, fun h _ ho => ?_, ?_⟩
      · refine traps_of_trap hbase ((if_neg ?_).trans (if_pos ?_))
        · simpa using hzero.mpr h
        · exact bne_iff_ne.mpr ho
      · refine ⟨_, does_of_ok hbase ((if_neg ?_).trans (if_neg ?_)), ?_⟩
        · simpa using hzero.mpr h
        · exact fun hne => bne_iff_ne.mp hne ho
        · rw [setFld_low]
          exact setTm_retire rfl 4 t _
      · refine ⟨_, ⟨_, rfl, setTm_retire rfl 4 t _⟩, fun i hi => ?_⟩
        rw [getLsbD_setFld _ _ _ hi]
        split
        · next h => rw [fld, BitVec.getLsbD_extractLsb', decide_eq_true (by omega), Bool.true_and, Nat.zero_add]
        · rfl
  · intro m j
    refine ⟨fun h => ?_, fun h => ?_⟩
    · refine ⟨_, _, does_of_ok (e := twldEff o t a s) rfl ?_, stripReads_stripRead s m j, State.watch_act .., State.watch_mem .., rfl⟩
      exact twldEff_of_stripOk h
    · obtain ⟨u, hu, heq, hstores, hmem⟩ := walkStore_of_stripOk (v := s.o o) h
      refine ⟨u, does_of_ok (e := twstEff o l t a s) rfl ?_, hstores, hmem, heq⟩
      exact twstEff_of_walkStore hu

end Sys2Proof.Safety
end

section
/-! PROOFS. Streams: binding, state, ports and strip fetches (R104, R105, R225 to R228). -/

namespace Sys2Proof.Safety

open Sys2Proof.Machine

/-! The stream registers of the acting slot. -/

section Registers

variable (s : State)

theorem toList_getD {α : Type} {n : Nat} (v : Vector α n) (i : Fin n) (d : α) : v.toList.getD i.val d = v[i] := by simp

theorem setIfInBounds_eq_set {α : Type} {n : Nat} (v : Vector α n) {i : Nat} (hi : i < n) (x : α) : v.setIfInBounds i x = v.set i x :=
  Vector.ext fun k hk => by rw [Vector.getElem_setIfInBounds, Vector.getElem_set]

theorem stream_si (i : Fin 4) : s.stream i.val = s.act.si[i] := (if_pos i.isLt).trans (toList_getD ..)

theorem stream_so (j : Fin 2) : s.stream (4 + j.val) = s.act.so[j] := by
  refine (if_neg (by omega)).trans ?_
  rw [Nat.add_sub_cancel_left]
  exact toList_getD ..

theorem setStream_si (i : Fin 4) (x : Option Stream) : s.setStream i.val x = s.setAct { s.act with si := s.act.si.set i x } := by
  refine (if_pos i.isLt).trans ?_
  rw [State.modAct_eq, setIfInBounds_eq_set _ i.isLt]

theorem setStream_so (j : Fin 2) (x : Option Stream) : s.setStream (4 + j.val) x = s.setAct { s.act with so := s.act.so.set j x } := by
  refine (if_neg (by omega)).trans ?_
  rw [State.modAct_eq, Nat.add_sub_cancel_left, setIfInBounds_eq_set _ j.isLt]

/-- A stream register is one of the four inputs or of the two outputs. -/
theorem stream_cases {n : Nat} (h : n < 6) : (∃ i : Fin 4, n = i.val) ∨ ∃ j : Fin 2, n = 4 + j.val := by
  by_cases hn : n < 4
  · exact .inl ⟨⟨n, hn⟩, rfl⟩
  · exact .inr ⟨⟨n - 4, by omega⟩, by dsimp only; omega⟩

/-- A stream register written: it alone changes. -/
theorem stream_setStream {n : Nat} (h : n < 6) (x : Option Stream) : (s.setStream n x).stream n = x ∧ (∀ y, y < 6 → y ≠ n → (s.setStream n x).stream y = s.stream y) ∧
    s.setStream n x = s.setAct { s.act with si := (s.setStream n x).act.si, so := (s.setStream n x).act.so } := by
  rcases stream_cases h with ⟨i, rfl⟩ | ⟨j, rfl⟩
  · rw [setStream_si]
    refine ⟨?_, fun y hy hne => ?_, by rw [State.act_setAct]⟩
    · rw [stream_si, State.act_setAct]
      exact Vector.getElem_set_self ..
    · rcases stream_cases hy with ⟨k, rfl⟩ | ⟨k, rfl⟩
      · rw [stream_si, stream_si, State.act_setAct]
        exact Vector.getElem_set_ne i.isLt k.isLt hne.symm
      · rw [stream_so, stream_so, State.act_setAct]
  · rw [setStream_so]
    refine ⟨?_, fun y hy hne => ?_, by rw [State.act_setAct]⟩
    · rw [stream_so, State.act_setAct]
      exact Vector.getElem_set_self ..
    · rcases stream_cases hy with ⟨k, rfl⟩ | ⟨k, rfl⟩
      · rw [stream_si, stream_si, State.act_setAct]
      · rw [stream_so, stream_so, State.act_setAct]
        exact Vector.getElem_set_ne j.isLt k.isLt (by omega)

end Registers

/-- The fields of a bound register's state (R228). -/
theorem streamStatus_fields (x : Stream) (hb : x.buf.length ≤ 4) (hn : x.next < 2 ^ 48) :
    let v := streamStatus (some x)
    v.extractLsb' 57 7 = 0 ∧ v.getLsbD 56 = true ∧ (v.extractLsb' 52 4).toNat = x.buf.length ∧ v.extractLsb' 48 4 = 0 ∧ (v.extractLsb' 0 48).toNat = x.next := by
  intro v
  have hv : v.toNat = 2 ^ 56 + 2 ^ 52 * x.buf.length + x.next := by
    show (BitVec.ofNat 64 _).toNat = _
    rw [BitVec.toNat_ofNat, Nat.mod_eq_of_lt (by omega)]
  have hf (lo n : Nat) : (v.extractLsb' lo n).toNat = (2 ^ 56 + 2 ^ 52 * x.buf.length + x.next) / 2 ^ lo % 2 ^ n := by
    rw [BitVec.extractLsb'_toNat, hv, Nat.shiftRight_eq_div_pow]
  refine ⟨BitVec.eq_of_toNat_eq ?_, ?_, ?_, BitVec.eq_of_toNat_eq ?_, ?_⟩
  · rw [hf]
    show _ = 0
    omega
  · rw [BitVec.getLsbD, Nat.testBit_eq_decide_div_mod_eq, hv]
    exact decide_eq_true (by omega)
  · rw [hf]
    omega
  · rw [hf]
    show _ = 0
    omega
  · rw [hf]
    omega

/-! The stream ports (R105, R226, R227). -/

section Ports

variable {s : State} {n : Nat} {o : BitVec 3} {m : BitVec 1} {x : Stream}

theorem exec_streamRead (i : Fin 4) (o : BitVec 3) (s : State) : exec (.vmovOport (BitVec.ofNat 5 i.val) o 0) s = finish 4 s (siPop i.val o s) := by
  have hport : (BitVec.ofNat 5 i.val).toNat < 8 ∧ (BitVec.ofNat 5 i.val).toNat % 4 = i.val := by
    revert i
    decide
  show finish 4 s (if _ then _ else _) = _
  rw [if_pos hport.1, hport.2]

theorem exec_streamWrite (j : Fin 2) (o : BitVec 3) (m : BitVec 1) (s : State) : exec (.vmovPorto (BitVec.ofNat 5 (4 + j.val)) o m) s = finish 4 s (soPush j.val o m s) := by
  have hport : (BitVec.ofNat 5 (4 + j.val)).toNat < 8 ∧ (BitVec.ofNat 5 (4 + j.val)).toNat % 2 = j.val := by
    revert j
    decide
  show finish 4 s (if _ then _ else _) = _
  rw [if_pos hport.1, hport.2]

theorem siPop_of_unbound (h : s.stream n = none) : siPop n o s = .trap (.plain cStream 0) := by simp only [siPop, h]

/-- A pop past the last strip. -/
theorem siPop_of_end (h : s.stream n = some x) (he : x.next = x.map.strips) : siPop n o s = .trap (.plain cStream (BitVec.ofNat 64 x.next)) := by
  simp only [siPop, h]
  exact if_pos he

/-- A pop before the end, by the oldest strip fetched. -/
theorem siPop_of_bound (h : s.stream n = some x) (he : x.next ≠ x.map.strips) : siPop n o s = match x.buf with
    | [] => .stall false
    | .bad c a :: _ => .trap (.atNear c a a)
    | .good v :: rest => .ok ((s.setStream n (some { x with next := x.next + 1, buf := rest })).setO o v) := by
  simp only [siPop, h]
  refine (if_neg he).trans ?_
  rcases x.buf with _ | ⟨_ | _, _⟩ <;> rfl

theorem soPush_of_unbound (h : s.stream (4 + n) = none) : soPush n o m s = .trap (.plain cStream 0) := by simp only [soPush, h]

theorem soPush_of_end (h : s.stream (4 + n) = some x) (he : x.next = x.map.strips) : soPush n o m s = .trap (.plain cStream (BitVec.ofNat 64 x.next)) := by
  simp only [soPush, h]
  exact if_pos he

theorem soPush_of_walkStore {u : State} (h : s.stream (4 + n) = some x) (he : x.next ≠ x.map.strips) (hu : s.walkStore x.map x.next (s.o o) = .ok u) :
    soPush n o m s = .ok ((u.setStream (4 + n) (some { x with next := x.next + 1 })).useO [(o, m)]) := by
  simp only [soPush, h, hu]
  exact if_neg he

/-- What a state with a given activation becomes by a change of that activation. -/
theorem setAct_of_eq {u v : State} {a : Act} (h : u = v.setAct a) (change : Act → Act) : u.setAct (change u.act) = v.setAct (change a) := by
  rw [h, State.setAct_setAct, State.act_setAct]

/-- A write of the next strip of an so register, whose lanes pass their checks (R227). -/
theorem soPush_of_stripOk {j : Fin 2} (h : s.act.so[j] = some x) (he : x.next ≠ x.map.strips) (hok : StripOk s true x.map x.next) :
    ∃ u : State, soPush j.val o m s = .ok (u.useO [(o, m)]) ∧
      u = (({ s with here := { s.here with mem := u.here.mem } }).watch false true s.ten (stripRanges x.map.size (x.map.strip x.next))).setAct
        { s.act with so := s.act.so.set j (some { x with next := x.next + 1 }), stores := u.act.stores } ∧
      (s.act.paired = false → u.act.stores = s.act.stores) ∧ (memWf s.here.mem.bytes = true → StripStored s x.map x.next (s.o o) u.here.mem) := by
  obtain ⟨u, hu, heq, hstores, hmem⟩ := walkStore_of_stripOk (v := s.o o) hok
  have hset := setStream_so u j (some { x with next := x.next + 1 })
  refine ⟨_, soPush_of_walkStore ((stream_so s j).trans h) he hu, ?_, ?_, ?_⟩
  · rw [hset, State.act_setAct, State.setAct_here_mem]
    exact setAct_of_eq heq fun a => { a with so := a.so.set j (some { x with next := x.next + 1 }) }
  · rw [hset, State.act_setAct]
    exact hstores
  · rw [hset, State.setAct_here_mem]
    exact hmem

end Ports

/-! STREAM_STRIP_FETCH (R226). -/

section Fetch

variable {s : State}

/-- Input register `i` of slot `k` has space for a strip that is left. -/
def Wants (s : State) (k i : Fin 4) : Prop := ∃ x, s.here.acts[k].si[i] = some x ∧ s.here.acts[k].busy = true ∧ x.buf.length < 4 ∧ x.next + x.buf.length < x.map.strips

/-- The register of a place in the round robin. -/
theorem place_register (k i : Fin 4) : Fin.ofNat 4 ((4 * k.val + i.val) / 4) = k ∧ (4 * k.val + i.val) % 4 = i.val := by
  revert k i
  decide

theorem wantsStrip_iff (k i : Fin 4) : s.wantsStrip (4 * k.val + i.val) = true ↔ Wants s k i := by
  obtain ⟨hk, hi⟩ := place_register k i
  unfold State.wantsStrip
  rw [hk, hi]
  dsimp only
  rw [stream_si]
  show (match s.here.acts[k].si[i] with | none => false | some x => _) = true ↔ _
  unfold Wants
  cases s.here.acts[k].si[i] with
  | none => simp
  | some x => simp [State.act, and_assoc]

theorem nextStrip_eq_none (h : ∀ k i, ¬ Wants s k i) : s.nextStrip = none := by
  refine List.find?_eq_none.mpr fun p hp hw => ?_
  obtain ⟨n, -, rfl⟩ := List.mem_map.mp hp
  have hlt : (s.here.strip + 1 + n) % 16 < 16 := Nat.mod_lt _ (by decide)
  generalize (s.here.strip + 1 + n) % 16 = p at *
  refine h ⟨p / 4, by omega⟩ ⟨p % 4, by omega⟩ ((wantsStrip_iff _ _).mp ?_)
  rwa [show 4 * (p / 4) + p % 4 = p by omega]

/-- The register served is the first behind the last one served that wants a strip. -/
theorem nextStrip_eq_some {k i : Fin 4} {n : Nat} (hn : n < 16) (hp : 4 * k.val + i.val = (s.here.strip + 1 + n) % 16)
    (hfirst : ∀ (k' i' : Fin 4) (m : Nat), m < n → 4 * k'.val + i'.val = (s.here.strip + 1 + m) % 16 → ¬ Wants s k' i') (hw : Wants s k i) :
    s.nextStrip = some (4 * k.val + i.val) := by
  rw [State.nextStrip, List.find?_map, List.find?_range_eq_some.mpr ⟨?_, List.mem_range.mpr hn, fun m hm => ?_⟩]
  · rw [Option.map_some, hp]
  · rw [Function.comp_apply, ← hp]
    exact (wantsStrip_iff k i).mpr hw
  · have hlt : (s.here.strip + 1 + m) % 16 < 16 := Nat.mod_lt _ (by decide)
    have hne := hfirst ⟨(s.here.strip + 1 + m) % 16 / 4, by omega⟩ ⟨(s.here.strip + 1 + m) % 16 % 4, by omega⟩ m hm (by dsimp only; omega)
    rw [← wantsStrip_iff] at hne
    dsimp only at hne
    rw [show 4 * ((s.here.strip + 1 + m) % 16 / 4) + (s.here.strip + 1 + m) % 16 % 4 = (s.here.strip + 1 + m) % 16 by omega] at hne
    simpa using hne

/-- A strip fetched whose lanes pass their checks. -/
theorem fetchStrip_of_stripOk {k i : Fin 4} {x : Stream} (hx : s.here.acts[k].si[i] = some x) (hok : StripOk { s with slot := k } false x.map (x.next + x.buf.length)) :
    ∃ v, StripReads { s with slot := k } x.map (x.next + x.buf.length) v ∧ (s.fetchStrip (4 * k.val + i.val)).here.mem = s.here.mem ∧
      (s.fetchStrip (4 * k.val + i.val)).here.strip = 4 * k.val + i.val ∧
      (s.fetchStrip (4 * k.val + i.val)).here.acts = s.here.acts.set k { s.here.acts[k] with si := s.here.acts[k].si.set i (some { x with buf := x.buf ++ [.good v] }) } := by
  obtain ⟨hk, hi⟩ := place_register k i
  let t : State := { s with slot := k, here := { s.here with strip := 4 * k.val + i.val } }
  have ht : t.stream i.val = some x := (stream_si t i).trans hx
  have hload := walkLoad_of_stripOk (s := t) hok
  refine ⟨t.stripRead x.map.size (x.map.strip (x.next + x.buf.length)), stripReads_stripRead t x.map _, ?_⟩
  unfold State.fetchStrip
  rw [hk, hi]
  simp only [t] at ht hload
  simp only [ht, hload, setStream_si, State.setAct_here_mem, State.setAct_here_strip, State.setAct_here_acts, State.watch_mem, State.watch_strip, State.watch_acts, State.watch_act, State.watch_slot]
  exact ⟨trivial, trivial, rfl⟩

end Fetch

/-- Settles O21, by one equation for each way a port or a strip fetch can go. -/
theorem streamInstructions : Obligations.StreamInstructions := by
  refine ⟨fun s r tm o d i j m => ?_, fun s => ⟨fun h => ?_, fun k i n x hn hp hfirst hw hx hok => ?_⟩⟩
  · intro stream map pop push
    have hbind : exec (.sbind r tm) s = finish 4 s (sbindEff r tm s) := rfl
    have hpop : exec pop s = finish 4 s (siPop i.val o s) := exec_streamRead i o s
    have hpush : exec push s = finish 4 s (soPush j.val o m s) := exec_streamWrite j o m s
    refine ⟨fun hr hlt => ⟨_, does_of_ok hbind (if_neg hlt.not_ge), stream_setStream s hr _⟩, fun hge => traps_of_trap hbind (if_pos hge), fun hr => ⟨_, rfl, stream_setStream s hr none⟩,
      fun h => ⟨_, ?_, setG_retire s 4 d 0⟩, fun x hx hb hn => ⟨_, ⟨_, ?_, setG_retire s 4 d _⟩, streamStatus_fields x hb hn⟩, fun h => ?_, fun x hx => ⟨fun he => ?_, fun he hb => ?_, fun c a rest he hb => ?_, fun v rest he hb => ?_⟩, fun h => ?_, fun x hx he => ?_,
      fun x hx he hok => ?_⟩
    · show finish 4 s (.ok (s.setG d (streamStatus (s.stream r.toNat)))) = _
      rw [h]
      rfl
    · show finish 4 s (.ok (s.setG d (streamStatus (s.stream r.toNat)))) = _
      rw [hx]
      rfl
    · exact traps_of_trap hpop (siPop_of_unbound ((stream_si s i).trans h))
    · exact traps_of_trap hpop (siPop_of_end ((stream_si s i).trans hx) he)
    · exact stalls_of_stall hpop ((siPop_of_bound ((stream_si s i).trans hx) he).trans (by rw [hb]))
    · exact traps_of_trap hpop ((siPop_of_bound ((stream_si s i).trans hx) he).trans (by rw [hb]))
    · exact does_of_ok hpop ((siPop_of_bound ((stream_si s i).trans hx) he).trans (by rw [hb]; dsimp only; rw [setStream_si]))
    · exact traps_of_trap hpush (soPush_of_unbound ((stream_so s j).trans h))
    · exact traps_of_trap hpush (soPush_of_end ((stream_so s j).trans hx) he)
    · obtain ⟨u, hu, hrest⟩ := soPush_of_stripOk hx he hok
      exact ⟨u, does_of_ok hpush hu, hrest⟩
  · show Host.Outcome.next (match s.nextStrip with | none => s | some p => s.fetchStrip p) = _
    rw [nextStrip_eq_none h]
  · obtain ⟨v, hv, hkeep⟩ := fetchStrip_of_stripOk hx hok
    refine ⟨v, s.fetchStrip (4 * k.val + i.val), ?_, hv, hkeep⟩
    show Host.Outcome.next (match s.nextStrip with | none => s | some p => s.fetchStrip p) = _
    rw [nextStrip_eq_some hn hp hfirst hw]

end Sys2Proof.Safety
end

section
/-! PROOFS. Powers of two and whole numbers as dyadics and as values of a format (R62, R63). -/

namespace Sys2Proof.Safety

open Sys2Proof.Machine

/-- The magnitude of a dyadic's value. -/
theorem abs_ratOf (d : Dy) : |ratOf d| = d.m * 2 ^ d.e := by rw [← ratOf_abs, ratOf_of_pos rfl]

theorem neg_of_ratOf_pos {d : Dy} (h : 0 < ratOf d) : d.neg = false := by
  rw [← Bool.not_eq_true, ← ratOf_neg_iff d (mt (ratOf_eq_zero d).mpr h.ne')]
  exact h.not_gt

theorem neg_of_ratOf_neg {d : Dy} (h : ratOf d < 0) : d.neg = true := (ratOf_neg_iff d (mt (ratOf_eq_zero d).mpr h.ne)).mp h

theorem ratOf_one : ratOf Dy.one = 1 := by simp [ratOf, Dy.one]

theorem ratOf_dyOfInt (n : Int) : ratOf (dyOfInt n) = n := by
  unfold ratOf dyOfInt
  rcases lt_or_ge n 0 with h | h
  · simp [h, abs_of_neg h]
  · simp [not_lt.mpr h, abs_of_nonneg h]

theorem ratOf_two_zpow (neg : Bool) (n : Int) : ratOf { neg := neg, m := 1, e := n } = (if neg then -1 else 1) * 2 ^ n := by simp [ratOf]

/-- The integer of an exact value (R113). -/
theorem toInteger_eq_some_iff {d : Dy} {n : Int} : d.toInteger = some n ↔ ratOf d = n := by
  obtain ⟨k, h⟩ := roundGrid_roundedAt (mode := 1) (by decide) d.neg (m := d.m) (e := d.e) (g := 0) (.inl rfl)
  have hq := h.trunc rfl
  have hlo := h.lo
  have hhi := h.hi
  have hex := h.exact_iff
  simp only [zpow_zero, mul_one] at hlo hhi hex
  unfold Dy.toInteger
  dsimp only
  rw [hq]
  have hval : (ratOf d : ℝ) = signFactor d.neg * (d.m * 2 ^ d.e) := ratOf_cast d
  generalize (d.m : ℝ) * 2 ^ d.e = a at *
  constructor
  · intro hs
    split at hs
    · next he =>
      have hn := Option.some.inj hs
      have hr : (ratOf d : ℝ) = n := by
        rw [hval, hex.mp he, ← hn]
        cases d.neg <;> simp [signFactor]
      exact_mod_cast hr
    · cases hs
  · intro hn
    have hr : (n : ℝ) = signFactor d.neg * a := by rw [← hval, hn]; norm_cast
    have ha0 : 0 ≤ a := le_trans (Nat.cast_nonneg k) hlo
    have ha : a = n.natAbs := by
      rw [Nat.cast_natAbs, Int.cast_abs, hr, abs_signFactor_mul, abs_of_nonneg ha0]
    have hk : n.natAbs = k := by
      rw [ha] at hlo hhi
      exact le_antisymm (Nat.lt_succ_iff.mp (by exact_mod_cast hhi)) (by exact_mod_cast hlo)
    rw [if_pos (hex.mpr (by rw [ha, hk]))]
    congr 1
    rw [ha, hk] at hr
    cases hneg : d.neg with
    | false =>
      rw [hneg] at hr
      have : (n : ℝ) = (k : Int) := by rw [hr]; simp [signFactor]
      simpa using (Int.cast_injective this).symm
    | true =>
      rw [hneg] at hr
      have : (n : ℝ) = (-(k : Int) : Int) := by rw [hr]; simp [signFactor]
      simpa using (Int.cast_injective this).symm

/-- The exponent of a power of two (R113). -/
theorem log2?_eq_some_iff {d : Dy} {n : Int} : d.log2? = some n ↔ |ratOf d| = 2 ^ n := by
  have h2 : (0 : ℚ) < 2 ^ d.e := zpow_pos two_pos _
  rw [abs_ratOf]
  unfold Dy.log2?
  constructor
  · intro hs
    split at hs
    · next hm =>
      obtain rfl := Option.some.inj hs
      rw [zpow_add₀ two_ne_zero, zpow_natCast]
      congr 1
      conv_lhs => rw [hm.2]
      push_cast
      rfl
    · cases hs
  · intro hn
    have hm : (d.m : ℚ) = 2 ^ (n - d.e) := by rw [zpow_sub₀ two_ne_zero, ← hn, mul_div_cancel_right₀ _ h2.ne']
    have hm0 : d.m ≠ 0 := fun h0 => by
      rw [h0, Nat.cast_zero] at hm
      exact (zpow_pos (two_pos (α := ℚ)) _).ne hm
    have hk : 0 ≤ n - d.e := by
      have h1 : (2 : ℚ) ^ (0 : Int) ≤ 2 ^ (n - d.e) := by
        rw [zpow_zero, ← hm]
        exact_mod_cast Nat.pos_of_ne_zero hm0
      exact (zpow_le_zpow_iff_right₀ one_lt_two).mp h1
    obtain ⟨k, hk⟩ := Int.eq_ofNat_of_zero_le hk
    rw [hk, zpow_natCast] at hm
    have hpow : d.m = 2 ^ k := by exact_mod_cast hm
    rw [hpow, Nat.log2_two_pow, if_pos ⟨(Nat.two_pow_pos k).ne', rfl⟩]
    congr 1
    omega

section Format

variable {f : Fmt} (hf : FmtOk f)

include hf

/-- A finite value of a format is rounded to itself, with no flag. -/
theorem round_of_isFinite {mode : Nat} (hmode : mode < 6) {x : Dy} (h : IsFinite f (ratOf x)) : (f.round x mode).2 = 0 ∧ ∃ z, f.decode (f.round x mode).1 = .fin z ∧ ratOf z = ratOf x := by
  rw [← signFactor_mul_magnitude] at h
  rcases round_cases hf hmode (approximates_magnitude f x) with ⟨g, n, q, ex, hr⟩ | hr
  · have hex := hr.exact_of_finite hf h
    obtain ⟨z, hz, hval⟩ := hr.decode hf
    rw [hr.exact_iff_eq.mp hex, signFactor_mul_magnitude] at hval
    obtain ⟨-, -, -, -, hzero⟩ := hr.flags_of
    exact ⟨hzero hex, z, hz, by exact_mod_cast hval⟩
  · have hlt := hr.finite_lt hf h
    rw [abs_signFactor_mul] at hlt
    exact absurd (le_abs_self _) hlt.not_ge

/-- A significand of p + 1 bits at an exponent of the format is a finite value of it. -/
theorem isFinite_grid (neg : Bool) {q : Nat} {e : Int} (hq : q < 2 ^ (f.p + 1)) (he : leastExp f ≤ e) (hend : e ≤ (f.bias : Int) - f.p) : IsFinite f (signFactor neg * (q * 2 ^ e)) := by
  rcases round_cases hf (mode := 1) (by decide) (approximates_magnitude f { neg := neg, m := q, e := e }) with ⟨g, n, k, ex, h⟩ | h
  · have hge : g ≤ e := by
      rcases h.low with hl | hl
      · exact hl ▸ he
      · have hlt := hl.trans_lt (mul_lt_mul_of_pos_right (Nat.cast_lt.mpr hq) (zpow_pos (two_pos (α := ℝ)) e))
        rw [← two_zpow_add, ← two_zpow_add, zpow_lt_zpow_iff_right₀ one_lt_two] at hlt
        push_cast at hlt
        omega
    have hmag : magnitude { neg := neg, m := q, e := e } = (q * 2 ^ (e - g).toNat : Nat) * 2 ^ g := by
      unfold magnitude
      rw [Nat.cast_mul, mul_assoc, ← two_zpow_add, Int.toNat_of_nonneg (by omega), sub_add_cancel]
    have hu : (0 : ℝ) < 2 ^ g := zpow_pos two_pos g
    have hn : n = q * 2 ^ (e - g).toNat := by
      refine le_antisymm ?_ (h.rounded.le_of_le hmag.ge)
      have hlo := h.rounded.lo
      rw [hmag] at hlo
      exact_mod_cast le_of_mul_le_mul_right hlo hu
    obtain ⟨d, hd, hval⟩ := h.decode hf
    refine ⟨_, d, hd, ?_⟩
    rw [hval, h.rounded.trunc rfl, hn, ← hmag]
    rfl
  · refine absurd h.beyond (not_lt.mpr ?_)
    exact mul_le_mul (Nat.cast_le.mpr (Nat.le_sub_one_of_lt hq)) (zpow_le_zpow_right₀ one_le_two hend) (by positivity) (Nat.cast_nonneg _)

/-- The powers of two of a format, subnormals included. -/
theorem isFinite_two_zpow (neg : Bool) {n : Int} (hlo : leastExp f ≤ n) (hhi : n ≤ f.bias) : IsFinite f (signFactor neg * 2 ^ n) := by
  have hb := one_le_bias hf.ew
  obtain ⟨k, hk⟩ : ∃ k : Nat, (k : Int) = min (n - leastExp f) f.p := ⟨(min (n - leastExp f) f.p).toNat, by omega⟩
  have hpow : (2 : ℝ) ^ n = (2 ^ k : Nat) * 2 ^ (n - k) := by rw [← two_zpow_add, add_sub_cancel]
  rw [hpow]
  exact isFinite_grid hf neg (Nat.pow_lt_pow_right (by decide) (by omega)) (by omega) (by unfold leastExp at *; omega)

/-- The magnitudes of a format's non-zero values. -/
theorem isFinite_bounds {v : ℝ} (hv : IsFinite f v) (h0 : v ≠ 0) : 2 ^ leastExp f ≤ |v| ∧ |v| < 2 ^ ((f.bias : Int) + 1) := by
  constructor
  · obtain ⟨k, hk⟩ := (finite_multiple hf hv (leastExp f)).resolve_right fun h => h.2 rfl
    have hk0 : k ≠ 0 := fun h => by
      rw [h, Nat.cast_zero, zero_mul, abs_eq_zero] at hk
      exact h0 hk
    rw [hk]
    exact le_mul_of_one_le_left (zpow_pos two_pos _).le (by exact_mod_cast Nat.pos_of_ne_zero hk0)
  · rw [show (f.bias : Int) + 1 = ((f.p + 1 : Nat) : Int) + ((f.bias : Int) - f.p) by push_cast; ring, two_zpow_add]
    exact (finite_le_max hf hv).trans_lt (mul_lt_mul_of_pos_right (Nat.cast_lt.mpr (Nat.sub_lt (Nat.two_pow_pos _) one_pos)) (zpow_pos two_pos _))

theorem two_zpow_bounds {n : Int} {v : ℝ} (hv : IsFinite f v) (h : |v| = 2 ^ n) : leastExp f ≤ n ∧ n ≤ f.bias := by
  have h0 : v ≠ 0 := abs_pos.mp (h ▸ zpow_pos two_pos n)
  obtain ⟨hlo, hhi⟩ := isFinite_bounds hf hv h0
  rw [h, zpow_le_zpow_iff_right₀ one_lt_two] at hlo
  rw [h, zpow_lt_zpow_iff_right₀ one_lt_two] at hhi
  exact ⟨hlo, by omega⟩

/-- The whole numbers of up to p + 1 bits are finite values of a format. -/
theorem isFinite_int (hp : f.p ≤ f.bias) {n : Int} (hn : n.natAbs < 2 ^ (f.p + 1)) : IsFinite f n := by
  have hb := one_le_bias hf.ew
  have h : IsFinite f (ratOf (dyOfInt n)) := ratOf_cast (dyOfInt n) ▸ isFinite_grid hf (dyOfInt n).neg hn (e := 0) (by unfold leastExp; omega) (by omega)
  rw [ratOf_dyOfInt] at h
  exact_mod_cast h

/-- The patterns of the powers of two of a format. -/
theorem pow2_of_mem (neg : Bool) {n : Int} (hlo : leastExp f ≤ n) (hhi : n ≤ f.bias) :
    ∃ r z, f.pow2 neg n = some r ∧ f.decode r = .fin z ∧ ratOf z = (if neg then -1 else 1) * 2 ^ n := by
  have hfin : IsFinite f (ratOf { neg := neg, m := 1, e := n }) := by
    rw [ratOf_cast]
    simpa using isFinite_two_zpow hf neg hlo hhi
  obtain ⟨hflags, z, hz, hval⟩ := round_of_isFinite hf (mode := 0) (by decide) hfin
  refine ⟨_, z, (if_neg ?_).trans (if_pos hflags), hz, hval.trans (ratOf_two_zpow neg n)⟩
  unfold leastExp at hlo
  omega

omit hf in
theorem pow2_of_out (neg : Bool) {n : Int} (h : n < leastExp f ∨ (f.bias : Int) < n) : f.pow2 neg n = none := if_pos h

/-- The pattern of ±1. -/
theorem decode_one (neg : Bool) : ∃ y, f.decode (f.one neg) = .fin y ∧ ratOf y = if neg then -1 else 1 := by
  have hb := one_le_bias hf.ew
  have hpos := Nat.two_pow_pos f.p
  have hbits : f.one neg = f.signBit neg + ((f.bias - 1) * 2 ^ f.p + 2 ^ f.p) := by rw [← Nat.add_one_mul, Nat.sub_add_cancel hb]; rfl
  rw [hbits]
  refine ⟨_, decode_magnitude hf neg (Nat.pow_lt_pow_right (by decide) (Nat.lt_succ_self _)) (.inl le_rfl) ?_, ?_⟩
  · rw [← Nat.add_one_mul, Nat.sub_add_cancel hb, bias_double hf]
    exact Nat.mul_lt_mul_of_pos_right (by omega) hpos
  · have hexp : leastExp f + ((f.bias - 1 : Nat) : Int) = -(f.p : Int) := by unfold leastExp; omega
    have hcancel : ((2 ^ f.p : Nat) : ℚ) * 2 ^ (-(f.p : Int)) = 1 := by
      rw [zpow_neg, zpow_natCast, Nat.cast_pow, Nat.cast_ofNat]
      exact mul_inv_cancel₀ (pow_ne_zero _ two_ne_zero)
    unfold ratOf
    rw [hexp, mul_assoc, hcancel, mul_one]

end Format

end Sys2Proof.Safety
end

section
/-! PROOFS. The seeds of 1/x and 1/√x: the nearest finite value keeps the bound where some value does (R113). -/

namespace Sys2Proof.Safety

open Sys2Proof.Machine

/-! The nearest finite value. -/

/-- The largest finite pattern in the place of an infinity's. -/
def finitePattern (f : Fmt) (r : Nat) : Nat := if (f.decode r).isInf then r - 1 else r

/-- The value nearest to a real among the finite ones of a format. -/
def Nearest (f : Fmt) (t y : ℝ) : Prop := ∀ v, IsFinite f v → |y - t| ≤ |v - t|

section Nearest

variable {f : Fmt} (hf : FmtOk f)

include hf

theorem infBits_pred (neg : Bool) : f.infBits neg - 1 = f.maxBits neg := by
  have hb := bias_double hf
  have hp := Nat.two_pow_pos f.p
  have hinf : f.infBits neg = f.signBit neg + ((2 ^ f.ew - 2) * 2 ^ f.p + 2 ^ f.p) := by rw [← Nat.add_one_mul, show 2 ^ f.ew - 2 + 1 = 2 ^ f.ew - 1 by omega]; rfl
  rw [hinf, Fmt.maxBits]
  omega

/-- The largest finite values. -/
theorem decode_maxBits (neg : Bool) : ∃ y, f.decode (f.maxBits neg) = .fin y ∧ (ratOf y : ℝ) = signFactor neg * ((2 ^ (f.p + 1) - 1 : Nat) * 2 ^ ((f.bias : Int) - f.p)) := by
  have hb := bias_double hf
  have hbias := one_le_bias hf.ew
  have hp := Nat.two_pow_pos f.p
  have hpow := Nat.pow_succ 2 f.p
  have hbits : f.maxBits neg = f.signBit neg + ((2 * f.bias - 1) * 2 ^ f.p + (2 ^ (f.p + 1) - 1)) := by
    have hstep : 2 * f.bias * 2 ^ f.p = (2 * f.bias - 1) * 2 ^ f.p + 2 ^ f.p := by rw [← Nat.add_one_mul, Nat.sub_add_cancel (by omega)]
    rw [Fmt.maxBits, show 2 ^ f.ew - 2 = 2 * f.bias by omega, hstep]
    omega
  rw [hbits]
  refine ⟨_, decode_magnitude hf neg (by omega) (.inl (by omega)) ?_, ?_⟩
  · have hend : (2 * f.bias - 1) * 2 ^ f.p + 2 * 2 ^ f.p = (2 * f.bias + 1) * 2 ^ f.p := by rw [← Nat.add_mul, show 2 * f.bias - 1 + 2 = 2 * f.bias + 1 by omega]
    rw [hb]
    omega
  · rw [ratOf_cast, show leastExp f + ((2 * f.bias - 1 : Nat) : Int) = (f.bias : Int) - f.p by unfold leastExp; omega]

/-- Rounded to nearest, with the largest finite value in the place of an infinity: no finite value is nearer. -/
theorem nearest_finitePattern {d : Dy} {a : ℝ} (h : Approximates f d a) : ∃ y, f.decode (finitePattern f (f.round d 0).1) = .fin y ∧ Nearest f (signFactor d.neg * a) (ratOf y) := by
  rcases round_cases hf (mode := 0) (by decide) h with ⟨g, n, q, ex, h⟩ | h
  · obtain ⟨y, hy, hval⟩ := h.decode hf
    obtain ⟨near, -⟩ := h.chosen hf
    refine ⟨y, by rw [finitePattern, hy]; exact hy, ?_⟩
    rw [hval]
    exact near (.inl rfl)
  · obtain ⟨y, hy, hval⟩ := decode_maxBits hf d.neg
    have hbits : finitePattern f (f.round d 0).1 = f.maxBits d.neg := by
      rcases h.bits with hb | hb
      · rw [hb, finitePattern, decode_infBits, ← infBits_pred hf]
        rfl
      · rw [hb, finitePattern, hy]
        rfl
    refine ⟨y, by rw [hbits, hy], fun v hv => ?_⟩
    have hmax := finite_le_max hf hv
    have hlt := h.beyond
    have hself : signFactor d.neg * ratOf y = (2 ^ (f.p + 1) - 1 : Nat) * 2 ^ ((f.bias : Int) - f.p) := by rw [hval, ← mul_assoc, signFactor_mul_self, one_mul]
    rw [abs_signFactor_mul_sub, abs_signFactor_mul_sub, hself, abs_sub_comm, abs_of_pos (by linarith), abs_sub_comm]
    rw [← abs_signFactor_mul d.neg] at hmax
    have := le_abs_self (signFactor d.neg * v)
    exact le_trans (by linarith) (le_abs_self _)

/-- A real in the range of the normal values lies near a finite one. -/
theorem exists_isFinite_near {x : ℝ} (hlo : 2 ^ (1 - (f.bias : Int)) ≤ x) (hhi : x < 2 ^ ((f.bias : Int) + 1)) : ∃ v, IsFinite f v ∧ |v - x| ≤ x / 2 ^ f.p := by
  have hx : 0 < x := (zpow_pos two_pos _).trans_le hlo
  obtain ⟨n, hn1, hn2⟩ := exists_mem_Ico_zpow hx (one_lt_two (α := ℝ))
  have h1 := (zpow_lt_zpow_iff_right₀ one_lt_two).mp (hlo.trans_lt hn2)
  have h2 := (zpow_lt_zpow_iff_right₀ one_lt_two).mp (hn1.trans_lt hhi)
  have hu : (0 : ℝ) < 2 ^ (n - f.p) := zpow_pos two_pos _
  have hstep : (2 ^ f.p : Nat) * (2 : ℝ) ^ (n - f.p) = 2 ^ n := by rw [← two_zpow_add, add_sub_cancel]
  have hq : ⌊x / 2 ^ (n - f.p)⌋₊ < 2 ^ (f.p + 1) := by
    rw [Nat.floor_lt (by positivity), div_lt_iff₀ hu, ← two_zpow_add]
    push_cast
    rwa [show (f.p : Int) + 1 + (n - f.p) = n + 1 by ring]
  have hfin := isFinite_grid hf false hq (e := n - f.p) (by unfold leastExp; omega) (by omega)
  rw [show signFactor false = 1 from rfl, one_mul] at hfin
  refine ⟨_, hfin, ?_⟩
  have hle := Nat.floor_le (div_nonneg hx.le hu.le)
  have hlt := Nat.lt_floor_add_one (x / 2 ^ (n - f.p))
  rw [le_div_iff₀ hu] at hle
  rw [div_lt_iff₀ hu] at hlt
  rw [abs_sub_comm, abs_of_nonneg (by linarith), le_div_iff₀ (by positivity)]
  push_cast at hstep
  nlinarith

end Nearest

/-! A seed's choice. -/

section Choice

variable {f : Fmt} {lo hi : Dy} {err : Dy → Dy}

theorem keepsBound_iff {p : Nat} : keepsBound f lo hi err p = true ↔ ∃ y, f.decode p = .fin y ∧ ratOf lo ≤ ratOf (err y) ∧ ratOf (err y) ≤ ratOf hi := by
  unfold keepsBound
  cases f.decode p <;> simp [numLe_fin]

/-- A seed keeps its bound where the rounded value does. -/
theorem seed_keepsBound {free rounded : Nat} (h : keepsBound f lo hi err (finitePattern f rounded) = true) : keepsBound f lo hi err (seed f free rounded lo hi err) = true := by
  have hseed : seed f free rounded lo hi err = if keepsBound f lo hi err free then free else finitePattern f rounded := by
    unfold seed
    dsimp only
    rw [← finitePattern, if_pos h]
  rw [hseed]
  by_cases hfree : keepsBound f lo hi err free = true
  · rwa [if_pos hfree]
  · rwa [if_neg hfree]

end Choice

/-! The seed of 1/x. -/

/-- A seed of 1/x keeps a relative error of 2^-12 where some value of the format does. -/
theorem rcpSeed_bound {t : TypeCode} {p : Nat} {d : Dy} (hm : d.m ≠ 0) (h : ∃ q y, (fmtOf t).decode q = .fin y ∧ |ratOf y * ratOf d - 1| ≤ 1 / 4096) :
    ∃ y, (fmtOf t).decode (rcpSeed t p d) = .fin y ∧ |ratOf y * ratOf d - 1| ≤ 1 / 4096 := by
  have hlo : ratOf { neg := false, m := 4095, e := -12 } = 1 - 1 / 4096 := by norm_num [ratOf]
  have hhi : ratOf { neg := false, m := 4097, e := -12 } = 1 + 1 / 4096 := by norm_num [ratOf]
  have hbound (y : Dy) : (ratOf { neg := false, m := 4095, e := -12 } ≤ ratOf (y.mul d) ∧ ratOf (y.mul d) ≤ ratOf { neg := false, m := 4097, e := -12 }) ↔
      |ratOf y * ratOf d - 1| ≤ 1 / 4096 := by
    rw [hlo, hhi, ratOf_mul, abs_le, neg_le_sub_iff_le_add, sub_le_iff_le_add, sub_le_iff_le_add, add_comm (1 / 4096 : ℚ)]
  suffices hnear : keepsBound (fmtOf t) { neg := false, m := 4095, e := -12 } { neg := false, m := 4097, e := -12 } (fun y => y.mul d)
      (finitePattern (fmtOf t) ((numDiv (fmtOf t) (.fin Dy.one) (.fin d)).to (fmtOf t) 0).1) = true by
    obtain ⟨y, hy, hb⟩ := keepsBound_iff.mp (seed_keepsBound (free := freeSpecial 2 t p) hnear)
    exact ⟨y, hy, (hbound y).mp hb⟩
  obtain ⟨x, hx, hneg, happ⟩ := numDiv_fin (fmtOf t) Dy.one hm
  obtain ⟨y, hy, hnear⟩ := nearest_finitePattern (fmtOk_fmtOf t) happ
  rw [hneg, ratOf_div_cast, ratOf_one] at hnear
  obtain ⟨q, z, hz, hzb⟩ := h
  rw [hx]
  refine keepsBound_iff.mpr ⟨y, hy, (hbound y).mpr (le_trans ?_ hzb)⟩
  have hr : ratOf d ≠ 0 := mt (ratOf_eq_zero d).mp hm
  have hdist : |ratOf y - 1 / ratOf d| ≤ |ratOf z - 1 / ratOf d| := by exact_mod_cast hnear _ (isFinite_ratOf hz)
  have hscale (v : ℚ) : |v * ratOf d - 1| = |v - 1 / ratOf d| * |ratOf d| := by rw [← abs_mul, sub_mul, one_div_mul_cancel hr]
  rw [hscale, hscale]
  exact mul_le_mul_of_nonneg_right hdist (abs_nonneg _)

/-! The seed of 1/√x. -/

/-- What the bounds of the seeds need of a format: FP32 and FP64 meet it. -/
structure Wide (f : Fmt) : Prop where
  ok : FmtOk f
  p_ge : 23 ≤ f.p
  p_le : f.p ≤ 52
  p_lt : f.p < f.bias
  bias_le : f.bias ≤ 1023

theorem wide_fmtOf {t : TypeCode} (h : t = 0 ∨ t = 1) : Wide (fmtOf t) := by
  rcases h with rfl | rfl
  · exact ⟨fmtOk_fmtOf _, by decide, by decide, by decide, by decide⟩
  · exact ⟨fmtOk_fmtOf _, by decide, by decide, by decide, by decide⟩

theorem two_zpow_le_sqrt {r : ℝ} {k : Int} (h : 2 ^ (2 * k) ≤ r) : 2 ^ k ≤ √r := by
  refine Real.le_sqrt_of_sq_le ?_
  rwa [← zpow_natCast, ← zpow_mul, mul_comm]

theorem sqrt_lt_two_zpow {r : ℝ} {k : Int} (h : r < 2 ^ (2 * k)) : √r < 2 ^ k := by
  rw [Real.sqrt_lt' (zpow_pos two_pos k)]
  rwa [← zpow_natCast, ← zpow_mul, mul_comm]

/-- A quotient near 1/w for a w near s is near 1/s. -/
theorem reciprocal_near {s w y : ℝ} (hs : 0 < s) (hw : |w - s| ≤ s / 2 ^ 52) (hy : |y - 1 / w| ≤ 1 / w / 2 ^ 23) : 0 < y ∧ 4095 / 4096 ≤ y * s ∧ y * s ≤ 4097 / 4096 := by
  obtain ⟨hw1, hw2⟩ := abs_le.mp hw
  have hw0 : 0 < w := by linarith
  have hyw : |y * w - 1| ≤ 1 / 2 ^ 23 := by
    calc |y * w - 1| = |y - 1 / w| * |w| := by rw [← abs_mul, sub_mul, one_div_mul_cancel hw0.ne']
      _ ≤ 1 / w / 2 ^ 23 * |w| := mul_le_mul_of_nonneg_right hy (abs_nonneg _)
      _ = 1 / 2 ^ 23 := by rw [abs_of_pos hw0]; field_simp
  obtain ⟨h1, h2⟩ := abs_le.mp hyw
  have hy0 : 0 < y := pos_of_mul_pos_left (by linarith) hw0.le
  have hlow := mul_le_mul_of_nonneg_left (show s * (1 - 1 / 2 ^ 52) ≤ w by linarith) hy0.le
  have hhigh := mul_le_mul_of_nonneg_left (show w ≤ s * (1 + 1 / 2 ^ 52) by linarith) hy0.le
  rw [← mul_assoc] at hlow hhigh
  exact ⟨hy0, by linarith, by linarith⟩

section Root

variable {f : Fmt} (hf : Wide f) {p : Nat} {d : Dy} (hd : f.decode p = .fin d) (hneg : d.neg = false) (hm : d.m ≠ 0)

include hf hd hneg hm

/-- The range of a root. -/
theorem sqrt_bounds : 2 ^ (1 - (f.bias : Int)) ≤ √(ratOf d : ℝ) ∧ √(ratOf d : ℝ) < 2 ^ ((f.bias : Int) - 2) := by
  obtain ⟨hok, hp1, hp2, hp3, hb⟩ := hf
  have hpos : (0 : ℝ) < ratOf d := by exact_mod_cast ratOf_pos hneg hm
  obtain ⟨hlo, hhi⟩ := isFinite_bounds hok (isFinite_ratOf hd) hpos.ne'
  rw [abs_of_pos hpos] at hlo hhi
  refine ⟨two_zpow_le_sqrt (le_trans ?_ hlo), sqrt_lt_two_zpow (hhi.trans_le ?_)⟩
  · exact zpow_le_zpow_right₀ one_le_two (by unfold leastExp; omega)
  · exact zpow_le_zpow_right₀ one_le_two (by omega)

/-- The root that a seed goes by: that of FP64. -/
theorem root_near : ∃ w, fp64.decode ((numSqrt fp64 (.fin d)).to fp64 0).1 = .fin w ∧ |(ratOf w : ℝ) - √(ratOf d : ℝ)| ≤ √(ratOf d : ℝ) / 2 ^ 52 := by
  have h64 : FmtOk fp64 := ⟨by decide, by decide⟩
  have hb64 : fp64.bias = 1023 := by decide
  have hb := hf.bias_le
  obtain ⟨hlo, hhi⟩ := sqrt_bounds hf hd hneg hm
  obtain ⟨x, hx, hxneg, happ⟩ := numSqrt_fin fp64 hneg
  have hmag : magnitude d = ratOf d := by rw [← signFactor_mul_magnitude, hneg]; exact (one_mul _).symm
  rw [hmag] at happ
  have hround := rounds_approximated h64 (mode := 0) (by decide) happ
  rw [hxneg, show signFactor false = 1 from rfl, one_mul] at hround
  rw [hx]
  rcases hround with ⟨-, hbeyond⟩ | ⟨-, w, hw, -, -, near, -⟩
  · have htop := hbeyond _ (isFinite_two_zpow h64 false (n := 1023) (by rw [leastExp, hb64]; decide) (by rw [hb64]; decide))
    rw [abs_signFactor_mul, abs_of_pos (zpow_pos two_pos _), abs_of_nonneg (Real.sqrt_nonneg _)] at htop
    have := (zpow_lt_zpow_iff_right₀ one_lt_two).mp (htop.trans hhi)
    omega
  · obtain ⟨v, hv, hvn⟩ := exists_isFinite_near h64 (x := √(ratOf d : ℝ)) (le_trans (zpow_le_zpow_right₀ one_le_two (by omega)) hlo)
      (hhi.trans_le (zpow_le_zpow_right₀ one_le_two (by omega)))
    exact ⟨w, hw, (near (.inl rfl) v hv).trans hvn⟩


/-- The quotient that a seed goes by: the nearest value to 1/√x. -/
theorem rsq_quotient_near {w : Dy} (hwn : |(ratOf w : ℝ) - √(ratOf d : ℝ)| ≤ √(ratOf d : ℝ) / 2 ^ 52) : ∃ y, f.decode (finitePattern f ((numDiv f (.fin Dy.one) (.fin w)).to f 0).1) = .fin y ∧
    (0 : ℝ) < ratOf y ∧ 4095 / 4096 ≤ ratOf y * √(ratOf d : ℝ) ∧ ratOf y * √(ratOf d : ℝ) ≤ 4097 / 4096 := by
  obtain ⟨hs1, hs2⟩ := sqrt_bounds hf hd hneg hm
  have hs := (zpow_pos (two_pos (α := ℝ)) _).trans_le hs1
  obtain ⟨hw1, hw2⟩ := abs_le.mp hwn
  have hw0 : (0 : ℝ) < ratOf w := by linarith
  have hwm : w.m ≠ 0 := fun h0 => hw0.ne' (by rw [(ratOf_eq_zero w).mpr h0, Rat.cast_zero])
  obtain ⟨u, hu, huneg, happ⟩ := numDiv_fin f Dy.one hwm
  obtain ⟨y, hy, hbest⟩ := nearest_finitePattern hf.ok happ
  rw [huneg, ratOf_div_cast, ratOf_one, Rat.cast_div, Rat.cast_one] at hbest
  have hb1 : (2 : ℝ) ^ (f.bias - 1 : Int) = 2 * 2 ^ (f.bias - 2 : Int) := by rw [← zpow_one_add₀ two_ne_zero]; congr 1; ring
  have hb2 : (2 : ℝ) ^ (1 - f.bias : Int) = 4 * 2 ^ (-(f.bias + 1) : Int) := by
    rw [show (1 - f.bias : Int) = 2 + -(f.bias + 1) by ring, zpow_add₀ two_ne_zero]
    norm_num
  have hlow : 2 ^ (1 - (f.bias : Int)) ≤ 1 / (ratOf w : ℝ) := by
    rw [le_div_iff₀ hw0, ← neg_sub, zpow_neg, inv_mul_le_iff₀ (zpow_pos two_pos _), mul_one]
    linarith
  have hhigh : 1 / (ratOf w : ℝ) < 2 ^ ((f.bias : Int) + 1) := by
    rw [div_lt_iff₀ hw0, ← inv_mul_lt_iff₀ (zpow_pos two_pos _), mul_one, ← zpow_neg]
    linarith
  obtain ⟨v, hv, hvn⟩ := exists_isFinite_near hf.ok hlow hhigh
  have hp : (1 : ℝ) / ratOf w / 2 ^ f.p ≤ 1 / ratOf w / 2 ^ 23 := div_le_div_of_nonneg_left (by positivity) (by positivity) (pow_le_pow_right₀ one_le_two hf.p_ge)
  rw [hu]
  exact ⟨y, hy, reciprocal_near hs hwn (((hbest v hv).trans hvn).trans hp)⟩

end Root

/-- The error that a seed of 1/√x is held to: y² · x, with the sign of y. -/
def rsqErr (d y : Dy) : Dy := { (y.mul y).mul d with neg := y.neg }

section Error

variable {d y : Dy} (hneg : d.neg = false)

include hneg

theorem ratOf_rsqErr (hy : y.neg = false) : ratOf (rsqErr d y) = ratOf y ^ 2 * ratOf d := by
  have hr := ratOf_nonneg hneg
  rw [rsqErr, hy, ratOf_abs, ratOf_mul, ratOf_mul, ← sq, abs_of_nonneg (by positivity)]

omit hneg in
/-- Only a positive value has a positive error. -/
theorem pos_of_ratOf_rsqErr_pos (h : 0 < ratOf (rsqErr d y)) : y.neg = false ∧ y.m ≠ 0 := by
  have hm : (rsqErr d y).m ≠ 0 := mt (ratOf_eq_zero _).mpr h.ne'
  exact ⟨(neg_of_ratOf_pos h : (rsqErr d y).neg = false), fun h0 => hm (by simp [rsqErr, Dy.mul, h0])⟩

/-- The bounds of a seed of 1/√x (R113). -/
theorem rsqErr_bounds : (ratOf { neg := false, m := 4095 * 4095, e := -24 } ≤ ratOf (rsqErr d y) ∧ ratOf (rsqErr d y) ≤ ratOf { neg := false, m := 4097 * 4097, e := -24 }) ↔
    0 < ratOf y ∧ (4095 / 4096) ^ 2 ≤ ratOf y ^ 2 * ratOf d ∧ ratOf y ^ 2 * ratOf d ≤ (4097 / 4096) ^ 2 := by
  have hlo : ratOf { neg := false, m := 4095 * 4095, e := -24 } = (4095 / 4096) ^ 2 := by norm_num [ratOf]
  have hhi : ratOf { neg := false, m := 4097 * 4097, e := -24 } = (4097 / 4096) ^ 2 := by norm_num [ratOf]
  rw [hlo, hhi]
  constructor
  · intro h
    obtain ⟨hyneg, hym⟩ := pos_of_ratOf_rsqErr_pos (lt_of_lt_of_le (by norm_num) h.1)
    rw [ratOf_rsqErr hneg hyneg] at h
    exact ⟨ratOf_pos hyneg hym, h⟩
  · intro ⟨hy0, h⟩
    rwa [ratOf_rsqErr hneg (neg_of_ratOf_pos hy0)]

end Error

/-- A seed of 1/√x keeps a relative error of 2^-12. -/
theorem rsqSeed_bound {t : TypeCode} (ht : Wide (fmtOf t)) {p x : Nat} {d : Dy} (hd : (fmtOf t).decode p = .fin d) (hneg : d.neg = false) (hm : d.m ≠ 0) :
    ∃ y, (fmtOf t).decode (rsqSeed t x d) = .fin y ∧ 0 < ratOf y ∧ (4095 / 4096) ^ 2 ≤ ratOf y ^ 2 * ratOf d ∧ ratOf y ^ 2 * ratOf d ≤ (4097 / 4096) ^ 2 := by
  obtain ⟨w, hw, hwn⟩ := root_near ht hd hneg hm
  obtain ⟨y, hy, hy0, h1, h2⟩ := rsq_quotient_near ht hd hneg hm hwn
  have hsq : ((ratOf y : ℝ) * √(ratOf d : ℝ)) ^ 2 = (ratOf y : ℝ) ^ 2 * ratOf d := by rw [mul_pow, Real.sq_sqrt (by exact_mod_cast ratOf_nonneg hneg)]
  have hsq1 := pow_le_pow_left₀ (by norm_num) h1 2
  have hsq2 := pow_le_pow_left₀ (le_trans (by norm_num) h1) h2 2
  rw [hsq] at hsq1 hsq2
  have hnear : keepsBound (fmtOf t) { neg := false, m := 4095 * 4095, e := -24 } { neg := false, m := 4097 * 4097, e := -24 } (rsqErr d)
      (finitePattern (fmtOf t) ((numDiv (fmtOf t) (.fin Dy.one) (.fin w)).to (fmtOf t) 0).1) = true := by
    refine keepsBound_iff.mpr ⟨y, hy, (rsqErr_bounds hneg).mpr ⟨by exact_mod_cast hy0, ?_, ?_⟩⟩
    · exact (Rat.cast_le (K := ℝ)).mp (by push_cast; exact hsq1)
    · exact (Rat.cast_le (K := ℝ)).mp (by push_cast; exact hsq2)
  obtain ⟨z, hz, hb⟩ := keepsBound_iff.mp (seed_keepsBound (free := freeSpecial 3 t x) hnear)
  refine ⟨z, ?_, (rsqErr_bounds hneg).mp hb⟩
  unfold rsqSeed
  dsimp only
  rw [hw]
  exact hz

end Sys2Proof.Safety
end

section
/-! PROOFS. The special functions of a lane (R113, R114). -/

namespace Sys2Proof.Safety

open Sys2Proof.Machine

/-! Special values. -/

section Special

variable {t : TypeCode} {x : Nat}

theorem special_nan {q : Bool} (h : (fmtOf t).decode x = .nan q) : ∀ g ∈ [exp2Lane t, log2Lane t, rcpLane t, rsqLane t, sinpiLane t, cospiLane t], g x = ((fmtOf t).cnan, flagIf q fNV) := by
  simp [exp2Lane, log2Lane, rcpLane, rsqLane, sinpiLane, cospiLane, h]

theorem special_inf {n : Bool} (h : (fmtOf t).decode x = .inf n) : exp2Lane t x = (if n then 0 else (fmtOf t).infBits false, 0) ∧
    log2Lane t x = (if n then ((fmtOf t).cnan, fNV) else ((fmtOf t).infBits false, 0)) ∧ rcpLane t x = ((fmtOf t).signBit n, 0) ∧ rsqLane t x = (if n then ((fmtOf t).cnan, fNV) else (0, 0)) ∧
    sinpiLane t x = ((fmtOf t).cnan, fNV) ∧ cospiLane t x = ((fmtOf t).cnan, fNV) := by
  simp [exp2Lane, log2Lane, rcpLane, rsqLane, sinpiLane, cospiLane, h]

variable {d : Dy} (h : (fmtOf t).decode x = .fin d)

include h

theorem special_zero (hm : d.m = 0) : log2Lane t x = ((fmtOf t).infBits true, 0) ∧ rcpLane t x = ((fmtOf t).infBits d.neg, 0) ∧ rsqLane t x = ((fmtOf t).infBits d.neg, 0) := by
  simp [log2Lane, rcpLane, rsqLane, h, hm]

theorem special_neg (hm : d.m ≠ 0) (hneg : d.neg = true) : log2Lane t x = ((fmtOf t).cnan, fNV) ∧ rsqLane t x = ((fmtOf t).cnan, fNV) := by
  simp [log2Lane, rsqLane, h, hm, hneg]

/-! The exact and the other cases of a function. -/

theorem exp2Lane_exact {n : Int} {r : Nat} (hn : d.toInteger = some n) (hr : (fmtOf t).pow2 false n = some r) : exp2Lane t x = (r, 0) := by
  simp [exp2Lane, h, hn, hr]

/-- A power that is not representable: infinity past the range, else a pattern beside the enclosure. -/
theorem exp2Lane_inexact (hn : ∀ n, d.toInteger = some n → (fmtOf t).pow2 false n = none) : exp2Lane t x =
    (if ((fmtOf t).bias : ℚ) + 1 ≤ ratOf d then (fmtOf t).infBits false else withinUlp (fmtOf t) (freeSide 0 t x) (exp2Range d),
      fNX ||| flagIf (decide (((fmtOf t).bias : ℚ) + 1 ≤ ratOf d)) fOF ||| flagIf (decide (ratOf d < 1 - (fmtOf t).bias)) fUF) := by
  have hbias : (1 : ℚ) ≤ (fmtOf t).bias := by exact_mod_cast one_le_bias (fmtOk_fmtOf t).ew
  have hend : ratOf { neg := false, m := (fmtOf t).bias + 1, e := 0 } = (fmtOf t).bias + 1 := by simp [ratOf]
  have hbig : (!d.neg && numLe (.fin { neg := false, m := (fmtOf t).bias + 1, e := 0 }) (.fin d)) = decide (((fmtOf t).bias : ℚ) + 1 ≤ ratOf d) := by
    rw [numLe_fin, hend]
    by_cases hle : ((fmtOf t).bias : ℚ) + 1 ≤ ratOf d
    · rw [neg_of_ratOf_pos (by linarith)]
      rfl
    · rw [decide_eq_false hle, Bool.and_false]
  have htiny : (d.neg && numLt (.fin d) (.fin (dyOfInt (1 - ((fmtOf t).bias : Int))))) = decide (ratOf d < 1 - (fmtOf t).bias) := by
    rw [numLt_fin, ratOf_dyOfInt]
    push_cast
    by_cases hlt : ratOf d < 1 - (fmtOf t).bias
    · rw [neg_of_ratOf_neg (by linarith)]
      rfl
    · rw [decide_eq_false hlt, Bool.and_false]
  have hnone : d.toInteger.bind ((fmtOf t).pow2 false) = none := by
    cases hd : d.toInteger with
    | none => rfl
    | some n => exact hn n hd
  simp only [exp2Lane, h, hbig, htiny, hnone, decide_eq_true_eq]

theorem log2Lane_exact (hm : d.m ≠ 0) (hneg : d.neg = false) {n : Int} (hn : d.log2? = some n) : log2Lane t x = (fmtOf t).round (dyOfInt n) 0 := by
  simp [log2Lane, h, hm, hneg, hn]

theorem log2Lane_inexact (hm : d.m ≠ 0) (hneg : d.neg = false) (hn : d.log2? = none) : log2Lane t x = (withinUlp (fmtOf t) (freeSide 1 t x) (log2Range d), fNX) := by
  simp [log2Lane, h, hm, hneg, hn]

theorem rcpLane_exact (hm : d.m ≠ 0) {n : Int} {r : Nat} (hn : d.log2? = some n) (hr : (fmtOf t).pow2 d.neg (-n) = some r) : rcpLane t x = (r, 0) := by
  simp [rcpLane, h, hm, hn, hr]

theorem rcpLane_seed (hm : d.m ≠ 0) (hn : ∀ n, d.log2? = some n → (fmtOf t).pow2 d.neg (-n) = none) : rcpLane t x = (rcpSeed t x d, fNX) := by
  cases hd : d.log2? with
  | none => simp [rcpLane, h, hm, hd]
  | some n => simp [rcpLane, h, hm, hd, hn n hd]

theorem rsqLane_exact (hm : d.m ≠ 0) (hneg : d.neg = false) {n : Int} {r : Nat} (hn : d.log2? = some (2 * n)) (hr : (fmtOf t).pow2 false (-n) = some r) : rsqLane t x = (r, 0) := by
  simp [rsqLane, h, hm, hneg, hn, hr]

theorem rsqLane_seed (hm : d.m ≠ 0) (hneg : d.neg = false) (hn : ∀ n, d.log2? = some (2 * n) → (fmtOf t).pow2 false (-n) = none) : rsqLane t x = (rsqSeed t x d, fNX) := by
  have hnone : d.log2?.bind (fun n => if n % 2 = 0 then (fmtOf t).pow2 false (-(n / 2)) else none) = none := by
    cases hd : d.log2? with
    | none => rfl
    | some k =>
      rw [Option.bind_some]
      split
      · next hk => exact hn (k / 2) (by rw [hd, Int.mul_ediv_cancel' (Int.dvd_of_emod_eq_zero hk)])
      · rfl
  simp only [rsqLane, h, if_neg hm, hneg, Bool.false_eq_true, if_false, hnone]

omit h in
theorem half_toInteger_iff {n : Int} : (d.scale 1).toInteger = some n ↔ ratOf d = n / 2 := by
  rw [toInteger_eq_some_iff, ratOf_scale, zpow_one, eq_div_iff two_ne_zero]

omit h in
theorem half_toInteger_none (hn : ∀ n : Int, ratOf d ≠ n / 2) : (d.scale 1).toInteger = none :=
  Option.eq_none_iff_forall_ne_some.mpr fun n hs => hn n (half_toInteger_iff.mp hs)

theorem sinpiLane_half {n : Int} (hn : ratOf d = n / 2) : sinpiLane t x = if n % 2 = 0 then ((fmtOf t).signBit d.neg, 0) else ((fmtOf t).one (n % 4 == 3), 0) := by
  simp only [sinpiLane, h, half_toInteger_iff.mpr hn]

theorem cospiLane_half {n : Int} (hn : ratOf d = n / 2) : cospiLane t x = if n % 2 = 0 then ((fmtOf t).one (n % 4 == 2), 0) else (0, 0) := by
  simp only [cospiLane, h, half_toInteger_iff.mpr hn]

theorem sinpiLane_other (hn : ∀ n : Int, ratOf d ≠ n / 2) : sinpiLane t x = (withinUlp (fmtOf t) (freeSide 4 t x) (sinpiRange d), fNX) := by
  simp only [sinpiLane, h, half_toInteger_none hn]

theorem cospiLane_other (hn : ∀ n : Int, ratOf d ≠ n / 2) : cospiLane t x = (withinUlp (fmtOf t) (freeSide 5 t x) (cospiRange d), fNX) := by
  simp only [cospiLane, h, half_toInteger_none hn]

end Special

/-! The values of the exact cases, and the bounds of the others. -/

/-- An exact result: a finite value with no flag. -/
def IsExact (f : Fmt) (r : Nat × BitVec 6) (v : ℚ) : Prop := (∃ y, f.decode r.1 = .fin y ∧ ratOf y = v) ∧ r.2 = 0

/-- A result within 1 ulp: one of the two patterns next to an enclosure (log entry 47). -/
def Beside (f : Fmt) (r : Nat × BitVec 6) (e : Dy × Dy) (fl : BitVec 6) : Prop := (r.1 = (f.round e.1 3).1 ∨ r.1 = (f.round e.2 2).1) ∧ r.2 = fl

theorem beside_withinUlp (f : Fmt) (up : Bool) (e : Dy × Dy) (fl : BitVec 6) : Beside f (withinUlp f up e, fl) e fl := ⟨(ite_eq_or_eq _ _ _).symm, rfl⟩

/-- Zero's power and cosine: the pattern of 1. -/
theorem pow2_zero {t : TypeCode} (hty : t = 0 ∨ t = 1) : (fmtOf t).pow2 false 0 = some ((fmtOf t).bias * 2 ^ (fmtOf t).p) := by
  rcases hty with rfl | rfl
  · decide
  · decide

section Values

variable {t : TypeCode} {x : Nat} {d : Dy} (h : (fmtOf t).decode x = .fin d)

include h

theorem exp2Lane_zero (hty : t = 0 ∨ t = 1) (hm : d.m = 0) : exp2Lane t x = ((fmtOf t).bias * 2 ^ (fmtOf t).p, 0) :=
  exp2Lane_exact h (toInteger_eq_some_iff.mpr (by rw [(ratOf_eq_zero d).mpr hm, Int.cast_zero])) (pow2_zero hty)

theorem exp2Lane_whole {n : Int} (hn : ratOf d = n) (hlo : leastExp (fmtOf t) ≤ n) (hhi : n ≤ (fmtOf t).bias) : IsExact (fmtOf t) (exp2Lane t x) (2 ^ n) := by
  obtain ⟨r, z, hr, hz, hval⟩ := pow2_of_mem (fmtOk_fmtOf t) false hlo hhi
  rw [exp2Lane_exact h (toInteger_eq_some_iff.mpr hn) hr]
  exact ⟨⟨z, hz, by simpa using hval⟩, rfl⟩

theorem exp2Lane_big (hr : ((fmtOf t).bias : ℚ) + 1 ≤ ratOf d) : exp2Lane t x = ((fmtOf t).infBits false, fNX ||| fOF) := by
  have hbias : (1 : ℚ) ≤ (fmtOf t).bias := by exact_mod_cast one_le_bias (fmtOk_fmtOf t).ew
  have hbeyond (n : Int) (hn : d.toInteger = some n) : (fmtOf t).pow2 false n = none := by
    rw [toInteger_eq_some_iff.mp hn] at hr
    exact pow2_of_out false (.inr (Int.lt_of_add_one_le (by exact_mod_cast hr)))
  rw [exp2Lane_inexact h hbeyond, if_pos hr, decide_eq_true hr, decide_eq_false (by linarith)]
  rfl

theorem exp2Lane_between (hr : ratOf d < (fmtOf t).bias + 1) (hne : ¬ ∃ n : Int, ratOf d = n ∧ leastExp (fmtOf t) ≤ n ∧ n ≤ (fmtOf t).bias) :
    Beside (fmtOf t) (exp2Lane t x) (exp2Range d) (if ratOf d < 1 - (fmtOf t).bias then fNX ||| fUF else fNX) := by
  have hout (n : Int) (hn : d.toInteger = some n) : (fmtOf t).pow2 false n = none := by
    refine pow2_of_out false ?_
    by_contra hmem
    rw [not_or, not_lt, not_lt] at hmem
    exact hne ⟨n, toInteger_eq_some_iff.mp hn, hmem⟩
  rw [exp2Lane_inexact h hout, if_neg hr.not_ge, decide_eq_false hr.not_ge]
  have hfl : fNX ||| flagIf false fOF ||| flagIf (decide (ratOf d < 1 - (fmtOf t).bias)) fUF = if ratOf d < 1 - (fmtOf t).bias then fNX ||| fUF else fNX := by
    split
    · next hlt => rw [decide_eq_true hlt]; rfl
    · next hlt => rw [decide_eq_false hlt]; rfl
  rw [hfl]
  exact beside_withinUlp ..

/-- The exponents of a value that is a power of two. -/
theorem exponent_bounds {n : Int} (hn : |ratOf d| = 2 ^ n) : leastExp (fmtOf t) ≤ n ∧ n ≤ (fmtOf t).bias :=
  two_zpow_bounds (fmtOk_fmtOf t) (isFinite_ratOf h) (by rw [← Rat.cast_abs, hn]; push_cast; rfl)

theorem log2Lane_other (hpos : 0 < ratOf d) (hn : ∀ n : Int, ratOf d ≠ 2 ^ n) : Beside (fmtOf t) (log2Lane t x) (log2Range d) fNX := by
  have hnone : d.log2? = none := Option.eq_none_iff_forall_ne_some.mpr fun n hs => hn n (by rw [← abs_of_pos hpos, log2?_eq_some_iff.mp hs])
  rw [log2Lane_inexact h (mt (ratOf_eq_zero d).mpr hpos.ne') (neg_of_ratOf_pos hpos) hnone]
  exact beside_withinUlp ..

/-- The reciprocal of a power of two, where the format has it. -/
theorem rcpLane_power {n : Int} (hn : |ratOf d| = 2 ^ n) (hlo : leastExp (fmtOf t) ≤ -n) (hhi : -n ≤ (fmtOf t).bias) : IsExact (fmtOf t) (rcpLane t x) (1 / ratOf d) := by
  have hm : d.m ≠ 0 := mt (ratOf_eq_zero d).mpr (abs_pos.mp (hn ▸ zpow_pos two_pos n))
  obtain ⟨r, z, hr, hz, hval⟩ := pow2_of_mem (fmtOk_fmtOf t) d.neg hlo hhi
  rw [rcpLane_exact h hm (log2?_eq_some_iff.mpr hn) hr]
  refine ⟨⟨z, hz, hval.trans ?_⟩, rfl⟩
  rw [zpow_neg, ← hn]
  cases hneg : d.neg with
  | false => simp [abs_of_nonneg (ratOf_nonneg hneg)]
  | true => simp [abs_of_neg ((ratOf_neg_iff d hm).mpr hneg), inv_neg]

theorem rcpLane_of_finite {n : Int} (hn : |ratOf d| = 2 ^ n) (hfin : ∃ q y, (fmtOf t).decode q = .fin y ∧ ratOf y = 1 / ratOf d) : IsExact (fmtOf t) (rcpLane t x) (1 / ratOf d) := by
  obtain ⟨q, y, hy, hval⟩ := hfin
  have habs : |ratOf y| = 2 ^ (-n) := by rw [hval, abs_div, abs_one, hn, zpow_neg, one_div]
  obtain ⟨hlo, hhi⟩ := exponent_bounds hy habs
  exact rcpLane_power h hn hlo hhi

/-- A reciprocal is exact or a seed. -/
theorem rcpLane_cases (hm : d.m ≠ 0) : IsExact (fmtOf t) (rcpLane t x) (1 / ratOf d) ∨ rcpLane t x = (rcpSeed t x d, fNX) := by
  by_cases hex : ∃ n : Int, |ratOf d| = 2 ^ n ∧ leastExp (fmtOf t) ≤ -n ∧ -n ≤ (fmtOf t).bias
  · obtain ⟨n, hn, hlo, hhi⟩ := hex
    exact .inl (rcpLane_power h hn hlo hhi)
  · refine .inr (rcpLane_seed h hm fun n hn => pow2_of_out d.neg ?_)
    by_contra hmem
    rw [not_or, not_lt, not_lt] at hmem
    exact hex ⟨n, log2?_eq_some_iff.mp hn, hmem⟩

theorem rcpLane_bound (hm : d.m ≠ 0) (hkeep : ∃ q y, (fmtOf t).decode q = .fin y ∧ |ratOf y * ratOf d - 1| ≤ 1 / 4096) :
    ∃ y, (fmtOf t).decode (rcpLane t x).1 = .fin y ∧ |ratOf y * ratOf d - 1| ≤ 1 / 4096 := by
  rcases rcpLane_cases h hm with ⟨⟨y, hy, hval⟩, -⟩ | hseed
  · refine ⟨y, hy, ?_⟩
    rw [hval, one_div_mul_cancel (mt (ratOf_eq_zero d).mp hm)]
    norm_num
  · rw [hseed]
    exact rcpSeed_bound hm hkeep

theorem rcpLane_flags (hm : d.m ≠ 0) : (rcpLane t x).2 = 0 ∨ (rcpLane t x).2 = fNX :=
  (rcpLane_cases h hm).imp (fun hex => hex.2) fun hseed => by rw [hseed]

omit h in
theorem isExact_one (neg : Bool) : IsExact (fmtOf t) ((fmtOf t).one neg, 0) (if neg then -1 else 1) := ⟨decode_one (fmtOk_fmtOf t) neg, rfl⟩

/-- At whole numbers the sine is 0 and the cosine ±1. -/
theorem circle_whole {n : Int} (hn : ratOf d = n / 2) (heven : n % 2 = 0) : sinpiLane t x = ((fmtOf t).signBit d.neg, 0) ∧ IsExact (fmtOf t) (cospiLane t x) (if n % 4 = 0 then 1 else -1) := by
  refine ⟨(sinpiLane_half h hn).trans (if_pos heven), ?_⟩
  rw [cospiLane_half h hn, if_pos heven]
  have hside : (if n % 4 = 0 then (1 : ℚ) else -1) = if (n % 4 == 2) = true then -1 else 1 := by
    rcases (show n % 4 = 0 ∨ n % 4 = 2 by omega) with h4 | h4
    · rw [h4]; rfl
    · rw [h4]; rfl
  rw [hside]
  exact isExact_one _

/-- At halves of odd numbers the sine is ±1 and the cosine 0. -/
theorem circle_half {n : Int} (hn : ratOf d = n / 2) (hodd : n % 2 ≠ 0) : IsExact (fmtOf t) (sinpiLane t x) (if n % 4 = 1 then 1 else -1) ∧ cospiLane t x = (0, 0) := by
  refine ⟨?_, (cospiLane_half h hn).trans (if_neg hodd)⟩
  rw [sinpiLane_half h hn, if_neg hodd]
  have hside : (if n % 4 = 1 then (1 : ℚ) else -1) = if (n % 4 == 3) = true then -1 else 1 := by
    rcases (show n % 4 = 1 ∨ n % 4 = 3 by omega) with h4 | h4
    · rw [h4]; rfl
    · rw [h4]; rfl
  rw [hside]
  exact isExact_one _

/-- At zero. -/
theorem circle_zero (hm : d.m = 0) : sinpiLane t x = ((fmtOf t).signBit d.neg, 0) ∧ cospiLane t x = ((fmtOf t).bias * 2 ^ (fmtOf t).p, 0) := by
  have hn : ratOf d = ((0 : Int) : ℚ) / 2 := by rw [(ratOf_eq_zero d).mpr hm, Int.cast_zero, zero_div]
  refine ⟨sinpiLane_half h hn, (cospiLane_half h hn).trans ?_⟩
  rw [← Nat.zero_add ((fmtOf t).bias * 2 ^ (fmtOf t).p)]
  rfl

theorem circle_other (hn : ∀ n : Int, ratOf d ≠ n / 2) : Beside (fmtOf t) (sinpiLane t x) (sinpiRange d) fNX ∧ Beside (fmtOf t) (cospiLane t x) (cospiRange d) fNX := by
  rw [sinpiLane_other h hn, cospiLane_other h hn]
  exact ⟨beside_withinUlp .., beside_withinUlp ..⟩

variable (ht : Wide (fmtOf t))

include ht

theorem log2Lane_power {n : Int} (hn : ratOf d = 2 ^ n) : IsExact (fmtOf t) (log2Lane t x) n := by
  obtain ⟨hok, hp1, hp2, hp3, hb⟩ := ht
  have hpos : 0 < ratOf d := hn ▸ zpow_pos two_pos n
  have habs : |ratOf d| = 2 ^ n := by rw [abs_of_pos hpos, hn]
  obtain ⟨hlo, hhi⟩ := exponent_bounds h habs
  have hpow : 2 ^ 24 ≤ 2 ^ ((fmtOf t).p + 1) := Nat.pow_le_pow_right two_pos (by omega)
  have hfin := isFinite_int hok hp3.le (n := n) (by unfold leastExp at hlo; omega)
  have hcast : (n : ℝ) = (ratOf (dyOfInt n) : ℝ) := by rw [ratOf_dyOfInt]; norm_cast
  rw [hcast] at hfin
  obtain ⟨hfl, z, hz, hval⟩ := round_of_isFinite hok (mode := 0) (by decide) hfin
  rw [log2Lane_exact h (mt (ratOf_eq_zero d).mpr hpos.ne') (neg_of_ratOf_pos hpos) (log2?_eq_some_iff.mpr habs)]
  exact ⟨⟨z, hz, hval.trans (ratOf_dyOfInt n)⟩, hfl⟩

theorem rsqLane_power {n : Int} (hn : ratOf d = 2 ^ (2 * n)) : IsExact (fmtOf t) (rsqLane t x) (2 ^ (-n)) := by
  have hpos : 0 < ratOf d := hn ▸ zpow_pos two_pos _
  have habs : |ratOf d| = 2 ^ (2 * n) := by rw [abs_of_pos hpos, hn]
  obtain ⟨hlo, hhi⟩ := exponent_bounds h habs
  have hp := ht.p_lt
  obtain ⟨r, z, hr, hz, hval⟩ := pow2_of_mem (fmtOk_fmtOf t) false (n := -n) (by unfold leastExp; omega) (by unfold leastExp at hlo; omega)
  rw [rsqLane_exact h (mt (ratOf_eq_zero d).mpr hpos.ne') (neg_of_ratOf_pos hpos) (log2?_eq_some_iff.mpr habs) hr]
  exact ⟨⟨z, hz, by simpa using hval⟩, rfl⟩

/-- A reciprocal root is exact or a seed. -/
theorem rsqLane_cases (hpos : 0 < ratOf d) : (∃ n : Int, ratOf d = 2 ^ (2 * n) ∧ IsExact (fmtOf t) (rsqLane t x) (2 ^ (-n))) ∨ rsqLane t x = (rsqSeed t x d, fNX) := by
  by_cases hex : ∃ n : Int, ratOf d = 2 ^ (2 * n)
  · obtain ⟨n, hn⟩ := hex
    exact .inl ⟨n, hn, rsqLane_power h ht hn⟩
  · refine .inr (rsqLane_seed h (mt (ratOf_eq_zero d).mpr hpos.ne') (neg_of_ratOf_pos hpos) fun n hn => absurd ⟨n, ?_⟩ hex)
    rw [← log2?_eq_some_iff.mp hn, abs_of_pos hpos]

theorem rsqLane_bound (hpos : 0 < ratOf d) : ∃ y, (fmtOf t).decode (rsqLane t x).1 = .fin y ∧ 0 < ratOf y ∧ (4095 / 4096) ^ 2 ≤ ratOf y ^ 2 * ratOf d ∧
    ratOf y ^ 2 * ratOf d ≤ (4097 / 4096) ^ 2 ∧ ((rsqLane t x).2 = 0 ∨ (rsqLane t x).2 = fNX) := by
  rcases rsqLane_cases h ht hpos with ⟨n, hn, ⟨y, hy, hval⟩, hfl⟩ | hseed
  · have hone : ratOf y ^ 2 * ratOf d = 1 := by
      rw [hval, hn, ← zpow_natCast, ← zpow_mul, ← zpow_add₀ two_ne_zero, show -n * ((2 : Nat) : Int) + 2 * n = 0 by push_cast; ring, zpow_zero]
    exact ⟨y, hy, hval ▸ zpow_pos two_pos _, by rw [hone]; norm_num, by rw [hone]; norm_num, .inl hfl⟩
  · obtain ⟨y, hy, hy0, h1, h2⟩ := rsqSeed_bound ht (x := x) h (neg_of_ratOf_pos hpos) (mt (ratOf_eq_zero d).mpr hpos.ne')
    rw [hseed]
    exact ⟨y, hy, hy0, h1, h2, .inr rfl⟩

end Values

/-- Settles O27, function by function: the exact cases by the powers of two of the format, the seeds by the nearest value. -/
theorem specialFunctions : Obligations.SpecialFunctions := by
  intro t hty f nv is next
  have hwide := wide_fmtOf hty
  refine ⟨exp2Lane t, log2Lane t, rcpLane t, rsqLane t, sinpiLane t, cospiLane t, fun s d a k l => ?_, fun p q h => special_nan h, fun p h => special_inf h, fun p h => special_inf h, ?_⟩
  · exact ⟨vec_spec _ t d k _ _ s rfl, vec_spec _ t d k _ _ s rfl, vec_spec _ t d k _ _ s rfl, vec_spec _ t d k _ _ s rfl, vec_spec _ t d k _ _ s rfl, vec_spec _ t d k _ _ s rfl⟩
  intro p v h r nought
  refine ⟨fun hm => ?_, special_neg h, ?_, fun hpos => ⟨fun n hn => log2Lane_power h hwide hn, log2Lane_other h hpos⟩, fun n hn hfin => rcpLane_of_finite h hn hfin,
    rcpLane_bound h, rcpLane_flags h, fun n hn => rsqLane_power h hwide hn, rsqLane_bound h hwide, fun n hn => ⟨circle_whole h hn, circle_half h hn⟩, circle_other h⟩
  · obtain ⟨hlog, hrcp, hrsq⟩ := special_zero h hm
    exact ⟨exp2Lane_zero h hty hm, hlog, hrcp, hrsq, circle_zero h hm⟩
  · intro least exact_
    have hleast : ((least : Int) : ℚ) = 1 - f.bias := by simp [least]
    refine ⟨fun n hn hlo hhi => exp2Lane_whole h hn hlo hhi, exp2Lane_big h, fun hne hlt => ?_⟩
    rw [hleast]
    exact exp2Lane_between h hlt hne

end Sys2Proof.Safety
end

section
/-! PROOFS. Operand slots (R126, R127, R130, R131): claims, loads, words and fills. -/

namespace Sys2Proof.Safety

open Sys2Proof.Machine

/-! The states of a slot (R127). -/

theorem QSlot.held_iff (x : QSlot) : x.held = true ↔ x.st = .claimed ∨ x.st = .loaded := by simp [QSlot.held]

theorem QSlot.not_held_iff (x : QSlot) : ¬ x.held = true ↔ x.st = .free ∨ x.st = .filling := by
  rw [QSlot.held_iff]
  cases x.st <;> simp

theorem QSlot.writable_iff (x : QSlot) : x.writable = true ↔ (x.st = .claimed ∨ x.st = .loaded) ∧ x.locks = 0 := by simp [QSlot.writable, QSlot.held_iff]

theorem QSlot.not_writable_iff (x : QSlot) : ¬ x.writable = true ↔ x.st = .free ∨ x.st = .filling ∨ x.locks ≠ 0 := by
  have h : x.writable = true ↔ x.held = true ∧ x.locks = 0 := by simp [QSlot.writable]
  rw [h, not_and_or, QSlot.not_held_iff, or_assoc]

/-- An instruction that finds its slot in a wrong state. -/
theorem traps_of_slotTrap {i : Instr} {s : State} {e : Effect} (h : exec i s = finish 4 s e) (he : e = s.slotTrap) : ∃ v, Traps i (.plain 0x0D v) s := ⟨_, traps_of_trap h he⟩

/-! The bytes that a load of a slot reads. -/

theorem length_nearBytes (s : State) (a n : Nat) : (s.nearBytes a n).length = n := LocalMem.read_length ..

theorem nearBytes_getD (s : State) (a : Nat) {n j : Nat} (h : j < n) : (s.nearBytes a n).getD j 0 = s.here.mem.byte s.at_ s.key (a + j) := LocalMem.read_getD _ _ _ _ _ _ h

/-! The raw form of `qld`. -/

/-- An element array replaced as a whole, behind which the scale array stays. -/
theorem memByte_elements {m : Memory} {bs : List Byte} (y : Nat) (hm : memWf m = true) (hl : bs.length = 8192) :
    memByte (memWrite (memClear m 0 8192) 0 bs) y = if y < 8192 then bs.getD y 0 else memByte m y := by
  rw [memByte_memWrite 0 y bs (memClear_wf 0 8192 hm), hl, memByte_memClear]
  by_cases hy : y < 8192 <;> simp [hy]

theorem qldRaw_of_nearOk {s : State} {q : BitVec 3} {a : BitVec 5} (h : NearOk s false (s.g a).toNat 8192 16) :
    qldRaw q a s = .ok ((s.nearLoaded (s.g a).toNat 8192).setQ q { s.q q with
      st := .loaded, arr := memWrite (memClear (s.q q).arr 0 8192) 0 (s.nearBytes (s.g a).toNat 8192) }) := by
  simp only [qldRaw, nearCheck_of_nearOk (by decide) h]

theorem qldRaw_of_nearFails {s : State} {q : BitVec 3} {a : BitVec 5} {t : Trap} (h : NearFails s false (s.g a) 8192 16 t) : qldRaw q a s = .trap t := by
  simp only [qldRaw, nearCheck_of_nearFails (by decide) h]

/-! The block forms of `qld`. -/

/-- A list that is cut is read place by place, so that its length is that of the cut whatever the list. -/
theorem take_eq_map_getD {k : Nat} {r : List Byte} (h : k ≤ r.length) : r.take k = (List.range k).map fun j => r.getD j 0 := by
  refine List.ext_getElem (by simp [h]) fun j h1 h2 => ?_
  have hj : j < k := by simpa using h2
  rw [List.getElem_take, List.getElem_map, List.getElem_range, List.getD_eq_getElem _ _ (hj.trans_le h)]

/-- The first element that fails a test is found with its number. -/
theorem find?_zipIdx_eq_some {α : Type} {p : α → Bool} {l : List α} {r : Nat} (hr : r < l.length) (hp : p l[r] = false) (hbefore : ∀ x (h : x < r), p (l[x]'(h.trans hr)) = true) :
    (l.zipIdx.find? fun x => !p x.1) = some (l[r], r) := by
  refine List.find?_eq_some_iff_getElem.mpr ⟨by simp [hp], r, by simpa using hr, by simp, fun x hx => ?_⟩
  simp [hbefore x hx]

/-- Where every element passes, none is found. -/
theorem find?_zipIdx_eq_none {α : Type} {p : α → Bool} {l : List α} (h : ∀ x (hx : x < l.length), p l[x] = true) : (l.zipIdx.find? fun x => !p x.1) = none := by
  refine List.find?_eq_none.mpr fun x hx => ?_
  obtain ⟨n, hn, rfl⟩ := List.mem_iff_getElem.mp hx
  simp [h n (by simpa using hn)]

section Blocks

variable (s : State) (a : Nat) (f : BlockFmt) (n : Nat)

/-- The records that a block form of `qld` reads. -/
def slotRecords : List (List Byte) := chunks f.size n (s.nearBytes a (n * f.size))

/-- A slot's arrays once records are loaded: their elements in record order, and their scales (R126, R131). -/
def slotArrays (m : Memory) : Memory :=
  memWrite (memWrite m 0 ((slotRecords s a f n).flatMap fun r => r.take f.scaleAt)) 8192 ((slotRecords s a f n).map fun r => r.getD f.scaleAt 0)

/-- The padding of record `r` is zero (R73). -/
def PaddedAt (r : Nat) : Prop := ∀ j, f.scaleAt < j → j < f.size → s.here.mem.byte s.at_ s.key (a + (f.size * r + j)) = 0

theorem length_slotRecords : (slotRecords s a f n).length = n := by simp [slotRecords, chunks]

variable {s a f n}

/-- A record lies inside the bytes that are read. -/
theorem slotRecord_end {r : Nat} (hr : r < (slotRecords s a f n).length) : f.size * r + f.size ≤ n * f.size := by
  rw [← Nat.mul_succ, Nat.mul_comm n]
  exact Nat.mul_le_mul_left _ (by rwa [length_slotRecords] at hr)

theorem length_slotRecord {r : Nat} (hr : r < (slotRecords s a f n).length) : (slotRecords s a f n)[r].length = f.size := by
  have h := slotRecord_end hr
  simp only [slotRecords, chunks, List.getElem_map, List.getElem_range, List.length_take, List.length_drop, length_nearBytes]
  omega

/-- A byte of a record. -/
theorem slotRecord_getD {r j : Nat} (hr : r < (slotRecords s a f n).length) (hj : j < f.size) :
    (slotRecords s a f n)[r].getD j 0 = s.here.mem.byte s.at_ s.key (a + (f.size * r + j)) := by
  have h := slotRecord_end hr
  rw [← nearBytes_getD s a (show f.size * r + j < n * f.size by omega)]
  simp only [slotRecords, chunks, List.getElem_map, List.getElem_range, List.getD_eq_getElem?_getD, List.getElem?_take_of_lt hj, List.getElem?_drop]

theorem padOk_slotRecord {r : Nat} (hr : r < (slotRecords s a f n).length) : padOk f (slotRecords s a f n)[r] = true ↔ PaddedAt s a f r := by
  rw [padOk_iff, length_slotRecord hr]
  exact forall_congr' fun j => forall_congr' fun _ => forall_congr' fun hj => by rw [slotRecord_getD hr hj]

theorem scaleAt_lt_size (f : BlockFmt) : f.scaleAt < f.size := by
  cases f with
  | bs8 => decide
  | bs4 => decide

/-- The elements of a row of records are those of each, at a fixed distance. -/
theorem slotElements_eq : (slotRecords s a f n).flatMap (fun r => r.take f.scaleAt) =
    (slotRecords s a f n).flatMap fun r => (List.range f.scaleAt).map fun j => r.getD j 0 := by
  rw [List.flatMap_def, List.flatMap_def]
  refine congrArg List.flatten (List.map_congr_left fun r hr => take_eq_map_getD ?_)
  obtain ⟨x, hx, rfl⟩ := List.mem_iff_getElem.mp hr
  exact (length_slotRecord hx).symm ▸ (scaleAt_lt_size f).le

/-- What a slot holds once records are loaded. -/
theorem memByte_slotArrays {m : Memory} (hm : memWf m = true) (hn : f.scaleAt * n = 8192) :
    (∀ r j, r < n → j < f.scaleAt → memByte (slotArrays s a f n m) (f.scaleAt * r + j) = s.here.mem.byte s.at_ s.key (a + (f.size * r + j))) ∧
    (∀ r, r < n → memByte (slotArrays s a f n m) (8192 + r) = s.here.mem.byte s.at_ s.key (a + (f.size * r + f.scaleAt))) ∧
    ∀ y, 8192 + n ≤ y → memByte (slotArrays s a f n m) y = memByte m y := by
  have hlen (r : List Byte) : ((List.range f.scaleAt).map fun j => r.getD j 0).length = f.scaleAt := by simp
  have hes : ((slotRecords s a f n).flatMap fun r => r.take f.scaleAt).length = 8192 := by
    rw [slotElements_eq, length_flatMap_of_length hlen, length_slotRecords, hn]
  have hsc : ((slotRecords s a f n).map fun r => r.getD f.scaleAt 0).length = n := by rw [List.length_map, length_slotRecords]
  have hread (y : Nat) := memByte_memWrite 8192 y ((slotRecords s a f n).map fun r => r.getD f.scaleAt 0)
    (memWrite_wf 0 ((slotRecords s a f n).flatMap fun r => r.take f.scaleAt) hm)
  simp only [memByte_memWrite 0 _ _ hm, hes, hsc] at hread
  refine ⟨fun r j hr hj => ?_, fun r hr => ?_, fun y hy => ?_⟩
  · have hr' : r < (slotRecords s a f n).length := by rwa [length_slotRecords]
    have hin : f.scaleAt * (r + 1) ≤ f.scaleAt * n := Nat.mul_le_mul_left _ hr
    rw [Nat.mul_succ] at hin
    rw [slotArrays, hread, if_neg (by omega), if_pos (by omega), Nat.sub_zero, slotElements_eq, getD_flatMap_of_length hlen hj _ hr']
    rw [List.getD_eq_getElem _ _ (by rwa [hlen]), List.getElem_map, List.getElem_range, slotRecord_getD hr' (hj.trans (scaleAt_lt_size f))]
  · have hr' : r < (slotRecords s a f n).length := by rwa [length_slotRecords]
    rw [slotArrays, hread, if_pos (by omega), Nat.add_sub_cancel_left, List.getD_eq_getElem _ _ (by rwa [hsc]), List.getElem_map, slotRecord_getD hr' (scaleAt_lt_size f)]
  · rw [slotArrays, hread, if_neg (by omega), if_neg (by omega)]

end Blocks

section BlockLoads

variable {s : State} {q : BitVec 3} {a : BitVec 5} {f : BitVec 2} {n : Nat} {fm : BlockFmt} (hf : qldShape f = (n, fm)) (h : NearOk s false (s.g a).toNat (n * fm.size) 16) (hn : n ≠ 0)

include hf h hn

/-- Every record is sound: the slot takes them all. -/
theorem qldBlocks_of_padded (hp : ∀ r, r < n → PaddedAt s (s.g a).toNat fm r) : qldBlocks q a f s =
    .ok ((s.nearLoaded (s.g a).toNat (n * fm.size)).setQ q { s.q q with st := .loaded, arr := slotArrays s (s.g a).toNat fm n (s.q q).arr }) := by
  have hfind := find?_zipIdx_eq_none (p := padOk fm) fun r hr => (padOk_slotRecord hr).mpr (hp r (by rwa [length_slotRecords s (s.g a).toNat fm n] at hr))
  unfold slotRecords at hfind
  simp only [qldBlocks, hf, nearCheck_of_nearOk (Nat.mul_ne_zero hn (size_ne_zero fm)) h, hfind]
  rfl

/-- The first record that is not traps, at its address. -/
theorem qldBlocks_of_not_padded {r : Nat} (hr : r < n) (hp : ¬ PaddedAt s (s.g a).toNat fm r) (hbefore : ∀ x, x < r → PaddedAt s (s.g a).toNat fm x) :
    qldBlocks q a f s = .trap (.atNear cPoison (s.g a + BitVec.ofNat 64 (fm.size * r)) (s.g a + BitVec.ofNat 64 (fm.size * r))) := by
  have hr' : r < (slotRecords s (s.g a).toNat fm n).length := by rwa [length_slotRecords]
  have hfind := find?_zipIdx_eq_some (p := padOk fm) hr' (Bool.eq_false_iff.mpr (mt (padOk_slotRecord hr').mp hp)) fun x hx => (padOk_slotRecord (hx.trans hr')).mpr (hbefore x hx)
  unfold slotRecords at hfind
  simp only [qldBlocks, hf, nearCheck_of_nearOk (Nat.mul_ne_zero hn (size_ne_zero fm)) h, hfind]

end BlockLoads

/-! `qlnk` (R131). -/

section Fill

variable {s : State} {q : BitVec 3} {p : Fin 4} {w sc : BitVec 1}

theorem qlnkEff_begin (h : s.act.part = .none) : qlnkEff q (BitVec.ofNat 2 p.val) w sc s =
    if (s.q q).writable then .goOn ((s.setQ q { s.q q with st := .filling }).modAct fun a => { a with part := .qlnk q.toFin 0 }) else s.slotTrap := by
  simp only [qlnkEff, h]

/-- Word `k` is the last of a fill: word 255, or 271 with the scale array. -/
def lastWord (sc : BitVec 1) (k : Nat) : Bool := k + 1 == if sc = 1 then 272 else 256

/-- One word of a fill taken from its port. -/
def fillTake (q : BitVec 3) (p : Fin 4) (w sc : BitVec 1) (k : Nat) (s : State) : Effect :=
  if w = 1 then linkForward p (fun t v => t.qlnkWord q k v (lastWord sc k)) s else linkPop p (fun t v => t.qlnkWord q k v (lastWord sc k)) s

/-- What a fill does once it has tried its port: the last word ends the instruction, any other one is a part of it. -/
def fillStep (last : Bool) : Effect → Effect
  | .ok t => if last then .ok t else .goOn t
  | e => e

theorem qlnkEff_of_part {k : Nat} {r : Fin 8} (h : s.act.part = .qlnk r k) :
    qlnkEff q (BitVec.ofNat 2 p.val) w sc s = fillStep (lastWord sc k) (fillTake q p w sc k s) := by
  simp only [qlnkEff, h, toFin_port]
  rfl

end Fill

/-- Settles O33: each instruction by the state of its slot, then by its access, its word or its port. -/
theorem operandSlots : Obligations.OperandSlots := by
  refine ⟨?claims, ?data, ?fill⟩
  case claims =>
    intro s q d he x wrong
    refine ⟨fun h => ?_, fun h => ?_, fun h => ?_, fun h => ?_, fun h hl => ?_, fun h => ?_⟩
    · exact does_of_ok (exec_of_onCompute he rfl) (if_pos h)
    · exact traps_of_slotTrap (exec_of_onCompute he rfl) (if_neg h)
    · exact does_of_ok (exec_of_onCompute he rfl) (if_pos h)
    · have heff : qtryEff q d s = .ok (s.setG d 0) := if_neg h
      have hexec : exec (.qtry q d) s = finish 4 s (qtryEff q d s) := exec_of_onCompute he rfl
      exact ⟨_, hexec.trans (congrArg (finish 4 s) heff), setG_retire s 4 d 0⟩
    · exact does_of_ok (exec_of_onCompute he rfl) (if_pos ((QSlot.writable_iff _).mpr ⟨h, hl⟩))
    · exact traps_of_slotTrap (exec_of_onCompute he rfl) (if_neg ((QSlot.not_writable_iff _).mpr h))
  case data =>
    intro s q o a l b he x ea open1 wrong mem read raw blocks
    have hopen : open1 ↔ x.writable = true := (QSlot.writable_iff x).symm
    have hqld (f : BitVec 2) : exec (.qld q a f b) s = finish 4 s (qldEff q a f s) := exec_of_onCompute he rfl
    have hraw : exec raw s = finish 4 s (qldEff q a 0 s) := exec_of_onCompute he rfl
    have hput : exec (.qput q a o l) s = finish 4 s (qputEff q a o l s) := exec_of_onCompute he rfl
    have hget : exec (.qget q a o) s = finish 4 s (qgetEff q a o s) := exec_of_onCompute he rfl
    have hblocks (f : BitVec 2) (n : Nat) (fm : BlockFmt) (hf : qldShape f = (n, fm)) (hf0 : f ≠ 0) (hn : fm.scaleAt * n = 8192) (ho : open1)
        (h : NearOk s false ea.toNat (n * fm.size) 16) : blocks f n fm.size fm.scaleAt := by
      have hn0 : n ≠ 0 := fun e => by rw [e, Nat.mul_zero] at hn; omega
      have heff : qldEff q a f s = qldBlocks q a f s := (if_pos (hopen.mp ho)).trans (if_neg hf0)
      exact ⟨fun hp => ⟨_, does_of_ok (hqld f) (heff.trans (qldBlocks_of_padded hf h hn0 hp)), fun hwf => memByte_slotArrays hwf hn⟩,
        fun r hr hbefore hp => traps_of_trap (hqld f) (heff.trans (qldBlocks_of_not_padded hf h hn0 hr hp hbefore))⟩
    refine ⟨fun ho h => ?_, fun ho t h => ?_, fun ho h => ?_, fun ho h => ?_, fun ho hi => ?_, fun ho hi => ?_, fun hi => ?_, fun ho => ?_, fun ho hi => ?_, fun ho hi => ?_⟩
    · have heff : qldEff q a 0 s = qldRaw q a s := (if_pos (hopen.mp ho)).trans (if_pos rfl)
      refine ⟨_, does_of_ok hraw (heff.trans (qldRaw_of_nearOk h)), fun hwf => ⟨fun j hj => ?_, fun y hy => ?_⟩⟩
      · rw [memByte_elements j hwf (length_nearBytes ..), if_pos hj, nearBytes_getD s _ hj]
      · rw [memByte_elements y hwf (length_nearBytes ..), if_neg (by omega)]
    · exact traps_of_trap hraw (((if_pos (hopen.mp ho)).trans (if_pos rfl)).trans (qldRaw_of_nearFails h))
    · exact hblocks 1 256 .bs8 rfl (by decide) rfl ho h
    · exact hblocks 2 512 .bs4 rfl (by decide) rfl ho h
    · exact ⟨_, does_of_ok hput ((if_neg (Nat.not_lt.mpr hi)).trans (if_pos (hopen.mp ho))), fun hwf y => memByte_memWrite_word _ 32 y _ hwf⟩
    · have heff : qgetEff q a o s = .ok (s.setO o (memBits x.arr (32 * ea.toNat) 32 256)) := (if_neg (Nat.not_lt.mpr hi)).trans (if_pos ((QSlot.held_iff x).mpr ho))
      exact ⟨_, ⟨_, hget.trans (congrArg (finish 4 s) heff), setO_only_retire s 4 o _⟩, fun j hj => byteOf_memBits _ _ hj (by decide)⟩
    · exact ⟨traps_of_trap hput (if_pos hi), traps_of_trap hget (if_pos hi)⟩
    · have hwrong (f : BitVec 2) : qldEff q a f s = s.slotTrap := if_neg (mt hopen.mpr ho)
      exact ⟨traps_of_slotTrap hraw (hwrong 0), traps_of_slotTrap (hqld 1) (hwrong 1), traps_of_slotTrap (hqld 2) (hwrong 2)⟩
    · exact traps_of_slotTrap hput ((if_neg (Nat.not_lt.mpr hi)).trans (if_neg (mt hopen.mpr ho)))
    · exact traps_of_slotTrap hget ((if_neg (Nat.not_lt.mpr hi)).trans (if_neg ((QSlot.not_held_iff x).mpr ho)))
  case fill =>
    intro s q p w sc he x i n l op lo state links takes
    have hopp : oppositePort p = op := oppositePort_eq p
    have hexec : exec i s = finish 4 s (qlnkEff q (BitVec.ofNat 2 p.val) w sc s) := exec_of_onCompute he rfl
    refine ⟨fun hp ho hl => ?_, fun hp hw => ?_, fun k hp => ?_⟩
    · rw [hexec, qlnkEff_begin hp, if_pos ((QSlot.writable_iff _).mpr ⟨ho, hl⟩)]
      rfl
    · exact traps_of_slotTrap hexec ((qlnkEff_begin hp).trans (if_neg ((QSlot.not_writable_iff _).mpr hw)))
    · have hlast : lastWord sc k = true ↔ k = n := by
        simp only [lastWord, beq_iff_eq, n]
        split <;> omega
      have hstep {e : Effect} (ht : fillTake q p w sc k s = e) : exec i s = finish 4 s (fillStep (lastWord sc k) e) := by rw [hexec, qlnkEff_of_part hp, ht]
      have htakes (v : Strip) (u : State) (hu : u.q q = x) (ht : fillTake q p w sc k s = .ok (u.qlnkWord q k v (lastWord sc k))) : takes k v u := by
        refine ⟨memWrite x.arr (32 * k) (leBytes 32 v.toNat), fun hwf y => memByte_memWrite_word _ 32 y v hwf, fun hk => ?_, fun hk => ?_⟩
        · rw [← hu]
          refine does_of_ok (hstep ht) ?_
          rw [hlast.mpr hk]
          rfl
        · rw [← hu, hstep ht, Bool.eq_false_iff.mpr (mt hlast.mp hk)]
          rfl
      have hpop (hw : w = 0) : fillTake q p w sc k s = linkPop p (fun t v => t.qlnkWord q k v (lastWord sc k)) s := if_neg (by rw [hw]; decide)
      have hfwd (hw : w = 1) : fillTake q p w sc k s = linkForward p (fun t v => t.qlnkWord q k v (lastWord sc k)) s := if_pos hw
      refine ⟨fun hw v rest h => ?_, fun hw h hlive => ?_, fun hw h hlive => ?_, fun hw hop => ?_, fun hw hop h hlive => ?_, fun hw hop h ho => ?_, fun hw hop ho v rest h => ?_⟩
      · exact htakes _ _ rfl ((hpop hw).trans (linkPop_of_cons h))
      · exact stalls_of_stall (hstep ((hpop hw).trans ((linkPop_of_nil h).trans (if_pos hlive)))) rfl
      · exact traps_of_trap (hstep ((hpop hw).trans ((linkPop_of_nil h).trans (if_neg (by simp [hlive]))))) rfl
      · exact traps_of_trap (hstep ((hfwd hw).trans (linkForward_of_dead hopp hop))) rfl
      · exact stalls_of_stall (hstep ((hfwd hw).trans ((linkForward_of_nil hopp hop h).trans (if_pos hlive)))) rfl
      · obtain ⟨v, rest, h⟩ := List.exists_cons_of_ne_nil h
        exact stalls_of_stall (hstep ((hfwd hw).trans ((linkForward_of_cons hopp hop h).trans (if_neg fun h => ho.not_gt ((Link.open_iff _).mp h))))) rfl
      · exact htakes _ _ rfl ((hfwd hw).trans ((linkForward_of_cons hopp hop h).trans ((if_pos ((Link.open_iff _).mpr ho)).trans (by rw [linkTake_linkPut hopp]; rfl))))

end Sys2Proof.Safety
end

section
/-! PROOFS. Issue of matrix commands (R123 to R127, R133, R135, R191): the checks, the queue and its locks, and the copies of a rope command. -/

namespace Sys2Proof.Safety

open Sys2Proof.Machine

/-! The checks of a command in their order (R133). -/

/-- A bank or half that a command's format does not have. -/
def BadShape (c : MxCmd) : Prop := ((c.bank = 2 ∨ c.hi = true) ∧ c.fmt.toNat ≠ 1) ∨ (c.hi = true ∧ c.bank = 2)

/-- The scale pointer that leaves too few scale bytes, A before B. -/
def scaleTrap (c : MxCmd) : Option Trap :=
  if 5 ≤ c.fmt.toNat ∧ 512 < (fld c.scla 0 9).toNat + opRecords c.fmt.toNat then some (.plain cCapability (zext (fld c.scla 0 9)))
  else if 5 ≤ c.fmt.toNat ∧ 512 < (fld c.sclb 0 9).toNat + opRecords c.fmt.toNat then some (.plain cCapability (zext (fld c.sclb 0 9)))
  else none

section Checks

variable {s : State} {c : MxCmd}

theorem mxCheck_of_not_granted (hg : ¬ s.here.regs.mcap.getLsbD c.fmt.toNat = true) : s.mxCheck c = some (.plain cCapability (zext c.fmt)) := if_pos (by simpa [bit] using hg)

variable (hg : s.here.regs.mcap.getLsbD c.fmt.toNat = true)

include hg

theorem mxCheck_of_badShape (hb : BadShape c) : s.mxCheck c = some (.plain cCapability (zext c.fmt)) := by
  simp only [State.mxCheck, bit, hg, Bool.not_true, Bool.false_eq_true, if_false]
  rcases hb with hb | hb
  · exact if_pos hb
  · exact ite_eq_left_iff.mpr fun _ => if_pos hb

variable (hb : ¬ BadShape c)

include hb

theorem mxCheck_of_shut {pre post : List (BitVec 3)} {q : BitVec 3} (hs : c.slots = pre ++ q :: post) (hpre : ∀ x ∈ pre, (s.q x).held = true) (hq : ¬ (s.q q).held = true) :
    s.mxCheck c = some (.plain cSlotState (zext q)) := by
  obtain ⟨h1, h2⟩ := not_or.mp hb
  have hfind : (c.slots.find? fun q => !(s.q q).held) = some q :=
    List.find?_eq_some_iff_append.mpr ⟨by simpa using hq, pre, post, hs, fun x hx => by simpa using hpre x hx⟩
  simp only [State.mxCheck, bit, hg, Bool.not_true, Bool.false_eq_true, if_false, if_neg h1, if_neg h2, hfind]

theorem mxCheck_of_held (hs : ∀ q ∈ c.slots, (s.q q).held = true) : s.mxCheck c = scaleTrap c := by
  obtain ⟨h1, h2⟩ := not_or.mp hb
  have hfind : (c.slots.find? fun q => !(s.q q).held) = none := List.find?_eq_none.mpr fun q hq => by simpa using hs q hq
  simp only [State.mxCheck, bit, hg, Bool.not_true, Bool.false_eq_true, if_false, if_neg h1, if_neg h2, hfind]
  rfl

end Checks

/-- Records of an operand in the block formats (R126). -/
theorem opRecords_block {f : Nat} (h5 : 5 ≤ f) (h6 : f ≤ 6) : opRecords f = if f = 5 then 256 else 512 := by
  obtain rfl | rfl : f = 5 ∨ f = 6 := by omega
  · rfl
  · rfl

/-! Locks and the queue (R123, R127). -/

/-- What locking leaves of a slot: one lock more for each mention. -/
theorem lock_q (m : Machine.Matrix) (qs : List (BitVec 3)) (x : Fin 8) :
    (m.lock qs).q[x] = { m.q[x] with locks := m.q[x].locks + qs.count (BitVec.ofNat 3 x.val) } := by
  induction qs generalizing m with
  | nil => rfl
  | cons q qs ih =>
    rw [Machine.Matrix.lock, List.foldl_cons]
    refine (ih _).trans ?_
    by_cases hx : q = BitVec.ofNat 3 x.val
    · subst hx
      simp [List.count_cons_self, Nat.add_assoc, Nat.add_comm 1]
    · have hv : q.toNat ≠ x.val := fun e => hx (by rw [← e, BitVec.ofNat_toNat, BitVec.setWidth_eq])
      rw [List.count_cons_of_ne hx]
      simp [hv]

/-- Locking changes the slots alone. -/
theorem lock_eq (m : Machine.Matrix) (qs : List (BitVec 3)) : m.lock qs = { m with q := (m.lock qs).q } := by
  induction qs generalizing m with
  | nil => rfl
  | cons q qs ih => exact ih _

/-- A command that locks its slots joins the end of the queue. -/
theorem mxEnqueue_of_locked (t : State) {c : MxCmd} (hl : c.locked = true) :
    t.mxEnqueue c = t.modMx fun m => { m with q := (t.here.mx.lock c.slots).q, queue := m.queue ++ [c], entered := m.entered + 1 } := by
  refine modMx_congr ?_
  simp only [hl, if_true]
  exact congrArg (fun m : Machine.Matrix => { m with queue := t.here.mx.queue ++ [c], entered := t.here.mx.entered + 1 }) (lock_eq t.here.mx c.slots)

/-! Sends of one instruction (R159). -/

/-- What sends add to the outbox: one item each, in order, numbered from `n`. -/
def sendItems (s : State) (l : Bool) (n : Nat) (ds : List Send) : List OutItem := (ds.zipIdx n).map fun p => { s.item p.1 l 1 .plain with ord := p.2 }

theorem length_sendItems (s : State) (l : Bool) (n : Nat) (ds : List Send) : (sendItems s l n ds).length = ds.length := by simp [sendItems]

theorem sendItems_getElem? (s : State) (l : Bool) (n : Nat) (ds : List Send) (j : Nat) :
    (sendItems s l n ds)[j]? = ds[j]?.map fun d => { s.item d l 1 .plain with ord := n + j } := by
  simp [sendItems, List.getElem?_zipIdx, Function.comp_def]

/-- What the outbox holds and how many sends were made show in a new item by its number alone. -/
theorem item_setAct (s : State) (o : List OutItem) (n : Nat) (d : Send) (l : Bool) (part : Nat) (who : Waiter) :
    (s.setAct { s.act with outbox := o, sends := n }).item d l part who = { s.item d l part who with ord := n } := by
  simp only [State.item, State.origin, State.act_setAct]
  rfl

/-- A deferred send for which the outbox has room. -/
theorem send_of_room {s : State} {d : Send} {l : Bool} (hm : s.act.modeI = false) (hn : s.act.outbox.length < 32) (hb : s.act.outBytes + d.size ≤ 4096) :
    s.send d l 1 .plain = .ok (s.setAct { s.act with outbox := s.act.outbox ++ [s.item d l 1 .plain], sends := s.act.sends + 1 }) := by
  have hfull : ¬ (s.act.outbox.length ≥ 32 ∨ s.act.outBytes + d.size > 4096) := by omega
  simp only [State.send, hm, Bool.false_eq_true, if_false, if_neg hfull]
  rfl

/-- Deferred sends of one size for which the outbox has room. -/
theorem sendAll_of_room {k : Nat} {l : Bool} {ds : List Send} (hk : ∀ d ∈ ds, d.size = k) {s : State} (hm : s.act.modeI = false) (hn : s.act.outbox.length + ds.length ≤ 32)
    (hb : s.act.outBytes + k * ds.length ≤ 4096) :
    s.sendAll l ds = .ok (s.setAct { s.act with outbox := s.act.outbox ++ sendItems s l s.act.sends ds, sends := s.act.sends + ds.length }) := by
  induction ds generalizing s with
  | nil =>
    show Effect.ok s = .ok (s.setAct { s.act with outbox := s.act.outbox ++ [], sends := s.act.sends })
    rw [List.append_nil]
    exact congrArg Effect.ok s.setAct_act.symm
  | cons d ds ih =>
    have hd : d.size = k := hk d List.mem_cons_self
    rw [List.length_cons] at hn hb
    rw [Nat.mul_succ] at hb
    have hsend := send_of_room (l := l) hm (show s.act.outbox.length < 32 by omega) (show s.act.outBytes + d.size ≤ 4096 by omega)
    rw [State.sendAll, hsend]
    refine (ih (fun x hx => hk x (List.mem_cons_of_mem d hx)) ?_ ?_ ?_).trans ?_
    · rw [State.act_setAct]
      exact hm
    · rw [State.act_setAct, List.length_append]
      simp only [List.length_cons, List.length_nil]
      omega
    · have hbytes : (s.act.outbox ++ [s.item d l 1 .plain]).map (fun i => i.send.size) = s.act.outbox.map (fun i => i.send.size) ++ [d.size] := List.map_append
      simp only [State.act_setAct, Act.outBytes, hbytes, List.sum_append, List.sum_singleton]
      unfold Act.outBytes at hb
      omega
    · simp only [State.act_setAct, State.setAct_setAct, sendItems, item_setAct, List.zipIdx_cons, List.map_cons, List.append_assoc, List.singleton_append, List.length_cons]
      rw [Nat.add_assoc, Nat.add_comm 1]
      rfl

/-! `mma` and `mxcmd` (R133, R135). -/

/-- The acting core is the enabled corner of a rope that stays on its die (R135). -/
def RopeCorner (s : State) : Prop :=
  s.here.mx.rope.getLsbD 0 = true ∧ s.here.mx.rope.extractLsb' 10 6 = 0 ∧ s.here.regs.mcap.getLsbD 8 = true ∧
    xOf s.at_ + ropeW s.here.mx.rope ≤ 47 ∧ yOf s.at_ + ropeH s.here.mx.rope ≤ 31

/-- A core stands at a rope's corner when its column and its row are both 0 (R124). -/
theorem ropePlace_eq_zero_iff (r : BitVec 22) : r.extractLsb' 10 6 = 0 ↔ r.extractLsb' 13 3 = 0 ∧ r.extractLsb' 10 3 = 0 := by
  simp only [← BitVec.toNat_inj, BitVec.extractLsb'_toNat, Nat.shiftRight_eq_div_pow, BitVec.ofNat_eq_ofNat, BitVec.toNat_ofNat]
  omega

/-- The rope's checks of `mxcmd` as the model makes them. -/
theorem not_ropeCorner_iff (s : State) : (!bit s.here.mx.rope 0 || fld s.here.mx.rope 10 6 != 0 || !bit s.here.regs.mcap 8 || decide (47 < xOf s.at_ + ropeW s.here.mx.rope) ||
    decide (31 < yOf s.at_ + ropeH s.here.mx.rope)) = true ↔ ¬ RopeCorner s := by
  simp only [RopeCorner, bit, fld, Bool.or_eq_true, Bool.not_eq_true', bne_iff_ne, decide_eq_true_eq, not_and_or, Bool.not_eq_true, not_le, or_assoc, ne_eq]

section Issue

variable {s : State} {qa qb : BitVec 3} {k : BitVec 2} {h : BitVec 1} {ch : BitVec 8}

/-- The copies of a rope command to the other members, row by row (R135, R191). -/
def ropeCopies (s : State) (qa qb : BitVec 3) (k : BitVec 2) (h : BitVec 1) (ch : BitVec 8) : List Send :=
  ((rectangle s.at_ (ropeW s.here.mx.rope + 1) (ropeH s.here.mx.rope + 1)).drop 1).map fun d =>
    .uni d kSystem 13 0 [ropeFlit (insnBits (.mxcmd qa qb k h ch)) s.here.mx.rope (s.mxSample qa qb k h ch)]

theorem length_ropeCopies : (ropeCopies s qa qb k h ch).length = (ropeW s.here.mx.rope + 1) * (ropeH s.here.mx.rope + 1) - 1 := by simp [ropeCopies, rectangle]

theorem size_of_mem_ropeCopies {d : Send} (hd : d ∈ ropeCopies s qa qb k h ch) : d.size = 48 := by
  obtain ⟨x, -, rfl⟩ := List.mem_map.mp hd
  rfl

theorem mmaEff_of_trap {t : Trap} (hc : s.mxCheck (s.mxSample qa qb k h ch) = some t) : mmaEff qa qb k h ch s = .trap t := by simp only [mmaEff, hc]

theorem mxcmdEff_of_trap {t : Trap} (hc : s.mxCheck (s.mxSample qa qb k h ch) = some t) : mxcmdEff qa qb k h ch s = .trap t := by simp only [mxcmdEff, hc]

/-- Both instructions make the checks of a command. -/
theorem traps_of_mxCheck {i : Instr} {t : Trap} (he : isEngine s.at_ = false) (hi : i = .mma qa qb k h ch ∨ i = .mxcmd qa qb k h ch)
    (hc : s.mxCheck (s.mxSample qa qb k h ch) = some t) : Traps i t s := by
  rcases hi with rfl | rfl
  · exact traps_of_trap (exec_of_onCompute he rfl) (mmaEff_of_trap hc)
  · exact traps_of_trap (exec_of_onCompute he rfl) (mxcmdEff_of_trap hc)

variable (hc : s.mxCheck (s.mxSample qa qb k h ch) = none)

include hc

theorem mmaEff_of_none : mmaEff qa qb k h ch s = if 4 ≤ s.here.mx.queue.length then .stall false else .ok (s.mxEnqueue (s.mxSample qa qb k h ch)) := by simp only [mmaEff, hc]

theorem mxcmdEff_of_not_corner (hr : ¬ RopeCorner s) : mxcmdEff qa qb k h ch s = .trap (.plain cCapability 0x100) := by
  simp only [mxcmdEff, hc]
  exact if_pos ((not_ropeCorner_iff s).mpr hr)

/-- What `mxcmd` does once its copies were tried: its own one enters the queue if that has room. -/
def ownCopy (s : State) (c : MxCmd) : Effect → Effect
  | .ok t => if 4 ≤ s.here.mx.queue.length then .stall false else .ok (t.mxEnqueue c)
  | e => e

theorem mxcmdEff_of_corner (hr : RopeCorner s) : mxcmdEff qa qb k h ch s = ownCopy s (s.mxSample qa qb k h ch) (s.sendAll false (ropeCopies s qa qb k h ch)) := by
  simp only [mxcmdEff, hc]
  exact if_neg (mt (not_ropeCorner_iff s).mp (not_not.mpr hr))

end Issue

/-- Settles O35: the checks in order; then the queue, and for a rope command its sends before that. -/
theorem matrixIssue : Obligations.MatrixIssue := by
  refine ⟨?checks, ?effects⟩
  case checks =>
    intro s qa qb k h ch he c f own slots shut records off granted shape r corner hf hk i hi
    have htrap {t : Trap} (hc : s.mxCheck (s.mxSample qa qb k h ch) = some t) : Traps i t s := traps_of_mxCheck he hi hc
    have hhi : (s.mxSample qa qb k h ch).hi = true ↔ h = 1 := beq_iff_eq
    have hshape : shape ↔ ¬ BadShape (s.mxSample qa qb k h ch) := by
      simp only [BadShape, hhi]
      rfl
    have hheld (q : BitVec 3) : ¬ shut q ↔ (s.q q).held = true := not_iff_comm.mp (QSlot.not_held_iff _)
    refine ⟨fun hg => ?_, fun hg hs => ?_, fun hg hs q pre post hq hpre hshut => ?_, fun hg hs hopen => ?_⟩
    · exact htrap (mxCheck_of_not_granted hg)
    · exact htrap (mxCheck_of_badShape hg (not_not.mp (mt hshape.mpr hs)))
    · exact htrap (mxCheck_of_shut hg (hshape.mp hs) hq (fun x hx => (hheld x).mp (hpre x hx)) fun hh => (hheld q).mpr hh hshut)
    · have hcheck : s.mxCheck (s.mxSample qa qb k h ch) = scaleTrap (s.mxSample qa qb k h ch) :=
        mxCheck_of_held hg (hshape.mp hs) fun q hq => (hheld q).mp (hopen q hq)
      have hrec (h5 : 5 ≤ f) : opRecords f = records := opRecords_block h5 hf
      refine ⟨fun h5 ha => ?_, fun h5 ha hb => ?_, fun hab hmx hr => ?_⟩
      · rw [← hrec h5] at ha
        exact BitVec.ofNat_toNat 64 (fld c.scla 0 9) ▸ htrap (hcheck.trans (if_pos ⟨h5, ha⟩))
      · rw [← hrec h5] at ha hb
        exact BitVec.ofNat_toNat 64 (fld c.sclb 0 9) ▸ htrap (hcheck.trans ((if_neg fun h => ha.not_gt h.2).trans (if_pos ⟨h5, hb⟩)))
      · have hfit {x : Nat} (h5 : 5 ≤ f) (hx : x + records ≤ 512) : ¬ 512 < x + opRecords f := by rw [hrec h5]; exact hx.not_gt
        have hnone : scaleTrap (s.mxSample qa qb k h ch) = none :=
          (if_neg fun ⟨h5, hx⟩ => hab.elim h5.not_gt fun ⟨ha, _⟩ => hfit h5 ha hx).trans (if_neg fun ⟨h5, hx⟩ => hab.elim h5.not_gt fun ⟨_, hb⟩ => hfit h5 hb hx)
        subst hmx
        refine traps_of_trap (exec_of_onCompute he rfl) (mxcmdEff_of_not_corner (hcheck.trans hnone) (mt ?_ hr))
        rintro ⟨hen, hplace, hcap, hx, hy⟩
        obtain ⟨hcol, hrow⟩ := (ropePlace_eq_zero_iff _).mp hplace
        exact ⟨hen, hcol, hrow, hcap, hx, hy⟩
  case effects =>
    intro s qa qb k h ch he c cmd own slots enters full r w n mx flit dests corner hc
    have hcmd : s.mxSample qa qb k h ch = cmd := by
      have hbad : s.tabsBad c.fmt = (decide (c.fmt = 4 ∨ c.fmt = 5) && (s.here.mx.tabBad[0] || s.here.mx.tabBad[1])) := by
        rw [Bool.decide_or]
        rfl
      exact congrArg (fun b => { s.mxSample qa qb k h ch with badTab := b }) hbad
    have hslots : (s.mxSample qa qb k h ch).slots = slots := rfl
    rw [← hcmd] at hc
    have henters (i : Instr) (t : State) (hi : Does i 4 s (t.mxEnqueue (s.mxSample qa qb k h ch))) : enters i t := by
      rw [mxEnqueue_of_locked t rfl, hcmd] at hi
      refine ⟨_, hi, fun x hx => ?_, fun x hx => ?_⟩
      · rw [lock_q, ← hcmd, hslots, List.count_eq_zero.mpr hx]
        rfl
      · rw [lock_q, ← hcmd, hslots]
        exact ⟨Nat.lt_add_of_pos_right (List.count_pos_iff.mpr hx), rfl⟩
    have hmma : exec (.mma qa qb k h ch) s = finish 4 s (mmaEff qa qb k h ch s) := exec_of_onCompute he rfl
    have hmx (hr : corner) {e : Effect} (hsend : s.sendAll false dests = e) : exec mx s = finish 4 s (ownCopy s (s.mxSample qa qb k h ch) e) :=
      (exec_of_onCompute he rfl).trans (congrArg (finish 4 s) ((mxcmdEff_of_corner hc hr).trans (congrArg (ownCopy s _) hsend)))
    refine ⟨fun hf => ?_, fun hf => ?_, fun hr => ⟨fun t ht => ⟨fun hf => ?_, fun hf => ?_⟩, fun x hx => ?_, fun x hx => ?_, fun hm hn hb => ?_⟩⟩
    · exact stalls_of_stall hmma ((mmaEff_of_none hc).trans (if_pos hf))
    · exact henters _ _ (does_of_ok hmma ((mmaEff_of_none hc).trans (if_neg hf)))
    · exact stalls_of_stall (hmx hr ht) (if_pos hf)
    · exact henters _ _ (does_of_ok (hmx hr ht) (if_neg hf))
    · exact traps_of_trap (hmx hr hx) rfl
    · exact stalls_of_stall (hmx hr hx) rfl
    · have hlen : dests.length = n := length_ropeCopies (k := k) (h := h) (ch := ch)
      have hsend := sendAll_of_room (l := false) (ds := dests) (fun d hd => size_of_mem_ropeCopies hd) hm (by rwa [hlen]) (by rwa [hlen])
      rw [hlen] at hsend
      refine ⟨_, hsend, _, rfl, (length_sendItems ..).trans hlen, fun j hj => ?_⟩
      have hj' : j < dests.length := by rwa [hlen]
      exact ⟨dests[j], List.getElem?_eq_getElem hj', by rw [sendItems_getElem?, List.getElem?_eq_getElem hj']; rfl⟩

end Sys2Proof.Safety
end

section
/-! PROOFS. Digit transducers: topo records (R138 to R140) and the load of one (R146). -/

namespace Sys2Proof.Safety

open Sys2Proof.Machine

/-! Numbers in memory (R2). -/

/-- The number of `n` bytes in memory is that of their values. -/
theorem memNat_eq_of_byteOf {m : Memory} {a n w : Nat} {x : BitVec w} (hw : w = 8 * n) (h : ∀ j, j < n → memByte m (a + j) = byteOf x j) : memNat m a n = x.toNat := by
  have hbytes : memRead m a n = leBytes n x.toNat :=
    List.ext_getElem (by rw [memRead_length, leBytes_length]) fun j h1 h2 => by
      have hj : j < n := by rwa [memRead_length] at h1
      rw [← List.getD_eq_getElem _ 0, ← List.getD_eq_getElem _ 0, memRead_getD _ _ _ _ hj, leBytes_toNat_getD _ hj, h j hj]
  have hlt : x.toNat < 256 ^ n := x.isLt.trans_eq (by rw [hw, Nat.pow_mul])
  rw [memNat, hbytes, leNat_leBytes_eq_mod, Nat.mod_eq_of_lt hlt]

theorem memNat_two (m : Memory) (a : Nat) : memNat m a 2 = (memByte m a).toNat + 256 * (memByte m (a + 1)).toNat := rfl

theorem memNat_four (m : Memory) (a : Nat) :
    memNat m a 4 = (memByte m a).toNat + 256 * ((memByte m (a + 1)).toNat + 256 * ((memByte m (a + 2)).toNat + 256 * (memByte m (a + 3)).toNat)) := rfl

/-- The bytes of a record read from its first address. -/
theorem memByte_record (bs : List Byte) (y : Nat) : memByte (memWrite [] 0 bs) y = if y < bs.length then bs.getD y 0 else 0 := by
  rw [memByte_memWrite 0 y bs rfl, Nat.zero_add, Nat.sub_zero]
  simp only [Nat.zero_le, true_and]
  rfl

/-! A topo's header (R138). -/

section Header

variable {t : Memory} {hd : BitVec 128} (h : topoHead t = hd.toNat)

include h

theorem topoField_of_head (lo n : Nat) : topoHead t / 2 ^ lo % 2 ^ n = (hd.extractLsb' lo n).toNat := by
  rw [h, BitVec.extractLsb'_toNat, Nat.shiftRight_eq_div_pow]

theorem topoNst1_of_head : topoNst1 t = (hd.extractLsb' 0 6).toNat := by
  rw [← topoField_of_head h 0 6, Nat.pow_zero, Nat.div_one]
  rfl

theorem topoStart_of_head : topoStart t = (hd.extractLsb' 6 6).toNat := topoField_of_head h 6 6

theorem topoIw_of_head : topoIw t = 2 ^ (hd.extractLsb' 12 2).toNat := congrArg (2 ^ ·) (topoField_of_head h 12 2)

theorem topoOw_of_head : topoOw t = 2 ^ (hd.extractLsb' 14 2).toNat := congrArg (2 ^ ·) (topoField_of_head h 14 2)

theorem topoTr2_of_head : topoTr2 t = hd.getLsbD 16 := by
  rw [topoTr2, h, BitVec.getLsbD, Nat.testBit_eq_decide_div_mod_eq]
  rfl

theorem topoSb_of_head : topoSb t = if hd.getLsbD 16 then 2 * 2 ^ (hd.extractLsb' 12 2).toNat else 2 ^ (hd.extractLsb' 12 2).toNat := by
  rw [topoSb, topoTr2_of_head h, topoIw_of_head h, ite_mul, Nat.one_mul]

theorem topoNt_of_head : topoNt t = ((hd.extractLsb' 0 6).toNat + 1) * 2 ^ (if hd.getLsbD 16 then 2 * 2 ^ (hd.extractLsb' 12 2).toNat else 2 ^ (hd.extractLsb' 12 2).toNat) := by
  rw [topoNt, topoNst1_of_head h, topoSb_of_head h]

theorem topoHead_lt_iff : topoHead t < 2 ^ 18 ↔ hd.extractLsb' 18 110 = 0 := by
  have hlt : hd.toNat < 2 ^ 18 * 2 ^ 110 := hd.isLt
  have hhigh : (hd.extractLsb' 18 110).toNat = topoHead t / 2 ^ 18 := by
    rw [← topoField_of_head h, h, Nat.mod_eq_of_lt (Nat.div_lt_of_lt_mul hlt)]
  have hzero : hd.extractLsb' 18 110 = 0 ↔ (hd.extractLsb' 18 110).toNat = 0 := BitVec.toNat_inj.symm
  rw [hzero, hhigh]
  exact (Nat.div_eq_zero_iff_lt (by decide)).symm

end Header

/-- The header's checks (R140). -/
theorem topoHeadOk_iff {t : Memory} {hd : BitVec 128} (h : topoHead t = hd.toNat) :
    topoHeadOk t = true ↔ hd.extractLsb' 18 110 = 0 ∧ topoSb t ≤ 8 ∧ topoNt t ≤ 1024 ∧ topoStart t < topoNst1 t + 1 := by
  simp only [topoHeadOk, Bool.and_eq_true, decide_eq_true_eq, and_assoc, Nat.lt_succ_iff, topoHead_lt_iff h]

/-! A topo's entries (R139). -/

/-- What R139 asks of a transition entry. -/
theorem transOk_iff (t : Memory) (e : Nat) : transOk t e = true ↔
    if e < 0x8000 then e = 0 else e % 256 < 2 ^ topoOw t ∧ (e / 0x4000 % 2 = 0 → e % 256 = 0) ∧ e / 256 % 64 < topoNst1 t + 1 := by
  have hundef : e / 2 ^ 15 = 0 ↔ e < 0x8000 := Nat.div_eq_zero_iff_lt (by decide)
  have hemit : e / 2 ^ 14 % 2 = 1 ∨ e % 256 = 0 ↔ (e / 0x4000 % 2 = 0 → e % 256 = 0) := by omega
  rw [transOk, if_congr hundef rfl rfl]
  split
  · exact beq_iff_eq
  · simp only [Bool.and_eq_true, Bool.or_eq_true, beq_iff_eq, decide_eq_true_eq, hemit, and_assoc, Nat.lt_succ_iff]
    rfl

/-- What R139 asks of a state's end entry, by its four bytes. -/
theorem endOk_iff (t : Memory) (k : Nat) {d0 d1 d2 top : Nat} (h0 : d0 < 256) (h1 : d1 < 256) (h2 : d2 < 256) (h3 : top < 256) :
    endOk t k (d0 + 256 * (d1 + 256 * (d2 + 256 * top))) = true ↔
    if top < 128 then d0 = 0 ∧ d1 = 0 ∧ d2 = 0 ∧ top = 0
    else k < topoNst1 t + 1 ∧ top / 32 % 4 ≠ 3 ∧ top % 32 = 0 ∧ d0 < 2 ^ topoOw t ∧ d1 < 2 ^ topoOw t ∧ (top / 32 % 4 = 0 → d0 = 0) ∧ (top / 32 % 4 ≠ 2 → d1 = 0) := by
  generalize he : d0 + 256 * (d1 + 256 * (d2 + 256 * top)) = e
  have hundef : e / 2 ^ 31 = 0 ↔ top < 128 := by omega
  have hcnt : e / 2 ^ 29 % 4 = top / 32 % 4 := by omega
  have hzero : e / 2 ^ 24 % 32 = top % 32 := by omega
  have hd0 : e % 256 = d0 := by omega
  have hd1 : e / 256 % 256 = d1 := by omega
  rw [endOk, if_congr hundef rfl rfl]
  split
  · rw [beq_iff_eq]
    omega
  · simp only [hcnt, hzero, hd0, hd1, Bool.and_eq_true, Bool.or_eq_true, beq_iff_eq, bne_iff_ne, decide_eq_true_eq, and_assoc]
    refine and_congr Nat.lt_succ_iff.symm (and_congr ?_ (and_congr_right fun _ => and_congr_right fun _ => and_congr_right fun _ => and_congr ?_ ?_))
    · omega
    · exact imp_iff_not_or.symm
    · exact or_iff_not_imp_left

/-- The entries' checks (R140). -/
theorem topoBodyOk_iff (t : Memory) : topoBodyOk t = true ↔ (∀ k, k < topoNt t → transOk t (topoTrans t k) = true) ∧ ∀ k, k < 64 → endOk t k (topoEnd t k) = true := by
  simp only [topoBodyOk, Bool.and_eq_true, List.all_eq_true, List.mem_range]
  exact and_comm

theorem topoTrans_eq (t : Memory) (k : Nat) : topoTrans t k = (memByte t (0x110 + 2 * k)).toNat + 256 * (memByte t (0x111 + 2 * k)).toNat := by
  rw [topoTrans, memNat_two, Nat.add_right_comm]

theorem topoEnd_eq (t : Memory) (k : Nat) : topoEnd t k = (memByte t (0x10 + 4 * k)).toNat +
    256 * ((memByte t (0x11 + 4 * k)).toNat + 256 * ((memByte t (0x12 + 4 * k)).toNat + 256 * (memByte t (0x13 + 4 * k)).toNat)) := by
  rw [topoEnd, memNat_four, Nat.add_right_comm 0x10 (4 * k) 1, Nat.add_right_comm 0x10 (4 * k) 2, Nat.add_right_comm 0x10 (4 * k) 3]

/-- The entries' checks (R140), by the bytes of the record. -/
theorem topoBodyOk_iff_bytes {t : Memory} {b : Nat → Nat} (hb : ∀ y, y < topoLen t → (memByte t y).toNat = b y) : topoBodyOk t = true ↔
    (∀ k, k < topoNt t →
      let e := b (0x110 + 2 * k) + 256 * b (0x111 + 2 * k)
      if e < 0x8000 then e = 0 else e % 256 < 2 ^ topoOw t ∧ (e / 0x4000 % 2 = 0 → e % 256 = 0) ∧ e / 256 % 64 < topoNst1 t + 1) ∧
    ∀ k, k < 64 →
      let d0 := b (0x10 + 4 * k)
      let d1 := b (0x11 + 4 * k)
      let top := b (0x13 + 4 * k)
      if top < 128 then d0 = 0 ∧ d1 = 0 ∧ b (0x12 + 4 * k) = 0 ∧ top = 0
      else k < topoNst1 t + 1 ∧ top / 32 % 4 ≠ 3 ∧ top % 32 = 0 ∧ d0 < 2 ^ topoOw t ∧ d1 < 2 ^ topoOw t ∧ (top / 32 % 4 = 0 → d0 = 0) ∧ (top / 32 % 4 ≠ 2 → d1 = 0) := by
  have hlen : 0x110 + 2 * topoNt t ≤ topoLen t := by unfold topoLen; omega
  rw [topoBodyOk_iff]
  refine and_congr (forall₂_congr fun k hk => ?_) (forall₂_congr fun k hk => ?_)
  · rw [transOk_iff, topoTrans_eq, hb (0x110 + 2 * k) (by omega), hb (0x111 + 2 * k) (by omega)]
  · rw [topoEnd_eq, endOk_iff t k (BitVec.isLt _) (BitVec.isLt _) (BitVec.isLt _) (BitVec.isLt _), hb (0x10 + 4 * k) (by omega), hb (0x11 + 4 * k) (by omega), hb (0x12 + 4 * k) (by omega), hb (0x13 + 4 * k) (by omega)]

/-! `dxld` (R140, R146). -/

section Load

variable {s : State} {x : BitVec 1} {a : BitVec 5} {o : BitVec 10} {hd : BitVec 128}

/-- The trap of a record that breaks R140. -/
def dxldTrap (s : State) (a : BitVec 5) (o : BitVec 10) : Trap := .atBase a cDecode (s.ea a (off16 o)) (s.ea a (off16 o))

/-- A memory that holds exactly the `n` bytes that a load by base field reads from `ea`. -/
def HoldsLoaded (s : State) (a : BitVec 5) (ea n : Nat) (r : Memory) : Prop := ∀ y, memByte r y = if y < n then loadByte s a (ea + y) else 0

/-- A load that passes its checks, as the record that it reads. -/
theorem record_of_loadOk {ea : Word} {n : Nat} (hn : n ≠ 0) (h : LoadOk s a ea.toNat n 16) :
    ∃ bs, s.load a ea n 16 = .ok (bs, loaded s a ea.toNat n) ∧ HoldsLoaded s a ea.toNat n (memWrite [] 0 bs) := by
  obtain ⟨bs, hbs, hlen, hget⟩ := load_of_loadOk hn h
  refine ⟨bs, hbs, fun y => ?_⟩
  rw [memByte_record, hlen]
  exact ite_congr rfl (hget y) fun _ => rfl

theorem topoHead_of_holdsLoaded {ea n : Nat} {r : Memory} (hn : 16 ≤ n) (h : HoldsLoaded s a ea n r) (hbytes : ∀ j, j < 16 → byteOf hd j = loadByte s a (ea + j)) :
    topoHead r = hd.toNat :=
  memNat_eq_of_byteOf rfl fun j hj => by rw [Nat.zero_add, h j, if_pos (by omega), hbytes j hj]

/-- `dxld` by its header, then by its entries: each of the two records as its load reads it. -/
theorem dxldEff_of_loadOk (h : LoadOk s a (s.ea a (off16 o)).toNat 16 16) (hbytes : ∀ j, j < 16 → byteOf hd j = loadByte s a ((s.ea a (off16 o)).toNat + j)) :
    ∃ t, topoHead t = hd.toNat ∧ (topoHeadOk t = false → dxldEff x a o s = .trap (dxldTrap s a o)) ∧
      (topoHeadOk t = true → LoadOk s a (s.ea a (off16 o)).toNat (topoLen t) 16 → ∃ r, HoldsLoaded s a (s.ea a (off16 o)).toNat (topoLen t) r ∧ topoHead r = hd.toNat ∧
        (topoBodyOk r = false → dxldEff x a o s = .trap (dxldTrap s a o)) ∧
        (topoBodyOk r = true → dxldEff x a o s = .ok ((loaded s a (s.ea a (off16 o)).toNat (topoLen t)).modMx fun m =>
          { m with dx := m.dx.set x.toNat r, dxBad := m.dxBad.set x.toNat false }))) := by
  obtain ⟨bh, hload, hholds⟩ := record_of_loadOk (by decide) h
  refine ⟨memWrite [] 0 bh, topoHead_of_holdsLoaded le_rfl hholds hbytes, fun hbad => ?_, fun hok hrec => ?_⟩
  · simp only [dxldEff, hload, hbad, Bool.not_false, if_true]
    rfl
  · have hlen : 16 ≤ topoLen (memWrite [] 0 bh) := by unfold topoLen; omega
    obtain ⟨bs, hload', hholds'⟩ := record_of_loadOk (by omega) hrec
    refine ⟨memWrite [] 0 bs, hholds', topoHead_of_holdsLoaded hlen hholds' hbytes, fun hbad => ?_, fun hbody => ?_⟩
    · simp only [dxldEff, hload, hok, hload', hbad, Bool.not_true, Bool.false_eq_true, if_false]
      rfl
    · simp only [dxldEff, hload, hok, hload', hbody, Bool.not_true, Bool.false_eq_true, if_false, if_true]

end Load

end Sys2Proof.Safety
end

section
/-! PROOFS. The issue checks of a run, lane by lane (R137, R142, R143). -/

namespace Sys2Proof.Safety

open Sys2Proof.Machine

/-! The first place that a test finds. -/

/-- The lowest number for which a search answers. -/
theorem findSome?_range {α : Type} {f : Nat → Option α} {n l : Nat} {e : α} (hl : l < n) (he : f l = some e) (hbefore : ∀ k, k < l → f k = none) :
    (List.range n).findSome? f = some e := by
  obtain ⟨m, rfl⟩ := Nat.exists_eq_add_of_lt hl
  have hnone : (List.range l).findSome? f = none := List.findSome?_eq_none_iff.mpr fun k hk => hbefore k (List.mem_range.mp hk)
  rw [Nat.add_assoc, List.range_add, List.findSome?_append, hnone, Option.none_or, List.range_succ_eq_map, List.map_cons, List.findSome?_cons_of_isSome]
  · exact he
  · rw [Nat.add_zero, he]
    rfl

/-- A search in which every answer has a property, and some place has an answer. -/
theorem findSome?_of_some {α β : Type} {f : α → Option β} {P : β → Prop} (hP : ∀ x e, f x = some e → P e) {l : List α} {x : α} (hx : x ∈ l) (hne : f x ≠ none) :
    ∃ e, l.findSome? f = some e ∧ P e := by
  have hsome : l.findSome? f ≠ none := fun h => hne (List.findSome?_eq_none_iff.mp h x hx)
  obtain ⟨e, he⟩ := Option.ne_none_iff_exists'.mp hsome
  obtain ⟨y, -, hy⟩ := List.exists_of_findSome?_eq_some he
  exact ⟨e, he, hP y e hy⟩

/-! One range of a lane (R143, R32). -/

/-- Every granule of a range passes its check. -/
def RangeGranulesOk (s : State) (r : Nat × Nat) : Prop := r.2 ≠ 0 → ∀ g, r.1 / 16 ≤ g → g ≤ (r.1 + r.2 - 1) / 16 → GranuleOk s false r.1 r.2 g

theorem rangeEnd_eq_none_iff (s : State) (r : Nat × Nat) : s.rangeEnd r = none ↔ r.1 + r.2 ≤ nearEnd s.at_ := by
  unfold State.rangeEnd
  split
  · next h => exact ⟨fun hnone => absurd hnone (Option.some_ne_none _), fun hle => absurd h hle.not_gt⟩
  · next h => exact ⟨fun _ => Nat.not_lt.mp h, fun _ => rfl⟩

/-- A range that would pass the end traps at the first byte beyond it. -/
theorem eq_of_rangeEnd {s : State} {r : Nat × Nat} {e : Trap} (h : s.rangeEnd r = some e) : ∃ fa, e = .atNear 0x0C (BitVec.ofNat 64 (nearEnd s.at_)) fa := by
  unfold State.rangeEnd at h
  split at h
  · exact ⟨_, (Option.some.inj h).symm⟩
  · cases h

theorem rangeGranules_of_ok {s : State} {r : Nat × Nat} (h : RangeGranulesOk s r) : s.rangeGranules r = none := by
  have hcheck : s.here.mem.check s.at_ s.key false r.1 r.2 = none := firstBad_eq_none fun g hg => by
    obtain ⟨hn, hlo, hhi⟩ := (mem_granules _ _ _).mp hg
    exact h hn g hlo hhi
  rw [State.rangeGranules, hcheck]
  rfl

/-- Where some granule of an access fails, a lowest one does. -/
theorem exists_lowest_bad {s : State} {a n g : Nat} (hlo : a / 16 ≤ g) (hhi : g ≤ (a + n - 1) / 16) (hbad : ¬ GranuleOk s false a n g) :
    ∃ k, a / 16 ≤ k ∧ k ≤ (a + n - 1) / 16 ∧ (∀ h, a / 16 ≤ h → h < k → GranuleOk s false a n h) ∧ ¬ GranuleOk s false a n k := by
  classical
  have hex : ∃ k, a / 16 ≤ k ∧ ¬ GranuleOk s false a n k := ⟨g, hlo, hbad⟩
  obtain ⟨hk, hkbad⟩ := Nat.find_spec hex
  exact ⟨Nat.find hex, hk, (Nat.find_min' hex ⟨hlo, hbad⟩).trans hhi, fun h hh hlt => not_not.mp fun hno => Nat.find_min hex hlt ⟨hh, hno⟩, hkbad⟩

theorem rangeGranules_of_not_ok {s : State} {r : Nat × Nat} (h : ¬ RangeGranulesOk s r) : s.rangeGranules r ≠ none := by
  simp only [RangeGranulesOk, not_forall] at h
  obtain ⟨hn, g, hlo, hhi, hbad⟩ := h
  obtain ⟨k, hklo, hkhi, hbefore, hkbad⟩ := exists_lowest_bad hlo hhi hbad
  rw [State.rangeGranules, check_eq_some hn hklo hkhi hbefore hkbad]
  exact Option.some_ne_none _

/-- A granule that fails raises ECCU or KEYTAG. -/
theorem eq_of_rangeGranules {s : State} {r : Nat × Nat} {e : Trap} (h : s.rangeGranules r = some e) : ∃ c v fa, (c = 0x13 ∨ c = 0x04) ∧ e = .atNear c v fa := by
  have hcause : ∀ gs c, s.here.mem.firstBad s.at_ s.key false r.1 r.2 gs = some c → c.1 = 0x13 ∨ c.1 = 0x04 := fun gs => by
    induction gs with
    | nil => exact fun c hc => nomatch hc
    | cons g gs ih =>
      intro c hc
      by_cases hg : GranuleOk s false r.1 r.2 g
      · exact ih c (firstBad_cons_of_ok gs hg ▸ hc)
      · rw [firstBad_cons_of_not_ok gs hg] at hc
        rw [← Option.some.inj hc]
        exact (ite_eq_or_eq ..)
  obtain ⟨c, hc, rfl⟩ := Option.map_eq_some_iff.mp h
  exact ⟨_, _, _, hcause _ c hc, rfl⟩

/-! One lane. -/

/-- The ranges of a lane that its issue check covers (R143). -/
def laneRanges (tb : Nat) (d t : Memory) (l : Nat) : List (Nat × Nat) := descInputs tb d t l ++ [descOutput tb d t l]

/-- The trap that one lane's issue checks raise, if any: its zero fields, the ends of its ranges, then their granules. -/
def laneTrap (s : State) (tb : Nat) (d t : Memory) (l : Nat) : Option Trap :=
  if !descEn d l then none
  else if !descOk d l then some (.atNear cDecode (BitVec.ofNat 64 (tb + 16 * l)) (BitVec.ofNat 64 (tb + 16 * l)))
  else ((laneRanges tb d t l).findSome? s.rangeEnd).or ((laneRanges tb d t l).findSome? s.rangeGranules)

/-- The issue checks find the first lane that traps. -/
theorem laneChecks_eq_findSome? (s : State) (tb : Nat) (d t : Memory) (ls : List Nat) : s.laneChecks tb d t ls = ls.findSome? (laneTrap s tb d t) := by
  induction ls with
  | nil => rfl
  | cons l ls ih =>
    rw [State.laneChecks, List.findSome?_cons, laneTrap, ih]
    by_cases hen : (!descEn d l) = true
    · rw [if_pos hen, if_pos hen]
    · rw [if_neg hen, if_neg hen]
      by_cases hok : (!descOk d l) = true
      · rw [if_pos hok, if_pos hok]
      · rw [if_neg hok, if_neg hok]
        dsimp only
        rw [← laneRanges]
        cases ((laneRanges tb d t l).findSome? s.rangeEnd).or ((laneRanges tb d t l).findSome? s.rangeGranules) <;> rfl

section Lane

variable {s : State} {tb : Nat} {d t : Memory} {l : Nat}

/-- A lane's ranges end inside local memory. -/
def LaneInside (s : State) (tb : Nat) (d t : Memory) (l : Nat) : Prop := ∀ r ∈ laneRanges tb d t l, r.1 + r.2 ≤ nearEnd s.at_

/-- The granules of a lane's ranges pass their checks. -/
def LaneGranulesOk (s : State) (tb : Nat) (d t : Memory) (l : Nat) : Prop := ∀ r ∈ laneRanges tb d t l, RangeGranulesOk s r

theorem laneTrap_of_enabled (he : descEn d l = true) (hf : descOk d l = true) : laneTrap s tb d t l =
    ((laneRanges tb d t l).findSome? s.rangeEnd).or ((laneRanges tb d t l).findSome? s.rangeGranules) := by
  rw [laneTrap, if_neg (by simp [he]), if_neg (by simp [hf])]

theorem findSome?_rangeEnd (hi : LaneInside s tb d t l) : (laneRanges tb d t l).findSome? s.rangeEnd = none :=
  List.findSome?_eq_none_iff.mpr fun r hr => (rangeEnd_eq_none_iff s r).mpr (hi r hr)

/-- A lane that is disabled, or whose fields and ranges pass, does not trap. -/
theorem laneTrap_eq_none (h : descEn d l = true → descOk d l = true ∧ LaneInside s tb d t l ∧ LaneGranulesOk s tb d t l) : laneTrap s tb d t l = none := by
  by_cases he : descEn d l = true
  · obtain ⟨hf, hi, hg⟩ := h he
    rw [laneTrap_of_enabled he hf, findSome?_rangeEnd hi, Option.none_or]
    exact List.findSome?_eq_none_iff.mpr fun r hr => rangeGranules_of_ok (hg r hr)
  · rw [laneTrap, if_pos (by simpa using he)]

theorem laneTrap_of_not_fields (he : descEn d l = true) (hf : ¬ descOk d l = true) :
    ∃ fa, laneTrap s tb d t l = some (.atNear 0x1B (BitVec.ofNat 64 (tb + 16 * l)) fa) := by
  rw [laneTrap, if_neg (by simp [he]), if_pos (by simpa using hf)]
  exact ⟨_, rfl⟩

theorem laneTrap_of_not_inside (he : descEn d l = true) (hf : descOk d l = true) (hi : ¬ LaneInside s tb d t l) :
    ∃ fa, laneTrap s tb d t l = some (.atNear 0x0C (BitVec.ofNat 64 (nearEnd s.at_)) fa) := by
  simp only [LaneInside, not_forall] at hi
  obtain ⟨r, hr, hout⟩ := hi
  obtain ⟨e, hfind, fa, rfl⟩ := findSome?_of_some (f := s.rangeEnd) (fun _ _ => eq_of_rangeEnd) hr (mt (rangeEnd_eq_none_iff s r).mp hout)
  exact ⟨fa, by rw [laneTrap_of_enabled he hf, hfind, Option.some_or]⟩

theorem laneTrap_of_not_granules (he : descEn d l = true) (hf : descOk d l = true) (hi : LaneInside s tb d t l) (hg : ¬ LaneGranulesOk s tb d t l) :
    ∃ c v fa, (c = 0x13 ∨ c = 0x04) ∧ laneTrap s tb d t l = some (.atNear c v fa) := by
  simp only [LaneGranulesOk, not_forall] at hg
  obtain ⟨r, hr, hbad⟩ := hg
  obtain ⟨e, hfind, c, v, fa, hc, rfl⟩ := findSome?_of_some (f := s.rangeGranules) (fun _ _ => eq_of_rangeGranules) hr (rangeGranules_of_not_ok hbad)
  exact ⟨c, v, fa, hc, by rw [laneTrap_of_enabled he hf, findSome?_rangeEnd hi, Option.none_or, hfind]⟩

end Lane

/-! The issue of a run. -/

section Run

variable {s : State} {x f : BitVec 1} {d a : BitVec 5}

/-- The table of lane descriptors that a run reads at its issue. -/
def runTable (s : State) (a : BitVec 5) : Memory := memWrite [] 0 (s.nearBytes (s.g a).toNat 128)

theorem memByte_runTable (s : State) (a : BitVec 5) (j : Nat) : memByte (runTable s a) j = if j < 128 then s.here.mem.byte s.at_ s.key ((s.g a).toNat + j) else 0 := by
  rw [runTable, memByte_record, length_nearBytes]
  exact ite_congr rfl (fun hj => nearBytes_getD s _ hj) fun _ => rfl

theorem dxrunEff_of_taken (h : s.here.mx.dxUnit ≠ none) : dxrunEff x d a f s = .stall false := by
  obtain ⟨r, hr⟩ := Option.ne_none_iff_exists'.mp h
  rw [dxrunEff, hr]

theorem dxrunEff_of_nearFails {t : Trap} (h : s.here.mx.dxUnit = none) (hf : NearFails s false (s.g a) 128 16 t) : dxrunEff x d a f s = .trap t := by
  simp only [dxrunEff, h, nearCheck_of_nearFails (by decide) hf]

theorem dxrunEff_of_bad (h : s.here.mx.dxUnit = none) (hn : NearOk s false (s.g a).toNat 128 16) (hb : s.here.mx.dxBad[x.toNat] = true) :
    dxrunEff x d a f s = .trap (.plain cEccu (Config.info cEccu 0 s.time)) := by
  simp only [dxrunEff, h, nearCheck_of_nearOk (by decide) hn, hb, if_true]

section Sound

variable (hu : s.here.mx.dxUnit = none) (hn : NearOk s false (s.g a).toNat 128 16) (hb : s.here.mx.dxBad[x.toNat] = false)

include hu hn hb

/-- A run on an idle unit with a sound topo and a readable table takes the trap of the first lane that has one. -/
theorem dxrunEff_of_laneTrap {l : Nat} {e : Trap} (hl : l < 8) (he : laneTrap s (s.g a).toNat (runTable s a) s.here.mx.dx[x.toNat] l = some e)
    (hbefore : ∀ k, k < l → laneTrap s (s.g a).toNat (runTable s a) s.here.mx.dx[x.toNat] k = none) : dxrunEff x d a f s = .trap e := by
  have hfind := findSome?_range hl he hbefore
  rw [← laneChecks_eq_findSome?, runTable] at hfind
  simp only [dxrunEff, hu, nearCheck_of_nearOk (by decide) hn, hb, Bool.false_eq_true, if_false, hfind]

/-- With no such lane it takes the unit. -/
theorem dxrunEff_of_no_laneTrap (hall : ∀ l, l < 8 → laneTrap s (s.g a).toNat (runTable s a) s.here.mx.dx[x.toNat] l = none) : dxrunEff x d a f s =
    .goOn (((s.nearLoaded (s.g a).toNat 128).modMx fun m => { m with
      dxUnit := some { slot := s.slot, rd := d, flag := f == 1, tb := (s.g a).toNat, desc := runTable s a, topo := s.here.mx.dx[x.toNat], input := none } }).modAct
        fun act => { act with part := .dx }) := by
  have hfind : (List.range 8).findSome? (laneTrap s (s.g a).toNat (runTable s a) s.here.mx.dx[x.toNat]) = none :=
    List.findSome?_eq_none_iff.mpr fun l hl => hall l (List.mem_range.mp hl)
  rw [← laneChecks_eq_findSome?] at hfind
  unfold runTable at hfind ⊢
  simp only [dxrunEff, hu, nearCheck_of_nearOk (by decide) hn, hb, Bool.false_eq_true, if_false, hfind]

end Sound

end Run

end Sys2Proof.Safety
end

section
/-! PROOFS. Topo loads, and issuing a run (R137 to R146). -/

namespace Sys2Proof.Safety

open Sys2Proof.Machine

/-- Settles O37: a run by what its unit, its table, its topo and the first lane that traps say; a load by its header, then by its entries. -/
theorem transducerIssue : Obligations.TransducerIssue := by
  refine ⟨?run, ?load⟩
  case run =>
    intro s x f d a he tb i byte topo
    have hexec : exec i s = finish 4 s (dxrunEff x d a f s) := exec_of_onCompute he rfl
    refine ⟨fun hu => stalls_of_stall hexec (dxrunEff_of_taken hu), ?_⟩
    intro sound
    refine ⟨fun hu t ht => ?_, fun hu hn hs => ?_, fun hu hs hn => ?_⟩
    · exact traps_of_trap hexec (dxrunEff_of_nearFails hu ht)
    · exact ⟨_, traps_of_trap hexec (dxrunEff_of_bad hu hn (Bool.eq_true_of_not_eq_false hs))⟩
    · refine ⟨runTable s a, memByte_runTable s a, ?_⟩
      intro fields ranges inside granules ok
      have hpass {l : Nat} (hok : ok l) : laneTrap s tb.toNat (runTable s a) topo l = none := laneTrap_eq_none hok
      have htrap {l : Nat} (hl : l < 8) (hbefore : ∀ k, k < l → ok k) {e : Trap} (h : laneTrap s tb.toNat (runTable s a) topo l = some e) : Traps i e s :=
        traps_of_trap hexec (dxrunEff_of_laneTrap hu hn hs hl h fun k hk => hpass (hbefore k hk))
      refine ⟨fun hall => ?_, fun l hl hbefore hen => ⟨fun hf => ?_, fun hf hi => ?_, fun hf hi hg => ?_⟩⟩
      · rw [hexec, dxrunEff_of_no_laneTrap hu hn hs fun l hl => hpass (hall l hl)]
        rfl
      · obtain ⟨fa, h⟩ := laneTrap_of_not_fields hen hf
        exact ⟨fa, htrap hl hbefore h⟩
      · obtain ⟨fa, h⟩ := laneTrap_of_not_inside hen hf hi
        exact ⟨fa, htrap hl hbefore h⟩
      · obtain ⟨c, v, fa, hc, h⟩ := laneTrap_of_not_granules hen hf hi hg
        exact ⟨c, v, fa, hc, htrap hl hbefore h⟩
  case load =>
    intro s x a o hd he ea b i states iw ow sb nt len headOk transOk endOk bodyOk decode h16 hbytes
    have hexec : exec i s = finish 4 s (dxldEff x a o s) := exec_of_onCompute he rfl
    have htrap : dxldTrap s a o = decode := atBase_space a (by decide) (by decide) ea ea
    obtain ⟨t, ht, hbadHead, hgoodHead⟩ := dxldEff_of_loadOk (x := x) h16 hbytes
    have hhead : topoHeadOk t = true ↔ headOk := by
      rw [topoHeadOk_iff ht, topoNt_of_head ht, topoSb_of_head ht, topoNst1_of_head ht, topoStart_of_head ht]
    have hlen : topoLen t = len := by rw [topoLen, topoNt_of_head ht]
    have hread (hok : headOk) (hrec : LoadOk s a ea.toNat len 16) : ∃ r, HoldsLoaded s a ea.toNat len r ∧ (¬ bodyOk → dxldEff x a o s = .trap (dxldTrap s a o)) ∧
        (bodyOk → dxldEff x a o s = .ok ((loaded s a ea.toNat len).modMx fun m => { m with dx := m.dx.set x.toNat r, dxBad := m.dxBad.set x.toNat false })) := by
      rw [← hlen] at hrec ⊢
      obtain ⟨r, hholds, hr, hbadBody, hgoodBody⟩ := hgoodHead (hhead.mpr hok) hrec
      have hrlen : topoLen r = topoLen t := by rw [topoLen, topoLen, topoNt_of_head ht, topoNt_of_head hr]
      have hb : ∀ y, y < topoLen r → (memByte r y).toNat = b y := fun y hy => by
        rw [hholds y, if_pos (hrlen ▸ hy)]
        rfl
      have hbody : topoBodyOk r = true ↔ bodyOk := by
        rw [topoBodyOk_iff_bytes hb, topoNt_of_head hr, topoNst1_of_head hr, topoOw_of_head hr]
      exact ⟨r, hholds, fun hno => hbadBody (Bool.eq_false_iff.mpr (mt hbody.mp hno)), fun hyes => hgoodBody (hbody.mpr hyes)⟩
    refine ⟨fun hno => ?_, fun hok hrec hno => ?_, fun hok hrec hyes => ?_⟩
    · exact htrap ▸ traps_of_trap hexec (hbadHead (Bool.eq_false_iff.mpr (mt hhead.mp hno)))
    · obtain ⟨r, -, hbadBody, -⟩ := hread hok hrec
      exact htrap ▸ traps_of_trap hexec (hbadBody hno)
    · obtain ⟨r, hholds, -, hgoodBody⟩ := hread hok hrec
      exact ⟨r, does_of_ok hexec (hgoodBody hyes), hholds⟩

end Sys2Proof.Safety
end

section
/-! PROOFS. A lane's walk of its topo, and the string that it writes (R141, R143). -/

namespace Sys2Proof.Safety

open Sys2Proof.Machine

/-! Digits of a string (R141). -/

/-- The highest byte of a number in memory. -/
theorem memNat_div_top (m : Memory) (a k : Nat) : memNat m a (k + 1) / 256 ^ k = (memByte m (a + k)).toNat := by
  have hlt : memNat m a (k + 1) < 256 ^ k * 256 := (leNat_lt _).trans_eq (by rw [memRead_length, Nat.pow_succ])
  have hbyte := leNat_byte (memRead m a (k + 1)) k
  rw [memRead_getD _ _ _ _ k.lt_succ_self] at hbyte
  rw [← hbyte, BitVec.toNat_ofNat, ← memNat, Nat.mod_eq_of_lt (Nat.div_lt_of_lt_mul hlt)]

/-- A digit by the number that its string begins with. -/
theorem digitAt_eq (m : Memory) (a w p : Nat) : digitAt m a w p = memNat m a (w * p / 8 + 1) / 2 ^ (w * p) % 2 ^ w := by
  have hpow : 2 ^ (w * p) = 256 ^ (w * p / 8) * 2 ^ (w * p % 8) := by
    rw [show (256 : Nat) = 2 ^ 8 from rfl, ← Nat.pow_mul, ← Nat.pow_add, Nat.div_add_mod]
  rw [hpow, ← Nat.div_div_eq_div_mul, memNat_div_top, digitAt]

/-! The walk (R143). -/

section Walk

variable (t : Memory) (sym : Nat → Nat)

/-- The state of a lane before its j-th digit. -/
def laneState : Nat → Nat
  | 0 => topoStart t
  | j + 1 => topoTrans t (laneState j * 2 ^ topoSb t + sym j) / 256 % 64

/-- The transition entry that a lane's j-th digit meets. -/
def laneEntry (j : Nat) : Nat := topoTrans t (laneState t sym j * 2 ^ topoSb t + sym j)

/-- The digits that a lane's first `n` entries emit. -/
def laneOut (n : Nat) : List Nat := (List.range n).filterMap fun j => if laneEntry t sym j / 0x4000 % 2 = 1 then some (laneEntry t sym j % 256) else none

/-- The digits of an end entry, D0 first. -/
def endDigits (z : Nat) : List Nat := if z / 2 ^ 29 % 4 = 0 then [] else if z / 2 ^ 29 % 4 = 2 then [z % 256, z / 256 % 256] else [z % 256]

/-- A lane's first `n` digits all meet defined entries. -/
def Walks (n : Nat) : Prop := ∀ j, j < n → 0x8000 ≤ laneEntry t sym j

/-- What a lane of `n` digits may come to. -/
inductive LaneEnds (n : Nat) : LaneEnd → Prop
  /-- The lane meets an undefined entry. -/
  | off {p : Nat} : p < n → Walks t sym p → laneEntry t sym p < 0x8000 → LaneEnds n (.off p)
  /-- The last state may not end. -/
  | noEnd : Walks t sym n → topoEnd t (laneState t sym n) < 2 ^ 31 → LaneEnds n (.off 0xFFFF)
  /-- The last state may end. -/
  | done : Walks t sym n → 2 ^ 31 ≤ topoEnd t (laneState t sym n) →
      LaneEnds n (.done (laneOut t sym n ++ endDigits (topoEnd t (laneState t sym n))) (topoEnd t (laneState t sym n) / 2 ^ 16 % 256))

theorem laneState_succ (j : Nat) : laneState t sym (j + 1) = laneEntry t sym j / 2 ^ 8 % 64 := rfl

theorem laneOut_succ (n : Nat) : laneOut t sym (n + 1) = if laneEntry t sym n / 0x4000 % 2 = 1 then laneOut t sym n ++ [laneEntry t sym n % 256] else laneOut t sym n := by
  rw [laneOut, List.range_succ, List.filterMap_append, ← laneOut]
  split
  · next he => simp only [List.filterMap_cons, List.filterMap_nil, he, if_true]
  · next he => simp only [List.filterMap_cons, List.filterMap_nil, he, if_false, List.append_nil]

/-- The digits of an end entry as the lane appends them. -/
theorem append_endDigits (out : List Nat) (z : Nat) :
    out ++ (if 1 ≤ z / 2 ^ 29 % 4 then [z % 256] else []) ++ (if z / 2 ^ 29 % 4 = 2 then [z / 256 % 256] else []) = out ++ endDigits z := by
  rw [endDigits]
  by_cases h0 : z / 2 ^ 29 % 4 = 0
  · rw [if_neg (by omega), if_neg (by omega), if_pos h0, List.append_nil]
  · rw [if_pos (by omega), if_neg h0]
    split
    · rw [List.append_assoc, List.singleton_append]
    · rw [List.append_nil]

/-- A lane that stands before its j-th digit, with every entry before it defined, comes to its end. -/
theorem laneEnds_laneRun {n j : Nat} (left : Nat) (hn : j + left = n) (hwalk : Walks t sym j) :
    LaneEnds t sym n (laneRun t sym (laneState t sym j) j (laneOut t sym j) left) := by
  induction left generalizing j with
  | zero =>
    obtain rfl : j = n := hn
    rw [laneRun]
    dsimp only
    split
    · next hz => exact .noEnd hwalk ((Nat.div_eq_zero_iff_lt (by decide)).mp hz)
    · next hz =>
      rw [append_endDigits]
      exact .done hwalk (Nat.not_lt.mp (mt (Nat.div_eq_zero_iff_lt (by decide)).mpr hz))
  | succ left ih =>
    rw [laneRun, ← laneEntry]
    split
    · next he => exact .off (by omega) hwalk ((Nat.div_eq_zero_iff_lt (by decide)).mp he)
    · next he =>
      have hj : 0x8000 ≤ laneEntry t sym j := Nat.not_lt.mp (mt (Nat.div_eq_zero_iff_lt (by decide)).mpr he)
      have hnext := ih (j := j + 1) (by omega) fun i hi => (Nat.lt_succ_iff_lt_or_eq.mp hi).elim (hwalk i) fun h => h ▸ hj
      rwa [laneOut_succ, laneState_succ] at hnext

/-- A lane that begins its walk comes to its end. -/
theorem laneEnds_start (n : Nat) : LaneEnds t sym n (laneRun t sym (topoStart t) 0 [] n) :=
  laneEnds_laneRun t sym (j := 0) n (Nat.zero_add n) fun _ hi => absurd hi (Nat.not_lt_zero _)

end Walk

/-- The symbol that a lane reads j-th (R141). -/
def laneSym (r : DxRun) (m : Memory) (l j : Nat) : Nat :=
  let p := if topoMsd r.topo then descNdig r.desc l - 1 - j else j
  digitAt m (descAddr r.tb r.desc l 0) (topoIw r.topo) p + (if topoTr2 r.topo then digitAt m (descAddr r.tb r.desc l 18) (topoIw r.topo) p * 2 ^ topoIw r.topo else 0)

theorem lane_eq (r : DxRun) (m : Memory) (l : Nat) : r.lane m l = laneRun r.topo (laneSym r m l) (topoStart r.topo) 0 [] (descNdig r.desc l) := rfl

/-- A lane of a run comes to its end from START. -/
theorem laneEnds_lane (r : DxRun) (m : Memory) (l : Nat) : LaneEnds r.topo (laneSym r m l) (descNdig r.desc l) (r.lane m l) := by
  rw [lane_eq]
  exact laneEnds_start ..

/-! The output string (R141). -/

/-- The bytes that hold a number of digits. -/
theorem outBytes_eq (t : Memory) (ds : List Nat) :
    outBytes t ds = leBytes ((ds.length * topoOw t + 7) / 8) (ofLanes (topoOw t) (if topoMsd t then ds.reverse else ds)) := rfl

/-- The digits of an output string in the order of their positions. -/
theorem length_placed (t : Memory) (ds : List Nat) : (if topoMsd t then ds.reverse else ds).length = ds.length := by
  split
  · exact List.length_reverse
  · rfl

theorem placed_getD (t : Memory) (ds : List Nat) {j : Nat} (hj : j < ds.length) :
    (if topoMsd t then ds.reverse else ds).getD (if topoMsd t then ds.length - 1 - j else j) 0 = ds.getD j 0 := by
  split
  · rw [List.getD_eq_getElem _ _ (by rw [List.length_reverse]; omega), List.getElem_reverse, List.getD_eq_getElem _ _ hj]
    congr 1
    omega
  · rfl

theorem leNat_outBytes (t : Memory) (ds : List Nat) :
    leNat (outBytes t ds) = ofLanes (topoOw t) (if topoMsd t then ds.reverse else ds) ∧ leNat (outBytes t ds) < 2 ^ (topoOw t * ds.length) := by
  have hlt := ofLanes_lt (topoOw t) (if topoMsd t then ds.reverse else ds)
  rw [length_placed] at hlt
  have hroom : 2 ^ (topoOw t * ds.length) ≤ 256 ^ ((ds.length * topoOw t + 7) / 8) := by
    rw [show (256 : Nat) = 2 ^ 8 from rfl, ← Nat.pow_mul, Nat.mul_comm (topoOw t)]
    exact Nat.pow_le_pow_right (by decide) (by omega)
  have heq : leNat (outBytes t ds) = ofLanes (topoOw t) (if topoMsd t then ds.reverse else ds) := by
    rw [outBytes_eq, leNat_leBytes_eq_mod, Nat.mod_eq_of_lt (hlt.trans_le hroom)]
  exact ⟨heq, heq ▸ hlt⟩

end Sys2Proof.Safety
end

section
/-! PROOFS. The read phase of a run: the bytes of its input strings (R145). -/

namespace Sys2Proof.Safety

open Sys2Proof.Machine

/-- The inputs that a run's read phase reads. -/
def runInputs (r : DxRun) : List (Nat × Nat) := ((List.range 8).filter (descEn r.desc)).flatMap fun l => descInputs r.tb r.desc r.topo l

theorem mem_runInputs {r : DxRun} {l : Nat} {p : Nat × Nat} (hl : l < 8) (he : descEn r.desc l = true) (hp : p ∈ descInputs r.tb r.desc r.topo l) : p ∈ runInputs r :=
  List.mem_flatMap.mpr ⟨l, List.mem_filter.mpr ⟨List.mem_range.mpr hl, he⟩, hp⟩

/-- The bytes of some ranges of local memory, as the acting slot reads them, kept by address. -/
def gatherBytes (s : State) (m : Memory) (rs : List (Nat × Nat)) : Memory := rs.foldl (fun m p => memWrite m p.1 (s.nearBytes p.1 p.2)) m

/-- A byte of some range is gathered, wherever the ranges overlap; any other is as it was. -/
theorem memByte_gatherBytes (s : State) {m : Memory} (hm : memWf m = true) (rs : List (Nat × Nat)) (y : Nat) :
    memByte (gatherBytes s m rs) y = if ∃ p ∈ rs, p.1 ≤ y ∧ y < p.1 + p.2 then s.here.mem.byte s.at_ s.key y else memByte m y := by
  induction rs generalizing m with
  | nil => simp [gatherBytes]
  | cons p rs ih =>
    have hfirst : memByte (memWrite m p.1 (s.nearBytes p.1 p.2)) y = if p.1 ≤ y ∧ y < p.1 + p.2 then s.here.mem.byte s.at_ s.key y else memByte m y := by
      rw [memByte_memWrite _ _ _ hm, length_nearBytes]
      refine ite_congr rfl (fun hy => ?_) fun _ => rfl
      rw [nearBytes_getD s _ (by omega), Nat.add_sub_cancel' hy.1]
    rw [gatherBytes, List.foldl_cons, ← gatherBytes, ih (memWrite_wf _ _ hm), hfirst]
    by_cases hrs : ∃ p ∈ rs, p.1 ≤ y ∧ y < p.1 + p.2
    · obtain ⟨q, hq, hy⟩ := hrs
      rw [if_pos ⟨q, hq, hy⟩, if_pos ⟨q, List.mem_cons_of_mem p hq, hy⟩]
    · simp only [List.exists_mem_cons_iff, hrs, or_false, if_false]

section Phases

variable {s : State} {r : DxRun} (hu : s.here.mx.dxUnit = some r)

include hu

theorem readPhase_of_idle (h : (r.input.isSome || ({ s with slot := r.slot } : State).spent) = true) : execDxrunReadPhase s = .next s := by
  simp only [execDxrunReadPhase, hu, h, if_true]

theorem readPhase_of_waiting (hi : r.input = none) (hs : ({ s with slot := r.slot } : State).spent = false) :
    execDxrunReadPhase s = .next ((({ s with slot := r.slot } : State).watch true false ({ s with slot := r.slot } : State).ten (runInputs r)).modMx fun x =>
      { x with dxUnit := some { r with input := some (gatherBytes { s with slot := r.slot } [] (runInputs r)) } }) := by
  have h : (r.input.isSome || ({ s with slot := r.slot } : State).spent) = false := by rw [hi, hs]; rfl
  simp only [execDxrunReadPhase, hu, h, Bool.false_eq_true, if_false]
  rfl

theorem writePhase_of_unread (hi : r.input = none) : execDxrunWritePhase s = .next s := by
  simp only [execDxrunWritePhase, hu, hi]

theorem writePhase_of_spent (hs : ({ s with slot := r.slot } : State).spent = true) : execDxrunWritePhase s = .next s := by
  cases hi : r.input with
  | none => exact writePhase_of_unread hu hi
  | some m => simp only [execDxrunWritePhase, hu, hi, hs, if_true]

theorem writePhase_of_read {m : Memory} (hi : r.input = some m) (hs : ({ s with slot := r.slot } : State).spent = false) :
    execDxrunWritePhase s = complete 4 { s with slot := r.slot } (dxFinish r m { s with slot := r.slot }) := by
  simp only [execDxrunWritePhase, hu, hi, hs, Bool.false_eq_true, if_false]

end Phases

end Sys2Proof.Safety
end

section
/-! PROOFS. The write phase of a run: the lanes that are off-route, and the stores (R143 to R145). -/

namespace Sys2Proof.Safety

open Sys2Proof.Machine

/-! Lanes that are off-route (R144), by what each lane comes to. -/

section Off

variable (en : Nat → Bool) (e : Nat → LaneEnd)

/-- The enabled lanes with what they come to. -/
def laneEndings : List (Nat × LaneEnd) := ((List.range 8).filter en).map fun l => (l, e l)

/-- An enabled lane that is off-route, with its place. -/
def offLane (l : Nat) : Option (Nat × Nat) := if en l then (e l).place.map fun w => (l, w) else none

/-- The enabled lanes that are off-route, lowest first. -/
def offLanes : List (Nat × Nat) := (List.range 8).filterMap (offLane en e)

theorem laneEndings_place : ((laneEndings en e).filterMap fun p => p.2.place.map fun w => (p.1, w)) = offLanes en e := by
  rw [laneEndings, List.filterMap_map, List.filterMap_filter]
  rfl

theorem place_eq_some_iff (x : LaneEnd) (p : Nat) : x.place = some p ↔ x = .off p := by
  cases x with
  | off q => simp [LaneEnd.place]
  | done ds res => simp [LaneEnd.place]

theorem offLane_eq_some_iff (l : Nat) (o : Nat × Nat) : offLane en e l = some o ↔ o.1 = l ∧ en l = true ∧ e l = .off o.2 := by
  rw [offLane]
  split
  · next he =>
    simp only [Option.map_eq_some_iff, place_eq_some_iff, he, true_and]
    exact ⟨fun ⟨p, hp, ho⟩ => ho ▸ ⟨rfl, hp⟩, fun ⟨hl, hp⟩ => ⟨o.2, hp, Prod.ext hl.symm rfl⟩⟩
  · next he => simp [he]

theorem mem_offLanes_iff (l p : Nat) : (l, p) ∈ offLanes en e ↔ l < 8 ∧ en l = true ∧ e l = .off p := by
  simp only [offLanes, List.mem_filterMap, List.mem_range, offLane_eq_some_iff]
  exact ⟨fun ⟨_, hl, rfl, ho⟩ => ⟨hl, ho⟩, fun ⟨hl, ho⟩ => ⟨l, hl, rfl, ho⟩⟩

variable {en e}

/-- The lowest lane that is off-route stands first. -/
theorem offLanes_of_lowest {l p : Nat} (hl : l < 8) (he : en l = true) (hp : e l = .off p) (hlow : ∀ k q, k < l → ¬ ((k < 8 ∧ en k = true) ∧ e k = .off q)) :
    ∃ rest, offLanes en e = (l, p) :: rest := by
  have hfind : (List.range 8).findSome? (offLane en e) = some (l, p) := by
    refine findSome?_range hl ((offLane_eq_some_iff ..).mpr ⟨rfl, he, hp⟩) fun k hk => Option.eq_none_iff_forall_ne_some.mpr fun o ho => ?_
    obtain ⟨-, hek, hok⟩ := (offLane_eq_some_iff ..).mp ho
    exact hlow k o.2 hk ⟨⟨hk.trans hl, hek⟩, hok⟩
  rw [← List.head?_filterMap] at hfind
  exact List.head?_eq_some_iff.mp hfind

variable (en e)

/-- The mask of the lanes that are off-route. -/
def offMask : Word := BitVec.ofNat 64 ((offLanes en e).map fun (o : Nat × Nat) => 2 ^ o.1).sum

theorem offLanes_sorted : ((offLanes en e).map Prod.fst).SortedLT := by
  refine List.Pairwise.sortedLT (List.pairwise_map.mpr (List.pairwise_filterMap.mpr (List.pairwise_lt_range.imp fun {k l} hkl o ho q hq => ?_)))
  obtain ⟨hk, -⟩ := (offLane_eq_some_iff ..).mp ho
  obtain ⟨hl, -⟩ := (offLane_eq_some_iff ..).mp hq
  rwa [hk, hl]

theorem getLsbD_offMask (l : Nat) : (offMask en e).getLsbD l = true ↔ ∃ p, (l < 8 ∧ en l = true) ∧ e l = .off p := by
  have hbit : ((offLanes en e).map fun (o : Nat × Nat) => 2 ^ o.1).sum.testBit l = true ↔ l ∈ (offLanes en e).map Prod.fst := by
    rw [← Nat.mem_bitIndices, ← Nat.bitIndices_sum_map_two_pow (offLanes_sorted en e), List.map_map]
    rfl
  have hmem : l ∈ (offLanes en e).map Prod.fst ↔ ∃ p, (l < 8 ∧ en l = true) ∧ e l = .off p := by
    simp only [List.mem_map, Prod.exists, mem_offLanes_iff, and_assoc]
    exact ⟨fun ⟨k, p, hk, he, hp, hkl⟩ => ⟨p, hkl ▸ ⟨hk, he, hp⟩⟩, fun ⟨p, hl, he, hp⟩ => ⟨l, p, hl, he, hp, rfl⟩⟩
  rw [offMask, BitVec.getLsbD_ofNat, Bool.and_eq_true, decide_eq_true_eq, hbit, hmem]
  exact and_iff_right_of_imp fun ⟨p, ⟨hl, _⟩, _⟩ => hl.trans (by decide)

end Off

/-! The status word of a lane (R142, R144). -/

/-- Word 1 of a descriptor whose high bits are zero, with OFR, NOUT and RES. -/
theorem setFld_status {w : Word} (h : zeroBits w 52 12 = true) (v : BitVec 20) : setFld w 32 v = ((v ++ w.extractLsb' 0 32 : BitVec 52).setWidth 64) := by
  have hhigh : ∀ i, 52 ≤ i → i < 64 → w.getLsbD i = false := fun i hlo hhi => by
    have hz : fld w 52 12 = 0 := beq_iff_eq.mp h
    have hbit := congrArg (fun x => x.getLsbD (i - 52)) hz
    simpa [fld, BitVec.getLsbD_extractLsb', show i - 52 < 12 by omega, Nat.add_sub_cancel' hlo] using hbit
  refine BitVec.eq_of_getLsbD_eq fun i hi => ?_
  simp only [setFld, BitVec.getLsbD_or, BitVec.getLsbD_and, BitVec.getLsbD_not, BitVec.getLsbD_shiftLeft, BitVec.getLsbD_setWidth, BitVec.getLsbD_allOnes, BitVec.getLsbD_append,
    BitVec.getLsbD_extractLsb', Nat.zero_add, hi, decide_true, Bool.true_and]
  rcases Nat.lt_or_ge i 32 with hlow | hlow
  · simp [hlow]
  · rcases Nat.lt_or_ge i 52 with hmid | hmid
    · simp [hlow.not_gt, show i - 32 < 20 by omega, show i - 32 < 64 by omega]
    · simp [hlow.not_gt, show ¬ i - 32 < 20 by omega, hhigh i hmid hi, BitVec.getLsbD_of_ge v (i - 32) (by omega)]

end Sys2Proof.Safety
end

section
/-! PROOFS. What the write phase of a run stores, and the end of a run (R143 to R145). -/

namespace Sys2Proof.Safety

open Sys2Proof.Machine

/-! The stores of a write phase, by what each lane comes to. -/

section Stores

variable (r : DxRun) (e : Nat → LaneEnd)

/-- The bytes of a lane's output. -/
def laneBytes (t : Memory) : LaneEnd → List Byte
  | .off _ => []
  | .done ds _ => outBytes t ds

/-- The store of a lane's output. -/
def outStore (l : Nat) : Option (Nat × List Byte) :=
  match e l with
  | .off _ => none
  | .done ds _ => if descEn r.desc l then some (descAddr r.tb r.desc l 36, outBytes r.topo ds) else none

/-- The store of a lane's status. -/
def statusStore (l : Nat) : Option (Nat × List Byte) :=
  if descEn r.desc l then some (r.tb + 16 * l + 8, leBytes 8 (statusWord (descWord r.desc l 1) (e l)).toNat) else none

/-- The stores of a write phase by their place: the outputs of lanes 0 to 7, then their statuses. -/
def runStore (i : Nat) : Option (Nat × List Byte) := if i < 8 then outStore r e i else statusStore r e (i - 8)

theorem runStores_eq : r.stores (laneEndings (descEn r.desc) e) = (List.range 16).filterMap (runStore r e) := by
  have hout : ∀ l ∈ List.range 8, runStore r e l = outStore r e l := fun l hl => if_pos (List.mem_range.mp hl)
  have hstatus : ∀ l ∈ List.range 8, runStore r e (8 + l) = statusStore r e l := fun l _ => by
    rw [runStore, if_neg (by omega), Nat.add_sub_cancel_left]
  rw [show 16 = 8 + 8 from rfl, List.range_add, List.filterMap_append, List.filterMap_map, DxRun.stores, laneEndings, List.filterMap_map, List.filterMap_filter, List.map_map,
    ← List.filterMap_eq_map, List.filterMap_filter]
  refine congrArg₂ (· ++ ·) (List.filterMap_congr fun l hl => ?_) (List.filterMap_congr fun l hl => ?_)
  · rw [hout l hl, outStore]
    dsimp only [Function.comp_apply]
    cases e l with
    | off p => exact ite_self _
    | done ds res => rfl
  · exact (hstatus l hl).symm

variable {r e}

theorem covers_of_outStore {l y : Nat} {p : Nat × List Byte} (h : outStore r e l = some p) (hc : Covers p y) :
    descEn r.desc l = true ∧ descAddr r.tb r.desc l 36 ≤ y ∧ y < descAddr r.tb r.desc l 36 + (laneBytes r.topo (e l)).length := by
  unfold outStore at h
  cases he : e l with
  | off q => rw [he] at h; cases h
  | done ds res =>
    rw [he] at h
    obtain ⟨hen, hp⟩ := Option.ite_none_right_eq_some.mp h
    cases hp
    exact ⟨hen, hc⟩

theorem covers_of_statusStore {l y : Nat} {p : Nat × List Byte} (h : statusStore r e l = some p) (hc : Covers p y) :
    descEn r.desc l = true ∧ r.tb + 16 * l + 8 ≤ y ∧ y < r.tb + 16 * l + 8 + 8 := by
  obtain ⟨hen, hp⟩ := Option.ite_none_right_eq_some.mp h
  cases hp
  rw [Covers, leBytes_length] at hc
  exact ⟨hen, hc⟩

/-- A lane whose output covers a byte stores it. -/
theorem outStore_of_covered {l y : Nat} (hen : descEn r.desc l = true) (hy : y < descAddr r.tb r.desc l 36 + (laneBytes r.topo (e l)).length) (hlo : descAddr r.tb r.desc l 36 ≤ y) :
    outStore r e l = some (descAddr r.tb r.desc l 36, laneBytes r.topo (e l)) := by
  unfold outStore
  cases he : e l with
  | off q =>
    rw [he] at hy
    exact absurd hy (by simpa [laneBytes] using hlo)
  | done ds res => exact if_pos hen

/-- Local memory after the stores. -/
def storedMem (s : State) (r : DxRun) (e : Nat → LaneEnd) : LocalMem :=
  ((List.range 16).filterMap (runStore r e)).foldl (fun (m : LocalMem) (p : Nat × List Byte) => m.write s.at_ s.key p.1 p.2) s.here.mem

variable {s : State} (hm : memWf s.here.mem.bytes = true)

include hm

/-- A byte of a lane's word 1. -/
theorem byte_status {l j : Nat} (hl : l < 8) (hen : descEn r.desc l = true) (hj : j < 8) :
    (storedMem s r e).byte s.at_ s.key (r.tb + 16 * l + 8 + j) = byteOf (statusWord (descWord r.desc l 1) (e l)) j := by
  obtain ⟨-, -, hin⟩ := byte_writes s.at_ s.key hm (runStore r e) 16
  have hstore : runStore r e (8 + l) = some (r.tb + 16 * l + 8, leBytes 8 (statusWord (descWord r.desc l 1) (e l)).toNat) := by
    rw [runStore, if_neg (by omega), Nat.add_sub_cancel_left]
    exact if_pos hen
  have hc : Covers (r.tb + 16 * l + 8, leBytes 8 (statusWord (descWord r.desc l 1) (e l)).toNat) (r.tb + 16 * l + 8 + j) := by
    rw [Covers, leBytes_length]
    dsimp only
    omega
  rw [storedMem, hin _ _ _ (by omega) hstore hc fun i hi _ p hp hcp => ?_]
  · rw [Nat.add_sub_cancel_left, leBytes_toNat_getD _ hj]
  · rw [runStore, if_neg (by omega)] at hp
    have := (covers_of_statusStore hp hcp).2
    omega

/-- A byte of an output that no higher lane's output and no status covers. -/
theorem byte_output {l y : Nat} (hl : l < 8) (hen : descEn r.desc l = true) (hlo : descAddr r.tb r.desc l 36 ≤ y)
    (hy : y < descAddr r.tb r.desc l 36 + (laneBytes r.topo (e l)).length)
    (hlast : ∀ k, l < k → k < 8 → ¬ (descEn r.desc k = true ∧ descAddr r.tb r.desc k 36 ≤ y ∧ y < descAddr r.tb r.desc k 36 + (laneBytes r.topo (e k)).length))
    (hstatus : ∀ k, k < 8 → ¬ (descEn r.desc k = true ∧ r.tb + 16 * k + 8 ≤ y ∧ y < r.tb + 16 * k + 8 + 8)) :
    (storedMem s r e).byte s.at_ s.key y = (laneBytes r.topo (e l)).getD (y - descAddr r.tb r.desc l 36) 0 := by
  obtain ⟨-, -, hin⟩ := byte_writes s.at_ s.key hm (runStore r e) 16
  have hstore : runStore r e l = some (descAddr r.tb r.desc l 36, laneBytes r.topo (e l)) := (if_pos hl).trans (outStore_of_covered hen hy hlo)
  rw [storedMem, hin y l _ (by omega) hstore ⟨hlo, hy⟩ fun i hi hi' p hp hcp => ?_]
  rw [runStore] at hp
  split at hp
  · next h8 => exact hlast i hi h8 (covers_of_outStore hp hcp)
  · exact hstatus (i - 8) (by omega) (covers_of_statusStore hp hcp)

/-- A byte that no output and no status covers. -/
theorem byte_unstored {y : Nat}
    (hout : ∀ k, k < 8 → ¬ (descEn r.desc k = true ∧ descAddr r.tb r.desc k 36 ≤ y ∧ y < descAddr r.tb r.desc k 36 + (laneBytes r.topo (e k)).length))
    (hstatus : ∀ k, k < 8 → ¬ (descEn r.desc k = true ∧ r.tb + 16 * k + 8 ≤ y ∧ y < r.tb + 16 * k + 8 + 8)) :
    (storedMem s r e).byte s.at_ s.key y = s.here.mem.byte s.at_ s.key y := by
  obtain ⟨-, hkept, -⟩ := byte_writes s.at_ s.key hm (runStore r e) 16
  rw [storedMem, hkept y fun i hi p hp hcp => ?_]
  rw [runStore] at hp
  split at hp
  · next h8 => exact hout i h8 (covers_of_outStore hp hcp)
  · exact hstatus (i - 8) (by omega) (covers_of_statusStore hp hcp)

end Stores

/-! The end of a run (R144). -/

section Finish

variable {s : State} {r : DxRun} {m : Memory}

/-- The stores that a paired run notes (R256). -/
def notedStores (s : State) (ws : List (Nat × List Byte)) : List (Nat × List Byte) := if s.act.paired then s.act.stores ++ ws else s.act.stores

/-- The machine after the write phase of a run, before it retires. -/
def runFinished (s : State) (r : DxRun) (e : Nat → LaneEnd) : State :=
  ((((({ s with here := { s.here with mem := storedMem s r e } }).modAct fun act => { act with stores := notedStores s (r.stores (laneEndings (descEn r.desc) e)) }).watch false true s.ten
    ((r.stores (laneEndings (descEn r.desc) e)).map fun (p : Nat × List Byte) => (p.1, p.2.length))).modMx fun x => { x with dxUnit := none }).modAct
      fun act => { act with part := .none }).setG r.rd (offMask (descEn r.desc) e)

theorem nearStores_stores (s : State) (r : DxRun) (e : Nat → LaneEnd) : s.nearStores (r.stores (laneEndings (descEn r.desc) e)) =
    (({ s with here := { s.here with mem := storedMem s r e } }).modAct fun act => { act with stores := notedStores s (r.stores (laneEndings (descEn r.desc) e)) }).watch false true s.ten
      ((r.stores (laneEndings (descEn r.desc) e)).map fun (p : Nat × List Byte) => (p.1, p.2.length)) := by
  rw [nearStores_eq, State.modAct_eq, setAct_watch, storedMem, ← runStores_eq]
  rfl

theorem dxFinish_of_off {o : Nat × Nat} {rest : List (Nat × Nat)} (hf : r.flag = false) (h : offLanes (descEn r.desc) (r.lane m) = o :: rest) :
    dxFinish r m s = .trap (.atNear cOffRoute (BitVec.ofNat 64 (o.1 * 0x10000 + o.2)) (BitVec.ofNat 64 r.tb)) := by
  rw [← laneEndings_place] at h
  unfold laneEndings at h
  simp only [dxFinish, hf, h]

theorem dxFinish_of_on (h : r.flag = true ∨ offLanes (descEn r.desc) (r.lane m) = []) : dxFinish r m s = .ok (runFinished s r (r.lane m)) := by
  rw [runFinished, ← nearStores_stores, offMask]
  rw [← laneEndings_place] at h ⊢
  unfold laneEndings at h ⊢
  rcases h with hf | h
  · simp only [dxFinish, hf]
  · cases hf : r.flag with
    | false => simp only [dxFinish, hf, h]
    | true => simp only [dxFinish, hf]

end Finish

end Sys2Proof.Safety
end

section
/-! PROOFS. The phases of a run and the walk of a lane, assembled (R137 to R145). -/

namespace Sys2Proof.Safety

open Sys2Proof.Machine

/-- Settles O38: the phases by what the unit holds and which lanes are off-route, a lane by its walk from START, its output by the number that its digits make. -/
theorem transducerPhases : Obligations.TransducerPhases := by
  refine ⟨⟨fun s hu => ?idle, fun s r hu => ?phases⟩, ?lane, ?output⟩
  case idle =>
    have hread : execDxrunReadPhase s = .next s := by simp only [execDxrunReadPhase, hu]
    have hwrite : execDxrunWritePhase s = .next s := by simp only [execDxrunWritePhase, hu]
    exact ⟨hread, hwrite⟩
  case phases =>
    intro u en
    refine ⟨writePhase_of_unread hu, fun hi => ?_, fun hs => ⟨?_, writePhase_of_spent hu hs⟩, fun hs hi => ?_, fun m hi hs => ?_⟩
    · exact readPhase_of_idle hu (Bool.or_eq_true_iff.mpr (.inl (Option.isSome_iff_ne_none.mpr hi)))
    · exact readPhase_of_idle hu (Bool.or_eq_true_iff.mpr (.inr hs))
    · refine ⟨gatherBytes u [] (runInputs r), _, readPhase_of_waiting hu hi hs, ?_, ?_, ?_, fun l ⟨hl, hen⟩ p hp y hlo hhi => ?_⟩
      · rw [State.modMx_here_mx, State.watch_mx]
      · rw [State.modMx_here_mem, State.watch_mem]
      · rw [State.modMx_here_acts, State.watch_acts]
      · rw [memByte_gatherBytes u rfl, if_pos ⟨p, mem_runInputs hl hen hp, hlo, hhi⟩]
    · intro off
      have hexec : exec .dxrunWritePhase s = complete 4 u (dxFinish r m u) := writePhase_of_read hu hi hs
      refine ⟨fun hf l p hoff hlow => ?_, fun hon => ⟨offMask (descEn r.desc) (r.lane m), storedMem u r (r.lane m), notedStores u (r.stores (laneEndings (descEn r.desc) (r.lane m))), ?_, getLsbD_offMask _ _, ?_, fun hwf => ?_⟩⟩
      · obtain ⟨⟨hl, hen⟩, hp⟩ := hoff
        obtain ⟨rest, hfirst⟩ := offLanes_of_lowest hl hen hp hlow
        exact ⟨_, hexec.trans (congrArg (complete 4 u) (dxFinish_of_off hf hfirst))⟩
      · exact fun hp => if_neg (by simp [hp])
      · have hno : r.flag = true ∨ offLanes (descEn r.desc) (r.lane m) = [] := hon.imp_right fun h => List.eq_nil_iff_forall_not_mem.mpr fun o ho => by
          obtain ⟨hl, hen, hp⟩ := (mem_offLanes_iff ..).mp ho
          exact h o.1 o.2 ⟨⟨hl, hen⟩, hp⟩
        rw [hexec, dxFinish_of_on hno]
        rfl
      · intro word1 status out isStatus isOut
        have hstatus (l : Nat) (hz : zeroBits (descWord r.desc l 1) 52 12 = true) : statusWord (descWord r.desc l 1) (r.lane m l) = status l := by
          dsimp only [status]
          cases r.lane m l with
          | off p => exact setFld_status hz _
          | done ds res => exact setFld_status hz _
        have hout : out = fun l => laneBytes r.topo (r.lane m l) := funext fun l => by
          dsimp only [out]
          cases r.lane m l with
          | off p => rfl
          | done ds res => rfl
        have hnoStatus {y : Nat} (h : ¬ isStatus y) (k : Nat) (hk : k < 8) : ¬ (descEn r.desc k = true ∧ r.tb + 16 * k + 8 ≤ y ∧ y < r.tb + 16 * k + 8 + 8) :=
          fun ⟨hen, hy⟩ => h ⟨k, ⟨hk, hen⟩, hy⟩
        have hnoOut {y k : Nat} (h : ¬ isOut k y) (hk : k < 8) :
            ¬ (descEn r.desc k = true ∧ descAddr r.tb r.desc k 36 ≤ y ∧ y < descAddr r.tb r.desc k 36 + (laneBytes r.topo (r.lane m k)).length) :=
          fun ⟨hen, hy⟩ => h ⟨⟨hk, hen⟩, by rw [hout]; exact hy⟩
        refine ⟨fun l j ⟨hl, hen⟩ hj hz => ?_, fun l y hy hlast hfree => ?_, fun y hfree hfar => ?_⟩
        · rw [← hstatus l hz]
          exact byte_status (s := u) hwf hl hen hj
        · obtain ⟨⟨hl, hen⟩, hlo, hhi⟩ := hy
          rw [hout] at hhi ⊢
          exact byte_output (s := u) hwf hl hen hlo hhi (fun k hlk hk => hnoOut (hlast k hlk) hk) (hnoStatus hfree)
        · exact byte_unstored (s := u) hwf (fun k hk => hnoOut (hfar k) hk) (hnoStatus hfree)
  case lane =>
    intro r m l t n w digit at1 sym e path
    have hsym : sym = laneSym r m l := funext fun j => by simp only [laneSym, digitAt_eq]; rfl
    have hpath (k : Nat) (hk : Walks t (laneSym r m l) k) : path k (laneState t (laneSym r m l)) :=
      ⟨rfl, fun j hj => ⟨hsym ▸ hk j hj, hsym ▸ rfl⟩⟩
    have hends := laneEnds_lane r m l
    generalize r.lane m l = x at hends ⊢
    cases hends with
    | off hp hw hz => exact .inl ⟨_, hp, hpath _ hw, hsym ▸ hz⟩
    | noEnd hw hz => exact .inr ⟨rfl, _, hpath _ hw, hz⟩
    | done hw hz => exact ⟨_, hpath _ hw, hz, rfl, hsym ▸ rfl⟩
  case output =>
    intro t ds w
    obtain ⟨heq, hlt⟩ := leNat_outBytes t ds
    refine ⟨leBytes_length .., hlt, fun j hj => ?_⟩
    rw [heq, ofLanes_lane, placed_getD t ds hj]

end Sys2Proof.Safety
end

section
/-! PROOFS. Sends (R167, R172 to R176, R182, R279). -/

namespace Sys2Proof.Safety

open Sys2Proof.Machine

/-! What a send makes, once its checks have passed. -/

/-- A send of a part of R282, by the send mode of its entry and the room in the outbox or the egress (R159). -/
theorem sendsPart_of_send {i : Instr} {len part : Nat} {m : Send} {l : Bool} {who : Waiter} {s u : State} (h : exec i s = finish len s (u.send m l part who)) :
    SendsPart i len m l part who s u := by
  refine ⟨fun hm ho hb => ?_, fun hm hf => ?_, fun hm hw => ?_, fun hm hw => ?_⟩
  · rw [h, State.send, if_neg (by simp [hm]), if_neg (by omega)]
    rfl
  · rw [Traps, h, State.send, if_neg (by simp [hm]), if_pos hf]
    rfl
  · exact ⟨true, by rw [h, State.send, if_pos hm, if_pos hw]; rfl⟩
  · rw [h, State.send, if_pos hm, if_neg (by simp [hw])]
    rfl

theorem mayName_iff (s : State) (c : BitVec 8) : s.mayName c = true ↔ MayName s c := by
  simp only [State.mayName, MayName, sysChannel, Bool.or_eq_true, Bool.not_eq_true', Bool.or_eq_false_iff, Bool.and_eq_false_iff, decide_eq_false_iff_not]
  refine or_congr_right ?_
  omega

theorem mayName_eq_false {s : State} {c : BitVec 8} (h : ¬ MayName s c) : s.mayName c = false := Bool.eq_false_iff.mpr fun hc => h ((mayName_iff s c).mp hc)

/-- An activation that has joined no ascent sends anywhere, a joined one within its package (R279). -/
theorem inPackage_of_allowed {s : State} {d : CoreAddr} (h : NotJoined s ∨ pkgOf d = pkgOf s.at_) (w : Word) (e : Effect) : s.inPackage d w e = e := by
  refine if_neg fun hb => ?_
  simp only [Bool.and_eq_true, bne_iff_ne] at hb
  exact h.elim (fun hn => Bool.false_ne_true (hn.symm.trans hb.1)) hb.2

theorem inPackage_of_away {s : State} {d : CoreAddr} (hj : ¬ NotJoined s) (hd : pkgOf d ≠ pkgOf s.at_) (w : Word) (e : Effect) :
    s.inPackage d w e = .trap (.plain cAscent w) :=
  if_pos (by simpa [bit, hd, NotJoined] using hj)

/-- Two fields that lie side by side are zero together. -/
theorem zeroBits_append {n : Nat} (w : BitVec n) (lo a b : Nat) : w.extractLsb' lo (a + b) = 0 ↔ zeroBits w lo a = true ∧ zeroBits w (lo + a) b = true := by
  simp only [zeroBits, fld, beq_iff_eq]
  constructor
  · intro h
    have hb (i : Nat) (hi : i < a + b) : w.getLsbD (lo + i) = false := by simpa [hi] using congrArg (·.getLsbD i) h
    refine ⟨BitVec.eq_of_getLsbD_eq fun i hi => ?_, BitVec.eq_of_getLsbD_eq fun i hi => ?_⟩
    · simp [hb i (by omega)]
    · simpa [Nat.add_assoc] using fun _ => hb (a + i) (by omega)
  · rintro ⟨ha, hb⟩
    refine BitVec.eq_of_getLsbD_eq fun i hi => ?_
    by_cases h : i < a
    · simpa [h, hi] using congrArg (·.getLsbD i) ha
    · have := congrArg (·.getLsbD (i - a)) hb
      simpa [hi, show i - a < b by omega, show lo + a + (i - a) = lo + i by omega] using this

/-! The checks of a send in their order (R173, R174). -/

/-- The shape that a destination word must have for a send of the family: its zero fields, and a core that it names. -/
def DestOk (f : SendFn) (w : Word) : Prop := destZero f w = true ∧ namesCore (w.extractLsb' 0 29) = true

theorem destZero_send (w : Word) : destZero .send w = true ↔ w.extractLsb' 29 35 = 0 := by
  rw [zeroBits_append w 29 18 17, and_comm]
  exact Bool.and_eq_true_iff

theorem destZero_reply (w : Word) : destZero .reply w = true ↔ w.extractLsb' 29 35 = 0 := destZero_send w

theorem destZero_sendp (w : Word) : destZero .sendp w = true ↔ w.extractLsb' 47 17 = 0 := by
  simp [destZero, zeroBits, fld]

theorem destZero_sendm (w : Word) : destZero .sendm w = true ↔ w.extractLsb' 40 24 = 0 := by
  rw [zeroBits_append w 40 7 17, and_comm]
  exact Bool.and_eq_true_iff

section Family

variable {f : SendFn} {l : BitVec 1} {a v : BitVec 5} {n : BitVec 4} {c : BitVec 8} {s : State}

theorem sendEff_of_check_some {t : Trap} (h : s.sendCheck f (s.g a) n c = some t) : sendEff f l a v n c s = .trap t := by
  rw [sendEff, h]

theorem sendEff_of_check_none (h : s.sendCheck f (s.g a) n c = none) :
    sendEff f l a v n c s = s.inPackage (fld (s.g a) 0 29) (s.g a) (s.send (s.sendMsg f (s.g a) c (s.payload v n)) (l == 1) 1 .plain) := by
  rw [sendEff, h]

theorem sendCheck_of_not_mayName {w : Word} (h : ¬ MayName s c) : s.sendCheck f w n c = some (.plain cCapability (zext c)) :=
  if_pos (by simp [mayName_eq_false h])

theorem sendCheck_of_not_destOk {w : Word} (hc : MayName s c) (h : ¬ DestOk f w) : s.sendCheck f w n c = some (.plain cPlacement w) := by
  have hd : (!destZero f w || !namesCore (fld w 0 29)) = true := by
    by_contra hn
    simp only [Bool.or_eq_true, Bool.not_eq_true', not_or, Bool.not_eq_false] at hn
    exact h hn
  unfold State.sendCheck
  dsimp only
  rw [if_neg (by simp [(mayName_iff s c).mpr hc]), if_pos hd]

/-- The checks that every send shares have passed: those of its own kind are left. -/
theorem sendCheck_of_destOk {w : Word} (hc : MayName s c) (h : DestOk f w) : (!s.mayName c) = false ∧ (!destZero f w || !namesCore (fld w 0 29)) = false := by
  refine ⟨by rw [(mayName_iff s c).mpr hc]; rfl, ?_⟩
  rw [h.1, show namesCore (fld w 0 29) = true from h.2]
  rfl

theorem sendCheck_send {w : Word} (hc : MayName s c) (h : DestOk .send w) : s.sendCheck .send w n c = none := by
  obtain ⟨hm, hd⟩ := sendCheck_of_destOk hc h
  simp [State.sendCheck, hm, hd]

theorem sendCheck_reply {w : Word} (hc : MayName s c) (h : DestOk .reply w) : s.sendCheck .reply w n c = none := by
  obtain ⟨hm, hd⟩ := sendCheck_of_destOk hc h
  simp [State.sendCheck, hm, hd]

theorem sendCheck_sendp {w : Word} (hc : MayName s c) (h : DestOk .sendp w) : s.sendCheck .sendp w n c =
    if (fld w 29 18).toNat % 16 ≠ 0 then some (.plain cAlign (zext (fld w 29 18)))
    else if 0x40000 < (fld w 29 18).toNat + 32 * n.toNat then some (.plain cPlacement (zext (fld w 29 18))) else none := by
  obtain ⟨hm, hd⟩ := sendCheck_of_destOk hc h
  simp [State.sendCheck, hm, hd, zext]

theorem sendCheck_sendm {w : Word} (hc : MayName s c) (h : DestOk .sendm w) : s.sendCheck .sendm w n c =
    if 31 < yOf (fld w 0 29) ∨ 47 < xOf (fld w 0 29) + (fld w 29 6).toNat ∨ 31 < yOf (fld w 0 29) + (fld w 35 5).toNat then some (.plain cPlacement w) else none := by
  obtain ⟨hm, hd⟩ := sendCheck_of_destOk hc h
  simp [State.sendCheck, hm, hd]

/-- A send whose checks pass, in its package. -/
theorem sendEff_sends {i : Instr} (hi : exec i s = finish 4 s (sendEff f l a v n c s)) (hp : NotJoined s ∨ pkgOf (fld (s.g a) 0 29) = pkgOf s.at_)
    (h : s.sendCheck f (s.g a) n c = none) : SendsOne i 4 (s.sendMsg f (s.g a) c (s.payload v n)) (l == 1) .plain s :=
  sendsPart_of_send (hi.trans (by rw [sendEff_of_check_none h, inPackage_of_allowed hp]))

/-- A send whose checks pass, to another package (R279). -/
theorem sendEff_away {i : Instr} (hi : exec i s = finish 4 s (sendEff f l a v n c s)) (h : s.sendCheck f (s.g a) n c = none) (hj : ¬ NotJoined s)
    (hd : pkgOf (fld (s.g a) 0 29) ≠ pkgOf s.at_) : Traps i (.plain cAscent (s.g a)) s :=
  traps_of_trap hi (by rw [sendEff_of_check_none h, inPackage_of_away hj hd])

theorem sendEff_traps {i : Instr} {t : Trap} (hi : exec i s = finish 4 s (sendEff f l a v n c s)) (h : s.sendCheck f (s.g a) n c = some t) : Traps i t s :=
  traps_of_trap hi (sendEff_of_check_some h)

end Family

/-- The kind of a `send`: system for class-S work on a system channel (R171, R174). -/
theorem sysKind_of_system {b : Bool} {c : BitVec 8} (h : b = true ∧ ¬ (15 < c.toNat ∧ c.toNat < 248) ∧ c.toNat < 252) : sysKind b c = 3 := by
  obtain ⟨hb, hu, hr⟩ := h
  refine if_pos ?_
  simp only [hb, sysChannel, Bool.true_and, Bool.or_eq_true, Bool.and_eq_true, decide_eq_true_eq]
  omega

theorem sysKind_of_not_system {b : Bool} {c : BitVec 8} (h : ¬ (b = true ∧ ¬ (15 < c.toNat ∧ c.toNat < 248) ∧ c.toNat < 252)) : sysKind b c = 0 := by
  refine if_neg fun hs => h ?_
  simp only [sysChannel, Bool.and_eq_true, Bool.or_eq_true, decide_eq_true_eq] at hs
  exact ⟨hs.1, by omega, by omega⟩

/-! `jdec` and `lend`. -/

theorem jdecEff_of_bad_dest {l : BitVec 1} {a : BitVec 5} {k : BitVec 8} {s : State} (h : isCompute (fld (s.g a) 0 29) = false ∨ (s.g a).extractLsb' 47 17 ≠ 0) :
    jdecEff l a k s = .trap (.plain cPlacement (s.g a)) := by
  refine if_pos ?_
  simpa [zeroBits, fld, or_comm] using h

section Jdec

variable {l : BitVec 1} {a : BitVec 5} {k : BitVec 8} {s : State} (hc : isCompute (fld (s.g a) 0 29) = true) (hz : (s.g a).extractLsb' 47 17 = 0)
include hc hz

theorem jdecEff_of_dest : jdecEff l a k s =
    if (fld (s.g a) 29 18).toNat % 16 ≠ 0 then .trap (.plain cAlign (zext (fld (s.g a) 29 18)))
    else s.inPackage (fld (s.g a) 0 29) (s.g a) (s.send (.uni (fld (s.g a) 0 29) kSystem 8 (fld (s.g a) 29 18) [descFlit 0x20 0 0 0 (zext k) 0 0]) (l == 1) 1 .plain) := by
  refine if_neg ?_
  simpa [zeroBits, fld, hz] using hc

theorem jdecEff_of_aligned (ha : (fld (s.g a) 29 18).toNat % 16 = 0) : jdecEff l a k s =
    s.inPackage (fld (s.g a) 0 29) (s.g a) (s.send (.uni (fld (s.g a) 0 29) kSystem 8 (fld (s.g a) 29 18) [descFlit 0x20 0 0 0 (zext k) 0 0]) (l == 1) 1 .plain) :=
  (jdecEff_of_dest hc hz).trans (if_neg fun h => h ha)

end Jdec

/-- Settles O17: each send is its checks in order, then the package that it goes to, then one send by the mode of its entry. -/
theorem sends : Obligations.Sends := by
  constructor
  · intro s l a v n c k w ca hp na pay sys
    refine ⟨fun hc hn hz => ⟨fun hs => ?_, fun hs => ?_, ?_⟩, fun hc hn hz ha he => ?_, fun hc hn hz hy hx => ?_, fun hn hz ha => ?_, fun h => ?_, fun hl hv => ?_⟩
    · have h := sendEff_sends (i := .send l a v n c) rfl hp (sendCheck_send hc ⟨(destZero_send w).mpr hz, hn⟩)
      rwa [State.sendMsg, sysKind_of_system hs] at h
    · have h := sendEff_sends (i := .send l a v n c) rfl hp (sendCheck_send hc ⟨(destZero_send w).mpr hz, hn⟩)
      rwa [State.sendMsg, sysKind_of_not_system hs] at h
    · exact sendEff_sends rfl hp (sendCheck_reply hc ⟨(destZero_reply w).mpr hz, hn⟩)
    · exact sendEff_sends rfl hp ((sendCheck_sendp hc ⟨(destZero_sendp w).mpr hz, hn⟩).trans ((if_neg fun h => h ha).trans (if_neg (Nat.not_lt.mpr he))))
    · refine sendEff_sends rfl hp ((sendCheck_sendm hc ⟨(destZero_sendm w).mpr hz, hn⟩).trans (if_neg ?_))
      simp only [not_or, Nat.not_lt]
      exact ⟨le_trans (Nat.le_add_right ..) hy, hx, hy⟩
    · refine sendsPart_of_send (i := .jdec l a k) (len := 4) ?_
      exact congrArg (finish 4 s) ((jdecEff_of_aligned hn hz ha).trans (inPackage_of_allowed hp _ _))
    · exact ⟨_, congrArg (finish 4 s) (if_pos h), self_retire s 4⟩
    · refine sendsPart_of_send (i := .lend) (len := 4) (congrArg (finish 4 s) (if_neg ?_))
      exact fun h => h.elim hl fun h => Bool.false_ne_true (hv.symm.trans h)
  · intro s l a v n c k w ca na place away
    have hsend (hz : w.extractLsb' 29 35 = 0) (hn : namesCore ca = true) : DestOk .send w := ⟨(destZero_send w).mpr hz, hn⟩
    have hreply (hz : w.extractLsb' 29 35 = 0) (hn : namesCore ca = true) : DestOk .reply w := ⟨(destZero_reply w).mpr hz, hn⟩
    have hsendp (hz : w.extractLsb' 47 17 = 0) (hn : namesCore ca = true) : DestOk .sendp w := ⟨(destZero_sendp w).mpr hz, hn⟩
    have hsendm (hz : w.extractLsb' 40 24 = 0) (hn : namesCore ca = true) : DestOk .sendm w := ⟨(destZero_sendm w).mpr hz, hn⟩
    have hshape {f : SendFn} {z : Prop} (hf : destZero f w = true ↔ z) (h : namesCore ca = false ∨ ¬ z) : ¬ DestOk f w :=
      fun hd => h.elim (fun hn => Bool.false_ne_true (hn.symm.trans hd.2)) fun hz => hz (hf.mp hd.1)
    refine ⟨fun hc i hi => ?_, fun hc => ⟨fun h => ⟨?_, ?_⟩, fun h => ?_, fun hn hz ha => ?_, fun hn hz ha he => ?_, fun h => ?_, fun hn hz => ⟨?_, ?_⟩, fun hn hz ha he => ?_,
      fun hn hz hy hx => ?_⟩, fun hn hz ha hj hd => ?_, fun h => ?_, fun hn hz ha => ?_⟩
    · simp only [List.mem_cons, List.not_mem_nil, or_false] at hi
      rcases hi with rfl | rfl | rfl | rfl
      · exact sendEff_traps rfl (sendCheck_of_not_mayName hc)
      · exact sendEff_traps rfl (sendCheck_of_not_mayName hc)
      · exact sendEff_traps rfl (sendCheck_of_not_mayName hc)
      · exact sendEff_traps rfl (sendCheck_of_not_mayName hc)
    · exact sendEff_traps rfl (sendCheck_of_not_destOk hc (hshape (destZero_send w) h))
    · exact sendEff_traps rfl (sendCheck_of_not_destOk hc (hshape (destZero_reply w) h))
    · exact sendEff_traps rfl (sendCheck_of_not_destOk hc (hshape (destZero_sendp w) h))
    · exact sendEff_traps rfl ((sendCheck_sendp hc (hsendp hz hn)).trans (if_pos ha))
    · exact sendEff_traps rfl ((sendCheck_sendp hc (hsendp hz hn)).trans ((if_neg fun h => h ha).trans (if_pos he)))
    · by_cases hd : DestOk .sendm w
      · refine sendEff_traps rfl ((sendCheck_sendm hc hd).trans (if_pos ?_))
        have hn : namesCore ca ≠ false := fun hn => Bool.false_ne_true (hn.symm.trans hd.2)
        have hz : w.extractLsb' 40 24 = 0 := (destZero_sendm w).mp hd.1
        exact (h.resolve_left hn).elim (fun h => absurd hz h) fun h => Or.inr h.symm
      · exact sendEff_traps rfl (sendCheck_of_not_destOk hc hd)
    · exact sendEff_away rfl (sendCheck_send hc (hsend hz hn))
    · exact sendEff_away rfl (sendCheck_reply hc (hreply hz hn))
    · exact sendEff_away rfl ((sendCheck_sendp hc (hsendp hz hn)).trans ((if_neg fun h => h ha).trans (if_neg (Nat.not_lt.mpr he))))
    · refine sendEff_away rfl ((sendCheck_sendm hc (hsendm hz hn)).trans (if_neg ?_))
      simp only [not_or, Nat.not_lt]
      exact ⟨le_trans (Nat.le_add_right ..) hy, hx, hy⟩
    · exact traps_of_trap (i := .jdec l a k) rfl ((jdecEff_of_aligned hn hz ha).trans (inPackage_of_away hj hd _ _))
    · exact traps_of_trap (i := .jdec l a k) rfl (jdecEff_of_bad_dest h)
    · exact traps_of_trap (i := .jdec l a k) rfl ((jdecEff_of_dest hn hz).trans (if_pos ha))

end Sys2Proof.Safety
end

section
/-! PROOFS. Arrivals, refusals, spill rings and settlement (R154 to R156, R171, R177 to R179, R236, R245, R255). -/

namespace Sys2Proof.Safety

open Sys2Proof.Machine

/-! Refusals (R154, R156). -/

theorem messageArrival_of_takes {s t : State} {m : Msg} (h : TakesRouted s m t) (hi : s.eventFor m = .messageArrival) : exec .messageArrival s = .next (t.arriveMsg m) := by
  have hr : s.roleNext .messageArrival = none := hi ▸ h.1.choose_spec.1
  show execMessageArrival s = _
  rw [execMessageArrival, hr]
  dsimp only
  rw [Laws.arrive_of_takes h.1 (by simp [hi]), Laws.routeThen_of_routed h.2]

section Arrival

variable {t : State} {m : Msg}

/-- A put-kind message to a channel that takes puts, at a core that holds memory. -/
def IsPut (t : State) (m : Msg) : Prop := m.kind = kPut ∧ m.ch.toNat < 252 ∧ m.ch ≠ 8 ∧ isPoolAgent t.at_ = false

theorem arriveMsg_of_put (h : IsPut t m) : t.arriveMsg m = t.arrivePut m := if_pos (by simpa [IsPut] using h)

theorem arriveMsg_of_refused {r : Refused} (hp : ¬ IsPut t m) (h : t.refusal m = some r) : t.arriveMsg m = t.refuse m r := by
  rw [State.arriveMsg, if_neg (by simpa [IsPut] using hp), h]

theorem arriveMsg_of_accepted (hp : ¬ IsPut t m) (h : t.refusal m = none) : t.arriveMsg m = t.accept m := by
  rw [State.arriveMsg, if_neg (by simpa [IsPut] using hp), h]

theorem refusal_at_poolAgent (hp : isPoolAgent t.at_ = true) : t.refusal m = some (.nack cPlacement (zext m.dst)) := if_pos hp

theorem refusal_of_lost (hp : isPoolAgent t.at_ = false) (hl : 252 ≤ m.ch.toNat ∨ m.ch = 8) : t.refusal m = some (.nack cPlacement (zext m.ch)) :=
  (if_neg (by simp [hp])).trans (if_pos hl)

section Served

variable (hp : isPoolAgent t.at_ = false) (hl : ¬ (252 ≤ m.ch.toNat ∨ m.ch = 8))
include hp hl

theorem refusal_of_foreign (hf : t.foreign m = true) : t.refusal m = if t.fits m then none else some .quota :=
  (if_neg (by simp [hp])).trans ((if_neg hl).trans (if_pos hf))

theorem refusal_of_unknown (hf : t.foreign m = false) (hk : ¬ (bit (t.here.entry m.ch) 63 = true ∨ t.here.vendorHolds t.at_ m.ch = true)) :
    t.refusal m = some (.nack cPlacement (zext m.ch)) :=
  (if_neg (by simp [hp])).trans ((if_neg hl).trans ((if_neg (by simp [hf])).trans (if_pos (by simpa using hk))))

theorem refusal_of_known (hf : t.foreign m = false) (hk : bit (t.here.entry m.ch) 63 = true ∨ t.here.vendorHolds t.at_ m.ch = true) :
    t.refusal m = if t.mustSpill m && !t.fits m then some .quota else none :=
  (if_neg (by simp [hp])).trans ((if_neg hl).trans ((if_neg (by simp [hf])).trans (if_neg (by rcases hk with hk | hk <;> simp [hk]))))

end Served

theorem fits_iff (hc : m.ch ≠ 249) : t.fits m = true ↔ t.here.net.ringUse m.ten + (32 + 32 * m.pay.length) ≤ t.quota m.ten := by
  rw [State.fits, beq_eq_false_iff_ne.mpr hc, Bool.false_or, decide_eq_true_iff]
  rfl

theorem mustSpill_iff : t.mustSpill m = true ↔ 4 ≤ (t.here.net.queue m.ch).length ∨ t.ringHas m.ch = true := by
  simp [State.mustSpill]

theorem vendorHolds_iff {c : Core} {a : CoreAddr} {ch : BitVec 8} : c.vendorHolds a ch = true ↔ vendorChannel a ch = true ∧ look c.live.handlers ch.toNat = none := by
  simp [Core.vendorHolds]

/-! What becomes of an accepted message (R154, R155, R181). -/

/-- The image of an engine's role takes a message of its channel at once: nothing keeps it from running, and nothing of the channel waits. -/
def RoleReady (t : State) (ch : BitVec 8) : Prop :=
  isEngine t.at_ = true ∧ (vendorChannel t.at_ ch = true ∧ look t.here.live.handlers ch.toNat = none) ∧ t.here.live.chmask.getLsbD ch.toNat = false ∧
    t.here.dbg.stopping = false ∧ t.here.net.queue ch = [] ∧ ∀ r ∈ t.here.net.rings, ∀ e ∈ r.2, e.early = false → e.msg.ch ≠ ch

theorem roleReady_iff (t : State) (ch : BitVec 8) : (t.roleTakes ch && !t.roleWaits ch) = true ↔ RoleReady t ch := by
  have hw : t.roleTakes ch = true → (t.roleWaits ch = false ↔ t.here.net.queue ch = [] ∧ ∀ r ∈ t.here.net.rings, ∀ e ∈ r.2, e.early = false → e.msg.ch ≠ ch) := fun ht => by
    have hr : isEngine t.at_ = true ∧ roleChannel t.at_ ch = true := by
      simp only [State.roleTakes, Core.vendorHolds, vendorChannel, Bool.and_eq_true] at ht
      obtain ⟨⟨⟨he, hv, -⟩, -⟩, -⟩ := ht
      exact ⟨he, by simpa [he] using hv⟩
    simp [State.roleWaits, ht, hr, Iface.queue]
  rw [Bool.and_eq_true, Bool.not_eq_true', and_congr_right hw]
  simp only [State.roleTakes, RoleReady, Bool.and_eq_true, Bool.not_eq_true', vendorHolds_iff, bit, and_assoc]

/-- Where nothing of its channel waits, a message need not spill. -/
theorem mustSpill_of_roleReady (h : RoleReady t m.ch) : t.mustSpill m = false := by
  obtain ⟨-, -, -, -, hq, hr⟩ := h
  simp only [State.mustSpill, State.ringHas, hq, List.length_nil, Bool.or_eq_false_iff, List.any_eq_false, Bool.and_eq_true, List.any_eq_true, Bool.not_eq_true',
    beq_iff_eq, not_and, not_exists]
  exact ⟨by decide, fun r hm _ e he ha => hr r hm e he ha⟩

section Ordinary

variable (hc : m.ch ≠ 249)
include hc

theorem accept_eq : t.accept m =
    if t.foreign m then t.toRing m false false
    else if t.roleTakes m.ch && !t.roleWaits m.ch then (t.settle m).keepReport m
    else (if t.mustSpill m then t.toRing m false (t.twin m.ch).isSome else t.enqueue m).copyToTwin m := by
  have hb : (m.ch == 249) = false := beq_eq_false_iff_ne.mpr hc
  simp only [State.accept, hb, Bool.false_and, Bool.false_eq_true, if_false]

theorem accept_of_foreign (hf : t.foreign m = true) : t.accept m = t.toRing m false false := (accept_eq hc).trans (if_pos hf)

theorem accept_of_roleReady (hf : t.foreign m = false) (hr : RoleReady t m.ch) : t.accept m = (t.settle m).keepReport m :=
  (accept_eq hc).trans ((if_neg (by simp [hf])).trans (if_pos ((roleReady_iff t m.ch).mpr hr)))

theorem accept_of_full (hf : t.foreign m = false) (hr : ¬ RoleReady t m.ch) (hs : t.mustSpill m = true) :
    t.accept m = (t.toRing m false (t.twin m.ch).isSome).copyToTwin m :=
  (accept_eq hc).trans ((if_neg (by simp [hf])).trans ((if_neg fun h => hr ((roleReady_iff t m.ch).mp h)).trans (by rw [if_pos hs])))

theorem accept_of_room (hf : t.foreign m = false) (hr : ¬ RoleReady t m.ch) (hs : ¬ t.mustSpill m = true) : t.accept m = (t.enqueue m).copyToTwin m :=
  (accept_eq hc).trans ((if_neg (by simp [hf])).trans ((if_neg fun h => hr ((roleReady_iff t m.ch).mp h)).trans (by rw [if_neg hs])))

end Ordinary

/-! The twin of a paired channel (R255), which the interfaces do not decide. -/

theorem twin_modNet (f : Iface → Iface) (ch : BitVec 8) : (t.modNet f).twin ch = t.twin ch := by
  have hcore (a : CoreAddr) : ((t.modNet f).core a).images = (t.core a).images ∧ ((t.modNet f).core a).live = (t.core a).live ∧
      ((t.modNet f).core a).regs = (t.core a).regs := by
    by_cases h : a = t.at_
    · simp [State.core, h]
    · simp [State.core, h]
  simp only [State.twin, Core.entry, State.modNet_at, State.modNet_here_images, State.modNet_here_live, State.modNet_here_regs, (hcore _).1, (hcore _).2.1, (hcore _).2.2] <;> rfl

theorem twin_settle (ch : BitVec 8) : (t.settle m).twin ch = t.twin ch := rfl

theorem twin_enqueue (ch : BitVec 8) : (t.enqueue m).twin ch = t.twin ch := (twin_settle ch).trans (twin_modNet (fun n => n.append m) ch)

theorem copyToTwin_of_none (h : t.twin m.ch = none) : t.copyToTwin m = t := by rw [State.copyToTwin, h]

theorem copyToTwin_of_some {a : CoreAddr} (h : t.twin m.ch = some a) :
    t.copyToTwin m = t.modCore a fun c => { c with net := c.net.join { m with hdr := m.hdr ||| 4 } true } := by rw [State.copyToTwin, h]

end Arrival

section Arrivals

variable {s : State} {m : Msg} {t : State}

/-- What an ordinary message does on its arrival, unless it is put-kind: a refusal, or its place. -/
theorem messageArrival_of_refused (h : TakesRouted s m t) (hi : s.eventFor m = .messageArrival) (hp : ¬ IsPut t m) {r : Refused} (hr : t.refusal m = some r) :
    Comes .messageArrival s (t.refuse m r) :=
  (messageArrival_of_takes h hi).trans (by rw [arriveMsg_of_refused hp hr])

theorem messageArrival_of_accepted (h : TakesRouted s m t) (hi : s.eventFor m = .messageArrival) (hp : ¬ IsPut t m) (hr : t.refusal m = none) {u : State}
    (hu : t.accept m = u) : Comes .messageArrival s u :=
  (messageArrival_of_takes h hi).trans (by rw [arriveMsg_of_accepted hp hr, hu])

/-- A put-kind message to a channel that no barrier record is bound to, and that nothing refuses, is written under the windows of R203 and then placed. -/
theorem messageArrival_of_put (h : TakesRouted s m t) (hi : s.eventFor m = .messageArrival) (hp : IsPut t m) (hb : t.barrier m = none) (hr : t.refusal m = none) :
    (∀ key, t.homeCheck m.ten .write true m.paddr m.bytes.length = .ok key →
      Comes .messageArrival s (((t.homeWrite key m.paddr m.bytes).watch false true m.ten [(m.paddr, m.bytes.length)]).accept m)) ∧
    (∀ c v, t.homeCheck m.ten .write true m.paddr m.bytes.length = .error (c, v) → Comes .messageArrival s (t.homeRefuse m c v)) := by
  have hx := (messageArrival_of_takes h hi).trans (by rw [arriveMsg_of_put hp, State.arrivePut, hb])
  dsimp only at hx
  rw [hr] at hx
  refine ⟨fun key hk => ?_, fun c v he => ?_⟩
  · rwa [hk] at hx
  · rwa [he] at hx

end Arrivals

/-! Spill rings (R155, R236). -/

theorem spill_of_unserved {s : State} (h : s.spillServed = false) : exec .spill s = .next s := by
  have hn : s.spilling = none := if_neg (by simp [h])
  show execSpill s = _
  rw [execSpill, hn]

theorem spill_of_oldest {s : State} {k : Nat} {e : SpillEntry} (hs : s.spillServed = true)
    (h : (s.here.net.rings.findSome? fun r => (r.2.find? fun e => !e.written).map fun e => (r.1, e)) = some (k, e)) :
    let t := s.modNet fun n => { n with
      rings := putD n.rings k (mapFirst (fun x => !x.written) (fun x => { x with written := true }) ((look n.rings k).getD [])) [] }
    exec .spill s = .next (if e.early then t else t.settle e.msg) := by
  have hn : s.spilling = some (k, e) := (if_pos hs).trans h
  show execSpill s = _
  rw [execSpill, hn]

theorem spillReturn_of_returnable {s : State} {k : Nat} {e : SpillEntry} (hq : (s.here.net.queue (BitVec.ofNat 8 s.ev.idx)).length < 4) (hw : s.here.swapping = false)
    (h : s.returnable (BitVec.ofNat 8 s.ev.idx) = some (k, e)) :
    let ch : BitVec 8 := BitVec.ofNat 8 s.ev.idx
    let t := s.modNet fun n => { n.setQueue ch (n.queue ch ++ [{ msg := e.msg, running := false, drops := 0, seq := e.seq }]) with
      rings := putD n.rings k (dropFirst (fun x => x == e) ((look n.rings k).getD [])) [] }
    exec .spillReturn s = .next ((if e.copied then t else t.copyToTwin e.msg).rearm e.msg.ten) := by
  show execSpillReturn s = _
  rw [execSpillReturn, if_neg (by simp [hw]), State.spillBack, if_neg (Nat.not_le.mpr hq), h]

/-! Settlement and NACKs (R177, R245). -/

theorem settleAck_of_sent {s : State} {a : Ack} {r : SentRec} (ha : (s.acks.filter fun a => a.src == s.at_ && a.dst == s.ev.src)[s.ev.idx]? = some a)
    (hr : (s.here.net.sent.find? fun r => r.dst == a.dst && r.pseq == a.pseq) = some r) :
    let t : State := { s with acks := dropFirst (fun b => b == a) s.acks }
    exec .settleAck s = .next (if a.nacked then
        t.modNet fun n => { n with sent := mapFirst (fun x => x.dst == a.dst && x.pseq == a.pseq) (fun x => { x with done := true }) n.sent }
      else (t.modNet fun n => n.unsend a.dst a.pseq).settledWaiter r.who) := by
  have ha' : (s.acksFrom s.ev.src)[s.ev.idx]? = some a := ha
  have hr' : s.here.net.sentTo a.dst a.pseq = some r := hr
  show execSettleAck s = _
  rw [execSettleAck, ha']
  dsimp only
  rw [hr']

theorem settledWaiter_of_other {s : State} {w : Waiter} (h : ∀ id off, w ≠ .copyWrite id off) : s.settledWaiter w = s := by
  cases w with
  | copyWrite id off => exact absurd rfl (h id off)
  | _ => rfl

theorem nack_of_plain {s t : State} {m : Msg} {r : SentRec} (h : Takes s m t) (hn : m.isNack = true)
    (hr : t.here.net.sentTo (fld m.refused 99 29) (fld m.refused 30 16) = some r) (hw : r.who = .plain) :
    exec .nack s = .next (((t.modNet fun n => n.unsend (fld m.refused 99 29) (fld m.refused 30 16)).settle m).nackRecord m r m.refused) := by
  have he : s.eventFor m = .nack := by
    have hk : (m.kind == kSystem) = false := by
      simp only [Msg.isNack, Bool.and_eq_true, beq_iff_eq] at hn
      rw [hn.1]
      rfl
    rw [State.eventFor, hk, Bool.false_and, if_neg Bool.false_ne_true, eventOf, if_pos hn]
  show execNack s = _
  rw [execNack, Laws.takes_of_takes h he rfl, State.nackArrives, hr]
  dsimp only
  rw [hw]

/-! The record that a NACK becomes, by what was refused (R240, R245). -/

section Record

variable {s : State} {m : Msg} {r : SentRec} {hdr : BitVec 128}

theorem nackRecord_of_glob (hg : r.glob = true) : s.nackRecord m r hdr = s.asyncRecord (m.byte 0) r.cid m.src r.off false r.space (m.dw 1) r.org := by
  simp only [State.nackRecord, hg, if_true, Bool.not_true, Bool.and_false]

theorem nackRecord_of_put (hg : r.glob = false) (hp : fld hdr 24 2 = kPut) :
    s.nackRecord m r hdr = s.asyncRecord (m.byte 0) r.cid m.src (zext (fld hdr 6 18)) true 0 (m.dw 1) r.org := by
  simp only [State.nackRecord, hg, hp, beq_self_eq_true, Bool.false_eq_true, if_true, if_false, Bool.not_false, Bool.and_true]

theorem nackRecord_of_other (hg : r.glob = false) (hp : ¬ fld hdr 24 2 = kPut) :
    s.nackRecord m r hdr = s.asyncRecord (m.byte 0) r.cid m.src 0 false 0 (m.dw 1) r.org := by
  simp only [State.nackRecord, hg, beq_eq_false_iff_ne.mpr hp, Bool.false_eq_true, if_false, Bool.false_and]

end Record

/-! The egress (R178, R179). -/

/-- An earlier message of the activation of an L send that still stands unsettled. -/
def HeldByEarlier (n : Iface) (x : OutItem) : Prop := x.l = true ∧ x.org.aseq ≠ 0 ∧ ∃ r ∈ n.sent, r.done = false ∧ r.org.aseq = x.org.aseq ∧ r.ord < x.ord

section Egress

variable {n : Iface} {x y : OutItem} {d : CoreAddr} {k : BitVec 2} {ch : BitVec 8} {pa : BitVec 18} {pay : List Strip}

theorem canLeave_of_full {blocked : List OutItem} (hx : x.send = .uni d k ch pa pay) (h : ¬ n.unsettled d < 32768) : canLeave n blocked x = false := by
  simp [canLeave, hx, Send.dsts, Send.copies, h]

theorem canLeave_of_held (h : HeldByEarlier n x) : canLeave n [] x = false := by
  obtain ⟨hl, ha, r, hr, hd, hs, ho⟩ := h
  have he : earlierSettled n [] x.org.aseq x.ord = false := by
    simp only [earlierSettled, Bool.and_eq_false_iff, Bool.not_eq_false', List.any_eq_true, Bool.and_eq_true, Bool.not_eq_true', beq_iff_eq, decide_eq_true_eq]
    exact Or.inl ⟨r, hr, ⟨hd, hs⟩, ho⟩
  rw [canLeave, hl, beq_eq_false_iff_ne.mpr ha, he, Bool.not_true, Bool.false_or, Bool.false_or, Bool.and_false, Bool.false_and, Bool.false_and]

/-- A send behind a blocked one of its own activation to the same destination. -/
theorem canLeave_behind (hx : x.send = .uni d k ch pa pay) {k' : BitVec 2} {ch' : BitVec 8} {pa' : BitVec 18} {pay' : List Strip} (hy : y.send = .uni d k' ch' pa' pay')
    (ha : y.org.aseq ≠ 0) (hs : y.org.aseq = x.org.aseq) : canLeave n [x] y = false := by
  have hb : behind [x] y = true := Bool.and_eq_true_iff.mpr ⟨bne_iff_ne.mpr ha, by simp [hs, hx, hy, Send.dsts, Send.copies]⟩
  rw [canLeave, hb, Bool.not_true, Bool.and_false]

/-- A send leaves if its destination has room and nothing earlier of its activation stands before it. -/
theorem canLeave_of_free (hx : x.send = .uni d k ch pa pay) (hf : n.unsettled d < 32768) (he : ¬ HeldByEarlier n x) {blocked : List OutItem}
    (hb : ∀ b ∈ blocked, b.org.aseq ≠ x.org.aseq) : canLeave n blocked x = true := by
  have hblock : (blocked.any fun b => b.org.aseq == x.org.aseq && decide (b.ord < x.ord)) = false := by
    simp only [List.any_eq_false, Bool.and_eq_true, beq_iff_eq, not_and]
    exact fun b hm hs => absurd hs (hb b hm)
  have hbehind : behind blocked x = false := by
    simp only [behind, Bool.and_eq_false_iff, List.any_eq_false, Bool.and_eq_true, beq_iff_eq, not_and]
    exact Or.inr fun b hm hs => absurd hs (hb b hm)
  have horder : (!x.l || x.org.aseq == 0 || earlierSettled n blocked x.org.aseq x.ord) = true := by
    by_contra hn
    simp only [Bool.or_eq_true, Bool.not_eq_true', beq_iff_eq, earlierSettled, hblock, Bool.not_false, Bool.and_true, not_or, Bool.not_eq_false, List.any_eq_true,
      Bool.and_eq_true, decide_eq_true_eq] at hn
    obtain ⟨⟨hl, ha⟩, r, hr, ⟨hd, hs⟩, ho⟩ := hn
    exact he ⟨hl, ha, r, hr, hd, hs, ho⟩
  rw [canLeave, horder, hbehind]
  simp [hx, Send.isGlob, Send.dsts, Send.copies, hf]

theorem spread_uni (hx : x.send = .uni d k ch pa pay) : x.spread = [x] := by rw [OutItem.spread, hx]

theorem emit_uni {s : State} (hx : x.send = .uni d k ch pa pay) (hw : ∀ v, x.who ≠ .vote v) : s.emit x = s.emit1 d k ch pa pay x false x.e := by
  have ha : s.emitAll x = s.emit1 d k ch pa pay x false x.e := by rw [State.emitAll, hx]; rfl
  unfold State.emit
  split
  · next v hv => exact absurd hv (hw v)
  · exact ha

theorem drainList_of_leaves {s : State} {blocked rest : List OutItem} (h : canLeave s.here.net blocked x = true) :
    s.drainList blocked (x :: rest) = (s.emit x).drainList blocked rest := if_pos h

theorem drainList_of_stays {s : State} {blocked rest : List OutItem} (h : canLeave s.here.net blocked x = false) :
    s.drainList blocked (x :: rest) = s.drainList (blocked ++ [x]) rest := if_neg (by simp [h])

/-- Sends to known destinations need no lookup. -/
theorem lookups_of_uni {s : State} {l : List OutItem} (h : ∀ x ∈ l, ∃ d k ch pa pay, x.send = .uni d k ch pa pay) (done : List OutItem) (refused : List (OutItem × GReq)) :
    s.lookups done refused l = (s, done ++ l, refused) := by
  induction l generalizing done with
  | nil => rw [State.lookups, List.append_nil]
  | cons x l ih =>
    obtain ⟨d, k, ch, pa, pay, hx⟩ := h x List.mem_cons_self
    rw [State.lookups, hx]
    dsimp only
    rw [ih (fun y hy => h y (List.mem_cons_of_mem x hy)), List.append_assoc]
    rfl

/-- An egress of unicast sends is gone through in order. -/
theorem flush_of_uni {s : State} (h : ∀ x ∈ s.here.net.egress, ∃ d k ch pa pay, x.send = .uni d k ch pa pay) : s.flush = s.drainList [] s.here.net.egress := by
  have hs : s.here.net.egress.flatMap OutItem.spread = s.here.net.egress := by
    refine (List.flatMap_congr fun x hx => ?_).trans (List.flatMap_singleton' _)
    obtain ⟨d, k, ch, pa, pay, he⟩ := h x hx
    exact spread_uni he
  rw [State.flush, lookups_of_uni h]
  show (s.drainList [] (s.here.net.egress.flatMap OutItem.spread)) = _
  rw [hs]

end Egress

/-- Settles O46: an arrival by its refusals and then its place; the rings and settlement by one equation each; the egress by what may leave it. -/
theorem messageOrder : Obligations.MessageOrder := by
  refine ⟨?_, ⟨?_, ?_, ?_⟩, ?_, ?_, ?_⟩
  · intro s m t h hi hc goes ring queued copied fits entry vendor known role full lost
    have hfits : t.fits m = true ↔ fits := fits_iff hc
    have hfull : t.mustSpill m = true ↔ full := mustSpill_iff
    have hvendor : t.here.vendorHolds t.at_ m.ch = true ↔ vendor := vendorHolds_iff
    have hknown : bit (t.here.entry m.ch) 63 = true ∨ t.here.vendorHolds t.at_ m.ch = true ↔ known := or_congr_right hvendor
    refine ⟨fun hp => ?_, fun hp hl => ?_, fun hl hp hk => ?_, fun hl hp hk hb hr => ?_⟩
    · exact messageArrival_of_refused h hi (fun hu => Bool.false_ne_true (hu.2.2.2.symm.trans hp)) (refusal_at_poolAgent hp)
    · refine messageArrival_of_refused h hi (fun hu => ?_) (refusal_of_lost hp hl)
      exact hl.elim (fun hl => absurd hu.2.1 (Nat.not_lt.mpr hl)) hu.2.2.1
    · have hput : ¬ IsPut t m := fun hu => hk hu.1
      have refused {r : Refused} (hr : t.refusal m = some r) := messageArrival_of_refused h hi hput hr
      have accepted {u : State} (hr : t.refusal m = none) (hu : t.accept m = u) := messageArrival_of_accepted h hi hput hr hu
      have hforeign (hf : t.foreign m = true) := refusal_of_foreign hp hl hf
      have hlessee (hf : t.foreign m = false) (hk : known) := refusal_of_known hp hl hf (hknown.mpr hk)
      have hroom (hf : t.foreign m = false) (hk : known) (hs : full → fits) : t.refusal m = none :=
        (hlessee hf hk).trans (if_neg (by rw [Bool.and_eq_true, Bool.not_eq_true', hfull]; exact fun ⟨hu, hn⟩ => Bool.false_ne_true (hn.symm.trans (hfits.mpr (hs hu)))))
      have spilled (hf : t.foreign m = false) (hr : ¬ role) (hu : full) : t.accept m = (t.toRing m false (t.twin m.ch).isSome).copyToTwin m :=
        accept_of_full hc hf hr (hfull.mpr hu)
      have placed (hf : t.foreign m = false) (hr : ¬ role) (hu : ¬ full) : t.accept m = queued.copyToTwin m := accept_of_room hc hf hr (fun hs => hu (hfull.mp hs))
      have htwin : queued.twin m.ch = t.twin m.ch := twin_enqueue m.ch
      refine ⟨fun hf hs => ?_, fun hf hs => ?_, fun hf hn => ?_, fun hf hn hu hs => ?_, fun hf hr => ?_, fun hf hn hr ht hu hs => ?_, fun hf hn hr ht hu => ?_,
        fun hf hn hr a ht => ⟨fun hu hs => ?_, fun hu => ?_⟩⟩
      · exact accepted ((hforeign hf).trans (if_pos (hfits.mpr hs))) (accept_of_foreign hc hf)
      · exact refused ((hforeign hf).trans (if_neg fun h => hs (hfits.mp h)))
      · exact refused (refusal_of_unknown hp hl hf fun h => hn (hknown.mp h))
      · refine refused ((hlessee hf hn).trans (if_pos ?_))
        rw [hfull.mpr hu, Bool.true_and, Bool.not_eq_true']
        exact Bool.eq_false_iff.mpr fun h => hs (hfits.mp h)
      · refine accepted (hroom hf (Or.inr hr.2.1) fun hu => ?_) (accept_of_roleReady hc hf hr)
        exact absurd (hfull.mpr hu) (by simp [mustSpill_of_roleReady (m := m) hr])
      · refine accepted (hroom hf hn fun _ => hs) ((spilled hf hr hu).trans ?_)
        rw [ht]
        exact copyToTwin_of_none ((twin_modNet _ _).trans ht)
      · exact accepted (hroom hf hn fun h => absurd h hu) ((placed hf hr hu).trans (copyToTwin_of_none (htwin.trans ht)))
      · refine accepted (hroom hf hn fun _ => hs) ((spilled hf hr hu).trans ?_)
        rw [ht]
        exact copyToTwin_of_some ((twin_modNet _ _).trans ht)
      · exact accepted (hroom hf hn fun h => absurd h hu) ((placed hf hr hu).trans (copyToTwin_of_some (htwin.trans ht)))
    · exact messageArrival_of_put h hi ⟨hk, by omega, fun h => hl (Or.inr h), hp⟩ hb hr
  · intro s k e hs h t
    refine ⟨fun he => ?_, fun he => ?_⟩
    · exact (spill_of_oldest hs h).trans (by rw [he]; rfl)
    · exact (spill_of_oldest hs h).trans (by rw [he]; rfl)
  · exact fun s => spill_of_unserved
  · intro s k e ch hq hw h t back
    have hback {u : State} (hu : exec .spillReturn s = .next (u.rearm e.msg.ten)) : back u :=
      ⟨fun hn => hu.trans (congrArg _ (if_neg (Nat.not_lt.mpr hn))), fun hlt => hu.trans (congrArg _ (if_pos hlt))⟩
    refine ⟨fun hc => hback ?_, fun hc a ha => hback ?_⟩
    · refine (spillReturn_of_returnable hq hw h).trans ?_
      cases hcp : e.copied with
      | true => rfl
      | false =>
        have ht := hc.resolve_left (by simp [hcp])
        exact congrArg (fun u : State => Host.Outcome.next (u.rearm e.msg.ten)) (copyToTwin_of_none ht)
    · refine (spillReturn_of_returnable hq hw h).trans ?_
      rw [hc]
      exact congrArg (fun u : State => Host.Outcome.next (u.rearm e.msg.ten)) (copyToTwin_of_some ha)
  · intro s a r ha hr sent t
    have hx := settleAck_of_sent ha hr
    refine ⟨fun hn hw => hx.trans ?_, fun hn id off hw => hx.trans ?_, fun hn => hx.trans ?_⟩
    · rw [hn, settledWaiter_of_other hw]
      rfl
    · rw [hn, hw]
      rfl
    · rw [hn]
      rfl
  · intro s m t r h hn hdr dst q put hr hw u
    have hx := nack_of_plain h hn hr hw
    refine ⟨fun hg => hx.trans ?_, fun hg hp => hx.trans ?_, fun hg hp => hx.trans ?_⟩
    · exact congrArg Host.Outcome.next (nackRecord_of_glob hg)
    · exact congrArg Host.Outcome.next (nackRecord_of_put hg hp)
    · exact congrArg Host.Outcome.next (nackRecord_of_other hg hp)
  · intro s a b d k k' ch ch' pa pa' pay pay' ha hb hva hvb free early
    have hone (he : s.here.net.egress = [a]) : s.flush = s.drainList [] [a] := by
      rw [← he]
      exact flush_of_uni (by rw [he]; simp [ha])
    have htwo (he : s.here.net.egress = [a, b]) : s.flush = s.drainList [] [a, b] := by
      rw [← he]
      exact flush_of_uni (by rw [he]; simp [ha, hb])
    refine ⟨fun he hf hn => ?_, fun he hx => ?_, fun he hf hh hne hn => ?_⟩
    · show Host.Outcome.next s.flush = _
      rw [hone he, drainList_of_leaves (canLeave_of_free ha hf hn (by simp)), emit_uni ha hva]
      rfl
    · have h1 : canLeave s.here.net [] a = false := hx.elim (canLeave_of_full ha) fun h => canLeave_of_held h.1
      have h2 : canLeave s.here.net [a] b = false := hx.elim (canLeave_of_full hb) fun h => canLeave_behind ha hb (h.2 ▸ h.1.2.1) h.2
      show Host.Outcome.next s.flush = _
      rw [htwo he, drainList_of_stays h1, List.nil_append, drainList_of_stays h2, List.singleton_append, State.drainList, ← he]
      rfl
    · show Host.Outcome.next s.flush = _
      rw [htwo he, drainList_of_stays (canLeave_of_held hh), List.nil_append,
        drainList_of_leaves (canLeave_of_free hb hf hn (by simpa using fun h => hne h.symm)), emit_uni hb hvb]
      rfl

end Sys2Proof.Safety
end

section
/-! PROOFS. The executable map, image entries and the tables of the system instructions (R36, R304, R311 to R318). -/

namespace Sys2Proof.Safety

open Sys2Proof.Machine

/-! The class check of MO 0x2A (R311). -/

theorem system_of_classN {s : State} (h : s.classS = false) (fn : Nat) (e : Effect) : s.system fn e = .trap (.plain cCapability (BitVec.ofNat 64 fn)) :=
  if_neg (by simp [h])

theorem system_of_classS {s : State} (h : s.classS = true) (fn : Nat) (e : Effect) : s.system fn e = e := if_pos h

theorem writesG_of_setG {i : Instr} {len : Nat} {d : BitVec 5} {v : Word} {s : State} {e : Effect} (h : exec i s = finish len s e) (he : e = .ok (s.setG d v)) :
    WritesG i len d v s :=
  ⟨_, h.trans (congrArg (finish len s) he), setG_retire s len d v⟩

/-! Handler entries, regions, windows and key slots (R153, R316 to R318). -/

theorem zeroBits_one {n : Nat} (w : BitVec n) (i : Nat) : zeroBits w i 1 = !bit w i := by
  cases h : w.getLsbD i with
  | true =>
    have : w.extractLsb' i 1 ≠ 0 := fun he => by simpa [h] using congrArg (·.getLsbD 0) he
    exact (beq_eq_false_iff_ne.mpr this).trans (by rw [bit, h]; rfl)
  | false =>
    have : w.extractLsb' i 1 = 0 := BitVec.eq_of_getLsbD_eq fun j hj => by simp [Nat.lt_one_iff.mp hj, h]
    exact (beq_iff_eq.mpr this).trans (by rw [bit, h]; rfl)

/-- A handler entry that `hset` writes (R153, R221, R255, R316). -/
def EntryAllowed (s : State) (e : Word) (ch : BitVec 8) : Prop :=
  e.extractLsb' 0 15 = 0 ∧ e.extractLsb' 32 16 ≠ 0 ∧ (e.extractLsb' 54 3 = 7 → e.getLsbD 57 = true) ∧ (e.getLsbD 59 = true → e.getLsbD 58 = false ∧ xOf s.at_ < 47) ∧
    ((ch.toNat < 16 ∨ (248 ≤ ch.toNat ∧ ch.toNat < 252)) ∨ isEngine s.at_ = true → e.getLsbD 57 = true) ∧
    (e.getLsbD 63 = true → ∃ i, s.here.images[(e.extractLsb' 29 3).toNat]? = some (some i) ∧ ¬ (i.cls = 0 ∧ e.getLsbD 57 = true))

theorem getElem?_entryImg (s : State) (e : Word) : s.here.images[(e.extractLsb' 29 3).toNat]? = some s.here.images[entryImg e] :=
  Vector.getElem?_eq_getElem (e.extractLsb' 29 3).isLt

theorem sysChannel_iff (ch : BitVec 8) : sysChannel ch = true ↔ ch.toNat < 16 ∨ (248 ≤ ch.toNat ∧ ch.toNat < 252) := by
  simp [sysChannel]

theorem entryOk_eq (s : State) (e : Word) (ch : BitVec 8) : s.entryOk e ch =
    (zeroBits e 0 14 && !bit e 14 && fld e 32 16 != 0 && (fld e 54 3 != 7 || bit e 57) && (!bit e 59 || (!bit e 58 && decide (xOf s.at_ < 47))) &&
      (bit e 57 || !(sysChannel ch || isEngine s.at_)) && (!bit e 63 || (s.here.images[entryImg e]).any fun i => !(i.cls == 0 && bit e 57))) := by
  unfold State.entryOk
  cases s.here.images[entryImg e] with
  | none => rfl
  | some i => rfl

theorem entryOk_iff (s : State) (e : Word) (ch : BitVec 8) : s.entryOk e ch = true ↔ EntryAllowed s e ch := by
  have hzero : zeroBits e 0 14 = true ∧ (!bit e 14) = true ↔ e.extractLsb' 0 15 = 0 := by
    rw [← zeroBits_one]
    exact (zeroBits_append e 0 14 1).symm
  have hbud : (fld e 32 16 != 0) = true ↔ e.extractLsb' 32 16 ≠ 0 := bne_iff_ne
  have hprio : (fld e 54 3 != 7 || bit e 57) = true ↔ (e.extractLsb' 54 3 = 7 → e.getLsbD 57 = true) := by
    rw [Bool.or_eq_true, bne_iff_ne, ← imp_iff_not_or]
    rfl
  have hpair : (!bit e 59 || !bit e 58 && decide (xOf s.at_ < 47)) = true ↔ (e.getLsbD 59 = true → e.getLsbD 58 = false ∧ xOf s.at_ < 47) := by
    rw [Bool.or_eq_true, Bool.not_eq_true', ← Bool.not_eq_true, ← imp_iff_not_or, Bool.and_eq_true, Bool.not_eq_true', decide_eq_true_iff]
    rfl
  have hclass : (bit e 57 || !(sysChannel ch || isEngine s.at_)) = true ↔
      ((ch.toNat < 16 ∨ (248 ≤ ch.toNat ∧ ch.toNat < 252)) ∨ isEngine s.at_ = true → e.getLsbD 57 = true) := by
    rw [← sysChannel_iff, ← Bool.or_eq_true, Bool.or_eq_true, Bool.not_eq_true', ← Bool.not_eq_true, or_comm, ← imp_iff_not_or]
    rfl
  have himg : (!bit e 63 || (s.here.images[entryImg e]).any fun i => !(i.cls == 0 && bit e 57)) = true ↔
      (e.getLsbD 63 = true → ∃ i, s.here.images[(e.extractLsb' 29 3).toNat]? = some (some i) ∧ ¬ (i.cls = 0 ∧ e.getLsbD 57 = true)) := by
    rw [getElem?_entryImg, Bool.or_eq_true, Bool.not_eq_true', ← Bool.not_eq_true, ← imp_iff_not_or, Option.any_eq_true]
    refine imp_congr_right fun _ => exists_congr fun i => and_congr (by rw [Option.some_inj]) ?_
    rw [Bool.not_eq_true', ← Bool.not_eq_true, Bool.and_eq_true, beq_iff_eq]
    rfl
  rw [entryOk_eq, Bool.and_eq_true, himg, Bool.and_eq_true, hclass, Bool.and_eq_true, hpair, Bool.and_eq_true, hprio, Bool.and_eq_true, hbud, Bool.and_eq_true, hzero]
  simp only [EntryAllowed, and_assoc]

/-- A window that `winw` writes (R202, R317). -/
def WindowAllowed (e f : Word) : Prop :=
  e.extractLsb' 37 27 = 0 ∧ f.extractLsb' 4 32 = 0 ∧ f.extractLsb' 40 12 = 0 ∧ ((f ++ e).extractLsb' 18 19).toNat ≤ 0x40000 ∧
    (f.getLsbD 39 = true → (e.extractLsb' 0 18).toNat < ((f ++ e).extractLsb' 18 19).toNat)

theorem windowOk_iff (e f : Word) : windowOk (f ++ e) = true ↔ WindowAllowed e f := by
  have h1 : zeroBits (f ++ e) 37 27 = true ↔ e.extractLsb' 37 27 = 0 := by rw [zeroBits, fld, BitVec.extractLsb'_append_eq_of_add_le (by omega)]; exact beq_iff_eq
  have h2 : zeroBits (f ++ e) 68 32 = true ↔ f.extractLsb' 4 32 = 0 := by rw [zeroBits, fld, BitVec.extractLsb'_append_eq_of_le (by omega)]; exact beq_iff_eq
  have h3 : zeroBits (f ++ e) 104 12 = true ↔ f.extractLsb' 40 12 = 0 := by rw [zeroBits, fld, BitVec.extractLsb'_append_eq_of_le (by omega)]; exact beq_iff_eq
  have hbase : (fld (f ++ e) 0 18 : BitVec 18) = e.extractLsb' 0 18 := BitVec.extractLsb'_append_eq_of_add_le (by omega)
  have hv : bit (f ++ e) 103 = f.getLsbD 39 := BitVec.getLsbD_append
  have hw : (!(f.getLsbD 39 && decide (((f ++ e).extractLsb' 18 19).toNat ≤ (e.extractLsb' 0 18).toNat))) = true ↔
      (f.getLsbD 39 = true → (e.extractLsb' 0 18).toNat < ((f ++ e).extractLsb' 18 19).toNat) := by
    rw [Bool.not_eq_true', ← Bool.not_eq_true, Bool.and_eq_true, decide_eq_true_iff, not_and, Nat.not_le]
  show (_ && _ && _ && !(bit (f ++ e) 103 && decide (((f ++ e).extractLsb' 18 19).toNat ≤ (fld (f ++ e) 0 18 : BitVec 18).toNat)) && _) = true ↔ _
  rw [hv, hbase, Bool.and_eq_true, Bool.and_eq_true, hw, Bool.and_eq_true, Bool.and_eq_true, h1, h2, h3, decide_eq_true_iff]
  unfold WindowAllowed fld
  tauto

/-! The executable map (R36). -/

/-- The number that the bits of a function make, the first at place 0. -/
theorem testBit_foldr_bits (m : Nat) (f : Nat → Bool) (j : Nat) :
    ((List.range m).foldr (fun i n => 2 * n + (if f i then 1 else 0)) 0).testBit j = (decide (j < m) && f j) := by
  induction m generalizing f j with
  | zero => simp
  | succ m ih =>
    rw [List.range_succ_eq_map, List.foldr_cons, List.foldr_map]
    have hb : (if f 0 then 1 else 0) < 2 := by split <;> decide
    cases j with
    | zero =>
      rw [Nat.testBit_zero, Nat.mul_add_mod]
      cases f 0 <;> simp
    | succ j =>
      rw [Nat.testBit_succ, Nat.mul_add_div (by decide), Nat.div_eq_of_lt hb, Nat.add_zero, ih fun i => f (i + 1)]
      simp

/-- The map bits of an extent, and every other bit as before. -/
theorem getLsbD_setMap (x : BitVec 16384) {base xlen : Nat} (f : Nat → Bool) (hb : base % 2 = 0) (hx : xlen % 2 = 0) (hle : base + xlen ≤ 32768) {k : Nat} (hk : k < 16384) :
    (setMap x base xlen f).getLsbD k = if base / 2 ≤ k ∧ k < (base + xlen) / 2 then f (k - base / 2) else x.getLsbD k := by
  have hend : (base + xlen) / 2 = base / 2 + xlen / 2 := by omega
  simp only [setMap, BitVec.getLsbD_or, BitVec.getLsbD_and, BitVec.getLsbD_not, BitVec.getLsbD_shiftLeft, BitVec.getLsbD_ushiftRight, BitVec.getLsbD_allOnes,
    BitVec.getLsbD_ofNat, testBit_foldr_bits, hk, decide_true, Bool.true_and]
  by_cases h1 : base / 2 ≤ k
  · by_cases h2 : k < (base + xlen) / 2
    · simp [h1, h2, show ¬ k < base / 2 by omega, show 16384 - xlen / 2 + (k - base / 2) < 16384 by omega, show k - base / 2 < xlen / 2 by omega, show k - base / 2 < 16384 by omega]
    · simp [h2, show ¬ 16384 - xlen / 2 + (k - base / 2) < 16384 by omega, show ¬ k - base / 2 < xlen / 2 by omega]
  · simp [h1, show k < base / 2 by omega]

/-! Sealed images (R304 to R307, R312, R313). -/

theorem slot_of_imm (n : Fin 8) : (fld (BitVec.ofNat 10 n.val) 0 3 : BitVec 3).toFin = n := by
  revert n
  decide

theorem mod_of_headOk {h : List Byte} (hk : headOk h = true) : headXlen h % 64 = 0 := by
  simp only [headOk, Bool.and_eq_true, beq_iff_eq] at hk
  exact hk.1.2

theorem igtPasses_iff (e : Word) (id : BitVec 32) (gen : BitVec 16) : igtPasses e id gen = true ↔ e.getLsbD 63 = true ∧ e.extractLsb' 0 32 = id ∧ e.extractLsb' 32 16 = gen := by
  simp only [igtPasses, Bool.and_eq_true, beq_iff_eq, and_assoc]
  rfl

theorem mem_spans {c : Core} {xlen b : Nat} (h : b ∈ c.spans xlen) : b % 64 = 0 ∧ b + xlen ≤ 32768 := by
  simp only [Core.spans, List.mem_filter, List.mem_map, Bool.and_eq_true, decide_eq_true_eq] at h
  obtain ⟨⟨i, -, rfl⟩, ⟨hle, -⟩, -⟩ := h
  exact ⟨Nat.mul_mod_right 64 i, hle⟩

section Loading

variable {a d : BitVec 5} {i : BitVec 10} {s : State}

/-! The checks of a staged image in their order (R312). -/

theorem imgldStart_of_header_trap {t : Trap} (h : s.stagedCheck (s.g a) 64 = some t) : imgldStart a d s = .trap t := by
  simp only [imgldStart, h]

section Header

variable (h : s.stagedCheck (s.g a) 64 = none)
include h

theorem imgldStart_of_bad_head (hh : headOk (s.staged0 (s.g a).toNat 64) = false) : imgldStart a d s = .ok (s.setG d 1) := by
  simp only [imgldStart, h, hh, Bool.not_false, if_true]

variable (hh : headOk (s.staged0 (s.g a).toNat 64) = true)
include hh

theorem imgldStart_of_not_mayLoad (hl : s.mayLoad (s.staged0 (s.g a).toNat 64) = false) : imgldStart a d s = .ok (s.setG d 5) := by
  simp only [imgldStart, h, hh, hl, Bool.not_true, Bool.not_false, Bool.false_eq_true, if_true, if_false]

variable (hl : s.mayLoad (s.staged0 (s.g a).toNat 64) = true)
include hl

theorem imgldStart_of_image_trap {t : Trap} (hi : s.stagedCheck (s.g a) (imageBytes (s.staged0 (s.g a).toNat 64)) = some t) : imgldStart a d s = .trap t := by
  simp only [imgldStart, h, hh, hl, hi, Bool.not_true, Bool.false_eq_true, if_false]

variable (hi : s.stagedCheck (s.g a) (imageBytes (s.staged0 (s.g a).toNat 64)) = none)
include hi

theorem imgldStart_of_bad_mac (hm : macOk (s.staged0 (s.g a).toNat (imageBytes (s.staged0 (s.g a).toNat 64))) = false) : imgldStart a d s = .ok (s.setG d 1) := by
  simp only [imgldStart, h, hh, hl, hi, hm, Bool.not_true, Bool.not_false, Bool.false_eq_true, if_true, if_false]

theorem imgldStart_of_good (hm : macOk (s.staged0 (s.g a).toNat (imageBytes (s.staged0 (s.g a).toNat 64))) = true) : imgldStart a d s =
    .wait (s.modAct fun v => { v with part := .igt (s.staged0 (s.g a).toNat (imageBytes (s.staged0 (s.g a).toNat 64))) }) true := by
  simp only [imgldStart, h, hh, hl, hi, hm, Bool.not_true, Bool.false_eq_true, if_false]

end Header

theorem imgldEff_of_start (h : ∀ img, s.act.part ≠ .igt img) : imgldEff a d i s = imgldStart a d s := by
  unfold imgldEff
  split
  · next img he => exact absurd he (h img)
  · rfl

theorem imgldEff_of_reply {img : List Byte} (h : s.act.part = .igt img) : imgldEff a d i s =
    .ok ((s.loadFound (fld i 0 3 : BitVec 3).toFin img).2.setG d (BitVec.ofNat 64 (s.loadFound (fld i 0 3 : BitVec 3).toFin img).1)) := by
  rw [imgldEff, h]

end Loading

section Found

variable {s : State} {n : Fin 8} {img : List Byte}

theorem loadFound_of_unknown (h : igtPasses (s.home.igtEntry (headId img)) (headId img) (headGen img) = false) : s.loadFound n img = (2, s) :=
  if_pos (by simp [h])

variable (h : igtPasses (s.home.igtEntry (headId img)) (headId img) (headGen img) = true)
include h

theorem loadFound_of_taken (hn : s.here.images[n] ≠ none) : s.loadFound n img = (3, s) :=
  (if_neg (by simp [h])).trans (if_pos (Option.isSome_iff_ne_none.mpr hn))

theorem loadFound_of_no_span (hn : s.here.images[n] = none) (hs : s.here.spans (headXlen img) = []) : s.loadFound n img = (4, s) := by
  simp only [State.loadFound, h, hn, hs, Bool.not_true, Bool.false_eq_true, if_false, Option.isSome_none, List.getElem?_nil]

/-- A load that fits takes one of the free spans. -/
theorem loadFound_of_span (hn : s.here.images[n] = none) (hs : s.here.spans (headXlen img) ≠ []) :
    ∃ b ∈ s.here.spans (headXlen img), s.loadFound n img = (0, { s with here := s.here.loadImage n img b, free := s.free + 1 }) := by
  have hlt := Nat.mod_lt (Config.choice s.free) (List.length_pos_of_ne_nil hs)
  exact ⟨_, List.getElem_mem hlt, by
    simp only [State.loadFound, h, hn, Bool.not_true, Bool.false_eq_true, if_false, Option.isSome_none, List.getElem?_eq_getElem hlt]⟩

end Found

/-- The bytes of instruction memory after a load: the image's extent at its base, all else as before. -/
theorem memByte_loadImage {c : Core} (n : Fin 8) (img : List Byte) (b : Nat) (hw : memWf c.imem = true) (y : Nat) :
    memByte (c.loadImage n img b).imem y = if b ≤ y ∧ y < b + headXlen img then img.getD (64 + (y - b)) 0 else memByte c.imem y := by
  show memByte (memWrite (memClear c.imem b (headXlen img)) b ((img.drop 64).take (headXlen img))) y = _
  rw [memByte_memWrite _ _ _ (memClear_wf _ _ hw), memByte_memClear]
  by_cases h : b ≤ y ∧ y < b + headXlen img
  · have hget (hj : y - b < headXlen img) : ((img.drop 64).take (headXlen img)).getD (y - b) 0 = img.getD (64 + (y - b)) 0 := by
      simp [List.getD_eq_getElem?_getD, hj]
    rw [if_pos h, if_pos h]
    split
    · exact hget (by omega)
    · next hn =>
      rw [List.length_take, List.length_drop] at hn
      exact (List.getD_eq_default _ _ (by omega)).symm
  · rw [if_neg h, if_neg h, if_neg]
    rw [List.length_take]
    omega

/-- The map bits after a load: the image's map over its extent, all else as before. -/
theorem getLsbD_xmap_loadImage {c : Core} (n : Fin 8) {img : List Byte} {b : Nat} (hb : b % 64 = 0) (hx : headXlen img % 64 = 0) (hle : b + headXlen img ≤ 32768) {k : Nat}
    (hk : k < 16384) : (c.loadImage n img b).xmap.getLsbD k =
      if b / 2 ≤ k ∧ k < (b + headXlen img) / 2 then (img.getD (64 + headXlen img + (k - b / 2) / 8) 0).getLsbD ((k - b / 2) % 8) else c.xmap.getLsbD k := by
  have hset := getLsbD_setMap c.xmap (fun h => bit (((img.drop (64 + headXlen img)).take (headXlen img / 16)).getD (h / 8) 0) (h % 8)) (show b % 2 = 0 by omega)
    (show headXlen img % 2 = 0 by omega) hle hk
  refine hset.trans (ite_congr rfl (fun h => ?_) fun _ => rfl)
  have hj : (k - b / 2) / 8 < headXlen img / 16 := by omega
  simp [bit, List.getD_eq_getElem?_getD, hj]

theorem entryImg_eq_iff (e : Word) (n : Fin 8) : (entryImg e == n) = true ↔ e.extractLsb' 29 3 = BitVec.ofNat 3 n.val := by
  have hn : (BitVec.ofNat 3 n.val).toFin = n := by
    revert n
    decide
  rw [beq_iff_eq]
  constructor
  · rintro rfl
    exact BitVec.eq_of_toFin_eq hn.symm
  · intro h
    exact (congrArg BitVec.toFin h).trans hn

theorem imageInUse_iff (c : Core) (n : Fin 8) : c.imageInUse n = true ↔
    (∃ k : Fin 4, c.acts[k].busy = true ∧ c.acts[k].entry.extractLsb' 29 3 = BitVec.ofNat 3 n.val) ∨
      ∃ p ∈ c.live.handlers, p.2.getLsbD 63 = true ∧ p.2.extractLsb' 29 3 = BitVec.ofNat 3 n.val := by
  simp only [Core.imageInUse, Bool.or_eq_true, List.any_eq_true, Bool.and_eq_true, entryImg_eq_iff]
  refine or_congr ⟨?_, ?_⟩ Iff.rfl
  · rintro ⟨x, hx, h⟩
    obtain ⟨k, hk, rfl⟩ := Vector.mem_iff_getElem.mp (Vector.mem_toList_iff.mp hx)
    exact ⟨⟨k, hk⟩, h⟩
  · rintro ⟨k, h⟩
    exact ⟨_, Vector.mem_toList_iff.mpr (Vector.getElem_mem k.isLt), h⟩

theorem imgevEff_of_used {d : BitVec 5} {i : BitVec 10} {s : State} (h : s.here.imageInUse (fld i 0 3 : BitVec 3).toFin = true) : imgevEff d i s = .ok (s.setG d 1) := if_pos h

theorem imgevEff_of_unused {d : BitVec 5} {i : BitVec 10} {s : State} (h : ¬ s.here.imageInUse (fld i 0 3 : BitVec 3).toFin = true) :
    imgevEff d i s = .ok ({ s with here := s.here.dropImage (fld i 0 3 : BitVec 3).toFin }.setG d 0) := if_neg h

theorem dropImage_of_empty {c : Core} {n : Fin 8} (h : c.images[n] = none) : c.dropImage n = c := by rw [Core.dropImage, h]

theorem dropImage_of_entry {c : Core} {n : Fin 8} {j : ImgEntry} (h : c.images[n] = some j) :
    c.dropImage n = { c with images := c.images.set n none, xmap := setMap c.xmap j.base.toNat j.xlen.toNat fun _ => false } := by rw [Core.dropImage, h]

/-! Leases (R251, R252, R319). -/

/-- A save area: 6 KiB, 64-B aligned, in a device-space region on the core. -/
def IsSaveArea (s : State) (v : BitVec 18) : Prop :=
  v.toNat % 64 = 0 ∧ ∃ e ∈ s.home.rpt, e.space = 0xFF ∧ e.kind = 0 ∧ e.loc.extractLsb' 18 29 = s.at_ ∧
    (e.loc.extractLsb' 0 18).toNat ≤ v.toNat ∧ v.toNat + 6144 ≤ (e.loc.extractLsb' 0 18).toNat + e.len.toNat

theorem areaOk_iff (s : State) (v : BitVec 18) : s.areaOk v = true ↔ IsSaveArea s v := by
  simp only [State.areaOk, IsSaveArea, Bool.and_eq_true, beq_iff_eq, List.any_eq_true, decide_eq_true_eq, and_assoc]
  rfl

theorem leaseWordOk_iff (s : State) (w : Word) : s.leaseWordOk w = true ↔
    w.extractLsb' 18 14 = 0 ∧ w.extractLsb' 50 14 = 0 ∧ IsSaveArea s (w.extractLsb' 0 18) ∧ (w.extractLsb' 32 18 = 0 ∨ IsSaveArea s (w.extractLsb' 32 18)) := by
  simp only [State.leaseWordOk, Bool.and_eq_true, Bool.or_eq_true, beq_iff_eq, areaOk_iff, zeroBits, and_assoc]
  rfl

section Lease

variable {a b : BitVec 5} {s : State}

theorem leaseEff_of_bad_word (h : ¬ s.leaseWordOk (s.g b) = true ∨ nearEnd s.at_ < (s.g a).toNat + 128) : leaseEff a b s = .trap (.plain cCapability (s.g b)) :=
  if_pos (h.imp_left fun hw => by simpa using hw)

section Staged

variable (hw : s.leaseWordOk (s.g b) = true) (hp : (s.g a).toNat + 128 ≤ nearEnd s.at_) (hc : s.stagedCheck (s.g a) 128 = none)
include hw hp hc

theorem leaseEff_of_bad_record (hr : recOk (recOfBytes (s.staged0 (s.g a).toNat 128)) = false) : leaseEff a b s = .trap (.plain cCapability (s.g b)) := by
  simp only [leaseEff, hw, hc, hr, Nat.not_lt.mpr hp, Bool.not_true, Bool.not_false, Bool.false_eq_true, or_self, if_true, if_false]

variable (hr : recOk (recOfBytes (s.staged0 (s.g a).toNat 128)) = true)
include hr

theorem leaseEff_of_busy (hq : s.quiescent = false) : leaseEff a b s = .stall false := by
  simp only [leaseEff, hw, hc, hr, hq, Nat.not_lt.mpr hp, Bool.not_true, Bool.not_false, Bool.false_eq_true, or_self, if_true, if_false]

theorem leaseEff_of_first (hq : s.quiescent = true) (hn : s.act.part ≠ .lease) :
    leaseEff a b s = .fin ((({ s with here := { s.here with changing := true } }).modAct fun x => { x with part := .lease }).stalled false) := by
  simp only [leaseEff, hw, hc, hr, hq, Nat.not_lt.mpr hp, Bool.not_true, Bool.false_eq_true, or_self, if_false]

theorem leaseEff_of_next (hq : s.quiescent = true) (hn : s.act.part = .lease) : leaseEff a b s =
    .ok ((s.modAct fun x => { x with part := .none }).changeLease (recOfBytes (s.staged0 (s.g a).toNat 128)) (s.savedAt (fld (s.g b) 32 18)) (some (fld (s.g b) 0 18))) := by
  simp only [leaseEff, hw, hc, hr, hq, hn, Nat.not_lt.mpr hp, Bool.not_true, Bool.false_eq_true, or_self, if_false]

end Staged

end Lease

theorem savedAt_of_new {s : State} : s.savedAt 0 = Lessee.zero := if_pos rfl

theorem savedAt_of_saved {s : State} {x : BitVec 18} {v : Saved} (hx : x ≠ 0) (hv : s.here.saved.find? (fun v => v.area == x) = some v)
    (hb : s.staged0 x.toNat saveLength = saveBytes v.serial) : s.savedAt x = v.lessee := by
  refine (if_neg hx).trans ?_
  dsimp only
  rw [hv]
  exact if_pos hb

/-- What a link cut leaves: the other cores and the acting core's ports change alone, and ports after reset stay so. -/
theorem cutLink_frame (s : State) (p : Fin 4) (h : ∀ k : Fin 4, s.here.links[k] = Link.reset) :
    ∃ away links, s.cutLink p = { s with away := away, here := { s.here with links := links } } ∧ ∀ k : Fin 4, links[k] = Link.reset := by
  unfold State.cutLink
  split
  · exact ⟨s.away, s.here.links, rfl, h⟩
  · next a _ =>
    by_cases ha : a = s.at_
    · refine ⟨s.away, s.here.links.set (oppositePort p) { s.here.links[oppositePort p] with out := [], o := 0 }, ?_, fun k => ?_⟩
      · simp only [State.modCore, State.setCore, State.core, ha, if_true]
      · by_cases hk : (oppositePort p).val = k.val
        · simp only [Fin.getElem_fin, hk, Vector.getElem_set_self]
          exact congrArg (fun l : Link => { l with out := [], o := 0 }) (h k)
        · simp only [Fin.getElem_fin, Vector.getElem_set_ne _ _ hk]
          exact h k
    · exact ⟨_, s.here.links, if_neg ha, h⟩

theorem foldl_cutLink_frame (l : List (Fin 4)) (s : State) (h : ∀ k : Fin 4, s.here.links[k] = Link.reset) :
    ∃ away links, l.foldl State.cutLink s = { s with away := away, here := { s.here with links := links } } ∧ ∀ k : Fin 4, links[k] = Link.reset := by
  induction l generalizing s with
  | nil => exact ⟨s.away, s.here.links, rfl, h⟩
  | cons p l ih =>
    obtain ⟨away, links, he, hl⟩ := cutLink_frame s p h
    obtain ⟨away', links', he', hl'⟩ := ih (s.cutLink p) (by rw [he]; exact hl)
    exact ⟨away', links', by rw [List.foldl_cons, he', he], hl'⟩

/-- The core once step 4 of R251 is made for a `lease`, but for its ports. -/
def leasedCore (c : Core) (at_ : CoreAddr) (r : Vector Word 16) (load : Lessee) (area : Option (BitVec 18)) (serial : Nat) : Core :=
  { c with
    mx := Machine.Matrix.zero
    leaseNo := c.leaseNo + 1
    saved := (c.saved.filter fun v => v.ten != recFld r 0 0 12 && v.ten != c.regs.lessee && (area.all fun x => x == 0 || v.area != x)) ++
      [{ ten := c.regs.lessee, area := area.getD 0, serial := serial, lessee := c.live }]
    mem := match area with
      | some x => c.mem.write at_ KeyId.system x.toNat (saveBytes serial)
      | none => c.mem
    live := load
    regs := { c.regs with
      lessee := recFld r 0 0 12
      mcap := recFld r 3 32 9 &&& 0x17F
      gsa := recFld r 0 16 8
      gsb := recFld r 0 24 8
      spq := recFld r 3 0 32
      tch := recFld r 3 48 8
      trapCore := recTrapCores r }
    swapping := true }

theorem changeLease_frame (s : State) (r : Vector Word 16) (load : Lessee) (area : Option (BitVec 18)) : ∃ away links, s.changeLease r load area =
    { s with away := away, here := { leasedCore s.here s.at_ r load area s.free with links := links }, free := s.free + 1 } ∧ ∀ k : Fin 4, links[k] = Link.reset := by
  obtain ⟨away, links, he, hl⟩ := foldl_cutLink_frame (List.finRange 4)
    { s with here := { leasedCore s.here s.at_ r load area s.free with links := Vector.replicate 4 Link.reset, swapping := s.here.swapping }, free := s.free + 1 }
    fun k => Vector.getElem_replicate k.isLt
  exact ⟨away, links, congrArg (fun t : State => ({ t with here := { t.here with swapping := true } } : State)) he, hl⟩

theorem revokeFlit_eq (id : BitVec 32) (b : Bool) : revokeFlit id b = flit4 (id.setWidth 64 ||| ((if b then 1 <<< 32 else 0 : Nat) : Word)) 1 0 0 := by
  cases b with
  | true => rfl
  | false => rfl

/-- Settles O43: the tables by what each instruction refuses; a load by its checks and its span; a lease by the core that its step leaves. -/
theorem systemInstructions : Obligations.SystemInstructions := by
  refine ⟨⟨?_, ?_⟩, ?_, ?_⟩
  · intro s a b d n h q hq
    have htraps {i : Instr} {fn : Nat} {e : Effect} (hi : exec i s = finish 4 s (s.system fn e)) : Traps i (.plain 0x0E (BitVec.ofNat 64 fn)) s :=
      traps_of_trap hi (system_of_classN h fn e)
    simp only [List.mem_cons, List.not_mem_nil, or_false] at hq
    rcases hq with rfl | rfl | rfl | rfl | rfl | rfl | rfl | rfl
    all_goals exact htraps rfl
  · intro s a b n h e f bad lives ch sys entryOk regionOk wend winOk ten k part
    have hs {i : Instr} {fn : Nat} {x : Effect} (hi : exec i s = finish 4 s (s.system fn x)) : exec i s = finish 4 s x := hi.trans (by rw [system_of_classS h])
    have hentry : s.entryOk e ch = true ↔ entryOk := entryOk_iff s e ch
    have hwin : windowOk (f ++ e) = true ↔ winOk := windowOk_iff e f
    refine ⟨fun hok => ?_, fun hok => ?_, fun hok => ?_, fun hok => ?_, fun hok => ?_, fun hok => ?_, fun ht hk => ?_, fun hok => ?_, ?_⟩
    · exact ⟨_, does_of_ok (hs rfl) (if_pos (hentry.mpr hok)), rfl, fun c => look_putD ..⟩
    · exact traps_of_trap (hs rfl) (if_neg fun hx => hok (hentry.mp hx))
    · refine ⟨_, does_of_ok (hs rfl) (if_neg ?_), rfl, fun c => look_put ..⟩
      obtain ⟨h1, h2, h3, h4⟩ := hok
      exact fun hx => hx.elim (fun hx => hx h1) fun hx => hx.elim h2 fun hx => hx.elim (fun hx => hx h3) (Nat.not_lt.mpr h4)
    · refine traps_of_trap (hs rfl) (if_pos ?_)
      by_contra hx
      simp only [not_or, not_not, Nat.not_lt] at hx
      exact hok hx
    · exact does_of_ok (hs rfl) (if_pos (hwin.mpr hok))
    · exact traps_of_trap (hs rfl) (if_neg fun hx => hok (hwin.mp hx))
    · exact does_of_ok (hs rfl) (if_neg fun hx => hx.elim ht hk)
    · exact traps_of_trap (hs rfl) (if_pos hok)
    · refine sendsPart_of_send (hs (fn := 1) ?_)
      rw [← revokeFlit_eq]
      rfl
  · intro s a d n h x i hd staged status used ev
    have hi : exec i s = finish 4 s (imgldEff a d (BitVec.ofNat 10 n.val) s) := congrArg (finish 4 s) (system_of_classS h 0 _)
    have hev : exec ev s = finish 4 s (imgevEff d (BitVec.ofNat 10 n.val) s) := congrArg (finish 4 s) (system_of_classS h 7 _)
    have hn := slot_of_imm n
    have hused : s.here.imageInUse (fld (BitVec.ofNat 10 n.val) 0 3 : BitVec 3).toFin = true ↔ used := by rw [hn]; exact imageInUse_iff s.here n
    refine ⟨fun hp => ?_, ?_, fun hu => ?_, fun hu he => ?_, fun hu j he => ?_⟩
    · have hstart : exec i s = finish 4 s (imgldStart a d s) := hi.trans (by rw [imgldEff_of_start hp])
      refine ⟨fun t ht => ?_, fun hc => ⟨fun hh => ?_, fun hh hl => ?_, fun hh hl => ⟨fun t ht => ?_, fun ht => ⟨fun hm => ?_, fun hm => ?_⟩⟩⟩⟩
      · exact traps_of_trap hstart (imgldStart_of_header_trap ht)
      · exact writesG_of_setG hstart (imgldStart_of_bad_head hc hh)
      · exact writesG_of_setG hstart (imgldStart_of_not_mayLoad hc hh hl)
      · exact traps_of_trap hstart (imgldStart_of_image_trap hc hh hl ht)
      · exact writesG_of_setG hstart (imgldStart_of_bad_mac hc hh hl ht hm)
      · exact hstart.trans (congrArg (finish 4 s) (imgldStart_of_good hc hh hl ht hm))
    · intro img hp hk id e known len
      have hknown : igtPasses e id (headGen img) = true ↔ known := igtPasses_iff ..
      have hreply : exec i s = finish 4 s (.ok ((s.loadFound n img).2.setG d (BitVec.ofNat 64 (s.loadFound n img).1))) :=
        hi.trans (by rw [imgldEff_of_reply hp, hn])
      have hstatus {v : Nat} (hv : s.loadFound n img = (v, s)) : status (BitVec.ofNat 64 v) := writesG_of_setG (hreply.trans (by rw [hv])) rfl
      refine ⟨fun hx => ?_, fun hx hy => ?_, fun hx hy hz => ?_, fun hx hy hz => ?_⟩
      · exact hstatus (loadFound_of_unknown (Bool.eq_false_iff.mpr fun hk => hx (hknown.mp hk)))
      · exact hstatus (loadFound_of_taken (hknown.mpr hx) hy)
      · exact hstatus (loadFound_of_no_span (hknown.mpr hx) hy hz)
      · obtain ⟨b, hb, hv⟩ := loadFound_of_span (hknown.mpr hx) hy hz
        obtain ⟨hb64, hle⟩ := mem_spans hb
        refine ⟨b, s.here.loadImage n img b, hb, does_of_ok hreply (by rw [hv]; rfl), rfl, fun hw y => memByte_loadImage n img b hw y, fun k hk' => ?_⟩
        exact getLsbD_xmap_loadImage n hb64 (mod_of_headOk hk) hle hk'
    · exact writesG_of_setG hev (imgevEff_of_used (hused.mpr hu))
    · refine writesG_of_setG hev ((imgevEff_of_unused fun hx => hu (hused.mp hx)).trans ?_)
      rw [hn, dropImage_of_empty he]
    · have hdrop := dropImage_of_entry he
      refine ⟨_, does_of_ok hev ((imgevEff_of_unused fun hx => hu (hused.mp hx)).trans (by rw [hn, hdrop])), fun hb hx hle k hk => ?_⟩
      rw [getLsbD_setMap _ _ hb hx hle hk]
      by_cases hin : j.base.toNat / 2 ≤ k ∧ k < (j.base.toNat + j.xlen.toNat) / 2
      · simp [hin]
      · rw [if_neg hin]
        have hout : k < j.base.toNat / 2 ∨ (j.base.toNat + j.xlen.toNat) / 2 ≤ k := by omega
        simp [hout]
  · intro s a b h w p i area wordOk inside r bad ten saved
    have hi : exec i s = finish 4 s (leaseEff a b s) := congrArg (finish 4 s) (system_of_classS h 6 _)
    have hword : s.leaseWordOk w = true ↔ wordOk := leaseWordOk_iff s w
    refine ⟨fun hx => ?_, fun hw hp hc => ⟨fun hr => ?_, fun hr hq => ?_, fun hr hq hn => ?_, fun hr hq hn => ?_⟩⟩
    · exact traps_of_trap hi (leaseEff_of_bad_word (hx.imp (fun hx hw => hx (hword.mp hw)) Nat.lt_of_not_le))
    · exact traps_of_trap hi (leaseEff_of_bad_record (hword.mpr hw) hp hc hr)
    · exact stalls_of_stall hi (leaseEff_of_busy (hword.mpr hw) hp hc hr hq)
    · refine ⟨_, hi.trans (congrArg (finish 4 s) (leaseEff_of_first (hword.mpr hw) hp hc hr hq hn)), ?_, ?_, rfl, rfl, rfl, rfl⟩
      · simp [State.act, State.stalled, State.issued, State.modAct, State.setAct, State.pc]
      · simp [State.act, State.stalled, State.issued, State.modAct, State.setAct]
    · obtain ⟨away, links, hu, hl⟩ := changeLease_frame (s.modAct fun x => { x with part := .none }) r (s.savedAt (w.extractLsb' 32 18)) (some (w.extractLsb' 0 18))
      refine ⟨_, does_of_ok hi ((leaseEff_of_next (hword.mpr hw) hp hc hr hq hn).trans (congrArg Effect.ok hu)), rfl, rfl, rfl, rfl, rfl, rfl, ⟨fun h0 => ?_, fun h0 v hv hb => ?_⟩,
        ?_, rfl, rfl, hl, rfl, rfl, rfl, rfl, rfl⟩
      · exact (congrArg s.savedAt h0).trans savedAt_of_new
      · exact savedAt_of_saved h0 hv hb
      · exact List.mem_append_right _ (List.mem_singleton_self _)

end Sys2Proof.Safety
end

section
/-! PROOFS. Launches: acceptance, wakes, votes, failures, ends and the windows of host interrupts (R162 to R168, R273). -/

namespace Sys2Proof.Safety

open Sys2Proof.Machine

/-! The acting core's package. -/

theorem put_put {α : Type} (l : List (Nat × α)) (a : Nat) (v w : α) : put (put l a v) a w = put l a w := by
  induction l with
  | nil => simp [put]
  | cons y l ih =>
    obtain ⟨k, u⟩ := y
    by_cases h1 : a < k
    · simp [put, h1]
    · by_cases h2 : a = k
      · simp [put, h2]
      · simp [put, h1, h2, ih]

theorem pkg_setPkg (s : State) (p q : Nat) (k : Package) : (s.setPkg p k).pkg q = if q = p then k else s.pkg q := by
  show (look (put s.pkgs p k) q).getD Package.reset = _
  rw [look_put]
  split
  · rfl
  · rfl

@[simp] theorem home_modHome (s : State) (f : Package → Package) : (s.modHome f).home = f s.home :=
  (pkg_setPkg s _ _ _).trans (if_pos rfl)

/-- Two changes of the acting core's package in a row are one. -/
theorem modHome_modHome (s : State) (f g : Package → Package) : (s.modHome f).modHome g = s.modHome fun k => g (f k) := by
  have h : (s.modHome f).modHome g = { s with pkgs := put (put s.pkgs (pkgOf s.at_) (f s.home)) (pkgOf s.at_) (g (s.modHome f).home) } := rfl
  rw [h, home_modHome, put_put]
  rfl

/-! What the sends and the ingress of a core leave of its place and of the clock. -/

/-- The acting core's address, the time, and when its package's host port is up again. -/
def clock (s : State) : CoreAddr × Word × Word := (s.at_, s.time, s.home.downUntil)

theorem clock_setPkg (s : State) (p : Nat) (k : Package) (h : k.downUntil = (s.pkg p).downUntil) : clock (s.setPkg p k) = clock s := by
  have hd : (s.setPkg p k).home.downUntil = s.home.downUntil := by
    show ((s.setPkg p k).pkg (pkgOf s.at_)).downUntil = _
    rw [pkg_setPkg]
    split
    · next hp => rw [h, ← hp]; rfl
    · rfl
  exact congrArg (fun d => (s.at_, s.time, d)) hd

theorem clock_modHome (s : State) (f : Package → Package) (h : ∀ k, (f k).downUntil = k.downUntil) : clock (s.modHome f) = clock s :=
  clock_setPkg s _ _ (h s.home)

theorem clock_fly (s : State) (m : Msg) : clock (s.fly m) = clock s := by
  unfold State.fly
  split
  · show clock (s.passDies _ _ _ m) = clock s
    unfold State.passDies
    dsimp only
    split
    · exact clock_setPkg s _ _ rfl
    · rfl
  · rfl

theorem clock_emit1 (s : State) (d : CoreAddr) (kind : BitVec 2) (ch : BitVec 8) (paddr : BitVec 18) (pay : List Strip) (it : OutItem) (m e : Bool) :
    clock (s.emit1 d kind ch paddr pay it m e) = clock s :=
  clock_fly _ _

theorem clock_emitAll (s : State) (it : OutItem) : clock (s.emitAll it) = clock s :=
  foldl_keeps clock (fun _ _ => clock_emit1 ..) _ _

theorem clock_emit (s : State) (it : OutItem) : clock (s.emit it) = clock s := by
  unfold State.emit
  split
  · dsimp only
    split
    · rfl
    · exact clock_emitAll _ it
  · exact clock_emitAll s it

theorem clock_leaveOwn (s : State) (it : OutItem) : clock (s.leaveOwn it) = clock s := by
  unfold State.leaveOwn
  split
  · exact clock_emit s it
  · rfl

theorem clock_trigger (s : State) (cause : BitVec 3) : clock (s.trigger cause) = clock s := by
  unfold State.trigger
  dsimp only
  split
  · exact foldl_keeps clock (fun _ _ => clock_leaveOwn ..) _ _
  · rfl

theorem clock_digested (s : State) (m : Msg) : clock (s.digested m) = clock s := by
  unfold State.digested
  dsimp only
  split
  · rfl
  · rfl
  · split
    · exact clock_trigger _ _
    · rfl

theorem clock_ingress (s : State) (src : CoreAddr) (m : Msg) : clock (s.ingress src m) = clock s :=
  (foldl_keeps clock clock_digested _ _).trans (clock_digested _ m)

theorem clock_of_takes {s t : State} {m : Msg} (h : Takes s m t) : clock t = clock s := by
  obtain ⟨rest, -, -, -, -, -, -, -, rfl⟩ := h
  exact clock_ingress _ _ _

/-! Watchpoints at the homes of what is read leave the reader where it is. -/

@[simp] theorem at_focus (s : State) (a : CoreAddr) : (s.focus a).at_ = a := by
  unfold State.focus
  split
  · next h => exact h.symm
  · rfl

theorem at_seeParts (s : State) (ten : BitVec 12) (ps : List Piece) : (s.seeParts ten ps).at_ = s.at_ := by
  induction ps generalizing s with
  | nil => rfl
  | cons p ps ih =>
    unfold State.seeParts
    split
    · rfl
    · rw [ih]
      split
      · rfl
      · exact at_focus ..

theorem at_seeRead (s : State) (pkg : Nat) (ten : BitVec 12) (space : BitVec 8) (off : Word) (n : Nat) : (s.seeRead pkg ten space off n).at_ = s.at_ := by
  unfold State.seeRead
  split
  · exact at_seeParts ..
  · rfl

theorem at_seeImage (s : State) (pkg : Nat) (ten : BitVec 12) (off : Word) : (s.seeImage pkg ten off).at_ = s.at_ := by
  unfold State.seeImage
  dsimp only
  split
  · exact at_seeRead ..
  · rfl

theorem at_seeImages (s : State) (pkg : Nat) (ten : BitVec 12) (b : List Byte) : (s.seeImages pkg ten b).at_ = s.at_ :=
  foldl_keeps State.at_ (fun _ _ => at_seeImage ..) _ _

/-! The checks of R163. -/

theorem firstFail_of_all {l : List FieldCheck} (h : ∀ c ∈ l, c.2 = true) : firstFail l = none := by
  have hnil : l.filter (fun c => !c.2) = [] := List.filter_eq_nil_iff.mpr fun c hc => by simp [h c hc]
  rw [firstFail, hnil]
  rfl

theorem firstFail_of_least {l : List FieldCheck} {f : Nat} (hf : (f, false) ∈ l) (h : ∀ c ∈ l, c.2 = false → f ≤ c.1) : firstFail l = some f := by
  refine List.min?_eq_some_iff.mpr ⟨List.mem_map.mpr ⟨(f, false), List.mem_filter.mpr ⟨hf, rfl⟩, rfl⟩, fun x hx => ?_⟩
  obtain ⟨c, hc, rfl⟩ := List.mem_map.mp hx
  obtain ⟨hmem, hbad⟩ := List.mem_filter.mp hc
  exact h c hmem (by simpa using hbad)

/-! Acceptance at the root (R163, R164). -/

section Acceptance

variable {u : State} {m : Msg}

theorem acceptRoot_of_unread (h : ∀ b, u.gvaRead (pkgOf u.at_) m.ten (u.home.gsaOf m.ten) (m.dw 0) 32 ≠ .ok b) :
    u.acceptRoot m = u.refuseLaunch (m.dw 2).toNat (m.dw 3) (m.dw 0) := by
  unfold State.acceptRoot
  dsimp only
  split
  · next b hb => exact absurd hb (h b)
  · rfl

/-- What the block `b` with the first 32 bytes `h` fails, if its address is aligned or not. -/
def acceptFail (u : State) (m : Msg) (b : List Byte) : Option Nat :=
  firstFail (if (m.dw 0).toNat % 64 = 0 then lpbShape b ++ u.lpbLocal (pkgOf u.at_) m.ten b else [(0, false)])

/-- The machine once the block and its images have been read, as watchpoints see (R344). -/
def acceptSeen (u : State) (m : Msg) (h b : List Byte) : State :=
  (u.seeRead (pkgOf u.at_) m.ten (u.home.gsaOf m.ten) (m.dw 0) (lpbBytes h)).seeImages (pkgOf u.at_) m.ten b

/-- The launch that the root holds once it accepts a block, before it passes the wake on. -/
def acceptedLaunch (m : Msg) (b : List Byte) (copy : Nat) : Launch :=
  { lid := lpbLid b, ten := m.ten, sub := fld m.cid 0 4, lpb := b, lpbOff := m.dw 0, copyOff := BitVec.ofNat 64 copy, cores := 0, votes := 0, waits := [],
    up := none, vf := (m.dw 2).toNat, seq := m.dw 3, failed := false }

variable {h b : List Byte} (hh : u.gvaRead (pkgOf u.at_) m.ten (u.home.gsaOf m.ten) (m.dw 0) 32 = .ok h)
  (hb : u.gvaRead (pkgOf u.at_) m.ten (u.home.gsaOf m.ten) (m.dw 0) (lpbBytes h) = .ok b)
include hh hb

theorem acceptRoot_of_fail {f : Nat} (hf : acceptFail u m b = some f) :
    u.acceptRoot m = (acceptSeen u m h b).refuseLaunch (m.dw 2).toNat (m.dw 3) (m.dw 0 + BitVec.ofNat 64 f) := by
  unfold acceptFail at hf
  simp only [State.acceptRoot, hh, hb, hf]
  rfl

theorem acceptRoot_of_pass (hf : acceptFail u m b = none) : u.acceptRoot m =
    (((acceptSeen u m h b).putCopy ((acceptSeen u m h b).copyPlace b.length) b).journal (m.dw 2).toNat (m.dw 3) 0x00 ((lpbLid b).setWidth 40)).passWake
      (acceptedLaunch m b ((acceptSeen u m h b).copyPlace b.length)) true := by
  unfold acceptFail at hf
  simp only [State.acceptRoot, hh, hb, hf]
  rfl

end Acceptance

theorem le_foldl_max {r : Nat × Nat} (l : List (Nat × Nat)) (n : Nat) (h : r ∈ l ∨ r.2 ≤ n) : r.2 ≤ l.foldl (fun m r => max m r.2) n := by
  induction l generalizing n with
  | nil => exact h.resolve_left List.not_mem_nil
  | cons x l ih =>
    refine ih _ ?_
    rcases h with h | h
    · rcases List.mem_cons.mp h with rfl | h
      · exact .inr (Nat.le_max_right ..)
      · exact .inl h
    · exact .inr (h.trans (Nat.le_max_left ..))

/-- The place of a new copy is clear of the copies that stand. -/
theorem copyPlace_clear (s : State) (n : Nat) {r : Nat × Nat} (hr : r ∈ s.copies (pkgOf s.at_)) : s.copyPlace n + n ≤ r.1 ∨ r.2 ≤ s.copyPlace n := by
  unfold State.copyPlace
  dsimp only
  split
  · next hall => simpa using List.all_eq_true.mp hall r hr
  · have := le_foldl_max (s.copies (pkgOf s.at_)) 0 (.inl hr)
    right
    omega

/-- A stand-in depends on which cores are absent alone. -/
theorem standIn_modHome (s : State) (f : Package → Package) (h : ∀ k, (f k).absent = k.absent) : (s.modHome f).standIn = s.standIn := by
  have habs (p : Nat) : ((s.modHome f).pkg p).absent = (s.pkg p).absent := by
    rw [State.modHome, pkg_setPkg]
    split
    · next hp => rw [h, hp]; rfl
    · rfl
  funext a
  unfold State.standIn
  simp only [habs]

/-- The copy and the journal entry are one change of the root's package. -/
theorem journal_putCopy (s : State) (copy : Nat) (b : List Byte) (vf : Nat) (seq : Word) (st : BitVec 8) (info : BitVec 40) : (s.putCopy copy b).journal vf seq st info =
    ({ s with free := s.free + 1 } : State).modHome fun k => { (k.modFn vf fun f => f.rewrite seq st info) with devMem := memWrite k.devMem copy b } :=
  modHome_modHome ..

/-- The root's launch once it waits for its targets. -/
theorem passWake_of_targets {s : State} {l : Launch} {targets : List CoreAddr} (h : (wakeTargets s.at_ true (lpbCores l.lpb)).map s.standIn = targets) : s.passWake l true =
    targets.foldl
      (fun x d => x.leaveOwn { OutItem.own (.uni d kSystem 0 0 [flit4 l.copyOff l.lpbOff (l.lid.setWidth 64) (l.sub.setWidth 64)]) (l.ten ++ l.sub) with who := .wake l.lid })
      (s.modEng fun e => { e with launches := e.launches ++ [{ l with cores := (lpbCores l.lpb).length, waits := targets }] }) := by
  subst h
  rfl

theorem launchAccept_of_submission {s t : State} {m : Msg} (h : TakesRouted s m t) (he : s.eventFor m = .launchAccept) (hs : isSubmission m = true) (hh : s.lpbHeld m = false) :
    Comes .launchAccept s ((t.settle m).acceptRoot m) := by
  obtain ⟨ht, hr⟩ := h
  have hp : (!(if isSubmission m then s.lpbHeld m else s.wakeHeld m)) = true := by simp [hs, hh]
  refine congrArg Host.Outcome.next ((Laws.takes_of_takes ht he hp _).trans ((Laws.routeThen_of_routed hr _).trans ?_))
  exact if_pos hs

/-! The bounds of a block that passes (R162). -/

theorem userChannel_iff (ch : BitVec 8) : userChannel ch = true ↔ 15 < ch.toNat ∧ ch.toNat < 248 := by
  simp only [userChannel, Bool.and_eq_true, decide_eq_true_eq]
  exact Iff.rfl

/-- What the header's checks of a block hold to. -/
theorem bounds_of_shape {b : List Byte} (h : ∀ c ∈ lpbShape b, c.2 = true) :
    1 ≤ lpbNh b ∧ lpbNh b ≤ 32 ∧ 1 ≤ lpbNi b ∧ lpbNi b ≤ 8 ∧ lpbNp b ≤ 8 ∧ lpbRk b ≤ 1 ∧ lpbCk b ≤ 2 ∧ 1 ≤ lpbCount b ∧ lpbDbud b ≠ 0 ∧
      15 < (lpbStart b).toNat ∧ (lpbStart b).toNat < 248 := by
  have hhead : ∀ c ∈ headChecks b, c.2 = true := fun c hc => h c (List.mem_append_left _ (List.mem_append_left _ (List.mem_append_left _ hc)))
  simp only [headChecks, List.forall_mem_cons, Bool.and_eq_true, decide_eq_true_eq, bne_iff_ne] at hhead
  obtain ⟨⟨⟨⟨⟨⟨⟨⟨-, hnh⟩, hnh'⟩, hni⟩, hni'⟩, hnp⟩, hrk⟩, hck⟩, hrange, ⟨⟨-, hdbud⟩, hstart⟩, -⟩ := hhead
  have hcount : 1 ≤ lpbCount b := by
    split at hrange
    · simp only [Bool.and_eq_true, decide_eq_true_eq] at hrange
      exact hrange.1.2
    · simp only [Bool.and_eq_true, decide_eq_true_eq] at hrange
      exact hrange.1.1.2
  exact ⟨hnh, hnh', hni, hni', hnp, hrk, hck, hcount, hdbud, (userChannel_iff _).mp hstart⟩

/-! The wake at a core (R164). -/

section Wake

variable {s : State} {m : Msg}

theorem launchWake_of_residents_none (hv : s.vendorMsg 0 = some m) (hw : s.mayWake = true) (hh : s.residentHeld m.ten (s.wakeBlock m) = false)
    (hr : ((s.takeQueued 0).residents m.ten (s.wakeBlock m) [] (List.range (lpbNi (s.wakeBlock m)))).1 = none) :
    Comes .launchWake s (((s.takeQueued 0).residents m.ten (s.wakeBlock m) [] (List.range (lpbNi (s.wakeBlock m)))).2.failWake m) := by
  show execLaunchWake s = _
  simp only [execLaunchWake, hv, hw, hh, hr, Bool.not_true, Bool.or_false, Bool.false_eq_true, if_false]

variable {imgs : List (Fin 8)} (hv : s.vendorMsg 0 = some m) (hw : s.mayWake = true) (hh : s.residentHeld m.ten (s.wakeBlock m) = false)
  (hr : ((s.takeQueued 0).residents m.ten (s.wakeBlock m) [] (List.range (lpbNi (s.wakeBlock m)))).1 = some imgs)
include hv hw hh hr

/-- The machine once the images of the wake's block are resident and its persistent regions placed, if they fit. -/
def wakePlaced (s : State) (m : Msg) (imgs : List (Fin 8)) : Option State :=
  let r := (s.takeQueued 0).residents m.ten (s.wakeBlock m) [] (List.range (lpbNi (s.wakeBlock m)))
  r.2.placeRegions (((r.2.here.images[imgs.headD 0]).map (·.kslot)).getD 0) (s.wakeBlock m) (List.range (lpbNp (s.wakeBlock m)))

theorem launchWake_of_placed_none (hp : wakePlaced s m imgs = none) :
    Comes .launchWake s (((s.takeQueued 0).residents m.ten (s.wakeBlock m) [] (List.range (lpbNi (s.wakeBlock m)))).2.failWake m) := by
  unfold wakePlaced at hp
  show execLaunchWake s = _
  simp only [execLaunchWake, hv, hw, hh, hr, hp, Bool.not_true, Bool.or_false, Bool.false_eq_true, if_false]

theorem launchWake_of_placed {v : State} (hp : wakePlaced s m imgs = some v) : Comes .launchWake s (v.enterLaunch m (s.wakeBlock m) imgs) := by
  unfold wakePlaced at hp
  show execLaunchWake s = _
  simp only [execLaunchWake, hv, hw, hh, hr, hp, Bool.not_true, Bool.or_false, Bool.false_eq_true, if_false]

end Wake

/-- The channel that template `t` of a block names. -/
def templateChannel (b : List Byte) (t : Nat) : Nat := ((lpbTemplate b t).2.extractLsb' 0 8).toNat

/-- The handler table once the first templates of a block have their entries. -/
def enteredHandlers (b : List Byte) (imgs : List (Fin 8)) (h : List (Nat × Word)) (n : Nat) : List (Nat × Word) :=
  (List.range n).foldl (fun h t => putD h (templateChannel b t) (entryFrom b imgs (lpbTemplate b t).1) noEntry) h

theorem enteredHandlers_succ (b : List Byte) (imgs : List (Fin 8)) (h : List (Nat × Word)) (n : Nat) : enteredHandlers b imgs h (n + 1) =
    putD (enteredHandlers b imgs h n) (templateChannel b n) (entryFrom b imgs (lpbTemplate b n).1) noEntry := by
  rw [enteredHandlers, List.range_succ, List.foldl_append]
  rfl

theorem look_putD_of_ne {α : Type} [DecidableEq α] (l : List (Nat × α)) {a x : Nat} (v d : α) (h : x ≠ a) : look (putD l a v d) x = look l x := by
  unfold putD
  split
  · rw [look_drop1, if_neg h]
  · rw [look_put, if_neg h]

/-- A channel that no template names keeps its entry. -/
theorem look_enteredHandlers_of_unnamed (b : List Byte) (imgs : List (Fin 8)) (h : List (Nat × Word)) {n ch : Nat} (hn : ∀ i, i < n → templateChannel b i ≠ ch) :
    look (enteredHandlers b imgs h n) ch = look h ch := by
  induction n with
  | zero => rfl
  | succ n ih => rw [enteredHandlers_succ, look_putD_of_ne _ _ _ (hn n n.lt_succ_self).symm, ih fun i hi => hn i (Nat.lt_succ_of_lt hi)]

/-- A channel has the entry of the last template that names it. -/
theorem look_enteredHandlers_of_last (b : List Byte) (imgs : List (Fin 8)) (h : List (Nat × Word)) {n i : Nat} (hi : i < n)
    (hl : ∀ j, i < j → j < n → templateChannel b j ≠ templateChannel b i) :
    (look (enteredHandlers b imgs h n) (templateChannel b i)).getD noEntry = entryFrom b imgs (lpbTemplate b i).1 := by
  induction n with
  | zero => exact absurd hi (Nat.not_lt_zero i)
  | succ n ih =>
    rw [enteredHandlers_succ, look_putD]
    rcases Nat.lt_succ_iff_lt_or_eq.mp hi with hlt | rfl
    · rw [if_neg (hl n hlt n.lt_succ_self).symm]
      exact ih hlt fun j hj hjn => hl j hj (Nat.lt_succ_of_lt hjn)
    · rw [if_pos rfl]

theorem enterLaunch_eq (s : State) (m : Msg) (b : List Byte) (imgs : List (Fin 8)) : s.enterLaunch m b imgs =
    (s.modLive fun x => { x with
      handlers := enteredHandlers b imgs s.here.live.handlers (lpbNh b), cnum := BitVec.ofNat 64 (lpbRank b s.at_), lbase := BitVec.ofNat 64 (lpbBase b),
      lcnt := BitVec.ofNat 64 (lpbCount b), lid := lpbLid b, lpb := m.dw 1, voted := false, wakes := x.wakes + 1 }).sendOwn s.at_ kCall (lpbStart b) m.cid [] := rfl

/-! The entry that a template makes (R164 step 3). -/

theorem entryFrom_of_invalid {b : List Byte} {imgs : List (Fin 8)} {w : Word} (h : w.getLsbD 63 = false) : entryFrom b imgs w = 0 :=
  if_neg (Bool.eq_false_iff.mp h)

theorem extractLsb'_setFld_same {w n : Nat} (x : BitVec w) (lo : Nat) (v : BitVec n) (h : lo + n ≤ w) : (setFld x lo v).extractLsb' lo n = v := by
  refine BitVec.eq_of_getLsbD_eq fun i hi => ?_
  rw [BitVec.getLsbD_extractLsb', getLsbD_setFld _ _ _ (by omega)]
  simp [hi]

theorem extractLsb'_setFld_apart {w n : Nat} (x : BitVec w) (lo : Nat) (v : BitVec n) {a k : Nat} (hk : a + k ≤ w) (h : a + k ≤ lo ∨ lo + n ≤ a) :
    (setFld x lo v).extractLsb' a k = x.extractLsb' a k := by
  refine BitVec.eq_of_getLsbD_eq fun i hi => ?_
  rw [BitVec.getLsbD_extractLsb', BitVec.getLsbD_extractLsb', getLsbD_setFld _ _ _ (by omega), if_neg (by omega)]

/-- A template's word with the image-table entry of its image. -/
def placedTemplate (imgs : List (Fin 8)) (w : Word) : Word := setFld w 29 (BitVec.ofNat 3 (imgs.getD (fld w 29 3 : BitVec 3).toNat 0).val)

theorem placedTemplate_apart (imgs : List (Fin 8)) (w : Word) {a k : Nat} (hk : a + k ≤ 64) (h : a + k ≤ 29 ∨ 32 ≤ a) :
    (placedTemplate imgs w).extractLsb' a k = w.extractLsb' a k :=
  extractLsb'_setFld_apart _ _ _ hk h

theorem entryFrom_eq {b : List Byte} {imgs : List (Fin 8)} {w : Word} (h : w.getLsbD 63 = true) :
    entryFrom b imgs w = if w.extractLsb' 32 16 = (0 : BitVec 16) then setFld (placedTemplate imgs w) 32 (lpbDbud b) else placedTemplate imgs w := by
  have hz : zeroBits (placedTemplate imgs w) 32 16 = true ↔ w.extractLsb' 32 16 = (0 : BitVec 16) := by
    rw [← placedTemplate_apart imgs w (by decide) (by decide)]
    exact beq_iff_eq
  refine (if_pos h).trans ?_
  simp only [← hz]
  rfl

theorem entryFrom_of_valid {b : List Byte} {imgs : List (Fin 8)} {w : Word} (h : w.getLsbD 63 = true) :
    (entryFrom b imgs w).extractLsb' 29 3 = BitVec.ofNat 3 (imgs.getD (w.extractLsb' 29 3).toNat 0).val ∧
      (entryFrom b imgs w).extractLsb' 32 16 = (if w.extractLsb' 32 16 = (0 : BitVec 16) then lpbDbud b else w.extractLsb' 32 16) ∧
      (entryFrom b imgs w).extractLsb' 0 29 = w.extractLsb' 0 29 ∧ (entryFrom b imgs w).extractLsb' 48 16 = w.extractLsb' 48 16 := by
  have hslot : (placedTemplate imgs w).extractLsb' 29 3 = BitVec.ofNat 3 (imgs.getD (w.extractLsb' 29 3).toNat 0).val := extractLsb'_setFld_same _ _ _ (by decide)
  have hlow := placedTemplate_apart imgs w (a := 0) (k := 29) (by decide) (by decide)
  have hbud := placedTemplate_apart imgs w (a := 32) (k := 16) (by decide) (by decide)
  have hhigh := placedTemplate_apart imgs w (a := 48) (k := 16) (by decide) (by decide)
  rw [entryFrom_eq h]
  split
  · have hkeep {a k : Nat} (hk : a + k ≤ 64) (h : a + k ≤ 32 ∨ 48 ≤ a) :
        (setFld (placedTemplate imgs w) 32 (lpbDbud b)).extractLsb' a k = (placedTemplate imgs w).extractLsb' a k := extractLsb'_setFld_apart _ _ _ hk h
    exact ⟨(hkeep (by decide) (by decide)).trans hslot, extractLsb'_setFld_same _ _ _ (by decide), (hkeep (by decide) (by decide)).trans hlow,
      (hkeep (by decide) (by decide)).trans hhigh⟩
  · exact ⟨hslot, hbud, hlow, hhigh⟩

/-! Votes and failures (R164, R167, R273). -/

theorem launchVote_of_routed {s t : State} {m : Msg} (h : TakesRouted s m t) (he : s.eventFor m = .launchVote) :
    Comes .launchVote s ((t.settle m).count ((m.dw 0).extractLsb' 0 32) m.ten m.src (m.dw 1).toNat) := by
  obtain ⟨ht, hr⟩ := h
  exact congrArg Host.Outcome.next ((Laws.takes_of_takes ht he rfl _).trans (Laws.routeThen_of_routed hr _))

theorem wakeFailure_of_routed {s t : State} {m : Msg} (h : TakesRouted s m t) (he : s.eventFor m = .wakeFailure) :
    Comes .wakeFailure s ((t.settle m).launchFailed ((m.dw 0).extractLsb' 0 32) m.ten m.src) := by
  obtain ⟨ht, hr⟩ := h
  exact congrArg Host.Outcome.next ((Laws.takes_of_takes ht he rfl _).trans (Laws.routeThen_of_routed hr _))

section Counting

variable {u : State} {lid : BitVec 32} {ten : BitVec 12} {src : CoreAddr}

theorem count_of_none (h : u.here.eng.launches.find? (Launch.awaits lid ten src) = none) (n : Nat) : u.count lid ten src n = u := by
  simp only [State.count, h]

theorem launchFailed_of_none (h : u.here.eng.launches.find? (Launch.awaits lid ten src) = none) : u.launchFailed lid ten src = u := by
  simp only [State.launchFailed, h]

variable {l : Launch} (h : u.here.eng.launches.find? (Launch.awaits lid ten src) = some l)
include h

theorem lid_of_awaited : l.lid = lid := by
  have := List.find?_some h
  simp only [Launch.awaits, Bool.and_eq_true, beq_iff_eq] at this
  exact this.1.1

theorem count_of_more {n : Nat} (hn : l.votes + n < l.cores ∨ l.failed = true) : u.count lid ten src n =
    u.modEng fun e => { e with launches := mapFirst (Launch.awaits lid ten src) (fun x => { x.heard src with votes := x.votes + n }) e.launches } := by
  simp only [State.count, h, hn, if_true]
  rfl

/-- The engine without a launch all of whose votes are in. -/
def withoutLaunch (u : State) (lid : BitVec 32) (ten : BitVec 12) (src : CoreAddr) : State :=
  u.modEng fun e => { e with launches := dropFirst (Launch.awaits lid ten src) e.launches }

section All

variable {n : Nat} (hn : l.cores ≤ l.votes + n) (hf : l.failed = false)
include hn hf

theorem count_of_up {d : CoreAddr} (hd : l.up = some d) : u.count lid ten src n =
    ((withoutLaunch u lid ten src).dropCopy l).sendOwn d kSystem 0 l.cid [flit4 (lid.setWidth 64) (BitVec.ofNat 64 l.cores) 0 (voteMark 1)] := by
  simp only [State.count, h, hf, hd, Nat.not_lt.mpr hn, Bool.false_eq_true, or_self, if_false]
  rfl

theorem count_of_root (hd : l.up = none) : u.count lid ten src n = ((withoutLaunch u lid ten src).dropCopy l).launchEnd l := by
  simp only [State.count, h, hf, hd, Nat.not_lt.mpr hn, Bool.false_eq_true, or_self, if_false]
  rfl

end All

/-- The engine once a launch of its has failed. -/
def withFailed (u : State) (lid : BitVec 32) (ten : BitVec 12) (src : CoreAddr) : State :=
  u.modEng fun e => { e with launches := mapFirst (Launch.awaits lid ten src) (fun x => { x.heard src with failed := true }) e.launches }

theorem launchFailed_of_failed (hf : l.failed = true) : u.launchFailed lid ten src = withFailed u lid ten src := by
  simp only [State.launchFailed, State.failLaunch, h, hf, if_true]
  rfl

theorem launchFailed_of_up (hf : l.failed = false) {d : CoreAddr} (hd : l.up = some d) :
    u.launchFailed lid ten src = (withFailed u lid ten src).sendOwn d kSystem 0 l.cid [flit4 (lid.setWidth 64) 0 0 (voteMark 2)] := by
  obtain rfl := lid_of_awaited h
  simp only [State.launchFailed, State.failLaunch, h, hf, hd, Bool.false_eq_true, if_false]
  rfl

theorem launchFailed_of_root (hf : l.failed = false) (hd : l.up = none) : u.launchFailed lid ten src = (withFailed u lid ten src).modHome fun k => k.modFn l.vf fun f => f.rewrite l.seq 0x03 0x0C := by
  simp only [State.launchFailed, State.failLaunch, h, hf, hd, Bool.false_eq_true, if_false]
  rfl

end Counting

/-- The package's memory without a launch's copy. -/
def clearCopy (x : State) (l : Launch) : State := x.modHome fun k => { k with devMem := memClear k.devMem l.copyOff.toNat l.lpb.length }

theorem clock_clearCopy (x : State) (l : Launch) : clock (clearCopy x l) = clock x := clock_modHome _ _ fun _ => rfl

theorem dropCopy_of_root {l : Launch} (h : l.up = none) (s : State) : s.dropCopy l = clearCopy s l := if_neg (by simp [h])

theorem dropCopy_of_up {l : Launch} {d : CoreAddr} (h : l.up = some d) (s : State) : s.dropCopy l = if pkgOf d = pkgOf s.at_ then s else clearCopy s l := by
  unfold State.dropCopy
  simp only [h, Option.any_some, beq_iff_eq]
  rfl

/-! The end of a launch (R167, R168). -/

/-- A launch's end in its root's journal. -/
def journalEnd (s : State) (l : Launch) : State := s.modHome fun k => k.modFn l.vf fun f => f.rewrite l.seq 0x01 (l.lid.setWidth 40)

theorem clock_journalEnd (s : State) (l : Launch) : clock (journalEnd s l) = clock s := clock_modHome _ _ fun _ => rfl

section End

variable {s : State} {l : Launch} (h : (journalEnd s l).home.assisted l.ten 41 = false)
include h

theorem launchEnd_of_ck0 (hc : lpbCk l.lpb = 0) : s.launchEnd l = journalEnd s l := by
  unfold journalEnd at h
  simp only [State.launchEnd, State.journal, State.launchEnd.zext40, h, hc, Bool.false_eq_true, if_false]
  rfl

theorem launchEnd_of_ck1 (hc : lpbCk l.lpb = 1) : s.launchEnd l =
    (journalEnd s l).sendOwn ((lpbDw l.lpb 3).extractLsb' 0 29) kCall ((lpbDw l.lpb 3).extractLsb' 29 8) l.cid [flit4 (l.lid.setWidth 64) (BitVec.ofNat 64 (lpbCount l.lpb)) 0 0] := by
  unfold journalEnd at h
  simp only [State.launchEnd, State.journal, State.launchEnd.zext40, h, hc, Bool.false_eq_true, if_false]
  rfl

theorem launchEnd_of_ck2 (hc : lpbCk l.lpb = 2) : s.launchEnd l =
    (journalEnd s l).modHome fun k => k.modFn ((lpbDw l.lpb 3).extractLsb' 16 5).toNat fun f =>
      f.coalesce ((lpbDw l.lpb 3).extractLsb' 0 16) ((lpbDw l.lpb 3).extractLsb' 21 10).toNat (journalEnd s l).time (journalEnd s l).home.downUntil := by
  unfold journalEnd at h
  simp only [State.launchEnd, State.journal, State.launchEnd.zext40, h, hc, Bool.false_eq_true, if_false]
  rfl

end End

/-! Host interrupts (R168). -/

theorem coalesce_at_once (f : Func) (v : BitVec 16) {now up : Word} (h : up.toNat ≤ now.toNat) : f.coalesce v 0 now up = { f with raised := f.raised ++ [v] } :=
  if_neg (Nat.not_lt.mpr h)

theorem coalesce_opens {f : Func} {v : BitVec 16} {us : Nat} (hu : us ≠ 0) (h : ∀ o ∈ f.opened, o.1 ≠ v) (now up : Word) :
    f.coalesce v us now up = { f with opened := f.opened ++ [(v, now + BitVec.ofNat 64 (1000 * us))] } := by
  have hn : (f.opened.any fun o => o.1 == v) = false := List.any_eq_false.mpr fun o ho => by simpa using h o ho
  simp only [Func.coalesce, hu, hn, if_false, Bool.false_eq_true]

/-- An open window of the vector, closed no later than `close`. -/
def joinedWindow (v : BitVec 16) (close : Word) (o : BitVec 16 × Word) : BitVec 16 × Word := if o.1 == v && decide (close.toNat < o.2.toNat) then (v, close) else o

theorem joinedWindow_of_eq {v : BitVec 16} (close : Word) {o : BitVec 16 × Word} (h : o.1 = v) :
    joinedWindow v close o = (v, if close.toNat < o.2.toNat then close else o.2) := by
  obtain ⟨w, c⟩ := o
  obtain rfl : w = v := h
  by_cases hc : close.toNat < c.toNat
  · simp [joinedWindow, hc]
  · simp [joinedWindow, hc]

theorem coalesce_joins {f : Func} {v : BitVec 16} {us : Nat} (hu : us ≠ 0) {o : BitVec 16 × Word} (ho : o ∈ f.opened) (hv : o.1 = v) (now up : Word) :
    f.coalesce v us now up = { f with opened := f.opened.map (joinedWindow v (now + BitVec.ofNat 64 (1000 * us))) } := by
  have hn : (f.opened.any fun o => o.1 == v) = true := List.any_eq_true.mpr ⟨o, ho, beq_iff_eq.mpr hv⟩
  simp only [Func.coalesce, hu, hn, if_false, if_true]
  rfl

/-- Interrupts raised one by one: those that were not due while the host port was down. -/
theorem foldl_interrupt (l : List (BitVec 16 × Word)) (up : Word) (g : Func) : l.foldl (fun g o => g.interrupt o.1 o.2 up) g =
    { g with raised := g.raised ++ (l.filter fun o => decide (up.toNat ≤ o.2.toNat)).map (·.1) } := by
  induction l generalizing g with
  | nil => simp
  | cons o l ih =>
    rw [List.foldl_cons, ih, Func.interrupt]
    by_cases ho : o.2.toNat < up.toNat
    · rw [if_pos ho, List.filter_cons_of_neg (by simpa using ho)]
    · rw [if_neg ho, List.filter_cons_of_pos (by simpa using ho)]
      simp

theorem closeWindows_eq (f : Func) (now up : Word) : f.closeWindows now up = { f with
    raised := f.raised ++ (f.opened.filter fun o => windowDue now o && decide (up.toNat ≤ o.2.toNat)).map (·.1)
    opened := f.opened.filter fun o => !windowDue now o } := by
  unfold Func.closeWindows
  rw [foldl_interrupt, List.filter_filter]
  simp only [Bool.and_comm]

/-- Settles O50: each event by what its machine is once the message is taken, the launch record found and its votes compared. -/
theorem launches : Obligations.Launches := by
  refine ⟨⟨?_, fun b h => bounds_of_shape h⟩, ?_, ?_, ?_, ?_⟩
  · intro s m t h he hs hh u off vf seq pkg sp seen refused
    have hc := launchAccept_of_submission h he hs hh
    have hrefused {x : State} {f : Nat} (hx : u.acceptRoot m = x.refuseLaunch vf seq (off + BitVec.ofNat 64 f)) : refused x f := ⟨_, hc.trans (congrArg Host.Outcome.next hx)⟩
    refine ⟨fun ha h b hh hb => ?_, fun hr => ?_, fun h b hh hb => ⟨fun ha hall => ?_, fun f ha hf hleast => ?_⟩⟩
    · exact hrefused (acceptRoot_of_fail hh hb (by rw [acceptFail, if_neg ha]; rfl))
    · exact hrefused ((acceptRoot_of_unread hr).trans (congrArg (u.refuseLaunch vf seq) (BitVec.add_zero off).symm))
    · have hat : pkg = pkgOf (seen h b).at_ := congrArg pkgOf ((at_seeImages ..).trans (at_seeRead ..)).symm
      have hpass := acceptRoot_of_pass hh hb ((congrArg firstFail (if_pos ha)).trans (firstFail_of_all hall))
      refine ⟨(seen h b).copyPlace b.length, fun r hr => copyPlace_clear _ _ (hat ▸ hr), hc.trans (congrArg Host.Outcome.next (hpass.trans ?_))⟩
      rw [journal_putCopy]
      exact passWake_of_targets (congrArg (List.map · _) (standIn_modHome { seen h b with free := (seen h b).free + 1 } _ fun _ => rfl))
    · exact hrefused (acceptRoot_of_fail hh hb ((congrArg firstFail (if_pos ha)).trans (firstFail_of_least hf hleast)))
  · intro s m hv hw hh dev b r fails placed
    refine ⟨launchWake_of_residents_none hv hw hh, fun imgs hr hp => launchWake_of_placed_none hv hw hh hr hp, fun imgs v hr hp => ?_⟩
    refine ⟨enteredHandlers b imgs v.here.live.handlers (lpbNh b), fun ch => look_enteredHandlers_of_unnamed b imgs _, fun i hi hl => ?_, launchWake_of_placed hv hw hh hr hp⟩
    have hlast (j : Nat) (hj : i < j) (hjn : j < lpbNh b) : templateChannel b j ≠ templateChannel b i := fun he => hl j hj hjn (BitVec.eq_of_toNat_eq he)
    have hentry := look_enteredHandlers_of_last b imgs v.here.live.handlers hi hlast
    exact ⟨fun h63 => hentry.trans (entryFrom_of_invalid h63), fun h63 => hentry ▸ entryFrom_of_valid h63⟩
  · intro s m t l h u lid n waits heard
    have hclock : clock u = clock s := (show clock u = clock t from rfl).trans (clock_of_takes h.1)
    have hat : u.at_ = s.at_ := congrArg Prod.fst hclock
    refine ⟨fun he hl => ?_, fun he hl => ?_, fun hl => ⟨fun he => ?_, fun he => ?_⟩⟩
    · have hc {x : State} (hx : u.count lid m.ten m.src n = x) : Comes .launchVote s x := (launchVote_of_routed h he).trans (congrArg Host.Outcome.next hx)
      intro v clear fin end_
      refine ⟨fun hn => hc (count_of_more hl hn), fun hn hf d hd => ?_, fun hn hf hd ha => ?_⟩
      · refine hc ((count_of_up hl hn hf hd).trans ?_)
        rw [dropCopy_of_up hd, show (withoutLaunch u lid m.ten m.src).at_ = s.at_ from hat]
        rfl
      · have hend : u.count lid m.ten m.src n = (clear v).launchEnd l := (count_of_root hl hn hf hd).trans (congrArg (State.launchEnd · l) (dropCopy_of_root hd _))
        have hfin : clock fin = clock s := (clock_journalEnd (clear v) l).trans ((clock_clearCopy v l).trans hclock)
        refine ⟨fun h0 => hc (hend.trans (launchEnd_of_ck0 ha h0)), fun h1 => hc (hend.trans (launchEnd_of_ck1 ha h1)), fun h2 => hc (hend.trans ((launchEnd_of_ck2 ha h2).trans ?_))⟩
        rw [show (journalEnd (clear v) l).time = s.time from congrArg (·.2.1) hfin, show (journalEnd (clear v) l).home.downUntil = s.home.downUntil from congrArg (·.2.2) hfin]
        rfl
    · have hc {x : State} (hx : u.launchFailed lid m.ten m.src = x) : Comes .wakeFailure s x := (wakeFailure_of_routed h he).trans (congrArg Host.Outcome.next hx)
      exact ⟨fun hf => hc (launchFailed_of_failed hl hf), fun hf d hd => hc (launchFailed_of_up hl hf hd), fun hf hd => hc (launchFailed_of_root hl hf hd)⟩
    · exact (launchVote_of_routed h he).trans (congrArg Host.Outcome.next (count_of_none hl n))
    · exact (wakeFailure_of_routed h he).trans (congrArg Host.Outcome.next (launchFailed_of_none hl))
  · intro f v us now up close g
    refine ⟨?_, fun hu ho => coalesce_opens hu ho now up, fun hu o ho hv => ?_⟩
    · rintro rfl hup
      exact coalesce_at_once f v hup
    · have hg : g = { f with opened := f.opened.map (joinedWindow v close) } := coalesce_joins hu ho hv now up
      rw [hg, ← joinedWindow_of_eq close hv]
      exact ⟨rfl, List.mem_map_of_mem ho⟩
  · intro s f hf due
    refine congrArg Host.Outcome.next (congrArg (s.setPkg (pkgOf s.at_)) ?_)
    simp only [hf, closeWindows_eq]
    rfl

end Sys2Proof.Safety
end
